-- ==== Sys2Proof/Word.lean ====
section
/-! DEFINITION. The word types of the T816 model: register words, bytes, lines and line images (Table 0.4, R5, R6). -/

namespace Sys2Proof

/-- One BAR0 register, 64 bits; bit 0 is the least significant (R5). -/
abbrev Word := BitVec 64

/-- One byte. -/
abbrev Byte := BitVec 8

/-- The 64 data bytes of a line (Table 0.4); byte j stands at bits [8j+7:8j] (R6). -/
abbrev Line := BitVec 512

/-- The 80 bytes a line takes in DRAM: data at [511:0], the eight bytes of device 8 at [575:512] and
those of device 9 at [639:576] (R226). -/
abbrev Image := BitVec 640

/-- A 128-bit block of AES and GHASH; byte j of its byte string stands at [127-8j:120-8j] (R126). -/
abbrev Block := BitVec 128

end Sys2Proof
end

