-- ==== Sys2Proof/Syntax.lean ====
section
/-! DEFINITION. The commands of the block: one constructor of `Instr` for each row of spec/opcode_table.json, with the
operands that the row's rule names. What the surroundings bring about (a training result, a measured temperature, an
error pattern on the DRAM bus) is an operand too. -/

namespace Sys2Proof

/-- Who writes a register (Table 18.12): host software through function 0 of link l of PORT_p, Germ, a Bran core, the
BMC (R437), or the PWR sequencer over the husk link (R396). -/
inductive Master where
  | link (p l : Fin 4)
  | germ
  | bran (core : Fin 4)
  | bmc
  | sequencer
deriving DecidableEq, Repr

/-- SnpType of a MemRd (Table 4.2); `none_` is No-Op. -/
inductive SnpType where
  | data | inv | cur | none_
deriving DecidableEq, Repr

/-- The back-invalidates a home sends (R92, R93). -/
inductive BiKind where
  | data | inv | cur
deriving DecidableEq, Repr

/-- A host's answer to a BISnp: the line is left invalid, shared, or as it was for BISnpCur (Table 4.2). -/
inductive BiRsp where
  | i | s | e
deriving DecidableEq, Repr

/-- The atomics of Table 4.5. -/
inductive AtomicKind where
  | fetchAdd | swap | cas8 | cas16
deriving DecidableEq, Repr

/-- Where on its way a request's control parity stops checking (R21, Table 1.5): as its port receives it, at the key-slot
check, at admission, at the Sheaf, as its home receives it, inside the home's ordering queue, snoop-filter entry or open
transaction (R23), or at its channel. -/
inductive CtlStage where
  | port | key | admission | sheaf | home | order | channel
deriving DecidableEq, Repr

/-- The control fields of a request whose own parity does not check (R21), from the stage `stage` of its way on. -/
structure Parity where
  address : Bool
  command : Bool
  master : Bool
  key : Bool
  cls : Bool
  tag : Bool
  stage : CtlStage
deriving DecidableEq, Repr

/-- Every field checks. -/
def Parity.good : Parity := ⟨false, false, false, false, false, false, .port⟩

/-- What the SPD of a DIMM declares (R202, R344): an RDIMM with ECC, die density in Gb, dies in a stack, package ranks, device
width, rated MT/s and tRFC in ns. -/
structure DimmSpd where
  rdimmEcc : Bool
  densityGb : Nat
  stackHeight : Nat
  ranks : Nat
  width : Nat
  rate : Nat
  trfc : Nat
deriving DecidableEq, Repr

/-- What a CXL.mem response carries (Table 4.2, R496). -/
inductive RspKind where
  | data | cmp | cmpE | cmpS
deriving DecidableEq, Repr

/-- The two IDE streams of a link (R45, R46). -/
inductive IdeKind where
  | io | mem
deriving DecidableEq, Repr

/-- One SF_SYNC update (Table 12.4). -/
structure SfUpdate where
  free : Bool
  ldTag : Nat
  sector : Nat
  vector : BitVec 4
  aliasF : Nat
deriving DecidableEq, Repr

/-- FORM_REQ (Table 12.4). -/
structure FormReq where
  preferred : Bool
  serving : Bool
  fresh : Bool
  warmClean : Bool
  wasPrimary : Bool
  epoch : Nat
  gen : Nat
  compat : BitVec 384
  predecessor : BitVec 384
deriving DecidableEq, Repr

/-- The header of MIRROR_WR and MIRROR_PWR (Table 11.6) with the class of R248. -/
structure MirrorHdr where
  poison : Bool
  srcCq : Bool
  resync : Bool
  qos : Nat
  ldTag : Nat
  head : Nat
  tag : Nat
  epoch : Nat
  mirrorId : Nat
  key : Nat
  dpa : Nat
deriving DecidableEq, Repr

/-- Tiller messages (Tables 11.5 and 12.4). -/
inductive TilMsg where
  | mirrorWr (h : MirrorHdr) (data : Line)
  | mirrorPwr (h : MirrorHdr) (mask : BitVec 64) (data : Line)
  | mirrorAck (mirrorId result : Nat)
  | lineFetch (ldTag fetchId key dpa : Nat)
  | lineData (fetchId result : Nat) (data : Line)
  | sfSync (us : List SfUpdate)
  | sfReject (u : SfUpdate)
  | resyncReq (ldTag size dpa : Nat)
  | resyncZero (ldTag dpa : Nat)
  | resyncDone (ldTag size dpa : Nat) (all failed : Bool)
  | spdm (bytes : List Byte)
  | heartbeat (role : Nat) (synced : Bool) (epoch oldestOpen : Nat)
  | timeReq (t1 : Nat)
  | timeRsp (t2 t3 : Nat)
  | formReq (r : FormReq)
  | formRsp (result : Nat) (copy senderPrimary : Bool)
  | handover (epoch : Nat)
  | leave
deriving DecidableEq, Repr

/-- The link-control fields of a flit header (Table 11.3). -/
structure FlitCtl where
  ack : Nat
  ackValid : Bool
  nak : Bool
  nakSeq : Nat
  crSel : Fin 8
  crCount : Nat
deriving DecidableEq, Repr

/-- What a received flit brings beside its content: its link-control fields, whether its TYPE is a reserved one (4–15) instead
of its own, and how many codewords the receiver has corrected since the flit before (R266, R270). -/
structure RxFlit where
  ctl : FlitCtl
  reserved : Bool
  corrected : Nat
deriving DecidableEq, Repr

/-- A key message (Table 5.3) as it arrives: its link, whether inside a secured session, and its payload. -/
structure KeyMsg where
  port : Fin 4
  link : Fin 4
  secured : Bool
  payload : List Byte
deriving DecidableEq, Repr

/-- The header of an SPDM request, with the offset and length that GET_CERTIFICATE carries. -/
structure SpdmReq where
  version : Nat
  code : Nat
  param1 : Nat
  param2 : Nat
  offset : Nat
  length : Nat
deriving DecidableEq, Repr

/-- What Germ finds in an SPDM message over the Tiller link (R287): a message of the exchange, the last one, after which
Germ checks the peer by what it says, namely where its chains end, its measurement 7 and the hash of its device key, or the peer's answer to the own LINK_KEY. -/
inductive SpdmStep where
  | exchange
  | checked (zalouxRoot sameOwnerRoot fiDisabled : Bool) (keyHash : BitVec 384)
  | keyAnswer
deriving DecidableEq, Repr

/-- What training of a channel finds for one package rank (R217, R218). -/
inductive TrainFault where
  | rank (r : Fin 4)
  | dimm
deriving DecidableEq, Repr


/-- The commands. Each constructor is a row of spec/opcode_table.json. `p` is a port, `l` a link of it, `k` a spikelet,
`x` a channel, `o` an output, `m` the writer of a register, `v` the value written, `par` the control fields whose
parity does not check, and from which stage on, `noise` the error pattern on the DRAM bus during the access. -/
inductive Instr where
  /- Power, bring-up (chapters 13, 14, 16) -/
  | powerOn (bmcMode : Bool) (bmcAddr : BitVec 2)
  | vddAuxLost
  | powerGoodRise (rngOk : Bool)
  | powerGoodFall
  | coldStartImage
  | coldStartRails
  | coldStartPower
  | spdCheckDone (x : Fin 16) (spd0 spd1 : Option DimmSpd)
  | pmicPowerGood (x : Fin 16)
  | pmicTimeout (x : Fin 16)
  | channelTrained (x : Fin 16) (faults : List TrainFault) (temp0 temp1 : Int)
  | coldStartKeys
  | coldStartFill
  | coldStartLoad
  | release
  | warmResumeDram
  | channelRestore (x : Fin 16) (snapshotOk : Bool) (temp0 temp1 : Int) (fails : List TrainFault)
  | warmResumeCulm
  /- Host ports (chapter 2) -/
  | perstAssert (p : Fin 4)
  | perstRelease (p : Fin 4)
  | linkTrained (p l : Fin 4) (width speed : Nat) (flit256 : Bool)
  | linkLaneLoss (p l : Fin 4) (good : Nat)
  | linkRecoveryDone (p l : Fin 4) (width : Nat)
  | linkDown (p l : Fin 4)
  | ideIntegrityFailure (p l : Fin 4) (tags : List Nat)
  | ideKmKeyProg (p l : Fin 4) (secured : Bool) (kind : IdeKind) (key : BitVec 256)
  | ideKmKSetGo (p l : Fin 4) (secured : Bool) (kind : IdeKind)
  | portCtlEnable (m : Master) (p : Fin 4) (v : Word)
  | portCtlDisable (m : Master) (p : Fin 4) (v : Word)
  | drainTimeout (p : Fin 4)
  | decoderCommit (p : Fin 4) (ld : Fin 16) (d : Fin 4) (base size ig iw : Nat)
  | decMapWrite (m : Master) (p : Fin 4) (ld : Fin 16) (d : Fin 4) (v : Word)
  | memRd (p l : Fin 4) (ld : Fin 16) (tag hpa : Nat) (snp : SnpType) (par : Parity)
  | memWr (p l : Fin 4) (ld : Fin 16) (tag hpa : Nat) (data : Line) (poison : Bool) (par : Parity)
  | memWrPtl (p l : Fin 4) (ld : Fin 16) (tag hpa : Nat) (data : Line) (be : BitVec 64) (par : Parity)
  | memInv (p l : Fin 4) (ld : Fin 16) (tag hpa : Nat) (par : Parity)
  | memClnEvct (p l : Fin 4) (ld : Fin 16) (tag hpa : Nat) (par : Parity)
  | admissionWindow
  /- Sheaf (chapter 3) -/
  | walkStart
  | walkRead (w : Nat) (noise : Image) (par : Parity)
  | sheafFill (m : Master) (v : Word)
  | sheafInvalidate (m : Master) (v : Word)
  | invTimeout
  | walkCacheFlush (m : Master) (v : Word)
  | pinnedReinstall
  /- Home (chapters 4 and 5) -/
  | homeRequest (k : Fin 8) (n : Nat) (par : Parity)
  | holdEnd (k : Fin 8) (tid : Nat)
  | birsp (p : Fin 4) (bid : Nat) (rsp : BiRsp) (par : Parity)
  | biConflict (p : Fin 4) (bid : Nat) (par : Parity)
  | biTimeout (k : Fin 8) (sid : Nat)
  | homeMemoryDone (k : Fin 8) (tid : Nat) (noise : Image)
  | culmNodeFetchDone (k : Fin 8) (mpa : Nat) (noise : Image) (par : Parity)
  | reencryptionDone (k : Fin 8) (base : Nat)
  | culmRetagDone (k : Fin 8) (base : Nat)
  | homeResponse (p : Fin 4) (rid : Nat)
  | pageHold (m : Master) (k : Fin 8) (v : Word)
  | pageRelease (m : Master) (k : Fin 8) (v : Word)
  | pageRecall (m : Master) (k : Fin 8) (v : Word)
  | parkRetryResend (p : Fin 4) (rid : Nat)
  | orderedModeWrite (m : Master) (k : Fin 8) (v : Word)
  /- Key slots (chapter 5) -/
  | loadGen (m : Master) (slot : Fin 4096)
  | loadKey (m : Master) (slot : Fin 4096)
  | setPolicy (m : Master) (slot : Fin 4096)
  | retire (m : Master) (slot : Fin 4096)
  | query (m : Master) (slot : Fin 4096)
  | badOp (m : Master) (op : Fin 16) (slot : Fin 4096)
  | retireDrainComplete
  | retireTimeout
  | keyMsgLoad (km : KeyMsg)
  | keyMsgRetire (km : KeyMsg)
  | keyMsgRegen (km : KeyMsg)
  | keyMsgPolicy (km : KeyMsg)
  | keyMsgQuery (km : KeyMsg)
  | spdmRequest (p l : Fin 4) (h : SpdmReq)
  | doeDiscovery (p l : Fin 4) (index : Nat)
  | cdatTableAccess (p l : Fin 4)
  /- Glume and tiering (chapters 6 and 7) -/
  | compressionJobDone (k : Fin 8) (jid : Nat) (streams : List (List Byte))
  | forwardRepoint (k : Fin 8) (desc : Nat)
  | stockRefill (k : Fin 8)
  | hotEpoch
  | heldWriteRelease (pool : Fin 2)
  | migrationRecall (mid : Nat)
  | migrationCopy (mid : Nat) (noise : Image) (par : Parity)
  | migrationRelease (mid : Nat)
  /- Gate proposals (chapters 7, 9, 10, 12, 13, 16, 17) -/
  | promote (core : Fin 4) (id ldTag dpa : Nat)
  | demote (core : Fin 4) (id ldTag dpa : Nat)
  | retirePage (core : Fin 4) (id mpa : Nat)
  | retireBank (core : Fin 4) (id chan rank subch bg ba : Nat)
  | portEnable (core : Fin 4) (id port : Nat)
  | portDisable (core : Fin 4) (id port : Nat)
  | qosSet (core : Fin 4) (id off : Nat) (v : Word)
  | scrubSet (core : Fin 4) (id mask enable rate reserve : Nat)
  | pin (core : Fin 4) (id ldTag dpa size : Nat)
  | unpin (core : Fin 4) (id ldTag dpa size : Nat)
  | leave (core : Fin 4) (id : Nat)
  | handover (core : Fin 4) (id : Nat)
  | reload (core : Fin 4) (id copy : Nat)
  | reloadDrainTimeout
  | reloadReset
  | rest (core : Fin 4) (id : Nat)
  | badProposal (core : Fin 4) (bytes : BitVec 256)
  | gateOverrun (core : Fin 4) (tail : Fin 256)
  /- Memory channels (chapters 8 and 9) -/
  | refab (x : Fin 16) (t : Nat)
  | refreshEnd (x : Fin 16) (t : Nat)
  | dimmTempRead (x : Fin 16) (t0 t1 : Option Int)
  | neighborRefreshSlice2 (x : Fin 16) (row : Nat)
  | actCountWindow (x : Fin 16)
  | recalForce (m : Master) (x : Fin 16) (v : Word)
  | recalRunDone (x : Fin 16)
  | calStep (x : Fin 16)
  | calTargetWrite (m : Master) (x : Fin 16) (v : Word)
  | scrubRead (x : Fin 16) (noise : Image) (par : Parity)
  | caParityError (x : Fin 16) (mpa tries : Nat)
  | rankCopy (m : Master) (x : Fin 16) (v : Word)
  | bankCopy (m : Master) (x : Fin 16) (v : Word)
  | rankCopyLine (x : Fin 16) (noise : Image) (par : Parity)
  /- Tiller link (chapter 11) -/
  | tilDownIdleEnd
  | holdDownWrite (m : Master) (v : Word)
  | tilDownCommand (m : Master) (v : Word)
  | tilLanesAdapted
  | tilTrainTimeout
  | tilQuadsLocked
  | tilAttestTimeout
  | lockLoss (q : Fin 4)
  | idleFlit (rx : RxFlit)
  | dataFlit (rx : RxFlit) (seq : Nat) (payload : BitVec 1888)
  | macFlit (rx : RxFlit) (seq : Nat) (payload : BitVec 1888)
  | initFlit (rx : RxFlit) (payload : BitVec 1888)
  | nakResend
  | pairTimeout
  | linkKey (key : BitVec 256) (fixed : BitVec 32) (start : Nat)
  | tillerSpdm (st : SpdmStep)
  | attestDone
  /- Pair operation (chapter 12) -/
  | mirrorWr (h : MirrorHdr) (data : Line) (par : Parity)
  | mirrorPwr (h : MirrorHdr) (mask : BitVec 64) (data : Line) (par : Parity)
  | mirrorAck (mirrorId result : Nat)
  | lineFetch (ldTag fetchId key dpa : Nat) (par : Parity)
  | lineData (fetchId result : Nat) (data : Line)
  | sfSync (us : List SfUpdate)
  | sfReject (u : SfUpdate)
  | resyncReq (ldTag size dpa : Nat) (par : Parity)
  | resyncZero (ldTag dpa : Nat) (par : Parity)
  | resyncDone (ldTag size dpa : Nat) (all failed : Bool)
  | resyncCopyPage
  | resyncListResend
  | heartbeatSend
  | heartbeat (role : Nat) (synced : Bool) (epoch oldestOpen : Nat)
  | hbMiss
  | timeReqSend
  | timeReq (t1 : Nat)
  | timeRsp (t2 t3 : Nat)
  | formReq (r : FormReq)
  | formRspSend
  | formRsp (result : Nat) (copy senderPrimary : Bool)
  | handoverMsg (epoch : Nat)
  | leaveMsg
  | formWaitExpiry
  | promoteGraceExpiry
  | pairFenceLow
  | pairFenceReleased
  | ownAssert
  | ownConflict
  | watchdogExpiry
  | promoteStart
  | promoteSealed
  | primaryResolveOpen
  | syncLagExpiry
  | reissueWindowEnd
  | handoverSend
  | pairCtlHandover (m : Master) (v : Word)
  | pairCtlLeave (m : Master) (v : Word)
  /- Husk die (chapter 15) -/
  | feedQualify (b : Fin 2) (mv : Nat)
  | feedUnderVoltage (b : Fin 2) (mv : Nat)
  | feedOverVoltage (b : Fin 2) (mv : Nat)
  | reverseCurrent (b : Fin 2) (mv : Nat)
  | inputLost (mv : Nat)
  | insertionDelayEnd
  | outputOn (m : Master) (o : Fin 4)
  | outputOff (m : Master) (o : Fin 4)
  | outputRampStart (o : Fin 4)
  | rampDone (o : Fin 4) (mv : Nat)
  | enhanceDone (o : Fin 4)
  | currentLimit (o : Fin 4) (ma : Nat)
  | limitClear (o : Fin 4) (ma : Nat)
  | fastTrip (o : Fin 4) (ma : Nat)
  | faultTimer (o : Fin 4)
  | curveTrip (o : Fin 4)
  | rampTimeout (o : Fin 4)
  | fetOpen (o : Fin 4)
  | fetShort (o : Fin 4)
  | outputDischarged (o : Fin 4) (mv : Nat)
  | cooldownEnd (o : Fin 4) (mv : Nat)
  | huskSealArm (m : Master) (v : Word)
  | huskLinkLost
  | pfwAssert (mv : Nat)
  | pfwRelease (mv : Nat)
  /- Power states (chapter 16) and firmware (chapter 1) -/
  | pfwNLow
  | pfwNHigh
  | pwrCtlRest (m : Master) (v : Word)
  | stookDrain
  | stookMirrorTimeout
  | stookDrop
  | stookFlush
  | stookSeal
  | stookSelfRefresh
  | stookHold
  | stookPartner
  | wakeN (low : Bool)
  | wakeAlarm
  | wakePerst (p : Fin 4) (lastCycles : Bool)
  | clockGate (d : Fin 64)
  | dozeEntry
  | dozeExit
  | avsRequest (m : Master) (v : Word)
  | avsAck
  | avsTimeout
  | germRestart
  | germRestartDone
  | branRestart
  /- Command queues (chapter 17): `n` the pair, `i` the CMD_ID of the taken descriptor -/
  | qpEnable (m : Master) (n : Fin 64) (v : Word)
  | sqTailWrite (m : Master) (n : Fin 64) (v : Word)
  | cqHeadWrite (m : Master) (n : Fin 64) (v : Word)
  | zero (n : Fin 64) (i : Nat) (par : Parity)
  | discard (n : Fin 64) (i : Nat) (par : Parity)
  | copy (n : Fin 64) (i : Nat) (par : Parity)
  | fetchAdd (n : Fin 64) (i : Nat) (par : Parity)
  | swap (n : Fin 64) (i : Nat) (par : Parity)
  | cas8 (n : Fin 64) (i : Nat) (par : Parity)
  | cas16 (n : Fin 64) (i : Nat) (par : Parity)
  | hintHot (n : Fin 64) (i : Nat) (par : Parity)
  | hintCold (n : Fin 64) (i : Nat) (par : Parity)
  | cqPin (n : Fin 64) (i : Nat) (par : Parity)
  | cqUnpin (n : Fin 64) (i : Nat) (par : Parity)
  | flush (n : Fin 64) (i : Nat)
  | loopback (n : Fin 64) (i : Nat) (failures : BitVec 128)
  | badDesc (n : Fin 64) (i : Nat)
  /- The mailbox (R48) -/
  | identify (p l : Fin 4)
  | backgroundOperationStatus (p l : Fin 4)
  | getResponseMessageLimit (p l : Fin 4)
  | getEventRecords (p l : Fin 4) (log : Nat)
  | clearEventRecords (p l : Fin 4) (log : Nat) (all : Bool) (handles : List Nat)
  | getEventInterruptPolicy (p l : Fin 4)
  | setEventInterruptPolicy (p l : Fin 4) (modes : List Nat)
  | getFwInfo (p l : Fin 4)
  | transferFw (p l : Fin 4) (action slot off : Nat) (bytes : List Byte)
  | activateFw (p l : Fin 4) (online : Bool) (slot : Nat)
  | getTimestamp (p l : Fin 4)
  | setTimestamp (p l : Fin 4) (ns : Nat)
  | getSupportedLogs (p l : Fin 4)
  | getLog (p l : Fin 4) (off len : Nat)
  | identifyMemoryDevice (p l : Fin 4)
  | getPartitionInfo (p l : Fin 4)
  | getHealthInfo (p l : Fin 4)
  | getAlertConfiguration (p l : Fin 4)
  | setAlertConfiguration (p l : Fin 4) (v : Word)
  | getShutdownState (p l : Fin 4)
  | setShutdownState (p l : Fin 4) (st : Nat)
  | getPoisonList (p l : Fin 4) (ld : Fin 16) (dpa lines : Nat)
  | injectPoison (p l : Fin 4) (ld : Fin 16) (dpa : Nat)
  | clearPoison (p l : Fin 4) (ld : Fin 16) (dpa : Nat) (data : Line)
  | getScanMediaCapabilities (p l : Fin 4) (ld : Fin 16) (dpa lines : Nat)
  | scanMedia (p l : Fin 4) (ld : Fin 16) (dpa lines : Nat)
  | getScanMediaResults (p l : Fin 4)
  | sanitize (p l : Fin 4) (ld : Fin 16)
  | secureErase (p l : Fin 4) (ld : Fin 16)
  | getLdInfo (p l : Fin 4)
  | getLdAllocations (p l : Fin 4)
  | unsupportedOpcode (p l : Fin 4) (opcode : Nat)
  | bootFlashWrite (core : Fin 4) (off : Nat) (bytes : List Byte)
  /- The BMC (R437) -/
  | mctpControl (msg : List Byte)
  | pldmType0 (msg : List Byte)
  | pldmType2 (sensor : Nat)
  | zalouxVendorMessage (off : Nat)
  /- Status headers and registers (chapters 18, 19, 22) -/
  | causeClear (m : Master) (b : Fin 40) (v : BitVec 32)
  | causeMaskWrite (m : Master) (b : Fin 40) (v : BitVec 32)
  | feRearm (m : Master) (b : Fin 40)
  | forceReport (m : Master) (b : Fin 40) (v : BitVec 32)
  | forceArm (m : Master) (b : Fin 40) (v : BitVec 32)
  | forceDisarm (m : Master) (b : Fin 40)
  | injectionOrderedMode
  | badAccess (m : Master) (off width : Nat) (write : Bool)
  | registerWrite (m : Master) (off width : Nat) (v : Word)
  | perfSelWrite (m : Master) (n : Fin 192) (v : Word)
  | perfCountWrite (m : Master) (n : Fin 192) (v : Word)
  | clearAll (m : Master) (v : Word)
  | freeze (m : Master) (v : Word)
  | windowEn (m : Master) (v : Word)
  | perfWindowStart
  | windowDone
  /- Clocks, thermal and late rows (chapters 11, 14, 15, 16, 20, 21) -/
  | pllUnlock (d : Fin 64)
  | timebaseRelock
  | thermalWarn (die : Fin 2) (quarterC : Int)
  | thermalTrip (die : Fin 2) (quarterC : Int)
  | failedFlit (crc : Bool) (codewords : Nat)
  | symbolLockLost (q : Fin 4)
  | symbolLockRegained (q : Fin 4)
  | outputRegulationTimeout (o : Fin 4)
  | regulationFloorCrossed (o : Fin 4) (mv : Nat)
  | breakerCurveSample (c0 c1 c2 c3 : Nat)
  | latchedWakeRelease
  | pairPeerOwnNChange (high : Bool)
  | linkL1Entry (p l : Fin 4)
  | pmicFault (x : Fin 16)
deriving DecidableEq, Repr

end Sys2Proof
end

