-- ==== Sys2Proof/Decode.lean ====
section
/-! DEFINITION. The command that a word spells: no row of spec/opcode_table.json gives bits, so no word spells one. -/

namespace Sys2Proof

/-- The block has no encodings: its commands come as register accesses, protocol messages and pin events. -/
def decodeTableWord (_nbits _w : Nat) : Option Instr := none

end Sys2Proof
end

