-- ==== Sys2Proof/Config.lean ====
section
/-! DEFINITION. What the spec leaves open: free values, opaque constants that no proof can evaluate (log entry 4), and
the constants the spec names by words alone. A command that draws a free value applies the constant to the counter
`State.free` and advances the counter. -/

namespace Sys2Proof.Config

/-- A draw of the on-chip random bit generator (R121, R122, R131, R287, R496). -/
opaque randomBits : Nat → BitVec 256

/-- A choice the spec leaves free among `n` possibilities; the machine takes it modulo n (R66 pseudo-LRU,
R177, R184, R188, R240: which page, descriptor, granule or spare). -/
opaque choice : Nat → Nat

/-- The content of an answer whose format belongs to a cited standard and whose values the spec does not state
(CXL mailbox, DOE, SPDM, MCTP and PLDM payloads; R43, R44, R48, R437). -/
opaque payload : Nat → BitVec 512

/-- The hash that indexes a hot table, from LD tag and DPA[44:12], to a set (R186: "a hash of LD tag and DPA"). -/
opaque hotHash : Nat → Nat → Nat

/-- The effects that the Command Effects Log states for a mailbox opcode (R48: Get Log; the standard's content). -/
opaque commandEffects : Nat → BitVec 16

/-- A calibration value that training or recalibration finds (R217, R221, R223). -/
opaque calibration : Nat → BitVec 16

/-- The rows that a channel's activate-count table names when memory fill ends, each with its count: the activates of fill are
counted, but no rule orders them within its five kinds of lines (R211, R234). -/
opaque fillRows : Nat → List (Nat × Nat)

/-- How many entries of a channel's table the activates of fill evicted, and how many neighbour refreshes they caused, beyond the
first (R211 to R213). -/
opaque fillFallback : Nat → Nat
opaque fillRefreshes : Nat → Nat

end Sys2Proof.Config
end

