-- ==== Sys2Proof/Machine/Bits.lean ====
section
/-! DEFINITION. Bit-field, byte and byte-order helpers that the rest of the machine uses (R5, R6). -/

namespace Sys2Proof.Machine

/-- Bits [lo+w-1:lo] of a natural number. -/
def bitsAt (x lo w : Nat) : Nat := (x >>> lo) % 2 ^ w

/-- The field [lo+w-1:lo] of a register word, as a number (R5). -/
def field (x : Word) (lo w : Nat) : Nat := bitsAt x.toNat lo w

/-- One bit of a register word. -/
def flag (x : Word) (i : Nat) : Bool := x.getLsbD i

/-- The word with `v` placed at [.. :lo] and zero elsewhere; the caller keeps `v` inside the field. -/
def place (lo v : Nat) : Word := BitVec.ofNat 64 (v <<< lo)

/-- The mask of the field [lo+w-1:lo]. -/
def maskOf (lo w : Nat) : Word := BitVec.ofNat 64 ((2 ^ w - 1) <<< lo)

/-- The word `x` with the field [lo+w-1:lo] replaced by `v` modulo 2^w. -/
def setField (x : Word) (lo w v : Nat) : Word :=
  (x &&& ~~~ maskOf lo w) ||| place lo (v % 2 ^ w)

/-- One bit as a number. -/
def bit (b : Bool) : Nat := if b then 1 else 0

/-- Byte `j` of a line (R6). -/
def lineByte (x : Line) (j : Nat) : Byte := x.extractLsb' (8 * j) 8

/-- Byte `j` of the data of a line image, or of its check bytes for j = 64 .. 79 (R226). -/
def imgByte (x : Image) (j : Nat) : Byte := x.extractLsb' (8 * j) 8

/-- A list of bytes read as one little-endian number, byte 0 first (R6). -/
def bytesToNat : List Byte → Nat
  | [] => 0
  | b :: bs => b.toNat + 256 * bytesToNat bs

/-- The little-endian bytes of a number (R6). -/
def natToBytes : Nat → Nat → List Byte
  | 0, _ => []
  | n + 1, x => BitVec.ofNat 8 x :: natToBytes n (x / 256)

/-- A list of bytes read as one big-endian number, the first byte highest. -/
def bytesToNatBE (bs : List Byte) : Nat := bs.foldl (fun a b => a * 256 + b.toNat) 0

/-- The big-endian bytes of a number. -/
def natToBytesBE (n x : Nat) : List Byte := (natToBytes n x).reverse

/-- The line whose bytes are the list, missing bytes zero. -/
def lineOfBytes (bs : List Byte) : Line := BitVec.ofNat 512 (bytesToNat bs)

/-- The 64 bytes of a line. -/
def lineBytes (x : Line) : List Byte := natToBytes 64 x.toNat

/-- A 16-byte string taken from a little-endian 128-bit value: byte j of the string is bits [8j+7:8j] (R126). -/
def blockOfLE (x : BitVec 128) : Block :=
  BitVec.ofNat 128 (bytesToNatBE (natToBytes 16 x.toNat))

/-- The little-endian 128-bit value of a 16-byte string (R126). -/
def blockToLE (x : Block) : BitVec 128 :=
  BitVec.ofNat 128 (bytesToNat (natToBytesBE 16 x.toNat))

/-- A saturating counter of `w` bits goes up by `n`. -/
def satAdd (w x n : Nat) : Nat := min (x + n) (2 ^ w - 1)

/-- The base-two logarithm of a power of two. -/
def log2Of (n : Nat) : Nat := Nat.log2 n

/-- `x` with its low `w` bits cleared: the base of the naturally aligned unit of 2^w bytes (R4). -/
def alignDown (x w : Nat) : Nat := (x >>> w) <<< w

/-- The physical line, granule, block and page bases of an address (Table 0.4). -/
def lineBase (x : Nat) : Nat := alignDown x 6
def granuleBase (x : Nat) : Nat := alignDown x 8
def blockBase (x : Nat) : Nat := alignDown x 10
def pageBase (x : Nat) : Nat := alignDown x 12

end Sys2Proof.Machine
end

