-- ==== Sys2Proof/Machine/Ecc.lean ====
section
/-! DEFINITION. The strong and the light check codes and the forms of a line (R226 to R231). -/

namespace Sys2Proof.Machine

/-- Multiplication by α = 0x02 in GF(2^8) with 0x11D (R227). -/
def mulAlpha (b : Byte) : Byte := if b.getLsbD 7 then (b <<< 1) ^^^ 0x1D else b <<< 1

/-- Multiplication by α^d. -/
def mulAlphaPow : Nat → Byte → Byte
  | 0, b => b
  | d + 1, b => mulAlphaPow d (mulAlpha b)

/-- The product in GF(2^8) with 0x11D. -/
def gf256Mul (a b : Byte) : Byte :=
  (List.range 8).foldl (fun r i => if a.getLsbD i then r ^^^ mulAlphaPow i b else r) 0

/-- The inverse of 0x27 = α^8 ⊕ α^9 (R227). -/
def inv27 : Byte := 0x8A

/-- Symbol d of codeword i of an image: byte i of device d (R226). Data byte 8i + d for d below 8, check byte i of
device 8 or 9 above. -/
def symbol (x : Image) (i d : Nat) : Byte :=
  if d < 8 then imgByte x (8 * i + d) else imgByte x (64 + 8 * (d - 8) + i)

/-- The byte of an image at which symbol d of codeword i stands. -/
def symbolByte (i d : Nat) : Nat := if d < 8 then 8 * i + d else 64 + 8 * (d - 8) + i

/-- The data sums X0 and X1 of codeword i of a line (R227). -/
def dataX0 (l : Line) (i : Nat) : Byte := (List.range 8).foldl (fun a d => a ^^^ lineByte l (8 * i + d)) 0
def dataX1 (l : Line) (i : Nat) : Byte :=
  (List.range 8).foldl (fun a d => a ^^^ mulAlphaPow d (lineByte l (8 * i + d))) 0

/-- The check symbols 9 and 8 of codeword i (R227). -/
def check9 (l : Line) (i : Nat) : Byte := gf256Mul inv27 (dataX1 l i ^^^ mulAlphaPow 8 (dataX0 l i))
def check8 (l : Line) (i : Nat) : Byte := dataX0 l i ^^^ check9 l i

/-- The image of a line from its data, the eight bytes of device 8 and the eight of device 9. -/
def mkImage (l : Line) (dev8 dev9 : BitVec 64) : Image :=
  BitVec.setWidth 640 l ||| (BitVec.setWidth 640 dev8 <<< 512) ||| (BitVec.setWidth 640 dev9 <<< 576)

/-- The data and the two check devices of an image. -/
def imageData (x : Image) : Line := x.extractLsb' 0 512
def imageDev8 (x : Image) : BitVec 64 := x.extractLsb' 512 64
def imageDev9 (x : Image) : BitVec 64 := x.extractLsb' 576 64

/-- Eight bytes as a 64-bit value, byte i at [8i+7:8i]. -/
def packBytes (f : Nat → Byte) : BitVec 64 :=
  BitVec.ofNat 64 (bytesToNat ((List.range 8).map f))

/-- One byte in all eight places. -/
def repByte (b : Byte) : BitVec 64 := packBytes fun _ => b

/-- The forms of a line (Table 9.2); `plain` is SPILL under the strong code and LIGHT under the light code. -/
inductive Form where
  | plain
  | awn
  | poison
deriving DecidableEq, Repr

/-- The strong and light masks of a form (Table 9.2). -/
def strongMask : Form → Byte
  | .plain => 0
  | .awn => 0xA5
  | .poison => 0x5A
def lightMask : Form → Byte
  | .plain => 0
  | .awn => 0
  | .poison => 0xFF

/-- The strong-code image of a line in a form (R227, R230). -/
def strongEncode (f : Form) (l : Line) : Image :=
  mkImage l (packBytes (check8 l) ^^^ repByte (strongMask f)) (packBytes (check9 l) ^^^ repByte (strongMask f))

/-- The syndromes of codeword i (R227). -/
def synd0 (x : Image) (i : Nat) : Byte := (List.range 10).foldl (fun a d => a ^^^ symbol x i d) 0
def synd1 (x : Image) (i : Nat) : Byte := (List.range 10).foldl (fun a d => a ^^^ mulAlphaPow d (symbol x i d)) 0

/-- What decoding one codeword or word finds. -/
inductive WordResult where
  | valid
  | fix (unit : Nat)
  | bad
deriving DecidableEq, Repr

/-- Codeword i of an image, its mask removed: valid, one symbol to correct, or uncorrectable (R228). -/
def strongWord (x : Image) (i : Nat) : WordResult :=
  let s0 := synd0 x i
  let s1 := synd1 x i
  if s0 = 0 ∧ s1 = 0 then .valid
  else if s0 = 0 then .bad
  else match (List.range 10).find? fun d => s1 == mulAlphaPow d s0 with
    | some d => .fix d
    | none => .bad

/-- XOR of one byte into byte `j` of an image. -/
def xorByte (x : Image) (j : Nat) (b : Byte) : Image := x ^^^ (BitVec.setWidth 640 b <<< (8 * j))

/-- The decode of a line in one form: the corrected image with the mask removed and the devices or check positions
that were corrected; none when a codeword is uncorrectable (R228, R231). -/
def strongDecode (x : Image) : Nat → Option (Image × List Nat)
  | 0 => some (x, [])
  | i + 1 =>
    match strongDecode x i with
    | none => none
    | some (y, fixed) =>
      match strongWord x i with
      | .valid => some (y, fixed)
      | .fix d => some (xorByte y (symbolByte i d) (synd0 x i), fixed ++ [d])
      | .bad => none

/-- An image with the strong mask of a form removed (or put back). -/
def strongUnmask (f : Form) (x : Image) : Image :=
  x ^^^ mkImage 0 (repByte (strongMask f)) (repByte (strongMask f))

/-! ## The light code -/

/-- The number of ones of a byte. -/
def weight (b : Nat) : Nat := (List.range 8).foldl (fun n i => n + bit (b.testBit i)) 0

/-- The parity-check columns of the data bits (R229). -/
def lightColumns : List Nat :=
  ((List.range 256).filter fun b => weight b == 3) ++ (((List.range 256).filter fun b => weight b == 5).take 8)

/-- XOR of the columns of the data bits that are 1. -/
def lightSum : List Nat → Nat → Nat
  | [], _ => 0
  | c :: cs, w => (if w % 2 = 1 then c else 0) ^^^ lightSum cs (w / 2)

/-- The check byte of word i of a line (R229). -/
def lightCheck (l : Line) (i : Nat) : Byte :=
  BitVec.ofNat 8 (lightSum lightColumns (l.extractLsb' (64 * i) 64).toNat)

/-- The light-code image of a line in a form, with the eight bytes of device 9 (R226, R229, R230). -/
def lightEncode (f : Form) (l : Line) (dev9 : BitVec 64) : Image :=
  mkImage l (packBytes (lightCheck l) ^^^ repByte (lightMask f)) dev9

/-- The syndrome of word i. -/
def lightSynd (x : Image) (i : Nat) : Nat :=
  lightSum lightColumns ((imageData x).extractLsb' (64 * i) 64).toNat ^^^ (imgByte x (64 + i)).toNat

/-- Word i, its mask removed: valid, one bit to correct (0 to 63 a data bit, 64 to 71 a check bit), or uncorrectable
(R229). -/
def lightWord (x : Image) (i : Nat) : WordResult :=
  let s := lightSynd x i
  if s = 0 then .valid
  else match (List.range 64).find? fun b => lightColumns.getD b 0 == s with
    | some b => .fix b
    | none => match (List.range 8).find? fun j => 2 ^ j == s with
      | some j => .fix (64 + j)
      | none => .bad

/-- The position in an image of a corrected bit of word i, and its device (R226). -/
def lightBitPos (i b : Nat) : Nat := if b < 64 then 64 * i + b else 512 + 8 * i + (b - 64)
def lightBitDevice (b : Nat) : Nat := if b < 64 then b / 8 else 8

/-- The decode of a light-code line in one form, the mask removed (R229, R231). -/
def lightDecode (x : Image) : Nat → Option (Image × List Nat)
  | 0 => some (x, [])
  | i + 1 =>
    match lightDecode x i with
    | none => none
    | some (y, fixed) =>
      match lightWord x i with
      | .valid => some (y, fixed)
      | .fix b => some (y ^^^ ((1 : BitVec 640) <<< lightBitPos i b), fixed ++ [lightBitDevice b])
      | .bad => none

/-- An image with the light mask of a form removed (or put back). -/
def lightUnmask (f : Form) (x : Image) : Image := x ^^^ mkImage 0 (repByte (lightMask f)) 0

/-! ## Decoding a line -/

/-- The code and the forms allowed for an access (R231). -/
structure CodeChoice where
  strong : Bool
  awnAllowed : Bool
deriving DecidableEq, Repr

/-- The forms tried (R231). -/
def formsOf (c : CodeChoice) : List Form :=
  if c.strong && c.awnAllowed then [.plain, .awn, .poison] else [.plain, .poison]

/-- The decode in one form: the corrected image without its mask, and the corrected devices. -/
def decodeForm (c : CodeChoice) (x : Image) (f : Form) : Option (Image × List Nat) :=
  if c.strong then strongDecode (strongUnmask f x) 8 else lightDecode (lightUnmask f x) 8

/-- The outcome of decoding a line (R231). -/
inductive Decoded where
  | line (f : Form) (img : Image) (fixed : List Nat)
  | uncorrectable
  | ambiguous
deriving DecidableEq, Repr

/-- R231: the line decodes in exactly one of the forms allowed, in none, or in more than one. -/
def decodeLine (c : CodeChoice) (x : Image) : Decoded :=
  match (formsOf c).filterMap fun f => (decodeForm c x f).map fun r => (f, r) with
  | [] => .uncorrectable
  | [(f, (img, fixed))] => .line f img fixed
  | _ => .ambiguous

/-- The poison pattern under a code (R230). -/
def poisonImage (strong : Bool) : Image :=
  if strong then strongEncode .poison 0 else lightEncode .poison 0 0

/-- A corrected image with its form's mask put back: what the scrubber rewrites (R236). -/
def remask (strong : Bool) (f : Form) (x : Image) : Image :=
  if strong then strongUnmask f x else lightUnmask f x

end Sys2Proof.Machine
end

