-- ==== Sys2Proof/Machine/KMap.lean ====
section
/-! DEFINITION. Sparse tables as plain data: sorted lists of key and value, canonical against a default. -/

namespace Sys2Proof.Machine

/-- A sparse table: keys strictly rising; no entry equals the default of the table. -/
abbrev KMap (α : Type) := List (Nat × α)

/-- The value at `k`; an unlisted key reads as the default. -/
def kget {α : Type} (d : α) : KMap α → Nat → α
  | [], _ => d
  | (j, v) :: m, k => if k = j then v else if k < j then d else kget d m k

/-- The table with the entry at `k` removed. -/
def kdel {α : Type} : KMap α → Nat → KMap α
  | [], _ => []
  | (j, v) :: m, k => if k = j then m else if k < j then (j, v) :: m else (j, v) :: kdel m k

/-- The table with `v` put at `k`, whatever `v` is. -/
def kput {α : Type} : KMap α → Nat → α → KMap α
  | [], k, x => [(k, x)]
  | (j, v) :: m, k, x =>
    if k = j then (k, x) :: m else if k < j then (k, x) :: (j, v) :: m else (j, v) :: kput m k x

/-- A write keeps the canonical form: writing the default removes the entry. -/
def kset {α : Type} [DecidableEq α] (d : α) (m : KMap α) (k : Nat) (x : α) : KMap α :=
  if x = d then kdel m k else kput m k x

/-- The entry at `k`, if listed. -/
def kfind {α : Type} : KMap α → Nat → Option α
  | [], _ => none
  | (j, v) :: m, k => if k = j then some v else if k < j then none else kfind m k

/-- Keys strictly rise. -/
def ksorted {α : Type} : KMap α → Bool
  | [] => true
  | [_] => true
  | (j, _) :: (k, v) :: m => decide (j < k) && ksorted ((k, v) :: m)

/-- The canonical form: keys strictly rise and no entry equals the default. -/
def kwf {α : Type} [DecidableEq α] (d : α) (m : KMap α) : Bool :=
  ksorted m && m.all fun e => decide (e.2 ≠ d)

end Sys2Proof.Machine
end

