-- ==== Sys2Proof/Machine/Records.lean ====
section
/-! DEFINITION. The records that make up the state of the blocks: plain data (Table 1.1 and the owning chapters). -/

namespace Sys2Proof.Machine

/-! ## Common header (R439 to R445) -/

/-- One block's status header (Table 18.1). -/
structure Header where
  cause : BitVec 32
  mask : BitVec 32
  armed : BitVec 32
  firstValid : Bool
  feAddr : Word
  feSrc : Word
  feTime : Word
  errCount : Nat
deriving DecidableEq, Repr

/-- The header right after a start (Tables 18.2 to 18.10). -/
def Header.init : Header := ⟨0, 0, 0, false, 0, 0, 0, 0⟩

/-! ## The Solvik image (chapter 13) -/

/-- A region record (Table 13.11). -/
structure Region where
  number : Nat
  size : Nat
  shared : Bool
  strong : Bool
  awn : Bool
  elastic : Bool
  pinned : Bool
  aliasW : Nat
  defClass : Nat
  hasDef : Bool
  defKey : Nat
  keyBase : Nat
  dpaBase : Nat
  ownerLd : Nat
  heads : Nat
  headLd : List Nat
deriving DecidableEq, Repr

/-- A key record (Table 13.12). -/
structure KeyRec where
  slot : Nat
  host : Bool
  hasInit : Bool
  mgr : Nat
  initClass : Nat
  allowed : Word
  initMask : Word
deriving DecidableEq, Repr

/-- An LD entry (Table 13.10). -/
structure LdRec where
  valid : Bool
  link : Nat
  hasDef : Bool
  defKey : Nat
deriving DecidableEq, Repr

/-- One output's record in the HUSK section (Table 13.9). -/
structure HuskOut where
  ilimit : Nat
  faultUs : Nat
  curve : List (Nat × Nat)
deriving DecidableEq, Repr

/-- One class's record in the SERVICE section (Table 13.14). -/
structure SvcClass where
  budget : Nat
  qMin : Nat
  qMax : Nat
  wayMask : Nat
  target : Nat
deriving DecidableEq, Repr

/-- A loaded Solvik image, section by section (R343 to R359). -/
structure SolvikImage where
  seq : Word
  rollback : Nat
  portMask : Nat
  bifurcation : List Nat
  links : List (Nat × Nat)
  rate : Nat
  rowBits : Nat
  stack : Nat
  ranks : Nat
  dpc2 : Bool
  unit256 : Bool
  trfc : Nat
  hotLimit : Nat
  spare : List Nat
  map : List Word
  branBase : Nat
  branSize : Nat
  threshold : Nat
  ueLimit : Nat
  caLimit : Nat
  deltaT : Nat
  scrubEnable : Bool
  fiAllowed : Bool
  scrubRate : Nat
  scrubReserve : Nat
  pkgLimit : Nat
  vcoreMv : Nat
  vsramMv : Nat
  rails : Nat
  uvMv : Nat
  ovMv : Nat
  insertMs : Nat
  pfwMv : Nat
  cooldownMs : Nat
  outEnable : Nat
  outs : List HuskOut
  patch : List Byte
  ownerKey : List Byte
  ownerCert : List Byte
  lds : List LdRec
  portFlags : List Nat
  regions : List Region
  keys : List KeyRec
  window : Nat
  shift : Nat
  holdNs : Nat
  tBi : Nat
  classes : List SvcClass
  pools : List (Nat × Nat × Nat)
  paired : Bool
  preferred : Bool
  formWait : Nat
  reissueWindow : Nat
  macInterval : Nat
  pairTimeout : Nat
  peerId : BitVec 384
  predecessor : BitVec 384
  compat : BitVec 384
  faultInjection : Bool
  locks : Nat
  branHash : BitVec 384
  branLen : Nat
deriving DecidableEq, Repr

/-! ## Requests and their home transactions (chapters 2 to 4) -/

/-- What a data-plane request asks of its home (R93, R108, R498). -/
inductive HomeOp where
  | rd (snp : SnpType)
  | wr
  | wrPtl
  | inv
  | clnEvct
  | atomic (kind : AtomicKind) (operand compare : BitVec 128) (off : Nat)
  | cqRead
  | cqWrite
deriving DecidableEq, Repr

/-- Who sent a request: a host LD through a link, a unit of a taken descriptor, or the partner (Table 18.12). -/
inductive Src where
  | host (port link ld tag : Nat)
  | cq (pair cmd unit : Nat)
  | mirror (h : MirrorHdr)
deriving DecidableEq, Repr

/-- A data-plane request as it travels (R19: key index and class stay with it). `poisoned`: its data is poison;
`contained`: a parity error in key index, class or tag pointer was contained (R22). `par` is the parity that travels with
its control fields (R21). -/
structure Req where
  rid : Nat
  src : Src
  ldTag : Nat
  op : HomeOp
  hpa : Nat
  dpa : Nat
  region : Nat
  aliasF : Nat
  key : Nat
  cls : Nat
  data : Line
  be : BitVec 64
  heldOnce : Bool
  poisoned : Bool
  contained : Bool
  reissued : Bool
  par : Parity
deriving DecidableEq, Repr

/-- How far a request has come at its port (Table 1.5). -/
inductive Stage where
  | ingress
  | hold
  | miss
  | home (spk : Nat)
  | egress
deriving DecidableEq, Repr

/-- A request open at a port: counted in INFLIGHT when a host sent it (Table 2.11). `passed`: it has been admitted and
waits in ingress for a Sheaf slot (R70). -/
structure OpenReq where
  req : Req
  stage : Stage
  marked : Bool
  discard : Bool
  marker : Bool
  passed : Bool
deriving DecidableEq, Repr

/-- A response on its way to the host or the engine (R78, R252, R496). -/
structure Rsp where
  rid : Nat
  kind : RspKind
  data : Line
  poison : Bool
  devLoad : Nat
  old : BitVec 128
  casOk : Bool
  status : Nat
deriving DecidableEq, Repr

/-- A message waiting at a home's ordering point: a request with its media address. `packed` carries the line within
the page and then `mpa` is the descriptor's (R65, R182). -/
structure Msg where
  req : Req
  mpa : Nat
  packed : Option Nat
  arrived : Nat
deriving DecidableEq, Repr

/-- The states of Table 4.3; a closed transaction is removed. -/
inductive TxState where
  | order
  | parked
  | sfWait
  | holdWait
  | biWait
  | memory
  | respond
deriving DecidableEq, Repr

/-- A back-invalidate that a transaction still has to send: line of the sector, head and kind. -/
structure BiNeed where
  line : Nat
  head : Nat
  kind : BiKind
deriving DecidableEq, Repr

/-- What the PRIMARY mirrors of a write (R306). -/
inductive MirrorData where
  | full (l : Line)
  | part (mask : BitVec 64) (l : Line)
  | poison
deriving DecidableEq, Repr

/-- An open home transaction (Table 4.3). `queued`: its access holds an entry of its subchannel's queue (R254). `absorbed`: a writeback taken ahead of the transaction that is open on its line
(R99). `waiting`: in MEMORY with its write begun, waiting for a compression job, a re-encryption or a stock;
`wrote` keeps what is then mirrored. -/
structure Txn where
  tid : Nat
  msg : Msg
  state : TxState
  need : List BiNeed
  started : Nat
  rsp : Rsp
  sfWaited : Bool
  absorbed : Bool
  waiting : Bool
  mirror : Option Nat
  wrote : Option MirrorData
  queued : Bool
deriving DecidableEq, Repr

/-- What a back-invalidate serves. -/
inductive BiOwner where
  | txn (tid : Nat)
  | evict (buf : Nat)
  | recall (page : Nat)
  | forward (desc : Nat)
  | drain (port : Nat)
deriving DecidableEq, Repr

/-- A back-invalidate the home has open to a head (R92, R104). -/
structure Snp where
  sid : Nat
  owner : BiOwner
  sector : Nat
  line : Nat
  head : Nat
  kind : BiKind
  sent : Nat
  left : Nat
  answer : Option BiRsp
  timedOut : Bool
deriving DecidableEq, Repr

/-- A BISnp message open at a port, one for each committed decoder that names the region (R92);
`ldTag`: the head's LD; `conflict`: a BIConflict for it has yet to be acknowledged (R100); `unsent`: its link is in Recovery,
and the message leaves when the link is back in L0 (R35). -/
structure PortBi where
  bid : Nat
  spk : Nat
  sid : Nat
  link : Nat
  hpa : Nat
  kind : BiKind
  ldTag : Nat
  conflict : Bool
  unsent : Bool
deriving DecidableEq, Repr

/-! ## Port records (chapter 2) -/

/-- Table 2.6. -/
inductive PortState where
  | reset | training | drained | enabled | draining | viral
deriving DecidableEq, Repr

/-- An IDE stream of a link: the key in use and a key waiting for K_SET_GO (R45). -/
structure IdeStream where
  active : Bool
  key : BitVec 256
  next : Option (BitVec 256)
deriving DecidableEq, Repr

/-- What the configuration space of a link's function 0 holds beside what the device's state gives: the AER status words,
uncorrectable and correctable (Table 2.2, R55). -/
structure ConfigSpace where
  aerUncorrectable : BitVec 32
  aerCorrectable : BitVec 32
deriving DecidableEq, Repr

/-- One link of a port (Table 2.15, R34, R35, R45, R403). -/
structure Link where
  up : Bool
  trained : Bool
  belowFloor : Bool
  width : Nat
  speed : Nat
  flit256 : Bool
  degraded : Bool
  retraining : Bool
  recovery : Nat
  ideIo : IdeStream
  ideMem : IdeStream
  inL1 : Bool
  sessions : Nat
  /-- Lanes left good by the last lane loss (R35). -/
  good : Nat
  cfg : ConfigSpace
deriving DecidableEq, Repr

/-- One HDM decoder of BAR2 (R40, R41). -/
structure Decoder where
  base : Nat
  size : Nat
  ig : Nat
  iw : Nat
  committed : Bool
  err : Bool
deriving DecidableEq, Repr

/-- A Sheaf entry (Table 3.1). `stamp` orders uses for the port's eviction choice. -/
structure SheafEntry where
  ldTag : Nat
  dpaBase : Nat
  size : Nat
  mpa : Nat
  packed : Bool
  keyPolicy : Bool
  pinned : Bool
deriving DecidableEq, Repr

/-- A miss slot: requests that miss on one LD tag and page share it (R70). -/
structure MissSlot where
  ldTag : Nat
  page : Nat
  invSeq : Nat
deriving DecidableEq, Repr

/-- A range of the pin list (R431). -/
structure PinRange where
  ldTag : Nat
  dpa : Nat
  size : Nat
deriving DecidableEq, Repr

/-- An event record of a CXL event log (R29, R48). -/
structure EventRec where
  handle : Nat
  code : Nat
  time : Nat
deriving DecidableEq, Repr

/-- The primary mailbox of a link's function 0 (R48, R423). -/
structure Mailbox where
  busy : Bool
  opcode : Nat
  retCode : Nat
  bgOpcode : Nat
  bgDone : Bool
  events : List EventRec
  timestamp : Nat
  timestampAt : Nat
  alerts : Word
  shutdown : Nat
  poison : List Nat
  scanned : List Nat
  xferCopy : Nat
  xferOff : Nat
  xferOpen : Bool
deriving DecidableEq, Repr

/-- A port block (chapter 2), `retries` holding requests a home sent back for a held page with the time they are sent
again (R105), `creditWait` requests that wait for a rachis request credit (R253), with its Sheaf, hold buffer and miss slots (chapters 3 and 10). -/
structure Port where
  state : PortState
  enableQueued : Bool
  drainDone : Bool
  drainStart : Nat
  links : Vector Link 4
  mbox : Vector Mailbox 4
  decs : KMap Decoder
  reqs : List OpenReq
  egress : List Rsp
  /-- Links that wait for a Sheaf slot (R70), and links that wait for a hold-buffer entry (R260). -/
  stalled : BitVec 4
  holdStalled : BitVec 4
  counts : List Nat
  lowCounts : List Nat
  /-- BUDGET of each class as the window in progress took it (R261). -/
  budgets : List Nat
  windowStart : Nat
  sheaf : List SheafEntry
  slots : List MissSlot
  invSeq : Nat
  invBusy : Bool
  refills : Nat
  misses : Nat
  pins : List PinRange
  retries : List (Nat × Msg)
  bis : List PortBi
  keyMarker : Bool
  heldCount : List Nat
  creditWait : List Msg
deriving DecidableEq, Repr

/-! ## The Sheaf gate, the walk assist and the walk cache (chapter 3) -/

/-- A miss record at the gate (R70). -/
structure MissRec where
  port : Nat
  ldTag : Nat
  dpa : Nat
  master : Nat
  key : Nat
  invSeq : Nat
  acc : Nat
deriving DecidableEq, Repr

/-- A walk in progress: the level whose entry is read next (4 the root directory, 3 to 0 the tables), the table's
MPA, and the leaf once found; `waiting` for a page or a descriptor to free (R177). -/
structure Walk where
  miss : MissRec
  level : Nat
  table : Nat
  used : List Nat
  leaf : Option Word
  waiting : Bool
deriving DecidableEq, Repr

/-- A cached pointer (R75). -/
structure WalkPtr where
  ldTag : Nat
  level : Nat
  index : Nat
  entry : Word
deriving DecidableEq, Repr

/-- The gate, the walks and the open invalidation (Tables 3.17, 3.18). -/
structure Gate where
  records : List MissRec
  walks : List Walk
  cache : List WalkPtr
  invOpen : Bool
  invTimedOut : Bool
  invAck : BitVec 4
  invCount : Nat
  invSize : Nat
  invAll : Bool
  invTag : Nat
  invDpa : Nat
  invStart : Nat
  tables : Nat
  reinstall : List (Nat × SheafEntry)
deriving DecidableEq, Repr

/-! ## Spikelet records (chapters 4 to 7) -/

/-- The state of one line of a sector (Table 4.1). -/
inductive LineState where
  | i | s | o
deriving DecidableEq, Repr

/-- A snoop-filter entry (Table 4.1). `sector` is the name of the sector: 2 × MPA[43:8], or for a packed line
2 × (d[43:6], k[5:2]) + 1 (R182). `stamp` orders grants (R101). -/
structure SfEntry where
  sector : Nat
  st : Vector LineState 4
  owner : Vector (Fin 4) 4
  vector : BitVec 4
  imprecise : Bool
  /-- Lines that count as held O by every head in `vector`, from an adopted shadow (R319). -/
  shadowO : BitVec 4
  region : Nat
  dpaSector : Nat
  aliasF : Nat
  holdEnd : BitVec 16
  busy : Bool
  stamp : Nat
deriving DecidableEq, Repr

/-- An eviction buffer (R102). -/
structure EvictBuf where
  id : Nat
  entry : SfEntry
deriving DecidableEq, Repr

/-- What a culm-cache line holds (R138). -/
inductive CulmKind where
  | node (level : Nat)
  | spill
  | pkt
  | dtag
deriving DecidableEq, Repr

/-- A line of the culm cache (R138, R255); `bad`: its read did not decode, and the accesses that need it meet a bus error
(R232). -/
structure CulmLine where
  data : Line
  dirty : Bool
  kind : CulmKind
  way : Nat
  stamp : Nat
  bad : Bool
deriving DecidableEq, Repr

/-- A culm line being fetched: kind, class of the request that needs it (R255). -/
structure CulmFetch where
  mpa : Nat
  kind : CulmKind
  cls : Nat
deriving DecidableEq, Repr

/-- A Glume compression job (R173). `page` is a descriptor's MPA; a block recompression names its block. -/
/- `output` keeps what a finished job waits to write while a stock is empty (R184). -/
inductive JobKind where
  | block (b : Nat) (tid : Nat)
  | page (mv : Nat)
deriving DecidableEq, Repr

structure Job where
  jid : Nat
  kind : JobKind
  desc : Nat
  key : Nat
  plain : List (List Byte)
  poisoned : List (List Bool)
  output : List (List Byte)
deriving DecidableEq, Repr

/-- A free granule of the stock: its MPA[43:8] and its key (R184). -/
structure Granule where
  addr : Nat
  key : Nat
deriving DecidableEq, Repr

/-- A page being forwarded (R185, R189): its descriptor, the transaction that waits (0 for a move), the plain page, the LD and
DPA whose leaf Germ repoints, the old granules under their key, and the invalidation of the repointing. -/
structure Forward where
  desc : Nat
  tid : Nat
  page : Option Nat
  done : Bool
  ldTag : Nat
  dpa : Nat
  key : Nat
  old : List Nat
  inv : Option Nat
deriving DecidableEq, Repr

/-- A hot-table entry (R186, Table 7.12). -/
structure HotEntry where
  ldTag : Nat
  page : Nat
  packed : Bool
  count : Nat
deriving DecidableEq, Repr

/-- A shadow entry of a SECONDARY (R312): the sector by region and DPA[44:8], and by its own MPA when it was stored. -/
structure ShadowEntry where
  ldTag : Nat
  region : Nat
  dpaSector : Nat
  sector : Nat
  vector : BitVec 4
  aliasF : Nat
deriving DecidableEq, Repr

/-- A re-encryption or re-tag in progress (R140, R141). -/
structure Rekey where
  base : Nat
  level : Nat
  tid : Nat
deriving DecidableEq, Repr

/-- A spikelet block. -/
structure Spk where
  inbox : List Msg
  txns : List Txn
  snps : List Snp
  sf : KMap SfEntry
  evict : List EvictBuf
  holds : List Nat
  pgDone : Bool
  pgRefused : Bool
  recalling : Option Nat
  orderedActive : Bool
  biSent : Nat
  biBcast : Nat
  sfWaitHolds : Nat
  culm : KMap CulmLine
  fetches : List CulmFetch
  rekeys : List Rekey
  reencCount : Nat
  poisonSpans : List (Nat × Nat)
  glumeDecomp : Nat
  glumeComp : Nat
  glumeFail : Nat
  glumeBytes : Nat
  jobs : List Job
  stock : List Granule
  release : List Granule
  promo : List Nat
  forwards : List Forward
  samples : Nat
  hot : KMap HotEntry
  ewma : List Nat
  boost : List Nat
  shadow : List ShadowEntry
  rejects : List SfUpdate
  domainDown : Bool
deriving DecidableEq, Repr

/-! ## Crypt (chapter 5) -/

/-- Table 5.2. -/
inductive SlotState where
  | empty | loaded | retiring
deriving DecidableEq, Repr

/-- A key slot (Table 5.1); its SOURCE, ALLOWED_MASK and MGR_PORTS come from the image. -/
structure KeySlot where
  key : BitVec 256
  h : Block
  cls : Nat
  mask : Word
  state : SlotState
deriving DecidableEq, Repr

/-- A port's copy of a slot (R117). -/
structure SlotCopy where
  loaded : Bool
  cls : Nat
  mask : BitVec 16
deriving DecidableEq, Repr

/-- The CRYPT block. `waits` holds the key messages not yet answered, in arrival order; `msgOpen` says that the first one's
command is open (R123). -/
structure Crypt where
  slots : KMap KeySlot
  copies : KMap SlotCopy
  keyIn : Vector Word 4
  busy : Bool
  done : Bool
  refused : Bool
  reason : Nat
  openSlot : Nat
  goTime : Nat
  markers : BitVec 4
  info : Word
  infoMask : Word
  salt : BitVec 128
  km : BitVec 256
  hm : Block
  root : Vector Line 8
  timedOut : Bool
  waits : List KeyMsg
  msgOpen : Bool
deriving DecidableEq, Repr

/-! ## Tiering (chapter 7) -/

/-- Table 7.6. -/
inductive PoolState where
  | normal | low | critical
deriving DecidableEq, Repr

/-- A free pool: ranges of free pages [first, first + count), and its state (R192, R194). -/
structure Pool where
  free : List (Nat × Nat)
  state : PoolState
deriving DecidableEq, Repr

/-- Who keeps a page under its hold: a move, a command of a queue pair, a resynchronisation, a write of the hold register. -/
inductive HoldOwner where
  | move (mid : Nat)
  | command (pair cmd : Nat)
  | resync
  | register
deriving DecidableEq, Repr

/-- The step an open move has reached (R188): its leaf not yet written; written and to be invalidated (again, R191);
invalidating, recalling, copying, in the page compression job, or ready for its release. -/
inductive MoveStep where
  | alloc
  | leaf
  | inval
  | recall
  | copy
  | job
  | release
deriving DecidableEq, Repr

/-- An open move (R188, R191). `src` and `dst` are a plain page or a descriptor; `inv` numbers its invalidation; `slot` is
the gate slot that waits for it; `retire` keeps the source out of its pool (R240). -/
structure Move where
  mid : Nat
  ldTag : Nat
  dpa : Nat
  srcPacked : Bool
  src : Nat
  dstPacked : Bool
  dst : Nat
  step : MoveStep
  inv : Nat
  slot : Option Nat
  retire : Bool
deriving DecidableEq, Repr

/-- The TIER block and Germ's tiering records. -/
structure Tier where
  pools : Vector Pool 2
  descFree : List (Nat × Nat)
  moves : List Move
  retired : List Nat
  retiredSpans : List (Nat × Nat)
  granulePages : KMap Nat
  granFree : List Granule
  promoted : Nat
  demoted : Nat
  forwarded : Nat
  held : Nat
  /-- Held pages, each with who keeps it held: the hold ends with the last of them. -/
  holders : List (Nat × HoldOwner)
deriving DecidableEq, Repr

/-! ## Memory channels (chapters 8 and 9) -/

/-- Table 8.5. -/
inductive McState where
  | off | spd | training | active | powerDown | selfRefresh | restoring | failed
deriving DecidableEq, Repr

/-- An activate count (R211): row name and count. -/
structure ActCount where
  row : Nat
  count : Nat
deriving DecidableEq, Repr

/-- A copy in progress (R240, R242). -/
structure SpareCopy where
  bank : Bool
  from_ : Nat
  to_ : Nat
  subch : Nat
  bg : Nat
  ba : Nat
  ptr : Nat
  slot : Option Nat
deriving DecidableEq, Repr

/-- A bank remap entry (Table 9.13). -/
structure BankRemap where
  valid : Bool
  rank : Nat
  spare : Nat
  subch : Nat
  bg : Nat
  ba : Nat
deriving DecidableEq, Repr

/-- An error record (Tables 9.15, 9.16). -/
structure ELog where
  w0 : Word
  time : Nat
deriving DecidableEq, Repr

/-- One calibration value: live and target (R219, R222). -/
structure CalVal where
  live : BitVec 16
  target : BitVec 16
deriving DecidableEq, Repr

/-- A channel's snapshot area (R220, R245). -/
structure Snapshot where
  cal : KMap CalVal
  temp : Int
  copy : Option SpareCopy
  map : Nat
  oos : Nat
  bound : Nat
  remaps : List BankRemap
  ueRank : List Nat
deriving DecidableEq, Repr

/-- A memory-channel block. `owed` holds the rows whose second slice is outstanding, with whether it fell due while the
target was refreshing (R212, R215), `firstDue` those whose first slice waits for that; `waitRows` rows whose activates have
still to be counted (log entry 135); `shared` lines that an activate already issued serves too (R208); `failAt` the lines whose next command fails every retry, `heldWrites` the images of
writes that failed so (R241). -/
structure Mc where
  state : McState
  spdOk : Bool
  pmicAt : Option Nat
  pmicGood : Bool
  dramReset : Bool
  trefi : Nat
  trfc : Nat
  fastWanted : Bool
  fastApplied : BitVec 2
  refreshing : List Nat
  acts : List ActCount
  owed : List (Nat × Bool)
  firstDue : List Nat
  waitRows : List Nat
  shared : List Nat
  rdRefreshes : Nat
  rdFallback : Nat
  temps : Vector Int 2
  missed : Vector Nat 2
  calTemp : Int
  calRunning : Bool
  calGen : Nat
  cal : KMap CalVal
  snapshot : Option Snapshot
  oos : Nat
  bound : Nat
  remaps : List BankRemap
  copy : Option SpareCopy
  ueRank : List Nat
  caRank : List (Nat × Nat)
  heldWrites : List (Nat × Image)
  failAt : List Nat
  lost : List Nat
  scrubRun : Bool
  scrubAt : Nat
  scrubCount : Nat
  scrubPos : Nat
  lapStart : Nat
  lastLap : Nat
  laps : Nat
  elogHead : Nat
  elog : KMap ELog
  ceCount : Nat
  ueCount : Nat
  recover : List Nat
deriving DecidableEq, Repr

/-! ## Queues (chapter 17) -/

/-- A verdict slot (Table 17.3). -/
structure Verdict where
  status : Nat
  reason : Nat
  detail : Nat
  id : Nat
  time : Nat
  used : Bool
deriving DecidableEq, Repr

/-- How far a taken descriptor has come (R428, R430, R432): `admitted` at its port (R256), `started` once the checks have
passed, `unit` units finished; `wait`: 0 nothing is open, 1 a home has its line, 2 a page is being blanked, 6 a blanked page
moves (R196 step 5), 4 or 5 a source line is in hand, good or poison; `buf` that line;
`marker`: a drain marker waits behind it (R118). -/
structure Taken where
  cmd : Nat
  desc : Line
  contained : Bool
  started : Bool
  admitted : Bool
  unit : Nat
  poison : Bool
  wait : Nat
  buf : Option Line
  key : Nat
  marker : Bool
deriving DecidableEq, Repr

/-- A queue pair. -/
structure QPair where
  enable : Bool
  sqTail : Nat
  sqHead : Nat
  cqHead : Nat
  cqTail : Nat
  phase : Bool
  sq : KMap Line
  cq : KMap (BitVec 256)
  taken : List Taken
  plainServed : Bool
deriving DecidableEq, Repr

/-- A recovery-list entry (R435). -/
structure Recovery where
  pair : Nat
  cmd : Nat
  result : BitVec 128
  casOk : Bool
deriving DecidableEq, Repr

/-- The QUEUE block. -/
structure Queue where
  gateTail : Nat
  gateHead : Nat
  slots : KMap (BitVec 256)
  verdicts : KMap Verdict
  pairs : KMap QPair
  recovery : List Recovery
deriving DecidableEq, Repr

/-! ## Performance counters (chapter 19) -/

/-- Table 19.10. -/
inductive WindowState where
  | idle | waiting | counting | done
deriving DecidableEq, Repr

/-- The PERF block: selections live in the registers; counts are kept here. -/
structure Perf where
  counts : KMap Nat
  ovf : KMap Word
  window : WindowState
  frozen : Bool
deriving DecidableEq, Repr

/-! ## The Tiller link (chapter 11) -/

/-- Table 11.10. -/
inductive TilState where
  | down | training | align | init | attest | up | held
deriving DecidableEq, Repr

/-- A sequenced flit in the replay buffer: its SEQ and payload as sent, whether it carries an open mirror write or fetch
(`tracked`) or an SF_SYNC update (`sync`), whether its CRC was inverted when sent (`bad`), and how often it has been replayed (R281, R285, R293, R328). -/
structure TxFlit where
  mac : Bool
  seq : Nat
  payload : BitVec 1888
  tracked : Bool
  sync : Bool
  bad : Bool
  replays : Nat
deriving DecidableEq, Repr

/-- The credits of one counter: ADV, CONS and RET_SEEN of the transmitter; RET of the receiver and its last value reported
(R278, R279). -/
structure Credit where
  adv : Nat
  cons : Nat
  retSeen : Nat
  ret : Nat
  told : Nat
deriving DecidableEq, Repr

/-- One direction's key, FIXED and START_SEQ (R287). -/
structure LinkKey where
  key : BitVec 256
  fixed : BitVec 32
  start : Nat
deriving DecidableEq, Repr

/-- A mirror write or a fetch this member has open (R276, R293). -/
structure OpenMirror where
  mid : Nat
  spk : Nat
  tid : Nat
  page : Option Nat
  ldTag : Nat
  dpa : Nat
  opened : Nat
deriving DecidableEq, Repr

/-- An open LINE_FETCH: the channel and the line it recovers (R243, R310). -/
structure OpenFetch where
  fid : Nat
  mc : Nat
  mpa : Nat
  key : Nat
deriving DecidableEq, Repr

/-- A DATA flit of the open group: its SEQ, its payload, and DTIME as its CRC passed (R289, R294). -/
structure HeldFlit where
  seq : Nat
  payload : BitVec 1888
  time : Nat
deriving DecidableEq, Repr

/-- A received slot: whether it begins a message, its value, and DTIME as its flit's CRC passed (R272, R294). -/
structure RxSlot where
  start : Bool
  val : Nat
  time : Nat
deriving DecidableEq, Repr

/-- The TILLER block. `queue` waits for the transmitter; `heldFlits` is the open group received, `rxPart` the slots of a
message whose end has not been received, `delivered` the messages their consumers have not taken, each with the time its first slot arrived; `sinceIdle` the flits sent
since the last IDLE (R268). `txNew` is the own key
sent in LINK_KEY and not yet answered (R287). -/
structure Tiller where
  state : TilState
  quads : BitVec 4
  lostAt : KMap Nat
  enteredAt : Nat
  txNext : Nat
  replayBuf : List TxFlit
  queue : List TilMsg
  accepted : Bool
  expect : Nat
  nakOpen : Bool
  nakPending : Bool
  nakAt : Nat
  credits : Vector Credit 8
  crNext : Nat
  sinceIdle : Nat
  txNew : Option LinkKey
  txKey : Option LinkKey
  rxKey : Option LinkKey
  txGroup : Nat
  rxGroup : Nat
  heldFlits : List HeldFlit
  rxPart : List RxSlot
  rxStarted : Bool
  rxVerified : Bool
  txStarted : Bool
  delivered : List (TilMsg × Nat)
  initSeen : Bool
  sentRxSeen : Bool
  peerHash : BitVec 384
  attested : Bool
  mirrors : List OpenMirror
  nextMid : Nat
  fetches : List OpenFetch
  nextFid : Nat
  timerAt : Nat
  theta : Int
  slew : Int
  slewWait : Nat
  holdNs : Nat
  t1 : Nat
  replaySeen : Bool
  countCrc : Nat
  countReplay : Nat
  countFecCorr : Nat
  countFecUncorr : Nat
  countDown : Nat
deriving DecidableEq, Repr

/-! ## Pair operation (chapter 12) -/

/-- Table 12.1. -/
inductive Role where
  | none | detached | joining | secondary | primary | fenced
deriving DecidableEq, Repr

/-- A dedup entry (R321). -/
structure Dedup where
  src : Bool
  who : Nat
  tag : Nat
  epoch : Nat
  time : Nat
  result : BitVec 128
  casOk : Bool
deriving DecidableEq, Repr

/-- A copy this member is sending: LD tag and next page, the end; the range of a RESYNC_REQ, or a full copy (R305, R310). -/
structure CopyJob where
  ldTag : Nat
  page : Nat
  last : Nat
  base : Nat
  size : Nat
  full : Bool
deriving DecidableEq, Repr

/-- How far a promotion has come (R317): waiting for delivered mirror messages; done, with ordered-class mode to be left
once the reissued requests have completed (R322). -/
inductive Promotion where
  | idle | draining | reissue
deriving DecidableEq, Repr

/-- The PAIR block and Germ's pair records. `peerSynced` is the SYNCED bit of the last HEARTBEAT
received (R315); `partnered`: a PRIMARY's formation with its partner has ended and the partner has not been lost since;
`resolveDue`: R318 steps 2 to 4 are to come; `openWrites` the mirrored writes whose completion has not left, with the time
their home ordered them (R315); `resync` the listed pages with whether a line sent again was refused (R308). -/
structure Pair where
  role : Role
  synced : Bool
  peerSynced : Bool
  own : Bool
  fenceOut : Bool
  peerOwn : Bool
  peerOwnSince : Nat
  fenceIn : Bool
  ownSampleAt : Nat
  watchdog : Bool
  copies : List CopyJob
  copyNeeded : Bool
  copyDone : Bool
  copyPages : Nat
  resync : List (Nat × Nat × Bool)
  backlog : List (Nat × SfUpdate)
  lagging : Bool
  dedup : List Dedup
  openWrites : List (Nat × Nat)
  peerOldest : Nat
  lastHb : Nat
  hbWithheld : Bool
  promotion : Promotion
  syncedAtDown : Bool
  downAt : Nat
  oldEpoch : Nat
  reissueOpen : Bool
  reissueEnd : Nat
  handover : Bool
  peerReq : Option FormReq
  formSent : Bool
  formOutcome : Option Bool
  formAt : Nat
  partnered : Bool
  resolveDue : Bool
  fresh : Bool
  warmClean : Bool
  wasPrimary : Bool
  startAt : Nat
  countPromote : Nat
  countDedup : Nat
  countRefused : Nat
  countReject : Nat
deriving DecidableEq, Repr

/-! ## Power, bring-up and always-on storage (chapters 14 and 16) -/

/-- Table 16.1. -/
inductive PowerState where
  | start | active | idle | doze | enteringRest | stooking | rest | stook | off
deriving DecidableEq, Repr

/-- The seal record and what the always-on SRAM keeps with it (R407 to R409). -/
structure Seal where
  valid : Bool
  stookKind : Bool
  clean : Bool
  entry : Nat
  copyB : Bool
  digest : BitVec 384
  vcore : Nat
  vsram : Nat
  slots : KMap KeySlot
  salt : BitVec 128
  km : BitVec 256
  hm : Block
  root : Vector Line 8
  save : KMap Word
  check : BitVec 32
deriving DecidableEq, Repr

/-- The PWR block: state, sequencer, AVSBus and wakes. -/
structure Pwr where
  state : PowerState
  step : Nat
  stepAt : Nat
  stookStart : Nat
  sealRec : Option Seal
  paired : Bool
  secSynced : Bool
  priSynced : Bool
  resolvedOpen : Bool
  dropped : Nat
  avsBusy : Bool
  avsReqs : List (Bool × Nat)
  ackCore : Nat
  ackSram : Nat
  timeouts : Nat
  inRow : Nat
  avsFail : Bool
  railsOff : Bool
  railsOffAt : Nat
  wakeN : Bool
  wakeLatched : Bool
  gated : KMap Bool
  dozeSince : Option Nat
deriving DecidableEq, Repr

/-- Bring-up progress (Tables 14.5 and 14.6) and the image status (Table 13.18). -/
structure Bringup where
  kind : Nat
  failCause : Nat
  step : Nat
  failed : BitVec 16
  permille : Nat
  startTime : Nat
  releaseTime : Nat
  released : Bool
  infoValid : Bool
  mediaError : Bool
  mboxReady : Bool
  leftSelfRefresh : Bool
  warm : Bool
  reset : Bool
  running : Nat
  resultA : Nat
  resultB : Nat
  reloadResult : Nat
  reloadBusy : Bool
  reloadCopy : Bool
  reloadSlot : Option Nat
  reloadDisabled : BitVec 4
  reloadAt : Nat
  recovery : Bool
deriving DecidableEq, Repr

/-! ## Husk die (chapter 15) -/

/-- Table 15.2. -/
inductive OutState where
  | off | wait | ramp | enhance | on | limit | cooldown | discharge | fetFault
deriving DecidableEq, Repr

/-- One 12 V feed (R384 to R386). -/
structure Feed where
  mv : Nat
  qualified : Bool
  orOn : Bool
deriving DecidableEq, Repr

/-- One output (R387 to R394). `timer` is 0, or 1 more than the time the fault timer started; `rampAt` the time its gate last
rose; `coolNs` the cool-down that its last trip started; `counters` in µs; `outputLow`: it has fallen below 1.0 V since it entered COOLDOWN. -/
structure Output where
  state : OutState
  onPending : Bool
  commanded : Bool
  ilimit : Nat
  faultUs : Nat
  curve : List (Nat × Nat)
  counters : List Nat
  timer : Nat
  tripCount : Nat
  lastTrip : Nat
  lastPoint : Nat
  current : Nat
  vout : Nat
  aboveFloor : Bool
  enteredAt : Nat
  rampAt : Nat
  coolNs : Nat
  outputLow : Bool
deriving DecidableEq, Repr

/-- The HUSK block. -/
structure Husk where
  feeds : Vector Feed 2
  vinOr : Nat
  insertAt : Option Nat
  insertDone : Bool
  inputLost : Bool
  outs : Vector Output 4
  watch : Bool
  pfwDrive : Bool
  linkLost : Bool
deriving DecidableEq, Repr

/-! ## Clocks, pins and thermal (chapters 20 and 21) -/

/-- A dual-clock queue between two clock domains, and the toggles between them (R469, R470): which side in reset raises HALT, and
which side answers the other's with HALT_ACK. -/
structure Crossing where
  a : Nat
  b : Nat
  haltA : Bool
  haltB : Bool
  ackA : Bool
  ackB : Bool
deriving DecidableEq, Repr

/-- The CLK block and the clock domains (R461 to R471). -/
structure Clk where
  locked : Word
  overrun : Word
  overrunCount : Nat
  coarse : Bool
  crossings : List Crossing
deriving DecidableEq, Repr

/-- Levels of the strap, level and reset pins that the block samples or drives (Table 21.4). -/
structure Pins where
  vddAux : Bool
  powerGood : Bool
  perst : Vector Bool 4
  pfwLow : Bool
  bmcMode : Bool
  bmcAddr : BitVec 2
deriving DecidableEq, Repr

/-- GLB_THERMAL (Table 21.7), in units of 0.25 °C. -/
structure Thermal where
  tripped : Bool
  warn : Bool
  husk : BitVec 12
  grain0 : BitVec 12
  grain1 : BitVec 12
deriving DecidableEq, Repr

/-- A message that waits for Germ during its restart (R24). -/
inductive GermWait where
  | spdm (p l : Fin 4) (h : SpdmReq)
  | discovery (p l : Fin 4) (index : Nat)
  | cdat (p l : Fin 4)
  | keyProg (p l : Fin 4) (kind : IdeKind) (key : BitVec 256)
  | setGo (p l : Fin 4) (kind : IdeKind)
deriving DecidableEq, Repr

/-- A Sanitize or Secure Erase of an LD in the background (R49): the key slots still to retire, the class and mask of the one
whose RETIRE is open, and the DPA from which its regions are still to be refilled. -/
structure EraseJob where
  port : Nat
  link : Nat
  ldTag : Nat
  sanitize : Bool
  slots : List Nat
  retiring : Option (Nat × Word)
  next : Nat
deriving DecidableEq, Repr

/-- The firmware complexes (R24 to R27, R423); `injecting`: Germ has set ordered-class mode for an injection (R450). -/
structure Firmware where
  germUp : Bool
  branUp : Bool
  injecting : Bool
  waits : List GermWait
  erasing : List EraseJob
deriving DecidableEq, Repr

/-- What no reset of the grain dies clears: fuses and the ROM key (R335 to R337, Table 11.9). -/
structure Fuses where
  ownerKey : Option (BitVec 384)
  rollback : Nat
  zalouxX : BitVec 384
  zalouxY : BitVec 384
  deviceHash : BitVec 384
deriving DecidableEq, Repr

end Sys2Proof.Machine
end

