-- ==== Sys2Proof/Machine/State.lean ====
section
/-! DEFINITION. The state of the block, its faults and refusals, and the state right after reset (log entries 5 to 11). -/

namespace Sys2Proof.Machine

/-- Closed list of faults. No command of this block stops the machine (Table 18.11 causes are state, not faults). -/
inductive Fault where
  /-- Raised by no command: kept so that the type is inhabited. Safe. -/
  | unreachable
deriving DecidableEq, Repr

/-- Closed list of refusals. -/
inductive Refusal where
  /-- Raised by an arm of `exec` whose command has no meaning yet. Safe. -/
  | notModelled (mnemonic : String)
deriving DecidableEq, Repr

/-- The protocols of a DOE instance (R43). -/
inductive DoeProto where
  | discovery | cmaSpdm | securedCmaSpdm | cdat
deriving DecidableEq, Repr

/-- The SPDM errors that rules name (R44, R123), and those of the standard for another version, a request that Table 2.4 leaves out
and a slot or index that does not exist. -/
inductive SpdmErr where
  | unexpectedRequest | sessionLimitExceeded | unsupportedRequest | versionMismatch | invalidRequest
deriving DecidableEq, Repr

/-- What the block has sent to its surroundings, oldest first (log entry 10). -/
inductive Out where
  /-- A CXL.mem response with the DevLoad of R252. -/
  | rsp (p l ld tag : Nat) (kind : RspKind) (data : Line) (poison : Bool) (devLoad : Nat)
  /-- BISnp to the host (R92). -/
  | biSnp (p l bid hpa : Nat) (kind : BiKind)
  /-- BIConflictAck (R100). -/
  | biConflictAck (p bid : Nat)
  /-- CXL viral signalled on the links of a port (R112). -/
  | viral (p : Nat)
  /-- A write refused with a bus error (R15). -/
  | busError (m : Master) (off : Nat)
  /-- A BAR0 access completed with Unsupported Request (R489). -/
  | unsupportedRequest (m : Master) (off : Nat)
  /-- A mailbox completion: opcode, return code, payload (R48). -/
  | mailbox (p l opcode code : Nat) (payload : List Byte)
  /-- A DOE Discovery answer: the protocol at an index, none past the last (R43). -/
  | doeProtocol (p l index : Nat) (proto : Option DoeProto)
  /-- A CDAT answer: (LD, DPA base, size) of each DSMAS, the read latency in ns, the raw bandwidth in GB/s, and the table's bytes (R43). -/
  | cdat (p l : Nat) (dsmas : List (Nat × Nat × Nat)) (latencyNs bandwidth : Nat) (table : List Byte)
  /-- An SPDM answer to a request code, as SPDM 1.3 lays it out (R44). -/
  | spdm (p l code : Nat) (content : List Byte)
  /-- An SPDM ERROR (R44, R123). -/
  | spdmError (p l : Nat) (e : SpdmErr)
  /-- The answer to a key message (R123). -/
  | keyAnswer (p l : Nat) (payload : List Byte)
  /-- IDE_KM answered (R45). -/
  | ideAck (p l : Nat) (kind : IdeKind) (ok : Bool)
  /-- A Tiller flit of 256 bytes (Table 11.2). -/
  | flit (image : BitVec 2048)
  /-- An AVSBus voltage request (R405). -/
  | avs (sram : Bool) (rail mv : Nat)
  /-- A message to the BMC (R437). -/
  | mctp (msg : List Byte)
  /-- A command over the husk link (R12). -/
  | husk (o : Nat) (on : Bool)
  /-- An all-bank or row refresh sent to a channel's DRAM (R209, R211). -/
  | refresh (x t : Nat) (row : Option Nat)
  /-- A channel's DIMM PMICs enabled over the sideband, at the voltages they store (R203). -/
  | pmicEnable (x : Nat)
deriving DecidableEq, Repr

/-- The machine (Table 1.1, chapter 22). -/
structure State where
  /-- Writable register fields of BAR0, by offset; an unlisted register holds its reset value (R7, R488). -/
  regs : KMap Word
  headers : Vector Header 40
  img : Option SolvikImage
  imgDigest : BitVec 384
  imgCopyB : Bool
  /-- DRAM: line images by physical line (R205 to R208). -/
  dram : KMap Image
  filled : Bool
  fillMap : Vector (BitVec 8) 16
  /-- Boot flash by byte offset (R338). -/
  flash : KMap Byte
  ports : Vector Port 4
  gate : Gate
  spks : Vector Spk 8
  crypt : Crypt
  tier : Tier
  mcs : Vector Mc 16
  til : Tiller
  pair : Pair
  pwr : Pwr
  bring : Bringup
  husk : Husk
  clk : Clk
  pins : Pins
  thermal : Thermal
  fw : Firmware
  fuses : Fuses
  queue : Queue
  perf : Perf
  /-- DTIME in nanoseconds (R462). -/
  dtime : Nat
  /-- The coherent domain is down (R112). -/
  domainDown : Bool
  /-- Model's own: the next identifier of a request, transaction, back-invalidate, job or move. -/
  seq : Nat
  /-- Model's own: the next free value (log entry 4). -/
  free : Nat
  /-- Model's own: what has been sent (log entry 10). -/
  out : List Out
  /-- Commands that wait, first in, first out. -/
  pending : List Instr
deriving DecidableEq, Repr

/-! ## Values after power-on -/

def IdeStream.init : IdeStream := ⟨false, 0, none⟩

def Link.init : Link :=
  { up := false, trained := false, belowFloor := false, width := 0, speed := 0, flit256 := false, degraded := false,
    retraining := false, recovery := 0, ideIo := IdeStream.init, ideMem := IdeStream.init, inL1 := false, sessions := 0,
    good := 0, cfg := ⟨0, 0⟩ }

def Mailbox.init : Mailbox :=
  { busy := false, opcode := 0, retCode := 0, bgOpcode := 0, bgDone := false, events := [], timestamp := 0,
    timestampAt := 0, alerts := 0, shutdown := 0, poison := [], scanned := [], xferCopy := 0, xferOff := 0,
    xferOpen := false }

def Port.init : Port :=
  { state := .reset, enableQueued := false, drainDone := false, drainStart := 0,
    links := Vector.replicate 4 Link.init, mbox := Vector.replicate 4 Mailbox.init, decs := [], reqs := [],
    egress := [], stalled := 0, holdStalled := 0, counts := [0, 0, 0, 0, 0, 0, 0, 0], lowCounts := [0, 0],
    budgets := [0, 0, 0, 0, 0, 0, 0, 0], windowStart := 0, sheaf := [],
    slots := [], invSeq := 0, invBusy := false, refills := 0, misses := 0, pins := [], retries := [], bis := [],
    keyMarker := false, heldCount := [0, 0, 0, 0, 0, 0, 0, 0], creditWait := [] }

def Gate.init : Gate :=
  { records := [], walks := [], cache := [], invOpen := false, invTimedOut := false, invAck := 0, invCount := 0,
    invSize := 0, invAll := false, invTag := 0, invDpa := 0, invStart := 0, tables := 0, reinstall := [] }

/-- SPK_COH_CTL resets with ORDERED_ACTIVE set (Table 4.7). -/
def Spk.init : Spk :=
  { inbox := [], txns := [], snps := [], sf := [], evict := [], holds := [], pgDone := false, pgRefused := false,
    recalling := none, orderedActive := true, biSent := 0, biBcast := 0, sfWaitHolds := 0, culm := [], fetches := [],
    rekeys := [], reencCount := 0, poisonSpans := [], glumeDecomp := 0, glumeComp := 0, glumeFail := 0, glumeBytes := 0,
    jobs := [], stock := [], release := [], promo := [], forwards := [], samples := 0, hot := [],
    ewma := [0, 0, 0, 0, 0, 0, 0, 0], boost := [0, 0, 0, 0, 0, 0, 0, 0], shadow := [], rejects := [],
    domainDown := false }

def Crypt.init : Crypt :=
  { slots := [], copies := [], keyIn := Vector.replicate 4 0, busy := false, done := false, refused := false,
    reason := 0, openSlot := 0, goTime := 0, markers := 0, info := 0, infoMask := 0, salt := 0, km := 0, hm := 0,
    root := Vector.replicate 8 0, timedOut := false, waits := [], msgOpen := false }

def Tier.init : Tier :=
  { pools := Vector.replicate 2 ⟨[], .normal⟩, descFree := [], moves := [], retired := [], retiredSpans := [],
    granulePages := [], granFree := [], promoted := 0, demoted := 0, forwarded := 0, held := 0, holders := [] }

/-- TREFI resets to 3,900 and MAP to the identity in `regs` (Tables 8.11, 8.12). -/
def Mc.init : Mc :=
  { state := .off, spdOk := false, pmicAt := none, pmicGood := false, dramReset := true, trefi := 3900, trfc := 0, fastWanted := false,
    fastApplied := 0, refreshing := [], acts := [], owed := [], firstDue := [], waitRows := [], shared := [],
    rdRefreshes := 0, rdFallback := 0,
    temps := Vector.replicate 2 0, missed := Vector.replicate 2 0, calTemp := 0, calRunning := false, calGen := 0,
    cal := [], snapshot := none, oos := 0, bound := 0, remaps := [], copy := none, ueRank := [0, 0, 0, 0], caRank := [],
    heldWrites := [], failAt := [], lost := [], scrubRun := false,
    scrubAt := 0, scrubCount := 0, scrubPos := 0, lapStart := 0, lastLap := 0, laps := 0,
    elogHead := 0, elog := [], ceCount := 0, ueCount := 0, recover := [] }

/-- STATE resets to DOWN (Table 11.14); TIL_CTL.HOLD_DOWN resets to 1, so that the link enters HELD (Tables 11.11, 11.15). -/
def Tiller.init : Tiller :=
  { state := .down, quads := 0, lostAt := [], enteredAt := 0, txNext := 0, replayBuf := [], queue := [],
    accepted := false, expect := 0, nakOpen := false, nakPending := false, nakAt := 0,
    credits := Vector.replicate 8 ⟨0, 0, 0, 0, 0⟩, crNext := 0, sinceIdle := 0, txNew := none, txKey := none, rxKey := none, txGroup := 1,
    rxGroup := 1, heldFlits := [], rxPart := [], rxStarted := false, rxVerified := false, txStarted := false,
    delivered := [], initSeen := false, sentRxSeen := false,
    peerHash := 0, attested := false, mirrors := [], nextMid := 0, fetches := [], nextFid := 0, timerAt := 0, theta := 0,
    slew := 0, slewWait := 0, holdNs := 0, t1 := 0, replaySeen := false, countCrc := 0, countReplay := 0, countFecCorr := 0, countFecUncorr := 0,
    countDown := 0 }

def Pair.init : Pair :=
  { role := .none, synced := false, peerSynced := false, own := false, fenceOut := false, peerOwn := false, peerOwnSince := 0,
    fenceIn := false, ownSampleAt := 0, watchdog := false, copies := [], copyNeeded := false, copyDone := false, copyPages := 0,
    resync := [], backlog := [], lagging := false, dedup := [], openWrites := [], peerOldest := 0, lastHb := 0,
    hbWithheld := false, promotion := .idle, syncedAtDown := false, downAt := 0, oldEpoch := 0, reissueOpen := false,
    reissueEnd := 0, handover := false, peerReq := none, formSent := false, formOutcome := none, formAt := 0, partnered := false, resolveDue := false, fresh := true,
    warmClean := false, wasPrimary := false, startAt := 0, countPromote := 0, countDedup := 0, countRefused := 0,
    countReject := 0 }

def Pwr.init : Pwr :=
  { state := .start, step := 0, stepAt := 0, stookStart := 0, sealRec := none, paired := false, secSynced := false,
    priSynced := false, resolvedOpen := false, dropped := 0, avsBusy := false, avsReqs := [], ackCore := 0, ackSram := 0,
    timeouts := 0, inRow := 0, avsFail := false, railsOff := false, railsOffAt := 0, wakeN := false,
    wakeLatched := false, gated := [], dozeSince := none }

def Bringup.init : Bringup :=
  { kind := 0, failCause := 0, step := 0, failed := 0, permille := 0, startTime := 0, releaseTime := 0,
    released := false, infoValid := false, mediaError := false, mboxReady := false, leftSelfRefresh := false,
    warm := false, reset := false, running := 0, resultA := 0, resultB := 0, reloadResult := 0, reloadBusy := false,
    reloadCopy := false, reloadSlot := none, reloadDisabled := 0, reloadAt := 0, recovery := false }

/-- At husk power-on every output is in DISCHARGE with no ON pending (R387). -/
def Output.init : Output :=
  { state := .discharge, onPending := false, commanded := false, ilimit := 0, faultUs := 0, curve := [],
    counters := [0, 0, 0, 0, 0, 0, 0, 0], timer := 0, tripCount := 0, lastTrip := 0, lastPoint := 0, current := 0,
    vout := 0, aboveFloor := false, enteredAt := 0, rampAt := 0, coolNs := 0, outputLow := false }

def Husk.init : Husk :=
  { feeds := Vector.replicate 2 ⟨0, false, false⟩, vinOr := 0, insertAt := none, insertDone := false, inputLost := false,
    outs := Vector.replicate 4 Output.init, watch := false, pfwDrive := false, linkLost := false }

/-- The pairs of clock domains that dual-clock queues join (log entry 156): the rachis segments with the always-on domain, Germ,
Bran, the spikelets, the ports and the Tiller link; the bridges with both segments; a spikelet with its two channels, a channel with its
PHY; a port with its receive groups and its transmitter; the Tiller link with its quads. -/
def crossPairs : List (Nat × Nat) :=
  [(0, 13), (3, 13), (4, 14), (13, 15), (15, 14), (14, 16), (16, 13), (63, 14)] ++
  (List.range 8).flatMap (fun k => [(5 + k, 13 + k / 4), (5 + k, 41 + 2 * k), (5 + k, 42 + 2 * k)]) ++
  (List.range 16).map (fun x => (41 + x, 57 + x / 8)) ++
  (List.range 4).flatMap (fun p => [(17 + p, 13 + p / 2), (17 + p, 37 + p)] ++ (List.range 4).map fun g => (17 + p, 21 + 4 * p + g)) ++
  (List.range 4).map fun q => (63, 59 + q)

/-- Every domain but the always-on one is in reset: it holds HALT in its queues, and the other side has answered. -/
def Clk.init : Clk :=
  { locked := 0, overrun := 0, overrunCount := 0, coarse := false
    crossings := crossPairs.map fun q => ⟨q.1, q.2, 2 ≤ q.1, true, q.1 < 2, false⟩ }

/-- VDD_AUX is good and POWER_GOOD low; PERST# is held asserted by the board (R371, R373). -/
def Pins.init : Pins :=
  { vddAux := true, powerGood := false, perst := Vector.replicate 4 true, pfwLow := false, bmcMode := false,
    bmcAddr := 0 }

def Thermal.init : Thermal := ⟨false, false, 0, 0, 0⟩

def Firmware.init : Firmware := ⟨false, false, false, [], []⟩

/-- The base point of P-384 stands for the Zaloux key in Germ ROM (log entry 9). -/
def Fuses.init : Fuses :=
  { ownerKey := none, rollback := 0,
    zalouxX := 0xaa87ca22be8b05378eb1c71ef320ad746e1d3b628ba79b9859f741e082542a385502f25dbf55296c3a545e3872760ab7,
    zalouxY := 0x3617de4a96262c6f5d9e98bf9292dc29f8f41dbd289a147ce9da3113b5f0b8c00a60b1ce1d7e819d7a431d7c90ea0e5f,
    deviceHash := 0 }

def Queue.init : Queue := ⟨0, 0, [], [], [], []⟩

def Perf.init : Perf := ⟨[], [], .idle, false⟩

/-- Right after power-on (R367): VDD_AUX has become good, DTIME is 0, POWER_GOOD has not risen. -/
def State.reset : State :=
  { regs := [], headers := Vector.replicate 40 Header.init, img := none, imgDigest := 0, imgCopyB := false, dram := [],
    filled := false, fillMap := Vector.replicate 16 0xE4, flash := [], ports := Vector.replicate 4 Port.init,
    gate := Gate.init, spks := Vector.replicate 8 Spk.init, crypt := Crypt.init, tier := Tier.init,
    mcs := Vector.replicate 16 Mc.init, til := Tiller.init, pair := Pair.init, pwr := Pwr.init, bring := Bringup.init,
    husk := Husk.init, clk := Clk.init, pins := Pins.init, thermal := Thermal.init, fw := Firmware.init,
    fuses := Fuses.init, queue := Queue.init, perf := Perf.init, dtime := 0, domainDown := false, seq := 1, free := 0,
    out := [], pending := [] }

end Sys2Proof.Machine
end

