-- ==== Sys2Proof/Machine/Ops.lean ====
section
/-! DEFINITION. Operations that every chapter uses: updates of one instance, free values, refusing a write, setting a
cause with its capture (R440 to R445), and the performance counters' hook (R453, R454). -/

namespace Sys2Proof.Machine

/-! ## One instance of a replicated block -/

def updAt {α : Type} {n : Nat} (v : Vector α n) (i : Fin n) (f : α → α) : Vector α n := v.set i (f v[i])

def updPort (p : Fin 4) (f : Port → Port) (s : State) : State := { s with ports := updAt s.ports p f }
def updSpk (k : Fin 8) (f : Spk → Spk) (s : State) : State := { s with spks := updAt s.spks k f }
def updMc (x : Fin 16) (f : Mc → Mc) (s : State) : State := { s with mcs := updAt s.mcs x f }
def updOut (o : Fin 4) (f : Output → Output) (s : State) : State :=
  { s with husk := { s.husk with outs := updAt s.husk.outs o f } }
def updLink (p l : Fin 4) (f : Link → Link) (s : State) : State :=
  updPort p (fun q => { q with links := updAt q.links l f }) s
def updMbox (p l : Fin 4) (f : Mailbox → Mailbox) (s : State) : State :=
  updPort p (fun q => { q with mbox := updAt q.mbox l f }) s

/-- An update made for every port, spikelet, channel or output. -/
def eachPort (f : Fin 4 → State → State) (s : State) : State := (List.finRange 4).foldl (fun t p => f p t) s
def eachSpk (f : Fin 8 → State → State) (s : State) : State := (List.finRange 8).foldl (fun t k => f k t) s
def eachMc (f : Fin 16 → State → State) (s : State) : State := (List.finRange 16).foldl (fun t x => f x t) s

/-- A number as the index of a port, spikelet or channel; the caller keeps it in range. -/
def port4 (n : Nat) : Fin 4 := ⟨n % 4, Nat.mod_lt _ (by decide)⟩
def spk8 (n : Nat) : Fin 8 := ⟨n % 8, Nat.mod_lt _ (by decide)⟩
def mc16 (n : Nat) : Fin 16 := ⟨n % 16, Nat.mod_lt _ (by decide)⟩

/-! ## Identifiers, time, output -/

/-- The next identifier of the model. -/
def takeSeq (s : State) : Nat × State := (s.seq, { s with seq := s.seq + 1 })

/-- What the block sends to its surroundings. -/
def emit (o : Out) (s : State) : State := { s with out := s.out ++ [o] }

/-- DTIME never decreases: an event that comes at a DTIME value brings DTIME to it (log entry 2). -/
def timeTo (t : Nat) (s : State) : State := { s with dtime := max s.dtime t }

/-- A 256-bit draw of the random bit generator, a free value. -/
def drawBits (s : State) : BitVec 256 × State := (Config.randomBits s.free, { s with free := s.free + 1 })

/-- A choice among `n` that the spec leaves free. -/
def drawChoice (n : Nat) (s : State) : Nat × State := (Config.choice s.free % n, { s with free := s.free + 1 })

/-- No DRAM write is issued and no request completes: the coherent domain is down, the member is fenced, or every channel is
in power-down (R112, R301, R403). -/
def halted (s : State) : Bool := s.domainDown || s.pair.fenceIn || s.pwr.state = .doze

/-- Fault injection is permitted (R346). -/
def fiPermitted (s : State) : Bool :=
  match s.img with
  | none => false
  | some i => i.fiAllowed && i.faultInjection

/-- An entry to REST or STOOK runs: scrubber, migration engine, fill and copies have stopped (Table 16.5). -/
def entering (s : State) : Bool := s.pwr.state = .enteringRest || s.pwr.state = .stooking

/-- The core rails serve: not entering, in or past REST or STOOK, nor OFF (Table 16.1). -/
def coreOn (s : State) : Bool := !entering s && s.pwr.state ≠ .rest && s.pwr.state ≠ .stook && s.pwr.state ≠ .off

/-- The clock domains of ports, spikelets and channels (Table 20.1). -/
def domPort (p : Nat) : Nat := 17 + p
def domSpk (k : Nat) : Nat := 5 + k
def domMc (x : Nat) : Nat := 41 + x

/-- A message reaches a block: its clock runs again, and an idle device is ACTIVE (R402, Table 16.2). -/
def ungate (d : Nat) (s : State) : State :=
  if kget false s.pwr.gated d then
    { s with pwr := { s.pwr with
        gated := kset false s.pwr.gated d false
        state := if s.pwr.state = .idle then .active else s.pwr.state } }
  else s

/-- Remove element `i` of a list. -/
def dropAt {α : Type} : List α → Nat → List α
  | [], _ => []
  | _ :: xs, 0 => xs
  | x :: xs, n + 1 => x :: dropAt xs n

/-! ## Blocks and their headers -/

/-- The entry of a block in GLB_DIR (R493), which also numbers the headers. -/
def blkGlb : Fin 40 := 0
def blkPort (p : Fin 4) : Fin 40 := ⟨1 + p, by omega⟩
def blkSheaf : Fin 40 := 5
def blkSpk (k : Fin 8) : Fin 40 := ⟨6 + k, by omega⟩
def blkMc (x : Fin 16) : Fin 40 := ⟨14 + x, by omega⟩
def blkCrypt : Fin 40 := 30
def blkTier : Fin 40 := 31
def blkQos : Fin 40 := 32
def blkTiller : Fin 40 := 33
def blkPair : Fin 40 := 34
def blkPwr : Fin 40 := 35
def blkHusk : Fin 40 := 36
def blkClk : Fin 40 := 37
def blkPerf : Fin 40 := 38
def blkQueue : Fin 40 := 39

/-- Base of each directory entry's block (Table 22.1). -/
def blkBase (b : Nat) : Nat :=
  if b = 0 then 0
  else if b < 5 then 0x10000 * b
  else if b = 5 then 0x80000
  else if b < 14 then 0x100000 + 0x10000 * (b - 6)
  else if b < 30 then 0x200000 + 0x10000 * (b - 14)
  else match b with
    | 30 => 0x300000 | 31 => 0x310000 | 32 => 0x320000 | 33 => 0x340000 | 34 => 0x350000
    | 35 => 0x380000 | 36 => 0x390000 | 37 => 0x3A0000 | 38 => 0x3C0000 | _ => 0x400000

/-- log2 of a block's size (Table 22.5). -/
def blkSizeLog (b : Nat) : Nat := if b = 39 then 20 else 16

/-- TYPE and INSTANCE of a block (Table 18.3). -/
def blkType (b : Nat) : Nat × Nat :=
  if b = 0 then (1, 0)
  else if b < 5 then (2, b - 1)
  else if b = 5 then (3, 0)
  else if b < 14 then (4, b - 6)
  else if b < 30 then (5, b - 14)
  else (b - 24, 0)

/-- The block that an offset of BAR0 falls in (Table 22.1). -/
def blkOf (off : Nat) : Option (Fin 40) :=
  (List.finRange 40).find? fun b => blkBase b ≤ off && off < blkBase b + 2 ^ blkSizeLog b

/-- Master IDs (Table 18.12). -/
def idGerm : Nat := 0x40
def idMigration : Nat := 0x48
def idScrub : Nat := 0x49
def idFill : Nat := 0x4A
def idCulm : Nat := 0x4B
def idWalk : Nat := 0x4C
def idGlume (k : Nat) : Nat := 0x50 + k
def idPartner : Nat := 0x60
def idCq : Nat := 0x61
def idNone : Nat := 0x7F

/-- The master ID of the writer of a register; the sequencer and the BMC have none (Table 18.12). -/
def masterId : Master → Nat
  | .link p l => 0x68 + 4 * p + l
  | .germ => idGerm
  | .bran c => 0x41 + c
  | .bmc => idNone
  | .sequencer => idNone

/-- What a capture records besides the cause (Tables 18.6, 18.7). KIND is 0 none, 1 MPA, 2 DPA, 3 HPA. -/
structure Cap where
  addr : Nat
  kind : Nat
  master : Nat
  access : Nat
  key : Option Nat
deriving DecidableEq, Repr

/-- No request is involved (R445). -/
def Cap.none : Cap := ⟨0, 0, 0x7F, 0xF, Option.none⟩

/-- The word of FE_SRC (Table 18.7). -/
def feSrc (bit : Nat) (c : Cap) : Word :=
  place 46 c.kind ||| place 40 (if c.key.isSome then 1 else 0) ||| place 32 (c.master % 128) |||
    place 24 (c.access % 16) ||| place 8 (c.key.getD 0 % 4096) ||| place 0 (bit % 32)

/-- A cause is set: the bit, the count, and a capture if none is held and the cause is unmasked (R440 to R445). -/
def headerSet (h : Header) (bit : Nat) (c : Cap) (now : Nat) : Header :=
  let h1 := { h with cause := h.cause ||| BitVec.ofNat 32 (1 <<< bit), errCount := satAdd 48 h.errCount 1 }
  if h.firstValid || h.mask.getLsbD bit then h1
  else { h1 with firstValid := true, feAddr := BitVec.ofNat 64 c.addr, feSrc := feSrc bit c,
                 feTime := BitVec.ofNat 64 now }

/-- The causes whose defining rule names an address for FE_ADDR: BAD_ACCESS (R492), DECODE_MISS and PROTOCOL (R42, R497),
the walk faults (R73), TAG_FAIL (R151, R170), NODE_TAG_FAIL (R152), GLUME_CRC and GLUME_FORMAT (R170). -/
def namesAddr (b : Fin 40) (bit : Nat) : Bool :=
  match b.val with
  | 0 => bit = 1
  | 1 | 2 | 3 | 4 => bit = 5 || bit = 11
  | 5 => 1 ≤ bit && bit ≤ 4
  | 6 | 7 | 8 | 9 | 10 | 11 | 12 | 13 => bit = 11 || bit = 13 || bit = 16 || bit = 17
  | _ => false

/-- FE_ADDR is zero with KIND 0 where the rule of the cause names no address (R445). -/
def capFor (b : Fin 40) (bit : Nat) (c : Cap) : Cap := if namesAddr b bit then c else { c with addr := 0, kind := 0 }

/-- Set cause `bit` of block `b` with the capture `c`. -/
def raise (b : Fin 40) (bit : Nat) (c : Cap) (s : State) : State :=
  { s with headers := updAt s.headers b fun h => headerSet h bit (capFor b bit c) s.dtime }

/-- Several causes of one block cycle: the highest bit is captured (R443). -/
def raiseBits (b : Fin 40) (v : BitVec 32) (c : Cap) (s : State) : State :=
  ((List.range 32).reverse.filter fun i => v.getLsbD i).foldl (fun t i => raise b i c t) s

/-- A cause is armed for injection (R449). -/
def armed (s : State) (b : Fin 40) (bit : Nat) : Bool := s.headers[b].armed.getLsbD bit

/-- An armed cause disarms as it fires. -/
def disarm (b : Fin 40) (bit : Nat) (s : State) : State :=
  { s with headers := updAt s.headers b fun h =>
      { h with armed := h.armed &&& ~~~ BitVec.ofNat 32 (1 <<< bit) } }

/-- Every spikelet runs in ordered-class mode (R111). -/
def allOrdered (s : State) : Bool := s.spks.toList.all (·.orderedActive)

/-- An armed cause fires at a matching event once ordered-class mode is set in every spikelet (R449). -/
def fires (s : State) (b : Fin 40) (bit : Nat) : Bool := armed s b bit && allOrdered s

/-- A refused write: a bus error to the writer and REFUSED_WRITE, which the capture gives to the writer (R15, R446,
R447). -/
def refusedWrite (b : Fin 40) (bit : Nat) (m : Master) (off : Nat) (s : State) : State :=
  emit (.busError m off) (raise b bit ⟨0, 0, masterId m, 0xF, none⟩ s)

/-! ## Masters -/

def isGerm : Master → Bool
  | .germ => true
  | _ => false

def isBran : Master → Bool
  | .bran _ => true
  | _ => false

def isHost : Master → Bool
  | .link _ _ => true
  | _ => false

/-! ## Performance counters (R452 to R457) -/

/-- Offset of PERF_SEL_n and of PERF_CTL. -/
def offPerfSel (n : Nat) : Nat := 0x3C1000 + 8 * n
def offPerfCtl : Nat := 0x3C0100

/-- The block instance of a counter: its first counter and how many it has (Table 19.1). -/
def perfGroup (n : Nat) : Nat × Nat :=
  if n < 128 then (16 * (n / 16), 16) else if n < 160 then (128 + 8 * ((n - 128) / 8), 8)
  else (160 + 2 * ((n - 160) / 2), 2)

def offWinStart : Nat := 0x3C0108
def offWinLen : Nat := 0x3C0110

/-- Whether counting is open: FREEZE clear, and, when WINDOW_EN is set, DTIME inside [START, START + LEN) (R453, R457). -/
def perfOpen (s : State) : Bool :=
  let ctl := kget 0 s.regs offPerfCtl
  let start := (kget 0 s.regs offWinStart).toNat
  !flag ctl 0 && (!flag ctl 1 || (s.perf.window ≠ .done && start ≤ s.dtime &&
    s.dtime < start + (kget 0 s.regs offWinLen).toNat))

/-- Add `amount` to counter `n`; a carry goes to a chained counter of the same instance or is lost (R453). `fuel`
bounds the chain by the counters of an instance. -/
def perfAdd : Nat → Nat → Nat → State → State
  | 0, _, _, s => s
  | fuel + 1, n, amount, s =>
    let c := kget 0 s.perf.counts n + amount
    let s1 := { s with perf := { s.perf with counts := kset 0 s.perf.counts n (c % 2 ^ 48) } }
    if c < 2 ^ 48 then s1
    else
      let sel := kget 0 s.regs (offPerfSel (n + 1))
      let (b, k) := perfGroup n
      if n + 1 < b + k && flag sel 63 && field sel 0 8 = 0 then perfAdd fuel (n + 1) (c / 2 ^ 48) s1
      else
        let j := n / 64
        let s2 := { s1 with perf := { s1.perf with
          ovf := kset 0 s1.perf.ovf j (kget 0 s1.perf.ovf j ||| BitVec.ofNat 64 (1 <<< (n % 64))) } }
        raise blkPerf 1 Cap.none s2

/-- An event of a block instance: every enabled counter of the instance that selects it counts (R453, R454). `cls` is
the service class of an event marked C. -/
def perfEvent (first count event amount : Nat) (cls : Option Nat) (s : State) : State :=
  if amount = 0 || !perfOpen s then s
  else (List.range count).foldl (fun t i =>
    let sel := kget 0 t.regs (offPerfSel (first + i))
    let mask := field sel 48 8
    let ok := match cls with
      | none => true
      | some c => mask = 0 || mask.testBit c
    if flag sel 63 && field sel 0 8 = event && ok then perfAdd count (first + i) amount t else t) s

def perfSpk (k : Fin 8) (event amount : Nat) (cls : Option Nat) (s : State) : State :=
  perfEvent (16 * k) 16 event amount cls s
def perfPort (p : Fin 4) (event amount : Nat) (cls : Option Nat) (s : State) : State :=
  perfEvent (128 + 8 * p) 8 event amount cls s
def perfMc (x : Fin 16) (event amount : Nat) (cls : Option Nat) (s : State) : State :=
  perfEvent (160 + 2 * x) 2 event amount cls s

end Sys2Proof.Machine
end

