-- ==== Sys2Proof/Machine/Regs.lean ====
section
/-! DEFINITION. The writable register fields of BAR0: places, legal values, lock groups, reset values, and who may write
them (R7 to R9, R489, R490, and the owning chapters' register tables). -/

namespace Sys2Proof.Machine

/-! ## Offsets of the registers that rules name -/

def offPort (p : Nat) : Nat := 0x10000 + 0x10000 * p
def offPortCtl (p : Nat) : Nat := offPort p + 0x100
def offDrainCfg (p : Nat) : Nat := offPort p + 0x120
def offDecMap (p ld d : Nat) : Nat := offPort p + 0x400 + 8 * (4 * ld + d)
def offShfRoot : Nat := 0x80100
def offShfInvTimeout : Nat := 0x80118
def offShfFillKey : Nat := 0x80180
def offShfFillMap : Nat := 0x80188
def offShfFillCmd : Nat := 0x80190
def offShfInvRange : Nat := 0x801A0
def offShfWcFlush : Nat := 0x801C0
def offSpk (k : Nat) : Nat := 0x100000 + 0x10000 * k
def offCohCtl (k : Nat) : Nat := offSpk k + 0x100
def offSpkHold (k : Nat) : Nat := offSpk k + 0x108
def offBiCfg (k : Nat) : Nat := offSpk k + 0x110
def offPgCmd (k : Nat) : Nat := offSpk k + 0x140
def offMc (x : Nat) : Nat := 0x200000 + 0x10000 * x
def offRankMap (x : Nat) : Nat := offMc x + 0x110
def offRdCfg (x : Nat) : Nat := offMc x + 0x120
def offRecalCfg (x : Nat) : Nat := offMc x + 0x148
def offCalSel (x : Nat) : Nat := offMc x + 0x160
def offScrubCfg (x : Nat) : Nat := offMc x + 0x180
def offRasCfg (x : Nat) : Nat := offMc x + 0x198
def offSpareCmd (x : Nat) : Nat := offMc x + 0x1B8
def offSlotCmd : Nat := 0x300100
def offSlotPolicy : Nat := 0x300108
def offSlotMask : Nat := 0x300110
def offRetireTimeout : Nat := 0x300158
def offTierWm (n : Nat) : Nat := 0x310108 + 0x10 * n
def offHotCfg : Nat := 0x310120
def offHotSel : Nat := 0x310128
def offQosWindow : Nat := 0x320100
def offEwmaCfg : Nat := 0x320108
def offQosAdmit (c : Nat) : Nat := 0x320140 + 8 * c
def offQosShare (c : Nat) : Nat := 0x320180 + 8 * c
def offQosTarget (c : Nat) : Nat := 0x3201C0 + 8 * c
def offTilState : Nat := 0x340100
def offTilCtl : Nat := 0x340108
def offTilCfg : Nat := 0x340110
def offPairState : Nat := 0x350100
def offPairGen : Nat := 0x350108
def offPairCfg : Nat := 0x350118
def offPwrCfg : Nat := 0x380110
def offPwrAvs : Nat := 0x380118
def offWakeCfg : Nat := 0x380128
def offWakeTime : Nat := 0x380130
def offStookLog0 : Nat := 0x380140
def offStookLog1 : Nat := 0x380148
def offDropped : Nat := 0x380150
def offFeedCfg : Nat := 0x390108
def offHuskTiming : Nat := 0x390110
def offHuskSeal : Nat := 0x390120
def offOutLimit (o : Nat) : Nat := 0x390160 + 8 * o
def offCurve (o k : Nat) : Nat := 0x390200 + 8 * (8 * o + k)
def offGateDis : Nat := 0x3A0110

/-! ## Fields -/

/-- A writable field: place, lock group of an RWL field, and the range of its legal values. -/
structure Fld where
  lo : Nat
  w : Nat
  lock : Option Nat
  min : Nat
  max : Nat
deriving DecidableEq, Repr

def rw (lo w : Nat) : Fld := ⟨lo, w, none, 0, 2 ^ w - 1⟩
def rwIn (lo w min max : Nat) : Fld := ⟨lo, w, none, min, max⟩
def rwl (lo w g min max : Nat) : Fld := ⟨lo, w, some g, min, max⟩

/-- The plainly written fields of the register at offset `r` of a block of TYPE `t`: RW, RWL and RS fields that need no
more than their own range (Tables 2.10 to 20.6). Fields kept elsewhere in the state are not here. -/
def fieldsOf (t r : Nat) : List Fld :=
  match t with
  | 2 =>
    if r = 0x100 then [rwl 8 1 0 0 1]
    else if r = 0x120 then [rwIn 0 16 1 0xFFFF]
    else if 0x400 ≤ r && r < 0x600 then [rw 28 4, rw 16 8]
    else []
  | 3 =>
    match r with
    | 0x100 => [rw 12 32]
    | 0x118 => [rwIn 0 16 1 0xFFFF]
    | 0x180 => [rw 56 2, rw 48 6, rw 12 33]
    | 0x188 => [rw 0 64]
    | 0x190 => [rw 32 16]
    | 0x1A0 => [rwIn 58 6 12 45, rw 57 1, rw 48 6, rw 12 33]
    | 0x1C0 => [rwIn 58 6 12 45, rw 57 1, rw 48 6, rw 12 33]
    | _ => []
  | 4 =>
    match r with
    | 0x100 => [rw 0 1]
    | 0x108 => [rwIn 0 12 64 4000]
    | 0x110 => [rwIn 0 16 1 0xFFFF]
    | 0x140 => [rwIn 60 4 1 3, rw 12 32]
    | _ => []
  | 5 =>
    match r with
    | 0x110 => [rw 0 8]
    | 0x120 => [rwl 0 16 2 256 0xFFFF]
    | 0x148 => [rwl 0 8 3 4 64]
    | 0x160 => [rw 14 1, rw 12 2, rw 8 3, rw 0 6]
    | 0x180 => [rw 32 1, rwIn 16 8 0 195, rwIn 0 7 1 125]
    | 0x198 => [rwl 8 8 4 1 255, rwl 0 8 4 1 255]
    | 0x1B8 => [rwIn 60 3 1 2, rw 12 2, rw 10 2, rw 8 1, rw 4 3, rw 0 2]
    | _ => []
  | 6 =>
    match r with
    | 0x100 => [rwIn 60 4 1 5, rw 32 12]
    | 0x108 => [rw 0 3]
    | 0x110 => [rw 0 64]
    | 0x158 => [rwIn 0 16 1 0xFFFF]
    | _ => []
  | 7 =>
    match r with
    | 0x108 => [rwl 40 24 1 0 0xFFFFFF, rwl 16 24 1 32 0xFFFFFF, rwl 0 16 1 1 0xFFFF]
    | 0x118 => [rwl 40 24 1 0 0xFFFFFF, rwl 16 24 1 32 0xFFFFFF, rwl 0 16 1 1 0xFFFF]
    | 0x120 => [rwIn 8 8 1 255, rw 0 4]
    | 0x128 => [rw 12 3, rw 0 12]
    | _ => []
  | 8 =>
    if r = 0x100 then [rwIn 0 16 100 0xFFFF]
    else if r = 0x108 then [rwIn 0 4 1 8]
    else if 0x140 ≤ r && r < 0x180 then [rwIn 0 16 1 0xFFFF]
    else if 0x180 ≤ r && r < 0x1C0 then [rwIn 48 10 1 1023, rwIn 32 9 1 256, rwIn 16 9 0 256]
    else if 0x1C0 ≤ r && r < 0x200 then [rwIn 0 20 100 1000000]
    else []
  | 9 =>
    match r with
    | 0x100 => [rwIn 44 4 0 9]
    | 0x108 => [rw 1 1]
    | 0x110 => [rwl 32 10 5 20 1000, rwl 24 6 5 1 32, rwIn 16 7 5 100, rwIn 0 10 5 640]
    | _ => []
  | 10 =>
    match r with
    | 0x100 => [rw 56 8]
    | 0x108 => [rw 0 64]
    | 0x118 => [rwl 32 16 6 100 10000, rwl 24 8 6 20 60, rwIn 16 8 5 40, rwIn 8 8 3 10, rwIn 0 8 1 4]
    | _ => []
  | 11 =>
    match r with
    | 0x110 => [rwl 16 1 8 0 1, rwl 0 16 8 10 65535]
    | 0x128 => [rw 1 1, rw 0 1]
    | 0x130 => [rw 0 64]
    | 0x140 => [rw 0 64]
    | 0x148 => [rwIn 62 2 0 2, rw 61 1, rw 0 56]
    | 0x150 => [rw 0 32]
    | _ => []
  | 12 =>
    if r = 0x108 then [rwl 48 16 7 9000 12000, rwl 32 16 7 12500 16000, rwl 16 16 7 0 0xFFFF]
    else if r = 0x110 then [rwl 48 16 7 100 1600, rwl 32 16 7 100 60000]
    else if r = 0x120 then [rw 4 4]
    else if 0x160 ≤ r && r < 0x180 then [rwl 32 16 7 1000 29000, rwl 0 16 7 500 20000]
    else if 0x200 ≤ r && r < 0x300 then [rwl 32 24 7 1 10000000, rwl 0 16 7 0 0xFFFF]
    else []
  | 13 => if r = 0x110 then [rw 0 64] else []
  | 14 =>
    if r = 0x100 then [rw 1 1, rw 0 1]
    else if r = 0x108 then [rw 0 64]
    else if r = 0x110 then [rwIn 0 64 1 (2 ^ 64 - 1)]
    else if 0x1000 ≤ r && r < 0x1600 then [rw 63 1, rw 60 2, rw 48 8, rw 16 16, rw 0 8]
    else []
  | _ => []

/-- The reset value of the writable fields of a register, those with Reset IMG reading 0 before an image
(log entry 5), and the husk die's settings the defaults of Table 13.9 until limits are sent to it (log entry 25). -/
def regReset (off : Nat) : Word :=
  match blkOf off with
  | none => 0
  | some b =>
    let r := off - blkBase b
    match (blkType b).1, r with
    | 2, 0x120 => 100
    | 3, 0x118 => 100
    | 3, 0x1A0 => place 58 12
    | 3, 0x1C0 => place 58 12
    | 4, 0x100 => 1
    | 4, 0x110 => 100
    | 5, 0x110 => 0xE4
    | 6, 0x158 => 100
    | 7, 0x120 => place 8 100 ||| 6
    | 9, 0x108 => 2
    | 9, 0x110 => place 16 10 ||| 20
    | 10, 0x118 => place 16 10 ||| place 8 6 ||| 4
    | 11, 0x110 => place 16 1 ||| 100
    | 11, 0x128 => 2
    | 12, 0x108 => place 48 10800 ||| place 32 13200 ||| place 16 11000
    | 12, 0x110 => place 48 400 ||| place 32 2000
    | _, _ => 0

/-- The writable fields of the register at `off`. -/
def regGet (s : State) (off : Nat) : Word := kget (regReset off) s.regs off

/-- The register at `off` set whole by hardware or firmware. -/
def regSet (off : Nat) (v : Word) (s : State) : State := { s with regs := kset (regReset off) s.regs off v }

/-- One field of it. -/
def regField (s : State) (off lo w : Nat) : Nat := field (regGet s off) lo w
def regSetField (off lo w v : Nat) (s : State) : State := regSet off (setField (regGet s off) lo w v) s

/-- The loaded image does not leave a lock group unlocked; with no image loaded none is (R7, R358). -/
def lockedGroup (s : State) (g : Nat) : Bool :=
  match s.img with
  | none => true
  | some i => i.locks.testBit g

/-- Which half of a register a write covers (R490). -/
inductive Half where
  | whole | low | high
deriving DecidableEq, Repr

/-- A field lies in the written half. -/
def inHalf (h : Half) (lo w : Nat) : Bool :=
  match h with
  | .whole => true
  | .low => lo + w ≤ 32
  | .high => 32 ≤ lo

/-- A written field takes its value unless it is locked, or the value is reserved (R7, R9). -/
def putField (s : State) (h : Half) (v : Word) (old : Word) (f : Fld) : Word :=
  let x := field v f.lo f.w
  let locked := match f.lock with
    | none => false
    | some g => lockedGroup s g
  if inHalf h f.lo f.w && !locked && f.min ≤ x && x ≤ f.max then setField old f.lo f.w x else old

/-- The block TYPE and the offset inside the block. -/
def typeAt (off : Nat) : Nat × Nat :=
  match blkOf off with
  | none => (0, 0)
  | some b => ((blkType b).1, off - blkBase b)

/-- The fields of the register at `off` as a write of `v` leaves them, each field on its own (R9). -/
def writtenWord (s : State) (h : Half) (off : Nat) (v : Word) : Word :=
  let (t, r) := typeAt off
  (fieldsOf t r).foldl (putField s h v) (regGet s off)

/-- Ceiling of a class's budget: the image's BUDGET (R354). -/
def budgetCeiling (s : State) (c : Nat) : Nat :=
  match s.img with
  | none => 0
  | some i => ((i.classes.drop c).head?.map (·.budget)).getD 0

/-- A write that the register's table judges by more than one field's range leaves what it names unchanged: TIER_WM
CRITICAL below LOW (Table 7.9), BUDGET at most CEILING (Table 10.6), Q_MIN and Q_MAX
(Table 10.7), the order of the feed limits (Table 15.9). -/
def crossCheck (s : State) (off : Nat) (old new : Word) : Word :=
  let (t, r) := typeAt off
  if t = 7 && (r = 0x108 || r = 0x118) then
    if field new 16 24 < field new 40 24 then new else setField new 16 24 (field old 16 24)
  else if t = 8 && 0x140 ≤ r && r < 0x180 then
    if field new 0 16 ≤ budgetCeiling s ((r - 0x140) / 8) then new else old
  else if t = 8 && 0x180 ≤ r && r < 0x1C0 then
    let other := ((List.range 8).filter (· ≠ (r - 0x180) / 8)).foldl (fun a c => a + field (regGet s (0x320180 + 8 * c)) 16 9) 0
    if field new 16 9 ≤ field new 32 9 && other + field new 16 9 ≤ 256 then new
    else setField (setField new 16 9 (field old 16 9)) 32 9 (field old 32 9)
  else if t = 12 && r = 0x108 then
    if field new 48 16 < field new 16 16 && field new 16 16 < field new 32 16 then new else old
  else new

/-- A plain register write of a permitted master. -/
def regWrite (h : Half) (off : Nat) (v : Word) (s : State) : State :=
  regSet off (crossCheck s off (regGet s off) (writtenWord s h off v)) s

/-- A register has a writable field crossing bit 32, so a 32-bit write to it is a bad access (R489). -/
def crosses32 (off : Nat) : Bool :=
  let (t, r) := typeAt off
  (fieldsOf t r).any (fun f => f.lo < 32 && 32 < f.lo + f.w) ||
    (t = 14 && ((0x2000 ≤ r && r < 0x2600) || (0x120 ≤ r && r < 0x138))) || (t = 13 && r = 0x100) ||
    (t = 6 && 0x120 ≤ r && r < 0x140)

/-! ## Who may write -/

/-- The bit of REFUSED_WRITE in each block's STATUS, by TYPE. -/
def refusedBit (t : Nat) : Nat :=
  match t with
  | 2 => 12
  | 3 => 9
  | _ => 0

/-- LD n of the device is carried by link `l` of port `p` (R427, LD_LINK). -/
def linkCarries (s : State) (p l n : Nat) : Bool :=
  match s.img with
  | none => false
  | some i => n / 16 = p && match (i.lds.drop n).head? with
    | some d => d.valid && d.link = l
    | none => false

/-- Whether `m` may write the register at offset `r` of block `b` (R59, R85, R114, R197, R225, R264, R295, R329, R400,
R422, R427, R438, R446, R460, R472, R492). -/
def mayWrite (s : State) (b : Nat) (r : Nat) (m : Master) : Bool :=
  let t := (blkType b).1
  if r < 0x18 || (0x20 ≤ r && r < 0x48) then
    match r / 8 with
    | 0 => isGerm m || isBran m || isHost m
    | 1 => isGerm m
    | 2 => isGerm m || isHost m
    | 8 => isGerm m || isBran m || isHost m
    | _ => false
  else if r < 0x100 then true
  else match t with
    | 1 => false
    | 2 => match m with
      | .link p _ => b = 1 + p.val
      | .germ => true
      | _ => false
    | 5 => isGerm m || ((r / 8 = 0x160 / 8 || r / 8 = 0x168 / 8) && (isHost m || isBran m))
    | 7 => isGerm m || (r / 8 = 0x128 / 8 && isBran m)
    | 12 => isGerm m || (r / 8 = 0x120 / 8 && m = .sequencer)
    | 13 => isGerm m || (r / 8 = 0x100 / 8 && (isHost m || isBran m))
    | 14 => isGerm m || isHost m
    | 15 =>
      if r / 8 = 0x100 / 8 || (0x2000 ≤ r && r < 0x4000) then isBran m
      else if 0x4000 ≤ r && r < 0x5000 then isGerm m
      else
        let pair := if 0x10000 ≤ r && r < 0x50000 then some ((r - 0x10000) / 0x1000)
          else if 0x80000 ≤ r then some ((r - 0x80000) / 0x2000) else none
        match pair, m with
        | some n, .link p l => linkCarries s p l n
        | _, .germ => true
        | _, _ => false
    | _ => isGerm m

/-- A write to `off` by `m`: performed as `f` if `m` may write there, otherwise refused (R15, R446). -/
def guardWrite (m : Master) (off : Nat) (f : State → State) (s : State) : State :=
  match blkOf off with
  | none => s
  | some b =>
    if mayWrite s b (off - blkBase b) m then f s
    else refusedWrite b (refusedBit (blkType b).1) m off s

end Sys2Proof.Machine
end

