-- ==== Sys2Proof/Machine/Place.lean ====
section
/-! DEFINITION. Where an MPA lives: its home (R86), its channel and DRAM coordinates (R205 to R207), the structures of the
MAP section (R134, R345) and what a line of each address is. -/

namespace Sys2Proof.Machine

/-! ## Home and local address -/

/-- XOR of the ten 3-bit chunks [14:12] to [41:39]. -/
def homeChunks (m : Nat) : Nat → Nat
  | 0 => 0
  | i + 1 => bitsAt m (12 + 3 * i) 3 ^^^ homeChunks m i

/-- The home spikelet of an MPA (R86). -/
def home (m : Nat) : Nat := homeChunks m 10 ^^^ bitsAt m 42 2

/-- LA = (m[43:15] << 12) | m[11:0] (R205). -/
def localAddr (m : Nat) : Nat := (bitsAt m 15 29 <<< 12) ||| bitsAt m 0 12

/-- The MPA of home `h` at local address `la`: the chunk [14:12] that gives this home (R205: one to one). -/
def mpaOf (h la : Nat) : Nat :=
  let base := ((la >>> 12) <<< 15) ||| la % 4096
  base ||| ((home base ^^^ h) <<< 12)

/-- The geometry of R200: row width, stack log2, ranks, 256 B unit. -/
structure Geom where
  rowBits : Nat
  stack : Nat
  ranks : Nat
  unit256 : Bool
deriving DecidableEq, Repr

def geom (s : State) : Geom :=
  match s.img with
  | none => ⟨16, 0, 1, false⟩
  | some i => ⟨i.rowBits, i.stack, i.ranks, i.unit256⟩

/-- Populated capacity P (R200). -/
def populated (g : Geom) : Nat := 16 * (g.ranks * 2 ^ (g.rowBits + g.stack + 19))

/-- DRAM coordinates (Table 8.2). -/
structure Coord where
  chan : Nat
  subch : Nat
  rank : Nat
  chip : Nat
  bg : Nat
  ba : Nat
  row : Nat
  col : Nat
deriving DecidableEq, Repr

/-- The split of LA at home `h` (R206). -/
def coordOf (g : Geom) (h la : Nat) : Coord :=
  let row := bitsAt la 20 g.rowBits
  let chip := bitsAt la (20 + g.rowBits) g.stack
  let rank := bitsAt la (20 + g.rowBits + g.stack) (log2Of g.ranks)
  if g.unit256 then
    { chan := 2 * h + bitsAt la 8 1, subch := bitsAt la 9 1, rank := rank, chip := chip,
      bg := bitsAt la 10 3 ^^^ row % 8, ba := bitsAt la 13 2 ^^^ bitsAt row 3 2, row := row,
      col := (bitsAt la 15 5 <<< 2) ||| bitsAt la 6 2 }
  else
    { chan := 2 * h + bitsAt la 6 1, subch := bitsAt la 7 1, rank := rank, chip := chip,
      bg := bitsAt la 8 3 ^^^ row % 8, ba := bitsAt la 11 2 ^^^ bitsAt row 3 2, row := row, col := bitsAt la 13 7 }

/-- LA with the rank bits cleared, and the position of those bits. -/
def rankShift (g : Geom) : Nat := 20 + g.rowBits + g.stack
def laNoRank (g : Geom) (la : Nat) : Nat := la % 2 ^ rankShift g

/-- The physical rank of a logical rank of a channel (R207). -/
def physRank (s : State) (x r : Nat) : Nat := regField s (offRankMap x) (2 * r) 2

/-- The logical rank that serves a coordinate: the spare of a retired bank, or of a rank or bank whose copy has passed
the line (R240, R242). -/
def servingRank (s : State) (x : Fin 16) (c : Coord) (la : Nat) : Nat :=
  let mc := s.mcs[x]
  match mc.remaps.find? fun b => b.valid && b.rank = c.rank && b.subch = c.subch && b.bg = c.bg && b.ba = c.ba with
  | some b => b.spare
  | none => match mc.copy with
    | some k =>
      let sameBank := !k.bank || (k.subch = c.subch && k.bg = c.bg && k.ba = c.ba)
      if k.from_ = c.rank && sameBank && la < k.ptr then k.to_ else c.rank
    | none => c.rank

/-- The physical line: channel, physical rank, LA without rank bits, in lines (log entry 7). -/
def lineKey (g : Geom) (x p la : Nat) : Nat := (4 * x + p) * 2 ^ 35 + laNoRank g la / 64

/-- Parts of a physical line. -/
def keyChan (k : Nat) : Nat := k / 2 ^ 37
def keyRank (k : Nat) : Nat := k / 2 ^ 35 % 4
def keyLa (k : Nat) : Nat := k % 2 ^ 35 * 64

/-- The channel of an MPA (R205). -/
def chanOf (s : State) (m : Nat) : Fin 16 := mc16 (coordOf (geom s) (home m) (localAddr m)).chan

/-- The physical line that an access at MPA `m` reaches now. -/
def physLine (s : State) (m : Nat) : Nat :=
  let g := geom s
  let la := localAddr m
  let c := coordOf g (home m) la
  let x := mc16 c.chan
  lineKey g x (physRank s x (servingRank s x c la)) la

/-! ## Structures of the MAP section -/

def mapAt (s : State) (i : Nat) : Nat :=
  match s.img with
  | none => 0
  | some g => (g.map.getD i 0).toNat

def metaBase (s : State) : Nat := pageBase (mapAt s 1)
def metaLimit (s : State) : Nat := pageBase (mapAt s 2)
def leafBase (s : State) : Nat := mapAt s 3
/-- CRY_NODE_BASE_c, c = 1 to 5. -/
def nodeBase (s : State) (c : Nat) : Nat := mapAt s (3 + c)
def pktBase (s : State) : Nat := mapAt s 9
def spillBase (s : State) : Nat := mapAt s 10
def strongBase (s : State) : Nat := mapAt s 11
def strongLimit (s : State) : Nat := mapAt s 12
def descBase (s : State) : Nat := mapAt s 13
def descLimit (s : State) : Nat := mapAt s 14
def dtagBase (s : State) : Nat := mapAt s 15
def branBase (s : State) : Nat := mapAt s 16
def branSize (s : State) : Nat := mapAt s 17

def roundUp (n u : Nat) : Nat := (n + u - 1) / u * u

/-- The placement function of R134. -/
def place134 (b r e a m : Nat) : Nat :=
  let g := 27 - log2Of r
  let grp := b + ((m - a) >>> g) * 0x8000
  let sel := home grp ^^^ home m
  let off := bitsAt m 15 (g - 15) * r + (m % 4096) * r / 4096 / e * e
  (grp ^^^ (sel <<< 12)) + off

/-- The slot `s` of R134 is found by search in the rule; chunk [14:12] of a 32 KiB-aligned group enters the hash alone, so
it is `home grp XOR home m`, and adding it to the group sets bits that are zero. -/
def leafAddr (s : State) (m : Nat) : Nat := place134 (leafBase s) 128 64 0 m
def spillSlot (s : State) (m : Nat) : Nat := place134 (spillBase s) 512 8 (strongBase s) m
def pktAddr (s : State) (m : Nat) : Nat := place134 (pktBase s) 2 2 0 m
def dtagSlot (s : State) (d : Nat) : Nat := place134 (dtagBase s) 512 8 (descBase s) d

/-- The MPA of the node of level `c` that covers data MPA `m` (R133); level 0 is the leaf. -/
def nodeAddr (s : State) (c m : Nat) : Nat :=
  if c = 0 then leafAddr s m else nodeBase s c + (m >>> (11 + 5 * c)) * 64

/-- The counter of a level-`c` node for the child on the path to `m` (R133). -/
def nodeSlot (c m : Nat) : Nat := (m >>> (6 + 5 * c)) % 32

/-- Bytes of the level-`c` array (Table 13.17). -/
def nodeBytes (s : State) (c : Nat) : Nat :=
  if c = 0 then populated (geom s) / 32 else roundUp (populated (geom s) / 2 ^ (5 + 5 * c)) 0x8000

def inRange (base size m : Nat) : Bool := base ≤ m && m < base + size

/-- What a line holds, by its address (R134, R133, R146, R178). -/
inductive LineKind where
  | node (c : Nat)
  | pkt
  | spill
  | dtag
  | desc
  | remap
  | bran
  | data
deriving DecidableEq, Repr

/-- In the strong span (R142). -/
def inStrong (s : State) (m : Nat) : Bool := strongBase s ≤ m && m < strongLimit s

/-- What the line at `m` is. -/
def lineKind (s : State) (m : Nat) : LineKind :=
  if inRange (leafBase s) (nodeBytes s 0) m then .node 0
  else match (List.range 5).find? fun c => inRange (nodeBase s (c + 1)) (nodeBytes s (c + 1)) m with
  | some c => .node (c + 1)
  | none =>
    if inRange (pktBase s) (populated (geom s) / 2048) m then .pkt
    else if inRange (spillBase s) ((strongLimit s - strongBase s) / 8) m then .spill
    else if inRange (dtagBase s) ((descLimit s - descBase s) / 8) m then .dtag
    else if descBase s ≤ m && m < descLimit s then .desc
    else if metaBase s ≤ m && m < metaLimit s + 4096 then .remap
    else if inRange (branBase s) (branSize s) m then .bran
    else .data

/-- The line is stored under the strong code (R142, R145, R179). -/
def isStrong (s : State) (m : Nat) : Bool :=
  match lineKind s m with
  | .remap => false
  | .bran => false
  | .data => inStrong s m
  | _ => true

/-- The spare logical ranks of a channel under the image, a bit each (Table 8.11). -/
def spareMask (s : State) (x : Nat) : Nat := (s.img.map fun i => i.spare.getD x 0).getD 0

/-- The line lies in a spare logical rank of its channel (R207). -/
def inSpare (s : State) (m : Nat) : Bool :=
  let c := coordOf (geom s) (home m) (localAddr m)
  (spareMask s c.chan).testBit c.rank

/-- Inside a protected range (R153). -/
def isProtected (s : State) (m : Nat) : Bool :=
  (List.range 8).any fun n =>
    let b := mapAt s (18 + 2 * n)
    let l := mapAt s (19 + 2 * n)
    b.testBit 63 && bitsAt b 12 32 ≤ bitsAt m 12 32 && bitsAt m 12 32 ≤ bitsAt l 12 32

/-- Host data space: populated, not protected, not Bran's, not in a spare rank (R72, R207). -/
def hostData (s : State) (m : Nat) : Bool :=
  m < populated (geom s) && !isProtected s m && lineKind s m = .data && !inSpare s m

/-- The code and the forms a read may decode in (R231). `awn` is false where the access carries a region whose awn is
off. -/
def codeOf (s : State) (m : Nat) (awn : Bool) : CodeChoice :=
  ⟨isStrong s m, awn && lineKind s m = .data⟩

end Sys2Proof.Machine
end

