-- ==== Sys2Proof/Machine/Aes.lean ====
section
/-! DEFINITION. AES-256 (FIPS 197) and GHASH (NIST SP 800-38D), the ciphers of R126 to R135 and of the Tiller link. -/

namespace Sys2Proof.Machine

/-- The S-box of FIPS 197, byte n at bits [8n+7:8n]. -/
def sboxTable : Nat :=
  0x16bb54b00f2d99416842e6bf0d89a18cdf2855cee9871e9b948ed9691198f8e19e1dc186b95735610ef6034866b53e708a8bbd4b1f74dde8c6b4a61c2e2578ba08ae7a65eaf4566ca94ed58d6d37c8e779e4959162acd3c25c2406490a3a32e0db0b5ede14b8ee4688902a22dc4f816073195d643d7ea7c41744975fec130ccdd2f3ff1021dab6bcf5389d928f40a351a89f3c507f02f94585334d43fbaaefd0cf584c4a39becb6a5bb1fc20ed00d153842fe329b3d63b52a05a6e1b1a2c830975b227ebe28012079a059618c323c7041531d871f1e5a534ccf73f362693fdb7c072a49cafa2d4adf04759fa7dc982ca76abd7fe2b670130c56f6bf27b777c63

/-- SubBytes of one byte. -/
def sbox (b : Nat) : Nat := (sboxTable >>> (8 * b)) % 256

/-- Multiplication by x in GF(2^8) with the polynomial 0x11B. -/
def xtime (b : Nat) : Nat := if b < 128 then 2 * b else (2 * b - 256) ^^^ 0x1B

/-- One column of the AES state after SubBytes, ShiftRows having picked its bytes: MixColumns. -/
def mixColumn (a b c d : Nat) : List Nat :=
  let t := a ^^^ b ^^^ c ^^^ d
  [a ^^^ t ^^^ xtime (a ^^^ b), b ^^^ t ^^^ xtime (b ^^^ c),
   c ^^^ t ^^^ xtime (c ^^^ d), d ^^^ t ^^^ xtime (d ^^^ a)]

/-- Byte `i` of a state held as sixteen bytes. -/
def stAt (s : List Nat) (i : Nat) : Nat := s.getD i 0

/-- SubBytes and ShiftRows: byte r of column c comes from column c + r. -/
def subShift (s : List Nat) : List Nat :=
  [0, 5, 10, 15, 4, 9, 14, 3, 8, 13, 2, 7, 12, 1, 6, 11].map fun i => sbox (stAt s i)

/-- MixColumns over the sixteen bytes. -/
def mixColumns : List Nat → List Nat
  | a :: b :: c :: d :: r => mixColumn a b c d ++ mixColumns r
  | _ => []

/-- AddRoundKey. -/
def xorBytes (a b : List Nat) : List Nat := List.zipWith (· ^^^ ·) a b

/-- RotWord and SubWord of the key schedule on a four-byte word. -/
def rotSub : List Nat → List Nat
  | [a, b, c, d] => [sbox b, sbox c, sbox d, sbox a]
  | w => w

/-- The four words that follow a word `prev`, from the four words eight places back. -/
def chainWords (prev : List Nat) : List (List Nat) → List (List Nat)
  | [] => []
  | w :: ws => let x := xorBytes w prev; x :: chainWords x ws

/-- The next eight words of the AES-256 key schedule, with the round constant `rc`. -/
def nextWords (ws : List (List Nat)) (rc : Nat) : List (List Nat) :=
  let last := ws.getD 7 []
  let lo := chainWords (xorBytes (rotSub last) [rc, 0, 0, 0]) (ws.take 4)
  let hi := chainWords ((lo.getD 3 []).map sbox) (ws.drop 4)
  lo ++ hi

/-- The key schedule: `n` further groups of eight words. -/
def expandKey : Nat → Nat → List (List Nat) → List (List Nat)
  | 0, _, ws => ws
  | n + 1, rc, ws => ws ++ expandKey n (xtime rc) (nextWords ws rc)

/-- Bytes grouped by four. -/
def groups4 : List Nat → List (List Nat)
  | a :: b :: c :: d :: r => [a, b, c, d] :: groups4 r
  | _ => []

/-- Words grouped into round keys of sixteen bytes. -/
def roundKeys : List (List Nat) → List (List Nat)
  | a :: b :: c :: d :: r => (a ++ b ++ c ++ d) :: roundKeys r
  | _ => []

/-- The rounds after the first AddRoundKey; the last has no MixColumns. -/
def aesRounds (s : List Nat) : List (List Nat) → List Nat
  | [] => s
  | [k] => xorBytes (subShift s) k
  | k :: ks => aesRounds (xorBytes (mixColumns (subShift s)) k) ks

/-- The bytes of a number, big-endian, as numbers. -/
def byteNats (n x : Nat) : List Nat := (natToBytesBE n x).map BitVec.toNat

/-- E(KEY, N): AES-256 of one block; key byte 0 stands at [255:248] and block byte j at [127-8j:120-8j] (R126). -/
def aes (key : BitVec 256) (n : Block) : Block :=
  let ks := roundKeys (expandKey 7 1 (groups4 (byteNats 32 key.toNat)))
  let s0 := xorBytes (byteNats 16 n.toNat) (ks.headD [])
  BitVec.ofNat 128 ((aesRounds s0 (ks.tail.take 14)).foldl (fun a b => a * 256 + b) 0)

/-- One step of the GHASH product: `z` gathers the multiples `v` of the second factor that the bits of the first
select, highest bit first. -/
def gmulLoop (x : Nat) : Nat → Nat → Nat → Nat
  | 0, z, _ => z
  | i + 1, z, v =>
    let z' := if x.testBit i then z ^^^ v else z
    let v' := if v % 2 = 1 then (v / 2) ^^^ (0xE1 <<< 120) else v / 2
    gmulLoop x i z' v'

/-- The product of GF(2^128) in the bit order of SP 800-38D. -/
def gmul (x y : Block) : Block := BitVec.ofNat 128 (gmulLoop x.toNat 128 0 y.toNat)

/-- GHASH under the subkey `h` over whole blocks. -/
def ghash (h : Block) (bs : List Block) : Block := bs.foldl (fun y b => gmul (y ^^^ b) h) 0

end Sys2Proof.Machine
end

