-- ==== Sys2Proof/Machine/Glume.lean ====
section
/-! DEFINITION. Glume-L and Glume-B, the line and block formats of R156 to R174, and the CRC-32C of R162. -/

namespace Sys2Proof.Machine

/-! ## Glume-L -/

/-- Word Wi of a line (R156). -/
def wordAt (l : Line) (i : Nat) : Word := l.extractLsb' (64 * i) 64

/-- The eight words W0 to W7 (R156). -/
def lineWords (l : Line) : List Word := (List.range 8).map (wordAt l)

/-- The line whose words are given. -/
def lineOfWords (ws : List Word) : Line :=
  BitVec.ofNat 512 (ws.foldr (fun w a => w.toNat + 2 ^ 64 * a) 0)

/-- The difference of two words fits a signed delta of `n` bytes: sign extension gives it back (R157). -/
def fitsDelta (n : Nat) (d : Word) : Bool :=
  BitVec.signExtend 64 (BitVec.setWidth (8 * n) d) == d

/-- The `n` little-endian bytes of a delta or of a base (R157). -/
def wordBytes (n : Nat) (d : Word) : List Byte := natToBytes n d.toNat

/-- The ZERO encoding (Table 6.1). -/
def encZero (ws : List Word) : Option (List Byte) :=
  if ws.all (· == 0) then some [0x01] else none

/-- The REPEAT encoding. -/
def encRepeat (ws : List Word) : Option (List Byte) :=
  if ws.all (· == ws.getD 0 0) then some (0x02 :: wordBytes 8 (ws.getD 0 0)) else none

/-- The BD encoding with deltas of `n` bytes, B = W0 (R158, step 2). -/
def encBD (n : Nat) (ws : List Word) : Option (List Byte) :=
  let b := ws.getD 0 0
  if ws.all fun w => fitsDelta n (w - b) then
    some (BitVec.ofNat 8 (0x10 + n) :: (wordBytes 8 b ++ ws.flatMap fun w => wordBytes n (w - b)))
  else none

/-- The second base of a TB encoding: the lowest-indexed word that does not fit B0 (R158, step 3); W0 when every
word fits. -/
def tbBase (n : Nat) (ws : List Word) : Word :=
  let b0 := ws.getD 0 0
  (ws.find? fun w => !fitsDelta n (w - b0)).getD b0

/-- The MASK byte of a TB encoding: bit i is 1 when word i does not fit B0 (R158, step 4). -/
def tbMask (n : Nat) (b0 : Word) : List Word → Nat
  | [] => 0
  | w :: ws => bit (!fitsDelta n (w - b0)) + 2 * tbMask n b0 ws

/-- The TB encoding with deltas of `n` bytes. -/
def encTB (n : Nat) (ws : List Word) : Option (List Byte) :=
  let b0 := ws.getD 0 0
  let b1 := tbBase n ws
  let base := fun w => if fitsDelta n (w - b0) then b0 else b1
  if ws.all fun w => fitsDelta n (w - base w) then
    some (BitVec.ofNat 8 (0x20 + n) :: (wordBytes 8 b0 ++ wordBytes 8 b1 ++
      BitVec.ofNat 8 (tbMask n b0 ws) :: ws.flatMap fun w => wordBytes n (w - base w)))
  else none

/-- The shortest Glume-L encoding that represents the line, or none for an incompressible line (R158). -/
def glumeL (l : Line) : Option (List Byte) :=
  let ws := lineWords l
  encZero ws <|> encRepeat ws <|> encBD 1 ws <|> encBD 2 ws <|> encTB 1 ws <|> encTB 2 ws <|> encBD 4 ws <|>
    encTB 4 ws

/-- The sign-extended delta of `n` bytes at byte `off` (R157). -/
def deltaAt (bs : List Byte) (n off : Nat) : Word :=
  BitVec.signExtend 64 (BitVec.ofNat (8 * n) (bytesToNat ((bs.drop off).take n)))

/-- The 8-byte base at byte `off`. -/
def baseAt (bs : List Byte) (off : Nat) : Word := BitVec.ofNat 64 (bytesToNat ((bs.drop off).take 8))

/-- The eight words of a BD encoding with deltas of `n` bytes. -/
def decBD (n : Nat) (bs : List Byte) : List Word :=
  (List.range 8).map fun i => baseAt bs 1 + deltaAt bs n (9 + n * i)

/-- The eight words of a TB encoding with deltas of `n` bytes. -/
def decTB (n : Nat) (bs : List Byte) : List Word :=
  let mask := (bs.getD 17 0).toNat
  (List.range 8).map fun i =>
    (if mask.testBit i then baseAt bs 9 else baseAt bs 1) + deltaAt bs n (18 + n * i)

/-- The length of an encoding by its header, or none for a reserved header (Table 6.1). -/
def glumeLLength (h : Byte) : Option Nat :=
  if h = 0x01 then some 1 else if h = 0x02 then some 9
  else if h = 0x11 then some 17 else if h = 0x12 then some 25 else if h = 0x14 then some 41
  else if h = 0x21 then some 26 else if h = 0x22 then some 34 else if h = 0x24 then some 50
  else none

/-- The words of an encoding whose header is not reserved. -/
def glumeLWords (bs : List Byte) : List Word :=
  let h := bs.getD 0 0
  if h = 0x01 then List.replicate 8 0
  else if h = 0x02 then List.replicate 8 (baseAt bs 1)
  else if h = 0x11 then decBD 1 bs else if h = 0x12 then decBD 2 bs else if h = 0x14 then decBD 4 bs
  else if h = 0x21 then decTB 1 bs else if h = 0x22 then decTB 2 bs else decTB 4 bs

/-- Bytes 0 to 55 of an awn decoded: none when the header is reserved or a padding byte is not zero (R160). -/
def glumeLDecode (bs : List Byte) : Option Line :=
  match glumeLLength (bs.getD 0 0) with
  | none => none
  | some n => if (bs.drop n).all (· == 0) then some (lineOfWords (glumeLWords bs)) else none

/-- The 56 plaintext bytes of an awn: the encoding, then zeros (R160). -/
def awnBytes (enc : List Byte) : List Byte := enc ++ List.replicate (56 - enc.length) 0

/-! ## Glume-B -/

/-- One bit of the reflected CRC-32C (R162). -/
def crcBit (c : Nat) : Nat := if c % 2 = 1 then (c / 2) ^^^ 0x82F63B78 else c / 2

/-- One byte of the CRC-32C. -/
def crcByte (c : Nat) (b : Byte) : Nat :=
  crcBit (crcBit (crcBit (crcBit (crcBit (crcBit (crcBit (crcBit (c ^^^ b.toNat))))))))

/-- The CRC-32C of a byte string (R162). -/
def crc32c (bs : List Byte) : Nat := (bs.foldl crcByte 0xFFFFFFFF) ^^^ 0xFFFFFFFF

/-- The bits of a token stream: bit 0 of each byte first (R165). -/
def streamBits (bs : List Byte) : List Bool :=
  bs.flatMap fun b => (List.range 8).map b.getLsbD

/-- A number whose bits come least significant first (R165). -/
def bitsLsb : List Bool → Nat
  | [] => 0
  | b :: bs => bit b + 2 * bitsLsb bs

/-- The length prefix of a match: the lowest length of the row, its extra bits and the rest of the stream; `none` for
a prefix that runs off the stream (Table 6.4). The prefix 111111 is END and is answered by length 0. -/
def lengthPrefix : List Bool → Option (Nat × Nat × List Bool)
  | false :: false :: r => some (3, 0, r)
  | false :: true :: r => some (4, 0, r)
  | true :: false :: false :: r => some (5, 1, r)
  | true :: false :: true :: r => some (7, 2, r)
  | true :: true :: false :: false :: r => some (11, 3, r)
  | true :: true :: false :: true :: r => some (19, 4, r)
  | true :: true :: true :: false :: false :: r => some (35, 5, r)
  | true :: true :: true :: false :: true :: r => some (67, 6, r)
  | true :: true :: true :: true :: false :: r => some (131, 8, r)
  | true :: true :: true :: true :: true :: false :: r => some (387, 10, r)
  | true :: true :: true :: true :: true :: true :: r => some (0, 0, r)
  | _ => none

/-- The match copy: `n` bytes, each from `d` positions back; `out` is the output so far, newest byte first (R167). -/
def copyBack (d : Nat) : Nat → List Byte → List Byte
  | 0, out => out
  | n + 1, out => copyBack d n (out.getD (d - 1) 0 :: out)

/-- The token stream decoded: the bytes produced, newest first, and the bits after END; none when a token or END is
not valid (R166, R167, R168). `fuel` bounds the tokens. -/
def lzTokens : Nat → List Bool → Nat → List Byte → Option (List Byte × List Bool)
  | 0, _, _, _ => none
  | fuel + 1, bs, p, out =>
    match bs with
    | [] => none
    | false :: r =>
      if r.length < 8 ∨ 1024 ≤ p then none
      else lzTokens fuel (r.drop 8) (p + 1) (BitVec.ofNat 8 (bitsLsb (r.take 8)) :: out)
    | true :: r =>
      match lengthPrefix r with
      | none => none
      | some (0, _, r) => if p = 1024 then some (out, r) else none
      | some (lo, ex, r) =>
        if r.length < ex + 10 then none else
        let len := lo + bitsLsb (r.take ex)
        let d := bitsLsb ((r.drop ex).take 10)
        if d < 1 ∨ p < d ∨ 1021 < len ∨ 1024 < p + len then none
        else lzTokens fuel (r.drop (ex + 10)) (p + len) (copyBack d len out)

/-- What a decompression finds (R170, checks 2 to 5). -/
inductive BlockResult where
  | ok (bytes : List Byte)
  | format
  | crc
deriving DecidableEq, Repr

/-- A Glume-B block of the granule bytes given decompressed and checked in the order of R170. -/
def glumeBDecode (bs : List Byte) : BlockResult :=
  let h := bytesToNat (bs.take 4)
  let fmt := bitsAt h 28 4
  let len := bitsAt h 0 11
  let check := fun out =>
    if crc32c out = bytesToNat ((bs.drop (len - 4)).take 4) then BlockResult.ok out else .crc
  if (fmt ≠ 1 ∧ fmt ≠ 2) ∨ bitsAt h 25 3 ≠ 0 ∨ bitsAt h 11 13 ≠ 0 then .format
  else if fmt = 2 then
    if len = 8 then check (List.replicate 1024 0) else .format
  else if len < 9 ∨ 768 < len then .format
  else
    let bits := streamBits ((bs.drop 4).take (len - 8))
    match lzTokens 1026 bits 0 [] with
    | none => .format
    | some (out, rest) => if rest.length < 8 ∧ rest.all (· == false) then check out.reverse else .format

/-- LENGTH of a block (R163) and the granules it takes (R169). -/
def blockLength (bs : List Byte) : Nat := bitsAt (bytesToNat (bs.take 4)) 0 11
def granulesOf (len : Nat) : Nat := (len + 255) / 256

/-- The ZERO block the compressor writes for zero plaintext (R164); RECOMPRESSED as told (Table 6.2). -/
def zeroBlock (recompressed : Bool) : List Byte :=
  natToBytes 4 (2 * 2 ^ 28 + bit recompressed * 2 ^ 24 + 8) ++ natToBytes 4 (crc32c (List.replicate 1024 0))

/-- An LZ block around a token stream (R162, R163). -/
def lzBlock (recompressed : Bool) (stream : List Byte) (plain : List Byte) : List Byte :=
  natToBytes 4 (2 ^ 28 + bit recompressed * 2 ^ 24 + (stream.length + 8)) ++ stream ++ natToBytes 4 (crc32c plain)

/-- The block a job writes for `plain`, with the compressor's choice `stream` of tokens. None when the choice is no
stream for `plain`; the length may exceed 768, and the job then fails (R164, R168, R173). -/
def compressBlock (recompressed : Bool) (stream plain : List Byte) : Option (List Byte) :=
  if plain.all (· == 0) then some (zeroBlock recompressed)
  else if 760 < stream.length then some (lzBlock recompressed stream plain)
  else
    match glumeBDecode (lzBlock recompressed stream plain) with
    | .ok out => if out = plain then some (lzBlock recompressed stream plain) else none
    | _ => none

end Sys2Proof.Machine
end

