-- ==== Sys2Proof/Machine/Seal.lean ====
section
/-! DEFINITION. Sealing and opening one line, and the tags of counter blocks and culm nodes (R126 to R131, R135,
R142 to R147). -/

namespace Sys2Proof.Machine

/-- What a seal is bound to besides the data: key and subkey, key index, MPA and counters. -/
structure SealKey where
  key : BitVec 256
  h : Block
  idx : Nat
deriving DecidableEq, Repr

/-- The counters of a line (R132). -/
structure Ctr where
  major : Nat
  minor : Nat
deriving DecidableEq, Repr

/-- The input block N of Table 5.5. -/
def inputBlock (mpa : Nat) (c : Ctr) (block domain : Nat) : Block :=
  BitVec.ofNat 128 ((bitsAt mpa 6 38 <<< 90) ||| ((c.major % 2 ^ 64) <<< 26) ||| ((c.minor % 4096) <<< 14) |||
    (block <<< 12) ||| (domain <<< 11))

/-- The length block L of Table 5.6. -/
def lenBlock (mpa : Nat) (c : Ctr) (idx : Nat) (awn : Bool) : Block :=
  BitVec.ofNat 128 ((bitsAt mpa 6 38 <<< 90) ||| ((c.major % 2 ^ 64) <<< 26) ||| ((c.minor % 4096) <<< 14) |||
    ((idx % 4096) <<< 2) ||| (bit awn <<< 1))

/-- The tag-hash subkey of a key (R127, R131). -/
def subkey (key : BitVec 256) : Block := aes key 0x400

/-- The 64 keystream bytes of a line (R126). -/
def keystream (key : BitVec 256) (mpa : Nat) (c : Ctr) : Line :=
  (List.range 4).foldl (fun a i =>
    a ||| ((blockToLE (aes key (inputBlock mpa c i 0))).setWidth 512 <<< (128 * i))) 0

/-- A line with bytes 56 to 63 zero. -/
def low56 (l : Line) : Line := (l.extractLsb' 0 448).setWidth 512

/-- The four blocks of a line as byte strings. -/
def lineBlocks (l : Line) : List Block := (List.range 4).map fun i => blockOfLE (l.extractLsb' (128 * i) 128)

/-- Bits [127:64] of a block: a tag T. -/
def highHalf (b : Block) : BitVec 64 := b.extractLsb' 64 64

/-- Eight bytes stored T[63:56] first, as the little-endian word they make, and back (R128). -/
def tagSwap (t : BitVec 64) : BitVec 64 := BitVec.ofNat 64 (bytesToNat (natToBytesBE 8 t.toNat))

/-- The tag of a line's stored data (R128); for an awn bytes 56 to 63 count as zero. -/
def lineTag (k : SealKey) (mpa : Nat) (c : Ctr) (awn : Bool) (stored : Line) : BitVec 64 :=
  let d := if awn then low56 stored else stored
  highHalf (ghash k.h (lineBlocks d ++ [lenBlock mpa c k.idx awn])) ^^^ highHalf (aes k.key (inputBlock mpa c 0 1))

/-- A sealed line: its image and, for the SPILL form, the stored tag word of its slot. -/
structure Sealed where
  img : Image
  spill : Option (BitVec 64)
deriving DecidableEq, Repr

/-- A line with its bytes 56 to 63 set. -/
def setTop (l : Line) (t : BitVec 64) : Line := low56 l ||| (t.setWidth 512 <<< 448)

/-- Seal in the LIGHT form: the tag in device 9 (R128, R142). -/
def sealLight (k : SealKey) (mpa : Nat) (c : Ctr) (plain : Line) : Sealed :=
  let ct := plain ^^^ keystream k.key mpa c
  ⟨lightEncode .plain ct (tagSwap (lineTag k mpa c false ct)), none⟩

/-- Seal in the SPILL form. -/
def sealSpill (k : SealKey) (mpa : Nat) (c : Ctr) (plain : Line) : Sealed :=
  let ct := plain ^^^ keystream k.key mpa c
  ⟨strongEncode .plain ct, some (tagSwap (lineTag k mpa c false ct))⟩

/-- Seal in the AWN form: the Glume-L encoding in bytes 0 to 55, the tag in bytes 56 to 63 (R143). -/
def sealAwn (k : SealKey) (mpa : Nat) (c : Ctr) (enc : List Byte) : Sealed :=
  let ct := low56 (lineOfBytes (awnBytes enc) ^^^ keystream k.key mpa c)
  ⟨strongEncode .awn (setTop ct (tagSwap (lineTag k mpa c true ct))), none⟩

/-- Which code and awn attribute a seal meets (Table 5.10). -/
structure SealCode where
  strong : Bool
  awn : Bool
deriving DecidableEq, Repr

/-- A seal chooses its form from the plaintext and the region's awn attribute (R142, Table 5.10). -/
def sealLine (k : SealKey) (code : SealCode) (mpa : Nat) (c : Ctr) (plain : Line) : Sealed :=
  if !code.strong then sealLight k mpa c plain
  else if !code.awn then sealSpill k mpa c plain
  else match glumeL plain with
    | some enc => if enc.length ≤ 56 then sealAwn k mpa c enc else sealSpill k mpa c plain
    | none => sealSpill k mpa c plain

/-- The tag of a decoded line verifies (R128, R144, R151). `slot` is the stored word of the spill slot, used by the SPILL
form alone. A blank line's data is checked like any other (R130). -/
def tagOk (k : SealKey) (strong : Bool) (mpa : Nat) (c : Ctr) (f : Form) (img : Image) (slot : BitVec 64) : Bool :=
  let d := imageData img
  match f with
  | .poison => false
  | .awn => tagSwap (lineTag k mpa c true d) = d.extractLsb' 448 64
  | .plain => tagSwap (lineTag k mpa c false d) = if strong then slot else imageDev9 img

/-- The plaintext of a line whose tag verified; none for an awn whose encoding is malformed (R160). -/
def plainOf (k : SealKey) (mpa : Nat) (c : Ctr) (f : Form) (img : Image) : Option Line :=
  let p := imageData img ^^^ keystream k.key mpa c
  match f with
  | .poison => none
  | .awn => glumeLDecode ((lineBytes (low56 p)).take 56)
  | .plain => some p

/-- Open a decoded line: the plaintext if the tag verifies and the encoding is well formed. -/
def openLine (k : SealKey) (strong : Bool) (mpa : Nat) (c : Ctr) (f : Form) (img : Image) (slot : BitVec 64) :
    Option Line :=
  if tagOk k strong mpa c f img slot then plainOf k mpa c f img else none

/-! ## Counter blocks and nodes (R132, R135) -/

def nodeMajor (n : Line) : Nat := (n.extractLsb' 0 64).toNat
def nodeMinor (n : Line) (k : Nat) : Nat := (n.extractLsb' (64 + 12 * k) 12).toNat
def nodeTagWord (n : Line) : BitVec 64 := n.extractLsb' 448 64
def nodeCtr (n : Line) (k : Nat) : Ctr := ⟨nodeMajor n, nodeMinor n k⟩

/-- A field of a line replaced. -/
def setLineField (l : Line) (lo w v : Nat) : Line :=
  (l &&& ~~~ (BitVec.ofNat 512 ((2 ^ w - 1) <<< lo))) ||| BitVec.ofNat 512 ((v % 2 ^ w) <<< lo)

def setMajor (n : Line) (v : Nat) : Line := setLineField n 0 64 v
def setMinor (n : Line) (k v : Nat) : Line := setLineField n (64 + 12 * k) 12 v

/-- All 32 minors set to `v`. -/
def setMinors (n : Line) (v : Nat) : Line := (List.range 32).foldl (fun a k => setMinor a k v) n

/-- The block LM of R135. -/
def nodeLenBlock (mpa c : Nat) (p : Ctr) : Block :=
  BitVec.ofNat 128 ((bitsAt mpa 6 38 <<< 90) ||| ((p.major % 2 ^ 64) <<< 26) ||| ((p.minor % 4096) <<< 14) ||| (c <<< 11))

/-- The tag of a stored node of level `c` at `mpa`, under its parent's counters (R135). -/
def nodeTag (km : BitVec 256) (hm : Block) (mpa c : Nat) (p : Ctr) (n : Line) : BitVec 64 :=
  highHalf (ghash hm (lineBlocks (low56 n) ++ [nodeLenBlock mpa c p])) ^^^ highHalf (aes km (inputBlock mpa p 0 1))

/-- A node with its tag field set. -/
def tagNode (km : BitVec 256) (hm : Block) (mpa c : Nat) (p : Ctr) (n : Line) : Line :=
  setTop n (tagSwap (nodeTag km hm mpa c p n))

/-- The tag of a node verifies (R136). -/
def nodeOk (km : BitVec 256) (hm : Block) (mpa c : Nat) (p : Ctr) (n : Line) : Bool :=
  nodeTagWord n = tagSwap (nodeTag km hm mpa c p n)

end Sys2Proof.Machine
end

