-- ==== Sys2Proof/Machine/Mem.lean ====
section
/-! DEFINITION. Access to DRAM lines: what an unlisted line reads as (R234), the activate counts of R211 to R213, the
decode of a read with its causes and records (R230 to R238, R241), and writes. -/

namespace Sys2Proof.Machine

/-- KM and HM as a seal key with KEY_INDEX 0 (R130, R146, R179). -/
def metaKey (s : State) : SealKey := ⟨s.crypt.km, s.crypt.hm, 0⟩

/-! ## What fill wrote (R234) -/

/-- The counters of a line after fill. -/
def zeroCtr : Ctr := ⟨0, 0⟩

/-- The data MPA whose entry of 8 bytes is entry `j` of the tag line at `a`, in a structure of R134 with r = 512 based at
`b` over a span starting at `sp`. -/
def slotOwner (b sp a j : Nat) : Nat :=
  let idx := (a - b) >>> 15
  let off := a % 4096
  let v := off / 512
  let delta := (v + 8 - bitsAt sp 15 3) % 8
  let m0 := sp + (idx <<< 18) + delta * 0x8000 + (off % 512 / 64 * 8 + j) * 64
  m0 + ((home m0 ^^^ home a) <<< 12)

/-- The blank SPILL seal of a line: its stored data and tag word. -/
def blankSpill (s : State) (m : Nat) : Sealed := sealSpill (metaKey s) m zeroCtr 0

/-- A line of eight blank tags (R130, R179). -/
def blankTags (s : State) (b sp a : Nat) : Line :=
  (List.range 8).foldl (fun l j =>
    l ||| ((((blankSpill s (slotOwner b sp a j)).spill.getD 0).setWidth 512) <<< (64 * j))) 0

/-- The image that fill wrote at MPA `m` (R234). -/
def fillAt (s : State) (m : Nat) : Image :=
  match lineKind s m with
  | .node c => strongEncode .plain (tagNode s.crypt.km s.crypt.hm m c zeroCtr 0)
  | .pkt => 0
  | .spill => strongEncode .plain (blankTags s (spillBase s) (strongBase s) m)
  | .dtag => strongEncode .plain (blankTags s (dtagBase s) (descBase s) m)
  | .desc => (blankSpill s m).img
  | .remap => (sealLight (metaKey s) m zeroCtr 0).img
  | .bran => (sealLight (metaKey s) m zeroCtr 0).img
  | .data => if inStrong s m then (blankSpill s m).img else (sealLight (metaKey s) m zeroCtr 0).img

/-- What an unlisted physical line reads as: zeros before fill (log entry 7); after fill, what fill wrote there, which is
zeros in a spare rank or beyond the population (R234). -/
def dramUnlisted (s : State) (key : Nat) : Image :=
  if !s.filled then 0
  else
    let g := geom s
    let x := mc16 (keyChan key)
    match (List.range g.ranks).find? fun r => (s.fillMap[x].extractLsb' (2 * r) 2).toNat = keyRank key with
    | none => 0
    | some r =>
      let m := mpaOf (x.val / 2) (keyLa key + (r <<< rankShift g))
      if inSpare s m || populated g ≤ m then 0 else fillAt s m

/-- The image a physical line holds. -/
def dramGet (s : State) (key : Nat) : Image := kget (dramUnlisted s key) s.dram key

/-- A physical line written; the table stays canonical. -/
def dramSet (key : Nat) (v : Image) (s : State) : State := { s with dram := kset (dramUnlisted s key) s.dram key v }

/-! ## Row disturbance (R211 to R215) -/

/-- A row's name: subchannel, logical rank, chip, bank group, bank and row in one number. -/
def rowName (g : Geom) (c : Coord) : Nat :=
  ((((c.subch * 4 + c.rank) * 4 + c.chip) * 8 + c.bg) * 4 + c.ba) * 2 ^ g.rowBits + c.row

/-- The rows at distance `d` of a row in its bank, those outside the bank skipped (R212). -/
def neighbours (g : Geom) (row d : Nat) : List Nat :=
  let r := row % 2 ^ g.rowBits
  (if d ≤ r then [row - d] else []) ++ (if r + d < 2 ^ g.rowBits then [row + d] else [])

/-- The index of the lowest count, and of equal counts the lowest index (R213). -/
def minIdx (l : List ActCount) : Nat :=
  let m := l.foldl (fun a e => min a e.count) (2 ^ 64)
  l.findIdx fun e => e.count = m

/-- Refresh targets of a subchannel (R209); target `t` counts subchannel first, then logical rank, then chip. -/
def targetsPer (s : State) : Nat := (geom s).ranks * 2 ^ (geom s).stack

/-- The target of a row's name. -/
def rowTarget (s : State) (row : Nat) : Nat :=
  let u := row / 2 ^ (geom s).rowBits / 32
  (u / 16) * targetsPer s + (u / 4 % 4) * 2 ^ (geom s).stack + u % 4

/-- The channel of an access at `m` and the name of the row that it activates. -/
def rowOf (s : State) (m : Nat) : Fin 16 × Nat :=
  let g := geom s
  let la := localAddr m
  let c := coordOf g (home m) la
  let x := mc16 c.chan
  (x, rowName g { c with rank := servingRank s x c la })

/-- The refresh target of the line at `m` is in tRFC: an access to it waits (R209). -/
def targetBusy (s : State) (m : Nat) : Bool :=
  let (x, row) := rowOf s m
  s.mcs[x].refreshing.contains (rowTarget s row)

/-- The first slice of a row: its neighbours at distance 1 are activated, and the second falls due (R212). The rows to
activate, and the state. -/
def firstSlice (x : Fin 16) (row : Nat) (s : State) : List Nat × State :=
  let ns := neighbours (geom s) row 1
  let s1 := ns.foldl (fun u n => emit (.refresh x 0 (some n)) u) s
  (ns, perfMc x 0x06 1 none (updMc x (fun m =>
    { m with owed := m.owed ++ [(row, false)], rdRefreshes := satAdd 48 m.rdRefreshes 1 }) s1))

/-- A first slice issues, or waits for the end of its target's tRFC (R215). -/
def dueSlice (x : Fin 16) (row : Nat) (s : State) : List Nat × State :=
  if s.mcs[x].refreshing.contains (rowTarget s row) then
    ([], updMc x (fun m => { m with firstDue := m.firstDue ++ [row] }) s)
  else firstSlice x row s

/-- One activate of each row of the work list is counted; a row that reaches THRESHOLD, or is evicted, has its first
slice issued, whose activates join the work list (R211 to R213). Rows that the fuel does not reach wait for the channel's
next activate (log entry 135). -/
def activateRows : Nat → Fin 16 → List Nat → State → State
  | 0, x, rs, s => updMc x (fun m => { m with waitRows := m.waitRows ++ rs }) s
  | _, _, [], s => s
  | fuel + 1, x, r :: rs, s =>
    let th := regField s (offRdCfg x) 0 16
    let s := perfMc x 0x02 1 none s
    let acts := s.mcs[x].acts
    match acts.find? (·.row = r) with
    | some e =>
      if e.count + 1 = th then
        let (ns, s1) := dueSlice x r
          (updMc x (fun m => { m with acts := m.acts.map fun a => if a.row = r then ⟨r, 0⟩ else a }) s)
        activateRows fuel x (rs ++ ns) s1
      else
        activateRows fuel x rs
          (updMc x (fun m => { m with acts := m.acts.map fun a => if a.row = r then ⟨r, e.count + 1⟩ else a }) s)
    | none =>
      if acts.length < 2048 then
        activateRows fuel x rs (updMc x (fun m => { m with acts := m.acts ++ [⟨r, 1⟩] }) s)
      else
        let i := minIdx acts
        let old := (acts.getD i ⟨0, 0⟩).row
        let s1 := updMc x (fun m => { m with acts := m.acts.set i ⟨r, 1⟩, rdFallback := satAdd 48 m.rdFallback 1 }) s
        let (ns, s2) := dueSlice x old (raise (blkMc x) 8 Cap.none s1)
        activateRows fuel x (rs ++ ns) s2

/-- The other lines of the 256-byte unit of `m` whose accesses wait at the home's channels (R208). -/
def queuedUnit (s : State) (m : Nat) : List Nat :=
  let q := s.spks[spk8 (home m)]
  let ts := (q.txns.filter fun t => t.state = .memory && t.queued && !t.waiting && t.msg.packed.isNone).map (·.msg.mpa)
  (((ts ++ q.fetches.map (·.mpa)).filter fun a => a >>> 8 = m >>> 8).map lineBase).eraseDups.filter (· ≠ lineBase m)

/-- An activate of the row that an access at `m` reaches, unless one already issued serves it too: with the 256 B unit an
activate serves the waiting accesses of its unit, up to four lines (R208). -/
def activate (m : Nat) (s : State) : State :=
  let (x, row) := rowOf s m
  if s.mcs[x].shared.contains (lineBase m) then
    updMc x (fun mc => { mc with shared := mc.shared.erase (lineBase m) }) s
  else
    let more := if (geom s).unit256 then (queuedUnit s m).take 3 else []
    let todo := s.mcs[x].waitRows
    activateRows 4096 x (todo ++ [row]) (ungate (domMc x)
      (updMc x (fun mc => { mc with shared := mc.shared ++ more, waitRows := [] }) s))

/-! ## Reading a line -/

/-- Which reader meets an error (Table 9.15). -/
inductive Reader where
  | demand | scrub | copy
deriving DecidableEq, Repr

/-- One error record (R238, Table 9.15). -/
def logError (x : Fin 16) (kind device : Nat) (p : Nat) (c : Coord) (m : Nat) (s : State) : State :=
  let w := place 60 kind ||| place 56 device ||| place 54 p ||| place 53 c.subch ||| place 50 c.bg ||| place 48 c.ba |||
    place 0 (lineBase m % 2 ^ 44)
  updMc x (fun mc => { mc with elog := kput mc.elog (mc.elogHead % 32) ⟨w, s.dtime⟩,
                               elogHead := (mc.elogHead + 1) % 2 ^ 32 }) s

/-- DEVICE of a record: the one corrected device, or 0xF (Table 9.15). -/
def oneDevice (ds : List Nat) : Nat :=
  match ds.eraseDups with
  | [d] => d
  | _ => 0xF

/-- The spares of a channel that logical rank `r` may take: spare ranks in service that are bound to no other rank; one
bound to `r` comes first (R240, R242, R244). -/
def usableSpares (s : State) (x : Fin 16) (r : Nat) : List Nat :=
  let mc := s.mcs[x]
  let mine (q : Nat) : Bool := mc.remaps.any fun b => b.rank = r && b.spare = q
  let ok (q : Nat) : Bool := q ≠ r && (spareMask s x).testBit q && !mc.oos.testBit (physRank s x q)
  let qs := (List.range (geom s).ranks).filter ok
  qs.filter mine ++ qs.filter fun q => !mc.bound.testBit q

/-- A rank is due to leave service: Germ is called, or SPARE_EXHAUSTED is set (R241, R244). While a copy is active the rank
waits for its end. -/
def callSpare (x : Fin 16) (r : Nat) (s : State) : State :=
  let mc := s.mcs[x]
  if mc.recover.contains r || (mc.copy.any fun k => !k.bank && k.from_ = r) then s
  else if mc.copy.isNone && (usableSpares s x r).isEmpty then raise (blkMc x) 23 Cap.none s
  else updMc x (fun m => { m with recover := m.recover ++ [r] }) s

/-- An uncorrectable decode counts for its logical rank; at UE_LIMIT the rank is due to leave service (R241). -/
def countUe (x : Fin 16) (r : Nat) (s : State) : State :=
  let n := s.mcs[x].ueRank.getD r 0 + 1
  let s1 := updMc x (fun m => { m with ueCount := satAdd 48 m.ueCount 1, ueRank := m.ueRank.set r n }) s
  let limit := regField s (offRasCfg x) 0 8
  if limit ≠ 0 && limit ≤ n then callSpare x r s1 else s1

/-- The image that reaches the decoder: what DRAM holds, or the write that the home holds for the line (R241), the error pattern of the bus, and an injected CE or UE
(Table 18.14): UE fires first. -/
def busImage (x : Fin 16) (key : Nat) (held : Option Image) (noise : Image) (s : State) : Image × State :=
  let raw := held.getD (dramGet s key) ^^^ noise
  if fires s (blkMc x) 17 then
    (xorByte (xorByte raw (symbolByte 0 0) 1) (symbolByte 0 1) 1, disarm (blkMc x) 17 s)
  else if fires s (blkMc x) 16 then (xorByte raw (symbolByte 0 0) 1, disarm (blkMc x) 16 s)
  else (raw, s)

/-- A read of the line at `m`: one activate and one burst, decoded under R231, its outcome accounted under R232. -/
def readLine (m : Nat) (awn : Bool) (noise : Image) (who : Reader) (cap : Cap) (s : State) : Decoded × State :=
  let g := geom s
  let la := localAddr m
  let c := coordOf g (home m) la
  let x := mc16 c.chan
  let r := servingRank s x c la
  let p := physRank s x r
  let s1 := perfMc x 0x03 1 none (activate m s)
  let b := lineBase m
  let held := (s.mcs[x].heldWrites.find? (·.1 = b)).map (·.2)
  let fails := s.mcs[x].failAt.contains b
  let (raw, s2a) := busImage x (lineKey g x p la) held noise s1
  let s2 := if fails then updMc x (fun mc => { mc with failAt := mc.failAt.erase b }) s2a else s2a
  let d := if fails then .uncorrectable else decodeLine (codeOf s m awn) raw
  match d with
  | .line _ _ [] => (d, s2)
  | .line _ _ fixed =>
    let s3 := raise (blkMc x) 16 cap (updMc x (fun mc => { mc with ceCount := satAdd 48 mc.ceCount 1 }) s2)
    (d, logError x (if who = .scrub then 5 else 1) (oneDevice fixed) p c m s3)
  | .uncorrectable =>
    let s3 := countUe x r (raise (blkMc x) 17 cap s2)
    (d, logError x (match who with | .demand => 2 | .scrub => 6 | .copy => 7) 0xF p c m s3)
  | .ambiguous =>
    let s3 := countUe x r (raise (blkMc x) 18 cap s2)
    (d, logError x 3 0xF p c m s3)

/-- No DRAM write is issued, but for those of refresh, calibration and sparing: the coherent domain is down, or the released
member is fenced (R112, R301). DESIGN CHOICE: bring-up's own writes go on under a fence (log entry 136). -/
def writesStopped (s : State) : Bool := s.domainDown || (s.pair.fenceIn && s.bring.released)

/-- A write of a line's image at `m`: one activate and one burst. A write whose command fails every retry is held at the
home; a later write of the line takes its place (R241). -/
def writeLine (m : Nat) (img : Image) (s : State) : State :=
  if s.domainDown then s
  else
  let x := chanOf s m
  let b := lineBase m
  let s1 := updMc x (fun mc => { mc with heldWrites := mc.heldWrites.filter (·.1 ≠ b) }) s
  if s.mcs[x].failAt.contains b then
    updMc x (fun mc => { mc with failAt := mc.failAt.erase b, heldWrites := mc.heldWrites ++ [(b, img)] }) s1
  else dramSet (physLine s m) img (perfMc x 0x04 1 none (activate m s1))

/-- The line as DRAM holds it, decoded without an access: what a resident node's on-chip copy equals while it is clean
(R138), and what a rewrite of a correct line starts from. -/
def peekLine (s : State) (m : Nat) : Option Line :=
  let held := (s.mcs[chanOf s m].heldWrites.find? (·.1 = lineBase m)).map (·.2)
  match decodeLine (codeOf s m true) (held.getD (dramGet s (physLine s m))) with
  | .line .plain img _ => some (imageData img)
  | _ => none

end Sys2Proof.Machine
end

