-- ==== Sys2Proof/Machine/Culm.lean ====
section
/-! DEFINITION. The culm caches: what a home holds, verified fetches (R136), write-backs with their parent's counter
(R137), overflow of a parent counter (R141), failed nodes (R152), and the ways a fill may replace (R138, R255). -/

namespace Sys2Proof.Machine

/-! ## What is held -/

/-- The spikelet that homes an MPA. -/
def spkOf (m : Nat) : Fin 8 := spk8 (home m)

/-- The kind of a culm-cache line, by its address. -/
def culmKindOf (s : State) (a : Nat) : CulmKind :=
  match lineKind s a with
  | .node c => .node c
  | .spill => .spill
  | .dtag => .dtag
  | _ => .pkt

/-- Levels 3 to 5 stay held from bring-up (R138). -/
def resident : CulmKind → Bool
  | .node c => 3 ≤ c
  | _ => false

/-- The listed cache line at `a`. -/
def culmAt (s : State) (a : Nat) : Option CulmLine := kfind s.spks[spkOf a].culm a

/-- A line that the home holds did not decode (R232). -/
def culmBad (s : State) (a : Nat) : Bool := (culmAt s a).any (·.bad)

/-- The line the home of `a` holds; a resident node that is not listed is clean, so its copy equals what DRAM holds. -/
def heldLine (s : State) (kind : CulmKind) (a : Nat) : Option Line :=
  match culmAt s a with
  | some l => if l.bad then none else some l.data
  | none => if resident kind then peekLine s a else none

/-- The node of level `c` over data MPA `m`; level 6 is the root set (R133). -/
def heldNode (s : State) (c m : Nat) : Option Line :=
  if c = 6 then some s.crypt.root[(m >>> 41) % 8]! else heldLine s (.node c) (nodeAddr s c m)

/-- The counters that the level-`c` node over `m` holds for the child on the path to `m`. -/
def heldCtr (s : State) (c m : Nat) : Option Ctr := (heldNode s c m).map fun n => nodeCtr n (nodeSlot c m)

/-- Base and size of the data span of the level-`c` node over `m`. -/
def spanBase (c m : Nat) : Nat := alignDown m (11 + 5 * c)
def spanSize (c : Nat) : Nat := 2 ^ (11 + 5 * c)

/-- A data MPA inside a span that a failed node poisoned (R152). -/
def spanPoisoned (s : State) (m : Nat) : Bool :=
  s.spks.toList.any fun k => k.poisonSpans.any fun r => inRange r.1 r.2 m

/-- The data MPA at the start of the group whose leaf stands at `a` (the inverse of R134 for r = 128, e = 64). -/
def leafOwner (s : State) (a : Nat) : Nat :=
  let m0 := (((a - leafBase s) >>> 15) <<< 20) + (a % 4096 / 128) * 0x8000 + (a % 128 / 64) * 0x800
  m0 + ((home m0 ^^^ home a) <<< 12)

/-- A data MPA that the node at `a` covers. -/
def nodeOwner (s : State) (c a : Nat) : Nat :=
  if c = 0 then leafOwner s a else ((a - nodeBase s c) / 64) <<< (11 + 5 * c)

/-! ## Sets and ways (R255) -/

/-- The number of a resident node among those of its home, level 3 first. -/
def residentIndex (s : State) (c a : Nat) : Nat :=
  let per (d : Nat) := nodeBytes s d / 512
  ((a - nodeBase s c) >>> 15) * 64 + a % 4096 / 64 + (if 3 < c then per 3 else 0) + (if 4 < c then per 4 else 0)

/-- The set of a line. -/
def culmSet (s : State) (kind : CulmKind) (a : Nat) : Nat :=
  match kind with
  | .node c => if 3 ≤ c then residentIndex s c a % 6144 else localAddr a / 64 % 6144
  | _ => localAddr a / 64 % 6144

/-- The ways that a fill for class `cls` may replace, bit j for way j + 6. -/
def wayMask (s : State) (cls : Nat) : Nat := regField s (offQosShare cls) 48 10

/-- The lines of a set that stand in ways 6 to 15. -/
def setLines (s : State) (a : Nat) : List (Nat × CulmLine) :=
  let set := localAddr a / 64 % 6144
  s.spks[spkOf a].culm.filter fun e => 6 ≤ e.2.way && localAddr e.1 / 64 % 6144 = set

/-- The way a fill takes: a free way of the mask, else the least recently used one of it with the line to evict. -/
def pickWay (s : State) (cls a : Nat) : Nat × Option Nat :=
  let ls := setLines s a
  let mask := wayMask s cls
  let ways := (List.range 10).filter fun j => mask.testBit j
  match ways.find? fun j => ls.all fun e => e.2.way ≠ j + 6 with
  | some j => (j + 6, none)
  | none =>
    let cand := ls.filter fun e => mask.testBit (e.2.way - 6)
    let old := cand.foldl (fun a e => min a e.2.stamp) (2 ^ 64)
    match cand.find? fun e => e.2.stamp = old with
    | some e => (e.2.way, some e.1)
    | none => (6, none)

/-! ## Changes of a cache -/

def setCulm (a : Nat) (l : CulmLine) (s : State) : State :=
  updSpk (spkOf a) (fun k => { k with culm := kput k.culm a l }) s

def dropCulm (a : Nat) (s : State) : State := updSpk (spkOf a) (fun k => { k with culm := kdel k.culm a }) s

/-- A use of a held line renews its place in the LRU order. -/
def touch (a : Nat) (s : State) : State :=
  match culmAt s a with
  | some l => { setCulm a { l with stamp := s.seq } s with seq := s.seq + 1 }
  | none => s

/-- A held line takes new data and is dirty. A resident node that was clean enters the list in its fixed way. -/
def putHeld (kind : CulmKind) (a : Nat) (d : Line) (s : State) : State :=
  match culmAt s a with
  | some l => if l.bad then s else setCulm a { l with data := d, dirty := true } s
  | none =>
    let way := match kind with
      | .node c => residentIndex s c a / 6144
      | _ => 6
    setCulm a ⟨d, true, kind, way, 0, false⟩ s

/-- A node over `m` takes new counters: the root set in place, any other node in its cache (R137). -/
def putNode (c m : Nat) (n : Line) (s : State) : State :=
  if c = 6 then { s with crypt := { s.crypt with root := s.crypt.root.set! ((m >>> 41) % 8) n } }
  else putHeld (.node c) (nodeAddr s c m) n s

/-- Ranges [first, first + count) without what lies in [lo, hi). -/
def cutRanges (lo hi : Nat) (rs : List (Nat × Nat)) : List (Nat × Nat) :=
  rs.flatMap fun r =>
    let a := min (r.1 + r.2) lo - r.1
    let b := r.1 + r.2 - max r.1 hi
    (if a = 0 then [] else [(r.1, a)]) ++ (if b = 0 then [] else [(r.1 + r.2 - b, b)])

/-- Germ retires an MPA span: free pages, free descriptors, and free granules and pages of the stocks that lie in it are
given out no more (R152). -/
def retireSpan (lo size : Nat) (s : State) : State :=
  let inside (a : Nat) : Bool := inRange lo size a
  let up (n u : Nat) : Nat := (n + u - 1) / u
  let s1 := { s with tier := { s.tier with
    retiredSpans := s.tier.retiredSpans ++ [(lo, size)]
    pools := s.tier.pools.map fun p => { p with free := cutRanges (lo / 4096) (up (lo + size) 4096) p.free }
    descFree := cutRanges (lo / 64) (up (lo + size) 64) s.tier.descFree
    granFree := s.tier.granFree.filter fun g => !inside (g.addr <<< 8) } }
  eachSpk (fun k t => updSpk k (fun q => { q with
    stock := q.stock.filter fun g => !inside (g.addr <<< 8)
    promo := q.promo.filter fun p => !inside p && !inRange p 4096 lo }) t) s1

/-- A node that fails its check poisons its span, and Germ retires the span (R152). -/
def failNode (c m a : Nat) (s : State) : State :=
  let r := (spanBase c m, spanSize c)
  let s1 := updSpk (spkOf a) (fun k => { k with poisonSpans := k.poisonSpans ++ [r] }) s
  raise (blkSpk (spkOf a)) 13 ⟨a, 1, idCulm, 5, none⟩ (retireSpan r.1 r.2 s1)

/-! ## Overflow of a parent's counter (R141) -/

/-- One child of a parent whose counters were set to 0: a held child is dirty; a child in DRAM is verified under the old
counters and written back under the new. -/
def retagChild (c m : Nat) (old new : Ctr) (s : State) : State :=
  let a := nodeAddr s c m
  match heldLine s (.node c) a with
  | some d => putHeld (.node c) a d s
  | none =>
    let (d, s1) := readLine a false 0 .demand ⟨a, 1, idCulm, 5, none⟩ s
    match d with
    | .line .plain img _ =>
      let n := imageData img
      if nodeOk s1.crypt.km s1.crypt.hm a c old n then
        writeLine a (strongEncode .plain (tagNode s1.crypt.km s1.crypt.hm a c new n)) s1
      else failNode c m a s1
    | _ => failNode c m a s1

/-- The children of the level-`c` node over `m` other than the one on the path, that exist. -/
def otherChildren (s : State) (c m : Nat) : List Nat :=
  let base := spanBase c m
  ((List.range 32).filter fun k => k ≠ nodeSlot c m).map (fun k => base + (k <<< (6 + 5 * c)))
    |>.filter fun x => x < populated (geom s)

/-- The parent's counter for the child on the path to `m` goes up by 1 before the child is written back (R137); at 4,095
the parent's major goes up and every child is tagged again (R141). DESIGN CHOICE: an overflow of a root-set counter sets
MINOR_OVERFLOW and counts at the home of the level-5 node on the path, since the root set has no home (log entry 137). -/
def bumpParent (c m : Nat) (s : State) : State :=
  match heldNode s c m with
  | none => s
  | some n =>
    let k := nodeSlot c m
    if nodeMinor n k < 4095 then putNode c m (setMinor n k (nodeMinor n k + 1)) s
    else
      let n1 := setMinors (setMajor n (nodeMajor n + 1)) 0
      let home := if c = 6 then spkOf (nodeAddr s 5 m) else spkOf (nodeAddr s c m)
      let s1 := putNode c m n1 s
      let s2 := raise (blkSpk home) 9 ⟨nodeAddr s (c - 1) m, 1, idCulm, 6, none⟩ s1
      let s3 := updSpk home (fun q => { q with
        reencCount := satAdd 48 q.reencCount 1
        rekeys := q.rekeys ++ [⟨spanBase c m, c, 0⟩] }) s2
      (otherChildren s c m).foldl (fun t x => retagChild (c - 1) x (nodeCtr n (nodeSlot c x)) ⟨nodeMajor n1, 0⟩ t) s3

/-! ## Fetching and writing back -/

/-- The work of the culm walker, done from the front of the list. -/
inductive CulmOp where
  /-- Hold the level-`c` node over `m`, its parents first (R136). -/
  | hold (c m : Nat)
  /-- Read and verify the level-`c` node over `m`. -/
  | fetch (c m : Nat)
  /-- Hold a spill, page-key or descriptor-tag line (R145). -/
  | holdLine (kind : CulmKind) (a : Nat)
  /-- Put a clean line in its set, a victim written back first (R255). -/
  | install (kind : CulmKind) (a : Nat) (d : Line) (bad : Bool)
  /-- Write a dirty line back (R137). -/
  | flush (a : Nat)
  /-- The parent of the level-`c` node over `m` counts its write-back. -/
  | bump (c m : Nat)
  /-- The line reaches DRAM and is clean. -/
  | store (a : Nat)
  | drop (a : Nat)
deriving DecidableEq, Repr

/-- Read the line at `a` into the cache: a node verifies against its parent, or its span is poisoned (R136, R152). Any other
line that does not decode is held as bad: the accesses that need it meet a bus error (R232, log entry 12). -/
def fetchOps (kind : CulmKind) (a : Nat) (noise : Image) (s : State) : List CulmOp × State :=
  let s0 := perfSpk (spkOf a) (match kind with | .spill => 0x09 | _ => 0x08) 1 none s
  let (d, s1) := readLine a false noise .demand ⟨a, 1, idCulm, 5, none⟩ s0
  match kind with
  | .node c =>
    let m := nodeOwner s c a
    match d, heldCtr s1 (c + 1) m with
    | .line .plain img _, some p =>
      if nodeOk s1.crypt.km s1.crypt.hm a c p (imageData img) then ([.install kind a (imageData img) false], s1)
      else ([], failNode c m a s1)
    | _, none => ([], s1)
    | _, _ => ([], failNode c m a s1)
  | _ => match d with
    | .line .plain img _ => ([.install kind a (imageData img) false], s1)
    | _ => ([.install kind a 0 true], s1)

/-- One piece of the walker's work: the pieces that come before the rest of its list, and the state. -/
def culmStep (cls : Nat) (op : CulmOp) (s : State) : List CulmOp × State :=
  match op with
  | .hold c m =>
    if 6 ≤ c || spanPoisoned s m then ([], s)
    else match heldLine s (.node c) (nodeAddr s c m) with
      | some _ => ([], touch (nodeAddr s c m) (perfSpk (spkOf (nodeAddr s c m)) 0x07 1 none s))
      | none => ([.hold (c + 1) m, .fetch c m], s)
  | .fetch c m =>
    match heldCtr s (c + 1) m with
    | some _ => fetchOps (.node c) (nodeAddr s c m) 0 s
    | none => ([], s)
  | .holdLine kind a =>
    match culmAt s a with
    | some _ => ([], touch a (perfSpk (spkOf a) 0x07 1 none s))
    | none => fetchOps kind a 0 s
  | .install kind a d bad =>
    if resident kind then
      ([], setCulm a ⟨d, false, kind, residentIndex s (match kind with | .node c => c | _ => 3) a / 6144, 0, false⟩ s)
    else match pickWay s cls a with
      | (_, some v) =>
        match culmAt s v with
        | some l => if l.dirty then (if writesStopped s then ([], s) else ([.flush v, .drop v, .install kind a d bad], s))
          else ([.install kind a d bad], dropCulm v s)
        | none => ([], s)
      | (w, none) => ([], { setCulm a ⟨d, false, kind, w, s.seq, bad⟩ s with seq := s.seq + 1 })
  | .flush a =>
    match culmAt s a with
    | some l =>
      if !l.dirty || writesStopped s then ([], s)
      else match l.kind with
        | .node c => ([.hold (c + 1) (nodeOwner s c a), .bump (c + 1) (nodeOwner s c a), .store a], touch a s)
        | _ => ([.store a], s)
    | none => ([], s)
  | .bump c m => ([], bumpParent c m s)
  | .store a =>
    match culmAt s a with
    | some l =>
      let d := match l.kind with
        | .node c =>
          match heldCtr s (c + 1) (nodeOwner s c a) with
          | some p => tagNode s.crypt.km s.crypt.hm a c p l.data
          | none => l.data
        | _ => l.data
      ([], writeLine a (strongEncode .plain d) (setCulm a { l with data := d, dirty := false } s))
    | none => ([], s)
  | .drop a => ([], dropCulm a s)

/-- The walker's list done from the front; `fuel` bounds it by the levels of the tree and the lines of the caches. -/
def culmRun : Nat → Nat → List CulmOp → State → State
  | 0, _, _, s => s
  | _, _, [], s => s
  | fuel + 1, cls, op :: ops, s =>
    let (more, s1) := culmStep cls op s
    culmRun fuel cls (more ++ ops) s1

/-! ## What an access needs -/

/-- The lines an access at data MPA `m` needs and its home does not hold, in fetch order: nodes from the highest missing
level down, then the spill or descriptor-tag line, then the page-key line (R136, R139). -/
def missingNodes (s : State) (m : Nat) : List (CulmKind × Nat) :=
  let held (c : Nat) := (heldLine s (.node c) (nodeAddr s c m)).isSome
  if held 0 then [] else
    let up := if held 1 then [] else if held 2 then [1] else [2, 1]
    (up ++ [0]).map fun c => (.node c, nodeAddr s c m)

/-- The slot line that belongs to `m`, where its kind of line has one. -/
def slotLine (s : State) (m : Nat) : Option (CulmKind × Nat) :=
  match lineKind s m with
  | .desc => some (.dtag, lineBase (dtagSlot s (lineBase m)))
  | .data => if inStrong s m then some (.spill, lineBase (spillSlot s (lineBase m))) else none
  | _ => none

/-- The page-key line that a write at `m` consults (R124, R146). -/
def pktLine (s : State) (m : Nat) : Option (CulmKind × Nat) :=
  match lineKind s m with
  | .data => some (.pkt, lineBase (pktAddr s (pageBase m)))
  | _ => none

/-- What an access at `m` still waits for. -/
def missing (s : State) (m : Nat) (write : Bool) : List (CulmKind × Nat) :=
  if spanPoisoned s m then []
  else
    let one (o : Option (CulmKind × Nat)) := match o with
      | some (k, a) => if (culmAt s a).isSome then [] else [(k, a)]
      | none => []
    missingNodes s m ++ one (slotLine s m) ++ (if write then one (pktLine s m) else [])

/-- An engine's access brings what it needs into the caches within its own command (log entry 13). -/
def holdPath (cls m : Nat) (s : State) : State :=
  let one (o : Option (CulmKind × Nat)) := match o with
    | some (k, a) => [CulmOp.holdLine k a]
    | none => []
  culmRun 4096 cls ([.hold 0 m] ++ one (slotLine s m) ++ one (pktLine s m)) s

end Sys2Proof.Machine
end

