-- ==== Sys2Proof/Machine/Data.lean ====
section
/-! DEFINITION. One line of data at its home: page-key records (R124), reading with verification (R147 to R151), sealing
with the next counter, re-encryption of a group (R140, R149), and blanking a page (R130). -/

namespace Sys2Proof.Machine

/-! ## Keys and page-key records -/

/-- The key of a slot with its subkey; an EMPTY slot holds zeros (R116). -/
def slotKey (s : State) (i : Nat) : SealKey :=
  match kfind s.crypt.slots i with
  | some k => ⟨k.key, k.h, i⟩
  | none => ⟨0, 0, i⟩

/-- The 16-bit page-key record of the page of `m` (R124). -/
def pktRec (s : State) (m : Nat) : Nat :=
  let a := pktAddr s (pageBase m)
  match heldLine s .pkt (lineBase a) with
  | some l => (l.extractLsb' (8 * (a % 64)) 16).toNat
  | none => 0

/-- BOUND, and the key index it is bound to. -/
def pktBound (s : State) (m : Nat) : Option Nat := if bitsAt (pktRec s m) 14 2 = 1 then some (pktRec s m % 4096) else none

/-- The record of a page written: bound to a key index, or FREE. -/
def setPkt (m : Nat) (k : Option Nat) (s : State) : State :=
  let a := pktAddr s (pageBase m)
  match heldLine s .pkt (lineBase a) with
  | some l =>
    let v := match k with
      | some i => (1 <<< 14) ||| (i % 4096)
      | none => 0
    putHeld .pkt (lineBase a) (setLineField l (8 * (a % 64)) 16 v) s
  | none => s

/-- The line of the page's key record did not decode, so that no write can be checked against it (R232). -/
def pktLost (s : State) (m : Nat) : Bool := culmBad s (lineBase (pktAddr s (pageBase m)))

/-- A write to the page of `m` under key index `k`: bind a FREE page, or say that it is bound elsewhere (R124). -/
def bindPage (m k : Nat) (s : State) : Bool × State :=
  match pktBound s m with
  | some i => (i = k, s)
  | none => (true, setPkt m (some k) s)

/-! ## Slots of stored tags -/

/-- The stored tag word of the line at `m`, from its held slot line (R134, R179). -/
def tagSlot (s : State) (m : Nat) : BitVec 64 :=
  match slotLine s m with
  | some (kind, a) =>
    match heldLine s kind a with
    | some l =>
      let p := match kind with
        | .dtag => dtagSlot s (lineBase m)
        | _ => spillSlot s (lineBase m)
      l.extractLsb' (8 * (p % 64)) 64
    | none => 0
  | none => 0

/-- The line that holds the tag of the line at `m` did not decode (R232). -/
def slotLost (s : State) (m : Nat) : Bool :=
  match slotLine s m with
  | some (_, a) => culmBad s a
  | none => false

/-- The slot of the line at `m` takes a tag word; its line is dirty. -/
def setTagSlot (m : Nat) (t : BitVec 64) (s : State) : State :=
  match slotLine s m with
  | some (kind, a) =>
    match heldLine s kind a with
    | some l =>
      let p := match kind with
        | .dtag => dtagSlot s (lineBase m)
        | _ => spillSlot s (lineBase m)
      putHeld kind a (setLineField l (8 * (p % 64)) 64 t.toNat) s
    | none => s
  | none => s

/-! ## Counters -/

/-- The leaf that covers `m`. -/
def leafOf (s : State) (m : Nat) : Option Line := heldLine s (.node 0) (leafAddr s m)

/-- The counters of the line at `m`. -/
def lineCtr (s : State) (m : Nat) : Option Ctr := (leafOf s m).map fun n => nodeCtr n (nodeSlot 0 m)

/-- The leaf of `m` replaced; it is dirty. -/
def putLeaf (m : Nat) (n : Line) (s : State) : State := putHeld (.node 0) (leafAddr s m) n s

/-! ## Reading -/

/-- Who reads, under which key index and awn attribute (R151, R231). `flip` inverts one ciphertext bit before the
verification: an injected TAG_FAIL (Table 18.14). `cls` is the class whose culm ways its fills may replace (R255). -/
structure Acc where
  key : Nat
  awn : Bool
  master : Nat
  access : Nat
  who : Reader
  flip : Bool
  cls : Nat
deriving DecidableEq, Repr

/-- The capture of an access at `m`: the MPA, the master, the access type and the key index (Tables 18.6, 18.7). -/
def accCap (m : Nat) (a : Acc) : Cap := ⟨lineBase m, 1, a.master, a.access, some a.key⟩

/-- What a read of a line finds. -/
inductive ReadRes where
  | ok (l : Line)
  | blank
  | tagFail
  | lFormat
  | poison
  | ecc
  | span
deriving DecidableEq, Repr

/-- The seal key of the line at `m`: KM for blank lines, descriptors, remap and Bran lines, else the access's key slot
(R130, R146, R151, R179). -/
def keyFor (s : State) (m : Nat) (c : Ctr) (key : Nat) : SealKey :=
  if c.minor = 0 || lineKind s m ≠ .data then metaKey s else slotKey s key

/-- The line at `m` read and verified; no cause of the spikelet is set here. -/
def readData (m : Nat) (a : Acc) (noise : Image) (s : State) : ReadRes × State :=
  if spanPoisoned s m then (.span, s)
  else match lineCtr s m with
    | none => (.span, s)
    | some c =>
      let (d, s1) := readLine m a.awn noise a.who (accCap m a) s
      match d with
      | .uncorrectable => (.ecc, s1)
      | .ambiguous => (.ecc, s1)
      | .line .poison _ _ => (.poison, s1)
      | .line f img _ =>
        let s2 := if f = .plain && isStrong s1 m then perfSpk (spkOf m) 0x09 1 none s1 else s1
        let k := keyFor s1 m c a.key
        let img := if a.flip then img ^^^ 1 else img
        if f = .plain && isStrong s1 m && slotLost s1 m then (.ecc, s2)
        else if !tagOk k (isStrong s1 m) (lineBase m) c f img (tagSlot s1 m) then (.tagFail, s2)
        else match plainOf k (lineBase m) c f img with
          | some l => (if c.minor = 0 then .blank else .ok l, s2)
          | none => (.lFormat, s2)

/-- The plaintext of a read that may be used. -/
def readPlain : ReadRes → Option Line
  | .ok l => some l
  | .blank => some 0
  | _ => none

/-- The cause a failing read sets at the home (R148, R151). -/
def readCause (m : Nat) (a : Acc) (r : ReadRes) (s : State) : State :=
  match r with
  | .tagFail => raise (blkSpk (spkOf m)) 11 (accCap m a) s
  | .lFormat => raise (blkSpk (spkOf m)) 18 (accCap m a) s
  | .poison => raise (blkSpk (spkOf m)) 10 (accCap m a) s
  | _ => s

/-! ## Writing -/

/-- A line's new content: data to seal under a key index, or the poison pattern. -/
inductive NewLine where
  | data (l : Line) (key : Nat)
  | poison
deriving DecidableEq, Repr

/-- The slot line of `m` is brought in if a seal needs it and the home does not hold it. -/
def holdSlot (cls m : Nat) (s : State) : State :=
  match slotLine s m with
  | some (k, a) => if (culmAt s a).isSome then s else culmRun 4096 cls [.holdLine k a] s
  | none => s

/-- The image a seal or the poison pattern gives reaches DRAM, and its slot where the form is SPILL (R142 to R144). -/
def storeLine (cls m : Nat) (awn : Bool) (c : Ctr) (n : NewLine) (blank : Bool) (s : State) : State :=
  match n with
  | .poison => writeLine m (poisonImage (isStrong s m)) s
  | .data l key =>
    let k := if blank || lineKind s m ≠ .data then metaKey s else slotKey s key
    let r := sealLine k ⟨isStrong s m, awn && lineKind s m = .data⟩ (lineBase m) c l
    let s1 := match r.spill with
      | some t => setTagSlot m t (holdSlot cls m s)
      | none => if isStrong s m then perfSpk (spkOf m) 0x0A 1 none s else s
    writeLine m r.img s1

/-- The cause of a line that re-encryption or a move meets and cannot use: TAG_FAIL for a failed tag (R149), GLUME_L_FORMAT
for a malformed awn (R160). DESIGN CHOICE: the poison pattern sets no POISON_READ here, and a malformed awn goes on as the
poison pattern (log entry 138). -/
def moveCause (m : Nat) (a : Acc) (r : ReadRes) (s : State) : State :=
  if r = .poison then s else readCause m a r s

/-- The awn attribute of the region is a property of the access; the group's other lines take the same (R140 step 4). One
line of a group under re-encryption: its content read under the old counters, to be written under the new. -/
def reencRead (m : Nat) (a : Acc) (s : State) : (NewLine × Bool) × State :=
  let key := (pktBound s m).getD a.key
  let acc := { a with key := key, who := .demand }
  let (r, s1) := readData m acc 0 (holdPath a.cls m s)
  match r with
  | .ok l => ((.data l key, false), s1)
  | .blank => ((.data 0 key, true), s1)
  | _ => ((.poison, false), moveCause m acc r s1)

/-- Read and verify each of the group's 32 lines, then seal every line under the new major, the written one with its new
content (R140). -/
def reencrypt (m : Nat) (a : Acc) (n : NewLine) (s : State) : State :=
  match leafOf s m with
  | none => s
  | some leaf =>
    let base := alignDown m 11
    let step (acc : List (NewLine × Bool) × State) (k : Nat) : List (NewLine × Bool) × State :=
      let (r, t) := reencRead (base + 64 * k) a acc.2
      (acc.1 ++ [if k = nodeSlot 0 m then (n, false) else r], t)
    let (ls, s1) := (List.range 32).foldl step ([], s)
    let major := nodeMajor leaf + 1
    let newLeaf := (List.range 32).foldl (fun l k =>
      setMinor l k (if (ls.getD k (.poison, false)).2 then 0 else 1)) (setMajor leaf major)
    let s2 := putLeaf m newLeaf s1
    let s3 := (List.range 32).foldl (fun t k =>
      let e := ls.getD k (.poison, false)
      storeLine a.cls (base + 64 * k) a.awn ⟨major, if e.2 then 0 else 1⟩ e.1 e.2 t) s2
    raise (blkSpk (spkOf m)) 9 (accCap m a)
      (updSpk (spkOf m) (fun k => { k with reencCount := satAdd 48 k.reencCount 1 }) s3)

/-- The group of `m` is at its limit, so a write re-encrypts it (R140). -/
def minorFull (s : State) (m : Nat) : Bool :=
  match lineCtr s m with
  | some c => c.minor = 4095
  | none => false

/-- A write at `m` seals the new content with the minor counter plus 1 (R147), or re-encrypts the group. A write into a
poisoned span is discarded (R152). While writes are stopped nothing changes, but for sparing (R112, R301). -/
def writeData (m : Nat) (a : Acc) (n : NewLine) (s : State) : State :=
  if spanPoisoned s m || (writesStopped s && (s.domainDown || a.who ≠ .copy)) then s
  else match leafOf s m with
    | none => s
    | some leaf =>
      let k := nodeSlot 0 m
      if nodeMinor leaf k = 4095 then reencrypt m a n s
      else
        let c : Ctr := ⟨nodeMajor leaf, nodeMinor leaf k + 1⟩
        storeLine a.cls m a.awn c n false (putLeaf m (setMinor leaf k c.minor) s)

/-! ## Merging -/

/-- The line with the enabled bytes of `d` put into `l`. -/
def mergeBytes (l d : Line) (be : BitVec 64) : Line :=
  (List.range 64).foldl (fun a j =>
    if be.getLsbD j then setLineField a (8 * j) 8 (lineByte d j).toNat else a) l

/-! ## Blanking a page (R130) -/

/-- One group blanked: major plus 1, every minor 0, every line its blank seal in the form R142 chooses. -/
def blankGroup (m : Nat) (awn : Bool) (s : State) : State :=
  match leafOf s m with
  | none => s
  | some leaf =>
    if writesStopped s then s
    else
    let base := alignDown m 11
    let major := nodeMajor leaf + 1
    let s1 := putLeaf m (setMinors (setMajor leaf major) 0) s
    (List.range 32).foldl (fun t k => storeLine 7 (base + 64 * k) awn ⟨major, 0⟩ (.data 0 0) true t) s1

/-- The whole page blanked and its page-key record FREE. The caller has checked that no span of it is poisoned. -/
def blankPage (p : Nat) (awn : Bool) (s : State) : State :=
  let one (m : Nat) (t : State) : State := blankGroup m awn (holdPath 7 m t)
  setPkt p none (holdPath 7 p (one (p + 2048) (one p s)))

end Sys2Proof.Machine
end

