-- ==== Sys2Proof/Machine/Region.lean ====
section
/-! DEFINITION. What the loaded image says of links, LDs, regions and keys (chapters 2 and 13), and the free pools of
chapter 7 with their states (R192, R194). -/

namespace Sys2Proof.Machine

/-! ## Links and LDs -/

/-- LINK_MODE of link `l` of port `p`: 0 unused, 1 SLD, 2 MH-SLD head, 3 MLD (Table 2.12). -/
def linkMode (s : State) (p l : Nat) : Nat :=
  match s.img with
  | none => 0
  | some i => (i.links.getD (4 * p + l) (0, 0)).1

/-- The LD record of an LD tag. -/
def ldRec (s : State) (t : Nat) : LdRec :=
  match s.img with
  | none => ⟨false, 0, false, 0⟩
  | some i => i.lds.getD t ⟨false, 0, false, 0⟩

/-- The lanes that the bifurcation gives each link (R32), and how many links there are. -/
def bifur (s : State) (p : Nat) : Nat :=
  match s.img with
  | none => 0
  | some i => i.bifurcation.getD p 0
def fixedWidth (s : State) (p : Nat) : Nat := 16 / 2 ^ bifur s p
def maxSpeed (s : State) (p l : Nat) : Nat :=
  match s.img with
  | none => 0
  | some i => (i.links.getD (4 * p + l) (0, 0)).2

/-- Width and speed are marked supported in Table 2.1 (R33). Speed 1, 2, 3 stands for 16, 32, 64 GT/s. -/
def supported (w sp : Nat) : Bool :=
  (w = 16 || w = 8) && 1 ≤ sp && sp ≤ 3 || w = 4 && (sp = 2 || sp = 3)

/-- IDE_REQUIRED and AUTO_ENABLE of a port (Table 13.10). -/
def ideRequired (s : State) (p : Nat) : Bool :=
  match s.img with
  | none => false
  | some i => (i.portFlags.getD p 0).testBit 0

/-- A link serves HDM-DB: SLD or MH-SLD in 256-byte FLIT mode (Tables 2.2, 2.3, R38). -/
def hdmDb (s : State) (p : Fin 4) (l : Nat) : Bool :=
  (linkMode s p l = 1 || linkMode s p l = 2) && s.ports[p].links[port4 l].flit256

/-- The LD of tag `t` sits on an HDM-DB link. -/
def ldHdmDb (s : State) (t : Nat) : Bool := hdmDb s (port4 (t / 16)) (ldRec s t).link

/-! ## Regions -/

def regions (s : State) : List Region :=
  match s.img with
  | none => []
  | some i => i.regions

def regionNo (s : State) (n : Nat) : Option Region := (regions s).find? (·.number = n)

/-- The LD tag by which head `p` reaches a region (Table 13.11). -/
def headLdTag (r : Region) (p : Nat) : Option Nat :=
  if r.shared then (if r.heads.testBit p then some (16 * p + r.headLd.getD p 0) else none)
  else if r.ownerLd / 16 = p then some r.ownerLd else none

/-- The LD reaches the region: as its owner, or as one of its heads. -/
def ldReaches (t : Nat) (r : Region) : Bool := headLdTag r (t / 16) = some t

/-- The region that holds a DPA of an LD. -/
def regionAt (s : State) (t dpa : Nat) : Option Region :=
  (regions s).find? fun r => ldReaches t r && inRange r.dpaBase (2 ^ r.size) dpa

/-- Every LD tag that reaches a region. -/
def regionLds (r : Region) : List Nat := (List.range 4).filterMap (headLdTag r)

/-- The default key index of a region for an LD (R41, R352). -/
def defaultKey (s : State) (t : Nat) (r : Region) : Nat := if r.hasDef then r.defKey else (ldRec s t).defKey

/-- The key record of a slot (R353). -/
def keyRec (s : State) (k : Nat) : KeyRec :=
  match s.img with
  | none => ⟨k, false, false, 0, 0, 0, 0⟩
  | some i => (i.keys.find? (·.slot = k)).getD ⟨k, false, false, 0, 0, 0, 0⟩

/-! ## Free pools -/

/-- The ranks of the geometry, and the homes whose channels hold a spare in a logical rank (R207). -/
def spareHomes (s : State) (r : Nat) : List Nat :=
  match s.img with
  | none => []
  | some i => (List.range 8).filter fun h => (i.spare.getD (2 * h) 0).testBit r || (i.spare.getD (2 * h + 1) 0).testBit r

/-- Pages that one logical rank spans, as page numbers. -/
def rankPages (s : State) : Nat := 2 ^ (rankShift (geom s) + 3 - 12)

/-- A page some line of which lies in a spare rank. -/
def pageSpare (s : State) (pg : Nat) : Bool := (spareHomes s (pg / rankPages s)).contains (home (pg <<< 12))

/-- Pages with a number below `n` that lie in spare ranks: of every eight aligned pages one has each home (R86). -/
def sparesBelow (s : State) (n : Nat) : Nat :=
  ((List.range (geom s).ranks).map fun r =>
    let hs := spareHomes s r
    let c := rankPages s
    if hs.isEmpty || n ≤ r * c then 0
    else
      let m := min (n - r * c) c
      m / 8 * hs.length + ((List.range (m % 8)).filter fun i => pageSpare s (r * c + m / 8 * 8 + i)).length).sum

/-- Free pages of a pool: 0 strong, 1 light. Its ranges may name pages of spare ranks, which do not count. -/
def poolFree (s : State) (p : Pool) : Nat :=
  p.free.foldl (fun n r => n + r.2 - (sparesBelow s (r.1 + r.2) - sparesBelow s r.1)) 0

/-- A watermark in pages: LOW at [63:40], CRITICAL at [39:16] of TIER_WM_n, in MiB. -/
def lowPages (s : State) (n : Nat) : Nat := regField s (offTierWm n) 40 24 * 256
def critPages (s : State) (n : Nat) : Nat := regField s (offTierWm n) 16 24 * 256

/-- The state that a FREE count gives from the present one: down at a watermark, up at the watermark and an eighth
(R194). -/
def nextPoolState (low crit free : Nat) (st : PoolState) : PoolState :=
  let afterCrit := match st with
    | .critical => if free < crit + crit / 8 then PoolState.critical else .low
    | x => if free < crit then .critical else x
  match afterCrit with
  | .critical => .critical
  | .low => if free < low + low / 8 then .low else .normal
  | .normal => if free < low then .low else .normal

/-- Re-judge a pool, setting POOL_LOW or POOL_CRITICAL on entry (Table 7.7). -/
def judgePool (n : Fin 2) (s : State) : State :=
  let p := s.tier.pools[n]
  let st := nextPoolState (lowPages s n) (critPages s n) (poolFree s p) p.state
  if st = p.state then s
  else
    let s1 := { s with tier := { s.tier with pools := updAt s.tier.pools n fun q => { q with state := st } } }
    match p.state, st with
    | .normal, .low => raise blkTier 2 Cap.none s1
    | _, .critical => raise blkTier 3 Cap.none s1
    | _, _ => s1

/-- A free pool with one page number put back, joined to a neighbouring range where it can be. -/
def freePage (pg : Nat) : List (Nat × Nat) → List (Nat × Nat)
  | [] => [(pg, 1)]
  | (f, n) :: rest =>
    if pg + 1 < f then (pg, 1) :: (f, n) :: rest
    else if pg + 1 = f then (pg, n + 1) :: rest
    else if pg = f + n then
      match rest with
      | (g, m) :: more => if f + n + 1 = g then (f, n + 1 + m) :: more else (f, n + 1) :: rest
      | [] => [(f, n + 1)]
    else (f, n) :: freePage pg rest

/-- The page number taken out of the ranges. -/
def takePage (pg : Nat) : List (Nat × Nat) → List (Nat × Nat)
  | [] => []
  | (f, n) :: rest =>
    if f ≤ pg && pg < f + n then
      (if f < pg then [(f, pg - f)] else []) ++ (if pg + 1 < f + n then [(pg + 1, f + n - pg - 1)] else []) ++ rest
    else (f, n) :: takePage pg rest

/-- The `i`-th free page. -/
def nthPage : List (Nat × Nat) → Nat → Option Nat
  | [], _ => none
  | (f, n) :: rest, i => if i < n then some (f + i) else nthPage rest (i - n)

def setPool (n : Fin 2) (f : List (Nat × Nat) → List (Nat × Nat)) (s : State) : State :=
  judgePool n { s with tier := { s.tier with pools := updAt s.tier.pools n fun q => { q with free := f q.free } } }

/-- A page number lies in a free range. -/
def isFree (rs : List (Nat × Nat)) (pg : Nat) : Bool := rs.any fun r => r.1 ≤ pg && pg < r.1 + r.2

/-- The first of `n` numbers from `a` on that will do. -/
def seek (ok : Nat → Bool) : Nat → Nat → Option Nat
  | 0, _ => none
  | n + 1, a => if ok a then some a else seek ok n (a + 1)

/-- Number `a` of some ranges, or, where it will not do, one of its aligned eight, or the first in the ranges that will. -/
def seekFree (rs : List (Nat × Nat)) (a : Nat) (ok : Nat → Bool) : Option Nat :=
  match ([a] ++ (List.range 8).map (a / 8 * 8 + ·)).find? fun x => isFree rs x && ok x with
  | some x => some x
  | none => rs.findSome? fun r => seek ok r.2 r.1

/-- A free page, `pg` if it will do, that is in no spare rank. -/
def nearPage (s : State) (rs : List (Nat × Nat)) (pg : Nat) (ok : Nat → Bool) : Option Nat :=
  seekFree rs pg fun x => !pageSpare s x && ok x

/-- A blank page of a pool, a free choice among its free pages (R177, R188, log entry 4). -/
def allocPick (n : Fin 2) (ok : Nat → Bool) (s : State) : Option Nat × State :=
  let rs := s.tier.pools[n].free
  if poolFree s s.tier.pools[n] = 0 then (none, s)
  else
    let (c, s1) := drawChoice (rs.foldl (fun a r => a + r.2) 0) s
    match (nthPage rs c).bind fun pg => nearPage s rs pg ok with
    | some pg => (some (pg <<< 12), setPool n (takePage pg) s1)
    | none => (none, s1)

def allocPage (n : Fin 2) (s : State) : Option Nat × State := allocPick n (fun _ => true) s

/-- A blank page of a pool that spikelet `k` homes (R184, R185). -/
def allocHomed (n : Fin 2) (k : Fin 8) (s : State) : Option Nat × State :=
  allocPick n (fun pg => home (pg <<< 12) = k.val) s

/-- A page returns to the pool of its code (R192). -/
def poolOf (s : State) (m : Nat) : Fin 2 := if inStrong s m then 0 else 1

/-- A page that may be handed out again: not retired and in no poisoned span (R152, R240). -/
def mayReuse (s : State) (m : Nat) : Bool :=
  !s.tier.retired.contains (pageBase m) && !s.tier.retiredSpans.any fun r => inRange r.1 r.2 m

def returnPage (m : Nat) (s : State) : State :=
  if mayReuse s m then setPool (poolOf s m) (freePage (m >>> 12)) s else s

/-- The pool a region draws from. -/
def regionPool (r : Region) : Fin 2 := if r.strong then 0 else 1

/-- The DevLoad floor of a link from the pools its LDs' elastic regions draw from (R194): 0 light, 2 moderate, 3 severe. -/
def poolFloor (s : State) (p l : Nat) : Nat :=
  let lds := (List.range 16).filter fun n => (ldRec s (16 * p + n)).valid && (ldRec s (16 * p + n)).link = l
  let rs := (regions s).filter fun r => r.elastic && lds.any fun n => ldReaches (16 * p + n) r
  rs.foldl (fun a r => max a (match s.tier.pools[regionPool r].state with
    | .normal => 0 | .low => 2 | .critical => 3)) 0

end Sys2Proof.Machine
end

