-- ==== Sys2Proof/Machine/Snoop.lean ====
section
/-! DEFINITION. The snoop filter: sectors, sets and entries (R88 to R91, R182), who holds a line, how grants and removals
are recorded, the hold (R96), and back-invalidates through the ports (R92, R104). -/

namespace Sys2Proof.Machine

/-! ## Sectors and sets -/

/-- The sector of a plain MPA; the sector of line `k` of the packed page with descriptor `d` (R88, R182). -/
def plainSector (m : Nat) : Nat := 2 * (m >>> 8)
def packedSector (d k : Nat) : Nat := 2 * ((d >>> 6) * 16 + k / 4) + 1

/-- The sector and the line of it that a message names. -/
def msgSector (m : Msg) : Nat :=
  match m.packed with
  | none => plainSector m.mpa
  | some k => packedSector m.mpa k
def msgLine (m : Msg) : Fin 4 :=
  match m.packed with
  | none => port4 (m.mpa >>> 6)
  | some k => port4 k

/-- The MPA page behind a sector: the page itself, or the page that holds the descriptor. -/
def sectorPage (sec : Nat) : Nat :=
  if sec % 2 = 0 then pageBase ((sec / 2) <<< 8) else pageBase ((sec / 2 / 16) <<< 6)

/-- The set of a sector (R88, R182). -/
def sfSet (sec : Nat) : Nat :=
  if sec % 2 = 0 then
    let m := (sec / 2) <<< 8
    bitsAt m 8 16 ^^^ bitsAt m 24 16 ^^^ bitsAt m 40 4
  else
    let d := (sec / 2 / 16) <<< 6
    bitsAt d 6 16 ^^^ bitsAt d 22 16 ^^^ ((sec / 2 % 16) <<< 12) ^^^ bitsAt d 38 6

/-- Requests that the home serves one at a time share this name: one line, or one block of a packed page (R87, R172). -/
def orderKey (m : Msg) : Nat :=
  match m.packed with
  | none => 2 * (m.mpa >>> 6)
  | some k => 2 * ((m.mpa >>> 6) * 4 + k / 16) + 1

/-- The entry of a sector, with its place: 16 × set + way. -/
def sfFind (k : Spk) (sec : Nat) : Option (Nat × SfEntry) := k.sf.find? fun e => e.2.sector = sec

/-- The ways of a set that hold entries. -/
def sfWays (k : Spk) (set : Nat) : List (Nat × SfEntry) := k.sf.filter fun e => e.1 / 16 = set

/-! ## Holders -/

/-- The heads that may hold line `i` of an entry (R89, R90, R319). -/
def holders (e : SfEntry) (i : Fin 4) : BitVec 4 :=
  match e.st[i] with
  | .i => 0
  | .s => e.vector
  | .o => if e.shadowO.getLsbD i then e.vector else BitVec.ofNat 4 (1 <<< e.owner[i].val)

def headBit (h : Nat) : BitVec 4 := BitVec.ofNat 4 (1 <<< h)
def headsOf (v : BitVec 4) : List Nat := (List.range 4).filter fun h => v.getLsbD h

/-- Another line of the entry than `i` is in S. -/
def otherS (e : SfEntry) (i : Fin 4) : Bool := (List.finRange 4).any fun j => j ≠ i && e.st[j] = .s
def anyS (e : SfEntry) : Bool := (List.finRange 4).any fun j => e.st[j] = .s
def anyHeld (e : SfEntry) : Bool := (List.finRange 4).any fun j => e.st[j] ≠ .i

/-- An entry with no line in S and no shadow line is precise and its vector is clear (R90). -/
def tidy (e : SfEntry) : SfEntry :=
  if anyS e || e.shadowO ≠ 0 then e else { e with imprecise := false, vector := 0 }

def setSt (e : SfEntry) (i : Fin 4) (st : LineState) : SfEntry :=
  { e with st := e.st.set i st, shadowO := e.shadowO &&& ~~~ headBit i }

/-- Line `i` is shared by exactly `v` as far as the entry can say (R90): the entry turns imprecise when another line in S
has a different set. -/
def setSharers (e : SfEntry) (i : Fin 4) (v : BitVec 4) : SfEntry :=
  if v = 0 then tidy (setSt e i .i)
  else
    let e1 := setSt e i .s
    if e.imprecise || e1.shadowO ≠ 0 then { e1 with vector := e.vector ||| v, imprecise := true }
    else if otherS e i && v ≠ e.vector then { e1 with vector := e.vector ||| v, imprecise := true }
    else { e1 with vector := v }

/-- Head `h` owns line `i`. -/
def setOwner (e : SfEntry) (i : Fin 4) (h : Fin 4) : SfEntry :=
  let e1 := setSt e i .o
  tidy { e1 with owner := e1.owner.set i h }

/-- Head `h` leaves line `i` by a write, a BIRsp or a clean eviction (R90). -/
def dropHead (e : SfEntry) (i : Fin 4) (h : Nat) : SfEntry :=
  match e.st[i] with
  | .i => e
  | .o => if e.shadowO.getLsbD i then e else if e.owner[i] = port4 h then tidy (setSt e i .i) else e
  | .s => if e.imprecise then e else setSharers e i (e.vector &&& ~~~ headBit h)

/-- Every head has left line `i`. -/
def clearLine (e : SfEntry) (i : Fin 4) : SfEntry := tidy (setSt e i .i)

/-- Head `h` is gone from the whole entry (R56, R104). -/
def clearHead (e : SfEntry) (h : Fin 4) : SfEntry :=
  let v := e.vector &&& ~~~ headBit h
  let e1 := (List.finRange 4).foldl (fun x i =>
    match x.st[i] with
    | .i => x
    | .o => if x.shadowO.getLsbD i then (if v = 0 then setSt x i .i else x)
            else if x.owner[i] = h then setSt x i .i else x
    | .s => if v = 0 then setSt x i .i else x) e
  tidy { e1 with vector := v }

/-- The record after head `h` is granted line `i`: as owner, or as a further sharer (Table 4.2). -/
def grantLine (e : SfEntry) (i : Fin 4) (h : Fin 4) (own : Bool) : SfEntry :=
  if own then setOwner e i h else setSharers e i (holders e i ||| headBit h)

/-! ## Storing entries -/

/-- Put an entry back at its place; an entry with no line held and not BUSY is invalid (R89). -/
def sfPut (k : Fin 8) (pl : Nat) (e : SfEntry) (s : State) : State :=
  updSpk k (fun q => { q with sf := if anyHeld e || e.busy then kput q.sf pl e else kdel q.sf pl }) s

/-- Change the entry of a sector, if there is one. -/
def sfUpdate (k : Fin 8) (sec : Nat) (f : SfEntry → SfEntry) (s : State) : State :=
  match sfFind s.spks[k] sec with
  | some (pl, e) => sfPut k pl (f e) s
  | none => s

/-- An entry with no line held, for a sector that a request reaches. -/
def freshEntry (sec region dpaSector aliasF stamp : Nat) : SfEntry :=
  { sector := sec, st := Vector.replicate 4 .i, owner := Vector.replicate 4 0, vector := 0, imprecise := false,
    shadowO := 0, region := region, dpaSector := dpaSector, aliasF := aliasF, holdEnd := 0, busy := false,
    stamp := stamp }

/-! ## The hold (R96) -/

def holdNs (s : State) (k : Nat) : Nat := regField s (offSpkHold k) 0 12

/-- The hold of an entry is in force. -/
def inHold (s : State) (k : Nat) (e : SfEntry) : Bool :=
  let d := (e.holdEnd.toNat + 2 ^ 16 - s.dtime % 2 ^ 16) % 2 ^ 16
  1 ≤ d && d ≤ holdNs s k

/-- HOLD_END at a grant. -/
def newHold (s : State) (k : Nat) : BitVec 16 := BitVec.ofNat 16 (s.dtime + holdNs s k)

/-! ## Back-invalidates -/

/-- The back-invalidates a request needs before it is served (Table 4.2, R91, R108, R498): line, head, kind. A shadow line
is asked for its data first (R319). -/
def biNeeds (e : SfEntry) (i : Fin 4) (op : HomeOp) (h : Option Nat) (aliasF : Nat) : List BiNeed :=
  let all (j : Fin 4) (kind : BiKind) (v : BitVec 4) : List BiNeed := (headsOf v).map fun x => ⟨j.val, x, kind⟩
  let mine := match h with
    | some x => headBit x
    | none => 0
  if e.aliasF ≠ aliasF && anyHeld e && h.isSome then
    (List.finRange 4).flatMap fun j => all j .inv (holders e j)
  else
    let others := holders e i &&& ~~~ mine
    let shadow := e.shadowO.getLsbD i
    if shadow && op ≠ .clnEvct then all i .data (holders e i)
    else match op with
      | .rd .data => if e.st[i] = .o then all i .data others else []
      | .rd .inv => all i .inv others
      | .rd .cur => if e.st[i] = .o then all i .cur others else []
      | .rd .none_ => if e.st[i] = .o then all i .cur others else []
      | .inv => all i .inv others
      | .clnEvct => []
      | .wr => if e.st[i] = .o && e.owner[i].val = h.getD 4 then [] else all i .inv others
      | .wrPtl => if e.st[i] = .o && e.owner[i].val = h.getD 4 then [] else all i .inv others
      | .atomic _ _ _ _ => all i .inv (holders e i)
      | .cqRead => if e.st[i] = .o then all i .cur (holders e i) else []
      | .cqWrite => all i .inv (holders e i)

/-- The committed decoders of a head's LD that name a region (R92): decoder key and record. -/
def namingDecoders (s : State) (p : Fin 4) (ldTag region : Nat) : List (Nat × Decoder) :=
  s.ports[p].decs.filter fun d => d.2.committed && d.1 / 4 = ldTag % 16 &&
    regField s (offDecMap p (d.1 / 4) (d.1 % 4)) 16 8 = region

/-- The HPA of a DPA under an alias through a decoder, its interleave bits put back (R41, R92). -/
def hpaOf (d : Decoder) (pos : Nat) (r : Region) (aliasF dpa : Nat) : Nat :=
  let o := (aliasF <<< r.size) + (dpa - r.dpaBase)
  let g := log2Of d.ig
  let w := log2Of d.iw
  d.base + (((o >>> g) <<< (g + w)) ||| (if d.iw = 1 then 0 else (pos % d.iw) <<< g) ||| o % 2 ^ g)

/-- One back-invalidate leaves the home to a head; its port sends one BISnp for each decoder that names the region, and
answers at once with no copy when there is none or the link is down (R92, R104). On a link in Recovery, which is not down,
the messages leave once it is back in L0 (R35). DESIGN CHOICE: SPK_BI_SENT counts the home's own back-invalidates, one for
a head and line, also where the port sends no BISnp for it (log entry 132). -/
def sendBi (k : Fin 8) (owner : BiOwner) (sec region aliasF dpaSector : Nat) (n : BiNeed) (s : State) : State :=
  let (sid, s1) := takeSeq s
  let p := port4 n.head
  match regionNo s1 region with
  | none => done sid 0 s1
  | some r =>
    match headLdTag r n.head with
    | none => done sid 0 s1
    | some t =>
      let l := (ldRec s1 t).link
      let k0 := s1.ports[p].links[port4 l]
      if !k0.up && !k0.retraining then done sid 0 s1
      else
        let ds := namingDecoders s1 p t region
        let dpa := dpaSector * 256 + n.line * 64
        let s2 := ds.foldl (fun u d =>
          let (bid, u1) := takeSeq u
          let hpa := hpaOf d.2 (regField u1 (offDecMap p (d.1 / 4) (d.1 % 4)) 28 4) r aliasF dpa
          let u2 := updPort p (fun q => { q with
            bis := q.bis ++ [⟨bid, k.val, sid, l, hpa, n.kind, t, false, !k0.up⟩] }) u1
          if k0.up then emit (.biSnp p l bid hpa n.kind) u2 else u2) s1
        done sid ds.length s2
where
  /-- The home's record of the back-invalidate, with the answers still to come. -/
  done (sid left : Nat) (u : State) : State :=
    perfSpk k 0x06 1 none (updSpk k (fun q => { q with
      snps := q.snps ++ [⟨sid, owner, sec, n.line, n.head, n.kind, u.dtime, left, if left = 0 then some .i else none, false⟩]
      biSent := satAdd 48 q.biSent 1 }) u)

/-- The BISnp messages that a link in Recovery kept back leave it (R35, R92). -/
def sendUnsent (p : Fin 4) (l : Nat) (s : State) : State :=
  (s.ports[p].bis.filter fun b => b.unsent && b.link = l).foldl (fun t b =>
    emit (.biSnp p l b.bid b.hpa b.kind) (updPort p (fun q => { q with
      bis := q.bis.map fun x => if x.bid = b.bid then { x with unsent := false } else x }) t)) s

/-- A back-invalidate of a line of the sector is open or not yet recorded for another owner than `o`: the entry stays BUSY
(R101). -/
def otherSnp (s : State) (k : Fin 8) (o : BiOwner) (sec : Nat) : Bool :=
  s.spks[k].snps.any fun n => n.sector = sec && n.owner ≠ o

/-- A transaction other than `tid` has decided that a line of the sector needs a back-invalidate (R101). -/
def otherBusy (s : State) (k : Fin 8) (tid sec : Nat) : Bool :=
  s.spks[k].txns.any fun u => u.tid ≠ tid && (u.state = .holdWait || u.state = .biWait) && msgSector u.msg = sec

/-- The back-invalidates of a transaction or buffer sent; one broadcast is counted when they go to the sharers of an
imprecise entry (R90). -/
def sendBis (k : Fin 8) (owner : BiOwner) (e : SfEntry) (ns : List BiNeed) (s : State) : State :=
  let s1 := ns.foldl (fun t n => sendBi k owner e.sector e.region e.aliasF e.dpaSector n t) s
  let lines := (ns.map (·.line)).eraseDups.filter fun i => e.imprecise && e.st[port4 i] = .s
  updSpk k (fun q => { q with biBcast := satAdd 48 q.biBcast lines.length }) s1

/-- The record after one answered back-invalidate: the head leaves the line, shares it, or stays. An owner that shares the
line does so with the head whose read it answered, and the grant sets that one sharer set; BISnpCur changes no record
(Table 4.2, R90, R498). -/
def recordBi (me : Option (Nat × Nat)) (e : SfEntry) (n : Snp) : SfEntry :=
  let i := port4 n.line
  let owns := e.st[i] = .o && !e.shadowO.getLsbD i && e.owner[i].val = n.head
  match n.kind, n.answer with
  | .inv, _ => dropHead e i n.head
  | .cur, _ => e
  | .data, some .i => dropHead e i n.head
  | .data, some _ =>
    let reader : BitVec 4 := match me with
      | some (l, h) => if l = n.line then headBit h else 0
      | none => 0
    if owns then setSharers e i (headBit n.head ||| reader) else e
  | .data, none => e

/-- The heads that back-invalidates take a line from: those sent BISnpInv and, where there is one, the head `me` whose
request for that line they serve, as it takes the line or gives it up (Table 4.2). -/
def takenFrom (ns : List Snp) (me : Option (Nat × Nat)) (j : Nat) : BitVec 4 :=
  let inv := (ns.filter fun n => n.line = j && n.kind = .inv).foldl (fun a n => a ||| headBit n.head) (0 : BitVec 4)
  match me with
  | some (l, h) => if l = j && inv ≠ 0 then inv ||| headBit h else inv
  | none => inv

/-- A line in S that no head keeps once the back-invalidates are answered: it leaves S at once (R90). -/
def leavesS (e : SfEntry) (ns : List Snp) (me : Option (Nat × Nat)) (j : Nat) : Bool :=
  e.st[port4 j] = .s && holders e (port4 j) &&& ~~~ takenFrom ns me j = 0

/-- The record after every back-invalidate of a set has been answered: a line that no head keeps has none left, each other
head leaves or shares in turn, and a shadow line takes what the answers say (R90, R319). -/
def recordBis (e : SfEntry) (ns : List Snp) (me : Option (Nat × Nat)) : SfEntry :=
  let asked := (ns.map (·.line)).eraseDups
  let gone := asked.filter fun j => leavesS e ns me j
  let shadows := asked.filter fun j => e.shadowO.getLsbD j
  let e0 := gone.foldl (fun x j => clearLine x (port4 j)) e
  let e1 := (ns.filter fun n => !e.shadowO.getLsbD n.line && !gone.contains n.line).foldl (recordBi me) e0
  shadows.foldl (fun x j =>
    let mine := ns.filter fun n => n.line = j
    let v := mine.foldl (fun a n => if n.kind ≠ .inv && n.answer ≠ some .i then a ||| headBit n.head else a) 0
    setSharers x (port4 j) v) e1

end Sys2Proof.Machine
end

