-- ==== Sys2Proof/Machine/Packed.lean ====
section
/-! DEFINITION. The packed tier: page descriptors (R178 to R180), granules and stocks (R184), block reads (R170, R181), and
writing pages and blocks (R183, R185, R189). -/

namespace Sys2Proof.Machine

/-! ## Descriptor fields (Table 7.1) -/

def descForm (d : Line) : Nat := (d.extractLsb' 454 2).toNat
def descKeyState (d : Line) : Nat := (d.extractLsb' 452 2).toNat
def descKey (d : Line) : Nat := (d.extractLsb' 440 12).toNat
def descCount (d : Line) (b : Nat) : Nat := (d.extractLsb' (432 + 2 * b) 2).toNat
def descGranule (d : Line) (b j : Nat) : Nat := (d.extractLsb' (108 * b + 36 * j) 36).toNat
def descGranules (d : Line) (b : Nat) : List Nat := (List.range (descCount d b)).map (descGranule d b)

/-- The key index a page is bound to. -/
def descBound (d : Line) : Option Nat := if descKeyState d = 1 then some (descKey d) else none

/-- A descriptor with block `b` in the granules given. -/
def setBlock (d : Line) (b : Nat) (gs : List Nat) : Line :=
  let d1 := setLineField d (432 + 2 * b) 2 gs.length
  (List.range 3).foldl (fun l j => setLineField l (108 * b + 36 * j) 36 (gs.getD j 0)) d1

/-- A descriptor bound to a key index. -/
def bindDesc (d : Line) (k : Nat) : Line := setLineField (setLineField d 452 2 1) 440 12 k

/-- A FORWARD descriptor naming the plain page at `p` (R185). -/
def forwardDesc (k : Option Nat) (p : Nat) : Line :=
  let d := setLineField (setLineField 0 454 2 1) 0 36 (p >>> 8)
  match k with
  | some i => bindDesc d i
  | none => d

/-- The plain page a FORWARD descriptor names. -/
def forwardPage (d : Line) : Nat := pageBase (descGranule d 0 0 <<< 8)

/-! ## Access to descriptors -/

/-- The access of a home's own metadata (0x5 read, 0x6 write) by a Glume engine. -/
def descAcc (d : Nat) : Acc := ⟨0, false, idGlume (spkOf d), 5, .demand, false, 7⟩

/-- The descriptor at `d`, read and verified (R179). -/
def readDesc (d : Nat) (noise : Image) (s : State) : ReadRes × State := readData d (descAcc d) noise s

/-- The descriptor as DRAM holds it, without an access: what decides whether a page is FORWARD when a request is ordered
(R181, log entry 14). -/
def peekDesc (s : State) (d : Nat) : Option Line :=
  let leaf := match leafOf s d with
    | some n => some n
    | none => peekLine s (leafAddr s d)
  match leaf, decodeLine (codeOf s d false) (dramGet s (physLine s d)) with
  | some n, .line .plain img _ =>
    let c := nodeCtr n (nodeSlot 0 d)
    let slot := match slotLine s d with
      | some (kind, a) =>
        match (match heldLine s kind a with | some l => some l | none => peekLine s a) with
        | some l => l.extractLsb' (8 * (dtagSlot s (lineBase d) % 64)) 64
        | none => 0
      | none => 0
    openLine (metaKey s) true (lineBase d) c .plain img slot
  | _, _ => none

/-- A descriptor written with a new counter and tag. -/
def writeDesc (d : Nat) (l : Line) (s : State) : State := writeData d (descAcc d) (.data l 0) s

/-! ## Blocks -/

/-- What reading a block finds: its 1,024 bytes, or a failure that poisons it whole (R171). -/
inductive BlockRead where
  | ok (bytes : List Byte)
  | failed
deriving DecidableEq, Repr

/-- The lines of granule `g` read and verified under a key index; `none` at the first that fails, its cause set
(R170 check 1). -/
def readGranule (g : Nat) (a : Acc) (noise : Image) (s : State) : Option (List Byte) × State :=
  (List.range 4).foldl (fun (acc : Option (List Byte) × State) i =>
    match acc.1 with
    | none => acc
    | some bs =>
      let m := (g <<< 8) + 64 * i
      let (r, t) := readData m a (if i = 0 then noise else 0) (holdPath a.cls m acc.2)
      match readPlain r with
      | some l => (some (bs ++ lineBytes l), t)
      | none => (none, readCause m a r t)) (some [], s)

/-- Block `b` of the page with descriptor `d`, decompressed and checked (R170, R181). An EMPTY block is 1,024 zero bytes.
`cap` names the requesting master and key index. -/
def readBlock (k : Fin 8) (d : Line) (b : Nat) (a : Acc) (noise : Image) (s : State) : BlockRead × State :=
  if descCount d b = 0 then (.ok (List.replicate 1024 0), s)
  else
    let gs := descGranules d b
    let (bytes, s1) := gs.foldl (fun (acc : Option (List Byte) × State) g =>
      match acc.1 with
      | none => acc
      | some bs =>
        let (r, t) := readGranule g a (if bs.isEmpty then noise else 0) acc.2
        (r.map (bs ++ ·), t)) (some [], s)
    let s2 := updSpk k (fun q => { q with glumeDecomp := satAdd 48 q.glumeDecomp 1 }) s1
    match bytes with
    | none => (.failed, s2)
    | some bs =>
      let inject := fires s2 (blkSpk k) 16
      let s3 := if inject then disarm (blkSpk k) 16 s2 else s2
      let bs := if inject then
          let len := blockLength bs
          bs.set (len - 4) (bs.getD (len - 4) 0 ^^^ 1)
        else bs
      let cap : Cap := ⟨(gs.headD 0) <<< 8, 1, a.master, a.access, some a.key⟩
      match glumeBDecode bs with
      | .ok out => (.ok out, s3)
      | .format => (.failed, raise (blkSpk k) 17 cap s3)
      | .crc => (.failed, raise (blkSpk k) 16 cap s3)

/-- Line `i` of a block. -/
def blockLine (bytes : List Byte) (i : Nat) : Line := lineOfBytes ((bytes.drop (64 * i)).take 64)

/-- A block of bytes as its 16 lines. -/
def blockLines (bytes : List Byte) : List Line := (List.range 16).map (blockLine bytes)

/-! ## Granules and stocks (R184) -/

/-- A granule of key `key` out of the stock of home `k`; when there is none, a page of the promotion stock is bound to the
key and gives its other 15 granules to the stock. DESIGN CHOICE: those for which the stock has no room go to Germ's free
granules (log entry 139). -/
def takeGranule (k : Fin 8) (key : Nat) (strong : Bool) (s : State) : Option Nat × State :=
  let q := s.spks[k]
  match q.stock.find? fun g => g.key = key && inStrong s (g.addr <<< 8) = strong with
  | some g => (some g.addr, updSpk k (fun q => { q with stock := q.stock.erase g }) s)
  | none =>
    match q.promo.find? fun pg => inStrong s pg = strong with
    | none => (none, s)
    | some pg =>
      let s1 := setPkt pg (some key) (holdPath 7 pg s)
      let more := (List.range 15).map fun i => (⟨pg / 256 + 1 + i, key⟩ : Granule)
      let room := 1024 - q.stock.length
      let s2 := { s1 with tier := { s1.tier with
        granulePages := kput s1.tier.granulePages pg key, granFree := s1.tier.granFree ++ more.drop room } }
      (some (pg / 256), updSpk k (fun q => { q with promo := q.promo.erase pg, stock := q.stock ++ more.take room }) s2)

/-- `n` granules, or none taken if they are not to be had. -/
def takeGranules : Nat → Fin 8 → Nat → Bool → State → Option (List Nat) × State
  | 0, _, _, _, s => (some [], s)
  | n + 1, k, key, strong, s =>
    match takeGranule k key strong s with
    | (none, _) => (none, s)
    | (some g, s1) =>
      match takeGranules n k key strong s1 with
      | (none, _) => (none, s)
      | (some gs, s2) => (some (g :: gs), s2)

/-- Surplus granules go to the release ring with their key (R183, R184); the caller has checked its room. -/
def ringAdd (k : Fin 8) (key : Nat) (gs : List Nat) (s : State) : State :=
  updSpk k (fun q => { q with release := q.release ++ gs.map fun g => ⟨g, key⟩ }) s

/-- The lines of one granule sealed under a key index, for a write of class `cls`. -/
def writeGranule (cls g key : Nat) (awn : Bool) (bytes : List Byte) (s : State) : State :=
  (List.range 4).foldl (fun t i =>
    let m := (g <<< 8) + 64 * i
    writeData m ⟨key, awn, idGlume (spkOf m), 0xE, .demand, false, cls⟩
      (.data (lineOfBytes ((bytes.drop (64 * i)).take 64)) key) (holdPath cls m t)) s

/-- A compressed block written into its granules (R169). -/
def writeBlock (cls : Nat) (gs : List Nat) (key : Nat) (awn : Bool) (bytes : List Byte) (s : State) : State :=
  (List.range gs.length).foldl (fun t j =>
    writeGranule cls (gs.getD j 0) key awn ((bytes.drop (256 * j)).take 256) t) s

/-! ## Whole pages -/

/-- The 64 lines of a page as the moves see them: data, blank, or failed (R149). -/
inductive PageLine where
  | data (l : Line)
  | blank
  | failed
deriving DecidableEq, Repr

/-- The 64 lines sealed into the blank plain page `p` under a key; a blank line is left as it is, a failed one becomes
the poison pattern. -/
def fillPage (p : Nat) (key : Nat) (awn : Bool) (ls : List PageLine) (s : State) : State :=
  (List.range 64).foldl (fun t i =>
    let m := p + 64 * i
    let a : Acc := ⟨key, awn, idMigration, 9, .demand, false, 7⟩
    match ls.getD i .blank with
    | .blank => t
    | .data l => writeData m a (.data l key) (holdPath 7 m t)
    | .failed => writeData m a .poison (holdPath 7 m t)) s

/-- The 64 lines of a plain page read under its page key (R188 step 6, R149). DESIGN CHOICE: a line that decodes
uncorrectable, is a malformed awn or lies in a poisoned span is failed like one whose tag fails, so that a page compression
of it fails with GLUME_SRC_POISON, though R173 names only a failed tag and the poison pattern (log entry 138). -/
def readPlainPage (p : Nat) (awn : Bool) (noise : Image) (s : State) : List PageLine × State :=
  (List.range 64).foldl (fun (acc : List PageLine × State) i =>
    let m := p + 64 * i
    let t := holdPath 7 m acc.2
    let a : Acc := ⟨(pktBound t m).getD 0, awn, idMigration, 8, .demand, false, 7⟩
    let (r, t1) := readData m a (if i = 0 then noise else 0) t
    match r with
    | .ok l => (acc.1 ++ [.data l], t1)
    | .blank => (acc.1 ++ [.blank], t1)
    | _ => (acc.1 ++ [.failed], moveCause m a r t1)) ([], s)

/-- The 64 lines of a packed page under its key; an EMPTY block gives blank lines, a failed block 16 failed ones. The migration
engine is the requesting master (R170, R188 step 6). -/
def readPackedPage (k : Fin 8) (d : Line) (awn : Bool) (noise : Image) (s : State) : List PageLine × State :=
  (List.range 4).foldl (fun (acc : List PageLine × State) b =>
    if descCount d b = 0 then (acc.1 ++ List.replicate 16 .blank, acc.2)
    else
      let a : Acc := ⟨descKey d, awn, idMigration, 0xD, .demand, false, 7⟩
      match readBlock k d b a (if b = 0 then noise else 0) acc.2 with
      | (.ok bs, t) => (acc.1 ++ (blockLines bs).map .data, t)
      | (.failed, t) => (acc.1 ++ List.replicate 16 .failed, t)) ([], s)

end Sys2Proof.Machine
end

