-- ==== Sys2Proof/Machine/Remap.lean ====
section
/-! DEFINITION. The remap table (R68, R69, Tables 3.2 to 3.4): its entries, its tables in DRAM, the walk cache (R75 to R77)
and the edits that Germ makes. -/

namespace Sys2Proof.Machine

/-! ## Entries (Table 3.3) -/

def eValid (e : Word) : Bool := flag e 0
def eLeaf (e : Word) : Bool := flag e 1
def eAddr (e : Word) : Nat := field e 6 38 <<< 6
def eExt (e : Word) : Nat := field e 44 8
def eTier (e : Word) : Nat := field e 54 2
def ePolicy (e : Word) : Bool := flag e 56
def ePinned (e : Word) : Bool := flag e 57
def eSize (e : Word) : Nat := field e 58 6
def eReserved (e : Word) : Bool := field e 52 2 ≠ 0 || field e 2 4 ≠ 0

/-- A leaf: size code, PINNED, packed, address. -/
def mkLeaf (size : Nat) (pinned packed : Bool) (a : Nat) : Word :=
  place 58 size ||| place 57 (bit pinned) ||| place 54 (bit packed) ||| BitVec.ofNat 64 a ||| 3

/-- log2 of the span of one entry; level 4 is the root directory (Table 3.2). -/
def spanOf : Nat → Nat
  | 4 => 45
  | 3 => 39
  | 2 => 30
  | 1 => 21
  | _ => 12

/-- The level whose leaves may carry a size code. -/
def levelOf (size : Nat) : Nat := if 39 ≤ size then 3 else if 30 ≤ size then 2 else if 21 ≤ size then 1 else 0

/-- The MPA of the entry for a DPA in the table of a level. -/
def entryAddr (table level ldTag dpa : Nat) : Nat :=
  if level = 4 then table + 8 * ldTag
  else table + 8 * (dpa >>> spanOf level % (if level = 3 then 64 else 512))

def rootTable (s : State) : Nat := regField s offShfRoot 12 32 <<< 12

/-- A range of 2^s bytes at `m` is wholly host data space (Table 3.4): inside the populated capacity, off the protected
ranges, Bran's range and the spare ranks. -/
def hostRange (s : State) (m size : Nat) : Bool :=
  let e := m + 2 ^ size
  let meets (b l : Nat) : Bool := b < e && m < l
  e ≤ populated (geom s) &&
    (List.range 8).all (fun n =>
      let b := mapAt s (18 + 2 * n)
      let l := mapAt s (19 + 2 * n)
      !(b.testBit 63 && meets (bitsAt b 12 32 <<< 12) ((bitsAt l 12 32 + 1) <<< 12))) &&
    !meets (branBase s) (branBase s + branSize s) &&
    sparesBelow s (e >>> 12) = sparesBelow s (m >>> 12)

/-- The first condition of Table 3.4 that an entry read at a level meets, as its cause bit. -/
def checkEntry (s : State) (level : Nat) (e : Word) : Option Nat :=
  let a := eAddr e
  if eExt e ≠ 0 then some 1
  else if !eLeaf e then
    if !(metaBase s ≤ a && a < metaLimit s + 4096) || a % 4096 ≠ 0 then some 2
    else if eReserved e || eSize e ≠ 0 || ePinned e || ePolicy e || eTier e ≠ 0 || level = 0 then some 3
    else none
  else if eReserved e || 2 ≤ eTier e || level = 4 || levelOf (eSize e) ≠ level || eSize e < 12 || 44 < eSize e ||
      (eTier e = 0 && a % 2 ^ eSize e ≠ 0) || (eTier e = 1 && eSize e ≠ 12) then some 3
  else if eTier e = 0 then (if hostRange s a (eSize e) then none else some 4)
  else if descBase s ≤ a && a < descLimit s then none else some 4

/-! ## Entries in DRAM -/

/-- The line of an entry, read for the walk assist or for Germ, brought in through the culm tree (R146, log entry 13). -/
def remapAcc (master : Nat) : Acc := ⟨0, false, master, 7, .demand, false, 7⟩

/-- An entry of the table; none where its line cannot be used. -/
def readEntry (a master : Nat) (noise : Image) (s : State) : Option Word × State :=
  let (r, s1) := readData a (remapAcc master) noise (holdPath 7 a s)
  match readPlain r with
  | some l => (some (l.extractLsb' (8 * (a % 64)) 64), s1)
  | none => (none, readCause a (remapAcc master) r s1)

/-- Germ writes an entry; a line that cannot be read is left as it is. -/
def writeEntry (a : Nat) (v : Word) (s : State) : State :=
  let acc := remapAcc idGerm
  let (r, s1) := readData a acc 0 (holdPath 7 a s)
  match readPlain r with
  | some l => writeData a acc (.data (setLineField l (8 * (a % 64)) 64 v.toNat) 0) s1
  | none => s1

/-- A table for the tree: the next page of the remap-table area, the root directory's page left out (log entry 16). -/
def takeTable (s : State) : Option Nat × State :=
  let at_ (i : Nat) : Nat := metaBase s + 4096 * i
  let i := if at_ s.gate.tables = pageBase (rootTable s) then s.gate.tables + 1 else s.gate.tables
  if metaLimit s < at_ i then (none, s) else (some (at_ i), { s with gate := { s.gate with tables := i + 1 } })

/-- The table of a level on the path of a DPA, made where it is missing. `fuel` counts the levels. -/
def tableFor : Nat → Nat → Nat → Nat → Nat → Nat → State → Option Nat × State
  | 0, _, _, _, _, _, s => (none, s)
  | fuel + 1, ldTag, dpa, want, level, table, s =>
    if level = want then (some table, s)
    else
      let a := entryAddr table level ldTag dpa
      match readEntry a idGerm 0 s with
      | (none, s1) => (none, s1)
      | (some e, s1) =>
        if eValid e then
          if eLeaf e then (none, s1) else tableFor fuel ldTag dpa want (level - 1) (eAddr e) s1
        else match takeTable s1 with
          | (none, s2) => (none, s2)
          | (some t, s2) =>
            tableFor fuel ldTag dpa want (level - 1) t (writeEntry a (BitVec.ofNat 64 t ||| 1) s2)

/-- Germ writes a word into every slot of the aligned group of 2^size bytes at a DPA (R68), for one LD. -/
def writeSlots (ldTag dpa size : Nat) (v : Word) (s : State) : State :=
  let level := levelOf size
  match tableFor 5 ldTag dpa level 4 (rootTable s) s with
  | (none, s1) => s1
  | (some t, s1) =>
    (List.range (2 ^ (size - spanOf level))).foldl (fun u i =>
      writeEntry (entryAddr t level ldTag (alignDown dpa size + i * 2 ^ spanOf level)) v u) s1

/-- No other region of a head lies in the span of the entry at `level` for a DPA of a region. -/
def aloneAt (s : State) (r : Region) (dpa level : Nat) : Bool :=
  let i := dpa >>> spanOf level
  (regionLds r).all fun t => (regions s).all fun q =>
    q.number = r.number || !ldReaches t q || i < q.dpaBase >>> spanOf level || (q.dpaBase + 2 ^ q.size - 1) >>> spanOf level < i

/-- The level whose entry links the subtree that the heads of a shared region share: L3, so that they share L2 tables, or L2
where the L3 entry of a head spans another region too (R68; DEDUCED, log entry 142). A region has at least 2^30 bytes, so its
L2 entries span nothing else. -/
def shareLevel (s : State) (r : Region) (dpa : Nat) : Nat := if aloneAt s r dpa 3 then 3 else 2

/-- The table below `level` on the first LD's path is linked from the entry of another LD. -/
def linkTable (first ld dpa level : Nat) (s : State) : State :=
  match tableFor 5 first dpa (level - 1) 4 (rootTable s) s with
  | (none, s1) => s1
  | (some low, s1) =>
    match tableFor 5 ld dpa level 4 (rootTable s1) s1 with
    | (none, s2) => s2
    | (some t, s2) =>
      let a := entryAddr t level ld dpa
      let v := BitVec.ofNat 64 low ||| 1
      match readEntry a idGerm 0 s2 with
      | (some e, s3) => if e = v then s3 else writeEntry a v s3
      | (none, s3) => s3

/-- A leaf of a region for every LD that reaches it: in the subtree that its heads share, or, where the leaf lies above that,
in every LD's own table (R68). -/
def writeMapping (r : Region) (dpa size : Nat) (v : Word) (s : State) : State :=
  match regionLds r with
  | first :: rest =>
    let l := shareLevel s r dpa
    if l ≤ levelOf size then (first :: rest).foldl (fun t ld => writeSlots ld dpa size v t) s
    else rest.foldl (fun t ld => linkTable first ld dpa l t) (writeSlots first dpa size v s)
  | [] => s

/-- What Germ finds for a DPA when it reads the table itself: the leaf, or the level of the entry that is not VALID. -/
def lookEntry : Nat → Nat → Nat → Nat → Nat → State → (Word ⊕ Nat) × State
  | 0, _, _, level, _, s => (.inr level, s)
  | fuel + 1, ldTag, dpa, level, table, s =>
    match readEntry (entryAddr table level ldTag dpa) idGerm 0 s with
    | (none, s1) => (.inr level, s1)
    | (some e, s1) =>
      if !eValid e then (.inr level, s1)
      else if (checkEntry s1 level e).isSome then (.inr level, s1)
      else if eLeaf e then (.inl e, s1)
      else lookEntry fuel ldTag dpa (level - 1) (eAddr e) s1

def lookLeaf (ldTag dpa : Nat) (s : State) : (Word ⊕ Nat) × State := lookEntry 5 ldTag dpa 4 (rootTable s) s

/-- The leaves that map a DPA range of an LD, in ascending order; `fuel` bounds them by the pages of the range. -/
def leavesIn : Nat → Nat → Nat → Nat → State → List (Nat × Word) × State
  | 0, _, _, _, s => ([], s)
  | fuel + 1, ldTag, dpa, limit, s =>
    if limit ≤ dpa then ([], s)
    else match lookLeaf ldTag dpa s with
      | (.inl e, s1) =>
        let b := alignDown dpa (eSize e)
        let (rest, s2) := leavesIn fuel ldTag (b + 2 ^ eSize e) limit s1
        ((b, e) :: rest, s2)
      | (.inr level, s1) => leavesIn fuel ldTag (alignDown dpa (spanOf level) + 2 ^ spanOf level) limit s1

/-! ## The walk cache (R75 to R77) -/

/-- The cached pointer of a level on the path of a DPA. -/
def cachedPtr (s : State) (ldTag dpa level : Nat) : Option WalkPtr :=
  s.gate.cache.find? fun w => w.ldTag = ldTag && w.level = level && w.index = dpa >>> spanOf level

/-- A pointer read by a walk is held; beyond 32 Ki pointers the least recently used L2 or L1 pointer leaves (R76). The list
is in order of use. -/
def cachePtr (w : WalkPtr) (s : State) : State :=
  let rest := s.gate.cache.filter fun x => !(x.ldTag = w.ldTag && x.level = w.level && x.index = w.index)
  let kept := if rest.length < 32768 then rest else
    match rest.find? (·.level ≤ 2) with
    | some x => rest.erase x
    | none => rest
  { s with gate := { s.gate with cache := kept ++ [w] } }

/-- The name of a cached pointer in a walk's list of the pointers it used. -/
def ptrName (level index : Nat) : Nat := 8 * index + level

/-- A walk goes down through the pointers the cache holds, to the first entry it must read. -/
def descend : Nat → Walk → State → Walk × State
  | 0, w, s => (w, s)
  | fuel + 1, w, s =>
    match cachedPtr s w.miss.ldTag w.miss.dpa w.level with
    | some c =>
      if w.level = 0 then (w, s)
      else descend fuel { w with
        level := w.level - 1, table := eAddr c.entry, used := ptrName c.level c.index :: w.used } (cachePtr c s)
    | none => (w, s)

/-- A walk starts, or starts again, at the root. -/
def restartWalk (w : Walk) (s : State) : Walk × State :=
  descend 5 { w with level := 4, table := rootTable s, used := [], leaf := none, waiting := false } s

/-- Every cached pointer of the LD, or of all, whose span overlaps the range leaves, and walks that used one of them start
again (R77). -/
def flushCache (all : Bool) (ldTag dpa size : Nat) (s : State) : State :=
  let lo := alignDown dpa size
  let hi := lo + 2 ^ size
  let gone (c : WalkPtr) : Bool := (all || c.ldTag = ldTag) &&
    c.index <<< spanOf c.level < hi && lo < (c.index + 1) <<< spanOf c.level
  let out := s.gate.cache.filter gone
  let s1 := { s with gate := { s.gate with cache := s.gate.cache.filter fun c => !gone c } }
  let stale (w : Walk) : Bool := w.leaf.isNone && out.any fun c =>
    c.ldTag = w.miss.ldTag && w.used.contains (ptrName c.level c.index)
  let (ws, s2) := s1.gate.walks.foldl (fun (a : List Walk × State) w =>
    if stale w then
      let (w1, t) := restartWalk w a.2
      (a.1 ++ [w1], t)
    else (a.1 ++ [w], a.2)) ([], s1)
  { s2 with gate := { s2.gate with walks := ws } }

end Sys2Proof.Machine
end

