-- ==== Sys2Proof/Machine/QueueBase.lean ====
section
/-! DEFINITION. Queue pairs: the record of a pair, completions (R429, Table 17.7) and clearing ENABLE (R428). -/

namespace Sys2Proof.Machine

/-- A pair that has never been enabled. -/
def QPair.init : QPair := ⟨false, 0, 0, 0, 0, true, [], [], [], false⟩

/-- Pair `n`. -/
def qpAt (s : State) (n : Nat) : QPair := kget QPair.init s.queue.pairs n

def setQp (n : Nat) (q : QPair) (s : State) : State :=
  { s with queue := { s.queue with pairs := kset QPair.init s.queue.pairs n q } }

def updQp (n : Nat) (f : QPair → QPair) (s : State) : State := setQp n (f (qpAt s n)) s

/-! ## Verdicts of the gate queue (R424, R425, Tables 17.2, 17.3) -/

/-- A verdict slot that has not been used. -/
def Verdict.init : Verdict := ⟨0, 0, 0, 0, 0, false⟩

def verdictAt (s : State) (i : Nat) : Verdict := kget Verdict.init s.queue.verdicts i

/-- A change of status stamps DTIME (R425). -/
def setVerdict (i status reason detail : Nat) (s : State) : State :=
  let v : Verdict := ⟨status, reason, detail, (verdictAt s i).id, s.dtime, true⟩
  { s with queue := { s.queue with verdicts := kset Verdict.init s.queue.verdicts i v } }

/-- A field of a proposal: `n` bytes at byte `o` of the slot. -/
def propField (b : BitVec 256) (o n : Nat) : Nat := (b.extractLsb' (8 * o) (8 * n)).toNat

/-- Slots whose proposal of a KIND is ACCEPTED. -/
def acceptedSlots (s : State) (kind : Nat) : List Nat :=
  (List.range 256).filter fun i =>
    let v := verdictAt s i
    v.used && v.status = 1 && propField (kget 0 s.queue.slots i) 0 2 = kind

/-- Every ACCEPTED proposal of a KIND that meets `ok` on its bytes ends. -/
def endAccepted (kind status reason : Nat) (ok : BitVec 256 → Bool) (s : State) : State :=
  ((acceptedSlots s kind).filter fun i => ok (kget 0 s.queue.slots i)).foldl
    (fun t i => setVerdict i status reason 0 t) s

/-! ## Descriptor fields (Table 17.6) -/

def dOpcode (d : Line) : Nat := (d.extractLsb' 0 8).toNat
def dFlags (d : Line) : Nat := (d.extractLsb' 8 8).toNat
def dExplicit (d : Line) : Bool := d.getLsbD 8
def dResubmit (d : Line) : Bool := d.getLsbD 9
def dCmdId (d : Line) : Nat := (d.extractLsb' 16 16).toNat
def dKey (d : Line) : Nat := (d.extractLsb' 32 16).toNat
def dCount (d : Line) : Nat := (d.extractLsb' 48 16).toNat
def dDpa (d : Line) : Nat := (d.extractLsb' 64 64).toNat
def dSrc (d : Line) : Nat := (d.extractLsb' 128 64).toNat
def dOperand (d : Line) : BitVec 128 := d.extractLsb' 192 128
def dCompare (d : Line) : BitVec 128 := d.extractLsb' 320 128
def dUser (d : Line) : BitVec 64 := d.extractLsb' 448 64

/-- The taken descriptor of a pair with a CMD_ID. -/
def takenOf (s : State) (n i : Nat) : Option Taken := (qpAt s n).taken.find? (·.cmd = i)

def updTaken (n i : Nat) (f : Taken → Taken) (s : State) : State :=
  updQp n (fun q => { q with taken := q.taken.map fun t => if t.cmd = i then f t else t }) s

/-- What a completion reports (Tables 17.7, 17.9). -/
structure Fin_ where
  status : Nat
  done : Nat
  result : BitVec 128
  casOk : Bool
  dup : Bool
deriving DecidableEq, Repr

/-- A completion with no atomic result. -/
def fin (status done : Nat) : Fin_ := ⟨status, done, 0, false, false⟩

/-- The 32 bytes of a completion entry (Table 17.7). -/
def cqEntry (cmd : Nat) (phase : Bool) (f : Fin_) (user : BitVec 64) : BitVec 256 :=
  BitVec.ofNat 256 ((cmd % 1024) ||| (bit phase <<< 15) ||| (f.status <<< 16) ||| (bit f.casOk <<< 24) |||
    (bit f.dup <<< 25) ||| (f.done <<< 32) ||| (f.result.toNat <<< 64) ||| (user.toNat <<< 192))

/-- A taken descriptor completes: its entry is written whole at QP_CQ_TAIL with the lap's PHASE (R429). BAD_DESC sets its
cause (Table 17.11). -/
def complete (n i : Nat) (f : Fin_) (s : State) : State :=
  match takenOf s n i with
  | none => s
  | some t =>
    let q := qpAt s n
    let s1 := setQp n { q with
      cq := kset 0 q.cq q.cqTail (cqEntry t.cmd q.phase f (dUser t.desc))
      cqTail := (q.cqTail + 1) % 64
      phase := if q.cqTail = 63 then !q.phase else q.phase
      taken := q.taken.erase t } s
    if f.status = 4 then raise blkQueue 4 Cap.none s1 else s1

/-- Lines that a descriptor touches (R256), and lines of them it writes that the pool state governs (R194, R195). -/
def dLines (d : Line) : Nat × Nat :=
  match dOpcode d with
  | 1 => (64 * dCount d, 0)
  | 2 => (64 * dCount d, 0)
  | 3 => (2 * dCount d, dCount d)
  | o => if 0x10 ≤ o && o ≤ 0x13 then (1, 1) else (0, 0)

/-- A pair serves only while it is enabled and its LD's port is ENABLED (R428). -/
def pairServes (s : State) (n : Nat) : Bool :=
  (qpAt s n).enable && s.ports[port4 (n / 16)].state = .enabled && !halted s

/-- The engine takes descriptors in ring order while the CQ has an entry that neither a taken descriptor nor an unread
completion claims (R429). `fuel` bounds them by the ring. -/
def takeDescs : Nat → Nat → State → State
  | 0, _, s => s
  | fuel + 1, n, s =>
    let q := qpAt s n
    if !pairServes s n || q.sqHead = q.sqTail || 63 ≤ q.taken.length + (q.cqTail + 64 - q.cqHead) % 64 then s
    else
      let d := kget 0 q.sq q.sqHead
      takeDescs fuel n (setQp n { q with
        sqHead := (q.sqHead + 1) % 64
        taken := q.taken ++ [⟨dCmdId d, d, false, false, false, 0, false, 0, none, 0, false⟩]
        plainServed := q.plainServed || !dResubmit d } s)

/-- The descriptors of the pairs of a port are taken up (R428). -/
def takePort (p : Fin 4) (s : State) : State :=
  (List.range 16).foldl (fun t i => takeDescs 64 (16 * p.val + i) t) s

/-- Requests of descriptors that wait at admission leave their port. -/
def dropHeld (n : Nat) (s : State) : State :=
  let waits (r : OpenReq) : Bool := match r.req.src with
    | .cq m c _ => m = n && (qpAt s n).taken.all fun t => t.cmd ≠ c || !t.admitted
    | _ => false
  updPort (port4 (n / 16)) (fun o => { o with reqs := o.reqs.filter fun r => !waits r }) s

/-- ENABLE clears: every taken descriptor that has not started completes ABORTED with DONE 0; when the coherent domain is
down a started one stops with the units it had finished (R428). -/
def qpDisable (n : Nat) (down : Bool) (s : State) : State :=
  let s1 := dropHeld n s
  let ts := (qpAt s1 n).taken.filter fun t => down || !t.started
  updQp n (fun q => { q with enable := false })
    (ts.foldl (fun u t => complete n t.cmd (fin 10 (if t.started then t.unit else 0)) u) s1)

end Sys2Proof.Machine
end

