-- ==== Sys2Proof/Machine/Domain.lean ====
section
/-! DEFINITION. What leaves a port to its host, and the loss of the coherent domain (R112, R113, R496). -/

namespace Sys2Proof.Machine

/-! ## Responses to a host -/

/-- DevLoad of a response that no home served (R252) with the floor of the pools (R194). -/
def bareDevLoad (s : State) (p l : Nat) (held : Bool) : Nat := max (if held then 2 else 0) (poolFloor s p l)

/-- A response leaves the port for the host. -/
def sendRsp (p : Fin 4) (l ld tag : Nat) (kind : RspKind) (data : Line) (poison : Bool) (devLoad : Nat) (s : State) :
    State :=
  let s1 := emit (.rsp p l ld tag kind data poison devLoad) s
  if 2 ≤ devLoad then perfPort p 0x05 1 none s1 else s1

/-- How a request completes without a media access (R496): a read with poison and no state, everything else with Cmp. -/
def refusedRsp : HomeOp → RspKind × Bool
  | .rd _ => (.data, true)
  | .cqRead => (.data, true)
  | .atomic _ _ _ _ => (.data, true)
  | _ => (.cmp, false)

/-- A host request completed under R496 at its port. -/
def refuseHost (q : Req) (s : State) : State :=
  match q.src with
  | .host p l ld tag =>
    let (k, poison) := refusedRsp q.op
    sendRsp (port4 p) l ld tag k 0 poison (bareDevLoad s p l q.heldOnce) s
  | _ => s

/-! ## Domain down (R112) -/

/-- The image names the port, or recovery mode serves PORT_0 (Table 13.4, R341); the STATE of any other port reads RESET
(R488). -/
def portExists (p : Fin 4) (s : State) : Bool :=
  match s.img with
  | some i => i.portMask.testBit p.val
  | none => s.bring.recovery && decide (p = 0)

/-- A port goes VIRAL: it signals its links and completes every outstanding request (R112 steps 3, 4). A
port that does not exist stays in RESET. -/
def portViral (p : Fin 4) (s : State) : State :=
  if !portExists p s then s
  else
  let s1 := emit (.viral p) (raise (blkPort p) 10 Cap.none s)
  let s2 := (s1.ports[p].reqs.filter fun r => !r.discard).foldl (fun t r => refuseHost r.req t) s1
  updPort p (fun q => { q with
    state := .viral, reqs := [], egress := [], slots := [], retries := [], bis := [], creditWait := [], enableQueued := false }) s2

/-- A spikelet receives domain-down: it issues no further DRAM write, and what was open there ends (R112 steps 1, 2). -/
def spkDown (k : Fin 8) (s : State) : State :=
  raise (blkSpk k) 7 Cap.none (updSpk k (fun q => { q with
    domainDown := true, inbox := [], txns := [], snps := [], evict := [], fetches := [], jobs := [], forwards := [] }) s)

/-- The coherent domain goes down. Key slots, root set and DRAM are kept; queue pairs are disabled (R428); in a pair the
member gives up ownership (R112 step 5, R299, Table 12.2). -/
def goDown (s : State) : State :=
  if s.domainDown then s
  else
    let s1 := eachPort portViral (eachSpk spkDown (raise blkGlb 2 Cap.none { s with domainDown := true }))
    let s2 := (List.range 64).foldl (fun t n => if (qpAt t n).enable then qpDisable n true t else t) s1
    { s2 with pair := { s2.pair with own := false, role := if s2.pair.role = .primary then .detached else s2.pair.role } }

/-- A control parity error under R23 at a block, with the address it was found on. -/
def fatalParity (b : Fin 40) (bit : Nat) (c : Cap) (s : State) : State := goDown (raise b bit c s)

/-- What a stage finds of a request's control parity. -/
inductive ParityKind where
  | good
  | contained
  | fatal
deriving DecidableEq, Repr

/-- What the stage `st` finds: an error in address, command or master ID, or any error inside a coherence or ordering
structure, takes the domain down (R23); one in key index, class or tag pointer alone is contained (R22). -/
def parityAt (p : Parity) (st : CtlStage) : ParityKind :=
  if p.stage ≠ st then .good
  else if p.address || p.command || p.master then .fatal
  else if p.key || p.cls || p.tag then (if st = .order then .fatal else .contained)
  else .good

/-- What a block's stage finds on a request: an injected error fires first (Table 18.14). -/
def stageParity (b : Fin 40) (fatalBit containedBit : Nat) (keyed : Bool) (par : ParityKind) (s : State) :
    ParityKind × State :=
  if fires s b fatalBit then (.fatal, disarm b fatalBit s)
  else if keyed && fires s b containedBit then (.contained, disarm b containedBit s)
  else (par, s)

/-- The control parity that a channel finds on an access to the line at `m` (Table 18.14). A read matches an armed UE or CE
first, whose bits are higher (R449). -/
def chanParity (m : Nat) (read keyed : Bool) (par : ParityKind) (s : State) : ParityKind × State :=
  let b := blkMc (chanOf s m)
  if read && (fires s b 17 || fires s b 16) then (par, s) else stageParity b 11 10 keyed par s

/-- An access without a key index reaches the channel of `m`: a fatal parity error takes the domain down, and the access is
not made. -/
def chanAccess (m : Nat) (read : Bool) (par : Parity) (c : Cap) (f : State → State) (s : State) : State :=
  match chanParity m read false (parityAt par .channel) s with
  | (.fatal, s1) => fatalParity (blkMc (chanOf s m)) 11 c s1
  | (_, s1) => f s1

end Sys2Proof.Machine
end

