-- ==== Sys2Proof/Machine/TilTx.lean ====
section
/-! DEFINITION. The sending side of the Tiller link as the homes use it: mirroring (R306) and shadow updates (R311). -/

namespace Sys2Proof.Machine

/-- The member is PRIMARY with a partner JOINING or SECONDARY over an UP link. -/
def pairMode (s : State) : Bool := s.pair.role = .primary && s.til.state = .up && s.pair.partnered

/-- A message waits for the transmitter (R280). Nothing is queued on a link that is down, where R292 discards what waits. -/
def queueTil (m : TilMsg) (s : State) : State :=
  if s.til.state = .attest || s.til.state = .up then { s with til := { s.til with queue := s.til.queue ++ [m] } } else s

/-- EPOCH of the member (PAIR_STATE [63:56] is kept in the save list). -/
def pairEpoch (s : State) : Nat := regField s offPairState 56 8

/-- The timer of R293 starts with the first message open. -/
def startTimer (s : State) : State :=
  if s.til.mirrors.isEmpty && s.til.fetches.isEmpty then { s with til := { s.til with timerAt := s.dtime } } else s

/-- The record of an open mirror write. Records are numbered without end; MIRROR_ID is the number modulo 4,096, and the
transmitter holds a message whose MIRROR_ID an older record still has (R276). -/
def openMirror (spk tid ldTag dpa : Nat) (page : Option Nat) (s0 : State) : Nat × State :=
  let s := startTimer s0
  let mid := s.til.nextMid
  (mid, { s with til := { s.til with
    nextMid := mid + 1
    mirrors := s.til.mirrors ++ [⟨mid, spk, tid, page, ldTag, dpa, s.dtime⟩] } })

/-- A LINE_FETCH is opened and queued for the line at `mpa` (R243, R276). -/
def openFetch (x mpa ldTag key dpa : Nat) (s0 : State) : State :=
  let s := startTimer s0
  let fid := s.til.nextFid
  queueTil (.lineFetch ldTag fid key dpa)
    { s with til := { s.til with nextFid := fid + 1, fetches := s.til.fetches ++ [⟨fid, x, mpa, key⟩] } }

/-- Every head that may hold any line of an entry (R311). -/
def entryHeads (e : SfEntry) : BitVec 4 := (List.finRange 4).foldl (fun v i => v ||| holders e i) 0

/-- The LD tag an SF_SYNC update names: the LD of the lowest head that may hold the sector, else of the region. -/
def entryLd (s : State) (e : SfEntry) : Nat :=
  match regionNo s e.region with
  | none => 0
  | some r =>
    match ((headsOf (entryHeads e)).filterMap (headLdTag r)).head? with
    | some t => t
    | none => (regionLds r).headD 0

/-- A shadow update waits to be sent, with the time it was made (R311, R313). -/
def queueSync (u : SfUpdate) (s : State) : State :=
  { s with pair := { s.pair with backlog := s.pair.backlog ++ [(s.dtime, u)] } }

/-- An entry put back; in pair mode a new entry, a changed vector or alias, or a freed entry queues its update (R311). -/
def sfKeep (k : Fin 8) (pl : Nat) (e : SfEntry) (s : State) : State :=
  let s1 := sfPut k pl e s
  if !pairMode s then s1
  else
    let u (free : Bool) (x : SfEntry) : SfUpdate := ⟨free, entryLd s x, x.dpaSector, entryHeads x, x.aliasF⟩
    match kfind s.spks[k].sf pl with
    | none => if anyHeld e then queueSync (u false e) s1 else s1
    | some old =>
      if old.sector ≠ e.sector then queueSync (u false e) s1
      else if !anyHeld e then (if anyHeld old then queueSync (u true old) s1 else s1)
      else if entryHeads old ≠ entryHeads e || old.aliasF ≠ e.aliasF then queueSync (u false e) s1
      else s1

/-- An entry gone from the filter. -/
def sfFree (k : Fin 8) (pl : Nat) (s : State) : State :=
  match kfind s.spks[k].sf pl with
  | none => s
  | some e => sfKeep k pl { e with st := Vector.replicate 4 .i, busy := false } s

end Sys2Proof.Machine
end

