-- ==== Sys2Proof/Machine/Service.lean ====
section
/-! DEFINITION. Transactions of a home and the order in which a home and a channel choose among them: effective priority
(R247, R249), request slots and rachis credits (R253), and the entries of the subchannel queues (R254). -/

namespace Sys2Proof.Machine

/-! ## Transactions of a spikelet -/

def txnOf (s : State) (k : Fin 8) (tid : Nat) : Option Txn := s.spks[k].txns.find? (·.tid = tid)

def updTxn (k : Fin 8) (tid : Nat) (f : Txn → Txn) (s : State) : State :=
  updSpk k (fun q => { q with txns := q.txns.map fun t => if t.tid = tid then f t else t }) s

def dropTxn (k : Fin 8) (tid : Nat) (s : State) : State :=
  updSpk k (fun q => { q with txns := q.txns.filter fun t => t.tid ≠ tid }) s

/-- The head a request comes from, when the home keeps its copies coherent (R39, R89). -/
def reqHead (s : State) (q : Req) : Option Nat :=
  match q.src with
  | .host p l _ _ => if hdmDb s (port4 p) l then some p else none
  | _ => none

/-- The request falls under the coherence of chapter 4: a host request on an HDM-DB link, or a command-queue access of an
LD on one (R498). Partner writes meet no host copies at the SECONDARY. -/
def coherent (s : State) (q : Req) : Bool :=
  match q.src with
  | .host p l _ _ => hdmDb s (port4 p) l
  | .cq _ _ _ => ldHdmDb s q.ldTag
  | .mirror _ => false

/-- Master ID and access type of a request (Tables 18.12, 18.13). -/
def reqMaster (q : Req) : Nat :=
  match q.src with
  | .host _ _ _ _ => q.ldTag
  | .cq _ _ _ => idCq
  | .mirror _ => idPartner
def reqAccess (q : Req) : Nat :=
  match q.src, q.op with
  | .mirror _, _ => 0xC
  | _, .wr => 1
  | _, .cqWrite => 1
  | _, .wrPtl => 2
  | _, .atomic _ _ _ _ => 4
  | _, _ => 0

def isWrite : HomeOp → Bool
  | .wr => true
  | .wrPtl => true
  | .cqWrite => true
  | .atomic _ _ _ _ => true
  | _ => false

def isReadOp : HomeOp → Bool
  | .rd _ => true
  | .cqRead => true
  | _ => false

/-! ## Priority (R247, R249) -/

/-- The effective priority of class `c` at a home: its base 7 − c raised by BOOST, at most 7 (R249). -/
def effPriority (s : State) (k : Fin 8) (c : Nat) : Nat := min 7 (7 - c + s.spks[k].boost.getD c 0)

/-- The place of host-class work in the order of service, the lowest first (R247): highest effective priority, then lower
class number, then earlier arrival `n`. In ordered-class mode arrival alone counts (R110). -/
def serveKey (s : State) (k : Fin 8) (c n : Nat) : Nat :=
  if s.spks[k].orderedActive then n else ((7 - effPriority s k c) * 8 + c) * 2 ^ 64 + n

/-- An element put before the first of a sorted list whose key is greater. -/
def insertBy {α : Type} (key : α → Nat) (x : α) : List α → List α
  | [] => [x]
  | y :: ys => if key x < key y then x :: y :: ys else y :: insertBy key x ys

/-- A list sorted by a key, the order of equal keys kept. -/
def sortBy {α : Type} (key : α → Nat) (xs : List α) : List α := xs.foldl (fun acc x => insertBy key x acc) []

/-! ## Request slots (R253) -/

/-- Class `c` may take a slot when `held` says how many each class holds. -/
def slotFree (s : State) (held : Nat → Nat) (c : Nat) : Bool :=
  let qmin (d : Nat) := regField s (offQosShare d) 16 9
  let qmax (d : Nat) := regField s (offQosShare d) 32 9
  let total := (List.range 8).foldl (fun a d => a + held d) 0
  let owed := ((List.range 8).filter (· ≠ c)).foldl (fun a d => a + (qmin d - held d)) 0
  total < 256 && held c < qmax c && (held c < qmin c || owed < 256 - total)

/-- Slots of a class in use; a request in the park buffer holds none (R105, R253). -/
def slotsHeld (s : State) (k : Fin 8) (c : Nat) : Nat :=
  (s.spks[k].txns.filter fun t => t.msg.req.cls = c && t.state ≠ .parked).length

/-- A back-invalidate of the line is open to the writer. -/
def snpOpenTo (s : State) (k : Fin 8) (m : Msg) (h : Nat) : Bool :=
  s.spks[k].snps.any fun n => n.sector = msgSector m && n.line = (msgLine m).val && n.head = h && n.answer.isNone

/-! ## Which messages a home takes (R98, R110, R247, R253) -/

/-- The message carries write data: a class of its own, ahead of requests, in ordered-class mode (R110). -/
def isData (m : Msg) : Bool :=
  match m.req.op with
  | .wr => true
  | .wrPtl => true
  | .cqWrite => true
  | _ => false

/-- A host's write to a line for which the home has a back-invalidate open to that host: the home waits on it, so it needs
no slot of its class and no credit (R99, R257). -/
def awaited (s : State) (k : Fin 8) (m : Msg) : Bool :=
  (m.req.op = .wr || m.req.op = .wrPtl) && match reqHead s m.req with
    | some h => snpOpenTo s k m h
    | none => false

/-- The waiting messages of a home with their arrival numbers, in the order in which it serves them. -/
def serviceOrder (s : State) (k : Fin 8) : List (Nat × Msg) :=
  let ordered := s.spks[k].orderedActive
  sortBy (fun e : Nat × Msg =>
    (if ordered && !isData e.2 then 2 ^ 80 else 0) + serveKey s k e.2.req.cls e.1) (s.spks[k].inbox.zipIdx.map fun e => (e.2, e.1))

/-- The first `n` messages that find a request slot. One without a slot is passed over, except in ordered-class mode, where
nothing overtakes it (R110, R253). -/
def pickMessages (s : State) (k : Fin 8) : List (Nat × Msg) → Nat → List (Nat × Msg) → List (Nat × Msg)
  | [], _, acc => acc
  | _, 0, acc => acc
  | m :: ms, n + 1, acc =>
    let held (c : Nat) : Nat := slotsHeld s k c + (acc.filter fun e => e.2.req.cls = c).length
    if awaited s k m.2 || slotFree s held m.2.req.cls then pickMessages s k ms n (acc ++ [m])
    else if s.spks[k].orderedActive then acc
    else pickMessages s k ms (n + 1) acc

/-- A host's write from a head that holds the line (R98). -/
def isWriteback (s : State) (k : Fin 8) (m : Msg) : Bool :=
  (m.req.op = .wr || m.req.op = .wrPtl) && match reqHead s m.req, sfFind s.spks[k] (msgSector m) with
    | some h, some (_, e) => (holders e (msgLine m)).getLsbD h
    | _, _ => false

/-- Rank of a message among those that reach the ordering point in one home cycle (R98): writebacks, then requests by head
number, then command-queue operations and the partner's writes. -/
def arrivalRank (s : State) (k : Fin 8) (m : Msg) : Nat :=
  if isWriteback s k m || awaited s k m then 0
  else match m.req.src with
    | .host p _ _ _ => 1 + p
    | _ => 8

/-! ## Rachis credits (R253) -/

/-- The port that a request left for its home. -/
def reqPort (q : Req) : Fin 4 := port4 (q.ldTag / 16)

/-- The port's request credit of a class for a home is out: a request that used it has not been taken. -/
def creditOut (s : State) (p : Fin 4) (k : Fin 8) (c : Nat) : Bool :=
  s.spks[k].inbox.any fun m => reqPort m.req = p && m.req.cls = c

/-- A request leaves its port for its home, or waits there for a credit (R253). DESIGN CHOICE: each port has one credit of
each class for each spikelet, which returns when the home takes the request (log entry 133). -/
def sendHome (p : Fin 4) (m : Msg) (s : State) : State :=
  let k := spkOf m.mpa
  if creditOut s p k m.req.cls && !awaited s k m then updPort p (fun q => { q with creditWait := q.creditWait ++ [m] }) s
  else updSpk k (fun q => { q with inbox := q.inbox ++ [m] }) (ungate (domSpk k) s)

/-- A home has taken a request: its credit lets the next one of the class leave the port. -/
def returnCredit (k : Fin 8) (m : Msg) (s : State) : State :=
  let p := reqPort m.req
  match s.ports[p].creditWait.find? fun w => spkOf w.mpa = k && w.req.cls = m.req.cls with
  | none => s
  | some w =>
    if creditOut s p k m.req.cls then s
    else updSpk k (fun q => { q with inbox := q.inbox ++ [w] })
      (updPort p (fun q => { q with creditWait := q.creditWait.filter fun x => x.req.rid ≠ w.req.rid }) s)

/-! ## Subchannel queues (R254) -/

/-- The subchannel of a line, over all channels. -/
def subchOf (s : State) (m : Nat) : Nat :=
  let c := coordOf (geom s) (home m) (localAddr m)
  2 * c.chan + c.subch

/-- The transaction makes an access to its channel. -/
def usesChannel (t : Txn) : Bool := t.msg.req.op ≠ .inv && t.msg.req.op ≠ .clnEvct

/-- The transactions whose accesses hold entries of a subchannel's queue. -/
def queueOf (s : State) (k : Fin 8) (sub : Nat) : List Txn :=
  s.spks[k].txns.filter fun t => t.state = .memory && t.queued && !t.waiting && usesChannel t && subchOf s t.msg.mpa = sub

/-- An access of class `c` finds an entry in the queue: eight are class 0's, which never holds more, and the other classes
share 24 (R254). DESIGN CHOICE: metadata and background accesses, which are of no class, take none (log entry 134). -/
def queueRoom (s : State) (k : Fin 8) (sub c : Nat) : Bool :=
  let zeros := ((queueOf s k sub).filter fun t => t.msg.req.cls = 0).length
  if c = 0 then zeros < 8 else (queueOf s k sub).length - zeros < 24

/-- The transaction goes to MEMORY, into its subchannel's queue if an entry is free. -/
def enterMemory (k : Fin 8) (tid : Nat) (kind : RspKind) (s : State) : State :=
  updTxn k tid (fun t => { t with
    state := .memory, need := [], rsp := { t.rsp with kind := kind },
    queued := !usesChannel t || queueRoom s k (subchOf s t.msg.mpa) t.msg.req.cls }) s

/-- An entry has come free: the access that R247 puts first among those waiting for one of its kind takes it. -/
def refillQueue (k : Fin 8) (s : State) : State :=
  let waiting := s.spks[k].txns.filter fun t => t.state = .memory && !t.queued && !t.waiting
  (sortBy (fun t : Txn => serveKey s k t.msg.req.cls t.tid) waiting).foldl (fun u t =>
    if queueRoom u k (subchOf u t.msg.mpa) t.msg.req.cls then updTxn k t.tid (fun t => { t with queued := true }) u
    else u) s

end Sys2Proof.Machine
end

