-- ==== Sys2Proof/Machine/Home.lean ====
section
/-! DEFINITION. The home's transactions up to memory: latency and DevLoad (R250 to R252), responses, lookup in the snoop
filter (Table 4.3), eviction (R101 to R103), page holds (R105) and hot sampling (R186). -/

namespace Sys2Proof.Machine

/-- The region's awn attribute for a request. -/
def reqAwn (s : State) (q : Req) : Bool :=
  match regionNo s q.region with
  | some r => r.awn
  | none => false

def reqAcc (s : State) (q : Req) : Acc := ⟨q.key, reqAwn s q, reqMaster q, reqAccess q, .demand, false, q.cls⟩

/-- Capture of a request at an MPA. -/
def reqCap (q : Req) (m : Nat) : Cap := ⟨m, 1, reqMaster q, reqAccess q, some q.key⟩

/-! ## Latency, boost, DevLoad -/

def targetNs (s : State) (c : Nat) : Nat := regField s (offQosTarget c) 0 20
def ewmaOf (s : State) (k : Fin 8) (c : Nat) : Nat := s.spks[k].ewma.getD c 0

/-- DevLoad from E against T (R252); E has eight fractional bits. -/
def devLoadOf (s : State) (k : Fin 8) (c : Nat) : Nat :=
  let e := ewmaOf s k c
  let t := targetNs s c * 256
  if 2 * e < t then 0 else if e < t then 1 else if e < 2 * t then 2 else 3

/-- DevLoad of a response that a home gives to a request: E of its class as it stands, at least Moderate Overload after a
wait in the hold buffer (R252). -/
def homeDevLoad (s : State) (k : Fin 8) (q : Req) : Nat := max (devLoadOf s k q.cls) (if q.heldOnce then 2 else 0)

/-- One sample: E moves by (sample − E) / 2^SHIFT truncated toward zero, and BOOST follows (R250, R251). -/
def takeSample (k : Fin 8) (c sample : Nat) (s : State) : State :=
  if s.spks[k].orderedActive then s
  else
    let e := ewmaOf s k c
    let e1 := ((e : Int) + ((sample * 256 : Nat) - (e : Int)).tdiv (2 ^ regField s offEwmaCfg 0 4)).toNat
    let t := targetNs s c * 256
    let b := if 4 * e1 < 3 * t then 0 else if e1 < t then 1 else 2
    let old := s.spks[k].boost.getD c 0
    let s1 := updSpk k (fun q => { q with ewma := q.ewma.set c e1, boost := q.boost.set c b }) s
    if b = 2 && old ≠ 2 then raise blkQos 4 Cap.none s1 else s1

/-! ## Delivering a response -/

/-- A result of a line access returned to the command-queue engine (R432): `unit` is the unit it belongs to. -/
def cqReturn (n i unit : Nat) (op : HomeOp) (r : Rsp) (s : State) : State :=
  match op with
  | .atomic _ _ _ _ => complete n i ⟨r.status, if r.status = 0 then 1 else 0, r.old, r.casOk, false⟩ s
  | .cqRead => updTaken n i (fun t => { t with
      buf := some r.data, poison := t.poison || r.poison, wait := if r.poison then 5 else 4 }) s
  | _ =>
    if r.status ≠ 0 then complete n i (fin r.status unit) s
    else match takenOf s n i with
      | none => s
      | some t =>
        if dCount t.desc ≤ unit + 1 then complete n i (fin (if t.poison then 2 else 0) (unit + 1)) s
        else updTaken n i (fun t => { t with unit := unit + 1, wait := 0, buf := none }) s

/-- A mirrored write is done at the SECONDARY: it answers DURABLE or REFUSED, and a sealed one that is no copy leaves a
dedup entry (R307, R321). The messages carry no atomic result, so the one the entry keeps for SRC = 1 is a free value (log
entry 4). -/
def mirrorReturn (h : MirrorHdr) (r : Rsp) (s : State) : State :=
  let s1 :=
    if r.status = 0 && !h.resync then
      let who := if h.srcCq then h.ldTag else h.head
      let same (d : Dedup) : Bool := d.src = h.srcCq && d.who = who && d.tag = h.tag && d.epoch = h.epoch
      let x := Config.payload s.free
      { s with
        free := s.free + bit h.srcCq
        pair := { s.pair with dedup := s.pair.dedup.filter (fun d => !same d) ++ [⟨h.srcCq, who, h.tag, h.epoch, s.dtime,
          if h.srcCq then x.setWidth 128 else 0, h.srcCq && x.getLsbD 128⟩] } }
    else s
  queueTil (.mirrorAck h.mirrorId (if r.status = 0 then 0 else 2)) s1

/-- A response on its way: to its port's egress, to the engine, or to the partner. -/
def deliver (q : Req) (r : Rsp) (s : State) : State :=
  match q.src with
  | .host p _ _ _ =>
    updPort (port4 p) (fun o => { o with
      reqs := o.reqs.map fun x => if x.req.rid = q.rid then { x with stage := .egress } else x
      egress := o.egress ++ [r] }) s
  | .cq n i unit =>
    let p := port4 (n / 16)
    cqReturn n i unit q.op r (updPort p (fun o => { o with reqs := o.reqs.filter fun x => x.req.rid ≠ q.rid }) s)
  | .mirror h =>
    let p := port4 (q.ldTag / 16)
    mirrorReturn h r (updPort p (fun o => { o with reqs := o.reqs.filter fun x => x.req.rid ≠ q.rid }) s)

/-- A response of request `q` with nothing but its completion. -/
def plainRsp (q : Req) (kind : RspKind) : Rsp := ⟨q.rid, kind, 0, false, 0, 0, false, 0⟩

/-- The transaction answers: DevLoad as E stands, then its own sample (R250, R252), then its response leaves; it closes. -/
def respond (k : Fin 8) (t : Txn) (s : State) : State :=
  let q := t.msg.req
  let d := homeDevLoad s k q
  let s1 := takeSample k q.cls (s.dtime - t.started) s
  let s2 := perfSpk k (if isWrite q.op then 0x04 else 0x03) 1 (some q.cls) s1
  deliver q { t.rsp with devLoad := d } (dropTxn k t.tid s2)

/-! ## Hot sampling (R186) -/

/-- Change the hot-table entry of a page, entering it in place of the lowest COUNT of its set (lowest way first). -/
def hotTouch (k : Fin 8) (ldTag page : Nat) (packed : Bool) (enter : Nat) (f : Nat → Nat) (s : State) : State :=
  let set := Config.hotHash ldTag page % 1024
  let tab := s.spks[k].hot
  match (List.range 4).find? fun w => match kfind tab (4 * set + w) with
    | some e => e.ldTag = ldTag && e.page = page
    | none => false with
  | some w =>
    updSpk k (fun q => { q with hot := match kfind q.hot (4 * set + w) with
      | some e => kput q.hot (4 * set + w) { e with count := min (f e.count) 0xFFFF, packed := packed }
      | none => q.hot }) s
  | none =>
    let cnt (w : Nat) : Nat := match kfind tab (4 * set + w) with
      | some e => e.count + 1
      | none => 0
    let m := (List.range 4).foldl (fun a w => min a (cnt w)) (2 ^ 32)
    let w := ((List.range 4).find? fun w => cnt w = m).getD 0
    updSpk k (fun q => { q with hot := kput q.hot (4 * set + w) ⟨ldTag, page, packed, min enter 0xFFFF⟩ }) s

/-- One access to a page of an elastic region: every 2^SAMPLE_SHIFT-th is a sample. -/
def hotSample (k : Fin 8) (m : Msg) (s : State) : State :=
  match regionNo s m.req.region with
  | none => s
  | some r =>
    if !r.elastic || reqMaster m.req = idPartner then s
    else
      let n := s.spks[k].samples + 1
      let due := n % 2 ^ regField s offHotCfg 0 4 = 0
      let s1 := updSpk k (fun q => { q with samples := n }) s
      if due then hotTouch k m.req.ldTag (m.req.dpa >>> 12) m.packed.isSome 1 (· + 1) s1 else s1

/-! ## Lookup (Table 4.3) -/

/-- The page of a message that a hold may cover: the plain page, or the one that holds the descriptor (R188). -/
def holdPage (m : Msg) : Nat := pageBase m.mpa

/-- A request that would be granted a line, and so needs an entry (Table 4.2). -/
def grants : HomeOp → Bool
  | .rd .data => true
  | .rd .inv => true
  | .inv => true
  | _ => false

/-- The record and the response once nothing more is to be taken back: a grant, or the removal that the request makes. -/
def recordOp (s : State) (k : Fin 8) (t : Txn) (e : SfEntry) : SfEntry × RspKind :=
  let q := t.msg.req
  let i := msgLine t.msg
  let fresh : SfEntry := if anyHeld e then e
    else { e with aliasF := q.aliasF, dpaSector := q.dpa / 256, region := q.region }
  let hold (x : SfEntry) : SfEntry := { x with holdEnd := newHold s k, stamp := s.dtime }
  match q.op, reqHead s q with
  | .rd .data, some h =>
    let own := holders fresh i &&& ~~~ headBit h = 0
    (hold (grantLine fresh i (port4 h) own), if own then .cmpE else .cmpS)
  | .rd .inv, some h => (hold (grantLine fresh i (port4 h) true), .cmpE)
  | .inv, some h => (hold (grantLine fresh i (port4 h) true), .cmpE)
  | .clnEvct, some h => (dropHead fresh i h, .cmp)
  | .wr, some _ => (clearLine e i, .cmp)
  | .wrPtl, some _ => (clearLine e i, .cmp)
  | .cqWrite, _ => (clearLine e i, .cmp)
  | .atomic _ _ _ _, _ => (clearLine e i, .data)
  | .rd _, _ => (e, .data)
  | .cqRead, _ => (e, .data)
  | _, _ => (e, .cmp)

/-- The transaction goes on to memory with its record updated; the entry stays BUSY while another transaction or owner has
a back-invalidate of the sector to come (R101). -/
def toMemory (k : Fin 8) (tid pl : Nat) (e : SfEntry) (t : Txn) (s : State) : State :=
  let (e1, kind) := recordOp s k t e
  let busy := otherSnp s k (.txn tid) e.sector || otherBusy s k tid e.sector
  enterMemory k tid kind (sfKeep k pl { e1 with busy := busy } s)

/-- A transaction whose line needs no record. -/
def toMemoryBare (k : Fin 8) (t : Txn) (s : State) : State :=
  enterMemory k t.tid (if isReadOp t.msg.req.op then .data else .cmp) s

/-- An entry leaves its way for an eviction buffer and is back-invalidated at once (R102). -/
def evictEntry (k : Fin 8) (pl : Nat) (e : SfEntry) (s : State) : State :=
  let (id, s1) := takeSeq s
  let ns := (List.finRange 4).flatMap fun j => (headsOf (holders e j)).map fun h => (⟨j.val, h, .inv⟩ : BiNeed)
  let s2 := updSpk k (fun q => { q with sf := kdel q.sf pl, evict := q.evict ++ [⟨id, e⟩] }) s1
  sendBis k (.evict id) e ns s2

/-- An eviction buffer frees once every back-invalidate is answered; the partner's shadow is freed (R102, R311). -/
def freeEvict (k : Fin 8) (id : Nat) (s : State) : State :=
  let mine := s.spks[k].snps.filter fun n => n.owner = .evict id
  if mine.any fun n => n.answer.isNone then s
  else
    let s1 := match s.spks[k].evict.find? (·.id = id) with
      | some b => if pairMode s then queueSync ⟨true, entryLd s b.entry, b.entry.dpaSector, entryHeads b.entry,
          b.entry.aliasF⟩ s else s
      | none => s
    updSpk k (fun q => { q with
      evict := q.evict.filter fun b => b.id ≠ id
      snps := q.snps.filter fun n => n.owner ≠ .evict id }) s1

/-- Where a new entry goes: a free way of its set, or the way of a victim that is not BUSY, least recently granted and
lowest numbered (R101, R103). -/
inductive WayChoice where
  | free (pl : Nat)
  | victim (pl : Nat) (e : SfEntry)
  | wait
deriving DecidableEq, Repr

def chooseWay (s : State) (k : Fin 8) (sec : Nat) : WayChoice :=
  let set := sfSet sec
  let ws := sfWays s.spks[k] set
  match (List.range 16).find? fun w => ws.all fun e => e.1 ≠ 16 * set + w with
  | some w => .free (16 * set + w)
  | none =>
    let cand := ws.filter fun e => !e.2.busy
    let old := cand.foldl (fun a e => min a e.2.stamp) (2 ^ 64)
    match cand.find? fun e => e.2.stamp = old with
    | some e => if s.spks[k].evict.length < 32 then .victim e.1 e.2 else .wait
    | none => .wait

/-- The request waits at the home for a way or a buffer (R103); the first wait is counted. -/
def sfWait (k : Fin 8) (t : Txn) (s : State) : State :=
  let s1 := updTxn k t.tid (fun t => { t with state := .sfWait, sfWaited := true }) s
  if t.sfWaited then s1
  else raise (blkSpk k) 3 (reqCap t.msg.req t.msg.mpa)
    (updSpk k (fun q => { q with sfWaitHolds := satAdd 48 q.sfWaitHolds 1 }) s1)

/-- The transaction sends what it needs, or waits for the hold (Table 4.3). -/
def needBis (k : Fin 8) (t : Txn) (pl : Nat) (e : SfEntry) (ns : List BiNeed) (s : State) : State :=
  let s1 := sfKeep k pl { e with busy := true } s
  if inHold s k e then updTxn k t.tid (fun t => { t with state := .holdWait, need := ns }) s1
  else sendBis k (.txn t.tid) e ns (updTxn k t.tid (fun t => { t with state := .biWait, need := [] }) s1)

/-- The back-invalidates that a transaction still needs at an entry. -/
def txnNeeds (s : State) (t : Txn) (e : SfEntry) : List BiNeed :=
  biNeeds e (msgLine t.msg) t.msg.req.op (reqHead s t.msg.req) t.msg.req.aliasF

/-- The lookup of a transaction that may leave ORDER, PARKED or SF_WAIT: a parity error in its snoop-filter entry, the
ordering queue or the transaction takes the domain down (R23). -/
def lookup (k : Fin 8) (t : Txn) (s : State) : State :=
  let q := t.msg.req
  if parityAt q.par .order = .fatal then fatalParity (blkSpk k) 6 (reqCap q t.msg.mpa) s
  else if s.spks[k].holds.contains (holdPage t.msg) then
    if t.state = .parked then s
    else if (s.spks[k].txns.filter (·.state = .parked)).length < 512 then
      perfSpk k 0x0B 1 none (updTxn k t.tid (fun t => { t with state := .parked }) s)
    else
      updPort (port4 (q.ldTag / 16)) (fun p => { p with retries := p.retries ++ [(s.dtime + 2000, t.msg)] })
        (dropTxn k t.tid s)
  else if !coherent s q then toMemoryBare k t s
  else
    let sec := msgSector t.msg
    match sfFind s.spks[k] sec with
    | some (pl, e) =>
      let ns := txnNeeds s t e
      if ns.isEmpty then toMemory k t.tid pl e t s else needBis k t pl e ns s
    | none =>
      if !grants q.op then toMemoryBare k t s
      else
        let e := freshEntry sec q.region (q.dpa / 256) q.aliasF s.dtime
        match chooseWay s k sec with
        | .wait => sfWait k t s
        | .free pl => toMemory k t.tid pl e t (perfSpk k 0x05 1 none s)
        | .victim pl v => toMemory k t.tid pl e t (perfSpk k 0x05 1 none (evictEntry k pl v s))

/-- The packed page of a message is being forwarded: its requests wait (R185 step 1). -/
def pageForwarding (s : State) (k : Fin 8) (m : Msg) : Bool :=
  m.packed.isSome && s.spks[k].forwards.any fun f => f.desc = m.mpa && !f.done

/-- The transaction may look up now: no earlier one is open on its line or block, its sector is in no eviction buffer, and
its page is not being forwarded (R87, R102, R172, R185). -/
def mayLook (s : State) (k : Fin 8) (t : Txn) : Bool :=
  let earlier := (s.spks[k].txns.takeWhile fun u => u.tid ≠ t.tid).filter fun u => u.tid ≠ t.tid
  (earlier.all fun u => orderKey u.msg ≠ orderKey t.msg) &&
    (s.spks[k].evict.all fun b => b.entry.sector ≠ msgSector t.msg) && !pageForwarding s k t.msg

/-- Buffers whose answers are all in free. -/
def freeEvicts (k : Fin 8) (s : State) : State := (s.spks[k].evict.map (·.id)).foldl (fun t id => freeEvict k id t) s

/-- Buffers whose answers are all in free; then every transaction that can leave ORDER, PARKED or SF_WAIT looks up, in
order; one that leaves the park buffer takes a request slot (R253) and waits in ORDER while it may not look up (R87,
R102). -/
def settle (k : Fin 8) (s : State) : State :=
  let s1 := freeEvicts k s
  (s1.spks[k].txns.map (·.tid)).foldl (fun u tid =>
    match txnOf u k tid with
    | none => u
    | some t =>
      match t.state with
      | .order => if mayLook u k t then lookup k t u else u
      | .parked =>
        if u.spks[k].holds.contains (holdPage t.msg) || !slotFree u (slotsHeld u k) t.msg.req.cls then u
        else if mayLook u k t then lookup k t u
        else updTxn k t.tid (fun t => { t with state := .order }) u
      | .sfWait => if mayLook u k t then lookup k t u else u
      | _ => u) s1

/-! ## Back-invalidates answered -/

/-- The sectors that a recall takes back: those of a page, or of one packed page (R106, R185). -/
def recallSel : BiOwner → Nat → Bool
  | .recall page, sec => sectorPage sec = page
  | .forward d, sec => sec % 2 = 1 && (sec / 2 / 16) <<< 6 = d
  | _, _ => false

/-- The entries a recall covers of which heads still hold lines. -/
def recallEntries (s : State) (k : Fin 8) (o : BiOwner) : List (Nat × SfEntry) :=
  s.spks[k].sf.filter fun e => recallSel o e.2.sector && anyHeld e.2

/-- A recall goes on: every held line whose sector is not under the hold, and not asked yet, is back-invalidated
(R106). -/
def recallMore (k : Fin 8) (o : BiOwner) (s : State) : State :=
  (recallEntries s k o).foldl (fun t e =>
    let asked := t.spks[k].snps.any fun n => n.sector = e.2.sector
    if inHold t k e.2 || asked then t
    else
      let ns := (List.finRange 4).flatMap fun j => (headsOf (holders e.2 j)).map fun h => (⟨j.val, h, .inv⟩ : BiNeed)
      sendBis k o e.2 ns (sfPut k e.1 { e.2 with busy := true } t)) s

/-- The answers of a recall recorded, sector by sector, once each sector's are in. -/
def recallRecord (k : Fin 8) (o : BiOwner) (s : State) : State :=
  let mine := s.spks[k].snps.filter fun n => n.owner = o
  let secs := (mine.map (·.sector)).eraseDups.filter fun x =>
    (recallSel o x) && mine.all fun n => n.sector ≠ x || n.answer.isSome
  secs.foldl (fun t x =>
    let ns := t.spks[k].snps.filter fun n => n.owner = o && n.sector = x
    let t1 := updSpk k (fun q => { q with snps := q.snps.filter fun n => !(n.owner = o && n.sector = x) }) t
    match sfFind t1.spks[k] x with
    | some (pl, e) => sfKeep k pl { recordBis e ns none with busy := otherSnp t1 k o x || otherBusy t1 k 0 x } t1
    | none => t1) s

/-- Nothing that a recall covers is held, in an entry or in an eviction buffer, and none of its back-invalidates is open
(R106). -/
def recallDone (s : State) (k : Fin 8) (o : BiOwner) : Bool :=
  (recallEntries s k o).isEmpty && (s.spks[k].snps.all fun n => n.owner ≠ o) &&
    s.spks[k].evict.all fun b => !recallSel o b.entry.sector

/-- The recalls in progress at a home: the page recall, and those of pages being forwarded. -/
def openRecalls (s : State) (k : Fin 8) : List BiOwner :=
  (match s.spks[k].recalling with
    | some page => [BiOwner.recall page]
    | none => []) ++ (s.spks[k].forwards.filter fun f => !f.done && f.page.isSome).map fun f => .forward f.desc

/-- A transaction in BI_WAIT whose every answer is in: the record is updated, and it goes on (Table 4.3). -/
def txnAnswered (k : Fin 8) (tid : Nat) (s : State) : State :=
  let mine := s.spks[k].snps.filter fun n => n.owner = .txn tid
  match txnOf s k tid with
  | none => s
  | some t =>
    if t.state ≠ .biWait || mine.any fun n => n.answer.isNone then s
    else
      let s1 := updSpk k (fun q => { q with snps := q.snps.filter fun n => n.owner ≠ .txn tid }) s
      match sfFind s1.spks[k] (msgSector t.msg) with
      | none => lookup k { t with state := .order } s1
      | some (pl, e) =>
        let me := (reqHead s1 t.msg.req).map fun h => ((msgLine t.msg).val, h)
        let e1 := recordBis e mine me
        let ns := (txnNeeds s1 t e1).filter fun n => !(n.kind = .cur && mine.any fun m => m.kind = .cur && m.head = n.head)
        if ns.isEmpty then toMemory k tid pl e1 t s1 else needBis k t pl e1 ns (sfKeep k pl e1 s1)

/-- What follows an answered back-invalidate at a home: transactions go on, recalls ask for what has come free to ask, are
recorded and end, buffers free. -/
def afterAnswers (k : Fin 8) (s : State) : State :=
  let s1 := (s.spks[k].txns.map (·.tid)).foldl (fun t tid => txnAnswered k tid t) s
  let s1a := (openRecalls s1 k).foldl (fun t o => recallMore k o t) s1
  let s2 := freeEvicts k ((s1a.spks[k].snps.map (·.owner)).eraseDups.foldl (fun t o => recallRecord k o t) s1a)
  let s3 := match s2.spks[k].recalling with
    | none => s2
    | some page =>
      if recallDone s2 k (.recall page) then updSpk k (fun q => { q with recalling := none, pgDone := true }) s2 else s2
  settle k s3

/-! ## Writebacks taken ahead (R99) -/

/-- A transaction in HOLD_WAIT needs the writer's copy of the line. -/
def holdWaitFor (s : State) (k : Fin 8) (m : Msg) (h : Nat) : Option Txn :=
  s.spks[k].txns.find? fun t => t.state = .holdWait && msgSector t.msg = msgSector m &&
    t.need.any fun n => n.line = (msgLine m).val && n.head = h

/-- A transaction in HOLD_WAIT that no longer needs a head goes on at once when it needs none (Table 4.3, R104). -/
def dropNeed (k : Fin 8) (tid : Nat) (p : BiNeed → Bool) (s : State) : State :=
  match txnOf s k tid with
  | none => s
  | some t =>
    if t.state ≠ .holdWait then s
    else
      let ns := t.need.filter fun n => !p n
      if !ns.isEmpty then updTxn k tid (fun t => { t with need := ns }) s
      else match sfFind s.spks[k] (msgSector t.msg) with
        | some (pl, e) =>
          let more := txnNeeds s t e
          if more.isEmpty then toMemory k tid pl e t s else needBis k t pl e more s
        | none => lookup k { t with state := .order } s

end Sys2Proof.Machine
end

