-- ==== Sys2Proof/Machine/HomeMem.lean ====
section
/-! DEFINITION. The home at memory: taking a message (R87, R98, R99, R153), reading, writing, merging and atomics
(R94, R107 to R109, R124, R140, R147 to R151), the block-wise path of packed pages (R181, R183) and forwarding (R185). -/

namespace Sys2Proof.Machine

/-! ## Mirroring and finishing -/

/-- The mirror header of a request (Table 11.6). -/
def mirrorHdr (s : State) (q : Req) (mid : Nat) (poison : Bool) : MirrorHdr :=
  match q.src with
  | .host p _ _ tag => ⟨poison, false, false, q.cls, q.ldTag, p, tag, pairEpoch s, mid, q.key, lineBase q.dpa⟩
  | .cq n i _ => ⟨poison, true, false, q.cls, q.ldTag, 0, n * 1024 + i, pairEpoch s, mid, q.key, lineBase q.dpa⟩
  | .mirror h => h

/-- The transaction has its result: in pair mode a write that changed data is mirrored and stays open for its
acknowledgement (R95, R306); otherwise the response leaves and the next transaction on the line goes on. -/
def finish (k : Fin 8) (t : Txn) (r : Rsp) (w : Option MirrorData) (s : State) : State :=
  let q := t.msg.req
  let fromPartner := match q.src with
    | .mirror _ => true
    | _ => false
  match w with
  | some d =>
    if pairMode s && !fromPartner then
      let (mid, s0) := openMirror k t.tid q.ldTag q.dpa none s
      let s1 := { s0 with pair := { s0.pair with openWrites := s0.pair.openWrites ++ [(q.rid, t.started)] } }
      let msg := match d with
        | .full l => TilMsg.mirrorWr (mirrorHdr s q mid false) l
        | .part m l => TilMsg.mirrorPwr (mirrorHdr s q mid false) m l
        | .poison => TilMsg.mirrorWr (mirrorHdr s q mid true) 0
      queueTil msg (updTxn k t.tid (fun t => { t with state := .respond, mirror := some mid, rsp := r, waiting := false })
        s1)
    else settle k (respond k { t with rsp := r } s)
  | none => settle k (respond k { t with rsp := r } s)

/-! ## Taking a message -/

/-- The message with a packed page that has become FORWARD named by its plain line (R181 step 2). -/
def resolveForward (s : State) (m : Msg) : Msg :=
  match m.packed with
  | none => m
  | some k =>
    match peekDesc s m.mpa with
    | some d => if descForm d = 1 then { m with mpa := forwardPage d + 64 * k, packed := none } else m
    | none => m

/-- A new transaction of a message. -/
def newTxn (tid : Nat) (m : Msg) (st : TxState) (absorbed : Bool) (now : Nat) : Txn :=
  { tid := tid, msg := m, state := st, need := [], started := now, rsp := plainRsp m.req .cmp, sfWaited := false,
    absorbed := absorbed, waiting := false, mirror := none, wrote := none,
    queued := false }

/-- The operand of an atomic is naturally aligned (R107). -/
def atomicAligned : HomeOp → Bool
  | .atomic .cas16 _ _ off => off % 16 = 0
  | .atomic _ _ _ off => off % 8 = 0
  | _ => true

/-- The worse of what a stage finds and what the request brings with it. -/
def worseParity : ParityKind → ParityKind → ParityKind
  | .fatal, _ => .fatal
  | _, .fatal => .fatal
  | .contained, _ => .contained
  | _, y => y

/-- A request that its home completes without a media access (R22, R107, R153): DevLoad is the home's own (R252). -/
def refuseAtHome (k : Fin 8) (q : Req) (kind : RspKind) (poison : Bool) (status : Nat) (s : State) : State :=
  deliver q { plainRsp q kind with poison := poison, status := status, devLoad := homeDevLoad s k q } s

/-- A message reaches the ordering point of its home: parity (R21 to R23; a host read meets an armed TAG_FAIL, the higher bit,
instead, R449), protected ranges (R153), alignment (R107), a
writeback taken ahead (R99), or a transaction in ORDER that looks up when it may (R87, R94). DESIGN CHOICE: the bus error of
a command-queue access that meets PROT_REFUSED completes its command with POISON, since Table 17.9 has no status for it (log
entry 140). -/
def arrive (k : Fin 8) (m0 : Msg) (par : ParityKind) (s : State) : State :=
  let b := blkSpk k
  let hostRead := (match m0.req.op with | .rd _ => true | _ => false) && (match m0.req.src with | .host _ _ _ _ => true | _ => false)
  let found := worseParity par (parityAt m0.req.par .home)
  let (par1, s1) := if hostRead && fires s b 11 then (found, s) else stageParity b 6 5 true found s
  match par1 with
  | .fatal => fatalParity b 6 (reqCap m0.req m0.mpa) s1
  | _ =>
    let contained := par1 = .contained
    let s2 := if contained then raise b 5 (reqCap m0.req m0.mpa) s1 else s1
    let m := resolveForward s2 { m0 with req := { m0.req with contained := m0.req.contained || contained } }
    let q := m.req
    let (kind, poison) := refusedRsp q.op
    if m.packed.isNone && isProtected s2 m.mpa then
      refuseAtHome k q kind poison 2 (raise b 15 (reqCap q m.mpa) s2)
    else if contained && !isWrite q.op then refuseAtHome k q kind poison 2 s2
    else if !atomicAligned q.op then refuseAtHome k q .data true 3 (raise b 1 (reqCap q m.mpa) s2)
    else
      let s3 := hotSample k m (perfSpk k 0x02 1 (some q.cls) s2)
      let (tid, s4) := takeSeq s3
      let put (t : Txn) (u : State) : State := updSpk k (fun x => { x with txns := x.txns ++ [t] }) u
      let normal := settle k (put (newTxn tid m .order false s.dtime) s4)
      match reqHead s4 q with
      | none => normal
      | some h =>
        if q.op ≠ .wr && q.op ≠ .wrPtl then normal
        else
          let drop (u : State) : State := match sfFind u.spks[k] (msgSector m) with
            | some (pl, e) => sfKeep k pl (dropHead e (msgLine m) h) u
            | none => u
          let absorb (u : State) : State :=
            drop (enterMemory k tid .cmp (put (newTxn tid m .memory true s.dtime) u))
          if snpOpenTo s4 k m h then absorb s4
          else match holdWaitFor s4 k m h with
            | some t => dropNeed k t.tid (fun n => n.line = (msgLine m).val && n.head = h) (absorb s4)
            | none => normal

/-- Messages that reach the ordering point together, by rank (R98), the order of service kept within a rank. -/
def byRank (s : State) (k : Fin 8) (ms : List (Nat × Msg)) : List (Nat × Msg) :=
  (List.range 9).flatMap fun r => ms.filter fun m => arrivalRank s k m.2 = r

/-- Up to `n` messages reach the ordering point of a home in one home cycle, chosen in the order of service (R110, R247);
one that finds no request slot stays (R253). The first meets the parity error that its stage finds. -/
def takeMessages (k : Fin 8) (n : Nat) (par : ParityKind) (s : State) : State :=
  let now := byRank s k (pickMessages s k (serviceOrder s k) n [])
  let left := (s.spks[k].inbox.zipIdx.filter fun e => now.all fun x => x.1 ≠ e.2).map (·.1)
  let s1 := updSpk k (fun x => { x with inbox := left }) s
  let (s2, _) := now.foldl (fun (acc : State × ParityKind) m =>
    if acc.1.domainDown then (acc.1, .good) else (returnCredit k m.2 (arrive k m.2 acc.2 acc.1), .good)) (s1, par)
  s2

/-- A host answers a back-invalidate: what it wrote of the line before the answer is taken first (R93, R99). -/
def takeAwaited (k : Fin 8) (m : Msg → Bool) (s : State) : State :=
  let now := s.spks[k].inbox.filter m
  let s1 := updSpk k (fun x => { x with inbox := x.inbox.filter fun y => !m y }) s
  now.foldl (fun t y => if t.domainDown then t else returnCredit k y (arrive k y .good t)) s1

/-! ## Atomics -/

/-- The new operand, the old value and the success flag of an atomic on the old 16 bytes at its place (Table 4.5). -/
def atomicApply (kind : AtomicKind) (old operand compare : BitVec 128) : Option (BitVec 128) × BitVec 128 × Bool :=
  let lo (x : BitVec 128) : BitVec 64 := x.setWidth 64
  let up (x : BitVec 64) : BitVec 128 := x.setWidth 128
  match kind with
  | .fetchAdd => (some (up (lo old + lo operand)), up (lo old), false)
  | .swap => (some (up (lo operand)), up (lo old), false)
  | .cas8 => if lo old = lo compare then (some (up (lo operand)), up (lo old), true) else (none, up (lo old), false)
  | .cas16 => if old = compare then (some operand, old, true) else (none, old, false)

def atomicBytes : AtomicKind → Nat
  | .cas16 => 16
  | _ => 8

/-- The line with an atomic's result in place. -/
def atomicLine (kind : AtomicKind) (l : Line) (off : Nat) (v : BitVec 128) : Line :=
  setLineField l (8 * off) (8 * atomicBytes kind) v.toNat

/-! ## What a transaction waits for at memory -/

/-- A re-encryption or re-tag covers the line (R140, R141). -/
def rekeyed (s : State) (m tid : Nat) : Bool :=
  s.spks.toList.any fun k => k.rekeys.any fun r =>
    r.tid ≠ tid && inRange r.base (if r.level = 0 then 2048 else spanSize r.level) m

/-- An absorbed writeback of the line has yet to reach memory: the transaction takes its data from it (R93, R99). -/
def behindWriteback (s : State) (k : Fin 8) (t : Txn) : Bool :=
  !t.absorbed && s.spks[k].txns.any fun u => u.absorbed && u.tid ≠ t.tid && orderKey u.msg = orderKey t.msg

/-- A partner recovery holds the line: its fetch is open, or waits for Germ (R243, R245). -/
def inRecovery (s : State) (m : Nat) : Bool :=
  (s.til.fetches.any fun f => f.mpa = lineBase m) || s.mcs[chanOf s m].lost.contains (lineBase m)

/-- An earlier write of the line or block has its recompression job or re-encryption open (R87, R172). -/
def behindJob (s : State) (k : Fin 8) (t : Txn) : Bool :=
  s.spks[k].txns.any fun u => u.waiting && u.tid ≠ t.tid && orderKey u.msg = orderKey t.msg

def memBlocked (s : State) (k : Fin 8) (t : Txn) : Bool :=
  t.waiting || rekeyed s t.msg.mpa t.tid || behindWriteback s k t || behindJob s k t || inRecovery s t.msg.mpa ||
    pageForwarding s k t.msg

/-- What a transaction needs in the culm caches. -/
def txnMissing (s : State) (t : Txn) : List (CulmKind × Nat) :=
  match t.msg.req.op with
  | .inv => []
  | .clnEvct => []
  | _ => missing s t.msg.mpa (isWrite t.msg.req.op)

/-! ## The order of accesses at a channel (R209, R247) -/

/-- A fetch whose parent is held waits at the channel of its line (R136). -/
def fetchReady (s : State) (f : CulmFetch) : Bool :=
  match f.kind with
  | .node c => (heldCtr s (c + 1) (nodeOwner s c f.mpa)).isSome
  | _ => true

/-- A metadata access or table walk waits at a subchannel: it goes before host-class and background work. -/
def metaWaiting (s : State) (k : Fin 8) (sub : Nat) : Bool :=
  (s.spks[k].fetches.any fun f => subchOf s f.mpa = sub && fetchReady s f && !targetBusy s f.mpa) ||
    s.gate.walks.any fun w =>
      let a := entryAddr w.table w.level w.miss.ldTag w.miss.dpa
      w.leaf.isNone && !w.waiting && subchOf s a = sub && !targetBusy s a

/-- The access of a transaction waits at its channel and may be served now. -/
def memReady (s : State) (k : Fin 8) (t : Txn) : Bool :=
  t.state = .memory && t.queued && usesChannel t && !memBlocked s k t && (txnMissing s t).isEmpty && !targetBusy s t.msg.mpa

/-- The channel's choice among the accesses of a subchannel that wait falls on this one (R247, in ordered-class mode R110).
DESIGN CHOICE: the DRAM timing rules delay no access that the order puts first (log entry 134). -/
def memFirst (s : State) (k : Fin 8) (t : Txn) : Bool :=
  let sub := subchOf s t.msg.mpa
  !usesChannel t || (memReady s k t && (s.spks[k].orderedActive || !metaWaiting s k sub) &&
    s.spks[k].txns.all fun u => !(memReady s k u && subchOf s u.msg.mpa = sub) ||
      serveKey s k t.msg.req.cls t.tid ≤ serveKey s k u.msg.req.cls u.tid)

/-- The place in the order of service of the first request parked at a page (R105, R247). -/
def parkedKey (s : State) (page : Nat) : Option Nat :=
  let k := spkOf page
  let keys := (s.spks[k].txns.filter fun t => t.state = .parked && holdPage t.msg = page).map fun t =>
    serveKey s k t.msg.req.cls t.tid
  match keys with
  | [] => none
  | x :: xs => some (xs.foldl min x)

/-- A home transaction other than a parked one is open on the plain line (R87). -/
def lineOpen (s : State) (m : Nat) : Bool :=
  s.spks[spkOf m].txns.any fun t => t.msg.packed.isNone && lineBase t.msg.mpa = lineBase m &&
    t.state ≠ .order && t.state ≠ .parked && t.state ≠ .sfWait

/-- Background work may access its lines now: no other work waits at their subchannels, unless requests are parked at the
page that a migration fills and come before it in the order of service (R247); no transaction is open on a line (R87);
no refresh target of theirs is in tRFC (R209). -/
def backgroundMay (s : State) (lines : List Nat) (page : Option Nat) : Bool :=
  lines.all fun m =>
    let k := spkOf m
    let sub := subchOf s m
    !lineOpen s m && !targetBusy s m && (s.spks[k].orderedActive || (!metaWaiting s k sub &&
      s.spks[k].txns.all fun u => !(memReady s k u && subchOf s u.msg.mpa = sub) ||
        match page.bind (parkedKey s) with
        | some x => x < serveKey s k u.msg.req.cls u.tid
        | none => false))

/-- Fetches wait at the home of each missing line (R136). -/
def addFetches (cls : Nat) (ns : List (CulmKind × Nat)) (s : State) : State :=
  ns.foldl (fun t n =>
    if t.spks[spkOf n.2].fetches.any fun f => f.mpa = n.2 then t
    else updSpk (spkOf n.2) (fun q => { q with fetches := q.fetches ++ [⟨n.2, n.1, cls⟩] }) t) s

/-! ## Duplicates after a failover (R322) -/

/-- The dedup key of a write under the EPOCH before promotion: SRC, who, tag. -/
def dedupKey (q : Req) : Option (Bool × Nat × Nat) :=
  match q.src with
  | .host p _ _ tag => some (false, p, tag)
  | .cq n i _ => some (true, q.ldTag, n * 1024 + i)
  | .mirror _ => none

/-- A write of the reissue window that the dedup table holds. -/
def dupOf (s : State) (q : Req) : Option Dedup :=
  if !s.pair.reissueOpen || !isWrite q.op then none
  else match dedupKey q with
    | none => none
    | some (src, who, tag) =>
      s.pair.dedup.find? fun d => d.src = src && d.who = who && d.tag = tag && d.epoch = s.pair.oldEpoch

/-! ## Plain lines at memory -/

/-- A write or atomic refused by the page-key record (R124): discarded, an atomic with poison. -/
def keyMismatch (k : Fin 8) (t : Txn) (s : State) : State :=
  let q := t.msg.req
  let at_ := match q.op with
    | .atomic _ _ _ _ => true
    | _ => false
  finish k t { t.rsp with poison := at_, status := 7 } none (raise (blkSpk k) 14 (reqCap q t.msg.mpa) s)

/-- A write of new content; when it overflows the group's minors the transaction waits for the re-encryption (R140). -/
def writeAndFinish (k : Fin 8) (t : Txn) (n : NewLine) (r : Rsp) (w : MirrorData) (s : State) : State :=
  let m := t.msg.mpa
  let full := minorFull s m
  let s1 := writeData m (reqAcc s t.msg.req) n s
  if full && !spanPoisoned s m then
    updTxn k t.tid (fun t => { t with waiting := true, rsp := r, wrote := some w })
      (updSpk k (fun q => { q with rekeys := q.rekeys ++ [⟨alignDown m 11, 0, t.tid⟩] }) s1)
  else finish k t r (some w) s1

/-- A contained write stores the poison pattern and neither checks nor binds the record; an atomic completes with poison
(R22). -/
def containedWrite (k : Fin 8) (t : Txn) (s : State) : State :=
  let at_ := match t.msg.req.op with
    | .atomic _ _ _ _ => true
    | _ => false
  writeAndFinish k t .poison { t.rsp with poison := at_, status := if at_ then 2 else 0 } .poison s

/-- The page-key check before a write goes on as `f` (R124). DESIGN CHOICE: a write whose record line did not decode is
discarded, and an atomic or command reports poison (log entry 12). -/
def checkKey (k : Fin 8) (t : Txn) (f : State → State) (s : State) : State :=
  if pktLost s t.msg.mpa then
    finish k t { t.rsp with poison := (refusedRsp t.msg.req.op).2, status := 2 } none s
  else
    let (ok, s1) := bindPage t.msg.mpa t.msg.req.key s
    if ok then f s1 else keyMismatch k t s

/-- A read that cannot be used ends with poison and its cause (R149, R151). -/
def readPoison (k : Fin 8) (t : Txn) (a : Acc) (r : ReadRes) (s : State) : State :=
  finish k t { t.rsp with poison := true, status := 2 } none (readCause t.msg.mpa a r s)

/-- A read: under an armed TAG_FAIL a host read meets an inverted ciphertext bit (Table 18.14). -/
def readOp (k : Fin 8) (t : Txn) (noise : Image) (s : State) : State :=
  let m := t.msg.mpa
  let host := match t.msg.req.src with
    | .host _ _ _ _ => true
    | _ => false
  let inject := host && fires s (blkSpk k) 11
  let s0 := if inject then disarm (blkSpk k) 11 s else s
  let a := { reqAcc s t.msg.req with flip := inject }
  let (r, s1) := readData m a noise s0
  match readPlain r with
  | some l => finish k t { t.rsp with data := l } none s1
  | none => readPoison k t a r s1

/-- The one cause of a read step whose line cannot be merged with (R148). -/
def mergeCause (k : Fin 8) (m : Nat) (a : Acc) (r : ReadRes) (s : State) : State :=
  match r with
  | .tagFail => raise (blkSpk k) 12 (accCap m a) s
  | .ecc => s
  | _ => readCause m a r s

/-- A partial write: read, verify, merge, seal (R147), or the poison pattern where it cannot merge (R148). A malformed awn is
left unchanged (R160). DESIGN CHOICE: the write that met it completes normally and stores nothing (log entry 138). -/
def partialOp (k : Fin 8) (t : Txn) (noise : Image) (s : State) : State :=
  let q := t.msg.req
  let m := t.msg.mpa
  let a := reqAcc s q
  let (r, s1) := readData m a noise s
  if r = .span then finish k t t.rsp none s1
  else match readPlain r with
    | some l => writeAndFinish k t (.data (mergeBytes l q.data q.be) q.key) t.rsp (.part q.be (mergeBytes 0 q.data q.be)) s1
    | none =>
      if r = .lFormat then finish k t t.rsp none (readCause m a r s1)
      else writeAndFinish k t .poison t.rsp .poison (mergeCause k m a r s1)

/-- An atomic at its line (R108, R109). -/
def atomicOp (k : Fin 8) (t : Txn) (kind : AtomicKind) (operand compare : BitVec 128) (off : Nat) (noise : Image)
    (s : State) : State :=
  let q := t.msg.req
  let m := t.msg.mpa
  let a := reqAcc s q
  let (r, s1) := readData m a noise s
  if r = .span then finish k t { t.rsp with poison := true, status := 2 } none s1
  else match readPlain r with
    | some l =>
      let old : BitVec 128 := (l >>> (8 * off)).setWidth 128
      let (new, res, ok) := atomicApply kind old operand compare
      let rsp := { t.rsp with old := res, casOk := ok, status := 0 }
      match new with
      | none => finish k t rsp none s1
      | some v =>
        checkKey k t (fun u =>
          writeAndFinish k t (.data (atomicLine kind l off v) q.key) rsp (.full (atomicLine kind l off v)) u) s1
    | none =>
      if r = .lFormat then readPoison k t a r s1
      else checkKey k t (fun u =>
        writeAndFinish k t .poison { t.rsp with poison := true, status := 2 } .poison
          (raise (blkSpk k) 2 (accCap m a) (mergeCause k m a r u))) s1

/-- A plain-tier transaction at memory. -/
def plainOp (k : Fin 8) (t : Txn) (noise : Image) (s : State) : State :=
  let q := t.msg.req
  let m := t.msg.mpa
  if isWrite q.op && q.contained then containedWrite k t s
  else match q.op with
    | .rd _ => readOp k t noise s
    | .cqRead => readOp k t noise s
    | .inv => finish k t t.rsp none s
    | .clnEvct => finish k t t.rsp none s
    | .wrPtl => checkKey k t (partialOp k t noise) s
    | .atomic kind op cmp off => atomicOp k t kind op cmp off noise s
    | _ =>
      if spanPoisoned s m then finish k t t.rsp none s
      else checkKey k t (fun u =>
        if q.poisoned then writeAndFinish k t .poison t.rsp .poison u
        else writeAndFinish k t (.data q.data q.key) t.rsp (.full q.data) u) s

/-! ## Packed pages at memory -/

/-- A descriptor that fails its check: every read of its page returns poison, a write is discarded (R151, R179). -/
def descFailed (k : Fin 8) (t : Txn) (r : ReadRes) (s : State) : State :=
  let bad := match t.msg.req.op with
    | .wr => false
    | .wrPtl => false
    | .cqWrite => false
    | .inv => false
    | .clnEvct => false
    | _ => true
  finish k t { t.rsp with poison := bad, status := if bad then 2 else 0 } none
    (readCause t.msg.mpa { descAcc t.msg.mpa with key := t.msg.req.key } r s)

/-- A block-wise write goes to a recompression job with the merged block (R183 steps 3, 4). -/
def startJob (k : Fin 8) (t : Txn) (b key : Nat) (bytes : List Byte) (bad : List Bool) (r : Rsp) (s : State) : State :=
  let (jid, s1) := takeSeq s
  updTxn k t.tid (fun t => { t with waiting := true, rsp := r })
    (updSpk k (fun q => { q with jobs := q.jobs ++ [⟨jid, .block b t.tid, t.msg.mpa, key, [bytes], [bad], []⟩] }) s1)

/-- Line `i` of a block's bytes replaced. -/
def setBlockLine (bytes : List Byte) (i : Nat) (l : Line) : List Byte :=
  bytes.take (64 * i) ++ lineBytes l ++ bytes.drop (64 * i + 64)

/-- Step 1 of R183: a write to a FREE page binds its descriptor, one under another key than the page's is refused (R180). -/
def checkDescKey (k : Fin 8) (t : Txn) (d : Line) (f : State → State) (s : State) : State :=
  let q := t.msg.req
  match descBound d with
  | some x => if x = q.key then f s else keyMismatch k t s
  | none => f (writeDesc t.msg.mpa (bindDesc d q.key) s)

/-- The block that a write merges with: a failed one is 16 poison lines (R171, R183 steps 2, 3). -/
def mergeBlock (k : Fin 8) (d : Line) (b : Nat) (a : Acc) (s : State) : List Byte × List Bool × State :=
  match readBlock k d b a 0 s with
  | (.ok bs, u) => (bs, List.replicate 16 false, u)
  | (.failed, u) => (List.replicate 1024 0, List.replicate 16 true, u)

/-- A read of line `i` of a block. -/
def packedRead (k : Fin 8) (t : Txn) (d : Line) (b i : Nat) (a : Acc) (s : State) : State :=
  match readBlock k d b a 0 s with
  | (.ok bs, u) => finish k t { t.rsp with data := blockLine bs i } none u
  | (.failed, u) => finish k t { t.rsp with poison := true, status := 2 } none u

/-- An atomic on line `i` of a block (R108): on a line that holds the poison pattern it reports poison (R109, R171). -/
def packedAtomic (k : Fin 8) (t : Txn) (d : Line) (b i : Nat) (a : Acc) (kind : AtomicKind) (op cmp : BitVec 128)
    (off : Nat) (s : State) : State :=
  let q := t.msg.req
  let (bs, bad, u) := mergeBlock k d b a s
  if bad.getD i false then
    checkDescKey k t d (fun v => startJob k t b q.key bs bad { t.rsp with poison := true, status := 2 }
      (raise (blkSpk k) 2 (reqCap q t.msg.mpa) (raise (blkSpk k) 10 (reqCap q t.msg.mpa) v))) u
  else
    let l := blockLine bs i
    let (new, res, ok) := atomicApply kind ((l >>> (8 * off)).setWidth 128) op cmp
    let rsp := { t.rsp with old := res, casOk := ok, status := 0 }
    match new with
    | none => finish k t rsp none u
    | some v => checkDescKey k t d (startJob k t b q.key (setBlockLine bs i (atomicLine kind l off v)) bad rsp) u

/-- A contained write to line `i` of a block: the poison pattern, under the page's own key, which it neither checks nor
binds (R22). -/
def packedContained (k : Fin 8) (t : Txn) (d : Line) (b i : Nat) (a : Acc) (s : State) : State :=
  let key := (descBound d).getD 0
  let (bs, bad, u) := mergeBlock k d b { a with key := key } s
  let at_ := (refusedRsp t.msg.req.op).2
  startJob k t b key (setBlockLine bs i 0) (bad.set i true) { t.rsp with poison := at_, status := if at_ then 2 else 0 } u

/-- A partial write to line `i` of a block. -/
def packedPartial (k : Fin 8) (t : Txn) (d : Line) (b i : Nat) (a : Acc) (s : State) : State :=
  let q := t.msg.req
  let (bs, bad, v) := mergeBlock k d b a s
  if bad.getD i false then startJob k t b q.key bs bad t.rsp (raise (blkSpk k) 10 (reqCap q t.msg.mpa) v)
  else startJob k t b q.key (setBlockLine bs i (mergeBytes (blockLine bs i) q.data q.be)) bad t.rsp v

/-- A full-line write to line `i` of a block. -/
def packedFull (k : Fin 8) (t : Txn) (d : Line) (b i : Nat) (a : Acc) (s : State) : State :=
  let q := t.msg.req
  let (bs, bad, v) := mergeBlock k d b a s
  startJob k t b q.key (setBlockLine bs i (if q.poisoned then 0 else q.data)) (bad.set i q.poisoned) t.rsp v

/-- A packed-tier transaction at memory (R181, R183). -/
def packedOp (k : Fin 8) (t : Txn) (ln : Nat) (noise : Image) (s : State) : State :=
  let q := t.msg.req
  let (r, s1) := readDesc t.msg.mpa noise s
  match readPlain r with
  | none => descFailed k t r s1
  | some d =>
    let b := ln / 16
    let i := ln % 16
    let a : Acc := { reqAcc s q with access := 0xD }
    if isWrite q.op && q.contained then packedContained k t d b i a s1
    else match q.op with
      | .inv => finish k t t.rsp none s1
      | .clnEvct => finish k t t.rsp none s1
      | .rd _ => packedRead k t d b i a s1
      | .cqRead => packedRead k t d b i a s1
      | .wrPtl => checkDescKey k t d (packedPartial k t d b i a) s1
      | .atomic kind op cmp off => packedAtomic k t d b i a kind op cmp off s1
      | _ => checkDescKey k t d (packedFull k t d b i a) s1

/-- What of a finished packed write the PRIMARY mirrors. -/
def packedMirror (t : Txn) (bytes : List Byte) (bad : List Bool) (ln : Nat) : MirrorData :=
  let i := ln % 16
  if bad.getD i false then .poison
  else match t.msg.req.op with
    | .wrPtl => .part t.msg.req.be (mergeBytes 0 t.msg.req.data t.msg.req.be)
    | _ => .full (blockLine bytes i)

/-- The code of the region a request falls in (R192). -/
def reqStrong (s : State) (q : Req) : Bool :=
  match regionNo s q.region with
  | some r => r.strong
  | none => false

/-! ## Forwarding (R185) -/

/-- The open recompression job of a block of a page, if there is one. -/
def blockJob (s : State) (k : Fin 8) (desc b : Nat) : Option Job :=
  s.spks[k].jobs.find? fun j => j.desc = desc && match j.kind with
    | .block c _ => c = b
    | .page _ => false

/-- The lines of a merged block. A page that no key has bound holds nothing but blank lines and poison. -/
def jobLines (j : Job) (bound : Bool) : List PageLine :=
  (List.range 16).map fun i =>
    if (j.poisoned.headD []).getD i false then PageLine.failed
    else if bound then .data (blockLine (j.plain.headD []) i) else .blank

/-- The 64 lines of a page being forwarded: merged blocks as their jobs hold them, the others decompressed (R185 step 4). -/
def forwardLines (k : Fin 8) (desc : Nat) (d : Line) (a : Acc) (s : State) : List PageLine × State :=
  (List.range 4).foldl (fun (acc : List PageLine × State) c =>
    match blockJob s k desc c with
    | some j => (acc.1 ++ jobLines j (descBound d).isSome, acc.2)
    | none =>
      if descCount d c = 0 then (acc.1 ++ List.replicate 16 .blank, acc.2)
      else match readBlock k d c a 0 acc.2 with
        | (.ok bs, u) => (acc.1 ++ (blockLines bs).map .data, u)
        | (.failed, u) => (acc.1 ++ List.replicate 16 .failed, u)) ([], s)

/-- Every block write whose job is open on a page ends. -/
def endJobs (k : Fin 8) (js : List Job) (f : Job → Txn → State → State) (s : State) : State :=
  js.foldl (fun u j => match j.kind with
    | .block _ tid => match txnOf u k tid with
      | some t => f j t u
      | none => u
    | .page _ => u) s

/-- The recall of a page being forwarded is complete: its lines are sealed into the plain page under the page's own key, the
descriptor names it, the writes whose jobs are open on the page end, and the waiting requests are served there. -/
def finishForward (k : Fin 8) (f : Forward) (s : State) : State :=
  match f.page, txnOf s k f.tid with
  | some p, some t =>
    if !recallDone s k (.forward f.desc) || s.spks[k].snps.any (fun n => n.sector % 2 = 1 && (n.sector / 2 / 16) <<< 6 = f.desc)
    then s
    else
      let q := t.msg.req
      let js := s.spks[k].jobs.filter fun j => j.desc = f.desc && j.kind matches .block _ _
      let close (u : State) : State := updSpk k (fun q => { q with jobs := q.jobs.filter fun j => !js.contains j }) u
      let (r, s1) := readDesc f.desc 0 (holdPath q.cls f.desc s)
      match readPlain r with
      | none =>
        endJobs k js (fun _ t u => descFailed k t r u) (close (updSpk k (fun q => { q with
          forwards := q.forwards.filter fun g => g.desc ≠ f.desc, promo := q.promo ++ [p] }) s1))
      | some d =>
        let awn := reqAwn s q
        let key := descBound d
        let (ls, s2) := forwardLines k f.desc d ⟨key.getD 0, awn, reqMaster q, 0xD, .demand, false, q.cls⟩ s1
        let s3 := fillPage p (key.getD 0) awn ls (setPkt p key (holdPath 7 p s2))
        let s4 := writeDesc f.desc (forwardDesc key p) (holdPath 7 f.desc s3)
        let s5 := raise blkTier 7 (reqCap q f.desc)
          { s4 with tier := { s4.tier with forwarded := satAdd 48 s4.tier.forwarded 1 } }
        let writers := js.filterMap fun j => match j.kind with
          | .block _ tid => some tid
          | .page _ => none
        let s6 := close (updSpk k (fun q => { q with
          forwards := q.forwards.map (fun g => if g.desc = f.desc then
            { g with done := true, old := (List.range 4).flatMap (descGranules d) } else g)
          sf := q.sf.filter fun e => !recallSel (.forward f.desc) e.2.sector
          txns := q.txns.map fun u =>
            if !writers.contains u.tid && u.msg.packed.isSome && u.msg.mpa = f.desc then
              { u with msg := { u.msg with mpa := p + 64 * u.msg.packed.getD 0, packed := none },
                       state := if u.absorbed then .memory else .order, queued := false }
            else u }) s5)
        refillQueue k (endJobs k js (fun j t u =>
          finish k t t.rsp (some (packedMirror t (j.plain.headD []) (j.poisoned.headD []) (t.msg.packed.getD 0))) u) s6)
  | _, _ => s

/-- A failed block recompression makes the home promote the page on its own (R185): with a page of the promotion stock it
recalls the page's lines; without one it waits and STOCK_EMPTY is set (R184). -/
def startForward (k : Fin 8) (j : Job) (tid : Nat) (s : State) : State :=
  let q := (txnOf s k tid).map (·.msg.req)
  let ldTag := (q.map (·.ldTag)).getD 0
  let dpa := pageBase ((q.map (·.dpa)).getD 0)
  let strong := (q.map (reqStrong s)).getD false
  match s.spks[k].promo.find? fun p => inStrong s p = strong with
  | none =>
    let s1 := raise blkTier 6 ⟨j.desc, 1, idGlume k, 0xE, some j.key⟩ s
    let f : Forward := ⟨j.desc, tid, none, false, ldTag, dpa, j.key, [], none⟩
    updSpk k (fun q => { q with forwards := q.forwards.filter (fun g => g.desc ≠ j.desc) ++ [f] }) s1
  | some p =>
    let f : Forward := ⟨j.desc, tid, some p, false, ldTag, dpa, j.key, [], none⟩
    let s1 := updSpk k (fun q => { q with
      promo := q.promo.erase p
      forwards := q.forwards.filter (fun g => g.desc ≠ j.desc) ++ [f] }) s
    finishForward k f (recallMore k (.forward j.desc) s1)

/-- Open forwards whose recall has completed go on. -/
def stepForwards (k : Fin 8) (s : State) : State :=
  (s.spks[k].forwards.filter fun f => !f.done && f.page.isSome).foldl (fun t f => finishForward k f t) s

/-! ## Finishing a block job (R183 steps 5 to 7) -/

/-- The compressed block reaches its granules: the block's own first, then the stock's; surplus ones go to the release ring.
Where a stock or the ring cannot serve, the write waits with STOCK_EMPTY set. A descriptor that fails its check ends the
write as on arrival (R179). -/
def storeBlock (k : Fin 8) (j : Job) (b tid : Nat) (out : List Byte) (s : State) : State :=
  match txnOf s k tid with
  | none => s
  | some t =>
    let cls := t.msg.req.cls
    let close (u : State) : State := updSpk k (fun q => { q with jobs := q.jobs.filter fun x => x.jid ≠ j.jid }) u
    let (r, s1) := readDesc j.desc 0 (holdPath cls j.desc s)
    match readPlain r with
    | none => descFailed k t r (close s1)
    | some d =>
      let old := descGranules d b
      let g := granulesOf out.length
      let wait (u : State) : State := raise blkTier 6 ⟨j.desc, 1, idGlume k, 0xE, some j.key⟩
        (updSpk k (fun q => { q with jobs := q.jobs.map fun x => if x.jid = j.jid then { x with output := [out] } else x }) u)
      if 1024 < s1.spks[k].release.length + (old.length - g) then wait s1
      else match takeGranules (g - old.length) k j.key (reqStrong s t.msg.req) s1 with
        | (none, _) => wait s1
        | (some more, s2) =>
          let gs := old.take g ++ more
          let awn := reqAwn s t.msg.req
          let s3 := ringAdd k j.key (old.drop g) (writeBlock cls gs j.key awn out s2)
          let s4 := writeDesc j.desc (setBlock d b gs) (holdPath cls j.desc s3)
          let s5 := close (updSpk k (fun q => { q with
            glumeComp := satAdd 48 q.glumeComp 1
            glumeBytes := satAdd 48 q.glumeBytes out.length }) s4)
          refillQueue k (finish k t t.rsp
            (some (packedMirror t (j.plain.headD []) (j.poisoned.headD []) (t.msg.packed.getD 0))) s5)

/-- A job has failed (R173). -/
def failJob (k : Fin 8) (j : Job) (s : State) : State :=
  let s1 := updSpk k (fun q => { q with glumeFail := satAdd 48 q.glumeFail 1 }) s
  if j.poisoned.any (·.any id) then raise (blkSpk k) 19 ⟨j.desc, 1, idGlume k, 0xE, some j.key⟩ s1 else s1

/-! ## The memory stage -/

/-- The access of a transaction reaches the channel of its line, which checks its parity (R22, R23): a contained read or
atomic ends with poison, a contained write stores the pattern. -/
def channelStage (k : Fin 8) (t : Txn) (f : Txn → State → State) (s : State) : State :=
  let q := t.msg.req
  let m := t.msg.mpa
  let b := blkMc (chanOf s m)
  let access := q.op ≠ .inv && q.op ≠ .clnEvct && !spanPoisoned s m
  let full := match q.op with
    | .wr => t.msg.packed.isNone
    | .cqWrite => t.msg.packed.isNone
    | _ => false
  if !access then f t s
  else match chanParity m (!full) true (parityAt q.par .channel) s with
    | (.good, s1) => f t s1
    | (.fatal, s1) => fatalParity b 11 (reqCap q m) s1
    | (.contained, s1) =>
      let s2 := raise b 10 (reqCap q m) s1
      if isWrite q.op then f { t with msg := { t.msg with req := { q with contained := true } } } s2
      else finish k t { t.rsp with poison := true, status := 2 } none s2

/-- The memory stage of a transaction: it stays while lines it needs are fetched, another matter holds its line, or its
channel serves other accesses first; otherwise its data is read and verified or its write sealed. -/
def memoryDone (k : Fin 8) (tid : Nat) (noise : Image) (s : State) : State :=
  if halted s then s
  else match txnOf s k tid with
    | none => s
    | some t =>
      if t.state ≠ .memory || memBlocked s k t then s
      else match dupOf s t.msg.req with
        | some d =>
          refillQueue k (finish k t { t.rsp with old := d.result, casOk := d.casOk, status := 0 } none
            (raise blkPair 8 (reqCap t.msg.req t.msg.mpa)
              { s with pair := { s.pair with countDedup := satAdd 48 s.pair.countDedup 1 } }))
        | none =>
          let ns := txnMissing s t
          if !ns.isEmpty then addFetches t.msg.req.cls ns s
          else if !memFirst s k t then s
          else refillQueue k (channelStage k t (fun t u => match t.msg.packed with
            | none => plainOp k t noise u
            | some ln => packedOp k t ln noise u) s)

end Sys2Proof.Machine
end

