-- ==== Sys2Proof/Machine/Cross.lean ====
section
/-! DEFINITION. Crossings between clock domains: multi-bit values and Gray code (R462, R464), single events as toggles (R467), and
the dual-clock queues, which resynchronise after a reset of either side (R469, R470). -/

namespace Sys2Proof.Machine

/-! ## Dual-clock queues (R469, R470) -/

/-- The side of domain `d` is reset: it raises HALT, and the other side answers, or, in reset itself, takes this HALT as the answer
to its own (R469 steps 1 to 3, R470). A second reset during a resynchronisation starts it again. -/
def raiseHalt (d : Nat) (q : Crossing) : Crossing :=
  if q.a = d then { q with haltA := true, ackA := false, ackB := !q.haltB }
  else if q.b = d then { q with haltB := true, ackB := false, ackA := !q.haltA }
  else q

/-- The reset of domain `d` ends: it lowers HALT, and the other side lowers HALT_ACK; while the other side is still in reset, this
one answers it (R469 step 4, R470). -/
def lowerHalt (d : Nat) (q : Crossing) : Crossing :=
  if q.a = d then { q with haltA := false, ackB := false, ackA := q.haltB }
  else if q.b = d then { q with haltB := false, ackA := false, ackB := q.haltA }
  else q

/-- The queue resynchronises: it reads as empty and refuses writes (R469). -/
def resyncing (q : Crossing) : Bool := q.haltA || q.haltB || q.ackA || q.ackB

/-- A queue into or out of domain `d` resynchronises: RESYNC (Table 20.7). -/
def domResync (s : State) (d : Nat) : Bool := s.clk.crossings.any fun q => (q.a = d || q.b = d) && resyncing q

def crossAll (f : Crossing → Crossing) (s : State) : State :=
  { s with clk := { s.clk with crossings := s.clk.crossings.map f } }

/-- The logic of domain `d` is in reset: its clock has not started, PERST# holds its port, or its firmware restarts. -/
def inReset (s : State) (d : Nat) : Bool :=
  if d < 2 then !s.pins.vddAux
  else if d = 3 then !s.fw.germUp
  else if d = 4 then !s.fw.branUp
  else if 17 ≤ d && d < 41 then
    let p := if d < 21 then d - 17 else if d < 37 then (d - 21) / 4 else d - 37
    !s.clk.locked.getLsbD (17 + p) || s.ports[Fin.ofNat 4 p].state = .reset
  else if 59 ≤ d && d < 63 then !s.clk.locked.getLsbD 63
  else !s.clk.locked.getLsbD d

/-- A side holds HALT exactly while its domain is in reset. -/
def followReset (s : State) (q : Crossing) : Crossing :=
  let side (d : Nat) (halt : Bool) (c : Crossing) : Crossing :=
    if inReset s d && !halt then raiseHalt d c else if halt && !inReset s d then lowerHalt d c else c
  side q.b q.haltB (side q.a q.haltA q)

/-- What a reset, or the end of one, does to every queue. -/
def syncCrossings (s : State) : State := crossAll (followReset s) s

/-! ## Multi-bit values (R462, R464) -/

/-- The Gray code in which DTIME crosses: one bit changes per tick (R462). -/
def grayCode (t : Word) : Word := t ^^^ (t >>> 1)

/-- The value that a domain accepts from its samples in order: the first that two consecutive samples agree on (R464). -/
def acceptedSample : List Word → Option Word
  | x :: y :: r => if x = y then some x else acceptedSample (y :: r)
  | _ => none

/-- The bound on a crossing from a source of period `ts` to a destination of period `td`, in one unit (R464). -/
def crossingTime (ts td : Nat) : Nat := max (16 * ts) (4 * td) + 5 * td

/-! ## Events (R467). No command of the table brings an internal event of its own: these say what one does. -/

/-- A toggle crossing: a round trip is open, and an event waits for its end. -/
structure Toggle where
  sent : Bool
  waits : Bool
deriving DecidableEq, Repr

/-- An event at a toggle: sent, kept until the acknowledgement, or lost. -/
def Toggle.event (t : Toggle) : Toggle × Bool :=
  if !t.sent then (⟨true, false⟩, false) else if !t.waits then (⟨true, true⟩, false) else (t, true)

/-- The acknowledgement: the event that waited is sent. -/
def Toggle.ack (t : Toggle) : Toggle := ⟨t.waits, false⟩

/-- An event into domain `d` is lost: its bit of CLK_OVERRUN, the count and the cause (R467). -/
def eventLost (d : Fin 64) (s : State) : State :=
  raise blkClk 1 Cap.none { s with clk := { s.clk with
    overrun := s.clk.overrun ||| BitVec.ofNat 64 (1 <<< d.val), overrunCount := satAdd 48 s.clk.overrunCount 1 } }

end Sys2Proof.Machine
end

