-- ==== Sys2Proof/Machine/HomeCmds.lean ====
section
/-! DEFINITION. The commands of the home (chapters 4 and 5): arrival, hold end, back-invalidate answers, memory, culm
fetches, page commands and the ordering mode. -/

namespace Sys2Proof.Machine

/-! ## Arrival and the hold -/

/-- `par` is what the home's stage finds on the first message it takes, whatever stage the operand names. -/
def doHomeRequest (k : Fin 8) (n : Nat) (par : Parity) (s : State) : State :=
  if halted s then s else takeMessages k n (parityAt { par with stage := .home } .home) s

/-- Nanoseconds until the hold of an entry ends (R96). -/
def holdLeft (s : State) (k : Nat) (e : SfEntry) : Nat :=
  if inHold s k e then (e.holdEnd.toNat + 2 ^ 16 - s.dtime % 2 ^ 16) % 2 ^ 16 else 0

/-- What is left of the holds that the drains of DRAINING ports wait for at spikelet `k` (R52, R96). -/
def drainLeft (s : State) (k : Fin 8) : Nat :=
  (s.spks[k].sf.filter fun e => (List.finRange 4).any fun p =>
    s.ports[p].state = .draining && (entryHeads e.2).getLsbD p).foldl (fun a e => max a (holdLeft s k e.2)) 0

/-- DTIME reaches HOLD_END of the sector that a transaction waits on: it sends its back-invalidates (Table 4.3). With `tid`
0 the recalls and drains that waited on holds of the spikelet go on (R52, R106). -/
def doHoldEnd (k : Fin 8) (tid : Nat) (s : State) : State :=
  if halted s then s
  else if tid = 0 then
    let s0 := timeTo (s.dtime + drainLeft s k) s
    let owners := (match s.spks[k].recalling with
      | some p => [BiOwner.recall p]
      | none => []) ++ (s.spks[k].forwards.filter (fun f => !f.done && f.page.isSome)).map fun f => .forward f.desc
    let s1 := owners.foldl (fun t o =>
      let left := (recallEntries t k o).foldl (fun a e => max a (holdLeft t k e.2)) 0
      recallMore k o (timeTo (t.dtime + left) t)) s0
    stepForwards k (afterAnswers k s1)
  else match txnOf s k tid with
    | none => s
    | some t =>
      if t.state ≠ .holdWait then s
      else match sfFind s.spks[k] (msgSector t.msg) with
        | none => s
        | some (pl, e) =>
          let s1 := timeTo (s.dtime + holdLeft s k e) s
          let ns := txnNeeds s1 t e
          stepForwards k (afterAnswers k (if ns.isEmpty then toMemory k tid pl e t s1 else needBis k t pl e ns s1))

/-! ## Answers of the hosts -/

/-- An answer reaches the home: once every BISnp of the back-invalidate is answered it is recorded (R92, R94). DESIGN CHOICE:
of the answers to the BISnp of several decoders the port returns the last (log entry 132). -/
def answerSnp (k : Fin 8) (sid : Nat) (r : BiRsp) (s : State) : State :=
  updSpk k (fun q => { q with snps := q.snps.map fun n =>
    if n.sid = sid && n.left ≠ 0 then
      { n with left := n.left - 1, answer := if n.left = 1 then some r else n.answer }
    else n }) s

/-- What a stage finds of a message of an open coherence transaction: any error is fatal (R23). -/
def openParity (par : Parity) (st : CtlStage) : ParityKind :=
  if parityAt par st = .good && parityAt par .order = .good then .good
  else if par.stage = st || par.stage = .order && st = .home then .fatal else .good

/-- A BIRsp of the host of port `p` (R94). The answers of a head's several decoders are joined at its port; a write of the line
that the host sent before is taken first (R93). -/
def doBirsp (p : Fin 4) (bid : Nat) (r : BiRsp) (par : Parity) (s : State) : State :=
  match s.ports[p].bis.find? fun b => b.bid = bid && !b.unsent with
  | none => s
  | some b =>
    let k := spk8 b.spk
    let s1 := updPort p (fun q => { q with bis := q.bis.filter (·.bid ≠ bid) }) s
    let c : Cap := ⟨b.hpa, 3, b.ldTag, 3, none⟩
    match stageParity (blkPort p) 9 8 false (openParity par .port) s1 with
    | (.fatal, s2) => fatalParity (blkPort p) 9 c s2
    | (_, s2) => match stageParity (blkSpk k) 6 5 false (openParity par .home) s2 with
      | (.fatal, s3) => fatalParity (blkSpk k) 6 c s3
      | (_, s3) =>
        let s4 := takeAwaited k (fun m => reqPort m.req = p && lineBase m.req.hpa = lineBase b.hpa && awaited s3 k m) s3
        stepForwards k (afterAnswers k (answerSnp k b.sid r s4))

/-- A request that its home ordered before the back-invalidate it has open, and has not answered: an absorbed writeback, or
one whose response is still on its way (R100). Requests that wait in ORDER behind the back-invalidate are later ones (log
entry 15). -/
def orderedBefore (s : State) (r : OpenReq) : Bool :=
  match r.stage with
  | .egress => true
  | .home k => s.spks[spk8 k].txns.any fun t => t.msg.req.rid = r.req.rid && (t.absorbed || t.state = .respond)
  | _ => false

/-- BIConflictAck leaves once every earlier request of the head for the line has been answered (R100). -/
def ackConflicts (p : Fin 4) (s : State) : State :=
  let due := s.ports[p].bis.filter fun b => b.conflict &&
    s.ports[p].reqs.all fun r => !orderedBefore s r || lineBase r.req.hpa ≠ lineBase b.hpa
  due.foldl (fun t b => emit (.biConflictAck p b.bid)
    (updPort p (fun q => { q with bis := q.bis.map fun x => if x.bid = b.bid then { x with conflict := false } else x }) t)) s

/-- A BIConflict of the host of port `p` (R100). -/
def doBiConflict (p : Fin 4) (bid : Nat) (par : Parity) (s : State) : State :=
  match s.ports[p].bis.find? fun b => b.bid = bid && !b.unsent with
  | none => s
  | some b =>
    let k := spk8 b.spk
    let c : Cap := ⟨b.hpa, 3, b.ldTag, 3, none⟩
    match stageParity (blkPort p) 9 8 false (openParity par .port) s with
    | (.fatal, s1) => fatalParity (blkPort p) 9 c s1
    | (_, s1) => match stageParity (blkSpk k) 6 5 false (openParity par .home) s1 with
      | (.fatal, s2) => fatalParity (blkSpk k) 6 c s2
      | (_, s2) => ackConflicts p (updPort p (fun q => { q with
          bis := q.bis.map fun x => if x.bid = bid then { x with conflict := true } else x }) s2)

def execBiConflict (p : Fin 4) (bid : Nat) (par : Parity) (s : State) : Host.Outcome State Fault Refusal :=
  .next (doBiConflict p bid par s)

/-- A BISnp has been open longer than BI_TIMEOUT: the cause is set, and the home keeps waiting (R104). -/
def doBiTimeout (k : Fin 8) (sid : Nat) (s : State) : State :=
  match s.spks[k].snps.find? fun n => n.sid = sid && n.answer.isNone && !n.timedOut with
  | none => s
  | some n =>
    let s1 := timeTo (n.sent + 100 * regField s (offBiCfg k) 0 16 + 1) s
    raise (blkSpk k) 4 Cap.none
      (updSpk k (fun q => { q with snps := q.snps.map fun x => if x.sid = sid then { x with timedOut := true } else x }) s1)

def execBiTimeout (k : Fin 8) (sid : Nat) (s : State) : Host.Outcome State Fault Refusal := .next (doBiTimeout k sid s)

/-! ## Memory and the culm tree -/

def doHomeMemoryDone (k : Fin 8) (tid : Nat) (noise : Image) (s : State) : State :=
  stepForwards k (memoryDone k tid noise s)

/-- A fetched line returns at its home: a node is verified against its parent, which must be held (R136). In
tRFC of its refresh target it waits (R209). -/
def doCulmNodeFetchDone (k : Fin 8) (mpa : Nat) (noise : Image) (par : Parity) (s : State) : State :=
  if halted s then s
  else match s.spks[k].fetches.find? (·.mpa = mpa) with
    | none => s
    | some f =>
      if !fetchReady s f || targetBusy s mpa then s
      else
        chanAccess mpa true par ⟨mpa, 1, idCulm, 5, none⟩ (fun u =>
          let s1 := updSpk k (fun q => { q with fetches := q.fetches.filter (·.mpa ≠ mpa) }) u
          let (ops, s2) := fetchOps f.kind mpa noise s1
          culmRun 4096 f.cls ops s2) s

def execCulmNodeFetchDone (k : Fin 8) (mpa : Nat) (noise : Image) (par : Parity) (s : State) :
    Host.Outcome State Fault Refusal := .next (doCulmNodeFetchDone k mpa noise par s)

/-- The re-encryption of a group ends: its write completes and the requests that waited go on (R140). -/
def doReencryptionDone (k : Fin 8) (base : Nat) (s : State) : State :=
  match s.spks[k].rekeys.find? fun r => r.level = 0 && r.base = base with
  | none => s
  | some r =>
    let s1 := updSpk k (fun q => { q with rekeys := q.rekeys.erase r }) s
    match txnOf s1 k r.tid with
    | none => s1
    | some t => if t.waiting then stepForwards k (finish k t t.rsp t.wrote s1) else s1

/-- Every child of an overflowed parent has been tagged again (R141). -/
def doCulmRetagDone (k : Fin 8) (base : Nat) (s : State) : State :=
  match s.spks[k].rekeys.find? fun r => r.level ≠ 0 && r.base = base with
  | none => s
  | some r => updSpk k (fun q => { q with rekeys := q.rekeys.erase r }) s

def execCulmRetagDone (k : Fin 8) (base : Nat) (s : State) : Host.Outcome State Fault Refusal :=
  .next (doCulmRetagDone k base s)

/-! ## Page commands (R105, R106, Tables 4.13, 4.14) -/

/-- The plain fields of a command register that a write leaves (R7), its OP being the row's, then the command itself when
GO is written 1. -/
def goWrite (off opLo opW op : Nat) (v : Word) (go : State → State) (s : State) : State :=
  let s1 := regWrite .whole off (setField v opLo opW op) s
  if flag v 0 then go s1 else s1

/-- A page hold is placed on its home, or refused. -/
def placeHold (k : Fin 8) (page : Nat) (s : State) : Option State :=
  let hs := s.spks[k].holds
  if home page ≠ k.val || 16 ≤ hs.length || hs.contains page then none
  else some (updSpk k (fun q => { q with holds := q.holds ++ [page] }) s)

/-- The hold ends and the parked requests run in arrival order. -/
def liftHold (k : Fin 8) (page : Nat) (s : State) : State :=
  settle k (updSpk k (fun q => { q with holds := q.holds.filter (· ≠ page) }) s)

def putHolder (page : Nat) (o : HoldOwner) (s : State) : State :=
  { s with tier := { s.tier with holders := s.tier.holders.filter (· ≠ (page, o)) ++ [(page, o)] } }

/-- A page is held for `o`, whoever else keeps it held; none where its home has no hold free (R105, R188 step 2, R196 step 1). -/
def ownHold (o : HoldOwner) (page : Nat) (s : State) : Option State :=
  if s.spks[spkOf page].holds.contains page then some (putHolder page o s)
  else (placeHold (spkOf page) page s).map (putHolder page o)

/-- `o` no longer keeps the page held: the hold ends when nothing else does. -/
def disownHold (o : HoldOwner) (page : Nat) (s : State) : State :=
  let s1 := { s with tier := { s.tier with holders := s.tier.holders.filter (· ≠ (page, o)) } }
  if s1.tier.holders.any (·.1 = page) then s1 else liftHold (spkOf page) page s1

/-- Every page that `o` keeps held. -/
def disownAll (o : HoldOwner) (s : State) : State :=
  ((s.tier.holders.filter (·.2 = o)).map (·.1)).foldl (fun t page => disownHold o page t) s

def pgEnd (k : Fin 8) (done refused : Bool) (s : State) : State :=
  updSpk k (fun q => { q with pgDone := done, pgRefused := refused }) s

/-- GO is ignored while a recall is in progress (Table 4.13). -/
def pgGo (k : Fin 8) (op : Nat → State → State) (v : Word) (s : State) : State :=
  if s.spks[k].recalling.isSome then s
  else op (field v 12 32 <<< 12) (pgEnd k false false s)

def doPageHold (m : Master) (k : Fin 8) (v : Word) (s : State) : State :=
  guardWrite m (offPgCmd k) (goWrite (offPgCmd k) 60 4 1 v (pgGo k (fun page t =>
    match placeHold k page t with
    | some u => pgEnd k true false (putHolder page .register u)
    | none => pgEnd k false true t) v)) s

def execPageHold (m : Master) (k : Fin 8) (v : Word) (s : State) : Host.Outcome State Fault Refusal :=
  .next (doPageHold m k v s)

def doPageRelease (m : Master) (k : Fin 8) (v : Word) (s : State) : State :=
  guardWrite m (offPgCmd k) (goWrite (offPgCmd k) 60 4 2 v (pgGo k (fun page t =>
    if t.spks[k].holds.contains page then
      liftHold k page (pgEnd k true false { t with tier := { t.tier with holders := t.tier.holders.filter (·.1 ≠ page) } })
    else pgEnd k false true t) v)) s

def doPageRecall (m : Master) (k : Fin 8) (v : Word) (s : State) : State :=
  guardWrite m (offPgCmd k) (goWrite (offPgCmd k) 60 4 3 v (pgGo k (fun page t =>
    if home page ≠ k.val then pgEnd k false true t
    else afterAnswers k (recallMore k (.recall page) (updSpk k (fun q => { q with recalling := some page }) t))) v)) s

def execPageRecall (m : Master) (k : Fin 8) (v : Word) (s : State) : Host.Outcome State Fault Refusal :=
  .next (doPageRecall m k v s)

/-! ## Ordered-class mode (R111) -/

/-- A spikelet changes mode between two messages: no queued message is dropped or moved. -/
def setOrdered (on : Bool) (s : State) : State :=
  eachSpk (fun k t => updSpk k (fun q => { q with orderedActive := on }) (regSetField (offCohCtl k) 0 1 (bit on) t)) s

def doOrderedModeWrite (m : Master) (k : Fin 8) (v : Word) (s : State) : State :=
  guardWrite m (offCohCtl k) (fun t =>
    updSpk k (fun q => { q with orderedActive := flag v 0 }) (regWrite .whole (offCohCtl k) v t)) s

def execOrderedModeWrite (m : Master) (k : Fin 8) (v : Word) (s : State) : Host.Outcome State Fault Refusal :=
  .next (doOrderedModeWrite m k v s)

end Sys2Proof.Machine
end

