-- ==== Sys2Proof/Machine/Request.lean ====
section
/-! DEFINITION. A request at its port: decode (R41, R42), key and class (R117), admission (R256 to R261), the Sheaf
(R62 to R66, R70) and what lets waiting requests go on. -/

namespace Sys2Proof.Machine

/-! ## HDM decoding (R40 to R42) -/

/-- The offset of an HPA in a decoder's window with the interleave bits removed. -/
def decodeOffset (d : Decoder) (hpa : Nat) : Nat :=
  let g := log2Of d.ig
  let w := log2Of d.iw
  let off := hpa - d.base
  ((off >>> (g + w)) <<< g) ||| off % 2 ^ g

/-- The committed decoder of the LD that an HPA hits, its region, alias and DPA. -/
def decodeHpa (s : State) (p : Fin 4) (ld hpa : Nat) : Option (Region × Nat × Nat) :=
  match s.ports[p].decs.find? fun d => d.1 / 4 = ld && d.2.committed && inRange d.2.base d.2.size hpa with
  | none => none
  | some d =>
    match regionNo s (regField s (offDecMap p (d.1 / 4) (d.1 % 4)) 16 8) with
    | none => none
    | some r =>
      let o := decodeOffset d.2 hpa
      some (r, o >>> r.size, r.dpaBase + o % 2 ^ r.size)

/-! ## Key slots at the port (R117) -/

/-- The port's copy of a slot. -/
def slotCopy (s : State) (p k : Nat) : SlotCopy := kget ⟨false, 0, 0⟩ s.crypt.copies (4096 * p + k)

/-- The slot copy admits the LD. -/
def keyAdmits (s : State) (ldTag k : Nat) : Bool :=
  let c := slotCopy s (ldTag / 16) k
  c.loaded && c.mask.getLsbD (ldTag % 16)

/-! ## Refusing a request -/

def dropReq (p : Fin 4) (rid : Nat) (s : State) : State :=
  updPort p (fun q => { q with reqs := q.reqs.filter fun r => r.req.rid ≠ rid }) s

/-- A request refused before its home: a host's by R496, a command's with the status of its refusal, a partner's with
REFUSED (R307, R432). -/
def refuseReq (p : Fin 4) (q : Req) (status : Nat) (s : State) : State :=
  let s1 := dropReq p q.rid s
  match q.src with
  | .host _ _ _ _ => if s.ports[p].reqs.any fun r => r.req.rid = q.rid && r.discard then s1 else refuseHost q s1
  | .cq n i unit =>
    if status = 2 && q.op = .cqRead && (takenOf s1 n i).any (·.started) then
      updTaken n i (fun t => { t with buf := some 0, wait := 5, poison := true }) s1
    else complete n i (fin status unit) s1
  | .mirror h => queueTil (.mirrorAck h.mirrorId 2) s1

/-! ## The Sheaf -/

/-- The entry a request uses: the smallest that covers its DPA under its LD tag (R62, R63). -/
def sheafHit (s : State) (p : Fin 4) (ldTag dpa : Nat) : Option SheafEntry :=
  let hits := s.ports[p].sheaf.filter fun e => e.ldTag = ldTag && dpa >>> e.size = e.dpaBase >>> e.size
  let m := hits.foldl (fun a e => min a e.size) 64
  hits.find? (·.size = m)

/-- The message that a translated request becomes (R62, R65). -/
def msgOf (e : SheafEntry) (q : Req) (now : Nat) : Msg :=
  if e.packed then ⟨q, e.mpa, some (bitsAt q.dpa 6 6), now⟩ else ⟨q, e.mpa + lineBase q.dpa % 2 ^ e.size, none, now⟩

/-- An open request reaches a stage, as it is then. -/
def setStage (p : Fin 4) (q : Req) (st : Stage) (passed : Bool) (s : State) : State :=
  updPort p (fun o => { o with
    reqs := o.reqs.map fun r => if r.req.rid = q.rid then { r with req := q, stage := st, passed := passed } else r }) s

/-- The request goes to the home spikelet of its MPA once it has a credit (R253). -/
def toHome (p : Fin 4) (m : Msg) (s : State) : State :=
  sendHome p m (setStage p m.req (.home (spkOf m.mpa)) true s)

/-- The link of a host request. -/
def reqLink (q : Req) : Option Nat :=
  match q.src with
  | .host _ l _ _ => some l
  | _ => none

/-- The port takes no further request from the link until a Sheaf slot frees (R70). -/
def stallLink (p : Fin 4) (q : Req) (s : State) : State :=
  match reqLink q with
  | some l => updPort p (fun o => { o with stalled := o.stalled ||| headBit l }) s
  | none => s

/-- The port takes no further request from the link until a hold-buffer entry frees (R260). -/
def stallHold (p : Fin 4) (q : Req) (s : State) : State :=
  match reqLink q with
  | some l => updPort p (fun o => { o with holdStalled := o.holdStalled ||| headBit l }) s
  | none => s

/-- A miss takes or shares a slot; a new slot sends its record across the gate (R70). With no slot free the request stays
and its link stalls. -/
def raiseMiss (p : Fin 4) (q : Req) (s : State) : State :=
  let pg := q.dpa >>> 12
  let o := s.ports[p]
  if o.slots.any fun m => m.ldTag = q.ldTag && m.page = pg then setStage p q .miss true s
  else if 64 ≤ o.slots.length then stallLink p q (setStage p q .ingress true s)
  else
    let s1 := perfPort p 0x03 1 none (setStage p q .miss true s)
    let rec_ : MissRec := ⟨p, q.ldTag, q.dpa, reqMaster q, q.key, o.invSeq, 7⟩
    let s2 := updPort p (fun o => { o with
      slots := o.slots ++ [⟨q.ldTag, pg, o.invSeq⟩], misses := satAdd 48 o.misses 1 }) s1
    { s2 with gate := { s2.gate with records := s2.gate.records ++ [rec_] } }

/-- Capture of a request at its port, by DPA. -/
def dpaCap (q : Req) : Cap := ⟨q.dpa, 2, reqMaster q, reqAccess q, some q.key⟩

/-- A contained error on a request that stores nothing: it completes with poison, or with Cmp (R22). -/
def containAt (p : Fin 4) (q : Req) (s : State) : State := refuseReq p q 2 s

/-- Stage 3: a request meets the Sheaf (R62 to R65, R70). -/
def translate (p : Fin 4) (q0 : Req) (s : State) : State :=
  let (par, s1) := stageParity blkSheaf 8 7 true (parityAt q0.par .sheaf) s
  match par with
  | .fatal => fatalParity blkSheaf 8 (dpaCap q0) s1
  | _ =>
    let s2 := if par = .contained then raise blkSheaf 7 (dpaCap q0) s1 else s1
    let q := { q0 with contained := q0.contained || par = .contained }
    if par = .contained && !isWrite q.op then containAt p q s2
    else match sheafHit s2 p q.ldTag q.dpa with
      | some e =>
        if e.keyPolicy && q.aliasF ≠ 0 && !q.contained then refuseReq p q 6 (raise blkSheaf 5 (dpaCap q) s2)
        else toHome p (msgOf e q s2.dtime) s2
      | none => raiseMiss p q s2

/-! ## Admission (R256 to R260) -/

/-- Lines per window that LOW_RATE admits of writes to the elastic regions of a pool (R258). -/
def lowLimit (s : State) (n : Nat) : Nat :=
  max 1 (regField s (offTierWm n) 0 16 * regField s offQosWindow 0 16 / 1000)

/-- The pool whose state bears on a write: that of its elastic region (R194). -/
def writePool (s : State) (q : Req) : Option (Fin 2) :=
  if !isWrite q.op then none
  else match regionNo s q.region with
    | some r => if r.elastic then some (regionPool r) else none
    | none => none

/-- The pool state lets a write in now (R194, R258). -/
def poolAdmits (s : State) (p : Fin 4) (q : Req) : Bool :=
  match writePool s q with
  | none => true
  | some n =>
    match s.tier.pools[n].state with
    | .normal => true
    | .low => s.ports[p].lowCounts.getD n 0 < lowLimit s n
    | .critical => false

/-- The class budget of the window in progress has room; 0xFFFF is unlimited (R256, Table 10.6). -/
def budgetAdmits (s : State) (p : Fin 4) (c : Nat) : Bool :=
  let b := s.ports[p].budgets.getD c 0
  b = 0xFFFF || s.ports[p].counts.getD c 0 < b

/-- What a request counts at admission: one line, or the lines a command touches and those it writes (R256, R258). -/
def reqLines (s : State) (q : Req) : Nat × Nat :=
  match q.src with
  | .cq n i _ => match takenOf s n i with
    | some t => dLines t.desc
    | none => (1, 1)
  | _ => (1, 1)

/-- A request is counted in its window. -/
def countAdmit (p : Fin 4) (q : Req) (s : State) : State :=
  let (lines, written) := reqLines s q
  let low (o : Port) : List Nat := match writePool s q with
    | some n => if s.tier.pools[n].state = .low then o.lowCounts.set n (o.lowCounts.getD n 0 + written) else o.lowCounts
    | none => o.lowCounts
  updPort p (fun o => { o with
    counts := o.counts.set q.cls (o.counts.getD q.cls 0 + lines), lowCounts := low o }) s

/-- Admitted at once whatever the budget: MemClnEvct, and a write to a line whose BISnp is open to this head (R257). -/
def freeAdmit (s : State) (p : Fin 4) (q : Req) : Bool :=
  match q.op with
  | .clnEvct => true
  | .wr => s.ports[p].bis.any fun b => lineBase b.hpa = lineBase q.hpa
  | .wrPtl => s.ports[p].bis.any fun b => lineBase b.hpa = lineBase q.hpa
  | _ => false

/-- Hold-buffer entries of a port, of one class or of all; taken descriptors held at admission count (R259, R433). -/
def heldReqs (s : State) (p : Fin 4) (c : Option Nat) : Nat :=
  (s.ports[p].reqs.filter fun r => r.stage = .hold && (c.isNone || c = some r.req.cls)).length

/-- The key-slot check of stage 2 (R117): a contained write skips it, since its key index cannot be trusted. -/
def keyStage (p : Fin 4) (q : Req) (go : Req → State → State) (s : State) : State :=
  let (par, s1) := stageParity blkCrypt 7 6 true (parityAt q.par .key) s
  match par with
  | .fatal => fatalParity blkCrypt 7 (dpaCap q) s1
  | _ =>
    let s2 := if par = .contained then raise blkCrypt 6 (dpaCap q) s1 else s1
    if par = .contained && !isWrite q.op then containAt p q s2
    else if q.contained || par = .contained || keyAdmits s2 q.ldTag q.key then
      go { q with contained := q.contained || par = .contained } s2
    else refuseReq p q 1 (raise blkCrypt 1 (dpaCap q) s2)

/-- An admitted request goes on: a command notes its admission, any other request meets the Sheaf. -/
def admitted (p : Fin 4) (q : Req) (s : State) : State :=
  match q.src with
  | .cq n i _ => updTaken n i (fun t => { t with admitted := true, contained := t.contained || q.contained }) (dropReq p q.rid s)
  | _ => translate p q s

/-- Admission: at once, into the hold buffer, or, with no room there, not at all, with the link stalled. -/
def admitReq (p : Fin 4) (q : Req) (s : State) : State :=
  let (par, s1) := stageParity blkQos 2 1 true (parityAt q.par .admission) s
  match par with
  | .fatal => fatalParity blkQos 2 (dpaCap q) s1
  | _ =>
    let s2 := if par = .contained then raise blkQos 1 (dpaCap q) s1 else s1
    let q := { q with contained := q.contained || par = .contained }
    if par = .contained && !isWrite q.op then containAt p q s2
    else if freeAdmit s2 p q || (!s.pair.handover && budgetAdmits s2 p q.cls && poolAdmits s2 p q) then
      admitted p q (countAdmit p q s2)
    else if 128 ≤ heldReqs s2 p (some q.cls) || 512 ≤ heldReqs s2 p none then
      stallHold p q (raise blkQos 3 (dpaCap q) s2)
    else
      let low := !poolAdmits s2 p q
      let s3 := perfPort p 0x04 1 (some q.cls) (updPort p (fun o => { o with
        heldCount := o.heldCount.set q.cls (satAdd 48 (o.heldCount.getD q.cls 0) 1) })
        (setStage p { q with heldOnce := true } .hold false s2))
      if low then { s3 with tier := { s3.tier with held := satAdd 48 s3.tier.held 1 } } else s3

/-! ## A request in ingress -/

/-- Capture by HPA. -/
def hpaCap (q : Req) : Cap := ⟨q.hpa, 3, reqMaster q, reqAccess q, none⟩

/-- The request names an LD that is not valid on an MLD link, or one that another link carries (R497). -/
def protocolError (s : State) (p : Fin 4) (l ld : Nat) : Bool :=
  let d := ldRec s (16 * p + ld)
  (linkMode s p l = 3 && !d.valid) || (d.valid && d.link ≠ l)

/-- Stages 1 and 2 of a request in ingress: a host's protocol check and decode, then key and class, then admission. One that
has passed them meets the Sheaf again. -/
def enter (p : Fin 4) (r : OpenReq) (s : State) : State :=
  if r.passed then translate p r.req s
  else match r.req.src with
  | .host _ l ld _ =>
    if s.ports[p].links[port4 l].belowFloor then refuseReq p r.req 0 s
    else if protocolError s p l ld then refuseReq p r.req 0 (raise (blkPort p) 11 (hpaCap r.req) s)
    else match decodeHpa s p ld r.req.hpa with
      | none => refuseReq p r.req 0 (raise (blkPort p) 5 (hpaCap r.req) s)
      | some (rg, aliasF, dpa) =>
        let t := 16 * p.val + ld
        let key := if aliasF = 0 then defaultKey s t rg else rg.keyBase + aliasF
        let q := { r.req with ldTag := t, dpa := dpa, region := rg.number, aliasF := aliasF, key := key,
                              cls := (slotCopy s p key).cls }
        let s1 := updPort p (fun o => { o with
          reqs := o.reqs.map fun x => if x.req.rid = q.rid then { x with req := q } else x }) s
        keyStage p q (admitReq p) (perfPort p 0x02 1 (some q.cls) s1)
  | .cq n i _ =>
    if (takenOf s n i).any (·.admitted) then translate p r.req s else admitReq p r.req s
  | .mirror _ => keyStage p r.req (admitReq p) s

/-! ## Windows (R246, R259, R261) -/

/-- Held requests of each class are admitted in arrival order while their budgets last. Each passed stage 2 when it was held
and is not refused now (R259). A fenced member completes nothing, so that nothing goes on there (R301). -/
def admitHeld (p : Fin 4) (s : State) : State :=
  let held := if s.pair.fenceIn then [] else (s.ports[p].reqs.filter (·.stage = .hold)).map (·.req)
  held.foldl (fun t q =>
    if budgetAdmits t p q.cls && poolAdmits t p q && !t.pair.handover then
      admitted p q (countAdmit p q (updPort p (fun o => { o with holdStalled := 0 }) t))
    else t) s

/-- A window starts at the port: counts start at zero, budgets are taken, held requests go first (R259, R261). -/
def startWindow (p : Fin 4) (s : State) : State :=
  let w := regField s offQosWindow 0 16
  let b := (List.range 8).map fun c => regField s (offQosAdmit c) 0 16
  admitHeld p (updPort p (fun o => { o with
    counts := [0, 0, 0, 0, 0, 0, 0, 0], lowCounts := [0, 0], budgets := b
    windowStart := if w = 0 then s.dtime else s.dtime / w * w }) s)

/-- DTIME lies past the window that the port counts in (R246). -/
def windowOver (s : State) (p : Fin 4) : Bool :=
  let w := regField s offQosWindow 0 16
  w ≠ 0 && s.dtime / w ≠ s.ports[p].windowStart / w

/-- The window that DTIME lies in is the one that counts (R246). -/
def rollWindow (p : Fin 4) (s : State) : State := if windowOver s p then startWindow p s else s

/-- Requests in ingress go on in arrival order, each until its link stalls; at a fenced member they wait (R301). -/
def pumpIngress (p : Fin 4) (s0 : State) : State :=
  let s := rollWindow p s0
  let waiting := if s.pair.fenceIn then [] else (s.ports[p].reqs.filter (·.stage = .ingress)).map (·.req.rid)
  waiting.foldl (fun t rid =>
    match t.ports[p].reqs.find? fun r => r.req.rid = rid && r.stage = .ingress with
    | none => t
    | some r =>
      match reqLink r.req with
      | some l => if (t.ports[p].stalled ||| t.ports[p].holdStalled).getLsbD l then t else enter p r t
      | none => enter p r t) s

/-- Requests wait in ingress on a link that nothing stalls. -/
def mayPump (s : State) (p : Fin 4) : Bool :=
  s.ports[p].reqs.any fun r => r.stage = .ingress && (reqLink r.req).all fun l =>
    !(s.ports[p].stalled ||| s.ports[p].holdStalled).getLsbD l

/-- What a freed hold-buffer entry or a new window lets in. -/
def pumpFreed (p : Fin 4) (s : State) : State := if mayPump s p then pumpIngress p s else s

/-- A Sheaf slot has come free: the links that waited for one are taken up again (R70). -/
def unstall (p : Fin 4) (s : State) : State := pumpFreed p (updPort p (fun o => { o with stalled := 0 }) s)

/-- The request as it arrives. -/
def rawReq (rid : Nat) (src : Src) (ldTag : Nat) (op : HomeOp) (hpa : Nat) (data : Line) (be : BitVec 64)
    (poison : Bool) : Req :=
  { rid := rid, src := src, ldTag := ldTag, op := op, hpa := hpa, dpa := 0, region := 0, aliasF := 0, key := 0, cls := 0,
    data := data, be := be, heldOnce := false, poisoned := poison, contained := false, reissued := false,
    par := .good }

/-- A CXL.mem request received on link `l` of port `p` (stage 1 of Table 1.5). A VIRAL, DRAINED or TRAINING port completes
it at once (R112, Table 2.6), but not while the member is fenced (R301). -/
def receive (p l : Fin 4) (ld tag : Nat) (op : HomeOp) (hpa : Nat) (data : Line) (be : BitVec 64) (poison : Bool)
    (par : Parity) (s : State) : State :=
  let o := s.ports[p]
  if !o.links[l].up || o.state = .reset then s
  else
    let s0 := updLink p l (fun k => { k with inL1 := false }) (ungate (domPort p) s)
    let (rid, s1) := takeSeq s0
    let q := rawReq rid (.host p l ld tag) (16 * p.val + ld) op hpa data be poison
    if o.state ≠ .enabled && o.state ≠ .draining then
      if s.pair.fenceIn && !s.domainDown then
        updPort p (fun o => { o with reqs := o.reqs ++ [⟨{ q with par := par }, .ingress, false, false, false, false⟩] }) s1
      else refuseHost q s1
    else
      let (par1, s2) := stageParity (blkPort p) 9 8 true (parityAt par .port) s1
      match par1 with
      | .fatal => refuseHost q (fatalParity (blkPort p) 9 (hpaCap q) s2)
      | _ =>
        let c := par1 = .contained
        let s3 := if c then raise (blkPort p) 8 (hpaCap q) s2 else s2
        if c && !isWrite op then refuseHost q s3
        else
          let r : OpenReq := ⟨{ q with par := par, contained := c, reissued := s.pair.reissueOpen }, .ingress, false, false, false, false⟩
          pumpIngress p (updPort p (fun o => { o with reqs := o.reqs ++ [r] }) s3)

/-! ## The start of a window -/

/-- A new window at every port (R259, R261). -/
def newWindow (s : State) : State := eachPort (fun p t => pumpFreed p (startWindow p t)) s

/-- The next window of every port starts: the one DTIME already lies in, else the one at the next multiple of WINDOW
(R246). -/
def doAdmissionWindow (s : State) : State :=
  if (List.finRange 4).any (windowOver s) then
    if s.domainDown then s else eachPort (fun p t => pumpFreed p (rollWindow p t)) s
  else
    let w := regField s offQosWindow 0 16
    let s1 := if w = 0 then s else timeTo ((s.dtime / w + 1) * w) s
    if s.domainDown then s1 else newWindow s1

/-! ## The five CXL.mem requests -/

def execMemRd (p l : Fin 4) (ld : Fin 16) (tag hpa : Nat) (snp : SnpType) (par : Parity) (s : State) :
    Host.Outcome State Fault Refusal :=
  .next (receive p l ld tag (.rd snp) hpa 0 0 false par s)

def execMemWr (p l : Fin 4) (ld : Fin 16) (tag hpa : Nat) (data : Line) (poison : Bool) (par : Parity) (s : State) :
    Host.Outcome State Fault Refusal :=
  .next (receive p l ld tag .wr hpa data 0 poison par s)

def execMemWrPtl (p l : Fin 4) (ld : Fin 16) (tag hpa : Nat) (data : Line) (be : BitVec 64) (par : Parity) (s : State) :
    Host.Outcome State Fault Refusal :=
  .next (receive p l ld tag .wrPtl hpa data be false par s)

def execMemInv (p l : Fin 4) (ld : Fin 16) (tag hpa : Nat) (par : Parity) (s : State) :
    Host.Outcome State Fault Refusal :=
  .next (receive p l ld tag .inv hpa 0 0 false par s)

def execMemClnEvct (p l : Fin 4) (ld : Fin 16) (tag hpa : Nat) (par : Parity) (s : State) :
    Host.Outcome State Fault Refusal :=
  .next (receive p l ld tag .clnEvct hpa 0 0 false par s)

end Sys2Proof.Machine
end

