-- ==== Sys2Proof/Machine/PortOps.lean ====
section
/-! DEFINITION. The port state machine (Tables 2.6, 2.7), draining (R52), link loss (R56, R104), what a response at the port
sets free, and the Sheaf gate's acknowledgements (Table 3.7). -/

namespace Sys2Proof.Machine

/-! ## Enabling -/

/-- Links of the port that the image uses. -/
def usedLinks (s : State) (p : Fin 4) : List (Fin 4) := (List.finRange 4).filter fun l => linkMode s p l ≠ 0

/-- R46: IDE is not required, or both streams are active on every link. -/
def ideReady (s : State) (p : Fin 4) : Bool :=
  !ideRequired s p || (usedLinks s p).all fun l => s.ports[p].links[l].ideIo.active && s.ports[p].links[l].ideMem.active

/-- Nothing else holds the port out of ENABLED: bring-up has released the device, and a paired member is PRIMARY (R50, R57,
Table 12.1, R301). -/
def mayServe (s : State) : Bool :=
  s.bring.released && (s.pair.role = .none || s.pair.role = .primary) && s.pwr.state ≠ .stooking &&
    s.pwr.state ≠ .enteringRest && !s.pair.fenceIn

def setPort (p : Fin 4) (st : PortState) (s : State) : State := updPort p (fun q => { q with state := st }) s

/-- The port is ENABLED: proposals that asked for it are DONE (Table 17.4), and the member is FRESH no more (log entry 27). -/
def enterEnabled (p : Fin 4) (s : State) : State :=
  takePort p <| endAccepted 5 2 0 (fun b => propField b 8 1 = p.val)
    (updPort p (fun q => { q with state := .enabled, enableQueued := false })
      { s with pair := { s.pair with fresh := false } })

/-- A DRAINED port with a queued enable enters ENABLED once R46 permits (Table 2.7). -/
def queuedEnable (p : Fin 4) (s : State) : State :=
  let q := s.ports[p]
  if q.state = .drained && q.enableQueued && ideReady s p && mayServe s then
    enterEnabled p s
  else s

/-- AUTO_ENABLE of PORT_CTL (Table 2.10). -/
def autoEnable (s : State) (p : Fin 4) : Bool := flag (regGet s (offPortCtl p)) 8

/-- Every link of the port that is used has trained (R34, Table 2.7). -/
def linksTrained (s : State) (p : Fin 4) : Bool :=
  !(usedLinks s p).isEmpty && (usedLinks s p).all fun l => s.ports[p].links[l].trained

/-- TRAINING ends when every link has trained and the device is released (Table 2.7). -/
def leaveTraining (p : Fin 4) (s : State) : State :=
  let q := s.ports[p]
  if q.state = .training && s.bring.released && linksTrained s p then
    let want := autoEnable s p || q.enableQueued
    if want && ideReady s p && mayServe s then
      enterEnabled p s
    else updPort p (fun q => { q with state := .drained, enableQueued := want }) s
  else s

/-! ## Draining (R52) -/

/-- Accepted host requests not yet completed (Table 2.11). -/
def inflight (s : State) (p : Fin 4) : Nat :=
  (s.ports[p].reqs.filter fun r => !r.discard && (reqLink r.req).isSome).length

/-- The entries of home `k` in which head `p` may hold a line. -/
def headEntries (s : State) (k : Fin 8) (p : Nat) : List (Nat × SfEntry) :=
  s.spks[k].sf.filter fun e => (entryHeads e.2).getLsbD p

/-- The head holds no line, and no back-invalidate to it is open. -/
def headClear (s : State) (p : Fin 4) : Bool :=
  (List.finRange 8).all fun k =>
    (s.spks[k].sf.all fun e => !(entryHeads e.2).getLsbD p) && s.spks[k].snps.all fun n => n.head ≠ p || n.answer.isSome

/-- Every line the head holds is back-invalidated, subject to the hold (R52 step 3, R96). -/
def drainSend (p : Fin 4) (s : State) : State :=
  eachSpk (fun k t =>
    (t.spks[k].sf.filter fun e => (entryHeads e.2).getLsbD p).foldl (fun u e =>
      let asked := u.spks[k].snps.any fun n => n.sector = e.2.sector
      if inHold u k e.2 || asked then u
      else
        let ns := (List.finRange 4).flatMap fun j =>
          if (holders e.2 j).getLsbD p then [(⟨j.val, p.val, .inv⟩ : BiNeed)] else []
        sendBis k (.drain p) e.2 ns (sfPut k e.1 { e.2 with busy := true } u)) t) s

/-- Entries whose drain answers are all in: the head is gone from them. -/
def drainRecord (p : Fin 4) (s : State) : State :=
  eachSpk (fun k t =>
    let mine := t.spks[k].snps.filter fun n => n.owner = .drain p
    ((mine.map (·.sector)).eraseDups.filter fun x => mine.all fun n => n.sector ≠ x || n.answer.isSome).foldl
      (fun u x =>
        let u1 := updSpk k (fun q => { q with snps := q.snps.filter fun n => !(n.owner = .drain p && n.sector = x) }) u
        match sfFind u1.spks[k] x with
        | some (pl, e) => settle k (sfKeep k pl { clearHead e p with busy := false } u1)
        | none => u1) t) s

/-- A DRAINING port goes on: back-invalidates once nothing is in flight, and the end of the drain (R52, Table 2.7). -/
def drainStep (p : Fin 4) (s : State) : State :=
  if s.ports[p].state ≠ .draining || inflight s p ≠ 0 then s
  else
    let s1 := drainRecord p (drainSend p s)
    if headClear s1 p then
      queuedEnable p (endAccepted 6 2 0 (fun b => propField b 8 1 = p.val)
        (updPort p (fun q => { q with state := .drained, drainDone := true }) s1))
    else s1

/-! ## Acknowledgements -/

/-- A port in WAIT_OLD with no marked request acknowledges the invalidation; one whose home has returned its response counts
as completed (Table 3.7, R78). -/
def invAckStep (p : Fin 4) (s : State) : State :=
  let q := s.ports[p]
  if !q.invBusy || (q.reqs.any fun r => r.marked && r.stage ≠ .egress) then s
  else
    let a := s.gate.invAck ||| headBit p
    let s1 := updPort p (fun q => { q with invBusy := false }) s
    { s1 with gate := { s1.gate with invAck := a, invOpen := a ≠ 0xF } }

/-- A drain marker returns once the requests before it have completed (R118 step 6). -/
def markerStep (p : Fin 4) (s : State) : State :=
  let open_ := (List.range 16).any fun j => (qpAt s (16 * p.val + j)).taken.any (·.marker)
  if s.ports[p].keyMarker && !open_ && s.ports[p].reqs.all fun r => !r.marker then
    let s1 := updPort p (fun q => { q with keyMarker := false }) s
    { s1 with crypt := { s1.crypt with markers := s1.crypt.markers ||| headBit p } }
  else s

/-- What a completed request or a freed hold-buffer entry at a port lets go on. -/
def portSettle (p : Fin 4) (s : State) : State :=
  drainStep p (markerStep p (invAckStep p (ackConflicts p (pumpFreed p s))))

/-- The condition of ordered-class mode ends: the mode ends with it, unless an injection is armed or runs its course (R111). -/
def leaveOrdered (s : State) : State :=
  if s.fw.injecting || s.headers.toList.any fun h => h.armed ≠ 0 then { s with fw := { s.fw with injecting := true } }
  else setOrdered false s

/-- Every reissued request of a failover has completed: ordered-class mode ends, unless an injection is armed (R111,
R322). -/
def endReissue (s : State) : State :=
  if s.pair.promotion ≠ .reissue || s.pair.reissueOpen || s.ports.toList.any (fun p => p.reqs.any fun r => r.req.reissued)
  then s
  else
    leaveOrdered { s with pair := { s.pair with promotion := .idle } }

/-- No injection is armed, and those that fired have run their course: no request that an injected fault may have met is open
or has a response to leave, no flit sent with an inverted CRC is unacknowledged, and no HEARTBEAT is withheld (R450). -/
def injectionsOver (s : State) : Bool :=
  s.headers.toList.all (fun h => h.armed = 0) && s.ports.toList.all (fun p => p.egress.isEmpty && p.reqs.all fun r => !r.req.contained) &&
    s.til.replayBuf.all (fun f => !f.bad) && !s.pair.hbWithheld

/-- Germ ends the ordered-class mode that an injection asked for (R450). -/
def endInjection (s : State) : State :=
  if s.fw.injecting && injectionsOver s then
    let s1 := { s with fw := { s.fw with injecting := false } }
    if s1.pair.promotion = .idle && s1.bring.released then setOrdered false s1 else s1
  else s

def allSettle (s : State) : State := endInjection (endReissue (eachPort portSettle s))

/-! ## Link loss (R56, R104) -/

/-- IDE ends on a link and its keys are erased. -/
def endIde (l : Link) : Link := { l with ideIo := IdeStream.init, ideMem := IdeStream.init }

/-- Head `p` is gone: its open back-invalidates count as answered with no copy, its presence is cleared, and transactions
that waited on a hold for it alone go on (R104). -/
def headLost (p : Fin 4) (s : State) : State :=
  let s0 := updPort p (fun q => { q with bis := [] }) s
  eachSpk (fun k t =>
    let t1 := updSpk k (fun q => { q with snps := q.snps.map fun n =>
      if n.head = p.val && n.answer.isNone then { n with left := 0, answer := some .i } else n }) t
    let t2 := (t1.spks[k].sf.filter fun e => (entryHeads e.2).getLsbD p).foldl (fun u e =>
      sfKeep k e.1 (clearHead e.2 p) u) t1
    let t3 := (t2.spks[k].txns.map (·.tid)).foldl (fun u tid => dropNeed k tid (fun n => n.head = p.val) u) t2
    stepForwards k (afterAnswers k t3)) s0

/-- Requests of a link still in port ingress are discarded; those past stage 3 complete and their responses are discarded
(R56). DEDUCED: the requests are those of the link that was lost, and with PERST# those of every link (log entry 141). -/
def discardLink (p : Fin 4) (l : Option (Fin 4)) (s : State) : State :=
  let ours (r : OpenReq) : Bool := match reqLink r.req, l with
    | some x, some y => x = y.val
    | some _, none => true
    | none, _ => false
  updPort p (fun q => { q with
    reqs := (q.reqs.filter fun r => !(ours r && (r.stage = .ingress || r.stage = .hold || r.stage = .miss))).map fun r =>
      if ours r then { r with discard := true } else r
    stalled := match l with
      | some y => q.stalled &&& ~~~ headBit y
      | none => 0
    holdStalled := if q.reqs.any (fun r => ours r && r.stage = .hold) then 0
      else match l with
        | some y => q.holdStalled &&& ~~~ headBit y
        | none => 0 }) s

/-- A port that served, drained or had drained loses its head's copies (R56). -/
def wasUp (st : PortState) : Bool := st = .enabled || st = .draining || st = .drained

/-- One link goes down other than through Recovery: R56, then TRAINING (Table 2.7). -/
def takeLinkDown (p l : Fin 4) (s : State) : State :=
  let q := s.ports[p]
  if !q.links[l].up && !q.links[l].trained then s
  else
    let down (k : Link) : Link := { endIde k with
      up := false, trained := false, belowFloor := false, width := 0, speed := 0, flit256 := false, degraded := false,
      retraining := false, inL1 := false, good := 0 }
    let s1 := updLink p l down s
    if !wasUp q.state then raise (blkPort p) 0 Cap.none s1
    else
      let s2 := raise (blkPort p) 0 Cap.none (discardLink p (some l) s1)
      let s3 := if linkMode s p l = 1 || linkMode s p l = 2 then headLost p s2 else s2
      portSettle p (setPort p .training s3)

end Sys2Proof.Machine
end

