-- ==== Sys2Proof/Machine/PortCmds.lean ====
section
/-! DEFINITION. The commands of the host ports (chapter 2) and of the responses that leave them. -/

namespace Sys2Proof.Machine

/-! ## PERST# (R54 to R58, R373) -/

/-- The pairs of a port's LDs. -/
def disablePairs (p : Fin 4) (s : State) : State :=
  (List.range 16).foldl (fun t i =>
    let n := 16 * p.val + i
    if (qpAt t n).enable then qpDisable n false t else t) s

/-- What PERST# resets of a port (R55): AUTO_ENABLE takes its image value again. -/
def perstClear (p : Fin 4) (s : State) : State :=
  let s1 := updPort p (fun q => { q with
    links := Vector.replicate 4 Link.init, mbox := Vector.replicate 4 Mailbox.init, decs := [],
    enableQueued := false, stalled := 0, holdStalled := 0 }) s
  let auto := match s.img with
    | some i => bitsAt (i.portFlags.getD p 0) 1 1
    | none => 0
  let s2 := regSetField (offPortCtl p) 8 1 auto s1
  (List.range 64).foldl (fun t j => regSet (offDecMap p (j / 4) (j % 4)) 0 t) s2

def doPerstAssert (p : Fin 4) (s : State) : State :=
  if s.pins.perst[p] then s
  else
    let s0 := { s with pins := { s.pins with perst := updAt s.pins.perst p fun _ => true } }
    let up := wasUp s0.ports[p].state
    let s1 := raise (blkPort p) 3 Cap.none s0
    let s2 := if up then headLost p (discardLink p none s1) else s1
    let s3 := disablePairs p (perstClear p s2)
    syncCrossings (portSettle p (if s3.ports[p].state = .viral then s3 else setPort p .reset s3))

/-- PERST# of port `p` is held low for at least 10 µs (R54 to R56). A VIRAL port stays VIRAL (R58). The port's queues resynchronise
(R469). -/
def execPerstAssert (p : Fin 4) (s : State) : Host.Outcome State Fault Refusal := .next (doPerstAssert p s)

/-- A port whose PERST# counts as released leaves RESET (Table 2.7, R373); in recovery PORT_0 alone trains (R341). -/
def leaveReset (p : Fin 4) (s : State) : State :=
  if coreOn s && s.ports[p].state = .reset && !s.pins.perst[p] && portExists p s && (s.bring.infoValid || s.bring.recovery) then
    setPort p .training s
  else s

def doPerstRelease (p : Fin 4) (s : State) : State :=
  syncCrossings (leaveReset p { s with pins := { s.pins with perst := updAt s.pins.perst p fun _ => false } })

def execPerstRelease (p : Fin 4) (s : State) : Host.Outcome State Fault Refusal := .next (doPerstRelease p s)

/-! ## Links (R33 to R36, R56) -/

/-- A link error sets AER status bits, uncorrectable or correctable; no message is sent. Which bits is the standard's to say,
and is left free (Table 2.2, R28; log entry 143). -/
def noteAer (p l : Fin 4) (uncorrectable : Bool) (s : State) : State :=
  let bits := (Config.payload s.free).extractLsb' 0 32
  updLink p l (fun k => { k with cfg :=
    if uncorrectable then { k.cfg with aerUncorrectable := k.cfg.aerUncorrectable ||| bits }
    else { k.cfg with aerCorrectable := k.cfg.aerCorrectable ||| bits } }) { s with free := s.free + 1 }

/-- A link that the image uses may train at this setting: no wider and no faster than the image fixes, in a flit mode of
Table 2.2. -/
def trainable (s : State) (p l : Fin 4) (width speed : Nat) (flit256 : Bool) : Bool :=
  (linkMode s p l ≠ 0 || (s.bring.recovery && p = 0 && l = 0)) && width ≤ fixedWidth s p && 0 < width &&
    (speed ≤ maxSpeed s p l || (s.bring.recovery && speed ≤ 3)) && 0 < speed && (flit256 || speed ≤ 2)

def doLinkTrained (p l : Fin 4) (width speed : Nat) (flit256 : Bool) (s : State) : State :=
  if s.ports[p].state ≠ .training || !trainable s p l width speed flit256 then s
  else
    let ok := supported width speed
    let s1 := updLink p l (fun k => { k with
      up := true, trained := true, belowFloor := !ok, width := width, speed := speed, flit256 := flit256,
      degraded := decide (width < fixedWidth s p), retraining := false, good := width }) s
    leaveTraining p (if ok then s1 else raise (blkPort p) 2 Cap.none s1)

/-- Training of a link ends (R33, R34): the port may leave TRAINING. -/
def execLinkTrained (p l : Fin 4) (width speed : Nat) (flit256 : Bool) (s : State) :
    Host.Outcome State Fault Refusal := .next (doLinkTrained p l width speed flit256 s)

/-- The widest width of Table 2.1 at a link's speed that `good` lanes allow; 0 when there is none (R35). -/
def degradedWidth (good speed : Nat) : Nat :=
  if 16 ≤ good && supported 16 speed then 16 else if 8 ≤ good && supported 8 speed then 8
  else if 4 ≤ good && supported 4 speed then 4 else 0

def doLinkLaneLoss (p l : Fin 4) (good : Nat) (s : State) : State :=
  let k := s.ports[p].links[l]
  if !(k.up || k.retraining) || (if k.retraining then k.good else k.width) ≤ good then s
  else if degradedWidth good k.speed = 0 then takeLinkDown p l s
  else noteAer p l false (updLink p l (fun k => { k with
    up := false, retraining := true, recovery := satAdd 16 k.recovery 1, good := good }) s)

/-- A link loses lanes in service, `good` being left (R35): Recovery, or link loss when no supported width is left. -/
def execLinkLaneLoss (p l : Fin 4) (good : Nat) (s : State) : Host.Outcome State Fault Refusal :=
  .next (doLinkLaneLoss p l good s)

def doLinkRecoveryDone (p l : Fin 4) (width : Nat) (s : State) : State :=
  let k := s.ports[p].links[l]
  if !k.retraining || degradedWidth k.good k.speed ≠ width then s
  else
    sendUnsent p l (raise (blkPort p) 1 Cap.none (updLink p l (fun k => { k with
      up := true, retraining := false, width := width, degraded := decide (width < fixedWidth s p) }) s))

/-- The retrain of a link ends in L0, at the widest supported width that its good lanes allow (R35). -/
def execLinkRecoveryDone (p l : Fin 4) (width : Nat) (s : State) : Host.Outcome State Fault Refusal :=
  .next (doLinkRecoveryDone p l width s)

def doLinkDown (p l : Fin 4) (s : State) : State := takeLinkDown p l s

/-- A link leaves L0 other than through Recovery (R56). -/
def execLinkDown (p l : Fin 4) (s : State) : Host.Outcome State Fault Refusal := .next (doLinkDown p l s)

/-! ## IDE (R45 to R47) -/

/-- A request whose MAC did not verify is gone from its port and, if its home has not ordered it, from there. -/
def dropUnverified (p l : Fin 4) (tags : List Nat) (s : State) : State :=
  let bad (r : Req) : Bool := match r.src with
    | .host q k _ tag => q = p.val && k = l.val && tags.contains tag
    | _ => false
  let s1 := updPort p (fun q => { q with
    reqs := q.reqs.filter fun r => !(bad r.req &&
    (match r.stage with
      | .home k => (s.spks[spk8 k].inbox.any fun m => m.req.rid = r.req.rid) || q.creditWait.any fun m => m.req.rid = r.req.rid
      | .egress => false
      | _ => true))
    creditWait := q.creditWait.filter fun m => !bad m.req
    holdStalled := if q.reqs.any (fun r => bad r.req && r.stage = .hold) then 0 else q.holdStalled }) s
  eachSpk (fun k t => updSpk k (fun q => { q with inbox := q.inbox.filter fun m => !bad m.req }) t) s1

def doIdeIntegrityFailure (p l : Fin 4) (tags : List Nat) (s : State) : State :=
  let k := s.ports[p].links[l]
  if !k.up || !(k.ideIo.active || k.ideMem.active) then s
  else noteAer p l true (takeLinkDown p l (raise (blkPort p) 7 Cap.none (dropUnverified p l tags s)))

/-- An IDE MAC fails (R47): the link goes down as for link loss, and the unverified requests are discarded. -/
def execIdeIntegrityFailure (p l : Fin 4) (tags : List Nat) (s : State) : Host.Outcome State Fault Refusal :=
  .next (doIdeIntegrityFailure p l tags s)

def updIde (p l : Fin 4) (kind : IdeKind) (f : IdeStream → IdeStream) (s : State) : State :=
  updLink p l (fun k => match kind with
    | .io => { k with ideIo := f k.ideIo }
    | .mem => { k with ideMem := f k.ideMem }) s

/-- The stream of a link. -/
def ideOf (k : Link) : IdeKind → IdeStream
  | .io => k.ideIo
  | .mem => k.ideMem

/-- Germ programs a key that waits for K_SET_GO. -/
def serveKeyProg (p l : Fin 4) (kind : IdeKind) (key : BitVec 256) (s : State) : State :=
  if !s.ports[p].links[l].up then s
  else emit (.ideAck p l kind true) (updIde p l kind (fun i => { i with next := some key }) s)

/-- K_SET_GO puts the waiting key to use; the port may enable at once (R45, R46). -/
def serveSetGo (p l : Fin 4) (kind : IdeKind) (s : State) : State :=
  match (ideOf s.ports[p].links[l] kind).next with
  | none => emit (.ideAck p l kind false) s
  | some k =>
    queuedEnable p (emit (.ideAck p l kind true) (updIde p l kind (fun _ => ⟨true, k, none⟩) s))

/-- Germ serves a message at once, or once its restart ends (R24). -/
def askGerm (w : GermWait) (f : State → State) (s : State) : State :=
  if s.fw.germUp then f s else { s with fw := { s.fw with waits := s.fw.waits ++ [w] } }

def doIdeKmKeyProg (p l : Fin 4) (secured : Bool) (kind : IdeKind) (key : BitVec 256) (s : State) : State :=
  if !s.ports[p].links[l].up then s
  else if !secured then emit (.ideAck p l kind false) s
  else askGerm (.keyProg p l kind key) (serveKeyProg p l kind key) s

def execIdeKmKeyProg (p l : Fin 4) (secured : Bool) (kind : IdeKind) (key : BitVec 256) (s : State) :
    Host.Outcome State Fault Refusal := .next (doIdeKmKeyProg p l secured kind key s)

def doIdeKmKSetGo (p l : Fin 4) (secured : Bool) (kind : IdeKind) (s : State) : State :=
  if !s.ports[p].links[l].up then s
  else if !secured then emit (.ideAck p l kind false) s
  else askGerm (.setGo p l kind) (serveSetGo p l kind) s

def execIdeKmKSetGo (p l : Fin 4) (secured : Bool) (kind : IdeKind) (s : State) :
    Host.Outcome State Fault Refusal := .next (doIdeKmKSetGo p l secured kind s)

/-! ## PORT_CTL (R50 to R53, R57) -/

/-- ENABLE in each state of Table 2.7. -/
def enablePort (p : Fin 4) (s : State) : State :=
  let queue (t : State) : State := updPort p (fun q => { q with enableQueued := true }) t
  match s.ports[p].state with
  | .training => queue s
  | .drained => queuedEnable p (queue s)
  | .draining => queue s
  | _ => s

/-- DISABLE in each state of Table 2.7. -/
def disablePort (p : Fin 4) (s : State) : State :=
  match s.ports[p].state with
  | .enabled => drainStep p (updPort p (fun q => { q with state := .draining, drainStart := s.dtime }) s)
  | .draining => updPort p (fun q => { q with enableQueued := false }) s
  | _ => s

/-- A write of PORT_CTL; ENABLE and DISABLE together change nothing (R51). -/
def portCtl (m : Master) (p : Fin 4) (v : Word) (s : State) : State :=
  guardWrite m (offPortCtl p) (fun t =>
    if flag v 0 && flag v 1 then t
    else
      let t1 := regWrite .whole (offPortCtl p) v t
      if flag v 0 then enablePort p t1 else if flag v 1 then disablePort p t1 else t1) s

def doPortCtlEnable (m : Master) (p : Fin 4) (v : Word) (s : State) : State := portCtl m p (v ||| 1) s
def doPortCtlDisable (m : Master) (p : Fin 4) (v : Word) (s : State) : State := portCtl m p (v ||| 2) s

/-- A write of PORT_CTL with ENABLE 1. -/
def execPortCtlEnable (m : Master) (p : Fin 4) (v : Word) (s : State) : Host.Outcome State Fault Refusal :=
  .next (doPortCtlEnable m p v s)

/-- A write of PORT_CTL with DISABLE 1. -/
def execPortCtlDisable (m : Master) (p : Fin 4) (v : Word) (s : State) : Host.Outcome State Fault Refusal :=
  .next (doPortCtlDisable m p v s)

def doDrainTimeout (p : Fin 4) (s : State) : State :=
  let q := s.ports[p]
  if q.state ≠ .draining then s
  else
    let s1 := timeTo (q.drainStart + 100000 * regField s (offDrainCfg p) 0 16) s
    raise (blkPort p) 4 Cap.none s1

/-- A drain has lasted DRAIN_TIMEOUT: the cause is set and the drain goes on (R53). -/
def execDrainTimeout (p : Fin 4) (s : State) : Host.Outcome State Fault Refusal := .next (doDrainTimeout p s)

/-! ## Decoders (R38, R40, R60) -/

/-- The region that DEC_MAP names may be reached by the LD over its link (R38, R40). -/
def commitReach (s : State) (p : Fin 4) (ld : Nat) (r : Region) : Bool :=
  let t := 16 * p.val + ld
  if r.shared then headLdTag r p = some t && ldHdmDb s t else r.ownerLd = t

/-- R40. -/
def commitOk (s : State) (p : Fin 4) (ld : Fin 16) (d : Fin 4) (size ig iw : Nat) : Bool :=
  match regionNo s (regField s (offDecMap p ld d) 16 8) with
  | none => false
  | some r =>
    commitReach s p ld r && size = 2 ^ (r.size + r.aliasW) * iw && [1, 2, 4, 8, 16].contains iw &&
      regField s (offDecMap p ld d) 28 4 < iw && [256, 512, 1024, 2048, 4096, 8192, 16384].contains ig &&
      s.ports[p].decs.all fun e => e.1 = 4 * ld.val + d.val || !e.2.committed ||
        regField s (offDecMap p (e.1 / 4) (e.1 % 4)) 16 8 ≠ r.number || (e.2.ig = ig && e.2.iw = iw)

def decoderInit : Decoder := ⟨0, 0, 0, 0, false, false⟩

def setDec (p : Fin 4) (i : Nat) (d : Decoder) (s : State) : State :=
  updPort p (fun q => { q with decs := kset decoderInit q.decs i d }) s

def doDecoderCommit (p : Fin 4) (ld : Fin 16) (d : Fin 4) (base size ig iw : Nat) (s : State) : State :=
  let st := s.ports[p].state
  let i := 4 * ld.val + d.val
  let link := port4 (ldRec s (16 * p.val + ld.val)).link
  if st = .reset || !s.ports[p].links[link].up then s
  else if commitOk s p ld d size ig iw then setDec p i ⟨base, size, ig, iw, true, false⟩ s
  else raise (blkPort p) 6 Cap.none (setDec p i ⟨base, size, ig, iw, false, true⟩ s)

/-- Commit is set on decoder `d` of LD `ld` (R40). -/
def execDecoderCommit (p : Fin 4) (ld : Fin 16) (d : Fin 4) (base size ig iw : Nat) (s : State) :
    Host.Outcome State Fault Refusal := .next (doDecoderCommit p ld d base size ig iw s)

def doDecMapWrite (m : Master) (p : Fin 4) (ld : Fin 16) (d : Fin 4) (v : Word) (s : State) : State :=
  guardWrite m (offDecMap p ld d) (fun t =>
    if (kget decoderInit t.ports[p].decs (4 * ld.val + d.val)).committed then t
    else regWrite .whole (offDecMap p ld d) v t) s

/-- A write of DEC_MAP, ignored while the decoder is committed (R60). -/
def execDecMapWrite (m : Master) (p : Fin 4) (ld : Fin 16) (d : Fin 4) (v : Word) (s : State) :
    Host.Outcome State Fault Refusal := .next (doDecMapWrite m p ld d v s)

/-! ## Responses (R78, R252, R496) -/

/-- A response leaves egress for its link; the request no longer counts in INFLIGHT. One whose link was lost is discarded
(R56); one whose link is in Recovery stays (R35). -/
def doHomeResponse (p : Fin 4) (rid : Nat) (s : State) : State :=
  match s.ports[p].egress.find? (·.rid = rid), s.ports[p].reqs.find? (·.req.rid = rid) with
  | some r, some o =>
    match o.req.src with
    | .host _ l ld tag =>
      if s.ports[p].links[port4 l].retraining || s.pair.fenceIn then s
      else
        let s1 := dropReq p rid (updPort p (fun q => { q with egress := q.egress.erase r }) s)
        let s2 := if o.discard then s1
          else sendRsp p l ld tag r.kind r.data r.poison (max r.devLoad (poolFloor s p l)) s1
        endReissue (portSettle p s2)
    | _ => s
  | _, _ => s

def execHomeResponse (p : Fin 4) (rid : Nat) (s : State) : Host.Outcome State Fault Refusal :=
  .next (doHomeResponse p rid s)

/-- A BIRsp passes admission at once and counts as one line in the class of the key index that its address selects (R257). -/
def countBirsp (p : Fin 4) (bid : Nat) (s : State) : State :=
  match s.ports[p].bis.find? fun b => b.bid = bid && !b.unsent with
  | none => s
  | some b => match decodeHpa s p (b.ldTag % 16) b.hpa with
    | none => s
    | some (rg, aliasF, _) =>
      let cls := (slotCopy s p (if aliasF = 0 then defaultKey s b.ldTag rg else rg.keyBase + aliasF)).cls
      let s1 := pumpFreed p (rollWindow p s)
      updPort p (fun o => { o with counts := o.counts.set cls (o.counts.getD cls 0 + 1) }) s1

def doBirspPort (p : Fin 4) (bid : Nat) (r : BiRsp) (par : Parity) (s : State) : State :=
  allSettle (doBirsp p bid r par (countBirsp p bid s))

/-- A BIRsp arrives (R92, R94); a drain that waited for it goes on (R52). -/
def execBirsp (p : Fin 4) (bid : Nat) (rsp : BiRsp) (par : Parity) (s : State) : Host.Outcome State Fault Refusal :=
  .next (doBirspPort p bid rsp par s)

def doParkRetryResend (p : Fin 4) (rid : Nat) (s : State) : State :=
  match s.ports[p].retries.find? fun e => e.2.req.rid = rid with
  | none => s
  | some e =>
    let s1 := timeTo e.1 (updPort p (fun q => { q with retries := q.retries.erase e }) s)
    updSpk (spkOf e.2.mpa) (fun q => { q with inbox := q.inbox ++ [e.2] }) (ungate (domSpk (spkOf e.2.mpa)) s1)

/-- Two µs after a retry the port sends the request to its home again (R105). -/
def execParkRetryResend (p : Fin 4) (rid : Nat) (s : State) : Host.Outcome State Fault Refusal :=
  .next (doParkRetryResend p rid s)

/-! ## Home commands after which ports may go on: drains, acknowledgements, markers -/

/-- Messages reach the ordering point of home `k` in one home cycle (R87, R98). -/
def execHomeRequest (k : Fin 8) (n : Nat) (par : Parity) (s : State) : Host.Outcome State Fault Refusal :=
  .next (allSettle (doHomeRequest k n par s))

def execHoldEnd (k : Fin 8) (tid : Nat) (s : State) : Host.Outcome State Fault Refusal := .next (allSettle (doHoldEnd k tid s))

def execHomeMemoryDone (k : Fin 8) (tid : Nat) (noise : Image) (s : State) : Host.Outcome State Fault Refusal :=
  .next (allSettle (doHomeMemoryDone k tid noise s))

def execReencryptionDone (k : Fin 8) (base : Nat) (s : State) : Host.Outcome State Fault Refusal :=
  .next (allSettle (doReencryptionDone k base s))

def execPageRelease (m : Master) (k : Fin 8) (v : Word) (s : State) : Host.Outcome State Fault Refusal :=
  .next (allSettle (doPageRelease m k v s))

/-- The next admission window starts. -/
def execAdmissionWindow (s : State) : Host.Outcome State Fault Refusal := .next (allSettle (doAdmissionWindow s))

end Sys2Proof.Machine
end

