-- ==== Sys2Proof/Machine/Bring.lean ====
section
/-! DEFINITION. Bring-up as other chapters meet it: its failure (R378) and the end of steps 4 and 5 (R370). -/

namespace Sys2Proof.Machine

/-- FAIL_CAUSE (Table 14.5). -/
def failChannel : Nat := 2
def failEntropy : Nat := 3
def failSupply : Nat := 4

/-- CHANNEL_FAILED (Table 14.5). -/
def channelsFailed (s : State) : BitVec 16 :=
  (List.finRange 16).foldl (fun v x => if s.mcs[x].state = .failed then v ||| BitVec.ofNat 16 (1 <<< x.val) else v) 0

/-- Bring-up fails: the device is never released, Media Status is Error, and Germ serves the mailbox (R378). -/
def bringupFail (cause : Nat) (s : State) : State :=
  if s.bring.released || s.bring.step = 11 then s
  else { s with bring := { s.bring with
    step := 11, failCause := cause, failed := channelsFailed s, mediaError := true, mboxReady := true } }

/-- An output is in regulation: in ON or LIMIT and at or above the floor, UV_MV − 1,000 mV (R388). -/
def inReg (s : State) (o : Fin 4) : Bool :=
  (s.husk.outs[o].state = .on || s.husk.outs[o].state = .limit) && s.husk.outs[o].aboveFloor

/-- OUT_ENABLE of the running image (Table 13.9). -/
def outEnabled (s : State) (o : Fin 4) : Bool :=
  match s.img with
  | none => false
  | some i => i.outEnable.testBit o.val

/-- Every enabled output is in regulation. -/
def allInReg (s : State) : Bool := (List.finRange 4).all fun o => !outEnabled s o || inReg s o

/-- Once every enabled output regulates, each channel in SPD enables its DIMMs' PMICs (R203, R372). -/
def enablePmics (s : State) : State :=
  if !allInReg s then s
  else eachMc (fun x t =>
    if t.mcs[x].state = .spd && t.mcs[x].pmicAt.isNone then
      emit (.pmicEnable x) (updMc x (fun m => { m with pmicAt := some t.dtime }) t)
    else t) s

/-- What a channel's progress lets bring-up do: step 4 ends when every channel has left SPD, step 5 when every channel is
ACTIVE, and bring-up fails when all have ended and one is FAILED (R370, R378). In a warm resume the channels' checks end
step 3 of R379. -/
def channelsMoved (s : State) : State :=
  let all (p : McState → Bool) : Bool := s.mcs.toList.all fun m => p m.state
  let set (n : Nat) (t : State) : State := { t with bring := { t.bring with step := n } }
  if s.bring.step = 4 || s.bring.step = 5 || s.bring.step = 13 then
    if all (fun c => c = .active || c = .failed) && s.mcs.toList.any fun m => m.state = .failed then
      bringupFail failChannel s
    else if s.bring.step = 13 then s
    else if all (· = .active) then set 6 s
    else if s.bring.step = 4 && all fun c => c = .training || c = .active || c = .failed then set 5 s
    else s
  else s

end Sys2Proof.Machine
end

