-- ==== Sys2Proof/Machine/Husk.lean ====
section
/-! DEFINITION. The husk die (chapter 15): feeds, insertion delay, the four outputs and their protection, what a lost output
brings about (R395, R396), and the power-fail warning (R397). -/

namespace Sys2Proof.Machine

/-! ## Settings -/

def uvMv (s : State) : Nat := regField s offFeedCfg 48 16
def ovMv (s : State) : Nat := regField s offFeedCfg 32 16
def pfwMv (s : State) : Nat := regField s offFeedCfg 16 16
def insertNs (s : State) : Nat := 1000000 * regField s offHuskTiming 48 16
def cooldownNs (s : State) : Nat := 1000000 * regField s offHuskTiming 32 16

/-- The regulation floor (R388). -/
def floorMv (s : State) : Nat := uvMv s - 1000

def setHusk (f : Husk → Husk) (s : State) : State := { s with husk := f s.husk }

/-! ## Feeds (R384 to R386) -/

def updFeed (b : Fin 2) (f : Feed → Feed) (s : State) : State := setHusk (fun h => { h with feeds := updAt h.feeds b f }) s

/-- A qualified feed conducts when it is the higher source. It is off when VIN_OR stands more than 20 mV above it, and one that
conducted sets REVERSE then (R386). -/
def judgeOr (s : State) : State :=
  let back (f : Feed) : Bool := f.orOn && f.qualified && f.mv + 20 < s.husk.vinOr
  let s1 := if s.husk.feeds.toList.any back then raise blkHusk 4 Cap.none s else s
  setHusk (fun h => { h with feeds := h.feeds.map fun f =>
    if !f.qualified || f.mv + 20 < h.vinOr then { f with orOn := false }
    else if h.vinOr ≤ f.mv then { f with orOn := true } else f }) s1

def setVin (mv : Nat) (s : State) : State := judgeOr (setHusk (fun h => { h with vinOr := mv }) s)

/-- A feed has stayed in its window for 1 ms: it counts, and starts the insertion delay where R385 says so. -/
def doFeedQualify (b : Fin 2) (mv : Nat) (s : State) : State :=
  if s.husk.feeds[b].qualified || mv < uvMv s || ovMv s < mv then s
  else
    let s1 := updFeed b (fun f => { f with qualified := true, mv := mv }) s
    let start := s.husk.inputLost || s.husk.insertAt.isNone
    let s2 := if start then setHusk (fun h => { h with insertAt := some s.dtime, insertDone := false, inputLost := false }) s1
      else s1
    setVin (max s2.husk.vinOr mv) s2

def execFeedQualify (b : Fin 2) (mv : Nat) (s : State) : Host.Outcome State Fault Refusal := .next (doFeedQualify b mv s)

/-- A feed loses its qualification: FEED_A_LOST or FEED_B_LOST. -/
def feedLost (b : Fin 2) (mv : Nat) (s : State) : State :=
  raise blkHusk (1 + b.val) Cap.none (updFeed b (fun f => { f with qualified := false, orOn := false, mv := mv }) s)

def doFeedUnderVoltage (b : Fin 2) (mv : Nat) (s : State) : State :=
  if s.husk.feeds[b].qualified && mv < uvMv s then feedLost b mv s else s

/-- A qualified feed has stayed below UV_MV for 10 µs (R384). -/
def execFeedUnderVoltage (b : Fin 2) (mv : Nat) (s : State) : Host.Outcome State Fault Refusal :=
  .next (doFeedUnderVoltage b mv s)

def doFeedOverVoltage (b : Fin 2) (mv : Nat) (s : State) : State :=
  if s.husk.feeds[b].qualified && ovMv s < mv then raise blkHusk 3 Cap.none (feedLost b mv s) else s

/-- A feed exceeds OV_MV (R384, R386). -/
def execFeedOverVoltage (b : Fin 2) (mv : Nat) (s : State) : Host.Outcome State Fault Refusal :=
  .next (doFeedOverVoltage b mv s)

def doReverseCurrent (b : Fin 2) (mv : Nat) (s : State) : State :=
  if s.husk.feeds[b].orOn && mv + 20 < s.husk.vinOr then
    raise blkHusk 4 Cap.none (updFeed b (fun f => { f with orOn := false, mv := mv }) s)
  else s

/-- VIN_OR exceeds a feed by more than 20 mV: its ORing FET turns off (R386). -/
def execReverseCurrent (b : Fin 2) (mv : Nat) (s : State) : Host.Outcome State Fault Refusal := .next (doReverseCurrent b mv s)

/-! ## An output leaves regulation (R395, R396) -/

/-- REST and STOOK are held. -/
def resting (s : State) : Bool := s.pwr.state = .rest || s.pwr.state = .stook

/-- An enabled output has left regulation other than by an OFF command: bring-up fails, the domain goes down, or under the
watch its bit of HUSK_SEAL is set. -/
def regLost (o : Fin 4) (s : State) : State :=
  if !outEnabled s o then s
  else
    let s1 := raise blkHusk 12 Cap.none s
    let s2 := if s1.husk.watch && s1.husk.outs[o].commanded then regSetField offHuskSeal (4 + o) 1 1 s1 else s1
    if resting s2 then s2
    else if s2.bring.released then goDown s2
    else bringupFail failSupply s2

/-- A passing output: the gate may be on. -/
def running (x : OutState) : Bool := x = .ramp || x = .enhance || x = .on || x = .limit

/-- An output leaves its state by a fault: COOLDOWN or FET_FAULT, the cause, and what the loss of regulation brings about
(Table 15.3). -/
def trip (o : Fin 4) (to_ : OutState) (cause last : Nat) (s : State) : State :=
  let was := inReg s o
  let s1 := raise blkHusk cause Cap.none (updOut o (fun x => { x with
    state := to_, enteredAt := s.dtime, timer := 0, aboveFloor := false, lastTrip := last, onPending := false,
    outputLow := false, coolNs := cooldownNs s, tripCount := satAdd 48 x.tripCount 1 }) s)
  if was then regLost o s1 else s1

def outState (s : State) (o : Fin 4) : OutState := s.husk.outs[o].state

def doInputLost (mv : Nat) (s : State) : State :=
  if 6000 ≤ mv then s
  else
    let s1 := setVin mv (setHusk (fun h => { h with inputLost := true }) s)
    (List.finRange 4).foldl (fun t o =>
      if running (outState t o) then
        let was := inReg t o
        let t1 := updOut o (fun x => { x with
          state := .discharge, onPending := true, enteredAt := t.dtime, timer := 0, aboveFloor := false }) t
        if was then regLost o t1 else t1
      else t) s1

/-- VIN_OR has stayed below 6.0 V for 10 µs (R385). -/
def execInputLost (mv : Nat) (s : State) : Host.Outcome State Fault Refusal := .next (doInputLost mv s)

def doInsertionDelayEnd (s : State) : State :=
  match s.husk.insertAt with
  | some t => if s.husk.insertDone then s
      else setHusk (fun h => { h with insertDone := true }) (timeTo (t + insertNs s) s)
  | none => s

/-- INSERT_MS has passed (R385). -/
def execInsertionDelayEnd (s : State) : Host.Outcome State Fault Refusal := .next (doInsertionDelayEnd s)

/-! ## Commands to an output (Table 15.3) -/

def offHuskOutCtl : Nat := 0x390118

/-- The husk die takes an ON command. -/
def commandOn (o : Fin 4) (s : State) : State :=
  let s0 := setHusk (fun h => { h with linkLost := false }) (emit (.husk o true) s)
  let pend (t : State) : State := updOut o (fun x => { x with onPending := true, commanded := true }) t
  match outState s0 o with
  | .off =>
    if !outEnabled s0 o then raise blkHusk 13 Cap.none s0
    else updOut o (fun x => { x with state := .wait, enteredAt := s0.dtime }) (pend s0)
  | .discharge => if !outEnabled s0 o then raise blkHusk 13 Cap.none s0 else pend s0
  | .cooldown => pend s0
  | _ => s0

/-- The husk die takes an OFF command. -/
def commandOff (o : Fin 4) (s : State) : State :=
  let s0 := setHusk (fun h => { h with linkLost := false }) (emit (.husk o false) s)
  let st := outState s0 o
  if running st || st = .wait then
    updOut o (fun x => { x with
      state := .discharge, onPending := false, commanded := false, enteredAt := s0.dtime, timer := 0, aboveFloor := false }) s0
  else if st = .cooldown then updOut o (fun x => { x with onPending := false, commanded := false }) s0
  else s0

def doOutputOn (m : Master) (o : Fin 4) (s : State) : State := guardWrite m offHuskOutCtl (commandOn o) s
def execOutputOn (m : Master) (o : Fin 4) (s : State) : Host.Outcome State Fault Refusal := .next (doOutputOn m o s)

def doOutputOff (m : Master) (o : Fin 4) (s : State) : State := guardWrite m offHuskOutCtl (commandOff o) s
def execOutputOff (m : Master) (o : Fin 4) (s : State) : Host.Outcome State Fault Refusal := .next (doOutputOff m o s)

/-! ## The ramp (R388, R394) -/

def rampIlimit (s : State) (o : Fin 4) : Nat := regField s (offOutLimit o) 32 16
def rampFault (s : State) (o : Fin 4) : Nat := regField s (offOutLimit o) 0 16
def rampCurve (s : State) (o : Fin 4) : List (Nat × Nat) :=
  (List.range 8).map fun k => (regField s (offCurve o k) 0 16, regField s (offCurve o k) 32 24)

/-- Currents strictly rise, times strictly fall, and the last current is within the limit (Table 13.9). -/
def curveRises : List (Nat × Nat) → Bool
  | a :: b :: r => a.1 < b.1 && b.2 < a.2 && curveRises (b :: r)
  | _ => true

def curveValid (ilimit : Nat) (c : List (Nat × Nat)) : Bool :=
  curveRises c && ((c.getLast?.map (·.1)).getD 0) ≤ ilimit

def feedQualified (s : State) : Bool := s.husk.feeds.toList.any (·.qualified)

def doOutputRampStart (o : Fin 4) (s : State) : State :=
  if outState s o ≠ .wait || !feedQualified s || !s.husk.insertDone then s
  else if curveValid (rampIlimit s o) (rampCurve s o) then
    updOut o (fun x => { x with
      state := .ramp, onPending := false, ilimit := rampIlimit s o, faultUs := rampFault s o, curve := rampCurve s o,
      counters := [0, 0, 0, 0, 0, 0, 0, 0], timer := 0, enteredAt := s.dtime, rampAt := s.dtime, aboveFloor := false }) s
  else raise blkHusk 13 Cap.none (updOut o (fun x => { x with
    state := .off, onPending := false, commanded := false, enteredAt := s.dtime }) s)

/-- A WAIT output takes its limits and ramps, or its curve refuses the ramp (R394). -/
def execOutputRampStart (o : Fin 4) (s : State) : Host.Outcome State Fault Refusal := .next (doOutputRampStart o s)

def doRampDone (o : Fin 4) (mv : Nat) (s : State) : State :=
  if outState s o = .ramp && s.husk.vinOr ≤ mv + 500 then
    updOut o (fun x => { x with state := .enhance, vout := mv, enteredAt := s.dtime }) s
  else s

/-- The output has come within 0.5 V of VIN_OR. -/
def execRampDone (o : Fin 4) (mv : Nat) (s : State) : Host.Outcome State Fault Refusal := .next (doRampDone o mv s)

def doEnhanceDone (o : Fin 4) (s : State) : State :=
  if outState s o = .enhance then
    enablePmics (updOut o (fun x => { x with
      state := if x.timer = 0 then .on else .limit, enteredAt := s.dtime, aboveFloor := decide (floorMv s ≤ x.vout) }) s)
  else s

/-- VGS has reached 8 V; an output that holds its current at the limit is in LIMIT at once (R387, R390). -/
def execEnhanceDone (o : Fin 4) (s : State) : Host.Outcome State Fault Refusal := .next (doEnhanceDone o s)

/-! ## Protection (R389 to R392) -/

def doCurrentLimit (o : Fin 4) (ma : Nat) (s : State) : State :=
  let x := s.husk.outs[o]
  if ma < x.ilimit then s
  else match x.state with
    | .on => updOut o (fun y => { y with state := .limit, enteredAt := s.dtime, timer := s.dtime + 1, current := ma }) s
    | .ramp => updOut o (fun y => { y with timer := if y.timer = 0 then s.dtime + 1 else y.timer, current := ma }) s
    | .enhance => updOut o (fun y => { y with timer := if y.timer = 0 then s.dtime + 1 else y.timer, current := ma }) s
    | _ => s

/-- The current reaches ILIMIT: it is held there and the fault timer runs (R390). -/
def execCurrentLimit (o : Fin 4) (ma : Nat) (s : State) : Host.Outcome State Fault Refusal := .next (doCurrentLimit o ma s)

def doLimitClear (o : Fin 4) (ma : Nat) (s : State) : State :=
  let x := s.husk.outs[o]
  if x.ilimit ≤ ma + 1000 then s
  else match x.state with
    | .limit => updOut o (fun y => { y with state := .on, enteredAt := s.dtime, timer := 0, current := ma }) s
    | .ramp => updOut o (fun y => { y with timer := 0, current := ma }) s
    | .enhance => updOut o (fun y => { y with timer := 0, current := ma }) s
    | _ => s

/-- The current has stayed below ILIMIT − 1 A for 10 µs. -/
def execLimitClear (o : Fin 4) (ma : Nat) (s : State) : Host.Outcome State Fault Refusal := .next (doLimitClear o ma s)

def doFastTrip (o : Fin 4) (ma : Nat) (s : State) : State :=
  if running (outState s o) && 30000 ≤ ma then trip o .cooldown 8 3 (updOut o (fun x => { x with current := ma }) s) else s

/-- The current reaches 30 A (R391). -/
def execFastTrip (o : Fin 4) (ma : Nat) (s : State) : Host.Outcome State Fault Refusal := .next (doFastTrip o ma s)

def doFaultTimer (o : Fin 4) (s : State) : State :=
  let x := s.husk.outs[o]
  if running x.state && x.timer ≠ 0 then trip o .cooldown 7 2 (timeTo (x.timer - 1 + 1000 * x.faultUs) s) else s

/-- The fault timer reaches FAULT_US (R390). -/
def execFaultTimer (o : Fin 4) (s : State) : Host.Outcome State Fault Refusal := .next (doFaultTimer o s)

/-- The lowest curve point whose counter has reached its time. -/
def curveHit (x : Output) : Option Nat :=
  (List.range 8).find? fun k => (x.curve.getD k (0, 2 ^ 24)).2 ≤ x.counters.getD k 0

def doCurveTrip (o : Fin 4) (s : State) : State :=
  let x := s.husk.outs[o]
  if x.state ≠ .on then s
  else match curveHit x with
    | some k => trip o .cooldown 6 1 (updOut o (fun y => { y with lastPoint := k }) s)
    | none => s

/-- A curve counter has reached its time (R389). -/
def execCurveTrip (o : Fin 4) (s : State) : Host.Outcome State Fault Refusal := .next (doCurveTrip o s)

/-- One comparison of an output's current with its curve: the counters run in ON (R389). -/
def sampleCurve (o : Fin 4) (ma : Nat) (s : State) : State :=
  updOut o (fun x =>
    let y := { x with current := ma }
    if x.state ≠ .on then y
    else { y with counters := (List.range 8).map fun k =>
      let c := x.counters.getD k 0
      if (x.curve.getD k (0, 0)).1 ≤ ma then c + 1 else c - 1 }) s

/-- Every 1 µs each output's current meets its curve (R389). -/
def execBreakerCurveSample (c0 c1 c2 c3 : Nat) (s : State) : Host.Outcome State Fault Refusal :=
  .next (sampleCurve 3 c3 (sampleCurve 2 c2 (sampleCurve 1 c1 (sampleCurve 0 c0 s))))

def doRampTimeout (o : Fin 4) (s : State) : State :=
  let x := s.husk.outs[o]
  if x.state = .ramp then trip o .cooldown 9 4 (timeTo (x.enteredAt + 50000000) s) else s

/-- An output has been 50 ms in RAMP. -/
def execRampTimeout (o : Fin 4) (s : State) : Host.Outcome State Fault Refusal := .next (doRampTimeout o s)

/-- A damaged FET of an enabled output is one that does not reach regulation (R395). -/
def fetFault (o : Fin 4) (cause last : Nat) (s : State) : State :=
  let s1 := trip o .fetFault cause last s
  if outEnabled s1 o then bringupFail failSupply s1 else s1

def doFetOpen (o : Fin 4) (s : State) : State :=
  let x := s.husk.outs[o]
  match x.state with
  | .enhance => fetFault o 10 5 (timeTo (x.enteredAt + 2000000) s)
  | .on => fetFault o 10 5 s
  | _ => s

/-- VGS does not reach 8 V, or does not stay there, for 2 ms (R392). -/
def execFetOpen (o : Fin 4) (s : State) : Host.Outcome State Fault Refusal := .next (doFetOpen o s)

def doFetShort (o : Fin 4) (s : State) : State :=
  let x := s.husk.outs[o]
  match x.state with
  | .off => fetFault o 11 6 s
  | .wait => fetFault o 11 6 s
  | .cooldown => fetFault o 11 6 (if x.outputLow then s else timeTo (x.enteredAt + 200000000) s)
  | .discharge => fetFault o 11 6 (timeTo (x.enteredAt + 200000000) s)
  | _ => s

/-- The output stays above 1.0 V when it should be off: for 5 ms in OFF, in WAIT, or in COOLDOWN once it has been low, or for 200 ms
from the entry to DISCHARGE or COOLDOWN (R392). -/
def execFetShort (o : Fin 4) (s : State) : Host.Outcome State Fault Refusal := .next (doFetShort o s)

/-! ## Falling and cooling -/

/-- WAIT if an ON command is pending, else OFF. -/
def afterOff (o : Fin 4) (mv : Nat) (s : State) : State :=
  updOut o (fun x => { x with state := if x.onPending then .wait else .off, vout := mv, enteredAt := s.dtime }) s

def doOutputDischarged (o : Fin 4) (mv : Nat) (s : State) : State :=
  if 1000 ≤ mv then s
  else match outState s o with
    | .discharge => afterOff o mv s
    | .cooldown => updOut o (fun x => { x with vout := mv, outputLow := true }) s
    | _ => s

/-- The output falls below 1.0 V. -/
def execOutputDischarged (o : Fin 4) (mv : Nat) (s : State) : Host.Outcome State Fault Refusal :=
  .next (doOutputDischarged o mv s)

def doCooldownEnd (o : Fin 4) (mv : Nat) (s : State) : State :=
  let x := s.husk.outs[o]
  if x.state = .cooldown && mv < 1000 then afterOff o mv (timeTo (x.enteredAt + x.coolNs) s) else s

/-- The cool-down has ended with the output below 1.0 V (R394). -/
def execCooldownEnd (o : Fin 4) (mv : Nat) (s : State) : Host.Outcome State Fault Refusal := .next (doCooldownEnd o mv s)

/-! ## Regulation -/

def doRegulationFloorCrossed (o : Fin 4) (mv : Nat) (s : State) : State :=
  let x := s.husk.outs[o]
  if x.state ≠ .on && x.state ≠ .limit then s
  else
    let above := decide (floorMv s ≤ mv)
    let s1 := updOut o (fun y => { y with vout := mv, aboveFloor := above }) s
    if x.aboveFloor && !above then regLost o s1 else enablePmics s1

/-- The voltage of an output in ON or LIMIT crosses the regulation floor (R388, R395). -/
def execRegulationFloorCrossed (o : Fin 4) (mv : Nat) (s : State) : Host.Outcome State Fault Refusal :=
  .next (doRegulationFloorCrossed o mv s)

def doOutputRegulationTimeout (o : Fin 4) (s : State) : State :=
  let x := s.husk.outs[o]
  if outEnabled s o && !inReg s o && !s.bring.released && s.bring.step ≠ 11 && s.bring.step ≠ 10 && x.rampAt ≠ 0 then
    bringupFail failSupply (timeTo (x.rampAt + 100000000) s)
  else s

/-- An enabled output has not reached regulation within 100 ms of its gate rising (R378). -/
def execOutputRegulationTimeout (o : Fin 4) (s : State) : Host.Outcome State Fault Refusal :=
  .next (doOutputRegulationTimeout o s)

/-! ## The watch, the link, the warning (R12, R396, R397) -/

/-- ARM clears REG_LOST and starts the watch (R396). -/
def armWatch (s : State) : State := setHusk (fun h => { h with watch := true }) (regSetField offHuskSeal 4 4 0 s)

def doHuskSealArm (m : Master) (v : Word) (s : State) : State :=
  guardWrite m offHuskSeal (fun t => if flag v 0 then armWatch t else regWrite .whole offHuskSeal v t) s

/-- A write of HUSK_SEAL (Table 15.12): ARM clears REG_LOST and starts the watch; without it the write sets REG_LOST (R7). -/
def execHuskSealArm (m : Master) (v : Word) (s : State) : Host.Outcome State Fault Refusal := .next (doHuskSealArm m v s)

def doHuskLinkLost (s : State) : State := raise blkHusk 14 Cap.none (setHusk (fun h => { h with linkLost := true }) s)

/-- No husk-link frame for 1 ms: the outputs are kept (R12). -/
def execHuskLinkLost (s : State) : Host.Outcome State Fault Refusal := .next (doHuskLinkLost s)

def doPfwAssert (mv : Nat) (s : State) : State :=
  if pfwMv s ≤ mv || s.husk.pfwDrive then s
  else
    let s1 := setVin mv (setHusk (fun h => { h with pfwDrive := true }) s)
    raise blkHusk 5 Cap.none { s1 with pins := { s1.pins with pfwLow := true } }

/-- VIN_OR has stayed below PFW_MV for more than 2 µs (R397). -/
def execPfwAssert (mv : Nat) (s : State) : Host.Outcome State Fault Refusal := .next (doPfwAssert mv s)

def doPfwRelease (mv : Nat) (s : State) : State :=
  if mv < pfwMv s + 200 then s else setVin mv (setHusk (fun h => { h with pfwDrive := false }) s)

/-- VIN_OR has stayed at or above PFW_MV + 200 mV for 10 ms (R397). -/
def execPfwRelease (mv : Nat) (s : State) : Host.Outcome State Fault Refusal := .next (doPfwRelease mv s)

end Sys2Proof.Machine
end

