-- ==== Sys2Proof/Machine/Keys.lean ====
section
/-! DEFINITION. Key slots, the load port (R115 to R122), the Zaloux key message (R123) and the DOE instances (R43, R44). -/

namespace Sys2Proof.Machine

/-! ## Slots -/

/-- An EMPTY slot (R115, R116): KEY and H zero. DESIGN CHOICE: its class and mask are zero too, which Table 5.2 and R118 step 6
leave open (log entry 144). -/
def emptySlot : KeySlot := ⟨0, 0, 0, 0, .empty⟩

def slotAt (s : State) (i : Nat) : KeySlot := kget emptySlot s.crypt.slots i

def setSlot (i : Nat) (k : KeySlot) (s : State) : State :=
  { s with crypt := { s.crypt with slots := kset emptySlot s.crypt.slots i k } }

/-- The four port copies of a slot: its LOADED bit, its class and each port's part of the mask (R117). -/
def setCopies (i : Nat) (loaded : Bool) (cls : Nat) (mask : Word) (s : State) : State :=
  (List.range 4).foldl (fun t p =>
    let c : SlotCopy := if loaded then ⟨true, cls, mask.extractLsb' (16 * p) 16⟩ else ⟨false, 0, 0⟩
    { t with crypt := { t.crypt with copies := kset ⟨false, 0, 0⟩ t.crypt.copies (4096 * p + i) c } }) s

/-- A slot takes a key, with its subkey, class and mask; the copies are written (R118 step 5). -/
def loadSlot (i : Nat) (key : BitVec 256) (cls : Nat) (mask : Word) (s : State) : State :=
  setSlot i ⟨key, subkey key, cls, mask, .loaded⟩ (setCopies i true cls mask s)

/-- LOAD_GEN: 256 bits from the generator straight into the slot (R121). -/
def genSlot (i cls : Nat) (mask : Word) (s : State) : State :=
  let (k, s1) := drawBits s
  loadSlot i k cls mask s1

/-- The data key of a delivered key K_h under the salt S (R122). -/
def deliveredKey (salt : BitVec 128) (kh : BitVec 256) : BitVec 256 :=
  aes kh (salt &&& ~~~ 1) ++ aes kh (salt ||| 1)

/-- The key in CRY_KEY_IN: byte 8n in bits [7:0] of word n (Table 5.15). -/
def keyInValue (s : State) : BitVec 256 :=
  BitVec.ofNat 256 (bytesToNatBE (s.crypt.keyIn.toList.flatMap fun w => natToBytes 8 w.toNat))

/-! ## The load port (R118) -/

/-- The command ends: DONE or REFUSED, and CRY_KEY_IN is cleared (R118 step 7). -/
def slotEnd (reason : Nat) (s : State) : State :=
  let s1 := { s with crypt := { s.crypt with
    busy := false, done := reason = 0, refused := reason ≠ 0, reason := reason, keyIn := Vector.replicate 4 0 } }
  if reason = 0 then s1 else raise blkCrypt 2 Cap.none s1

def subMask (a b : Word) : Bool := a &&& ~~~ b = 0

/-- The checks of R118 step 4, as the REASON of Table 5.16. `op` is 1 LOAD_GEN, 2 LOAD_KEY, 3 SET_POLICY, 4 RETIRE. -/
def slotReason (s : State) (op i : Nat) (mask : Word) : Nat :=
  let k := slotAt s i
  let r := keyRec s i
  let want : SlotState := if op = 1 || op = 2 then .empty else .loaded
  if k.state ≠ want then 1
  else if (op = 1 && r.host) || (op = 2 && !r.host) then 2
  else if op ≠ 4 && !subMask mask r.allowed then 3
  else if op = 2 && keyInValue s = 0 then 4
  else 0

/-- The request is a command of the command queues. -/
def isCq : Src → Bool
  | .cq _ _ _ => true
  | _ => false

/-- Requests that a port admitted before the clear carry its drain marker, a command-queue operation as a whole (R118
step 6, R433). DEDUCED: a host's request or a mirror write in the hold buffer has passed the key check, is never failed (R259),
and is drained as well (log entry 93). -/
def sendMarkers (s : State) : State :=
  let s1 := (List.range 64).foldl (fun t n => updQp n (fun q => { q with
    taken := q.taken.map fun t => { t with marker := t.marker || t.admitted } }) t) s
  eachPort markerStep (eachPort (fun p t => updPort p (fun q => { q with
    keyMarker := true
    reqs := q.reqs.map fun r =>
      if (r.stage = .ingress && !r.passed) || (r.stage = .hold && isCq r.req.src) then r else { r with marker := true } }) t)
    { s1 with crypt := { s1.crypt with markers := 0 } })

/-- A command on slot `i` with the class and mask of CRY_SLOT_POLICY and CRY_SLOT_MASK. -/
def slotRun (op i : Nat) (s : State) : State :=
  let cls := regField s offSlotPolicy 0 3
  let mask := regGet s offSlotMask
  let s0 := { s with crypt := { s.crypt with done := false, refused := false, reason := 0 } }
  match op with
  | 5 =>
    let k := slotAt s i
    let st := match k.state with | .empty => 0 | .loaded => 1 | .retiring => 2
    slotEnd 0 { s0 with crypt := { s0.crypt with
      info := place 32 i ||| place 7 (bit (keyRec s i).host) ||| place 5 st ||| place 0 k.cls, infoMask := k.mask } }
  | _ =>
    if op = 0 || 5 < op then slotEnd 5 s0
    else
      let r := slotReason s0 op i mask
      if r ≠ 0 then slotEnd r s0
      else match op with
        | 1 => slotEnd 0 (genSlot i cls mask s0)
        | 2 => slotEnd 0 (loadSlot i (deliveredKey s0.crypt.salt (keyInValue s0)) cls mask s0)
        | 3 => slotEnd 0 (setSlot i { slotAt s0 i with cls := cls, mask := mask } (setCopies i true cls mask s0))
        | _ =>
          let s1 := setCopies i false 0 0 (setSlot i { slotAt s0 i with state := .retiring } s0)
          sendMarkers { s1 with crypt := { s1.crypt with
            busy := true, openSlot := i, goTime := s1.dtime, timedOut := false } }

/-- Germ writes a slot's policy and mask, where the command takes them, and starts it (R118 steps 1 to 3). -/
def germSlot (op i cls : Nat) (mask : Word) (s : State) : State :=
  let s1 := if op = 4 || op = 5 then s else regSet offSlotMask mask (regSet offSlotPolicy (BitVec.ofNat 64 cls) s)
  slotRun op i (regSet offSlotCmd (place 60 op ||| place 32 i) s1)

/-- A write of CRY_SLOT_CMD with GO: ignored as a command while one is open (Table 5.12). A Germ that restarts writes nothing
(R24). -/
def slotCmd (m : Master) (op i : Nat) (s : State) : State :=
  if m = .germ && !s.fw.germUp then s
  else guardWrite m offSlotCmd (fun t =>
    let t1 := regWrite .whole offSlotCmd (place 60 op ||| place 32 i ||| 1) t
    if t1.crypt.busy then t1 else slotRun op i t1) s

/-! ## Key messages (R123) -/

def msgByte (m : KeyMsg) (i : Nat) : Nat := (m.payload.getD i 0).toNat
def msgOp (m : KeyMsg) : Nat := msgByte m 0
def msgSlot (m : KeyMsg) : Nat := (msgByte m 2 + 256 * msgByte m 3) % 4096
def msgMask (m : KeyMsg) : Word := BitVec.ofNat 64 (bytesToNat ((m.payload.drop 8).take 8))
def msgKey (m : KeyMsg) : List Byte := (m.payload.drop 16).take 32

/-- The payload is 48 bytes, its reserved fields zero, OP defined, and what the OP does not use zero (R123 step 2). -/
def msgWellFormed (m : KeyMsg) : Bool :=
  let op := msgOp m
  let zero (a n : Nat) : Bool := ((m.payload.drop a).take n).all (· = 0)
  m.payload.length = 48 && 1 ≤ op && op ≤ 5 && zero 1 1 && msgByte m 3 < 16 && msgByte m 4 < 8 && zero 5 3 &&
    ((op ≠ 2 && op ≠ 5) || (zero 4 1 && zero 8 8)) && (op = 1 || zero 16 32)

/-- A free byte, for a field of the answer that no rule states (log entry 4). -/
def freeByte (s : State) : Byte × State := ((Config.payload s.free).extractLsb' 0 8, { s with free := s.free + 1 })

/-- The answer of Table 5.4. Before the slot is examined its STATE and CLASS are stated by no rule. -/
def keyAnswer (m : KeyMsg) (result : Nat) (examined : Bool) (s : State) : State :=
  let b (n : Nat) : Byte := BitVec.ofNat 8 n
  let k := slotAt s (msgSlot m)
  let st := match k.state with | .empty => 0 | .loaded => 1 | .retiring => 2
  let (f1, s1) := if examined then (b st, s) else freeByte s
  let (f2, s2) := if examined then (b k.cls, s1) else freeByte s1
  let s3 := emit (.keyAnswer m.port m.link [b (msgByte m 0), b result, b (msgByte m 2), b (msgByte m 3), f1, f2, 0, 0]) s2
  if result = 0 then s3 else raise blkCrypt 4 Cap.none s3

/-- RESULT for the REASON that ended a command (R123 step 6). -/
def reasonResult : Nat → Nat
  | 0 => 0
  | 2 => 1
  | 3 => 3
  | 4 => 3
  | _ => 2

/-- Germ writes the policy and mask that a message gives, and the key of a LOAD, and starts a command (R118). -/
def msgRun (m : KeyMsg) (op : Nat) (s : State) : State :=
  let w (n : Nat) : Word := BitVec.ofNat 64 (bytesToNat (((msgKey m).drop (8 * n)).take 8))
  let s1 := if op = 2 then { s with crypt := { s.crypt with keyIn := #v[w 0, w 1, w 2, w 3] } } else s
  germSlot op (msgSlot m) (msgByte m 4) (msgMask m) s1

/-- The first message is served: answered at once, or its command left open. -/
def serveKeyMsg (m : KeyMsg) (s : State) : State :=
  let pop (t : State) : State := { t with crypt := { t.crypt with waits := t.crypt.waits.tail, msgOpen := false } }
  let i := msgSlot m
  let r := keyRec s i
  let op := msgOp m
  if !m.secured then pop (raise blkCrypt 4 Cap.none (emit (.spdmError m.port m.link .unexpectedRequest) s))
  else if !msgWellFormed m then pop (keyAnswer m 3 false s)
  else if !r.mgr.testBit m.port then pop (keyAnswer m 1 true s)
  else if (op = 1 && !r.host) || (op = 3 && r.host) then pop (keyAnswer m 1 true s)
  else if (op = 1 || op = 3 || op = 4) && !subMask (msgMask m) r.allowed then pop (keyAnswer m 3 true s)
  else if op = 1 && (msgKey m).all (· = 0) then pop (keyAnswer m 3 true s)
  else
    let s1 := msgRun m (match op with | 1 => 2 | 2 => 4 | 3 => 4 | 4 => 3 | _ => 5) s
    if s1.crypt.busy then { s1 with crypt := { s1.crypt with msgOpen := true } }
    else pop (keyAnswer m (reasonResult s1.crypt.reason) true s1)

/-- A message whose RETIRE has ended is answered, a REGEN loading the slot again first (R123). -/
def finishKeyMsg (s : State) : State :=
  match s.crypt.waits with
  | m :: rest =>
    if !s.crypt.msgOpen || s.crypt.busy then s
    else
      let s1 := { s with crypt := { s.crypt with waits := rest, msgOpen := false } }
      let s2 := if msgOp m = 3 then msgRun m 1 s1 else s1
      keyAnswer m (reasonResult s2.crypt.reason) true s2
  | [] => s

/-- Key messages are served in arrival order while the load port is free and Germ runs (R24). `fuel` counts them. -/
def serveKeys : Nat → State → State
  | 0, s => s
  | fuel + 1, s =>
    match s.crypt.waits with
    | m :: _ => if s.crypt.busy || !s.fw.germUp then s else serveKeys fuel (serveKeyMsg m s)
    | [] => s

/-- What Germ does for key messages when the load port is free: the open one ends, and the next are served. -/
def serveAllKeys (s : State) : State :=
  if s.crypt.busy || !s.fw.germUp then s else serveKeys (s.crypt.waits.length + 1) (finishKeyMsg s)

def doKeyMsg (km : KeyMsg) (s : State) : State :=
  if !s.ports[km.port].links[km.link].up then s
  else serveAllKeys { s with crypt := { s.crypt with waits := s.crypt.waits ++ [km] } }

/-- The open RETIRE has drained: KEY and H are overwritten and the slot is EMPTY (R118 step 6). What Germ does next waits for
its restart (R24). -/
def doRetireDrainComplete (s0 : State) : State :=
  let s := allSettle s0
  if !s.crypt.busy || s.crypt.markers ≠ 0xF then s
  else serveAllKeys (slotEnd 0 (setSlot s.crypt.openSlot emptySlot s))

def doRetireTimeout (s : State) : State :=
  if !s.crypt.busy || s.crypt.timedOut then s
  else
    let s1 := timeTo (s.crypt.goTime + 100000 * regField s offRetireTimeout 0 16) s
    raise blkCrypt 3 Cap.none { s1 with crypt := { s1.crypt with timedOut := true } }

/-! ## Commands -/

def doLoadGen (m : Master) (slot : Fin 4096) (s : State) : State := slotCmd m 1 slot s
def doLoadKey (m : Master) (slot : Fin 4096) (s : State) : State := slotCmd m 2 slot s
def doSetPolicy (m : Master) (slot : Fin 4096) (s : State) : State := slotCmd m 3 slot s
def doRetire (m : Master) (slot : Fin 4096) (s : State) : State := slotCmd m 4 slot s
def doQuery (m : Master) (slot : Fin 4096) (s : State) : State := slotCmd m 5 slot s

/-- A reserved OP with GO is refused as BAD_OP; the field keeps its value (R9, Table 5.12). An OP that Table 5.12 defines is
no such command. -/
def doBadOp (m : Master) (op : Fin 16) (slot : Fin 4096) (s : State) : State :=
  if 1 ≤ op.val && op.val ≤ 5 then s else slotCmd m op slot s

def execLoadGen (m : Master) (slot : Fin 4096) (s : State) : Host.Outcome State Fault Refusal := .next (doLoadGen m slot s)
def execLoadKey (m : Master) (slot : Fin 4096) (s : State) : Host.Outcome State Fault Refusal := .next (doLoadKey m slot s)
def execSetPolicy (m : Master) (slot : Fin 4096) (s : State) : Host.Outcome State Fault Refusal :=
  .next (doSetPolicy m slot s)
def execRetire (m : Master) (slot : Fin 4096) (s : State) : Host.Outcome State Fault Refusal := .next (doRetire m slot s)
def execQuery (m : Master) (slot : Fin 4096) (s : State) : Host.Outcome State Fault Refusal := .next (doQuery m slot s)
def execBadOp (m : Master) (op : Fin 16) (slot : Fin 4096) (s : State) : Host.Outcome State Fault Refusal :=
  .next (doBadOp m op slot s)
def execRetireTimeout (s : State) : Host.Outcome State Fault Refusal := .next (doRetireTimeout s)

/-- The five key messages: the payload's own OP byte tells the handler which it is (R123). -/
def execKeyMsgLoad (km : KeyMsg) (s : State) : Host.Outcome State Fault Refusal := .next (doKeyMsg km s)
def execKeyMsgRetire (km : KeyMsg) (s : State) : Host.Outcome State Fault Refusal := .next (doKeyMsg km s)
def execKeyMsgRegen (km : KeyMsg) (s : State) : Host.Outcome State Fault Refusal := .next (doKeyMsg km s)
def execKeyMsgPolicy (km : KeyMsg) (s : State) : Host.Outcome State Fault Refusal := .next (doKeyMsg km s)
def execKeyMsgQuery (km : KeyMsg) (s : State) : Host.Outcome State Fault Refusal := .next (doKeyMsg km s)

end Sys2Proof.Machine
end

