-- ==== Sys2Proof/Machine/Sha.lean ====
section
/-! DEFINITION. SHA-384 (FIPS 180-4) and ECDSA P-384 verification (FIPS 186), which check the Solvik image (R335). -/

namespace Sys2Proof.Machine

/-! ## SHA-384 -/

/-- The 64-bit words of a list of 256-bit numbers, each highest word first. -/
def shaSplit (xs : List (BitVec 256)) : List (BitVec 64) :=
  xs.flatMap fun x => [3, 2, 1, 0].map fun i => x.extractLsb' (64 * i) 64

/-- The eighty round constants, four in each number (FIPS 180-4, section 4.2.3). -/
def shaK : List (BitVec 64) := shaSplit
  [0x428a2f98d728ae227137449123ef65cdb5c0fbcfec4d3b2fe9b5dba58189dbbc,
   0x3956c25bf348b53859f111f1b605d019923f82a4af194f9bab1c5ed5da6d8118,
   0xd807aa98a303024212835b0145706fbe243185be4ee4b28c550c7dc3d5ffb4e2,
   0x72be5d74f27b896f80deb1fe3b1696b19bdc06a725c71235c19bf174cf692694,
   0xe49b69c19ef14ad2efbe4786384f25e30fc19dc68b8cd5b5240ca1cc77ac9c65,
   0x2de92c6f592b02754a7484aa6ea6e4835cb0a9dcbd41fbd476f988da831153b5,
   0x983e5152ee66dfaba831c66d2db43210b00327c898fb213fbf597fc7beef0ee4,
   0xc6e00bf33da88fc2d5a79147930aa72506ca6351e003826f142929670a0e6e70,
   0x27b70a8546d22ffc2e1b21385c26c9264d2c6dfc5ac42aed53380d139d95b3df,
   0x650a73548baf63de766a0abb3c77b2a881c2c92e47edaee692722c851482353b,
   0xa2bfe8a14cf10364a81a664bbc423001c24b8b70d0f89791c76c51a30654be30,
   0xd192e819d6ef5218d69906245565a910f40e35855771202a106aa07032bbd1b8,
   0x19a4c116b8d2d0c81e376c085141ab532748774cdf8eeb9934b0bcb5e19b48a8,
   0x391c0cb3c5c95a634ed8aa4ae3418acb5b9cca4f7763e373682e6ff3d6b2b8a3,
   0x748f82ee5defb2fc78a5636f43172f6084c87814a1f0ab728cc702081a6439ec,
   0x90befffa23631e28a4506cebde82bde9bef9a3f7b2c67915c67178f2e372532b,
   0xca273eceea26619cd186b8c721c0c207eada7dd6cde0eb1ef57d4f7fee6ed178,
   0x06f067aa72176fba0a637dc5a2c898a6113f9804bef90dae1b710b35131c471b,
   0x28db77f523047d8432caab7b40c724933c9ebe0a15c9bebc431d67c49c100d4c,
   0x4cc5d4becb3e42b6597f299cfc657e2a5fcb6fab3ad6faec6c44198c4a475817]

/-- The eight working variables a to h of the compression, which are also the hash value between blocks. -/
structure ShaVars where
  (a b c d e f g h : BitVec 64)
deriving DecidableEq, Repr

def ShaVars.ofWords (w : List (BitVec 64)) : ShaVars :=
  let at_ (i : Nat) := w.getD i 0
  ⟨at_ 0, at_ 1, at_ 2, at_ 3, at_ 4, at_ 5, at_ 6, at_ 7⟩

def ShaVars.words (v : ShaVars) : List (BitVec 64) := [v.a, v.b, v.c, v.d, v.e, v.f, v.g, v.h]

/-- The initial hash value of SHA-384 (FIPS 180-4, section 5.3.4). -/
def shaIV : ShaVars := ShaVars.ofWords (shaSplit
  [0xcbbb9d5dc1059ed8629a292a367cd5079159015a3070dd17152fecd8f70e5939,
   0x67332667ffc00b318eb44a8768581511db0c2e0d64f98fa747b5481dbefa4fa4])

/-- The XOR of three rotations of a word: Σ0 and Σ1 of FIPS 180-4, by their three distances. -/
def shaSum (x : BitVec 64) (r : Nat × Nat × Nat) : BitVec 64 :=
  x.rotateRight r.1 ^^^ x.rotateRight r.2.1 ^^^ x.rotateRight r.2.2

/-- As `shaSum` with a shift in place of the third rotation: σ0 and σ1. -/
def shaMix (x : BitVec 64) (r : Nat × Nat × Nat) : BitVec 64 :=
  x.rotateRight r.1 ^^^ x.rotateRight r.2.1 ^^^ x >>> r.2.2

/-- Each bit of `y` where `x` is 1, of `z` where it is 0. -/
def shaChoose (x y z : BitVec 64) : BitVec 64 := z ^^^ (x &&& (y ^^^ z))

/-- Each bit that two of the three words have. -/
def shaMajority (x y z : BitVec 64) : BitVec 64 := (x &&& (y ||| z)) ||| (y &&& z)

/-- The word of the message schedule that follows a window of sixteen, oldest first. -/
def shaNextW (w : List (BitVec 64)) : BitVec 64 :=
  [w.getD 0 0, shaMix (w.getD 1 0) (1, 8, 7), w.getD 9 0, shaMix (w.getD 14 0) (19, 61, 6)].foldl (· + ·) 0

/-- One round: the variables move down by one, the new a and e entering, and the window of the schedule moves on. -/
def shaRound (st : List (BitVec 64) × ShaVars) (k : BitVec 64) : List (BitVec 64) × ShaVars :=
  let v := st.2
  let add := v.h + shaSum v.e (14, 18, 41) + shaChoose v.e v.f v.g + k + st.1.getD 0 0
  (st.1.tail ++ [shaNextW st.1],
   { v with a := add + shaSum v.a (28, 34, 39) + shaMajority v.a v.b v.c
            b := v.a
            c := v.b
            d := v.c
            e := v.d + add
            f := v.e
            g := v.f
            h := v.g })

/-- The sixteen big-endian words of a block. -/
def shaWords (bs : List Byte) : List (BitVec 64) :=
  (List.range 16).map fun i => BitVec.ofNat 64 (bytesToNatBE ((bs.drop (8 * i)).take 8))

/-- The hash value after `n` more blocks of 128 bytes. -/
def shaBlocks : Nat → ShaVars → List Byte → ShaVars
  | 0, v, _ => v
  | n + 1, v, bs =>
    let u := (shaK.foldl shaRound (shaWords (bs.take 128), v)).2
    shaBlocks n (ShaVars.ofWords (List.zipWith (· + ·) v.words u.words)) (bs.drop 128)

/-- A message brought to whole blocks: a 1 bit, zeros, and its length in bits in sixteen bytes. -/
def shaPad (bs : List Byte) : List Byte :=
  let zeros := (239 - bs.length % 128) % 128
  bs ++ [0x80] ++ List.replicate zeros 0 ++ natToBytesBE 16 (8 * bs.length)

/-- SHA-384 of a byte string, the first digest byte highest. -/
def sha384 (bs : List Byte) : BitVec 384 :=
  let p := shaPad bs
  let v := shaBlocks (p.length / 128) shaIV p
  v.a ++ v.b ++ v.c ++ v.d ++ v.e ++ v.f

/-! ## ECDSA over P-384 -/

/-- The field prime of P-384. -/
def p384 : Nat := 2 ^ 384 - 2 ^ 128 - 2 ^ 96 + 2 ^ 32 - 1

/-- The order of the base point of P-384. -/
def n384 : Nat :=
  0xffffffffffffffffffffffffffffffffffffffffffffffffc7634d81f4372ddf581a0db248b0a77aecec196accc52973

/-- The coefficient b of P-384. -/
def b384 : Nat :=
  0xb3312fa7e23ee7e4988e056be3f82d19181d9c6efe8141120314088f5013875ac656398d8a2ed19d2a85c8edd3ec2aef

/-- The base point of P-384. -/
def gx384 : Nat :=
  0xaa87ca22be8b05378eb1c71ef320ad746e1d3b628ba79b9859f741e082542a385502f25dbf55296c3a545e3872760ab7
def gy384 : Nat :=
  0x3617de4a96262c6f5d9e98bf9292dc29f8f41dbd289a147ce9da3113b5f0b8c00a60b1ce1d7e819d7a431d7c90ea0e5f

/-- Subtraction modulo the field prime. -/
def subP (a b : Nat) : Nat := (a + (p384 - b % p384)) % p384

/-- `a ^ e` modulo `m`, over the low `n` bits of `e`. -/
def powMod (m : Nat) : Nat → Nat → Nat → Nat
  | 0, _, _ => 1 % m
  | n + 1, a, e =>
    let r := powMod m n (a * a % m) (e / 2)
    if e % 2 = 1 then r * a % m else r

/-- A point of the curve in Jacobian coordinates; Z = 0 is the point at infinity. -/
abbrev JPoint := Nat × Nat × Nat

/-- Doubling, with a = -3. -/
def jDouble (p : JPoint) : JPoint :=
  let x := p.1
  let y := p.2.1
  let z := p.2.2
  if z = 0 ∨ y = 0 then (1, 1, 0) else
  let yy := y * y % p384
  let s := 4 * x * yy % p384
  let zz := z * z % p384
  let m := 3 * (subP x zz) * ((x + zz) % p384) % p384
  let x' := subP (m * m) (2 * s)
  (x', subP (m * subP s x') (8 * yy * yy), 2 * y * z % p384)

/-- Addition of two points. -/
def jAdd (p q : JPoint) : JPoint :=
  if p.2.2 = 0 then q else if q.2.2 = 0 then p else
  let z1 := p.2.2
  let z2 := q.2.2
  let z11 := z1 * z1 % p384
  let z22 := z2 * z2 % p384
  let u1 := p.1 * z22 % p384
  let u2 := q.1 * z11 % p384
  let s1 := p.2.1 * z2 * z22 % p384
  let s2 := q.2.1 * z1 * z11 % p384
  if u1 = u2 then (if s1 = s2 then jDouble p else (1, 1, 0)) else
  let h := subP u2 u1
  let r := subP s2 s1
  let hh := h * h % p384
  let hhh := h * hh % p384
  let v := u1 * hh % p384
  let x' := subP (r * r) (hhh + 2 * v)
  (x', subP (r * subP v x') (s1 * hhh), z1 * z2 * h % p384)

/-- The multiple of a point by the low `n` bits of `k`. -/
def jMul : Nat → Nat → JPoint → JPoint
  | 0, _, _ => (1, 1, 0)
  | n + 1, k, p =>
    let r := jMul n (k / 2) (jDouble p)
    if k % 2 = 1 then jAdd r p else r

/-- A public key is a point of the curve other than infinity (FIPS 186). -/
def keyOnCurve (x y : Nat) : Bool :=
  decide (x < p384) && decide (y < p384) && y * y % p384 == (x * x * x + subP b384 (3 * x)) % p384

/-- ECDSA P-384 with SHA-384: the signature (r, s) on the digest under the public key (x, y). -/
def ecdsaVerify (x y : Nat) (digest : BitVec 384) (r s : Nat) : Bool :=
  if r = 0 ∨ n384 ≤ r ∨ s = 0 ∨ n384 ≤ s ∨ !keyOnCurve x y then false else
  let w := powMod n384 384 s (n384 - 2)
  let u1 := digest.toNat * w % n384
  let u2 := r * w % n384
  let q := jAdd (jMul 384 u1 (gx384, gy384, 1)) (jMul 384 u2 (x, y, 1))
  if q.2.2 = 0 then false else
  let zi := powMod p384 384 (q.2.2) (p384 - 2)
  (q.1 * zi % p384 * zi % p384) % n384 == r

end Sys2Proof.Machine
end

