-- ==== Sys2Proof/Machine/Image.lean ====
section
/-! DEFINITION. The Solvik image (chapter 13): reading a copy from the boot flash, the checks of Table 13.16 in their order,
and the registers that an accepted image sets (R330 to R362). -/

namespace Sys2Proof.Machine

/-! ## Boot flash -/

/-- One byte taken from the front of a table that starts at `pos` or later. -/
def flashNext (pos : Nat) (m : KMap Byte) : Byte × KMap Byte :=
  match m with
  | [] => (0xFF, [])
  | (k, b) :: rest => if k = pos then (b, rest) else (0xFF, m)

def flashTake : Nat → Nat → KMap Byte → List Byte
  | 0, _, _ => []
  | n + 1, pos, m =>
    let (b, rest) := flashNext pos m
    b :: flashTake n (pos + 1) rest

/-- `n` bytes of the boot flash from `off` (log entry 8: an unlisted byte is erased, 0xFF). -/
def flashRead (s : State) (off n : Nat) : List Byte := flashTake n off (s.flash.dropWhile fun e => e.1 < off)

/-- Bytes put into the boot flash. -/
def flashPut (off : Nat) (bs : List Byte) (s : State) : State :=
  { s with flash := bs.zipIdx.foldl (fun m e => kset 0xFF m (off + e.2) e.1) s.flash }

/-- Offsets of Table 13.3; `b` is the letter, false for A. -/
def imageOff (b : Bool) : Nat := if b then 0x110000 else 0x10000
def branOff (b : Bool) : Nat := if b then 0x1000000 else 0x400000

/-- The letter that a valid BOOT record prefers (R339). -/
def bootPrefers (s : State) : Option Bool :=
  let r := flashRead s 0 12
  let head := r.take 8
  if head.take 4 = [0x53, 0x4C, 0x56, 0x42] && (head.drop 5) = [0, 0, 0] && bytesToNat (r.drop 8) = crc32c head then
    match (head.drop 4).head? with
    | some 0 => some false
    | some 1 => some true
    | _ => none
  else none

/-- The BOOT record is written to prefer a letter (R339). -/
def writeBoot (b : Bool) (s : State) : State :=
  let head : List Byte := [0x53, 0x4C, 0x56, 0x42, (if b then 1 else 0), 0, 0, 0]
  flashPut 0 (head ++ natToBytes 4 (crc32c head)) s

/-! ## Sections (R330 to R333) -/

/-- A little-endian field of a byte string. -/
def le (bs : List Byte) (off n : Nat) : Nat := bytesToNat ((bs.drop off).take n)

/-- Every byte of a span is zero. -/
def zeros (bs : List Byte) (off n : Nat) : Bool := ((bs.drop off).take n).all (· = 0)

/-- A section: where it starts, its TYPE and its value. -/
structure Sect where
  at_ : Nat
  type : Nat
  value : List Byte
deriving DecidableEq, Repr

def up8 (n : Nat) : Nat := (n + 7) / 8 * 8

/-- The sections of an image from offset `pos` on; `bs` holds the bytes from there to TOTAL_LENGTH. None where a section
runs past the end or skipped bytes are not zero. `fuel` counts sections. -/
def sections : Nat → Nat → List Byte → Option (List Sect)
  | 0, _, _ => none
  | fuel + 1, pos, bs =>
    let len := le bs 2 4
    if bs.length < 6 + len then none
    else
      let s : Sect := ⟨pos, le bs 0 2, (bs.drop 6).take len⟩
      if bs.length = 6 + len then some [s]
      else
        let next := up8 (pos + 6 + len)
        if zeros bs (6 + len) (next - pos - 6 - len) then
          (sections fuel next (bs.drop (next - pos))).map (s :: ·)
        else none

/-- Table 13.2: the legal length of a section's value. -/
def sectLengthOk (ty : Nat) (v : List Byte) : Bool :=
  let n := v.length
  match ty with
  | 0x1 => n = 24 | 0x2 => n = 24 | 0x3 => n = 272 | 0x4 => n = 8 | 0x5 => n = 8 | 0x6 => n = 304
  | 0x7 => 8 ≤ n && n ≤ 65544
  | 0xFF => n = 96 | 0x101 => n = 96
  | 0x102 => 1 ≤ n && n ≤ 16384
  | 0x103 => n = 260
  | 0x104 => n = 8 + 24 * le v 0 2 && 1 ≤ le v 0 2 && le v 0 2 ≤ 256
  | 0x105 => n = 8 + 24 * le v 0 2 && le v 0 2 ≤ 4096
  | 0x106 => n = 136 | 0x107 => n = 32 | 0x108 => n = 112 | 0x109 => n = 8 | 0x10A => n = 56 | 0x1FF => n = 96
  | _ => false

/-- The required sections of Table 13.2. -/
def requiredTypes : List Nat :=
  [0x1, 0x2, 0x3, 0x4, 0x5, 0x6, 0xFF, 0x101, 0x103, 0x104, 0x105, 0x106, 0x107, 0x108, 0x109, 0x10A, 0x1FF]

/-- TYPEs strictly rise. -/
def risingTypes : List Sect → Bool
  | a :: b :: r => a.type < b.type && risingTypes (b :: r)
  | _ => true

def sectVal (ss : List Sect) (ty : Nat) : List Byte := ((ss.find? (·.type = ty)).map (·.value)).getD []

/-- R333, with the offsets of the header. -/
def sectionsOk (ss : List Sect) (zEnd oEnd : Nat) : Bool :=
  risingTypes ss && ss.all (fun x => sectLengthOk x.type x.value) &&
    requiredTypes.all (fun t => ss.any fun x => x.type = t) &&
    ss.all fun x => (x.type = 0xFF → x.at_ = zEnd) && (x.type = 0x1FF → x.at_ = oEnd)

/-! ## The image's values -/

def byteAt (v : List Byte) (i : Nat) : Nat := le v i 1

/-- MAP (Table 13.6). -/
def mapWords (v : List Byte) : List Word := (List.range 34).map fun i => BitVec.ofNat 64 (le v (8 * i) 8)

def huskOut (v : List Byte) (o : Nat) : HuskOut :=
  ⟨le v (16 + 72 * o) 2, le v (20 + 72 * o) 4,
    (List.range 8).map fun k => (le v (24 + 72 * o + 8 * k) 2, le v (28 + 72 * o + 8 * k) 4)⟩

def ldEntry (v : List Byte) (t : Nat) : LdRec :=
  let w := le v (4 * t) 4
  ⟨w.testBit 31, bitsAt w 29 2, w.testBit 28, w % 4096⟩

def regionRec (v : List Byte) (i : Nat) : Region :=
  let r := (v.drop (8 + 24 * i)).take 24
  let attr := byteAt r 2
  let key := le r 4 2
  { number := byteAt r 0, size := byteAt r 1, shared := attr.testBit 0, strong := attr.testBit 1, awn := attr.testBit 2,
    elastic := attr.testBit 3, pinned := attr.testBit 4, aliasW := byteAt r 3 % 16, defClass := bitsAt (byteAt r 3) 4 3,
    hasDef := key.testBit 15, defKey := key % 4096, keyBase := le r 6 2 % 4096, dpaBase := le r 8 8,
    ownerLd := byteAt r 16, heads := byteAt r 17 % 16, headLd := (List.range 4).map fun p => byteAt r (18 + p) }

def keyRecord (v : List Byte) (i : Nat) : KeyRec :=
  let r := (v.drop (8 + 24 * i)).take 24
  let w := le r 0 2
  ⟨w % 4096, w.testBit 12, w.testBit 13, byteAt r 2 % 16, bitsAt (byteAt r 2) 4 3, BitVec.ofNat 64 (le r 8 8),
    BitVec.ofNat 64 (le r 16 8)⟩

def svcRec (v : List Byte) (c : Nat) : SvcClass :=
  let b := 8 + 16 * c
  ⟨le v b 2, le v (b + 2) 2, le v (b + 4) 2, le v (b + 6) 2, le v (b + 8) 4⟩

/-- The COMPAT digest (R357). -/
def compatOf (ss : List Sect) : BitVec 384 :=
  sha384 ([0x1, 0x103, 0x104, 0x105].flatMap fun t =>
    let v := sectVal ss t
    natToBytes 2 t ++ natToBytes 4 v.length ++ v)

/-- The 48 bytes of a digest as it is stored, the first highest. -/
def digestAt (v : List Byte) (off : Nat) : BitVec 384 := BitVec.ofNat 384 (bytesToNatBE ((v.drop off).take 48))

/-- The image that header and sections spell (R343 to R359). -/
def imageOf (hdr : List Byte) (ss : List Sect) : SolvikImage :=
  let st := sectVal ss 0x1
  let me := sectVal ss 0x2
  let mp := mapWords (sectVal ss 0x3)
  let ras := sectVal ss 0x4
  let pow := sectVal ss 0x5
  let hu := sectVal ss 0x6
  let lds := sectVal ss 0x103
  let rg := sectVal ss 0x104
  let ks := sectVal ss 0x105
  let sv := sectVal ss 0x106
  let ti := sectVal ss 0x107
  let pa := sectVal ss 0x108
  let ct := sectVal ss 0x109
  let br := sectVal ss 0x10A
  { seq := BitVec.ofNat 64 (le hdr 128 8), rollback := le hdr 16 8, portMask := byteAt st 0 % 16,
    bifurcation := (List.range 4).map fun p => byteAt st (4 + p),
    links := (List.range 16).map fun i => (byteAt st (8 + i) % 4, bitsAt (byteAt st (8 + i)) 2 2),
    rate := le me 0 2, rowBits := byteAt me 2, stack := byteAt me 3, ranks := byteAt me 4,
    dpc2 := (byteAt me 5).testBit 0, unit256 := (byteAt me 5).testBit 1, trfc := le me 6 2, hotLimit := byteAt me 8,
    spare := (List.range 16).map fun x => bitsAt (le me 16 8) (4 * x) 4, map := mp,
    branBase := (mp.getD 16 0).toNat, branSize := (mp.getD 17 0).toNat,
    threshold := le ras 0 2, ueLimit := byteAt ras 2, caLimit := byteAt ras 3, deltaT := byteAt ras 4,
    scrubEnable := (byteAt ras 5).testBit 0, fiAllowed := (byteAt ras 5).testBit 1, scrubRate := byteAt ras 6,
    scrubReserve := byteAt ras 7,
    pkgLimit := le pow 0 2, vcoreMv := le pow 2 2, vsramMv := le pow 4 2, rails := byteAt pow 6,
    uvMv := le hu 0 2, ovMv := le hu 2 2, insertMs := le hu 4 2, pfwMv := le hu 6 2, cooldownMs := le hu 8 2,
    outEnable := byteAt hu 10, outs := (List.range 4).map (huskOut hu),
    patch := sectVal ss 0x7, ownerKey := sectVal ss 0x101, ownerCert := sectVal ss 0x102,
    lds := (List.range 64).map (ldEntry lds), portFlags := (List.range 4).map fun p => byteAt lds (256 + p),
    regions := (List.range (le rg 0 2)).map (regionRec rg), keys := (List.range (le ks 0 2)).map (keyRecord ks),
    window := le sv 0 2, shift := byteAt sv 2, holdNs := le sv 4 2, tBi := le sv 6 2,
    classes := (List.range 8).map (svcRec sv),
    pools := (List.range 2).map fun n => (le ti (16 * n) 4, le ti (16 * n + 4) 4, le ti (16 * n + 8) 2),
    paired := (byteAt pa 0).testBit 0, preferred := (byteAt pa 0).testBit 1, formWait := le pa 8 2,
    reissueWindow := byteAt pa 10, macInterval := byteAt pa 11, pairTimeout := le pa 12 2,
    peerId := digestAt pa 16, predecessor := digestAt pa 64, compat := compatOf ss,
    faultInjection := (byteAt ct 0).testBit 0, locks := le ct 4 4, branHash := digestAt br 0, branLen := le br 48 4 }

/-! ## Header (R331) -/

/-- The bytes of the header that check 2 judges; `total` is TOTAL_LENGTH. -/
def headerOk (hdr : List Byte) (total : Nat) : Bool :=
  let zEnd := le hdr 24 4
  let oEnd := le hdr 140 4
  le hdr 4 2 = 1 && le hdr 6 2 = 0x0816 && byteAt hdr 8 = 0xB0 && zeros hdr 9 7 && zeros hdr 28 100 && zeros hdr 144 112 &&
    zEnd % 8 = 0 && 256 ≤ zEnd && zEnd + 102 ≤ oEnd && oEnd % 8 = 0 && total = oEnd + 102 && total ≤ 1048576

/-! ## Signatures (R335, R336) -/

/-- A stored signature, r then s. -/
def signedBy (x y : Nat) (msg sig : List Byte) : Bool :=
  ecdsaVerify x y (sha384 msg) (bytesToNatBE (sig.take 48)) (bytesToNatBE ((sig.drop 48).take 48))

/-! ## Fields (R334) -/

/-- The bits of `v` above bit `w` are zero. -/
def below (w v : Nat) : Bool := v < 2 ^ w

def within (lo hi v : Nat) : Bool := lo ≤ v && v ≤ hi

/-- STRUCT (Table 13.4). -/
def structFields (v : List Byte) : Bool :=
  below 4 (byteAt v 0) && byteAt v 1 = 0xFF && le v 2 2 = 0xFFFF &&
    (List.range 4).all fun p =>
      byteAt v (4 + p) ≤ 2 &&
        (List.range 4).all (fun n =>
          let b := byteAt v (8 + 4 * p + n)
          below 4 b && (b % 4 = 0 || 1 ≤ b / 4)) &&
        ((byteAt v 0).testBit p || (byteAt v (4 + p) = 0 && zeros v (8 + 4 * p) 4))

/-- MEMORY (Table 13.5). -/
def memoryFields (v : List Byte) : Bool :=
  [5600, 6400, 7200, 8000, 8800].contains (le v 0 2) && within 16 17 (byteAt v 2) && byteAt v 3 ≤ 2 &&
    [1, 2, 4].contains (byteAt v 4) && below 2 (byteAt v 5) && within 1 410 (le v 6 2) && within 70 100 (byteAt v 8) &&
    zeros v 9 7

/-- A 64-bit value with bits outside [43:lo] zero. -/
def addrField (lo v : Nat) : Bool := v < 2 ^ 44 && v % 2 ^ lo = 0

/-- MAP (Table 13.6), each value as its register reads (Tables 3.9, 3.10, 5.20, 5.21, 7.15). -/
def mapFields (v : List Byte) : Bool :=
  let w (i : Nat) : Nat := le v (8 * i) 8
  [0, 1, 2].all (fun i => addrField 12 (w i)) && [3, 4, 5, 6, 7, 8, 9, 10].all (fun i => addrField 15 (w i)) &&
    [11, 12].all (fun i => addrField 18 (w i)) && [13, 14, 15].all (fun i => addrField 15 (w i)) &&
    ((List.range 9).any fun i => w 17 = 2 ^ (24 + i)) && w 17 ∣ w 16 && w 16 < 2 ^ 44 &&
    (List.range 8).all fun n => addrField 12 (w (18 + 2 * n) % 2 ^ 63) && addrField 12 (w (19 + 2 * n))

/-- RAS (Table 13.7) within Tables 8.13, 8.17, 9.6 and 9.9. -/
def rasFields (v : List Byte) : Bool :=
  within 256 0xFFFF (le v 0 2) && 1 ≤ byteAt v 2 && 1 ≤ byteAt v 3 && within 4 64 (byteAt v 4) && below 2 (byteAt v 5) &&
    within 1 125 (byteAt v 6) && byteAt v 7 ≤ 195

/-- POWER (Table 13.8). -/
def powerFields (v : List Byte) : Bool :=
  within 100 240 (le v 0 2) && within 700 900 (le v 2 2) && le v 2 2 % 5 = 0 && within 750 900 (le v 4 2) &&
    le v 4 2 % 5 = 0 && byteAt v 6 % 16 ≠ byteAt v 6 / 16 && byteAt v 7 = 0

/-- An output's record of HUSK; `on` is its bit of OUT_ENABLE. -/
def huskOutFields (v : List Byte) (o : Nat) (on : Bool) : Bool :=
  if on then
    let r := huskOut v o
    within 1000 29000 r.ilimit && zeros v (18 + 72 * o) 2 && within 500 20000 r.faultUs &&
      (List.range 8).all (fun k => zeros v (26 + 72 * o + 8 * k) 2) && r.curve.all (fun c => within 1 10000000 c.2) &&
      curveRises r.curve && (r.curve.getLastD (0, 0)).1 ≤ r.ilimit
  else zeros v (16 + 72 * o) 72

/-- HUSK (Table 13.9). -/
def huskFields (v : List Byte) : Bool :=
  within 9000 12000 (le v 0 2) && within 12500 16000 (le v 2 2) && within 100 1600 (le v 4 2) &&
    le v 0 2 < le v 6 2 && le v 6 2 < le v 2 2 && within 100 60000 (le v 8 2) && below 4 (byteAt v 10) && zeros v 11 5 &&
    (List.range 4).all fun o => huskOutFields v o ((byteAt v 10).testBit o)

/-- LDS (Table 13.10). -/
def ldsFields (v : List Byte) : Bool :=
  ((List.range 64).all fun t => bitsAt (le v (4 * t) 4) 12 15 = 0) && (List.range 4).all fun p => below 2 (byteAt v (256 + p))

/-- A region record (Table 13.11). -/
def regionFields (r : List Byte) : Bool :=
  let shared := (byteAt r 2).testBit 0
  within 30 44 (byteAt r 1) && below 5 (byteAt r 2) && byteAt r 3 % 16 ≤ 12 && below 7 (byteAt r 3) &&
    bitsAt (le r 4 2) 12 3 = 0 && below 12 (le r 6 2) && below 45 (le r 8 8) && below 6 (byteAt r 16) &&
    below 4 (byteAt r 17) && (if shared then byteAt r 16 = 0 else byteAt r 17 = 0) &&
    ((List.range 4).all fun p => if (byteAt r 17).testBit p then byteAt r (18 + p) ≤ 15 else byteAt r (18 + p) = 0) &&
    zeros r 22 2

def regionsFields (v : List Byte) : Bool :=
  zeros v 2 6 && (List.range (le v 0 2)).all fun i => regionFields ((v.drop (8 + 24 * i)).take 24)

/-- Slots strictly rise. -/
def risingSlots : List KeyRec → Bool
  | a :: b :: r => a.slot < b.slot && risingSlots (b :: r)
  | _ => true

/-- KEYS (Table 13.12). -/
def keysFields (v : List Byte) : Bool :=
  zeros v 2 6 && risingSlots ((List.range (le v 0 2)).map (keyRecord v)) &&
    (List.range (le v 0 2)).all fun i =>
      let r := (v.drop (8 + 24 * i)).take 24
      below 14 (le r 0 2) && below 7 (byteAt r 2) && zeros r 3 5 && ((le r 0 2).testBit 13 || zeros r 16 8)

/-- SERVICE (Table 13.14) within Tables 4.8, 10.4 to 10.8. -/
def serviceFields (v : List Byte) : Bool :=
  100 ≤ le v 0 2 && within 1 8 (byteAt v 2) && byteAt v 3 = 0 && within 64 4000 (le v 4 2) && 1 ≤ le v 6 2 &&
    (List.range 8).all fun c =>
      let k := svcRec v c
      1 ≤ k.budget && k.qMin ≤ 256 && within 1 256 k.qMax && within 1 1023 k.wayMask && within 100 1000000 k.target &&
        zeros v (8 + 16 * c + 12) 4

/-- TIER (R355) within Table 7.9. -/
def tierFields (v : List Byte) : Bool :=
  (List.range 2).all fun n =>
    below 24 (le v (16 * n) 4) && within 32 0xFFFFFF (le v (16 * n + 4) 4) && le v (16 * n + 4) 4 < le v (16 * n) 4 &&
      1 ≤ le v (16 * n + 8) 2 && zeros v (16 * n + 10) 6

/-- PAIR (R356) within Tables 11.16 and 12.13. -/
def pairFields (v : List Byte) : Bool :=
  below 2 (byteAt v 0) && zeros v 1 7 && zeros v 14 2 &&
    if (byteAt v 0).testBit 0 then
      within 100 10000 (le v 8 2) && within 20 60 (byteAt v 10) && within 1 32 (byteAt v 11) && within 20 1000 (le v 12 2)
    else zeros v 1 111

/-- CONTROL (R358) and BRAN (R359). -/
def controlFields (v : List Byte) : Bool := below 1 (byteAt v 0) && zeros v 1 3 && below 9 (le v 4 4)

def branFields (v : List Byte) (mapBranSize : Nat) : Bool :=
  within 1 12582912 (le v 48 4) && 2 * le v 48 4 ≤ mapBranSize && zeros v 52 4

/-- GERM_PATCH (R349). -/
def patchFields (ss : List Sect) : Bool :=
  match ss.find? (·.type = 0x7) with
  | none => true
  | some x => zeros x.value 4 4

/-- Check 8 of Table 13.16. -/
def fieldsOk (ss : List Sect) : Bool :=
  structFields (sectVal ss 0x1) && memoryFields (sectVal ss 0x2) && mapFields (sectVal ss 0x3) &&
    rasFields (sectVal ss 0x4) && powerFields (sectVal ss 0x5) && huskFields (sectVal ss 0x6) && patchFields ss &&
    ldsFields (sectVal ss 0x103) && regionsFields (sectVal ss 0x104) && keysFields (sectVal ss 0x105) &&
    serviceFields (sectVal ss 0x106) && tierFields (sectVal ss 0x107) && pairFields (sectVal ss 0x108) &&
    controlFields (sectVal ss 0x109) && branFields (sectVal ss 0x10A) (le (sectVal ss 0x3) 136 8)

/-! ## Consistency (Table 13.17) -/

/-- Pairs of a list, each with a later one. -/
def pairsAll {α : Type} (f : α → α → Bool) : List α → Bool
  | [] => true
  | a :: r => r.all (f a) && pairsAll f r

def imgLink (i : SolvikImage) (p l : Nat) : Nat × Nat := i.links.getD (4 * p + l) (0, 0)
def imgLd (i : SolvikImage) (t : Nat) : LdRec := i.lds.getD t ⟨false, 0, false, 0⟩

/-- Links. -/
def linksOk (i : SolvikImage) : Bool :=
  (List.range 4).all fun p =>
    let b := i.bifurcation.getD p 0
    let modes := (List.range 4).map fun l => (imgLink i p l).1
    (b = 0 || !modes.contains 3) && modes.count 2 ≤ 1 &&
      (List.range 4).all fun l =>
        let (m, sp) := imgLink i p l
        (b ≠ 2 || m = 0 || sp ≠ 1) && (l < 2 ^ b || (m = 0 && sp = 0))

/-- LDs. -/
def ldsOk (i : SolvikImage) : Bool :=
  ((List.range 64).all fun t =>
    let d := imgLd i t
    !d.valid || (i.portMask.testBit (t / 16) && (imgLink i (t / 16) d.link).1 ≠ 0)) &&
  (List.range 16).all fun j =>
    let (m, _) := i.links.getD j (0, 0)
    let n := ((List.range 16).filter fun x => let d := imgLd i (16 * (j / 4) + x); d.valid && d.link = j % 4).length
    match m with
    | 0 => true
    | 3 => 1 ≤ n
    | _ => n = 1

def overlap (a b : Nat × Nat) : Bool := a.1 < b.2 && b.1 < a.2

/-- Regions. -/
def regionsOk (i : SolvikImage) : Bool :=
  (i.regions.map (·.number)).Nodup &&
    (i.regions.all fun r =>
      r.dpaBase % 2 ^ r.size = 0 && r.dpaBase < 2 ^ 45 &&
        (if r.shared then (List.range 4).all fun p => !r.heads.testBit p ||
            (let d := imgLd i (16 * p + r.headLd.getD p 0)
             d.valid && (imgLink i p d.link).1 = 2)
         else (imgLd i r.ownerLd).valid)) &&
    pairsAll (fun a b => !((List.range 64).any fun t => ldReaches t a && ldReaches t b) ||
      !overlap (a.dpaBase, a.dpaBase + 2 ^ a.size) (b.dpaBase, b.dpaBase + 2 ^ b.size)) i.regions &&
    i.regions.foldl (fun n r => n + 2 ^ r.size) 0 ≤ 2 ^ 45

def imgKey (i : SolvikImage) (k : Nat) : KeyRec := (i.keys.find? (·.slot = k)).getD ⟨k, false, false, 0, 0, 0, 0⟩

/-- Region keys. -/
def regionKeysOk (i : SolvikImage) : Bool :=
  i.regions.all fun r =>
    r.keyBase % 2 ^ r.aliasW = 0 && r.keyBase + 2 ^ r.aliasW ≤ 0x1000 &&
      (regionLds r).all fun t =>
        let d := imgLd i t
        let k := imgKey i (if r.hasDef then r.defKey else d.defKey)
        (r.hasDef || d.hasDef) && k.allowed.getLsbD t && (k.host || !k.hasInit || k.initClass = r.defClass)

/-- Key records. -/
def keyRecordsOk (i : SolvikImage) : Bool :=
  i.keys.all fun k =>
    (!k.hasInit || !k.host) && subMask k.initMask k.allowed &&
      ((List.range 64).all fun t => !k.allowed.getLsbD t || (imgLd i t).valid) && (!k.host || k.mgr ≠ 0)

/-- Memory. -/
def memoryOk (i : SolvikImage) : Bool :=
  (if i.dpc2 then i.rate ≤ 6400 && 2 ≤ i.ranks else 6400 ≤ i.rate && i.ranks ≤ 2) &&
    i.spare.all fun m => m < 2 ^ i.ranks && m ≠ 2 ^ i.ranks - 1

/-- Total size of elastic regions, E of R361. -/
def elasticSize (i : SolvikImage) : Nat :=
  (i.regions.filter (·.elastic)).foldl (fun n r => n + 2 ^ r.size) 0

/-- The ranges that MAP places, each from its first byte to its end (Table 13.17). `t` is a state that holds the image. -/
def mapRanges (t : State) : List (Nat × Nat) :=
  let arr (c : Nat) : Nat × Nat := (nodeBase t c, nodeBase t c + nodeBytes t c)
  let p := populated (geom t)
  [(metaBase t, metaLimit t + 0x1000), (leafBase t, leafBase t + p / 32), arr 1, arr 2, arr 3, arr 4, arr 5,
    (pktBase t, pktBase t + p / 2048), (spillBase t, spillBase t + (strongLimit t - strongBase t) / 8),
    (strongBase t, strongLimit t), (descBase t, descLimit t), (dtagBase t, dtagBase t + (descLimit t - descBase t) / 8),
    (branBase t, branBase t + branSize t)]

/-- The ranges that hold the structures of R153: all but the strong span and Bran's range. -/
def structRanges (t : State) : List (Nat × Nat) :=
  ((mapRanges t).zipIdx.filter fun e => e.2 ≠ 9 && e.2 ≠ 12).map (·.1)

/-- The VALID protected ranges. -/
def protRanges (t : State) : List (Nat × Nat) :=
  (List.range 8).filterMap fun n =>
    let b := mapAt t (18 + 2 * n)
    if b.testBit 63 then some (b % 2 ^ 63, mapAt t (19 + 2 * n) + 0x1000) else none

/-- Map sizes and placement. -/
def mapOk (i : SolvikImage) (t : State) : Bool :=
  let p := populated (geom t)
  let rs := mapRanges t
  metaBase t ≤ metaLimit t && strongBase t ≤ strongLimit t && descBase t ≤ descLimit t &&
    elasticSize i + 508 * 64 * 2 ^ 20 ≤ 508 * (metaLimit t + 0x1000 - metaBase t) &&
    rs.all (fun r => r.2 ≤ p && sparesBelow t (r.1 / 4096) = sparesBelow t ((r.2 + 4095) / 4096)) &&
    pairsAll (fun a b => !overlap a b) rs &&
    (structRanges t).all (fun r => r.1 = r.2 || (protRanges t).any fun q => q.1 ≤ r.1 && r.2 ≤ q.2) &&
    (protRanges t).all fun q =>
      !overlap q (branBase t, branBase t + branSize t) && !overlap q (strongBase t, strongLimit t)

/-- Bytes of host data space (H of R193): populated, in no spare rank, no array of MAP and not Bran's. -/
def spareBytes (i : SolvikImage) : Nat :=
  i.spare.foldl (fun n m => n + ((List.range 4).filter fun r => m.testBit r).length) 0 * 2 ^ (i.rowBits + i.stack + 19)

/-- Capacity: the pools of R193 against their watermarks. -/
def capacityOk (i : SolvikImage) (t : State) : Bool :=
  let strong := strongLimit t - strongBase t
  let firm (st : Bool) : Nat :=
    (i.regions.filter fun r => !r.elastic && r.strong = st).foldl (fun n r => n + 2 ^ r.size) 0
  let used := (structRanges t).foldl (fun n r => n + (r.2 - r.1)) 0 + branSize t + spareBytes i
  let mib (n : Nat) : Nat := n * 2 ^ 20
  let low (n : Nat) : Nat := (i.pools.getD n (0, 0, 0)).1
  let crit (n : Nat) : Nat := (i.pools.getD n (0, 0, 0)).2.1
  firm true + mib (low 0) ≤ strong && used + strong + firm false + mib (low 1) ≤ populated (geom t) &&
    [0, 1].all fun n => 32 ≤ crit n && crit n < low n

/-- Service and Pair. -/
def serviceOk (i : SolvikImage) : Bool :=
  i.classes.all (fun c => c.qMin ≤ c.qMax) && i.classes.foldl (fun n c => n + c.qMin) 0 ≤ 256

/-- The state as it would be laid out by an image: for the placement rules. -/
def layout (i : SolvikImage) (s : State) : State := { s with img := some i, regs := [] }

/-- Check 9 of Table 13.16. -/
def consistent (i : SolvikImage) (s : State) : Bool :=
  let t := layout i s
  linksOk i && ldsOk i && regionsOk i && regionKeysOk i && keyRecordsOk i && memoryOk i && mapOk i t && capacityOk i t &&
    serviceOk i && (!i.paired || i.peerId ≠ 0)

/-! ## Checking a copy (R360) -/

/-- A copy as the checks leave it: refused with a code of Table 13.16, or accepted with its image and its digest. -/
inductive CopyCheck where
  | refused (code : Nat)
  | ok (i : SolvikImage) (digest : BitVec 384)
deriving DecidableEq, Repr

/-- The OWNER_KEY of an image, from what its sections spell; none where it has no such section (log entry 26). -/
def ownerKeyOf (bs : List Byte) : Option (List Byte) :=
  match sections 64 256 (bs.drop 256) with
  | none => none
  | some ss => (ss.find? fun x => x.type = 0x101 && x.value.length = 96).map (·.value)

/-- OWNER_KEY's hash equals the fuses, or the fuses are blank (R336). -/
def ownerFuseOk (s : State) (k : Option (List Byte)) : Bool :=
  match s.fuses.ownerKey, k with
  | none, _ => true
  | some h, some k => sha384 k = h
  | some _, none => false

/-- The checks of Table 13.16 after the header. -/
def checkBody (s : State) (b : Bool) (bs : List Byte) : CopyCheck :=
  let zEnd := le bs 24 4
  let oEnd := le bs 140 4
  let key := ownerKeyOf bs
  if !(le bs zEnd 2 = 0xFF && signedBy s.fuses.zalouxX.toNat s.fuses.zalouxY.toNat
      (bs.take 128 ++ (bs.drop 256).take (zEnd - 256)) ((bs.drop (zEnd + 6)).take 96)) then .refused 3
  else if !ownerFuseOk s key then .refused 4
  else if !(match key with
      | none => false
      | some k => signedBy (bytesToNatBE (k.take 48)) (bytesToNatBE (k.drop 48)) (bs.take oEnd) ((bs.drop (oEnd + 6)).take 96))
    then .refused 5
  else if le bs 16 8 < s.fuses.rollback || 64 < le bs 16 8 then .refused 6
  else match sections 64 256 (bs.drop 256) with
    | none => .refused 7
    | some ss =>
      if !sectionsOk ss zEnd oEnd then .refused 7
      else if !fieldsOk ss then .refused 8
      else
        let i := imageOf bs ss
        if !consistent i s then .refused 9
        else if sha384 (flashRead s (branOff b) i.branLen) ≠ i.branHash then .refused 10
        else .ok i (sha384 bs)

/-- Copy `b` examined (Table 13.16). -/
def checkCopy (s : State) (b : Bool) : CopyCheck :=
  let hdr := flashRead s (imageOff b) 256
  let total := le hdr 136 4
  if le hdr 0 4 ≠ 0x4B564C53 then .refused 1
  else if !headerOk hdr total then .refused 2
  else checkBody s b (flashRead s (imageOff b) total)

/-- A copy holds a readable header, with its IMAGE_SEQ (R340). -/
def headerSeq (s : State) (b : Bool) : Option Nat :=
  let hdr := flashRead s (imageOff b) 256
  if le hdr 0 4 = 0x4B564C53 && headerOk hdr (le hdr 136 4) then some (le hdr 128 8) else none

/-- The copy examined first (R340). -/
def firstCopy (s : State) : Bool :=
  match bootPrefers s with
  | some b => b
  | none => match headerSeq s false, headerSeq s true with
    | some a, some b => decide (a < b)
    | none, some _ => true
    | _, _ => false

/-! ## Registers whose Reset is IMG (R362) -/

/-- Fields of BAR0 that take their value from the image: offset, place, width, value. The HUSK block's are apart. -/
def imgFields (i : SolvikImage) : List (Nat × Nat × Nat × Nat) :=
  ((List.range 4).map fun p => (offPortCtl p, 8, 1, bit ((i.portFlags.getD p 0).testBit 1))) ++
  [(offShfRoot, 12, 32, (i.map.getD 0 0).toNat >>> 12)] ++
  ((List.range 8).flatMap fun k => [(offSpkHold k, 0, 12, i.holdNs)]) ++
  ((List.range 16).flatMap fun x =>
    [(offRdCfg x, 0, 16, i.threshold), (offRecalCfg x, 0, 8, i.deltaT), (offScrubCfg x, 32, 1, bit i.scrubEnable),
     (offScrubCfg x, 16, 8, i.scrubReserve), (offScrubCfg x, 0, 7, i.scrubRate), (offRasCfg x, 0, 8, i.ueLimit),
     (offRasCfg x, 8, 8, i.caLimit)]) ++
  ((List.range 2).flatMap fun n =>
    let (l, c, r) := i.pools.getD n (0, 0, 0)
    [(offTierWm n, 40, 24, l), (offTierWm n, 16, 24, c), (offTierWm n, 0, 16, r)]) ++
  [(offQosWindow, 0, 16, i.window), (offEwmaCfg, 0, 4, i.shift)] ++
  ((List.range 8).flatMap fun c =>
    let k := i.classes.getD c ⟨0, 0, 0, 0, 0⟩
    [(offQosAdmit c, 0, 16, k.budget), (offQosShare c, 48, 10, k.wayMask), (offQosShare c, 32, 9, k.qMax),
     (offQosShare c, 16, 9, k.qMin), (offQosTarget c, 0, 20, k.target)]) ++
  [(offTilCfg, 32, 10, i.pairTimeout), (offTilCfg, 24, 6, i.macInterval), (offPairCfg, 32, 16, i.formWait),
   (offPairCfg, 24, 8, i.reissueWindow), (offPwrAvs, 16, 16, i.vsramMv), (offPwrAvs, 0, 16, i.vcoreMv)]

/-- The husk limits of the image (Table 13.9). -/
def huskRegFields (i : SolvikImage) : List (Nat × Nat × Nat × Nat) :=
  [(offFeedCfg, 48, 16, i.uvMv), (offFeedCfg, 32, 16, i.ovMv), (offFeedCfg, 16, 16, i.pfwMv),
   (offHuskTiming, 48, 16, i.insertMs), (offHuskTiming, 32, 16, i.cooldownMs)] ++
  ((List.range 4).flatMap fun o =>
    let r := i.outs.getD o ⟨0, 0, []⟩
    [(offOutLimit o, 32, 16, r.ilimit), (offOutLimit o, 0, 16, r.faultUs)] ++
      (List.range 8).flatMap fun k =>
        let (c, us) := r.curve.getD k (0, 0)
        [(offCurve o k, 32, 24, us), (offCurve o k, 0, 16, c)])

def setFields (fs : List (Nat × Nat × Nat × Nat)) (s : State) : State :=
  fs.foldl (fun t f => regSetField f.1 f.2.1 f.2.2.1 f.2.2.2 t) s

end Sys2Proof.Machine
end

