-- ==== Sys2Proof/Machine/SheafOps.lean ====
section
/-! DEFINITION. The Sheafs, walks and invalidations (R61 to R84): install and evict, release of held requests, walk faults,
unbacked pages (R177), and the invalidation of a range (R78, Table 3.7). -/

namespace Sys2Proof.Machine

/-! ## Entries -/

def pinnedCount (s : State) (p : Fin 4) : Nat := (s.ports[p].sheaf.filter (·.pinned)).length

/-- An entry enters the Sheaf of a port: in place of one with the same LD tag, base and size (R63), else in a free place,
else in place of an unpinned one, a free choice (R66). A pinned one beyond the limit is installed unpinned. -/
def installEntry (p : Fin 4) (e : SheafEntry) (s : State) : State :=
  let same (x : SheafEntry) : Bool := x.ldTag = e.ldTag && x.dpaBase = e.dpaBase && x.size = e.size
  let s1 := updPort p (fun q => { q with sheaf := q.sheaf.filter fun x => !same x }) s
  let full := e.pinned && 3584 ≤ pinnedCount s1 p
  let s2 := if full then raise blkSheaf 10 Cap.none s1 else s1
  let add (t : State) : State := updPort p (fun q => { q with sheaf := q.sheaf ++ [{ e with pinned := e.pinned && !full }] }) t
  if s2.ports[p].sheaf.length < 4096 then add s2
  else
    let loose := s2.ports[p].sheaf.filter (!·.pinned)
    let (c, s3) := drawChoice loose.length s2
    match loose[c]? with
    | some x => add (updPort p (fun q => { q with sheaf := q.sheaf.erase x }) s3)
    | none => s3

/-- The entry that a leaf makes (Table 3.1). -/
def entryOf (ldTag dpa : Nat) (leaf : Word) : SheafEntry :=
  ⟨ldTag, alignDown dpa (eSize leaf), eSize leaf, eAddr leaf, eTier leaf = 1, ePolicy leaf, ePinned leaf⟩

/-! ## Held requests -/

def coversReq (e : SheafEntry) (ldTag dpa : Nat) : Bool := e.ldTag = ldTag && dpa >>> e.size = e.dpaBase >>> e.size

/-- Requests held on slots that a new entry covers go on, in arrival order, and the slots free (R71). -/
def releaseHeld (p : Fin 4) (e : SheafEntry) (s : State) : State :=
  let held := (s.ports[p].reqs.filter fun r => r.stage = .miss && coversReq e r.req.ldTag r.req.dpa).map (·.req)
  let s1 := updPort p (fun q => { q with slots := q.slots.filter fun m => !coversReq e m.ldTag (m.page <<< 12) }) s
  unstall p (held.foldl (fun t q => translate p q t) s1)

/-- The slot of a miss. -/
def slotOf (s : State) (m : MissRec) : Option MissSlot :=
  s.ports[port4 m.port].slots.find? fun x => x.ldTag = m.ldTag && x.page = m.dpa >>> 12

/-- A walk fault completes every request held on the slot (R73); `status` is what a command reports. -/
def failSlot (m : MissRec) (status : Nat) (s : State) : State :=
  let p := port4 m.port
  let pg := m.dpa >>> 12
  let held := (s.ports[p].reqs.filter fun r => r.stage = .miss && r.req.ldTag = m.ldTag && r.req.dpa >>> 12 = pg).map (·.req)
  let s1 := updPort p (fun q => { q with slots := q.slots.filter fun x => !(x.ldTag = m.ldTag && x.page = pg) }) s
  unstall p (held.foldl (fun t q => refuseReq p q status t) s1)

/-! ## Fills (R71, R83) -/

/-- A finished walk's leaf stands ready in the fill registers for Germ's GO (Tables 3.12 to 3.14). -/
def readyFill (s : State) : State :=
  match s.gate.walks.find? (·.leaf.isSome) with
  | some w =>
    match w.leaf with
    | some e =>
      let d := alignDown w.miss.dpa (eSize e)
      let s1 := regSet offShfFillKey
        (place 56 w.miss.port ||| place 48 w.miss.ldTag ||| BitVec.ofNat 64 (d % 2 ^ 45)) s
      regSet offShfFillCmd (place 32 (w.miss.invSeq % 65536)) (regSet offShfFillMap e s1)
    | none => s
  | none => s

/-- A fill that an invalidation crossed is discarded and its miss raised again with the present INV_SEQ, its requests
kept (R83). -/
def refill (p : Fin 4) (ldTag dpa : Nat) (s : State) : State :=
  let pg := dpa >>> 12
  let o := s.ports[p]
  let s1 := updPort p (fun q => { q with refills := satAdd 16 q.refills 1 }) s
  match o.reqs.find? fun r => r.stage = .miss && r.req.ldTag = ldTag && r.req.dpa >>> 12 = pg with
  | none => updPort p (fun q => { q with slots := q.slots.filter fun x => !(x.ldTag = ldTag && x.page = pg) }) s1
  | some r =>
    let s2 := updPort p (fun q => { q with
      slots := q.slots.map (fun x => if x.ldTag = ldTag && x.page = pg then { x with invSeq := o.invSeq } else x)
      misses := satAdd 48 q.misses 1 }) s1
    let m : MissRec := ⟨p, ldTag, r.req.dpa, reqMaster r.req, r.req.key, o.invSeq, 7⟩
    { s2 with gate := { s2.gate with records := s2.gate.records ++ [m] } }

/-- A leaf that a Sheaf entry can hold: the conditions of Table 3.4 on its format. What it names is Germ's to check (R61,
R71), and the home refuses a protected page on its own (R153). -/
def fillable (s : State) (leaf : Word) : Bool :=
  eValid leaf && eLeaf leaf && match checkEntry s (levelOf (eSize leaf)) leaf with
    | none => true
    | some c => c = 4

/-- GO of SHF_FILL_CMD: a leaf is installed if INV_SEQ matches (R61, R83); the walk that found it ends. -/
def fillGo (s : State) : State :=
  let p := port4 (regField s offShfFillKey 56 2)
  let ldTag := regField s offShfFillKey 48 6
  let leaf := regGet s offShfFillMap
  let dpa := regField s offShfFillKey 12 33 <<< 12
  let seq := regField s offShfFillCmd 32 16
  if !fillable s leaf then s
  else
    let e := entryOf ldTag dpa leaf
    let ends (w : Walk) : Bool := w.leaf.isSome && w.miss.port = p.val && coversReq e w.miss.ldTag w.miss.dpa &&
      w.miss.invSeq % 65536 = seq
    let miss := (s.gate.walks.find? ends).map (·.miss.dpa)
    let gone := s.gate.walks.find? ends
    let s1 := { s with gate := { s.gate with walks := match gone with
      | some w => s.gate.walks.erase w
      | none => s.gate.walks } }
    let s2 := if seq = s1.ports[p].invSeq % 65536 then releaseHeld p e (installEntry p e s1)
      else match miss with
        | some d => refill p ldTag d s1
        | none => updPort p (fun q => { q with refills := satAdd 16 q.refills 1 }) s1
    portSettle p (readyFill s2)

/-! ## Walks (R70 to R73, R177) -/

def setWalk (i : Nat) (w : Walk) (s : State) : State :=
  { s with gate := { s.gate with walks := s.gate.walks.set i w } }

def endWalk (i : Nat) (s : State) : State := { s with gate := { s.gate with walks := dropAt s.gate.walks i } }

/-- A descriptor taken out of the free ones, homed at `k` when one is asked for (R177, R184). -/
def takeDesc (s : State) (ok : Nat → Bool) : Option Nat × State :=
  let total := s.tier.descFree.foldl (fun n r => n + r.2) 0
  if total = 0 then (none, s)
  else
    let (c, s1) := drawChoice total s
    match (nthPage s.tier.descFree c).bind fun a => seekFree s.tier.descFree a fun d => ok (64 * d) with
    | some d => (some (64 * d), { s1 with tier := { s1.tier with descFree := takePage d s1.tier.descFree } })
    | none => (none, s1)

/-- A descriptor is free again. -/
def returnDesc (d : Nat) (s : State) : State :=
  if mayReuse s d then { s with tier := { s.tier with descFree := freePage (d / 64) s.tier.descFree } } else s

/-- Germ backs an unbacked page (R177): with a fresh packed page, else with a blank page of the pool, else the requests
wait. -/
def backPage (ldTag dpa : Nat) (s : State) : Bool × State :=
  match regionAt s ldTag dpa with
  | none => (false, s)
  | some r =>
    let pg := pageBase dpa
    let plain (t : State) : Bool × State :=
      match allocPage (regionPool r) t with
      | (some m, u) => (true, writeMapping r pg 12 (mkLeaf 12 r.pinned false m) u)
      | (none, u) => (false, raise blkTier 4 Cap.none u)
    if !r.elastic then (false, s)
    else if r.pinned then plain s
    else match takeDesc s (fun _ => true) with
      | (some d, s1) =>
        (true, writeMapping r pg 12 (mkLeaf 12 false true d) (writeDesc d 0 (holdPath 7 d s1)))
      | (none, s1) =>
        let (b, s2) := plain s1
        (b, if b then s2 else raise blkTier 5 Cap.none s2)

/-- Walk `i` found no backing; it waits while Germ restarts (R24). -/
def walkUnbacked (i : Nat) (w : Walk) (s : State) : State :=
  if !s.fw.germUp then setWalk i { w with waiting := true } s
  else match backPage w.miss.ldTag w.miss.dpa s with
  | (true, s1) =>
    let (w1, s2) := restartWalk w s1
    setWalk i w1 s2
  | (false, s1) => setWalk i { w with waiting := true } s1

/-- Walks that waited for a page or a descriptor try again when one frees (R177). -/
def retryWalks (s : State) : State :=
  if s.domainDown || !s.fw.germUp then s
  else (List.range s.gate.walks.length).foldl (fun t i =>
    match t.gate.walks[i]? with
    | some w => if w.waiting then walkUnbacked i w t else t
    | none => t) s

/-- The entry that walk `i` reads returns and is checked (R70, R72). -/
def walkStep (i : Nat) (noise : Image) (s : State) : State :=
  match s.gate.walks[i]? with
  | none => s
  | some w =>
    if w.leaf.isSome || w.waiting then s
    else
      let a := entryAddr w.table w.level w.miss.ldTag w.miss.dpa
      match readEntry a idWalk noise s with
      | (none, s1) => failSlot w.miss 8 (endWalk i s1)
      | (some e, s1) =>
        if !eValid e then walkUnbacked i w s1
        else match checkEntry s1 w.level e with
          | some b => failSlot w.miss 8 (endWalk i (raise blkSheaf b ⟨a, 1, w.miss.master, 7, some w.miss.key⟩ s1))
          | none =>
            if eLeaf e then readyFill (setWalk i { w with leaf := some e } s1)
            else
              let c : WalkPtr := ⟨w.miss.ldTag, w.level, w.miss.dpa >>> spanOf w.level, e⟩
              let (w1, s2) := descend 5 w (cachePtr c s1)
              setWalk i w1 s2

/-! ## Invalidation (R78 to R84) -/

/-- An entry's range overlaps the invalidated one. -/
def invHits (all : Bool) (tag lo size : Nat) (e : SheafEntry) : Bool :=
  (all || e.ldTag = tag) && e.dpaBase < lo + 2 ^ size && lo < e.dpaBase + 2 ^ e.size

/-- A port removes what the invalidation names, marks the requests that may still use the old translation, and counts it
(Table 3.7). -/
def invPort (p : Fin 4) (all : Bool) (tag dpa size : Nat) (s : State) : State :=
  let lo := alignDown dpa size
  let marks (r : OpenReq) : Bool := (match r.stage with | .home _ => true | _ => false) &&
    (all || r.req.ldTag = tag) && lo ≤ r.req.dpa && r.req.dpa < lo + 2 ^ size
  let pins := s.ports[p].sheaf.filter fun e => e.pinned && invHits all tag lo size e
  let s1 := updPort p (fun q => { q with
    sheaf := q.sheaf.filter fun e => !invHits all tag lo size e
    reqs := q.reqs.map fun r => if marks r then { r with marked := true } else r
    invSeq := (q.invSeq + 1) % 65536
    invBusy := true }) s
  { s1 with gate := { s1.gate with reinstall := s1.gate.reinstall ++ pins.map fun e => (p.val, e) } }

/-- The invalidation of a range is broadcast to the four ports (R78 step 3, R81). -/
def invalidate (all : Bool) (tag dpa size : Nat) (s : State) : State :=
  let g := { s.gate with
    invOpen := true, invTimedOut := false, invAck := 0, invCount := (s.gate.invCount + 1) % 65536
    invSize := size, invAll := all, invTag := tag, invDpa := dpa, invStart := s.dtime }
  eachPort invAckStep (eachPort (fun p t => invPort p all tag dpa size t) { s with gate := g })

/-- The invalidation of a page for every LD that reaches its region (R78 step 3). -/
def invalidatePage (r : Region) (dpa : Nat) (s : State) : State :=
  match regionLds r with
  | [ld] => invalidate false ld dpa 12 s
  | _ => invalidate true 0 dpa 12 s

/-- Germ changes the translation of a page in its own steps: it writes the new leaf and broadcasts the invalidation (R78). -/
def remapPage (r : Region) (dpa : Nat) (leaf : Word) (s : State) : State :=
  invalidatePage r dpa (writeMapping r dpa 12 leaf s)

/-! ## Pinned entries (R67, R82) -/

/-- Germ installs the leaves that map a range of an LD into its port, pinned while R66 permits. -/
def installRange (ldTag dpa size : Nat) (s : State) : State :=
  let (ls, s1) := leavesIn (size / 4096 + 1) ldTag dpa (dpa + size) s
  ls.foldl (fun t l => installEntry (port4 (ldTag / 16)) { entryOf ldTag l.1 l.2 with pinned := true } t) s1

/-- The ranges that Germ keeps pinned in a port: the pinned regions of its LDs and its pin list, by LD tag, then DPA. -/
def pinRanges (s : State) (p : Fin 4) : List (Nat × Nat × Nat) :=
  (List.range 16).flatMap fun i =>
    let t := 16 * p.val + i
    let rs := ((regions s).filter fun r => r.pinned && ldReaches t r).map fun r => (t, r.dpaBase, 2 ^ r.size)
    let ps := (s.ports[p].pins.filter fun x => x.ldTag = t).map fun x => (t, x.dpa, x.size)
    sortBy (·.2.1) (rs ++ ps)

/-- Every pinned range installed in every port (R67). -/
def installPinned (s : State) : State :=
  eachPort (fun p t => (pinRanges t p).foldl (fun u x => installRange x.1 x.2.1 x.2.2 u) t) s

/-- The pinned entries that the invalidation removed come back with the new mapping (R82). -/
def reinstallPinned (s : State) : State :=
  let todo := sortBy (fun a => (a.1 * 64 + a.2.ldTag) * 2 ^ 64 + a.2.dpaBase) s.gate.reinstall
  todo.foldl (fun t e => installRange e.2.ldTag e.2.dpaBase (2 ^ e.2.size) t)
    { s with gate := { s.gate with reinstall := [] } }

end Sys2Proof.Machine
end

