-- ==== Sys2Proof/Machine/Tiering.lean ====
section
/-! DEFINITION. Moves between tiers and away from retired pages (R187 to R191, R196, R240), the granule and promotion stocks
(R184), forwarded pages (R185, R189) and the hot tables (R186). -/

namespace Sys2Proof.Machine

/-! ## Moves -/

def updMove (mid : Nat) (f : Move → Move) (s : State) : State :=
  { s with tier := { s.tier with moves := s.tier.moves.map fun m => if m.mid = mid then f m else m } }

def moveOf (s : State) (mid : Nat) : Option Move := s.tier.moves.find? (·.mid = mid)

/-- The 4 KiB page that holds a plain page or a descriptor (R188 step 2). -/
def unitPage (m : Nat) : Nat := pageBase m

/-- A home has 16 moves open (R187). -/
def homeFull (s : State) (k : Nat) : Bool := 16 ≤ (s.tier.moves.filter fun m => home m.dst = k).length

/-- The leaf that names a move's destination. -/
def moveLeaf (r : Region) (m : Move) : Word := mkLeaf 12 r.pinned m.dstPacked m.dst

/-- Steps 2 to 4 of R188 as far as they can go: the hold on the destination is placed, then, while no invalidation is open,
the new leaf is written, unless it was before a restart (R191), and the invalidation broadcast. -/
def moveInval (mid : Nat) (s : State) : State :=
  match moveOf s mid with
  | none => s
  | some m =>
    if m.step ≠ .alloc && m.step ≠ .leaf then s
    else match ownHold (.move mid) (unitPage m.dst) s, regionAt s m.ldTag m.dpa with
      | some s1, some r =>
        if s1.gate.invOpen then s1
        else
          let s2 := if m.step = .alloc then remapPage r m.dpa (moveLeaf r m) s1 else invalidatePage r m.dpa s1
          updMove mid (fun m => { m with step := .inval, inv := s2.gate.invCount }) s2
      | _, _ => s

/-- A move is opened: its destination is allocated and held (R188 steps 1, 2). -/
def startMove (ldTag dpa src : Nat) (srcPacked : Bool) (dst : Nat) (dstPacked : Bool) (slot : Option Nat) (retire : Bool)
    (s : State) : State :=
  let (mid, s1) := takeSeq s
  let m : Move := ⟨mid, ldTag, dpa, srcPacked, src, dstPacked, dst, .alloc, 0, slot, retire⟩
  moveInval mid { s1 with tier := { s1.tier with moves := s1.tier.moves ++ [m] } }

/-- The page of a region is the subject of an open move. -/
def moveOpen (s : State) (r : Region) (dpa : Nat) : Bool :=
  s.tier.moves.any fun m => m.dpa = pageBase dpa && regionAt s m.ldTag m.dpa = some r

/-- The invalidation numbered `inv` has been acknowledged by every port. -/
def invAcked (s : State) (inv : Nat) : Bool := !(s.gate.invOpen && s.gate.invCount = inv)

/-- The plain page that a FORWARD descriptor at `d` names (R181 step 2). -/
def forwardedTo (s : State) (d : Nat) : Option Nat :=
  match peekDesc s d with
  | some l => if descForm l = 1 then some (forwardPage l) else none
  | none => none

/-- Where the lines of a packed page lie for their home: under its descriptor, or in the plain page it was forwarded to. -/
def packedAt (s : State) (d : Nat) : Nat := (forwardedTo s d).getD d

/-- Where the lines of a move's source lie. -/
def moveFrom (s : State) (m : Move) : Nat := if m.srcPacked then packedAt s m.src else m.src

/-- Its home works on no request, job or forwarding of the 4 KiB page of `b`: what it took before the page was held or its
translation changed has ended. -/
def pageQuiet (s : State) (b : Nat) : Bool :=
  let q := s.spks[spkOf b]
  let pg := unitPage b
  (q.txns.all fun t => t.state = .parked || holdPage t.msg ≠ pg) &&
    (q.jobs.all fun j => j.kind matches .page _ || pageBase j.desc ≠ pg) && q.forwards.all fun f => f.done || pageBase f.desc ≠ pg

def doMigrationRecall (mid : Nat) (s0 : State) : State :=
  let s1 := allSettle s0
  if s1.domainDown || !s1.fw.germUp then s1
  else
    let s := moveInval mid s1
    match moveOf s mid with
    | none => s
    | some m =>
      let b := moveFrom s m
      let k := spkOf b
      if m.step ≠ .inval || !invAcked s m.inv || s.spks[k].recalling.isSome || !pageQuiet s m.src then s
      else
        let s2 := updSpk k (fun q => { q with recalling := some (unitPage b) }) s
        updMove mid (fun m => { m with step := .recall }) (afterAnswers k (recallMore k (.recall (unitPage b)) s2))

/-- Every port has acknowledged a move's invalidation: Germ recalls its source (R188 step 5). -/
def execMigrationRecall (mid : Nat) (s : State) : Host.Outcome State Fault Refusal := .next (doMigrationRecall mid s)

/-- The lines of a plain page, with the key its page-key record binds it to. -/
def readPlainSource (p : Nat) (awn : Bool) (noise : Image) (s : State) : List PageLine × Option Nat × State :=
  let key := pktBound (holdPath 7 p s) p
  let (ls, s1) := readPlainPage p awn noise s
  (ls, key, s1)

/-- The lines of a move's source, with the key its page is bound to (R188 step 6). A packed page that was forwarded is read
where it lies (R181). -/
def readSource (m : Move) (awn : Bool) (noise : Image) (s : State) : List PageLine × Option Nat × State :=
  if m.srcPacked then
    let (r, s1) := readDesc m.src noise (holdPath 7 m.src s)
    match readPlain r with
    | some d =>
      if descForm d = 1 then readPlainSource (forwardPage d) awn 0 s1
      else
        let (ls, s2) := readPackedPage (spkOf m.src) d awn 0 s1
        (ls, descBound d, s2)
    | none => (List.replicate 64 .failed, none, readCause m.src (descAcc m.src) r s1)
  else readPlainSource m.src awn noise s

def moveAwn (s : State) (m : Move) : Bool := ((regionAt s m.ldTag m.dpa).map (·.awn)).getD false
def moveStrong (s : State) (m : Move) : Bool := ((regionAt s m.ldTag m.dpa).map (·.strong)).getD false

def isBlank : PageLine → Bool
  | .blank => true
  | _ => false

def isFailed : PageLine → Bool
  | .failed => true
  | _ => false

def pageLineBytes : PageLine → List Byte
  | .data l => lineBytes l
  | _ => List.replicate 64 0

/-- A page compression job over the four blocks of a page; a block of blank lines alone is recorded EMPTY, as no bytes. -/
def pageJob (m : Move) (key : Nat) (ls : List PageLine) (s : State) : State :=
  let (jid, s1) := takeSeq s
  let blocks := (List.range 4).map fun b => (ls.drop (16 * b)).take 16
  let j : Job := ⟨jid, .page m.mid, m.dst, key,
    blocks.map (fun b => if b.all isBlank then [] else b.flatMap pageLineBytes), blocks.map (·.map isFailed), []⟩
  updSpk (spkOf m.dst) (fun q => { q with jobs := q.jobs ++ [j] }) s1

def doMigrationCopy (mid : Nat) (noise : Image) (par : Parity) (s : State) : State :=
  if halted s || entering s then s
  else match moveOf s mid with
    | none => s
    | some m =>
      let b := moveFrom s m
      if m.step ≠ .recall || s.spks[spkOf b].recalling = some (unitPage b) || !pageQuiet s b ||
          !backgroundMay s [m.src, m.dst] (some (unitPage m.dst)) then s
      else
        chanAccess m.src true par ⟨m.src, 1, idMigration, 8, none⟩ (fun u =>
          let awn := moveAwn u m
          let (ls, key, s1) := readSource m awn noise u
          if m.dstPacked then updMove mid (fun m => { m with step := .job }) (pageJob m (key.getD 0) ls s1)
          else
            let s2 := match key with
              | some k => setPkt m.dst (some k) (holdPath 7 m.dst s1)
              | none => s1
            updMove mid (fun m => { m with step := .release }) (fillPage m.dst (key.getD 0) awn ls s2)) s

/-- The migration engine reads the source and writes the destination (R188 step 6). -/
def execMigrationCopy (mid : Nat) (noise : Image) (par : Parity) (s : State) : Host.Outcome State Fault Refusal :=
  .next (doMigrationCopy mid noise par s)

/-- A page is in no pool again: its proposal to retire it is DONE (R240). -/
def pageRetired (m : Nat) (s : State) : State := endAccepted 3 2 0 (fun b => propField b 8 8 = m) s

/-- Granules that Germ has freed: kept for its stocks, and a granule page whose 16 granules are all free is blanked and
returned to its pool, or retired (R184, R240). DESIGN CHOICE: the page is in no region, and its blank seals take the form of a
region with awn off (R130, R158; log entry 146). -/
def freeGranules (gs : List Granule) (s : State) : State :=
  let s1 := { s with tier := { s.tier with granFree := s.tier.granFree ++ gs } }
  ((gs.map fun g => pageBase (g.addr <<< 8)).eraseDups).foldl (fun t pg =>
    if (t.tier.granFree.filter fun g => pageBase (g.addr <<< 8) = pg).length < 16 then t
    else
      let t1 := { t with tier := { t.tier with
        granFree := t.tier.granFree.filter fun g => pageBase (g.addr <<< 8) ≠ pg
        granulePages := kdel t.tier.granulePages pg } }
      pageRetired pg (returnPage pg (blankPage pg false t1))) s1

/-- A plain page that a move has left is blanked and returned to its pool, or retired. DESIGN CHOICE: it is in no region, and
its blank seals take the form of a region with awn off (R130, R158; log entry 146). -/
def leavePage (p : Nat) (retire : Bool) (s : State) : State :=
  let s1 := if spanPoisoned s p then s else blankPage p false s
  if retire then pageRetired p s1 else returnPage p s1

/-- A descriptor is free: what it holds is released, with the granules of the page before it was forwarded, and it is a fresh
one again. -/
def leaveDesc (d : Nat) (retire : Bool) (s : State) : State :=
  let (r, s1) := readDesc d 0 (holdPath 7 d s)
  let l := (readPlain r).getD 0
  let k := spkOf d
  let old := (s1.spks[k].forwards.filter (·.desc = d)).flatMap fun f => f.old.map fun g => (⟨g, f.key⟩ : Granule)
  let s2 := updSpk k (fun q => { q with forwards := q.forwards.filter (·.desc ≠ d) }) s1
  let s3 := if descForm l = 1 then leavePage (forwardPage l) retire (freeGranules old s2)
    else freeGranules (((List.range 4).flatMap (descGranules l)).map fun g => ⟨g, descKey l⟩) s2
  if spanPoisoned s3 d then s3 else writeDesc d 0 (holdPath 7 d s3)

/-- The source of a move is blanked and its space returned (R188 step 8); a retired page stays out of its pool. -/
def freeSource (m : Move) (s : State) : State :=
  if m.srcPacked then returnDesc m.src (leaveDesc m.src m.retire s) else leavePage m.src m.retire s

/-- The requests that name a packed page now forwarded are named by its plain line. -/
def redirectTxns (k : Fin 8) (d p : Nat) (s : State) : State :=
  updSpk k (fun q => { q with txns := q.txns.map fun u =>
    match u.msg.packed with
    | some i => if u.msg.mpa = d then { u with msg := { u.msg with mpa := p + 64 * i, packed := none } } else u
    | none => u }) s

def doMigrationRelease (mid : Nat) (s : State) : State :=
  if s.domainDown || !s.fw.germUp then s
  else match moveOf s mid with
    | none => s
    | some m =>
      if m.step ≠ .release then s
      else
        let bad := !m.srcPacked && spanPoisoned s m.src
        let s0 := match if m.dstPacked then forwardedTo s m.dst else none with
          | some p => redirectTxns (spkOf m.dst) m.dst p s
          | none => s
        let s1 := freeSource m (disownHold (.move mid) (unitPage m.dst) s0)
        let t := s1.tier
        let s2 := retryWalks { s1 with tier := { t with
          moves := t.moves.filter (·.mid ≠ mid)
          promoted := if m.srcPacked && !m.dstPacked then satAdd 48 t.promoted 1 else t.promoted
          demoted := if !m.srcPacked && m.dstPacked then satAdd 48 t.demoted 1 else t.demoted } }
        match m.slot with
        | some i => setVerdict i (if bad then 4 else 2) (if bad then 8 else 0) 0 s2
        | none => s2

/-- The hold on the destination is released and the source returns to its pool (R188 steps 7, 8). -/
def execMigrationRelease (mid : Nat) (s : State) : Host.Outcome State Fault Refusal :=
  .next (allSettle (doMigrationRelease mid s))

/-! ## Page jobs (R173, R188 step 6, R189) -/

def setOutput (k : Fin 8) (jid : Nat) (out : List (List Byte)) (s : State) : State :=
  updSpk k (fun q => { q with jobs := q.jobs.map fun x => if x.jid = jid then { x with output := out } else x }) s

def dropJob (k : Fin 8) (jid : Nat) (s : State) : State :=
  updSpk k (fun q => { q with jobs := q.jobs.filter (·.jid ≠ jid) }) s

def stockEmpty (k : Fin 8) (j : Job) (s : State) : State :=
  raise blkTier 6 ⟨j.desc, 1, idGlume k, 0xE, some j.key⟩ s

/-- A failed page job completes the move as a FORWARD page (R189); with no page in the promotion stock it waits. -/
def forwardMove (k : Fin 8) (j : Job) (m : Move) (s : State) : State :=
  match s.spks[k].promo.find? fun p => inStrong s p = moveStrong s m with
  | none => setOutput k j.jid [[]] (stockEmpty k j s)
  | some p =>
    let awn := moveAwn s m
    let (ls, key, s1) := readSource m awn 0 (updSpk k (fun q => { q with promo := q.promo.erase p }) s)
    let s2 := match key with
      | some x => setPkt p (some x) (holdPath 7 p s1)
      | none => s1
    let s3 := writeDesc m.dst (forwardDesc key p) (holdPath 7 m.dst (fillPage p (key.getD 0) awn ls s2))
    let s4 := raise blkTier 7 ⟨m.dst, 1, idMigration, 9, key⟩
      { s3 with tier := { s3.tier with forwarded := satAdd 48 s3.tier.forwarded 1 } }
    let f : Forward := ⟨m.dst, 0, some p, true, m.ldTag, m.dpa, key.getD 0, [], none⟩
    updMove m.mid (fun m => { m with step := .release })
      (dropJob k j.jid (updSpk k (fun q => { q with forwards := q.forwards ++ [f] }) s4))

/-- The compressed blocks of a page reach granules of the home's stock, then the descriptor names them. -/
def storePage (k : Fin 8) (j : Job) (m : Move) (outs : List (List Byte)) (s : State) : State :=
  let awn := moveAwn s m
  let want := (outs.map fun o => if o.isEmpty then 0 else granulesOf o.length).sum
  match takeGranules want k j.key (moveStrong s m) s with
  | (none, _) => setOutput k j.jid outs (stockEmpty k j s)
  | (some gs, s1) =>
    let (s2, d, _) := (List.range 4).foldl (fun (a : State × Line × List Nat) b =>
      let o := outs.getD b []
      if o.isEmpty then a
      else
        let n := granulesOf o.length
        (writeBlock 7 (a.2.2.take n) j.key awn o a.1, setBlock a.2.1 b (a.2.2.take n), a.2.2.drop n)) (s1, 0, gs)
    let d1 := if want = 0 then d else bindDesc d j.key
    let s3 := writeDesc m.dst d1 (holdPath 7 m.dst s2)
    updMove m.mid (fun m => { m with step := .release }) (dropJob k j.jid (updSpk k (fun q => { q with
      glumeComp := satAdd 48 q.glumeComp (outs.filter (!·.isEmpty)).length
      glumeBytes := satAdd 48 q.glumeBytes (outs.map List.length).sum }) s3))

/-- A page job ends: every block fits and no line is poisoned, or the job fails (R173). -/
def pageJobDone (k : Fin 8) (j : Job) (mid : Nat) (streams : List (List Byte)) (s : State) : State :=
  match moveOf s mid with
  | none => dropJob k j.jid s
  | some m =>
    if !j.output.isEmpty then s
    else if j.poisoned.any (·.any id) then forwardMove k j m (failJob k j s)
    else
      let outs := (List.range 4).map fun b =>
        let p := j.plain.getD b []
        if p.isEmpty then some [] else compressBlock false (streams.getD b []) p
      if outs.any Option.isNone then s
      else
        let os := outs.filterMap id
        if os.any fun o => 768 < o.length then forwardMove k j m (failJob k j s) else storePage k j m os s

/-- A block job ends (R183 steps 5 to 7, R185). -/
def blockJobDone (k : Fin 8) (j : Job) (b tid : Nat) (streams : List (List Byte)) (s : State) : State :=
  if !j.output.isEmpty || (s.spks[k].forwards.any fun f => f.desc = j.desc && !f.done) then s
  else if (j.poisoned.headD []).any id then startForward k j tid (failJob k j s)
  else match compressBlock true (streams.headD []) (j.plain.headD []) with
    | none => s
    | some out => if 768 < out.length then startForward k j tid (failJob k j s) else storeBlock k j b tid out s

def doCompressionJobDone (k : Fin 8) (jid : Nat) (streams : List (List Byte)) (s : State) : State :=
  if halted s then s
  else match s.spks[k].jobs.find? (·.jid = jid) with
    | none => s
    | some j => match j.kind with
      | .block b tid => stepForwards k (blockJobDone k j b tid streams s)
      | .page mid => pageJobDone k j mid streams s

/-- A compression job ends; `streams` is the engine's choice of tokens for each block (R161, R173). A choice that does not
spell the block's plaintext is none the engine makes, and changes nothing. -/
def execCompressionJobDone (k : Fin 8) (jid : Nat) (streams : List (List Byte)) (s : State) :
    Host.Outcome State Fault Refusal := .next (allSettle (doCompressionJobDone k jid streams s))

/-! ## Forwarded pages (R185, R189) -/

def updForward (k : Fin 8) (d : Nat) (f : Forward → Forward) (s : State) : State :=
  updSpk k (fun q => { q with forwards := q.forwards.map fun x => if x.desc = d then f x else x }) s

/-- After all four acknowledgements Germ frees the descriptor and the old granules. -/
def endForward (k : Fin 8) (f : Forward) (s : State) : State :=
  let s1 := freeGranules (f.old.map fun g => ⟨g, f.key⟩) s
  let s2 := returnDesc f.desc (writeDesc f.desc 0 (holdPath 7 f.desc s1))
  retryWalks (updSpk k (fun q => { q with forwards := q.forwards.filter (·.desc ≠ f.desc) }) s2)

def doForwardRepoint (k : Fin 8) (desc : Nat) (s0 : State) : State :=
  let s := allSettle s0
  if s.domainDown || !s.fw.germUp then s
  else match s.spks[k].forwards.find? fun f => f.desc = desc && f.done with
    | none => s
    | some f =>
      match f.inv, f.page with
      | some n, _ => if invAcked s n then endForward k f s else s
      | none, some p =>
        if s.gate.invOpen || s.tier.moves.any (fun m => m.dst = desc || m.src = desc) then s
        else match regionAt s f.ldTag f.dpa with
          | none => s
          | some r =>
            let s1 := remapPage r f.dpa (mkLeaf 12 r.pinned false p) s
            let n := s1.gate.invCount
            let s2 := updForward k desc (fun x => { x with inv := some n }) s1
            if invAcked s2 n then endForward k { f with inv := some n } s2 else s2
      | none, none => s

/-- On the home's signal Germ repoints the leaf to the plain page by R78; once every port has acknowledged, the descriptor
and the old granules are freed (R185). -/
def execForwardRepoint (k : Fin 8) (desc : Nat) (s : State) : Host.Outcome State Fault Refusal :=
  .next (doForwardRepoint k desc s)

/-! ## Stocks (R184) -/

/-- One blank page of a pool joins the promotion stock of its home. -/
def refillPromo (k : Fin 8) (n : Fin 2) (s : State) : State :=
  if 512 ≤ s.spks[k].promo.length || !((regions s).any fun r => r.elastic && regionPool r = n) then s
  else match allocHomed n k s with
    | (some p, s1) => updSpk k (fun q => { q with promo := q.promo ++ [p] }) s1
    | (none, s1) => s1

/-- Free granules of the home refill its stock. -/
def refillStock (k : Fin 8) (s : State) : State :=
  let mine := s.tier.granFree.filter fun g => home (g.addr <<< 8) = k.val && !s.tier.retired.contains (pageBase (g.addr <<< 8))
  let gs := mine.take (1024 - s.spks[k].stock.length)
  updSpk k (fun q => { q with stock := q.stock ++ gs })
    { s with tier := { s.tier with granFree := s.tier.granFree.filter fun g => !gs.contains g } }

/-- Jobs and forwards that waited on a stock go on. -/
def retryStock (k : Fin 8) (s : State) : State :=
  let s1 := s.spks[k].jobs.foldl (fun t j =>
    if j.output.isEmpty then t
    else match j.kind with
      | .block b tid => storeBlock k j b tid (j.output.headD []) (setOutput k j.jid [] t)
      | .page mid => match moveOf t mid with
        | none => t
        | some m =>
          let t1 := setOutput k j.jid [] t
          if j.output.length = 4 then storePage k j m j.output t1 else forwardMove k j m t1) s
  let s2 := (s1.spks[k].forwards.filter (·.page.isNone)).foldl (fun t f =>
    match t.spks[k].jobs.find? fun j => match j.kind with
      | .block _ tid => tid = f.tid
      | .page _ => false with
    | some j => startForward k j f.tid t
    | none => t) s1
  stepForwards k s2

def doStockRefill (k : Fin 8) (s : State) : State :=
  if s.domainDown || !s.fw.germUp then s
  else
    let s1 := freeGranules s.spks[k].release (updSpk k (fun q => { q with release := [] }) s)
    let s2 := refillPromo k 1 (refillPromo k 0 (refillStock k s1))
    retryWalks (retryStock k s2)

/-- Germ drains the release ring of a home, refills its stocks, and what waited on them goes on (R177, R184). -/
def execStockRefill (k : Fin 8) (s : State) : Host.Outcome State Fault Refusal := .next (allSettle (doStockRefill k s))

/-! ## Hotness and held writes (R186, R195) -/

def doHotEpoch (s : State) : State :=
  let e := 1000000 * regField s offHotCfg 8 8
  let s1 := if e = 0 then s else timeTo ((s.dtime / e + 1) * e) s
  eachSpk (fun k t => updSpk k (fun q => { q with hot := q.hot.map fun x => (x.1, { x.2 with count := x.2.count / 2 }) }) t) s1

/-- EPOCH ms have passed: every COUNT is halved (R186). -/
def execHotEpoch (s : State) : Host.Outcome State Fault Refusal := .next (doHotEpoch s)

def doHeldWriteRelease (n : Fin 2) (s : State) : State :=
  let s1 := judgePool n s
  if s1.tier.pools[n].state = .critical || halted s1 then s1
  else eachPort (fun p t => pumpFreed p (admitHeld p (rollWindow p t))) s1

/-- A pool has left a state: the writes it held are admitted as the new state lets them (R194, R195). -/
def execHeldWriteRelease (pool : Fin 2) (s : State) : Host.Outcome State Fault Refusal :=
  .next (allSettle (doHeldWriteRelease pool s))

/-! ## Proposals on pages (Table 7.3) -/

/-- What a page of an LD is mapped to: its leaf, if it has one. -/
def pageLeaf (ldTag dpa : Nat) (s : State) : Option Word × State :=
  match lookLeaf ldTag dpa s with
  | (.inl e, s1) => (some e, s1)
  | (.inr _, s1) => (none, s1)

/-- A DISCARD or ZERO that a command queue has started covers the page (R190). -/
def commandOpen (s : State) (r : Region) (dpa : Nat) : Bool :=
  (List.range 64).any fun n => (qpAt s n).taken.any fun t =>
    t.started && (dOpcode t.desc = 1 || dOpcode t.desc = 2) && regionAt s n (dDpa t.desc) = some r &&
      dDpa t.desc ≤ dpa && dpa < dDpa t.desc + 4096 * dCount t.desc

/-- Destinations are free, but only at homes with 16 moves open (R187). -/
def onlyFull (rs : List (Nat × Nat)) (ok full : Nat → Bool) : Bool :=
  (seekFree rs 0 ok).isSome && (seekFree rs 0 fun x => ok x && !full x).isNone

/-- A page of pool `n` is free, but only at homes with 16 moves open. -/
def pagesFull (s : State) (n : Fin 2) : Bool :=
  onlyFull s.tier.pools[n].free (fun pg => !pageSpare s pg) fun pg => homeFull s (home (pg <<< 12))

/-- A descriptor is free, but only at homes with 16 moves open. -/
def descsFull (s : State) : Bool := onlyFull s.tier.descFree (fun _ => true) fun d => homeFull s (home (64 * d))

/-- The outcome of deciding a proposal: a reason to refuse, or the state with the action begun and whether it is DONE. -/
inductive Decision where
  | refuse (reason detail : Nat)
  | done
  | accept
deriving DecidableEq, Repr

/-- Table 7.3, PROMOTE. -/
def decidePromote (slot ldTag dpa : Nat) (s : State) : Decision × State :=
  match regionAt s ldTag dpa with
  | none => (.refuse 1 0, s)
  | some r =>
    if !r.elastic then (.refuse 1 0, s)
    else match pageLeaf ldTag dpa s with
      | (none, s1) => (.refuse 2 0, s1)
      | (some e, s1) =>
        if eTier e ≠ 1 || (forwardedTo s1 (eAddr e)).isSome then (.refuse 3 0, s1)
        else if moveOpen s1 r dpa || commandOpen s1 r dpa || pagesFull s1 (regionPool r) then (.refuse 5 0, s1)
        else if s1.tier.pools[regionPool r].state ≠ .normal then (.refuse 6 0, s1)
        else match allocPick (regionPool r) (fun pg => !homeFull s1 (home (pg <<< 12))) s1 with
          | (none, s2) => (.refuse 7 0, s2)
          | (some d, s2) => (.accept, startMove ldTag dpa (eAddr e) true d false (some slot) false s2)

/-- Table 7.3, DEMOTE. -/
def decideDemote (slot ldTag dpa : Nat) (s : State) : Decision × State :=
  match regionAt s ldTag dpa with
  | none => (.refuse 1 0, s)
  | some r =>
    if !r.elastic then (.refuse 1 0, s)
    else match pageLeaf ldTag dpa s with
      | (none, s1) => (.refuse 2 0, s1)
      | (some e, s1) =>
        if eTier e ≠ 0 then (.refuse 3 0, s1)
        else if r.pinned then (.refuse 4 0, s1)
        else if moveOpen s1 r dpa || commandOpen s1 r dpa || descsFull s1 then (.refuse 5 0, s1)
        else match takeDesc s1 (fun d => !homeFull s1 (home d)) with
          | (none, s2) => (.refuse 7 0, s2)
          | (some d, s2) =>
            let s3 := writeDesc d 0 (holdPath 7 d s2)
            (.accept, startMove ldTag dpa (eAddr e) false d true (some slot) false s3)

/-! ## Retiring a page (R239, R240, Table 9.4) -/

/-- The forwarding, not yet repointed, whose plain page is `p` (R185). -/
def forwardOf (s : State) (p : Nat) : Option Forward :=
  (s.spks.toList.flatMap (·.forwards)).find? fun f => f.done && f.page = some p

/-- The LD and DPA page that a plain page backs, found in the remap table by Germ, or known from its forwarding. -/
def findBacked (m : Nat) (s : State) : Option (Nat × Nat) × State :=
  match forwardOf s (pageBase m) with
  | some f => (some (f.ldTag, f.dpa), s)
  | none =>
  (regions s).foldl (fun (a : Option (Nat × Nat) × State) r =>
    match a.1, (regionLds r).head? with
    | none, some t =>
      let (ls, s1) := leavesIn (2 ^ 33) t r.dpaBase (r.dpaBase + 2 ^ r.size) a.2
      match ls.find? fun l => eTier l.2 = 0 && inRange (eAddr l.2) (2 ^ eSize l.2) m with
      | some l => (some (t, l.1 + (m - eAddr l.2)), s1)
      | none => (none, s1)
    | _, _ => a) (none, s)

/-- The slots of a covering leaf at a level written as leaves of one slot each, but the slot on the path of `dpa`, which takes
a table of such leaves of the next level; down to a leaf of 4 KiB (R240). -/
def splitLeaf : Nat → Nat → Nat → Nat → Nat → State → State
  | 0, _, _, _, _, s => s
  | fuel + 1, ldTag, dpa, level, table, s =>
    let a := entryAddr table level ldTag dpa
    match readEntry a idGerm 0 s with
    | (none, s1) => s1
    | (some e, s1) =>
      if !eValid e then s1
      else if !eLeaf e then splitLeaf fuel ldTag dpa (level - 1) (eAddr e) s1
      else
        let sp := spanOf level
        let b := alignDown dpa (eSize e)
        let leafFor (size x : Nat) : Word := mkLeaf size (ePinned e) false (eAddr e + (x - b))
        let s2 := (List.range (2 ^ (eSize e - sp))).foldl (fun t i =>
          let x := b + i * 2 ^ sp
          if level ≠ 0 && dpa >>> sp = x >>> sp then t
          else writeEntry (entryAddr table level ldTag x) (leafFor sp x) t) s1
        if level = 0 then s2
        else match takeTable s2 with
          | (none, s3) => s3
          | (some tb, s3) =>
            let lo := alignDown dpa sp
            let sq := spanOf (level - 1)
            let s4 := (List.range (2 ^ (sp - sq))).foldl (fun t i =>
              let x := lo + i * 2 ^ sq
              writeEntry (entryAddr tb (level - 1) ldTag x) (leafFor sq x) t) s3
            splitLeaf fuel ldTag dpa (level - 1) tb (writeEntry a (BitVec.ofNat 64 tb ||| 1) s4)

/-- The covering leaf of a firm page split for every LD of the region, with the flush of R77. -/
def splitPage (r : Region) (dpa : Nat) (s : State) : State :=
  (regionLds r).foldl (fun t ld =>
    flushCache false ld (alignDown dpa r.size) r.size (splitLeaf 5 ld dpa 4 (rootTable t) t)) s

/-- Free places of a page that Germ keeps: a pool, or a promotion stock. -/
def dropFree (m : Nat) (s : State) : State :=
  let s1 := eachSpk (fun k t => updSpk k (fun q => { q with promo := q.promo.erase m }) t) s
  setPool 1 (takePage (m >>> 12)) (setPool 0 (takePage (m >>> 12)) s1)

/-- Table 9.4, RETIRE_PAGE. DEDUCED: a CRITICAL pool gives no page to a new proposal (Table 7.6), which finds NO_SPACE (log entry
147). -/
def decideRetirePage (slot m : Nat) (s : State) : Decision × State :=
  let retired (t : State) : State := { t with tier := { t.tier with retired := t.tier.retired ++ [m] } }
  if isProtected s m || pageSpare s (m >>> 12) || populated (geom s) ≤ m then (.refuse 8 0, s)
  else if s.tier.retired.contains m then (.refuse 9 0, s)
  else if 65536 ≤ s.tier.retired.length then (.refuse 10 0, s)
  else if s.tier.moves.any fun v => (!v.srcPacked && v.src = m) || (!v.dstPacked && v.dst = m) then (.refuse 5 0, s)
  else if (kfind s.tier.granulePages m).isSome then
    let s1 := eachSpk (fun k t =>
      let gs := t.spks[k].stock.filter fun g => pageBase (g.addr <<< 8) = m
      let t1 := updSpk k (fun q => { q with stock := q.stock.filter fun g => pageBase (g.addr <<< 8) ≠ m }) t
      freeGranules gs t1) (retired s)
    (if (kfind s1.tier.granulePages m).isSome then .accept else .done, s1)
  else match findBacked m s with
    | (none, s1) => (.done, retired (dropFree m s1))
    | (some (ldTag, dpa), s1) =>
      match regionAt s1 ldTag dpa with
      | none => (.done, retired s1)
      | some r =>
        if moveOpen s1 r dpa || commandOpen s1 r dpa then (.refuse 5 0, s1)
        else if s1.tier.pools[poolOf s1 m].state = .critical then (.refuse 7 0, s1)
        else match allocPick (poolOf s1 m) (fun _ => true) s1 with
          | (none, s2) => (.refuse 7 0, s2)
          | (some d, s2) =>
            let s3 := if r.elastic then s2 else splitPage r dpa s2
            match forwardOf s1 m with
            | some f => (.accept, startMove ldTag dpa f.desc true d false (some slot) true (retired s3))
            | none => (.accept, startMove ldTag dpa m false d false (some slot) true (retired s3))

/-! ## Zeroing a page (R196) -/

/-- Step 5 of R196: a plain page of an elastic region moves to a fresh packed page. It stays where it is when no descriptor is
free. -/
def toPacked (r : Region) (ldTag dpa m : Nat) (s : State) : State :=
  if !r.elastic then s
  else match takeDesc s (fun d => !homeFull s (home d)) with
    | (none, s1) => s1
    | (some d, s1) => startMove ldTag (pageBase dpa) m false d true none false (writeDesc d 0 (holdPath 7 d s1))

/-- Steps 3 to 5 of R196 for a page that is held for `o`, if the blanking holds it, and recalled: the page is blanked, a
forwarded one where it now lies, the hold released, and step 5 begun. -/
def zeroPage (o : Option HoldOwner) (r : Region) (ldTag dpa : Nat) (leaf : Word) (s : State) : State :=
  let free (t : State) : State := match o with
    | some x => disownAll x t
    | none => t
  let b := eAddr leaf
  if eTier leaf = 1 then
    let (x, s1) := readDesc b 0 (holdPath 7 b s)
    let d := (readPlain x).getD 0
    retryWalks (free (if descForm d = 1 then blankPage (forwardPage d) r.awn s1
      else writeDesc b 0 (holdPath 7 b
        (freeGranules (((List.range 4).flatMap (descGranules d)).map fun g => ⟨g, descKey d⟩) s1))))
  else
    let m := b + pageBase dpa % 2 ^ eSize leaf
    toPacked r ldTag dpa m (free (blankPage m r.awn s))

end Sys2Proof.Machine
end

