-- ==== Sys2Proof/Machine/Blank.lean ====
section
/-! DEFINITION. Blanking a mapped page by Germ: the steps of R196 as ZERO, DISCARD and RESYNC_ZERO share them, and the remap
of a page out of a poisoned span (R152, R196). -/

namespace Sys2Proof.Machine

/-- A mapped page: where its backing lies, the page a hold on it names, and whether the span it lies in is poisoned. -/
def backingOf (dpa : Nat) (leaf : Word) : Nat :=
  if eTier leaf = 1 then eAddr leaf else eAddr leaf + pageBase dpa % 2 ^ eSize leaf

/-- Where the lines of a mapped page lie for their home (R181 step 2). -/
def linesAt (s : State) (dpa : Nat) (leaf : Word) : Nat :=
  if eTier leaf = 1 then packedAt s (eAddr leaf) else backingOf dpa leaf

/-- A page mapped into a poisoned span gets a blank page outside it: a plain page of its region's pool, or a fresh descriptor
for a packed one. None while no page is to be had or an invalidation is open. -/
def remapBlank (r : Region) (dpa : Nat) (leaf : Word) (s : State) : Option State :=
  if s.gate.invOpen then none
  else if eTier leaf = 1 then
    match takeDesc s (fun d => !spanPoisoned s d) with
    | (some d, s1) => some (remapPage r (pageBase dpa) (mkLeaf 12 r.pinned true d)
        (leaveDesc (eAddr leaf) false (writeDesc d 0 (holdPath 7 d s1))))
    | (none, _) => none
  else
    match allocPick (regionPool r) (fun pg => !spanPoisoned s (pg <<< 12)) s with
    | (some m, s1) =>
      let s2 := if eSize leaf = 12 then s1 else splitPage r dpa s1
      some (remapPage r (pageBase dpa) (mkLeaf 12 r.pinned false m) s2)
    | (none, _) => none

/-- Step 2 of R196: the recall of the page at its home has begun. One recall runs in a home at a time. -/
def recallBacking (b : Nat) (s : State) : State :=
  let k := spkOf b
  if s.spks[k].recalling.isSome then s
  else afterAnswers k (recallMore k (.recall (unitPage b)) (updSpk k (fun q => { q with
    recalling := some (unitPage b), pgDone := false }) s))

/-- The recall is complete. -/
def recalledBacking (b : Nat) (s : State) : Bool :=
  recallDone s (spkOf b) (.recall (unitPage b)) && s.spks[spkOf b].recalling ≠ some (unitPage b)

/-- A page of an LD as blanking finds it: unmapped, or its region and leaf. -/
def mappedPage (ldTag dpa : Nat) (s : State) : Option (Region × Word) × State :=
  match regionAt s ldTag dpa, lookLeaf ldTag dpa s with
  | some r, (.inl leaf, s1) => (some (r, leaf), s1)
  | _, (_, s1) => (none, s1)

/-- How far blanking a page has come. -/
inductive Blanking where
  | done
  | waits
deriving DecidableEq, Repr

/-- Blanking a page by the steps of R196, from wherever it has come: held for `o`, recalled, with what its home took before the
hold ended, blanked, released. -/
def blankPageStep (o : HoldOwner) (ldTag dpa : Nat) (s : State) : Blanking × State :=
  match mappedPage ldTag dpa s with
  | (none, s1) => (.done, s1)
  | (some (r, leaf), s1) =>
    let b := linesAt s1 dpa leaf
    if spanPoisoned s1 (backingOf dpa leaf) || spanPoisoned s1 b then
      match remapBlank r dpa leaf s1 with
      | some s2 => (.done, disownAll o s2)
      | none => (.waits, s1)
    else match ownHold o (unitPage b) s1 with
      | none => (.waits, s1)
      | some s2 =>
        let s3 := if recalledBacking b s2 then s2 else recallBacking b s2
        if recalledBacking b s3 && pageQuiet s3 b && pageQuiet s3 (backingOf dpa leaf) then
          (.done, zeroPage (some o) r ldTag dpa leaf s3)
        else (.waits, s3)

end Sys2Proof.Machine
end

