-- ==== Sys2Proof/Machine/Channel.lean ====
section
/-! DEFINITION. The memory channels: training and restore (R198 to R223), refresh, temperature, calibration (R209 to R224),
scrubbing (R235 to R237), CA parity errors (R241), and rank and bank copies (R239 to R245). -/

namespace Sys2Proof.Machine

def setMc (x : Fin 16) (c : McState) (s : State) : State := updMc x (fun m => { m with state := c }) s

/-! ## Calibration set (R219, Table 8.7) -/

/-- Indexes of an item. -/
def calCount : Nat → Nat
  | 0 => 2
  | 4 => 40
  | 5 => 40
  | 7 => 40
  | _ => 10

/-- The entry's place in the set: subchannel, physical rank, item, index. -/
def calKey (subch rank item index : Nat) : Nat := ((subch * 4 + rank) * 8 + item) * 64 + index

def calNone : CalVal := ⟨0, 0⟩

/-- A Vref value is a code of eight bits. -/
def calFit (item : Nat) (v : BitVec 16) : BitVec 16 := if item = 6 || item = 7 then v &&& 0xFF else v

/-- Every entry of the items given, in the populated ranks. -/
def calEntries (s : State) (items : List Nat) : List (Nat × Nat) :=
  (List.range 2).flatMap fun b => (List.range (geom s).ranks).flatMap fun r =>
    items.flatMap fun i => (List.range (calCount i)).map fun j => (calKey b r i j, i)

/-- New values for the items given, free values that the measurement finds (R217, R221, R223, log entry 4); `live` sets the
live values too. -/
def measure (x : Fin 16) (items : List Nat) (live : Bool) (s : State) : State :=
  (calEntries s items).foldl (fun t e =>
    let v := calFit e.2 (Config.calibration t.free)
    updMc x (fun m => { m with cal := kset calNone m.cal e.1 ⟨if live then v else (kget calNone m.cal e.1).live, v⟩ })
      { t with free := t.free + 1 }) s

/-- The highest DIMM temperature, in quarters of a degree (R221). -/
def topTemp (s : State) (x : Fin 16) : Int :=
  let m := s.mcs[x]
  match s.img with
  | some i => if i.dpc2 then max m.temps[0] m.temps[1] else m.temps[0]
  | none => m.temps[0]

/-- STEPPING (R222). -/
def stepping (s : State) (x : Fin 16) : Bool := s.mcs[x].cal.any fun e => e.2.live ≠ e.2.target

/-! ## Temperature and refresh (R204, R209, R210) -/

/-- DIMM slots of a channel. -/
def dimms (s : State) : List (Fin 2) :=
  match s.img with
  | some i => if i.dpc2 then [0, 1] else [0]
  | none => [0]

/-- A DIMM counts as being at 85 °C or more: its reading, or three missed reads (R204). -/
def dimmHot (m : Mc) (d : Fin 2) : Bool := 3 ≤ m.missed[d] || 340 ≤ m.temps[d]

/-- The tREFI wanted: 1.95 µs from 85 °C on, 3.9 µs again once every DIMM reads below 83 °C (R210). -/
def judgeRefresh (x : Fin 16) (s : State) : State :=
  let m := s.mcs[x]
  let ds := dimms s
  let w := if ds.any (dimmHot m) then true
    else if ds.all fun d => m.missed[d] < 3 && m.temps[d] < 332 then false else m.fastWanted
  updMc x (fun m => { m with fastWanted := w }) s

/-- One DIMM's reading: HOT_LIMIT in °C, three misses in a row (R204, R210). -/
def takeTemp (x : Fin 16) (d : Fin 2) (t : Option Int) (s : State) : State :=
  match t with
  | some v =>
    let s1 := updMc x (fun m => { m with temps := m.temps.set d v, missed := m.missed.set d 0 }) s
    let limit := (s.img.map (·.hotLimit)).getD 0
    if (4 * limit : Int) ≤ v then raise (blkMc x) 7 Cap.none s1 else s1
  | none =>
    let n := s.mcs[x].missed[d] + 1
    let s1 := updMc x (fun m => { m with missed := m.missed.set d n }) s
    if n = 3 then raise (blkMc x) 6 Cap.none s1 else s1

/-- Both DIMMs' readings at the end of training or of the RESTORING checks. -/
def startTemps (x : Fin 16) (t0 t1 : Int) (s : State) : State :=
  let s1 := takeTemp x 0 (some t0) (updMc x (fun m => { m with missed := Vector.replicate 2 0 }) s)
  if (dimms s).contains 1 then takeTemp x 1 (some t1) s1 else s1

/-- The channel reads its sideband: not before SPD, nor in self-refresh or FAILED. -/
def sideband (c : McState) : Bool := !(c = .off || c = .selfRefresh || c = .failed)

/-- The channel's DRAM is in service: accesses, refresh and recalibration go on (Table 8.5). -/
def inService (c : McState) : Bool := c = .active || c = .powerDown

/-- A temperature DELTA_T or more away from that of the last calibration starts a recalibration run (R221). -/
def judgeRecal (x : Fin 16) (s : State) : State :=
  let m := s.mcs[x]
  let far := (regField s (offRecalCfg x) 0 8 : Int) ≤ ((topTemp s x - m.calTemp).natAbs : Int)
  if inService m.state && far then updMc x (fun m => { m with calRunning := true }) s else s

def doDimmTempRead (x : Fin 16) (t0 t1 : Option Int) (s : State) : State :=
  if !sideband s.mcs[x].state then s
  else
    let s1 := takeTemp x 0 t0 s
    judgeRecal x (judgeRefresh x (if (dimms s).contains 1 then takeTemp x 1 t1 s1 else s1))

/-- A channel reads its DIMMs' thermal sensors; `none` is a read that a sensor misses (R204). A difference of DELTA_T starts a
recalibration run (R221). -/
def execDimmTempRead (x : Fin 16) (t0 t1 : Option Int) (s : State) : Host.Outcome State Fault Refusal :=
  .next (doDimmTempRead x t0 t1 s)

def doRefab (x : Fin 16) (t : Nat) (s : State) : State :=
  let m := s.mcs[x]
  if !inService m.state || 2 * targetsPer s ≤ t || m.refreshing.contains t then s
  else
    let b := t / targetsPer s
    let applied := if m.fastWanted then m.fastApplied ||| BitVec.ofNat 2 (1 <<< b)
      else m.fastApplied &&& ~~~ BitVec.ofNat 2 (1 <<< b)
    emit (.refresh x t none) (updMc x (fun m => { m with
      refreshing := m.refreshing ++ [t], fastApplied := applied, trefi := if applied = 0 then 3900 else 1950 }) s)

/-- A refresh target falls due: REFab goes out, and a wanted change of tREFI takes effect on its subchannel (R209, R210). -/
def execRefab (x : Fin 16) (t : Nat) (s : State) : Host.Outcome State Fault Refusal := .next (doRefab x t s)

/-- The second slice of a row: its neighbours at distance 2 are activated (R212). -/
def secondSlice (x : Fin 16) (row : Nat) (s : State) : State :=
  let ns := neighbours (geom s) row 2
  let s1 := updMc x (fun m => { m with owed := m.owed.filter (·.1 ≠ row) }) s
  let s2 := ns.foldl (fun t n => emit (.refresh x 0 (some n)) t) (perfMc x 0x06 1 none s1)
  activateRows 4096 x ns s2

def doRefreshEnd (x : Fin 16) (t : Nat) (s : State) : State :=
  if !s.mcs[x].refreshing.contains t then s
  else
    let s1 := updMc x (fun m => { m with refreshing := m.refreshing.filter (· ≠ t) }) s
    let first := s1.mcs[x].firstDue.filter fun row => rowTarget s1 row = t
    let due := s1.mcs[x].owed.filter fun e => e.2 && rowTarget s1 e.1 = t
    let s2 := updMc x (fun m => { m with firstDue := m.firstDue.filter fun row => rowTarget s1 row ≠ t }) s1
    let s3 := first.foldl (fun u row =>
      let (ns, v) := firstSlice x row u
      activateRows 4096 x ns v) s2
    due.foldl (fun u e => secondSlice x e.1 u) s3

/-- tRFC of a target ends; slices that fell due meanwhile issue (R209, R215). -/
def execRefreshEnd (x : Fin 16) (t : Nat) (s : State) : Host.Outcome State Fault Refusal := .next (doRefreshEnd x t s)

def doNeighborRefreshSlice2 (x : Fin 16) (row : Nat) (s : State) : State :=
  let m := s.mcs[x]
  if !(m.owed.any (·.1 = row)) then s
  else if m.refreshing.contains (rowTarget s row) then
    updMc x (fun m => { m with owed := m.owed.map fun e => if e.1 = row then (row, true) else e }) s
  else secondSlice x row s

/-- The second slice of a row falls due (R212); during its target's tRFC it waits (R215). -/
def execNeighborRefreshSlice2 (x : Fin 16) (row : Nat) (s : State) : Host.Outcome State Fault Refusal :=
  .next (doNeighborRefreshSlice2 x row s)

/-- A count window starts: every activate count is cleared (R214). -/
def execActCountWindow (x : Fin 16) (s : State) : Host.Outcome State Fault Refusal :=
  .next (updMc x (fun m => { m with acts := [] }) s)

/-! ## Recalibration (R221 to R224) -/

def doRecalForce (m : Master) (x : Fin 16) (v : Word) (s : State) : State :=
  guardWrite m (offRecalCfg x) (fun t =>
    let t1 := regWrite .whole (offRecalCfg x) v t
    if flag v 8 && inService t1.mcs[x].state then updMc x (fun c => { c with calRunning := true }) t1 else t1) s

/-- A write of MC_RECAL_CFG; FORCE starts a run (R221, Table 8.17). -/
def execRecalForce (m : Master) (x : Fin 16) (v : Word) (s : State) : Host.Outcome State Fault Refusal :=
  .next (doRecalForce m x v s)

def doRecalRunDone (x : Fin 16) (s : State) : State :=
  if !s.mcs[x].calRunning || !inService s.mcs[x].state then s
  else
    let s1 := measure x [1, 2, 3, 4, 5] false s
    updMc x (fun m => { m with calRunning := false, calTemp := topTemp s1 x, calGen := (m.calGen + 1) % 2 ^ 32 }) s1

/-- A run ends: new targets for the read-side and write-side delays, the temperature recorded, GEN up (R221). -/
def execRecalRunDone (x : Fin 16) (s : State) : Host.Outcome State Fault Refusal := .next (doRecalRunDone x s)

/-- One tap, or one Vref code, towards the target (R222). -/
def calTap (c : CalVal) : CalVal :=
  if c.live < c.target then { c with live := c.live + 1 }
  else if c.target < c.live then { c with live := c.live - 1 } else c

def doCalStep (x : Fin 16) (s : State) : State :=
  if s.mcs[x].state ≠ .active then s
  else updMc x (fun m => { m with cal := m.cal.foldl (fun t e => kset calNone t e.1 (calTap e.2)) m.cal }) s

/-- Every live value moves one step towards its target, all in parallel (R222). -/
def execCalStep (x : Fin 16) (s : State) : Host.Outcome State Fault Refusal := .next (doCalStep x s)

/-- The entry that MC_CAL_SEL selects, with its item; none where it selects nothing (Table 8.19). -/
def calSelected (s : State) (x : Fin 16) : Option (Nat × Nat) :=
  let w := regGet s (offCalSel x)
  let item := field w 8 3
  let rank := field w 12 2
  if field w 0 6 < calCount item && rank < (geom s).ranks then
    some (calKey (field w 14 1) rank item (field w 0 6), item)
  else none

def doCalTargetWrite (m : Master) (x : Fin 16) (v : Word) (s : State) : State :=
  guardWrite m (offCalSel x + 8) (fun t =>
    match calSelected t x with
    | none => t
    | some (k, item) =>
      if inService t.mcs[x].state then
        updMc x (fun c =>
          let e : CalVal := ⟨(kget calNone c.cal k).live, calFit item (v.setWidth 16)⟩
          { c with cal := kset calNone c.cal k e }) t
      else t) s

/-- A write of MC_CAL_DATA sets the selected target in ACTIVE and POWER_DOWN (R224). -/
def execCalTargetWrite (m : Master) (x : Fin 16) (v : Word) (s : State) : Host.Outcome State Fault Refusal :=
  .next (doCalTargetWrite m x v s)

/-! ## Cold-start checks and training (R202, R203, R217, R218) -/

/-- SPD ends when its checks have passed: the SPD compared and every PMIC reporting power good (Table 8.6). -/
def leaveSpd (x : Fin 16) (s : State) : State :=
  let m := s.mcs[x]
  channelsMoved (if m.state = .spd && m.spdOk && m.pmicGood then setMc x .training s else s)

/-- A channel fails with a cause. -/
def failMc (x : Fin 16) (bit : Nat) (s : State) : State := channelsMoved (setMc x .failed (raise (blkMc x) bit Cap.none s))

/-- A DIMM's SPD is as the image declares it: RDIMM with ECC and ×4 devices, density by ROW_BITS, stack height, package
ranks, and a rated rate of at least RATE (R202, R344). -/
def spdMatches (i : SolvikImage) (d : DimmSpd) : Bool :=
  d.rdimmEcc && d.width = 4 && d.densityGb = (if i.rowBits = 17 then 32 else 16) && d.stackHeight = 2 ^ i.stack &&
    d.ranks = i.ranks / (1 + bit i.dpc2) && i.rate ≤ d.rate

/-- Every declared DIMM answers with the SPD that the image declares (R202). -/
def spdsMatch (s : State) (spds : Fin 2 → Option DimmSpd) : Bool :=
  match s.img with
  | none => false
  | some i => (dimms s).all fun d => (spds d).any (spdMatches i)

def doSpdCheckDone (x : Fin 16) (spd0 spd1 : Option DimmSpd) (s : State) : State :=
  let spds (d : Fin 2) : Option DimmSpd := if d = 0 then spd0 else spd1
  if s.mcs[x].state ≠ .spd then s
  else if !spdsMatch s spds then failMc x 2 s
  else
    let own := (s.img.map (·.trfc)).getD 0
    let trfc := (dimms s).foldl (fun a d => max a (((spds d).map (·.trfc)).getD 0)) own
    leaveSpd x (updMc x (fun m => { m with spdOk := true, trfc := trfc }) s)

/-- The SPD of every DIMM of a channel has been read, `none` where a DIMM does not answer: they are as the image declares
them, or the channel fails (R202, R344, Table 13.5). -/
def execSpdCheckDone (x : Fin 16) (spd0 spd1 : Option DimmSpd) (s : State) : Host.Outcome State Fault Refusal :=
  .next (doSpdCheckDone x spd0 spd1 s)

def doPmicPowerGood (x : Fin 16) (s : State) : State :=
  if s.mcs[x].state ≠ .spd || s.mcs[x].pmicAt.isNone then s
  else leaveSpd x (updMc x (fun m => { m with pmicGood := true, dramReset := false }) s)

/-- The PMICs of a channel, enabled once the outputs regulate, report power good: RESET_n is released (R203, R372). -/
def execPmicPowerGood (x : Fin 16) (s : State) : Host.Outcome State Fault Refusal := .next (doPmicPowerGood x s)

def doPmicTimeout (x : Fin 16) (s : State) : State :=
  match s.mcs[x].pmicAt with
  | some t => if s.mcs[x].state = .spd && !s.mcs[x].pmicGood then failMc x 5 (timeTo (t + 10000000) s) else s
  | none => s

/-- A PMIC has not reported power good within 10 ms of being enabled (R203). -/
def execPmicTimeout (x : Fin 16) (s : State) : Host.Outcome State Fault Refusal := .next (doPmicTimeout x s)

def doPmicFault (x : Fin 16) (s : State) : State :=
  if s.mcs[x].state = .off || s.mcs[x].state = .failed then s else failMc x 5 s

/-- A PMIC reports a fault (R203). -/
def execPmicFault (x : Fin 16) (s : State) : Host.Outcome State Fault Refusal := .next (doPmicFault x s)

/-- A failed package rank is replaced by a spare that trained (R218); none where no spare is left. -/
def replaceRank (x : Fin 16) (bad : List Nat) (p : Nat) (s : State) : Option State :=
  let ranks := List.range (geom s).ranks
  match ranks.find? fun r => physRank s x r = p with
  | none => some s
  | some f =>
    let spare (q : Nat) : Bool := q ≠ f && (spareMask s x).testBit q && !bad.contains (physRank s x q) &&
      !s.mcs[x].oos.testBit (physRank s x q)
    match ranks.find? spare with
    | none => none
    | some q =>
      let good := physRank s x q
      let s1 := regSetField (offRankMap x) (2 * q) 2 p (regSetField (offRankMap x) (2 * f) 2 good s)
      some (raise (blkMc x) 4 Cap.none (updMc x (fun m => { m with oos := m.oos ||| (1 <<< p) }) s1))

def isDimmFault : TrainFault → Bool
  | .dimm => true
  | .rank _ => false

def faultRank : TrainFault → Option Nat
  | .rank r => some r.val
  | .dimm => none

def doChannelTrained (x : Fin 16) (faults : List TrainFault) (t0 t1 : Int) (s : State) : State :=
  if s.mcs[x].state ≠ .training then s
  else
    let bad := (faults.filterMap faultRank).eraseDups.filter (· < (geom s).ranks)
    let done := if faults.any isDimmFault then none
      else bad.foldl (fun (a : Option State) p => a.bind (replaceRank x bad p)) (some s)
    match done with
    | none => failMc x 3 s
    | some s1 =>
      let s2 := startTemps x t0 t1 s1
      let s3 := judgeRefresh x (measure x [0, 1, 2, 3, 4, 5, 6, 7] true s2)
      channelsMoved (setMc x .active (updMc x (fun m => { m with calTemp := topTemp s3 x }) s3))

/-- Training of a channel ends: `faults` names what failed, `t0` and `t1` are the DIMM temperatures (R217, R218). -/
def execChannelTrained (x : Fin 16) (faults : List TrainFault) (temp0 temp1 : Int) (s : State) :
    Host.Outcome State Fault Refusal := .next (doChannelTrained x faults temp0 temp1 s)

/-! ## Self-refresh and restore (R214, R220, R223, R245) -/

/-- A channel enters SELF_REFRESH: its snapshot is taken and its activate counts are cleared. DESIGN CHOICE: a write that the
home holds for a failing command is issued again first, and passes (log entry 149). -/
def enterSelfRefresh (x : Fin 16) (s0 : State) : State :=
  if !inService s0.mcs[x].state then s0
  else
    let s := s0.mcs[x].heldWrites.foldl (fun t w => dramSet (physLine t w.1) w.2 t) s0
    let m := s.mcs[x]
    let snap : Snapshot := ⟨m.cal, topTemp s x, m.copy, regField s (offRankMap x) 0 8, m.oos, m.bound, m.remaps, m.ueRank⟩
    updMc x (fun m => { m with
      state := .selfRefresh, snapshot := some snap, acts := [], owed := [], firstDue := [], waitRows := [], shared := []
      refreshing := [], calRunning := false, heldWrites := [] }) s

/-- A channel leaves SELF_REFRESH for RESTORING: the snapshot is loaded before any access (R220). -/
def loadSnapshot (x : Fin 16) (s : State) : State :=
  match s.mcs[x].state, s.mcs[x].snapshot with
  | .selfRefresh, some k =>
    let s1 := regSetField (offRankMap x) 0 8 k.map s
    updMc x (fun m => { m with
      state := .restoring, cal := k.cal, copy := k.copy, oos := k.oos, bound := k.bound, remaps := k.remaps
      ueRank := k.ueRank }) s1
  | _, _ => s

def doChannelRestore (x : Fin 16) (ok : Bool) (t0 t1 : Int) (fails : List TrainFault) (s : State) : State :=
  if s.mcs[x].state ≠ .restoring then s
  else
    let s1 := judgeRefresh x (startTemps x t0 t1 s)
    let was := (s1.mcs[x].snapshot.map (·.temp)).getD 0
    let near := ((topTemp s1 x - was).natAbs : Int) ≤ 3 * regField s1 (offRecalCfg x) 0 8
    let s2 := updMc x (fun m => { m with calTemp := was }) s1
    if ok && near then channelsMoved (judgeRecal x (setMc x .active s2))
    else if !fails.isEmpty then failMc x 3 s2
    else
      let s3 := measure x [1, 2, 3, 5, 6, 7] true (raise (blkMc x) 9 Cap.none s2)
      channelsMoved (setMc x .active (updMc x (fun m => { m with calRunning := true }) s3))

/-- The RESTORING checks end: `snapshotOk` says that pattern and write leveling pass, `fails` what the retraining could not
bring back (R223). DEDUCED: the last calibration stays that of the snapshot, and a retrained channel starts a run of R221,
which corrects the write side (log entry 150). -/
def execChannelRestore (x : Fin 16) (snapshotOk : Bool) (temp0 temp1 : Int) (fails : List TrainFault) (s : State) :
    Host.Outcome State Fault Refusal := .next (doChannelRestore x snapshotOk temp0 temp1 fails s)

/-! ## Lines of a channel in ascending LA -/

/-- The address bit that selects the channel of a home (Table 8.2). -/
def chanBit (g : Geom) : Nat := if g.unit256 then 8 else 6

/-- The first line of channel `x` at or above `la`. -/
def chanLine (g : Geom) (x : Fin 16) (la : Nat) : Nat :=
  let b := chanBit g
  if bitsAt la b 1 = x.val % 2 then la else alignDown la b + 2 ^ b

/-- The lines of one bank that share LA from bit `sh` up (Table 8.2). -/
def bankGroup (g : Geom) (x : Fin 16) (k : SpareCopy) (hi : Nat) : List Nat :=
  let sh := if g.unit256 then 15 else 13
  let row := bitsAt (hi <<< sh) 20 g.rowBits
  let bg := k.bg ^^^ row % 8
  let ba := k.ba ^^^ bitsAt row 3 2
  let c := x.val % 2
  if g.unit256 then
    let b := (hi <<< 15) + (c <<< 8) + (k.subch <<< 9) + (bg <<< 10) + (ba <<< 13)
    [b, b + 64, b + 128, b + 192]
  else [(hi <<< 13) + (c <<< 6) + (k.subch <<< 7) + (bg <<< 8) + (ba <<< 11)]

/-- The first line of a copy at or above `la`. -/
def copyLine (g : Geom) (x : Fin 16) (k : SpareCopy) (la : Nat) : Nat :=
  if !k.bank then chanLine g x la
  else
    let hi := la >>> (if g.unit256 then 15 else 13)
    ((bankGroup g x k hi ++ bankGroup g x k (hi + 1)).find? fun l => la ≤ l).getD la

/-- The end of the logical rank being copied. -/
def copyEnd (g : Geom) (k : SpareCopy) : Nat := (k.from_ + 1) <<< rankShift g

/-! ## The scrubber (R235 to R237) -/

/-- Ranks that the scrubber reads: neither a spare nor being copied. -/
def scrubRank (s : State) (x : Fin 16) (r : Nat) : Bool :=
  !(spareMask s x).testBit r && !(s.mcs[x].copy.any fun k => !k.bank && k.from_ = r)

/-- The line the scrubber reads next at or above `la`; none past the end. `fuel` counts the ranks. -/
def scrubLine (s : State) (x : Fin 16) : Nat → Nat → Option Nat
  | 0, _ => none
  | fuel + 1, la =>
    let g := geom s
    let l := chanLine g x la
    let r := l >>> rankShift g
    if g.ranks ≤ r then none
    else if scrubRank s x r then some l
    else scrubLine s x fuel ((r + 1) <<< rankShift g)

/-- The scrubber wraps: the lap is recorded (R237). -/
def endLap (x : Fin 16) (s : State) : State :=
  updMc x (fun m => { m with
    scrubPos := (scrubLine s x 5 0).getD 0, lastLap := (s.dtime - m.lapStart) / 1000000000
    laps := (m.laps + 1) % 65536, lapStart := s.dtime }) s

/-- No access is queued at a channel. -/
def chanIdle (s : State) (x : Fin 16) : Bool :=
  let k := spk8 (x.val / 2)
  [2 * x.val, 2 * x.val + 1].all fun sub => (queueOf s k sub).isEmpty && !metaWaiting s k sub

/-- The time RATE leaves between two scrub reads, in ns (R235). -/
def scrubGapNs (s : State) (x : Fin 16) : Nat := 64000 / max 1 (regField s (offScrubCfg x) 0 7)

/-- Scrub reads issued in the current 100 µs window (R235). -/
def scrubsInWindow (s : State) (x : Fin 16) : Nat :=
  if s.mcs[x].scrubAt / 100000 = s.dtime / 100000 then s.mcs[x].scrubCount else 0

/-- A background access at `m` may be made: no transaction is open on the line, no recovery, and its refresh target is not in
tRFC (R87, R209, R243). -/
def lineFree (s : State) (m : Nat) : Bool := !lineOpen s m && !inRecovery s m && !targetBusy s m

/-- The scrub read of the line at `la` of a channel. -/
def scrubAt (x : Fin 16) (la : Nat) (noise : Image) (par : Parity) (s : State) : State :=
  let m := mpaOf (x.val / 2) la
  let c : Cap := ⟨m, 1, idScrub, 0xA, none⟩
  chanAccess m true par c (fun u =>
    let v := updMc x (fun mc => { mc with scrubCount := scrubsInWindow u x + 1, scrubAt := u.dtime }) u
    let (d, s1) := readLine m true noise .scrub c (perfMc x 0x07 1 none v)
    let s2 := match d with
      | .line _ _ [] => s1
      | .line f img _ => writeLine m (remask (isStrong s1 m) f img) s1
      | _ => s1
    match scrubLine s2 x 5 (la + 64) with
    | some l => updMc x (fun m => { m with scrubPos := l }) s2
    | none => endLap x s2) s

def doScrubRead (x : Fin 16) (noise : Image) (par : Parity) (s0 : State) : State :=
  let mc := s0.mcs[x]
  if mc.state ≠ .active || !mc.scrubRun || s0.domainDown || regField s0 (offScrubCfg x) 32 1 = 0 then s0
  else
    let s1 := timeTo (mc.scrubAt + scrubGapNs s0 x) s0
    if !chanIdle s1 x && regField s1 (offScrubCfg x) 16 8 ≤ scrubsInWindow s1 x then s0
    else
      let s := if (scrubLine s1 x 5 mc.scrubPos).isNone then endLap x s1 else s1
      match scrubLine s x 5 s.mcs[x].scrubPos with
      | none => s0
      | some la => if lineFree s (mpaOf (x.val / 2) la) then scrubAt x la noise par s else s0

/-- The scrubber issues one read, on an idle channel or within RESERVE, at RATE at most (R235); a corrected line is rewritten with its mask, an uncorrectable one is left and
logged (R236); at the end of the channel it wraps and a lap is recorded (R237). -/
def execScrubRead (x : Fin 16) (noise : Image) (par : Parity) (s : State) : Host.Outcome State Fault Refusal :=
  .next (doScrubRead x noise par s)

/-! ## CA parity errors (R241) -/

def doCaParityError (x : Fin 16) (mpa tries : Nat) (s : State) : State :=
  let m := lineBase mpa
  if chanOf s m ≠ x || !inService s.mcs[x].state then s
  else
    let la := localAddr m
    let c := coordOf (geom s) (home m) la
    let r := servingRank s x c la
    let s1 := logError x 4 0xF (physRank s x r) c 0 (raise (blkMc x) 19 Cap.none s)
    let recent := (s1.mcs[x].caRank ++ [(r, s1.dtime)]).filter fun (e : Nat × Nat) => s1.dtime < e.2 + 1000000
    let s2 := updMc x (fun m => { m with caRank := recent }) s1
    let s3 := if tries ≤ 4 then s2
      else updMc x (fun mc => { mc with failAt := mc.failAt ++ [m] }) (raise (blkMc x) 20 Cap.none s2)
    let limit := regField s3 (offRasCfg x) 8 8
    if limit ≠ 0 && limit ≤ (recent.filter (·.1 = r)).length then callSpare x r s3 else s3

/-- The register clock driver reports a CA parity error on the command for the line at `mpa`; the command passes on retry
number `tries`, or, beyond four, fails: the line's read is then uncorrectable, its write held at the home (R241). -/
def execCaParityError (x : Fin 16) (mpa tries : Nat) (s : State) : Host.Outcome State Fault Refusal :=
  .next (doCaParityError x mpa tries s)

/-! ## Rank and bank copies (R239 to R245) -/

/-- A row's logical rank. -/
def rowRank (g : Geom) (row : Nat) : Nat := row / (2 ^ g.rowBits * 128) % 4

/-- Slices and table entries of a logical rank are dropped (R215). -/
def dropRows (x : Fin 16) (r : Nat) (s : State) : State :=
  let g := geom s
  updMc x (fun m => { m with
    acts := m.acts.filter fun a => rowRank g a.row ≠ r
    owed := m.owed.filter fun e => rowRank g e.1 ≠ r
    firstDue := m.firstDue.filter fun row => rowRank g row ≠ r
    waitRows := m.waitRows.filter fun row => rowRank g row ≠ r }) s

/-- A copy starts at the first of its lines. The spare that a rank copy takes starts with no entries (R215). -/
def startCopy (x : Fin 16) (k : SpareCopy) (s : State) : State :=
  let k1 := { k with ptr := copyLine (geom s) x k (k.from_ <<< rankShift (geom s)) }
  let s1 := updMc x (fun m => { m with
    copy := some k1
    bound := if k.bank then m.bound ||| (1 <<< k.to_) else m.bound
    recover := if k.bank then m.recover else m.recover.filter (· ≠ k.from_) }) (if k.bank then s else dropRows x k.to_ s)
  if k.bank then s1 else raise (blkMc x) 21 Cap.none s1

/-- A write of MC_SPARE_CMD: GO starts OP unless a copy is active (Table 9.12), onto a spare that the rank may take: one
BOUND to it where there is one, else an unbound one (R240, R242). -/
def spareCmd (m : Master) (x : Fin 16) (v : Word) (s : State) : State :=
  guardWrite m (offSpareCmd x) (fun t =>
    let t1 := regWrite .whole (offSpareCmd x) v t
    let w := regGet t1 (offSpareCmd x)
    let bank := field w 60 3 = 2
    let k : SpareCopy := ⟨bank, field w 12 2, field w 10 2, if bank then field w 8 1 else 0, if bank then field w 4 3 else 0,
      if bank then field w 0 2 else 0, 0, none⟩
    let mine := t1.mcs[x].remaps.any fun b => b.rank = k.from_ && (usableSpares t1 x k.from_).head? = some b.spare
    let ok := (if mine then (usableSpares t1 x k.from_).head? = some k.to_ else (usableSpares t1 x k.from_).contains k.to_) &&
      k.from_ < (geom t1).ranks &&
      !(spareMask t1 x).testBit k.from_ && t1.mcs[x].remaps.length < (if bank then 4 else 5)
    if flag v 63 && t1.mcs[x].copy.isNone && field w 60 3 ≠ 0 && ok then startCopy x k t1 else t1) s

def doRankCopy (m : Master) (x : Fin 16) (v : Word) (s : State) : State := spareCmd m x v s
def doBankCopy (m : Master) (x : Fin 16) (v : Word) (s : State) : State := spareCmd m x v s

/-- MC_SPARE_CMD with OP rank copy (R242). -/
def execRankCopy (m : Master) (x : Fin 16) (v : Word) (s : State) : Host.Outcome State Fault Refusal :=
  .next (doRankCopy m x v s)

/-- MC_SPARE_CMD with OP bank copy (R240). -/
def execBankCopy (m : Master) (x : Fin 16) (v : Word) (s : State) : Host.Outcome State Fault Refusal :=
  .next (doBankCopy m x v s)

/-- The member has a partner over an UP link that may hold its data (R310). -/
def inPair (s : State) : Bool :=
  s.til.state = .up && ((s.pair.role = .primary && s.pair.partnered) || s.pair.role = .secondary ||
    s.pair.role = .joining)

/-- The awn attribute of the region whose data lies at `m`, plain or in a granule; on where none does. -/
def awnAt (m : Nat) (s : State) : Bool × State :=
  let (found, s1) := (regions s).foldl (fun (a : Option Bool × State) r =>
    match a.1, (regionLds r).head? with
    | none, some t =>
      let (ls, u) := leavesIn (2 ^ 33) t r.dpaBase (r.dpaBase + 2 ^ r.size) a.2
      let here (l : Nat × Word) : Bool :=
        if eTier l.2 = 0 then inRange (eAddr l.2) (2 ^ eSize l.2) m
        else match peekDesc u (eAddr l.2) with
          | none => false
          | some d => if descForm d = 1 then pageBase m = forwardPage d
            else ((List.range 4).flatMap (descGranules d)).contains (m >>> 8)
      (if ls.any here then some r.awn else none, u)
    | _, _ => a) (none, s)
  (found.getD true, s1)

/-- The access of a copy, with the awn attribute of the line's region (R142, R150, R242). -/
def copyAcc (key : Nat) (awn : Bool) : Acc := ⟨key, awn, idMigration, 9, .copy, false, 7⟩

/-- A line written at the home on behalf of a copy, under the attribute of its region: its own line takes a form by it, and a
group at its limit is read and sealed by it (R140, R150). -/
def writeCopied (m : Nat) (n : NewLine) (key : Nat) (s : State) : State :=
  let s1 := holdPath 7 m s
  let (awn, s2) := if n = .poison && !minorFull s1 m then (true, s1) else awnAt m s1
  writeData m (copyAcc key awn) n (holdPath 7 m s2)

/-- A lost line is written as the poison pattern (R150, R243). -/
def poisonCopied (x : Fin 16) (m : Nat) (s : State) : State :=
  raise (blkMc x) 25 ⟨m, 1, idMigration, 9, none⟩ (writeCopied m .poison 0 s)

/-- A lost data line: in a pair it is fetched from the partner under its page's key (R243, R310), else poisoned. -/
def lostData (x : Fin 16) (m : Nat) (s : State) : State :=
  if !inPair s then poisonCopied x m s
  else match findBacked m s with
    | (none, s1) => poisonCopied x m s1
    | (some (ldTag, dpa), s1) =>
      let s2 := holdPath 7 m s1
      match pktBound s2 m with
      | none => poisonCopied x m s2
      | some key => openFetch x (lineBase m) ldTag key (lineBase dpa) s2

/-- The data pages that a range of MPA space covers, resynchronised from the partner: the leaves that name it, and packed pages
whose descriptor or a granule lies in it (R243, R310). -/
def resyncSpan (base size : Nat) (s : State) : State :=
  if !inPair s then s
  else
    (regions s).foldl (fun t r =>
      match (regionLds r).head? with
      | none => t
      | some ld =>
        let (ls, t1) := leavesIn (2 ^ 33) ld r.dpaBase (r.dpaBase + 2 ^ r.size) t
        ls.foldl (fun u e =>
          let a := eAddr e.2
          let n := 2 ^ eSize e.2
          if eTier e.2 = 1 then
            let gs := ((peekDesc u a).map fun d => (List.range 4).flatMap (descGranules d)).getD []
            if inRange base size a || gs.any (fun g => inRange base size (g <<< 8)) then
              queueTil (.resyncReq ld 12 e.1) u
            else u
          else if inRange base size a then queueTil (.resyncReq ld (eSize e.2) e.1) u
          else if inRange a n base then queueTil (.resyncReq ld (max 12 (log2Of size)) (pageBase (e.1 + (base - a)))) u
          else u) t1) s

/-- The pages whose key records lie in the line at `m`: 32 pages of one home, one in each 32 KiB of 1 MiB (R134). -/
def pktPages (s : State) (m : Nat) : List Nat :=
  let first := (((m - pktBase s) >>> 15) <<< 26) + m % 4096 / 2 * 0x8000
  (List.range 32).map fun i =>
    let chunk := first + i * 0x8000
    chunk + ((home chunk ^^^ home m) <<< 12)

/-- A lost tag line: each line in SPILL form whose slot it holds counts as lost, and the line starts again from zeros
(R150). -/
def lostTags (x : Fin 16) (b sp m : Nat) (s : State) : State :=
  let kind : CulmKind := if lineKind s m = .dtag then .dtag else .spill
  let s0 := writeLine m (strongEncode .plain 0) s
  let s1 := if (heldLine s0 kind m).isSome then putHeld kind m 0 s0 else s0
  (List.range 8).foldl (fun t j =>
    let d := slotOwner b sp m j
    match readLine d true 0 .copy ⟨d, 1, idMigration, 8, none⟩ t with
    | (.line .plain _ _, u) =>
      if lineKind u d = .desc then resyncSpan d 64 (poisonCopied x d u) else lostData x d u
    | (_, u) => u) s1

/-- What becomes of a line that the copy could not read (R150, R243). -/
def lostLine (x : Fin 16) (m : Nat) (s : State) : State :=
  match lineKind s m with
  | .node c =>
    let d := nodeOwner s c m
    resyncSpan (spanBase c d) (spanSize c) (failNode c d m s)
  | .pkt =>
    let rec_ := if inPair s then 0 else 1 <<< 14
    let l : Line := (List.range 32).foldl (fun l i => setLineField l (16 * i) 16 rec_) 0
    let s1 := writeLine m (strongEncode .plain l) s
    let s2 := if (heldLine s1 .pkt m).isSome then putHeld .pkt m l s1 else s1
    (pktPages s2 m).foldl (fun t p => resyncSpan p 4096 t) s2
  | .spill => lostTags x (spillBase s) (strongBase s) m s
  | .dtag => lostTags x (dtagBase s) (descBase s) m s
  | .desc => resyncSpan m 64 (poisonCopied x m s)
  | .data => lostData x m s
  | _ => poisonCopied x m s

/-- A row name with its logical rank changed (R211). -/
def renameRow (g : Geom) (row to_ : Nat) : Nat :=
  let u := 2 ^ g.rowBits * 128
  row - (row / u % 4) * u + to_ * u

/-- A finished rank copy: the two logical ranks' entries are swapped, the failed physical rank leaves service and the spare is
BOUND (R244); counts and slices of the failed rank are dropped, those of the spare go on under its new name (R215), and bank retirements onto that spare are over. -/
def endRankCopy (x : Fin 16) (k : SpareCopy) (s : State) : State :=
  let g := geom s
  let pf := physRank s x k.from_
  let pt := physRank s x k.to_
  let s1 := regSetField (offRankMap x) (2 * k.to_) 2 pf (regSetField (offRankMap x) (2 * k.from_) 2 pt s)
  let moved (row : Nat) : Nat := if rowRank g row = k.to_ then renameRow g row k.from_ else row
  let s2 := updMc x (fun m => { m with
    copy := none
    oos := m.oos ||| (1 <<< pf)
    bound := m.bound ||| (1 <<< k.to_)
    remaps := m.remaps.filter fun b => !(b.rank = k.from_ && b.spare = k.to_)
    acts := m.acts.map fun a => { a with row := moved a.row }
    owed := m.owed.map fun e => (moved e.1, e.2)
    firstDue := m.firstDue.map moved
    waitRows := m.waitRows.map moved }) (dropRows x k.from_ s1)
  raise (blkMc x) 22 Cap.none s2

/-- A finished bank copy: the retirement is in force (R240). -/
def endBankCopy (x : Fin 16) (k : SpareCopy) (s : State) : State :=
  let s1 := updMc x (fun m => { m with
    copy := none, remaps := m.remaps ++ [⟨true, k.from_, k.to_, k.subch, k.bg, k.ba⟩] }) s
  let s2 := raise (blkMc x) 24 Cap.none s1
  match k.slot with
  | some i => setVerdict i 2 0 0 s2
  | none => s2

/-- Ranks that waited for a copy's end and have no spare left stay in service (R244). -/
def judgeWaiting (x : Fin 16) (s : State) : State :=
  let lost := s.mcs[x].recover.filter fun r => (usableSpares s x r).isEmpty
  lost.foldl (fun t r => raise (blkMc x) 23 Cap.none (updMc x (fun m => { m with recover := m.recover.erase r }) t)) s

/-- A line the copy could not read. In a pair Germ has a part in what follows, so that it waits while Germ restarts (R24,
R245). -/
def loseLine (x : Fin 16) (m : Nat) (s : State) : State :=
  if inPair s && !s.fw.germUp then updMc x (fun c => { c with lost := c.lost ++ [m] }) s else lostLine x m s

/-- What a copy left for Germ while it restarted (R25, R245). -/
def serveLost (s : State) : State :=
  (List.finRange 16).foldl (fun t x =>
    t.mcs[x].lost.foldl (fun u m => lostLine x m u) (updMc x (fun c => { c with lost := [] }) t)) s

def doRankCopyLine (x : Fin 16) (noise : Image) (par : Parity) (s : State) : State :=
  let mc := s.mcs[x]
  match mc.copy with
  | none => s
  | some k =>
    let m := mpaOf (x.val / 2) k.ptr
    if mc.state ≠ .active || s.domainDown || entering s || !lineFree s m then s
    else
      let g := geom s
      chanAccess m true par ⟨m, 1, idMigration, 8, none⟩ (fun u =>
        let (d, s1) := readLine m true noise .copy ⟨m, 1, idMigration, 8, none⟩ u
        let s2 := updMc x (fun c => { c with copy := some { k with ptr := copyLine g x k (k.ptr + 64) } }) s1
        let s3 := match d with
          | .line f img _ => writeLine m (remask (isStrong s2 m) f img) s2
          | _ => loseLine x m s2
        if copyLine g x k (k.ptr + 64) < copyEnd g k then s3
        else judgeWaiting x (if k.bank then endBankCopy x k s3 else endRankCopy x k s3)) s

/-- The copy moves one line: a migration read, and a write that the spare now serves (R242, R150). A write that the home held
reaches the spare with it (R241). -/
def execRankCopyLine (x : Fin 16) (noise : Image) (par : Parity) (s : State) : Host.Outcome State Fault Refusal :=
  .next (doRankCopyLine x noise par s)

/-- Table 9.4, RETIRE_BANK. -/
def decideRetireBank (slot x0 rank subch bg ba : Nat) (s : State) : Decision × State :=
  let x := mc16 x0
  let mc := s.mcs[x]
  if (spareMask s x).testBit rank || (geom s).ranks ≤ rank then (.refuse 8 0, s)
  else if mc.remaps.any fun b => b.rank = rank && b.subch = subch && b.bg = bg && b.ba = ba then (.refuse 9 0, s)
  else if 4 ≤ mc.remaps.length then (.refuse 10 0, s)
  else if mc.copy.isSome then (.refuse 5 0, s)
  else match (usableSpares s x rank).head? with
    | none => (.refuse 11 0, s)
    | some q => (.accept, startCopy x ⟨true, rank, q, subch, bg, ba, 0, some slot⟩ s)

end Sys2Proof.Machine
end

