-- ==== Sys2Proof/Machine/TilFlit.lean ====
section
/-! DEFINITION. Tiller flits and messages as bits, and the transmitter: credits, groups and their seal, and what is sent in
a flit time (R268 to R274, R277 to R281, R287, R288, Tables 11.2 to 11.7, 12.4). -/

namespace Sys2Proof.Machine

/-! ## Messages as slots (R272 to R275) -/

/-- Traffic class (Table 11.5, Table 12.4). -/
def msgClass : TilMsg → Nat
  | .mirrorWr _ _ => 0
  | .mirrorPwr _ _ _ => 0
  | .mirrorAck _ _ => 1
  | .lineFetch _ _ _ _ => 2
  | .lineData _ _ _ => 2
  | .sfSync _ => 2
  | .sfReject _ => 2
  | .resyncReq _ _ _ => 2
  | .resyncZero _ _ => 2
  | .resyncDone _ _ _ _ _ => 2
  | .spdm _ => 3
  | .heartbeat _ _ _ _ => 3
  | .timeReq _ => 3
  | .timeRsp _ _ => 3
  | .formReq _ => 3
  | .formRsp _ _ _ => 3
  | .handover _ => 3
  | .leave => 3

/-- SLOTS of a message (Tables 11.5, 12.4). -/
def msgSlots : TilMsg → Nat
  | .mirrorWr h _ => if h.poison then 2 else 10
  | .mirrorPwr _ _ _ => 11
  | .mirrorAck _ _ => 1
  | .lineFetch _ _ _ _ => 2
  | .lineData _ r _ => if r = 0 then 10 else 2
  | .sfSync us => 1 + us.length
  | .sfReject _ => 2
  | .resyncReq _ _ _ => 2
  | .resyncZero _ _ => 2
  | .resyncDone _ _ _ _ _ => 2
  | .spdm bs => 1 + (bs.length + 7) / 8
  | .heartbeat _ _ _ _ => 2
  | .timeReq _ => 2
  | .timeRsp _ _ => 3
  | .formReq _ => 20
  | .formRsp _ _ _ => 1
  | .handover _ => 1
  | .leave => 1

/-- Header slots of a message (Tables 11.5, 12.4). -/
def msgHeader : TilMsg → Nat
  | .mirrorWr _ _ => 2
  | .mirrorPwr _ _ _ => 3
  | .mirrorAck _ _ => 1
  | .lineFetch _ _ _ _ => 2
  | .lineData _ _ _ => 2
  | .sfSync _ => 1
  | .sfReject _ => 2
  | .resyncReq _ _ _ => 2
  | .resyncZero _ _ => 2
  | .resyncDone _ _ _ _ _ => 2
  | .spdm _ => 1
  | .heartbeat _ _ _ _ => 2
  | .timeReq _ => 2
  | .timeRsp _ _ => 3
  | .formReq _ => 2
  | .formRsp _ _ _ => 1
  | .handover _ => 1
  | .leave => 1

/-- OPCODE of a message (Tables 11.5, 12.4). -/
def msgOpcode : TilMsg → Nat
  | .mirrorWr _ _ => 0x10
  | .mirrorPwr _ _ _ => 0x11
  | .mirrorAck _ _ => 0x20
  | .lineFetch _ _ _ _ => 0x30
  | .lineData _ _ _ => 0x31
  | .sfSync _ => 0x32
  | .sfReject _ => 0x33
  | .resyncReq _ _ _ => 0x34
  | .resyncZero _ _ => 0x35
  | .resyncDone _ _ _ _ _ => 0x36
  | .spdm _ => 0x40
  | .heartbeat _ _ _ _ => 0x41
  | .timeReq _ => 0x42
  | .timeRsp _ _ => 0x43
  | .formReq _ => 0x44
  | .formRsp _ _ _ => 0x45
  | .handover _ => 0x46
  | .leave => 0x47

/-- The first slot's common fields (Table 11.4), and `rest` above bit 23. -/
def firstSlot (m : TilMsg) (qos flags rest : Nat) : Nat :=
  msgOpcode m + (msgClass m <<< 8) + ((qos % 8) <<< 10) + ((flags % 8) <<< 13) + ((msgSlots m % 256) <<< 16) + ((rest % 2 ^ 40) <<< 24)

/-- The eight slots of a line, byte 0 first (R274). -/
def lineSlots (l : Line) : List Nat := (List.range 8).map fun i => bitsAt l.toNat (64 * i) 64

/-- The six slots of a digest, its first byte at byte 0 (R6). -/
def digestSlots (d : BitVec 384) : List Nat :=
  let x := bytesToNat (natToBytesBE 48 d.toNat)
  (List.range 6).map fun i => bitsAt x (64 * i) 64

/-- The slot of one SF_SYNC update (Table 12.4); `sector` is DPA[44:8]. -/
def updateSlot (u : SfUpdate) : Nat :=
  bit u.free + ((u.ldTag % 64) <<< 2) + ((u.sector % 2 ^ 37) <<< 8) + (u.vector.toNat <<< 45) + ((u.aliasF % 4096) <<< 49)

/-- The first two slots of a mirror write (Table 11.6). -/
def mirrorSlots (m : TilMsg) (h : MirrorHdr) : List Nat :=
  [firstSlot m h.qos (bit h.poison + 2 * bit h.srcCq + 4 * bit h.resync)
      (h.ldTag % 64 + ((h.head % 4) <<< 6) + ((h.tag % 65536) <<< 8) + ((h.epoch % 256) <<< 24)),
   h.mirrorId % 4096 + ((h.key % 4096) <<< 12) + (bitsAt h.dpa 6 39 <<< 24)]

/-- Bytes by eights as slots, the last padded with zeros. -/
def byteSlots : Nat → List Byte → List Nat
  | 0, _ => []
  | n + 1, bs => bytesToNat (bs.take 8) :: byteSlots n (bs.drop 8)

/-- A line with its bytes outside a mask zero (R274). -/
def maskedLine (mask : BitVec 64) (l : Line) : Line :=
  (List.range 64).foldl (fun a i => if mask.getLsbD i then setLineField a (8 * i) 8 (lineByte l i).toNat else a) 0

/-- The slots of a message (R273 to R275, Table 12.4). -/
def encodeMsg (m : TilMsg) : List Nat :=
  match m with
  | .mirrorWr h l => mirrorSlots m h ++ (if h.poison then [] else lineSlots l)
  | .mirrorPwr h mask l => mirrorSlots m h ++ mask.toNat :: lineSlots (maskedLine mask l)
  | .mirrorAck id r => [firstSlot m 0 0 (id % 4096 + ((r % 16) <<< 12))]
  | .lineFetch ld id key dpa =>
    [firstSlot m 0 0 (ld % 64 + ((id % 4096) <<< 6) + ((key % 4096) <<< 18)), bitsAt dpa 6 39]
  | .lineData id r l => firstSlot m 0 0 (id % 4096 + ((r % 16) <<< 12)) :: 0 :: (if r = 0 then lineSlots l else [])
  | .sfSync us => firstSlot m 0 0 (us.length % 32) :: us.map updateSlot
  | .sfReject u => [firstSlot m 0 0 0, updateSlot u]
  | .resyncReq ld size dpa => [firstSlot m 0 0 (ld % 64 + ((size % 64) <<< 6)), bitsAt dpa 12 33]
  | .resyncZero ld dpa => [firstSlot m 0 0 (ld % 64), bitsAt dpa 12 33]
  | .resyncDone ld size dpa all failed =>
    [firstSlot m 0 (bit all + 2 * bit failed) (ld % 64 + ((size % 64) <<< 6)), bitsAt dpa 12 33]
  | .spdm bs => firstSlot m 0 0 (bs.length % 2048) :: byteSlots ((bs.length + 7) / 8) bs
  | .heartbeat role synced epoch oldest => [firstSlot m 0 0 (role % 8 + (bit synced <<< 3) + ((epoch % 256) <<< 4)), oldest % 2 ^ 64]
  | .timeReq t1 => [firstSlot m 0 0 0, t1 % 2 ^ 64]
  | .timeRsp t2 t3 => [firstSlot m 0 0 0, t2 % 2 ^ 64, t3 % 2 ^ 64]
  | .formReq r =>
    firstSlot m 0 0 (bit r.preferred + 2 * bit r.serving + 4 * bit r.fresh + 8 * bit r.warmClean + 16 * bit r.wasPrimary
        + ((r.epoch % 256) <<< 5)) :: r.gen % 2 ^ 64 :: (digestSlots r.compat ++ digestSlots r.predecessor
          ++ [0, 0, 0, 0, 0, 0])
  | .formRsp result copy prim => [firstSlot m 0 0 (result % 4 + 4 * bit copy + 8 * bit prim)]
  | .handover e => [firstSlot m 0 0 (e % 256)]
  | .leave => [firstSlot m 0 0 0]

/-- The line in eight slots. -/
def slotsLine (ss : List Nat) : Line := lineOfBytes (ss.flatMap fun x => natToBytes 8 x)

/-- A digest in six slots. -/
def slotsDigest (ss : List Nat) : BitVec 384 := BitVec.ofNat 384 (bytesToNatBE (ss.flatMap fun x => natToBytes 8 x))

/-- An SF_SYNC update from its slot. -/
def slotUpdate (x : Nat) : SfUpdate :=
  ⟨bitsAt x 0 2 = 1, bitsAt x 2 6, bitsAt x 8 37, BitVec.ofNat 4 (bitsAt x 45 4), bitsAt x 49 12⟩

/-- The mirror header from its two slots. -/
def slotsMirror (w0 w1 : Nat) : MirrorHdr :=
  ⟨w0.testBit 13, w0.testBit 14, w0.testBit 15, bitsAt w0 10 3, bitsAt w0 24 6, bitsAt w0 30 2, bitsAt w0 32 16,
    bitsAt w0 48 8, bitsAt w1 0 12, bitsAt w1 12 12, bitsAt w1 24 39 <<< 6⟩

/-- A message read from its slots by its opcode; none for an opcode that no table defines (R273). -/
def readMsg (ss : List Nat) : Option TilMsg :=
  let w0 := ss.headD 0
  let w1 := ss.getD 1 0
  let w2 := ss.getD 2 0
  match bitsAt w0 0 8 with
  | 0x10 =>
    let h := slotsMirror w0 w1
    some (.mirrorWr h (if h.poison then 0 else slotsLine (ss.drop 2)))
  | 0x11 => some (.mirrorPwr (slotsMirror w0 w1) (BitVec.ofNat 64 w2) (slotsLine (ss.drop 3)))
  | 0x20 => some (.mirrorAck (bitsAt w0 24 12) (bitsAt w0 36 4))
  | 0x30 => some (.lineFetch (bitsAt w0 24 6) (bitsAt w0 30 12) (bitsAt w0 42 12) (bitsAt w1 0 39 <<< 6))
  | 0x31 =>
    let r := bitsAt w0 36 4
    some (.lineData (bitsAt w0 24 12) r (if r = 0 then slotsLine (ss.drop 2) else 0))
  | 0x32 => some (.sfSync ((ss.drop 1).map slotUpdate))
  | 0x33 => some (.sfReject (slotUpdate w1))
  | 0x34 => some (.resyncReq (bitsAt w0 24 6) (bitsAt w0 30 6) (bitsAt w1 0 33 <<< 12))
  | 0x35 => some (.resyncZero (bitsAt w0 24 6) (bitsAt w1 0 33 <<< 12))
  | 0x36 => some (.resyncDone (bitsAt w0 24 6) (bitsAt w0 30 6) (bitsAt w1 0 33 <<< 12) (w0.testBit 13) (w0.testBit 14))
  | 0x40 => some (.spdm (((ss.drop 1).flatMap fun x => natToBytes 8 x).take (bitsAt w0 24 11)))
  | 0x41 => some (.heartbeat (bitsAt w0 24 3) (w0.testBit 27) (bitsAt w0 28 8) w1)
  | 0x42 => some (.timeReq w1)
  | 0x43 => some (.timeRsp w1 w2)
  | 0x44 => some (.formReq ⟨w0.testBit 24, w0.testBit 25, w0.testBit 26, w0.testBit 27, w0.testBit 28, bitsAt w0 29 8, w1,
      slotsDigest ((ss.drop 2).take 6), slotsDigest ((ss.drop 8).take 6)⟩)
  | 0x45 => some (.formRsp (bitsAt w0 24 2) (w0.testBit 26) (w0.testBit 27))
  | 0x46 => some (.handover (bitsAt w0 24 8))
  | 0x47 => some .leave
  | _ => none

/-- The lengths a message may carry: N of SF_SYNC and LENGTH of SPDM agree with SLOTS and lie in range (R275, Table 12.4). -/
def lengthOk (w0 : Nat) : TilMsg → Bool
  | .sfSync us => bitsAt w0 24 5 = us.length && 1 ≤ us.length && us.length ≤ 28
  | .spdm bs => bitsAt w0 24 11 = bs.length && 1 ≤ bs.length && bs.length ≤ 2024
  | _ => true

/-- R273: a message whose SLOTS is not what its opcode requires, or whose opcode is undefined, is none. -/
def decodeMsg (ss : List Nat) : Option TilMsg :=
  match readMsg ss with
  | none => none
  | some m =>
    let w0 := ss.headD 0
    if bitsAt w0 16 8 = ss.length && msgSlots m = ss.length && lengthOk w0 m then some m else none

/-! ## Flits (R269, R270) -/

/-- The flit header (Table 11.3). -/
def flitHeader (type seq : Nat) (c : FlitCtl) : Nat :=
  ((c.crCount % 65536) <<< 67) + (c.crSel.val <<< 83) + ((c.nakSeq % 4096) <<< 86) + (bit c.nak <<< 98) + (bit c.ackValid <<< 99)
    + ((c.ack % 4096) <<< 100) + ((seq % 4096) <<< 112) + ((type % 16) <<< 124)

/-- The 256 bytes of a flit; with `bad` its CRC is inverted (Tables 11.2, 18.14). -/
def flitImage (type seq : Nat) (c : FlitCtl) (payload : BitVec 1888) (bad : Bool) : BitVec 2048 :=
  let x := flitHeader type seq c + (payload.toNat <<< 128)
  let crc := crc32c (natToBytes 252 x)
  BitVec.ofNat 2048 (x + ((if bad then crc ^^^ 0xFFFFFFFF else crc) <<< 2016))

/-! ## AES-256-GCM over a group (R288) -/

/-- The bytes of a payload. -/
def payloadBytes (p : BitVec 1888) : List Byte := natToBytes 236 p.toNat
def bytesPayload (bs : List Byte) : BitVec 1888 := BitVec.ofNat 1888 (bytesToNat bs)

/-- A byte string cut into pieces of `w` bytes, the last short. -/
def cutBytes (w : Nat) : Nat → List Byte → List (List Byte)
  | 0, _ => []
  | n + 1, bs => bs.take w :: cutBytes w n (bs.drop w)

/-- The 16-byte blocks of a byte string, the last padded with zeros. -/
def gcmBlocks (bs : List Byte) : List Block :=
  (cutBytes 16 ((bs.length + 15) / 16) bs).map fun b => BitVec.ofNat 128 (bytesToNatBE (b ++ List.replicate (16 - b.length) 0))

/-- FIXED ‖ GROUP, each little-endian, with the 32-bit block counter behind it. -/
def gcmCounter (fixed : BitVec 32) (group n : Nat) : Block :=
  BitVec.ofNat 128 (bytesToNatBE (natToBytes 4 fixed.toNat ++ natToBytes 8 group) * 2 ^ 32 + n)

/-- Counter mode over a byte string, from counter 2. -/
def gcmCtr (k : LinkKey) (group : Nat) (bs : List Byte) : List Byte :=
  let n := (bs.length + 15) / 16
  let pad := (List.range n).flatMap fun i => natToBytesBE 16 (aes k.key (gcmCounter k.fixed group (i + 2))).toNat
  (bs.zip pad).map fun x => x.1 ^^^ x.2

/-- The tag over AAD and ciphertext. -/
def gcmTag (k : LinkKey) (group : Nat) (aad cipher : List Byte) : Block :=
  let h := aes k.key 0
  let len := BitVec.ofNat 128 (8 * aad.length * 2 ^ 64 + 8 * cipher.length)
  ghash h (gcmBlocks aad ++ gcmBlocks cipher ++ [len]) ^^^ aes k.key (gcmCounter k.fixed group 1)

/-- AAD of a group: TYPE and SEQ of each DATA flit and of the MAC flit (R288). -/
def groupAad (seqs : List Nat) (macSeq : Nat) : List Byte :=
  seqs.flatMap (fun q => natToBytes 2 (q % 4096 + 0x1000)) ++ natToBytes 2 (macSeq % 4096 + 0x2000)

/-- The payload of the MAC flit. -/
def macPayload (tag : Block) (group count : Nat) : BitVec 1888 :=
  bytesPayload (natToBytesBE 16 tag.toNat ++ natToBytes 8 group ++ natToBytes 1 count)

/-! ## Credits (R277, R278) -/

/-- Credit available. -/
def credAvail (c : Credit) : Nat := c.adv - (c.cons + 65536 - c.retSeen) % 65536

def credAt (s : State) (i : Nat) : Credit := s.til.credits.toList.getD i ⟨0, 0, 0, 0, 0⟩

def updCredit (i : Fin 8) (f : Credit → Credit) (s : State) : State :=
  { s with til := { s.til with credits := updAt s.til.credits i f } }

def credIdx (tc kind : Nat) : Fin 8 := ⟨(2 * tc + kind) % 8, Nat.mod_lt _ (by decide)⟩

/-- Data credits a message takes. -/
def dataCredits (m : TilMsg) : Nat := (msgSlots m - msgHeader m + 7) / 8

def hasCredit (s : State) (m : TilMsg) : Bool :=
  1 ≤ credAvail s.til.credits[credIdx (msgClass m) 0] && dataCredits m ≤ credAvail s.til.credits[credIdx (msgClass m) 1]

def takeCredit (m : TilMsg) (s : State) : State :=
  updCredit (credIdx (msgClass m) 0) (fun c => { c with cons := (c.cons + 1) % 65536 })
    (updCredit (credIdx (msgClass m) 1) (fun c => { c with cons := (c.cons + dataCredits m) % 65536 }) s)

/-- A message leaves the receive buffer: its credits are freed (R277, R278). -/
def freeCredit (m : TilMsg) (s : State) : State :=
  updCredit (credIdx (msgClass m) 0) (fun c => { c with ret := (c.ret + 1) % 65536 })
    (updCredit (credIdx (msgClass m) 1) (fun c => { c with ret := (c.ret + dataCredits m) % 65536 }) s)

/-- The credits the T816 advertises, in CR_SEL order (Table 11.7). -/
def ownAdv : List Nat := [2048, 2048, 2048, 0, 256, 256, 64, 256]

/-! ## Sending flits -/

/-- The credit counter the next flit reports (R279). -/
def crPick (s : State) : Fin 8 :=
  let order : List (Fin 8) := (List.range 8).map fun i => ⟨(s.til.crNext + i) % 8, Nat.mod_lt _ (by decide)⟩
  (order.find? fun i => s.til.credits[i].ret ≠ s.til.credits[i].told).getD ⟨s.til.crNext % 8, Nat.mod_lt _ (by decide)⟩

/-- The link-control fields of the next flit, and what sending them leaves (R279, R283, R284). -/
def flitCtl (s : State) : FlitCtl × State :=
  let i := crPick s
  let c := s.til.credits[i]
  let ctl : FlitCtl := ⟨(s.til.expect + 4095) % 4096, s.til.accepted, s.til.nakPending, s.til.expect, i, c.ret⟩
  let s1 := updCredit i (fun c => { c with told := c.ret }) s
  let nakAt := if s.til.nakPending then s.dtime else s.til.nakAt
  (ctl, { s1 with til := { s1.til with crNext := (i.val + 1) % 8, nakPending := false, nakAt := nakAt } })

/-- One flit sent. An armed CRC_FAIL corrupts the next DATA flit (Table 18.14). -/
def sendOne (type seq : Nat) (payload : BitVec 1888) (s : State) : State :=
  let (c, s1) := flitCtl s
  let bad := type = 1 && fires s1 blkTiller 3
  let s2 := if bad then disarm blkTiller 3 s1 else s1
  emit (.flit (flitImage type seq c payload bad))
    { s2 with til := { s2.til with sinceIdle := if type = 0 then 0 else s2.til.sinceIdle + 1 } }

/-- A flit in its turn: an IDLE goes first after 4,095 flits without one (R268). -/
def sendFlit (type seq : Nat) (payload : BitVec 1888) (s : State) : State :=
  sendOne type seq payload (if type ≠ 0 && 4095 ≤ s.til.sinceIdle then sendOne 0 0 0 s else s)

/-- A new sequenced flit: it takes the next sequence number and is kept for replay (R281). -/
def sendSeq (mac : Bool) (payload : BitVec 1888) (tracked sync : Bool) (s : State) : State :=
  let q := s.til.txNext
  let bad := !mac && fires s blkTiller 3
  let s1 := sendFlit (if mac then 2 else 1) q payload s
  { s1 with til := { s1.til with
    txNext := (q + 1) % 4096
    replayBuf := s1.til.replayBuf ++ [⟨mac, q, payload, tracked, sync, bad, 0⟩] } }

/-! ## Messages into flits -/

/-- A slot on its way: begins a message, belongs to an open mirror write or fetch, to an SF_SYNC, and its value. -/
structure TxSlot where
  start : Bool
  tracked : Bool
  sync : Bool
  val : Nat
deriving DecidableEq, Repr

def isTracked : TilMsg → Bool
  | .mirrorWr _ _ => true
  | .mirrorPwr _ _ _ => true
  | .lineFetch _ _ _ _ => true
  | _ => false

def isSync : TilMsg → Bool
  | .sfSync _ => true
  | _ => false

def isSpdm : TilMsg → Bool
  | .spdm _ => true
  | _ => false

/-- The slots of a message. -/
def msgTxSlots (m : TilMsg) : List TxSlot :=
  match encodeMsg m with
  | [] => []
  | x :: xs => ⟨true, isTracked m, isSync m, x⟩ :: xs.map fun y => ⟨false, isTracked m, isSync m, y⟩

/-- A DATA payload of up to 29 slots (R272). -/
def dataPayload (ss : List TxSlot) : BitVec 1888 :=
  let start := ((ss.take 29).zipIdx.map fun x => bit x.1.start <<< x.2).foldl (· + ·) 0
  bytesPayload (natToBytes 4 start ++ (ss.take 29).flatMap fun x => natToBytes 8 x.val)

/-- A list cut into pieces of `w`. -/
def cutList {α : Type} (w : Nat) : Nat → List α → List (List α)
  | 0, _ => []
  | n + 1, xs => if xs.isEmpty then [] else xs.take w :: cutList w n (xs.drop w)

/-- The first element that satisfies `p`, and the list without it. -/
def takeFirst {α : Type} (p : α → Bool) : List α → Option (α × List α)
  | [] => none
  | x :: xs => if p x then some (x, xs) else (takeFirst p xs).map fun r => (r.1, x :: r.2)

/-- R276: no older record still has the identifier of the message. -/
def idFree (s : State) : TilMsg → Bool
  | .mirrorWr h _ => s.til.mirrors.all fun o => h.mirrorId ≤ o.mid || o.mid % 4096 ≠ h.mirrorId % 4096
  | .mirrorPwr h _ _ => s.til.mirrors.all fun o => h.mirrorId ≤ o.mid || o.mid % 4096 ≠ h.mirrorId % 4096
  | .lineFetch _ id _ _ => s.til.fetches.all fun o => id ≤ o.fid || o.fid % 4096 ≠ id % 4096
  | _ => true

/-- What the flit stamps with the current DTIME: T1 and T3 (R294). -/
def stampMsg (s : State) : TilMsg → TilMsg × State
  | .timeReq _ => (.timeReq s.dtime, { s with til := { s.til with t1 := s.dtime, replaySeen := false } })
  | .timeRsp t2 _ => (.timeRsp t2 s.dtime, s)
  | m => (m, s)

/-- Waiting shadow updates become one SF_SYNC of at most 28 (R311, Table 12.4). -/
def packSync (s : State) : State :=
  if s.pair.backlog.isEmpty then s
  else
    let m := TilMsg.sfSync ((s.pair.backlog.take 28).map (·.2))
    if hasCredit s m then
      { s with pair := { s.pair with backlog := s.pair.backlog.drop 28 }, til := { s.til with queue := m :: s.til.queue } }
    else s

/-- The next message that has credits: MIRROR_ACK, MGMT, COHERENCE, then MIRROR_WR, each class in order (R280). Before
the link is UP only SPDM is sent (R287). -/
def nextMsg (s0 : State) : Option (TilMsg × State) :=
  let s := if s0.til.queue.any (fun m => msgClass m = 2 && isSync m) || s0.til.state ≠ .up then s0 else packSync s0
  let may (m : TilMsg) : Bool := (s.til.state = .up || isSpdm m) && hasCredit s m && idFree s m
  let pick (tc : Nat) : Option (TilMsg × State) :=
    match takeFirst (fun m => msgClass m = tc) s.til.queue with
    | some (m, rest) =>
      if may m then
        let (m1, s1) := stampMsg { s with til := { s.til with queue := rest } } m
        some (m1, takeCredit m1 s1)
      else none
    | none => none
  match pick 1 with
  | some r => some r
  | none => match pick 3 with
    | some r => some r
    | none => match pick 2 with
      | some r => some r
      | none => pick 0

/-- MAC_INTERVAL as configured (Table 11.16). -/
def macInterval (s : State) : Nat := max 1 (regField s offTilCfg 24 6)

/-- Flits that `n` slots take, MAC flits included. -/
def flitsOf (s : State) (n : Nat) : Nat :=
  let d := (n + 28) / 29
  d + (d + macInterval s - 1) / macInterval s

/-- The messages that leave now: as many as have credits and fit the replay buffer of 2,048 flits (R281). -/
def takeMsgs : Nat → List TxSlot → State → List TxSlot × State
  | 0, acc, s => (acc, s)
  | fuel + 1, acc, s =>
    match nextMsg s with
    | none => (acc, s)
    | some (m, s1) =>
      let acc1 := acc ++ msgTxSlots m
      if s.til.replayBuf.length + flitsOf s acc1.length ≤ 2048 then takeMsgs fuel acc1 s1 else (acc, s)

/-- One group sealed and sent with its MAC flit (R288). -/
def sendGroup (k : LinkKey) (ps : List (List TxSlot)) (s : State) : State :=
  let g := s.til.txGroup
  let cipher := gcmCtr k g (ps.flatMap fun p => payloadBytes (dataPayload p))
  let cs := cutBytes 236 ps.length cipher
  let q := s.til.txNext
  let tag := gcmTag k g (groupAad ((List.range ps.length).map (q + ·)) (q + ps.length)) cipher
  let s1 := (ps.zip cs).foldl (fun t x =>
    sendSeq false (bytesPayload x.2) (x.1.any (·.tracked)) (x.1.any (·.sync)) t) s
  let s2 := sendSeq true (macPayload tag g ps.length) false false s1
  { s2 with til := { s2.til with txGroup := g + 1 } }

/-- Encrypted service: every message that may leave, in groups (R288). -/
def pumpGroups (k : LinkKey) (s : State) : State :=
  let (slots, s1) := takeMsgs (s.til.queue.length + s.pair.backlog.length) [] s
  let flits := cutList 29 slots.length slots
  (cutList (macInterval s) flits.length flits).foldl (fun t g => sendGroup k g t) s1

/-- One SPDM message in the clear, in DATA flits of its own (R287). -/
def sendClear (m : TilMsg) (s : State) : State :=
  let slots := msgTxSlots m
  (cutList 29 slots.length slots).foldl (fun t p => sendSeq false (dataPayload p) false false t) s

/-- The next message in the clear that leaves, if its flits fit the replay buffer (R281). -/
def nextClear (s : State) : Option State :=
  match nextMsg s with
  | none => none
  | some (m, s1) =>
    if s.til.replayBuf.length + (msgSlots m + 28) / 29 ≤ 2048 then some (sendClear m s1) else none

/-- Before START_SEQ: SPDM in the clear, up to the sequence number the own LINK_KEY named; the transmitter starts to
encrypt there once the key is answered (R287 steps 4, 5). -/
def pumpAttest : Nat → State → State
  | 0, s => s
  | fuel + 1, s =>
    match s.til.txKey with
    | some k =>
      if s.til.txStarted then pumpGroups k s
      else if s.til.txNext = k.start then pumpGroups k { s with til := { s.til with txStarted := true } }
      else match nextClear s with
        | some s1 => pumpAttest fuel s1
        | none => s
    | none =>
      if (s.til.txNew.map (·.start)) = some s.til.txNext then s
      else match nextClear s with
        | some s1 => pumpAttest fuel s1
        | none => s

/-- The INIT payload (Table 11.9). -/
def initPayload (s : State) : BitVec 1888 :=
  bytesPayload (natToBytes 2 1 ++ natToBytes 1 (bit s.til.initSeen) ++ natToBytes 1 0 ++
    ownAdv.flatMap (fun a => natToBytes 2 a) ++ natToBytesBE 48 s.fuses.deviceHash.toNat)

/-- What the transmitter sends until it has nothing else: INIT flits in INIT, DATA and MAC flits, and one IDLE (R268, R287,
R291). -/
def tilSend (s : State) : State :=
  match s.til.state with
  | .init =>
    let s1 := sendFlit 3 0 (initPayload s) s
    { s1 with til := { s1.til with sentRxSeen := s.til.sentRxSeen || s.til.initSeen } }
  | .attest => sendFlit 0 0 0 (pumpAttest (s.til.queue.length + 1) s)
  | .up =>
    match s.til.txKey with
    | some k => sendFlit 0 0 0 (pumpGroups k s)
    | none => s
  | _ => s

end Sys2Proof.Machine
end

