-- ==== Sys2Proof/Machine/TilLink.lean ====
section
/-! DEFINITION. The Tiller link: its states, the loss of the link and what the pair does at once (R291, R292, R318), the
receiver (R271, R278, R282 to R285, R289), attestation (R287), and a flit time (R268). -/

namespace Sys2Proof.Machine

/-! ## Roles that depend on the link -/

def setRole (r : Role) (s : State) : State := { s with pair := { s.pair with role := r } }

/-- Reject buffers of any spikelet are full: 256 in each (R312, R314). -/
def rejectsFull (s : State) : Bool := s.spks.toList.any fun k => 256 ≤ k.rejects.length

/-- Every condition of R314 holds. What the PRIMARY knows of them, the resync list and R313, arrives in its HEARTBEAT. -/
def syncHolds (s : State) : Bool :=
  s.til.state = .up && !s.pair.copyNeeded && s.pair.peerSynced && !rejectsFull s

/-- JOINING and SECONDARY follow the conditions of R314 (Table 12.2), with SYNC_REACHED and SYNC_LOST. -/
def judgeSync (s : State) : State :=
  match s.pair.role with
  | .joining =>
    if syncHolds s then raise blkPair 4 Cap.none { s with pair := { s.pair with role := .secondary, synced := true } } else s
  | .secondary =>
    if syncHolds s then
      if s.pair.synced then s else raise blkPair 4 Cap.none { s with pair := { s.pair with synced := true } }
    else
      let s1 := { s with pair := { s.pair with role := .joining, synced := false } }
      if s.pair.synced then raise blkPair 3 Cap.none s1 else s1
  | _ => s

/-- What the loss of the link does in the pair at once: a PRIMARY fences (R318 step 1) unless it has given up ownership on its
way to STOOK (R300), a HANDOVER that was accepted ends FAILED with ROLE (log entry 31); a member that was SYNCED may promote
within PROMOTE_GRACE (R317 step 1), and R314 holds no longer. -/
def pairLinkLost (s : State) : State :=
  let was := s.pair.synced
  let s1 := { s with pair := { s.pair with
    downAt := s.dtime, syncedAtDown := was, formSent := false, peerReq := none, formOutcome := none, backlog := [],
    lagging := false, copies := [], hbWithheld := false, partnered := false,
    resolveDue := s.pair.resolveDue || s.pair.role = .primary, handover := false,
    fenceOut := s.pair.fenceOut || (s.pair.role = .primary && !entering s) } }
  judgeSync (if s.pair.handover then endAccepted 12 4 12 (fun _ => true) s1 else s1)

/-! ## Link states (Tables 11.10, 11.11) -/

def holdDown (s : State) : Bool := flag (regGet s offTilCtl) 1

def tilEnter (st : TilState) (s : State) : State := { s with til := { s.til with state := st, enteredAt := s.dtime } }

/-- ALIGN to UP, the states that a received cause takes down. -/
def tilLive (s : State) : Bool :=
  s.til.state = .align || s.til.state = .init || s.til.state = .attest || s.til.state = .up

/-- TRAINING starts with no quad locked. -/
def tilTrain (s : State) : State := tilEnter .training { s with til := { s.til with quads := 0, lostAt := [] } }

/-- The bit of STATUS that each cause of LAST_DOWN sets (Tables 11.13, 11.14); COMMAND and PEER_REINIT have none. -/
def downBit : Nat → List Nat
  | 1 => [6]
  | 2 => [8]
  | 3 => [9]
  | 4 => [10]
  | 5 => [11]
  | 8 => [12]
  | 9 => [13]
  | _ => []

/-- The link goes down with a cause of LAST_DOWN: the replay buffer, held groups, undelivered messages and credits are
discarded, the keys are erased, LINK_DOWN is set (R290, R292). Open mirror writes and fetches stay open. -/
def tilDown (cause : Nat) (s : State) : State :=
  if s.til.state = .down || s.til.state = .held then s
  else
    let s1 := { s with til := { s.til with
      replayBuf := [], queue := [], accepted := false, expect := 0, txNext := 0, nakOpen := false, nakPending := false,
      credits := Vector.replicate 8 ⟨0, 0, 0, 0, 0⟩, crNext := 0, txNew := none, txKey := none, rxKey := none,
      txGroup := 1, rxGroup := 1, heldFlits := [], rxPart := [], rxStarted := false, rxVerified := false,
      txStarted := false, initSeen := false, sentRxSeen := false, attested := false,
      countDown := satAdd 48 s.til.countDown 1 } }
    let v := (7 :: downBit cause).foldl (fun (a : BitVec 32) i => a ||| BitVec.ofNat 32 (1 <<< i)) 0
    let s2 := raiseBits blkTiller v Cap.none (regSetField offTilState 44 4 cause s1)
    pairLinkLost (tilEnter (if holdDown s2 then .held else .down) s2)

/-! ## Commands on the link state -/

/-- HOLD_DOWN moves a link that is down (Table 11.11). -/
def judgeHold (s : State) : State :=
  match s.til.state with
  | .down => if holdDown s then tilEnter .held s else s
  | .held => if holdDown s then s else tilTrain s
  | _ => s

/-- The link is kept down by HOLD_DOWN. -/
def tilIsHeld (s : State) : Bool := holdDown s && (s.til.state = .down || s.til.state = .held)

def doTilDownIdleEnd (s0 : State) : State :=
  let s := judgeHold s0
  if s.til.state = .down then tilTrain (timeTo (s.til.enteredAt + 100000) s) else s

/-- The link has been DOWN for 100 µs. -/
def execTilDownIdleEnd (s : State) : Host.Outcome State Fault Refusal := .next (doTilDownIdleEnd s)

/-- A write of TIL_CTL: DOWN takes the link down, HOLD_DOWN takes its value (Table 11.15). -/
def tilCtl (m : Master) (v : Word) (s : State) : State :=
  guardWrite m offTilCtl (fun t =>
    let t1 := regWrite .whole offTilCtl v (judgeHold t)
    judgeHold (if flag v 0 then tilDown 6 t1 else t1)) s

def execHoldDownWrite (m : Master) (v : Word) (s : State) : Host.Outcome State Fault Refusal := .next (tilCtl m v s)

/-- Germ writes DOWN. -/
def execTilDownCommand (m : Master) (v : Word) (s : State) : Host.Outcome State Fault Refusal := .next (tilCtl m v s)

def doTilLanesAdapted (s : State) : State := if s.til.state = .training then tilEnter .align s else s

/-- All 32 receive lanes have adapted. -/
def execTilLanesAdapted (s : State) : Host.Outcome State Fault Refusal := .next (doTilLanesAdapted s)

def doTilTrainTimeout (s : State) : State :=
  if s.til.state = .training then tilDown 9 (timeTo (s.til.enteredAt + 100000000) s) else s

/-- 100 ms in TRAINING without adaptation. -/
def execTilTrainTimeout (s : State) : Host.Outcome State Fault Refusal := .next (doTilTrainTimeout s)

/-- INIT starts with sequence numbers, groups and credits anew. DESIGN CHOICE: what was delivered over the link before and has
not been taken is gone by then (log entry 151). -/
def doTilQuadsLocked (s : State) : State :=
  if s.til.state = .align then
    tilEnter .init { s with til := { s.til with quads := 0xF, lostAt := [], delivered := [] } }
  else s

/-- All quads are locked and deskewed. -/
def execTilQuadsLocked (s : State) : Host.Outcome State Fault Refusal := .next (doTilQuadsLocked s)

def doTilAttestTimeout (s : State) : State :=
  if s.til.state = .attest then tilDown 8 (timeTo (s.til.enteredAt + 500000000) s) else s

/-- 500 ms in ATTEST. -/
def execTilAttestTimeout (s : State) : Host.Outcome State Fault Refusal := .next (doTilAttestTimeout s)

def doSymbolLockLost (q : Fin 4) (s : State) : State :=
  if tilLive s && s.til.quads.getLsbD q then
    raise blkTiller 6 Cap.none { s with til := { s.til with
      quads := s.til.quads &&& ~~~ headBit q, lostAt := kput s.til.lostAt q (s.dtime + 1) } }
  else s

/-- A quad loses symbol lock for any time (R267, Table 11.13). -/
def execSymbolLockLost (q : Fin 4) (s : State) : Host.Outcome State Fault Refusal := .next (doSymbolLockLost q s)

def doSymbolLockRegained (q : Fin 4) (s : State) : State :=
  if tilLive s then { s with til := { s.til with quads := s.til.quads ||| headBit q, lostAt := kdel s.til.lostAt q } } else s

/-- A quad holds symbol lock again. -/
def execSymbolLockRegained (q : Fin 4) (s : State) : Host.Outcome State Fault Refusal := .next (doSymbolLockRegained q s)

/-- LOCK_LOSS in ns (Table 11.16). -/
def lockLossNs (s : State) : Nat := 100 * regField s offTilCfg 0 10

def doLockLoss (q : Fin 4) (s : State) : State :=
  match kfind s.til.lostAt q with
  | some t => if tilLive s then tilDown 1 (timeTo (t - 1 + lockLossNs s) s) else s
  | none => s

/-- A quad has been without symbol lock for LOCK_LOSS (R267). -/
def execLockLoss (q : Fin 4) (s : State) : Host.Outcome State Fault Refusal := .next (doLockLoss q s)

/-! ## Link control (R271, R278, R283, R285) -/

/-- Sequenced flits flow. -/
def tilFlows (s : State) : Bool := s.til.state = .attest || s.til.state = .up

/-- Flits are received. -/
def tilReceives (s : State) : Bool := s.til.state = .init || tilFlows s

/-- Progress of an open mirror write or fetch restarts the timer (R293). -/
def restartTimer (s : State) : State := { s with til := { s.til with timerAt := s.dtime } }

/-- ACK frees flits of the replay buffer, or is out of range (R283). -/
def takeAck (c : FlitCtl) (s : State) : State :=
  if !c.ackValid then s
  else
    let n := s.til.replayBuf.length
    let oldest := (s.til.txNext + 4096 - n % 4096) % 4096
    let d := (c.ack + 1 + 4096 - oldest) % 4096
    if d ≤ n then
      let freed := s.til.replayBuf.take d
      let s1 := { s with til := { s.til with replayBuf := s.til.replayBuf.drop d } }
      if freed.any (·.tracked) then restartTimer s1 else s1
    else tilDown 3 s

/-- NAK: every unacknowledged flit from NAK_SEQ is sent again, or the link goes down (R285). -/
def takeNak (c : FlitCtl) (s : State) : State :=
  if !c.nak || c.nakSeq = s.til.txNext || !tilReceives s then s
  else
    match s.til.replayBuf.findIdx? fun f => f.seq = c.nakSeq with
    | none => tilDown 3 s
    | some i =>
      let again := s.til.replayBuf.drop i
      if (again.head?.map (·.replays)).getD 0 < 8 then
        let s1 := raise blkTiller 5 Cap.none { s with til := { s.til with
          replayBuf := s.til.replayBuf.take i ++ again.map (fun f => { f with replays := f.replays + 1 })
          replaySeen := true
          countReplay := satAdd 48 s.til.countReplay 1 } }
        again.foldl (fun t f => sendFlit (if f.mac then 2 else 1) f.seq f.payload t) s1
      else tilDown 2 s

/-- A credit return is accepted, or is more than was consumed (R278, R293). -/
def takeReturn (c : FlitCtl) (s : State) : State :=
  if !tilReceives s then s
  else
    let x := s.til.credits[c.crSel]
    let d := (c.crCount + 65536 - x.retSeen) % 65536
    if d ≤ (x.cons + 65536 - x.retSeen) % 65536 then
      let s1 := updCredit c.crSel (fun x => { x with retSeen := c.crCount % 65536 }) s
      let tc := c.crSel.val / 2
      if d ≠ 0 && (tc = 0 || tc = 2) then restartTimer s1 else s1
    else tilDown 3 s

/-- The link-control fields of a flit whose CRC passed (R271). -/
def takeCtl (c : FlitCtl) (s : State) : State :=
  if !tilReceives s then s else takeReturn c (takeNak c (takeAck c s))

/-- A flit whose CRC passed: codewords corrected are counted, its link-control fields are acted on, and a reserved TYPE takes
the link down (R270, R271, Table 11.21). -/
def takeRx (r : RxFlit) (s : State) : State :=
  if !tilReceives s then s
  else
    let s1 := takeCtl r.ctl { s with til := { s.til with countFecCorr := satAdd 48 s.til.countFecCorr r.corrected } }
    if r.reserved then tilDown 3 s1 else s1

/-- The receiver accepts the flit it expects, and discards any other (R282). -/
def acceptSeq (seq : Nat) (s : State) : Option State :=
  if tilFlows s && seq = s.til.expect then
    some { s with til := { s.til with expect := (seq + 1) % 4096, accepted := true, nakOpen := false } }
  else none

/-! ## Messages out of flits (R272, R273, R289) -/

/-- The slots of a payload with their START bits. -/
def payloadSlots (time : Nat) (bs : List Byte) : List RxSlot :=
  let start := bytesToNat (bs.take 4)
  (List.range 29).map fun i => ⟨start.testBit i, bytesToNat ((bs.drop (4 + 8 * i)).take 8), time⟩

/-- Messages whose slots are all there, each with the time its first slot arrived, and the slots of one whose end is missing; none when a message is not as R273
requires. `fuel` counts the slots. -/
def assemble : Nat → List (TilMsg × Nat) → List RxSlot → Option (List (TilMsg × Nat) × List RxSlot)
  | 0, acc, _ => some (acc, [])
  | _ + 1, acc, [] => some (acc, [])
  | fuel + 1, acc, x :: rest =>
    if !x.start then assemble fuel acc rest
    else
      let n := bitsAt x.val 16 8
      if n = 0 || (readMsg [x.val]).isNone || (rest.take (n - 1)).any (·.start) then none
      else if rest.length < n - 1 then some (acc, x :: rest)
      else
        match decodeMsg (x.val :: (rest.take (n - 1)).map (·.val)) with
        | none => none
        | some m => assemble fuel (acc ++ [(m, x.time)]) (rest.drop (n - 1))

/-- Payloads in order are read; their messages are delivered, or the link goes down with PROTOCOL. `clear`: before the
peer's START_SEQ, when only SPDM may come (R287). -/
def takePayloads (clear : Bool) (ps : List (Nat × List Byte)) (s : State) : State :=
  let ss := s.til.rxPart ++ ps.flatMap fun p => payloadSlots p.1 p.2
  match assemble (ss.length + 1) [] ss with
  | none => tilDown 3 s
  | some (ms, part) =>
    if clear && !(ms.all fun m => isSpdm m.1) then tilDown 3 s
    else { s with til := { s.til with rxPart := part, delivered := s.til.delivered ++ ms } }

/-! ## Received flits -/

/-- An IDLE flit: its link-control fields (R268, R271). -/
def execIdleFlit (rx : RxFlit) (s : State) : Host.Outcome State Fault Refusal := .next (takeRx rx s)

def doDataFlit (rx : RxFlit) (seq : Nat) (payload : BitVec 1888) (s : State) : State :=
  match acceptSeq seq (takeRx rx s) with
  | none => takeRx rx s
  | some s1 =>
    let begun := s1.til.rxStarted || (match s1.til.rxKey with
      | some k => seq = k.start
      | none => false)
    if begun then
      { s1 with til := { s1.til with rxStarted := true, heldFlits := s1.til.heldFlits ++ [⟨seq, payload, s1.dtime⟩] } }
    else takePayloads true [(s1.dtime, payloadBytes payload)] s1

/-- A DATA flit whose CRC passed (R282, R289). -/
def execDataFlit (rx : RxFlit) (seq : Nat) (payload : BitVec 1888) (s : State) :
    Host.Outcome State Fault Refusal := .next (doDataFlit rx seq payload s)

def doMacFlit (rx : RxFlit) (seq : Nat) (payload : BitVec 1888) (s : State) : State :=
  match acceptSeq seq (takeRx rx s) with
  | none => takeRx rx s
  | some s1 =>
    match s1.til.rxKey with
    | none => tilDown 4 s1
    | some k =>
      let held := s1.til.heldFlits
      let cipher := held.flatMap fun f => payloadBytes f.payload
      let bs := payloadBytes payload
      let g := s1.til.rxGroup
      let tag := gcmTag k g (groupAad (held.map (·.seq)) seq) cipher
      if s1.til.rxStarted && held ≠ [] && bytesToNatBE (bs.take 16) = tag.toNat && bytesToNat ((bs.drop 16).take 8) = g
          && (bs.getD 24 0).toNat = held.length then
        let plain := cutBytes 236 held.length (gcmCtr k g cipher)
        takePayloads false ((held.map (·.time)).zip plain) { s1 with til := { s1.til with rxGroup := g + 1, heldFlits := [], rxVerified := true } }
      else tilDown 4 s1

/-- A MAC flit closes a group: the group verifies and its messages are delivered, or the link goes down (R289). -/
def execMacFlit (rx : RxFlit) (seq : Nat) (payload : BitVec 1888) (s : State) :
    Host.Outcome State Fault Refusal := .next (doMacFlit rx seq payload s)

/-- An SPDM message of Germ; its content is the standard's (log entry 4). -/
def freeSpdm (s : State) : State :=
  queueTil (.spdm (natToBytes 64 (Config.payload s.free).toNat)) { s with free := s.free + 1 }

/-- The link reaches ATTEST: counters from the INIT received, and the requester opens the SPDM exchange (R287). -/
def enterAttest (bs : List Byte) (s : State) : State :=
  let adv : Nat → Nat := fun i => bytesToNat ((bs.drop (4 + 2 * i)).take 2)
  let s1 := tilEnter .attest { s with til := { s.til with
    credits := Vector.ofFn fun i => ⟨adv i.val, 0, 0, 0, 0⟩
    peerHash := BitVec.ofNat 384 (bytesToNatBE ((bs.drop 20).take 48)) } }
  if s1.fuses.deviceHash.toNat < s1.til.peerHash.toNat then freeSpdm s1 else s1

def doInitFlit (payload : BitVec 1888) (s : State) : State :=
  let bs := payloadBytes payload
  match s.til.state with
  | .init =>
    let adv := (List.range 8).map fun i => bytesToNat ((bs.drop (4 + 2 * i)).take 2)
    if bytesToNat (bs.take 2) ≠ 1 || adv.any (fun a => 32767 < a) then tilDown 3 s
    else if (bs.getD 2 0).getLsbD 0 && s.til.sentRxSeen then enterAttest bs s
    else { s with til := { s.til with initSeen := true } }
  | .attest => tilDown 7 s
  | .up => tilDown 7 s
  | _ => s

/-- An INIT flit whose CRC passed (R291, Table 11.9). -/
def execInitFlit (rx : RxFlit) (payload : BitVec 1888) (s : State) : Host.Outcome State Fault Refusal :=
  .next (doInitFlit payload (takeRx rx s))

/-- The next flit carries NAK (R284). -/
def askReplay (s : State) : State :=
  if tilReceives s then { s with til := { s.til with nakOpen := true, nakPending := true, replaySeen := true } } else s

def doFailedFlit (crc : Bool) (codewords : Nat) (s : State) : State :=
  if !tilReceives s || (!crc && codewords = 0) then s
  else
    let s1 := if crc then raise blkTiller 3 Cap.none { s with til := { s.til with countCrc := satAdd 48 s.til.countCrc 1 } }
      else s
    let s2 := if codewords = 0 then s1 else raise blkTiller 4 Cap.none { s1 with til := { s1.til with
      countFecUncorr := satAdd 48 s1.til.countFecUncorr codewords } }
    askReplay s2

/-- A flit failed, by its CRC or because it overlaps `codewords` uncorrectable codewords (R266, R269, R284). -/
def execFailedFlit (crc : Bool) (codewords : Nat) (s : State) : Host.Outcome State Fault Refusal :=
  .next (doFailedFlit crc codewords s)

def doNakResend (s : State) : State :=
  if s.til.nakOpen && !s.til.nakPending then askReplay (timeTo (s.til.nakAt + 100 * regField s offTilCfg 16 7) s) else s

/-- The expected flit has not come within NAK_RESEND of the NAK (R284). -/
def execNakResend (s : State) : Host.Outcome State Fault Refusal := .next (doNakResend s)

def doPairTimeout (s : State) : State :=
  if tilLive s && !(s.til.mirrors.isEmpty && s.til.fetches.isEmpty) then
    tilDown 5 (timeTo (s.til.timerAt + 1000 * regField s offTilCfg 32 10) s)
  else s

/-- PAIR_TIMEOUT passes without progress of an open mirror write or fetch (R293). -/
def execPairTimeout (s : State) : Host.Outcome State Fault Refusal := .next (doPairTimeout s)

/-! ## Attestation (R287) -/

/-- The message of a class that its consumer takes next (R272). -/
def headOf (s : State) (tc : Nat) : Option (TilMsg × Nat) := s.til.delivered.find? fun d => msgClass d.1 = tc

/-- When the first slot of a message arrived, if it is the next that its class's consumer takes: delivered, its group
verified, and no earlier one of its class waiting (R272, R289). -/
def arrivedAt (s : State) (m : TilMsg) : Option Nat := ((headOf s (msgClass m)).filter (·.1 = m)).map (·.2)

/-- A message leaves the receive buffer as its consumer takes it, and its credits are freed (R277, R280). -/
def takeDelivered (d : TilMsg × Nat) (s : State) : State :=
  freeCredit d.1 { s with til := { s.til with delivered := s.til.delivered.erase d } }

/-- Germ takes the next SPDM message of the peer. -/
def takeSpdm (s : State) : Option State := ((headOf s 3).filter (isSpdm ·.1)).map fun d => takeDelivered d s

/-- The own LINK_KEY: a drawn key and FIXED. START_SEQ leaves room for the message and for the answer to the peer's
LINK_KEY (log entry 18). -/
def sendLinkKey (s : State) : State :=
  let (k, s1) := drawBits s
  let (f, s2) := drawBits s1
  let start := (s2.til.txNext + s2.til.queue.length + 2) % 4096
  freeSpdm { s2 with til := { s2.til with attested := true, txNew := some ⟨k, f.extractLsb' 0 32, start⟩ } }

/-- The own key is answered: the transmit engine takes it, and messages up to START_SEQ and past it follow, which end the
session. -/
def installTx (k : LinkKey) (s : State) : State :=
  let s1 := { s with til := { s.til with txKey := some k, txNew := none } }
  let next := s1.til.txNext + s1.til.queue.length
  (List.range ((k.start + 8192 - next) % 4096 + 1)).foldl (fun t _ => freeSpdm t) s1

/-- The four checks of R287 step 2: the Zaloux root, PEER_ID, the owner root, and fault injection. -/
def peerPasses (s : State) (zalouxRoot sameOwnerRoot fiDisabled : Bool) (keyHash : BitVec 384) : Bool :=
  match s.img with
  | none => false
  | some i => zalouxRoot && keyHash = i.peerId && sameOwnerRoot && (fiDisabled || i.fiAllowed)

/-- What Germ does on an SPDM message of the peer (R287). -/
def spdmStep (st : SpdmStep) (s : State) : State :=
  if s.til.state ≠ .attest then s
  else match st with
    | .exchange => freeSpdm s
    | .checked zr so fi h => if !peerPasses s zr so fi h then tilDown 8 s else if s.til.attested then s else sendLinkKey s
    | .keyAnswer => match s.til.txNew with
      | some k => installTx k s
      | none => s

def doTillerSpdm (st : SpdmStep) (s : State) : State :=
  match takeSpdm s with
  | some s1 => spdmStep st s1
  | none => s

/-- An SPDM message of the peer reaches Germ. -/
def execTillerSpdm (st : SpdmStep) (s : State) : Host.Outcome State Fault Refusal := .next (doTillerSpdm st s)

def doLinkKey (key : BitVec 256) (fixed : BitVec 32) (start : Nat) (s0 : State) : State :=
  match takeSpdm s0 with
  | none => s0
  | some s =>
    if s.til.state = .attest && s.til.attested && s.til.rxKey.isNone then
      freeSpdm { s with til := { s.til with rxKey := some ⟨key, fixed, start % 4096⟩ } }
    else s

/-- The peer's LINK_KEY message: the key is installed in the receive engine and answered (R287 step 4). -/
def execLinkKey (key : BitVec 256) (fixed : BitVec 32) (start : Nat) (s : State) :
    Host.Outcome State Fault Refusal := .next (doLinkKey key fixed start s)

/-- The image's PREFERRED bit, which PAIR_CFG shows (Table 12.13). -/
def isPreferred (s : State) : Bool := s.img.any (·.preferred)

/-- FORM_REQ of this member (Table 12.4). -/
def ownForm (s : State) : FormReq :=
  { preferred := isPreferred s
    serving := s.pair.role = .primary
    fresh := s.pair.fresh
    warmClean := s.pair.warmClean
    wasPrimary := s.pair.wasPrimary
    epoch := pairEpoch s
    gen := (regGet s offPairGen).toNat
    compat := match s.img with
      | some i => i.compat
      | none => 0
    predecessor := match s.img with
      | some i => i.predecessor
      | none => 0 }

def doAttestDone (s : State) : State :=
  if s.til.state = .attest && s.til.txStarted && s.til.rxVerified then
    let s1 := tilEnter .up { s with pair := { s.pair with lastHb := s.dtime } }
    if s1.pair.role = .detached || s1.pair.role = .fenced || s1.pair.role = .primary then
      queueTil (.formReq (ownForm s1)) { s1 with pair := { s1.pair with formSent := true } }
    else s1
  else s

/-- Both directions are encrypted and verified: the link is UP and Germ sends FORM_REQ (R287 step 5, R302). -/
def execAttestDone (s : State) : Host.Outcome State Fault Refusal := .next (doAttestDone s)

/-! ## A flit time -/

/-- DTIME counts: 1 ns, or 40 ns on the ring oscillator (R462, R463). A correction of R294 holds it still or adds or
withholds one tick in every 100 ns. -/
def tickTime (s : State) : State :=
  let d := if s.clk.coarse then 40 else 1
  let t := s.til
  if t.holdNs ≠ 0 then { s with til := { t with holdNs := t.holdNs - d } }
  else if t.slew = 0 then { s with dtime := (s.dtime + d) % 2 ^ 64 }
  else if d ≤ t.slewWait then
    { s with dtime := (s.dtime + d) % 2 ^ 64, til := { t with slewWait := t.slewWait - d } }
  else
    let up := 0 < t.slew
    { s with dtime := (if up then s.dtime + d + 1 else s.dtime + d - 1) % 2 ^ 64
             til := { t with slew := if up then t.slew - 1 else t.slew + 1, slewWait := 99 } }

/-- With nothing waiting, the Tiller transmitter sends what it has and DTIME counts (log entry 1). -/
def idleTick (s : State) : State := tickTime (tilSend (judgeHold s))

end Sys2Proof.Machine
end

