-- ==== Sys2Proof/Machine/Pair.lean ====
section
/-! DEFINITION. Pair operation and failover (chapter 12): mirror writes at the SECONDARY, copies and resynchronisation, the
shadow, heartbeat and time, forming a pair, fencing and ownership, promotion, handover. -/

namespace Sys2Proof.Machine

/-! ## Common conditions -/

/-- The member receives mirror writes (Table 12.1). -/
def receivesMirror (s : State) : Bool := s.pair.role = .joining || s.pair.role = .secondary

def tilUp (s : State) : Bool := s.til.state = .up

/-- A message that its class's consumer takes next, under R22 and R23 as the block receives it: its effect goes on as `f`,
which learns of a contained error, unless its parity fails. One that has not been delivered does nothing (R289). -/
def tilMessage (m : TilMsg) (addr : Nat) (keyed : Bool) (par : Parity) (f : Bool → State → State) (s : State) : State :=
  match arrivedAt s m with
  | none => s
  | some at_ =>
    let c : Cap := ⟨addr, 2, idPartner, 0xC, none⟩
    let (found, s1) := stageParity blkTiller 2 1 keyed (parityAt par .port) s
    match found with
    | .fatal => fatalParity blkTiller 2 c s1
    | .contained => f true (takeDelivered (m, at_) (raise blkTiller 1 c s1))
    | .good => f false (takeDelivered (m, at_) s1)

/-- The fields of PAIR_CFG (Table 12.13). -/
def formWaitNs (s : State) : Nat := 1000000 * regField s offPairCfg 32 16
def reissueNs (s : State) : Nat := 1000 * regField s offPairCfg 24 8
def graceNs (s : State) : Nat := 1000 * regField s offPairCfg 16 8
def hbMissNs (s : State) : Nat := 1000 * regField s offPairCfg 8 8
def syncLagNs (s : State) : Nat := 1000 * regField s offPairCfg 0 8

/-! ## Mirror writes (R307) -/

def ackMirror (h : MirrorHdr) (result : Nat) (s : State) : State := queueTil (.mirrorAck h.mirrorId result) s

/-- A reissued write that the dedup table holds under the EPOCH before promotion (R322). -/
def mirrorDup (s : State) (h : MirrorHdr) : Bool :=
  s.pair.reissueOpen && !h.resync && s.pair.dedup.any fun d =>
    d.src = h.srcCq && d.who = (if h.srcCq then h.ldTag else h.head) && d.tag = h.tag && d.epoch = s.pair.oldEpoch

/-- A mirror write enters the port of its LD as a request of the partner, in the class it carries (R248, R307). -/
def mirrorEnter (par : Parity) (h : MirrorHdr) (op : HomeOp) (data : Line) (be : BitVec 64) (contained : Bool) (s : State) : State :=
  match regionAt s h.ldTag h.dpa with
  | none => ackMirror h 2 s
  | some r =>
    let p := port4 (h.ldTag / 16)
    let (rid, s1) := takeSeq s
    let q : Req := { rawReq rid (.mirror h) h.ldTag op 0 data be h.poison with
      dpa := h.dpa, region := r.number, key := h.key, cls := h.qos, contained := contained, par := par }
    let s2 := if h.resync && bitsAt h.dpa 6 6 = 63 then
        { s1 with pair := { s1.pair with copyPages := s1.pair.copyPages + 1 } } else s1
    pumpIngress p (updPort p (fun o => { o with reqs := o.reqs ++ [⟨q, .ingress, false, false, false, false⟩] }) s2)

/-- A mirror write is taken from the receive buffer, which it stays in while the dedup table is full (R321). -/
def takeMirror (par : Parity) (h : MirrorHdr) (op : HomeOp) (data : Line) (be : BitVec 64) (m : TilMsg) (s : State) : State :=
  if !receivesMirror s || 16384 ≤ s.pair.dedup.length then s
  else tilMessage m h.dpa true par (fun c t =>
    if mirrorDup t h then
      ackMirror h 1 (raise blkPair 8 ⟨h.dpa, 2, idPartner, 0xC, some h.key⟩
        { t with pair := { t.pair with countDedup := satAdd 48 t.pair.countDedup 1 } })
    else mirrorEnter par h op data be c t) s

def doMirrorWr (h : MirrorHdr) (data : Line) (par : Parity) (s : State) : State :=
  takeMirror par h .wr data 0 (.mirrorWr h data) s

/-- A MIRROR_WR is applied at the home (R307). -/
def execMirrorWr (h : MirrorHdr) (data : Line) (par : Parity) (s : State) : Host.Outcome State Fault Refusal :=
  .next (allSettle (doMirrorWr h data par s))

def doMirrorPwr (h : MirrorHdr) (mask : BitVec 64) (data : Line) (par : Parity) (s : State) : State :=
  takeMirror par h .wrPtl data mask (.mirrorPwr h mask data) s

/-- A MIRROR_PWR is applied at the home (R307). -/
def execMirrorPwr (h : MirrorHdr) (mask : BitVec 64) (data : Line) (par : Parity) (s : State) :
    Host.Outcome State Fault Refusal := .next (allSettle (doMirrorPwr h mask data par s))

/-! ## The resync list (R308) -/

/-- A full copy starts at the first page (R305). -/
def fullCopy : CopyJob := ⟨0, 0, 0, 0, 0, true⟩

/-- A page joins the resync list; past 1,024 pages the partner leaves SECONDARY and a full copy follows (R308). -/
def listPage (ldTag dpa : Nat) (s : State) : State :=
  let l := s.pair.resync
  if l.any fun e => e.1 = ldTag && e.2.1 = dpa then s
  else if l.length < 1024 then { s with pair := { s.pair with resync := l ++ [(ldTag, dpa, false)] } }
  else { s with pair := { s.pair with
    resync := [], copies := fullCopy :: s.pair.copies.filter (!·.full), copyPages := 0, peerSynced := false } }

/-- A line of a page sent again is acknowledged: the page leaves the list with its last line, if none was refused. -/
def pageAcked (ldTag dpa : Nat) (refused : Bool) (s : State) : State :=
  let l := s.pair.resync.map fun e => if e.1 = ldTag && e.2.1 = dpa then (e.1, e.2.1, e.2.2 || refused) else e
  let more := s.til.mirrors.any fun o => o.page = some dpa && o.ldTag = ldTag
  let l1 := if more then l else l.filter fun e => !(e.1 = ldTag && e.2.1 = dpa && !e.2.2)
  { s with pair := { s.pair with resync := l1 } }

/-- An open mirror write ends with a RESULT: its home transaction closes (R95, R308). -/
def closeMirror (o : OpenMirror) (result : Nat) (s : State) : State :=
  let s1 := restartTimer { s with til := { s.til with mirrors := s.til.mirrors.erase o } }
  let s2 := if result = 2 then
      listPage o.ldTag (pageBase o.dpa) (raise blkPair 2 ⟨o.dpa, 2, idPartner, 0xC, none⟩
        { s1 with pair := { s1.pair with countRefused := satAdd 48 s1.pair.countRefused 1 } })
    else s1
  match o.page with
  | some dpa => pageAcked o.ldTag dpa (result = 2) s2
  | none =>
    let k := spk8 o.spk
    match s2.spks[k].txns.find? fun t => t.mirror = some o.mid with
    | some t => settle k (respond k t s2)
    | none => s2

def doMirrorAck (mirrorId result : Nat) (s : State) : State :=
  tilMessage (.mirrorAck mirrorId result) 0 false .good (fun _ t =>
    match t.til.mirrors.find? fun o => o.mid % 4096 = mirrorId with
    | some o => closeMirror o result t
    | none => t) s

/-- A MIRROR_ACK closes the mirrored write (R308). -/
def execMirrorAck (mirrorId result : Nat) (s : State) : Host.Outcome State Fault Refusal :=
  .next (allSettle (doMirrorAck mirrorId result s))

/-! ## Line recovery (R310) -/

/-- What this member holds of a line: none where its page is not mapped. -/
def mappedLine (ldTag dpa key : Nat) (s : State) : Option (Option Line) × State :=
  match mappedPage ldTag dpa s with
  | (none, s1) => (none, s1)
  | (some (r, leaf), s1) =>
    let a : Acc := ⟨key, r.awn, idPartner, 0xC, .demand, false, 7⟩
    let plain (m : Nat) (t : State) : Option (Option Line) × State :=
      let (x, u) := readData m a 0 (holdPath 7 m t)
      (some (readPlain x), readCause m a x u)
    if eTier leaf = 1 then
      let b := eAddr leaf
      let (x, s2) := readDesc b 0 (holdPath 7 b s1)
      match readPlain x with
      | none => (some none, readCause b (descAcc b) x s2)
      | some d =>
        if descForm d = 1 then plain (forwardPage d + lineBase dpa % 4096) s2
        else match readBlock (spkOf b) d (bitsAt dpa 10 2) a 0 s2 with
          | (.ok bs, s3) => (some (some (blockLine bs (bitsAt dpa 6 4))), s3)
          | (.failed, s3) => (some none, s3)
    else plain (eAddr leaf + lineBase dpa % 2 ^ eSize leaf) s1

/-- The home of a page's backing works on none of its lines, so that they may be read, ordered against host writes (R87, R305). -/
def pageAtRest (ldTag dpa : Nat) (s : State) : Bool :=
  match mappedPage ldTag dpa s with
  | (none, _) => true
  | (some (_, leaf), s1) => pageQuiet s1 (backingOf dpa leaf) && pageQuiet s1 (linesAt s1 dpa leaf) &&
      !targetBusy s1 (linesAt s1 dpa leaf)

def doLineFetch (ldTag fetchId key dpa : Nat) (par : Parity) (s : State) : State :=
  if !pageAtRest ldTag dpa s then s
  else tilMessage (.lineFetch ldTag fetchId key dpa) dpa true par (fun c t =>
    if t.pair.role = .joining || t.pair.role = .detached then queueTil (.lineData fetchId 2 0) t
    else if c then queueTil (.lineData fetchId 1 0) t
    else match mappedLine ldTag dpa key t with
      | (none, u) => queueTil (.lineData fetchId 2 0) u
      | (some none, u) => queueTil (.lineData fetchId 1 0) u
      | (some (some l), u) => queueTil (.lineData fetchId 0 l) u) s

/-- A LINE_FETCH of the partner is answered from the home (R310). -/
def execLineFetch (ldTag fetchId key dpa : Nat) (par : Parity) (s : State) : Host.Outcome State Fault Refusal :=
  .next (doLineFetch ldTag fetchId key dpa par s)

/-- A recovered line reaches the home: DATA is sealed under a new minor in the form that its region allows, anything else
becomes the poison pattern (R142, R243, R310). With the domain down nothing is written (R112). -/
def closeFetch (f : OpenFetch) (data : Option Line) (s : State) : State :=
  let s1 := restartTimer { s with til := { s.til with fetches := s.til.fetches.erase f } }
  if s.domainDown then s1
  else match data with
    | some l => raise (blkMc (mc16 f.mc)) 26 ⟨f.mpa, 1, idMigration, 9, some f.key⟩
        (writeCopied f.mpa (.data l f.key) f.key s1)
    | none => poisonCopied (mc16 f.mc) f.mpa s1

/-- LINE_DATA closes the fetch that Germ opened; while Germ restarts it waits (R24, R245). -/
def doLineData (fetchId result : Nat) (data : Line) (s : State) : State :=
  if !s.fw.germUp then s
  else tilMessage (.lineData fetchId result data) 0 false .good (fun _ t =>
    match t.til.fetches.find? fun f => f.fid % 4096 = fetchId with
    | some f => closeFetch f (if result = 0 then some data else none) t
    | none => t) s

/-- LINE_DATA arrives (R310). -/
def execLineData (fetchId result : Nat) (data : Line) (s : State) : Host.Outcome State Fault Refusal :=
  .next (allSettle (doLineData fetchId result data s))

/-! ## Copies (R305, R310) -/

/-- Regions of an LD in ascending DPA. -/
def ldRegions (s : State) (ldTag : Nat) : List Region :=
  sortBy (·.dpaBase) ((regions s).filter (ldReaches ldTag))

/-- The first page of an LD at or above `dpa`. -/
def ldNextPage (s : State) (ldTag dpa : Nat) : Option Nat :=
  ((ldRegions s ldTag).find? fun r => dpa < r.dpaBase + 2 ^ r.size).map fun r => max dpa r.dpaBase

/-- The next page of a job: of a full copy over every LD in ascending order, of a range inside its end. -/
def nextCopy (s : State) (j : CopyJob) : Option (Nat × Nat) :=
  if j.full then
    match ldNextPage s j.ldTag j.page with
    | some d => some (j.ldTag, d)
    | none => ((List.range 64).filter (j.ldTag < ·)).findSome? fun t => (ldNextPage s t 0).map fun d => (t, d)
  else
    match ldNextPage s j.ldTag j.page with
    | some d => if d < j.last then some (j.ldTag, d) else none
    | none => none

/-- The copy's header for one line; its class is the lowest (log entry 19). -/
def copyHdr (ldTag mid key dpa : Nat) (poison : Bool) : MirrorHdr := ⟨poison, false, true, 7, ldTag, 0, 0, 0, mid, key, dpa⟩

/-- One line of a page that is copied. -/
def sendCopyLine (ldTag key page dpa : Nat) (l : PageLine) (s : State) : State :=
  let (mid, s1) := openMirror 0 0 ldTag dpa (some page) s
  match l with
  | .data x => queueTil (.mirrorWr (copyHdr ldTag mid key dpa false) x) s1
  | .blank => queueTil (.mirrorWr (copyHdr ldTag mid key dpa false) 0) s1
  | .failed => queueTil (.mirrorWr (copyHdr ldTag mid key dpa true) 0) s1

/-- One page sent as R305 sends it: RESYNC_ZERO, or 64 mirror writes with RESYNC. DESIGN CHOICE: the poisoned lines of a packed page
whose descriptor cannot be read carry the default key of its region (log entry 157). -/
def sendPage (ldTag dpa : Nat) (s : State) : State :=
  match mappedPage ldTag dpa s with
  | (none, s1) => queueTil (.resyncZero ldTag dpa) s1
  | (some (r, leaf), s1) =>
    let b := backingOf dpa leaf
    let fwd := if eTier leaf = 1 then (peekDesc s1 b).bind fun d => if descForm d = 1 then some (forwardPage d) else none
      else none
    let m : Move := ⟨0, ldTag, dpa, eTier leaf = 1 && fwd.isNone, fwd.getD b, false, 0, .copy, 0, none, false⟩
    let (ls, key, s2) := readSource m r.awn 0 s1
    match if ls.all isFailed then some (key.getD (defaultKey s2 ldTag r)) else key with
    | none => queueTil (.resyncZero ldTag dpa) s2
    | some k =>
      if m.srcPacked && ls.all isBlank then queueTil (.resyncZero ldTag dpa) s2
      else (List.range 64).foldl (fun t i => sendCopyLine ldTag k dpa (dpa + 64 * i) (ls.getD i .blank) t) s2

/-- A SET for every valid snoop-filter entry waits to be sent (R305, R313). -/
def syncAll (s : State) : State :=
  eachSpk (fun k t => t.spks[k].sf.foldl (fun u e =>
    queueSync ⟨false, entryLd u e.2, e.2.dpaSector, entryHeads e.2, e.2.aliasF⟩ u) t) s

/-- The job at the front has sent its last page: RESYNC_DONE, and a full copy sends the filter before it (R305). -/
def endCopy (j : CopyJob) (s : State) : State :=
  let s1 := { s with pair := { s.pair with copies := s.pair.copies.drop 1 } }
  if j.full then queueTil (.resyncDone 0 0 0 true false) (syncAll s1)
  else queueTil (.resyncDone j.ldTag j.size j.base false false) s1

def doResyncCopyPage (s : State) : State :=
  if !tilUp s || halted s || entering s then s
  else match s.pair.copies with
    | [] => s
    | j :: rest =>
      match nextCopy s j with
      | none => endCopy j s
      | some (ld, dpa) =>
        if !pageAtRest ld dpa s then s
        else
          let j1 := { j with ldTag := ld, page := dpa + 4096 }
          let s1 := sendPage ld dpa { s with pair := { s.pair with
            copies := j1 :: rest, copyPages := s.pair.copyPages + 1 } }
          if (nextCopy s1 j1).isNone then endCopy j1 s1 else s1

/-- The next page of a copy is sent (R305). -/
def execResyncCopyPage (s : State) : Host.Outcome State Fault Refusal := .next (doResyncCopyPage s)

def doResyncListResend (s : State) : State :=
  if !pairMode s || halted s then s
  else (s.pair.resync.filter fun e => pageAtRest e.1 e.2.1 s).foldl (fun t e =>
    let t1 := { t with pair := { t.pair with
      resync := t.pair.resync.map fun x => if x.1 = e.1 && x.2.1 = e.2.1 then (x.1, x.2.1, false) else x } }
    let n := t1.til.mirrors.length
    let t2 := sendPage e.1 e.2.1 t1
    if t2.til.mirrors.length = n then pageAcked e.1 e.2.1 false t2 else t2) s

/-- Germ sends each listed page again (R308); a page sent as RESYNC_ZERO has no line to acknowledge and leaves the list. -/
def execResyncListResend (s : State) : Host.Outcome State Fault Refusal := .next (doResyncListResend s)

def doResyncReq (ldTag size dpa : Nat) (par : Parity) (s : State) : State :=
  tilMessage (.resyncReq ldTag size dpa) dpa false par (fun _ t =>
    if t.pair.role = .joining || t.pair.role = .detached then queueTil (.resyncDone ldTag size dpa false true) t
    else
      let j : CopyJob := ⟨ldTag, dpa, dpa + 2 ^ size, dpa, size, false⟩
      { t with pair := { t.pair with copies := t.pair.copies ++ [j] } }) s

/-- RESYNC_REQ: the range is sent as R305 does, then RESYNC_DONE (R310). -/
def execResyncReq (ldTag size dpa : Nat) (par : Parity) (s : State) : Host.Outcome State Fault Refusal :=
  .next (doResyncReq ldTag size dpa par s)

/-- The page is blanked by the steps of R196 from wherever it has come; the message is taken as it is done. Nothing goes on
where no DRAM write is issued, nor while Germ restarts (R24, R112, R301). -/
def doResyncZero (ldTag dpa : Nat) (par : Parity) (s : State) : State :=
  if halted s || !s.fw.germUp || (arrivedAt s (.resyncZero ldTag dpa)).isNone then s
  else match blankPageStep .resync ldTag dpa s with
    | (.waits, s1) => s1
    | (.done, s1) => tilMessage (.resyncZero ldTag dpa) dpa false par (fun _ t =>
        { t with pair := { t.pair with copyPages := t.pair.copyPages + 1 } }) s1

/-- RESYNC_ZERO blanks a page as R196 does (R307). -/
def execResyncZero (ldTag dpa : Nat) (par : Parity) (s : State) : Host.Outcome State Fault Refusal :=
  .next (allSettle (doResyncZero ldTag dpa par s))

def doResyncDone (ldTag size dpa : Nat) (all failed : Bool) (s : State) : State :=
  tilMessage (.resyncDone ldTag size dpa all failed) dpa false .good (fun _ t =>
    if all && !failed then judgeSync { t with pair := { t.pair with copyNeeded := false, copyDone := true } } else t) s

/-- RESYNC_DONE ends a range or the full copy (R314). -/
def execResyncDone (ldTag size dpa : Nat) (all failed : Bool) (s : State) : Host.Outcome State Fault Refusal :=
  .next (doResyncDone ldTag size dpa all failed s)

/-! ## The shadow (R311 to R313, R319) -/

/-- The home and the sector of this member's own MPA for a sector of an LD; an unbacked page is backed first (R177). -/
def ownSector (ldTag dpaSector : Nat) (s : State) : Option (Fin 8 × Nat) × State :=
  let dpa := 256 * dpaSector
  let at_ (leaf : Word) : Fin 8 × Nat :=
    if eTier leaf = 1 then
      (spkOf (eAddr leaf), packedSector (eAddr leaf) (bitsAt dpa 6 6))
    else
      let m := eAddr leaf + dpa % 2 ^ eSize leaf
      (spkOf m, plainSector m)
  match lookLeaf ldTag dpa s with
  | (.inl leaf, s1) => (some (at_ leaf), s1)
  | (.inr _, s1) =>
    let (_, s2) := backPage ldTag (pageBase dpa) s1
    match lookLeaf ldTag dpa s2 with
    | (.inl leaf, s3) => (some (at_ leaf), s3)
    | (.inr _, s3) => (none, s3)

/-- Every trace of a sector leaves the shadow and the reject buffers. -/
def shadowFree (region dpaSector : Nat) (s : State) : State :=
  eachSpk (fun k t => updSpk k (fun q => { q with
    shadow := q.shadow.filter fun e => !(e.region = region && e.dpaSector = dpaSector)
    rejects := q.rejects.filter fun u =>
      !(u.sector = dpaSector && ((regionAt s u.ldTag (256 * u.sector)).map (·.number)).getD 256 = region) }) t) s

/-- One update is stored, or kept in a reject buffer with SF_REJECT sent (R312). -/
def storeUpdate (u : SfUpdate) (s : State) : State :=
  match regionAt s u.ldTag (256 * u.sector) with
  | none => s
  | some r =>
    let s1 := shadowFree r.number u.sector s
    if u.free then s1
    else match ownSector u.ldTag u.sector s1 with
      | (none, s2) => s2
      | (some (k, sec), s2) =>
        if (s2.spks[k].shadow.filter fun e => sfSet e.sector = sfSet sec).length < 16 then
          updSpk k (fun q => { q with shadow := q.shadow ++ [⟨u.ldTag, r.number, u.sector, sec, u.vector, u.aliasF⟩] }) s2
        else
          let s3 := updSpk k (fun q => { q with rejects := if q.rejects.length < 256 then q.rejects ++ [u] else q.rejects }) s2
          queueTil (.sfReject u) { s3 with pair := { s3.pair with countReject := satAdd 48 s3.pair.countReject 1 } }

def doSfSync (us : List SfUpdate) (s : State) : State :=
  if !receivesMirror s || halted s then s
  else tilMessage (.sfSync us) ((us.head?.map fun u => 256 * u.sector).getD 0) false .good
    (fun _ t => judgeSync (us.foldl (fun x u => storeUpdate u x) t)) s

/-- SF_SYNC updates are stored as shadow entries (R312). -/
def execSfSync (us : List SfUpdate) (s : State) : Host.Outcome State Fault Refusal := .next (doSfSync us s)

/-- The entry of a sector of an LD, with its home and place. -/
def entryOfSector (s : State) (ldTag dpaSector : Nat) : Option (Fin 8 × Nat × SfEntry) :=
  match regionAt s ldTag (256 * dpaSector) with
  | none => none
  | some r => (List.finRange 8).findSome? fun k =>
      (s.spks[k].sf.find? fun e => e.2.region = r.number && e.2.dpaSector = dpaSector).map fun e => (k, e.1, e.2)

/-- SF_REJECT: the PRIMARY evicts the sector under R102; an entry that is BUSY, or a full set of buffers, keeps the message
waiting. -/
def doSfReject (u : SfUpdate) (s : State) : State :=
  if !pairMode s then s
  else match entryOfSector s u.ldTag u.sector with
    | some (k, pl, e) =>
      if e.busy || 32 ≤ s.spks[k].evict.length then s
      else tilMessage (.sfReject u) (256 * u.sector) false .good (fun _ t =>
        settle k (evictEntry k pl e { t with pair := { t.pair with countReject := satAdd 48 t.pair.countReject 1 } })) s
    | none => tilMessage (.sfReject u) (256 * u.sector) false .good (fun _ t =>
        queueSync { u with free := true } { t with pair := { t.pair with
          countReject := satAdd 48 t.pair.countReject 1 } }) s

/-- SF_REJECT arrives at the PRIMARY (R312). -/
def execSfReject (u : SfUpdate) (s : State) : Host.Outcome State Fault Refusal := .next (allSettle (doSfReject u s))

/-- The oldest update has waited longer than SYNC_LAG, or more than 4,096 wait (R313). -/
def doSyncLagExpiry (s : State) : State :=
  match s.pair.backlog with
  | [] => s
  | (t, _) :: _ =>
    if !pairMode s then s
    else
      let s1 := if 4096 < s.pair.backlog.length then s else timeTo (t + syncLagNs s) s
      syncAll { s1 with pair := { s1.pair with backlog := [], lagging := true, peerSynced := false } }

/-- SYNC_LAG passes: SYNCED is cleared, the waiting updates are dropped and every valid entry is sent (R313). -/
def execSyncLagExpiry (s : State) : Host.Outcome State Fault Refusal := .next (doSyncLagExpiry s)

/-! ## Heartbeat (R315) and time (R294) -/

/-- The queue of updates has drained: R313 is no longer in force. -/
def judgeLag (s : State) : State :=
  if s.pair.lagging && s.pair.backlog.isEmpty && s.til.queue.all (fun m => !isSync m) then
    { s with pair := { s.pair with lagging := false } }
  else s

/-- ROLE code (Table 12.1). -/
def roleCode : Role → Nat
  | .none => 0
  | .detached => 1
  | .joining => 2
  | .secondary => 3
  | .primary => 4
  | .fenced => 5

/-- SYNCED of a HEARTBEAT: the flag of a SECONDARY; of a PRIMARY, what it knows of R314's conditions (log entry 20). -/
def hbSynced (s : State) : Bool :=
  if s.pair.role = .primary then s.pair.resync.isEmpty && !s.pair.lagging && s.pair.copies.all (fun j => !j.full)
  else s.pair.synced

/-- Mirrored writes whose completion has yet to leave their port. -/
def stillOpen (s : State) (rid : Nat) : Bool :=
  s.ports.toList.any fun p => p.reqs.any fun r => r.req.rid = rid

/-- OLDEST_OPEN (R315). -/
def oldestOpen (s : State) : Nat :=
  if s.pair.role = .primary then s.pair.openWrites.foldl (fun a w => min a w.2) s.dtime else s.dtime

def doHeartbeatSend (s : State) : State :=
  if !tilUp s then s
  else
    let s1 := judgeLag { s with pair := { s.pair with openWrites := s.pair.openWrites.filter fun w => stillOpen s w.1 } }
    let s2 := if fires s1 blkPair 9 then
        disarm blkPair 9 { s1 with pair := { s1.pair with hbWithheld := true } } else s1
    if s2.pair.hbWithheld then s2
    else queueTil (.heartbeat (roleCode s2.pair.role) (hbSynced s2) (pairEpoch s2) (oldestOpen s2)) s2

/-- Every 1 µs the pair block sends HEARTBEAT (R315). -/
def execHeartbeatSend (s : State) : Host.Outcome State Fault Refusal := .next (doHeartbeatSend s)

def setEpoch (e : Nat) (s : State) : State := regSetField offPairState 56 8 e s

def doHeartbeat (role : Nat) (synced : Bool) (epoch oldest : Nat) (s : State) : State :=
  tilMessage (.heartbeat role synced epoch oldest) 0 false .good (fun _ t =>
    let t1 := { t with pair := { t.pair with lastHb := t.dtime, peerSynced := synced, peerOldest := oldest } }
    if receivesMirror t1 && role = 4 then
      judgeSync (setEpoch epoch { t1 with pair := { t1.pair with
        dedup := t1.pair.dedup.filter fun d => !(d.time + 20 < oldest) } })
    else t1) s

/-- A HEARTBEAT arrives: the miss timer restarts, expired dedup entries go (R315, R321). -/
def execHeartbeat (role : Nat) (synced : Bool) (epoch oldest : Nat) (s : State) : Host.Outcome State Fault Refusal :=
  .next (doHeartbeat role synced epoch oldest s)

def doHbMiss (s : State) : State :=
  if tilUp s then tilDown 6 (raise blkPair 9 Cap.none (timeTo (s.pair.lastHb + hbMissNs s) s)) else s

/-- No HEARTBEAT has come for HB_MISS (R315). -/
def execHbMiss (s : State) : Host.Outcome State Fault Refusal := .next (doHbMiss s)

def doTimeReqSend (s : State) : State := if tilUp s && s.pair.role = .secondary then queueTil (.timeReq s.dtime) s else s

/-- The SECONDARY sends TIME_REQ; T1 is stamped as the flit leaves (R294). -/
def execTimeReqSend (s : State) : Host.Outcome State Fault Refusal := .next (doTimeReqSend s)

def doTimeReq (t1 : Nat) (s : State) : State :=
  let t2 := (arrivedAt s (.timeReq t1)).getD s.dtime
  tilMessage (.timeReq t1) 0 false .good (fun _ t =>
    if t.pair.role = .primary then queueTil (.timeRsp t2 t.dtime) t else t) s

/-- TIME_REQ arrives at the PRIMARY, whose flit passed its CRC at T2 (R294). -/
def execTimeReq (t1 : Nat) (s : State) : Host.Outcome State Fault Refusal := .next (doTimeReq t1 s)

/-- θ of one sample in whole ns; the rounding of an odd sum is a free choice (log entry 21). -/
def thetaOf (t1 t2 t3 t4 : Nat) (s : State) : Int × State :=
  let d : Int := ((t2 : Int) - t1) - ((t4 : Int) - t3)
  if d % 2 = 0 then (d / 2, s)
  else
    let (c, s1) := drawChoice 2 s
    (d / 2 + (c : Int), s1)

def doTimeRsp (t2 t3 : Nat) (s : State) : State :=
  let t4 := (arrivedAt s (.timeRsp t2 t3)).getD s.dtime
  tilMessage (.timeRsp t2 t3) 0 false .good (fun _ t =>
    if t.pair.role ≠ .secondary || t.til.replaySeen then t
    else
      let (th, u) := thetaOf t.til.t1 t2 t3 t4 t
      let u1 := { u with til := { u.til with theta := th, slew := 0, slewWait := 0, holdNs := 0 } }
      if 1000 < th then { u1 with dtime := u1.dtime + th.toNat }
      else if th < -1000 then { u1 with til := { u1.til with holdNs := th.natAbs } }
      else { u1 with til := { u1.til with slew := th } }) s

/-- TIME_RSP arrives at the SECONDARY at T4, as its flit passed its CRC, and the SECONDARY corrects or slews its DTIME (R294). -/
def execTimeRsp (t2 t3 : Nat) (s : State) : Host.Outcome State Fault Refusal := .next (doTimeRsp t2 t3 s)

/-! ## Forming a pair (R302 to R304) -/

def bumpGen (s : State) : State := regSet offPairGen (regGet s offPairGen + 1) s

/-- Ports held for want of a role may serve now, and take up what waits in their ingress. -/
def enablePorts (s : State) : State := eachPort (fun p t => pumpFreed p (queuedEnable p t)) s

/-- Two requests are compatible (R302). -/
def compatible (a b : FormReq) : Bool :=
  a.compat = b.compat || (a.predecessor ≠ 0 && a.predecessor = b.compat) || (b.predecessor ≠ 0 && b.predecessor = a.compat)

/-- The owner by R303: `some true` the first member, `some false` the second; none where both serve. Where neither or both
are PREFERRED no rule decides, and `free` does (log entry 22). -/
def formOwner (a b : FormReq) (free : Bool) : Option Bool :=
  if a.serving && b.serving then none
  else if a.serving then some true
  else if b.serving then some false
  else if b.gen < a.gen then some true
  else if a.gen < b.gen then some false
  else if a.wasPrimary ≠ b.wasPrimary then some a.wasPrimary
  else if a.preferred ≠ b.preferred then some a.preferred
  else some free

/-- COPY (R303). -/
def formCopy (a b : FormReq) : Bool :=
  a.serving || b.serving || !((a.fresh && b.fresh) || (a.warmClean && b.warmClean))

/-- A refused formation: FORM_REFUSED and HOLD_DOWN (R302). -/
def formRefused (s : State) : State := raise blkPair 1 Cap.none (regSetField offTilCtl 1 1 1 s)

/-- The outcome that both Germs reach from the two requests. The member that becomes PRIMARY releases the fence; its FORM_RSP
follows. A FENCED member never becomes PRIMARY by it: Table 12.2 has no such transition. -/
def decideForm (r : FormReq) (s : State) : State :=
  let mine := ownForm s
  let (c, s1) := drawChoice 2 s
  if !compatible mine r then queueTil (.formRsp 1 false false) (formRefused s)
  else match formOwner mine r (c = 1) with
    | none => queueTil (.formRsp 2 false false) (formRefused s)
    | some own =>
      let s2 := if mine.serving = r.serving && mine.gen = r.gen && mine.wasPrimary = r.wasPrimary &&
          mine.preferred = r.preferred then s1 else s
      let copy := formCopy mine r
      if own && s2.pair.role ≠ .fenced then
        let s3 := if s2.pair.role = .primary then s2
          else (if copy then bumpGen else id) (setRole .primary s2)
        enablePorts { s3 with pair := { s3.pair with fenceOut := false, formOutcome := some copy, formAt := s3.dtime } }
      else s2

def doFormReq (r : FormReq) (s : State) : State :=
  tilMessage (.formReq r) 0 false .good (fun _ t =>
    if t.pair.formSent && t.pair.peerReq.isNone &&
        (t.pair.role = .detached || t.pair.role = .fenced || t.pair.role = .primary) then
      decideForm r { t with pair := { t.pair with peerReq := some r } }
    else t) s

/-- FORM_REQ arrives (R302, R303). -/
def execFormReq (r : FormReq) (s : State) : Host.Outcome State Fault Refusal := .next (doFormReq r s)

def doFormRspSend (s : State) : State :=
  match s.pair.formOutcome with
  | some copy =>
    if !tilUp s || s.pair.role ≠ .primary then s
    else
      let s1 := timeTo (s.pair.formAt + 1000) s
      queueTil (.formRsp 0 copy true) { s1 with pair := { s1.pair with
        formOutcome := none, partnered := true, peerSynced := !copy, resync := [], backlog := [], lagging := false,
        copies := if copy then [fullCopy] else [], copyPages := 0 } }
  | none => s

/-- One µs after the fence is released, the PRIMARY sends FORM_RSP with ACCEPT (R302); mirroring starts. -/
def execFormRspSend (s : State) : Host.Outcome State Fault Refusal := .next (doFormRspSend s)

/-- The shadow, the reject buffers and the dedup table start empty. -/
def clearShadow (s : State) : State :=
  eachSpk (fun k t => updSpk k (fun q => { q with shadow := [], rejects := [] }) t)
    { s with pair := { s.pair with dedup := [] } }

def doFormRsp (result : Nat) (copy senderPrimary : Bool) (s : State) : State :=
  tilMessage (.formRsp result copy senderPrimary) 0 false .good (fun _ t =>
    if t.pair.role ≠ .detached && t.pair.role ≠ .fenced then t
    else match t.pair.peerReq with
      | none => t
      | some r =>
        if result = 0 && senderPrimary then
          judgeSync (setEpoch r.epoch (clearShadow { t with pair := { t.pair with
            role := .joining, copyNeeded := copy, copyDone := false, copyPages := 0, peerSynced := true,
            fenceIn := false } }))
        else t) s

/-- FORM_RSP arrives at the other member (R302). -/
def execFormRsp (result : Nat) (copy senderPrimary : Bool) (s : State) : Host.Outcome State Fault Refusal :=
  .next (doFormRsp result copy senderPrimary s)

def doFormWaitExpiry (s : State) : State :=
  if s.pair.role ≠ .detached || s.pair.formSent || s.pair.peerOwn || s.domainDown || !s.bring.released || !coreOn s then s
  else
    let s1 := timeTo (s.pair.startAt + formWaitNs s * (if isPreferred s then 1 else 2)) s
    enablePorts (bumpGen { s1 with pair := { s1.pair with role := .primary, fenceOut := true } })

/-- FORM_WAIT, or twice it, passes without formation: the member becomes PRIMARY alone (R304). -/
def execFormWaitExpiry (s : State) : Host.Outcome State Fault Refusal := .next (doFormWaitExpiry s)

/-! ## Resolving what a lost partner leaves open (R318) -/

/-- Every open mirror write is resolved as DURABLE and every open fetch as UNMAPPED. -/
def resolveOpen (s0 : State) : State :=
  let s := if s0.til.mirrors.isEmpty then s0 else { s0 with pwr := { s0.pwr with resolvedOpen := true } }
  let s1 := s.til.mirrors.foldl (fun t o => closeMirror o 0 t) s
  s1.til.fetches.foldl (fun t f => closeFetch f none t) s1

def doPrimaryResolveOpen (s : State) : State :=
  if s.pair.role ≠ .primary || !s.pair.resolveDue then s
  else
    let s1 := timeTo (s.pair.downAt + 1000) s
    raise blkPair 6 Cap.none (bumpGen (resolveOpen { s1 with pair := { s1.pair with resolveDue := false, resync := [] } }))

/-- 1 µs after the link went down a PRIMARY resolves what is open (R318 steps 2 to 4). -/
def execPrimaryResolveOpen (s : State) : Host.Outcome State Fault Refusal := .next (allSettle (doPrimaryResolveOpen s))

/-- The PRIMARY's partner has left: R318 as for a link that went down. -/
def partnerLeft (s : State) : State :=
  { s with pair := { s.pair with
    partnered := false, fenceOut := true, resolveDue := true, downAt := s.dtime, copies := [], backlog := [],
    lagging := false } }

def doLeaveMsg (s : State) : State :=
  tilMessage .leave 0 false .good (fun _ t => if t.pair.role = .primary then partnerLeft t else t) s

/-- LEAVE arrives at the PRIMARY (R326 step 4). -/
def execLeaveMsg (s : State) : Host.Outcome State Fault Refusal := .next (doLeaveMsg s)

/-- A member enters DETACHED: what it had open with its partner is resolved (log entry 23). -/
def enterDetached (s : State) : State :=
  resolveOpen { s with pair := { s.pair with
    role := .detached, synced := false, partnered := false, copies := [], promotion := .idle } }

def doPromoteGraceExpiry (s : State) : State :=
  if !receivesMirror s || tilUp s || s.pair.promotion ≠ .idle then s
  else enterDetached (timeTo (s.pair.downAt + graceNs s) s)

/-- PROMOTE_GRACE passes after a link DOWN (Table 12.2). -/
def execPromoteGraceExpiry (s : State) : Host.Outcome State Fault Refusal := .next (allSettle (doPromoteGraceExpiry s))

/-! ## Fencing and ownership (R298 to R301) -/

/-- Ports that serve are held out of ENABLED, with ENABLE queued (R301). -/
def holdPorts (s : State) : State :=
  eachPort (fun p t => if t.ports[p].state = .enabled then
    updPort p (fun q => { q with state := .drained, enableQueued := true }) t else t) s

def doPairFenceLow (s : State) : State :=
  if s.pair.role = .none || s.pair.fenceOut then s
  else
    let s1 := holdPorts { s with pair := { s.pair with fenceIn := true, own := false } }
    if s1.pair.role = .detached || receivesMirror s1 then
      raise blkPair 7 Cap.none { s1 with pair := { s1.pair with role := .fenced, synced := false, promotion := .idle } }
    else s1

/-- PAIR_FENCE_N is seen low while not driven here (R301, Table 12.2). -/
def execPairFenceLow (s : State) : Host.Outcome State Fault Refusal := .next (doPairFenceLow s)

/-- What arrived at a port while the member was fenced: it goes on at a port that serves, and completes at any other as what
arrives there does (Table 2.6). -/
def afterFence (p : Fin 4) (s : State) : State :=
  let serves := s.ports[p].state = .enabled || s.ports[p].state = .draining
  if serves then pumpFreed p s
  else
    let waiting := s.ports[p].reqs.filter fun r => r.stage = .ingress && (reqLink r.req).isSome
    waiting.foldl (fun t r => refuseHost r.req (dropReq p r.req.rid t)) s

def doPairFenceReleased (s : State) : State :=
  let s1 := { s with pair := { s.pair with fenceIn := false } }
  eachPort afterFence (if s.pair.role = .fenced then setRole .detached s1 else enablePorts s1)

/-- PAIR_FENCE_N is released (Table 12.2). -/
def execPairFenceReleased (s : State) : Host.Outcome State Fault Refusal := .next (doPairFenceReleased s)

/-- Nothing keeps PAIR_OWN_N released but the role: both grain dies answer, VDD_AUX is good, the coherent domain is up and no
partner fences this member (R299, R301). -/
def ownable (s : State) : Bool := coreOn s && !s.pair.watchdog && !s.domainDown && s.pins.vddAux && !s.pair.fenceIn

/-- PAIR_OWN_N may be driven low (R299, R301). -/
def mayOwn (s : State) : Bool := s.pair.role = .primary && ownable s

def doOwnAssert (s : State) : State :=
  if !mayOwn s || s.pair.own || s.pair.peerOwn then s
  else
    let s1 := timeTo (s.pair.peerOwnSince + 1000) s
    { s1 with pair := { s1.pair with own := true, ownSampleAt := s1.dtime } }

/-- PAIR_PEER_OWN_N has been high for 1 µs: the owner asserts PAIR_OWN_N (R298). -/
def execOwnAssert (s : State) : Host.Outcome State Fault Refusal := .next (doOwnAssert s)

def doOwnConflict (s : State) : State :=
  if !s.pair.own || s.pair.ownSampleAt + 1000 < s.dtime then s
  else
    let s1 := { s with pair := { s.pair with peerOwn := true } }
    if isPreferred s then s1 else raise blkPair 10 Cap.none { s1 with pair := { s1.pair with own := false } }

/-- Within 1 µs of asserting, the partner is seen asserting too (R298). -/
def execOwnConflict (s : State) : Host.Outcome State Fault Refusal := .next (doOwnConflict s)

def doWatchdogExpiry (s : State) : State := { s with pair := { s.pair with own := false, watchdog := true } }

/-- A grain die has stopped answering the inter-die watchdog: PAIR_OWN_N is released, and not driven again before a reset of the
device (R299). -/
def execWatchdogExpiry (s : State) : Host.Outcome State Fault Refusal := .next (doWatchdogExpiry s)

def doPairPeerOwnNChange (high : Bool) (s : State) : State :=
  { s with pair := { s.pair with
    peerOwn := !high, peerOwnSince := if high && s.pair.peerOwn then s.dtime else s.pair.peerOwnSince } }

/-- PAIR_PEER_OWN_N changes level (Table 12.10). -/
def execPairPeerOwnNChange (high : Bool) (s : State) : Host.Outcome State Fault Refusal := .next (doPairPeerOwnNChange high s)

/-! ## Promotion (R317, R319) -/

/-- Step 2 of R317: the link goes down if it is not down already. -/
def beginPromotion (s : State) : State :=
  let s1 := tilDown 6 s
  { s1 with pair := { s1.pair with promotion := .draining } }

def doPromoteStart (s : State) : State :=
  let grace := !tilUp s && s.pair.syncedAtDown && s.dtime ≤ s.pair.downAt + graceNs s
  if !receivesMirror s || s.pair.peerOwn || s.pair.promotion ≠ .idle || !(s.pair.synced || grace) || s.domainDown ||
    s.pair.fenceIn || entering s then s
  else beginPromotion (timeTo (s.pair.peerOwnSince + 1000) s)

/-- PAIR_PEER_OWN_N has been high for 1 µs at a SYNCED member: promotion starts (R317 steps 1, 2). -/
def execPromoteStart (s : State) : Host.Outcome State Fault Refusal := .next (doPromoteStart s)

/-- Mirror messages already delivered that are not sealed yet. -/
def mirrorsPending (s : State) : Bool :=
  s.til.delivered.any (fun m => msgClass m.1 = 0) ||
    s.ports.toList.any fun p => p.reqs.any fun r => match r.req.src with
      | .mirror _ => true
      | _ => false

/-- A shadow entry as an imprecise snoop-filter entry: every line counts as held O by every head in VECTOR (R319). -/
def adoptEntry (e : ShadowEntry) (now : Nat) (sec : Nat) : SfEntry :=
  { freshEntry sec e.region e.dpaSector e.aliasF now with
    st := Vector.replicate 4 .o, vector := e.vector, imprecise := true, shadowO := 0xF }

/-- The shadow is adopted: entries enter the filter at this member's sectors, rejected updates are back-invalidated at
once (R319). -/
def adoptShadow (s : State) : State :=
  eachSpk (fun k t =>
    let es := t.spks[k].shadow
    let rs := t.spks[k].rejects
    let t1 := updSpk k (fun q => { q with shadow := [], rejects := [] }) t
    let t2 := es.foldl (fun u e =>
      if e.vector = 0 then u
      else match ownSector e.ldTag e.dpaSector u with
        | (none, u1) => u1
        | (some (k1, sec), u1) =>
          match chooseWay u1 k1 sec with
          | .free pl => sfPut k1 pl (adoptEntry e u1.dtime sec) u1
          | .victim pl v => sfPut k1 pl (adoptEntry e u1.dtime sec) (evictEntry k1 pl v u1)
          | .wait => u1) t1
    rs.foldl (fun u r =>
      match regionAt u r.ldTag (256 * r.sector), ownSector r.ldTag r.sector u with
      | some rg, (some (k1, sec), u1) =>
        let e := adoptEntry ⟨r.ldTag, rg.number, r.sector, sec, r.vector, r.aliasF⟩ u1.dtime sec
        let (id, u2) := takeSeq u1
        let ns := (List.finRange 4).flatMap fun j => (headsOf r.vector).map fun h => (⟨j.val, h, .inv⟩ : BiNeed)
        sendBis k1 (.evict id) e ns (updSpk k1 (fun q => { q with evict := q.evict ++ [⟨id, e⟩] }) u2)
      | _, (_, u1) => u1) t2) s

def doPromoteSealed (s : State) : State :=
  if s.pair.promotion ≠ .draining || !receivesMirror s || mirrorsPending s || s.pair.peerOwn || !ownable s then s
  else
    let s1 := timeTo (s.pair.peerOwnSince + 1000) s
    let old := pairEpoch s1
    let s2 := setOrdered true (bumpGen (setEpoch ((old + 1) % 256) { s1 with pair := { s1.pair with oldEpoch := old } }))
    let s3 := resolveOpen (adoptShadow { s2 with pair := { s2.pair with
      role := .primary, synced := false, own := true, ownSampleAt := s2.dtime, fenceOut := true, promotion := .reissue,
      syncedAtDown := false, resolveDue := false, reissueOpen := true, reissueEnd := s2.dtime + reissueNs s2,
      countPromote := satAdd 48 s2.pair.countPromote 1 } })
    let s4 := eachPort (fun p t => if t.ports[p].state = .drained || t.ports[p].state = .training
      then updPort p (fun q => { q with enableQueued := true }) t else t) s3
    raise blkPair 5 Cap.none (enablePorts s4)

/-- Every delivered mirror message is sealed: the member becomes the owner (R317 steps 3 to 6). -/
def execPromoteSealed (s : State) : Host.Outcome State Fault Refusal := .next (allSettle (doPromoteSealed s))

/-- A dedup entry of SRC = 1 as an entry of its LD's recovery list (R322, R435). -/
def recoveryOf (d : Dedup) : Recovery := ⟨d.tag / 1024 % 64, d.tag % 1024, d.result, d.casOk⟩

def doReissueWindowEnd (s : State) : State :=
  if !s.pair.reissueOpen then s
  else
    let s1 := timeTo s.pair.reissueEnd s
    let all := s1.queue.recovery ++ (s1.pair.dedup.filter (·.src)).map recoveryOf
    let s2 := if 16384 < all.length then raise blkQueue 5 Cap.none s1 else s1
    endReissue { s2 with
      queue := { s2.queue with recovery := all.take 16384 }
      pair := { s2.pair with reissueOpen := false, dedup := [] } }

/-- REISSUE_WINDOW ends: entries of command queues go to the recovery list, what overflows it is dropped, and the table is
cleared (R322, R435). -/
def execReissueWindowEnd (s : State) : Host.Outcome State Fault Refusal := .next (doReissueWindowEnd s)

/-! ## Handover and leaving (R326, R328) -/

/-- A PRIMARY whose partner is SYNCED. -/
def mayHandover (s : State) : Bool := pairMode s && s.pair.peerSynced

def beginHandover (s : State) : State := { s with pair := { s.pair with handover := true } }

/-- LEAVE is accepted in JOINING and SECONDARY, and in PRIMARY with no partner present (R326 step 2). -/
def mayLeave (s : State) : Bool := receivesMirror s || (s.pair.role = .primary && !s.pair.partnered)

/-- The member sends LEAVE and enters DETACHED (R326 step 3). A fence that it drives stays until it forms a pair (R300). -/
def doLeave (s : State) : State :=
  let s1 := if tilUp s then queueTil .leave s else s
  let s2 := { s1 with pair := { s1.pair with own := false, formSent := false, peerReq := none } }
  enterDetached (holdPorts s2)

/-- A write of PAIR_CTL (Table 12.12). -/
def pairCtl (m : Master) (v : Word) (s : State) : State :=
  guardWrite m (offPairGen + 8) (fun t =>
    let t1 := if flag v 1 && mayHandover t then beginHandover t else t
    if flag v 0 && mayLeave t1 then doLeave t1 else t1) s

def execPairCtlHandover (m : Master) (v : Word) (s : State) : Host.Outcome State Fault Refusal := .next (allSettle (pairCtl m v s))
def execPairCtlLeave (m : Master) (v : Word) (s : State) : Host.Outcome State Fault Refusal := .next (allSettle (pairCtl m v s))

/-- Requests that a port has admitted and not completed. -/
def admittedOpen (s : State) : Bool :=
  s.ports.toList.any fun p => p.reqs.any fun r => r.stage ≠ .hold && r.stage ≠ .ingress

/-- Nothing keeps HANDOVER back (R328 steps 2, 3). -/
def handoverReady (s : State) : Bool :=
  s.pair.handover && pairMode s && !admittedOpen s && s.til.mirrors.isEmpty && s.pair.backlog.isEmpty &&
    s.til.queue.all (fun m => !isSync m) && s.til.replayBuf.all (fun f => !f.sync)

def doHandoverSend (s : State) : State :=
  if !handoverReady s then s
  else
    let s1 := queueTil (.handover ((pairEpoch s + 1) % 256)) s
    let s2 := eachPort (fun p t => discardLink p none t) s1
    let s3 := eachSpk (fun k t => updSpk k (fun q => { q with sf := [] }) t) (holdPorts s2)
    endAccepted 12 2 0 (fun _ => true) (clearShadow { s3 with pair := { s3.pair with
      own := false, role := .joining, handover := false, partnered := false, copyNeeded := true, peerSynced := true,
      synced := false, copies := [] } })

/-- No mirrored write is open and every SF_SYNC flit is acknowledged: HANDOVER is sent (R328 steps 3 to 5). -/
def execHandoverSend (s : State) : Host.Outcome State Fault Refusal := .next (allSettle (doHandoverSend s))

def doHandoverMsg (epoch : Nat) (s : State) : State :=
  tilMessage (.handover epoch) 0 false .good (fun _ t =>
    if t.pair.role = .secondary && t.pair.synced && !entering t then beginPromotion (setEpoch ((epoch + 255) % 256) t) else t) s

/-- HANDOVER arrives: the SECONDARY promotes at once by steps 2 to 6 of R317 (R328). -/
def execHandoverMsg (epoch : Nat) (s : State) : Host.Outcome State Fault Refusal := .next (doHandoverMsg epoch s)

end Sys2Proof.Machine
end

