-- ==== Sys2Proof/Machine/Startup.lean ====
section
/-! DEFINITION. Starts (chapter 14): power-on, POWER_GOOD, the steps of a cold start and of a warm resume, the release, and
the core voltages of R405. -/

namespace Sys2Proof.Machine

/-! ## What a reset keeps (Table 14.1) -/

def inHusk (off : Nat) : Bool := 0x390000 ≤ off && off < 0x3A0000

/-- Whole-device reset of the grain dies: the husk die, the flash, the fuses and the pins keep their state, DTIME goes on, and
DRAM contents are lost. -/
def coldReset (s : State) : State :=
  { State.reset with
    regs := s.regs.filter fun e => inHusk e.1
    headers := State.reset.headers.set blkHusk s.headers[blkHusk]
    husk := s.husk, fuses := s.fuses, flash := s.flash, pins := s.pins
    thermal := { s.thermal with tripped := false }
    pair := { Pair.init with peerOwn := s.pair.peerOwn, peerOwnSince := s.pair.peerOwnSince, fenceIn := s.pair.fenceIn }
    pwr := { Pwr.init with wakeN := s.pwr.wakeN }
    dtime := s.dtime, seq := s.seq, free := s.free, out := s.out, pending := s.pending }

/-- Home records that survive with Germ and the DRAM: promoted pages that it has yet to repoint (R185). -/
def spkLost (k : Spk) : Spk :=
  { Spk.init with forwards := (k.forwards.filter fun f => f.page.isSome).map fun f => { f with tid := 0, inv := none } }

/-- A channel in self-refresh keeps its snapshot (R220). -/
def mcLost (m : Mc) : Mc :=
  { Mc.init with state := m.state, snapshot := m.snapshot, trfc := m.trfc, spdOk := m.spdOk, pmicAt := m.pmicAt,
                 pmicGood := m.pmicGood,
                 dramReset := m.dramReset, trefi := m.trefi }

/-- The stocks and release rings go back to Germ's lists. -/
def stocksBack (s : State) : State :=
  let gs := s.spks.toList.flatMap fun k => k.stock ++ k.release
  let ps := s.spks.toList.flatMap (·.promo)
  ps.foldl (fun t p => returnPage p t) { s with tier := { s.tier with granFree := s.tier.granFree ++ gs } }

/-- The core rails are gone: the always-on domain with the PWR registers, the DRAM in self-refresh and the husk die keep what
they hold (R407). -/
def railsLost (s0 : State) : State :=
  let s := stocksBack s0
  { coldReset s with
    regs := s.regs.filter fun e => inHusk e.1 || (0x380000 ≤ e.1 && e.1 < 0x390000)
    pwr := { s.pwr with gated := [], avsBusy := false, avsReqs := [], inRow := 0, timeouts := 0, avsFail := false,
                        ackCore := 0, ackSram := 0 }
    img := s.img, imgDigest := s.imgDigest, imgCopyB := s.imgCopyB
    dram := s.dram, filled := s.filled, fillMap := s.fillMap
    thermal := s.thermal
    spks := s.spks.map spkLost, mcs := s.mcs.map mcLost
    crypt := { Crypt.init with salt := s.crypt.salt, km := s.crypt.km, hm := s.crypt.hm, root := s.crypt.root }
    gate := { Gate.init with tables := s.gate.tables }
    tier := { s.tier with promoted := 0, demoted := 0, forwarded := 0, held := 0, holders := [] }
    pair := { Pair.init with fresh := s.pair.fresh, wasPrimary := s.pair.wasPrimary, peerOwn := s.pair.peerOwn
                             peerOwnSince := s.pair.peerOwnSince, fenceIn := s.pair.fenceIn } }

/-! ## Supply of the always-on domain (R367, R421) -/

/-- VDD_AUX is good: everything but the flash and the fuses starts anew, and the straps are sampled (R481). -/
def doPowerOn (bmcMode : Bool) (bmcAddr : BitVec 2) (s : State) : State :=
  if s.pins.vddAux then s
  else { State.reset with
    fuses := s.fuses, flash := s.flash, pins := { Pins.init with bmcMode := bmcMode, bmcAddr := bmcAddr, perst := s.pins.perst }
    seq := s.seq, free := s.free, out := s.out, pending := s.pending }

/-- VDD_AUX becomes good. -/
def execPowerOn (bmcMode : Bool) (bmcAddr : BitVec 2) (s : State) : Host.Outcome State Fault Refusal :=
  .next (doPowerOn bmcMode bmcAddr s)

def doVddAuxLost (s : State) : State :=
  { State.reset with
    fuses := s.fuses, flash := s.flash, pins := { s.pins with vddAux := false, powerGood := false }
    pwr := { Pwr.init with state := .off }, dtime := s.dtime, seq := s.seq, free := s.free, out := s.out
    pending := s.pending }

/-- VDD_AUX leaves its range: the always-on SRAM is lost (R421). -/
def execVddAuxLost (s : State) : Host.Outcome State Fault Refusal := .next (doVddAuxLost s)

/-! ## AVSBus (R405) -/

/-- The first waiting request goes out on its rail. -/
def avsSend (s : State) : State :=
  match s.pwr.avsReqs with
  | [] => s
  | (sram, mv) :: _ =>
    if s.pwr.avsBusy || s.pwr.avsFail then s
    else
      let r := (s.img.map (·.rails)).getD 0
      emit (.avs sram (if sram then r / 16 else r % 16) mv) { s with pwr := { s.pwr with avsBusy := true } }

def avsAsk (rs : List (Bool × Nat)) (s : State) : State :=
  avsSend { s with pwr := { s.pwr with avsReqs := s.pwr.avsReqs ++ rs } }

/-- The open request ends. -/
def avsEnd (s : State) : State :=
  avsSend { s with pwr := { s.pwr with avsBusy := false, avsReqs := s.pwr.avsReqs.drop 1 } }

def doAvsAck (s : State) : State :=
  match s.pwr.avsBusy, s.pwr.avsReqs with
  | true, (sram, mv) :: _ =>
    let p := if sram then { s.pwr with ackSram := mv, inRow := 0 } else { s.pwr with ackCore := mv, inRow := 0 }
    avsEnd { s with pwr := p }
  | _, _ => s

/-- The regulator acknowledges the open request. -/
def execAvsAck (s : State) : Host.Outcome State Fault Refusal := .next (doAvsAck s)

def doAvsTimeout (s : State) : State :=
  if !s.pwr.avsBusy then s
  else
    let s1 := raise blkPwr 1 Cap.none { s with pwr := { s.pwr with
      timeouts := satAdd 16 s.pwr.timeouts 1, inRow := s.pwr.inRow + 1 } }
    if 3 ≤ s1.pwr.inRow then
      raise blkPwr 2 Cap.none { s1 with pwr := { s1.pwr with avsFail := true, avsBusy := false, avsReqs := [] } }
    else avsEnd s1

/-- The open request has not been acknowledged within 100 µs. -/
def execAvsTimeout (s : State) : Host.Outcome State Fault Refusal := .next (doAvsTimeout s)

/-- A legal request of PWR_AVS: in range, in steps of 5 mV, and within 10 mV of the acknowledged voltage where there is one
(Table 16.11, log entry 28). -/
def avsLegal (ack lo mv : Nat) : Bool :=
  lo ≤ mv && mv ≤ 900 && mv % 5 = 0 && (ack = 0 || (mv ≤ ack + 10 && ack ≤ mv + 10))

/-- What a write of PWR_AVS asks for: each rail whose field is legal and differs from what is acknowledged, else the core rail
again where its field is legal. -/
def avsWanted (s : State) (v : Word) : List (Bool × Nat) :=
  let c := field v 0 16
  let r := field v 16 16
  let okC := avsLegal s.pwr.ackCore 700 c
  let okR := avsLegal s.pwr.ackSram 750 r
  let want := (if okC && c ≠ s.pwr.ackCore then [(false, c)] else []) ++ (if okR && r ≠ s.pwr.ackSram then [(true, r)] else [])
  if want.isEmpty && okC then [(false, c)] else want

def doAvsRequest (m : Master) (v : Word) (s : State) : State :=
  guardWrite m offPwrAvs (fun t =>
    if t.pwr.avsBusy || t.pwr.avsFail then t
    else
      let t1 := if avsLegal t.pwr.ackCore 700 (field v 0 16) then regSetField offPwrAvs 0 16 (field v 0 16) t else t
      let t2 := if avsLegal t.pwr.ackSram 750 (field v 16 16) then regSetField offPwrAvs 16 16 (field v 16 16) t1 else t1
      avsAsk (avsWanted t v) t2) s

/-- A write of PWR_AVS, ignored while a request is open (Table 16.11). -/
def execAvsRequest (m : Master) (v : Word) (s : State) : Host.Outcome State Fault Refusal := .next (doAvsRequest m v s)

/-! ## POWER_GOOD (R368, R369) -/

/-- Host data could be held when POWER_GOOD fell (R368). -/
def dataHeld (s : State) : Bool :=
  s.bring.step ≠ 11 && (s.bring.released || (s.bring.warm && s.bring.leftSelfRefresh) || entering s)

/-- A start keeps its seal while no channel has left SELF_REFRESH (R380). -/
def sealKept (s : State) : Bool :=
  s.pwr.state = .start && !s.bring.released && !s.bring.leftSelfRefresh && s.pwr.sealRec.any (·.valid)

def doPowerGoodFall (s : State) : State :=
  if !s.pins.powerGood then s
  else
    let s1 := { s with pins := { s.pins with powerGood := false } }
    if resting s || sealKept s then railsLost s1
    else if s.pwr.state = .off then s1
    else
      let s2 := coldReset s1
      { s2 with bring := { s2.bring with kind := if dataHeld s then 4 else 1 } }

/-- POWER_GOOD has been low for 10 µs: outside REST and STOOK the seal is lost, but where R380 keeps it. -/
def execPowerGoodFall (s : State) : Host.Outcome State Fault Refusal := .next (doPowerGoodFall s)

/-- Step 1 of a cold start: Germ runs from ROM, and the random bit generator passes its health test or not (Table 14.2). -/
def coldBegin (kind : Nat) (rngOk : Bool) (s : State) : State :=
  let s1 := coldReset s
  let s2 := { s1 with
    bring := { s1.bring with kind := kind, step := 1, startTime := s1.dtime }
    fw := { s1.fw with germUp := true }, clk := { s1.clk with locked := 0xF } }
  syncCrossings (if rngOk then s2 else bringupFail failEntropy s2)

/-! ### The seal record (R407 to R409) -/

/-- The registers of the save list (Table 16.4). -/
def saveList : List Nat :=
  ((List.range 4).flatMap fun p => [offPortCtl p, offDrainCfg p]) ++ [offShfRoot, offShfInvTimeout] ++
  ((List.range 8).flatMap fun k => [offSpkHold k, offBiCfg k]) ++
  ((List.range 16).flatMap fun x => [offRdCfg x, offRecalCfg x, offScrubCfg x, offRasCfg x]) ++
  [offRetireTimeout, offTierWm 0, offTierWm 1, offHotCfg, offQosWindow, offEwmaCfg] ++
  ((List.range 8).flatMap fun c => [offQosAdmit c, offQosShare c, offQosTarget c]) ++
  [offTilState, offTilCtl, offTilCfg, offPairState, offPairGen, offPairCfg, offFeedCfg, offHuskTiming] ++
  ((List.range 4).map offOutLimit) ++ ((List.range 4).flatMap fun o => (List.range 8).map (offCurve o)) ++
  [offPwrCfg, offPwrAvs, offWakeCfg, offWakeTime, offGateDis] ++ ((List.range 192).map offPerfSel)

/-- The saved values, as they stand. -/
def savedRegs (s : State) : KMap Word := saveList.foldl (fun m o => kset (regReset o) m o (regGet s o)) []

/-- The save list put back. -/
def restoreRegs (save : KMap Word) (s : State) : State :=
  saveList.foldl (fun t o => regSet o (kget (regReset o) save o) t) s

def stateCode : SlotState → Nat
  | .empty => 0
  | .loaded => 1
  | .retiring => 2

/-- The 64 bytes of a key-store slot, in the order of Table 16.3 (log entry 29). -/
def slotBytes (s : State) (r : Seal) (i : Nat) : List Byte :=
  let k := kget emptySlot r.slots i
  natToBytes 32 k.key.toNat ++ natToBytes 16 k.h.toNat ++ natToBytes 1 k.cls ++ natToBytes 8 k.mask.toNat ++
    natToBytes 1 (stateCode k.state) ++ natToBytes 6 (bit (keyRec s i).host)

/-- CHECK, over the key store, root set, secrets, save list and seal record, CHECK and VALID taken as zero (R409). -/
def sealCheck (s : State) (r : Seal) : BitVec 32 :=
  BitVec.ofNat 32 (crc32c
    (((List.range 4096).flatMap (slotBytes s r)) ++ (r.root.toList.flatMap lineBytes) ++
      natToBytes 16 r.salt.toNat ++ natToBytes 32 r.km.toNat ++ natToBytes 16 r.hm.toNat ++
      (saveList.flatMap fun o => natToBytes 8 (kget (regReset o) r.save o).toNat) ++
      natToBytes 1 (bit r.stookKind + 2 * bit r.clean + 4 * bit r.copyB) ++ natToBytes 8 r.entry ++
      natToBytesBE 48 r.digest.toNat ++ natToBytes 2 r.vcore ++ natToBytes 2 r.vsram))

/-- The husk die reports that no enabled output left regulation since the entry (R369, R396). -/
def regulated (s : State) : Bool := regField s offHuskSeal 4 4 = 0

/-- Key slots come back with the port copies of the loaded ones; a RETIRE that was open has drained and ends (R25). -/
def restoreSlots (r : Seal) (s : State) : State :=
  r.slots.foldl (fun t e => match e.2.state with
    | .loaded => setCopies e.1 true e.2.cls e.2.mask (setSlot e.1 e.2 t)
    | _ => t) s

/-- STEP 12 of a warm resume: the save list, keys, secrets and root set come back, ordered-class mode is set, and the saved
voltages are requested (R379 step 1). -/
def warmBegin (r : Seal) (s : State) : State :=
  let s1 := restoreRegs r.save (railsLost s)
  let s2 := { s1 with
    bring := { Bringup.init with kind := 3, step := 12, startTime := s1.dtime, warm := true }
    pwr := { s1.pwr with state := .start, step := 0, railsOff := false, wakeLatched := false }
    fw := { s1.fw with germUp := true }, clk := { s1.clk with locked := 0xF }
    crypt := { s1.crypt with salt := r.salt, km := r.km, hm := r.hm, root := r.root } }
  let v := (if r.stookKind then [3] else []) ++ (if regField s2 offDropped 0 32 ≠ 0 then [4] else []) ++
    (if s2.pwr.paired && !r.clean then [5] else [])
  let s3 := raiseBits blkPwr (v.foldl (fun (a : BitVec 32) i => a ||| BitVec.ofNat 32 (1 <<< i)) 0) Cap.none s2
  let s4 := restoreSlots r s3
  avsAsk ((if r.vcore = 0 then [] else [(false, r.vcore)]) ++ (if r.vsram = 0 then [] else [(true, r.vsram)]))
    (setOrdered true (syncCrossings { s4 with pair := { s4.pair with warmClean := r.clean } }))

def doPowerGoodRise (rngOk : Bool) (s : State) : State :=
  if s.pins.powerGood || !s.pins.vddAux then s
  else
    let s1 := { s with pins := { s.pins with powerGood := true } }
    if !(resting s || (s.pwr.state = .start && s.bring.step = 0)) then s1
    else match s.pwr.sealRec with
      | some r =>
        if r.valid then
          if regulated s && sealCheck s r = r.check then warmBegin r s1 else coldBegin 5 rngOk s1
        else coldBegin 4 rngOk s1
      | none => coldBegin s.bring.kind rngOk s1

/-- POWER_GOOD rises: the always-on domain chooses the kind of start (R369). -/
def execPowerGoodRise (rngOk : Bool) (s : State) : Host.Outcome State Fault Refusal := .next (doPowerGoodRise rngOk s)

/-! ## Cold start (Table 14.2) -/

/-- Codes of Table 13.18: 0 loaded, 11 not examined. -/
def copyCode : CopyCheck → Nat
  | .ok _ _ => 0
  | .refused c => c

/-- The results reported for copies A and B: `first` is the copy examined first. -/
def setResults (first : Bool) (r1 r2 : Nat) (s : State) : State :=
  { s with bring := { s.bring with resultA := if first then r2 else r1, resultB := if first then r1 else r2 } }

/-- A copy is loaded: it runs, its fields are in force and the registers with Reset IMG are written (R340, R362). A paired
device takes role DETACHED. -/
def loadImage (b : Bool) (i : SolvikImage) (digest : BitVec 384) (s : State) : State :=
  let s1 := { s with
    img := some i, imgDigest := digest, imgCopyB := b
    bring := { s.bring with running := if b then 2 else 1, infoValid := true }
    pair := { s.pair with role := if i.paired then .detached else .none } }
  newWindow (setFields (imgFields i) s1)

/-- No copy can be loaded: recovery mode (R341, R377). -/
def enterRecovery (s : State) : State :=
  leaveReset 0 { s with bring := { s.bring with step := 10, failCause := 1, recovery := true, mboxReady := true } }

def doColdStartImage (s : State) : State :=
  if s.bring.step ≠ 1 || s.bring.warm then s
  else
    let first := firstCopy s
    let s0 := { s with bring := { s.bring with step := 2 } }
    match checkCopy s first with
    | .ok i d => eachPort leaveReset (loadImage first i d (setResults first 0 11 s0))
    | .refused c =>
      match checkCopy s (!first) with
      | .ok i d => eachPort leaveReset (loadImage (!first) i d (setResults first c 0 s0))
      | .refused c2 => enterRecovery (setResults first c c2 s0)

/-- Step 2: the copies are examined and one is loaded, or recovery mode begins (R340, R341). -/
def execColdStartImage (s : State) : Host.Outcome State Fault Refusal := .next (doColdStartImage s)

/-- The clock domains that run from a PLL of the part: all but the recovered ones (Table 20.1). -/
def ownClocks : Word := 0x87FFFFE0001FFFFF

def doColdStartRails (s : State) : State :=
  match s.img with
  | none => s
  | some i =>
    if s.bring.step ≠ 2 then s
    else avsAsk [(false, i.vcoreMv), (true, i.vsramMv)]
      (syncCrossings { s with bring := { s.bring with step := 3 }, clk := { s.clk with locked := ownClocks } })

/-- Step 3: the first voltage requests, and the clocks of the core domains locked (R371). -/
def execColdStartRails (s : State) : Host.Outcome State Fault Refusal := .next (doColdStartRails s)

/-- Germ commands every enabled output on. -/
def outputsOn (i : SolvikImage) (s : State) : State :=
  (List.finRange 4).foldl (fun t o => if i.outEnable.testBit o.val then commandOn o t else t) s

def doColdStartPower (s : State) : State :=
  match s.img with
  | none => s
  | some i =>
    if s.bring.step ≠ 3 || s.pwr.avsBusy then s
    else
      let s1 := eachMc (fun x t => setMc x .spd (updMc x (fun m => { m with
          dramReset := true, spdOk := false, pmicAt := none, pmicGood := false }) t))
        { s with bring := { s.bring with step := 4 } }
      enablePmics (outputsOn i (setFields (huskRegFields i) s1))

/-- Step 4: every channel enters SPD, the husk limits are sent, and the outputs are commanded on (R370, R372). -/
def execColdStartPower (s : State) : Host.Outcome State Fault Refusal := .next (doColdStartPower s)

def doColdStartKeys (s : State) : State :=
  if s.bring.step ≠ 6 then s
  else
    let (a, s1) := drawBits s
    let (km, s2) := drawBits s1
    setOrdered true { s2 with
      bring := { s2.bring with step := 7 }
      crypt := { s2.crypt with salt := a.setWidth 128, km := km, hm := subkey km, root := Vector.replicate 8 0 } }

/-- Step 6: salt, KM and HM are drawn, the root set is zeroed, and ordered-class mode is set (R122, R131, R111). -/
def execColdStartKeys (s : State) : Host.Outcome State Fault Refusal := .next (doColdStartKeys s)

/-- The activate-count table that fill's activates leave (R211 to R214): up to 2,048 rows of the channel, each with a count below
THRESHOLD. Which they are is free (log entry 154). -/
def fillTable (s : State) (x : Fin 16) : List ActCount :=
  let g := geom s
  let th := regField s (offRdCfg x) 0 16
  let new (a : List ActCount) (e : Nat × Nat) : Bool := rowRank g e.1 < g.ranks && e.2 < th && a.all (·.row ≠ e.1)
  ((Config.fillRows x).foldl (fun a e => if new a e then a ++ [⟨e.1, e.2⟩] else a) []).take 2048

/-- What the activates of fill leave at a channel. Fill writes every row, more of them than the table has entries, so it evicts
entries and sets RD_FALLBACK (R213). -/
def fillActivates (x : Fin 16) (s : State) : State :=
  let t := fillTable s x
  raise (blkMc x) 8 Cap.none (updMc x (fun m => { m with
    acts := t, owed := [], rdFallback := satAdd 48 m.rdFallback (1 + Config.fillFallback x)
    rdRefreshes := satAdd 48 m.rdRefreshes (1 + Config.fillRefreshes x) }) s)

def doColdStartFill (s : State) : State :=
  if s.bring.step ≠ 7 then s
  else
    let s1 := eachMc fillActivates s
    { s1 with
      bring := { s1.bring with step := 8, permille := 1000 }, dram := [], filled := true
      fillMap := Vector.ofFn fun x => BitVec.ofNat 8 (regField s (offRankMap x.val) 0 8) }

/-- Step 7: the fill engine writes every node, counter block, record and line with its blank seal (R234, log entry 7). -/
def execColdStartFill (s : State) : Host.Outcome State Fault Refusal := .next (doColdStartFill s)

/-! ### Step 8: LOAD -/

/-- Page ranges (first, count) with the pages of [lo, hi) taken out. -/
def cutPages (lo hi : Nat) (rs : List (Nat × Nat)) : List (Nat × Nat) :=
  rs.flatMap fun r =>
    let e := r.1 + r.2
    (if r.1 < min lo e then [(r.1, min lo e - r.1)] else []) ++ (if max hi r.1 < e then [(max hi r.1, e - max hi r.1)] else [])

/-- Host data space as page ranges: populated, off the protected ranges and Bran's (R193). -/
def hostPages (s : State) : List (Nat × Nat) :=
  let all := [(0, populated (geom s) / 4096)]
  let rs := (protRanges s).foldl (fun a q => cutPages (q.1 / 4096) (q.2 / 4096) a) all
  cutPages (branBase s / 4096) ((branBase s + branSize s) / 4096) rs

/-- The page ranges of each code: strong inside the strong span, light outside it. -/
def codePages (s : State) (strong : Bool) : List (Nat × Nat) :=
  let lo := strongBase s / 4096
  let hi := strongLimit s / 4096
  if strong then cutPages hi (populated (geom s) / 4096) (cutPages 0 lo (hostPages s)) else cutPages lo hi (hostPages s)

/-- Page ranges with every rank span that any spare touches taken out. -/
def wholeRuns (s : State) (rs : List (Nat × Nat)) : List (Nat × Nat) :=
  let g := geom s
  let span := 2 ^ (rankShift g + 3 - 12)
  (List.range g.ranks).foldl (fun a r => if spareHomes s r = [] then a else cutPages (r * span) ((r + 1) * span) a) rs

/-- How many aligned groups of `n` pages a range holds, and the first of them. -/
def groupsIn (n : Nat) (r : Nat × Nat) : Nat × Nat :=
  let lo := (r.1 + n - 1) / n
  (lo, (r.1 + r.2) / n - lo)

/-- The `i`-th aligned group of `n` pages. -/
def nthGroup (n : Nat) : List (Nat × Nat) → Nat → Option Nat
  | [], _ => none
  | r :: rest, i =>
    let (lo, c) := groupsIn n r
    if i < c then some (n * (lo + i)) else nthGroup n rest (i - c)

/-- A firm region's piece of 2^(12+w) bytes at `dpa` placed: at a free choice among the aligned places of its pool, or in two
halves where there is none; every leaf is as large as its place allows (R176, log entry 30). -/
def placeFirm (r : Region) : Nat → Nat → State → State
  | 0, dpa, s =>
    match allocPage (regionPool r) s with
    | (some a, s1) => writeMapping r dpa 12 (mkLeaf 12 r.pinned false a) s1
    | (none, s1) => s1
  | w + 1, dpa, s =>
    let n := 2 ^ (w + 1)
    let rs := wholeRuns s s.tier.pools[regionPool r].free
    let total := rs.foldl (fun a e => a + (groupsIn n e).2) 0
    if total = 0 then placeFirm r w (dpa + 4096 * 2 ^ w) (placeFirm r w dpa s)
    else
      let (c, s1) := drawChoice total s
      match nthGroup n rs c with
      | none => s1
      | some pg =>
        let s2 := setPool (regionPool r) (cutPages pg (pg + n)) s1
        writeMapping r dpa (12 + w + 1) (mkLeaf (12 + w + 1) r.pinned false (pg * 4096)) s2

/-- Every firm region mapped, the pools left with what remains, every descriptor free (R176, R192, R193). -/
def mapRegions (s : State) : State :=
  let s1 := { s with tier := { Tier.init with
    pools := ⟨#[⟨codePages s true, .normal⟩, ⟨codePages s false, .normal⟩], rfl⟩
    descFree := if descBase s < descLimit s then [(descBase s / 64, (descLimit s - descBase s) / 64)] else [] } }
  let s2 := ((regions s1).filter (!·.elastic)).foldl (fun t r => placeFirm r (r.size - 12) r.dpaBase t) s1
  judgePool 1 (judgePool 0 s2)

/-- The DEVICE slots with an initial policy are loaded through the load port (R115, R118, R353). -/
def loadInitial (s : State) : State :=
  match s.img with
  | none => s
  | some i => (i.keys.filter (·.hasInit)).foldl (fun t k => germSlot 1 k.slot k.initClass k.initMask t) s

/-- One line of Bran's private range written by Germ (R146). -/
def putBranLine (a : Nat) (bs : List Byte) (s : State) : State :=
  writeData a (remapAcc idGerm) (.data (lineOfBytes bs) 0) (holdPath 7 a s)

def putBran : Nat → Nat → List Byte → State → State
  | 0, _, _, s => s
  | n + 1, a, bs, s => putBran n (a + 64) (bs.drop 64) (putBranLine a (bs.take 64) s)

/-- Bran of the running letter is copied into its private range and started (R359). -/
def startBran (s : State) : State :=
  match s.img with
  | none => s
  | some i =>
    let s1 := putBran ((i.branLen + 63) / 64) (branBase s) (flashRead s (branOff s.imgCopyB) i.branLen) s
    { s1 with fw := { s1.fw with branUp := true } }

def doColdStartLoad (s : State) : State :=
  if s.bring.step ≠ 8 then s
  else
    let s1 := startBran (installPinned (loadInitial (mapRegions s)))
    syncCrossings { s1 with bring := { s1.bring with step := 9 } }

/-- Step 8: firm regions are mapped, initial slots loaded, pinned entries installed, and Bran started (Table 14.2). -/
def execColdStartLoad (s : State) : Host.Outcome State Fault Refusal := .next (doColdStartLoad s)

/-! ## Release (R375) -/

/-- The fuses that a release under the loaded image blows (R336, R337). -/
def blowFuses (s : State) : State :=
  match s.img with
  | none => s
  | some i => { s with fuses := { s.fuses with
      ownerKey := some (s.fuses.ownerKey.getD (sha384 i.ownerKey)), rollback := max s.fuses.rollback i.rollback } }

def doRelease (s : State) : State :=
  if s.bring.step ≠ 9 || s.bring.released then s
  else
    let s1 := leaveOrdered { s with
      bring := { s.bring with released := true, releaseTime := s.dtime, mboxReady := true }
      pwr := { s.pwr with state := .active }
      pair := { s.pair with startAt := s.dtime }
      mcs := s.mcs.map fun m => { m with scrubRun := true, lapStart := s.dtime } }
    eachPort leaveTraining (if s.bring.warm then s1 else blowFuses s1)

/-- Bring-up releases the ports; the fuses are blown after a cold start alone (R375, R379). -/
def execRelease (s : State) : Host.Outcome State Fault Refusal := .next (doRelease s)

/-! ## Warm resume (R379) -/

/-- The copy that the seal names matches its digest (R379 step 2). -/
def copyMatches (r : Seal) (s : State) : Bool :=
  let total := le (flashRead s (imageOff r.copyB) 256) 136 4
  total ≤ 1048576 && sha384 (flashRead s (imageOff r.copyB) total) = r.digest

/-- The Tiller link starts to train unless Germ holds it down (R379 step 3). -/
def tilStart (s : State) : State :=
  if s.til.state = .held && !holdDown s then tilTrain s else s

def doWarmResumeDram (s : State) : State :=
  match s.pwr.sealRec, s.img with
  | some r, some i =>
    if s.bring.step ≠ 12 then s
    else if !copyMatches r s then coldBegin 5 true s
    else
      let s1 := restoreRegs r.save (loadImage r.copyB i r.digest { s with
        bring := { s.bring with step := 13, leftSelfRefresh := true }, clk := { s.clk with locked := ownClocks } })
      syncCrossings (tilStart (eachPort leaveReset (eachMc loadSnapshot (newWindow s1))))
  | _, _ => s

/-- The running copy still matches its digest: every channel goes from SELF_REFRESH through RESTORING, and the Tiller link
starts training; otherwise the start is cold (R379 steps 2, 3). -/
def execWarmResumeDram (s : State) : Host.Outcome State Fault Refusal := .next (doWarmResumeDram s)

/-- The MPA that a physical line serves. -/
def mpaOfKey (s : State) (k : Nat) : Option Nat :=
  let x := mc16 (keyChan k)
  ((List.range (geom s).ranks).find? fun r => physRank s x r = keyRank k).map fun r =>
    mpaOf (x.val / 2) (keyLa k + (r <<< rankShift (geom s)))

/-- The resident nodes of a level that have left their fill values are loaded and verified; the others stand as fill left
them (R136, R138). -/
def loadLevel (c : Nat) (s : State) : State :=
  (s.dram.filterMap fun e => mpaOfKey s e.1).foldl (fun t m =>
    if lineKind t m = .node c then culmRun 64 7 [.fetch c (nodeOwner t c m)] t else t) s

/-- An open move that has not reached step 3 is abandoned, and its destination freed (R191). -/
def abandonMove (m : Move) (s : State) : State :=
  let s1 := disownHold (.move m.mid) (unitPage m.dst) { s with tier := { s.tier with moves := s.tier.moves.filter (·.mid ≠ m.mid) } }
  if m.dstPacked then returnDesc m.dst s1 else returnPage m.dst s1

/-- What a move that goes on from step 4 had stored in a packed destination is given back: it is copied again. -/
def clearDest (m : Move) (s : State) : State :=
  let s1 := updSpk (spkOf m.dst) (fun q => { q with jobs := q.jobs.filter fun j => j.kind ≠ .page m.mid }) s
  if m.dstPacked && (m.step = .release || m.step = .job) then leaveDesc m.dst false s1 else s1

/-- Open moves after a Germ restart or a warm resume: one that has not reached step 3 is abandoned, any other goes on from
step 4 with its hold placed again (R191). -/
def resumeMoves (s : State) : State :=
  s.tier.moves.foldl (fun t m =>
    if m.step = .alloc then abandonMove m t
    else moveInval m.mid (updMove m.mid (fun m => { m with step := .leaf }) (clearDest m t))) s

def doWarmResumeCulm (s : State) : State :=
  if s.bring.step ≠ 13 || !(s.mcs.toList.all fun m => m.state = .active) then s
  else
    let s1 := resumeMoves (installPinned (loadLevel 3 (loadLevel 4 (loadLevel 5 s))))
    syncCrossings { s1 with bring := { s1.bring with step := 9 }, fw := { s1.fw with branUp := true } }

/-- Every channel is ACTIVE: resident levels are verified, pinned entries come back, open moves resume, and Bran restarts from
its private range (R379 step 4). -/
def execWarmResumeCulm (s : State) : Host.Outcome State Fault Refusal := .next (doWarmResumeCulm s)

end Sys2Proof.Machine
end

