-- ==== Sys2Proof/Machine/Clocks.lean ====
section
/-! DEFINITION. Clock domains and their lost locks (R461 to R463, R471), and the thermal limits (R485). -/

namespace Sys2Proof.Machine

/-- The core rails are up. -/
def corePowered (s : State) : Bool := s.pins.powerGood && !s.pwr.railsOff

/-- The link of port `p` that takes its group of four lanes `g` (R33). -/
def groupLink (s : State) (p : Fin 4) (g : Nat) : Fin 4 :=
  match s.img with
  | none => port4 0
  | some i => match i.bifurcation.getD p 0 with
    | 0 => port4 0
    | 1 => port4 (g / 2)
    | _ => port4 g

/-- A group's lanes are part of the link as it trained (R34). -/
def groupUsed (s : State) (p : Fin 4) (g : Nat) : Bool :=
  let l := groupLink s p g
  let k := s.ports[p].links[l]
  let first := match s.img with
    | none => 0
    | some i => match i.bifurcation.getD p 0 with
      | 0 => 0
      | 1 => 2 * (g / 2)
      | _ => g
  k.trained && 4 * (g - first) < k.width

/-- The domain is not stopped (R461, STOPPED). -/
def domRuns (s : State) (d : Nat) : Bool := if d < 2 then s.pins.vddAux else corePowered s

/-- LOCKED of a domain (Table 20.7): the always-on domain runs from the crystal, a recovered clock is locked while its link or
quad is. -/
def domLocked (s : State) (d : Nat) : Bool :=
  domRuns s d &&
    (if d = 0 then true
     else if d = 1 then !s.clk.coarse
     else if 21 ≤ d && d < 37 then groupUsed s (port4 ((d - 21) / 4)) ((d - 21) % 4)
     else if 59 ≤ d && d < 63 then s.til.quads.getLsbD (d - 59)
     else s.clk.locked.getLsbD d)

/-- The domain's own PLL loses lock. -/
def dropLock (d : Nat) (s : State) : State :=
  { s with clk := { s.clk with locked := s.clk.locked &&& ~~~ BitVec.ofNat 64 (1 <<< d) } }

/-- What the loss does, by the kind of domain (R471): a link loss, the coarse timebase, a failed bring-up, or the coherent
domain down. The crystal and the reference input have no lock to lose. -/
def lockLost (d : Nat) (s : State) : State :=
  if d = 1 then raise blkClk 3 Cap.none { s with clk := { s.clk with coarse := true } }
  else if 21 ≤ d && d < 37 then
    let p := port4 ((d - 21) / 4)
    takeLinkDown p (groupLink s p ((d - 21) % 4)) s
  else if 37 ≤ d && d < 41 then (List.finRange 4).foldl (fun t l => takeLinkDown (port4 (d - 37)) l t) (dropLock d s)
  else if 59 ≤ d && d < 63 then doSymbolLockLost (port4 (d - 59)) s
  else if d = 63 then tilDown 1 (dropLock d s)
  else if s.bring.released then goDown (dropLock d s)
  else
    let (c, s1) := drawChoice 16 s
    bringupFail c (dropLock d s1)

def doPllUnlock (d : Fin 64) (s : State) : State :=
  if d.val = 0 || d.val = 2 || !domLocked s d then s else lockLost d (raise blkClk 2 Cap.none s)

/-- The clock of a domain loses lock (R471). -/
def execPllUnlock (d : Fin 64) (s : State) : Host.Outcome State Fault Refusal := .next (doPllUnlock d s)

def doTimebaseRelock (s : State) : State := { s with clk := { s.clk with coarse := false } }

/-- The timebase PLL locks again: 1 ns ticks, no step (R463). -/
def execTimebaseRelock (s : State) : Host.Outcome State Fault Refusal := .next (doTimebaseRelock s)

/-! ## Thermal -/

/-- The hottest reading of a grain die, in units of 0.25 °C; WARN sets at 100 °C and clears once both dies are below 98 °C
(R485). -/
def takeReading (die : Fin 2) (q : Int) (s : State) : State :=
  let s1 := if die = 0 then { s with thermal := { s.thermal with grain0 := BitVec.ofInt 12 q } }
    else { s with thermal := { s.thermal with grain1 := BitVec.ofInt 12 q } }
  if 400 ≤ q then
    if s1.thermal.warn then s1 else raise blkGlb 3 Cap.none { s1 with thermal := { s1.thermal with warn := true } }
  else if s1.thermal.grain0.toInt < 392 && s1.thermal.grain1.toInt < 392 then
    { s1 with thermal := { s1.thermal with warn := false } }
  else s1

def doThermalWarn (die : Fin 2) (quarterC : Int) (s : State) : State :=
  if corePowered s then takeReading die quarterC s else s

/-- A reading of a grain die (R485). -/
def execThermalWarn (die : Fin 2) (quarterC : Int) (s : State) : Host.Outcome State Fault Refusal :=
  .next (doThermalWarn die quarterC s)

def doThermalTrip (die : Fin 2) (quarterC : Int) (s : State) : State :=
  if !corePowered s || quarterC < 460 then s
  else
    let s1 := takeReading die quarterC s
    if s1.thermal.tripped then s1
    else goDown (raise blkGlb 4 Cap.none { s1 with thermal := { s1.thermal with tripped := true } })

/-- A grain-die sensor has read 115 °C or more for 1 ms (R485). -/
def execThermalTrip (die : Fin 2) (quarterC : Int) (s : State) : Host.Outcome State Fault Refusal :=
  .next (doThermalTrip die quarterC s)

end Sys2Proof.Machine
end

