-- ==== Sys2Proof/Machine/Doe.lean ====
section
/-! DEFINITION. The DOE instances of the links (R43, R44): SPDM with the parameters of Table 2.4, DOE Discovery and CDAT; and what
waited for Germ during its restart. -/

namespace Sys2Proof.Machine

/-! ## SPDM (R44, Table 2.4) -/

/-- Secured sessions across the device. -/
def sessionCount (s : State) : Nat :=
  (s.ports.toList.map fun p => (p.links.toList.map (·.sessions)).sum).sum

/-- SPDM request codes of the cited standard: KEY_EXCHANGE and END_SESSION (log entry 17). -/
def spdmKeyExchange : Nat := 0xE4
def spdmEndSession : Nat := 0xEC

/-- The requests that the capabilities of Table 2.4 serve before a session: GET_DIGESTS, GET_CERTIFICATE, CHALLENGE, GET_VERSION,
GET_MEASUREMENTS, GET_CAPABILITIES, NEGOTIATE_ALGORITHMS and KEY_EXCHANGE. -/
def spdmOpenCodes : List Nat := [0x81, 0x82, 0x83, 0x84, 0xE0, 0xE1, 0xE3, spdmKeyExchange]

/-- Those inside a session: FINISH, HEARTBEAT, KEY_UPDATE, the two encapsulated ones of mutual authentication, and END_SESSION. -/
def spdmSessionCodes : List Nat := [0xE5, 0xE8, 0xE9, 0xEA, 0xEB, spdmEndSession]

/-- CERT, CHAL, MEAS with signature, ENCRYPT, MAC, MUT_AUTH with its encapsulated requests, KEY_EX, HBEAT and KEY_UPD; no PSK. -/
def spdmCapabilities : Nat := 0x2 + 0x4 + 0x10 + 0x40 + 0x80 + 0x100 + 0x200 + 0x1000 + 0x2000 + 0x4000

/-- Certificate slots: 0 always, 1 where the image brings the owner chain. -/
def certSlots (s : State) : List Nat :=
  match s.img with
  | some i => if i.ownerCert.isEmpty then [0] else [0, 1]
  | none => [0]

/-- The first DER certificate of a chain. -/
def derFirst (bs : List Byte) : List Byte :=
  let b (n : Nat) : Nat := ((bs[n]?).getD 0).toNat
  bs.take (if b 1 < 0x80 then 2 + b 1 else if b 1 = 0x81 then 3 + b 2 else 4 + 256 * b 2 + b 3)

/-- The chain of slot 1 as SPDM carries one: its length, the hash of its root, and the certificates of OWNER_CERT (R350). -/
def ownerChain (s : State) : List Byte :=
  let cs := (s.img.map (·.ownerCert)).getD []
  natToBytes 2 (52 + cs.length) ++ natToBytes 2 0 ++ natToBytesBE 48 (sha384 (derFirst cs)).toNat ++ cs

/-- `n` bytes that the standard leaves to the device or that the spec does not state. -/
def freeTail (n : Nat) (s : State) : List Byte × State :=
  ((List.range ((n + 63) / 64)).flatMap (fun i => natToBytes 64 (Config.payload (s.free + i)).toNat) |>.take n,
    { s with free := s.free + (n + 63) / 64 })

/-- One measurement block: 1 to 5 are digests of what Table 2.4 names, 6 the anti-rollback counter, 7 whether fault injection is
permitted (R346). -/
def measurement (i : Nat) (s : State) : List Byte × State :=
  let block (kind : Nat) (v : List Byte) : List Byte :=
    natToBytes 1 i ++ natToBytes 1 1 ++ natToBytes 2 (3 + v.length) ++ natToBytes 1 kind ++ natToBytes 2 v.length ++ v
  if i = 6 then (block 0x83 (natToBytes 1 s.fuses.rollback), s)
  else if i = 7 then (block 0x83 (natToBytes 1 (bit (fiPermitted s))), s)
  else
    let (v, s1) := freeTail 48 s
    (block (if i = 1 then 0 else if i = 3 || i = 4 then 3 else 1) v, s1)

/-- The measurement blocks of the indices, in order. -/
def measurements : List Nat → State → List Byte × State
  | [], s => ([], s)
  | i :: is, s =>
    let (b, s1) := measurement i s
    let (bs, s2) := measurements is s1
    (b ++ bs, s2)

/-- An answer: version 1.3, its code, two parameters, what Table 2.4 states, and `n` bytes more that it does not. -/
def spdmAnswer (p l : Fin 4) (h : SpdmReq) (param1 param2 : Nat) (body : List Byte) (n : Nat) (s : State) : State :=
  let (f, s1) := freeTail n s
  let v := if h.code = 0x84 then 0x10 else 0x13
  emit (.spdm p l h.code (natToBytes 1 v ++ natToBytes 1 (h.code % 128) ++ natToBytes 1 param1 ++ natToBytes 1 param2 ++ body ++ f)) s1

/-- The portion of the chain of slot 1 that GET_CERTIFICATE asks for. Slot 0 is in fuses, and its bytes are stated by no rule. -/
def certificateAnswer (p l : Fin 4) (h : SpdmReq) (s : State) : State :=
  if h.param1 % 16 = 0 then spdmAnswer p l h 0 0 [] 64 s
  else
    let rest := (ownerChain s).drop h.offset
    let part := rest.take h.length
    spdmAnswer p l h 1 0 (natToBytes 2 part.length ++ natToBytes 2 (rest.length - part.length) ++ part) 0 s

/-- GET_MEASUREMENTS: the count of indices, one, or all seven, signed. -/
def measurementAnswer (p l : Fin 4) (h : SpdmReq) (s : State) : State :=
  if h.param2 = 0 then spdmAnswer p l h 7 0 (natToBytes 4 0) 130 s
  else if h.param2 ≤ 7 || h.param2 = 0xFF then
    let is := if h.param2 = 0xFF then [1, 2, 3, 4, 5, 6, 7] else [h.param2]
    let (bs, s1) := measurements is s
    spdmAnswer p l h 0 0 (natToBytes 1 is.length ++ natToBytes 3 bs.length ++ bs) 130 s1
  else emit (.spdmError p l .invalidRequest) s

/-- ALGORITHMS: ECDSA P-384, SHA-384, secp384r1 and AES-256-GCM; both sides sign with P-384. -/
def algorithmsBody : List Byte :=
  natToBytes 2 52 ++ natToBytes 1 1 ++ natToBytes 1 2 ++ natToBytes 4 4 ++ natToBytes 4 0x80 ++ natToBytes 4 2 ++ natToBytes 16 0 ++
    natToBytes 4 (0x2002 + (0x10 <<< 16)) ++ natToBytes 4 (0x2003 + (2 <<< 16)) ++ natToBytes 4 (0x2004 + (0x80 <<< 16)) ++
    natToBytes 4 (0x2005 + (1 <<< 16))

/-- Germ answers an SPDM request. Only SPDM 1.3 is served, GET_VERSION apart; what Table 2.4 does not list is no supported request
(R3, R44). PRESUMED: codes, error codes and layouts are those of the cited standard (log entry 17). -/
def serveSpdm (p l : Fin 4) (h : SpdmReq) (s : State) : State :=
  let fail (e : SpdmErr) : State := emit (.spdmError p l e) s
  let k := s.ports[p].links[l]
  if h.code = 0x84 then spdmAnswer p l h 0 0 (natToBytes 2 0x0100 ++ natToBytes 2 0x1300) 0 s
  else if h.version ≠ 0x13 then fail .versionMismatch
  else if spdmSessionCodes.contains h.code then
    if k.sessions = 0 then fail .unexpectedRequest
    else
      spdmAnswer p l h 0 0 [] 64 (if h.code = spdmEndSession then updLink p l (fun k => { k with sessions := k.sessions - 1 }) s else s)
  else if !spdmOpenCodes.contains h.code then fail .unsupportedRequest
  else if h.code = spdmKeyExchange then
    if 2 ≤ k.sessions || 32 ≤ sessionCount s then fail .sessionLimitExceeded
    else spdmAnswer p l h 0 0 [] 64 (updLink p l (fun k => { k with sessions := k.sessions + 1 }) s)
  else if h.code = 0x81 then
    let m := ((certSlots s).map (2 ^ ·)).sum
    spdmAnswer p l h m m [] (48 * (certSlots s).length) s
  else if h.code = 0xE1 then spdmAnswer p l h 0 0 (natToBytes 4 0 ++ natToBytes 4 spdmCapabilities) 8 s
  else if h.code = 0xE3 then spdmAnswer p l h 4 0 algorithmsBody 0 s
  else if h.code = 0xE0 then measurementAnswer p l h s
  else if !(certSlots s).contains (h.param1 % 16) then fail .invalidRequest
  else if h.code = 0x82 then certificateAnswer p l h s
  else spdmAnswer p l h (h.param1 % 16) ((certSlots s).map (2 ^ ·)).sum [] 64 s

/-! ## Discovery and CDAT (R43) -/

/-- The protocols in the order R43 names them. -/
def serveDiscovery (p l : Fin 4) (index : Nat) (s : State) : State :=
  emit (.doeProtocol p l index ([DoeProto.discovery, .cmaSpdm, .securedCmaSpdm, .cdat][index]?)) s

/-- Raw bandwidth of a link per direction, in GB/s (Table 2.1). -/
def linkBandwidth (k : Link) : Nat := k.width * 2 ^ k.speed

/-- The regions that each LD of a link reaches: LD, DPA base and size. -/
def linkRegions (p l : Fin 4) (s : State) : List (Nat × Nat × Nat) :=
  let lds := (List.range 16).filter fun i => (ldRec s (16 * p.val + i)).valid && (ldRec s (16 * p.val + i)).link = l.val
  lds.flatMap fun i => ((regions s).filter (ldReaches (16 * p.val + i))).map fun r => (i, r.dpaBase, 2 ^ r.size)

/-- A DSMAS entry. PRESUMED: the layouts of CDAT are those of the cited standard (log entry 17). -/
def dsmasBytes (h : Nat) (e : Nat × Nat × Nat) : List Byte :=
  natToBytes 1 0 ++ natToBytes 1 0 ++ natToBytes 2 24 ++ natToBytes 1 h ++ natToBytes 3 0 ++ natToBytes 8 e.2.1 ++ natToBytes 8 e.2.2

/-- A DSLBIS entry of a DSMAS: read latency (data type 1) or access bandwidth (3), in units of 1,000 ps or MB/s. -/
def dslbisBytes (h kind v : Nat) : List Byte :=
  natToBytes 1 1 ++ natToBytes 1 0 ++ natToBytes 2 24 ++ natToBytes 1 h ++ natToBytes 1 0 ++ natToBytes 1 kind ++ natToBytes 1 0 ++
    natToBytes 8 1000 ++ natToBytes 2 v ++ natToBytes 6 0

/-- The table: its header, whose checksum makes the sum of all bytes 0, then the entries. -/
def cdatBytes (es : List (Nat × Nat × Nat)) (bandwidth : Nat) : List Byte :=
  let body := es.zipIdx.flatMap fun (e, h) => dsmasBytes h e ++ dslbisBytes h 1 170 ++ dslbisBytes h 3 bandwidth
  let head (c : Nat) : List Byte :=
    natToBytes 4 (16 + body.length) ++ natToBytes 1 1 ++ natToBytes 1 c ++ natToBytes 6 0 ++ natToBytes 4 0
  let sum := ((head 0 ++ body).map (·.toNat)).sum
  head ((256 - sum % 256) % 256) ++ body

/-- CDAT: one DSMAS for each region of each LD on the link, the typical idle read latency, and the link's bandwidth (R43). -/
def serveCdat (p l : Fin 4) (s : State) : State :=
  let es := linkRegions p l s
  let bw := linkBandwidth s.ports[p].links[l]
  emit (.cdat p l es 170 bw (cdatBytes es bw)) s

/-- A DOE request reaches Germ over a link that is up. -/
def overLink (p l : Fin 4) (w : GermWait) (f : State → State) (s : State) : State :=
  if s.ports[p].links[l].up then askGerm w f s else s

def doSpdmRequest (p l : Fin 4) (h : SpdmReq) (s : State) : State := overLink p l (.spdm p l h) (serveSpdm p l h) s
def doDoeDiscovery (p l : Fin 4) (index : Nat) (s : State) : State :=
  overLink p l (.discovery p l index) (serveDiscovery p l index) s
def doCdatTableAccess (p l : Fin 4) (s : State) : State := overLink p l (.cdat p l) (serveCdat p l) s

def execSpdmRequest (p l : Fin 4) (h : SpdmReq) (s : State) : Host.Outcome State Fault Refusal :=
  .next (doSpdmRequest p l h s)
def execDoeDiscovery (p l : Fin 4) (index : Nat) (s : State) : Host.Outcome State Fault Refusal :=
  .next (doDoeDiscovery p l index s)
def execCdatTableAccess (p l : Fin 4) (s : State) : Host.Outcome State Fault Refusal := .next (doCdatTableAccess p l s)

/-- What waited for Germ is served in arrival order when it is back (R24, R25). -/
def serveWait (w : GermWait) (s : State) : State :=
  match w with
  | .spdm p l c => serveSpdm p l c s
  | .discovery p l i => serveDiscovery p l i s
  | .cdat p l => serveCdat p l s
  | .keyProg p l k v => serveKeyProg p l k v s
  | .setGo p l k => serveSetGo p l k s

def serveWaits (s : State) : State :=
  serveAllKeys (s.fw.waits.foldl (fun t w => serveWait w t) { s with fw := { s.fw with waits := [] } })

end Sys2Proof.Machine
end

