-- ==== Sys2Proof/Machine/SheafCmds.lean ====
section
/-! DEFINITION. The commands of the Sheaf (chapter 3). -/

namespace Sys2Proof.Machine

def doWalkStart (s : State) : State :=
  if s.domainDown || !s.fw.germUp || 16 ≤ s.gate.walks.length then s
  else match s.gate.records with
    | [] => s
    | m :: rest =>
      let s1 := { s with gate := { s.gate with records := rest } }
      let (w, s2) := restartWalk ⟨m, 4, 0, [], none, false⟩ s1
      { s2 with gate := { s2.gate with walks := s2.gate.walks ++ [w] } }

/-- A walk slot takes the next miss record from the gate (R70). -/
def execWalkStart (s : State) : Host.Outcome State Fault Refusal := .next (doWalkStart s)

def doWalkRead (w : Nat) (noise : Image) (par : Parity) (s : State) : State :=
  if s.domainDown then s
  else match s.gate.walks[w]? with
    | none => s
    | some v =>
      if v.leaf.isSome || v.waiting then s
      else
        let a := entryAddr v.table v.level v.miss.ldTag v.miss.dpa
        if targetBusy s a then s else chanAccess a true par ⟨a, 1, idWalk, 7, none⟩ (walkStep w noise) s

/-- The entry that walk `w` reads returns (R72). -/
def execWalkRead (w : Nat) (noise : Image) (par : Parity) (s : State) : Host.Outcome State Fault Refusal :=
  .next (doWalkRead w noise par s)

/-- A write of a register of the SHEAF block that holds a GO bit. -/
def shfGo (m : Master) (off : Nat) (v : Word) (go : State → State) (s : State) : State :=
  guardWrite m off (fun t =>
    let t1 := regWrite .whole off v t
    if flag v 0 then go t1 else t1) s

def doSheafFill (m : Master) (v : Word) (s : State) : State := shfGo m offShfFillCmd v fillGo s

/-- A write of SHF_FILL_CMD (R71, R83). -/
def execSheafFill (m : Master) (v : Word) (s : State) : Host.Outcome State Fault Refusal := .next (doSheafFill m v s)

def offShfInvCmd : Nat := 0x801A8

def doSheafInvalidate (m : Master) (v : Word) (s : State) : State :=
  shfGo m offShfInvCmd v (fun t =>
    if t.gate.invOpen then t
    else
      let w := regGet t offShfInvRange
      invalidate (flag w 57) (field w 48 6) (field w 12 33 <<< 12) (field w 58 6) t) s

/-- A write of SHF_INV_CMD: GO broadcasts the invalidation unless one is open (R81). -/
def execSheafInvalidate (m : Master) (v : Word) (s : State) : Host.Outcome State Fault Refusal :=
  .next (doSheafInvalidate m v s)

def doInvTimeout (s : State) : State :=
  if !s.gate.invOpen || s.gate.invTimedOut then s
  else
    let s1 := timeTo (s.gate.invStart + 1000 * regField s offShfInvTimeout 0 16) s
    raise blkSheaf 6 Cap.none { s1 with gate := { s1.gate with invTimedOut := true } }

/-- The open invalidation has not collected its acknowledgements in time (R80). -/
def execInvTimeout (s : State) : Host.Outcome State Fault Refusal := .next (doInvTimeout s)

def doWalkCacheFlush (m : Master) (v : Word) (s : State) : State :=
  shfGo m offShfWcFlush v (fun t =>
    let w := regGet t offShfWcFlush
    flushCache (flag w 57) (field w 48 6) (field w 12 33 <<< 12) (field w 58 6) t) s

/-- A write of SHF_WC_FLUSH (R77). -/
def execWalkCacheFlush (m : Master) (v : Word) (s : State) : Host.Outcome State Fault Refusal :=
  .next (doWalkCacheFlush m v s)

def doPinnedReinstall (s : State) : State :=
  if s.gate.invOpen || s.domainDown || !s.fw.germUp then s else reinstallPinned s

/-- Once the invalidation is acknowledged, Germ reinstalls the pinned entries that it removed (R82). -/
def execPinnedReinstall (s : State) : Host.Outcome State Fault Refusal := .next (doPinnedReinstall s)

end Sys2Proof.Machine
end

