-- ==== Sys2Proof/Machine/Power.lean ====
section
/-! DEFINITION. Power states (chapter 16): clock gating, DOZE, the entry to REST and STOOK step by step, and the wakes. -/

namespace Sys2Proof.Machine

def setPwr (f : Pwr → Pwr) (s : State) : State := { s with pwr := f s.pwr }

/-! ## Clock gating (R402) -/

/-- A port without work. -/
def portIdle (s : State) (p : Fin 4) : Bool :=
  let q := s.ports[p]
  q.reqs.isEmpty && q.egress.isEmpty && q.slots.isEmpty && q.retries.isEmpty && q.bis.isEmpty && !q.invBusy

/-- A spikelet without work. -/
def spkIdle (s : State) (k : Fin 8) : Bool :=
  let q := s.spks[k]
  q.inbox.isEmpty && q.txns.isEmpty && q.snps.isEmpty && q.jobs.isEmpty && q.fetches.isEmpty && q.rekeys.isEmpty &&
    q.evict.isEmpty && q.recalling.isNone

/-- A channel without work. -/
def mcIdle (s : State) (x : Fin 16) : Bool :=
  let m := s.mcs[x]
  m.state = .active && m.refreshing.isEmpty && m.owed.isEmpty && !m.calRunning && m.copy.isNone

/-- The block of a domain has no work; none of the other domains holds a block that gates. -/
def domainIdle (s : State) (d : Nat) : Bool :=
  if domSpk 0 ≤ d && d < domSpk 8 then spkIdle s (spk8 (d - domSpk 0))
  else if domPort 0 ≤ d && d < domPort 4 then portIdle s (port4 (d - domPort 0))
  else if domMc 0 ≤ d && d < domMc 16 then mcIdle s (mc16 (d - domMc 0))
  else false

def isGated (s : State) (d : Nat) : Bool := kget false s.pwr.gated d

/-- ACTIVE becomes IDLE once every spikelet and port is gated (Table 16.2). -/
def judgeIdle (s : State) : State :=
  if s.pwr.state = .active && (List.range 8).all (fun k => isGated s (domSpk k)) &&
      (List.range 4).all (fun p => isGated s (domPort p)) then setPwr (fun p => { p with state := .idle }) s
  else s

def doClockGate (d : Fin 64) (s : State) : State :=
  if !domainIdle s d || (regGet s offGateDis).getLsbD d || !coreOn s then s
  else judgeIdle (setPwr (fun p => { p with gated := kset false p.gated d true }) s)

/-- A block has had 64 cycles without work: it gates its clocks unless CLK_GATE_DIS holds them (R402, Table 20.6). -/
def execClockGate (d : Fin 64) (s : State) : Host.Outcome State Fault Refusal := .next (doClockGate d s)

/-! ## DOZE (R403) -/

/-- The Tiller link carries nothing but what R403 lists. -/
def tilQuiet (s : State) : Bool :=
  let ok (m : TilMsg) : Bool := match m with
    | .heartbeat .. => true
    | .timeReq .. => true
    | .timeRsp .. => true
    | _ => false
  s.til.queue.all ok && s.til.delivered.all (fun d => ok d.1) && s.til.replayBuf.all (fun f => !f.tracked && !f.sync) &&
    s.til.mirrors.isEmpty && s.til.fetches.isEmpty

/-- No proposal is open at the gate. -/
def gateQuiet (s : State) : Bool := s.queue.verdicts.all fun v => !(v.2.used && v.2.status ≤ 1)

/-- The conditions of R403 beside DOZE_EN. -/
def dozeHolds (s : State) : Bool :=
  ((List.finRange 4).all fun p => (List.finRange 4).all fun l =>
    !s.ports[p].links[l].up || s.ports[p].links[l].inL1) &&
  tilQuiet s && s.tier.moves.isEmpty && s.mcs.toList.all (·.copy.isNone) && s.spks.toList.all (·.jobs.isEmpty) &&
  s.queue.pairs.all (fun q => q.2.taken.isEmpty) && gateQuiet s

def dozeEnabled (s : State) : Bool := flag (regGet s offPwrCfg) 16

/-- Every channel changes between ACTIVE and POWER_DOWN. -/
def setDown (down : Bool) (s : State) : State :=
  { s with mcs := s.mcs.map fun m =>
      if down then (if m.state = .active then { m with state := .powerDown } else m)
      else if m.state = .powerDown then { m with state := .active } else m }

def doDozeEntry (s : State) : State :=
  if (s.pwr.state = .active || s.pwr.state = .idle) && dozeEnabled s && dozeHolds s then
    let s1 := match s.pwr.dozeSince with
      | some t => timeTo (t + 1000 * regField s offPwrCfg 0 16) s
      | none => s
    setDown true (setPwr (fun p => { p with state := .doze, dozeSince := none }) s1)
  else s

/-- The conditions have held for DOZE_US. -/
def execDozeEntry (s : State) : Host.Outcome State Fault Refusal := .next (doDozeEntry s)

def doDozeExit (s : State) : State :=
  if s.pwr.state = .doze && !(dozeEnabled s && dozeHolds s) then
    setDown false (setPwr (fun p => { p with state := .active }) s)
  else s

/-- A condition of R403 fails: every channel leaves POWER_DOWN. -/
def execDozeExit (s : State) : Host.Outcome State Fault Refusal := .next (doDozeExit s)

def doLinkL1Entry (p l : Fin 4) (s : State) : State :=
  if !s.ports[p].links[l].up then s
  else
    let s1 := updLink p l (fun k => { k with inL1 := true }) s
    if dozeHolds s1 then setPwr (fun w => { w with dozeSince := some (w.dozeSince.getD s1.dtime) }) s1 else s1

/-- A trained host link enters ASPM L1: where that completes the conditions, the DOZE_US count starts. -/
def execLinkL1Entry (p l : Fin 4) (s : State) : Host.Outcome State Fault Refusal := .next (doLinkL1Entry p l s)

/-! ## Entry to REST and STOOK (Table 16.5) -/

/-- A step ends: its duration is logged in µs, and the next is in progress (Table 16.15). -/
def stepEnd (n : Nat) (s : State) : State :=
  let us := min 255 ((s.dtime - s.pwr.stepAt) / 1000)
  setPwr (fun p => { p with step := (n + 1) % 8, stepAt := s.dtime }) (regSetField offStookLog1 (8 * (n - 1)) 8 us s)

/-- A port acts as for the loss of its links, and its PHYs are idle (R56). -/
def blockPort (p : Fin 4) (s : State) : State :=
  setPort p .reset ((List.finRange 4).foldl (fun t l => takeLinkDown p l t) s)

/-- An open reload is abandoned (R366). -/
def abandonReload (s : State) : State :=
  if !s.bring.reloadBusy then s
  else
    let s1 := match s.bring.reloadSlot with
      | some i => setVerdict i 4 21 0 s
      | none => s
    { s1 with bring := { s1.bring with reloadBusy := false, reloadResult := 12, reloadSlot := none } }

/-- The sequence begins with step 1: ports blocked, ownership released, scrubber, migration engine and copies stopped. -/
def enterBegin (stook : Bool) (s : State) : State :=
  let was := s.pair.role
  let s0 := setPwr (fun p => { p with
    state := if stook then .stooking else .enteringRest, step := 1, stepAt := s.dtime, stookStart := s.dtime, sealRec := none
    paired := was ≠ .none, dropped := 0, resolvedOpen := false, railsOff := false, wakeLatched := false
    secSynced := was = .secondary && s.pair.synced, priSynced := pairMode s && s.pair.peerSynced }) (abandonReload s)
  let s1 := regSet offDropped 0 (regSet offStookLog1 (place 62 (if stook then 2 else 1)) (regSet offStookLog0 (BitVec.ofNat 64 s.dtime) s0))
  let s2 := syncCrossings (eachPort blockPort (setDown false s1))
  stepEnd 1 { s2 with
    pair := { s2.pair with own := false, fenceOut := false, wasPrimary := was = .primary }
    mcs := s2.mcs.map fun m => { m with scrubRun := false } }

/-- ACTIVE, IDLE and DOZE. -/
def servingState (s : State) : Bool := s.pwr.state = .active || s.pwr.state = .idle || s.pwr.state = .doze

/-- A warm resume that a power warning or a fall stops before any channel left SELF_REFRESH waits for POWER_GOOD again with
its seal (R380). -/
def stopResume (s : State) : State := railsLost s

def doPfwNLow (s0 : State) : State :=
  let s := { s0 with pins := { s0.pins with pfwLow := true } }
  if s.domainDown then s
  else if servingState s then enterBegin true s
  else if s.pwr.state = .enteringRest then
    regSetField offStookLog1 62 2 2 (setPwr (fun p => { p with state := .stooking, stookStart := s.dtime }) s)
  else if s.pwr.state = .start && s.bring.warm && !s.bring.released then
    if s.bring.leftSelfRefresh then enterBegin true s else stopResume s
  else s

/-- PFW_N is low: the stook sequence starts, or goes on from an entry to REST (R380, R410, Table 16.2). -/
def execPfwNLow (s : State) : Host.Outcome State Fault Refusal := .next (doPfwNLow s)

def doPwrCtlRest (m : Master) (v : Word) (s : State) : State :=
  guardWrite m 0x380108 (fun t => if flag v 0 && servingState t && !t.domainDown then enterBegin false t else t) s

/-- A write of PWR_CTL.REST (Table 16.9). Once the coherent domain is down no entry begins: Germ refuses the proposal then, and
VIRAL is left only by a reset of the whole device (R58, R113, log entry 37). -/
def execPwrCtlRest (m : Master) (v : Word) (s : State) : Host.Outcome State Fault Refusal := .next (doPwrCtlRest m v s)

/-- Step `n` of an entry is in progress. An entry that the domain goes down in does not go on: only the reset of the whole
device brings the domain back (R113). -/
def atStep (n : Nat) (s : State) : Bool := entering s && !s.domainDown && s.pwr.step = n

/-! ### Step 2 -/

/-- Transactions that have passed stage 3 and not completed (R413). -/
def openHome (s : State) : Nat :=
  s.spks.toList.foldl (fun n k => n + k.inbox.length + k.txns.length) 0 +
    s.ports.toList.foldl (fun n p => n + p.retries.length) 0

/-- One round of a home: what has arrived is ordered, what is fetched returns, what can be completed is (R413 rule 1). -/
def drainHome (k : Fin 8) (s : State) : State :=
  let s1 := doHomeRequest k s.spks[k].inbox.length .good s
  let s2 := s1.spks[k].fetches.foldl (fun t f => doCulmNodeFetchDone k f.mpa 0 .good t) s1
  (s2.spks[k].txns.map (·.tid)).foldl (fun t tid => memoryDone k tid 0 t) s2

def drainRounds : Nat → State → State
  | 0, s => s
  | n + 1, s => drainRounds n (eachSpk drainHome s)

/-- Requests that a home had sent back go to it again. -/
def resendRetries (s : State) : State :=
  eachPort (fun p t => (t.ports[p].retries.map (·.2.req.rid)).foldl (fun u r => doParkRetryResend p r u) t) s

/-- Step 2 ends: `n` transactions were dropped, and what R415 asks of its end is noted. -/
def drainEnd (n : Nat) (s : State) : State :=
  let s1 := setPwr (fun p => { p with
    dropped := n, secSynced := p.secSynced && !mirrorsPending s
    priSynced := p.priSynced && s.til.mirrors.isEmpty && s.pair.resync.isEmpty && !p.resolvedOpen }) s
  stepEnd 2 (regSet offDropped (place 0 (min n (2 ^ 32 - 1))) { s1 with
    ports := s1.ports.map fun p => { p with reqs := [], egress := [], retries := [], slots := [] } })

def doStookDrain (s : State) : State :=
  if !atStep 2 s then s
  else
    let s1 := drainRounds (8 + openHome s) (resendRetries s)
    if openHome s1 = 0 && s1.til.mirrors.isEmpty && s1.til.fetches.isEmpty && !mirrorsPending s1 then drainEnd 0 s1 else s1

/-- Step 2: home transactions complete, their responses discarded; it ends once none is open (R413). -/
def execStookDrain (s : State) : Host.Outcome State Fault Refusal := .next (doStookDrain s)

def doStookMirrorTimeout (s : State) : State :=
  if s.pwr.state ≠ .stooking || !atStep 2 s || (s.til.mirrors.isEmpty && s.til.fetches.isEmpty) then s
  else tilDown 6 (timeTo (s.pwr.stepAt + 20000) s)

/-- A mirror write or LINE_FETCH is still open 20 µs into step 2 (R413 rule 2). -/
def execStookMirrorTimeout (s : State) : Host.Outcome State Fault Refusal := .next (doStookMirrorTimeout s)

def doStookDrop (s : State) : State :=
  if !atStep 2 s then s
  else
    let s1 := timeTo (s.pwr.stepAt + 40000) s
    let n := openHome s1
    drainEnd n { s1 with spks := s1.spks.map fun k => { k with
      inbox := [], txns := [], snps := [], evict := [], fetches := [], jobs := [], rekeys := [] } }

/-- At 40 µs every transaction not completed is dropped and counted; a dropped write leaves its line as it was (R413). -/
def execStookDrop (s : State) : Host.Outcome State Fault Refusal := .next (doStookDrop s)

/-! ### Steps 3 to 7 -/

def kindLevel : CulmKind → Option Nat
  | .node c => some c
  | _ => none

/-- Every line of a level that a home holds dirty is written back; `none` stands for spill, page-key and tag lines. -/
def flushLevel (c : Option Nat) (s : State) : State :=
  eachSpk (fun k t =>
    ((t.spks[k].culm.filter fun e => e.2.dirty && kindLevel e.2.kind = c).map (·.1)).foldl (fun u a =>
      culmRun 4096 7 [.flush a] u) t) s

def doStookFlush (s : State) : State :=
  if !atStep 3 s then s
  else stepEnd 3 ([none, some 0, some 1, some 2, some 3, some 4, some 5].foldl (fun t c => flushLevel c t) s)

/-- Step 3: each culm cache writes back every dirty line, level by level (R414). -/
def execStookFlush (s : State) : Host.Outcome State Fault Refusal := .next (doStookFlush s)

def doStookSeal (s : State) : State :=
  if !atStep 4 s then s
  else
    let clean := s.pwr.secSynced || s.pwr.priSynced
    let r : Seal :=
      { valid := false, stookKind := s.pwr.state = .stooking, clean := clean, entry := s.pwr.stookStart
        copyB := s.imgCopyB, digest := s.imgDigest, vcore := s.pwr.ackCore, vsram := s.pwr.ackSram
        slots := s.crypt.slots, salt := s.crypt.salt, km := s.crypt.km, hm := s.crypt.hm, root := s.crypt.root
        save := savedRegs s, check := 0 }
    let s1 := setPwr (fun p => { p with sealRec := some { r with check := sealCheck s r } }) s
    stepEnd 4 (regSetField offStookLog1 61 1 (bit clean) s1)

/-- Step 4: key store, save list and seal record are written, VALID clear (R407 to R409, R415). -/
def execStookSeal (s : State) : Host.Outcome State Fault Refusal := .next (doStookSeal s)

def doStookSelfRefresh (s : State) : State :=
  if !atStep 5 s then s else stepEnd 5 (eachMc enterSelfRefresh s)

/-- Step 5: every channel enters SELF_REFRESH with its snapshot taken (R220). -/
def execStookSelfRefresh (s : State) : Host.Outcome State Fault Refusal := .next (doStookSelfRefresh s)

def doStookHold (s : State) : State :=
  if !atStep 6 s then s
  else
    let s1 := armWatch s
    let stook := s1.pwr.state = .stooking
    stepEnd 6 (setPwr (fun p => { p with sealRec := p.sealRec.map fun r =>
      let r1 := { r with stookKind := stook }
      { r1 with valid := true, check := sealCheck s r1 } }) s1)

/-- Step 6: HUSK_SEAL.ARM is written and VALID set; KIND is that of the state being entered (R396, R409). -/
def execStookHold (s : State) : Host.Outcome State Fault Refusal := .next (doStookHold s)

/-- The alarm is due (Table 16.6). -/
def alarmDue (s : State) : Bool := flag (regGet s offWakeCfg) 0 && (regGet s offWakeTime).toNat ≤ s.dtime

/-- A level wake stands (Table 16.6). -/
def levelWake (s : State) : Bool := s.pwr.wakeN || alarmDue s || (s.pwr.state = .stook && !s.pins.pfwLow)

def doStookPartner (s : State) : State :=
  if !atStep 7 s then s
  else
    let s1 := tilDown 6 s
    let s2 := stepEnd 7 s1
    let s3 := setPwr (fun p => { p with
      state := if p.state = .stooking then .stook else .rest, railsOff := true, railsOffAt := s2.dtime }) s2
    setPwr (fun p => { p with wakeLatched := p.wakeLatched || levelWake s3 }) s3

/-- Step 7: the Tiller link goes down with cause COMMAND, the state is REST or STOOK, and RAILS_OFF_N is asserted; a level wake
is sampled again (R416, R418, R420). -/
def execStookPartner (s : State) : Host.Outcome State Fault Refusal := .next (doStookPartner s)

/-! ## Wakes (R419, R420) -/

/-- A wake in REST or STOOK releases RAILS_OFF_N; while PFW_N is low it is kept for later. -/
def wake (s : State) : State :=
  if !(resting s && s.pwr.railsOff) then s
  else if s.pins.pfwLow then setPwr (fun p => { p with wakeLatched := true }) s
  else setPwr (fun p => { p with railsOff := false, wakeLatched := false }) s

def doWakeN (low : Bool) (s : State) : State :=
  let s1 := setPwr (fun p => { p with wakeN := low }) s
  if low then wake s1 else s1

/-- WAKE_N changes level. -/
def execWakeN (low : Bool) (s : State) : Host.Outcome State Fault Refusal := .next (doWakeN low s)

def doWakeAlarm (s : State) : State :=
  if flag (regGet s offWakeCfg) 0 then wake (timeTo (regGet s offWakeTime).toNat s) else s

/-- DTIME reaches PWR_WAKE_TIME. -/
def execWakeAlarm (s : State) : Host.Outcome State Fault Refusal := .next (doWakeAlarm s)

def doWakePerst (p : Fin 4) (lastCycles : Bool) (s : State) : State :=
  let s1 := doPerstRelease p s
  if regField s1 offWakeCfg 1 1 = 0 then s1
  else if entering s1 then (if lastCycles then s1 else setPwr (fun w => { w with wakeLatched := true }) s1)
  else wake s1

/-- PERST# of a port rises; `lastCycles`: within the last eight always-on cycles before RAILS_OFF_N is asserted, where an edge
is lost (R420). -/
def execWakePerst (p : Fin 4) (lastCycles : Bool) (s : State) : Host.Outcome State Fault Refusal :=
  .next (doWakePerst p lastCycles s)

def doPfwNHigh (s0 : State) : State :=
  let s := { s0 with pins := { s0.pins with pfwLow := false } }
  if resting s && s.pwr.railsOff && (s.pwr.wakeLatched || levelWake s) then wake s else s

/-- PFW_N goes high: a wake from STOOK, and the release of wakes kept while it was low (R419). -/
def execPfwNHigh (s : State) : Host.Outcome State Fault Refusal := .next (doPfwNHigh s)

def doLatchedWakeRelease (s : State) : State :=
  if resting s && s.pwr.railsOff && s.pwr.wakeLatched && !s.pins.pfwLow then wake (timeTo (s.pwr.railsOffAt + 1000) s) else s

/-- One µs after RAILS_OFF_N was asserted, a wake latched during the entry releases it (R420). -/
def execLatchedWakeRelease (s : State) : Host.Outcome State Fault Refusal := .next (doLatchedWakeRelease s)

end Sys2Proof.Machine
end

