-- ==== Sys2Proof/Machine/Gate.lean ====
section
/-! DEFINITION. The gate queue (R424 to R426, Tables 17.2 to 17.5): how Bran's proposals are taken and decided, the reload of
R365, and the restarts of Germ and Bran. -/

namespace Sys2Proof.Machine

/-! ## Slots and verdicts -/

def slotBits (s : State) (i : Nat) : BitVec 256 := kget 0 s.queue.slots i

/-- A proposal of 32 bytes: KIND, ID and ARGS as one number whose byte 0 is byte 8 of the slot (Table 17.2). -/
def proposal (kind id args : Nat) : BitVec 256 := BitVec.ofNat 256 (kind % 2 ^ 16 + (id % 2 ^ 16) * 2 ^ 16 + args * 2 ^ 64)

/-- Bytes `lo` to `hi` - 1 of a proposal are zero. -/
def propZero (b : BitVec 256) (lo hi : Nat) : Bool := propField b lo (hi - lo) = 0

/-- LD_TAG and a DPA aligned to 2^a bytes, as PROMOTE, DEMOTE, PIN and UNPIN carry them. -/
def propPage (b : BitVec 256) (a : Nat) : Bool :=
  propField b 8 1 < 64 && propZero b 9 16 && propField b 16 8 < 2 ^ 45 && propField b 16 8 % 2 ^ a = 0

/-- A defined KIND, reserved bytes zero, and arguments inside their ranges (R426, Table 17.4). -/
def propOk (b : BitVec 256) : Bool :=
  propZero b 4 8 &&
  match propField b 0 2 with
  | 1 => propPage b 12 && propZero b 24 32
  | 2 => propPage b 12 && propZero b 24 32
  | 3 => propField b 8 8 < 2 ^ 44 && propField b 8 8 % 4096 = 0 && propZero b 16 32
  | 4 => propField b 8 1 < 16 && propField b 9 1 < 4 && propField b 10 1 < 2 && propField b 11 1 < 8 &&
      propField b 12 1 < 4 && propZero b 13 32
  | 5 => propField b 8 1 < 4 && propZero b 9 32
  | 6 => propField b 8 1 < 4 && propZero b 9 32
  | 7 => propZero b 12 16 && propZero b 24 32 && 0x140 ≤ propField b 8 4 && propField b 8 4 < 0x200 && propField b 8 4 % 8 = 0
  | 8 => propField b 10 1 ≤ 1 && 1 ≤ propField b 11 1 && propField b 11 1 ≤ 125 && propField b 12 1 ≤ 195 && propZero b 13 32
  | 9 => propPage b (propField b 24 1) && 12 ≤ propField b 24 1 && propField b 24 1 ≤ 44 && propZero b 25 32
  | 10 => propPage b (propField b 24 1) && 12 ≤ propField b 24 1 && propField b 24 1 ≤ 44 && propZero b 25 32
  | 11 => propZero b 8 32
  | 12 => propZero b 8 32
  | 13 => propField b 8 1 ≤ 1 && propZero b 9 32
  | 14 => propZero b 8 32
  | _ => false

def refuseProp (i reason detail : Nat) (s : State) : State := setVerdict i 3 reason detail s
def acceptProp (i : Nat) (s : State) : State := setVerdict i 1 0 0 s
def doneProp (i : Nat) (s : State) : State := setVerdict i 2 0 0 s

/-! ## Pins (R431) -/

/-- The range lies in one region that the LD reaches. -/
def rangeRegion (s : State) (ldTag dpa bytes : Nat) : Option Region :=
  match regionAt s ldTag dpa with
  | some r => if dpa + bytes ≤ r.dpaBase + 2 ^ r.size then some r else none
  | none => none

/-- PIN: every leaf covering the range is installed pinned and the range joins the port's list, or nothing is done where the
leaves would pass the limit of R66 or the list is full. A range of a pinned region stays as the image set it. -/
def pinRange (ldTag dpa size : Nat) (r : Region) (s : State) : Option State :=
  let p := port4 (ldTag / 16)
  let x : PinRange := ⟨ldTag, dpa, 2 ^ size⟩
  if r.pinned then some s
  else
    let (ls, s1) := leavesIn (2 ^ size / 4096 + 1) ldTag dpa (dpa + 2 ^ size) s
    let new := ls.filter fun l => !(s1.ports[p].sheaf.any fun e =>
      e.pinned && e.ldTag = ldTag && e.dpaBase = (entryOf ldTag l.1 l.2).dpaBase && e.size = (entryOf ldTag l.1 l.2).size)
    if 3584 < pinnedCount s1 p + new.length || (3584 ≤ s1.ports[p].pins.length && !s1.ports[p].pins.contains x) then none
    else
      let s2 := installRange ldTag dpa (2 ^ size) s1
      some (updPort p (fun q => { q with pins := if q.pins.contains x then q.pins else q.pins ++ [x] }) s2)

/-- UNPIN: the entries of the range are pinned no longer and the range leaves the list. -/
def unpinRange (ldTag dpa size : Nat) (r : Region) (s : State) : State :=
  if r.pinned then s
  else updPort (port4 (ldTag / 16)) (fun q => { q with
    pins := q.pins.filter (· ≠ ⟨ldTag, dpa, 2 ^ size⟩)
    sheaf := q.sheaf.map fun e =>
      if e.ldTag = ldTag && dpa < e.dpaBase + 2 ^ e.size && e.dpaBase < dpa + 2 ^ size then { e with pinned := false } else e }) s

/-! ## Deciding (Table 17.4) -/

/-- A decision of chapter 7 or 9 becomes a verdict; what it begins knows its slot. -/
def applyDecision (i : Nat) (d : Decision × State) : State :=
  match d with
  | (.refuse r x, s) => refuseProp i r x s
  | (.done, s) => doneProp i s
  | (.accept, s) =>
    let v := verdictAt s i
    if v.status = 0 then acceptProp i s else s

/-- QOS_SET: BUDGET, WAY_MASK or TARGET of one class, BUDGET no higher than the image's (R264, log entry 32). -/
def decideQos (i off : Nat) (v : Word) (s : State) : State :=
  let a := 0x320000 + off
  if off < 0x180 then
    if v.toNat = 0 || 0xFFFF < v.toNat then refuseProp i 17 0 s
    else if budgetCeiling s ((off - 0x140) / 8) < v.toNat then refuseProp i 18 0 s
    else doneProp i (regSetField a 0 16 v.toNat (acceptProp i s))
  else if off < 0x1C0 then
    if field v 48 10 = 0 then refuseProp i 17 0 s
    else doneProp i (regSetField a 48 10 (field v 48 10) (acceptProp i s))
  else if 100 ≤ v.toNat && v.toNat ≤ 1000000 then doneProp i (regSetField a 0 20 v.toNat (acceptProp i s))
  else refuseProp i 17 0 s

/-- SCRUB_SET: MC_SCRUB_CFG of every channel of the mask. -/
def setScrub (mask en rate reserve : Nat) (s : State) : State :=
  eachMc (fun x t => if mask.testBit x.val then
    regSetField (offScrubCfg x) 32 1 en (regSetField (offScrubCfg x) 16 8 reserve (regSetField (offScrubCfg x) 0 7 rate t))
    else t) s

def decidePin (i : Nat) (b : BitVec 256) (on : Bool) (s : State) : State :=
  let ld := propField b 8 1
  let dpa := propField b 16 8
  let size := propField b 24 1
  match rangeRegion s ld dpa (2 ^ size) with
  | none => refuseProp i 17 0 s
  | some r =>
    if !on then doneProp i (unpinRange ld dpa size r (acceptProp i s))
    else match pinRange ld dpa size r s with
      | none => refuseProp i 19 0 s
      | some s1 => doneProp i (acceptProp i s1)

/-- RELOAD: the checks of R365 steps 2 and 3, then its step 4. -/
def decideReload (i : Nat) (copy : Bool) (s : State) : State :=
  let result (n : Nat) (t : State) : State := { t with bring := { t.bring with reloadResult := n } }
  if s.pair.role = .primary || receivesMirror s then result 13 (refuseProp i 12 0 s)
  else if copy = s.imgCopyB then refuseProp i 17 0 s
  else match checkCopy s copy with
    | .refused c => result c (refuseProp i 20 c s)
    | .ok _ _ =>
      let was : BitVec 4 := (List.finRange 4).foldl (fun (v : BitVec 4) (p : Fin 4) => if s.ports[p].state = .enabled then v ||| headBit p else v) 0
      let s1 := acceptProp i { s with bring := { s.bring with
        reloadBusy := true, reloadCopy := copy, reloadSlot := some i, reloadDisabled := was, reloadAt := s.dtime } }
      eachPort (fun p t => if was.getLsbD p then disablePort p t else t) s1

/-- Every port is DRAINED or in RESET. -/
def allDrained (s : State) : Bool := s.ports.toList.all fun p => p.state = .drained || p.state = .reset

/-- REST: the checks of R404; on acceptance Germ writes PWR_CTL.REST. -/
def decideRest (i : Nat) (s : State) : State :=
  if !allDrained s then refuseProp i 13 0 s
  else if !(s.pair.role = .none || s.pair.role = .detached) then refuseProp i 14 0 s
  else
    let s1 := acceptProp i s
    if servingState s1 then enterBegin false s1 else s1

/-- The decision of the proposal in slot `i` (R425, R426). -/
def decide_ (i : Nat) (s : State) : State :=
  let b := slotBits s i
  let kind := propField b 0 2
  if s.domainDown then refuseProp i 15 0 s
  else if s.bring.reloadBusy then
    let s1 := refuseProp i 16 0 s
    if kind = 13 then { s1 with bring := { s1.bring with reloadResult := 14 } } else s1
  else if !propOk b then refuseProp i 17 0 s
  else match kind with
    | 1 => applyDecision i (decidePromote i (propField b 8 1) (propField b 16 8) s)
    | 2 => applyDecision i (decideDemote i (propField b 8 1) (propField b 16 8) s)
    | 3 => applyDecision i (decideRetirePage i (propField b 8 8) s)
    | 4 => applyDecision i (decideRetireBank i (propField b 8 1) (propField b 9 1) (propField b 10 1) (propField b 11 1)
        (propField b 12 1) s)
    | 5 =>
      let p := port4 (propField b 8 1)
      if s.ports[p].state = .enabled then doneProp i s else enablePort p (acceptProp i s)
    | 6 =>
      let p := port4 (propField b 8 1)
      if s.ports[p].state = .enabled || s.ports[p].state = .draining then disablePort p (acceptProp i s) else doneProp i s
    | 7 => decideQos i (propField b 8 4) (BitVec.ofNat 64 (propField b 16 8)) s
    | 8 => doneProp i (setScrub (propField b 8 2) (propField b 10 1) (propField b 11 1) (propField b 12 1) (acceptProp i s))
    | 9 => decidePin i b true s
    | 10 => decidePin i b false s
    | 11 => if mayLeave s then doneProp i (doLeave (acceptProp i s)) else refuseProp i 12 0 s
    | 12 => if mayHandover s then beginHandover (acceptProp i s) else refuseProp i 12 0 s
    | 13 => decideReload i (propField b 8 1 = 1) s
    | _ => decideRest i s

/-! ## Taking (R424, R425) -/

/-- A verdict slot that Bran may not reuse yet: PENDING, ACCEPTED, or not taken by Germ. -/
def slotBusy (s : State) (i : Nat) : Bool :=
  let v := verdictAt s i
  (v.used && v.status ≤ 1) || (i + 256 - s.queue.gateHead) % 256 < (s.queue.gateTail + 256 - s.queue.gateHead) % 256

/-- Germ takes the proposal at the head: PENDING with its ID, then the decision. -/
def takeOne (s : State) : State :=
  let i := s.queue.gateHead
  let v : Verdict := ⟨0, 0, 0, propField (slotBits s i) 2 2, s.dtime, true⟩
  decide_ i { s with queue := { s.queue with gateHead := (i + 1) % 256, verdicts := kset Verdict.init s.queue.verdicts i v } }

/-- Every proposal written is taken in ring order while Germ is up. `fuel` bounds them by the ring. -/
def takeProposals : Nat → State → State
  | 0, s => s
  | n + 1, s => if s.queue.gateHead = s.queue.gateTail || !s.fw.germUp then s else takeProposals n (takeOne s)

/-- A write of QUE_GATE_TAIL by Bran: ignored with GATE_OVERRUN where it would pass a busy slot. -/
def tailWrite (tail : Nat) (s : State) : State :=
  let n := (tail + 256 - s.queue.gateTail) % 256
  if (List.range n).any fun j => slotBusy s ((s.queue.gateTail + j) % 256) then raise blkQueue 3 Cap.none s
  else takeProposals 256 { s with queue := { s.queue with gateTail := tail % 256 } }

/-- Bran fills the next slot and moves the tail past it. -/
def submit (b : BitVec 256) (s : State) : State :=
  if !s.fw.branUp then s
  else if slotBusy s s.queue.gateTail then raise blkQueue 3 Cap.none s
  else
    let s1 := { s with queue := { s.queue with slots := kset 0 s.queue.slots s.queue.gateTail b } }
    tailWrite ((s.queue.gateTail + 1) % 256) s1

/-! ## The proposals -/

/-- ARGS of a proposal about a page: LD_TAG, DPA and SIZE. -/
def pageArgs (ldTag dpa size : Nat) : Nat := ldTag % 256 + (dpa % 2 ^ 64) * 2 ^ 64 + (size % 256) * 2 ^ 128

def execPromote (_core : Fin 4) (id ldTag dpa : Nat) (s : State) : Host.Outcome State Fault Refusal :=
  .next (submit (proposal 1 id (pageArgs ldTag dpa 0)) s)
def execDemote (_core : Fin 4) (id ldTag dpa : Nat) (s : State) : Host.Outcome State Fault Refusal :=
  .next (submit (proposal 2 id (pageArgs ldTag dpa 0)) s)
def execRetirePage (_core : Fin 4) (id mpa : Nat) (s : State) : Host.Outcome State Fault Refusal :=
  .next (submit (proposal 3 id (mpa % 2 ^ 64)) s)
def execRetireBank (_core : Fin 4) (id chan rank subch bg ba : Nat) (s : State) : Host.Outcome State Fault Refusal :=
  .next (submit (proposal 4 id
    (chan % 256 + (rank % 256) * 2 ^ 8 + (subch % 256) * 2 ^ 16 + (bg % 256) * 2 ^ 24 + (ba % 256) * 2 ^ 32)) s)
def execPortEnable (_core : Fin 4) (id port : Nat) (s : State) : Host.Outcome State Fault Refusal :=
  .next (allSettle (submit (proposal 5 id (port % 256)) s))
def execPortDisable (_core : Fin 4) (id port : Nat) (s : State) : Host.Outcome State Fault Refusal :=
  .next (allSettle (submit (proposal 6 id (port % 256)) s))
def execQosSet (_core : Fin 4) (id off : Nat) (v : Word) (s : State) : Host.Outcome State Fault Refusal :=
  .next (submit (proposal 7 id (off % 2 ^ 32 + v.toNat * 2 ^ 64)) s)
def execScrubSet (_core : Fin 4) (id mask enable rate reserve : Nat) (s : State) : Host.Outcome State Fault Refusal :=
  .next (submit (proposal 8 id
    (mask % 2 ^ 16 + (enable % 256) * 2 ^ 16 + (rate % 256) * 2 ^ 24 + (reserve % 256) * 2 ^ 32)) s)
def execPin (_core : Fin 4) (id ldTag dpa size : Nat) (s : State) : Host.Outcome State Fault Refusal :=
  .next (submit (proposal 9 id (pageArgs ldTag dpa size)) s)
def execUnpin (_core : Fin 4) (id ldTag dpa size : Nat) (s : State) : Host.Outcome State Fault Refusal :=
  .next (submit (proposal 10 id (pageArgs ldTag dpa size)) s)
def execLeave (_core : Fin 4) (id : Nat) (s : State) : Host.Outcome State Fault Refusal :=
  .next (allSettle (submit (proposal 11 id 0) s))
def execHandover (_core : Fin 4) (id : Nat) (s : State) : Host.Outcome State Fault Refusal := .next (submit (proposal 12 id 0) s)
def execReload (_core : Fin 4) (id copy : Nat) (s : State) : Host.Outcome State Fault Refusal :=
  .next (allSettle (submit (proposal 13 id (copy % 256)) s))
def execRest (_core : Fin 4) (id : Nat) (s : State) : Host.Outcome State Fault Refusal := .next (submit (proposal 14 id 0) s)

/-- A proposal of any 32 bytes: refused with BAD_PROPOSAL where R426 says so. -/
def execBadProposal (_core : Fin 4) (bytes : BitVec 256) (s : State) : Host.Outcome State Fault Refusal :=
  .next (allSettle (submit bytes s))

def doGateOverrun (tail : Fin 256) (s : State) : State :=
  if s.fw.branUp then allSettle (tailWrite tail s) else s

/-- A write of QUE_GATE_TAIL by Bran (R424). -/
def execGateOverrun (_core : Fin 4) (tail : Fin 256) (s : State) : Host.Outcome State Fault Refusal :=
  .next (doGateOverrun tail s)

/-! ## Reload (R365) -/

def doReloadDrainTimeout (s : State) : State :=
  if !s.bring.reloadBusy || allDrained s then s
  else
    let s1 := timeTo (s.bring.reloadAt + 1000000000) s
    let on := s1.bring.reloadDisabled
    abandonReload (eachPort (fun p t => if on.getLsbD p then enablePort p t else t) s1)

/-- The ports have not drained within 1 s: they are enabled again and the proposal ends FAILED with DRAIN. -/
def execReloadDrainTimeout (s : State) : Host.Outcome State Fault Refusal := .next (allSettle (doReloadDrainTimeout s))

def doReloadReset (s : State) : State :=
  if !s.bring.reloadBusy || !allDrained s then s else coldBegin 2 true (writeBoot s.bring.reloadCopy s)

/-- Every port is DRAINED or in RESET: the BOOT record prefers the named copy and a reload reset starts. -/
def execReloadReset (s : State) : Host.Outcome State Fault Refusal := .next (doReloadReset s)

/-! ## Firmware restarts (R24 to R27, R423) -/

def doGermRestart (s : State) : State :=
  if s.fw.germUp then syncCrossings { s with fw := { s.fw with germUp := false } } else s

/-- Germ restarts: what waits on it is held, and its queues resynchronise until it is back (R24, R469). -/
def execGermRestart (s : State) : Host.Outcome State Fault Refusal := .next (doGermRestart s)

/-- Every walk of the assist starts again at the root. -/
def restartWalks (s : State) : State :=
  (List.range s.gate.walks.length).foldl (fun t i =>
    match t.gate.walks[i]? with
    | some w => let (w1, t1) := restartWalk w t; setWalk i w1 t1
    | none => t) s

/-- A page that RETIRE_PAGE had retired with a move that is abandoned is retired no longer. -/
def unretire (ms : List Move) (s : State) : State :=
  { s with tier := { s.tier with retired := s.tier.retired.filter fun a => !(ms.any fun m => m.retire && m.src = a) } }

/-- An accepted proposal whose move is abandoned is decided again; where no move can begin now, its action has stopped without
ending (R425 step 3). DEDUCED: R191 abandons the move and R24 fails nothing that waits on Germ (log entry 152). -/
def decideAgain (i : Nat) (s : State) : State :=
  let s1 := decide_ i s
  let v := verdictAt s1 i
  if v.status = 3 then setVerdict i 4 v.reason v.detail s1 else s1

/-- Germ is back: waits are served, walks start afresh, open moves resume or are abandoned (R191), what a copy lost is fetched or
poisoned, and proposals are taken. -/
def doGermRestartDone (s : State) : State :=
  if s.fw.germUp || s.bring.step = 0 then s
  else
    let s1 := serveWaits (syncCrossings { s with fw := { s.fw with germUp := true } })
    let gone := s.tier.moves.filter (·.step = .alloc)
    let s2 := unretire gone (resumeMoves (restartWalks s1))
    takeProposals 256 ((gone.filterMap (·.slot)).foldl (fun t i => decideAgain i t) (serveLost s2))

/-- The primary mailbox of every link after Bran has restarted: a command whose doorbell is set completes with Retry Required,
and a transfer in progress is torn (R423). -/
def mboxRestart (s : State) : State :=
  eachPort (fun p t => (List.finRange 4).foldl (fun u l =>
    let b := u.ports[p].mbox[l]
    let u1 := if b.busy then emit (.mailbox p l b.opcode 5 []) u else u
    updMbox p l (fun x => { x with
      busy := false, retCode := if x.busy then 5 else x.retCode, xferOpen := false }) u1) t) s

def doBranRestart (s : State) : State :=
  if s.bring.released || s.fw.branUp then
    mboxRestart (crossAll (fun q => lowerHalt 4 (raiseHalt 4 q)) { s with fw := { s.fw with branUp := true } })
  else s

/-- Bran restarts; its proposals keep their slots and verdicts (R27, R423), and its queues resynchronise (R469). -/
def execBranRestart (s : State) : Host.Outcome State Fault Refusal := .next (doBranRestart s)

end Sys2Proof.Machine
end

