-- ==== Sys2Proof/Machine/Queues.lean ====
section
/-! DEFINITION. Command queues (R427 to R436): the pair registers, the checks of a descriptor (R430, Table 17.8), and what each
command does from wherever it has come. -/

namespace Sys2Proof.Machine

/-! ## Pair registers (R427 to R429, Tables 17.14, 17.15) -/

/-- Who may write the registers and rings of pair `n`: function 0 of the link that carries its LD, or Germ (R427). -/
def mayWritePair (s : State) (m : Master) (n : Nat) : Bool :=
  match m with
  | .germ => true
  | .link p l => (ldRec s n).valid && p.val = n / 16 && l.val = (ldRec s n).link
  | _ => false

def offPair (n : Nat) : Nat := 0x410000 + 0x1000 * n

/-- Setting ENABLE sets the pair up afresh (R428); its recovery entries leave once it has served a plain descriptor (R435). -/
def qpSetUp (n : Nat) (s : State) : State :=
  let q := qpAt s n
  let s1 := if q.plainServed then
      { s with queue := { s.queue with recovery := s.queue.recovery.filter (·.pair ≠ n) } } else s
  setQp n { q with enable := true, sqTail := 0, sqHead := 0, cqHead := 0, cqTail := 0, phase := true, cq := [],
                   plainServed := false } s1

def doQpEnable (m : Master) (n : Fin 64) (v : Word) (s : State) : State :=
  if !mayWritePair s m n then refusedWrite blkQueue 0 m (offPair n) s
  else if flag v 0 then (if (qpAt s n).enable then s else qpSetUp n s)
  else if (qpAt s n).enable then qpDisable n false s else s

/-- A write of QP_CTL (R428). -/
def execQpEnable (m : Master) (n : Fin 64) (v : Word) (s : State) : Host.Outcome State Fault Refusal :=
  .next (doQpEnable m n v s)

def doSqTailWrite (m : Master) (n : Fin 64) (v : Word) (s : State) : State :=
  if !mayWritePair s m n then refusedWrite blkQueue 0 m (offPair n + 8) s
  else if !(qpAt s n).enable then s
  else takeDescs 64 n (updQp n (fun q => { q with sqTail := field v 0 6 }) s)

/-- A write of QP_SQ_TAIL: descriptors are submitted, and taken as the CQ has room (R429). -/
def execSqTailWrite (m : Master) (n : Fin 64) (v : Word) (s : State) : Host.Outcome State Fault Refusal :=
  .next (doSqTailWrite m n v s)

def doCqHeadWrite (m : Master) (n : Fin 64) (v : Word) (s : State) : State :=
  if !mayWritePair s m n then refusedWrite blkQueue 0 m (offPair n + 0x18) s
  else if !(qpAt s n).enable then s
  else takeDescs 64 n (updQp n (fun q => { q with cqHead := field v 0 6 }) s)

/-- A write of QP_CQ_HEAD frees completion entries (R429). -/
def execCqHeadWrite (m : Master) (n : Fin 64) (v : Word) (s : State) : Host.Outcome State Fault Refusal :=
  .next (doCqHeadWrite m n v s)

/-! ## The descriptor's own fields (Tables 17.6, 17.8) -/

def isAtomicOp (o : Nat) : Bool := 0x10 ≤ o && o ≤ 0x13

/-- The size in bytes of an atomic's operand. -/
def opBytes (o : Nat) : Nat := if o = 0x13 then 16 else 8

/-- The bytes of range that a descriptor names at its DPA. -/
def dExtent (d : Line) : Nat :=
  match dOpcode d with
  | 3 => 64 * dCount d
  | 0x30 => 2 ^ ((dOperand d).toNat % 64)
  | 0x31 => 2 ^ ((dOperand d).toNat % 64)
  | o => if isAtomicOp o then opBytes o else 4096 * dCount d

/-- COUNT is in the range of the opcode, DPA aligned, and OPERAND, COMPARE and SRC carry nothing the opcode does not use. -/
def dFieldsOk (d : Line) : Bool :=
  let o := dOpcode d
  let opd := (dOperand d).toNat
  let cmp := (dCompare d).toNat
  if o = 1 || o = 2 || o = 0x20 || o = 0x21 then
    dCount d ≠ 0 && dDpa d % 4096 = 0 && dSrc d = 0 && opd = 0 && cmp = 0
  else if o = 3 then
    dCount d ≠ 0 && dDpa d % 64 = 0 && dSrc d % 64 = 0 && opd = 0 && cmp = 0 &&
      (dDpa d + 64 * dCount d ≤ dSrc d || dSrc d + 64 * dCount d ≤ dDpa d)
  else if isAtomicOp o then
    dCount d = 0 && dSrc d = 0 && opd < 2 ^ (8 * opBytes o) &&
      cmp < (if o = 0x12 then 2 ^ 64 else if o = 0x13 then 2 ^ 128 else 1)
  else if o = 0x30 || o = 0x31 then
    dCount d = 0 && dSrc d = 0 && cmp = 0 && 12 ≤ opd && opd ≤ 44 && dDpa d % 2 ^ (opd % 64) = 0
  else if o = 0x40 then dCount d = 0 && dSrc d = 0 && opd = 0 && cmp = 0
  else if o = 0x50 then dCount d = 0 && (dSrc d < 0x14 || dSrc d = 0x20) && opd = 0 && cmp = 0
  else false

/-- A descriptor that completes BAD_DESC. -/
def badDescriptor (d : Line) : Bool :=
  3 < dFlags d || 1023 < dCmdId d || 4095 < dKey d || (!dExplicit d && dKey d ≠ 0) || 2 ^ 45 ≤ dDpa d || !dFieldsOk d

/-! ## Order within a pair (R433) -/

/-- The DPA ranges of lines that a descriptor touches. -/
def dTouches (d : Line) : List (Nat × Nat) :=
  if badDescriptor d then []
  else match dOpcode d with
    | 1 => [(dDpa d, 4096 * dCount d)]
    | 2 => [(dDpa d, 4096 * dCount d)]
    | 3 => [(dDpa d, 64 * dCount d), (dSrc d, 64 * dCount d)]
    | o => if isAtomicOp o then [(lineBase (dDpa d), 64)] else []

/-- What the pair took before a descriptor and has not completed. -/
def earlier (s : State) (n i : Nat) : List Taken := (qpAt s n).taken.takeWhile (·.cmd ≠ i)

/-- An earlier descriptor of the pair touches one of its lines. -/
def behind (s : State) (n i : Nat) (d : Line) : Bool :=
  (earlier s n i).any fun u => (dTouches u.desc).any fun (a : Nat × Nat) => (dTouches d).any fun (b : Nat × Nat) =>
    a.1 < b.1 + b.2 && b.1 < a.1 + a.2

/-! ## Admission and the checks of R430 -/

/-- The key index a descriptor carries, where it is known: its own, or the default of the region of its DPA. -/
def dKeyIndex (s : State) (n : Nat) (d : Line) : Option Nat :=
  if dExplicit d then some (dKey d) else (regionAt s n (dDpa d)).map (defaultKey s n)

/-- The access type of a command (Table 18.13). -/
def dAccess (d : Line) : Nat :=
  let o := dOpcode d
  if isAtomicOp o then 4 else if o ≤ 3 then 1 else 7

/-- Step 1: a command asks for admission at its LD's port, in the class of its key slot. -/
def seekAdmission (par : Parity) (n i : Nat) (d : Line) (s : State) : State :=
  let p := port4 (n / 16)
  let waits (r : OpenReq) : Bool := match r.req.src with
    | .cq m c _ => m = n && c = i
    | _ => false
  if s.ports[p].reqs.any waits then s
  else
    let (rid, s1) := takeSeq s
    let key := (dKeyIndex s n d).getD 0
    let op : HomeOp := if (dLines d).2 = 0 then .cqRead else .cqWrite
    let q : Req := { rawReq rid (.cq n i 0) n op 0 0 0 false with
      dpa := dDpa d, region := ((regionAt s n (dDpa d)).map (·.number)).getD 0, key := key,
      cls := if (dKeyIndex s n d).isSome then (slotCopy s p key).cls else 0, par := par }
    pumpIngress p (updPort p (fun o => { o with reqs := o.reqs ++ [⟨q, .ingress, false, false, false, false⟩] }) (ungate (domPort p) s1))

/-- The regions that DPA and SRC must lie in are reached, with the whole extent inside (step 2). -/
def dInRange (s : State) (n : Nat) (d : Line) : Bool :=
  (rangeRegion s n (dDpa d) (dExtent d)).isSome && (dOpcode d ≠ 3 || (rangeRegion s n (dSrc d) (dExtent d)).isSome)

/-- The opcode's own check (step 4). -/
def dElasticOk (s : State) (n : Nat) (d : Line) : Bool :=
  let o := dOpcode d
  !(o = 2 || o = 0x20 || o = 0x21) || (regionAt s n (dDpa d)).any (·.elastic)

/-- Steps 2 to 4 for an admitted command; it starts when they pass. -/
def checkDesc (par : Parity) (n i : Nat) (t : Taken) (s : State) : State :=
  if !dInRange s n t.desc then complete n i (fin 5 0) s
  else
    let key := (dKeyIndex s n t.desc).getD 0
    let c : Cap := ⟨dDpa t.desc, 2, n, dAccess t.desc, some key⟩
    let (found, s1) := stageParity blkCrypt 7 6 true (parityAt par .key) s
    match found with
    | .fatal => fatalParity blkCrypt 7 c s1
    | _ =>
      let bad := found = .contained
      let s2 := if bad then raise blkCrypt 6 c s1 else s1
      if !(bad || t.contained) && !keyAdmits s2 n key then complete n i (fin 1 0) (raise blkCrypt 1 c s2)
      else if !dElasticOk s2 n t.desc then complete n i (fin 9 0) s2
      else updTaken n i (fun u => { u with started := true, key := key, contained := u.contained || bad }) s2

/-- A recorded result for a resubmitted atomic (R435). -/
def recorded (s : State) (n : Nat) (d : Line) : Option Recovery :=
  if dResubmit d && isAtomicOp (dOpcode d) then
    s.queue.recovery.find? fun r => r.pair = n && r.cmd = dCmdId d
  else none

/-- A taken descriptor that has not started: its fields, then for what names a DPA the recovery list and R430. -/
def startDesc (par : Parity) (n i : Nat) (t : Taken) (s : State) : State :=
  let o := dOpcode t.desc
  let (found, s0) := stageParity blkQueue 2 1 true (parityAt par .port) s
  match found with
  | .fatal => fatalParity blkQueue 2 ⟨dDpa t.desc, 2, n, dAccess t.desc, none⟩ s0
  | _ =>
    let s1 := if found = .contained then
        updTaken n i (fun u => { u with contained := true }) (raise blkQueue 1 ⟨dDpa t.desc, 2, n, dAccess t.desc, none⟩ s0)
      else s0
    if badDescriptor t.desc then complete n i (fin 4 0) s1
    else if o = 0x40 || o = 0x50 then updTaken n i (fun u => { u with started := true }) s1
    else match recorded s1 n t.desc with
      | some r => complete n i ⟨0, 1, r.result, r.casOk, true⟩ s1
      | none =>
        if behind s1 n i t.desc then s1
        else
          let s2 := if t.admitted then s1 else seekAdmission par n i t.desc s1
          match takenOf s2 n i with
          | some u => if u.admitted then checkDesc par n i u s2 else s2
          | none => s2

/-- One advance of the taken descriptor `i` of pair `n`, if its opcode is `op`: its start, then what the command does. `par` is
the parity of its control fields (R21). -/
def cqRun (op : Nat) (par : Parity) (n i : Nat) (go : Taken → State → State) (s : State) : State :=
  if halted s then s
  else
    let s0 := takeDescs 64 n s
    match takenOf s0 n i with
    | none => s0
    | some t =>
      if dOpcode t.desc ≠ op then s0
      else
        let s1 := if t.started || !pairServes s0 n then s0 else startDesc par n i t s0
        match takenOf s1 n i with
        | some u => if u.started && !halted s1 then go u s1 else s1
        | none => s1

/-! ## Pages as a command finds them -/

/-- A page: its leaf, none, or a walk fault (R73). -/
inductive PageLook where
  | leaf (e : Word)
  | unbacked
  | fault
deriving DecidableEq, Repr

/-- The walk of a command's page from the root; `fuel` is the number of levels. -/
def cqWalk : Nat → Nat → Nat → Nat → Nat → Nat → State → PageLook × State
  | 0, _, _, _, _, _, s => (.fault, s)
  | fuel + 1, ldTag, dpa, key, level, table, s =>
    let a := entryAddr table level ldTag dpa
    match readEntry a idWalk 0 s with
    | (none, s1) => (.fault, s1)
    | (some e, s1) =>
      if !eValid e then (.unbacked, s1)
      else match checkEntry s1 level e with
        | some b => (.fault, raise blkSheaf b ⟨a, 1, idCq, 7, some key⟩ s1)
        | none => if eLeaf e then (.leaf e, s1) else cqWalk fuel ldTag dpa key (level - 1) (eAddr e) s1

def cqPage (ldTag dpa key : Nat) (s : State) : PageLook × State := cqWalk 5 ldTag dpa key 4 (rootTable s) s

/-- An explicit key counts as a non-zero alias (R64, R430). -/
def policyRefuses (t : Taken) (e : Word) : Bool := dExplicit t.desc && ePolicy e && !t.contained

/-- A command stops at its unit with a status (R432). -/
def stopAt (n i status : Nat) (t : Taken) (s : State) : State :=
  disownAll (.command n i) (complete n i (fin status t.unit) s)

def policyStop (n i : Nat) (t : Taken) (dpa : Nat) (s : State) : State :=
  stopAt n i 6 t (raise blkSheaf 5 ⟨dpa, 2, idCq, dAccess t.desc, some t.key⟩ s)

/-! ## ZERO and DISCARD (R196) -/

/-- Another ZERO or DISCARD is blanking the page (R190). -/
def pageTaken (s : State) (n i dpa : Nat) : Bool :=
  (List.range 64).any fun m => (qpAt s m).taken.any fun u =>
    (m ≠ n || u.cmd ≠ i) && (u.wait = 2 || u.wait = 6) && dDpa u.desc + 4096 * u.unit = dpa && regionAt s m dpa = regionAt s n dpa

/-- A move is open on the page of an LD. -/
def pageMoving (s : State) (n dpa : Nat) : Bool := (regionAt s n dpa).any fun r => moveOpen s r dpa

/-- The pages of a ZERO or DISCARD in ascending order, as far as they can go: each is held, recalled, blanked and released,
then mirrored as RESYNC_ZERO (R306), and a plain page of an elastic region moves to a packed one. -/
def blankPages : Nat → Nat → Nat → State → State
  | 0, _, _, s => s
  | fuel + 1, n, i, s =>
    match takenOf s n i with
    | none => s
    | some t =>
      let dpa := dDpa t.desc + 4096 * t.unit
      let next (u : State) : State :=
        blankPages fuel n i (updTaken n i (fun x => { x with unit := x.unit + 1, wait := 0 }) u)
      if dCount t.desc ≤ t.unit then complete n i (fin 0 (dCount t.desc)) s
      else if t.wait = 6 then (if pageMoving s n dpa then s else next s)
      else if t.wait = 0 && (pageMoving s n dpa || pageTaken s n i dpa) then s
      else match cqPage n dpa t.key s with
        | (.fault, s1) => stopAt n i 8 t s1
        | (.unbacked, s1) => next s1
        | (.leaf e, s1) =>
          if policyRefuses t e then policyStop n i t dpa s1
          else match blankPageStep (.command n i) n dpa s1 with
            | (.waits, s2) => updTaken n i (fun x => { x with wait := 2 }) s2
            | (.done, s2) =>
              let s3 := if pairMode s2 then queueTil (.resyncZero n dpa) s2 else s2
              blankPages fuel n i (updTaken n i (fun x => { x with wait := 6 }) s3)

/-- ZERO and DISCARD wait while Germ restarts (R433). -/
def blankGo (n i : Nat) (t : Taken) (s : State) : State :=
  if !s.fw.germUp then s else blankPages (2 * dCount t.desc + 1) n i s

def execZero (n : Fin 64) (i : Nat) (par : Parity) (s : State) : Host.Outcome State Fault Refusal :=
  .next (allSettle (cqRun 0x01 par n i (fun t u => blankGo n i t u) s))

def execDiscard (n : Fin 64) (i : Nat) (par : Parity) (s : State) : Host.Outcome State Fault Refusal :=
  .next (allSettle (cqRun 0x02 par n i (fun t u => blankGo n i t u) s))

/-! ## Line accesses -/

/-- A line access of a started command meets the Sheaf of its LD's port (R430 step 5). -/
def sendAccess (par : Parity) (n i : Nat) (t : Taken) (op : HomeOp) (dpa : Nat) (data : Line) (poison : Bool) (s : State) : State :=
  let p := port4 (n / 16)
  let (rid, s1) := takeSeq s
  let q : Req := { rawReq rid (.cq n i t.unit) n op 0 data 0 poison with
    dpa := dpa, region := ((regionAt s n dpa).map (·.number)).getD 0, aliasF := bit (dExplicit t.desc), key := t.key,
    cls := (slotCopy s p t.key).cls, contained := t.contained, par := par }
  let s2 := updTaken n i (fun x => { x with wait := 1 }) s1
  translate p q (updPort p (fun o => { o with reqs := o.reqs ++ [⟨q, .ingress, false, false, false, true⟩] }) (ungate (domPort p) s2))

/-- COPY: the next line is read at its source, and a line in hand is written whole at its destination (Table 17.8, R432). -/
def copyGo (par : Parity) (n i : Nat) (t : Taken) (s : State) : State :=
  match t.wait with
  | 0 => sendAccess par n i t .cqRead (dSrc t.desc + 64 * t.unit) 0 false s
  | 4 => sendAccess par n i t .cqWrite (dDpa t.desc + 64 * t.unit) (t.buf.getD 0) false s
  | 5 => sendAccess par n i t .cqWrite (dDpa t.desc + 64 * t.unit) 0 true s
  | _ => s

def execCopy (n : Fin 64) (i : Nat) (par : Parity) (s : State) : Host.Outcome State Fault Refusal :=
  .next (allSettle (cqRun 0x03 par n i (fun t u => copyGo par n i t u) s))

/-- An atomic goes to the home of its line (R107). -/
def atomicGo (par : Parity) (kind : AtomicKind) (n i : Nat) (t : Taken) (s : State) : State :=
  if t.wait = 0 then
    sendAccess par n i t (.atomic kind (dOperand t.desc) (dCompare t.desc) (dDpa t.desc % 64)) (dDpa t.desc) 0 false s
  else s

def execFetchAdd (n : Fin 64) (i : Nat) (par : Parity) (s : State) : Host.Outcome State Fault Refusal :=
  .next (allSettle (cqRun 0x10 par n i (fun t u => atomicGo par .fetchAdd n i t u) s))
def execSwap (n : Fin 64) (i : Nat) (par : Parity) (s : State) : Host.Outcome State Fault Refusal :=
  .next (allSettle (cqRun 0x11 par n i (fun t u => atomicGo par .swap n i t u) s))
def execCas8 (n : Fin 64) (i : Nat) (par : Parity) (s : State) : Host.Outcome State Fault Refusal :=
  .next (allSettle (cqRun 0x12 par n i (fun t u => atomicGo par .cas8 n i t u) s))
def execCas16 (n : Fin 64) (i : Nat) (par : Parity) (s : State) : Host.Outcome State Fault Refusal :=
  .next (allSettle (cqRun 0x13 par n i (fun t u => atomicGo par .cas16 n i t u) s))

/-! ## Hints (R186) -/

/-- The page has an entry in the hot table of a home. -/
def hotKnown (s : State) (k : Fin 8) (ldTag page : Nat) : Bool :=
  let set := Config.hotHash ldTag page % 1024
  (List.range 4).any fun w => (kfind s.spks[k].hot (4 * set + w)).any fun e => e.ldTag = ldTag && e.page = page

/-- HINT_HOT adds 0x100 to a page's COUNT, entering the page if absent; HINT_COLD makes the COUNT of one that is there 0. -/
def hintPage (hot : Bool) (ldTag dpa : Nat) (e : Word) (s : State) : State :=
  let k := spkOf (linesAt s dpa e)
  let pg := dpa >>> 12
  if hot then hotTouch k ldTag pg (eTier e = 1) 0x100 (· + 0x100) s
  else if hotKnown s k ldTag pg then hotTouch k ldTag pg (eTier e = 1) 0 (fun _ => 0) s
  else s

/-- The pages of a hint in ascending order; a page without backing has no home and is passed over. A page that
the Sheaf of the LD's port does not cover waits for Germ (R24, R433). -/
def hintPages (hot : Bool) : Nat → Nat → Nat → State → State
  | 0, _, _, s => s
  | fuel + 1, n, i, s =>
    match takenOf s n i with
    | none => s
    | some t =>
      let dpa := dDpa t.desc + 4096 * t.unit
      let next (u : State) : State := hintPages hot fuel n i (updTaken n i (fun x => { x with unit := x.unit + 1 }) u)
      if dCount t.desc ≤ t.unit then complete n i (fin 0 (dCount t.desc)) s
      else if !s.fw.germUp && (sheafHit s (port4 (n / 16)) n dpa).isNone then s
      else match cqPage n dpa t.key s with
        | (.fault, s1) => stopAt n i 8 t s1
        | (.unbacked, s1) => next s1
        | (.leaf e, s1) => if policyRefuses t e then policyStop n i t dpa s1 else next (hintPage hot n dpa e s1)

def execHintHot (n : Fin 64) (i : Nat) (par : Parity) (s : State) : Host.Outcome State Fault Refusal :=
  .next (allSettle (cqRun 0x20 par n i (fun t u => hintPages true (dCount t.desc + 1) n i u) s))
def execHintCold (n : Fin 64) (i : Nat) (par : Parity) (s : State) : Host.Outcome State Fault Refusal :=
  .next (allSettle (cqRun 0x21 par n i (fun t u => hintPages false (dCount t.desc + 1) n i u) s))

/-! ## PIN and UNPIN (R431) -/

def pinGo (on : Bool) (n i : Nat) (t : Taken) (s : State) : State :=
  let dpa := dDpa t.desc
  let size := (dOperand t.desc).toNat % 64
  if !s.fw.germUp then s
  else match rangeRegion s n dpa (2 ^ size) with
    | none => complete n i (fin 5 0) s
    | some r =>
      if on then
        match pinRange n dpa size r s with
        | some s1 => complete n i (fin 0 0) s1
        | none => complete n i (fin 11 0) s
      else complete n i (fin 0 0) (unpinRange n dpa size r s)

def execCqPin (n : Fin 64) (i : Nat) (par : Parity) (s : State) : Host.Outcome State Fault Refusal :=
  .next (allSettle (cqRun 0x30 par n i (fun t u => pinGo true n i t u) s))
def execCqUnpin (n : Fin 64) (i : Nat) (par : Parity) (s : State) : Host.Outcome State Fault Refusal :=
  .next (allSettle (cqRun 0x31 par n i (fun t u => pinGo false n i t u) s))

/-! ## FLUSH, LOOPBACK and what completes BAD_DESC -/

/-- FLUSH completes once every earlier descriptor of the pair has completed (R433). -/
def flushGo (n i : Nat) (s : State) : State := if (earlier s n i).isEmpty then complete n i (fin 0 0) s else s

def execFlush (n : Fin 64) (i : Nat) (s : State) : Host.Outcome State Fault Refusal :=
  .next (allSettle (cqRun 0x40 .good n i (fun _ u => flushGo n i u) s))

/-- The group is in the state that its test needs (R436). -/
def groupFree (s : State) (g : Nat) : Bool :=
  if g < 0x10 then s.mcs[mc16 g].state = .off || s.mcs[mc16 g].state = .failed
  else if g < 0x14 then tilIsHeld s
  else s.pair.role = .none

/-- The bits of a failure map that Table 21.5 names for a group; the others read 0 (R483). -/
def loopbackBits (g : Nat) : BitVec 128 :=
  if g < 0x10 then BitVec.ofNat 128 (2 ^ 127 - 1) else if g < 0x14 then 0xFF else 3

/-- LOOPBACK: `failures` is the failure map that the test of the group finds (R436, R483). -/
def loopbackGo (n i : Nat) (failures : BitVec 128) (t : Taken) (s : State) : State :=
  let found := failures &&& loopbackBits (dSrc t.desc)
  if !groupFree s (dSrc t.desc) then complete n i (fin 12 0) s
  else complete n i ⟨if found = 0 then 0 else 13, 0, found, false, false⟩ s

def execLoopback (n : Fin 64) (i : Nat) (failures : BitVec 128) (s : State) : Host.Outcome State Fault Refusal :=
  .next (allSettle (cqRun 0x50 .good n i (fun t u => loopbackGo n i failures t u) s))

def doBadDesc (n i : Nat) (s : State) : State :=
  let s0 := takeDescs 64 n s
  match takenOf s0 n i with
  | some t => if !t.started && pairServes s0 n && badDescriptor t.desc then complete n i (fin 4 0) s0 else s0
  | none => s0

/-- A descriptor whose fields Table 17.8 does not allow completes BAD_DESC before any step of R430. -/
def execBadDesc (n : Fin 64) (i : Nat) (s : State) : Host.Outcome State Fault Refusal := .next (doBadDesc n i s)

end Sys2Proof.Machine
end

