-- ==== Sys2Proof/Machine/Mailbox.lean ====
section
/-! DEFINITION. The CXL mailbox (R48, R49, Table 2.5), its firmware commands (R363, R364) and Bran's writes to boot flash. Return
codes, payload layouts and log identifiers are those of CXL 3.1 (log entry 33); what it leaves to the device is free. -/

namespace Sys2Proof.Machine

/-! ## Return codes of CXL 3.1 (log entry 33) -/

def rcSuccess : Nat := 0
def rcBackground : Nat := 1
def rcInvalidInput : Nat := 2
def rcUnsupported : Nat := 3
def rcInternal : Nat := 4
def rcBusy : Nat := 6
def rcXferOrder : Nat := 9
def rcVerifyFailed : Nat := 10
def rcInvalidSlot : Nat := 11
def rcInvalidHandle : Nat := 14
def rcInvalidAddress : Nat := 15
def rcAborted : Nat := 18

/-- What a command answers: return code, payload, state. -/
structure MboxDone where
  code : Nat
  payload : List Byte
  state : State
deriving DecidableEq, Repr

def mboxOk (payload : List Byte) (s : State) : MboxDone := ⟨rcSuccess, payload, s⟩
def mboxFail (code : Nat) (s : State) : MboxDone := ⟨code, [], s⟩

/-- `n` bytes, at most 64, whose values no rule states (log entry 4). -/
def freeBytes (n : Nat) (s : State) : List Byte × State :=
  (natToBytes n (Config.payload s.free).toNat, { s with free := s.free + 1 })

def mboxFree (n : Nat) (s : State) : MboxDone :=
  let (bs, s1) := freeBytes n s
  mboxOk bs s1

/-- The opcodes that are served while Germ serves the mailbox (R341, R378). -/
def germOpcodes : List Nat := [0x0001, 0x0200, 0x0201, 0x0202, 0x0400, 0x0401]

/-- Recovery mode, or bring-up that has failed: Germ serves the mailbox. -/
def germServes (s : State) : Bool := s.bring.step = 10 || s.bring.step = 11

/-- Whether a command can be rung: its link is up and out of reset, and the mailbox is ready. -/
def mboxReachable (s : State) (p l : Fin 4) : Bool :=
  s.ports[p].links[l].up && s.ports[p].state ≠ .reset && s.bring.mboxReady && !s.ports[p].mbox[l].busy

/-- A mailbox command: the doorbell is set, and Bran, or Germ in its place, completes it (R48, R423). -/
def mailbox (p l : Fin 4) (opcode : Nat) (f : State → MboxDone) (s : State) : State :=
  if !mboxReachable s p l then s
  else if !germServes s && !s.fw.branUp then updMbox p l (fun b => { b with busy := true, opcode := opcode }) s
  else
    let d := if germServes s && !germOpcodes.contains opcode then mboxFail rcUnsupported s else f s
    emit (.mailbox p l opcode d.code d.payload)
      (updMbox p l (fun b => { b with opcode := opcode, retCode := d.code }) d.state)

/-! ## Generic commands -/

def execIdentify (p l : Fin 4) (s : State) : Host.Outcome State Fault Refusal :=
  .next (mailbox p l 0x0001 (fun t => mboxFree 18 t) s)

def execGetResponseMessageLimit (p l : Fin 4) (s : State) : Host.Outcome State Fault Refusal :=
  .next (mailbox p l 0x0003 (fun t => mboxFree 1 t) s)

/-! ## Event records -/

/-- Bran may have logged an event since the last look: whether, and which, no rule states (log entry 4). The code of a record
is the log it is in. -/
def logEvents (p l : Fin 4) (s : State) : State :=
  let (c, s1) := drawChoice 5 s
  if c = 0 then s1
  else
    let (h, s2) := takeSeq s1
    updMbox p l (fun b => { b with events := b.events ++ [⟨h, c - 1, s2.dtime⟩] }) s2

/-- The timestamp of the mailbox at a DTIME: 0 until Set Timestamp. -/
def stampAt (b : Mailbox) (t : Nat) : Nat := if b.timestamp = 0 then 0 else b.timestamp + (t - b.timestampAt)

/-- An event record of 128 bytes: handle and timestamp; its identifier and data are stated by no rule (log entry 17). -/
def eventBytes (b : Mailbox) (e : EventRec) (s : State) : List Byte × State :=
  let (u, s1) := freeBytes 16 s
  let (d1, s2) := freeBytes 64 s1
  let (d2, s3) := freeBytes 16 s2
  (u ++ natToBytes 1 128 ++ natToBytes 3 e.code ++ natToBytes 2 e.handle ++ natToBytes 2 0 ++ natToBytes 8 (stampAt b e.time) ++
    natToBytes 16 0 ++ d1 ++ d2, s3)

def eventsBytes (b : Mailbox) : List EventRec → State → List Byte × State
  | [], s => ([], s)
  | e :: es, s =>
    let (x, s1) := eventBytes b e s
    let (xs, s2) := eventsBytes b es s1
    (x ++ xs, s2)

/-- Get Event Records: the records of one log, in order of arrival, none lost. -/
def getEvents (p l : Fin 4) (log : Nat) (s : State) : MboxDone :=
  if 3 < log then mboxFail rcInvalidInput s
  else
    let s1 := logEvents p l s
    let es := s1.ports[p].mbox[l].events.filter (·.code = log)
    let (body, s2) := eventsBytes s1.ports[p].mbox[l] es s1
    mboxOk (natToBytes 20 0 ++ natToBytes 2 es.length ++ natToBytes 10 0 ++ body) s2

def execGetEventRecords (p l : Fin 4) (log : Nat) (s : State) : Host.Outcome State Fault Refusal :=
  .next (mailbox p l 0x0100 (fun t => getEvents p l log t) s)

/-- Clear Event Records: every record of a log, or those with the handles given, each of which must be there. -/
def clearEvents (p l : Fin 4) (log : Nat) (all : Bool) (handles : List Nat) (s : State) : MboxDone :=
  let es := s.ports[p].mbox[l].events
  let put (r : List EventRec) : State := updMbox p l (fun b => { b with events := r }) s
  if 3 < log then mboxFail rcInvalidInput s
  else if all then mboxOk [] (put (es.filter (·.code ≠ log)))
  else if !handles.all (fun h => es.any fun e => e.code = log && e.handle = h) then mboxFail rcInvalidHandle s
  else mboxOk [] (put (es.filter fun e => e.code ≠ log || !handles.contains e.handle))

def execClearEventRecords (p l : Fin 4) (log : Nat) (all : Bool) (handles : List Nat) (s : State) :
    Host.Outcome State Fault Refusal := .next (mailbox p l 0x0101 (fun t => clearEvents p l log all handles t) s)

/-- No log has an interrupt (Table 2.5). -/
def execGetEventInterruptPolicy (p l : Fin 4) (s : State) : Host.Outcome State Fault Refusal :=
  .next (mailbox p l 0x0102 (fun t => mboxOk (natToBytes 5 0) t) s)

/-- Only with every log set to no interrupts. -/
def execSetEventInterruptPolicy (p l : Fin 4) (modes : List Nat) (s : State) : Host.Outcome State Fault Refusal :=
  .next (mailbox p l 0x0103 (fun t => if modes.all (· = 0) then mboxOk [] t else mboxFail rcInvalidInput t) s)

/-! ## Firmware (Table 2.5, R363, R364, R423) -/

/-- Slots 1 and 2 are the copies A and B; the running one cannot be written. -/
def slotCopyB (slot : Nat) : Option Bool := if slot = 1 then some false else if slot = 2 then some true else none

/-- The letter is that of the running copy. -/
def isRunning (s : State) (b : Bool) : Bool := s.img.isSome && s.imgCopyB = b

/-- Slots, the running and the preferred one, and that online activation is supported. -/
def fwInfo (s : State) : MboxDone :=
  let active := if s.img.isSome then (if s.imgCopyB then 2 else 1) else 0
  let staged := match bootPrefers s with
    | some b => if isRunning s b then 0 else if b then 2 else 1
    | none => 0
  let (rev, s1) := freeBytes 64 s
  mboxOk ([2, BitVec.ofNat 8 (active + 8 * staged), 1] ++ natToBytes 13 0 ++ rev) s1

def execGetFwInfo (p l : Fin 4) (s : State) : Host.Outcome State Fault Refusal :=
  .next (mailbox p l 0x0200 (fun t => fwInfo t) s)

/-- A package as Transfer FW counts its bytes: the image copy's 1 MiB, then the Bran copy's 12 MiB (log entry 35). -/
def packageSize : Nat := 0xD00000

/-- The flash offset of a byte of a package. -/
def packageOff (b : Bool) (o : Nat) : Nat := if o < 0x100000 then imageOff b + o else branOff b + (o - 0x100000)

/-- Bytes of a package written to the flash copy of a letter. -/
def writePackage (b : Bool) (o : Nat) (bs : List Byte) (s : State) : State :=
  let n := 0x100000 - o
  flashPut (packageOff b (o + min n bs.length)) (bs.drop n) (flashPut (packageOff b o) (bs.take n) s)

/-- Transfer FW: actions 0 full, 1 initiate, 2 continue, 3 end, 4 abort. A part must follow the one before it. -/
def transfer (p l : Fin 4) (action slot off : Nat) (bytes : List Byte) (s : State) : MboxDone :=
  let b := s.ports[p].mbox[l]
  let store (letter opened : Bool) : MboxDone :=
    mboxOk [] (updMbox p l (fun x => { x with
      xferOpen := opened, xferCopy := slot, xferOff := off + bytes.length }) (writePackage letter off bytes s))
  match slotCopyB slot with
  | none => mboxFail rcInvalidSlot s
  | some letter =>
    if isRunning s letter then mboxFail rcInvalidSlot s
    else if packageSize < off + bytes.length then mboxFail rcInvalidInput s
    else match action with
      | 0 => if off = 0 then store letter false else mboxFail rcXferOrder s
      | 1 => if off = 0 then store letter true else mboxFail rcXferOrder s
      | 2 => if b.xferOpen && b.xferCopy = slot && b.xferOff = off then store letter true else mboxFail rcXferOrder s
      | 3 => if b.xferOpen && b.xferCopy = slot && b.xferOff = off then store letter false else mboxFail rcXferOrder s
      | 4 =>
        if b.xferOpen then mboxOk [] (updMbox p l (fun x => { x with xferOpen := false, xferOff := 0 }) s)
        else mboxFail rcAborted s
      | _ => mboxFail rcInvalidInput s

def execTransferFw (p l : Fin 4) (action slot off : Nat) (bytes : List Byte) (s : State) :
    Host.Outcome State Fault Refusal := .next (mailbox p l 0x0201 (fun t => transfer p l action slot off bytes t) s)

/-- A copy as R364 compares it, read to the end of its slot at most: the header without IMAGE_SEQ, and every section but BRAN
and OSIG. -/
def copyBare (s : State) (b : Bool) : List Byte × Option (List Sect) :=
  let hdr := flashRead s (imageOff b) 256
  let bs := flashRead s (imageOff b) (min (le hdr 136 4) 0x100000)
  (bs.take 128 ++ (bs.drop 136).take 120, (sections 64 256 (bs.drop 256)).map fun ss => ss.filter fun x => x.type ≠ 0x10A && x.type ≠ 0x1FF)

/-- The copy of a letter becomes the running one, and Bran restarts from it (R364 steps 1 to 3). -/
def switchCopy (b : Bool) (i : SolvikImage) (digest : BitVec 384) (s : State) : State :=
  writeBoot b (mboxRestart (startBran { s with
    img := some i, imgDigest := digest, imgCopyB := b, bring := { s.bring with running := if b then 2 else 1 } }))

/-- Activate FW (Table 2.5, R364): online, or by the BOOT record for the next cold reset; a torn copy is refused under R360
(R423). -/
def activateCopy (online : Bool) (slot : Nat) (s : State) : MboxDone :=
  match slotCopyB slot with
  | none => mboxFail (if online then rcInvalidInput else rcInvalidSlot) s
  | some b =>
    match checkCopy s b with
    | .refused _ => mboxFail (if online then rcInvalidInput else rcVerifyFailed) s
    | .ok i d =>
      if !online then mboxOk [] (writeBoot b s)
      else if germServes s || s.img.isNone || isRunning s b || copyBare s b ≠ copyBare s s.imgCopyB then mboxFail rcInvalidInput s
      else mboxOk [] (switchCopy b i d s)

def execActivateFw (p l : Fin 4) (online : Bool) (slot : Nat) (s : State) : Host.Outcome State Fault Refusal :=
  .next (mailbox p l 0x0202 (fun t => activateCopy online slot t) s)

/-- Where Bran may write the flash: the BOOT record, and the image and Bran copies that do not run (R363). -/
def branMayWrite (s : State) (off n : Nat) : Bool :=
  let inside (lo size : Nat) : Bool := lo ≤ off && off + n ≤ lo + size
  inside 0 0x1000 ||
    [false, true].any fun b => !isRunning s b && (inside (imageOff b) 0x100000 || inside (branOff b) 0xC00000)

def doBootFlashWrite (core : Fin 4) (off : Nat) (bytes : List Byte) (s : State) : State :=
  if !s.fw.branUp then s
  else if branMayWrite s off bytes.length then flashPut off bytes s
  else emit (.busError (.bran core) off) s

/-- A write of Bran to boot flash: performed, or completed with a bus error (R363). -/
def execBootFlashWrite (core : Fin 4) (off : Nat) (bytes : List Byte) (s : State) : Host.Outcome State Fault Refusal :=
  .next (doBootFlashWrite core off bytes s)

/-! ## Timestamp and logs -/

/-- The time set, and what has passed since; 0 while none has been set. -/
def execGetTimestamp (p l : Fin 4) (s : State) : Host.Outcome State Fault Refusal :=
  .next (mailbox p l 0x0300 (fun t =>
    let b := t.ports[p].mbox[l]
    mboxOk (natToBytes 8 (stampAt b t.dtime)) t) s)

def execSetTimestamp (p l : Fin 4) (ns : Nat) (s : State) : Host.Outcome State Fault Refusal :=
  .next (mailbox p l 0x0301 (fun t =>
    mboxOk [] (updMbox p l (fun b => { b with timestamp := ns % 2 ^ 64, timestampAt := t.dtime }) t)) s)

/-- The opcodes of Table 2.5 that are supported. -/
def mboxOpcodes : List Nat :=
  [0x0001, 0x0002, 0x0003, 0x0100, 0x0101, 0x0102, 0x0103, 0x0200, 0x0201, 0x0202, 0x0300, 0x0301, 0x0400, 0x0401] ++
  [0x4000, 0x4100, 0x4200, 0x4201, 0x4202, 0x4203, 0x4204, 0x4300, 0x4301, 0x4302, 0x4303, 0x4304, 0x4305, 0x4400, 0x4401] ++
  [0x5400, 0x5401]

/-- The Command Effects Log: four bytes for each opcode that the mailbox serves. -/
def effectsLog (s : State) : List Byte :=
  (if germServes s then germOpcodes else mboxOpcodes).flatMap fun o => natToBytes 2 o ++ natToBytes 2 (Config.commandEffects o).toNat

/-- The identifier of the Command Effects Log in the standard (log entry 33). -/
def celUuid : List Byte :=
  [0x0D, 0xA9, 0xC0, 0xB5, 0xBF, 0x41, 0x4B, 0x78, 0x8F, 0x79, 0x96, 0xB1, 0x62, 0x3B, 0x3F, 0x17]

def execGetSupportedLogs (p l : Fin 4) (s : State) : Host.Outcome State Fault Refusal :=
  .next (mailbox p l 0x0400 (fun t =>
    mboxOk (natToBytes 8 1 ++ celUuid ++ natToBytes 4 (effectsLog t).length) t) s)

def execGetLog (p l : Fin 4) (off len : Nat) (s : State) : Host.Outcome State Fault Refusal :=
  .next (mailbox p l 0x0401 (fun t =>
    if (effectsLog t).length < off + len then mboxFail rcInvalidInput t
    else mboxOk (((effectsLog t).drop off).take len) t) s)

/-! ## The memory device -/

/-- The LDs that a link carries, as LD tags. -/
def linkLdTags (s : State) (p l : Fin 4) : List Nat :=
  ((List.range 16).map (16 * p.val + ·)).filter fun t => (ldRec s t).valid && (ldRec s t).link = l.val

/-- Bytes of the regions that an LD reaches. -/
def ldBytes (s : State) (t : Nat) : Nat := (((regions s).filter fun r => ldReaches t r).map fun r => 2 ^ r.size).sum

/-- Volatile capacity that a link's LDs reach, in the standard's units of 256 MiB (log entry 33). -/
def linkUnits (s : State) (p l : Fin 4) : Nat := ((linkLdTags s p l).map fun t => ldBytes s t).sum / 2 ^ 28

/-- Identify Memory Device: all capacity is volatile. -/
def identifyMemory (p l : Fin 4) (s : State) : MboxDone :=
  let n := linkUnits s p l
  let (a, s1) := freeBytes 16 s
  let (b, s2) := freeBytes 27 s1
  mboxOk (a ++ natToBytes 8 n ++ natToBytes 8 n ++ natToBytes 8 0 ++ b) s2

def execIdentifyMemoryDevice (p l : Fin 4) (s : State) : Host.Outcome State Fault Refusal :=
  .next (mailbox p l 0x4000 (fun t => identifyMemory p l t) s)

/-- Active and next volatile capacity, and no persistent one. -/
def execGetPartitionInfo (p l : Fin 4) (s : State) : Host.Outcome State Fault Refusal :=
  .next (mailbox p l 0x4100 (fun t =>
    mboxOk (natToBytes 8 (linkUnits t p l) ++ natToBytes 8 0 ++ natToBytes 8 (linkUnits t p l) ++ natToBytes 8 0) t) s)

def execGetHealthInfo (p l : Fin 4) (s : State) : Host.Outcome State Fault Refusal :=
  .next (mailbox p l 0x4200 (fun t => mboxFree 18 t) s)

def execGetAlertConfiguration (p l : Fin 4) (s : State) : Host.Outcome State Fault Refusal :=
  .next (mailbox p l 0x4201 (fun t => mboxOk (natToBytes 8 t.ports[p].mbox[l].alerts.toNat) t) s)

def execSetAlertConfiguration (p l : Fin 4) (v : Word) (s : State) : Host.Outcome State Fault Refusal :=
  .next (mailbox p l 0x4202 (fun t => mboxOk [] (updMbox p l (fun b => { b with alerts := v }) t)) s)

def execGetShutdownState (p l : Fin 4) (s : State) : Host.Outcome State Fault Refusal :=
  .next (mailbox p l 0x4203 (fun t => mboxOk (natToBytes 1 t.ports[p].mbox[l].shutdown) t) s)

/-- The state is clean or dirty. -/
def execSetShutdownState (p l : Fin 4) (st : Nat) (s : State) : Host.Outcome State Fault Refusal :=
  .next (mailbox p l 0x4204 (fun t =>
    if 1 < st then mboxFail rcInvalidInput t else mboxOk [] (updMbox p l (fun b => { b with shutdown := st }) t)) s)

/-! ## Poison -/

/-- A range of lines of an LD of the link that lies in one of its regions. -/
def poisonRange (s : State) (p l : Fin 4) (ld : Fin 16) (dpa lines : Nat) : Nat :=
  let t := 16 * p.val + ld.val
  if !(linkLdTags s p l).contains t then rcInvalidInput
  else if dpa % 64 ≠ 0 || (rangeRegion s t dpa (64 * lines)).isNone then rcInvalidAddress else rcSuccess

/-- Media error records: each address with a length of one line, and a reserved word. -/
def errorRecords (as : List Nat) : List Byte := as.flatMap fun a => natToBytes 8 a ++ natToBytes 4 1 ++ natToBytes 4 0

/-- The poison list: no flag and no overflow time, the count, and the records (log entry 17). -/
def poisonPayload (as : List Nat) : List Byte :=
  natToBytes 10 0 ++ natToBytes 2 as.length ++ natToBytes 20 0 ++ errorRecords as

/-- The results of a scan that is complete: no restart address or length, no flag, the count, and the records (log entry 17). -/
def scanPayload (as : List Nat) : List Byte :=
  natToBytes 18 0 ++ natToBytes 2 as.length ++ natToBytes 12 0 ++ errorRecords as

/-- Get Poison List: the known poisoned lines of a range, named by LD and DPA. -/
def poisonList (p l : Fin 4) (ld : Fin 16) (dpa lines : Nat) (s : State) : MboxDone :=
  let c := poisonRange s p l ld dpa lines
  if c ≠ rcSuccess then mboxFail c s
  else
    let t := 16 * p.val + ld.val
    let known := s.ports[p].mbox[l].poison.filter fun a => a >>> 48 = t
    mboxOk (poisonPayload ((known.map (· % 2 ^ 48)).filter fun a => dpa ≤ a && a < dpa + 64 * lines)) s

def execGetPoisonList (p l : Fin 4) (ld : Fin 16) (dpa lines : Nat) (s : State) : Host.Outcome State Fault Refusal :=
  .next (mailbox p l 0x4300 (fun t => poisonList p l ld dpa lines t) s)

/-- The device writes a line of an LD through its home, under the region's default key, with no response to the host. -/
def ownWrite (p l : Fin 4) (t dpa : Nat) (data : Line) (poison : Bool) (s : State) : MboxDone :=
  match regionAt s t dpa with
  | none => mboxFail rcInvalidAddress s
  | some r =>
    let key := defaultKey s t r
    if halted s || !keyAdmits s t key then mboxFail rcInternal s
    else
      let (rid, s1) := takeSeq s
      let q : Req := { rawReq rid (.host p l (t % 16) 0) t .cqWrite 0 data 0 poison with
        dpa := dpa, region := r.number, key := key, cls := (slotCopy s p key).cls }
      let s2 := updPort p (fun o => { o with reqs := o.reqs ++ [⟨q, .ingress, false, true, false, true⟩] }) s1
      mboxOk [] (allSettle (translate p q s2))

/-- The known poison of a line of an LD, set or cleared. -/
def markPoison (p l : Fin 4) (t dpa : Nat) (on : Bool) (d : MboxDone) : MboxDone :=
  let a := t * 2 ^ 48 + dpa
  if d.code ≠ rcSuccess then d
  else { d with state := updMbox p l (fun b => { b with
    poison := let rest := b.poison.filter (· ≠ a); if on then rest ++ [a] else rest }) d.state }

/-- Inject Poison: only where the image permits fault injection (R30, R346). -/
def injectPoisonAt (p l : Fin 4) (ld : Fin 16) (dpa : Nat) (s : State) : MboxDone :=
  let t := 16 * p.val + ld.val
  let c := poisonRange s p l ld dpa 1
  if !fiPermitted s then mboxFail rcUnsupported s
  else if c ≠ rcSuccess then mboxFail c s
  else markPoison p l t dpa true (ownWrite p l t dpa 0 true s)

def execInjectPoison (p l : Fin 4) (ld : Fin 16) (dpa : Nat) (s : State) : Host.Outcome State Fault Refusal :=
  .next (mailbox p l 0x4301 (fun t => injectPoisonAt p l ld dpa t) s)

/-- Clear Poison writes the line's new data. -/
def clearPoisonAt (p l : Fin 4) (ld : Fin 16) (dpa : Nat) (data : Line) (s : State) : MboxDone :=
  let t := 16 * p.val + ld.val
  let c := poisonRange s p l ld dpa 1
  if c ≠ rcSuccess then mboxFail c s else markPoison p l t dpa false (ownWrite p l t dpa data false s)

def execClearPoison (p l : Fin 4) (ld : Fin 16) (dpa : Nat) (data : Line) (s : State) : Host.Outcome State Fault Refusal :=
  .next (mailbox p l 0x4302 (fun t => clearPoisonAt p l ld dpa data t) s)

/-! ## Scan Media -/

def execGetScanMediaCapabilities (p l : Fin 4) (ld : Fin 16) (dpa lines : Nat) (s : State) :
    Host.Outcome State Fault Refusal :=
  .next (mailbox p l 0x4303 (fun t =>
    let c := poisonRange t p l ld dpa lines
    if c ≠ rcSuccess then mboxFail c t else mboxFree 4 t) s)

/-- The lines of a mapped page that read back as poison. -/
def pageBad (ldTag dpa : Nat) (s : State) : List Nat × State :=
  match mappedPage ldTag dpa s with
  | (none, s1) => ([], s1)
  | (some (r, leaf), s1) =>
    let m : Move := ⟨0, ldTag, dpa, eTier leaf = 1, backingOf dpa leaf, false, 0, .copy, 0, none, false⟩
    let (ls, _, s2) := readSource m r.awn 0 s1
    (((List.range 64).filter fun i => isFailed (ls.getD i .blank)).map fun i => dpa + 64 * i, s2)

/-- The poisoned lines of the pages that a range covers. -/
def scanPages : Nat → Nat → Nat → State → List Nat × State
  | 0, _, _, s => ([], s)
  | n + 1, ldTag, dpa, s =>
    let (a, s1) := pageBad ldTag dpa s
    let (b, s2) := scanPages n ldTag (dpa + 4096) s1
    (a ++ b, s2)

/-- A background operation has run: it is complete when it is next reported (log entry 34). -/
def background (p l : Fin 4) (opcode : Nat) (s : State) : MboxDone :=
  ⟨rcBackground, [], updMbox p l (fun b => { b with bgOpcode := opcode, bgDone := true }) s⟩

/-- Scan Media. DESIGN CHOICE: while accesses are halted (domain down, fenced) the scan reads nothing, finds no line, and is
reported complete; no rule says (log entry 145). -/
def scan (p l : Fin 4) (ld : Fin 16) (dpa lines : Nat) (s : State) : MboxDone :=
  let c := poisonRange s p l ld dpa lines
  let t := 16 * p.val + ld.val
  if c ≠ rcSuccess then mboxFail c s
  else if s.fw.erasing.any (fun j => j.port = p.val && j.link = l.val) then mboxFail rcBusy s
  else
    let (bad, s1) := if halted s then ([], s) else
      scanPages ((dpa + 64 * lines + 4095) / 4096 - dpa / 4096) t (pageBase dpa) s
    let found := bad.filter fun a => dpa ≤ a && a < dpa + 64 * lines
    background p l 0x4304 (updMbox p l (fun b => { b with
      scanned := found, poison := b.poison ++ (found.map (t * 2 ^ 48 + ·)).filter fun a => !b.poison.contains a }) s1)

def execScanMedia (p l : Fin 4) (ld : Fin 16) (dpa lines : Nat) (s : State) : Host.Outcome State Fault Refusal :=
  .next (mailbox p l 0x4304 (fun t => scan p l ld dpa lines t) s)

def execGetScanMediaResults (p l : Fin 4) (s : State) : Host.Outcome State Fault Refusal :=
  .next (mailbox p l 0x4305 (fun t => mboxOk (scanPayload t.ports[p].mbox[l].scanned) t) s)

/-! ## Sanitize and Secure Erase (R49) -/

/-- A background operation of the mailbox has not ended. -/
def backgroundOpen (s : State) (p l : Fin 4) : Bool := s.fw.erasing.any fun j => j.port = p.val && j.link = l.val

def privateRegions (s : State) (t : Nat) : List Region := (regions s).filter fun r => !r.shared && r.ownerLd = t

/-- The key slots that a region's accesses use: the default of each LD that reaches it, and those of its aliases (R41). -/
def regionSlots (s : State) (r : Region) : List Nat :=
  (regionLds r).map (fun t => defaultKey s t r) ++ (List.range (2 ^ r.aliasW - 1)).map fun a => r.keyBase + a + 1

/-- Slots used by the LD's private regions and by no other region. -/
def ownSlots (s : State) (t : Nat) : List Nat :=
  let mine := (privateRegions s t).flatMap fun r => regionSlots s r
  let others := ((regions s).filter fun r => r.shared || r.ownerLd ≠ t).flatMap fun r => regionSlots s r
  mine.eraseDups.filter fun k => !others.contains k

/-- The pages of the LD's private regions that are mapped, from a DPA on, in ascending order. -/
def erasePages (t from_ : Nat) (s : State) : List (Region × Nat × Word) × State :=
  (privateRegions s t).foldl (fun (a : List (Region × Nat × Word) × State) r =>
    let (ls, u) := leavesIn (2 ^ r.size / 4096 + 1) t r.dpaBase (r.dpaBase + 2 ^ r.size) a.2
    (a.1 ++ ((ls.flatMap fun e => (List.range (2 ^ (eSize e.2 - 12))).map fun i => (r, e.1 + 4096 * i, e.2)).filter
      fun (x : Region × Nat × Word) => from_ ≤ x.2.1), u)) ([], s)

/-- One page of a private region as the fill leaves it: blank, or a packed page with four EMPTY blocks; `move` also takes a
plain page of an elastic region to a packed one, as ZERO does. A page in a poisoned span is mapped to a blank one outside it,
and waits while that cannot be (R196). -/
def refillPage (r : Region) (t dpa : Nat) (leaf : Word) (move : Bool) (s : State) : Option State :=
  let b := backingOf dpa leaf
  if spanPoisoned s b then remapBlank r dpa leaf s
  else if eTier leaf = 1 || move then some (zeroPage none r t dpa leaf s)
  else some (blankPage b r.awn s)

/-- The pages refilled in order until one must wait, whose DPA is the answer; none when all are done. -/
def refillPages (t : Nat) (move : Bool) : List (Region × Nat × Word) → State → Option Nat × State
  | [], s => (none, s)
  | e :: es, s =>
    match refillPage e.1 t e.2.1 e.2.2 move s with
    | some s1 => refillPages t move es s1
    | none => (some e.2.1, s)

def putErase (j : EraseJob) (s : State) : State := { s with fw := { s.fw with erasing := j :: s.fw.erasing.tail } }

/-- Germ carries the erase at the front on: its slots are retired one after the other through the load port, each device-generated
one taking a fresh key under its class and mask; then the regions are refilled (R49, R118; log entry 83). `fuel` bounds the slots.
-/
def eraseStep : Nat → State → State
  | 0, s => s
  | fuel + 1, s =>
    if s.crypt.busy || s.crypt.msgOpen || !s.fw.germUp || halted s then s
    else match s.fw.erasing with
      | [] => s
      | j :: rest =>
        match j.slots, j.retiring with
        | i :: is, some (cls, mask) =>
          let s1 := putErase { j with slots := is, retiring := none } s
          eraseStep fuel (if (keyRec s i).host then s1 else germSlot 1 i cls mask s1)
        | i :: is, none =>
          let k := slotAt s i
          if k.state = .loaded then
            eraseStep fuel (germSlot 4 i 0 0 (putErase { j with retiring := some (k.cls, k.mask) } s))
          else eraseStep fuel (putErase { j with slots := is } s)
        | [], _ =>
          let (ps, s1) := erasePages j.ldTag j.next s
          match refillPages j.ldTag j.sanitize ps s1 with
          | (some dpa, s2) => putErase { j with next := dpa } s2
          | (none, s2) =>
            let s3 := { s2 with fw := { s2.fw with erasing := rest } }
            eraseStep fuel (updMbox (port4 j.port) (port4 j.link) (fun b =>
              if b.bgOpcode = (if j.sanitize then 0x4400 else 0x4401) then { b with bgDone := true } else b) s3)

def eraseSteps (s : State) : State :=
  eraseStep ((s.fw.erasing.map fun j => 2 * j.slots.length + 2).sum + 1) s

/-- Secure Erase of an LD; Sanitize then zeroes every page. It runs in the background. DESIGN CHOICE: while accesses are halted
(domain down, fenced) it answers Busy and does nothing; no rule gives a return code there (log entry 145). -/
def erase (p l : Fin 4) (ld : Fin 16) (sanitize : Bool) (s : State) : MboxDone :=
  let t := 16 * p.val + ld.val
  if !(linkLdTags s p l).contains t || (privateRegions s t).isEmpty then mboxFail rcInvalidInput s
  else if halted s || backgroundOpen s p l then mboxFail rcBusy s
  else
    let j : EraseJob := ⟨p, l, t, sanitize, ownSlots s t, none, 0⟩
    let s1 := updMbox p l (fun b => { b with bgOpcode := if sanitize then 0x4400 else 0x4401, bgDone := false })
      { s with fw := { s.fw with erasing := s.fw.erasing ++ [j] } }
    ⟨rcBackground, [], allSettle (eraseSteps s1)⟩

/-- The open RETIRE has drained (R118 step 6); an erase goes on (R49). -/
def execRetireDrainComplete (s : State) : Host.Outcome State Fault Refusal :=
  .next (eraseSteps (doRetireDrainComplete s))

/-- Germ is back: every operation open at a meeting point is completed or started afresh (R25, R191). -/
def execGermRestartDone (s : State) : Host.Outcome State Fault Refusal :=
  .next (allSettle (eraseSteps (doGermRestartDone s)))

def execSanitize (p l : Fin 4) (ld : Fin 16) (s : State) : Host.Outcome State Fault Refusal :=
  .next (mailbox p l 0x4400 (fun t => erase p l ld true t) s)

def execSecureErase (p l : Fin 4) (ld : Fin 16) (s : State) : Host.Outcome State Fault Refusal :=
  .next (mailbox p l 0x4401 (fun t => erase p l ld false t) s)

/-- Status, opcode and return code of the last background operation (log entry 34). -/
def bgStatus (p l : Fin 4) (s : State) : MboxDone :=
  let b := s.ports[p].mbox[l]
  mboxOk (natToBytes 2 (if backgroundOpen s p l then 1 else if b.bgDone then 200 else 0) ++ natToBytes 2 b.bgOpcode ++ natToBytes 4 0) s

/-- A poll of a background operation: an erase goes on as far as it can. -/
def execBackgroundOperationStatus (p l : Fin 4) (s : State) : Host.Outcome State Fault Refusal :=
  .next (mailbox p l 0x0002 (fun t => bgStatus p l (eraseSteps t)) s)

/-! ## LDs of an MLD link, and every other opcode -/

/-- Get LD Info: memory size, LD count. It is a command of MLD links (Table 2.5). -/
def ldInfo (p l : Fin 4) (s : State) : MboxDone :=
  if linkMode s p l ≠ 3 then mboxFail rcUnsupported s
  else
    let (q, s1) := freeBytes 1 s
    mboxOk (natToBytes 8 ((linkLdTags s p l).map fun t => ldBytes s t).sum ++ natToBytes 2 (linkLdTags s p l).length ++ q) s1

def execGetLdInfo (p l : Fin 4) (s : State) : Host.Outcome State Fault Refusal :=
  .next (mailbox p l 0x5400 (fun t => ldInfo p l t) s)

/-- Get LD Allocations: the LDs of the link from the first, each with what it reaches in units of 256 MiB (log entry 17). -/
def ldAllocations (p l : Fin 4) (s : State) : MboxDone :=
  if linkMode s p l ≠ 3 then mboxFail rcUnsupported s
  else
    let ts := linkLdTags s p l
    mboxOk (natToBytes 1 ts.length ++ natToBytes 2 0 ++ natToBytes 1 ts.length ++ ts.flatMap fun t => natToBytes 8 (ldBytes s t / 2 ^ 28) ++ natToBytes 8 0) s

def execGetLdAllocations (p l : Fin 4) (s : State) : Host.Outcome State Fault Refusal :=
  .next (mailbox p l 0x5401 (fun t => ldAllocations p l t) s)

/-- Every other opcode completes with Unsupported (R48); one that Table 2.5 supports is a command of its own. -/
def execUnsupportedOpcode (p l : Fin 4) (opcode : Nat) (s : State) : Host.Outcome State Fault Refusal :=
  .next (if mboxOpcodes.contains opcode then s else mailbox p l opcode (fun t => mboxFail rcUnsupported t) s)

end Sys2Proof.Machine
end

