-- ==== Sys2Proof/Machine/Headers.lean ====
section
/-! DEFINITION. The common headers: clearing causes, masks, re-arming, and fault injection (R440 to R450). -/

namespace Sys2Proof.Machine

/-- The cause bits that each block defines (Tables 18.11, 19.5, 20.3, 22.2), by TYPE. -/
def definedCauses (t : Nat) : BitVec 32 :=
  match t with
  | 1 => 0x1F
  | 2 => 0x1FFF
  | 3 => 0x7FE
  | 4 => 0xFFEFF
  | 5 => 0x7FF0FFD
  | 6 => 0xDF
  | 7 => 0xFF
  | 8 => 0x1F
  | 9 => 0x3FFF
  | 10 => 0x7FF
  | 11 => 0x3F
  | 12 => 0x7FFF
  | 13 => 0xF
  | 14 => 0xF
  | 15 => 0x3F
  | _ => 0

/-- The causes of Table 18.14: the two parity causes of eight block types, and the others of SPK, MC, TILLER and PAIR. -/
def injectable (t : Nat) : BitVec 32 :=
  match t with
  | 2 => 0x300
  | 3 => 0x180
  | 4 => 0x10860
  | 5 => 0x30C00
  | 6 => 0xC0
  | 8 => 0x6
  | 9 => 0xE
  | 10 => 0x200
  | 15 => 0x6
  | _ => 0

/-- One block's header. -/
def updHeader (b : Fin 40) (f : Header → Header) (s : State) : State := { s with headers := updAt s.headers b f }

def doCauseClear (m : Master) (b : Fin 40) (v : BitVec 32) (s : State) : State :=
  guardWrite m (blkBase b) (updHeader b fun h => { h with cause := h.cause &&& ~~~ v }) s

/-- A write of STATUS: a 1 clears its cause (R440, R446). -/
def execCauseClear (m : Master) (b : Fin 40) (v : BitVec 32) (s : State) : Host.Outcome State Fault Refusal :=
  .next (doCauseClear m b v s)

def doCauseMaskWrite (m : Master) (b : Fin 40) (v : BitVec 32) (s : State) : State :=
  guardWrite m (blkBase b + 0x08) (updHeader b fun h => { h with mask := v }) s

/-- A write of CAUSE_MASK (R441, R446). -/
def execCauseMaskWrite (m : Master) (b : Fin 40) (v : BitVec 32) (s : State) : Host.Outcome State Fault Refusal :=
  .next (doCauseMaskWrite m b v s)

def doFeRearm (m : Master) (b : Fin 40) (s : State) : State :=
  guardWrite m (blkBase b + 0x40) (updHeader b fun h => { h with firstValid := false }) s

/-- A write of 1 to FE_REARM.REARM: FE_ADDR, FE_SRC and FE_TIME stay (R444). -/
def execFeRearm (m : Master) (b : Fin 40) (s : State) : Host.Outcome State Fault Refusal := .next (doFeRearm m b s)

/-- A write of FORCE: ignored, and not refused, while injection is not permitted (R30, R446). -/
def forceWrite (m : Master) (b : Fin 40) (f : State → State) (s : State) : State :=
  if fiPermitted s then guardWrite m (blkBase b + 0x10) f s else s

def doForceReport (m : Master) (b : Fin 40) (v : BitVec 32) (s : State) : State :=
  forceWrite m b (raiseBits b (v &&& definedCauses (blkType b).1) ⟨0, 0, masterId m, 0xF, none⟩) s

/-- FORCE with ACT = 0 (R449). -/
def execForceReport (m : Master) (b : Fin 40) (v : BitVec 32) (s : State) : Host.Outcome State Fault Refusal :=
  .next (doForceReport m b v s)

def doForceDisarm (m : Master) (b : Fin 40) (s : State) : State :=
  forceWrite m b (fun t => endInjection (updHeader b (fun h => { h with armed := 0 }) t)) s

/-- FORCE with ACT = 1 and no cause bit (R449). -/
def execForceDisarm (m : Master) (b : Fin 40) (s : State) : Host.Outcome State Fault Refusal :=
  .next (doForceDisarm m b s)

def doForceArm (m : Master) (b : Fin 40) (v : BitVec 32) (s : State) : State :=
  if v = 0 then doForceDisarm m b s
  else forceWrite m b (updHeader b fun h => { h with armed := h.armed ||| (v &&& injectable (blkType b).1) }) s

/-- FORCE with ACT = 1: a named cause that Table 18.14 does not list is ignored (R449). -/
def execForceArm (m : Master) (b : Fin 40) (v : BitVec 32) (s : State) : Host.Outcome State Fault Refusal :=
  .next (doForceArm m b v s)

/-- An injection is armed in some block. -/
def anyArmed (s : State) : Bool := s.headers.toList.any fun h => h.armed ≠ 0

def doInjectionOrderedMode (s : State) : State :=
  if anyArmed s && s.fw.germUp && coreOn s then setOrdered true { s with fw := { s.fw with injecting := true } } else s

/-- Germ sets ordered-class mode in every spikelet after the first arming (R450). -/
def execInjectionOrderedMode (s : State) : Host.Outcome State Fault Refusal := .next (doInjectionOrderedMode s)

end Sys2Proof.Machine
end

