-- ==== Sys2Proof/Machine/Perf.lean ====
section
/-! DEFINITION. Performance counters: selections, counts, windows and freeze (R452 to R457, R460). Counting itself is
`perfEvent`. -/

namespace Sys2Proof.Machine

/-- The events that the block type of counter `n` lists (Tables 19.2 to 19.4). -/
def eventListed (n event : Nat) : Bool :=
  if n < 128 then event ≤ 0x0B || (0x10 ≤ event && event ≤ 0x14) || (0x18 ≤ event && event ≤ 0x1B)
  else if n < 160 then event ≤ 0x05 || (0x10 ≤ event && event ≤ 0x12)
  else event ≤ 0x07 || event = 0x10

/-- The occupancies among them, marked O. -/
def isOccupancy (event : Nat) : Bool := 0x10 ≤ event && event ≤ 0x14

/-- A selection that R454 does not accept. -/
def badSelect (n : Nat) (v : Word) : Bool :=
  let event := field v 0 8
  let cmp := field v 60 2
  !eventListed n event || cmp = 3 || ((cmp = 1 || cmp = 2) && !isOccupancy event) ||
    (event = 0 && ((perfGroup n).1 = n || cmp ≠ 0))

def doPerfSelWrite (m : Master) (n : Fin 192) (v : Word) (s : State) : State :=
  guardWrite m (offPerfSel n) (fun t =>
    if badSelect n v then raise blkPerf 2 ⟨0, 0, masterId m, 0xF, none⟩ t else regWrite .whole (offPerfSel n) v t) s

/-- A write of PERF_SEL_n (R454, R460). -/
def execPerfSelWrite (m : Master) (n : Fin 192) (v : Word) (s : State) : Host.Outcome State Fault Refusal :=
  .next (doPerfSelWrite m n v s)

def offPerfCount (n : Nat) : Nat := 0x3C2000 + 8 * n

def doPerfCountWrite (m : Master) (n : Fin 192) (v : Word) (s : State) : State :=
  guardWrite m (offPerfCount n) (fun t =>
    if flag (regGet t (offPerfSel n)) 63 then t
    else { t with perf := { t.perf with counts := kset 0 t.perf.counts n (field v 0 48) } }) s

/-- A write of PERF_COUNT_n, taken while ENABLE is 0 (R456). -/
def execPerfCountWrite (m : Master) (n : Fin 192) (v : Word) (s : State) : Host.Outcome State Fault Refusal :=
  .next (doPerfCountWrite m n v s)

/-- WINDOW_STATE after WINDOW_EN has been set or cleared (Table 19.10). -/
def windowSet (on was : Bool) (w : WindowState) : WindowState := if !on then .idle else if was then w else .waiting

/-- A write of PERF_CTL: CLEAR_ALL, then FREEZE, and WINDOW_EN unless a window is counting (R457, Table 19.8). -/
def perfCtl (m : Master) (v : Word) (s : State) : State :=
  guardWrite m offPerfCtl (fun t =>
    let t1 := if flag v 2 then { t with perf := { t.perf with counts := [], ovf := [] } } else t
    let was := flag (regGet t offPerfCtl) 1
    let on := if t.perf.window = .counting then was else flag v 1
    let t2 := regSetField offPerfCtl 1 1 (bit on) (regSetField offPerfCtl 0 1 (bit (flag v 0)) t1)
    { t2 with perf := { t2.perf with frozen := flag v 0, window := windowSet on was t2.perf.window } }) s

def doClearAll (m : Master) (v : Word) (s : State) : State := perfCtl m (v ||| 4) s
def doFreeze (m : Master) (v : Word) (s : State) : State := perfCtl m v s
def doWindowEn (m : Master) (v : Word) (s : State) : State := perfCtl m v s

/-- A write of PERF_CTL with CLEAR_ALL 1. -/
def execClearAll (m : Master) (v : Word) (s : State) : Host.Outcome State Fault Refusal := .next (doClearAll m v s)

/-- A write of PERF_CTL for its FREEZE bit. -/
def execFreeze (m : Master) (v : Word) (s : State) : Host.Outcome State Fault Refusal := .next (doFreeze m v s)

/-- A write of PERF_CTL for its WINDOW_EN bit. -/
def execWindowEn (m : Master) (v : Word) (s : State) : Host.Outcome State Fault Refusal := .next (doWindowEn m v s)

/-- A write of START or LEN: ignored while a window is counting; after DONE it makes a new window (R457). -/
def windowWrite (off : Nat) (v : Word) (s : State) : State :=
  if s.perf.window = .counting then s
  else
    let s1 := regWrite .whole off v s
    if s1.perf.window = .done then { s1 with perf := { s1.perf with window := .waiting } } else s1

def doPerfWindowStart (s : State) : State :=
  if s.perf.window = .waiting then
    let s1 := timeTo (regGet s offWinStart).toNat s
    { s1 with perf := { s1.perf with window := .counting } }
  else s

/-- DTIME reaches START (R457). -/
def execPerfWindowStart (s : State) : Host.Outcome State Fault Refusal := .next (doPerfWindowStart s)

def doWindowDone (s : State) : State :=
  if s.perf.window = .counting then
    let s1 := timeTo ((regGet s offWinStart).toNat + (regGet s offWinLen).toNat) s
    raise blkPerf 3 Cap.none { s1 with perf := { s1.perf with window := .done } }
  else s

/-- DTIME reaches START + LEN: the counts hold (R457). -/
def execWindowDone (s : State) : Host.Outcome State Fault Refusal := .next (doWindowDone s)

end Sys2Proof.Machine
end

