-- ==== Sys2Proof/Machine/Read.lean ====
section
/-! DEFINITION. What a read of BAR0 returns: every register of chapters 2 to 22 by its field table, reserved fields zero and WO
fields zero (R7, R8). A read has no effect (R18, R491). -/

namespace Sys2Proof.Machine

/-- A field of a value kept whole: bits `lo` to `lo + w − 1` of a register, `v` taken modulo 2^w. -/
def fld (lo w v : Nat) : Word := place lo (v % 2 ^ w)

/-- A signed value in `w` bits, two's complement. -/
def sfld (lo w : Nat) (v : Int) : Word := place lo (BitVec.ofInt w v).toNat

/-- Element `n` of a register file in an array at `base` with `step` bytes and `count` elements. -/
def elem (r base step count : Nat) : Option Nat :=
  if base ≤ r && r < base + step * count && (r - base) % step = 0 then some ((r - base) / step) else none

/-- Mask of address bits `lo` to 43. -/
def addrBits (lo m : Nat) : Word := fld lo (44 - lo) (m >>> lo)

/-! ## The common header (Tables 18.1 to 18.10) -/

/-- ATTN (R441). -/
def attn (h : Header) : Bool := h.cause &&& ~~~ h.mask ≠ 0

def readHeader (s : State) (b : Fin 40) (r : Nat) : Word :=
  let h := s.headers[b]
  match r with
  | 0x00 => fld 56 8 (blkType b).1 ||| fld 48 8 (blkType b).2 ||| fld 47 1 (bit (attn h)) ||| fld 46 1 (bit h.firstValid) |||
      fld 0 32 h.cause.toNat
  | 0x08 => fld 0 32 h.mask.toNat
  | 0x10 => fld 0 32 h.armed.toNat
  | 0x20 => h.feAddr
  | 0x28 => h.feSrc
  | 0x30 => h.feTime
  | 0x38 => fld 0 48 h.errCount
  | _ => 0

/-! ## GLB (Tables 13.18, 14.5, 14.6, 21.7, 22.3 to 22.5) -/

/-- PORT_MASK of the loaded image. -/
def portMask (s : State) : Nat := (s.img.map (·.portMask)).getD 0

def readGlb (s : State) (r : Nat) : Word :=
  match elem r 0x200 8 40 with
  | some n => fld 56 8 (blkType n).1 ||| fld 48 8 (blkType n).2 ||| fld 24 8 (blkSizeLog n) ||| fld 0 24 (blkBase n)
  | none =>
    let b := s.bring
    match r with
    | 0x100 => fld 48 16 0x0816 ||| fld 40 8 0xB0 ||| fld 36 4 (portMask s) ||| fld 0 8 40
    | 0x108 => fld 0 64 s.dtime
    | 0x400 => fld 32 32 ((s.img.map (·.seq.toNat)).getD 0) ||| fld 22 7 s.fuses.rollback |||
        fld 21 1 (bit s.fuses.ownerKey.isSome) ||| fld 20 1 (bit (fiPermitted s)) ||| fld 19 1 (bit b.recovery) |||
        fld 18 1 (bit b.reloadBusy) ||| fld 16 2 b.running ||| fld 12 4 b.reloadResult ||| fld 8 4 b.resultB |||
        fld 4 4 b.resultA
    | 0x410 => fld 52 4 b.kind ||| fld 48 4 b.failCause ||| fld 32 10 b.permille ||| fld 16 4 b.step |||
        fld 0 16 (channelsFailed s).toNat
    | 0x418 => fld 0 64 b.startTime
    | 0x420 => fld 0 64 b.releaseTime
    | 0x430 => fld 49 1 (bit s.thermal.tripped) ||| fld 48 1 (bit s.thermal.warn) ||| fld 32 12 s.thermal.husk.toNat |||
        fld 16 12 s.thermal.grain1.toNat ||| fld 0 12 s.thermal.grain0.toNat
    | _ => 0

/-! ## PORT (Tables 2.10 to 2.16) -/

def portCode : PortState → Nat
  | .reset => 0
  | .training => 1
  | .drained => 2
  | .enabled => 3
  | .draining => 4
  | .viral => 5

/-- Two bits for each of the sixteen LDs of a port: the link that carries it. -/
def ldLinks (s : State) (p : Nat) : Word :=
  (List.range 16).foldl (fun w k => w ||| fld (2 * k) 2 (ldRec s (16 * p + k)).link) 0

def ldValids (s : State) (p : Nat) : Nat :=
  (List.range 16).foldl (fun a k => a + bit (ldRec s (16 * p + k)).valid * 2 ^ k) 0

def linkModes (s : State) (p : Nat) : Nat := (List.range 4).foldl (fun a l => a + linkMode s p l * 4 ^ l) 0

/-- LINK_STATUS of a link. -/
def linkStatus (k : Link) : Word :=
  fld 32 16 k.recovery ||| fld 16 5 k.width ||| fld 8 4 k.speed ||| fld 4 1 (bit k.flit256) ||| fld 3 1 (bit k.ideMem.active) |||
    fld 2 1 (bit k.ideIo.active) ||| fld 1 1 (bit k.degraded) ||| fld 0 1 (bit k.up)

/-- DEC_MAP of an LD's decoder: KEY_BASE and ALIAS_W are those of the region it names. -/
def readDecMap (s : State) (p : Fin 4) (j : Nat) : Word :=
  let w := regGet s (offDecMap p (j / 4) (j % 4))
  let (base, width) := match regionNo s (field w 16 8) with
    | some r => (r.keyBase, r.aliasW)
    | none => (0, 0)
  w ||| fld 32 12 base ||| fld 24 4 width ||| fld 0 1 (bit (kget decoderInit s.ports[p].decs j).committed)

def readPort (s : State) (p : Fin 4) (r : Nat) : Word :=
  let q := s.ports[p]
  let w := regGet s (offPort p + r)
  match elem r 0x140 8 4 with
  | some l => linkStatus q.links[port4 l]
  | none => match elem r 0x400 8 64 with
    | some j => readDecMap s p j
    | none => match r with
      | 0x100 => w
      | 0x108 => fld 32 16 (inflight s p) ||| fld 15 1 (bit q.enableQueued) ||| fld 9 1 (bit q.drainDone) |||
          fld 0 3 (portCode q.state)
      | 0x110 =>
        if !(portMask s).testBit p then 0
        else fld 32 1 (bit (ideRequired s p)) ||| fld 16 16 (ldValids s p) ||| fld 8 8 (linkModes s p) ||| fld 0 2 (bifur s p)
      | 0x118 => if !(portMask s).testBit p then 0 else ldLinks s p
      | 0x120 => w
      | _ => 0

/-! ## SHEAF (Tables 3.9 to 3.20) -/

def readSheaf (s : State) (r : Nat) : Word :=
  let g := s.gate
  let w := regGet s (blkBase 5 + r)
  match elem r 0x200 8 4 with
  | some n =>
    let q := s.ports[port4 n]
    fld 48 16 q.invSeq ||| fld 32 13 q.sheaf.length ||| fld 16 13 (q.sheaf.filter (·.pinned)).length ||| fld 0 7 q.slots.length
  | none => match elem r 0x240 8 4 with
    | some n => fld 48 16 s.ports[port4 n].refills ||| fld 0 48 s.ports[port4 n].misses
    | none => match r with
      | 0x108 => addrBits 12 (metaBase s)
      | 0x110 => addrBits 12 (metaLimit s)
      | 0x1B0 => fld 48 16 g.invCount ||| fld 4 4 g.invAck.toNat ||| fld 1 1 (bit g.invTimedOut) ||| fld 0 1 (bit g.invOpen)
      | _ => w

/-! ## SPK (Tables 4.7 to 4.14, 5.23, 5.24, 6.8) -/

def countTx (q : Spk) (st : TxState) : Nat := (q.txns.filter (·.state = st)).length

def readSpk (s : State) (k : Fin 8) (r : Nat) : Word :=
  let q := s.spks[k]
  let w := regGet s (offSpk k + r)
  match r with
  | 0x100 => fld 8 1 (bit q.orderedActive) ||| w
  | 0x110 => fld 32 16 ((s.img.map (·.tBi)).getD 0) ||| w
  | 0x118 => fld 43 21 q.sf.length ||| fld 22 21 (q.sf.filter (·.2.imprecise)).length ||| fld 0 11 (q.sf.filter (·.2.busy)).length
  | 0x120 => fld 32 10 (countTx q .parked) ||| fld 16 6 q.evict.length ||| fld 0 5 q.holds.length
  | 0x128 => fld 0 48 q.biSent
  | 0x130 => fld 0 48 q.biBcast
  | 0x138 => fld 0 48 q.sfWaitHolds
  | 0x148 => fld 2 1 (bit q.pgRefused) ||| fld 1 1 (bit q.pgDone) ||| fld 0 1 (bit q.recalling.isSome)
  | 0x180 => fld 24 17 (q.culm.filter (·.2.dirty)).length ||| fld 0 17 q.culm.length
  | 0x188 => fld 0 48 q.reencCount
  | 0x190 => fld 0 48 q.glumeDecomp
  | 0x198 => fld 0 48 q.glumeComp
  | 0x1A0 => fld 0 48 q.glumeFail
  | 0x1A8 => fld 0 48 q.glumeBytes
  | _ => w

/-! ## MC (Tables 8.9 to 8.20, 9.6 to 9.16) -/

def mcCode : McState → Nat
  | .off => 0
  | .spd => 1
  | .training => 2
  | .active => 3
  | .powerDown => 4
  | .selfRefresh => 5
  | .restoring => 6
  | .failed => 7

/-- STEPPING: some live value is not at its target (R222). -/
def mcStepping (m : Mc) : Bool := m.cal.any fun e => e.2.live ≠ e.2.target

/-- The geometry of the image (Table 8.10). -/
def mcCfg (s : State) : Word :=
  match s.img with
  | none => 0
  | some i => fld 32 1 (bit i.unit256) ||| fld 16 16 i.rate ||| fld 8 5 i.rowBits ||| fld 6 2 i.stack ||| fld 3 3 i.ranks |||
      fld 0 1 (bit i.dpc2)

def readRemap (b : BankRemap) : Word :=
  fld 15 1 (bit b.valid) ||| fld 12 2 b.rank ||| fld 10 2 b.spare ||| fld 8 1 b.subch ||| fld 4 3 b.bg ||| fld 0 2 b.ba

/-- MC_SPARE_STATUS. -/
def spareStatus (m : Mc) : Word :=
  match m.copy with
  | none => fld 52 4 m.bound
  | some c => fld 63 1 1 ||| fld 62 1 (bit c.bank) ||| fld 60 2 c.from_ ||| fld 58 2 c.to_ ||| fld 52 4 m.bound ||| fld 0 41 c.ptr

def readMc (s : State) (x : Fin 16) (r : Nat) : Word :=
  let m := s.mcs[x]
  let w := regGet s (offMc x + r)
  match elem r 0x1C0 8 4 with
  | some j => (m.remaps[j]?.map readRemap).getD 0
  | none => match elem r 0x200 8 64 with
    | some j => match kfind m.elog (j / 2) with
      | some e => if j % 2 = 0 then e.w0 else fld 0 64 e.time
      | none => 0
    | none => match r with
      | 0x100 => fld 8 1 (bit (mcStepping m)) ||| fld 0 3 (mcCode m.state)
      | 0x108 => mcCfg s
      | 0x110 => fld 20 4 m.oos ||| fld 16 4 (spareMask s x) ||| w
      | 0x118 => fld 48 8 ((s.img.map (·.hotLimit)).getD 0) ||| fld 32 16 (max m.trfc ((s.img.map (·.trfc)).getD 0)) ||| fld 16 1 (bit (m.trefi ≠ 3900)) |||
          fld 0 16 m.trefi
      | 0x128 => fld 0 12 m.acts.length
      | 0x130 => fld 0 48 m.rdRefreshes
      | 0x138 => fld 0 48 m.rdFallback
      | 0x140 => sfld 48 12 m.calTemp ||| sfld 16 12 m.temps[1] ||| sfld 0 12 m.temps[0]
      | 0x150 => fld 32 32 m.calGen ||| fld 0 1 (bit m.calRunning)
      | 0x168 => match calSelected s x with
        | some (k, _) => fld 16 16 (kget calNone m.cal k).live.toNat ||| fld 0 16 (kget calNone m.cal k).target.toNat
        | none => 0
      | 0x188 => fld 32 32 m.lastLap ||| fld 16 16 m.laps ||| fld 0 1 (bit m.scrubRun)
      | 0x190 => fld 0 41 m.scrubPos
      | 0x1A0 => fld 0 48 m.ceCount
      | 0x1A8 => fld 0 48 m.ueCount
      | 0x1B0 => spareStatus m
      | 0x1E0 => fld 0 32 m.elogHead
      | _ => w

/-! ## CRYPT (Tables 5.12 to 5.21) -/

def slotCount (s : State) (st : SlotState) : Nat := (s.crypt.slots.filter (·.2.state = st)).length

def readCrypt (s : State) (r : Nat) : Word :=
  let c := s.crypt
  let w := regGet s (blkBase 30 + r)
  match elem r 0x188 8 5 with
  | some n => addrBits 15 (nodeBase s (n + 1))
  | none => match elem r 0x200 8 16 with
    | some n =>
      let v := mapAt s (18 + n)
      addrBits 12 v ||| (if n % 2 = 0 then fld 63 1 (bit (v.testBit 63)) else 0)
    | none => match r with
      | 0x140 => fld 8 4 c.reason ||| fld 2 1 (bit c.refused) ||| fld 1 1 (bit c.done) ||| fld 0 1 (bit c.busy)
      | 0x148 => c.info
      | 0x150 => c.infoMask
      | 0x160 =>
        let l := slotCount s .loaded
        let t := slotCount s .retiring
        fld 48 13 (4096 - l - t) ||| fld 32 13 t ||| fld 16 13 l
      | 0x180 => addrBits 15 (leafBase s)
      | 0x1B0 => addrBits 15 (pktBase s)
      | 0x1B8 => addrBits 15 (spillBase s)
      | 0x1C0 => addrBits 15 (strongBase s)
      | 0x1C8 => addrBits 15 (strongLimit s)
      | _ => w

/-! ## TIER and QOS (Tables 7.8 to 7.16, 10.4 to 10.10) -/

def poolCode : PoolState → Nat
  | .normal => 0
  | .low => 1
  | .critical => 2

/-- The entry that TIER_HOT_SEL selects. -/
def hotData (s : State) : Word :=
  let w := regGet s offHotSel
  match kfind s.spks[spk8 (field w 12 3)].hot (field w 0 12) with
  | some e => fld 63 1 1 ||| fld 56 6 e.ldTag ||| fld 54 1 (bit e.packed) ||| fld 16 33 e.page ||| fld 0 16 e.count
  | none => 0

def readTier (s : State) (r : Nat) : Word :=
  let t := s.tier
  let w := regGet s (blkBase 31 + r)
  match elem r 0x200 8 8 with
  | some n =>
    let q := s.spks[spk8 n]
    fld 32 10 q.promo.length ||| fld 16 11 q.release.length ||| fld 0 11 q.stock.length
  | none => match r with
    | 0x100 => fld 48 2 (poolCode t.pools[0].state) ||| fld 0 33 (poolFree s t.pools[0])
    | 0x110 => fld 48 2 (poolCode t.pools[1].state) ||| fld 0 33 (poolFree s t.pools[1])
    | 0x130 => hotData s
    | 0x140 => fld 0 33 t.moves.length
    | 0x148 => fld 0 48 t.promoted
    | 0x150 => fld 0 48 t.demoted
    | 0x158 => fld 0 48 t.forwarded
    | 0x160 => fld 0 48 t.held
    | 0x180 => addrBits 15 (descBase s)
    | 0x188 => addrBits 15 (descLimit s)
    | 0x190 => addrBits 15 (dtagBase s)
    | 0x198 => fld 0 33 (t.descFree.foldl (fun a p => a + p.2) 0)
    | _ => w

def readQos (s : State) (r : Nat) : Word :=
  let w := regGet s (blkBase 32 + r)
  match elem r 0x140 8 8 with
  | some c => fld 32 16 (budgetCeiling s c) ||| w
  | none => match elem r 0x200 8 64 with
    | some j =>
      let k := spk8 (j / 8)
      fld 48 2 (s.spks[k].boost.getD (j % 8) 0) ||| fld 0 20 (min (ewmaOf s k (j % 8) / 256) 0xFFFFF)
    | none => match elem r 0x400 8 32 with
      | some j =>
        let q := s.ports[port4 (j / 8)]
        fld 48 8 (q.reqs.filter fun o => o.stage = .hold && o.req.cls = j % 8).length ||| fld 0 48 (q.heldCount.getD (j % 8) 0)
      | none => w

/-! ## TILLER and PAIR (Tables 11.14 to 11.21, 12.10 to 12.17) -/

def tilCode : TilState → Nat
  | .down => 0
  | .training => 1
  | .align => 2
  | .init => 3
  | .attest => 4
  | .up => 5
  | .held => 6

def readTil (s : State) (r : Nat) : Word :=
  let t := s.til
  let w := regGet s (blkBase 33 + r)
  match elem r 0x140 8 4 with
  | some c =>
    let h := credAt s (credIdx c 0)
    let d := credAt s (credIdx c 1)
    fld 48 16 (credAvail d) ||| fld 32 16 (credAvail h) ||| fld 16 16 d.adv ||| fld 0 16 h.adv
  | none => match r with
    | 0x100 => fld 32 4 t.quads.toNat ||| fld 0 3 (tilCode t.state) ||| w
    | 0x118 => fld 48 12 t.txNext ||| fld 32 12 ((t.replayBuf.head?.map (·.seq)).getD t.txNext) ||| fld 16 12 t.expect |||
        fld 0 12 t.replayBuf.length
    | 0x160 => fld 16 13 (min 4096 t.fetches.length) ||| fld 0 13 (min 4096 t.mirrors.length)
    | 0x168 => if s.pair.role = .primary then 0 else sfld 0 32 t.theta
    | 0x180 => fld 0 48 t.countCrc
    | 0x188 => fld 0 48 t.countReplay
    | 0x190 => fld 0 48 t.countFecCorr
    | 0x198 => fld 0 48 t.countFecUncorr
    | 0x1A0 => fld 0 48 t.countDown
    | _ => w

/-- A full copy is being sent, or a JOINING member receives one (Table 12.14). -/
def fullCopyActive (s : State) : Bool :=
  s.pair.copies.any (·.full) || (s.pair.role = .joining && s.pair.copyNeeded && !s.pair.copyDone)

def readPair (s : State) (r : Nat) : Word :=
  let p := s.pair
  let w := regGet s (blkBase 34 + r)
  match r with
  | 0x100 => w ||| fld 19 1 (bit p.fenceOut) ||| fld 18 1 (bit p.fenceIn) ||| fld 17 1 (bit p.peerOwn) ||| fld 16 1 (bit p.own) |||
      fld 8 1 (bit p.synced) ||| fld 0 3 (roleCode p.role)
  | 0x118 => fld 63 1 (bit ((s.img.map (·.preferred)).getD false)) ||| w
  | 0x120 => fld 63 1 (bit (fullCopyActive s)) ||| fld 48 11 p.resync.length ||| fld 0 48 p.copyPages
  | 0x128 => fld 40 24 (s.spks.toList.foldl (fun a k => a + k.shadow.length) 0) |||
      fld 16 12 (s.spks.toList.foldl (fun a k => a + k.rejects.length) 0) ||| fld 0 13 p.backlog.length
  | 0x130 => fld 0 15 p.dedup.length
  | 0x140 => fld 0 48 p.countPromote
  | 0x148 => fld 0 48 p.countDedup
  | 0x150 => fld 0 48 p.countRefused
  | 0x158 => fld 0 48 p.countReject
  | _ => w

/-! ## PWR and HUSK (Tables 15.8 to 15.16, 16.8 to 16.16) -/

def pwrCode : PowerState → Nat
  | .start => 0
  | .active => 1
  | .idle => 2
  | .doze => 3
  | .enteringRest => 4
  | .stooking => 5
  | .rest => 6
  | .stook => 7
  | .off => 0

def readPwr (s : State) (r : Nat) : Word :=
  let p := s.pwr
  match r with
  | 0x100 => fld 8 3 p.step ||| fld 0 3 (pwrCode p.state)
  | 0x120 => fld 48 16 p.timeouts ||| fld 32 16 p.ackSram ||| fld 16 16 p.ackCore ||| fld 0 1 (bit p.avsBusy)
  | _ => regGet s (blkBase 35 + r)

def outCode : OutState → Nat
  | .off => 0
  | .wait => 1
  | .ramp => 2
  | .enhance => 3
  | .on => 4
  | .limit => 5
  | .cooldown => 6
  | .discharge => 7
  | .fetFault => 8

/-- Milliseconds left of a time that began at `at_` and lasts `ns`, a started millisecond counted whole. -/
def msLeft (s : State) (at_ ns : Nat) : Nat := (at_ + ns - s.dtime + 999999) / 1000000

def outStatus (s : State) (o : Fin 4) : Word :=
  let x := s.husk.outs[o]
  fld 48 16 x.current ||| fld 32 16 x.vout |||
    (if x.state = .cooldown then fld 16 16 (msLeft s x.enteredAt x.coolNs) else 0) ||| fld 12 4 x.lastTrip |||
    fld 9 3 x.lastPoint ||| fld 8 1 (bit (inReg s o)) ||| fld 4 1 (bit x.onPending) ||| fld 0 4 (outCode x.state)

def readHusk (s : State) (r : Nat) : Word :=
  let h := s.husk
  let w := regGet s (blkBase 36 + r)
  match elem r 0x140 8 4 with
  | some o => outStatus s (port4 o)
  | none => match elem r 0x180 8 4 with
    | some o => fld 0 48 h.outs[port4 o].tripCount
    | none => match r with
      | 0x100 => fld 48 16 h.feeds[0].mv ||| fld 32 16 h.feeds[1].mv ||| fld 16 16 h.vinOr ||| fld 6 1 (bit h.insertDone) |||
          fld 5 1 (bit h.feeds[1].qualified) ||| fld 4 1 (bit h.feeds[0].qualified) ||| fld 3 1 (bit h.feeds[1].orOn) |||
          fld 2 1 (bit h.feeds[0].orOn) ||| fld 1 1 (bit h.pfwDrive) ||| fld 0 1 (bit s.pins.pfwLow)
      | 0x110 => w ||| (match h.insertAt with
          | some t => if h.insertDone then 0 else fld 16 16 (msLeft s t (insertNs s))
          | none => 0)
      | 0x118 => fld 8 4 ((s.img.map (·.outEnable)).getD 0)
      | _ => w

/-! ## CLK and PERF (Tables 19.6 to 19.11, 20.4 to 20.7) -/

/-- SOURCE of a domain (Tables 20.1, 20.7). -/
def domSource (d : Nat) : Nat :=
  if d = 0 then 0 else if d = 1 then 1 else if d = 2 then 2 else if d = 3 then 3 else if d = 4 then 4
  else if d < 9 then 3 else if d < 13 then 4 else if d = 13 then 3 else if d = 14 then 4 else if d < 17 then 9
  else if d < 21 then 5 else if d < 37 then 6 else if d < 41 then 5 else if d < 59 then 7 else if d < 63 then 6 else 8

/-- MHz of a host link's clocks at a trained speed (Table 20.1). -/
def speedMhz (sp : Nat) : Nat := if sp = 3 then 1000 else if sp = 2 then 500 else if sp = 1 then 250 else 0

def topSpeed (q : Port) : Nat := q.links.toList.foldl (fun a l => max a l.speed) 0

/-- FREQ_MHZ of a domain while it runs (Table 20.1). -/
def domFreq (s : State) (d : Nat) : Nat :=
  let rate := (s.img.map (·.rate)).getD 0
  if d = 0 then 25 else if d = 1 then (if s.clk.coarse then 25 else 1000) else if d = 2 then 100 else if d = 3 then 1600
  else if d < 17 then 2000 else if d < 21 then 1000
  else if d < 37 then
    let p := port4 ((d - 21) / 4)
    if groupUsed s p ((d - 21) % 4) then speedMhz s.ports[p].links[groupLink s p ((d - 21) % 4)].speed else 0
  else if d < 41 then speedMhz (topSpeed s.ports[port4 (d - 37)])
  else if d < 57 then rate / 8 else if d < 59 then rate / 4 else 1750

def readClk (s : State) (r : Nat) : Word :=
  match elem r 0x200 8 64 with
  | some d =>
    if domRuns s d then fld 32 16 (domFreq s d) ||| fld 16 4 (domSource d) ||| fld 2 1 (bit (domResync s d)) |||
      fld 0 1 (bit (domLocked s d))
    else fld 16 4 (domSource d) ||| fld 1 1 1
  | none => match r with
    | 0x100 => s.clk.overrun
    | 0x108 => fld 0 48 s.clk.overrunCount
    | _ => regGet s (blkBase 37 + r)

def windowCode : WindowState → Nat
  | .idle => 0
  | .waiting => 1
  | .counting => 2
  | .done => 3

def readPerf (s : State) (r : Nat) : Word :=
  match elem r 0x2000 8 192 with
  | some n => fld 0 48 (kget 0 s.perf.counts n)
  | none => match elem r 0x120 8 3 with
    | some j => kget 0 s.perf.ovf j
    | none => match r with
      | 0x118 => fld 2 1 (bit s.perf.frozen) ||| fld 0 2 (windowCode s.perf.window)
      | _ => regGet s (blkBase 38 + r)

/-! ## QUEUE (Tables 17.1, 17.3, 17.12 to 17.16) -/

/-- Word `n` of a value of several words. -/
def wordOf {w : Nat} (v : BitVec w) (n : Nat) : Word := v.extractLsb' (64 * n) 64

/-- A verdict slot's two words (Table 17.3). -/
def verdictWord (v : Verdict) (n : Nat) : Word :=
  if n = 0 then fld 32 16 v.id ||| fld 16 8 v.detail ||| fld 8 8 v.reason ||| fld 0 8 v.status else fld 0 64 v.time

/-- A register of a pair's page. -/
def readPairPage (s : State) (n r : Nat) : Word :=
  let q := qpAt s n
  match r with
  | 0x00 => fld 0 1 (bit q.enable)
  | 0x08 => fld 0 6 q.sqTail
  | 0x10 => fld 0 6 q.sqHead
  | 0x18 => fld 0 6 q.cqHead
  | 0x20 => fld 0 6 q.cqTail
  | 0x28 => fld 32 16 (s.queue.recovery.filter (·.pair = n)).length ||| fld 0 7 q.taken.length
  | _ => 0

/-- A word of a pair's rings: the SQ, and the CQ 4 KiB above it. -/
def readRing (s : State) (n r : Nat) : Word :=
  let q := qpAt s n
  if r < 0x1000 then wordOf (kget (0 : Line) q.sq (r / 64)) (r % 64 / 8)
  else if r < 0x1800 then wordOf (kget (0 : BitVec 256) q.cq ((r - 0x1000) / 32)) (r % 32 / 8)
  else 0

def readQueue (s : State) (r : Nat) : Word :=
  let u := s.queue
  if 0x80000 ≤ r then readRing s ((r - 0x80000) / 0x2000) (r % 0x2000)
  else if 0x10000 ≤ r && r < 0x50000 then readPairPage s ((r - 0x10000) / 0x1000) (r % 0x1000)
  else if 0x2000 ≤ r && r < 0x4000 then wordOf (kget (0 : BitVec 256) u.slots ((r - 0x2000) / 32)) (r % 32 / 8)
  else if 0x4000 ≤ r && r < 0x5000 then verdictWord (verdictAt s ((r - 0x4000) / 16)) (r % 16 / 8)
  else match r with
    | 0x100 => fld 0 8 u.gateTail
    | 0x108 => fld 0 8 u.gateHead
    | 0x110 => fld 0 15 u.recovery.length
    | _ => 0

/-! ## The whole BAR -/

/-- The register at offset `r` of block `b`. -/
def readReg (s : State) (b : Fin 40) (r : Nat) : Word :=
  if r < 0x100 then readHeader s b r
  else match (blkType b).1 with
    | 1 => readGlb s r
    | 2 => readPort s (port4 (blkType b).2) r
    | 3 => readSheaf s r
    | 4 => readSpk s (spk8 (blkType b).2) r
    | 5 => readMc s (mc16 (blkType b).2) r
    | 6 => readCrypt s r
    | 7 => readTier s r
    | 8 => readQos s r
    | 9 => readTil s r
    | 10 => readPair s r
    | 11 => readPwr s r
    | 12 => readHusk s r
    | 13 => readClk s r
    | 14 => readPerf s r
    | 15 => readQueue s r
    | _ => 0

/-- A 64-bit read at an offset of BAR0 that is a multiple of 8. -/
def readBar0 (s : State) (off : Nat) : Word :=
  match blkOf off with
  | none => 0
  | some b => readReg s b (off - blkBase b)

/-- What a read returns: the register, or its half for a 32-bit read (R490). -/
def readAccess (s : State) (off width : Nat) : Word :=
  let w := readBar0 s (off / 8 * 8)
  if width = 8 then w else fld 0 32 (if off % 8 = 0 then w.toNat else w.toNat / 2 ^ 32)

end Sys2Proof.Machine
end

