-- ==== Sys2Proof/Machine/Cycles.lean ====
section
/-! DEFINITION. What the performance counters count in cycles: CYCLES, occupancies, waits and issue slots (R454, R458, Tables 19.2
to 19.4). Cycles pass in the idle step alone (log entries 1 and 131). -/

namespace Sys2Proof.Machine

/-- Cycles of a clock of `mhz` MHz in the interval of DTIME from `lo` to `hi`. -/
def cyclesIn (mhz lo hi : Nat) : Nat := hi * mhz / 1000 - lo * mhz / 1000

/-- The cycles of domain `d` in an interval in which its block counts: none while its clock is stopped or gated (R402, R461). -/
def blockCycles (s : State) (d lo hi : Nat) : Nat :=
  if !domRuns s d || isGated s d then 0 else cyclesIn (domFreq s d) lo hi

/-- What an event adds per cycle: its amount in each class of a mask; an event not marked C takes every class (R454). -/
def classSum (mask : Nat) (of : Nat → Nat) : Nat :=
  (List.range 8).foldl (fun a c => if mask = 0 || mask.testBit c then a + of c else a) 0

/-- Transactions of a home in a state. -/
def txnsIn (s : State) (k : Fin 8) (st : TxState) : Nat := (s.spks[k].txns.filter (·.state = st)).length

/-- An operation of a spikelet is ready and blocked: by a channel queue, a culm-node fetch or an eviction buffer (R458). -/
def slotBlocked (s : State) (k : Fin 8) : Bool :=
  s.spks[k].txns.any fun t =>
    t.state = .sfWait || (t.state = .memory && (!t.queued || t.waiting || !(txnMissing s t).isEmpty))

/-- An occupancy of a spikelet (Table 19.2). -/
def spkOcc (s : State) (k : Fin 8) (mask event : Nat) : Nat :=
  match event with
  | 0x10 => classSum mask (slotsHeld s k)
  | 0x11 => txnsIn s k .holdWait
  | 0x12 => txnsIn s k .biWait
  | 0x13 => txnsIn s k .sfWait
  | 0x14 => txnsIn s k .parked
  | _ => 0

/-- An occupancy of a port (Table 19.3). -/
def portOcc (s : State) (p : Fin 4) (mask event : Nat) : Nat :=
  match event with
  | 0x10 => inflight s p
  | 0x11 => classSum mask fun c => heldReqs s p (some c)
  | 0x12 => s.ports[p].slots.length
  | _ => 0

/-- The accesses queued in both subchannels of a channel. -/
def chanQueue (s : State) (x : Fin 16) : List Txn :=
  queueOf s (spk8 (x / 2)) (2 * x) ++ queueOf s (spk8 (x / 2)) (2 * x + 1)

/-- The occupancy of a channel (Table 19.4). -/
def mcOcc (s : State) (x : Fin 16) (mask event : Nat) : Nat :=
  match event with
  | 0x10 => classSum mask fun c => ((chanQueue s x).filter fun t => t.msg.req.cls = c).length
  | _ => 0

/-- What a selection adds in `n` cycles of an occupancy `o`: the sum of it, or the cycles in which it compares (R454). -/
def occAdds (sel : Word) (n o : Nat) : Nat :=
  match field sel 60 2 with
  | 0 => n * o
  | 1 => if o > field sel 32 16 then n else 0
  | _ => if o ≤ field sel 32 16 then n else 0

/-- What counter `i` with selection `sel` adds in the interval from `lo` to `hi`, in which no command ran: an operation
issues within a command only, so every issue slot of the interval is starved (R458). -/
def cycleAdds (s : State) (i : Nat) (sel : Word) (lo hi : Nat) : Nat :=
  let event := field sel 0 8
  let mask := field sel 48 8
  if i < 128 then
    let k := spk8 (i / 16)
    let n := blockCycles s (domSpk k) lo hi
    match event with
    | 0x01 => n
    | 0x1A => if slotBlocked s k then 0 else 4 * n
    | 0x1B => if slotBlocked s k then 4 * n else 0
    | _ => if isOccupancy event then occAdds sel n (spkOcc s k mask event) else 0
  else if i < 160 then
    let p := port4 ((i - 128) / 8)
    let n := blockCycles s (domPort p) lo hi
    match event with
    | 0x01 => n
    | _ => if isOccupancy event then occAdds sel n (portOcc s p mask event) else 0
  else
    let x := mc16 ((i - 160) / 2)
    let n := blockCycles s (domMc x) lo hi
    match event with
    | 0x01 => n
    | 0x05 => if (chanQueue s x).any fun t => targetBusy s t.msg.mpa then n else 0
    | _ => if isOccupancy event then occAdds sel n (mcOcc s x mask event) else 0

/-- The part of an interval of DTIME in which counters count (R453, R457). -/
def countSpan (s : State) (lo hi : Nat) : Nat × Nat :=
  let ctl := regGet s offPerfCtl
  let start := (regGet s offWinStart).toNat
  if flag ctl 0 then (hi, hi)
  else if flag ctl 1 then
    if s.perf.window = .done then (hi, hi) else (max lo start, min hi (start + (regGet s offWinLen).toNat))
  else (lo, hi)

/-- Every enabled counter adds what the cycles of an interval bring it. -/
def countCycles (lo hi : Nat) (s : State) : State :=
  let (a, b) := countSpan s lo hi
  if b ≤ a then s
  else ((List.range 192).filter fun i => flag (regGet s (offPerfSel i)) 63).foldl (fun t i =>
    match cycleAdds s i (regGet s (offPerfSel i)) a b with
    | 0 => t
    | n + 1 => perfAdd 16 i (n + 1) t) s

/-- The step of an empty queue: a flit time of the Tiller transmitter, a tick of DTIME, and the cycles that it spans. -/
def idleStep (s : State) : State := countCycles s.dtime (idleTick s).dtime (idleTick s)

end Sys2Proof.Machine
end

