-- ==== Sys2Proof/Machine/Bmc.lean ====
section
/-! DEFINITION. The MCTP endpoint that the BMC reaches (R437). Bran answers MCTP control and PLDM, whose contents belong to
DMTF standards; the responder of vendor messages runs in the always-on domain. No message changes a register. -/

namespace Sys2Proof.Machine

/-- Bran answers with content that the cited standard fixes and the spec does not state; while Bran is down no answer leaves. -/
def branAnswer (s : State) : State :=
  if s.fw.branUp && s.pins.vddAux then
    emit (.mctp (natToBytes 64 (Config.payload s.free).toNat)) { s with free := s.free + 1 }
  else s

def doMctpControl (_msg : List Byte) (s : State) : State := branAnswer s

/-- An MCTP control message (R437). -/
def execMctpControl (msg : List Byte) (s : State) : Host.Outcome State Fault Refusal := .next (doMctpControl msg s)

def doPldmType0 (_msg : List Byte) (s : State) : State := branAnswer s

/-- A PLDM type 0 message (R437). -/
def execPldmType0 (msg : List Byte) (s : State) : Host.Outcome State Fault Refusal := .next (doPldmType0 msg s)

/-- The sensors of R437 under the model's own numbers (log entry 36): 2x + d a DIMM temperature in 0.25 °C, 32 and 33 the
acknowledged rails in mV, 34 and 35 the feeds in mV, 36 to 39 the output currents in mA, 41 power state, 42 pair role,
43 bring-up step. Package power, 40, is measured and stated by no rule. -/
def sensorValue (s : State) (n : Nat) : Option Int :=
  if n < 32 then some (if n % 2 = 0 then s.mcs[mc16 (n / 2)].temps[0] else s.mcs[mc16 (n / 2)].temps[1])
  else match n with
    | 32 => some s.pwr.ackCore
    | 33 => some s.pwr.ackSram
    | 34 => some s.husk.feeds[0].mv
    | 35 => some s.husk.feeds[1].mv
    | 36 => some s.husk.outs[0].current
    | 37 => some s.husk.outs[1].current
    | 38 => some s.husk.outs[2].current
    | 39 => some s.husk.outs[3].current
    | 41 => some (pwrCode s.pwr.state)
    | 42 => some (roleCode s.pair.role)
    | 43 => some s.bring.step
    | _ => none

/-- Completion 0, the sensor and its reading in four bytes; 1 for a sensor that R437 does not list. -/
def sensorAnswer (s : State) (n : Nat) : List Byte :=
  match sensorValue s n with
  | some v => natToBytes 1 0 ++ natToBytes 1 n ++ natToBytes 4 (BitVec.ofInt 32 v).toNat
  | none => natToBytes 1 1

def doPldmType2 (sensor : Nat) (s : State) : State :=
  if !s.fw.branUp || !s.pins.vddAux then s
  else if sensor = 40 then
    emit (.mctp (natToBytes 1 0 ++ natToBytes 1 40 ++ natToBytes 4 (Config.payload s.free).toNat)) { s with free := s.free + 1 }
  else emit (.mctp (sensorAnswer s sensor)) s

/-- A PLDM type 2 sensor read (R437). -/
def execPldmType2 (sensor : Nat) (s : State) : Host.Outcome State Fault Refusal := .next (doPldmType2 sensor s)

/-- What a vendor message may name: a register of a common header, GLB_BRINGUP or GLB_IMAGE_STATUS (R437). -/
def vendorNames (off : Nat) : Bool :=
  off % 8 = 0 && match blkOf off with
    | none => false
    | some b =>
      let r := off - blkBase b
      (r < 0x48 && r ≠ 0x18) || (b = 0 && (r = 0x400 || r = 0x410))

/-- Completion 0 and the register; or NOT_AVAILABLE, 1, with the power state, KIND and CLEAN of the last entry, and its DTIME
(R437). -/
def vendorAnswer (s : State) (off : Nat) : List Byte :=
  if corePowered s then natToBytes 1 0 ++ natToBytes 8 (readBar0 s off).toNat
  else
    let w := regGet s offStookLog1
    natToBytes 1 1 ++ natToBytes 1 (pwrCode s.pwr.state) ++ natToBytes 1 (field w 62 2) ++ natToBytes 1 (field w 61 1) ++
      natToBytes 8 (regGet s offStookLog0).toNat

def doZalouxVendorMessage (off : Nat) (s : State) : State :=
  if s.pins.vddAux && vendorNames off then emit (.mctp (vendorAnswer s off)) s else s

/-- A Zaloux vendor message that reads a status tap (R437). -/
def execZalouxVendorMessage (off : Nat) (s : State) : Host.Outcome State Fault Refusal := .next (doZalouxVendorMessage off s)

end Sys2Proof.Machine
end

