-- ==== Sys2Proof/Machine/Registers.lean ====
section
/-! DEFINITION. Accesses to BAR0: which are bad (R489), and a write of any register (R7 to R9, R490). A write of a register whose
command has a row of its own is that command. -/

namespace Sys2Proof.Machine

/-! ## Bad accesses -/

/-- A width, alignment or range that R489 does not serve, or a 32-bit write of a register with a writable field across bit 32. -/
def isBadAccess (off width : Nat) (write : Bool) : Bool :=
  !((width = 8 && off % 8 = 0) || (width = 4 && off % 4 = 0)) || (blkOf off).isNone ||
    (write && width = 4 && crosses32 (off / 8 * 8))

/-- Unsupported Request, and BAD_ACCESS with the offset and the requester (R489, R492). -/
def badRequest (m : Master) (off : Nat) (s : State) : State :=
  emit (.unsupportedRequest m off) (raise blkGlb 1 ⟨off, 0, masterId m, 0xF, none⟩ s)

def doBadAccess (m : Master) (off width : Nat) (write : Bool) (s : State) : State :=
  if isBadAccess off width write then badRequest m off s else s

/-- A BAR0 access that R489 turns away. -/
def execBadAccess (m : Master) (off width : Nat) (write : Bool) (s : State) : Host.Outcome State Fault Refusal :=
  .next (doBadAccess m off width write s)

/-! ## Halves (R490) -/

def halfOf (off width : Nat) : Half := if width = 8 then .whole else if off % 8 = 0 then .low else .high

/-- The written bits at their place in the register, the other half zero. -/
def halfWord (h : Half) (v : Word) : Word :=
  match h with
  | .whole => v
  | .low => fld 0 32 v.toNat
  | .high => fld 32 32 v.toNat

/-- The written half over the value that the other half keeps. -/
def overWord (h : Half) (old v : Word) : Word :=
  match h with
  | .whole => v
  | .low => fld 32 32 (old.toNat / 2 ^ 32) ||| halfWord .low v
  | .high => fld 0 32 old.toNat ||| halfWord .high v

/-- Word `n` of a value of several words replaced, as far as the half goes. -/
def setWord {w : Nat} (old : BitVec w) (n : Nat) (h : Half) (v : Word) : BitVec w :=
  let new : BitVec w := (overWord h (wordOf old n) v).setWidth w <<< (64 * n)
  let gap : BitVec w := (BitVec.allOnes 64).setWidth w <<< (64 * n)
  (old &&& ~~~ gap) ||| new

/-! ## A write of each block -/

/-- The common header; reserved offsets are ignored (R446). -/
def writeHeader (m : Master) (b : Fin 40) (r : Nat) (h : Half) (v : Word) (s : State) : State :=
  let w := halfWord h v
  let lo : BitVec 32 := w.setWidth 32
  match r with
  | 0x00 => doCauseClear m b lo s
  | 0x08 => if h = .high then guardWrite m (blkBase b + 8) id s else doCauseMaskWrite m b lo s
  | 0x10 => if flag w 63 then doForceArm m b lo s else doForceReport m b lo s
  | 0x40 => if flag w 0 then doFeRearm m b s else guardWrite m (blkBase b + 0x40) id s
  | _ => guardWrite m (blkBase b + r) id s

/-- ON and OFF commands of HUSK_OUT_CTL; both for one output change nothing for it (Table 15.11). -/
def outCtl (m : Master) (v : Word) (s : State) : State :=
  guardWrite m offHuskOutCtl (fun t => (List.finRange 4).foldl (fun u (o : Fin 4) =>
    if flag v o && flag v (4 + o) then u else if flag v o then commandOn o u else if flag v (4 + o) then commandOff o u else u) t) s

/-- A write of CRY_SLOT_CMD: the command with GO, else its fields alone. -/
def slotCmdWrite (m : Master) (v : Word) (s : State) : State :=
  if flag v 0 then slotCmd m (field v 60 4) (field v 32 12) s else guardWrite m offSlotCmd (regWrite .whole offSlotCmd v) s

/-- A write of SPK_PG_CMD: its OP if listed, else the OP it holds (R9). -/
def pgWrite (m : Master) (k : Fin 8) (v : Word) (s : State) : State :=
  let op := field v 60 4
  match if 1 ≤ op && op ≤ 3 then op else regField s (offPgCmd k) 60 4 with
  | 1 => doPageHold m k v s
  | 2 => doPageRelease m k v s
  | 3 => doPageRecall m k v s
  | _ => guardWrite m (offPgCmd k) (regWrite .whole (offPgCmd k) v) s

/-- A register of a command-queue pair's page. -/
def pairPageWrite (m : Master) (n : Fin 64) (r : Nat) (h : Half) (v : Word) (s : State) : State :=
  if h = .high then (if mayWritePair s m n then s else refusedWrite blkQueue 0 m (offPair n + r) s)
  else match r with
    | 0x00 => doQpEnable m n v s
    | 0x08 => doSqTailWrite m n v s
    | 0x18 => doCqHeadWrite m n v s
    | _ => if mayWritePair s m n then s else refusedWrite blkQueue 0 m (offPair n + r) s

/-- A word of a pair's rings. -/
def ringWrite (n r : Nat) (h : Half) (v : Word) (s : State) : State :=
  if r < 0x1000 then updQp n (fun q =>
    let i := r / 64
    { q with sq := kset (0 : Line) q.sq i (setWord (kget (0 : Line) q.sq i) (r % 64 / 8) h v) }) s
  else if r < 0x1800 then updQp n (fun q =>
    let i := (r - 0x1000) / 32
    { q with cq := kset (0 : BitVec 256) q.cq i (setWord (kget (0 : BitVec 256) q.cq i) (r % 32 / 8) h v) }) s
  else s

/-- A word of a proposal slot. -/
def slotWrite (r : Nat) (h : Half) (v : Word) (s : State) : State :=
  let i := (r - 0x2000) / 32
  { s with queue := { s.queue with
    slots := kset 0 s.queue.slots i (setWord (kget (0 : BitVec 256) s.queue.slots i) (r % 32 / 8) h v) } }

/-- A word of a verdict slot (Table 17.3). -/
def verdictWrite (r : Nat) (h : Half) (v : Word) (s : State) : State :=
  let i := (r - 0x4000) / 16
  let old := verdictAt s i
  let w := overWord h (verdictWord old (r % 16 / 8)) v
  let new : Verdict := if r % 16 / 8 = 0 then
      { old with status := field w 0 8, reason := field w 8 8, detail := field w 16 8, id := field w 32 16, used := true }
    else { old with time := w.toNat, used := true }
  { s with queue := { s.queue with verdicts := kset Verdict.init s.queue.verdicts i new } }

def queueWrite (m : Master) (r : Nat) (h : Half) (v : Word) (s : State) : State :=
  let off := blkBase 39 + r
  if 0x80000 ≤ r then guardWrite m off (ringWrite ((r - 0x80000) / 0x2000) (r % 0x2000) h v) s
  else if hr : 0x10000 ≤ r ∧ r < 0x50000 then pairPageWrite m ⟨(r - 0x10000) / 0x1000, by omega⟩ (r % 0x1000) h v s
  else if 0x2000 ≤ r && r < 0x4000 then guardWrite m off (slotWrite r h v) s
  else if 0x4000 ≤ r && r < 0x5000 then guardWrite m off (verdictWrite r h v) s
  else if r = 0x100 && h ≠ .high then guardWrite m off (tailWrite (field v 0 8)) s
  else guardWrite m off id s

/-- The registers of the PERF block that are more than plain fields. -/
def perfWrite (m : Master) (r : Nat) (h : Half) (v : Word) (s : State) : State :=
  let off := blkBase 38 + r
  let w := overWord h (regGet s off) v
  if hs : 0x1000 ≤ r ∧ r < 0x1600 then doPerfSelWrite m ⟨(r - 0x1000) / 8, by omega⟩ w s
  else if hc : 0x2000 ≤ r ∧ r < 0x2600 then doPerfCountWrite m ⟨(r - 0x2000) / 8, by omega⟩ v s
  else match elem r 0x120 8 3 with
    | some j => guardWrite m off (fun t =>
        { t with perf := { t.perf with ovf := kset 0 t.perf.ovf j (kget 0 t.perf.ovf j &&& ~~~ v) } }) s
    | none => match r with
      | 0x100 => perfCtl m w s
      | 0x108 => guardWrite m off (windowWrite off v) s
      | 0x110 => guardWrite m off (windowWrite off v) s
      | _ => guardWrite m off (regWrite h off v) s

/-- A write of the register at offset `r` above the header of block `b`. -/
def writeReg (m : Master) (b : Fin 40) (r : Nat) (h : Half) (v : Word) (s : State) : State :=
  let off := blkBase b + r
  let w := overWord h (regGet s off) v
  let plain := guardWrite m off (regWrite h off v) s
  let i := (blkType b).2
  match (blkType b).1, r with
  | 2, 0x100 => portCtl m (port4 i) w s
  | 2, 0x108 => guardWrite m off (fun t =>
      if flag (halfWord h v) 9 then updPort (port4 i) (fun q => { q with drainDone := false }) t else t) s
  | 2, _ => match elem r 0x400 8 64 with
    | some j => if hj : j < 64 then doDecMapWrite m (port4 i) ⟨j / 4, by omega⟩ (port4 j) w s else plain
    | none => plain
  | 3, 0x190 => doSheafFill m w s
  | 3, 0x1A8 => doSheafInvalidate m w s
  | 3, 0x1C0 => doWalkCacheFlush m w s
  | 4, 0x100 => doOrderedModeWrite m (spk8 i) w s
  | 4, 0x140 => pgWrite m (spk8 i) w s
  | 5, 0x148 => doRecalForce m (mc16 i) w s
  | 5, 0x168 => if h = .high then guardWrite m off id s else doCalTargetWrite m (mc16 i) w s
  | 5, 0x1B8 => spareCmd m (mc16 i) w s
  | 6, 0x100 => slotCmdWrite m w s
  | 6, _ => match elem r 0x120 8 4 with
    | some n => guardWrite m off (fun t =>
        { t with crypt := { t.crypt with keyIn := updAt t.crypt.keyIn (port4 n) fun _ => v } }) s
    | none => plain
  | 9, 0x108 => tilCtl m w s
  | 10, 0x110 => allSettle (pairCtl m w s)
  | 11, 0x108 => doPwrCtlRest m w s
  | 11, 0x118 => doAvsRequest m w s
  | 12, 0x118 => outCtl m w s
  | 12, 0x120 => doHuskSealArm m w s
  | 13, 0x100 => guardWrite m off (fun t => { t with clk := { t.clk with overrun := t.clk.overrun &&& ~~~ v } }) s
  | 14, _ => perfWrite m r h v s
  | 15, _ => queueWrite m r h v s
  | _, _ => plain

def doRegisterWrite (m : Master) (off width : Nat) (v : Word) (s : State) : State :=
  if isBadAccess off width true then badRequest m off s
  else match blkOf off with
    | none => s
    | some b =>
      let r := off / 8 * 8 - blkBase b
      if r < 0x100 then writeHeader m b r (halfOf off width) v s else writeReg m b r (halfOf off width) v s

/-- A write of a register of BAR0 by its access codes (R7 to R9, R489, R490). -/
def execRegisterWrite (m : Master) (off width : Nat) (v : Word) (s : State) : Host.Outcome State Fault Refusal :=
  .next (doRegisterWrite m off width v s)

end Sys2Proof.Machine
end

