-- ==== Sys2Proof/Machine/Dispatch.lean ====
section
/-! DEFINITION. The meaning of each command: one arm per constructor of Instr. -/

namespace Sys2Proof.Machine

def exec (i : Instr) (s : State) : Host.Outcome State Fault Refusal :=
  match i with
  | .powerOn bmcMode bmcAddr => Sys2Proof.Machine.execPowerOn bmcMode bmcAddr s
  | .vddAuxLost => Sys2Proof.Machine.execVddAuxLost s
  | .powerGoodRise rngOk => Sys2Proof.Machine.execPowerGoodRise rngOk s
  | .powerGoodFall => Sys2Proof.Machine.execPowerGoodFall s
  | .coldStartImage => Sys2Proof.Machine.execColdStartImage s
  | .coldStartRails => Sys2Proof.Machine.execColdStartRails s
  | .coldStartPower => Sys2Proof.Machine.execColdStartPower s
  | .spdCheckDone x spd0 spd1 => Sys2Proof.Machine.execSpdCheckDone x spd0 spd1 s
  | .pmicPowerGood x => Sys2Proof.Machine.execPmicPowerGood x s
  | .pmicTimeout x => Sys2Proof.Machine.execPmicTimeout x s
  | .channelTrained x faults temp0 temp1 => Sys2Proof.Machine.execChannelTrained x faults temp0 temp1 s
  | .coldStartKeys => Sys2Proof.Machine.execColdStartKeys s
  | .coldStartFill => Sys2Proof.Machine.execColdStartFill s
  | .coldStartLoad => Sys2Proof.Machine.execColdStartLoad s
  | .release => Sys2Proof.Machine.execRelease s
  | .warmResumeDram => Sys2Proof.Machine.execWarmResumeDram s
  | .channelRestore x snapshotOk temp0 temp1 fails => Sys2Proof.Machine.execChannelRestore x snapshotOk temp0 temp1 fails s
  | .warmResumeCulm => Sys2Proof.Machine.execWarmResumeCulm s
  | .perstAssert p => Sys2Proof.Machine.execPerstAssert p s
  | .perstRelease p => Sys2Proof.Machine.execPerstRelease p s
  | .linkTrained p l width speed flit256 => Sys2Proof.Machine.execLinkTrained p l width speed flit256 s
  | .linkLaneLoss p l width => Sys2Proof.Machine.execLinkLaneLoss p l width s
  | .linkRecoveryDone p l width => Sys2Proof.Machine.execLinkRecoveryDone p l width s
  | .linkDown p l => Sys2Proof.Machine.execLinkDown p l s
  | .ideIntegrityFailure p l tags => Sys2Proof.Machine.execIdeIntegrityFailure p l tags s
  | .ideKmKeyProg p l secured kind key => Sys2Proof.Machine.execIdeKmKeyProg p l secured kind key s
  | .ideKmKSetGo p l secured kind => Sys2Proof.Machine.execIdeKmKSetGo p l secured kind s
  | .portCtlEnable m p v => Sys2Proof.Machine.execPortCtlEnable m p v s
  | .portCtlDisable m p v => Sys2Proof.Machine.execPortCtlDisable m p v s
  | .drainTimeout p => Sys2Proof.Machine.execDrainTimeout p s
  | .decoderCommit p ld d base size ig iw => Sys2Proof.Machine.execDecoderCommit p ld d base size ig iw s
  | .decMapWrite m p ld d v => Sys2Proof.Machine.execDecMapWrite m p ld d v s
  | .memRd p l ld tag hpa snp par => Sys2Proof.Machine.execMemRd p l ld tag hpa snp par s
  | .memWr p l ld tag hpa data poison par => Sys2Proof.Machine.execMemWr p l ld tag hpa data poison par s
  | .memWrPtl p l ld tag hpa data be par => Sys2Proof.Machine.execMemWrPtl p l ld tag hpa data be par s
  | .memInv p l ld tag hpa par => Sys2Proof.Machine.execMemInv p l ld tag hpa par s
  | .memClnEvct p l ld tag hpa par => Sys2Proof.Machine.execMemClnEvct p l ld tag hpa par s
  | .admissionWindow => Sys2Proof.Machine.execAdmissionWindow s
  | .walkStart => Sys2Proof.Machine.execWalkStart s
  | .walkRead w noise par => Sys2Proof.Machine.execWalkRead w noise par s
  | .sheafFill m v => Sys2Proof.Machine.execSheafFill m v s
  | .sheafInvalidate m v => Sys2Proof.Machine.execSheafInvalidate m v s
  | .invTimeout => Sys2Proof.Machine.execInvTimeout s
  | .walkCacheFlush m v => Sys2Proof.Machine.execWalkCacheFlush m v s
  | .pinnedReinstall => Sys2Proof.Machine.execPinnedReinstall s
  | .homeRequest k n par => Sys2Proof.Machine.execHomeRequest k n par s
  | .holdEnd k tid => Sys2Proof.Machine.execHoldEnd k tid s
  | .birsp p bid rsp par => Sys2Proof.Machine.execBirsp p bid rsp par s
  | .biConflict p bid par => Sys2Proof.Machine.execBiConflict p bid par s
  | .biTimeout k sid => Sys2Proof.Machine.execBiTimeout k sid s
  | .homeMemoryDone k tid noise => Sys2Proof.Machine.execHomeMemoryDone k tid noise s
  | .culmNodeFetchDone k mpa noise par => Sys2Proof.Machine.execCulmNodeFetchDone k mpa noise par s
  | .reencryptionDone k base => Sys2Proof.Machine.execReencryptionDone k base s
  | .culmRetagDone k base => Sys2Proof.Machine.execCulmRetagDone k base s
  | .homeResponse p rid => Sys2Proof.Machine.execHomeResponse p rid s
  | .pageHold m k v => Sys2Proof.Machine.execPageHold m k v s
  | .pageRelease m k v => Sys2Proof.Machine.execPageRelease m k v s
  | .pageRecall m k v => Sys2Proof.Machine.execPageRecall m k v s
  | .parkRetryResend p rid => Sys2Proof.Machine.execParkRetryResend p rid s
  | .orderedModeWrite m k v => Sys2Proof.Machine.execOrderedModeWrite m k v s
  | .loadGen m slot => Sys2Proof.Machine.execLoadGen m slot s
  | .loadKey m slot => Sys2Proof.Machine.execLoadKey m slot s
  | .setPolicy m slot => Sys2Proof.Machine.execSetPolicy m slot s
  | .retire m slot => Sys2Proof.Machine.execRetire m slot s
  | .query m slot => Sys2Proof.Machine.execQuery m slot s
  | .badOp m op slot => Sys2Proof.Machine.execBadOp m op slot s
  | .retireDrainComplete => Sys2Proof.Machine.execRetireDrainComplete s
  | .retireTimeout => Sys2Proof.Machine.execRetireTimeout s
  | .keyMsgLoad km => Sys2Proof.Machine.execKeyMsgLoad km s
  | .keyMsgRetire km => Sys2Proof.Machine.execKeyMsgRetire km s
  | .keyMsgRegen km => Sys2Proof.Machine.execKeyMsgRegen km s
  | .keyMsgPolicy km => Sys2Proof.Machine.execKeyMsgPolicy km s
  | .keyMsgQuery km => Sys2Proof.Machine.execKeyMsgQuery km s
  | .spdmRequest p l h => Sys2Proof.Machine.execSpdmRequest p l h s
  | .doeDiscovery p l index => Sys2Proof.Machine.execDoeDiscovery p l index s
  | .cdatTableAccess p l => Sys2Proof.Machine.execCdatTableAccess p l s
  | .compressionJobDone k jid streams => Sys2Proof.Machine.execCompressionJobDone k jid streams s
  | .forwardRepoint k desc => Sys2Proof.Machine.execForwardRepoint k desc s
  | .stockRefill k => Sys2Proof.Machine.execStockRefill k s
  | .hotEpoch => Sys2Proof.Machine.execHotEpoch s
  | .heldWriteRelease pool => Sys2Proof.Machine.execHeldWriteRelease pool s
  | .migrationRecall mid => Sys2Proof.Machine.execMigrationRecall mid s
  | .migrationCopy mid noise par => Sys2Proof.Machine.execMigrationCopy mid noise par s
  | .migrationRelease mid => Sys2Proof.Machine.execMigrationRelease mid s
  | .promote core id ldTag dpa => Sys2Proof.Machine.execPromote core id ldTag dpa s
  | .demote core id ldTag dpa => Sys2Proof.Machine.execDemote core id ldTag dpa s
  | .retirePage core id mpa => Sys2Proof.Machine.execRetirePage core id mpa s
  | .retireBank core id chan rank subch bg ba => Sys2Proof.Machine.execRetireBank core id chan rank subch bg ba s
  | .portEnable core id port => Sys2Proof.Machine.execPortEnable core id port s
  | .portDisable core id port => Sys2Proof.Machine.execPortDisable core id port s
  | .qosSet core id off v => Sys2Proof.Machine.execQosSet core id off v s
  | .scrubSet core id mask enable rate reserve => Sys2Proof.Machine.execScrubSet core id mask enable rate reserve s
  | .pin core id ldTag dpa size => Sys2Proof.Machine.execPin core id ldTag dpa size s
  | .unpin core id ldTag dpa size => Sys2Proof.Machine.execUnpin core id ldTag dpa size s
  | .leave core id => Sys2Proof.Machine.execLeave core id s
  | .handover core id => Sys2Proof.Machine.execHandover core id s
  | .reload core id copy => Sys2Proof.Machine.execReload core id copy s
  | .reloadDrainTimeout => Sys2Proof.Machine.execReloadDrainTimeout s
  | .reloadReset => Sys2Proof.Machine.execReloadReset s
  | .rest core id => Sys2Proof.Machine.execRest core id s
  | .badProposal core bytes => Sys2Proof.Machine.execBadProposal core bytes s
  | .gateOverrun core tail => Sys2Proof.Machine.execGateOverrun core tail s
  | .refab x t => Sys2Proof.Machine.execRefab x t s
  | .refreshEnd x t => Sys2Proof.Machine.execRefreshEnd x t s
  | .dimmTempRead x t0 t1 => Sys2Proof.Machine.execDimmTempRead x t0 t1 s
  | .neighborRefreshSlice2 x row => Sys2Proof.Machine.execNeighborRefreshSlice2 x row s
  | .actCountWindow x => Sys2Proof.Machine.execActCountWindow x s
  | .recalForce m x v => Sys2Proof.Machine.execRecalForce m x v s
  | .recalRunDone x => Sys2Proof.Machine.execRecalRunDone x s
  | .calStep x => Sys2Proof.Machine.execCalStep x s
  | .calTargetWrite m x v => Sys2Proof.Machine.execCalTargetWrite m x v s
  | .scrubRead x noise par => Sys2Proof.Machine.execScrubRead x noise par s
  | .caParityError x mpa tries => Sys2Proof.Machine.execCaParityError x mpa tries s
  | .rankCopy m x v => Sys2Proof.Machine.execRankCopy m x v s
  | .bankCopy m x v => Sys2Proof.Machine.execBankCopy m x v s
  | .rankCopyLine x noise par => Sys2Proof.Machine.execRankCopyLine x noise par s
  | .tilDownIdleEnd => Sys2Proof.Machine.execTilDownIdleEnd s
  | .holdDownWrite m v => Sys2Proof.Machine.execHoldDownWrite m v s
  | .tilDownCommand m v => Sys2Proof.Machine.execTilDownCommand m v s
  | .tilLanesAdapted => Sys2Proof.Machine.execTilLanesAdapted s
  | .tilTrainTimeout => Sys2Proof.Machine.execTilTrainTimeout s
  | .tilQuadsLocked => Sys2Proof.Machine.execTilQuadsLocked s
  | .tilAttestTimeout => Sys2Proof.Machine.execTilAttestTimeout s
  | .lockLoss q => Sys2Proof.Machine.execLockLoss q s
  | .idleFlit rx => Sys2Proof.Machine.execIdleFlit rx s
  | .dataFlit rx seq payload => Sys2Proof.Machine.execDataFlit rx seq payload s
  | .macFlit rx seq payload => Sys2Proof.Machine.execMacFlit rx seq payload s
  | .initFlit rx payload => Sys2Proof.Machine.execInitFlit rx payload s
  | .nakResend => Sys2Proof.Machine.execNakResend s
  | .pairTimeout => Sys2Proof.Machine.execPairTimeout s
  | .linkKey key fixed start => Sys2Proof.Machine.execLinkKey key fixed start s
  | .tillerSpdm st => Sys2Proof.Machine.execTillerSpdm st s
  | .attestDone => Sys2Proof.Machine.execAttestDone s
  | .mirrorWr h data par => Sys2Proof.Machine.execMirrorWr h data par s
  | .mirrorPwr h mask data par => Sys2Proof.Machine.execMirrorPwr h mask data par s
  | .mirrorAck mirrorId result => Sys2Proof.Machine.execMirrorAck mirrorId result s
  | .lineFetch ldTag fetchId key dpa par => Sys2Proof.Machine.execLineFetch ldTag fetchId key dpa par s
  | .lineData fetchId result data => Sys2Proof.Machine.execLineData fetchId result data s
  | .sfSync us => Sys2Proof.Machine.execSfSync us s
  | .sfReject u => Sys2Proof.Machine.execSfReject u s
  | .resyncReq ldTag size dpa par => Sys2Proof.Machine.execResyncReq ldTag size dpa par s
  | .resyncZero ldTag dpa par => Sys2Proof.Machine.execResyncZero ldTag dpa par s
  | .resyncDone ldTag size dpa all failed => Sys2Proof.Machine.execResyncDone ldTag size dpa all failed s
  | .resyncCopyPage => Sys2Proof.Machine.execResyncCopyPage s
  | .resyncListResend => Sys2Proof.Machine.execResyncListResend s
  | .heartbeatSend => Sys2Proof.Machine.execHeartbeatSend s
  | .heartbeat role synced epoch oldestOpen => Sys2Proof.Machine.execHeartbeat role synced epoch oldestOpen s
  | .hbMiss => Sys2Proof.Machine.execHbMiss s
  | .timeReqSend => Sys2Proof.Machine.execTimeReqSend s
  | .timeReq t1 => Sys2Proof.Machine.execTimeReq t1 s
  | .timeRsp t2 t3 => Sys2Proof.Machine.execTimeRsp t2 t3 s
  | .formReq r => Sys2Proof.Machine.execFormReq r s
  | .formRspSend => Sys2Proof.Machine.execFormRspSend s
  | .formRsp result copy senderPrimary => Sys2Proof.Machine.execFormRsp result copy senderPrimary s
  | .handoverMsg epoch => Sys2Proof.Machine.execHandoverMsg epoch s
  | .leaveMsg => Sys2Proof.Machine.execLeaveMsg s
  | .formWaitExpiry => Sys2Proof.Machine.execFormWaitExpiry s
  | .promoteGraceExpiry => Sys2Proof.Machine.execPromoteGraceExpiry s
  | .pairFenceLow => Sys2Proof.Machine.execPairFenceLow s
  | .pairFenceReleased => Sys2Proof.Machine.execPairFenceReleased s
  | .ownAssert => Sys2Proof.Machine.execOwnAssert s
  | .ownConflict => Sys2Proof.Machine.execOwnConflict s
  | .watchdogExpiry => Sys2Proof.Machine.execWatchdogExpiry s
  | .promoteStart => Sys2Proof.Machine.execPromoteStart s
  | .promoteSealed => Sys2Proof.Machine.execPromoteSealed s
  | .primaryResolveOpen => Sys2Proof.Machine.execPrimaryResolveOpen s
  | .syncLagExpiry => Sys2Proof.Machine.execSyncLagExpiry s
  | .reissueWindowEnd => Sys2Proof.Machine.execReissueWindowEnd s
  | .handoverSend => Sys2Proof.Machine.execHandoverSend s
  | .pairCtlHandover m v => Sys2Proof.Machine.execPairCtlHandover m v s
  | .pairCtlLeave m v => Sys2Proof.Machine.execPairCtlLeave m v s
  | .feedQualify b mv => Sys2Proof.Machine.execFeedQualify b mv s
  | .feedUnderVoltage b mv => Sys2Proof.Machine.execFeedUnderVoltage b mv s
  | .feedOverVoltage b mv => Sys2Proof.Machine.execFeedOverVoltage b mv s
  | .reverseCurrent b mv => Sys2Proof.Machine.execReverseCurrent b mv s
  | .inputLost mv => Sys2Proof.Machine.execInputLost mv s
  | .insertionDelayEnd => Sys2Proof.Machine.execInsertionDelayEnd s
  | .outputOn m o => Sys2Proof.Machine.execOutputOn m o s
  | .outputOff m o => Sys2Proof.Machine.execOutputOff m o s
  | .outputRampStart o => Sys2Proof.Machine.execOutputRampStart o s
  | .rampDone o mv => Sys2Proof.Machine.execRampDone o mv s
  | .enhanceDone o => Sys2Proof.Machine.execEnhanceDone o s
  | .currentLimit o ma => Sys2Proof.Machine.execCurrentLimit o ma s
  | .limitClear o ma => Sys2Proof.Machine.execLimitClear o ma s
  | .fastTrip o ma => Sys2Proof.Machine.execFastTrip o ma s
  | .faultTimer o => Sys2Proof.Machine.execFaultTimer o s
  | .curveTrip o => Sys2Proof.Machine.execCurveTrip o s
  | .rampTimeout o => Sys2Proof.Machine.execRampTimeout o s
  | .fetOpen o => Sys2Proof.Machine.execFetOpen o s
  | .fetShort o => Sys2Proof.Machine.execFetShort o s
  | .outputDischarged o mv => Sys2Proof.Machine.execOutputDischarged o mv s
  | .cooldownEnd o mv => Sys2Proof.Machine.execCooldownEnd o mv s
  | .huskSealArm m v => Sys2Proof.Machine.execHuskSealArm m v s
  | .huskLinkLost => Sys2Proof.Machine.execHuskLinkLost s
  | .pfwAssert mv => Sys2Proof.Machine.execPfwAssert mv s
  | .pfwRelease mv => Sys2Proof.Machine.execPfwRelease mv s
  | .pfwNLow => Sys2Proof.Machine.execPfwNLow s
  | .pfwNHigh => Sys2Proof.Machine.execPfwNHigh s
  | .pwrCtlRest m v => Sys2Proof.Machine.execPwrCtlRest m v s
  | .stookDrain => Sys2Proof.Machine.execStookDrain s
  | .stookMirrorTimeout => Sys2Proof.Machine.execStookMirrorTimeout s
  | .stookDrop => Sys2Proof.Machine.execStookDrop s
  | .stookFlush => Sys2Proof.Machine.execStookFlush s
  | .stookSeal => Sys2Proof.Machine.execStookSeal s
  | .stookSelfRefresh => Sys2Proof.Machine.execStookSelfRefresh s
  | .stookHold => Sys2Proof.Machine.execStookHold s
  | .stookPartner => Sys2Proof.Machine.execStookPartner s
  | .wakeN low => Sys2Proof.Machine.execWakeN low s
  | .wakeAlarm => Sys2Proof.Machine.execWakeAlarm s
  | .wakePerst p lastCycles => Sys2Proof.Machine.execWakePerst p lastCycles s
  | .clockGate d => Sys2Proof.Machine.execClockGate d s
  | .dozeEntry => Sys2Proof.Machine.execDozeEntry s
  | .dozeExit => Sys2Proof.Machine.execDozeExit s
  | .avsRequest m v => Sys2Proof.Machine.execAvsRequest m v s
  | .avsAck => Sys2Proof.Machine.execAvsAck s
  | .avsTimeout => Sys2Proof.Machine.execAvsTimeout s
  | .germRestart => Sys2Proof.Machine.execGermRestart s
  | .germRestartDone => Sys2Proof.Machine.execGermRestartDone s
  | .branRestart => Sys2Proof.Machine.execBranRestart s
  | .qpEnable m n v => Sys2Proof.Machine.execQpEnable m n v s
  | .sqTailWrite m n v => Sys2Proof.Machine.execSqTailWrite m n v s
  | .cqHeadWrite m n v => Sys2Proof.Machine.execCqHeadWrite m n v s
  | .zero n cid par => Sys2Proof.Machine.execZero n cid par s
  | .discard n cid par => Sys2Proof.Machine.execDiscard n cid par s
  | .copy n cid par => Sys2Proof.Machine.execCopy n cid par s
  | .fetchAdd n cid par => Sys2Proof.Machine.execFetchAdd n cid par s
  | .swap n cid par => Sys2Proof.Machine.execSwap n cid par s
  | .cas8 n cid par => Sys2Proof.Machine.execCas8 n cid par s
  | .cas16 n cid par => Sys2Proof.Machine.execCas16 n cid par s
  | .hintHot n cid par => Sys2Proof.Machine.execHintHot n cid par s
  | .hintCold n cid par => Sys2Proof.Machine.execHintCold n cid par s
  | .cqPin n cid par => Sys2Proof.Machine.execCqPin n cid par s
  | .cqUnpin n cid par => Sys2Proof.Machine.execCqUnpin n cid par s
  | .flush n cid => Sys2Proof.Machine.execFlush n cid s
  | .loopback n cid failures => Sys2Proof.Machine.execLoopback n cid failures s
  | .badDesc n cid => Sys2Proof.Machine.execBadDesc n cid s
  | .identify p l => Sys2Proof.Machine.execIdentify p l s
  | .backgroundOperationStatus p l => Sys2Proof.Machine.execBackgroundOperationStatus p l s
  | .getResponseMessageLimit p l => Sys2Proof.Machine.execGetResponseMessageLimit p l s
  | .getEventRecords p l log => Sys2Proof.Machine.execGetEventRecords p l log s
  | .clearEventRecords p l log all handles => Sys2Proof.Machine.execClearEventRecords p l log all handles s
  | .getEventInterruptPolicy p l => Sys2Proof.Machine.execGetEventInterruptPolicy p l s
  | .setEventInterruptPolicy p l modes => Sys2Proof.Machine.execSetEventInterruptPolicy p l modes s
  | .getFwInfo p l => Sys2Proof.Machine.execGetFwInfo p l s
  | .transferFw p l action slot off bytes => Sys2Proof.Machine.execTransferFw p l action slot off bytes s
  | .activateFw p l online slot => Sys2Proof.Machine.execActivateFw p l online slot s
  | .getTimestamp p l => Sys2Proof.Machine.execGetTimestamp p l s
  | .setTimestamp p l ns => Sys2Proof.Machine.execSetTimestamp p l ns s
  | .getSupportedLogs p l => Sys2Proof.Machine.execGetSupportedLogs p l s
  | .getLog p l off len => Sys2Proof.Machine.execGetLog p l off len s
  | .identifyMemoryDevice p l => Sys2Proof.Machine.execIdentifyMemoryDevice p l s
  | .getPartitionInfo p l => Sys2Proof.Machine.execGetPartitionInfo p l s
  | .getHealthInfo p l => Sys2Proof.Machine.execGetHealthInfo p l s
  | .getAlertConfiguration p l => Sys2Proof.Machine.execGetAlertConfiguration p l s
  | .setAlertConfiguration p l v => Sys2Proof.Machine.execSetAlertConfiguration p l v s
  | .getShutdownState p l => Sys2Proof.Machine.execGetShutdownState p l s
  | .setShutdownState p l st => Sys2Proof.Machine.execSetShutdownState p l st s
  | .getPoisonList p l ld dpa lines => Sys2Proof.Machine.execGetPoisonList p l ld dpa lines s
  | .injectPoison p l ld dpa => Sys2Proof.Machine.execInjectPoison p l ld dpa s
  | .clearPoison p l ld dpa data => Sys2Proof.Machine.execClearPoison p l ld dpa data s
  | .getScanMediaCapabilities p l ld dpa lines => Sys2Proof.Machine.execGetScanMediaCapabilities p l ld dpa lines s
  | .scanMedia p l ld dpa lines => Sys2Proof.Machine.execScanMedia p l ld dpa lines s
  | .getScanMediaResults p l => Sys2Proof.Machine.execGetScanMediaResults p l s
  | .sanitize p l ld => Sys2Proof.Machine.execSanitize p l ld s
  | .secureErase p l ld => Sys2Proof.Machine.execSecureErase p l ld s
  | .getLdInfo p l => Sys2Proof.Machine.execGetLdInfo p l s
  | .getLdAllocations p l => Sys2Proof.Machine.execGetLdAllocations p l s
  | .unsupportedOpcode p l opcode => Sys2Proof.Machine.execUnsupportedOpcode p l opcode s
  | .bootFlashWrite core off bytes => Sys2Proof.Machine.execBootFlashWrite core off bytes s
  | .mctpControl msg => Sys2Proof.Machine.execMctpControl msg s
  | .pldmType0 msg => Sys2Proof.Machine.execPldmType0 msg s
  | .pldmType2 sensor => Sys2Proof.Machine.execPldmType2 sensor s
  | .zalouxVendorMessage off => Sys2Proof.Machine.execZalouxVendorMessage off s
  | .causeClear m b v => Sys2Proof.Machine.execCauseClear m b v s
  | .causeMaskWrite m b v => Sys2Proof.Machine.execCauseMaskWrite m b v s
  | .feRearm m b => Sys2Proof.Machine.execFeRearm m b s
  | .forceReport m b v => Sys2Proof.Machine.execForceReport m b v s
  | .forceArm m b v => Sys2Proof.Machine.execForceArm m b v s
  | .forceDisarm m b => Sys2Proof.Machine.execForceDisarm m b s
  | .injectionOrderedMode => Sys2Proof.Machine.execInjectionOrderedMode s
  | .badAccess m off width write => Sys2Proof.Machine.execBadAccess m off width write s
  | .registerWrite m off width v => Sys2Proof.Machine.execRegisterWrite m off width v s
  | .perfSelWrite m n v => Sys2Proof.Machine.execPerfSelWrite m n v s
  | .perfCountWrite m n v => Sys2Proof.Machine.execPerfCountWrite m n v s
  | .clearAll m v => Sys2Proof.Machine.execClearAll m v s
  | .freeze m v => Sys2Proof.Machine.execFreeze m v s
  | .windowEn m v => Sys2Proof.Machine.execWindowEn m v s
  | .perfWindowStart => Sys2Proof.Machine.execPerfWindowStart s
  | .windowDone => Sys2Proof.Machine.execWindowDone s
  | .pllUnlock d => Sys2Proof.Machine.execPllUnlock d s
  | .timebaseRelock => Sys2Proof.Machine.execTimebaseRelock s
  | .thermalWarn die quarterC => Sys2Proof.Machine.execThermalWarn die quarterC s
  | .thermalTrip die quarterC => Sys2Proof.Machine.execThermalTrip die quarterC s
  | .failedFlit crc codewords => Sys2Proof.Machine.execFailedFlit crc codewords s
  | .symbolLockLost q => Sys2Proof.Machine.execSymbolLockLost q s
  | .symbolLockRegained q => Sys2Proof.Machine.execSymbolLockRegained q s
  | .outputRegulationTimeout o => Sys2Proof.Machine.execOutputRegulationTimeout o s
  | .regulationFloorCrossed o mv => Sys2Proof.Machine.execRegulationFloorCrossed o mv s
  | .breakerCurveSample c0 c1 c2 c3 => Sys2Proof.Machine.execBreakerCurveSample c0 c1 c2 c3 s
  | .latchedWakeRelease => Sys2Proof.Machine.execLatchedWakeRelease s
  | .pairPeerOwnNChange high => Sys2Proof.Machine.execPairPeerOwnNChange high s
  | .linkL1Entry p l => Sys2Proof.Machine.execLinkL1Entry p l s
  | .pmicFault x => Sys2Proof.Machine.execPmicFault x s

end Sys2Proof.Machine
end

