-- ==== Sys2Proof/Machine/CfgSpace.lean ====
section
/-! DEFINITION. What a host reads in the configuration space of a link and in the capability register of its mailbox (Table
2.2, R34, R48, R57, R381), and what Bran may not reach (R26). No command of the table reads or writes them; a read has no effect
(R18). -/

namespace Sys2Proof.Machine

/-- Capabilities of function 0 that Table 2.2 speaks of. -/
inductive CfgCap where
  | cxlIo
  | cxlMem
  | cxlCache
  | aer
  | doe
  | linkIde
  | selectiveIde
  | aspmL1
  | aspmL0s
  | l0p
  | msi
  | msix
  | ari
  | srIov
  | dynamicCapacity
deriving DecidableEq, Repr

/-- Table 2.2: what is supported. -/
def hasCap : CfgCap → Bool
  | .cxlIo => true
  | .cxlMem => true
  | .cxlCache => false
  | .aer => true
  | .doe => true
  | .linkIde => true
  | .selectiveIde => false
  | .aspmL1 => true
  | .aspmL0s => false
  | .l0p => false
  | .msi => false
  | .msix => false
  | .ari => false
  | .srIov => false
  | .dynamicCapacity => false

/-- Only function 0 answers (Table 2.2). -/
def functionPresent (f : Nat) : Bool := f = 0

/-- INTx is absent: the Interrupt Pin register reads 0 (Table 2.2). -/
def interruptPin : Nat := 0

/-- Media Status of the memory device (R381). -/
inductive MediaStatus where
  | notReady
  | ready
  | error
deriving DecidableEq, Repr

/-- Not Ready until release, Ready after it, Error once bring-up has failed (R378, R381). -/
def mediaStatus (s : State) : MediaStatus :=
  if s.bring.step = 11 then .error else if s.bring.released then .ready else .notReady

/-- What the configuration and device registers of a link show: the CXL DVSEC bits Memory_Info_Valid and Memory_Active with their
timeout, Media Status and Mailbox Interfaces Ready among them (R57, R381). -/
structure CfgView where
  interruptPin : Nat
  memInfoValid : Bool
  memActive : Bool
  memActiveTimeoutS : Nat
  media : MediaStatus
  mboxReady : Bool
  hdmDb : Bool
  aerUncorrectable : BitVec 32
  aerCorrectable : BitVec 32
deriving DecidableEq, Repr

/-- A configuration read of function `f` over link `l`: nothing answers where the link is not trained, its port is in RESET, or
the function is not there (R34, R57). Memory_Info_Valid reads 0 until step 2 ends, Memory_Active until bring-up releases the device
(R381). -/
def cfgView (s : State) (p l : Fin 4) (f : Nat) : Option CfgView :=
  let k := s.ports[p].links[l]
  if !k.trained || s.ports[p].state = .reset || !functionPresent f then none
  else some ⟨interruptPin, s.bring.infoValid, s.bring.released, 64, mediaStatus s, s.bring.mboxReady,
    hdmDb s p l, k.cfg.aerUncorrectable, k.cfg.aerCorrectable⟩

/-- Whether the mailbox capability reports the doorbell interrupt and the Background Command Complete interrupt: neither
(R48). -/
def mboxDoorbellIrq : Bool := false
def mboxBackgroundIrq : Bool := false

/-- An access of a Bran core to the MPA space (R26). Its own private range is its memory, and what it holds there is its own; any
other access gets a bus error and is logged as PROT_REFUSED at the home of the line, as R153 says for the protected ranges. DEDUCED:
for the rest of the MPA space R26 says "logged" and names no bit (log entry 153). No command of the table brings such an access. -/
def branAccess (core : Fin 4) (m : Nat) (s : State) : State :=
  if inRange (branBase s) (branSize s) m then s
  else raise (blkSpk (spkOf m)) 15 ⟨m, 1, masterId (.bran core), 5, none⟩ (emit (.busError (.bran core) m) s)

end Sys2Proof.Machine
end

