-- ==== Sys2Proof/Machine/Pins.lean ====
section
/-! DEFINITION. Package and pins (chapter 21): ball names, the pin groups, what each pin of the device drives in each condition, and
the endpoint's address. The electrical and mechanical limits of the chapter bind the board. -/

namespace Sys2Proof.Machine

/-! ## Ball names (R474) -/

/-- The letters of the rows, in order. -/
def rowLetters : List Char := "ABCDEFGHJKLMNPTUVWY".toList

/-- The name of the row `r`, 1 to 76: nineteen letters, then the same nineteen behind A, B and C. -/
def ballRow (r : Nat) : String :=
  let l := rowLetters.getD ((r - 1) % 19) 'A'
  match (r - 1) / 19 with
  | 0 => String.ofList [l]
  | n => String.ofList [rowLetters.getD (n - 1) 'A', l]

def ballName (r c : Nat) : String := ballRow r ++ toString c

inductive Quadrant where
  | nw | ne | sw | se
deriving DecidableEq, Repr

/-- The quadrant of a ball. -/
def quadrant (r c : Nat) : Quadrant :=
  if r ≤ 38 then (if c ≤ 38 then .nw else .ne) else if c ≤ 38 then .sw else .se

/-! ## Pin groups (R475, Tables 21.2, 21.3) -/

/-- Electrical classes of signals, and what carries none. -/
inductive PinClass where
  | pcie | hcsl | xtal | pod11 | auxRst | i3c10 | cei | auxIn | auxIn3v3 | auxOd | auxIo | analog | hv | supply | ground | nc
deriving DecidableEq, Repr

/-- The pin groups and how many balls each has; a group whose signals differ in class is given by class. -/
def pinGroups : List (String × Nat × PinClass) :=
  [("Host lanes", 256, .pcie), ("PERST#", 4, .auxIn3v3), ("PCIe reference", 4, .hcsl), ("Crystal", 2, .xtal),
   ("DDR channels", 2384, .pod11), ("DRAM_RESET_N", 16, .auxRst), ("DDR calibration", 2, .analog),
   ("DIMM sideband", 8, .i3c10), ("Tiller lanes", 128, .cei), ("Pair sideband", 3, .auxOd),
   ("POWER_GOOD, WAKE_N", 2, .auxIn), ("PFW_N, RAILS_OFF_N", 2, .auxOd), ("AVSBus", 3, .auxIo), ("Boot SPI", 6, .auxIo),
   ("BMC_SCL, BMC_SDA", 2, .auxOd), ("BMC_MODE, BMC_ADDR", 3, .auxIn), ("Husk", 25, .hv), ("VDD_CORE", 480, .supply),
   ("VDD_SRAM", 80, .supply), ("VDD_PHY", 60, .supply), ("VDDQ_DDR", 128, .supply), ("VDD_AUX", 8, .supply),
   ("VSS", 1990, .ground), ("NC", 24, .nc)]

/-- The balls that are populated (Table 21.1). -/
def ballCount : Nat := (pinGroups.map fun g => g.2.1).foldl (· + ·) 0

/-! ## Pin states (R477, Table 21.4) -/

inductive PinCondition where
  | unpowered | reset | stook | running
deriving DecidableEq, Repr

/-- The condition that every pin group is in; REST leaves every pin as STOOK does. -/
def pinCondition (s : State) : PinCondition :=
  if !s.pins.vddAux then .unpowered
  else if resting s || (entering s && 6 ≤ s.pwr.step) then .stook
  else if s.pwr.state = .start && !s.pins.powerGood then .reset
  else .running

/-- What a pin does: nothing, an open drain let go, a level driven, or an input. -/
inductive Drive where
  | highZ | released | low | high | input
deriving DecidableEq, Repr

/-- An open-drain output. -/
def openDrain (pulls : Bool) : Drive := if pulls then .low else .released

/-- PAIR_OWN_N and PAIR_FENCE_N; released with the device unpowered, in reset, and from step 1 of an entry. -/
def pairOwnPin (s : State) : Drive := openDrain (s.pins.vddAux && s.pair.own)
def pairFencePin (s : State) : Drive := openDrain (s.pins.vddAux && s.pair.fenceOut && pinCondition s = .running)

/-- PFW_N, which the husk die drives whenever it is powered (R397). -/
def pfwPin (s : State) : Drive := openDrain (s.pins.vddAux && s.husk.pfwDrive)

/-- RAILS_OFF_N (R418, R420). -/
def railsOffPin (s : State) : Drive := openDrain (s.pins.vddAux && s.pwr.railsOff)

/-- DRAM_RESET_N of a channel: low in reset and until the PMICs of the channel report power good (R372), high once it is past that,
and held high from step 5 of an entry until the next start decides its kind. A channel that failed has no stated level. -/
def dramResetPin (s : State) (x : Fin 16) : Option Drive :=
  match pinCondition s with
  | .unpowered => some .highZ
  | .reset => some .low
  | .stook => some .high
  | .running => match s.mcs[x].state with
    | .off => some .low
    | .spd => some .low
    | .failed => none
    | _ => some .high

/-- The other pins of a channel: high impedance in every condition but the running one, where they belong to the channel. -/
def dramPins (s : State) : Option Drive := if pinCondition s = .running then none else some .highZ

/-- The boot SPI and AVSBus pins: driven only in the running condition (R482). -/
def spiDriven (s : State) : Bool := pinCondition s = .running && s.bring.step ≠ 0

/-- The gate of output `o` is driven: held off by a passive pull-down while the husk die is unpowered (Table 15.2). -/
def gateDriven (s : State) (o : Fin 4) : Bool :=
  s.pins.vddAux && (match s.husk.outs[o].state with
    | .ramp => true
    | .enhance => true
    | .on => true
    | .limit => true
    | _ => false)

/-- SW_x_DIS: the discharge FET is on in every state of the output whose gate is off (Table 15.2). -/
def dischargeDriven (s : State) (o : Fin 4) : Bool := s.pins.vddAux && !gateDriven s o

/-- The gate of the ORing FET of a feed (R384, R386). -/
def orGateDriven (s : State) (f : Fin 2) : Bool := s.pins.vddAux && s.husk.feeds[f].orOn

/-! ## The BMC's endpoint (R481) -/

/-- The 7-bit static address of the MCTP endpoint. -/
def bmcAddress (s : State) : Nat := 0x48 + s.pins.bmcAddr.toNat

/-- The endpoint sits on I3C, or else on SMBus. -/
def bmcOnI3c (s : State) : Bool := s.pins.bmcMode

end Sys2Proof.Machine
end

