-- ==== Sys2Proof/Machine/TilFec.lean ====
section
/-! DEFINITION. The FEC of the Tiller link (R266): how the flits that the block has sent are packed into RS(544,514) codewords,
dealt to the 32 lanes and marked for deskew. It is a view of `State.out`: what the lanes carry follows from the flits. -/

namespace Sys2Proof.Machine

/-! ## GF(2^10) and the code. PRESUMED: field polynomial x^10 + x^3 + 1, generator roots α^0 to α^29 and systematic form are those
of the RS(544,514) code that the cited standards use (log entry 155). -/

/-- A product in GF(2^10). -/
def gf10Mul (a b : Nat) : Nat :=
  (List.range 10).reverse.foldl (fun r i =>
    let d := if r < 512 then 2 * r else (2 * r) ^^^ 0x409
    if b.testBit i then d ^^^ a else d) 0

/-- The generator polynomial without its leading 1, highest power first: the product of x + α^j for j below 30. -/
def rsGenerator : List Nat :=
  ((List.range 30).foldl (fun (g : List Nat × Nat) _ =>
    ((g.1 ++ [0]).zipWith (fun a b => a ^^^ gf10Mul g.2 b) (0 :: g.1), gf10Mul g.2 2)) ([1], 1)).1.drop 1

/-- The 30 check symbols of 514 message symbols, the first sent first. -/
def rsCheck (msg : List Nat) : List Nat :=
  msg.foldl (fun r m =>
    let f := m ^^^ r.headD 0
    (r.drop 1 ++ [0]).zipWith (fun a g => a ^^^ gf10Mul f g) rsGenerator) (List.replicate 30 0)

/-! ## Packing -/

/-- The flits sent, oldest first. -/
def sentFlits (s : State) : List (BitVec 2048) :=
  s.out.filterMap fun o => match o with
    | .flit b => some b
    | _ => none

/-- The 10-bit symbols of the flits back to back, the lowest bit first; what does not fill a symbol waits for the next flit. -/
def fecSymbols (fs : List (BitVec 2048)) : List Nat :=
  let n := bytesToNat (fs.flatMap fun f => natToBytes 256 f.toNat)
  (List.range (2048 * fs.length / 10)).map fun i => n / 2 ^ (10 * i) % 1024

/-- Codeword `c`: 514 message symbols and their 30 check symbols; none until its flits are sent. -/
def fecCodeword (fs : List (BitVec 2048)) (c : Nat) : Option (List Nat) :=
  let m := ((fecSymbols fs).drop (514 * c)).take 514
  if m.length = 514 then some (m ++ rsCheck m) else none

/-- The flits that overlap codeword `c`: when the receiver cannot correct it, each counts as a flit whose CRC failed (R266). -/
def fecFlits (c : Nat) : List Nat :=
  let lo := 5140 * c / 2048
  (List.range ((5140 * (c + 1) - 1) / 2048 + 1 - lo)).map (lo + ·)

/-! ## Lanes -/

/-- What a lane carries: a symbol, or an alignment marker, whose content is the receiver's alone. -/
inductive LaneItem where
  | symbol (v : Nat)
  | marker
deriving DecidableEq, Repr

/-- The symbols of a codeword that lane `8q + n` carries: the symbols are dealt round-robin in ascending lane order. -/
def laneSymbols (lane : Fin 32) (cw : List Nat) : List Nat :=
  (List.range 17).map fun i => cw.getD (32 * i + lane) 0

/-- What a lane carries for codeword `c`: a marker comes first once per 16,384 codewords. -/
def laneItems (lane : Fin 32) (c : Nat) (cw : List Nat) : List LaneItem :=
  (if c % 16384 = 0 then [.marker] else []) ++ (laneSymbols lane cw).map .symbol

/-- What a lane has carried. -/
def laneStream (s : State) (lane : Fin 32) : List LaneItem :=
  let fs := sentFlits s
  (List.range (2048 * fs.length / 5140)).flatMap fun c =>
    match fecCodeword fs c with
    | some cw => laneItems lane c cw
    | none => []

end Sys2Proof.Machine
end

