-- ==== Sys2Proof/WellFormed.lean ====
section
/-! DEFINITION. Which commands are well formed: every number of a command lies in the range that the spec gives its field. A
command that is not well formed has no counterpart on the device; its meaning is nevertheless total. -/

namespace Sys2Proof

/-! ## Ranges -/

def below (n x : Nat) : Bool := x < n

/-- A 52-bit HPA. -/
def isHpa (a : Nat) : Bool := a < 2 ^ 52

/-- A 45-bit DPA aligned to `u` (R19, Table 0.4). -/
def isDpa (u a : Nat) : Bool := a < 2 ^ 45 && a % u = 0

/-- A 44-bit MPA aligned to `u`. -/
def isMpa (u a : Nat) : Bool := a < 2 ^ 44 && a % u = 0

/-- Port × 16 + LD. -/
def isLdTag (t : Nat) : Bool := t < 64

/-- Lanes with which training may end (Table 2.1, R34). -/
def isTrained (w : Nat) : Bool := w = 1 || w = 2 || w = 4 || w = 8 || w = 16

/-- Lanes of a link in service (R35). -/
def isWidth (w : Nat) : Bool := w = 4 || w = 8 || w = 16

/-- 1, 2, 3 stand for 16, 32 and 64 GT/s (Table 2.15). -/
def isSpeed (x : Nat) : Bool := 1 ≤ x && x ≤ 3

/-- A temperature in 0.25 °C that 12 bits hold (Tables 8.16, 21.7). -/
def tempFits (t : Int) : Bool := -2048 ≤ t && t ≤ 2047

/-- The fields of an SPD, where a DIMM answers. -/
def spdFits : Option DimmSpd → Bool
  | none => true
  | some d => below 256 d.densityGb && below 16 d.stackHeight && below 8 d.ranks && below 32 d.width && below 65536 d.rate && below 65536 d.trfc

/-- The link-control fields of a flit (Table 11.3). -/
def ctlFits (c : FlitCtl) : Bool := c.ack < 4096 && c.nakSeq < 4096 && c.crCount < 65536

def rxFits (r : RxFlit) : Bool := ctlFits r.ctl && r.corrected < 2 ^ 48

/-- The access of an engine carries no key index, class or tag pointer. -/
def plainParity (p : Parity) : Bool := !p.key && !p.cls && !p.tag

/-- The header of a mirror write (Table 11.6). -/
def hdrFits (h : MirrorHdr) : Bool :=
  h.qos < 8 && isLdTag h.ldTag && h.head < 4 && h.tag < 65536 && h.epoch < 256 && h.mirrorId < 4096 && h.key < 4096 &&
    isDpa 64 h.dpa

/-- One SF_SYNC update; `sector` is DPA[44:8] (Table 12.4). -/
def updateFits (u : SfUpdate) : Bool := isLdTag u.ldTag && u.sector < 2 ^ 37 && u.aliasF < 4096

/-! ## The commands -/

/-- Every number of the command is in range. -/
def Instr.wf : Instr → Bool
  | .powerOn _ _ => true
  | .vddAuxLost => true
  | .powerGoodRise _ => true
  | .powerGoodFall => true
  | .coldStartImage => true
  | .coldStartRails => true
  | .coldStartPower => true
  | .spdCheckDone _ spd0 spd1 => spdFits spd0 && spdFits spd1
  | .pmicPowerGood _ => true
  | .pmicTimeout _ => true
  | .channelTrained _ _ temp0 temp1 => tempFits temp0 && tempFits temp1
  | .coldStartKeys => true
  | .coldStartFill => true
  | .coldStartLoad => true
  | .release => true
  | .warmResumeDram => true
  | .channelRestore _ _ temp0 temp1 _ => tempFits temp0 && tempFits temp1
  | .warmResumeCulm => true
  | .perstAssert _ => true
  | .perstRelease _ => true
  | .linkTrained _ _ width speed _ => isTrained width && isSpeed speed
  | .linkLaneLoss _ _ good => below 16 good
  | .linkRecoveryDone _ _ width => isWidth width
  | .linkDown _ _ => true
  | .ideIntegrityFailure _ _ tags => tags.all (below 65536)
  | .ideKmKeyProg _ _ _ _ _ => true
  | .ideKmKSetGo _ _ _ _ => true
  | .portCtlEnable _ _ _ => true
  | .portCtlDisable _ _ _ => true
  | .drainTimeout _ => true
  | .decoderCommit _ _ _ base size ig iw => below (2 ^ 64) base && below (2 ^ 64) size && below 16 ig && below 16 iw
  | .decMapWrite _ _ _ _ _ => true
  | .memRd _ _ _ tag hpa _ _ => below 65536 tag && isHpa hpa
  | .memWr _ _ _ tag hpa _ _ _ => below 65536 tag && isHpa hpa
  | .memWrPtl _ _ _ tag hpa _ _ _ => below 65536 tag && isHpa hpa
  | .memInv _ _ _ tag hpa _ => below 65536 tag && isHpa hpa
  | .memClnEvct _ _ _ tag hpa _ => below 65536 tag && isHpa hpa
  | .admissionWindow => true
  | .walkStart => true
  | .walkRead w _ par => below 64 w && plainParity par
  | .sheafFill _ _ => true
  | .sheafInvalidate _ _ => true
  | .invTimeout => true
  | .walkCacheFlush _ _ => true
  | .pinnedReinstall => true
  | .homeRequest _ n _ => below 257 n
  | .holdEnd _ _ => true
  | .birsp _ bid _ _ => below 256 bid
  | .biConflict _ bid _ => below 256 bid
  | .biTimeout _ _ => true
  | .homeMemoryDone _ _ _ => true
  | .culmNodeFetchDone _ mpa _ par => isMpa 64 mpa && plainParity par
  | .reencryptionDone _ base => isMpa 64 base
  | .culmRetagDone _ base => isMpa 64 base
  | .homeResponse _ _ => true
  | .pageHold _ _ _ => true
  | .pageRelease _ _ _ => true
  | .pageRecall _ _ _ => true
  | .parkRetryResend _ _ => true
  | .orderedModeWrite _ _ _ => true
  | .loadGen _ _ => true
  | .loadKey _ _ => true
  | .setPolicy _ _ => true
  | .retire _ _ => true
  | .query _ _ => true
  | .badOp _ _ _ => true
  | .retireDrainComplete => true
  | .retireTimeout => true
  | .keyMsgLoad _ => true
  | .keyMsgRetire _ => true
  | .keyMsgRegen _ => true
  | .keyMsgPolicy _ => true
  | .keyMsgQuery _ => true
  | .spdmRequest _ _ h =>
    below 256 h.version && below 256 h.code && below 256 h.param1 && below 256 h.param2 && below 65536 h.offset && below 65536 h.length
  | .doeDiscovery _ _ index => below 256 index
  | .cdatTableAccess _ _ => true
  | .compressionJobDone _ _ streams => streams.all fun x => x.length ≤ 1024
  | .forwardRepoint _ desc => isMpa 64 desc
  | .stockRefill _ => true
  | .hotEpoch => true
  | .heldWriteRelease _ => true
  | .migrationRecall _ => true
  | .migrationCopy _ _ par => plainParity par
  | .migrationRelease _ => true
  | .promote _ id ldTag dpa => below 65536 id && isLdTag ldTag && isDpa 4096 dpa
  | .demote _ id ldTag dpa => below 65536 id && isLdTag ldTag && isDpa 4096 dpa
  | .retirePage _ id mpa => below 65536 id && isMpa 4096 mpa
  | .retireBank _ id chan rank subch bg ba =>
    below 65536 id && below 16 chan && below 4 rank && below 2 subch && below 8 bg && below 4 ba
  | .portEnable _ id port => below 65536 id && below 4 port
  | .portDisable _ id port => below 65536 id && below 4 port
  | .qosSet _ id off _ => below 65536 id && below 65536 off
  | .scrubSet _ id mask enable rate reserve =>
    below 65536 id && below 65536 mask && below 2 enable && below 256 rate && below 256 reserve
  | .pin _ id ldTag dpa size => below 65536 id && isLdTag ldTag && isDpa 4096 dpa && below 46 size
  | .unpin _ id ldTag dpa size => below 65536 id && isLdTag ldTag && isDpa 4096 dpa && below 46 size
  | .leave _ id => below 65536 id
  | .handover _ id => below 65536 id
  | .reload _ id which => below 65536 id && below 3 which
  | .reloadDrainTimeout => true
  | .reloadReset => true
  | .rest _ id => below 65536 id
  | .badProposal _ _ => true
  | .gateOverrun _ _ => true
  | .refab _ t => below 4 t
  | .refreshEnd _ t => below 4 t
  | .dimmTempRead _ t0 t1 => (t0.all tempFits) && (t1.all tempFits)
  | .neighborRefreshSlice2 _ _ => true
  | .actCountWindow _ => true
  | .recalForce _ _ _ => true
  | .recalRunDone _ => true
  | .calStep _ => true
  | .calTargetWrite _ _ _ => true
  | .scrubRead _ _ par => plainParity par
  | .caParityError _ mpa tries => isMpa 64 mpa && below 6 tries
  | .rankCopy _ _ _ => true
  | .bankCopy _ _ _ => true
  | .rankCopyLine _ _ par => plainParity par
  | .tilDownIdleEnd => true
  | .holdDownWrite _ _ => true
  | .tilDownCommand _ _ => true
  | .tilLanesAdapted => true
  | .tilTrainTimeout => true
  | .tilQuadsLocked => true
  | .tilAttestTimeout => true
  | .lockLoss _ => true
  | .idleFlit rx => rxFits rx
  | .dataFlit rx seq _ => rxFits rx && below 4096 seq
  | .macFlit rx seq _ => rxFits rx && below 4096 seq
  | .initFlit rx _ => rxFits rx
  | .nakResend => true
  | .pairTimeout => true
  | .linkKey _ _ start => below 4096 start
  | .tillerSpdm _ => true
  | .attestDone => true
  | .mirrorWr h _ _ => hdrFits h
  | .mirrorPwr h _ _ _ => hdrFits h
  | .mirrorAck mirrorId result => below 4096 mirrorId && below 3 result
  | .lineFetch ldTag fetchId key dpa _ => isLdTag ldTag && below 4096 fetchId && below 4096 key && isDpa 64 dpa
  | .lineData fetchId result _ => below 4096 fetchId && below 3 result
  | .sfSync us => 1 ≤ us.length && us.length ≤ 28 && us.all updateFits
  | .sfReject u => updateFits u
  | .resyncReq ldTag size dpa par => isLdTag ldTag && below 46 size && isDpa 4096 dpa && plainParity par
  | .resyncZero ldTag dpa par => isLdTag ldTag && isDpa 4096 dpa && plainParity par
  | .resyncDone ldTag size dpa _ _ => isLdTag ldTag && below 46 size && isDpa 4096 dpa
  | .resyncCopyPage => true
  | .resyncListResend => true
  | .heartbeatSend => true
  | .heartbeat role _ epoch oldestOpen => below 6 role && below 256 epoch && below (2 ^ 64) oldestOpen
  | .hbMiss => true
  | .timeReqSend => true
  | .timeReq t1 => below (2 ^ 64) t1
  | .timeRsp t2 t3 => below (2 ^ 64) t2 && below (2 ^ 64) t3
  | .formReq r => below 256 r.epoch && below (2 ^ 64) r.gen
  | .formRspSend => true
  | .formRsp result _ _ => below 4 result
  | .handoverMsg epoch => below 256 epoch
  | .leaveMsg => true
  | .formWaitExpiry => true
  | .promoteGraceExpiry => true
  | .pairFenceLow => true
  | .pairFenceReleased => true
  | .ownAssert => true
  | .ownConflict => true
  | .watchdogExpiry => true
  | .promoteStart => true
  | .promoteSealed => true
  | .primaryResolveOpen => true
  | .syncLagExpiry => true
  | .reissueWindowEnd => true
  | .handoverSend => true
  | .pairCtlHandover _ _ => true
  | .pairCtlLeave _ _ => true
  | .feedQualify _ mv => below 65536 mv
  | .feedUnderVoltage _ mv => below 65536 mv
  | .feedOverVoltage _ mv => below 65536 mv
  | .reverseCurrent _ mv => below 65536 mv
  | .inputLost mv => below 65536 mv
  | .insertionDelayEnd => true
  | .outputOn _ _ => true
  | .outputOff _ _ => true
  | .outputRampStart _ => true
  | .rampDone _ mv => below 65536 mv
  | .enhanceDone _ => true
  | .currentLimit _ ma => below 65536 ma
  | .limitClear _ ma => below 65536 ma
  | .fastTrip _ ma => below 65536 ma
  | .faultTimer _ => true
  | .curveTrip _ => true
  | .rampTimeout _ => true
  | .fetOpen _ => true
  | .fetShort _ => true
  | .outputDischarged _ mv => below 65536 mv
  | .cooldownEnd _ mv => below 65536 mv
  | .huskSealArm _ _ => true
  | .huskLinkLost => true
  | .pfwAssert mv => below 65536 mv
  | .pfwRelease mv => below 65536 mv
  | .pfwNLow => true
  | .pfwNHigh => true
  | .pwrCtlRest _ _ => true
  | .stookDrain => true
  | .stookMirrorTimeout => true
  | .stookDrop => true
  | .stookFlush => true
  | .stookSeal => true
  | .stookSelfRefresh => true
  | .stookHold => true
  | .stookPartner => true
  | .wakeN _ => true
  | .wakeAlarm => true
  | .wakePerst _ _ => true
  | .clockGate _ => true
  | .dozeEntry => true
  | .dozeExit => true
  | .avsRequest _ _ => true
  | .avsAck => true
  | .avsTimeout => true
  | .germRestart => true
  | .germRestartDone => true
  | .branRestart => true
  | .qpEnable _ _ _ => true
  | .sqTailWrite _ _ _ => true
  | .cqHeadWrite _ _ _ => true
  | .zero _ i _ => below 65536 i
  | .discard _ i _ => below 65536 i
  | .copy _ i _ => below 65536 i
  | .fetchAdd _ i _ => below 65536 i
  | .swap _ i _ => below 65536 i
  | .cas8 _ i _ => below 65536 i
  | .cas16 _ i _ => below 65536 i
  | .hintHot _ i _ => below 65536 i
  | .hintCold _ i _ => below 65536 i
  | .cqPin _ i _ => below 65536 i
  | .cqUnpin _ i _ => below 65536 i
  | .flush _ i => below 65536 i
  | .loopback _ i _ => below 65536 i
  | .badDesc _ i => below 65536 i
  | .identify _ _ => true
  | .backgroundOperationStatus _ _ => true
  | .getResponseMessageLimit _ _ => true
  | .getEventRecords _ _ log => below 4 log
  | .clearEventRecords _ _ log _ handles => below 4 log && handles.all (below 65536)
  | .getEventInterruptPolicy _ _ => true
  | .setEventInterruptPolicy _ _ modes => modes.all (below 256)
  | .getFwInfo _ _ => true
  | .transferFw _ _ action slot off _ => below 256 action && below 256 slot && below (2 ^ 39) off
  | .activateFw _ _ _ slot => below 256 slot
  | .getTimestamp _ _ => true
  | .setTimestamp _ _ ns => below (2 ^ 64) ns
  | .getSupportedLogs _ _ => true
  | .getLog _ _ off len => below (2 ^ 32) off && below (2 ^ 32) len
  | .identifyMemoryDevice _ _ => true
  | .getPartitionInfo _ _ => true
  | .getHealthInfo _ _ => true
  | .getAlertConfiguration _ _ => true
  | .setAlertConfiguration _ _ _ => true
  | .getShutdownState _ _ => true
  | .setShutdownState _ _ st => below 256 st
  | .getPoisonList _ _ _ dpa lines => isDpa 64 dpa && below (2 ^ 39) lines
  | .injectPoison _ _ _ dpa => isDpa 64 dpa
  | .clearPoison _ _ _ dpa _ => isDpa 64 dpa
  | .getScanMediaCapabilities _ _ _ dpa lines => isDpa 64 dpa && below (2 ^ 39) lines
  | .scanMedia _ _ _ dpa lines => isDpa 64 dpa && below (2 ^ 39) lines
  | .getScanMediaResults _ _ => true
  | .sanitize _ _ _ => true
  | .secureErase _ _ _ => true
  | .getLdInfo _ _ => true
  | .getLdAllocations _ _ => true
  | .unsupportedOpcode _ _ opcode => below 65536 opcode
  | .bootFlashWrite _ off bytes => off + bytes.length ≤ 2 ^ 26
  | .mctpControl _ => true
  | .pldmType0 _ => true
  | .pldmType2 sensor => below 65536 sensor
  | .zalouxVendorMessage off => below (2 ^ 24) off
  | .causeClear _ _ _ => true
  | .causeMaskWrite _ _ _ => true
  | .feRearm _ _ => true
  | .forceReport _ _ _ => true
  | .forceArm _ _ _ => true
  | .forceDisarm _ _ => true
  | .injectionOrderedMode => true
  | .badAccess _ off _ _ => below (2 ^ 24) off
  | .registerWrite _ off _ _ => below (2 ^ 24) off
  | .perfSelWrite _ _ _ => true
  | .perfCountWrite _ _ _ => true
  | .clearAll _ _ => true
  | .freeze _ _ => true
  | .windowEn _ _ => true
  | .perfWindowStart => true
  | .windowDone => true
  | .pllUnlock _ => true
  | .timebaseRelock => true
  | .thermalWarn _ quarterC => tempFits quarterC
  | .thermalTrip _ quarterC => tempFits quarterC
  | .failedFlit _ codewords => below 256 codewords
  | .symbolLockLost _ => true
  | .symbolLockRegained _ => true
  | .outputRegulationTimeout _ => true
  | .regulationFloorCrossed _ mv => below 65536 mv
  | .breakerCurveSample c0 c1 c2 c3 => below 65536 c0 && below 65536 c1 && below 65536 c2 && below 65536 c3
  | .latchedWakeRelease => true
  | .pairPeerOwnNChange _ => true
  | .linkL1Entry _ _ => true
  | .pmicFault _ => true

end Sys2Proof
end

