-- ==== Sys2Proof/Safety.lean ====
section
/-! DEFINITION. What counts as a safe run, in the terms that claims use: the canonical form of the tables of the state, a command
that completes, and a write that is refused. -/

namespace Sys2Proof.Machine

/-- The canonical form of memory: physical lines strictly rise, and none holds what an unlisted line reads as. -/
def Memory.wf (s : State) : Bool := ksorted s.dram && s.dram.all fun e => decide (e.2 ≠ dramUnlisted s e.1)

/-- Each line of DRAM and each register of BAR0 stands in its table at most once, in rising order: a read finds what the last
write left. -/
def tablesOrdered (s : State) : Bool := ksorted s.dram && ksorted s.regs

/-- The command completes: `exec` answers a next state, and that state has `P`. -/
def Completes (c : Instr) (s : State) (P : State → Prop) : Prop := ∃ t, exec c s = .next t ∧ P t

/-- A refused write (R15, R446): a bus error to the writer, REFUSED_WRITE and its count in the block written to, and nothing
else. -/
def Refused (b : Fin 40) (m : Master) (off : Nat) (s t : State) : Prop :=
  t = { s with headers := t.headers, out := s.out ++ [.busError m off] } ∧
  t.headers[b].cause = s.headers[b].cause ||| BitVec.ofNat 32 (2 ^ refusedBit (blkType b).1) ∧
  t.headers[b].errCount = min (s.headers[b].errCount + 1) (2 ^ 48 - 1) ∧
  ∀ d, d ≠ b → t.headers[d] = s.headers[d]

/-- No request is open at any port. -/
def noRequests (s : State) : Bool := s.ports.toList.all fun o => o.reqs.isEmpty

/-- No home has a transaction, a back-invalidate, an eviction or a forwarding open. -/
def homesIdle (s : State) : Bool :=
  s.spks.toList.all fun k => k.txns.isEmpty && k.snps.isEmpty && k.evict.isEmpty && k.forwards.isEmpty

/-- Everything at the home waits: a transaction for its memory stage, its partner's acknowledgement, the end of a hold, an answer
or an earlier one; an eviction buffer for an answer. No recall is in progress. Every command leaves a home so. -/
def homeWaits (s : State) (k : Fin 8) : Bool :=
  (s.spks[k].txns.all fun u => match u.state with
    | .memory => true
    | .respond => true
    | .holdWait => true
    | .biWait => s.spks[k].snps.any fun n => n.owner = .txn u.tid && n.answer.isNone
    | .parked => s.spks[k].holds.contains (holdPage u.msg)
    | _ => !mayLook s k u) &&
  (s.spks[k].evict.all fun b => s.spks[k].snps.any fun n => n.owner = .evict b.id && n.answer.isNone) &&
  s.spks[k].recalling.isNone && s.spks[k].forwards.all fun f => f.done || f.page.isNone

/-- No transaction of the home but `tid` is on the line or block of `m`. -/
def keyFree (s : State) (k : Fin 8) (m : Msg) (tid : Nat) : Prop :=
  ∀ u ∈ s.spks[k].txns, u.tid ≠ tid → orderKey u.msg ≠ orderKey m

/-- Each transaction of the home but `tid` is still there, in the state it was in. -/
def othersStay (s t : State) (k : Fin 8) (tid : Nat) : Prop :=
  ∀ u ∈ s.spks[k].txns, u.tid ≠ tid → ∃ v ∈ t.spks[k].txns, v.tid = u.tid ∧ v.msg = u.msg ∧ v.state = u.state

/-- No injection is armed in any block. -/
def noInjection (s : State) : Bool := s.headers.toList.all fun h => h.armed = 0

/-- No injection is armed and no open request carries a control parity error: no request takes the domain down on its way. -/
def errorFree (s : State) : Bool :=
  noInjection s &&
    (s.ports.toList.all fun o => (o.reqs.all fun r => r.req.par = .good) && (o.creditWait.all fun m => m.req.par = .good) &&
      o.retries.all fun e => e.2.req.par = .good) &&
    s.spks.toList.all fun k => (k.inbox.all fun m => m.req.par = .good) && k.txns.all fun x => x.msg.req.par = .good

/-- Nothing at the ports waits for a completion: no drain, acknowledgement, marker or conflict is open, no request is in ingress,
and no mode of a failover or an injection is to end. -/
def portsQuiet (s : State) : Bool :=
  (s.ports.toList.all fun o => o.state ≠ .draining && !o.invBusy && !o.keyMarker && (o.bis.all fun b => !b.conflict) &&
      o.reqs.all fun r => r.stage ≠ .ingress) &&
    s.pair.promotion ≠ .reissue && !s.fw.injecting

/-- The host request that stage 1 of Table 1.5 makes of a CXL.mem request whose HPA decodes to a region, an alias and a DPA. -/
def stagedReq (s : State) (p l : Fin 4) (ld : Fin 16) (tag : Nat) (op : HomeOp) (hpa : Nat) (data : Line) (be : BitVec 64)
    (poison : Bool) (rg : Region) (aliasF dpa : Nat) : Req :=
  let key := if aliasF = 0 then defaultKey s (16 * p.val + ld.val) rg else rg.keyBase + aliasF
  { rawReq s.seq (.host p l ld tag) (16 * p.val + ld.val) op hpa data be poison with
    dpa := dpa, region := rg.number, aliasF := aliasF, key := key, cls := (slotCopy s p key).cls
    reissued := s.pair.reissueOpen }

/-- The link and its port take a request at once: ENABLED, up, nothing stalls or fences the link, nothing waits before it, the
window that counts is the present one, and no open request of the port has the number that the next one takes. -/
def linkOpen (s : State) (p l : Fin 4) : Bool :=
  s.ports[p].state = .enabled && s.ports[p].links[l].up && !s.ports[p].stalled.getLsbD l && !s.ports[p].holdStalled.getLsbD l &&
    !s.pair.fenceIn && !windowOver s p && s.ports[p].reqs.all fun r => r.stage ≠ .ingress && r.req.rid ≠ s.seq

/-- The link takes a request at once and is at a supported width (R42). -/
def linkServes (s : State) (p l : Fin 4) : Bool := linkOpen s p l && !s.ports[p].links[l].belowFloor

/-- Admission lets the request in now: the class budget and the pool do, or the request needs neither (R256 to R258). -/
def admitsNow (s : State) (p : Fin 4) (q : Req) : Bool :=
  freeAdmit s p q || !s.pair.handover && budgetAdmits s p q.cls && poolAdmits s p q

/-- The command that brings a CXL.mem request with good control parity. -/
def memCommand (p l : Fin 4) (ld : Fin 16) (tag hpa : Nat) (data : Line) (be : BitVec 64) (poison : Bool) (op : HomeOp)
    (c : Instr) : Prop :=
  (∃ snp, c = .memRd p l ld tag hpa snp .good ∧ op = .rd snp ∧ data = 0 ∧ be = 0 ∧ poison = false) ∨
  (c = .memWr p l ld tag hpa data poison .good ∧ op = .wr ∧ be = 0) ∨
  (c = .memWrPtl p l ld tag hpa data be .good ∧ op = .wrPtl ∧ poison = false) ∨
  (c = .memInv p l ld tag hpa .good ∧ op = .inv ∧ data = 0 ∧ be = 0 ∧ poison = false) ∨
  (c = .memClnEvct p l ld tag hpa .good ∧ op = .clnEvct ∧ data = 0 ∧ be = 0 ∧ poison = false)

/-- Bran and Germ serve the gate queue, its ring is empty, and its next slot may be used (R424). -/
def gateReady (s : State) : Bool :=
  s.fw.branUp && s.fw.germUp && decide (s.queue.gateTail < 256) && s.queue.gateHead = s.queue.gateTail &&
    !slotBusy s s.queue.gateTail && ksorted s.queue.slots

/-- Germ has taken the proposal `b` that Bran wrote into the next slot: PENDING, with its ID and the time (R425). -/
def taken (b : BitVec 256) (s : State) : State :=
  let i := s.queue.gateTail
  { s with queue := { s.queue with
      slots := kset 0 s.queue.slots i b, gateTail := (i + 1) % 256, gateHead := (i + 1) % 256
      verdicts := kset Verdict.init s.queue.verdicts i ⟨0, 0, 0, propField b 2 2, s.dtime, true⟩ } }

/-- The mailbox of the link takes the opcode and completes it: Bran serves it, or Germ does in recovery or after a failed
bring-up (R48, R341, R378). -/
def mailServes (s : State) (p l : Fin 4) (opcode : Nat) : Bool :=
  mboxReachable s p l && if germServes s then germOpcodes.contains opcode else s.fw.branUp

/-- A mailbox command has completed with a return code and a payload, and changed only what `f` changes in the mailbox. -/
def mailDone (p l : Fin 4) (opcode code : Nat) (payload : List Byte) (f : Mailbox → Mailbox) (s : State) : State :=
  { updMbox p l (fun b => { f b with opcode := opcode, retCode := code }) s with out := s.out ++ [.mailbox p l opcode code payload] }

/-- Every field of a Tiller message fits the bits that Tables 11.4 to 11.7 and 12.4 give it, and a line that is not carried is 0. -/
def msgFits : TilMsg → Bool
  | .mirrorWr h l => hdrFits h && (!h.poison || decide (l = 0))
  | .mirrorPwr h _ _ => hdrFits h
  | .mirrorAck id r => id < 4096 && r < 16
  | .lineFetch ld id key dpa => isLdTag ld && id < 4096 && key < 4096 && isDpa 64 dpa
  | .lineData id r l => id < 4096 && r < 16 && (r = 0 || decide (l = 0))
  | .sfSync us => decide (1 ≤ us.length) && decide (us.length ≤ 28) && us.all updateFits
  | .sfReject u => updateFits u
  | .resyncReq ld size dpa => isLdTag ld && size < 64 && isDpa 4096 dpa
  | .resyncZero ld dpa => isLdTag ld && isDpa 4096 dpa
  | .resyncDone ld size dpa _ _ => isLdTag ld && size < 64 && isDpa 4096 dpa
  | .spdm bs => decide (1 ≤ bs.length) && decide (bs.length ≤ 2024)
  | .heartbeat role _ epoch oldest => role < 8 && epoch < 256 && oldest < 2 ^ 64
  | .timeReq t1 => t1 < 2 ^ 64
  | .timeRsp t2 t3 => t2 < 2 ^ 64 && t3 < 2 ^ 64
  | .formReq r => r.epoch < 256 && r.gen < 2 ^ 64
  | .formRsp result _ _ => result < 4
  | .handover e => e < 256
  | .leave => true

/-- Between `s` and `t` the PMICs of the channels in SPD were enabled if every enabled output regulates in `t`, and nothing else
changed at the channels (R203, R372). -/
def pmicsEnabled (s t : State) : Prop := ∀ x : Fin 16, t.mcs[x] = { s.mcs[x] with
  pmicAt := if s.mcs[x].state = .spd ∧ s.mcs[x].pmicAt = none ∧ allInReg t = true then some s.dtime else s.mcs[x].pmicAt }

/-- What every step keeps, from whatever state: the tables are in order, and no error count passes 48 bits. -/
def runInvariant (s : State) : Bool := tablesOrdered s && s.headers.toList.all fun h => h.errCount < 2 ^ 48

/-- The commands that can reset the whole device: power-on, the loss of VDD_AUX or POWER_GOOD, a start, a reload (R58). -/
def resetsDevice : Instr → Prop
  | c => (∃ m a, c = .powerOn m a) ∨ c = .vddAuxLost ∨ c = .powerGoodFall ∨ (∃ ok, c = .powerGoodRise ok) ∨
      c = .reloadReset ∨ c = .warmResumeDram

/-- A safe run keeps the coherent domain up and the tables in order. -/
def safeState (s : State) : Bool := !s.domainDown && tablesOrdered s

end Sys2Proof.Machine
end

