-- ==== Sys2Proof/Certificates/Slice0/Obligations.lean ====
section
/-! DEFINITION. The statements for the provers: what the commands do, family by family, and what holds of the whole block. -/

open Sys2Proof Sys2Proof.Machine

/-- R446, R440, R441, R444: the writes of STATUS, CAUSE_MASK and FE_REARM that are accepted change that one field of that one
header and nothing else. R15, R446: a write of the header by a master that is not admitted there is refused with a bus error;
the cause REFUSED_WRITE is set in that block alone, its count goes up by one, and nothing is written. -/
def Obligations.HeaderWritesByAdmittedMasters : Prop :=
  (∀ (m : Master) (b : Fin 40) (v : BitVec 32) (s : State),
     (isGerm m ∨ isBran m ∨ isHost m →
       exec (.causeClear m b v) s =
         .next { s with headers := s.headers.set b { s.headers[b] with cause := s.headers[b].cause &&& ~~~v } } ∧
       exec (.feRearm m b) s = .next { s with headers := s.headers.set b { s.headers[b] with firstValid := false } }) ∧
     (isGerm m → exec (.causeMaskWrite m b v) s =
       .next { s with headers := s.headers.set b { s.headers[b] with mask := v } })) ∧
  (∀ (m : Master) (b : Fin 40) (v : BitVec 32) (s : State),
     (¬ (isGerm m ∨ isBran m ∨ isHost m) → ∀ c, c = .causeClear m b v ∨ c = .feRearm m b →
       ∃ off, Completes c s (Refused b m off s)) ∧
     (¬ isGerm m → Completes (.causeMaskWrite m b v) s (Refused b m (blkBase b + 0x08) s)))

/-- R442, R443, R445: a cause sets its bit and the count, and takes the capture exactly when none is held and the cause is not
masked; while one is held the three registers keep their values. R449, R450: FORCE where injection is permitted. A report sets
the defined causes that it names; arming arms those of Table 18.14; no cause bit disarms every injection of the block. R30,
R449: without the permission of the image a write of FORCE changes nothing. R450, R111: with an injection armed Germ sets
ordered-class mode in every spikelet, and no queued message is dropped. -/
def Obligations.CausesCaptureAndInject : Prop :=
  (∀ (b : Fin 40) (bit : Nat) (c : Cap) (s : State), bit < 32 →
     let h := s.headers[b]
     let g := (raise b bit c s).headers[b]
     g.cause = h.cause ||| BitVec.ofNat 32 (2 ^ bit) ∧
     g.errCount = min (h.errCount + 1) (2 ^ 48 - 1) ∧ g.mask = h.mask ∧ g.armed = h.armed ∧
     (h.firstValid = true ∨ h.mask.getLsbD bit = true →
       g.firstValid = h.firstValid ∧ g.feAddr = h.feAddr ∧ g.feSrc = h.feSrc ∧ g.feTime = h.feTime) ∧
     (h.firstValid = false → h.mask.getLsbD bit = false →
       g.firstValid = true ∧ g.feTime = BitVec.ofNat 64 s.dtime ∧ field g.feSrc 0 5 = bit ∧
       field g.feSrc 32 7 = c.master % 128 ∧ field g.feSrc 24 4 = c.access % 16) ∧
     (∀ d, d ≠ b → (raise b bit c s).headers[d] = s.headers[d]) ∧
     raise b bit c s = { s with headers := (raise b bit c s).headers }) ∧
  (∀ (m : Master) (b : Fin 40) (v : BitVec 32) (s : State), isGerm m ∨ isHost m → fiPermitted s = true →
     (∃ t, exec (.forceReport m b v) s = .next t ∧ t = { s with headers := t.headers } ∧
       t.headers[b].cause = s.headers[b].cause ||| (v &&& definedCauses (blkType b).1) ∧
       t.headers[b].armed = s.headers[b].armed ∧ ∀ d, d ≠ b → t.headers[d] = s.headers[d]) ∧
     (v ≠ 0 → exec (.forceArm m b v) s = .next { s with headers := s.headers.set b { s.headers[b] with
       armed := s.headers[b].armed ||| (v &&& injectable (blkType b).1) } }) ∧
     (∃ t, exec (.forceDisarm m b) s = .next t ∧ t.headers[b] = { s.headers[b] with armed := 0 } ∧
       ∀ d, d ≠ b → t.headers[d] = s.headers[d])) ∧
  (∀ (m : Master) (b : Fin 40) (v : BitVec 32) (s : State), fiPermitted s = false →
     exec (.forceReport m b v) s = .next s ∧ exec (.forceArm m b v) s = .next s ∧ exec (.forceDisarm m b) s = .next s) ∧
  (∀ (s : State) (b : Fin 40), s.headers[b].armed ≠ 0 → s.fw.germUp = true → coreOn s = true →
     ∃ t, exec .injectionOrderedMode s = .next t ∧ allOrdered t = true ∧ t.fw.injecting = true ∧
       (∀ k : Fin 8, t.spks[k] = { s.spks[k] with orderedActive := true }) ∧
       t = { s with spks := t.spks, regs := t.regs, fw := { s.fw with injecting := true } })

/-- R489, R492: an access that R489 turns away completes with Unsupported Request; BAD_ACCESS of GLB is set, with the offset
and the requester in its capture, and nothing else changes. R7, R9: a whole write by an admitted master of a register with
plain fields leaves each field with the value written, where that value is in the field's range and the field is not locked,
and as it was elsewhere. TIMEOUT of SHF_INV_TIMEOUT, T_WAKE and the wake enables stand for such registers. -/
def Obligations.RegisterAccessCheckedAndStored : Prop :=
  (∀ (m : Master) (off width : Nat) (w : Bool) (s : State),
     ((width ≠ 4 ∧ width ≠ 8) ∨ off % width ≠ 0 ∨ blkOf off = none) →
     exec (.badAccess m off width w) s =
       .next { raise blkGlb 1 ⟨off, 0, masterId m, 0xF, none⟩ s with out := s.out ++ [.unsupportedRequest m off] }) ∧
  (∀ (v : Word) (s : State), ksorted s.regs = true →
     (∃ t, exec (.registerWrite .germ offShfInvTimeout 8 v) s = .next t ∧ t = { s with regs := t.regs } ∧
       regField t offShfInvTimeout 0 16 =
         (if field v 0 16 = 0 then regField s offShfInvTimeout 0 16 else field v 0 16) ∧
       (∀ off, off ≠ offShfInvTimeout → regGet t off = regGet s off)) ∧
     (∃ t, exec (.registerWrite .germ offWakeTime 8 v) s = .next t ∧ t = { s with regs := t.regs } ∧
       regGet t offWakeTime = v ∧ (∀ off, off ≠ offWakeTime → regGet t off = regGet s off)))

/-- R454, R456, R460: PERF_SEL_n takes a selection that R454 accepts and, for any other, sets BAD_SELECT and keeps its value;
PERF_COUNT_n takes a write only while ENABLE is 0. R453, R457, Tables 19.8 and 19.10: CLEAR_ALL zeroes every count and
PERF_OVF; FREEZE and WINDOW_EN take the written bits, but WINDOW_EN not while a window is counting; START and the end of the
window move WINDOW_STATE. -/
def Obligations.PerfCountersAndWindow : Prop :=
  (∀ (m : Master) (n : Fin 192) (v : Word) (s : State), isGerm m ∨ isHost m → tablesOrdered s = true → ksorted s.perf.counts = true →
     (badSelect n v = false → Completes (.perfSelWrite m n v) s fun t => t = { s with regs := t.regs } ∧
       regField t (offPerfSel n) 63 1 = field v 63 1 ∧ regField t (offPerfSel n) 60 2 = field v 60 2 ∧
       regField t (offPerfSel n) 48 8 = field v 48 8 ∧ regField t (offPerfSel n) 16 16 = field v 16 16 ∧
       regField t (offPerfSel n) 0 8 = field v 0 8) ∧
     (badSelect n v = true → Completes (.perfSelWrite m n v) s fun t => t = { s with headers := t.headers } ∧
       t.headers[blkPerf].cause = s.headers[blkPerf].cause ||| 4 ∧ ∀ d, d ≠ blkPerf → t.headers[d] = s.headers[d]) ∧
     (flag (regGet s (offPerfSel n)) 63 = false → Completes (.perfCountWrite m n v) s fun t =>
       t = { s with perf := { s.perf with counts := t.perf.counts } } ∧ kget 0 t.perf.counts n = field v 0 48) ∧
     (flag (regGet s (offPerfSel n)) 63 = true → exec (.perfCountWrite m n v) s = .next s)) ∧
  ((∀ (m : Master) (v : Word) (s : State), isGerm m ∨ isHost m → tablesOrdered s = true →
     (Completes (.clearAll m v) s fun t => t = { s with perf := t.perf, regs := t.regs } ∧
       t.perf.counts = [] ∧ t.perf.ovf = []) ∧
     (flag v 2 = false → Completes (.freeze m v) s fun t => t = { s with perf := t.perf, regs := t.regs } ∧
       t.perf.frozen = flag v 0 ∧ regField t offPerfCtl 0 1 = field v 0 1 ∧
       t.perf.counts = s.perf.counts ∧ t.perf.ovf = s.perf.ovf) ∧
     (flag v 2 = false → s.perf.window = .counting → Completes (.windowEn m v) s fun t =>
       regField t offPerfCtl 1 1 = regField s offPerfCtl 1 1) ∧
     (flag v 2 = false → s.perf.window ≠ .counting → Completes (.windowEn m v) s fun t =>
       t = { s with perf := t.perf, regs := t.regs } ∧ regField t offPerfCtl 1 1 = field v 1 1 ∧
       t.perf.window = if flag v 1 = false then .idle
         else if flag (regGet s offPerfCtl) 1 then s.perf.window else .waiting)) ∧
   (∀ s : State, s.perf.window = .waiting → exec .perfWindowStart s = .next { s with
     dtime := max s.dtime (regGet s offWinStart).toNat, perf := { s.perf with window := .counting } }) ∧
   (∀ s : State, s.perf.window = .counting → Completes .windowDone s fun t =>
     t = { s with dtime := max s.dtime ((regGet s offWinStart).toNat + (regGet s offWinLen).toNat)
                  perf := { s.perf with window := .done }, headers := t.headers } ∧
     t.headers[blkPerf].cause = s.headers[blkPerf].cause ||| 8 ∧ ∀ d, d ≠ blkPerf → t.headers[d] = s.headers[d]))

/-- R367, R421, R481, Table 14.1: when VDD_AUX becomes good everything but the flash, the fuses and the PERST# levels starts
anew and the straps are sampled; when VDD_AUX leaves its range the always-on SRAM is lost, seal record and keys with it. R368,
R380, R421, Table 14.1: a fall of POWER_GOOD in REST or STOOK, or while R380 keeps the seal, leaves the seal record, the DRAM
and the husk die as they are; any other fall loses the seal and the DRAM contents, and the next start is cold, of KIND 4 when
host data could be held and else of KIND 1. R369, Tables 14.1 and 14.2: when POWER_GOOD rises a valid seal whose husk bits and
CHECK agree gives a warm resume at STEP 12 with the secrets and the root set of the seal; every other start is cold, at STEP 1
with an empty DRAM and the four fixed clocks locked, or failed with FAIL_CAUSE ENTROPY. -/
def Obligations.SupplyChoosesStart : Prop :=
  ((∀ (bm : Bool) (ba : BitVec 2) (s : State), s.pins.vddAux = false →
     exec (.powerOn bm ba) s = .next { State.reset with
       flash := s.flash, fuses := s.fuses, seq := s.seq, free := s.free, out := s.out, pending := s.pending
       pins := { State.reset.pins with bmcMode := bm, bmcAddr := ba, perst := s.pins.perst } }) ∧
   (∀ (bm : Bool) (ba : BitVec 2) (s : State), s.pins.vddAux = true → exec (.powerOn bm ba) s = .next s) ∧
   (∀ s : State, Completes .vddAuxLost s fun t =>
     t = { State.reset with
       flash := s.flash, fuses := s.fuses, pins := t.pins, pwr := t.pwr, dtime := s.dtime, seq := s.seq, free := s.free
       out := s.out, pending := s.pending } ∧
     t.pins = { s.pins with vddAux := false, powerGood := false } ∧ t.pwr.state = .off ∧ t.pwr.sealRec = none)) ∧
  (∀ s : State, s.pins.powerGood = true →
     (resting s = true ∨ sealKept s = true → Completes .powerGoodFall s fun t =>
       t.pwr.sealRec = s.pwr.sealRec ∧ t.pwr.state = s.pwr.state ∧ t.dram = s.dram ∧ t.husk = s.husk ∧ t.flash = s.flash ∧
       t.fuses = s.fuses ∧ t.crypt.slots = [] ∧ t.bring = Bringup.init ∧ t.dtime = s.dtime ∧
       t.pins = { s.pins with powerGood := false }) ∧
     (resting s = false → sealKept s = false → s.pwr.state ≠ .off → Completes .powerGoodFall s fun t =>
       t.pwr.sealRec = none ∧ t.pwr.state = .start ∧ t.dram = [] ∧ t.img = none ∧ t.crypt = Crypt.init ∧
       t.bring = { Bringup.init with kind := if dataHeld s then 4 else 1 } ∧ t.husk = s.husk ∧ t.flash = s.flash ∧
       t.fuses = s.fuses ∧ t.dtime = s.dtime ∧ t.pins = { s.pins with powerGood := false } ∧
       t.regs = s.regs.filter fun e => inHusk e.1)) ∧
  (∀ (rngOk : Bool) (s : State), s.pins.powerGood = false → s.pins.vddAux = true →
     (resting s = true ∨ s.pwr.state = .start ∧ s.bring.step = 0) →
     (∀ r, s.pwr.sealRec = some r → r.valid = true → regulated s = true → sealCheck s r = r.check →
       Completes (.powerGoodRise rngOk) s fun t => t.bring.step = 12 ∧ t.bring.kind = 3 ∧ t.bring.warm = true ∧
         t.pwr.state = .start ∧ t.crypt.salt = r.salt ∧ t.crypt.km = r.km ∧ t.crypt.hm = r.hm ∧ t.crypt.root = r.root ∧
         allOrdered t = true ∧ t.pins.powerGood = true ∧ t.husk = s.husk) ∧
     ((∀ r, s.pwr.sealRec = some r → r.valid = true → ¬ (regulated s = true ∧ sealCheck s r = r.check)) →
       Completes (.powerGoodRise rngOk) s fun t =>
         t.dram = [] ∧ t.img = none ∧ t.pwr.sealRec = none ∧ t.crypt = Crypt.init ∧ t.husk = s.husk ∧ t.flash = s.flash ∧
         t.fuses = s.fuses ∧ t.fw.germUp = true ∧ t.clk.locked = 0xF ∧ t.pins.powerGood = true ∧ t.dtime = s.dtime ∧
         t.bring.startTime = s.dtime ∧ t.bring.warm = false ∧
         t.bring.kind = (match s.pwr.sealRec with
           | some r => if r.valid then 5 else 4
           | none => s.bring.kind) ∧
         (if rngOk then t.bring.step = 1 else t.bring.step = 11 ∧ t.bring.failCause = 3 ∧ t.bring.mediaError = true)))

/-- R340, R341, R362, R377: step 2 of a cold start loads the copy that the rules put first, or the other one where the first
is refused; where both are, recovery mode begins at STEP 10 with FAIL_CAUSE NO_IMAGE. Both results are reported. Table 14.2
steps 3, 6 and 7 (R371, R122, R131, R111, R234): the first voltage request goes out and the clocks of the part lock; salt and
KM are two draws of the random bit generator, HM is the subkey of KM, the root set is zero and every spikelet runs ordered;
the fill leaves every line of DRAM at its fill value. Each step runs only in its turn. Table 14.2 steps 4, 5 and 8 and Table
8.6 (R202, R203, R217, R372): step 4 puts every channel into SPD with RESET_n held; the end of the SPD checks and power good
of the PMICs release it into TRAINING; a failed check, a PMIC that reports a fault or does not report in time, or a DIMM that
does not train makes the channel FAILED with its cause. Step 8 starts Bran. -/
def Obligations.ColdStartRunsInOrder : Prop :=
  (∀ s : State, s.bring.step = 1 → s.bring.warm = false →
     let loaded (i : SolvikImage) (d : BitVec 384) (copyB : Bool) (ra rb : Nat) (t : State) : Prop :=
       t.img = some i ∧ t.imgDigest = d ∧ t.imgCopyB = copyB ∧ t.bring.step = 2 ∧ t.bring.running = (if copyB then 2 else 1) ∧
       t.bring.resultA = ra ∧ t.bring.resultB = rb ∧ t.fuses = s.fuses ∧ t.flash = s.flash ∧
       (noRequests s = true → t.pair.role = (if i.paired then .detached else .none) ∧ t.dram = s.dram)
     (∀ i d, checkCopy s (firstCopy s) = .ok i d → Completes .coldStartImage s
       (loaded i d (firstCopy s) (if firstCopy s then 11 else 0) (if firstCopy s then 0 else 11))) ∧
     (∀ c i d, checkCopy s (firstCopy s) = .refused c → checkCopy s (!firstCopy s) = .ok i d → Completes .coldStartImage s
       (loaded i d (!firstCopy s) (if firstCopy s then 0 else c) (if firstCopy s then c else 0))) ∧
     (∀ c c2, checkCopy s (firstCopy s) = .refused c → checkCopy s (!firstCopy s) = .refused c2 →
       Completes .coldStartImage s fun t =>
         t = { s with bring := t.bring, ports := t.ports } ∧ t.bring.step = 10 ∧ t.bring.failCause = 1 ∧
         t.bring.recovery = true ∧ t.bring.mboxReady = true ∧ t.bring.resultA = (if firstCopy s then c2 else c) ∧
         t.bring.resultB = (if firstCopy s then c else c2))) ∧
  ((∀ (s : State) (i : SolvikImage), s.img = some i → s.bring.step = 2 → Completes .coldStartRails s fun t =>
     t = { s with bring := { s.bring with step := 3 }, clk := t.clk, pwr := t.pwr, out := t.out } ∧ t.clk.locked = ownClocks ∧
     t.pwr.avsReqs = s.pwr.avsReqs ++ [(false, i.vcoreMv), (true, i.vsramMv)] ∧
     (s.pwr.avsBusy = false → s.pwr.avsFail = false → s.pwr.avsReqs = [] →
       t.pwr = { s.pwr with avsBusy := true, avsReqs := t.pwr.avsReqs } ∧ t.out = s.out ++ [.avs false (i.rails % 16) i.vcoreMv])) ∧
   (∀ s : State, s.bring.step = 6 → Completes .coldStartKeys s fun t =>
     t = { s with
       bring := { s.bring with step := 7 }, crypt := t.crypt, spks := t.spks, regs := t.regs, free := s.free + 2 } ∧
     t.crypt = { s.crypt with
       salt := (Config.randomBits s.free).setWidth 128, km := Config.randomBits (s.free + 1)
       hm := subkey (Config.randomBits (s.free + 1)), root := Vector.replicate 8 0 } ∧ allOrdered t = true) ∧
   (∀ s : State, s.bring.step = 7 → Completes .coldStartFill s fun t =>
     t = { s with bring := t.bring, dram := [], filled := true, fillMap := t.fillMap, mcs := t.mcs, headers := t.headers } ∧
     t.bring = { s.bring with step := 8, permille := 1000 } ∧ Memory.wf t = true ∧
     ∀ x : Fin 16, t.headers[blkMc x].cause = s.headers[blkMc x].cause ||| 0x100 ∧
       t.mcs[x] = { s.mcs[x] with
         acts := t.mcs[x].acts, owed := [], rdFallback := t.mcs[x].rdFallback, rdRefreshes := t.mcs[x].rdRefreshes }) ∧
   (∀ s : State, s.bring.step ≠ 2 → s.bring.step ≠ 3 → s.bring.step ≠ 6 → s.bring.step ≠ 7 → s.bring.step ≠ 8 →
     ∀ c, c = .coldStartRails ∨ c = .coldStartPower ∨ c = .coldStartKeys ∨ c = .coldStartFill ∨ c = .coldStartLoad →
       exec c s = .next s)) ∧
  ((∀ (s : State) (i : SolvikImage), s.img = some i → s.bring.step = 3 → s.pwr.avsBusy = false →
     Completes .coldStartPower s fun t => t.bring = { s.bring with step := 4 } ∧ t.fuses = s.fuses ∧ t.img = s.img ∧ t.pwr = s.pwr ∧
       ∀ x : Fin 16, t.mcs[x] = { s.mcs[x] with
         state := .spd, dramReset := true, spdOk := false, pmicGood := false, pmicAt := if allInReg t then some s.dtime else none }) ∧
   (∀ (x : Fin 16) (spd0 spd1 : Option DimmSpd) (s : State), s.mcs[x].state = .spd →
     spdsMatch s (fun d => if d = 0 then spd0 else spd1) = true →
     Completes (.spdCheckDone x spd0 spd1) s fun t => t = { s with mcs := t.mcs, bring := t.bring } ∧
       t.mcs[x] = { s.mcs[x] with spdOk := true, trfc := t.mcs[x].trfc, state := if s.mcs[x].pmicGood then .training else .spd } ∧
       (s.img.map (·.trfc)).getD 0 ≤ t.mcs[x].trfc ∧
       (∀ d ∈ dimms s, ∀ a, (if d = 0 then spd0 else spd1) = some a → a.trfc ≤ t.mcs[x].trfc) ∧ ∀ y, y ≠ x → t.mcs[y] = s.mcs[y]) ∧
   (∀ (x : Fin 16) (s : State), s.mcs[x].state = .spd → s.mcs[x].pmicAt ≠ none →
     Completes (.pmicPowerGood x) s fun t => t = { s with mcs := t.mcs, bring := t.bring } ∧
       t.mcs[x] = { s.mcs[x] with
         pmicGood := true, dramReset := false, state := if s.mcs[x].spdOk then .training else .spd } ∧
       ∀ y, y ≠ x → t.mcs[y] = s.mcs[y]) ∧
   (∀ (x : Fin 16) (c : Instr) (bit now : Nat) (s : State),
     s.mcs[x].state = .spd ∧ now = s.dtime ∧ (∃ a b, spdsMatch s (fun d => if d = 0 then a else b) = false ∧ c = .spdCheckDone x a b) ∧
         bit = 2 ∨
       s.mcs[x].state = .spd ∧ s.mcs[x].pmicGood = false ∧ (∃ n, s.mcs[x].pmicAt = some n ∧ now = max s.dtime (n + 10000000)) ∧
         c = .pmicTimeout x ∧ bit = 5 ∨
       s.mcs[x].state ≠ .off ∧ s.mcs[x].state ≠ .failed ∧ now = s.dtime ∧ c = .pmicFault x ∧ bit = 5 ∨
       s.mcs[x].state = .training ∧ now = s.dtime ∧ (∃ fs t0 t1, c = .channelTrained x fs t0 t1 ∧ TrainFault.dimm ∈ fs) ∧ bit = 3 →
     Completes c s fun t => t = { s with mcs := t.mcs, bring := t.bring, headers := t.headers, dtime := now } ∧
       t.mcs[x] = { s.mcs[x] with state := .failed } ∧ (∀ y, y ≠ x → t.mcs[y] = s.mcs[y]) ∧
       t.headers = (raise (blkMc x) bit Cap.none { s with dtime := now }).headers) ∧
   (∀ (x : Fin 16) (fs : List TrainFault) (t0 t1 : Int) (s : State), s.mcs[x].state = .training →
     Completes (.channelTrained x fs t0 t1) s fun t => (t.mcs[x].state = .active ∨ t.mcs[x].state = .failed) ∧
       (t.mcs[x].state = .active → t.mcs[x].temps[0] = t0) ∧ t.dram = s.dram ∧ t.ports = s.ports ∧
       (fs = [] → t.mcs[x].state = .active ∧ t.regs = s.regs) ∧ ∀ y, y ≠ x → t.mcs[y] = s.mcs[y]) ∧
   (∀ s : State, s.bring.step = 8 → Completes .coldStartLoad s fun t =>
     t.bring.step = 9 ∧ (t.img ≠ none → t.fw.branUp = true)))

/-- R375, R336, R337, R379: at release the mailbox is ready, the device is ACTIVE, every scrubber starts and ordered-class
mode ends; every port whose links have trained leaves TRAINING; the fuses take the owner key and the rollback value of the
image after a cold start only. R379, R380: a warm resume takes the image named by the seal if its copy still matches the
digest and then lets every channel leave SELF_REFRESH, keeping the DRAM; a copy that does not match makes the start cold, of
KIND 5. Once every channel is ACTIVE the resume reaches STEP 9 with Bran running. -/
def Obligations.ReleaseAndWarmResume : Prop :=
  (∀ s : State, s.bring.step = 9 → s.bring.released = false → Completes .release s fun t =>
     t = { s with bring := t.bring, pwr := { s.pwr with state := .active }, pair := t.pair, mcs := t.mcs, spks := t.spks
                  regs := t.regs, fuses := t.fuses, queue := t.queue, ports := t.ports, fw := t.fw } ∧
     t.bring = { s.bring with released := true, releaseTime := s.dtime, mboxReady := true } ∧
     (s.fw.injecting = false → noInjection s = true → ∀ k : Fin 8, t.spks[k] = { s.spks[k] with orderedActive := false }) ∧
     (s.fw.injecting = true ∨ noInjection s = false → t.spks = s.spks ∧ t.fw.injecting = true) ∧
     (∀ x : Fin 16, t.mcs[x] = { s.mcs[x] with scrubRun := true, lapStart := s.dtime }) ∧
     (∀ p : Fin 4, s.ports[p].state ≠ .training → t.ports[p] = s.ports[p]) ∧
     (∀ p : Fin 4, s.ports[p].state = .training → linksTrained s p = true →
       t.ports[p].state = .enabled ∨ t.ports[p].state = .drained) ∧
     (s.bring.warm = true ∨ s.img = none → t.fuses = s.fuses) ∧
     (s.bring.warm = false → ∀ i, s.img = some i → t.fuses = { s.fuses with
       rollback := max s.fuses.rollback i.rollback, ownerKey := some (s.fuses.ownerKey.getD (sha384 i.ownerKey)) })) ∧
  ((∀ (s : State) (r : Seal) (i : SolvikImage), s.pwr.sealRec = some r → s.img = some i → s.bring.step = 12 →
     (copyMatches r s = true → Completes .warmResumeDram s fun t => t.bring.step = 13 ∧ t.bring.leftSelfRefresh = true ∧
       t.img = some i ∧ t.imgDigest = r.digest ∧ t.imgCopyB = r.copyB ∧ t.fuses = s.fuses ∧ t.flash = s.flash ∧
       (∀ x : Fin 16, s.mcs[x].state = .selfRefresh → s.mcs[x].snapshot ≠ none → t.mcs[x].state = .restoring) ∧
       (noRequests s = true → t.dram = s.dram ∧ t.crypt = s.crypt)) ∧
     (copyMatches r s = false → Completes .warmResumeDram s fun t => t.bring.step = 1 ∧ t.bring.kind = 5 ∧
       t.bring.warm = false ∧ t.dram = [] ∧ t.img = none ∧ t.pwr.sealRec = none ∧ t.crypt = Crypt.init ∧
       t.fuses = s.fuses)) ∧
   (∀ (x : Fin 16) (t0 t1 : Int) (fails : List TrainFault) (ok : Bool) (k : Snapshot) (s : State),
     s.mcs[x].state = .restoring → s.mcs[x].snapshot = some k →
     let top := if (s.img.map (·.dpc2)).getD false then max t0 t1 else t0
     let near := ((top - k.temp).natAbs : Int) ≤ 3 * regField s (offRecalCfg x) 0 8
     (ok = true ∧ near → Completes (.channelRestore x ok t0 t1 fails) s fun t => t.mcs[x].state = .active ∧
       t.mcs[x].cal = s.mcs[x].cal ∧ t.mcs[x].calTemp = k.temp ∧ t.free = s.free ∧ ∀ y, y ≠ x → t.mcs[y] = s.mcs[y]) ∧
     (¬ (ok = true ∧ near) → fails = [] → Completes (.channelRestore x ok t0 t1 fails) s fun t =>
       t.mcs[x].state = .active ∧ t.mcs[x].calTemp = k.temp ∧ t.mcs[x].calRunning = true ∧
       t.headers[blkMc x].cause &&& 0x200 = 0x200 ∧ ∀ y, y ≠ x → t.mcs[y] = s.mcs[y]) ∧
     (¬ (ok = true ∧ near) → fails ≠ [] → Completes (.channelRestore x ok t0 t1 fails) s fun t =>
       t.mcs[x].state = .failed ∧ t.headers[blkMc x].cause &&& 8 = 8 ∧ ∀ y, y ≠ x → t.mcs[y] = s.mcs[y])) ∧
   (∀ s : State, s.bring.step = 13 → (∀ x : Fin 16, s.mcs[x].state = .active) →
     Completes .warmResumeCulm s fun t => t.bring.step = 9 ∧ t.fw.branUp = true) ∧
   (∀ s : State, s.bring.step = 13 → (∃ x : Fin 16, s.mcs[x].state ≠ .active) → exec .warmResumeCulm s = .next s))

/-- R54, R55, R57, R373, Table 2.7: PERST# held low resets its port alone: links, decoders, DEC_MAP registers, mailbox and
queued enable; a port that is not VIRAL goes to RESET. The release of PERST# lets a port of the running image start TRAINING.
R33, R34, R35: the end of a link's training, the loss of lanes in service, and the end of its Recovery change that link alone:
width, speed and flit mode as trained, DEGRADED below the fixed width, and its up bit; a combination that Table 2.1 lacks sets
SPEED_FLOOR, and a narrower width after Recovery sets LINK_DEGRADED. -/
def Obligations.PortResetAndLinkTraining : Prop :=
  ((∀ (p : Fin 4) (s : State), s.pins.perst[p] = false → wasUp s.ports[p].state = false →
     Completes (.perstAssert p) s fun t => t.pins.perst[p] = true ∧ (∀ q, q ≠ p → t.pins.perst[q] = s.pins.perst[q]) ∧
       t.ports[p].links = Vector.replicate 4 Link.init ∧ t.ports[p].mbox = Vector.replicate 4 Mailbox.init ∧
       t.ports[p].decs = [] ∧ t.ports[p].enableQueued = false ∧ t.ports[p].sheaf = s.ports[p].sheaf ∧
       t.ports[p].state = (if s.ports[p].state = .viral then .viral else .reset) ∧
       (∀ q, q ≠ p → t.ports[q].state = s.ports[q].state ∧ t.ports[q].links = s.ports[q].links) ∧
       t.dram = s.dram ∧ t.mcs = s.mcs ∧ t.spks = s.spks ∧ t.fuses = s.fuses ∧ t.img = s.img ∧
       t.headers[blkPort p].cause &&& 8 = 8) ∧
   (∀ (p : Fin 4) (s : State), s.pins.perst[p] = false → wasUp s.ports[p].state = true →
     Completes (.perstAssert p) s fun t =>
       t.ports[p].links = Vector.replicate 4 Link.init ∧ t.ports[p].mbox = Vector.replicate 4 Mailbox.init ∧
       t.ports[p].decs = [] ∧ t.ports[p].enableQueued = false ∧ (t.ports[p].state = .reset ∨ t.ports[p].state = .viral)) ∧
   (∀ (p : Fin 4) (s : State), Completes (.perstRelease p) s fun t =>
     t = { s with pins := t.pins, ports := t.ports, clk := t.clk } ∧
     t.pins = { s.pins with perst := s.pins.perst.set p false } ∧
     (coreOn s = true → s.ports[p].state = .reset → portExists p s = true → s.bring.infoValid = true ∨ s.bring.recovery = true →
       t.ports = s.ports.set p { s.ports[p] with state := .training }) ∧
     (¬ (coreOn s = true ∧ s.ports[p].state = .reset ∧ portExists p s = true ∧
         (s.bring.infoValid = true ∨ s.bring.recovery = true)) → t.ports = s.ports))) ∧
  ((∀ (p l : Fin 4) (w sp : Nat) (f : Bool) (s : State), s.ports[p].state = .training → trainable s p l w sp f = true →
     Completes (.linkTrained p l w sp f) s fun t =>
       t.ports[p].links = s.ports[p].links.set l { s.ports[p].links[l] with
         up := true, trained := true, belowFloor := !supported w sp, width := w, speed := sp, flit256 := f
         degraded := decide (w < fixedWidth s p), retraining := false, good := w } ∧
       t.headers = (if supported w sp then s.headers else (raise (blkPort p) 2 Cap.none s).headers) ∧
       (∀ q, q ≠ p → t.ports[q] = s.ports[q]) ∧ t.dram = s.dram ∧
       (s.bring.released = false → t = { s with
         ports := s.ports.set p { s.ports[p] with links := t.ports[p].links }, headers := t.headers })) ∧
   (∀ (p l : Fin 4) (good : Nat) (s : State), s.ports[p].links[l].up = true → s.ports[p].links[l].retraining = false →
     good < s.ports[p].links[l].width →
     (degradedWidth good s.ports[p].links[l].speed ≠ 0 → Completes (.linkLaneLoss p l good) s fun t =>
       t = { s with ports := t.ports, free := s.free + 1 } ∧
       t.ports = s.ports.set p { s.ports[p] with links := s.ports[p].links.set l { s.ports[p].links[l] with
         up := false, retraining := true, recovery := satAdd 16 s.ports[p].links[l].recovery 1, good := good
         cfg := { s.ports[p].links[l].cfg with aerCorrectable := t.ports[p].links[l].cfg.aerCorrectable } } }) ∧
     (degradedWidth good s.ports[p].links[l].speed = 0 → exec (.linkLaneLoss p l good) s = exec (.linkDown p l) s)) ∧
   (∀ (p l : Fin 4) (w : Nat) (s : State), s.ports[p].links[l].retraining = true →
     degradedWidth s.ports[p].links[l].good s.ports[p].links[l].speed = w → Completes (.linkRecoveryDone p l w) s fun t =>
       t = { s with ports := t.ports, headers := (raise (blkPort p) 1 Cap.none s).headers, out := t.out } ∧
       t.ports = s.ports.set p { s.ports[p] with bis := t.ports[p].bis, links := s.ports[p].links.set l { s.ports[p].links[l] with
         up := true, retraining := false, width := w, degraded := decide (w < fixedWidth s p) } } ∧
       (∀ b ∈ s.ports[p].bis, b.link = l.val → b.unsent = true → .biSnp p l b.bid b.hpa b.kind ∈ t.out) ∧
       ((∀ b ∈ s.ports[p].bis, b.link = l.val → b.unsent = false) → t.ports[p].bis = s.ports[p].bis ∧ t.out = s.out)) ∧
   (∀ (p l : Fin 4) (s : State), s.ports[p].links[l].up = true → Completes (.linkL1Entry p l) s fun t =>
     t = { s with ports := t.ports, pwr := { s.pwr with dozeSince := t.pwr.dozeSince } } ∧
     t.ports = s.ports.set p { s.ports[p] with links := s.ports[p].links.set l { s.ports[p].links[l] with inL1 := true } } ∧
     t.pwr.dozeSince = if dozeHolds { s with ports := t.ports } then some (s.pwr.dozeSince.getD s.dtime) else s.pwr.dozeSince))

/-- R47, R56, R104, Table 2.7: a link that leaves L0 other than through Recovery, or whose IDE MAC fails, is down with its IDE
keys erased; a port that was serving, draining or drained goes back to TRAINING, and LINK_DOWN is set. R56, Table 2.7: the
loss of a link takes a port that was ENABLED, DRAINING or DRAINED back to TRAINING. R45, R46: key programming over a secured
session stores the key that K_SET_GO then puts to use, on that stream of that link alone; outside a secured session both are
refused and change nothing. While Germ restarts the message waits (R24). -/
def Obligations.LinkLossAndIdeKeys : Prop :=
  (∀ (p l : Fin 4) (tags : List Nat) (s : State), s.ports[p].links[l].up = true →
     Completes (.linkDown p l) s (fun t =>
       t.ports[p].links = s.ports[p].links.set l { s.ports[p].links[l] with
         up := false, trained := false, belowFloor := false, width := 0, speed := 0, flit256 := false, degraded := false
         retraining := false, inL1 := false, good := 0, ideIo := IdeStream.init, ideMem := IdeStream.init } ∧
       t.headers[blkPort p].cause &&& 1 = 1 ∧
       (wasUp s.ports[p].state = true → errorFree s = true → t.ports[p].state = .training) ∧
       (wasUp s.ports[p].state = true → linkMode s p l = 0 ∨ linkMode s p l = 3 → noRequests s = true →
         t.dram = s.dram ∧ t.spks = s.spks ∧ ∀ q, q ≠ p → t.ports[q] = s.ports[q]) ∧
       (wasUp s.ports[p].state = false → t = { s with ports := t.ports, headers := t.headers } ∧
         t.headers = (raise (blkPort p) 0 Cap.none s).headers ∧
         t.ports = s.ports.set p { s.ports[p] with links := t.ports[p].links })) ∧
     (s.ports[p].links[l].ideIo.active = true ∨ s.ports[p].links[l].ideMem.active = true →
       Completes (.ideIntegrityFailure p l tags) s fun t =>
         t.ports[p].links[l].up = false ∧ t.ports[p].links[l].ideIo = IdeStream.init ∧
         t.ports[p].links[l].ideMem = IdeStream.init ∧ t.headers[blkPort p].cause &&& 0x81 = 0x81 ∧
         (wasUp s.ports[p].state = true → errorFree s = true → t.ports[p].state = .training) ∧
         (wasUp s.ports[p].state = false → t.dram = s.dram ∧ ∀ q, q ≠ p → t.ports[q] = s.ports[q]))) ∧
  (∀ (p l : Fin 4) (key : BitVec 256) (s : State), s.ports[p].links[l].up = true →
     (∀ kind, exec (.ideKmKeyProg p l false kind key) s = .next { s with out := s.out ++ [.ideAck p l kind false] } ∧
       exec (.ideKmKSetGo p l false kind) s = .next { s with out := s.out ++ [.ideAck p l kind false] }) ∧
     (s.fw.germUp = true →
       exec (.ideKmKeyProg p l true .mem key) s = .next { s with
         out := s.out ++ [.ideAck p l .mem true]
         ports := s.ports.set p { s.ports[p] with links := s.ports[p].links.set l { s.ports[p].links[l] with
           ideMem := { s.ports[p].links[l].ideMem with next := some key } } } } ∧
       exec (.ideKmKeyProg p l true .io key) s = .next { s with
         out := s.out ++ [.ideAck p l .io true]
         ports := s.ports.set p { s.ports[p] with links := s.ports[p].links.set l { s.ports[p].links[l] with
           ideIo := { s.ports[p].links[l].ideIo with next := some key } } } } ∧
       (∀ kind k, (ideOf s.ports[p].links[l] kind).next = some k → Completes (.ideKmKSetGo p l true kind) s fun t =>
         ideOf t.ports[p].links[l] kind = ⟨true, k, none⟩ ∧ t.out = s.out ++ [.ideAck p l kind true] ∧
         (s.ports[p].state ≠ .drained → t = { s with out := t.out, ports := s.ports.set p { s.ports[p] with
           links := t.ports[p].links } }))) ∧
     (s.fw.germUp = false → ∀ kind, exec (.ideKmKeyProg p l true kind key) s =
       .next { s with fw := { s.fw with waits := s.fw.waits ++ [.keyProg p l kind key] } }))

/-- R50 to R53, Table 2.7: ENABLE and DISABLE of PORT_CTL. ENABLE opens a DRAINED port that may serve, and is queued in the
states that do not admit it; DISABLE takes an ENABLED port to DRAINING, or at once to DRAINED when nothing is in flight and
its head holds no line; both bits together, or a state that ignores them, change no port. A drain that lasts too long sets its
cause and goes on. R38, R40, R60: Commit takes a decoder that R40 allows; any other commit leaves it uncommitted with its
error bit and sets DECODER_REJECT. DEC_MAP of a committed decoder ignores a write. -/
def Obligations.PortEnableAndDecoders : Prop :=
  (∀ (m : Master) (p : Fin 4) (v : Word) (s : State), isGerm m ∨ (∃ l, m = .link p l) →
     (flag v 1 = false → s.ports[p].state = .training ∨ s.ports[p].state = .draining → Completes (.portCtlEnable m p v) s fun t =>
       t = { s with ports := s.ports.set p { s.ports[p] with enableQueued := true }, regs := t.regs }) ∧
     (flag v 1 = false → s.ports[p].state = .drained → ideReady s p = true → mayServe s = true →
       Completes (.portCtlEnable m p v) s fun t => t.ports[p].state = .enabled ∧ t.ports[p].enableQueued = false ∧
         t = { s with ports := t.ports, regs := t.regs, pair := { s.pair with fresh := false }, queue := t.queue } ∧
         ∀ q, q ≠ p → t.ports[q] = s.ports[q]) ∧
     (flag v 1 = false → s.ports[p].state = .drained → ideReady s p = false ∨ mayServe s = false →
       Completes (.portCtlEnable m p v) s fun t =>
         t = { s with ports := s.ports.set p { s.ports[p] with enableQueued := true }, regs := t.regs }) ∧
     (flag v 0 = false → s.ports[p].state = .enabled → s.ports[p].enableQueued = false → errorFree s = true →
       Completes (.portCtlDisable m p v) s fun t => (t.ports[p].state = .draining ∨ t.ports[p].state = .drained) ∧ t.ports[p].drainStart = s.dtime) ∧
     (flag v 0 = false → s.ports[p].state = .enabled → inflight s p ≠ 0 → Completes (.portCtlDisable m p v) s fun t =>
       t = { s with ports := s.ports.set p { s.ports[p] with state := .draining, drainStart := s.dtime }, regs := t.regs }) ∧
     (flag v 0 = false → s.ports[p].state = .enabled → inflight s p = 0 → s.ports[p].enableQueued = false →
       (∀ k : Fin 8, s.spks[k].sf = [] ∧ s.spks[k].snps = []) → Completes (.portCtlDisable m p v) s fun t =>
         t = { s with ports := t.ports, regs := t.regs, queue := t.queue } ∧
         t.ports = s.ports.set p { s.ports[p] with state := .drained, drainDone := true, drainStart := s.dtime }) ∧
     (flag v 0 = false → s.ports[p].state = .draining → Completes (.portCtlDisable m p v) s fun t =>
       t = { s with ports := s.ports.set p { s.ports[p] with enableQueued := false }, regs := t.regs }) ∧
     (flag v 0 = true → flag v 1 = true →
       exec (.portCtlEnable m p v) s = .next s ∧ exec (.portCtlDisable m p v) s = .next s) ∧
     (s.ports[p].state = .draining → exec (.drainTimeout p) s = .next (raise (blkPort p) 4 Cap.none { s with
       dtime := max s.dtime (s.ports[p].drainStart + 100000 * regField s (offDrainCfg p) 0 16) }))) ∧
  (∀ (p : Fin 4) (ld : Fin 16) (d : Fin 4) (s : State),
     (∀ base size ig iw, s.ports[p].state ≠ .reset → s.ports[p].links[port4 (ldRec s (16 * p.val + ld.val)).link].up = true →
       Completes (.decoderCommit p ld d base size ig iw) s fun t =>
         t = { s with ports := t.ports, headers := t.headers } ∧
         kget decoderInit t.ports[p].decs (4 * ld.val + d.val) =
           (if commitOk s p ld d size ig iw then ⟨base, size, ig, iw, true, false⟩ else ⟨base, size, ig, iw, false, true⟩) ∧
         t.headers = (if commitOk s p ld d size ig iw then s.headers else (raise (blkPort p) 6 Cap.none s).headers) ∧
         ∀ q, q ≠ p → t.ports[q] = s.ports[q]) ∧
     (∀ m v, isGerm m ∨ (∃ l, m = .link p l) → (kget decoderInit s.ports[p].decs (4 * ld.val + d.val)).committed = true →
       exec (.decMapWrite m p ld d v) s = .next s) ∧
     (∀ m v, isGerm m ∨ (∃ l, m = .link p l) → (kget decoderInit s.ports[p].decs (4 * ld.val + d.val)).committed = false →
       ksorted s.regs = true → Completes (.decMapWrite m p ld d v) s fun t => t = { s with regs := t.regs } ∧
         regField t (offDecMap p ld d) 16 8 = field v 16 8 ∧ regField t (offDecMap p ld d) 28 4 = field v 28 4))

/-- R384 to R386: a feed that stays in its window counts and, where no delay runs for it, starts the insertion delay; one that
leaves its window loses its qualification with its cause; a feed more than 20 mV below VIN_OR has its ORing FET turned off.
R388, R395, R396: an output of an enabled slot that falls below the regulation floor sets OUT_LOST; before the release
bring-up fails with FAIL_CAUSE SUPPLY, after it the coherent domain goes down, and in REST or STOOK only the bit of HUSK_SEAL
is set. One that does not reach regulation in time fails bring-up too. R12, R396, R397: ARM clears REG_LOST and starts the
watch; the loss of the husk link keeps every output and sets LINK_LOST; PFW_N is driven low below PFW_MV and released at
PFW_MV + 200 mV. -/
def Obligations.FeedsAndSupplyLoss : Prop :=
  ((∀ (b : Fin 2) (mv : Nat) (s : State), s.husk.feeds[b].qualified = false → uvMv s ≤ mv → mv ≤ ovMv s →
     Completes (.feedQualify b mv) s fun t => t = { s with husk := t.husk, headers := t.headers } ∧
       (∀ d, d ≠ blkHusk → t.headers[d] = s.headers[d]) ∧ t.husk.feeds[b].qualified = true ∧
       t.husk.feeds[b].mv = mv ∧ t.husk.vinOr = max s.husk.vinOr mv ∧ t.husk.outs = s.husk.outs ∧
       (s.husk.inputLost = true ∨ s.husk.insertAt = none → t.husk.insertAt = some s.dtime ∧ t.husk.insertDone = false ∧
         t.husk.inputLost = false) ∧
       (s.husk.inputLost = false → s.husk.insertAt ≠ none → t.husk.insertAt = s.husk.insertAt ∧
         t.husk.insertDone = s.husk.insertDone)) ∧
   (∀ (b : Fin 2) (mv : Nat) (s : State), s.husk.feeds[b].qualified = true →
     (mv < uvMv s → exec (.feedUnderVoltage b mv) s = .next (raise blkHusk (1 + b.val) Cap.none { s with
       husk := { s.husk with feeds := s.husk.feeds.set b ⟨mv, false, false⟩ } })) ∧
     (ovMv s < mv → exec (.feedOverVoltage b mv) s = .next (raise blkHusk 3 Cap.none (raise blkHusk (1 + b.val) Cap.none { s with
       husk := { s.husk with feeds := s.husk.feeds.set b ⟨mv, false, false⟩ } })))) ∧
   (∀ (b : Fin 2) (mv : Nat) (s : State), s.husk.feeds[b].orOn = true → mv + 20 < s.husk.vinOr →
     exec (.reverseCurrent b mv) s = .next (raise blkHusk 4 Cap.none { s with
       husk := { s.husk with feeds := s.husk.feeds.set b { s.husk.feeds[b] with orOn := false, mv := mv } } })) ∧
   (∀ (t : Nat) (s : State), s.husk.insertAt = some t → s.husk.insertDone = false →
     exec .insertionDelayEnd s = .next { s with
       dtime := max s.dtime (t + insertNs s), husk := { s.husk with insertDone := true } }) ∧
   (∀ (mv : Nat) (s : State), mv < 6000 → Completes (.inputLost mv) s fun t =>
     ((∀ o : Fin 4, inReg s o = false) → t = { s with husk := t.husk, headers := t.headers }) ∧ t.husk.inputLost = true ∧
     t.husk.vinOr = mv ∧ t.dram = s.dram ∧
     ∀ o : Fin 4, (running s.husk.outs[o].state = true → t.husk.outs[o] = { s.husk.outs[o] with
       state := .discharge, onPending := true, enteredAt := s.dtime, timer := 0, aboveFloor := false }) ∧
       (running s.husk.outs[o].state = false → t.husk.outs[o] = s.husk.outs[o]))) ∧
  (∀ (o : Fin 4) (mv : Nat) (s : State), outEnabled s o = true → s.husk.outs[o].state = .on ∨ s.husk.outs[o].state = .limit →
     (floorMv s ≤ mv ∨ s.husk.outs[o].aboveFloor = false → Completes (.regulationFloorCrossed o mv) s fun t =>
       t = { s with mcs := t.mcs, out := t.out, husk := { s.husk with
         outs := s.husk.outs.set o { s.husk.outs[o] with vout := mv, aboveFloor := decide (floorMv s ≤ mv) } } } ∧ pmicsEnabled s t) ∧
     (s.husk.outs[o].aboveFloor = true → mv < floorMv s → Completes (.regulationFloorCrossed o mv) s fun t =>
       t.husk.outs = s.husk.outs.set o { s.husk.outs[o] with vout := mv, aboveFloor := false } ∧
       t.headers[blkHusk].cause.getLsbD 12 = true ∧ t.dram = s.dram ∧
       (s.husk.watch = false → t.regs = s.regs) ∧
       (s.husk.watch = true → s.husk.outs[o].commanded = true → ksorted s.regs = true → regField t offHuskSeal (4 + o) 1 = 1) ∧
       (resting s = true → t = { s with husk := t.husk, headers := t.headers, regs := t.regs }) ∧
       (resting s = false → s.bring.released = false → s.bring.step ≠ 11 →
         t = { s with husk := t.husk, headers := t.headers, regs := t.regs, bring := t.bring } ∧
           t.bring.step = 11 ∧ t.bring.failCause = 4 ∧ t.bring.mediaError = true) ∧
       (resting s = false → s.bring.released = true → t.domainDown = true)) ∧
     (s.husk.outs[o].aboveFloor = false → s.bring.released = false → s.bring.step ≠ 10 → s.bring.step ≠ 11 →
       s.husk.outs[o].rampAt ≠ 0 → Completes (.outputRegulationTimeout o) s fun t =>
         t = { s with bring := t.bring, dtime := max s.dtime (s.husk.outs[o].rampAt + 100000000) } ∧
         t.bring.step = 11 ∧ t.bring.failCause = 4)) ∧
  ((∀ (m : Master) (v : Word) (s : State), isGerm m ∨ m = .sequencer → flag v 0 = true → ksorted s.regs = true →
     Completes (.huskSealArm m v) s fun t => t = { s with regs := t.regs, husk := { s.husk with watch := true } } ∧
       regulated t = true ∧ ∀ off, off ≠ offHuskSeal → regGet t off = regGet s off) ∧
   (∀ s : State, exec .huskLinkLost s = .next (raise blkHusk 14 Cap.none { s with husk := { s.husk with linkLost := true } })) ∧
   (∀ (mv : Nat) (s : State), mv < pfwMv s → s.husk.pfwDrive = false → Completes (.pfwAssert mv) s fun t =>
     t = { s with husk := t.husk, pins := { s.pins with pfwLow := true }, headers := t.headers } ∧
     t.husk.pfwDrive = true ∧ t.husk.vinOr = mv ∧ t.husk.outs = s.husk.outs ∧ t.headers[blkHusk].cause.getLsbD 5 = true ∧
     ∀ d, d ≠ blkHusk → t.headers[d] = s.headers[d]) ∧
   (∀ (mv : Nat) (s : State), pfwMv s + 200 ≤ mv → Completes (.pfwRelease mv) s fun t =>
     t = { s with husk := t.husk, headers := t.headers } ∧ t.husk.pfwDrive = false ∧ t.husk.vinOr = mv ∧
     t.husk.outs = s.husk.outs ∧ ∀ d, d ≠ blkHusk → t.headers[d] = s.headers[d]))

/-- R387, R388, R394, Table 15.3: the commands of an output and its way to ON. ON leads from OFF to WAIT and is kept pending
in DISCHARGE and COOLDOWN; OFF leads to DISCHARGE; a WAIT output with a qualified feed and its delay done takes its limits and
ramps, or goes OFF with CONFIG_REJECT when its curve is not valid; RAMP, ENHANCE and ON follow. -/
def Obligations.OutputCommandsAndRamp : Prop :=
  (∀ (m : Master) (o : Fin 4) (s : State), isGerm m → outEnabled s o = true →
    (s.husk.outs[o].state = .off → exec (.outputOn m o) s = .next { s with
      out := s.out ++ [.husk o true]
      husk := { s.husk with linkLost := false, outs := s.husk.outs.set o { s.husk.outs[o] with
        onPending := true, commanded := true, state := .wait, enteredAt := s.dtime } } }) ∧
    (s.husk.outs[o].state = .discharge ∨ s.husk.outs[o].state = .cooldown → exec (.outputOn m o) s = .next { s with
      out := s.out ++ [.husk o true]
      husk := { s.husk with linkLost := false, outs := s.husk.outs.set o { s.husk.outs[o] with
        onPending := true, commanded := true } } })) ∧
  (∀ (m : Master) (o : Fin 4) (s : State), isGerm m → outEnabled s o = false →
    s.husk.outs[o].state = .off ∨ s.husk.outs[o].state = .discharge →
      exec (.outputOn m o) s = .next (raise blkHusk 13 Cap.none { s with
        out := s.out ++ [.husk o true], husk := { s.husk with linkLost := false } })) ∧
  (∀ (m : Master) (o : Fin 4) (s : State), isGerm m →
    running s.husk.outs[o].state = true ∨ s.husk.outs[o].state = .wait →
      exec (.outputOff m o) s = .next { s with
        out := s.out ++ [.husk o false]
        husk := { s.husk with linkLost := false, outs := s.husk.outs.set o { s.husk.outs[o] with
          state := .discharge, onPending := false, commanded := false, enteredAt := s.dtime, timer := 0
          aboveFloor := false } } }) ∧
  (∀ (o : Fin 4) (s : State), s.husk.outs[o].state = .wait → feedQualified s = true → s.husk.insertDone = true →
    (curveValid (rampIlimit s o) (rampCurve s o) = true → Completes (.outputRampStart o) s fun t =>
      t = { s with husk := { s.husk with outs := t.husk.outs } } ∧ (∀ i, i ≠ o → t.husk.outs[i] = s.husk.outs[i]) ∧
      t.husk.outs[o] = { s.husk.outs[o] with
        state := .ramp, onPending := false, ilimit := regField s (offOutLimit o) 32 16
        faultUs := regField s (offOutLimit o) 0 16, curve := rampCurve s o, counters := List.replicate 8 0, timer := 0
        enteredAt := s.dtime, rampAt := s.dtime, aboveFloor := false }) ∧
    (curveValid (rampIlimit s o) (rampCurve s o) = false → exec (.outputRampStart o) s = .next (raise blkHusk 13 Cap.none { s with
      husk := { s.husk with outs := s.husk.outs.set o { s.husk.outs[o] with
        state := .off, onPending := false, commanded := false, enteredAt := s.dtime } } }))) ∧
  (∀ (o : Fin 4) (mv : Nat) (s : State), s.husk.outs[o].state = .ramp → s.husk.vinOr ≤ mv + 500 →
    exec (.rampDone o mv) s = .next { s with husk := { s.husk with outs := s.husk.outs.set o { s.husk.outs[o] with
      state := .enhance, vout := mv, enteredAt := s.dtime } } }) ∧
  (∀ (o : Fin 4) (s : State), s.husk.outs[o].state = .enhance →
    Completes (.enhanceDone o) s fun t => t = { s with mcs := t.mcs, out := t.out, husk := { s.husk with
      outs := s.husk.outs.set o { s.husk.outs[o] with
        state := if s.husk.outs[o].timer = 0 then .on else .limit, enteredAt := s.dtime
        aboveFloor := decide (uvMv s - 1000 ≤ s.husk.outs[o].vout) } } } ∧ pmicsEnabled s t)

/-- R389 to R392, Table 15.3: current limit, fault timer, the 30 A trip, the breaker curve, the ramp limit and the FET checks
of an output out of regulation. A trip goes to COOLDOWN, a damaged FET to FET_FAULT, each with its cause and its LAST_TRIP
code. R389, R394: every 1 µs the counter of each curve point runs up while the current of an output in ON is at or above the
point and down else; an output below 1.0 V ends DISCHARGE, and COOLDOWN once its time is over, in WAIT with an ON pending and
else in OFF. -/
def Obligations.OutputProtectionAndCurves : Prop :=
  (∀ (o : Fin 4) (s : State), let x := s.husk.outs[o]
     let tripped (c : Instr) (to_ : OutState) (bit last now : Nat) : Prop := Completes c s fun t =>
       (∀ i, i ≠ o → t.husk.outs[i] = s.husk.outs[i]) ∧ t.husk.outs[o].state = to_ ∧ t.husk.outs[o].lastTrip = last ∧
       t.husk.outs[o].enteredAt = now ∧ t.husk.outs[o].timer = 0 ∧ t.husk.outs[o].onPending = false ∧
       t.husk.outs[o].tripCount = satAdd 48 x.tripCount 1 ∧ t.headers[blkHusk].cause.getLsbD bit = true ∧ t.dtime = now ∧
       t.dram = s.dram ∧ (inReg s o = false → to_ = .cooldown ∨ outEnabled s o = false →
         t = { s with husk := { s.husk with outs := t.husk.outs }, headers := t.headers, dtime := now } ∧
         t.headers = (raise blkHusk bit Cap.none { s with dtime := now }).headers)
     let held (c : Instr) (y : Output) : Prop :=
       exec c s = .next { s with husk := { s.husk with outs := s.husk.outs.set o y } }
     (∀ ma, x.ilimit ≤ ma → (x.state = .on → held (.currentLimit o ma) { x with
         state := .limit, enteredAt := s.dtime, timer := s.dtime + 1, current := ma }) ∧
       (x.state = .ramp ∨ x.state = .enhance → held (.currentLimit o ma) { x with
         timer := if x.timer = 0 then s.dtime + 1 else x.timer, current := ma })) ∧
     (∀ ma, ma + 1000 < x.ilimit → (x.state = .limit → held (.limitClear o ma) { x with
         state := .on, enteredAt := s.dtime, timer := 0, current := ma }) ∧
       (x.state = .ramp ∨ x.state = .enhance → held (.limitClear o ma) { x with timer := 0, current := ma })) ∧
     (∀ ma, 30000 ≤ ma → running x.state = true → tripped (.fastTrip o ma) .cooldown 8 3 s.dtime) ∧
     (running x.state = true → x.timer ≠ 0 →
       tripped (.faultTimer o) .cooldown 7 2 (max s.dtime (x.timer - 1 + 1000 * x.faultUs))) ∧
     (x.state = .on → curveHit x ≠ none → tripped (.curveTrip o) .cooldown 6 1 s.dtime) ∧
     (x.state = .ramp → tripped (.rampTimeout o) .cooldown 9 4 (max s.dtime (x.enteredAt + 50000000))) ∧
     (x.state = .enhance → tripped (.fetOpen o) .fetFault 10 5 (max s.dtime (x.enteredAt + 2000000))) ∧
     (x.state = .on → tripped (.fetOpen o) .fetFault 10 5 s.dtime) ∧
     (x.state = .off ∨ x.state = .wait ∨ x.state = .cooldown ∧ x.outputLow = true → tripped (.fetShort o) .fetFault 11 6 s.dtime) ∧
     (x.state = .discharge ∨ x.state = .cooldown ∧ x.outputLow = false →
       tripped (.fetShort o) .fetFault 11 6 (max s.dtime (x.enteredAt + 200000000))) ∧
     (outEnabled s o = true → s.bring.released = false → s.bring.step ≠ 11 →
       (x.state = .enhance → Completes (.fetOpen o) s fun t => t.bring.step = 11 ∧ t.bring.failCause = 4) ∧
       (x.state = .off ∨ x.state = .wait → Completes (.fetShort o) s fun t => t.bring.step = 11 ∧ t.bring.failCause = 4))) ∧
  ((∀ (c : Fin 4 → Nat) (s : State), Completes (.breakerCurveSample (c 0) (c 1) (c 2) (c 3)) s fun t =>
     t = { s with husk := { s.husk with outs := t.husk.outs } } ∧
     ∀ o : Fin 4, t.husk.outs[o] = { s.husk.outs[o] with current := c o, counters := t.husk.outs[o].counters } ∧
       (s.husk.outs[o].state ≠ .on → t.husk.outs[o].counters = s.husk.outs[o].counters) ∧
       (s.husk.outs[o].state = .on → ∀ k < 8, t.husk.outs[o].counters.getD k 0 =
         (let n := s.husk.outs[o].counters.getD k 0
          if (s.husk.outs[o].curve.getD k (0, 0)).1 ≤ c o then n + 1 else n - 1))) ∧
   (∀ (o : Fin 4) (mv : Nat) (s : State), mv < 1000 →
     (s.husk.outs[o].state = .discharge → exec (.outputDischarged o mv) s = .next { s with
       husk := { s.husk with outs := s.husk.outs.set o { s.husk.outs[o] with
         state := if s.husk.outs[o].onPending then .wait else .off, vout := mv, enteredAt := s.dtime } } }) ∧
     (s.husk.outs[o].state = .cooldown → exec (.outputDischarged o mv) s = .next { s with
       husk := { s.husk with outs := s.husk.outs.set o { s.husk.outs[o] with vout := mv, outputLow := true } } }) ∧
     (s.husk.outs[o].state = .cooldown → Completes (.cooldownEnd o mv) s fun t =>
       t = { s with dtime := max s.dtime (s.husk.outs[o].enteredAt + s.husk.outs[o].coolNs), husk := { s.husk with outs := t.husk.outs } } ∧
       (∀ i, i ≠ o → t.husk.outs[i] = s.husk.outs[i]) ∧
       t.husk.outs[o] = { s.husk.outs[o] with
         state := if s.husk.outs[o].onPending then .wait else .off, vout := mv, enteredAt := t.dtime })))

/-- R405, R406, Tables 16.11 and 16.13: a legal request of PWR_AVS by Germ goes out on its rail and is open until it is
acknowledged or times out; while one is open a write is ignored; the third timeout in a row sets AVS_FAIL and ends the
requests. R402, R403, Tables 16.1, 16.2 and 20.6: a block without work gates its clocks unless CLK_GATE_DIS holds them, and
the device is IDLE once every port and spikelet is gated; DOZE puts every active channel into POWER_DOWN while its conditions
hold, and leaves when one fails. -/
def Obligations.AvsGatingAndDoze : Prop :=
  ((∀ (v : Word) (s : State), s.pwr.avsBusy = false → s.pwr.avsFail = false → Completes (.avsRequest .germ v) s fun t =>
     t = { s with regs := t.regs, pwr := t.pwr, out := t.out } ∧ t.pwr.avsReqs = s.pwr.avsReqs ++ avsWanted s v ∧
     t.pwr = { s.pwr with avsBusy := !t.pwr.avsReqs.isEmpty, avsReqs := t.pwr.avsReqs } ∧
     (ksorted s.regs = true → avsLegal s.pwr.ackCore 700 (field v 0 16) = true → regField t offPwrAvs 0 16 = field v 0 16) ∧
     (ksorted s.regs = true → avsLegal s.pwr.ackSram 750 (field v 16 16) = true → regField t offPwrAvs 16 16 = field v 16 16) ∧
     ∀ sram mv rest, t.pwr.avsReqs = (sram, mv) :: rest → ∃ rail, t.out = s.out ++ [.avs sram rail mv]) ∧
   (∀ (v : Word) (s : State), s.pwr.avsBusy = true ∨ s.pwr.avsFail = true → exec (.avsRequest .germ v) s = .next s) ∧
   (∀ (sram : Bool) (mv : Nat) (rest : List (Bool × Nat)) (s : State), s.pwr.avsBusy = true → s.pwr.avsReqs = (sram, mv) :: rest →
     (Completes .avsAck s fun t => t = { s with pwr := t.pwr, out := t.out } ∧ t.pwr = { s.pwr with
       avsBusy := !rest.isEmpty && !s.pwr.avsFail, avsReqs := rest, inRow := 0
       ackCore := if sram then s.pwr.ackCore else mv, ackSram := if sram then mv else s.pwr.ackSram }) ∧
     (s.pwr.inRow < 2 → Completes .avsTimeout s fun t =>
       t = { s with pwr := t.pwr, out := t.out, headers := (raise blkPwr 1 Cap.none s).headers } ∧ t.pwr = { s.pwr with
         avsBusy := !rest.isEmpty && !s.pwr.avsFail, avsReqs := rest, timeouts := satAdd 16 s.pwr.timeouts 1
         inRow := s.pwr.inRow + 1 })) ∧
   (∀ s : State, s.pwr.avsBusy = true → 2 ≤ s.pwr.inRow →
     exec .avsTimeout s = .next (raise blkPwr 2 Cap.none (raise blkPwr 1 Cap.none { s with pwr := { s.pwr with
       avsBusy := false, avsFail := true, avsReqs := [], timeouts := satAdd 16 s.pwr.timeouts 1, inRow := s.pwr.inRow + 1 } })))) ∧
  ((∀ (d : Fin 64) (s : State), domainIdle s d = true → (regGet s offGateDis).getLsbD d = false → coreOn s = true →
     Completes (.clockGate d) s fun t => t = { s with pwr := { s.pwr with gated := t.pwr.gated, state := t.pwr.state } } ∧
       isGated t d = true ∧ (s.pwr.state ≠ .active → t.pwr.state = s.pwr.state) ∧
       (s.pwr.state = .active → t.pwr.state =
         if (List.range 8).all (fun k => isGated t (domSpk k)) && (List.range 4).all (fun p => isGated t (domPort p))
         then PowerState.idle else .active)) ∧
   (∀ s : State, s.pwr.state = .active ∨ s.pwr.state = .idle → dozeEnabled s = true → dozeHolds s = true →
     Completes .dozeEntry s fun t => t = { s with pwr := t.pwr, mcs := t.mcs, dtime := t.dtime } ∧
       t.pwr = { s.pwr with state := .doze, dozeSince := none } ∧
       (∀ n, s.pwr.dozeSince = some n → t.dtime = max s.dtime (n + 1000 * regField s offPwrCfg 0 16)) ∧
       ∀ x : Fin 16, t.mcs[x] = if s.mcs[x].state = .active then { s.mcs[x] with state := .powerDown } else s.mcs[x]) ∧
   (∀ s : State, s.pwr.state = .doze → ¬ (dozeEnabled s = true ∧ dozeHolds s = true) → Completes .dozeExit s fun t =>
     t = { s with pwr := { s.pwr with state := .active }, mcs := t.mcs } ∧
     ∀ x : Fin 16, t.mcs[x] = if s.mcs[x].state = .powerDown then { s.mcs[x] with state := .active } else s.mcs[x]))

/-- R410, R411, Tables 16.2 and 16.5 step 1: PFW_N low in ACTIVE, IDLE or DOZE starts the stook sequence, a write of
PWR_CTL.REST an entry to REST; either drops the old seal, blocks every port, releases ownership and stops the scrubbers. PFW_N
low during an entry to REST makes it a stook sequence; with the coherent domain down it starts nothing. R407 to R409, R413 to
R418, Table 16.5: the steps of an entry run in their order, each only in its turn. Step 2 ends at once with nothing open and
drops what is open at 40 µs, counted; step 4 writes keys, secrets, root set and save list with CHECK over them and VALID
clear; step 5 puts every channel into self-refresh; step 6 arms the husk watch and sets VALID; step 7 holds REST or STOOK with
the rails off. R413 rule 2: a mirror write or a LINE_FETCH still open 20 µs into step 2 takes the Tiller link down with cause
COMMAND. -/
def Obligations.EntryToRestAndStook : Prop :=
  ((∀ s : State, s.domainDown = false → servingState s = true → errorFree s = true → Completes .pfwNLow s fun t =>
     t.pwr.state = .stooking ∧ t.pwr.step = 2 ∧ t.pwr.sealRec = none ∧ (∀ p : Fin 4, t.ports[p].state = .reset) ∧
     t.pair.own = false ∧ t.pair.fenceOut = false ∧ ∀ x : Fin 16, t.mcs[x].scrubRun = false) ∧
   (∀ (v : Word) (s : State), s.domainDown = false → servingState s = true → errorFree s = true → flag v 0 = true →
     Completes (.pwrCtlRest .germ v) s fun t =>
     t.pwr.state = .enteringRest ∧ t.pwr.step = 2 ∧ t.pwr.sealRec = none ∧ (∀ p : Fin 4, t.ports[p].state = .reset) ∧
     t.pair.own = false ∧ t.pair.fenceOut = false ∧ ∀ x : Fin 16, t.mcs[x].scrubRun = false) ∧
   (∀ s : State, s.domainDown = false → s.pwr.state = .enteringRest → Completes .pfwNLow s fun t =>
     t = { s with pins := { s.pins with pfwLow := true }, regs := t.regs
                  pwr := { s.pwr with state := .stooking, stookStart := s.dtime } }) ∧
   (∀ s : State, s.domainDown = true → exec .pfwNLow s = .next { s with pins := { s.pins with pfwLow := true } })) ∧
  (∀ s : State, entering s = true → s.domainDown = false →
     (s.pwr.step = 2 → Completes .stookDrop s fun t => t.pwr.step = 3 ∧ t.pwr.state = s.pwr.state ∧
       t.dtime = max s.dtime (s.pwr.stepAt + 40000) ∧ t.pwr.dropped = openHome s ∧ t.dram = s.dram ∧ t.crypt = s.crypt ∧
       (∀ p : Fin 4, t.ports[p].reqs = []) ∧ ∀ k : Fin 8, t.spks[k].txns = [] ∧ t.spks[k].inbox = []) ∧
     (s.pwr.step = 2 → Completes .stookDrain s fun t =>
       let u := drainRounds (8 + openHome s) (resendRetries s)
       let excess := openHome u = 0 ∧ u.til.mirrors = [] ∧ u.til.fetches = [] ∧ mirrorsPending u = false
       (excess → t.pwr.step = 3 ∧ t.pwr.dropped = 0 ∧ (∀ p : Fin 4, t.ports[p].reqs = [] ∧ t.ports[p].egress = []) ∧ t.dram = u.dram) ∧
       (¬ excess → t = u)) ∧
     (s.pwr.step = 3 → Completes .stookFlush s fun t => t.pwr.step = 4 ∧ t.pwr.state = s.pwr.state ∧
       ((∀ k : Fin 8, s.spks[k].culm = []) → t = { s with pwr := t.pwr, regs := t.regs })) ∧
     (s.pwr.step = 4 → Completes .stookSeal s fun t => t = { s with pwr := t.pwr, regs := t.regs } ∧ t.pwr.step = 5 ∧
       ∃ r, t.pwr.sealRec = some r ∧ r.valid = false ∧ r.check = sealCheck s r ∧ r.slots = s.crypt.slots ∧
         r.salt = s.crypt.salt ∧ r.km = s.crypt.km ∧ r.hm = s.crypt.hm ∧ r.root = s.crypt.root ∧ r.save = savedRegs s ∧
         r.digest = s.imgDigest ∧ r.copyB = s.imgCopyB ∧ r.vcore = s.pwr.ackCore ∧ r.vsram = s.pwr.ackSram) ∧
     (s.pwr.step = 5 → Completes .stookSelfRefresh s fun t => t.pwr.step = 6 ∧
       ((∀ x : Fin 16, s.mcs[x].heldWrites = []) → t.dram = s.dram) ∧ ∀ x : Fin 16,
       (s.mcs[x].state = .active ∨ s.mcs[x].state = .powerDown → t.mcs[x].state = .selfRefresh ∧ t.mcs[x].acts = [] ∧
         ∃ k, t.mcs[x].snapshot = some k ∧ k.cal = s.mcs[x].cal ∧ k.remaps = s.mcs[x].remaps ∧ k.temp = topTemp s x) ∧
       (s.mcs[x].state ≠ .active → s.mcs[x].state ≠ .powerDown → t.mcs[x] = s.mcs[x])) ∧
     (∀ r, s.pwr.step = 6 → s.pwr.sealRec = some r → Completes .stookHold s fun t => t.pwr.step = 7 ∧ t.husk.watch = true ∧
       ∃ q, t.pwr.sealRec = some q ∧ q.valid = true ∧ q.check = sealCheck t q ∧
         q.stookKind = decide (s.pwr.state = .stooking) ∧ q.slots = r.slots ∧ q.save = r.save) ∧
     (s.pwr.step = 7 → Completes .stookPartner s fun t => t.pwr.state = (if s.pwr.state = .stooking then .stook else .rest) ∧
       t.pwr.railsOff = true ∧ t.pwr.sealRec = s.pwr.sealRec ∧ t.dram = s.dram) ∧
     (∀ n c, (n, c) ∈ [(2, Instr.stookDrain), (2, .stookDrop), (3, .stookFlush), (4, .stookSeal), (5, .stookSelfRefresh),
       (6, .stookHold), (7, .stookPartner)] → s.pwr.step ≠ n → exec c s = .next s)) ∧
  (∀ s : State, s.pwr.state = .stooking → s.domainDown = false → s.pwr.step = 2 → s.til.mirrors ≠ [] ∨ s.til.fetches ≠ [] → s.til.state = .up →
     Completes .stookMirrorTimeout s fun t => (t.til.state = .down ∨ t.til.state = .held) ∧ t.til.replayBuf = [] ∧
       t.til.txKey = none ∧ t.til.rxKey = none ∧ t.dtime = max s.dtime (s.pwr.stepAt + 20000))

/-- R418 to R420, Table 16.6: in REST and STOOK a wake releases RAILS_OFF_N while PFW_N is high, and is kept while it is low;
PFW_N going high releases a kept wake; a wake latched during the entry acts 1 µs after RAILS_OFF_N. R461 to R463, R471, R485:
the timebase loses lock and ticks coarsely until it locks again; any other clock that runs from a PLL and loses lock after the
release takes the coherent domain down. A grain-die reading at 100 °C warns, one below 98 °C on both dies clears the warning,
and 115 °C for 1 ms takes the domain down once. -/
def Obligations.WakesClocksAndThermalLimits : Prop :=
  (∀ s : State, resting s = true → s.pwr.railsOff = true →
     (s.pins.pfwLow = false →
       exec (.wakeN true) s = .next { s with pwr := { s.pwr with wakeN := true, railsOff := false, wakeLatched := false } } ∧
       (flag (regGet s offWakeCfg) 0 = true → exec .wakeAlarm s = .next { s with
         dtime := max s.dtime (regGet s offWakeTime).toNat
         pwr := { s.pwr with railsOff := false, wakeLatched := false } }) ∧
       (∀ (p : Fin 4) (b : Bool), regField s offWakeCfg 1 1 ≠ 0 → Completes (.wakePerst p b) s fun t =>
         t = { s with pins := t.pins, clk := t.clk, pwr := { s.pwr with railsOff := false, wakeLatched := false } } ∧
         t.pins = { s.pins with perst := s.pins.perst.set p false }) ∧
       (s.pwr.wakeLatched = true → exec .latchedWakeRelease s = .next { s with
         dtime := max s.dtime (s.pwr.railsOffAt + 1000), pwr := { s.pwr with railsOff := false, wakeLatched := false } })) ∧
     (s.pins.pfwLow = true →
       exec (.wakeN true) s = .next { s with pwr := { s.pwr with wakeN := true, wakeLatched := true } } ∧
       (s.pwr.wakeLatched = true ∨ s.pwr.state = .stook → exec .pfwNHigh s = .next { s with
         pins := { s.pins with pfwLow := false }, pwr := { s.pwr with railsOff := false, wakeLatched := false } }))) ∧
  ((∀ s : State, s.pins.vddAux = true → s.clk.coarse = false →
     exec (.pllUnlock 1) s = .next (raise blkClk 3 Cap.none (raise blkClk 2 Cap.none { s with clk := { s.clk with coarse := true } }))) ∧
   (∀ s : State, exec .timebaseRelock s = .next { s with clk := { s.clk with coarse := false } }) ∧
   (∀ (d : Fin 64) (s : State), d.val ≠ 0 → d.val ≠ 2 → domLocked s d = true → Completes (.pllUnlock d) s fun t =>
     t.headers[blkClk].cause &&& 4 = 4) ∧
   (∀ (d : Fin 64) (s : State), 3 ≤ d.val → d.val < 21 ∨ 41 ≤ d.val ∧ d.val < 59 → corePowered s = true →
     s.clk.locked.getLsbD d = true → s.bring.released = true → s.domainDown = false → Completes (.pllUnlock d) s fun t =>
       t.domainDown = true ∧ t.clk.locked.getLsbD d = false ∧ t.headers[blkClk].cause &&& 4 = 4 ∧ t.dram = s.dram) ∧
   (∀ (q : Int) (s : State), corePowered s = true → -2048 ≤ q → q < 2048 →
     (400 ≤ q → s.thermal.warn = false → exec (.thermalWarn 0 q) s = .next (raise blkGlb 3 Cap.none { s with
       thermal := { s.thermal with grain0 := BitVec.ofInt 12 q, warn := true } })) ∧
     (q < 392 → s.thermal.grain1.toInt < 392 → exec (.thermalWarn 0 q) s = .next { s with
       thermal := { s.thermal with grain0 := BitVec.ofInt 12 q, warn := false } }) ∧
     (460 ≤ q → s.thermal.tripped = false → s.domainDown = false → Completes (.thermalTrip 1 q) s fun t =>
       t.thermal = { s.thermal with grain1 := BitVec.ofInt 12 q, warn := true, tripped := true } ∧ t.domainDown = true ∧
       t.headers[blkGlb].cause &&& 0x14 = 0x14 ∧ t.dram = s.dram)))

/-- R16, R19, R62 to R65, R117, R256: a host request of any of the five kinds that decodes, whose key slot copy admits its LD,
that admission lets in and that finds a Sheaf entry joins the queue of the home of its MPA, with its key index and class;
nothing else of the device changes but the counts of its port. R62, R70, Table 1.5: the same request with no Sheaf entry takes
a miss slot, and its miss record goes across the gate; a request to a page whose miss is already open shares its slot and
sends no record. -/
def Obligations.HostRequestStaged : Prop :=
  (∀ (p l : Fin 4) (ld : Fin 16) (tag hpa : Nat) (data : Line) (be : BitVec 64) (poison : Bool) (op : HomeOp) (c : Instr)
     (rg : Region) (al dpa : Nat) (e : SheafEntry) (s : State), memCommand p l ld tag hpa data be poison op c →
     linkServes s p l = true → protocolError s p l ld = false → decodeHpa s p ld hpa = some (rg, al, dpa) → noInjection s = true →
     let q := stagedReq s p l ld tag op hpa data be poison rg al dpa
     keyAdmits s q.ldTag q.key = true → admitsNow s p q = true → sheafHit s p q.ldTag dpa = some e →
     (e.keyPolicy = false ∨ al = 0) → Completes c s fun t =>
       let m := msgOf e q s.dtime
       let k := spkOf m.mpa
       t = { s with spks := t.spks, ports := t.ports, perf := t.perf, headers := t.headers, pwr := t.pwr, seq := s.seq + 1 } ∧
       (creditOut s p k q.cls = false → t.spks[k].inbox = s.spks[k].inbox ++ [m]) ∧
       (creditOut s p k q.cls = true → awaited s k m = false → t.spks[k].inbox = s.spks[k].inbox ∧
         t.ports[p].creditWait = s.ports[p].creditWait ++ [m]) ∧ (∀ j, j ≠ k → t.spks[j] = s.spks[j]) ∧
       (∃ r ∈ t.ports[p].reqs, r.req = q ∧ r.stage = .home k) ∧ t.ports[p].sheaf = s.ports[p].sheaf ∧
       (∀ r, r ≠ p → t.ports[r] = s.ports[r]) ∧ t.pwr.sealRec = s.pwr.sealRec ∧
       (∀ b, b ≠ blkPerf → t.headers[b] = s.headers[b])) ∧
  (∀ (p l : Fin 4) (ld : Fin 16) (tag hpa : Nat) (data : Line) (be : BitVec 64) (poison : Bool) (op : HomeOp) (c : Instr)
     (rg : Region) (al dpa : Nat) (s : State), memCommand p l ld tag hpa data be poison op c →
     linkServes s p l = true → protocolError s p l ld = false → decodeHpa s p ld hpa = some (rg, al, dpa) → noInjection s = true →
     let q := stagedReq s p l ld tag op hpa data be poison rg al dpa
     keyAdmits s q.ldTag q.key = true → admitsNow s p q = true → sheafHit s p q.ldTag dpa = none →
     ((∀ x ∈ s.ports[p].slots, ¬ (x.ldTag = q.ldTag ∧ x.page = dpa >>> 12)) → s.ports[p].slots.length < 64 →
       Completes c s fun t =>
         t.ports[p].slots = s.ports[p].slots ++ [⟨q.ldTag, dpa >>> 12, s.ports[p].invSeq⟩] ∧
         t.gate = { s.gate with records := s.gate.records ++ [⟨p, q.ldTag, dpa, q.ldTag, q.key, s.ports[p].invSeq, 7⟩] } ∧
         (∃ r ∈ t.ports[p].reqs, r.req = q ∧ r.stage = .miss) ∧ t.spks = s.spks ∧ t.out = s.out ∧ t.dram = s.dram) ∧
     ((∃ x ∈ s.ports[p].slots, x.ldTag = q.ldTag ∧ x.page = dpa >>> 12) → Completes c s fun t =>
         t.ports[p].slots = s.ports[p].slots ∧ t.gate = s.gate ∧ (∃ r ∈ t.ports[p].reqs, r.req = q ∧ r.stage = .miss) ∧
         t.spks = s.spks ∧ t.out = s.out ∧ t.dram = s.dram))

/-- R42, R117, R496, R497: a request on a link below the supported width, for an LD that its link does not carry, that no
decoder takes, or whose slot copy does not admit its LD completes at its port: a read with poison, any other with Cmp, its
cause set where a rule names one, and nothing written. R21 to R23, R112: a fatal control parity error that a port finds on a
request takes the coherent domain down and completes the request under R496; a contained one completes a read with poison and
is recorded. -/
def Obligations.RefusedRequestCompletes : Prop :=
  (∀ (p l : Fin 4) (ld : Fin 16) (tag hpa : Nat) (data : Line) (be : BitVec 64) (poison : Bool) (op : HomeOp) (c : Instr)
     (s : State), memCommand p l ld tag hpa data be poison op c → s.ports[p].links[l].up = true →
     let answered (t : State) : Prop :=
       t = { s with ports := t.ports, perf := t.perf, headers := t.headers, pwr := t.pwr, out := t.out, seq := s.seq + 1 } ∧
       ∃ dl, t.out = s.out ++ [.rsp p l ld tag (if isReadOp op then .data else .cmp) 0 (isReadOp op) dl]
     let named (n : Nat) (t : State) : Prop := s.headers[blkPort p].firstValid = false → s.headers[blkPort p].mask.getLsbD n = false →
       t.headers[blkPort p].feAddr = BitVec.ofNat 64 hpa ∧ field t.headers[blkPort p].feSrc 46 2 = 3
     (s.ports[p].state = .training ∨ s.ports[p].state = .drained ∨ s.ports[p].state = .viral →
       s.pair.fenceIn = false ∨ s.domainDown = true → Completes c s answered) ∧
     (linkOpen s p l = true → s.ports[p].links[l].belowFloor = true → noInjection s = true → Completes c s answered) ∧
     (linkServes s p l = true → noInjection s = true → protocolError s p l ld = false → decodeHpa s p ld hpa = none →
       Completes c s fun t => answered t ∧ t.headers[blkPort p].cause &&& 0x20 = 0x20 ∧ named 5 t) ∧
     (linkServes s p l = true → noInjection s = true → protocolError s p l ld = true →
       Completes c s fun t => answered t ∧ t.headers[blkPort p].cause &&& 0x800 = 0x800 ∧ named 11 t) ∧
     (∀ rg al dpa, linkServes s p l = true → noInjection s = true → protocolError s p l ld = false →
       decodeHpa s p ld hpa = some (rg, al, dpa) →
       keyAdmits s (16 * p.val + ld.val) (stagedReq s p l ld tag op hpa data be poison rg al dpa).key = false →
       Completes c s fun t => answered t ∧ t.headers[blkCrypt].cause &&& 2 = 2)) ∧
  (∀ (p l : Fin 4) (ld : Fin 16) (tag hpa : Nat) (snp : SnpType) (par : Parity) (s : State), s.ports[p].state = .enabled →
     s.ports[p].links[l].up = true → noInjection s = true → s.domainDown = false →
     (parityAt par .port = .fatal → Completes (.memRd p l ld tag hpa snp par) s fun t => t.domainDown = true ∧ t.dram = s.dram ∧
       t.headers[blkPort p].cause &&& 0x200 = 0x200 ∧ t.headers[blkGlb].cause &&& 4 = 4 ∧
       ∃ pre dl, t.out = pre ++ [.rsp p l ld tag .data 0 true dl]) ∧
     (parityAt par .port = .contained → Completes (.memRd p l ld tag hpa snp par) s fun t =>
       t.domainDown = false ∧ t.dram = s.dram ∧ t.spks = s.spks ∧
       t.headers[blkPort p].cause &&& 0x100 = 0x100 ∧ ∃ dl, t.out = s.out ++ [.rsp p l ld tag .data 0 true dl]))

/-- R78, R252, R496: a response that waits at an ENABLED port leaves for its link with its data, its poison and the higher of
its DevLoad and the floor of the pools, and its request is open no more; one whose link was lost is discarded without a
message. R256, R259, R261: a new admission window starts with every count at zero, the budgets as QOS_ADMIT gives them, and
DTIME at the window's start. -/
def Obligations.ResponsesAndAdmission : Prop :=
  (∀ (p l : Fin 4) (ld tag rid : Nat) (r : Rsp) (o : OpenReq) (s : State),
     s.ports[p].egress.find? (·.rid = rid) = some r → s.ports[p].reqs.find? (·.req.rid = rid) = some o →
     o.req.src = .host p l ld tag → s.ports[p].links[l].retraining = false → s.pair.fenceIn = false →
     Completes (.homeResponse p rid) s fun t =>
       (∀ x ∈ t.ports[p].reqs, x.req.rid ≠ rid) ∧ (∀ i, i ≠ p → t.ports[i].egress = s.ports[i].egress) ∧
       (o.discard = false → .rsp p l ld tag r.kind r.data r.poison (max r.devLoad (poolFloor s p l)) ∈ t.out) ∧
       (portsQuiet s = true → t = { s with ports := t.ports, out := t.out, perf := t.perf, headers := t.headers } ∧
         t.ports[p].egress = s.ports[p].egress.erase r ∧ (∀ i, i ≠ p → t.ports[i] = s.ports[i]) ∧
         t.out = if o.discard then s.out
           else s.out ++ [.rsp p l ld tag r.kind r.data r.poison (max r.devLoad (poolFloor s p l))])) ∧
  (∀ s : State, s.domainDown = false → Completes .admissionWindow s fun t =>
     let w := regField s offQosWindow 0 16
     let late := (List.finRange 4).any (windowOver s)
     t.dtime = (if w = 0 ∨ late = true then s.dtime else (s.dtime / w + 1) * w) ∧
     ∀ p : Fin 4, windowOver s p = late →
       t.ports[p].windowStart = (if w = 0 then t.dtime else t.dtime / w * w) ∧
       t.ports[p].budgets = (List.range 8).map (fun c => regField s (offQosAdmit c) 0 16) ∧
       (portsQuiet s = true → noRequests s = true → t.ports[p] = { s.ports[p] with
         counts := List.replicate 8 0, lowCounts := [0, 0], windowStart := t.ports[p].windowStart, budgets := t.ports[p].budgets }))

/-- R70, R72, R73, Table 3.4: a walk takes the next miss record; the entry it reads is checked, and a leaf that passes stands
ready in the fill registers, while one that fails completes the held requests of its slot with its cause set. R61, R63, R71,
R83, Tables 3.12 to 3.14: GO of SHF_FILL_CMD with the INV_SEQ of the port installs the leaf of the fill registers in place of
an entry with the same LD tag, base and size; a fill that an invalidation has crossed installs nothing and is counted. -/
def Obligations.WalksAndFills : Prop :=
  ((∀ (m : MissRec) (rest : List MissRec) (s : State), s.domainDown = false → s.fw.germUp = true → s.gate.walks.length < 16 →
     s.gate.records = m :: rest → Completes .walkStart s fun t =>
       t = { s with gate := t.gate } ∧ t.gate.records = rest ∧ t.gate.invOpen = s.gate.invOpen ∧
       ∃ w, t.gate.walks = s.gate.walks ++ [w] ∧ w.miss = m ∧ w.leaf = none) ∧
   (∀ (i : Nat) (noise : Image) (par : Parity) (w : Walk) (s : State), s.domainDown = false → noInjection s = true →
     parityAt par .channel ≠ .fatal → s.gate.walks[i]? = some w → w.leaf = none → w.waiting = false →
     let a := entryAddr w.table w.level w.miss.ldTag w.miss.dpa
     (targetBusy s a = true → exec (.walkRead i noise par) s = .next s) ∧
     (targetBusy s a = false → ∀ s1,
       (readEntry a idWalk noise s = (none, s1) → exec (.walkRead i noise par) s = .next (failSlot w.miss 8 (endWalk i s1))) ∧
       (∀ e, readEntry a idWalk noise s = (some e, s1) →
         (eValid e = false → exec (.walkRead i noise par) s = .next (walkUnbacked i w s1)) ∧
         (eValid e = true → checkEntry s1 w.level e = none → eLeaf e = true → exec (.walkRead i noise par) s =
           .next (readyFill (setWalk i { w with leaf := some e } s1))) ∧
         (eValid e = true → checkEntry s1 w.level e = none → eLeaf e = false → exec (.walkRead i noise par) s =
           let v := descend 5 w (cachePtr ⟨w.miss.ldTag, w.level, w.miss.dpa >>> spanOf w.level, e⟩ s1)
           .next (setWalk i v.1 v.2)) ∧
         (∀ b, eValid e = true → checkEntry s1 w.level e = some b → exec (.walkRead i noise par) s =
           .next (failSlot w.miss 8 (endWalk i (raise blkSheaf b ⟨a, 1, w.miss.master, 7, some w.miss.key⟩ s1)))))))) ∧
  (∀ (v : Word) (s : State), flag v 0 = true →
     let u := regWrite .whole offShfFillCmd v s
     let p := port4 (regField u offShfFillKey 56 2)
     let e := entryOf (regField u offShfFillKey 48 6) (regField u offShfFillKey 12 33 <<< 12) (regGet u offShfFillMap)
     fillable u (regGet u offShfFillMap) = true →
     (regField u offShfFillCmd 32 16 = s.ports[p].invSeq % 65536 → s.ports[p].sheaf.length < 4096 →
       Completes (.sheafFill .germ v) s fun t =>
         (∃ x ∈ t.ports[p].sheaf, x = { e with pinned := x.pinned }) ∧
         (portsQuiet s = true → noRequests s = true → pinnedCount s p < 3584 →
           t = { s with ports := t.ports, gate := t.gate, regs := t.regs } ∧ (∀ q, q ≠ p → t.ports[q] = s.ports[q]) ∧
           t.ports[p].sheaf = (s.ports[p].sheaf.filter fun x => !(x.ldTag = e.ldTag && x.dpaBase = e.dpaBase && x.size = e.size)) ++
             [e])) ∧
     (regField u offShfFillCmd 32 16 ≠ s.ports[p].invSeq % 65536 → Completes (.sheafFill .germ v) s fun t =>
       t.ports[p].sheaf = s.ports[p].sheaf ∧ t.ports[p].refills = satAdd 16 s.ports[p].refills 1 ∧
       (portsQuiet s = true → noRequests s = true → t = { s with ports := t.ports, gate := t.gate, regs := t.regs } ∧
         ∀ q, q ≠ p → t.ports[q] = s.ports[q])))

/-- R78 to R82, Tables 3.7 and 3.16: GO of SHF_INV_CMD removes from every port each Sheaf entry that overlaps the range,
counts it in INV_SEQ, and is acknowledged by a port at once when none of its requests still uses the old translation; a second
GO is ignored until then. The cause of a late acknowledgement is set once. R77, R82, Table 3.16: GO of SHF_WC_FLUSH takes
every cached pointer whose span overlaps the range out of the walk cache; pinned entries that an invalidation removed come
back with the leaf that maps them now, and not before it is acknowledged. -/
def Obligations.SheafInvalidations : Prop :=
  (∀ (v : Word) (s : State), flag v 0 = true →
     let w := regGet (regWrite .whole offShfInvCmd v s) offShfInvRange
     let hit (e : SheafEntry) : Bool := invHits (flag w 57) (field w 48 6) (alignDown (field w 12 33 <<< 12) (field w 58 6)) (field w 58 6) e
     (s.gate.invOpen = false → Completes (.sheafInvalidate .germ v) s fun t =>
       t = { s with ports := t.ports, gate := t.gate, regs := t.regs } ∧
       (∀ p : Fin 4, t.ports[p].sheaf = s.ports[p].sheaf.filter (fun e => !hit e) ∧
         t.ports[p].invSeq = (s.ports[p].invSeq + 1) % 65536 ∧ t.ports[p].reqs.length = s.ports[p].reqs.length ∧
         t.gate.invAck.getLsbD p = t.ports[p].reqs.all (fun r => !r.marked || r.stage = .egress) ∧
         t.ports[p].invBusy = t.ports[p].reqs.any (fun r => r.marked && r.stage ≠ .egress)) ∧
       t.gate.invCount = (s.gate.invCount + 1) % 65536 ∧ t.gate.invOpen = decide (t.gate.invAck ≠ 0xF) ∧
       t.gate.invStart = s.dtime ∧ t.gate.invTimedOut = false ∧ t.gate.walks = s.gate.walks) ∧
     (s.gate.invOpen = true → s.gate.invTimedOut = false →
       exec .invTimeout s = .next (raise blkSheaf 6 Cap.none { s with
         dtime := max s.dtime (s.gate.invStart + 1000 * regField s offShfInvTimeout 0 16)
         gate := { s.gate with invTimedOut := true } }) ∧
       Completes (.sheafInvalidate .germ v) s fun t => t = { s with regs := t.regs }) ∧
     (s.gate.invTimedOut = true → exec .invTimeout s = .next s)) ∧
  ((∀ (v : Word) (s : State), flag v 0 = true →
     let u := regWrite .whole offShfWcFlush v s
     let w := regGet u offShfWcFlush
     let lo := alignDown (field w 12 33 <<< 12) (field w 58 6)
     let out (c : WalkPtr) : Bool := (flag w 57 || c.ldTag = field w 48 6) &&
       c.index <<< spanOf c.level < lo + 2 ^ field w 58 6 && lo < (c.index + 1) <<< spanOf c.level
     Completes (.walkCacheFlush .germ v) s fun t =>
       t = { s with gate := { s.gate with cache := t.gate.cache, walks := t.gate.walks }, regs := t.regs } ∧
       t.gate.walks.length = s.gate.walks.length ∧ (∀ c ∈ t.gate.cache, c ∈ s.gate.cache ∧ out c = false) ∧
       (s.gate.walks = [] → t.gate.cache = s.gate.cache.filter fun c => !out c)) ∧
   (∀ s : State, s.gate.invOpen = false → s.domainDown = false → s.fw.germUp = true → Completes .pinnedReinstall s fun t =>
     t.gate.reinstall = [] ∧ t.dram = s.dram) ∧
   (∀ s : State, s.gate.invOpen = true → exec .pinnedReinstall s = .next s) ∧
   (∀ (q : Nat) (x : SheafEntry) (d : Nat) (leaf : Word) (s s1 : State), s.gate.invOpen = false → s.domainDown = false →
     s.fw.germUp = true → s.gate.reinstall = [(q, x)] →
     leavesIn (2 ^ x.size / 4096 + 1) x.ldTag x.dpaBase (x.dpaBase + 2 ^ x.size)
       { s with gate := { s.gate with reinstall := [] } } = ([(d, leaf)], s1) →
     exec .pinnedReinstall s = .next (installEntry (port4 (x.ldTag / 16)) { entryOf x.ldTag d leaf with pinned := true } s1)))

/-- R87, R89, R96, R247, R250, R253, Tables 4.2 and 4.3: in one cycle the home takes the message that the order of service puts
first into a transaction; one that meets no hold and no earlier transaction on its line looks up at once. A host read of
ownership to a sector with no entry is granted the line: the new entry records its head as owner, with the hold running.
HOME_REQUEST so completes for every message that finds its slot, with good parity, at a home where everything else waits. -/
def Obligations.HomeOrdersAndGrants : Prop :=
  ∀ (k : Fin 8) (i : Nat) (m : Msg) (s : State), halted s = false → errorFree s = true → portsQuiet s = true → homeWaits s k = true →
    pickMessages s k (serviceOrder s k) 1 [] = [(i, m)] → (∀ p l ld tag, m.req.src = .host p l ld tag → p < 4) →
    (∀ w ∈ s.ports[reqPort m.req].creditWait, spkOf w.mpa ≠ k ∨ w.req.cls ≠ m.req.cls) → holdPage m ∉ s.spks[k].holds →
    s.spks[k].evict = [] → keyFree s k m s.seq → (∀ u ∈ s.spks[k].txns, u.tid < s.seq) → m.packed = none →
    isProtected s m.mpa = false → (∀ a b c d, m.req.op ≠ .atomic a b c d) →
    let taken (x : Txn) (t : State) : Prop := t.spks[k].txns = s.spks[k].txns ++ [x] ∧ x.msg = m ∧ x.state = .memory ∧
      x.started = s.dtime ∧ t.spks[k].inbox = s.spks[k].inbox.eraseIdx i ∧ t.dram = s.dram ∧ t.out = s.out ∧
      ∀ j, j ≠ k → t.spks[j] = s.spks[j]
    (coherent s m.req = false → Completes (.homeRequest k 1 .good) s fun t => (∃ x, taken x t) ∧ t.spks[k].sf = s.spks[k].sf) ∧
    (∀ h pl, reqHead s m.req = some h → h < 4 → m.req.op = .rd .inv ∨ m.req.op = .inv →
      sfFind s.spks[k] (msgSector m) = none → chooseWay s k (msgSector m) = .free pl →
      Completes (.homeRequest k 1 .good) s fun t => (∃ x, taken x t ∧ x.rsp.kind = .cmpE) ∧
        ∃ e, kfind t.spks[k].sf pl = some e ∧ e.sector = msgSector m ∧ e.st[msgLine m] = .o ∧ e.owner[msgLine m].val = h ∧
          e.holdEnd = BitVec.ofNat 16 (s.dtime + regField s (offSpkHold k) 0 12) ∧ e.aliasF = m.req.aliasF)

/-- R91, R92, R96, R106, Table 4.3: a transaction in HOLD_WAIT whose sector's hold ends sends the back-invalidate that it
needs to the head, whose port sends one BISnp for each decoder that names the region, and waits for the answer. R92, R94,
Table 4.3: the last answer to the back-invalidates of a transaction records what the heads gave up and lets the transaction go
on to memory; the BISnp of the answer is open no more. R100, R104: a BIConflict is acknowledged at once when no response for
its line waits at the port, and later otherwise; a BISnp open for longer than BI_TIMEOUT sets its cause once, and the home
keeps waiting. R257: a BIRsp is counted in the window. HOLD_END, BIRSP, BI_CONFLICT and BI_TIMEOUT so complete: each for every
open transaction or BISnp that it names, with good parity, at a home where everything else waits. -/
def Obligations.BackInvalidates : Prop :=
  (∀ (k : Fin 8) (x : Txn) (pl : Nat) (e : SfEntry) (n : BiNeed) (r : Region) (ld : Nat) (s : State),
     halted s = false → portsQuiet s = true → homeWaits s k = true → x ∈ s.spks[k].txns → x.state = .holdWait → x.tid ≠ 0 →
     (∀ u ∈ s.spks[k].txns, u.tid = x.tid → u = x) → sfFind s.spks[k] (msgSector x.msg) = some (pl, e) →
     inHold { s with dtime := s.dtime + holdLeft s k e } k e = false → pairMode s = false → txnNeeds s x e = [n] →
     regionNo s e.region = some r → headLdTag r n.head = some ld →
     s.ports[port4 n.head].links[port4 (ldRec s ld).link].up = true →
     let ds := namingDecoders s (port4 n.head) ld e.region
     ds ≠ [] → Completes (.holdEnd k x.tid) s fun t =>
       t.dtime = s.dtime + holdLeft s k e ∧ t.dram = s.dram ∧ t.spks[k].biSent = satAdd 48 s.spks[k].biSent 1 ∧
       t.spks[k].txns = s.spks[k].txns.map (fun u => if u.tid = x.tid then { x with state := .biWait, need := [] } else u) ∧
       (∃ sn, t.spks[k].snps = s.spks[k].snps ++ [sn] ∧ sn.owner = .txn x.tid ∧ sn.head = n.head ∧ sn.kind = n.kind ∧
         sn.left = ds.length ∧ sn.answer = none ∧ sn.sent = t.dtime) ∧
       t.out.length = s.out.length + ds.length ∧ t.ports[port4 n.head].bis.length = s.ports[port4 n.head].bis.length + ds.length ∧
       ∀ d ∈ ds, ∃ bid,
         let hpa := hpaOf d.2 (regField s (offDecMap (port4 n.head) (d.1 / 4) (d.1 % 4)) 28 4) r e.aliasF (e.dpaSector * 256 + n.line * 64)
         .biSnp (port4 n.head) (ldRec s ld).link bid hpa n.kind ∈ t.out ∧
           ⟨bid, k, s.seq, (ldRec s ld).link, hpa, n.kind, ld, false, false⟩ ∈ t.ports[port4 n.head].bis) ∧
  (∀ (p : Fin 4) (bid : Nat) (b : PortBi) (rsp : BiRsp) (x : Txn) (n : Snp) (pl : Nat) (e : SfEntry) (s : State),
     errorFree s = true → portsQuiet s = true → pairMode s = false → windowOver s p = false → homeWaits s (spk8 b.spk) = true →
     (s.ports[p].bis.find? fun c => c.bid = bid && !c.unsent) = some b → n ∈ s.spks[spk8 b.spk].snps →
     (∀ m ∈ s.spks[spk8 b.spk].snps, m.sid = n.sid ∨ m.owner = .txn x.tid → m = n) → s.spks[spk8 b.spk].snps.Nodup →
     n.sid = b.sid → n.left = 1 → n.answer = none → n.owner = .txn x.tid → x ∈ s.spks[spk8 b.spk].txns → x.state = .biWait →
     (∀ u ∈ s.spks[spk8 b.spk].txns, u.tid = x.tid → u = x) → (∀ m ∈ s.spks[spk8 b.spk].inbox, lineBase m.req.hpa ≠ lineBase b.hpa) →
     sfFind s.spks[spk8 b.spk] (msgSector x.msg) = some (pl, e) →
     let me := (reqHead s x.msg.req).map fun h => ((msgLine x.msg).val, h)
     (∀ m ∈ txnNeeds s x (recordBis e [{ n with left := 0, answer := some rsp }] me),
       n.kind = .cur ∧ m.kind = .cur ∧ m.head = n.head) →
     Completes (.birsp p bid rsp .good) s fun t => t.spks[spk8 b.spk].snps = s.spks[spk8 b.spk].snps.erase n ∧ t.dram = s.dram ∧
       t.out = s.out ∧ t.ports[p].bis = s.ports[p].bis.filter (·.bid ≠ bid) ∧ (∀ j, j ≠ spk8 b.spk → t.spks[j] = s.spks[j]) ∧
       othersStay s t (spk8 b.spk) x.tid ∧ ∃ y ∈ t.spks[spk8 b.spk].txns, y.tid = x.tid ∧ y.msg = x.msg ∧ y.state = .memory ∧
         y.need = []) ∧
  ((∀ (p : Fin 4) (b : PortBi) (s : State), noInjection s = true → s.ports[p].bis.filter (·.bid = b.bid) = [b] → b.unsent = false →
     (∀ c ∈ s.ports[p].bis, c.conflict = false) →
     ((∀ r ∈ s.ports[p].reqs, orderedBefore s r = false ∨ lineBase r.req.hpa ≠ lineBase b.hpa) →
       exec (.biConflict p b.bid .good) s = .next { s with out := s.out ++ [.biConflictAck p b.bid] }) ∧
     ((∃ r ∈ s.ports[p].reqs, orderedBefore s r = true ∧ lineBase r.req.hpa = lineBase b.hpa) →
       exec (.biConflict p b.bid .good) s = .next { s with ports := s.ports.set p { s.ports[p] with
         bis := s.ports[p].bis.map fun c => if c.bid = b.bid then { c with conflict := true } else c } })) ∧
   (∀ (k : Fin 8) (sid : Nat) (n : Snp) (s : State),
     (s.spks[k].snps.find? fun n => n.sid = sid && n.answer.isNone && !n.timedOut) = some n →
     exec (.biTimeout k sid) s = .next (raise (blkSpk k) 4 Cap.none { s with
       dtime := max s.dtime (n.sent + 100 * regField s (offBiCfg k) 0 16 + 1)
       spks := s.spks.set k { s.spks[k] with
         snps := s.spks[k].snps.map fun x => if x.sid = sid then { x with timedOut := true } else x } })) ∧
   (∀ (k : Fin 8) (sid : Nat) (s : State), (∀ n ∈ s.spks[k].snps, n.sid = sid → n.answer ≠ none ∨ n.timedOut = true) →
     exec (.biTimeout k sid) s = .next s))

/-- R87, R94, R250, R252: a host transaction in MEMORY whose line needs nothing more reads its line, or for MemInv and
MemClnEvct reads none, and its response waits at its port with the data; the transaction is open no more. R136, R140, R141:
the end of the re-encryption of a group lets the write that started it complete; the end of a re-tag opens its span; a fetched
line waits at its home until its parent is held (R136) and its refresh target is out of tRFC (R209). HOME_MEMORY_DONE so
completes for a read, MemInv or MemClnEvct whose turn it is (R247) and that nothing holds, REENCRYPTION_DONE and CULM_RETAG_DONE
for every such work that is open, and CULM_NODE_FETCH_DONE for every line that is being fetched. -/
def Obligations.MemoryStageAndCulmWork : Prop :=
  (∀ (k : Fin 8) (x : Txn) (p l ld tag : Nat) (noise : Image) (s : State), halted s = false → errorFree s = true →
     portsQuiet s = true → homeWaits s k = true → x ∈ s.spks[k].txns → keyFree s k x.msg x.tid →
     (∀ u ∈ s.spks[k].txns, u.tid = x.tid → u = x) → x.state = .memory →
     memBlocked s k x = false → dupOf s x.msg.req = none → txnMissing s x = [] → memFirst s k x = true → x.msg.packed = none →
     x.msg.req.src = .host p l ld tag →
     let done (d : Line) (t : State) : Prop := (∀ u ∈ t.spks[k].txns, u.tid ≠ x.tid) ∧ othersStay s t k x.tid ∧
       ∃ rsp, t.ports[port4 p].egress = s.ports[port4 p].egress ++ [rsp] ∧ rsp.data = d ∧ rsp.poison = x.rsp.poison ∧
         rsp.kind = x.rsp.kind ∧ rsp.rid = x.rsp.rid
     (x.msg.req.op = .inv ∨ x.msg.req.op = .clnEvct → Completes (.homeMemoryDone k x.tid noise) s fun t =>
       done x.rsp.data t ∧ t.dram = s.dram ∧ t.crypt = s.crypt) ∧
     (∀ snp r d s1, x.msg.req.op = .rd snp → readData x.msg.mpa (reqAcc s x.msg.req) noise s = (r, s1) → readPlain r = some d →
       s1.spks = s.spks → s1.ports = s.ports → s1.pair = s.pair → s1.fw = s.fw →
       Completes (.homeMemoryDone k x.tid noise) s fun t => done d t ∧ t.dram = s1.dram)) ∧
  ((∀ (k : Fin 8) (base : Nat) (r : Rekey) (s : State), portsQuiet s = true →
     (s.spks[k].rekeys.find? fun r => r.level = 0 && r.base = base) = some r →
     (txnOf s k r.tid = none → exec (.reencryptionDone k base) s =
       .next { s with spks := s.spks.set k { s.spks[k] with rekeys := s.spks[k].rekeys.erase r } }) ∧
     (∀ x, txnOf s k r.tid = some x → x.waiting = true → homeWaits s k = true → keyFree s k x.msg x.tid → pairMode s = false →
       Completes (.reencryptionDone k base) s fun t => t.spks[k].rekeys = s.spks[k].rekeys.erase r ∧
         (∀ u ∈ t.spks[k].txns, u.tid ≠ x.tid) ∧ othersStay s t k x.tid ∧ t.dram = s.dram)) ∧
   (∀ (k : Fin 8) (base : Nat) (r : Rekey) (s : State), (s.spks[k].rekeys.find? fun r => r.level ≠ 0 && r.base = base) = some r →
     exec (.culmRetagDone k base) s = .next { s with spks := s.spks.set k { s.spks[k] with rekeys := s.spks[k].rekeys.erase r } }) ∧
   (∀ (k : Fin 8) (mpa : Nat) (f : CulmFetch) (noise : Image) (par : Parity) (s : State), halted s = false →
     noInjection s = true → parityAt par .channel ≠ .fatal → s.spks[k].fetches.find? (·.mpa = mpa) = some f →
     (fetchReady s f = false ∨ targetBusy s mpa = true → exec (.culmNodeFetchDone k mpa noise par) s = .next s) ∧
     (∀ ops s2, fetchReady s f = true → targetBusy s mpa = false → fetchOps f.kind mpa noise { s with
         spks := s.spks.set k { s.spks[k] with fetches := s.spks[k].fetches.filter (·.mpa ≠ mpa) } } = (ops, s2) →
       exec (.culmNodeFetchDone k mpa noise par) s = .next (culmRun 4096 f.cls ops s2))))

/-- R105, R106, Tables 4.13 and 4.14: HOLD takes a page of its home that is not held while there is room, RELEASE ends the
hold of a held page, and RECALL of a page of which no head holds a line is done at once; a page of another home, a second
hold, or a release of a page that is not held is refused. Ordered-class mode takes the written bit. R105: two µs after a retry
the port sends the request to its home again. PAGE_HOLD and ORDERED_MODE_WRITE so complete in every state without a recall in
progress, PAGE_RELEASE and PAGE_RECALL at a home where everything else waits, PARK_RETRY_RESEND for every request sent back. -/
def Obligations.PageHoldsAndRetries : Prop :=
  (∀ (k : Fin 8) (v : Word) (s : State), flag v 0 = true → s.spks[k].recalling = none →
     let page := field v 12 32 <<< 12
     let ended (done refused : Bool) (hs : List Nat) (hold : List (Nat × HoldOwner)) (t : State) : Prop :=
       t = { s with regs := t.regs, tier := { s.tier with holders := hold }
                    spks := s.spks.set k { s.spks[k] with pgDone := done, pgRefused := refused, holds := hs } }
     let free : Prop := home page = k.val ∧ s.spks[k].holds.length < 16 ∧ page ∉ s.spks[k].holds
     (free → Completes (.pageHold .germ k v) s (ended true false (s.spks[k].holds ++ [page])
       (s.tier.holders.filter (· ≠ (page, .register)) ++ [(page, .register)]))) ∧
     (¬ free → Completes (.pageHold .germ k v) s (ended false true s.spks[k].holds s.tier.holders)) ∧
     (portsQuiet s = true → page ∈ s.spks[k].holds → homeWaits s k = true →
       (∀ u ∈ s.spks[k].txns, u.state = .parked → holdPage u.msg ≠ page) → Completes (.pageRelease .germ k v) s
         (ended true false (s.spks[k].holds.filter (· ≠ page)) (s.tier.holders.filter (·.1 ≠ page)))) ∧
     (portsQuiet s = true → page ∉ s.spks[k].holds →
       Completes (.pageRelease .germ k v) s (ended false true s.spks[k].holds s.tier.holders)) ∧
     (home page = k.val → homeWaits s k = true → (∀ n ∈ s.spks[k].snps, n.owner ≠ .recall page) →
       (recallEntries s k (.recall page) = [] → (∀ b ∈ s.spks[k].evict, sectorPage b.entry.sector ≠ page) →
         Completes (.pageRecall .germ k v) s (ended true false s.spks[k].holds s.tier.holders)) ∧
       (recallEntries s k (.recall page) ≠ [] → (∀ e ∈ recallEntries s k (.recall page), inHold s k e.2 = true) →
         Completes (.pageRecall .germ k v) s fun t => t = { s with regs := t.regs, spks := s.spks.set k { s.spks[k] with
           pgDone := false, pgRefused := false, recalling := some page } })) ∧
     (home page ≠ k.val → Completes (.pageRecall .germ k v) s (ended false true s.spks[k].holds s.tier.holders)) ∧
     (∀ w : Word, Completes (.orderedModeWrite .germ k w) s fun t =>
       t = { s with regs := t.regs, spks := s.spks.set k { s.spks[k] with orderedActive := flag w 0 } })) ∧
  (∀ (p : Fin 4) (rid at_ : Nat) (m : Msg) (s : State), s.ports[p].retries.find? (·.2.req.rid = rid) = some (at_, m) →
     Completes (.parkRetryResend p rid) s fun t =>
     t = { s with ports := t.ports, spks := t.spks, dtime := max s.dtime at_, pwr := t.pwr } ∧
     t.ports = s.ports.set p { s.ports[p] with retries := s.ports[p].retries.erase (at_, m) } ∧
     t.spks = s.spks.set (spkOf m.mpa) { s.spks[spkOf m.mpa] with inbox := s.spks[spkOf m.mpa].inbox ++ [m] } ∧
     t.pwr.sealRec = s.pwr.sealRec)

/-- R115 to R119, R121, R122, Tables 5.1, 5.2, 5.12 and 5.16: Germ's commands on a slot. LOAD_GEN fills an EMPTY device slot
from the generator and LOAD_KEY an EMPTY host slot with the salted key; both take class and mask from the registers, clear
CRY_KEY_IN and write every port's copy. SET_POLICY keeps the key. RETIRE clears the copies first and stays open. A refusal
changes no slot. R118 step 6, R119, Table 5.12: a GO while a command is open starts nothing; a RETIRE whose markers have
returned from every port overwrites KEY and H and is DONE, and one that is late sets RETIRE_TIMEOUT once and goes on waiting.
LOAD_GEN, LOAD_KEY, SET_POLICY, RETIRE, QUERY, BAD_OP, RETIRE_DRAIN_COMPLETE and RETIRE_TIMEOUT so complete while Germ runs: R24
keeps a Germ that restarts from writing. -/
def Obligations.KeySlotCommands : Prop :=
  (∀ (i : Fin 4096) (s : State), s.crypt.busy = false → s.fw.germUp = true → tablesOrdered s = true →
     let cls := regField s offSlotPolicy 0 3
     let mask := regGet s offSlotMask
     let copied (t : State) : Prop := ∀ p : Fin 4, slotCopy t p i = ⟨true, cls, mask.extractLsb' (16 * p.val) 16⟩
     let done (t : State) : Prop := t.crypt.busy = false ∧ t.crypt.done = true ∧ t.crypt.refused = false ∧ t.crypt.reason = 0 ∧
       t.crypt.keyIn = Vector.replicate 4 0 ∧ ∀ j, j ≠ i.val → slotAt t j = slotAt s j
     ((slotAt s i).state = .empty → (keyRec s i).host = false → subMask mask (keyRec s i).allowed = true →
       Completes (.loadGen .germ i) s fun t => t = { s with crypt := t.crypt, regs := t.regs, free := s.free + 1 } ∧
         slotAt t i = ⟨Config.randomBits s.free, subkey (Config.randomBits s.free), cls, mask, .loaded⟩ ∧ copied t ∧ done t) ∧
     ((slotAt s i).state = .empty → (keyRec s i).host = true → subMask mask (keyRec s i).allowed = true → keyInValue s ≠ 0 →
       Completes (.loadKey .germ i) s fun t => t = { s with crypt := t.crypt, regs := t.regs } ∧
         slotAt t i = ⟨deliveredKey s.crypt.salt (keyInValue s), subkey (deliveredKey s.crypt.salt (keyInValue s)), cls, mask,
           .loaded⟩ ∧ copied t ∧ done t) ∧
     ((slotAt s i).state = .loaded → subMask mask (keyRec s i).allowed = true →
       Completes (.setPolicy .germ i) s fun t => t = { s with crypt := t.crypt, regs := t.regs } ∧
         slotAt t i = { slotAt s i with cls := cls, mask := mask } ∧ copied t ∧ done t) ∧
     ((slotAt s i).state = .loaded → ksorted s.crypt.copies = true → Completes (.retire .germ i) s fun t =>
       t.crypt.busy = true ∧ t.crypt.openSlot = i.val ∧ t.crypt.goTime = s.dtime ∧ t.crypt.done = false ∧
       slotAt t i = { slotAt s i with state := .retiring } ∧ (∀ p : Fin 4, slotCopy t p i = ⟨false, 0, 0⟩) ∧
       ∀ j, j ≠ i.val → slotAt t j = slotAt s j) ∧
     ((slotAt s i).cls < 8 → Completes (.query .germ i) s fun t => t = { s with crypt := t.crypt, regs := t.regs } ∧ t.crypt.slots = s.crypt.slots ∧
       t.crypt.copies = s.crypt.copies ∧ t.crypt.infoMask = (slotAt s i).mask ∧ field t.crypt.info 32 12 = i.val ∧
       field t.crypt.info 7 1 = bit (keyRec s i).host ∧ field t.crypt.info 0 3 = (slotAt s i).cls ∧
       field t.crypt.info 5 2 = (match (slotAt s i).state with | .empty => 0 | .loaded => 1 | .retiring => 2) ∧ done t) ∧
     (∀ (c : Instr) (reason : Nat),
       (c = .loadGen .germ i ∧ reason =
         (if (slotAt s i).state ≠ .empty then 1 else if (keyRec s i).host = true then 2
           else if subMask mask (keyRec s i).allowed = false then 3 else 0)) ∨
       (c = .loadKey .germ i ∧ reason =
         (if (slotAt s i).state ≠ .empty then 1 else if (keyRec s i).host = false then 2
           else if subMask mask (keyRec s i).allowed = false then 3 else if keyInValue s = 0 then 4 else 0)) ∨
       (c = .setPolicy .germ i ∧ reason =
         (if (slotAt s i).state ≠ .loaded then 1 else if subMask mask (keyRec s i).allowed = false then 3 else 0)) ∨
       (c = .retire .germ i ∧ reason = if (slotAt s i).state ≠ .loaded then 1 else 0) ∨
       (∃ op : Fin 16, c = .badOp .germ op i ∧ (op.val = 0 ∨ 5 < op.val) ∧ reason = 5) →
       reason ≠ 0 → Completes c s fun t => t = { s with crypt := t.crypt, regs := t.regs, headers := t.headers } ∧
         t.crypt = { s.crypt with done := false, refused := true, reason := reason, keyIn := Vector.replicate 4 0 } ∧
         t.headers[blkCrypt].cause = s.headers[blkCrypt].cause ||| 4 ∧ ∀ d, d ≠ blkCrypt → t.headers[d] = s.headers[d])) ∧
  (∀ s : State, s.crypt.busy = true →
     (∀ (i : Fin 4096) (op : Fin 16), op.val = 0 ∨ 5 < op.val → ∀ c ∈ [Instr.loadGen .germ i, .loadKey .germ i, .setPolicy .germ i,
       .retire .germ i, .query .germ i, .badOp .germ op i],
         Completes c s fun t => t = { s with regs := if s.fw.germUp then t.regs else s.regs }) ∧
     (s.crypt.markers = 0xF → portsQuiet s = true → noInjection s = true → (s.crypt.waits = [] ∧ s.fw.erasing = []) ∨ s.fw.germUp = false →
       ksorted s.crypt.slots = true →
       Completes .retireDrainComplete s fun t => t = { s with crypt := t.crypt } ∧
         t.crypt = { s.crypt with slots := t.crypt.slots, busy := false, done := true, refused := false, reason := 0
                                  keyIn := Vector.replicate 4 0 } ∧
         slotAt t s.crypt.openSlot = ⟨0, 0, 0, 0, .empty⟩ ∧ ∀ j, j ≠ s.crypt.openSlot → slotAt t j = slotAt s j) ∧
     (s.crypt.timedOut = false → exec .retireTimeout s = .next (raise blkCrypt 3 Cap.none { s with
       dtime := max s.dtime (s.crypt.goTime + 100000 * regField s offRetireTimeout 0 16)
       crypt := { s.crypt with timedOut := true } })) ∧
     (s.crypt.timedOut = true → exec .retireTimeout s = .next s))

/-- R123, Tables 5.3 and 5.4: a key message outside a secured session is an SPDM error; one that is not well formed, not from
a manager of the slot, or not allowed by the image is answered at once and leaves every slot alone; one that passes runs its
command on the load port, and LOAD, POLICY and QUERY are answered with SUCCESS. -/
def Obligations.KeyMessages : Prop :=
  ∀ (km : KeyMsg) (s : State), s.ports[km.port].links[km.link].up = true → s.fw.germUp = true → s.crypt.busy = false →
    s.crypt.waits = [] → s.crypt.msgOpen = false → tablesOrdered s = true →
    let i := msgSlot km
    let r := keyRec s i
    let every := [Instr.keyMsgLoad km, .keyMsgRetire km, .keyMsgRegen km, .keyMsgPolicy km, .keyMsgQuery km]
    let cls := msgByte km 4
    let key := deliveredKey s.crypt.salt (BitVec.ofNat 256 (bytesToNatBE (msgKey km)))
    let refusal (result : Nat) : Prop := ∀ c ∈ every, Completes c s fun t => t = { s with headers := t.headers, out := t.out } ∧
      t.headers[blkCrypt].cause = s.headers[blkCrypt].cause ||| 16 ∧ (∀ d, d ≠ blkCrypt → t.headers[d] = s.headers[d]) ∧
      ∃ rest, t.out = s.out ++ [.keyAnswer km.port km.link (BitVec.ofNat 8 (msgOp km) :: BitVec.ofNat 8 result :: rest)]
    (km.secured = false → ∀ c ∈ every, exec c s = .next (raise blkCrypt 4 Cap.none { s with
      out := s.out ++ [.spdmError km.port km.link .unexpectedRequest] })) ∧
    (km.secured = true → msgWellFormed km = false → ∀ c ∈ every, Completes c s fun t =>
      t = { s with headers := t.headers, out := t.out, free := t.free } ∧ t.headers[blkCrypt].cause = s.headers[blkCrypt].cause ||| 16 ∧
      ∃ rest, t.out = s.out ++ [.keyAnswer km.port km.link (BitVec.ofNat 8 (msgOp km) :: 3 :: rest)]) ∧
    (km.secured = true → msgWellFormed km = true → r.mgr.testBit km.port = false → refusal 1) ∧
    (km.secured = true → msgWellFormed km = true → r.mgr.testBit km.port = true →
      (msgOp km = 1 ∧ r.host = false ∨ msgOp km = 3 ∧ r.host = true → refusal 1) ∧
      (msgOp km = 1 → r.host = true → subMask (msgMask km) r.allowed = false → refusal 3) ∧
      (msgOp km = 1 → r.host = true → subMask (msgMask km) r.allowed = true → (msgKey km).all (· = 0) = false →
        (slotAt s i).state = .empty → Completes (.keyMsgLoad km) s fun t =>
          t = { s with crypt := t.crypt, regs := t.regs, out := t.out } ∧
          slotAt t i = ⟨key, subkey key, cls, msgMask km, .loaded⟩ ∧ t.crypt.keyIn = Vector.replicate 4 0 ∧
          (∀ j, j ≠ i → slotAt t j = slotAt s j) ∧ t.crypt.busy = false ∧
          t.out = s.out ++ [.keyAnswer km.port km.link [1, 0, BitVec.ofNat 8 (msgByte km 2), BitVec.ofNat 8 (msgByte km 3), 1,
            BitVec.ofNat 8 cls, 0, 0]]) ∧
      (msgOp km = 2 → (slotAt s i).state = .loaded → Completes (.keyMsgRetire km) s fun t => t.crypt.busy = true ∧
        t.crypt.msgOpen = true ∧ t.crypt.openSlot = i ∧ slotAt t i = { slotAt s i with state := .retiring } ∧ t.out = s.out) ∧
      (msgOp km = 3 → r.host = false → subMask (msgMask km) r.allowed = true → (slotAt s i).state = .loaded →
        Completes (.keyMsgRegen km) s fun t => t.crypt.busy = true ∧ t.crypt.msgOpen = true ∧ t.crypt.openSlot = i ∧
          slotAt t i = { slotAt s i with state := .retiring } ∧ t.out = s.out) ∧
      (msgOp km = 4 → subMask (msgMask km) r.allowed = true → (slotAt s i).state = .loaded →
        Completes (.keyMsgPolicy km) s fun t => t = { s with crypt := t.crypt, regs := t.regs, out := t.out } ∧
          slotAt t i = { slotAt s i with cls := cls, mask := msgMask km } ∧
          t.out = s.out ++ [.keyAnswer km.port km.link [4, 0, BitVec.ofNat 8 (msgByte km 2), BitVec.ofNat 8 (msgByte km 3), 1,
            BitVec.ofNat 8 cls, 0, 0]]) ∧
      (msgOp km = 5 → Completes (.keyMsgQuery km) s fun t => t = { s with crypt := t.crypt, regs := t.regs, out := t.out } ∧
        t.crypt.slots = s.crypt.slots ∧ t.crypt.copies = s.crypt.copies ∧
        t.out = s.out ++ [.keyAnswer km.port km.link [5, 0, BitVec.ofNat 8 (msgByte km 2), BitVec.ofNat 8 (msgByte km 3),
          (match (slotAt s i).state with | .empty => 0 | .loaded => 1 | .retiring => 2), BitVec.ofNat 8 (slotAt s i).cls, 0, 0]]))

/-- R43, R44, Table 2.4: over a link that is up, DOE discovery names the four protocols in order and none past the last, CDAT
names the LDs' regions on the link with the typical latency and the raw bandwidth in a table whose bytes sum to 0, and an SPDM
1.3 KEY_EXCHANGE opens a session of the at most 2 of a link and 32 of the device. R3: another request than those listed is not
supported, nor is another version. R24: while Germ restarts a request waits for it. The codes of SPDM are those of the cited
standard (log entry 17). SPDM_REQUEST, DOE_DISCOVERY and CDAT_TABLE_ACCESS so complete over every link that is up while Germ
runs. -/
def Obligations.DoeAnswersOverLink : Prop :=
  ∀ (p l : Fin 4) (h : SpdmReq) (s : State),
    (s.ports[p].links[l].up = true → s.fw.germUp = true →
      (∀ k : Nat, exec (.doeDiscovery p l k) s = .next { s with out := s.out ++ [.doeProtocol p l k
        (if k = 0 then some .discovery else if k = 1 then some .cmaSpdm else if k = 2 then some .securedCmaSpdm
          else if k = 3 then some .cdat else none)] }) ∧
      (Completes (.cdatTableAccess p l) s fun t => t = { s with out := t.out } ∧
        ∃ ds table, t.out = s.out ++ [.cdat p l ds 170 (s.ports[p].links[l].width * 2 ^ s.ports[p].links[l].speed) table] ∧
          (table.map (·.toNat)).sum % 256 = 0 ∧
          ∀ (ld : Nat) (rg : Region), ld < 16 → rg ∈ regions s → (ldRec s (16 * p.val + ld)).valid = true →
            (ldRec s (16 * p.val + ld)).link = l.val → ldReaches (16 * p.val + ld) rg = true → (ld, rg.dpaBase, 2 ^ rg.size) ∈ ds) ∧
      (h.version = 0x13 → h.code = 0xE4 → s.ports[p].links[l].sessions < 2 → sessionCount s < 32 →
        Completes (.spdmRequest p l h) s fun t => t = { s with ports := t.ports, out := t.out, free := t.free } ∧
          t.ports[p] = { s.ports[p] with links := s.ports[p].links.set l { s.ports[p].links[l] with
            sessions := s.ports[p].links[l].sessions + 1 } } ∧ (∀ q, q ≠ p → t.ports[q] = s.ports[q]) ∧
          ∃ body, t.out = s.out ++ [.spdm p l 0xE4 (0x13 :: 0x64 :: 0 :: 0 :: body)]) ∧
      (h.version = 0x13 → h.code = 0xE4 → 2 ≤ s.ports[p].links[l].sessions ∨ 32 ≤ sessionCount s →
        exec (.spdmRequest p l h) s = .next { s with out := s.out ++ [.spdmError p l .sessionLimitExceeded] }) ∧
      (h.code ≠ 0x84 → h.version ≠ 0x13 →
        exec (.spdmRequest p l h) s = .next { s with out := s.out ++ [.spdmError p l .versionMismatch] }) ∧
      (h.version = 0x13 → h.code ≠ 0x84 → h.code ∉ spdmOpenCodes ++ spdmSessionCodes →
        exec (.spdmRequest p l h) s = .next { s with out := s.out ++ [.spdmError p l .unsupportedRequest] })) ∧
    (s.ports[p].links[l].up = true → s.fw.germUp = false → ∀ (k : Nat) (c : Instr) (w : GermWait),
      (c, w) ∈ [(.spdmRequest p l h, .spdm p l h), (.doeDiscovery p l k, .discovery p l k), (.cdatTableAccess p l, .cdat p l)] →
      exec c s = .next { s with fw := { s.fw with waits := s.fw.waits ++ [w] } }) ∧
    (s.ports[p].links[l].up = false → ∀ k : Nat, ∀ c ∈ [Instr.spdmRequest p l h, .doeDiscovery p l k, .cdatTableAccess p l],
      exec c s = .next s)

/-- R173, R184, R185, R189: a page job with a failed line counts a failure and, with no page in the promotion stock, waits
with STOCK_EMPTY set; one whose blocks all fit and for which the stock has granules ends, and its move may release. A FORWARD
page is repointed by an invalidation, and its descriptor is freed once every port has acknowledged that. R177, R184, R186,
R193 to R195, Tables 7.5 to 7.7 and 7.12: Germ refills a home's granule stock to 1,024 from its free granules and its
promotion stock with pages the home homes; an epoch halves every COUNT; the pools are judged by their thresholds with
hysteresis of one eighth, and entering LOW or CRITICAL sets its cause. COMPRESSION_JOB_DONE so completes for every page job,
FORWARD_REPOINT for every forwarded page, HOT_EPOCH always, STOCK_REFILL where nothing waits on a stock, HELD_WRITE_RELEASE
where nothing waits at the ports. -/
def Obligations.PageJobsStocksAndPools : Prop :=
  (∀ (k : Fin 8) (s : State), portsQuiet s = true → halted s = false → s.fw.germUp = true →
     (∀ (jid mid : Nat) (j : Job) (m : Move) (streams : List (List Byte)),
       s.spks[k].jobs.find? (fun x => x.jid = jid) = some j → j.jid = jid → j.kind = .page mid → moveOf s mid = some m → m.mid = mid → j.output = [] →
       (j.poisoned.any (fun b => b.any id) = true → s.spks[k].promo = [] → Completes (.compressionJobDone k jid streams) s fun t =>
         t = { s with spks := t.spks, headers := t.headers } ∧ (∀ x, x ≠ k → t.spks[x] = s.spks[x]) ∧
         t.spks[k] = { s.spks[k] with glumeFail := satAdd 48 s.spks[k].glumeFail 1, jobs := t.spks[k].jobs } ∧
         t.spks[k].jobs = s.spks[k].jobs.map (fun x => if x.jid = jid then { x with output := [[]] } else x) ∧
         t.headers[blkSpk k].cause = s.headers[blkSpk k].cause ||| 0x80000 ∧ t.headers[blkTier].cause = s.headers[blkTier].cause ||| 0x40) ∧
       (∀ (os : List (List Byte)) (gs : List Nat) (s1 : State), j.poisoned.any (fun b => b.any id) = false →
         ((List.range 4).map fun b => if (j.plain.getD b []).isEmpty then some []
           else compressBlock false (streams.getD b []) (j.plain.getD b [])) = os.map some → os.all (fun o => o.length ≤ 768) = true →
         takeGranules ((os.map fun o => if o.isEmpty then 0 else granulesOf o.length).sum) k j.key (moveStrong s m) s = (some gs, s1) →
         Completes (.compressionJobDone k jid streams) s fun t => (∀ x ∈ t.spks[k].jobs, x.jid ≠ jid) ∧
           ∀ x ∈ t.tier.moves, x.mid = mid → x.step = .release)) ∧
     (∀ (d p : Nat) (f : Forward) (r : Region), s.spks[k].forwards.find? (fun x => x.desc = d && x.done) = some f → f.desc = d →
       (∀ n, f.inv = some n → invAcked s n = true → Completes (.forwardRepoint k d) s fun t => ∀ x ∈ t.spks[k].forwards, x.desc ≠ d) ∧
       (∀ n, f.inv = some n → invAcked s n = false → exec (.forwardRepoint k d) s = .next s) ∧
       (f.inv = none → f.page = some p → s.gate.invOpen = true → exec (.forwardRepoint k d) s = .next s) ∧
       (f.inv = none → f.page = some p → s.gate.invOpen = false → (∀ m ∈ s.tier.moves, m.dst ≠ d ∧ m.src ≠ d) →
         regionAt s f.ldTag f.dpa = some r →
         Completes (.forwardRepoint k d) s fun t => ∀ x ∈ t.spks[k].forwards, x.desc = d → x.inv ≠ none))) ∧
  ((∀ (k : Fin 8) (s : State), portsQuiet s = true → s.domainDown = false → s.fw.germUp = true →
     (∀ j ∈ s.spks[k].jobs, j.output = []) → (∀ f ∈ s.spks[k].forwards, f.done = true) → (∀ w ∈ s.gate.walks, w.waiting = false) →
     Completes (.stockRefill k) s fun t => t.spks[k].release = [] ∧ t.spks[k].jobs = s.spks[k].jobs ∧ (s.spks[k].release = [] →
       let mine := s.tier.granFree.filter fun g => home (g.addr <<< 8) = k.val && !s.tier.retired.contains (pageBase (g.addr <<< 8))
       let gs := mine.take (1024 - s.spks[k].stock.length)
       t = { s with spks := t.spks, tier := t.tier, free := t.free, headers := t.headers } ∧ (∀ x, x ≠ k → t.spks[x] = s.spks[x]) ∧
       t.spks[k] = { s.spks[k] with stock := s.spks[k].stock ++ gs, promo := t.spks[k].promo } ∧
       t.tier.granFree = s.tier.granFree.filter (fun g => !gs.contains g) ∧ t.tier.moves = s.tier.moves ∧
       ∃ ps, t.spks[k].promo = s.spks[k].promo ++ ps ∧ ps.length ≤ 2 ∧ (∀ p ∈ ps, home p = k.val) ∧
         ((regions s).all (fun r => !r.elastic) = true → ps = []))) ∧
   (∀ s : State, Completes .hotEpoch s fun t => t = { s with dtime := t.dtime, spks := t.spks } ∧ s.dtime ≤ t.dtime ∧
     (∀ e, e = 1000000 * regField s offHotCfg 8 8 → 0 < e → t.dtime = (s.dtime / e + 1) * e) ∧
     ∀ k : Fin 8, t.spks[k] = { s.spks[k] with hot := s.spks[k].hot.map fun x => (x.1, { x.2 with count := x.2.count / 2 }) }) ∧
   (∀ (n : Fin 2) (s : State), portsQuiet s = true → noRequests s = true →
     (∀ p : Fin 4, s.ports[p].stalled = 0 ∧ s.ports[p].holdStalled = 0 ∧ windowOver s p = false) →
     Completes (.heldWriteRelease n) s fun t => t = { s with tier := t.tier, headers := t.headers } ∧
       t.tier = { s.tier with pools := t.tier.pools } ∧ t.tier.pools[n].free = s.tier.pools[n].free ∧
       (∀ m, m ≠ n → t.tier.pools[m] = s.tier.pools[m]) ∧
       let free := poolFree s s.tier.pools[n]
       let low := lowPages s n
       let crit := critPages s n
       t.tier.pools[n].state = (match s.tier.pools[n].state with
         | .normal => if free < crit then PoolState.critical else if free < low then .low else .normal
         | .low => if free < crit then PoolState.critical else if free < low + low / 8 then .low else .normal
         | .critical => if free < crit + crit / 8 then PoolState.critical else if free < low + low / 8 then .low else .normal) ∧
       t.headers[blkTier].cause = s.headers[blkTier].cause |||
         (if s.tier.pools[n].state = .normal ∧ t.tier.pools[n].state = .low then 4
           else if s.tier.pools[n].state ≠ .critical ∧ t.tier.pools[n].state = .critical then 8 else 0)))

/-- R188, R191, R240: a move's steps after its invalidation, each only in its turn: the recall of its source once every port has
acknowledged and its home works on no earlier request of the page, the copy once the recall is over and the lines may be
accessed (R87, R209, R247), through a compression job for a packed destination, and the release, which ends the move, its hold
and the proposal that asked for it. MIGRATION_RECALL, MIGRATION_COPY and MIGRATION_RELEASE so complete for every move in turn. -/
def Obligations.MoveStepsInOrder : Prop :=
  ∀ (m : Move) (s : State), moveOf s m.mid = some m →
    let b := moveFrom s m
    (portsQuiet s = true → s.domainDown = false → s.fw.germUp = true →
      (m.step = .inval → invAcked s m.inv = false ∨ s.spks[spkOf b].recalling ≠ none ∨ pageQuiet s m.src = false →
        exec (.migrationRecall m.mid) s = .next s) ∧
      (m.step = .inval → invAcked s m.inv = true → s.spks[spkOf b].recalling = none → pageQuiet s m.src = true →
        Completes (.migrationRecall m.mid) s fun t => ∀ x ∈ t.tier.moves, x.mid = m.mid → x.step = .recall) ∧
      (m.step = .recall ∨ m.step = .job ∨ m.step = .release → exec (.migrationRecall m.mid) s = .next s)) ∧
    (∀ noise par, halted s = false → entering s = false → noInjection s = true → parityAt par .channel ≠ .fatal →
      let due : Prop := m.step = .recall ∧ s.spks[spkOf b].recalling ≠ some (unitPage b) ∧ pageQuiet s b = true ∧
        backgroundMay s [m.src, m.dst] (some (unitPage m.dst)) = true
      (due → Completes (.migrationCopy m.mid noise par) s fun t =>
        (∀ x ∈ t.tier.moves, x.mid = m.mid → x.step = if m.dstPacked then .job else .release) ∧
        (m.dstPacked = true → ∃ j ∈ t.spks[spkOf m.dst].jobs, j.kind = .page m.mid ∧ j.desc = m.dst ∧ j.output = [] ∧
          j.plain.length = 4 ∧ j.poisoned.length = 4)) ∧
      (¬ due → exec (.migrationCopy m.mid noise par) s = .next s)) ∧
    (portsQuiet s = true → s.domainDown = false → s.fw.germUp = true →
      (m.step ≠ .release → exec (.migrationRelease m.mid) s = .next s) ∧
      (m.step = .release → Completes (.migrationRelease m.mid) s fun t => (∀ x ∈ t.tier.moves, x.mid ≠ m.mid) ∧
        (∀ h ∈ t.tier.holders, h ≠ (unitPage m.dst, .move m.mid)) ∧
        ∀ i, m.slot = some i → (verdictAt t i).reason = (if !m.srcPacked && spanPoisoned s m.src then 8 else 0) ∧
          (verdictAt t i).status = if !m.srcPacked && spanPoisoned s m.src then 4 else 2))

/-- R424 to R426, Tables 17.2 to 17.5: a proposal is refused DOMAIN_DOWN while the coherent domain is down, else RELOAD_BUSY
while a reload is open, else BAD_PROPOSAL where it is not well formed; a slot that is PENDING or ACCEPTED takes none and
GATE_OVERRUN is set. A port proposal is DONE where the port already is as asked, QOS_SET and SCRUB_SET once their fields are
written. PORT_ENABLE, PORT_DISABLE, QOS_SET, SCRUB_SET, BAD_PROPOSAL and GATE_OVERRUN so complete whenever Germ takes the next
proposal. -/
def Obligations.GateChecksAndSettings : Prop :=
  ∀ (c : Fin 4) (s : State), portsQuiet s = true →
    let i := s.queue.gateTail
    (∀ b, gateReady s = true → s.domainDown = true → exec (.badProposal c b) s = .next (setVerdict i 3 15 0 (taken b s))) ∧
    (∀ b, gateReady s = true → s.domainDown = false → s.bring.reloadBusy = true → propField b 0 2 ≠ 13 →
      exec (.badProposal c b) s = .next (setVerdict i 3 16 0 (taken b s))) ∧
    (∀ b, gateReady s = true → s.domainDown = false → s.bring.reloadBusy = false → propOk b = false →
      exec (.badProposal c b) s = .next (setVerdict i 3 17 0 (taken b s))) ∧
    (∀ b, s.fw.branUp = true → slotBusy s i = true → exec (.badProposal c b) s = .next (raise blkQueue 3 Cap.none s)) ∧
    (∀ tail : Fin 256, s.fw.branUp = true →
      (∃ j, j < (tail.val + 256 - i) % 256 ∧ slotBusy s ((i + j) % 256) = true) →
      exec (.gateOverrun c tail) s = .next (raise blkQueue 3 Cap.none s)) ∧
    (∀ (id : Nat), gateReady s = true → s.domainDown = false → s.bring.reloadBusy = false → tablesOrdered s = true →
      (∀ p : Fin 4,
        let u := taken (proposal 5 id p) s
        let w := taken (proposal 6 id p) s
        (s.ports[p].state = .enabled → exec (.portEnable c id p) s = .next (setVerdict i 2 0 0 u)) ∧
        (s.ports[p].state = .training → exec (.portEnable c id p) s = .next { setVerdict i 1 0 0 u with
          ports := s.ports.set p { s.ports[p] with enableQueued := true } }) ∧
        (s.ports[p].state = .drained → ideReady s p = true → mayServe s = true → Completes (.portEnable c id p) s fun t =>
          t.ports[p].state = .enabled ∧ (verdictAt t i).status = 2 ∧ (∀ q, q ≠ p → t.ports[q] = s.ports[q])) ∧
        (s.ports[p].state = .enabled → inflight s p ≠ 0 → exec (.portDisable c id p) s = .next { setVerdict i 1 0 0 w with
          ports := s.ports.set p { s.ports[p] with state := .draining, drainStart := s.dtime } }) ∧
        (s.ports[p].state ≠ .enabled → exec (.portDisable c id p) s = .next (setVerdict i 2 0 0 w))) ∧
      (∀ (off : Nat) (v : Word), 0x140 ≤ off → off < 0x200 → off % 8 = 0 →
        (off < 0x180 → 1 ≤ v.toNat → v.toNat ≤ 0xFFFF → v.toNat ≤ budgetCeiling s ((off - 0x140) / 8) →
          Completes (.qosSet c id off v) s fun t => t = { s with regs := t.regs, queue := t.queue } ∧
            regField t (0x320000 + off) 0 16 = v.toNat ∧ (verdictAt t i).status = 2) ∧
        (off < 0x180 → v.toNat ≤ 0xFFFF → budgetCeiling s ((off - 0x140) / 8) < v.toNat → Completes (.qosSet c id off v) s fun t =>
          t = { s with queue := t.queue } ∧ (verdictAt t i).status = 3 ∧ (verdictAt t i).reason = 18) ∧
        (0x180 ≤ off → off < 0x1C0 → field v 48 10 ≠ 0 → Completes (.qosSet c id off v) s fun t =>
          t = { s with regs := t.regs, queue := t.queue } ∧ regField t (0x320000 + off) 48 10 = field v 48 10 ∧
          (verdictAt t i).status = 2) ∧
        (0x1C0 ≤ off → 100 ≤ v.toNat → v.toNat ≤ 1000000 → Completes (.qosSet c id off v) s fun t =>
          t = { s with regs := t.regs, queue := t.queue } ∧ regField t (0x320000 + off) 0 20 = v.toNat ∧
          (verdictAt t i).status = 2)) ∧
      (∀ mask en rate reserve : Nat, mask < 2 ^ 16 → en ≤ 1 → 1 ≤ rate → rate ≤ 125 → reserve ≤ 195 →
        Completes (.scrubSet c id mask en rate reserve) s fun t => t = { s with regs := t.regs, queue := t.queue } ∧
          (verdictAt t i).status = 2 ∧ ∀ x : Fin 16,
            (mask.testBit x = true → regField t (offScrubCfg x) 0 7 = rate ∧ regField t (offScrubCfg x) 16 8 = reserve ∧
              regField t (offScrubCfg x) 32 1 = en) ∧
            (mask.testBit x = false → regGet t (offScrubCfg x) = regGet s (offScrubCfg x))))

/-- R190, R239, R240, R243, R431, Tables 7.3, 9.4 and 17.4: what Germ checks of a proposal on a page or a bank, in order, and
what it opens. PROMOTE and DEMOTE open a move to a page of the other tier; a page that backs nothing is retired at once;
RETIRE_BANK copies the bank to a usable spare; PIN and UNPIN change the port's pin list, except in a region that the image
pins. R326, R328, R365, R366, R404: LEAVE, HANDOVER, RELOAD and REST are refused ROLE, NOT_DRAINED or PAIRED where the member
may not do it now. LEAVE makes the role DETACHED; HANDOVER begins with the ports held; RELOAD of the other copy, when that
copy passes its checks, drains the ports and then resets the device into it; REST begins the entry. PROMOTE, DEMOTE,
RETIRE_PAGE, RETIRE_BANK, PIN, UNPIN, LEAVE, HANDOVER, RELOAD and REST so complete whenever Germ takes the next proposal and no
check of theirs refuses it. -/
def Obligations.PageBankAndMemberProposals : Prop :=
  (∀ (c : Fin 4) (id : Nat) (s : State), portsQuiet s = true → gateReady s = true → s.domainDown = false → s.bring.reloadBusy = false →
     let i := s.queue.gateTail
     let refused (cmd : Instr) (b : BitVec 256) (reason : Nat) : Prop := exec cmd s = .next (setVerdict i 3 reason 0 (taken b s))
     (∀ (ldTag : Fin 64) (dpa : Nat), dpa < 2 ^ 45 → dpa % 4096 = 0 →
       let b1 := proposal 1 id (pageArgs ldTag dpa 0)
       let b2 := proposal 2 id (pageArgs ldTag dpa 0)
       (regionAt s ldTag dpa = none → refused (.promote c id ldTag dpa) b1 1 ∧ refused (.demote c id ldTag dpa) b2 1) ∧
       (∀ r, regionAt s ldTag dpa = some r →
         (r.elastic = false → refused (.promote c id ldTag dpa) b1 1 ∧ refused (.demote c id ldTag dpa) b2 1) ∧
         (∀ (e : Word) (d : Nat) (s1 s2 : State), r.elastic = true → pageLeaf ldTag dpa (taken b1 s) = (some e, s1) →
           s1.queue = (taken b1 s).queue → moveOpen s1 r dpa = false → commandOpen s1 r dpa = false →
           pagesFull s1 (regionPool r) = false → eTier e = 1 → forwardedTo s1 (eAddr e) = none →
           s1.tier.pools[regionPool r].state = .normal →
           allocPick (regionPool r) (fun pg => !homeFull s1 (home (pg <<< 12))) s1 = (some d, s2) →
           Completes (.promote c id ldTag dpa) s fun t => (verdictAt t i).status = 1 ∧
             ∃ m ∈ t.tier.moves, m.mid = s2.seq ∧ m.ldTag = ldTag ∧ m.dpa = dpa ∧ m.src = eAddr e ∧ m.srcPacked = true ∧
               m.dst = d ∧ m.dstPacked = false ∧ m.slot = some i ∧ m.retire = false ∧ (s1.gate.invOpen = true → m.step = .alloc)) ∧
         (∀ (e : Word) (d : Nat) (s1 s2 : State), r.elastic = true → pageLeaf ldTag dpa (taken b2 s) = (some e, s1) →
           moveOpen s1 r dpa = false → commandOpen s1 r dpa = false → descsFull s1 = false → eTier e = 0 → r.pinned = false →
           takeDesc s1 (fun x => !homeFull s1 (home x)) = (some d, s2) →
           (writeDesc d 0 (holdPath 7 d s2)).queue = (taken b2 s).queue →
           Completes (.demote c id ldTag dpa) s fun t => (verdictAt t i).status = 1 ∧
             ∃ m ∈ t.tier.moves, m.ldTag = ldTag ∧ m.dpa = dpa ∧ m.src = eAddr e ∧ m.srcPacked = false ∧ m.dst = d ∧
               m.dstPacked = true ∧ m.slot = some i ∧ m.retire = false))) ∧
     (∀ m : Nat, m < 2 ^ 44 → m % 4096 = 0 →
       let b := proposal 3 id m
       (isProtected s m = true ∨ populated (geom s) ≤ m → refused (.retirePage c id m) b 8) ∧
       (isProtected s m = false → pageSpare s (m >>> 12) = false → m < populated (geom s) →
         (s.tier.retired.contains m = true → refused (.retirePage c id m) b 9) ∧
         (∀ s1, s.tier.retired.contains m = false → s.tier.retired.length < 65536 →
           (s.tier.moves.any fun v => (!v.srcPacked && v.src = m) || (!v.dstPacked && v.dst = m)) = false →
           kfind s.tier.granulePages m = none → findBacked m (taken b s) = (none, s1) → s1.queue = (taken b s).queue →
           Completes (.retirePage c id m) s fun t => (verdictAt t i).status = 2 ∧ t.tier.retired = s1.tier.retired ++ [m] ∧
             t.dram = s1.dram) ∧
         (∀ (ld dpa d : Nat) (r : Region) (s1 s2 : State), s.tier.retired.contains m = false → s.tier.retired.length < 65536 →
           (s.tier.moves.any fun v => (!v.srcPacked && v.src = m) || (!v.dstPacked && v.dst = m)) = false →
           kfind s.tier.granulePages m = none → forwardOf s m = none → findBacked m (taken b s) = (some (ld, dpa), s1) →
           s1.queue = (taken b s).queue → regionAt s1 ld dpa = some r → r.elastic = true → moveOpen s1 r dpa = false →
           commandOpen s1 r dpa = false → s1.tier.pools[poolOf s1 m].state ≠ .critical →
           allocPick (poolOf s1 m) (fun _ => true) s1 = (some d, s2) →
           Completes (.retirePage c id m) s fun t => (verdictAt t i).status = 1 ∧ m ∈ t.tier.retired ∧
             ∃ v ∈ t.tier.moves, v.ldTag = ld ∧ v.dpa = dpa ∧ v.src = m ∧ v.srcPacked = false ∧ v.dst = d ∧ v.dstPacked = false ∧
               v.retire = true ∧ v.slot = some i))) ∧
     (∀ (x : Fin 16) (rank : Fin 4) (subch bg ba : Nat), subch < 2 → bg < 8 → ba < 4 →
       let b := proposal 4 id (x + rank * 2 ^ 8 + subch * 2 ^ 16 + bg * 2 ^ 24 + ba * 2 ^ 32)
       let cmd := Instr.retireBank c id x rank subch bg ba
       ((spareMask s x).testBit rank = true ∨ (geom s).ranks ≤ rank → refused cmd b 8) ∧
       ((spareMask s x).testBit rank = false → rank < (geom s).ranks →
         let known := s.mcs[x].remaps.any fun m => m.rank = rank && m.subch = subch && m.bg = bg && m.ba = ba
         (known = true → refused cmd b 9) ∧
         (known = false → 4 ≤ s.mcs[x].remaps.length → refused cmd b 10) ∧
         (known = false → s.mcs[x].remaps.length < 4 → s.mcs[x].copy = none → usableSpares s x rank = [] → refused cmd b 11) ∧
         (∀ q, known = false → s.mcs[x].remaps.length < 4 → s.mcs[x].copy = none → (usableSpares s x rank).head? = some q →
           Completes cmd s fun t => t = { s with mcs := t.mcs, queue := t.queue } ∧ (verdictAt t i).status = 1 ∧
             (∃ p, t.mcs[x].copy = some ⟨true, rank, q, subch, bg, ba, p, some i⟩) ∧
             t.mcs[x].bound = s.mcs[x].bound ||| 1 <<< q ∧ ∀ y, y ≠ x → t.mcs[y] = s.mcs[y]))) ∧
     (∀ (ldTag : Fin 64) (dpa size : Nat), 12 ≤ size → size ≤ 44 → dpa < 2 ^ 45 → dpa % 2 ^ size = 0 →
       let b9 := proposal 9 id (pageArgs ldTag dpa size)
       let b10 := proposal 10 id (pageArgs ldTag dpa size)
       let p := port4 (ldTag.val / 16)
       (rangeRegion s ldTag dpa (2 ^ size) = none →
         refused (.pin c id ldTag dpa size) b9 17 ∧ refused (.unpin c id ldTag dpa size) b10 17) ∧
       (∀ r, rangeRegion s ldTag dpa (2 ^ size) = some r →
         (r.pinned = true → exec (.pin c id ldTag dpa size) s = .next (setVerdict i 2 0 0 (taken b9 s)) ∧
           exec (.unpin c id ldTag dpa size) s = .next (setVerdict i 2 0 0 (taken b10 s))) ∧
         (r.pinned = false → pinRange ldTag dpa size r (taken b9 s) = none → refused (.pin c id ldTag dpa size) b9 19) ∧
         (∀ s1, r.pinned = false → pinRange ldTag dpa size r (taken b9 s) = some s1 → s1.queue = (taken b9 s).queue →
           Completes (.pin c id ldTag dpa size) s fun t => (verdictAt t i).status = 2 ∧ t.ports = s1.ports ∧ t.gate = s1.gate ∧
             ⟨ldTag, dpa, 2 ^ size⟩ ∈ t.ports[p].pins) ∧
         (r.pinned = false → Completes (.unpin c id ldTag dpa size) s fun t => t = { s with ports := t.ports, queue := t.queue } ∧
           (verdictAt t i).status = 2 ∧ (∀ q, q ≠ p → t.ports[q] = s.ports[q]) ∧
           t.ports[p].pins = s.ports[p].pins.filter (fun x => x ≠ ⟨ldTag, dpa, 2 ^ size⟩) ∧
           ∀ e ∈ t.ports[p].sheaf, e.ldTag = ldTag.val → dpa < e.dpaBase + 2 ^ e.size → e.dpaBase < dpa + 2 ^ size → e.pinned = false)))) ∧
  (∀ (c : Fin 4) (id : Nat) (s : State), portsQuiet s = true → gateReady s = true → s.domainDown = false → s.bring.reloadBusy = false →
     let i := s.queue.gateTail
     let refused (cmd : Instr) (kind reason : Nat) : Prop := exec cmd s = .next (setVerdict i 3 reason 0 (taken (proposal kind id 0) s))
     (mayLeave s = false → refused (.leave c id) 11 12) ∧
     (mayLeave s = true → s.til.mirrors = [] → s.til.fetches = [] → Completes (.leave c id) s fun t =>
       t.pair.role = .detached ∧ t.pair.synced = false ∧ t.pair.own = false ∧ t.pair.fenceOut = s.pair.fenceOut ∧
       (verdictAt t i).status = 2 ∧
       t.til.queue = s.til.queue ++ (if s.til.state = .up then [.leave] else []) ∧
       ∀ p : Fin 4, t.ports[p] = if s.ports[p].state = .enabled then { s.ports[p] with state := .drained, enableQueued := true }
         else s.ports[p]) ∧
     (mayHandover s = false → refused (.handover c id) 12 12) ∧
     (mayHandover s = true → exec (.handover c id) s = .next { setVerdict i 1 0 0 (taken (proposal 12 id 0) s) with
       pair := { s.pair with handover := true } }) ∧
     (∀ copy : Fin 2,
       let u := taken (proposal 13 id copy) s
       let other : Prop := decide (copy.val = 1) ≠ s.imgCopyB
       let single : Prop := s.pair.role ≠ .primary ∧ receivesMirror s = false
       (¬ single → exec (.reload c id copy) s = .next { setVerdict i 3 12 0 u with bring := { s.bring with reloadResult := 13 } }) ∧
       (single → ¬ other → exec (.reload c id copy) s = .next (setVerdict i 3 17 0 u)) ∧
       (∀ code, single → other → checkCopy u (decide (copy.val = 1)) = .refused code →
         exec (.reload c id copy) s = .next { setVerdict i 3 20 code u with bring := { s.bring with reloadResult := code } }) ∧
       (∀ a e, single → other → checkCopy u (decide (copy.val = 1)) = .ok a e → (∀ p : Fin 4, s.ports[p].state ≠ .enabled) →
         exec (.reload c id copy) s = .next { setVerdict i 1 0 0 u with bring := { s.bring with
           reloadBusy := true, reloadCopy := decide (copy.val = 1), reloadSlot := some i, reloadDisabled := 0
           reloadAt := s.dtime } }) ∧
       (∀ a e, single → other → checkCopy u (decide (copy.val = 1)) = .ok a e → Completes (.reload c id copy) s fun t =>
         t.bring.reloadBusy = true ∧ t.bring.reloadCopy = decide (copy.val = 1) ∧ t.bring.reloadSlot = some i ∧
         t.bring.reloadAt = s.dtime ∧ (∀ p : Fin 4, t.bring.reloadDisabled.getLsbD p = decide (s.ports[p].state = .enabled)) ∧
         (verdictAt t i).status = 1)) ∧
     (allDrained s = false → refused (.rest c id) 14 13) ∧
     (allDrained s = true → s.pair.role ≠ .none → s.pair.role ≠ .detached → refused (.rest c id) 14 14) ∧
     (allDrained s = true → s.pair.role = .none ∨ s.pair.role = .detached → servingState s = true →
       errorFree s = true → Completes (.rest c id) s fun t => t.pwr.state = .enteringRest ∧ t.pwr.step = 2 ∧
         (verdictAt t i).status = 1 ∧ ∀ p : Fin 4, t.ports[p].state = .reset))

/-- R24 to R27, R191, R365, R366, R423: a reload whose ports have drained resets the grain dies into the named copy, one that
takes over 1 s ends FAILED with DRAIN; while Germ is down what asks for it waits, and is served when it is back, its moves
going on; a Bran restart answers every mailbox command that was running with Retry Required and keeps the proposals.
RELOAD_RESET so completes when every port has drained, RELOAD_DRAIN_TIMEOUT before that, GERM_RESTART and BRAN_RESTART whenever
the firmware runs, and GERM_RESTART_DONE where no move, proposal or loss waits for Germ. -/
def Obligations.ReloadAndRestarts : Prop :=
  (∀ s : State, s.bring.reloadBusy = true → allDrained s = true → Completes .reloadReset s fun t =>
    t.bring.kind = 2 ∧ t.bring.step = 1 ∧ t.fw.germUp = true ∧ t.fuses = s.fuses ∧ t.husk = s.husk ∧ t.dtime = s.dtime ∧
    t.dram = [] ∧ t.crypt.slots = [] ∧ (ksorted s.flash = true → (kget 0xFF t.flash 4 = if s.bring.reloadCopy then 1 else 0) ∧
      ∀ off, 12 ≤ off → kget 0xFF t.flash off = kget 0xFF s.flash off)) ∧
  (∀ s : State, s.bring.reloadBusy = false ∨ allDrained s = false → exec .reloadReset s = .next s) ∧
  (∀ (i : Nat) (s : State), s.bring.reloadBusy = true → allDrained s = false → s.bring.reloadSlot = some i →
    Completes .reloadDrainTimeout s fun t => t.dtime = max s.dtime (s.bring.reloadAt + 1000000000) ∧
      t.bring.reloadBusy = false ∧ t.bring.reloadResult = 12 ∧ t.bring.reloadSlot = none ∧
      (verdictAt t i).status = 4 ∧ (verdictAt t i).reason = 21 ∧ (portsQuiet s = true → s.bring.reloadDisabled = 0 →
        t = { s with queue := t.queue, dtime := t.dtime, bring := { s.bring with
          reloadBusy := false, reloadResult := 12, reloadSlot := none } })) ∧
  (∀ s : State, (s.fw.germUp = true → Completes .germRestart s fun t => t = { s with fw := { s.fw with germUp := false }, clk := t.clk }) ∧
    (s.fw.germUp = false → exec .germRestart s = .next s)) ∧
  (∀ s : State, portsQuiet s = true → s.fw.germUp = false → s.bring.step ≠ 0 → s.crypt.waits = [] → s.fw.erasing = [] →
    s.tier.moves = [] → (∀ x : Fin 16, s.mcs[x].lost = []) → s.queue.gateHead = s.queue.gateTail → Completes .germRestartDone s fun t =>
      t.fw.germUp = true ∧ t.fw.waits = [] ∧ t.gate.walks.length = s.gate.walks.length ∧
      (s.fw.waits = [] → s.gate.walks = [] → t = { s with fw := { s.fw with germUp := true }, clk := t.clk }) ∧
      (∀ p l k, s.fw.waits = [.discovery p l k] → s.gate.walks = [] →
        t = { s with fw := { s.fw with germUp := true, waits := [] }, clk := t.clk, out := t.out } ∧
        ∃ x, t.out = s.out ++ [.doeProtocol p l k x])) ∧
  (∀ s : State, s.bring.released = true ∨ s.fw.branUp = true → Completes .branRestart s fun t =>
    t = { s with fw := { s.fw with branUp := true }, ports := t.ports, out := t.out, clk := t.clk } ∧
    (∀ p l : Fin 4, t.ports[p].mbox[l] = { s.ports[p].mbox[l] with
      busy := false, xferOpen := false
      retCode := if s.ports[p].mbox[l].busy then 5 else s.ports[p].mbox[l].retCode }) ∧
    ∀ p l : Fin 4, s.ports[p].mbox[l].busy = true → Out.mailbox p l s.ports[p].mbox[l].opcode 5 [] ∈ t.out)

/-- R204, R209, R210, R212, R214, R215, Tables 8.8 to 8.12: REFab goes to a due target and applies the wanted tREFI to its
subchannel; a slice due in tRFC waits for its end and then refreshes the row's neighbours at distance 2; a count window clears
every count; a sensor's reading sets HOT and, with hysteresis, the wanted tREFI, and three misses in a row count as hot. R221,
R222, R224, Tables 8.7, 8.17 and 8.19: FORCE starts a run in ACTIVE and POWER_DOWN; a run's end gives new targets to items 1 to 5 alone and
no live value; a step moves every live value one towards its target; MC_CAL_DATA sets the target that MC_CAL_SEL selects, and
no other value. The targets that a run finds are free values (log entry 4). REFAB, REFRESH_END, NEIGHBOR_REFRESH_SLICE2,
ACT_COUNT_WINDOW, DIMM_TEMP_READ, RECAL_FORCE, RECAL_RUN_DONE, CAL_STEP and CAL_TARGET_WRITE so complete in every state in which
Table 8.5 has the channel do them. -/
def Obligations.RefreshTemperatureCalibration : Prop :=
  (∀ (x : Fin 16) (s : State),
     (∀ t, s.mcs[x].state = .active ∨ s.mcs[x].state = .powerDown → t < 2 * targetsPer s → s.mcs[x].refreshing.contains t = false →
       Completes (.refab x t) s fun u => u = { s with mcs := u.mcs, out := s.out ++ [.refresh x t none] } ∧
         (∀ y, y ≠ x → u.mcs[y] = s.mcs[y]) ∧
         u.mcs[x] = { s.mcs[x] with refreshing := s.mcs[x].refreshing ++ [t], fastApplied := u.mcs[x].fastApplied, trefi := u.mcs[x].trefi } ∧
         u.mcs[x].fastApplied = (if s.mcs[x].fastWanted then s.mcs[x].fastApplied ||| BitVec.ofNat 2 (1 <<< (t / targetsPer s))
           else s.mcs[x].fastApplied &&& ~~~ BitVec.ofNat 2 (1 <<< (t / targetsPer s))) ∧
         u.mcs[x].trefi = if u.mcs[x].fastApplied = 0 then 3900 else 1950) ∧
     (∀ t, s.mcs[x].refreshing.contains t = true → (s.mcs[x].owed.any fun e => e.2 && rowTarget s e.1 = t) = false →
       (∀ row ∈ s.mcs[x].firstDue, rowTarget s row ≠ t) → Completes (.refreshEnd x t) s fun u => u = { s with mcs := u.mcs } ∧ (∀ y, y ≠ x → u.mcs[y] = s.mcs[y]) ∧
         u.mcs[x] = { s.mcs[x] with refreshing := s.mcs[x].refreshing.filter (· ≠ t) }) ∧
     (∀ t, s.mcs[x].refreshing.contains t = true → Completes (.refreshEnd x t) s fun u => u.dram = s.dram ∧
       t ∉ u.mcs[x].refreshing ∧ (∀ y, y ≠ x → u.mcs[y] = s.mcs[y]) ∧ ∀ row n, rowTarget s row = t →
         (row, true) ∈ s.mcs[x].owed ∧ n ∈ neighbours (geom s) row 2 ∨ row ∈ s.mcs[x].firstDue ∧ n ∈ neighbours (geom s) row 1 →
         Out.refresh x 0 (some n) ∈ u.out) ∧
     (∀ row, s.mcs[x].owed.any (fun e => e.1 = row) = true → s.mcs[x].refreshing.contains (rowTarget s row) = true →
       Completes (.neighborRefreshSlice2 x row) s fun u => u = { s with mcs := u.mcs } ∧
         u.mcs[x] = { s.mcs[x] with owed := s.mcs[x].owed.map fun e => if e.1 = row then (row, true) else e }) ∧
     (∀ row, s.mcs[x].owed.any (fun e => e.1 = row) = true → s.mcs[x].refreshing.contains (rowTarget s row) = false →
       Completes (.neighborRefreshSlice2 x row) s fun u => u.dram = s.dram ∧ (∀ y, y ≠ x → u.mcs[y] = s.mcs[y]) ∧
         ∃ more, u.out = s.out ++ ((neighbours (geom s) row 2).map fun n => .refresh x 0 (some n)) ++ more) ∧
     (Completes (.actCountWindow x) s fun u => u = { s with mcs := u.mcs } ∧ (∀ y, y ≠ x → u.mcs[y] = s.mcs[y]) ∧
       u.mcs[x] = { s.mcs[x] with acts := [] }) ∧
     (∀ (i : SolvikImage) (t0 t1 : Option Int), s.img = some i → i.dpc2 = false → sideband s.mcs[x].state = true →
       Completes (.dimmTempRead x t0 t1) s fun u => u = { s with mcs := u.mcs, headers := u.headers } ∧
         (∀ y, y ≠ x → u.mcs[y] = s.mcs[y]) ∧
         (∀ q, t0 = some q → u.mcs[x].temps[0] = q ∧ u.mcs[x].missed[0] = 0 ∧
           u.mcs[x].fastWanted = (if 340 ≤ q then true else if q < 332 then false else s.mcs[x].fastWanted) ∧
           (u.mcs[x].calRunning = (s.mcs[x].calRunning || inService s.mcs[x].state &&
             decide ((regField s (offRecalCfg x) 0 8 : Int) ≤ ((q - s.mcs[x].calTemp).natAbs : Int)))) ∧
           u.headers[blkMc x].cause = (if 4 * (i.hotLimit : Int) ≤ q then s.headers[blkMc x].cause ||| 0x80 else s.headers[blkMc x].cause)) ∧
         (t0 = none → u.mcs[x].temps = s.mcs[x].temps ∧ u.mcs[x].missed[0] = s.mcs[x].missed[0] + 1 ∧
           (3 ≤ s.mcs[x].missed[0] + 1 → u.mcs[x].fastWanted = true) ∧
           u.headers[blkMc x].cause = (if s.mcs[x].missed[0] = 2 then s.headers[blkMc x].cause ||| 0x40 else s.headers[blkMc x].cause)))) ∧
  (∀ (x : Fin 16) (s : State), ksorted s.mcs[x].cal = true →
     let was := fun k => kget calNone s.mcs[x].cal k
     (∀ v, Completes (.recalForce .germ x v) s fun t => t = { s with regs := t.regs, mcs := t.mcs } ∧
       (∀ y, y ≠ x → t.mcs[y] = s.mcs[y]) ∧ t.mcs[x] = { s.mcs[x] with calRunning := t.mcs[x].calRunning } ∧
       t.mcs[x].calRunning = (s.mcs[x].calRunning || (flag v 8 && inService s.mcs[x].state))) ∧
     (s.mcs[x].calRunning = true → inService s.mcs[x].state = true → Completes (.recalRunDone x) s fun t =>
       t = { s with mcs := t.mcs, free := t.free } ∧ (∀ y, y ≠ x → t.mcs[y] = s.mcs[y]) ∧
       t.mcs[x] = { s.mcs[x] with calRunning := false, calTemp := topTemp s x, calGen := (s.mcs[x].calGen + 1) % 2 ^ 32, cal := t.mcs[x].cal } ∧
       (∀ k, (kget calNone t.mcs[x].cal k).live = (was k).live) ∧
       (∀ k, k ∉ (calEntries s [1, 2, 3, 4, 5]).map (·.1) → kget calNone t.mcs[x].cal k = was k) ∧
       ∀ k, k ∈ (calEntries s [1, 2, 3, 4, 5]).map (·.1) → ∃ n, (kget calNone t.mcs[x].cal k).target = Config.calibration n) ∧
     (s.mcs[x].state = .active → Completes (.calStep x) s fun t => t = { s with mcs := t.mcs } ∧ (∀ y, y ≠ x → t.mcs[y] = s.mcs[y]) ∧
       t.mcs[x] = { s.mcs[x] with cal := t.mcs[x].cal } ∧ ∀ k, (kget calNone t.mcs[x].cal k).target = (was k).target ∧
         (kget calNone t.mcs[x].cal k).live = (if (was k).live < (was k).target then (was k).live + 1
           else if (was k).target < (was k).live then (was k).live - 1 else (was k).live)) ∧
     (∀ (v : Word) (k item : Nat), calSelected s x = some (k, item) → s.mcs[x].state = .active ∨ s.mcs[x].state = .powerDown →
       Completes (.calTargetWrite .germ x v) s fun t => t = { s with mcs := t.mcs } ∧ (∀ y, y ≠ x → t.mcs[y] = s.mcs[y]) ∧
         (kget calNone t.mcs[x].cal k).live = (was k).live ∧
         (kget calNone t.mcs[x].cal k).target.toNat = (if item = 6 ∨ item = 7 then field v 0 8 else field v 0 16) ∧
         ∀ j, j ≠ k → kget calNone t.mcs[x].cal j = was j) ∧
     (∀ v : Word, calSelected s x = none ∨ (s.mcs[x].state ≠ .active ∧ s.mcs[x].state ≠ .powerDown) →
       exec (.calTargetWrite .germ x v) s = .next s))

/-- R235 to R237, R241, Tables 8.18 and 9.5: the scrubber reads the next line of its channel at its rate, on an idle channel or
within its reserve, leaves a clean one, and at the end counts a lap and starts again; it does nothing while it is stopped. A CA
parity error is counted against its rank and logged, and a command that fails four retries leaves its line uncorrectable. R240,
R242 to R244, Tables 9.7 and 9.12: GO of MC_SPARE_CMD starts a copy onto a usable spare and is ignored while one is active; a
line that reads clean is written as it was read and the copy moves on; at its end the spare serves, and the copied rank is out
of service or the bank retired. SCRUB_READ, CA_PARITY_ERROR, RANK_COPY, BANK_COPY and RANK_COPY_LINE so complete, for every line
that no transaction, recovery or refresh holds (R87, R209, R243). -/
def Obligations.ScrubberAndSpareCopies : Prop :=
  (∀ (x : Fin 16) (s : State), noInjection s = true →
     (∀ noise par, s.mcs[x].scrubRun = false ∨ s.mcs[x].state ≠ .active ∨ s.domainDown = true ∨ regField s (offScrubCfg x) 32 1 = 0 →
       exec (.scrubRead x noise par) s = .next s) ∧
     (∀ (noise : Image) (par : Parity) (la : Nat) (f : Form) (img : Image) (s2 : State), s.mcs[x].scrubRun = true →
       s.mcs[x].state = .active → s.domainDown = false → regField s (offScrubCfg x) 32 1 ≠ 0 → parityAt par .channel ≠ .fatal →
       let s1 : State := { s with dtime := max s.dtime (s.mcs[x].scrubAt + scrubGapNs s x) }
       let v : State := { s1 with mcs := s1.mcs.set x { s1.mcs[x] with scrubCount := scrubsInWindow s1 x + 1, scrubAt := s1.dtime } }
       let m := mpaOf (x.val / 2) la
       chanIdle s1 x = true ∨ scrubsInWindow s1 x < regField s (offScrubCfg x) 16 8 → scrubLine s1 x 5 s.mcs[x].scrubPos = some la →
       lineFree s1 m = true → readLine m true noise .scrub ⟨m, 1, idScrub, 0xA, none⟩ (perfMc x 0x07 1 none v) = (.line f img [], s2) →
       Completes (.scrubRead x noise par) s fun t => t = { s2 with mcs := t.mcs } ∧
         (∀ l, scrubLine s2 x 5 (la + 64) = some l → t.mcs[x] = { s2.mcs[x] with scrubPos := l }) ∧
         (scrubLine s2 x 5 (la + 64) = none → t.mcs[x] = { s2.mcs[x] with
           scrubPos := (scrubLine s2 x 5 0).getD 0, laps := (s2.mcs[x].laps + 1) % 65536, lapStart := s2.dtime
           lastLap := (s2.dtime - s2.mcs[x].lapStart) / 1000000000 })) ∧
     (∀ (mpa tries : Nat), chanOf s (lineBase mpa) = x → s.mcs[x].state = .active ∨ s.mcs[x].state = .powerDown →
       regField s (offRasCfg x) 8 8 = 0 → Completes (.caParityError x mpa tries) s fun t =>
         t = { s with headers := t.headers, mcs := t.mcs } ∧ (∀ y, y ≠ x → t.mcs[y] = s.mcs[y]) ∧
         t.headers[blkMc x].cause = s.headers[blkMc x].cause ||| (if 4 < tries then 0x180000 else 0x80000) ∧
         t.mcs[x].failAt = s.mcs[x].failAt ++ (if 4 < tries then [lineBase mpa] else []) ∧
         t.mcs[x].elogHead = (s.mcs[x].elogHead + 1) % 2 ^ 32 ∧ (t.mcs[x].caRank.map (·.2)).getLast? = some s.dtime) ∧
     (∀ (mpa tries : Nat), chanOf s (lineBase mpa) ≠ x → exec (.caParityError x mpa tries) s = .next s)) ∧
  (∀ (x : Fin 16) (s : State),
     (∀ (v : Word) (c : Instr), c = .rankCopy .germ x v ∨ c = .bankCopy .germ x v → flag v 63 = true →
       let u := regWrite .whole (offSpareCmd x) v s
       let w := regGet u (offSpareCmd x)
       let bank := decide (field w 60 3 = 2)
       (s.mcs[x].copy ≠ none → exec c s = .next u) ∧
       (s.mcs[x].copy = none → field w 60 3 ≠ 0 → field w 12 2 < (geom s).ranks → (spareMask s x).testBit (field w 12 2) = false →
         s.mcs[x].remaps.length < 4 → (usableSpares u x (field w 12 2)).head? = some (field w 10 2) → Completes c s fun t =>
           t = { u with mcs := t.mcs, headers := t.headers } ∧ (∀ y, y ≠ x → t.mcs[y] = s.mcs[y]) ∧
           (∃ k, t.mcs[x].copy = some k ∧ k.bank = bank ∧ k.from_ = field w 12 2 ∧ k.to_ = field w 10 2 ∧ k.slot = none ∧
             (bank = true → k.subch = field w 8 1 ∧ k.bg = field w 4 3 ∧ k.ba = field w 0 2)) ∧
           (bank = false → t.headers[blkMc x].cause = s.headers[blkMc x].cause ||| 0x200000))) ∧
     (∀ (noise : Image) (par : Parity) (k : SpareCopy) (s1 : State), s.mcs[x].copy = some k → s.mcs[x].state = .active →
       s.domainDown = false → entering s = false → noInjection s = true → parityAt par .channel ≠ .fatal →
       let m := mpaOf (x.val / 2) k.ptr
       let next := copyLine (geom s) x k (k.ptr + 64)
       lineFree s m = true →
       (∀ f img fixed, readLine m true noise .copy ⟨m, 1, idMigration, 8, none⟩ s = (.line f img fixed, s1) → next < copyEnd (geom s) k →
         let s2 := { s1 with mcs := s1.mcs.set x { s1.mcs[x] with copy := some { k with ptr := next } } }
         exec (.rankCopyLine x noise par) s = .next (writeLine m (remask (isStrong s2 m) f img) s2)) ∧
       (copyEnd (geom s) k ≤ next → Completes (.rankCopyLine x noise par) s fun t => t.mcs[x].copy = none ∧
         (k.bank = false → t.mcs[x].bound.testBit k.to_ = true ∧ t.headers[blkMc x].cause.getLsbD 22 = true) ∧
         (k.bank = true → ⟨true, k.from_, k.to_, k.subch, k.bg, k.ba⟩ ∈ t.mcs[x].remaps ∧
           t.headers[blkMc x].cause.getLsbD 24 = true))) ∧
     (∀ noise par, s.mcs[x].copy = none ∨ s.mcs[x].state ≠ .active → exec (.rankCopyLine x noise par) s = .next s))

/-- R267, R290 to R293, Tables 11.10, 11.11, 11.13 to 11.16: the link goes from DOWN over TRAINING, ALIGN and INIT up, each
event only from its state, HELD while HOLD_DOWN is set. A lost lock, a time limit or Germ's command takes it down: the replay
buffer, the messages and the keys are gone, LAST_DOWN holds the cause, LINK_DOWN is set, and mirror writes and fetches stay
open. Every command on the state of the link so completes in the state from which Table 11.11 has its event. -/
def Obligations.TillerLinkStates : Prop :=
  ∀ s : State, tablesOrdered s = true →
    let enter (st : TilState) (now : Nat) (del : List (TilMsg × Nat)) (t : State) : Prop := t = { s with dtime := now, til := { s.til with
      state := st, enteredAt := now, quads := t.til.quads, lostAt := t.til.lostAt, delivered := del } }
    let fallen (cause : Nat) (bits : BitVec 32) (now : Nat) (t : State) : Prop :=
      t.til.state = (if flag (regGet s offTilCtl) 1 then .held else .down) ∧ t.dtime = now ∧ regField t offTilState 44 4 = cause ∧
      t.til.replayBuf = [] ∧ t.til.queue = [] ∧ t.til.delivered = s.til.delivered ∧ t.til.txKey = none ∧ t.til.rxKey = none ∧
      t.til.heldFlits = [] ∧ t.til.mirrors = s.til.mirrors ∧ t.til.fetches = s.til.fetches ∧
      t.headers[blkTiller].cause = s.headers[blkTiller].cause ||| bits ||| 0x80 ∧ t.dram = s.dram ∧ t.crypt = s.crypt
    (s.til.state = .down → flag (regGet s offTilCtl) 1 = false → Completes .tilDownIdleEnd s fun t =>
      enter .training (max s.dtime (s.til.enteredAt + 100000)) s.til.delivered t ∧ t.til.quads = 0) ∧
    (s.til.state = .training → Completes .tilLanesAdapted s (enter .align s.dtime s.til.delivered)) ∧
    (s.til.state = .training → Completes .tilTrainTimeout s (fallen 9 0x2000 (max s.dtime (s.til.enteredAt + 100000000)))) ∧
    (s.til.state = .align → Completes .tilQuadsLocked s fun t => enter .init s.dtime [] t ∧ t.til.quads = 0xF) ∧
    (s.til.state = .attest → Completes .tilAttestTimeout s (fallen 8 0x1000 (max s.dtime (s.til.enteredAt + 500000000)))) ∧
    (∀ v, flag v 0 = false → flag v 1 = false → s.til.state = .held → Completes (.holdDownWrite .germ v) s fun t =>
      t.til.state = .training ∧ t.pair = s.pair ∧ t.headers = s.headers) ∧
    (∀ v, flag v 0 = false → flag v 1 = true → s.til.state = .down → Completes (.holdDownWrite .germ v) s fun t =>
      t.til.state = .held ∧ t.pair = s.pair ∧ t.headers = s.headers) ∧
    (∀ v, flag v 0 = true → s.til.state = .up → Completes (.tilDownCommand .germ v) s fun t =>
      t.til.state = (if flag v 1 then .held else .down) ∧ regField t offTilState 44 4 = 6 ∧ t.til.replayBuf = [] ∧ t.til.txKey = none ∧
      t.til.rxKey = none ∧ t.headers[blkTiller].cause = s.headers[blkTiller].cause ||| 0x80) ∧
    (∀ q : Fin 4, tilLive s = true →
      (s.til.quads.getLsbD q = true → Completes (.symbolLockLost q) s fun t => t = { s with til := t.til, headers := t.headers } ∧
        t.til = { s.til with quads := t.til.quads, lostAt := t.til.lostAt } ∧ t.til.quads.getLsbD q = false ∧
        (∀ r : Fin 4, r ≠ q → t.til.quads.getLsbD r = s.til.quads.getLsbD r) ∧ kfind t.til.lostAt q = some (s.dtime + 1) ∧
        t.headers[blkTiller].cause = s.headers[blkTiller].cause ||| 0x40) ∧
      (ksorted s.til.lostAt = true → Completes (.symbolLockRegained q) s fun t => t = { s with til := t.til } ∧
        t.til.quads.getLsbD q = true ∧ kfind t.til.lostAt q = none) ∧
      (∀ n, kfind s.til.lostAt q = some n → Completes (.lockLoss q) s
        (fallen 1 0x40 (max s.dtime (n - 1 + 100 * regField s offTilCfg 0 10)))) ∧
      (s.til.mirrors ≠ [] ∨ s.til.fetches ≠ [] → Completes .pairTimeout s
        (fallen 5 0x800 (max s.dtime (s.til.timerAt + 1000 * regField s offTilCfg 32 10))))) ∧
    (s.til.state ≠ .down → s.til.state ≠ .held ∨ flag (regGet s offTilCtl) 1 = true → exec .tilDownIdleEnd s = .next s) ∧
    (∀ (st : TilState) (c : Instr), (st, c) ∈ [(.training, .tilLanesAdapted), (.training, .tilTrainTimeout),
      (.align, .tilQuadsLocked), (.attest, .tilAttestTimeout), (.attest, .attestDone)] → s.til.state ≠ st → exec c s = .next s)

/-- R270, R271, R278, R282 to R285, R289, Tables 11.3 and 11.12: what the receiver does with a flit. ACK frees replay entries, a
NAK sends the named flit and all after it again, a return gives credits back, also in INIT, and a value out of range or a
reserved TYPE takes the link down. A flit that is not expected is dropped; an encrypted one is held until its MAC flit verifies
its group; a failed one is counted and answered by NAK. IDLE_FLIT, DATA_FLIT, MAC_FLIT, FAILED_FLIT and NAK_RESEND so complete. -/
def Obligations.TillerReceiver : Prop :=
  (∀ (rx : RxFlit) (s : State), tablesOrdered s = true → tilReceives s = true → rx.ctl.ackValid = false → rx.ctl.nak = false →
    let x := s.til.credits[rx.ctl.crSel]
    let back := (rx.ctl.crCount + 65536 - x.retSeen) % 65536 ≤ (x.cons + 65536 - x.retSeen) % 65536
    (rx.reserved = false → back → Completes (.idleFlit rx) s fun t => t = { s with til := { s.til with
        countFecCorr := satAdd 48 s.til.countFecCorr rx.corrected, timerAt := t.til.timerAt, credits := t.til.credits } } ∧
      t.til.credits[rx.ctl.crSel] = { x with retSeen := rx.ctl.crCount % 65536 } ∧
      ∀ i : Fin 8, i ≠ rx.ctl.crSel → t.til.credits[i] = s.til.credits[i]) ∧
    (rx.reserved = true ∨ ¬ back → Completes (.idleFlit rx) s fun t => (t.til.state = .down ∨ t.til.state = .held) ∧
      regField t offTilState 44 4 = 3)) ∧
  (∀ (rx : RxFlit) (s : State), tablesOrdered s = true → tilFlows s = true → rx.reserved = false → s.til.replayBuf.length < 2049 →
    s.til.credits[rx.ctl.crSel].retSeen < 65536 → rx.ctl.crCount = s.til.credits[rx.ctl.crSel].retSeen →
    let ctl := rx.ctl
    let z : State := { s with til := { s.til with countFecCorr := satAdd 48 s.til.countFecCorr rx.corrected } }
    let d := (ctl.ack + 1 + 4096 - (s.til.txNext + 4096 - s.til.replayBuf.length % 4096) % 4096) % 4096
    let idle := ctl.ackValid = false ∧ ctl.nak = false
    let fell (cause : Nat) (c : Instr) : Prop := Completes c s fun t => (t.til.state = .down ∨ t.til.state = .held) ∧
      regField t offTilState 44 4 = cause ∧ t.til.txKey = none ∧ t.til.rxKey = none ∧ t.til.heldFlits = [] ∧ t.til.delivered = s.til.delivered
    (ctl.ackValid = true → ctl.nak = false → d ≤ s.til.replayBuf.length → Completes (.idleFlit rx) s fun t =>
      t = { z with til := { z.til with replayBuf := s.til.replayBuf.drop d, timerAt := t.til.timerAt } } ∧
      t.til.timerAt = if (s.til.replayBuf.take d).any (·.tracked) then s.dtime else s.til.timerAt) ∧
    (ctl.ackValid = true → s.til.replayBuf.length < d → fell 3 (.idleFlit rx)) ∧
    (∀ (f : TxFlit) (i : Nat), ctl.ackValid = false → ctl.nak = true → ctl.nakSeq ≠ s.til.txNext →
      (s.til.replayBuf.findIdx? fun x => x.seq = ctl.nakSeq) = some i → s.til.replayBuf[i]? = some f →
      (8 ≤ f.replays → fell 2 (.idleFlit rx)) ∧
      (f.replays < 8 → noInjection s = true → Completes (.idleFlit rx) s fun t =>
        t.til.replayBuf = s.til.replayBuf.take i ++ (s.til.replayBuf.drop i).map (fun x => { x with replays := x.replays + 1 }) ∧
        t.til.countReplay = satAdd 48 s.til.countReplay 1 ∧ t.til.txNext = s.til.txNext ∧
        s.out.length + (s.til.replayBuf.length - i) ≤ t.out.length ∧
        t.headers[blkTiller].cause = s.headers[blkTiller].cause ||| 0x20)) ∧
    (idle → ∀ (seq : Nat) (pl : BitVec 1888), seq ≠ s.til.expect →
      exec (.dataFlit rx seq pl) s = .next z ∧ exec (.macFlit rx seq pl) s = .next z) ∧
    (idle → ∀ pl : BitVec 1888,
      let seq := s.til.expect
      let went (t : State) : Prop := t.til.expect = (seq + 1) % 4096 ∧ t.til.accepted = true ∧ t.til.nakOpen = false
      (s.til.rxStarted = true → Completes (.dataFlit rx seq pl) s fun t => t = { z with til := { z.til with
        expect := (seq + 1) % 4096, accepted := true, nakOpen := false, heldFlits := s.til.heldFlits ++ [⟨seq, pl, s.dtime⟩] } }) ∧
      (∀ ms part, s.til.rxStarted = false → s.til.rxKey = none →
        let ss := s.til.rxPart ++ payloadSlots s.dtime (payloadBytes pl)
        assemble (ss.length + 1) [] ss = some (ms, part) →
        (ms.all (fun m => isSpdm m.1) = true → Completes (.dataFlit rx seq pl) s fun t => went t ∧ t.til.rxPart = part ∧
          t.til.delivered = s.til.delivered ++ ms) ∧
        (ms.all (fun m => isSpdm m.1) = false → fell 3 (.dataFlit rx seq pl))) ∧
      (s.til.rxKey = none → fell 4 (.macFlit rx seq pl)) ∧
      (∀ k, s.til.rxKey = some k → s.til.rxStarted = true → s.til.heldFlits ≠ [] →
        let held := s.til.heldFlits
        let cipher := held.flatMap fun f => payloadBytes f.payload
        let tag := gcmTag k s.til.rxGroup (groupAad (held.map (·.seq)) seq) cipher
        let bs := payloadBytes pl
        let good := bytesToNatBE (bs.take 16) = tag.toNat ∧ bytesToNat ((bs.drop 16).take 8) = s.til.rxGroup ∧
          (bs.getD 24 0).toNat = held.length
        let plain := cutBytes 236 held.length (gcmCtr k s.til.rxGroup cipher)
        let ss := s.til.rxPart ++ ((held.map (·.time)).zip plain).flatMap fun p => payloadSlots p.1 p.2
        (¬ good → fell 4 (.macFlit rx seq pl)) ∧
        (∀ ms part, good → assemble (ss.length + 1) [] ss = some (ms, part) →
          Completes (.macFlit rx seq pl) s fun t => went t ∧ t.til.delivered = s.til.delivered ++ ms ∧ t.til.rxPart = part ∧
            t.til.heldFlits = [] ∧ t.til.rxGroup = s.til.rxGroup + 1 ∧ t.til.rxVerified = true))) ∧
    (s.til.nakOpen = true → s.til.nakPending = false → exec .nakResend s = .next { s with
      dtime := max s.dtime (s.til.nakAt + 100 * regField s offTilCfg 16 7), til := { s.til with nakPending := true, replaySeen := true } })) ∧
  (∀ (crc : Bool) (n : Nat) (s : State), tilReceives s = true → crc = true ∨ 0 < n → Completes (.failedFlit crc n) s fun t =>
    t = { s with til := t.til, headers := t.headers } ∧ t.til = { s.til with
      nakOpen := true, nakPending := true, replaySeen := true, countCrc := t.til.countCrc, countFecUncorr := t.til.countFecUncorr } ∧
    t.til.countCrc = (if crc then satAdd 48 s.til.countCrc 1 else s.til.countCrc) ∧
    t.til.countFecUncorr = (if n = 0 then s.til.countFecUncorr else satAdd 48 s.til.countFecUncorr n) ∧
    t.headers[blkTiller].cause = s.headers[blkTiller].cause ||| (if crc then 8 else 0) ||| (if n = 0 then 0 else 16))

/-- R287, R291, R302, Tables 11.9 and 12.4: INIT with version 1 is answered, and with RX_SEEN both ways the link attests; an
INIT later is a restart of the peer. A delivered SPDM message is taken; a peer that fails a check of R287 takes the link down,
one that passes is sent a drawn key, the peer's key is installed and answered, and a link encrypted and verified both ways is UP
with FORM_REQ sent by a member that may form. The SPDM content is a free value (log entry 4). INIT_FLIT, TILLER_SPDM, LINK_KEY
and ATTEST_DONE so complete. -/
def Obligations.TillerAttestation : Prop :=
  ∀ s : State,
    (∀ (rx : RxFlit) (pl : BitVec 1888), rx.ctl.ackValid = false → rx.ctl.nak = false → rx.reserved = false →
      s.til.credits[rx.ctl.crSel].retSeen < 65536 → rx.ctl.crCount = s.til.credits[rx.ctl.crSel].retSeen →
      let bs := payloadBytes pl
      let adv := fun i : Nat => bytesToNat ((bs.drop (4 + 2 * i)).take 2)
      let valid := bytesToNat (bs.take 2) = 1 ∧ ∀ i, i < 8 → adv i ≤ 32767
      (s.til.state = .init →
        (¬ valid → Completes (.initFlit rx pl) s fun t => (t.til.state = .down ∨ t.til.state = .held) ∧ regField t offTilState 44 4 = 3) ∧
        (valid → ((bs.getD 2 0).getLsbD 0 && s.til.sentRxSeen) = false → exec (.initFlit rx pl) s = .next { s with til := { s.til with
          initSeen := true, countFecCorr := satAdd 48 s.til.countFecCorr rx.corrected } }) ∧
        (valid → (bs.getD 2 0).getLsbD 0 = true → s.til.sentRxSeen = true → Completes (.initFlit rx pl) s fun t =>
          t.til.state = .attest ∧ t.til.enteredAt = s.dtime ∧ (∀ i : Fin 8, t.til.credits[i] = ⟨adv i, 0, 0, 0, 0⟩) ∧
          t.til.peerHash = BitVec.ofNat 384 (bytesToNatBE ((bs.drop 20).take 48)) ∧
          t.til.queue.length = s.til.queue.length + if s.fuses.deviceHash.toNat < t.til.peerHash.toNat then 1 else 0)) ∧
      (s.til.state = .up ∨ s.til.state = .attest → Completes (.initFlit rx pl) s fun t =>
        (t.til.state = .down ∨ t.til.state = .held) ∧ regField t offTilState 44 4 = 7)) ∧
    (s.til.state = .attest →
      ((∀ d, headOf s 3 = some d → isSpdm d.1 = false) → ∀ st key fixed start,
        exec (.tillerSpdm st) s = .next s ∧ exec (.linkKey key fixed start) s = .next s) ∧
      (∀ d, headOf s 3 = some d → isSpdm d.1 = true →
        let u := takeDelivered d s
        (Completes (.tillerSpdm .exchange) s fun t => t = { u with til := { u.til with queue := t.til.queue }, free := s.free + 1 } ∧
          ∃ b, t.til.queue = s.til.queue ++ [.spdm b]) ∧
        (∀ zr so fi h, peerPasses s zr so fi h = false → Completes (.tillerSpdm (.checked zr so fi h)) s fun t =>
          (t.til.state = .down ∨ t.til.state = .held) ∧ regField t offTilState 44 4 = 8) ∧
        (∀ zr so fi h, peerPasses s zr so fi h = true → s.til.attested = false → Completes (.tillerSpdm (.checked zr so fi h)) s fun t =>
          t = { u with til := { u.til with attested := true, txNew := t.til.txNew, queue := t.til.queue }, free := s.free + 3 } ∧
          (∃ b, t.til.queue = s.til.queue ++ [.spdm b]) ∧ ∃ start, start < 4096 ∧
            t.til.txNew = some ⟨Config.randomBits s.free, (Config.randomBits (s.free + 1)).extractLsb' 0 32, start⟩) ∧
        (∀ k, s.til.txNew = some k → Completes (.tillerSpdm .keyAnswer) s fun t => t.til.txKey = some k ∧ t.til.txNew = none ∧
          t.til.rxKey = s.til.rxKey ∧ ∃ l, t.til.queue = s.til.queue ++ l ∧ l.all isSpdm = true) ∧
        (∀ key fixed start, s.til.attested = true → s.til.rxKey = none → Completes (.linkKey key fixed start) s fun t =>
          t = { u with til := { u.til with rxKey := some ⟨key, fixed, start % 4096⟩, queue := t.til.queue }, free := s.free + 1 } ∧
          ∃ b, t.til.queue = s.til.queue ++ [.spdm b]) ∧
        (∀ key fixed start, s.til.attested = false ∨ s.til.rxKey ≠ none → exec (.linkKey key fixed start) s = .next u)) ∧
      (s.til.txStarted = false ∨ s.til.rxVerified = false → exec .attestDone s = .next s) ∧
      (s.til.txStarted = true → s.til.rxVerified = true →
        let forms := s.pair.role = .detached ∨ s.pair.role = .fenced ∨ s.pair.role = .primary
        Completes .attestDone s fun t => t.til.state = .up ∧ t.til.enteredAt = s.dtime ∧ t.pair.lastHb = s.dtime ∧ t.pair.role = s.pair.role ∧
          t = { s with til := t.til, pair := t.pair } ∧
          (forms → t.pair.formSent = true ∧ t.til.queue = s.til.queue ++ [.formReq ⟨(s.img.map (·.preferred)).getD false,
            decide (s.pair.role = .primary), s.pair.fresh, s.pair.warmClean, s.pair.wasPrimary, regField s offPairState 56 8,
            (regGet s offPairGen).toNat, (s.img.map (·.compat)).getD 0, (s.img.map (·.predecessor)).getD 0⟩]) ∧
          (¬ forms → t.til.queue = s.til.queue)))

/-- R248, R253, R307, R308, Tables 11.6 and 12.5: a delivered mirror write that a JOINING or SECONDARY member receives is a
request of the partner in its LD's port: with a loaded slot, budget and Sheaf entry it joins its home's queue; a page in no
region is REFUSED, a reissued write that the dedup table holds is a DUPLICATE. MIRROR_ACK closes the open write, and with it the
transaction that waits for it; REFUSED lists its page for resynchronisation. R272, R289: a message that is not the next of its
class to be taken does nothing. MIRROR_WR, MIRROR_PWR and MIRROR_ACK so complete. -/
def Obligations.MirrorWritesAndAcks : Prop :=
  (∀ (h : MirrorHdr) (data : Line) (mask : BitVec 64) (par : Parity) (c : Instr) (msg : TilMsg) (op : HomeOp) (be : BitVec 64)
    (s : State), (c = .mirrorWr h data par ∧ msg = .mirrorWr h data ∧ op = .wr ∧ be = 0 ∨
      c = .mirrorPwr h mask data par ∧ msg = .mirrorPwr h mask data ∧ op = .wrPtl ∧ be = mask) →
    receivesMirror s = true → s.til.state = .up → s.pair.dedup.length < 16384 → noInjection s = true → portsQuiet s = true →
    parityAt par .port = .good →
    (arrivedAt s msg = none → exec c s = .next s) ∧
    (∀ now, arrivedAt s msg = some now →
      let u := takeDelivered (msg, now) s
      let p := port4 (h.ldTag / 16)
      (mirrorDup s h = true → Completes c s fun t => t.til.queue = s.til.queue ++ [.mirrorAck h.mirrorId 1] ∧
        t.pair = { s.pair with countDedup := satAdd 48 s.pair.countDedup 1 } ∧ t.dram = s.dram ∧ t.spks = s.spks ∧ t.ports = s.ports ∧
        t.headers[blkPair].cause = s.headers[blkPair].cause ||| 0x100) ∧
      (mirrorDup s h = false → regionAt s h.ldTag h.dpa = none →
        exec c s = .next { u with til := { u.til with queue := u.til.queue ++ [.mirrorAck h.mirrorId 2] } }) ∧
      (∀ rg e, mirrorDup s h = false → regionAt s h.ldTag h.dpa = some rg → (∀ r ∈ s.ports[p].reqs, r.req.rid ≠ s.seq) →
        windowOver s p = false →
        let q : Req := { rawReq s.seq (.mirror h) h.ldTag op 0 data be h.poison with
          dpa := h.dpa, region := rg.number, key := h.key, cls := h.qos, par := par }
        keyAdmits s h.ldTag h.key = true → admitsNow s p q = true → sheafHit s p h.ldTag h.dpa = some e → Completes c s fun t =>
          let m := msgOf e q s.dtime
          let k := spkOf m.mpa
          (creditOut s p k q.cls = false → t.spks[k].inbox = s.spks[k].inbox ++ [m]) ∧ (∀ j, j ≠ k → t.spks[j] = s.spks[j]) ∧
          t.dram = s.dram ∧ (∃ r ∈ t.ports[p].reqs, r.req = q ∧ r.stage = .home k) ∧ t.til.queue = s.til.queue))) ∧
  (∀ (id result now : Nat) (o : OpenMirror) (s : State), s.til.state = .up → noInjection s = true → portsQuiet s = true →
    arrivedAt s (.mirrorAck id result) = some now →
    s.til.mirrors.find? (fun o => o.mid % 4096 = id) = some o → o.page = none →
    let u := takeDelivered (.mirrorAck id result, now) s
    let k := spk8 o.spk
    ((∀ x ∈ s.spks[k].txns, x.mirror ≠ some o.mid) →
      (result ≠ 2 → exec (.mirrorAck id result) s = .next { u with
        til := { u.til with mirrors := s.til.mirrors.erase o, timerAt := s.dtime } }) ∧
      (result = 2 → s.pair.resync.length < 1024 → s.pair.resync.any (fun e => e.1 = o.ldTag && e.2.1 = pageBase o.dpa) = false →
        Completes (.mirrorAck id result) s fun t => t.til.mirrors = s.til.mirrors.erase o ∧
          t.pair = { s.pair with countRefused := satAdd 48 s.pair.countRefused 1
                                 resync := s.pair.resync ++ [(o.ldTag, pageBase o.dpa, false)] } ∧
          t.headers[blkPair].cause = s.headers[blkPair].cause ||| 4 ∧ t.dram = s.dram)) ∧
    (∀ x p l ld tag, (s.spks[k].txns.find? fun t => t.mirror = some o.mid) = some x → x.msg.req.src = .host p l ld tag → result ≠ 2 →
      homeWaits s k = true → keyFree s k x.msg x.tid → Completes (.mirrorAck id result) s fun t =>
        t.til.mirrors = s.til.mirrors.erase o ∧ (∀ y ∈ t.spks[k].txns, y.tid ≠ x.tid) ∧ othersStay s t k x.tid ∧
        ∃ rsp, t.ports[port4 p].egress = s.ports[port4 p].egress ++ [rsp] ∧ rsp.rid = x.rsp.rid ∧ rsp.kind = x.rsp.kind))

/-- R243, R305, R307, R310, Table 12.5: LINE_FETCH is answered with the line where it is mapped here, and UNMAPPED by a member
that is itself JOINING or DETACHED; LINE_DATA brings the line back or poisons it; RESYNC_REQ queues a range and RESYNC_DONE
ends one; an unmapped page is copied as RESYNC_ZERO, which blanks it at the other side. LINE_FETCH, LINE_DATA, RESYNC_REQ,
RESYNC_ZERO and RESYNC_DONE so complete for the next message of their class, LINE_FETCH and the copies once their home works on
nothing of the page (R87); RESYNC_COPY_PAGE and RESYNC_LIST_RESEND while a copy or a listed page is open. -/
def Obligations.LineRecoveryAndResync : Prop :=
  ∀ s : State, s.til.state = .up → noInjection s = true → portsQuiet s = true →
    (∀ (ld id key dpa now : Nat) (par : Parity), arrivedAt s (.lineFetch ld id key dpa) = some now → parityAt par .port = .good →
      pageAtRest ld dpa s = true →
      let c : Instr := .lineFetch ld id key dpa par
      let u := takeDelivered (.lineFetch ld id key dpa, now) s
      (s.pair.role = .joining ∨ s.pair.role = .detached → exec c s = .next (queueTil (.lineData id 2 0) u)) ∧
      (∀ r v, s.pair.role ≠ .joining → s.pair.role ≠ .detached → mappedLine ld dpa key u = (r, v) →
        exec c s = .next (queueTil (match r with
          | none => .lineData id 2 0
          | some none => .lineData id 1 0
          | some (some l) => .lineData id 0 l) v))) ∧
    (∀ (id result now : Nat) (data : Line) (f : OpenFetch), arrivedAt s (.lineData id result data) = some now → s.fw.germUp = true →
      s.domainDown = false → s.til.fetches.find? (fun f => f.fid % 4096 = id) = some f →
      Completes (.lineData id result data) s fun t => t.til.fetches = s.til.fetches.erase f ∧
        t.headers[blkMc (mc16 f.mc)].cause.getLsbD (if result = 0 then 26 else 25) = true) ∧
    (∀ (ld size dpa now : Nat) (par : Parity), arrivedAt s (.resyncReq ld size dpa) = some now → parityAt par .port ≠ .fatal →
      let u := takeDelivered (.resyncReq ld size dpa, now) s
      (parityAt par .port = .good → s.pair.role = .joining ∨ s.pair.role = .detached →
        exec (.resyncReq ld size dpa par) s = .next (queueTil (.resyncDone ld size dpa false true) u)) ∧
      (parityAt par .port = .good → s.pair.role ≠ .joining → s.pair.role ≠ .detached → exec (.resyncReq ld size dpa par) s = .next { u with
        pair := { s.pair with copies := s.pair.copies ++ [⟨ld, dpa, dpa + 2 ^ size, dpa, size, false⟩] } })) ∧
    (∀ (ld dpa now : Nat) (par : Parity) (v : State), halted s = false → s.fw.germUp = true → parityAt par .port = .good →
      arrivedAt s (.resyncZero ld dpa) = some now → blankPageStep .resync ld dpa s = (.done, v) →
      arrivedAt v (.resyncZero ld dpa) = some now → noInjection v = true →
      Completes (.resyncZero ld dpa par) s fun t =>
        t.pair.copyPages = v.pair.copyPages + 1 ∧ t.dram = v.dram ∧ t.tier = v.tier ∧
        t.til.delivered = v.til.delivered.erase (.resyncZero ld dpa, now)) ∧
    (∀ (ld size dpa now : Nat) (all failed : Bool), arrivedAt s (.resyncDone ld size dpa all failed) = some now →
      Completes (.resyncDone ld size dpa all failed) s fun t => t.dram = s.dram ∧ t.spks = s.spks ∧
      (all && !failed → t.pair.copyNeeded = false ∧ t.pair.copyDone = true ∧
        (s.pair.role = .joining → s.pair.peerSynced = true → rejectsFull s = false → t.pair.role = .secondary ∧ t.pair.synced = true)) ∧
      (!(all && !failed) → t.pair = s.pair)) ∧
    (halted s = false → entering s = false → ∀ (j : CopyJob) (rest : List CopyJob), s.pair.copies = j :: rest →
      (nextCopy s j = none → j.full = false → exec .resyncCopyPage s = .next (queueTil (.resyncDone j.ldTag j.size j.base false false)
        { s with pair := { s.pair with copies := rest } })) ∧
      (∀ ld dpa s1, nextCopy s j = some (ld, dpa) → pageAtRest ld dpa s = true →
        let j1 := { j with ldTag := ld, page := dpa + 4096 }
        let v := { s with pair := { s.pair with copies := j1 :: rest, copyPages := s.pair.copyPages + 1 } }
        mappedPage ld dpa v = (none, s1) → nextCopy s1 j1 ≠ none → exec .resyncCopyPage s = .next (queueTil (.resyncZero ld dpa) s1))) ∧
    (∀ (ld dpa : Nat) (b : Bool) (s1 : State), pairMode s = true → halted s = false → s.pair.resync = [(ld, dpa, b)] →
      (∀ o ∈ s.til.mirrors, o.page ≠ some dpa ∨ o.ldTag ≠ ld) → pageAtRest ld dpa s = true →
      mappedPage ld dpa { s with pair := { s.pair with resync := [(ld, dpa, false)] } } = (none, s1) → s1.til.mirrors = s.til.mirrors →
      s1.pair.resync = [(ld, dpa, false)] → Completes .resyncListResend s fun t => t.pair.resync = [] ∧
        t.til.queue = s1.til.queue ++ [.resyncZero ld dpa] ∧ t.dram = s1.dram)

/-- R294, R311 to R313, R315, R321, Tables 12.4 and 12.7: an SF_SYNC update becomes a shadow entry at this member's own sector
or frees one; a rejected sector is evicted by the PRIMARY; HEARTBEAT carries role, SYNCED, EPOCH and OLDEST_OPEN and restarts
the miss timer, whose end takes the link down; TIME_REQ and TIME_RSP give the SECONDARY its correction, T2 and T4 being the
times at which their flits arrived; lag drops the backlog and sends every entry. SF_SYNC, SF_REJECT, HEARTBEAT, TIME_REQ and
TIME_RSP so complete for the next message of their class; HEARTBEAT_SEND, HB_MISS, TIME_REQ_SEND and SYNC_LAG_EXPIRY when due. -/
def Obligations.ShadowHeartbeatAndTime : Prop :=
  ∀ s : State, s.til.state = .up → noInjection s = true →
    (∀ (u : SfUpdate) (now : Nat) (r : Region), receivesMirror s = true → halted s = false → arrivedAt s (.sfSync [u]) = some now →
      regionAt s u.ldTag (256 * u.sector) = some r →
      let w := takeDelivered (.sfSync [u], now) s
      (u.free = true → Completes (.sfSync [u]) s fun t => t.dram = s.dram ∧ ∀ k : Fin 8,
        t.spks[k].shadow = s.spks[k].shadow.filter (fun e => !(e.region = r.number && e.dpaSector = u.sector)) ∧ t.spks[k].sf = s.spks[k].sf) ∧
      (∀ k sec s2, u.free = false → ownSector u.ldTag u.sector (shadowFree r.number u.sector w) = (some (k, sec), s2) →
        (s2.spks[k].shadow.filter fun e => sfSet e.sector = sfSet sec).length < 16 → Completes (.sfSync [u]) s fun t =>
          t.spks[k].shadow = s2.spks[k].shadow ++ [⟨u.ldTag, r.number, u.sector, sec, u.vector, u.aliasF⟩] ∧ t.dram = s2.dram)) ∧
    (∀ (u : SfUpdate) (now : Nat), pairMode s = true → portsQuiet s = true → arrivedAt s (.sfReject u) = some now →
      (entryOfSector s u.ldTag u.sector = none → Completes (.sfReject u) s fun t =>
        t.pair = { s.pair with countReject := satAdd 48 s.pair.countReject 1
                               backlog := s.pair.backlog ++ [(s.dtime, { u with free := true })] } ∧ t.spks = s.spks ∧ t.dram = s.dram) ∧
      (∀ k pl e, entryOfSector s u.ldTag u.sector = some (k, pl, e) → e.busy = true ∨ 32 ≤ s.spks[k].evict.length →
        exec (.sfReject u) s = .next s) ∧
      (∀ k pl e, entryOfSector s u.ldTag u.sector = some (k, pl, e) → e.busy = false → s.spks[k].evict.length < 32 →
        (∀ x ∈ s.spks[k].txns, x.state = .memory ∨ x.state = .respond) → Completes (.sfReject u) s fun t =>
          t.pair.countReject = satAdd 48 s.pair.countReject 1 ∧ t.spks[k].sf = kdel s.spks[k].sf pl ∧ t.dram = s.dram)) ∧
    (s.pair.hbWithheld = false → Completes .heartbeatSend s fun t => t = { s with pair := t.pair, til := t.til } ∧
      ∃ oldest, t.til.queue = s.til.queue ++ [.heartbeat (roleCode s.pair.role) (hbSynced t) (regField s offPairState 56 8) oldest] ∧
        (s.pair.role ≠ .primary → oldest = s.dtime ∧ hbSynced t = s.pair.synced) ∧
        (s.pair.role = .primary → oldest ≤ s.dtime ∧ ∀ w ∈ t.pair.openWrites, oldest ≤ w.2)) ∧
    (∀ (role : Nat) (synced : Bool) (epoch oldest now : Nat), tablesOrdered s = true →
      arrivedAt s (.heartbeat role synced epoch oldest) = some now →
      let u := takeDelivered (.heartbeat role synced epoch oldest, now) s
      (receivesMirror s = false ∨ role ≠ 4 → exec (.heartbeat role synced epoch oldest) s = .next { u with
        pair := { s.pair with lastHb := s.dtime, peerSynced := synced, peerOldest := oldest } }) ∧
      (receivesMirror s = true → role = 4 → epoch < 256 → Completes (.heartbeat role synced epoch oldest) s fun t =>
        t.pair.lastHb = s.dtime ∧ t.pair.peerSynced = synced ∧ t.pair.peerOldest = oldest ∧ regField t offPairState 56 8 = epoch ∧
        t.pair.dedup = s.pair.dedup.filter (fun d => !(d.time + 20 < oldest)) ∧
        (synced = false → t.pair.role = .joining ∧ (s.pair.role = .secondary → t.pair.synced = false)))) ∧
    (Completes .hbMiss s fun t => (t.til.state = .down ∨ t.til.state = .held) ∧ t.dtime = max s.dtime (s.pair.lastHb + 1000 * regField s offPairCfg 8 8) ∧
      t.headers[blkPair].cause.getLsbD 9 = true ∧ t.til.mirrors = s.til.mirrors ∧ regField t offTilState 44 4 = 6) ∧
    (s.pair.role = .secondary → exec .timeReqSend s = .next { s with til := { s.til with queue := s.til.queue ++ [.timeReq s.dtime] } }) ∧
    (∀ t1 now, s.pair.role = .primary → arrivedAt s (.timeReq t1) = some now →
      exec (.timeReq t1) s = .next (queueTil (.timeRsp now s.dtime) (takeDelivered (.timeReq t1, now) s))) ∧
    (∀ (t2 t3 now : Nat) (th : Int), s.pair.role = .secondary → s.til.replaySeen = false → arrivedAt s (.timeRsp t2 t3) = some now →
      (2 * th = ((t2 : Int) - s.til.t1) - ((now : Int) - t3)) →
      let u := takeDelivered (.timeRsp t2 t3, now) s
      (1000 < th → exec (.timeRsp t2 t3) s = .next { u with
        dtime := s.dtime + th.toNat, til := { u.til with theta := th, slew := 0, slewWait := 0, holdNs := 0 } }) ∧
      (th < -1000 → exec (.timeRsp t2 t3) s = .next { u with til := { u.til with
        theta := th, slew := 0, slewWait := 0, holdNs := th.natAbs } }) ∧
      (-1000 ≤ th → th ≤ 1000 → exec (.timeRsp t2 t3) s = .next { u with til := { u.til with
        theta := th, slew := th, slewWait := 0, holdNs := 0 } })) ∧
    (∀ (n : Nat) (u : SfUpdate) (rest : List (Nat × SfUpdate)), pairMode s = true → s.pair.backlog = (n, u) :: rest →
      s.pair.backlog.length ≤ 4096 → Completes .syncLagExpiry s fun t =>
        t = { s with dtime := max s.dtime (n + 1000 * regField s offPairCfg 0 8), pair := t.pair } ∧ t.pair.lagging = true ∧
        t.pair.peerSynced = false ∧ t.pair.backlog.length = (s.spks.toList.map fun k => k.sf.length).sum ∧
        ∀ e ∈ t.pair.backlog, e.2.free = false)

/-- R302 to R304, R314, R318, R326, Table 12.8: of two compatible requests the owner becomes PRIMARY, drops the fence and
answers 1 µs later; the other joins on that answer; incompatible or both-serving requests are refused with HOLD_DOWN.
FORM_WAIT makes a lone member PRIMARY. A PRIMARY without its partner resolves what is open and counts a generation; one that
loses its grace is DETACHED. FORM_REQ, FORM_RSP and LEAVE so complete for the next message of their class, FORM_RSP_SEND,
FORM_WAIT_EXPIRY, PRIMARY_RESOLVE_OPEN and PROMOTE_GRACE_EXPIRY when due. -/
def Obligations.FormingAndPartnerLoss : Prop :=
  ∀ s : State, noInjection s = true → portsQuiet s = true → tablesOrdered s = true →
    (∀ (r : FormReq) (now : Nat), arrivedAt s (.formReq r) = some now → s.til.state = .up → s.pair.formSent = true →
      s.pair.peerReq = none → s.pair.role = .detached ∨ s.pair.role = .fenced ∨ s.pair.role = .primary →
      (compatible (ownForm s) r = false ∨ formOwner (ownForm s) r true = none → Completes (.formReq r) s fun t =>
        (∃ code, t.til.queue = s.til.queue ++ [.formRsp code false false] ∧ (code = 1 ↔ compatible (ownForm s) r = false) ∧ (code = 1 ∨ code = 2)) ∧
        flag (regGet t offTilCtl) 1 = true ∧ t.headers[blkPair].cause = s.headers[blkPair].cause ||| 2 ∧ t.pair.role = s.pair.role) ∧
      (compatible (ownForm s) r = true → (∀ b, formOwner (ownForm s) r b = some true) → s.pair.role ≠ .fenced →
        Completes (.formReq r) s fun t => t.pair.role = .primary ∧ t.pair.fenceOut = false ∧ t.pair.formOutcome = some (formCopy (ownForm s) r) ∧ t.pair.formAt = s.dtime ∧
        t.pair.peerReq = some r ∧ t.til.queue = s.til.queue) ∧
      (compatible (ownForm s) r = true → (∀ b, formOwner (ownForm s) r b = some false) ∨
        (∃ b, formOwner (ownForm s) r b ≠ none) ∧ s.pair.role = .fenced → Completes (.formReq r) s fun t =>
        t.pair = { s.pair with peerReq := some r } ∧ t.til.queue = s.til.queue)) ∧
    (∀ copy, s.til.state = .up → s.pair.role = .primary → s.pair.formOutcome = some copy → Completes .formRspSend s fun t =>
      t = { s with dtime := max s.dtime (s.pair.formAt + 1000), pair := t.pair, til := t.til } ∧
      t.til.queue = s.til.queue ++ [.formRsp 0 copy true] ∧ t.pair.partnered = true ∧ t.pair.formOutcome = none ∧
      t.pair.copies = (if copy then [fullCopy] else []) ∧ t.pair.resync = [] ∧ t.pair.backlog = []) ∧
    (∀ (r : FormReq) (copy : Bool) (now : Nat), arrivedAt s (.formRsp 0 copy true) = some now → s.til.state = .up →
      s.pair.role = .detached ∨ s.pair.role = .fenced → s.pair.peerReq = some r → r.epoch < 256 → Completes (.formRsp 0 copy true) s fun t => (t.pair.role = .joining ∨ t.pair.role = .secondary) ∧ t.pair.copyNeeded = copy ∧
        (copy = true → t.pair.role = .joining) ∧ (copy = false → t.pair.role = .secondary ∧ t.pair.synced = true) ∧ t.pair.dedup = [] ∧
        t.pair.fenceIn = false ∧ regField t offPairState 56 8 = r.epoch ∧ ∀ k : Fin 8, t.spks[k].shadow = [] ∧ t.spks[k].rejects = []) ∧
    (∀ result now, result ≠ 0 → arrivedAt s (.formRsp result false false) = some now →
      exec (.formRsp result false false) s = .next (takeDelivered (.formRsp result false false, now) s)) ∧
    (s.pair.role = .detached → s.pair.formSent = false → s.pair.peerOwn = false → s.domainDown = false → s.bring.released = true → coreOn s = true →
      Completes .formWaitExpiry s fun t => t.pair.role = .primary ∧ t.pair.fenceOut = true ∧ regGet t offPairGen = regGet s offPairGen + 1 ∧
        t.dtime = max s.dtime (s.pair.startAt + 1000000 * regField s offPairCfg 32 16 * (if isPreferred s then 1 else 2))) ∧
    (s.pair.role = .primary → s.pair.resolveDue = true → pairMode s = false → Completes .primaryResolveOpen s fun t =>
      t.til.mirrors = [] ∧ t.til.fetches = [] ∧ t.headers[blkPair].cause.getLsbD 6 = true) ∧
    (s.pair.role = .primary → s.pair.resolveDue = true → s.til.mirrors = [] → s.til.fetches = [] → Completes .primaryResolveOpen s fun t =>
      t = { s with dtime := max s.dtime (s.pair.downAt + 1000), regs := t.regs, headers := t.headers
                   pair := { s.pair with resolveDue := false, resync := [] } } ∧
      regGet t offPairGen = regGet s offPairGen + 1 ∧ t.headers[blkPair].cause = s.headers[blkPair].cause ||| 0x40) ∧
    (∀ now, arrivedAt s .leave = some now → s.pair.role = .primary → Completes .leaveMsg s fun t => t.pair.partnered = false ∧ t.pair.fenceOut = true ∧
      t.pair.resolveDue = true ∧ t.pair.downAt = s.dtime ∧ t.pair.role = .primary ∧ t.dram = s.dram) ∧
    (receivesMirror s = true → s.til.state ≠ .up → s.pair.promotion = .idle → Completes .promoteGraceExpiry s fun t =>
      t.pair.role = .detached ∧ t.pair.synced = false ∧ t.til.mirrors = []) ∧
    (receivesMirror s = true → s.til.state ≠ .up → s.pair.promotion = .idle → s.til.mirrors = [] → s.til.fetches = [] →
      exec .promoteGraceExpiry s = .next { s with
        dtime := max s.dtime (s.pair.downAt + 1000 * regField s offPairCfg 16 8)
        pair := { s.pair with role := .detached, synced := false, partnered := false, copies := [] } })

/-- R298 to R301, Tables 12.2, 12.9 and 12.10: a fence seen low stops the member's ports and drops its ownership; PAIR_OWN_N
is asserted 1 µs after the peer's went high, given up by the member that is not preferred when both assert, and released by
the watchdog. R317, R322, R326, R328, R435, Tables 12.2 and 12.12: a SYNCED member whose peer has released ownership takes the
link down and, once every delivered mirror message is sealed, is PRIMARY with a new EPOCH and GEN and its ports enabled; the
reissue window ends with the dedup table. PAIR_CTL hands over or leaves; HANDOVER, once nothing is open, makes the sender
JOINING and its partner promote; a leaving member keeps the fence that it drives (R300). PAIR_FENCE_LOW, PAIR_FENCE_RELEASED,
OWN_ASSERT, OWN_CONFLICT, WATCHDOG_EXPIRY, PAIR_PEER_OWN_N_CHANGE, PROMOTE_START, PROMOTE_SEALED, REISSUE_WINDOW_END, the
PAIR_CTL writes, HANDOVER_SEND and HANDOVER so complete. -/
def Obligations.OwnershipAndPromotion : Prop :=
  (∀ s : State,
     (s.pair.role ≠ .none → s.pair.fenceOut = false → Completes .pairFenceLow s fun t =>
       t = { s with ports := t.ports, pair := t.pair, headers := t.headers } ∧ t.pair.fenceIn = true ∧ t.pair.own = false ∧
       (∀ p : Fin 4, t.ports[p] = if s.ports[p].state = .enabled then { s.ports[p] with state := .drained, enableQueued := true } else s.ports[p]) ∧
       (s.pair.role = .detached ∨ receivesMirror s = true → t.pair.role = .fenced ∧ t.pair.synced = false ∧
         t.headers[blkPair].cause = s.headers[blkPair].cause ||| 0x80) ∧
       (s.pair.role = .primary → t.pair.role = .primary ∧ t.headers = s.headers)) ∧
     (s.pair.fenceOut = true → exec .pairFenceLow s = .next s) ∧
     (s.pair.role = .fenced → portsQuiet s = true →
       exec .pairFenceReleased s = .next { s with pair := { s.pair with fenceIn := false, role := .detached } }) ∧
     (s.pair.role ≠ .fenced → portsQuiet s = true → (∀ p : Fin 4, s.ports[p].state ≠ .drained) →
       exec .pairFenceReleased s = .next { s with pair := { s.pair with fenceIn := false } }) ∧
     (mayOwn s = true → s.pair.own = false → s.pair.peerOwn = false → Completes .ownAssert s fun t =>
       t = { s with dtime := max s.dtime (s.pair.peerOwnSince + 1000), pair := t.pair } ∧
       t.pair = { s.pair with own := true, ownSampleAt := t.dtime }) ∧
     (mayOwn s = false ∨ s.pair.peerOwn = true → exec .ownAssert s = .next s) ∧
     (s.pair.own = true → s.dtime ≤ s.pair.ownSampleAt + 1000 →
       (isPreferred s = true → exec .ownConflict s = .next { s with pair := { s.pair with peerOwn := true } }) ∧
       (isPreferred s = false →
         exec .ownConflict s = .next (raise blkPair 10 Cap.none { s with pair := { s.pair with peerOwn := true, own := false } }))) ∧
     (s.pair.reissueOpen = true → Completes .reissueWindowEnd s fun t => t.dtime = max s.dtime s.pair.reissueEnd ∧ t.pair.reissueOpen = false ∧
       t.pair.dedup = [] ∧ t.queue = { s.queue with recovery := (s.queue.recovery ++ (s.pair.dedup.filter (·.src)).map recoveryOf).take 16384 } ∧
       t.pair.role = s.pair.role ∧ t.dram = s.dram) ∧
     exec .watchdogExpiry s = .next { s with pair := { s.pair with own := false, watchdog := true } } ∧
     exec (.pairPeerOwnNChange false) s = .next { s with pair := { s.pair with peerOwn := true } } ∧
     exec (.pairPeerOwnNChange true) s = .next { s with pair := { s.pair with
       peerOwn := false, peerOwnSince := if s.pair.peerOwn then s.dtime else s.pair.peerOwnSince } }) ∧
  (∀ s : State, portsQuiet s = true → tablesOrdered s = true →
     (receivesMirror s = true → s.pair.peerOwn = false → s.pair.promotion = .idle → s.pair.synced = true → s.domainDown = false →
       s.pair.fenceIn = false → entering s = false → Completes .promoteStart s fun t => t.pair.promotion = .draining ∧
         (t.til.state = .down ∨ t.til.state = .held) ∧ t.dtime = max s.dtime (s.pair.peerOwnSince + 1000) ∧ t.til.delivered = s.til.delivered) ∧
     (s.pair.synced = false → s.pair.syncedAtDown = false → exec .promoteStart s = .next s) ∧
     (s.pair.promotion = .draining → receivesMirror s = true → mirrorsPending s = false → s.pair.peerOwn = false → ownable s = true →
       s.til.mirrors = [] → s.til.fetches = [] → (∀ k : Fin 8, s.spks[k].shadow = [] ∧ s.spks[k].rejects = []) → noRequests s = true →
       Completes .promoteSealed s fun t => t.pair.role = .primary ∧ t.pair.own = true ∧ t.pair.fenceOut = true ∧ t.pair.synced = false ∧
         t.pair.oldEpoch = regField s offPairState 56 8 ∧ regField t offPairState 56 8 = (regField s offPairState 56 8 + 1) % 256 ∧
         regGet t offPairGen = regGet s offPairGen + 1 ∧ t.pair.reissueOpen = true ∧ (∀ k : Fin 8, t.spks[k].orderedActive = true) ∧
         t.headers[blkPair].cause.getLsbD 5 = true ∧ t.dtime = max s.dtime (s.pair.peerOwnSince + 1000)) ∧
     (mirrorsPending s = true ∨ ownable s = false → exec .promoteSealed s = .next s) ∧
     (∀ v, flag v 1 = true → flag v 0 = false → mayHandover s = true →
       exec (.pairCtlHandover .germ v) s = .next { s with pair := { s.pair with handover := true } }) ∧
     (∀ v, flag v 1 = false → flag v 0 = true → mayLeave s = true → Completes (.pairCtlLeave .germ v) s fun t =>
       t.pair.role = .detached ∧ t.pair.own = false ∧ t.pair.fenceOut = s.pair.fenceOut ∧ t.til.mirrors = [] ∧
       (s.til.mirrors = [] → s.til.fetches = [] → t.til.queue = s.til.queue ++ if s.til.state = .up then [.leave] else [])) ∧
     (handoverReady s = true → noRequests s = true → Completes .handoverSend s fun t => t.pair.role = .joining ∧ t.pair.own = false ∧
       t.pair.handover = false ∧ t.pair.copyNeeded = true ∧ t.pair.dedup = [] ∧
       t.til.queue = s.til.queue ++ [.handover ((regField s offPairState 56 8 + 1) % 256)] ∧
       (∀ k : Fin 8, t.spks[k].sf = [] ∧ t.spks[k].shadow = []) ∧
       ∀ p : Fin 4, t.ports[p].state = if s.ports[p].state = .enabled then .drained else s.ports[p].state) ∧
     (handoverReady s = false → exec .handoverSend s = .next s) ∧
     (∀ e now, noInjection s = true → arrivedAt s (.handover e) = some now → s.pair.role = .secondary → s.pair.synced = true →
       entering s = false → Completes (.handoverMsg e) s fun t => t.pair.promotion = .draining ∧ (t.til.state = .down ∨ t.til.state = .held) ∧
         regField t offPairState 56 8 = (e + 255) % 256))

/-- R427 to R429, R435, Tables 17.14 and 17.15: only Germ and the link that carries its LD write a pair. Setting ENABLE starts
the pair afresh, clearing it completes every descriptor that has not started ABORTED; a moved SQ_TAIL lets the engine take
descriptors while the completion ring has room for them, and a moved CQ_HEAD makes room; a pair that is not enabled ignores
both. -/
def Obligations.QueuePairRegisters : Prop :=
  ∀ (m : Master) (n : Fin 64) (v : Word) (s : State),
    (mayWritePair s m n = false → Completes (.qpEnable m n v) s (Refused blkQueue m (offPair n) s) ∧
      Completes (.sqTailWrite m n v) s (Refused blkQueue m (offPair n + 8) s) ∧
      Completes (.cqHeadWrite m n v) s (Refused blkQueue m (offPair n + 0x18) s)) ∧
    (mayWritePair s m n = true →
      let q := qpAt s n
      (flag v 0 = true → q.enable = false → Completes (.qpEnable m n v) s fun t => t = { s with queue := t.queue } ∧
        qpAt t n = { q with enable := true, sqTail := 0, sqHead := 0, cqHead := 0, cqTail := 0, phase := true, cq := [], plainServed := false } ∧
        t.queue.recovery = (if q.plainServed then s.queue.recovery.filter (fun r => decide (r.pair ≠ n.val)) else s.queue.recovery)) ∧
      (flag v 0 = true → q.enable = true → exec (.qpEnable m n v) s = .next s) ∧
      (flag v 0 = false → q.enable = true → (q.taken.map (·.cmd)).Nodup → q.cqTail < 64 → ksorted s.queue.pairs = true → Completes (.qpEnable m n v) s fun t =>
        (qpAt t n).enable = false ∧ (qpAt t n).taken = q.taken.filter (·.started) ∧ t.dram = s.dram ∧
        (qpAt t n).cqTail = (q.cqTail + (q.taken.filter fun x => !x.started).length) % 64) ∧
      (∀ x, flag v 0 = false → q.enable = true → q.taken = [x] → x.started = false → q.cqTail < 64 → ksorted s.queue.pairs = true →
        Completes (.qpEnable m n v) s fun t =>
          (qpAt t n).cq = kset 0 q.cq q.cqTail (cqEntry x.cmd q.phase (fin 10 0) (dUser x.desc)) ∧ (qpAt t n).taken = []) ∧
      (q.enable = false → exec (.sqTailWrite m n v) s = .next s ∧ exec (.cqHeadWrite m n v) s = .next s) ∧
      (pairServes s n = true → q.sqHead < 64 →
        let d := kget 0 q.sq q.sqHead
        let got : Taken := ⟨dCmdId d, d, false, false, false, 0, false, 0, none, 0, false⟩
        (field v 0 6 = (q.sqHead + 1) % 64 → q.taken.length + (q.cqTail + 64 - q.cqHead) % 64 < 63 → Completes (.sqTailWrite m n v) s fun t =>
          t = { s with queue := t.queue } ∧ qpAt t n = { q with
            sqTail := field v 0 6, sqHead := (q.sqHead + 1) % 64, taken := q.taken ++ [got], plainServed := q.plainServed || !dResubmit d }) ∧
        (63 ≤ q.taken.length + (q.cqTail + 64 - q.cqHead) % 64 → Completes (.sqTailWrite m n v) s fun t =>
          t = { s with queue := t.queue } ∧ qpAt t n = { q with sqTail := field v 0 6 }) ∧
        (q.sqTail = (q.sqHead + 1) % 64 → q.taken.length + (q.cqTail + 64 - field v 0 6) % 64 < 63 → Completes (.cqHeadWrite m n v) s fun t =>
          t = { s with queue := t.queue } ∧ qpAt t n = { q with
            cqHead := field v 0 6, sqHead := (q.sqHead + 1) % 64, taken := q.taken ++ [got], plainServed := q.plainServed || !dResubmit d })))

/-- R430, R432, R433, R435, Tables 17.6 to 17.9: before any other step a descriptor that Table 17.8 does not allow completes
BAD_DESC; a command waits behind an earlier one on its lines, seeks admission at its LD's port, and an admitted one completes
RANGE, KEY or NOT_ELASTIC where that check fails, and starts where all pass; FLUSH and LOOPBACK start at once; a resubmitted
atomic with a recorded result completes DUPLICATE. BAD_DESC so completes. -/
def Obligations.DescriptorChecks : Prop :=
  ∀ (n : Fin 64) (i : Nat) (x : Taken) (s : State), portsQuiet s = true → noInjection s = true → pairServes s n = true →
    (qpAt s n).sqHead = (qpAt s n).sqTail → ((qpAt s n).taken.map (·.cmd)).Nodup → takenOf s n i = some x → x.started = false →
    let d := x.desc
    let p := port4 (n.val / 16)
    let key := (dKeyIndex s n d).getD 0
    (badDescriptor d = true → exec (.badDesc n i) s = .next (complete n i (fin 4 0) s)) ∧
    (badDescriptor d = false → exec (.badDesc n i) s = .next s) ∧
    (∀ (op : Nat) (c : Instr) (failures : BitVec 128), (op, c) ∈ [(0x40, .flush n i), (0x50, .loopback n i failures)] → dOpcode d = op →
      (badDescriptor d = true → exec c s = .next (complete n i (fin 4 0) s)) ∧
      (badDescriptor d = false → exec c s = exec c (updTaken n i (fun u => { u with started := true }) s))) ∧
    (∀ (op : Nat) (par : Parity) (c : Instr), (∀ st, parityAt par st = .good) → (op, c) ∈
        [(0x01, .zero n i par), (0x02, .discard n i par), (0x03, .copy n i par), (0x10, .fetchAdd n i par), (0x11, .swap n i par),
          (0x12, .cas8 n i par), (0x13, .cas16 n i par), (0x20, .hintHot n i par), (0x21, .hintCold n i par), (0x30, .cqPin n i par),
          (0x31, .cqUnpin n i par)] →
      (dOpcode d ≠ op → exec c s = .next s) ∧
      (dOpcode d = op → badDescriptor d = true → exec c s = .next (complete n i (fin 4 0) s)) ∧
      (∀ r, dOpcode d = op → badDescriptor d = false → recorded s n d = some r →
        exec c s = .next (complete n i ⟨0, 1, r.result, r.casOk, true⟩ s)) ∧
      (dOpcode d = op → badDescriptor d = false → recorded s n d = none → behind s n i d = true → exec c s = .next s) ∧
      (dOpcode d = op → badDescriptor d = false → recorded s n d = none → behind s n i d = false →
        (x.admitted = false → noRequests s = true → windowOver s p = false → s.pair.handover = true ∨
          budgetAdmits s p (if (dKeyIndex s n d).isSome then (slotCopy s p key).cls else 0) = false → Completes c s fun t =>
            (∃ r ∈ t.ports[p].reqs, r.stage = .hold ∧ r.req.src = .cq n i 0 ∧ r.req.ldTag = n.val ∧ r.req.key = key) ∧
            t.queue = s.queue ∧ t.dram = s.dram ∧ t.spks = s.spks) ∧
        (x.admitted = true → dInRange s n d = false → exec c s = .next (complete n i (fin 5 0) s)) ∧
        (x.admitted = true → dInRange s n d = true → x.contained = false → keyAdmits s n key = false →
          exec c s = .next (complete n i (fin 1 0) (raise blkCrypt 1 ⟨dDpa d, 2, n, dAccess d, some key⟩ s))) ∧
        (x.admitted = true → dInRange s n d = true → keyAdmits s n key = true → dElasticOk s n d = false →
          exec c s = .next (complete n i (fin 9 0) s)) ∧
        (x.admitted = true → dInRange s n d = true → keyAdmits s n key = true ∨ x.contained = true → dElasticOk s n d = true →
          exec c s = exec c (updTaken n i (fun u => { u with started := true, key := key }) s))))

/-- R196, R430, R431, R433, R436, Tables 17.7 to 17.9: FLUSH completes when nothing earlier is open, its entry written whole
at CQ_TAIL with the lap's PHASE; PIN, UNPIN and LOOPBACK complete with their result; a ZERO, DISCARD or hint takes its pages
in turn; a COPY line or an atomic goes to the home of its line under the descriptor's key. While Germ restarts what needs it
waits (R24). Every command of a queue pair but BAD_DESC so completes. -/
def Obligations.StartedCommands : Prop :=
  ∀ (n : Fin 64) (i : Nat) (x : Taken) (par : Parity) (s : State), portsQuiet s = true → noInjection s = true → pairServes s n = true →
    (qpAt s n).sqHead = (qpAt s n).sqTail → takenOf s n i = some x → x.started = true → parityAt par .sheaf = .good →
    let q := qpAt s n
    let d := x.desc
    let p := port4 (n.val / 16)
    (dOpcode d = 0x40 → earlier s n i = [] → Completes (.flush n i) s fun t => t = { s with queue := t.queue } ∧ qpAt t n = { q with
      cq := kset 0 q.cq q.cqTail (cqEntry x.cmd q.phase (fin 0 0) (dUser d)), cqTail := (q.cqTail + 1) % 64
      phase := if q.cqTail = 63 then !q.phase else q.phase, taken := q.taken.erase x }) ∧
    (dOpcode d = 0x40 → earlier s n i ≠ [] → exec (.flush n i) s = .next s) ∧
    (∀ failures, dOpcode d = 0x50 →
      (groupFree s (dSrc d) = false → exec (.loopback n i failures) s = .next (complete n i (fin 12 0) s)) ∧
      (groupFree s (dSrc d) = true → exec (.loopback n i failures) s =
        .next (complete n i ⟨if failures &&& loopbackBits (dSrc d) = 0 then 0 else 13, 0, failures &&& loopbackBits (dSrc d), false, false⟩ s))) ∧
    (∀ r, s.fw.germUp = true → rangeRegion s n (dDpa d) (2 ^ ((dOperand d).toNat % 64)) = some r →
      (∀ s1, dOpcode d = 0x30 → pinRange n (dDpa d) ((dOperand d).toNat % 64) r s = some s1 → portsQuiet s1 = true →
        Completes (.cqPin n i par) s fun t => t.queue = (complete n i (fin 0 0) s1).queue ∧ t.ports[p].pins = s1.ports[p].pins ∧
          t.ports[p].sheaf = s1.ports[p].sheaf) ∧
      (dOpcode d = 0x30 → pinRange n (dDpa d) ((dOperand d).toNat % 64) r s = none → exec (.cqPin n i par) s = .next (complete n i (fin 11 0) s)) ∧
      (dOpcode d = 0x31 → exec (.cqUnpin n i par) s =
        .next (complete n i (fin 0 0) (unpinRange n (dDpa d) ((dOperand d).toNat % 64) r s)))) ∧
    (∀ (op : Nat) (c : Instr), s.fw.germUp = false →
      (op, c) ∈ [(0x01, .zero n i par), (0x02, .discard n i par), (0x30, .cqPin n i par), (0x31, .cqUnpin n i par)] ∨
        (op, c) ∈ [(0x20, .hintHot n i par), (0x21, .hintCold n i par)] ∧ x.unit < dCount d ∧
          sheafHit s p n (dDpa d + 4096 * x.unit) = none → dOpcode d = op → exec c s = .next s) ∧
    (∀ (c : Instr) (s1 : State), (dOpcode d = 0x01 ∧ c = .zero n i par ∨ dOpcode d = 0x02 ∧ c = .discard n i par) → s.fw.germUp = true →
      dCount d = 1 → x.unit = 0 → x.wait = 0 → pageMoving s n (dDpa d) = false → pageTaken s n i (dDpa d) = false → x.cmd = i → q.taken = [x] →
      (cqPage n (dDpa d) x.key s = (.unbacked, s1) → s1.queue = s.queue → portsQuiet s1 = true → Completes c s fun t =>
        (qpAt t n).taken = [] ∧ (qpAt t n).cqTail = (q.cqTail + 1) % 64 ∧ t.dram = s1.dram) ∧
      (cqPage n (dDpa d) x.key s = (.fault, s1) → s1.queue = s.queue → portsQuiet s1 = true → Completes c s fun t =>
        (qpAt t n).cq = kset 0 q.cq q.cqTail (cqEntry x.cmd q.phase (fin 8 0) (dUser d)) ∧ (qpAt t n).cqTail = (q.cqTail + 1) % 64) ∧
      (∀ e, cqPage n (dDpa d) x.key s = (.leaf e, s1) → policyRefuses x e = true → s1.queue = s.queue → portsQuiet s1 = true →
        Completes c s fun t => (qpAt t n).cq = kset 0 q.cq q.cqTail (cqEntry x.cmd q.phase (fin 6 0) (dUser d))) ∧
      (∀ e s2, cqPage n (dDpa d) x.key s = (.leaf e, s1) → policyRefuses x e = false → blankPageStep (.command n i) n (dDpa d) s1 = (.waits, s2) →
        s2.queue = s.queue → portsQuiet s2 = true → Completes c s fun t => (qpAt t n).taken = [{ x with wait := 2 }] ∧ t.dram = s2.dram) ∧
      (∀ e s2, cqPage n (dDpa d) x.key s = (.leaf e, s1) → policyRefuses x e = false → blankPageStep (.command n i) n (dDpa d) s1 = (.done, s2) →
        s2.queue = s.queue → portsQuiet s2 = true → pageMoving s2 n (dDpa d) = false → Completes c s fun t => (qpAt t n).taken = [] ∧
          (qpAt t n).cq = kset 0 q.cq q.cqTail (cqEntry x.cmd q.phase (fin 0 1) (dUser d)) ∧ t.dram = s2.dram ∧
          t.til.queue = s2.til.queue ++ if pairMode s2 then [.resyncZero n (dDpa d)] else [])) ∧
    (∀ (c : Instr) (hot : Bool) (e : Word) (s1 : State), (dOpcode d = 0x20 ∧ c = .hintHot n i par ∧ hot = true ∨ dOpcode d = 0x21 ∧ c = .hintCold n i par ∧ hot = false) →
      s.fw.germUp = true ∨ (sheafHit s p n (dDpa d)).isSome → dCount d = 1 → x.unit = 0 → x.cmd = i → q.taken = [x] → cqPage n (dDpa d) x.key s = (.leaf e, s1) → policyRefuses x e = false →
      s1.queue = s.queue → portsQuiet s1 = true → Completes c s fun t => (qpAt t n).taken = [] ∧ (qpAt t n).cqTail = (q.cqTail + 1) % 64 ∧ t.dram = s1.dram ∧
        ∀ k : Fin 8, t.spks[k].hot = (hintPage hot n (dDpa d) e s1).spks[k].hot) ∧
    (∀ (c : Instr) (o : Nat) (op : HomeOp) (dpa : Nat) (data : Line) (poison : Bool) (e : SheafEntry),
      (o = 0x03 ∧ x.wait = 0 ∧ c = .copy n i par ∧ op = .cqRead ∧ dpa = dSrc d + 64 * x.unit ∧ data = 0 ∧ poison = false ∨
       o = 0x03 ∧ x.wait = 4 ∧ c = .copy n i par ∧ op = .cqWrite ∧ dpa = dDpa d + 64 * x.unit ∧ data = x.buf.getD 0 ∧ poison = false ∨
       o = 0x03 ∧ x.wait = 5 ∧ c = .copy n i par ∧ op = .cqWrite ∧ dpa = dDpa d + 64 * x.unit ∧ data = 0 ∧ poison = true ∨
       x.wait = 0 ∧ dpa = dDpa d ∧ data = 0 ∧ poison = false ∧
        (o = 0x10 ∧ c = .fetchAdd n i par ∧ op = .atomic .fetchAdd (dOperand d) (dCompare d) (dDpa d % 64) ∨
         o = 0x11 ∧ c = .swap n i par ∧ op = .atomic .swap (dOperand d) (dCompare d) (dDpa d % 64) ∨
         o = 0x12 ∧ c = .cas8 n i par ∧ op = .atomic .cas8 (dOperand d) (dCompare d) (dDpa d % 64) ∨
         o = 0x13 ∧ c = .cas16 n i par ∧ op = .atomic .cas16 (dOperand d) (dCompare d) (dDpa d % 64))) →
      dOpcode d = o → sheafHit s p n dpa = some e → (e.keyPolicy = false ∨ dExplicit d = false ∨ x.contained = true) → Completes c s fun t =>
        (∃ m, (creditOut s p (spkOf m.mpa) m.req.cls = false → t.spks[spkOf m.mpa].inbox = s.spks[spkOf m.mpa].inbox ++ [m]) ∧
          (creditOut s p (spkOf m.mpa) m.req.cls = true → t.spks[spkOf m.mpa].inbox = s.spks[spkOf m.mpa].inbox ++ [m] ∨
            t.ports[p].creditWait = s.ports[p].creditWait ++ [m]) ∧ m.req.src = .cq n i x.unit ∧ m.req.op = op ∧ m.req.dpa = dpa ∧
          m.req.key = x.key ∧ m.req.data = data ∧ m.req.poisoned = poison ∧ m.req.ldTag = n.val ∧ m.packed.isSome = e.packed) ∧
        t.dram = s.dram ∧ t.out = s.out ∧ ∀ y ∈ (qpAt t n).taken, y.cmd = i → y.wait = 1)

/-- R48, R341, R378, R423, Table 2.5: a command rung while its link is down or in reset, or while the mailbox is not ready or
has a command open, has no effect; while Bran is down the doorbell stays set; Germ serves six commands in recovery and answers
every other one Unsupported; and a command that is served completes with its return code and payload. Table 2.5, R48: what the
commands that no other statement covers answer and store. No log has an interrupt; a policy that asks for one is Invalid
Input; the timestamp counts on from what was set; all capacity is volatile; the LD commands are for MLD links; where CXL 3.1
leaves bytes to the device they are free, and nothing else changes. Every mailbox command so completes where it is served. -/
def Obligations.MailboxCommands : Prop :=
  (∀ (p l : Fin 4) (ld : Fin 16) (log action slot off len dpa lines ns st other : Nat) (all online : Bool) (handles modes : List Nat)
     (bytes : List Byte) (v : Word) (data : Line) (s : State), mboxOpcodes.contains other = false →
     ∀ (op : Nat) (c : Instr), (op, c) ∈
       [(0x0001, .identify p l), (0x0002, .backgroundOperationStatus p l), (0x0003, .getResponseMessageLimit p l),
         (0x0100, .getEventRecords p l log), (0x0101, .clearEventRecords p l log all handles), (0x0102, .getEventInterruptPolicy p l),
         (0x0103, .setEventInterruptPolicy p l modes), (0x0200, .getFwInfo p l), (0x0201, .transferFw p l action slot off bytes),
         (0x0202, .activateFw p l online slot), (0x0300, .getTimestamp p l), (0x0301, .setTimestamp p l ns), (0x0400, .getSupportedLogs p l),
         (0x0401, .getLog p l off len), (0x4000, .identifyMemoryDevice p l), (0x4100, .getPartitionInfo p l), (0x4200, .getHealthInfo p l),
         (0x4201, .getAlertConfiguration p l), (0x4202, .setAlertConfiguration p l v), (0x4203, .getShutdownState p l),
         (0x4204, .setShutdownState p l st), (0x4300, .getPoisonList p l ld dpa lines), (0x4301, .injectPoison p l ld dpa),
         (0x4302, .clearPoison p l ld dpa data), (0x4303, .getScanMediaCapabilities p l ld dpa lines), (0x4304, .scanMedia p l ld dpa lines),
         (0x4305, .getScanMediaResults p l), (0x4400, .sanitize p l ld), (0x4401, .secureErase p l ld), (0x5400, .getLdInfo p l),
         (0x5401, .getLdAllocations p l), (other, .unsupportedOpcode p l other)] →
     (mboxReachable s p l = false → exec c s = .next s) ∧
     (mboxReachable s p l = true → germServes s = false → s.fw.branUp = false →
       exec c s = .next (updMbox p l (fun b => { b with busy := true, opcode := op }) s)) ∧
     (mboxReachable s p l = true → germServes s = true → germOpcodes.contains op = false → exec c s = .next (mailDone p l op 3 [] id s)) ∧
     (mailServes s p l op = true → Completes c s fun t => ∃ code bs, t.out.getLast? = some (.mailbox p l op code bs) ∧
       t.ports[p].mbox[l].opcode = op ∧ t.ports[p].mbox[l].retCode = code ∧ (op = other → t = mailDone p l op 3 [] id s))) ∧
  (∀ (p l : Fin 4) (log off len ns st : Nat) (all : Bool) (handles modes : List Nat) (v : Word) (s : State),
     let b := s.ports[p].mbox[l]
     let answers (c : Instr) (op code : Nat) (bs : List Byte) : Prop := mailServes s p l op = true → exec c s = .next (mailDone p l op code bs id s)
     let sets (c : Instr) (op : Nat) (f : Mailbox → Mailbox) : Prop := mailServes s p l op = true → exec c s = .next (mailDone p l op 0 [] f s)
     let free (c : Instr) (op n : Nat) : Prop := mailServes s p l op = true →
       exec c s = .next (mailDone p l op 0 (natToBytes n (Config.payload s.free).toNat) id { s with free := s.free + 1 })
     let named (e : EventRec) : Bool := e.code = log && (all || handles.contains e.handle)
     free (.identify p l) 0x0001 18 ∧ free (.getResponseMessageLimit p l) 0x0003 1 ∧ free (.getHealthInfo p l) 0x4200 18 ∧
     (s.fw.erasing = [] → answers (.backgroundOperationStatus p l) 0x0002 0
       (natToBytes 2 (if b.bgDone then 200 else 0) ++ natToBytes 2 b.bgOpcode ++ natToBytes 4 0)) ∧
     answers (.getEventInterruptPolicy p l) 0x0102 0 [0, 0, 0, 0, 0] ∧
     answers (.setEventInterruptPolicy p l modes) 0x0103 (if modes.all (· = 0) then 0 else 2) [] ∧
     (3 < log → answers (.getEventRecords p l log) 0x0100 2 [] ∧ answers (.clearEventRecords p l log all handles) 0x0101 2 []) ∧
     (log ≤ 3 → mailServes s p l 0x0100 = true → Completes (.getEventRecords p l log) s fun t =>
       t = { s with free := t.free, seq := t.seq, ports := t.ports, out := t.out } ∧
       ∃ es bs, t.ports[p].mbox[l] = { b with events := b.events ++ es, opcode := 0x0100, retCode := 0 } ∧ es.length ≤ 1 ∧
         let rs := (b.events ++ es).filter (·.code = log)
         bs.length = 128 * rs.length ∧
         t.out = s.out ++ [.mailbox p l 0x0100 0 (natToBytes 20 0 ++ natToBytes 2 rs.length ++ natToBytes 10 0 ++ bs)] ∧
         ∀ i e, rs[i]? = some e → (bs.drop (128 * i + 16)).take 16 = natToBytes 1 128 ++ natToBytes 3 e.code ++ natToBytes 2 e.handle ++
           natToBytes 2 0 ++ natToBytes 8 (stampAt b e.time)) ∧
     (log ≤ 3 → all = true ∨ (∀ h ∈ handles, ∃ e ∈ b.events, e.code = log ∧ e.handle = h) →
       sets (.clearEventRecords p l log all handles) 0x0101 fun x => { x with events := b.events.filter fun e => !named e }) ∧
     (log ≤ 3 → all = false → (∃ h ∈ handles, ∀ e ∈ b.events, e.code = log → e.handle ≠ h) →
       answers (.clearEventRecords p l log all handles) 0x0101 14 []) ∧
     answers (.getTimestamp p l) 0x0300 0 (natToBytes 8 (if b.timestamp = 0 then 0 else b.timestamp + (s.dtime - b.timestampAt))) ∧
     sets (.setTimestamp p l ns) 0x0301 (fun x => { x with timestamp := ns % 2 ^ 64, timestampAt := s.dtime }) ∧
     answers (.getSupportedLogs p l) 0x0400 0 (natToBytes 8 1 ++ celUuid ++ natToBytes 4 (effectsLog s).length) ∧
     (off + len ≤ (effectsLog s).length → answers (.getLog p l off len) 0x0401 0 (((effectsLog s).drop off).take len)) ∧
     ((effectsLog s).length < off + len → answers (.getLog p l off len) 0x0401 2 []) ∧
     (mailServes s p l 0x4000 = true → exec (.identifyMemoryDevice p l) s = .next (mailDone p l 0x4000 0
       (natToBytes 16 (Config.payload s.free).toNat ++ natToBytes 8 (linkUnits s p l) ++ natToBytes 8 (linkUnits s p l) ++ natToBytes 8 0 ++
         natToBytes 27 (Config.payload (s.free + 1)).toNat) id { s with free := s.free + 2 })) ∧
     answers (.getPartitionInfo p l) 0x4100 0 (natToBytes 8 (linkUnits s p l) ++ natToBytes 8 0 ++ natToBytes 8 (linkUnits s p l) ++ natToBytes 8 0) ∧
     answers (.getAlertConfiguration p l) 0x4201 0 (natToBytes 8 b.alerts.toNat) ∧
     sets (.setAlertConfiguration p l v) 0x4202 (fun x => { x with alerts := v }) ∧
     answers (.getShutdownState p l) 0x4203 0 (natToBytes 1 b.shutdown) ∧
     (st ≤ 1 → sets (.setShutdownState p l st) 0x4204 fun x => { x with shutdown := st }) ∧
     (1 < st → answers (.setShutdownState p l st) 0x4204 2 []) ∧
     (linkMode s p l ≠ 3 → answers (.getLdInfo p l) 0x5400 3 [] ∧ answers (.getLdAllocations p l) 0x5401 3 []) ∧
     (linkMode s p l = 3 →
       let ts := linkLdTags s p l
       answers (.getLdAllocations p l) 0x5401 0
         (natToBytes 1 ts.length ++ natToBytes 2 0 ++ natToBytes 1 ts.length ++ ts.flatMap fun t => natToBytes 8 (ldBytes s t / 2 ^ 28) ++ natToBytes 8 0) ∧
       (mailServes s p l 0x5400 = true → exec (.getLdInfo p l) s = .next (mailDone p l 0x5400 0
         (natToBytes 8 (ts.map fun t => ldBytes s t).sum ++ natToBytes 2 ts.length ++ natToBytes 1 (Config.payload s.free).toNat) id
         { s with free := s.free + 1 }))))

/-- Table 2.5, R363, R364: Transfer FW stores a package, part after part, in the copy that does not run and refuses the
running one; Activate FW refuses a copy that fails Table 13.16, makes an intact one preferred for the next cold start, and
online takes it only where it differs in IMAGE_SEQ, BRAN and OSIG alone, restarting Bran from it; Bran's own writes reach only
the BOOT record and the copies that do not run, and every other one completes with a bus error. -/
def Obligations.FirmwareTransferAndActivation : Prop :=
  ∀ (p l core : Fin 4) (slot off : Nat) (letter : Bool) (bytes : List Byte) (s : State),
    slotCopyB slot = some letter →
    let b := s.ports[p].mbox[l]
    let stored (opened : Bool) (t : State) : Prop :=
      t = mailDone p l 0x0201 0 [] (fun x => { x with xferOpen := opened, xferCopy := slot, xferOff := off + bytes.length }) { s with flash := t.flash } ∧
      t.flash = (writePackage letter off bytes s).flash
    (mailServes s p l 0x0200 = true → Completes (.getFwInfo p l) s fun t => ∃ rev : List Byte, rev.length = 64 ∧
      t = mailDone p l 0x0200 0 ([2, BitVec.ofNat 8 ((if s.img.isSome then (if s.imgCopyB then 2 else 1) else 0) + 8 *
        (match bootPrefers s with | some x => if isRunning s x then 0 else if x then 2 else 1 | none => 0)), 1] ++ natToBytes 13 0 ++ rev) id
        { s with free := s.free + 1 }) ∧
    (mailServes s p l 0x0201 = true →
      (∀ action, isRunning s letter = true → exec (.transferFw p l action slot off bytes) s = .next (mailDone p l 0x0201 11 [] id s)) ∧
      (isRunning s letter = false → off + bytes.length ≤ 0xD00000 →
        (off = 0 → Completes (.transferFw p l 0 slot off bytes) s (stored false) ∧ Completes (.transferFw p l 1 slot off bytes) s (stored true)) ∧
        (off ≠ 0 → exec (.transferFw p l 0 slot off bytes) s = .next (mailDone p l 0x0201 9 [] id s) ∧
          exec (.transferFw p l 1 slot off bytes) s = .next (mailDone p l 0x0201 9 [] id s)) ∧
        (b.xferOpen = true ∧ b.xferCopy = slot ∧ b.xferOff = off →
          Completes (.transferFw p l 2 slot off bytes) s (stored true) ∧ Completes (.transferFw p l 3 slot off bytes) s (stored false)) ∧
        (b.xferOpen = false ∨ b.xferCopy ≠ slot ∨ b.xferOff ≠ off →
          exec (.transferFw p l 2 slot off bytes) s = .next (mailDone p l 0x0201 9 [] id s) ∧
          exec (.transferFw p l 3 slot off bytes) s = .next (mailDone p l 0x0201 9 [] id s)) ∧
        (b.xferOpen = true → exec (.transferFw p l 4 slot off bytes) s =
          .next (mailDone p l 0x0201 0 [] (fun x => { x with xferOpen := false, xferOff := 0 }) s)))) ∧
    (mailServes s p l 0x0202 = true →
      (∀ r, checkCopy s letter = .refused r → exec (.activateFw p l false slot) s = .next (mailDone p l 0x0202 10 [] id s) ∧
        exec (.activateFw p l true slot) s = .next (mailDone p l 0x0202 2 [] id s)) ∧
      (∀ i d, checkCopy s letter = .ok i d →
        Completes (.activateFw p l false slot) s (fun t => t = mailDone p l 0x0202 0 [] id { s with flash := t.flash } ∧
          t.flash = (writeBoot letter s).flash) ∧
        (germServes s = true ∨ s.img = none ∨ isRunning s letter = true ∨ copyBare s letter ≠ copyBare s s.imgCopyB →
          exec (.activateFw p l true slot) s = .next (mailDone p l 0x0202 2 [] id s)) ∧
        (germServes s = false → s.img.isSome = true → isRunning s letter = false → copyBare s letter = copyBare s s.imgCopyB →
          Completes (.activateFw p l true slot) s fun t => t.img = some i ∧ t.imgCopyB = letter ∧ t.imgDigest = d ∧
            t.bring.running = (if letter then 2 else 1) ∧ t.flash = (writeBoot letter s).flash ∧
            t.ports[p].mbox[l].retCode = 0 ∧ t.crypt.slots = s.crypt.slots))) ∧
    (s.fw.branUp = false → exec (.bootFlashWrite core off bytes) s = .next s) ∧
    (s.fw.branUp = true →
      (branMayWrite s off bytes.length = true → Completes (.bootFlashWrite core off bytes) s fun t =>
        t = { s with flash := t.flash } ∧ t.flash = (flashPut off bytes s).flash) ∧
      (branMayWrite s off bytes.length = false →
        exec (.bootFlashWrite core off bytes) s = .next { s with out := s.out ++ [.busError (.bran core) off] }))

/-- Table 2.5, R30, R49, R346: Inject Poison without the image's permission is Unsupported; a poison or scan command outside
the LD's regions is refused; Get Poison List names the known lines; Scan Media records what it finds; Secure Erase and
Sanitize are background operations that retire, one after the other, the key slots that only the LD's private regions use, and
load a device-generated one again under a new key and its old class and mask once it has drained. That a scan or an erase is
Busy while another is open, and an erase while accesses are halted, is the model's choice (log entries 34 and 145). -/
def Obligations.PoisonScanAndErase : Prop :=
  ∀ (p l : Fin 4) (ld : Fin 16) (dpa lines : Nat) (data : Line) (s : State),
    let t0 := 16 * p.val + ld.val
    let b := s.ports[p].mbox[l]
    let bad := poisonRange s p l ld dpa lines
    let bad1 := poisonRange s p l ld dpa 1
    let known (x : State) : List Nat := x.ports[p].mbox[l].poison
    (mailServes s p l 0x4300 = true →
      (bad ≠ 0 → exec (.getPoisonList p l ld dpa lines) s = .next (mailDone p l 0x4300 bad [] id s)) ∧
      (bad = 0 → exec (.getPoisonList p l ld dpa lines) s = .next (mailDone p l 0x4300 0 (poisonPayload
        (((b.poison.filter fun a => a >>> 48 = t0).map (· % 2 ^ 48)).filter fun a => dpa ≤ a && a < dpa + 64 * lines)) id s))) ∧
    (mailServes s p l 0x4301 = true →
      (fiPermitted s = false → exec (.injectPoison p l ld dpa) s = .next (mailDone p l 0x4301 3 [] id s)) ∧
      (fiPermitted s = true → bad1 ≠ 0 → exec (.injectPoison p l ld dpa) s = .next (mailDone p l 0x4301 bad1 [] id s))) ∧
    (mailServes s p l 0x4302 = true → bad1 ≠ 0 → exec (.clearPoison p l ld dpa data) s = .next (mailDone p l 0x4302 bad1 [] id s)) ∧
    (∀ r, bad1 = 0 → regionAt s t0 dpa = some r →
      let refused := halted s || !keyAdmits s t0 (defaultKey s t0 r)
      (mailServes s p l 0x4301 = true → fiPermitted s = true →
        (refused = true → exec (.injectPoison p l ld dpa) s = .next (mailDone p l 0x4301 4 [] id s)) ∧
        (refused = false → Completes (.injectPoison p l ld dpa) s fun t => t0 * 2 ^ 48 + dpa ∈ known t ∧
          t.out.getLast? = some (.mailbox p l 0x4301 0 []))) ∧
      (mailServes s p l 0x4302 = true →
        (refused = true → exec (.clearPoison p l ld dpa data) s = .next (mailDone p l 0x4302 4 [] id s)) ∧
        (refused = false → Completes (.clearPoison p l ld dpa data) s fun t => t0 * 2 ^ 48 + dpa ∉ known t ∧
          t.out.getLast? = some (.mailbox p l 0x4302 0 [])))) ∧
    (mailServes s p l 0x4303 = true →
      (bad ≠ 0 → exec (.getScanMediaCapabilities p l ld dpa lines) s = .next (mailDone p l 0x4303 bad [] id s)) ∧
      (bad = 0 → exec (.getScanMediaCapabilities p l ld dpa lines) s =
        .next (mailDone p l 0x4303 0 (natToBytes 4 (Config.payload s.free).toNat) id { s with free := s.free + 1 }))) ∧
    (mailServes s p l 0x4304 = true →
      (bad ≠ 0 → exec (.scanMedia p l ld dpa lines) s = .next (mailDone p l 0x4304 bad [] id s)) ∧
      (bad = 0 → backgroundOpen s p l = true → exec (.scanMedia p l ld dpa lines) s = .next (mailDone p l 0x4304 6 [] id s)) ∧
      (bad = 0 → backgroundOpen s p l = false → halted s = true → exec (.scanMedia p l ld dpa lines) s =
        .next (mailDone p l 0x4304 1 [] (fun x => { x with scanned := [], bgOpcode := 0x4304, bgDone := true }) s)) ∧
      (bad = 0 → backgroundOpen s p l = false → Completes (.scanMedia p l ld dpa lines) s fun t => t.ports[p].mbox[l].retCode = 1 ∧
        t.ports[p].mbox[l].bgOpcode = 0x4304 ∧ t.ports[p].mbox[l].bgDone = true ∧
        ∀ a ∈ t.ports[p].mbox[l].scanned, dpa ≤ a ∧ a < dpa + 64 * lines ∧ t0 * 2 ^ 48 + a ∈ known t)) ∧
    (mailServes s p l 0x4305 = true → exec (.getScanMediaResults p l) s = .next (mailDone p l 0x4305 0 (scanPayload b.scanned) id s)) ∧
    (∀ (op : Nat) (c : Instr), (op, c) ∈ [(0x4400, .sanitize p l ld), (0x4401, .secureErase p l ld)] → mailServes s p l op = true →
      ((linkLdTags s p l).contains t0 = false ∨ privateRegions s t0 = [] → exec c s = .next (mailDone p l op 2 [] id s)) ∧
      ((linkLdTags s p l).contains t0 = true → privateRegions s t0 ≠ [] → halted s = true ∨ backgroundOpen s p l = true →
        exec c s = .next (mailDone p l op 6 [] id s)) ∧
      ((linkLdTags s p l).contains t0 = true → privateRegions s t0 ≠ [] → halted s = false → backgroundOpen s p l = false →
        let opens (j : EraseJob) : Prop := j.port = p.val ∧ j.link = l.val ∧ j.ldTag = t0 ∧ j.sanitize = decide (op = 0x4400)
        (Completes c s fun t => t.ports[p].mbox[l].retCode = 1 ∧ t.ports[p].mbox[l].bgOpcode = op ∧
          (t.ports[p].mbox[l].bgDone = true ∨ ∃ j ∈ t.fw.erasing, opens j)) ∧
        (s.fw.germUp = false → Completes c s fun t => ∃ j, opens j ∧ j.slots = ownSlots s t0 ∧ t.fw.erasing = s.fw.erasing ++ [j]) ∧
        (∀ k ks, s.fw.germUp = true → s.crypt.busy = false → s.crypt.msgOpen = false → s.fw.erasing = [] → ownSlots s t0 = k :: ks →
          (slotAt s k).state = .loaded → Completes c s fun t => slotAt t k = { slotAt s k with state := .retiring } ∧ t.crypt.busy = true ∧
            t.crypt.openSlot = k ∧ ∃ j, opens j ∧ j.slots = k :: ks ∧ j.retiring = some ((slotAt s k).cls, (slotAt s k).mask) ∧
              t.fw.erasing = [j]))) ∧
    (∀ (j : EraseJob) (k cls : Nat) (mask : Word), s.fw.erasing = [j] → j.slots = [k] → j.retiring = some (cls, mask) → s.crypt.busy = true →
      s.crypt.markers = 0xF → s.crypt.openSlot = k → s.crypt.waits = [] → s.crypt.msgOpen = false → s.fw.germUp = true → halted s = false →
      portsQuiet s = true → noInjection s = true → tablesOrdered s = true → cls < 8 → (keyRec s k).host = false →
      subMask mask (keyRec s k).allowed = true → Completes .retireDrainComplete s fun t =>
        slotAt t k = ⟨Config.randomBits s.free, subkey (Config.randomBits s.free), cls, mask, .loaded⟩ ∧ t.crypt.busy = false)

/-- R437, Table 17.17: Bran answers MCTP control and PLDM messages while it runs, with the sensors that the rule lists; a
vendor message is answered also while Bran is down, with the named register, or NOT_AVAILABLE while the core domain is off; no
message changes a register. -/
def Obligations.BmcMessagesChangeNoRegister : Prop :=
  ∀ (msg : List Byte) (n off : Nat) (s : State),
    let tells (bs : List Byte) : State := { s with out := s.out ++ [.mctp bs] }
    (s.fw.branUp = false ∨ s.pins.vddAux = false →
      exec (.mctpControl msg) s = .next s ∧ exec (.pldmType0 msg) s = .next s ∧ exec (.pldmType2 n) s = .next s) ∧
    (s.fw.branUp = true → s.pins.vddAux = true →
      (∀ c, c = .mctpControl msg ∨ c = .pldmType0 msg → Completes c s fun t =>
        ∃ bs : List Byte, bs.length = 64 ∧ t = { tells bs with free := s.free + 1 }) ∧
      (∀ v, sensorValue s n = some v → n ≠ 40 →
        exec (.pldmType2 n) s = .next (tells (natToBytes 1 0 ++ natToBytes 1 n ++ natToBytes 4 (BitVec.ofInt 32 v).toNat))) ∧
      (sensorValue s n = none → n ≠ 40 → exec (.pldmType2 n) s = .next (tells (natToBytes 1 1))) ∧
      (n = 40 → Completes (.pldmType2 n) s fun t => ∃ v, t =
        { tells (natToBytes 1 0 ++ natToBytes 1 40 ++ natToBytes 4 v) with free := s.free + 1 })) ∧
    (s.pins.vddAux = false ∨ vendorNames off = false → exec (.zalouxVendorMessage off) s = .next s) ∧
    (s.pins.vddAux = true → vendorNames off = true →
      (corePowered s = true →
        exec (.zalouxVendorMessage off) s = .next (tells (natToBytes 1 0 ++ natToBytes 8 (readBar0 s off).toNat))) ∧
      (corePowered s = false → let w := regGet s offStookLog1
        exec (.zalouxVendorMessage off) s = .next (tells (natToBytes 1 1 ++ natToBytes 1 (pwrCode s.pwr.state) ++
          natToBytes 1 (field w 62 2) ++ natToBytes 1 (field w 61 1) ++ natToBytes 8 (regGet s offStookLog0).toNat))))

/-- The block's step: the command at the front of the queue is executed on the state with the queue's rest. An empty queue is
a flit time (log entry 1, the model's choice): the Tiller transmitter sends what it has, DTIME counts and the counters that
are enabled count its cycles. -/
def Obligations.StepRunsFrontCommand : Prop :=
  (∀ (c : Instr) (rest : List Instr) (s : State), s.pending = c :: rest → step s = exec c { s with pending := rest }) ∧
  (∀ s : State, s.pending = [] → ∃ t, step s = .next t ∧ t.pending = [] ∧ t.dram = s.dram ∧ t.spks = s.spks ∧ t.ports = s.ports) ∧
  ∀ s : State, s.pending = [] → s.til.state = .held → holdDown s = true → s.til.holdNs = 0 → s.til.slew = 0 →
    ∃ t, step s = .next t ∧
      t = { s with dtime := (s.dtime + if s.clk.coarse then 40 else 1) % 2 ^ 64, perf := t.perf, headers := t.headers } ∧
      ((∀ n : Fin 192, flag (regGet s (offPerfSel n)) 63 = false) → t.perf = s.perf ∧ t.headers = s.headers)

/-- No command stops the machine, and none touches the queue of waiting commands: on every state `exec` answers a next state
whose queue is as before. -/
def Obligations.CommandsAnswerAndKeepQueue : Prop :=
  ∀ (c : Instr) (s : State), ∃ t, exec c s = .next t ∧ t.pending = s.pending

/-- R367, R7, Tables 2.6, 4.6, 5.12, 8.14, 12.1, 16.1, 17.14: right after power-on the registers read their reset values,
every common header is empty, the ports are in RESET, no key slot holds a key, no queue pair is enabled, the role is NONE,
DTIME is 0, the coherent domain is up and no command waits. -/
def Obligations.ResetHoldsSpecValues : Prop :=
  let s := State.reset
  (∀ b : Fin 40, s.headers[b].cause = 0 ∧ s.headers[b].mask = 0 ∧ s.headers[b].armed = 0 ∧ s.headers[b].errCount = 0 ∧
    s.headers[b].firstValid = false) ∧
  (∀ p : Fin 4, s.ports[p].state = .reset ∧ s.ports[p].reqs = [] ∧ regGet s (offDrainCfg p) = 100) ∧
  (∀ k : Fin 8, s.spks[k].sf = [] ∧ s.spks[k].txns = [] ∧ s.spks[k].holds = [] ∧ regGet s (offBiCfg k) = 100 ∧ s.spks[k].domainDown = false) ∧
  (∀ x : Fin 16, s.mcs[x].state = .off ∧ regGet s (offRankMap x) = 0xE4 ∧ s.mcs[x].remaps = []) ∧
  regGet s offShfInvTimeout = 100 ∧ regGet s offRetireTimeout = 100 ∧ field (regGet s offHotCfg) 8 8 = 100 ∧
  (∀ i : Nat, (slotAt s i).state = .empty) ∧ (∀ n : Nat, (qpAt s n).enable = false) ∧ s.pair.role = .none ∧ s.til.state = .down ∧
  s.bring.step = 0 ∧ s.bring.released = false ∧ s.pins.vddAux = true ∧ s.pins.powerGood = false ∧ s.dtime = 0 ∧ s.domainDown = false ∧
  s.img = none ∧ s.pending = []

/-- Right after power-on the tables are in order, memory is in its canonical form and every error count fits in 48 bits. -/
def Obligations.RunInvariantAtReset : Prop :=
 runInvariant State.reset = true ∧ Memory.wf State.reset = true

/-- From whatever state, a step keeps the tables of DRAM and of the registers in order, so that a read finds what the last
write left, and keeps every ERR_COUNT within its 48 bits. -/
def Obligations.RunInvariantKeptByEveryStep : Prop :=
  ∀ s t : State, runInvariant s = true → step s = .next t → runInvariant t = true

/-- R128, R142 to R144, R151, Table 5.10: a line sealed under a key, a counter pair and its MPA opens to its plaintext in each
form that the seal chooses, the SPILL form with its slot's tag word; under any other tag word the SPILL form does not open. -/
def Obligations.SealedLineOpens : Prop :=
  ∀ (k : SealKey) (code : SealCode) (mpa : Nat) (c : Ctr) (plain : Line),
    let x := sealLine k code mpa c plain
    let awnForm := code.strong && x.spill.isNone
    openLine k code.strong mpa c (if awnForm then .awn else .plain) x.img (x.spill.getD 0) = some plain ∧
    (awnForm = true → code.awn = true) ∧
    (∀ w slot, x.spill = some w → slot ≠ w → openLine k code.strong mpa c .plain x.img slot = none)

/-- R272 to R275, Tables 11.4 to 11.7, 12.4: every Tiller message whose fields fit is read back from the slots it is sent in,
and its SLOTS field counts them. -/
def Obligations.TillerMessagesRoundTrip : Prop :=
  ∀ m : TilMsg, msgFits m = true →
    decodeMsg (encodeMsg m) = some m ∧ (encodeMsg m).length = msgSlots m ∧ bitsAt ((encodeMsg m).headD 0) 16 8 = msgSlots m

/-- R205, R86: an MPA and its home with a local address name each other, one to one; populated MPAs map onto the local
addresses below an eighth of the population; and the channel is the one of the two of the home that the bit of the interleave
unit selects. -/
def Obligations.PlaceIsOneToOne : Prop :=
  (∀ m : Nat, m < 2 ^ 44 → home m < 8 ∧ localAddr m = m / 2 ^ 15 * 2 ^ 12 + m % 2 ^ 12 ∧ localAddr m < 2 ^ 41 ∧
    mpaOf (home m) (localAddr m) = m) ∧
  (∀ h la : Nat, h < 8 → la < 2 ^ 41 → mpaOf h la < 2 ^ 44 ∧ home (mpaOf h la) = h ∧ localAddr (mpaOf h la) = la ∧
    ∀ g : Geom, mpaOf h la < populated g ↔ la < populated g / 8) ∧
  (∀ (m : Nat) (s : State), m < 2 ^ 44 →
    (chanOf s m).val = 2 * home m + bitsAt (localAddr m) (if (geom s).unit256 then 8 else 6) 1) ∧
  home 0x3A21CE78880 = 2

/-- R58, R112: once the coherent domain is down, a VIRAL port stays VIRAL and the domain stays down through every command but
those that can reset the whole device; PERST# is not one of them. -/
def Obligations.ViralLeftOnlyByReset : Prop :=
  ∀ (c : Instr) (s t : State), s.domainDown = true → ¬ resetsDevice c → exec c s = .next t →
    t.domainDown = true ∧ ∀ p : Fin 4, s.ports[p].state = .viral → t.ports[p].state = .viral

/-- R112, R113, R428, R496, Table 12.2: taking the coherent domain down turns every port viral and completes each of its
requests as R496 says, ends what is open at every spikelet, disables the queue pairs and releases ownership; key slots, root
set and DRAM are kept. -/
def Obligations.DomainDownActs : Prop :=
  ∀ s : State, s.domainDown = false →
    let t := goDown s
    t.domainDown = true ∧ t.dram = s.dram ∧ t.crypt = s.crypt ∧ t.regs = s.regs ∧ t.pending = s.pending ∧
    t.headers[blkGlb].cause &&& 4 = 4 ∧ t.pair.own = false ∧ (s.pair.role = .primary → t.pair.role = .detached) ∧
    (s.pair.role ≠ .primary → t.pair.role = s.pair.role) ∧
    (∀ p : Fin 4, portExists p s = true → t.ports[p].state = .viral ∧ t.ports[p].reqs = [] ∧ t.headers[blkPort p].cause.getLsbD 10 = true ∧
      .viral p.val ∈ t.out ∧
      ∀ r ∈ s.ports[p].reqs, r.discard = false → ∀ p' l ld tag, r.req.src = .host p' l ld tag → port4 p' = p →
        ∃ dl, .rsp p l ld tag (refusedRsp r.req.op).1 0 (refusedRsp r.req.op).2 dl ∈ t.out) ∧
    (∀ p : Fin 4, portExists p s = false → t.ports[p] = s.ports[p]) ∧
    (∀ k : Fin 8, t.spks[k].domainDown = true ∧ t.spks[k].txns = [] ∧ t.spks[k].inbox = [] ∧ t.spks[k].snps = [] ∧
      t.headers[blkSpk k].cause.getLsbD 7 = true) ∧
    (ksorted s.queue.pairs = true → ∀ n : Fin 64, (qpAt t n).enable = false)
end

