-- ==== Sys2Proof/Laws/State.lean ====
section
/-! SUPPORT. What each named update leaves of State, field by field, so that no later proof unfolds a record update. -/

namespace Sys2Proof.Machine

variable (s : State)

/-! ## updPort -/

@[simp] theorem updPort_regs (p : Fin 4) (f : Port → Port) : (updPort p f s).regs = s.regs := rfl
@[simp] theorem updPort_headers (p : Fin 4) (f : Port → Port) : (updPort p f s).headers = s.headers := rfl
@[simp] theorem updPort_img (p : Fin 4) (f : Port → Port) : (updPort p f s).img = s.img := rfl
@[simp] theorem updPort_imgDigest (p : Fin 4) (f : Port → Port) : (updPort p f s).imgDigest = s.imgDigest := rfl
@[simp] theorem updPort_imgCopyB (p : Fin 4) (f : Port → Port) : (updPort p f s).imgCopyB = s.imgCopyB := rfl
@[simp] theorem updPort_dram (p : Fin 4) (f : Port → Port) : (updPort p f s).dram = s.dram := rfl
@[simp] theorem updPort_filled (p : Fin 4) (f : Port → Port) : (updPort p f s).filled = s.filled := rfl
@[simp] theorem updPort_fillMap (p : Fin 4) (f : Port → Port) : (updPort p f s).fillMap = s.fillMap := rfl
@[simp] theorem updPort_flash (p : Fin 4) (f : Port → Port) : (updPort p f s).flash = s.flash := rfl
@[simp] theorem updPort_ports (p : Fin 4) (f : Port → Port) : (updPort p f s).ports = updAt s.ports p f := rfl
@[simp] theorem updPort_gate (p : Fin 4) (f : Port → Port) : (updPort p f s).gate = s.gate := rfl
@[simp] theorem updPort_spks (p : Fin 4) (f : Port → Port) : (updPort p f s).spks = s.spks := rfl
@[simp] theorem updPort_crypt (p : Fin 4) (f : Port → Port) : (updPort p f s).crypt = s.crypt := rfl
@[simp] theorem updPort_tier (p : Fin 4) (f : Port → Port) : (updPort p f s).tier = s.tier := rfl
@[simp] theorem updPort_mcs (p : Fin 4) (f : Port → Port) : (updPort p f s).mcs = s.mcs := rfl
@[simp] theorem updPort_til (p : Fin 4) (f : Port → Port) : (updPort p f s).til = s.til := rfl
@[simp] theorem updPort_pair (p : Fin 4) (f : Port → Port) : (updPort p f s).pair = s.pair := rfl
@[simp] theorem updPort_pwr (p : Fin 4) (f : Port → Port) : (updPort p f s).pwr = s.pwr := rfl
@[simp] theorem updPort_bring (p : Fin 4) (f : Port → Port) : (updPort p f s).bring = s.bring := rfl
@[simp] theorem updPort_husk (p : Fin 4) (f : Port → Port) : (updPort p f s).husk = s.husk := rfl
@[simp] theorem updPort_clk (p : Fin 4) (f : Port → Port) : (updPort p f s).clk = s.clk := rfl
@[simp] theorem updPort_pins (p : Fin 4) (f : Port → Port) : (updPort p f s).pins = s.pins := rfl
@[simp] theorem updPort_thermal (p : Fin 4) (f : Port → Port) : (updPort p f s).thermal = s.thermal := rfl
@[simp] theorem updPort_fw (p : Fin 4) (f : Port → Port) : (updPort p f s).fw = s.fw := rfl
@[simp] theorem updPort_fuses (p : Fin 4) (f : Port → Port) : (updPort p f s).fuses = s.fuses := rfl
@[simp] theorem updPort_queue (p : Fin 4) (f : Port → Port) : (updPort p f s).queue = s.queue := rfl
@[simp] theorem updPort_perf (p : Fin 4) (f : Port → Port) : (updPort p f s).perf = s.perf := rfl
@[simp] theorem updPort_dtime (p : Fin 4) (f : Port → Port) : (updPort p f s).dtime = s.dtime := rfl
@[simp] theorem updPort_domainDown (p : Fin 4) (f : Port → Port) : (updPort p f s).domainDown = s.domainDown := rfl
@[simp] theorem updPort_seq (p : Fin 4) (f : Port → Port) : (updPort p f s).seq = s.seq := rfl
@[simp] theorem updPort_free (p : Fin 4) (f : Port → Port) : (updPort p f s).free = s.free := rfl
@[simp] theorem updPort_out (p : Fin 4) (f : Port → Port) : (updPort p f s).out = s.out := rfl
@[simp] theorem updPort_pending (p : Fin 4) (f : Port → Port) : (updPort p f s).pending = s.pending := rfl

/-! ## updSpk -/

@[simp] theorem updSpk_regs (k : Fin 8) (f : Spk → Spk) : (updSpk k f s).regs = s.regs := rfl
@[simp] theorem updSpk_headers (k : Fin 8) (f : Spk → Spk) : (updSpk k f s).headers = s.headers := rfl
@[simp] theorem updSpk_img (k : Fin 8) (f : Spk → Spk) : (updSpk k f s).img = s.img := rfl
@[simp] theorem updSpk_imgDigest (k : Fin 8) (f : Spk → Spk) : (updSpk k f s).imgDigest = s.imgDigest := rfl
@[simp] theorem updSpk_imgCopyB (k : Fin 8) (f : Spk → Spk) : (updSpk k f s).imgCopyB = s.imgCopyB := rfl
@[simp] theorem updSpk_dram (k : Fin 8) (f : Spk → Spk) : (updSpk k f s).dram = s.dram := rfl
@[simp] theorem updSpk_filled (k : Fin 8) (f : Spk → Spk) : (updSpk k f s).filled = s.filled := rfl
@[simp] theorem updSpk_fillMap (k : Fin 8) (f : Spk → Spk) : (updSpk k f s).fillMap = s.fillMap := rfl
@[simp] theorem updSpk_flash (k : Fin 8) (f : Spk → Spk) : (updSpk k f s).flash = s.flash := rfl
@[simp] theorem updSpk_ports (k : Fin 8) (f : Spk → Spk) : (updSpk k f s).ports = s.ports := rfl
@[simp] theorem updSpk_gate (k : Fin 8) (f : Spk → Spk) : (updSpk k f s).gate = s.gate := rfl
@[simp] theorem updSpk_spks (k : Fin 8) (f : Spk → Spk) : (updSpk k f s).spks = updAt s.spks k f := rfl
@[simp] theorem updSpk_crypt (k : Fin 8) (f : Spk → Spk) : (updSpk k f s).crypt = s.crypt := rfl
@[simp] theorem updSpk_tier (k : Fin 8) (f : Spk → Spk) : (updSpk k f s).tier = s.tier := rfl
@[simp] theorem updSpk_mcs (k : Fin 8) (f : Spk → Spk) : (updSpk k f s).mcs = s.mcs := rfl
@[simp] theorem updSpk_til (k : Fin 8) (f : Spk → Spk) : (updSpk k f s).til = s.til := rfl
@[simp] theorem updSpk_pair (k : Fin 8) (f : Spk → Spk) : (updSpk k f s).pair = s.pair := rfl
@[simp] theorem updSpk_pwr (k : Fin 8) (f : Spk → Spk) : (updSpk k f s).pwr = s.pwr := rfl
@[simp] theorem updSpk_bring (k : Fin 8) (f : Spk → Spk) : (updSpk k f s).bring = s.bring := rfl
@[simp] theorem updSpk_husk (k : Fin 8) (f : Spk → Spk) : (updSpk k f s).husk = s.husk := rfl
@[simp] theorem updSpk_clk (k : Fin 8) (f : Spk → Spk) : (updSpk k f s).clk = s.clk := rfl
@[simp] theorem updSpk_pins (k : Fin 8) (f : Spk → Spk) : (updSpk k f s).pins = s.pins := rfl
@[simp] theorem updSpk_thermal (k : Fin 8) (f : Spk → Spk) : (updSpk k f s).thermal = s.thermal := rfl
@[simp] theorem updSpk_fw (k : Fin 8) (f : Spk → Spk) : (updSpk k f s).fw = s.fw := rfl
@[simp] theorem updSpk_fuses (k : Fin 8) (f : Spk → Spk) : (updSpk k f s).fuses = s.fuses := rfl
@[simp] theorem updSpk_queue (k : Fin 8) (f : Spk → Spk) : (updSpk k f s).queue = s.queue := rfl
@[simp] theorem updSpk_perf (k : Fin 8) (f : Spk → Spk) : (updSpk k f s).perf = s.perf := rfl
@[simp] theorem updSpk_dtime (k : Fin 8) (f : Spk → Spk) : (updSpk k f s).dtime = s.dtime := rfl
@[simp] theorem updSpk_domainDown (k : Fin 8) (f : Spk → Spk) : (updSpk k f s).domainDown = s.domainDown := rfl
@[simp] theorem updSpk_seq (k : Fin 8) (f : Spk → Spk) : (updSpk k f s).seq = s.seq := rfl
@[simp] theorem updSpk_free (k : Fin 8) (f : Spk → Spk) : (updSpk k f s).free = s.free := rfl
@[simp] theorem updSpk_out (k : Fin 8) (f : Spk → Spk) : (updSpk k f s).out = s.out := rfl
@[simp] theorem updSpk_pending (k : Fin 8) (f : Spk → Spk) : (updSpk k f s).pending = s.pending := rfl

/-! ## updMc -/

@[simp] theorem updMc_regs (x : Fin 16) (f : Mc → Mc) : (updMc x f s).regs = s.regs := rfl
@[simp] theorem updMc_headers (x : Fin 16) (f : Mc → Mc) : (updMc x f s).headers = s.headers := rfl
@[simp] theorem updMc_img (x : Fin 16) (f : Mc → Mc) : (updMc x f s).img = s.img := rfl
@[simp] theorem updMc_imgDigest (x : Fin 16) (f : Mc → Mc) : (updMc x f s).imgDigest = s.imgDigest := rfl
@[simp] theorem updMc_imgCopyB (x : Fin 16) (f : Mc → Mc) : (updMc x f s).imgCopyB = s.imgCopyB := rfl
@[simp] theorem updMc_dram (x : Fin 16) (f : Mc → Mc) : (updMc x f s).dram = s.dram := rfl
@[simp] theorem updMc_filled (x : Fin 16) (f : Mc → Mc) : (updMc x f s).filled = s.filled := rfl
@[simp] theorem updMc_fillMap (x : Fin 16) (f : Mc → Mc) : (updMc x f s).fillMap = s.fillMap := rfl
@[simp] theorem updMc_flash (x : Fin 16) (f : Mc → Mc) : (updMc x f s).flash = s.flash := rfl
@[simp] theorem updMc_ports (x : Fin 16) (f : Mc → Mc) : (updMc x f s).ports = s.ports := rfl
@[simp] theorem updMc_gate (x : Fin 16) (f : Mc → Mc) : (updMc x f s).gate = s.gate := rfl
@[simp] theorem updMc_spks (x : Fin 16) (f : Mc → Mc) : (updMc x f s).spks = s.spks := rfl
@[simp] theorem updMc_crypt (x : Fin 16) (f : Mc → Mc) : (updMc x f s).crypt = s.crypt := rfl
@[simp] theorem updMc_tier (x : Fin 16) (f : Mc → Mc) : (updMc x f s).tier = s.tier := rfl
@[simp] theorem updMc_mcs (x : Fin 16) (f : Mc → Mc) : (updMc x f s).mcs = updAt s.mcs x f := rfl
@[simp] theorem updMc_til (x : Fin 16) (f : Mc → Mc) : (updMc x f s).til = s.til := rfl
@[simp] theorem updMc_pair (x : Fin 16) (f : Mc → Mc) : (updMc x f s).pair = s.pair := rfl
@[simp] theorem updMc_pwr (x : Fin 16) (f : Mc → Mc) : (updMc x f s).pwr = s.pwr := rfl
@[simp] theorem updMc_bring (x : Fin 16) (f : Mc → Mc) : (updMc x f s).bring = s.bring := rfl
@[simp] theorem updMc_husk (x : Fin 16) (f : Mc → Mc) : (updMc x f s).husk = s.husk := rfl
@[simp] theorem updMc_clk (x : Fin 16) (f : Mc → Mc) : (updMc x f s).clk = s.clk := rfl
@[simp] theorem updMc_pins (x : Fin 16) (f : Mc → Mc) : (updMc x f s).pins = s.pins := rfl
@[simp] theorem updMc_thermal (x : Fin 16) (f : Mc → Mc) : (updMc x f s).thermal = s.thermal := rfl
@[simp] theorem updMc_fw (x : Fin 16) (f : Mc → Mc) : (updMc x f s).fw = s.fw := rfl
@[simp] theorem updMc_fuses (x : Fin 16) (f : Mc → Mc) : (updMc x f s).fuses = s.fuses := rfl
@[simp] theorem updMc_queue (x : Fin 16) (f : Mc → Mc) : (updMc x f s).queue = s.queue := rfl
@[simp] theorem updMc_perf (x : Fin 16) (f : Mc → Mc) : (updMc x f s).perf = s.perf := rfl
@[simp] theorem updMc_dtime (x : Fin 16) (f : Mc → Mc) : (updMc x f s).dtime = s.dtime := rfl
@[simp] theorem updMc_domainDown (x : Fin 16) (f : Mc → Mc) : (updMc x f s).domainDown = s.domainDown := rfl
@[simp] theorem updMc_seq (x : Fin 16) (f : Mc → Mc) : (updMc x f s).seq = s.seq := rfl
@[simp] theorem updMc_free (x : Fin 16) (f : Mc → Mc) : (updMc x f s).free = s.free := rfl
@[simp] theorem updMc_out (x : Fin 16) (f : Mc → Mc) : (updMc x f s).out = s.out := rfl
@[simp] theorem updMc_pending (x : Fin 16) (f : Mc → Mc) : (updMc x f s).pending = s.pending := rfl

/-! ## updOut -/

@[simp] theorem updOut_regs (o : Fin 4) (f : Output → Output) : (updOut o f s).regs = s.regs := rfl
@[simp] theorem updOut_headers (o : Fin 4) (f : Output → Output) : (updOut o f s).headers = s.headers := rfl
@[simp] theorem updOut_img (o : Fin 4) (f : Output → Output) : (updOut o f s).img = s.img := rfl
@[simp] theorem updOut_imgDigest (o : Fin 4) (f : Output → Output) : (updOut o f s).imgDigest = s.imgDigest := rfl
@[simp] theorem updOut_imgCopyB (o : Fin 4) (f : Output → Output) : (updOut o f s).imgCopyB = s.imgCopyB := rfl
@[simp] theorem updOut_dram (o : Fin 4) (f : Output → Output) : (updOut o f s).dram = s.dram := rfl
@[simp] theorem updOut_filled (o : Fin 4) (f : Output → Output) : (updOut o f s).filled = s.filled := rfl
@[simp] theorem updOut_fillMap (o : Fin 4) (f : Output → Output) : (updOut o f s).fillMap = s.fillMap := rfl
@[simp] theorem updOut_flash (o : Fin 4) (f : Output → Output) : (updOut o f s).flash = s.flash := rfl
@[simp] theorem updOut_ports (o : Fin 4) (f : Output → Output) : (updOut o f s).ports = s.ports := rfl
@[simp] theorem updOut_gate (o : Fin 4) (f : Output → Output) : (updOut o f s).gate = s.gate := rfl
@[simp] theorem updOut_spks (o : Fin 4) (f : Output → Output) : (updOut o f s).spks = s.spks := rfl
@[simp] theorem updOut_crypt (o : Fin 4) (f : Output → Output) : (updOut o f s).crypt = s.crypt := rfl
@[simp] theorem updOut_tier (o : Fin 4) (f : Output → Output) : (updOut o f s).tier = s.tier := rfl
@[simp] theorem updOut_mcs (o : Fin 4) (f : Output → Output) : (updOut o f s).mcs = s.mcs := rfl
@[simp] theorem updOut_til (o : Fin 4) (f : Output → Output) : (updOut o f s).til = s.til := rfl
@[simp] theorem updOut_pair (o : Fin 4) (f : Output → Output) : (updOut o f s).pair = s.pair := rfl
@[simp] theorem updOut_pwr (o : Fin 4) (f : Output → Output) : (updOut o f s).pwr = s.pwr := rfl
@[simp] theorem updOut_bring (o : Fin 4) (f : Output → Output) : (updOut o f s).bring = s.bring := rfl
@[simp] theorem updOut_husk (o : Fin 4) (f : Output → Output) : (updOut o f s).husk = { s.husk with outs := updAt s.husk.outs o f } := rfl
@[simp] theorem updOut_clk (o : Fin 4) (f : Output → Output) : (updOut o f s).clk = s.clk := rfl
@[simp] theorem updOut_pins (o : Fin 4) (f : Output → Output) : (updOut o f s).pins = s.pins := rfl
@[simp] theorem updOut_thermal (o : Fin 4) (f : Output → Output) : (updOut o f s).thermal = s.thermal := rfl
@[simp] theorem updOut_fw (o : Fin 4) (f : Output → Output) : (updOut o f s).fw = s.fw := rfl
@[simp] theorem updOut_fuses (o : Fin 4) (f : Output → Output) : (updOut o f s).fuses = s.fuses := rfl
@[simp] theorem updOut_queue (o : Fin 4) (f : Output → Output) : (updOut o f s).queue = s.queue := rfl
@[simp] theorem updOut_perf (o : Fin 4) (f : Output → Output) : (updOut o f s).perf = s.perf := rfl
@[simp] theorem updOut_dtime (o : Fin 4) (f : Output → Output) : (updOut o f s).dtime = s.dtime := rfl
@[simp] theorem updOut_domainDown (o : Fin 4) (f : Output → Output) : (updOut o f s).domainDown = s.domainDown := rfl
@[simp] theorem updOut_seq (o : Fin 4) (f : Output → Output) : (updOut o f s).seq = s.seq := rfl
@[simp] theorem updOut_free (o : Fin 4) (f : Output → Output) : (updOut o f s).free = s.free := rfl
@[simp] theorem updOut_out (o : Fin 4) (f : Output → Output) : (updOut o f s).out = s.out := rfl
@[simp] theorem updOut_pending (o : Fin 4) (f : Output → Output) : (updOut o f s).pending = s.pending := rfl

/-! ## updLink -/

@[simp] theorem updLink_regs (p l : Fin 4) (f : Link → Link) : (updLink p l f s).regs = s.regs := rfl
@[simp] theorem updLink_headers (p l : Fin 4) (f : Link → Link) : (updLink p l f s).headers = s.headers := rfl
@[simp] theorem updLink_img (p l : Fin 4) (f : Link → Link) : (updLink p l f s).img = s.img := rfl
@[simp] theorem updLink_imgDigest (p l : Fin 4) (f : Link → Link) : (updLink p l f s).imgDigest = s.imgDigest := rfl
@[simp] theorem updLink_imgCopyB (p l : Fin 4) (f : Link → Link) : (updLink p l f s).imgCopyB = s.imgCopyB := rfl
@[simp] theorem updLink_dram (p l : Fin 4) (f : Link → Link) : (updLink p l f s).dram = s.dram := rfl
@[simp] theorem updLink_filled (p l : Fin 4) (f : Link → Link) : (updLink p l f s).filled = s.filled := rfl
@[simp] theorem updLink_fillMap (p l : Fin 4) (f : Link → Link) : (updLink p l f s).fillMap = s.fillMap := rfl
@[simp] theorem updLink_flash (p l : Fin 4) (f : Link → Link) : (updLink p l f s).flash = s.flash := rfl
@[simp] theorem updLink_ports (p l : Fin 4) (f : Link → Link) : (updLink p l f s).ports = updAt s.ports p (fun q => { q with links := updAt q.links l f }) := rfl
@[simp] theorem updLink_gate (p l : Fin 4) (f : Link → Link) : (updLink p l f s).gate = s.gate := rfl
@[simp] theorem updLink_spks (p l : Fin 4) (f : Link → Link) : (updLink p l f s).spks = s.spks := rfl
@[simp] theorem updLink_crypt (p l : Fin 4) (f : Link → Link) : (updLink p l f s).crypt = s.crypt := rfl
@[simp] theorem updLink_tier (p l : Fin 4) (f : Link → Link) : (updLink p l f s).tier = s.tier := rfl
@[simp] theorem updLink_mcs (p l : Fin 4) (f : Link → Link) : (updLink p l f s).mcs = s.mcs := rfl
@[simp] theorem updLink_til (p l : Fin 4) (f : Link → Link) : (updLink p l f s).til = s.til := rfl
@[simp] theorem updLink_pair (p l : Fin 4) (f : Link → Link) : (updLink p l f s).pair = s.pair := rfl
@[simp] theorem updLink_pwr (p l : Fin 4) (f : Link → Link) : (updLink p l f s).pwr = s.pwr := rfl
@[simp] theorem updLink_bring (p l : Fin 4) (f : Link → Link) : (updLink p l f s).bring = s.bring := rfl
@[simp] theorem updLink_husk (p l : Fin 4) (f : Link → Link) : (updLink p l f s).husk = s.husk := rfl
@[simp] theorem updLink_clk (p l : Fin 4) (f : Link → Link) : (updLink p l f s).clk = s.clk := rfl
@[simp] theorem updLink_pins (p l : Fin 4) (f : Link → Link) : (updLink p l f s).pins = s.pins := rfl
@[simp] theorem updLink_thermal (p l : Fin 4) (f : Link → Link) : (updLink p l f s).thermal = s.thermal := rfl
@[simp] theorem updLink_fw (p l : Fin 4) (f : Link → Link) : (updLink p l f s).fw = s.fw := rfl
@[simp] theorem updLink_fuses (p l : Fin 4) (f : Link → Link) : (updLink p l f s).fuses = s.fuses := rfl
@[simp] theorem updLink_queue (p l : Fin 4) (f : Link → Link) : (updLink p l f s).queue = s.queue := rfl
@[simp] theorem updLink_perf (p l : Fin 4) (f : Link → Link) : (updLink p l f s).perf = s.perf := rfl
@[simp] theorem updLink_dtime (p l : Fin 4) (f : Link → Link) : (updLink p l f s).dtime = s.dtime := rfl
@[simp] theorem updLink_domainDown (p l : Fin 4) (f : Link → Link) : (updLink p l f s).domainDown = s.domainDown := rfl
@[simp] theorem updLink_seq (p l : Fin 4) (f : Link → Link) : (updLink p l f s).seq = s.seq := rfl
@[simp] theorem updLink_free (p l : Fin 4) (f : Link → Link) : (updLink p l f s).free = s.free := rfl
@[simp] theorem updLink_out (p l : Fin 4) (f : Link → Link) : (updLink p l f s).out = s.out := rfl
@[simp] theorem updLink_pending (p l : Fin 4) (f : Link → Link) : (updLink p l f s).pending = s.pending := rfl

/-! ## updMbox -/

@[simp] theorem updMbox_regs (p l : Fin 4) (f : Mailbox → Mailbox) : (updMbox p l f s).regs = s.regs := rfl
@[simp] theorem updMbox_headers (p l : Fin 4) (f : Mailbox → Mailbox) : (updMbox p l f s).headers = s.headers := rfl
@[simp] theorem updMbox_img (p l : Fin 4) (f : Mailbox → Mailbox) : (updMbox p l f s).img = s.img := rfl
@[simp] theorem updMbox_imgDigest (p l : Fin 4) (f : Mailbox → Mailbox) : (updMbox p l f s).imgDigest = s.imgDigest := rfl
@[simp] theorem updMbox_imgCopyB (p l : Fin 4) (f : Mailbox → Mailbox) : (updMbox p l f s).imgCopyB = s.imgCopyB := rfl
@[simp] theorem updMbox_dram (p l : Fin 4) (f : Mailbox → Mailbox) : (updMbox p l f s).dram = s.dram := rfl
@[simp] theorem updMbox_filled (p l : Fin 4) (f : Mailbox → Mailbox) : (updMbox p l f s).filled = s.filled := rfl
@[simp] theorem updMbox_fillMap (p l : Fin 4) (f : Mailbox → Mailbox) : (updMbox p l f s).fillMap = s.fillMap := rfl
@[simp] theorem updMbox_flash (p l : Fin 4) (f : Mailbox → Mailbox) : (updMbox p l f s).flash = s.flash := rfl
@[simp] theorem updMbox_ports (p l : Fin 4) (f : Mailbox → Mailbox) : (updMbox p l f s).ports = updAt s.ports p (fun q => { q with mbox := updAt q.mbox l f }) := rfl
@[simp] theorem updMbox_gate (p l : Fin 4) (f : Mailbox → Mailbox) : (updMbox p l f s).gate = s.gate := rfl
@[simp] theorem updMbox_spks (p l : Fin 4) (f : Mailbox → Mailbox) : (updMbox p l f s).spks = s.spks := rfl
@[simp] theorem updMbox_crypt (p l : Fin 4) (f : Mailbox → Mailbox) : (updMbox p l f s).crypt = s.crypt := rfl
@[simp] theorem updMbox_tier (p l : Fin 4) (f : Mailbox → Mailbox) : (updMbox p l f s).tier = s.tier := rfl
@[simp] theorem updMbox_mcs (p l : Fin 4) (f : Mailbox → Mailbox) : (updMbox p l f s).mcs = s.mcs := rfl
@[simp] theorem updMbox_til (p l : Fin 4) (f : Mailbox → Mailbox) : (updMbox p l f s).til = s.til := rfl
@[simp] theorem updMbox_pair (p l : Fin 4) (f : Mailbox → Mailbox) : (updMbox p l f s).pair = s.pair := rfl
@[simp] theorem updMbox_pwr (p l : Fin 4) (f : Mailbox → Mailbox) : (updMbox p l f s).pwr = s.pwr := rfl
@[simp] theorem updMbox_bring (p l : Fin 4) (f : Mailbox → Mailbox) : (updMbox p l f s).bring = s.bring := rfl
@[simp] theorem updMbox_husk (p l : Fin 4) (f : Mailbox → Mailbox) : (updMbox p l f s).husk = s.husk := rfl
@[simp] theorem updMbox_clk (p l : Fin 4) (f : Mailbox → Mailbox) : (updMbox p l f s).clk = s.clk := rfl
@[simp] theorem updMbox_pins (p l : Fin 4) (f : Mailbox → Mailbox) : (updMbox p l f s).pins = s.pins := rfl
@[simp] theorem updMbox_thermal (p l : Fin 4) (f : Mailbox → Mailbox) : (updMbox p l f s).thermal = s.thermal := rfl
@[simp] theorem updMbox_fw (p l : Fin 4) (f : Mailbox → Mailbox) : (updMbox p l f s).fw = s.fw := rfl
@[simp] theorem updMbox_fuses (p l : Fin 4) (f : Mailbox → Mailbox) : (updMbox p l f s).fuses = s.fuses := rfl
@[simp] theorem updMbox_queue (p l : Fin 4) (f : Mailbox → Mailbox) : (updMbox p l f s).queue = s.queue := rfl
@[simp] theorem updMbox_perf (p l : Fin 4) (f : Mailbox → Mailbox) : (updMbox p l f s).perf = s.perf := rfl
@[simp] theorem updMbox_dtime (p l : Fin 4) (f : Mailbox → Mailbox) : (updMbox p l f s).dtime = s.dtime := rfl
@[simp] theorem updMbox_domainDown (p l : Fin 4) (f : Mailbox → Mailbox) : (updMbox p l f s).domainDown = s.domainDown := rfl
@[simp] theorem updMbox_seq (p l : Fin 4) (f : Mailbox → Mailbox) : (updMbox p l f s).seq = s.seq := rfl
@[simp] theorem updMbox_free (p l : Fin 4) (f : Mailbox → Mailbox) : (updMbox p l f s).free = s.free := rfl
@[simp] theorem updMbox_out (p l : Fin 4) (f : Mailbox → Mailbox) : (updMbox p l f s).out = s.out := rfl
@[simp] theorem updMbox_pending (p l : Fin 4) (f : Mailbox → Mailbox) : (updMbox p l f s).pending = s.pending := rfl

/-! ## emit -/

@[simp] theorem emit_regs (o : Out) : (emit o s).regs = s.regs := rfl
@[simp] theorem emit_headers (o : Out) : (emit o s).headers = s.headers := rfl
@[simp] theorem emit_img (o : Out) : (emit o s).img = s.img := rfl
@[simp] theorem emit_imgDigest (o : Out) : (emit o s).imgDigest = s.imgDigest := rfl
@[simp] theorem emit_imgCopyB (o : Out) : (emit o s).imgCopyB = s.imgCopyB := rfl
@[simp] theorem emit_dram (o : Out) : (emit o s).dram = s.dram := rfl
@[simp] theorem emit_filled (o : Out) : (emit o s).filled = s.filled := rfl
@[simp] theorem emit_fillMap (o : Out) : (emit o s).fillMap = s.fillMap := rfl
@[simp] theorem emit_flash (o : Out) : (emit o s).flash = s.flash := rfl
@[simp] theorem emit_ports (o : Out) : (emit o s).ports = s.ports := rfl
@[simp] theorem emit_gate (o : Out) : (emit o s).gate = s.gate := rfl
@[simp] theorem emit_spks (o : Out) : (emit o s).spks = s.spks := rfl
@[simp] theorem emit_crypt (o : Out) : (emit o s).crypt = s.crypt := rfl
@[simp] theorem emit_tier (o : Out) : (emit o s).tier = s.tier := rfl
@[simp] theorem emit_mcs (o : Out) : (emit o s).mcs = s.mcs := rfl
@[simp] theorem emit_til (o : Out) : (emit o s).til = s.til := rfl
@[simp] theorem emit_pair (o : Out) : (emit o s).pair = s.pair := rfl
@[simp] theorem emit_pwr (o : Out) : (emit o s).pwr = s.pwr := rfl
@[simp] theorem emit_bring (o : Out) : (emit o s).bring = s.bring := rfl
@[simp] theorem emit_husk (o : Out) : (emit o s).husk = s.husk := rfl
@[simp] theorem emit_clk (o : Out) : (emit o s).clk = s.clk := rfl
@[simp] theorem emit_pins (o : Out) : (emit o s).pins = s.pins := rfl
@[simp] theorem emit_thermal (o : Out) : (emit o s).thermal = s.thermal := rfl
@[simp] theorem emit_fw (o : Out) : (emit o s).fw = s.fw := rfl
@[simp] theorem emit_fuses (o : Out) : (emit o s).fuses = s.fuses := rfl
@[simp] theorem emit_queue (o : Out) : (emit o s).queue = s.queue := rfl
@[simp] theorem emit_perf (o : Out) : (emit o s).perf = s.perf := rfl
@[simp] theorem emit_dtime (o : Out) : (emit o s).dtime = s.dtime := rfl
@[simp] theorem emit_domainDown (o : Out) : (emit o s).domainDown = s.domainDown := rfl
@[simp] theorem emit_seq (o : Out) : (emit o s).seq = s.seq := rfl
@[simp] theorem emit_free (o : Out) : (emit o s).free = s.free := rfl
@[simp] theorem emit_out (o : Out) : (emit o s).out = s.out ++ [o] := rfl
@[simp] theorem emit_pending (o : Out) : (emit o s).pending = s.pending := rfl

/-! ## timeTo -/

@[simp] theorem timeTo_regs (n : Nat) : (timeTo n s).regs = s.regs := rfl
@[simp] theorem timeTo_headers (n : Nat) : (timeTo n s).headers = s.headers := rfl
@[simp] theorem timeTo_img (n : Nat) : (timeTo n s).img = s.img := rfl
@[simp] theorem timeTo_imgDigest (n : Nat) : (timeTo n s).imgDigest = s.imgDigest := rfl
@[simp] theorem timeTo_imgCopyB (n : Nat) : (timeTo n s).imgCopyB = s.imgCopyB := rfl
@[simp] theorem timeTo_dram (n : Nat) : (timeTo n s).dram = s.dram := rfl
@[simp] theorem timeTo_filled (n : Nat) : (timeTo n s).filled = s.filled := rfl
@[simp] theorem timeTo_fillMap (n : Nat) : (timeTo n s).fillMap = s.fillMap := rfl
@[simp] theorem timeTo_flash (n : Nat) : (timeTo n s).flash = s.flash := rfl
@[simp] theorem timeTo_ports (n : Nat) : (timeTo n s).ports = s.ports := rfl
@[simp] theorem timeTo_gate (n : Nat) : (timeTo n s).gate = s.gate := rfl
@[simp] theorem timeTo_spks (n : Nat) : (timeTo n s).spks = s.spks := rfl
@[simp] theorem timeTo_crypt (n : Nat) : (timeTo n s).crypt = s.crypt := rfl
@[simp] theorem timeTo_tier (n : Nat) : (timeTo n s).tier = s.tier := rfl
@[simp] theorem timeTo_mcs (n : Nat) : (timeTo n s).mcs = s.mcs := rfl
@[simp] theorem timeTo_til (n : Nat) : (timeTo n s).til = s.til := rfl
@[simp] theorem timeTo_pair (n : Nat) : (timeTo n s).pair = s.pair := rfl
@[simp] theorem timeTo_pwr (n : Nat) : (timeTo n s).pwr = s.pwr := rfl
@[simp] theorem timeTo_bring (n : Nat) : (timeTo n s).bring = s.bring := rfl
@[simp] theorem timeTo_husk (n : Nat) : (timeTo n s).husk = s.husk := rfl
@[simp] theorem timeTo_clk (n : Nat) : (timeTo n s).clk = s.clk := rfl
@[simp] theorem timeTo_pins (n : Nat) : (timeTo n s).pins = s.pins := rfl
@[simp] theorem timeTo_thermal (n : Nat) : (timeTo n s).thermal = s.thermal := rfl
@[simp] theorem timeTo_fw (n : Nat) : (timeTo n s).fw = s.fw := rfl
@[simp] theorem timeTo_fuses (n : Nat) : (timeTo n s).fuses = s.fuses := rfl
@[simp] theorem timeTo_queue (n : Nat) : (timeTo n s).queue = s.queue := rfl
@[simp] theorem timeTo_perf (n : Nat) : (timeTo n s).perf = s.perf := rfl
@[simp] theorem timeTo_dtime (n : Nat) : (timeTo n s).dtime = max s.dtime n := rfl
@[simp] theorem timeTo_domainDown (n : Nat) : (timeTo n s).domainDown = s.domainDown := rfl
@[simp] theorem timeTo_seq (n : Nat) : (timeTo n s).seq = s.seq := rfl
@[simp] theorem timeTo_free (n : Nat) : (timeTo n s).free = s.free := rfl
@[simp] theorem timeTo_out (n : Nat) : (timeTo n s).out = s.out := rfl
@[simp] theorem timeTo_pending (n : Nat) : (timeTo n s).pending = s.pending := rfl

/-! ## raise -/

@[simp] theorem raise_regs (b : Fin 40) (i : Nat) (c : Cap) : (raise b i c s).regs = s.regs := rfl
@[simp] theorem raise_headers (b : Fin 40) (i : Nat) (c : Cap) : (raise b i c s).headers = updAt s.headers b fun h => headerSet h i (capFor b i c) s.dtime := rfl
@[simp] theorem raise_img (b : Fin 40) (i : Nat) (c : Cap) : (raise b i c s).img = s.img := rfl
@[simp] theorem raise_imgDigest (b : Fin 40) (i : Nat) (c : Cap) : (raise b i c s).imgDigest = s.imgDigest := rfl
@[simp] theorem raise_imgCopyB (b : Fin 40) (i : Nat) (c : Cap) : (raise b i c s).imgCopyB = s.imgCopyB := rfl
@[simp] theorem raise_dram (b : Fin 40) (i : Nat) (c : Cap) : (raise b i c s).dram = s.dram := rfl
@[simp] theorem raise_filled (b : Fin 40) (i : Nat) (c : Cap) : (raise b i c s).filled = s.filled := rfl
@[simp] theorem raise_fillMap (b : Fin 40) (i : Nat) (c : Cap) : (raise b i c s).fillMap = s.fillMap := rfl
@[simp] theorem raise_flash (b : Fin 40) (i : Nat) (c : Cap) : (raise b i c s).flash = s.flash := rfl
@[simp] theorem raise_ports (b : Fin 40) (i : Nat) (c : Cap) : (raise b i c s).ports = s.ports := rfl
@[simp] theorem raise_gate (b : Fin 40) (i : Nat) (c : Cap) : (raise b i c s).gate = s.gate := rfl
@[simp] theorem raise_spks (b : Fin 40) (i : Nat) (c : Cap) : (raise b i c s).spks = s.spks := rfl
@[simp] theorem raise_crypt (b : Fin 40) (i : Nat) (c : Cap) : (raise b i c s).crypt = s.crypt := rfl
@[simp] theorem raise_tier (b : Fin 40) (i : Nat) (c : Cap) : (raise b i c s).tier = s.tier := rfl
@[simp] theorem raise_mcs (b : Fin 40) (i : Nat) (c : Cap) : (raise b i c s).mcs = s.mcs := rfl
@[simp] theorem raise_til (b : Fin 40) (i : Nat) (c : Cap) : (raise b i c s).til = s.til := rfl
@[simp] theorem raise_pair (b : Fin 40) (i : Nat) (c : Cap) : (raise b i c s).pair = s.pair := rfl
@[simp] theorem raise_pwr (b : Fin 40) (i : Nat) (c : Cap) : (raise b i c s).pwr = s.pwr := rfl
@[simp] theorem raise_bring (b : Fin 40) (i : Nat) (c : Cap) : (raise b i c s).bring = s.bring := rfl
@[simp] theorem raise_husk (b : Fin 40) (i : Nat) (c : Cap) : (raise b i c s).husk = s.husk := rfl
@[simp] theorem raise_clk (b : Fin 40) (i : Nat) (c : Cap) : (raise b i c s).clk = s.clk := rfl
@[simp] theorem raise_pins (b : Fin 40) (i : Nat) (c : Cap) : (raise b i c s).pins = s.pins := rfl
@[simp] theorem raise_thermal (b : Fin 40) (i : Nat) (c : Cap) : (raise b i c s).thermal = s.thermal := rfl
@[simp] theorem raise_fw (b : Fin 40) (i : Nat) (c : Cap) : (raise b i c s).fw = s.fw := rfl
@[simp] theorem raise_fuses (b : Fin 40) (i : Nat) (c : Cap) : (raise b i c s).fuses = s.fuses := rfl
@[simp] theorem raise_queue (b : Fin 40) (i : Nat) (c : Cap) : (raise b i c s).queue = s.queue := rfl
@[simp] theorem raise_perf (b : Fin 40) (i : Nat) (c : Cap) : (raise b i c s).perf = s.perf := rfl
@[simp] theorem raise_dtime (b : Fin 40) (i : Nat) (c : Cap) : (raise b i c s).dtime = s.dtime := rfl
@[simp] theorem raise_domainDown (b : Fin 40) (i : Nat) (c : Cap) : (raise b i c s).domainDown = s.domainDown := rfl
@[simp] theorem raise_seq (b : Fin 40) (i : Nat) (c : Cap) : (raise b i c s).seq = s.seq := rfl
@[simp] theorem raise_free (b : Fin 40) (i : Nat) (c : Cap) : (raise b i c s).free = s.free := rfl
@[simp] theorem raise_out (b : Fin 40) (i : Nat) (c : Cap) : (raise b i c s).out = s.out := rfl
@[simp] theorem raise_pending (b : Fin 40) (i : Nat) (c : Cap) : (raise b i c s).pending = s.pending := rfl

/-! ## disarm -/

@[simp] theorem disarm_regs (b : Fin 40) (i : Nat) : (disarm b i s).regs = s.regs := rfl
@[simp] theorem disarm_headers (b : Fin 40) (i : Nat) : (disarm b i s).headers = updAt s.headers b fun h => { h with armed := h.armed &&& ~~~ BitVec.ofNat 32 (1 <<< i) } := rfl
@[simp] theorem disarm_img (b : Fin 40) (i : Nat) : (disarm b i s).img = s.img := rfl
@[simp] theorem disarm_imgDigest (b : Fin 40) (i : Nat) : (disarm b i s).imgDigest = s.imgDigest := rfl
@[simp] theorem disarm_imgCopyB (b : Fin 40) (i : Nat) : (disarm b i s).imgCopyB = s.imgCopyB := rfl
@[simp] theorem disarm_dram (b : Fin 40) (i : Nat) : (disarm b i s).dram = s.dram := rfl
@[simp] theorem disarm_filled (b : Fin 40) (i : Nat) : (disarm b i s).filled = s.filled := rfl
@[simp] theorem disarm_fillMap (b : Fin 40) (i : Nat) : (disarm b i s).fillMap = s.fillMap := rfl
@[simp] theorem disarm_flash (b : Fin 40) (i : Nat) : (disarm b i s).flash = s.flash := rfl
@[simp] theorem disarm_ports (b : Fin 40) (i : Nat) : (disarm b i s).ports = s.ports := rfl
@[simp] theorem disarm_gate (b : Fin 40) (i : Nat) : (disarm b i s).gate = s.gate := rfl
@[simp] theorem disarm_spks (b : Fin 40) (i : Nat) : (disarm b i s).spks = s.spks := rfl
@[simp] theorem disarm_crypt (b : Fin 40) (i : Nat) : (disarm b i s).crypt = s.crypt := rfl
@[simp] theorem disarm_tier (b : Fin 40) (i : Nat) : (disarm b i s).tier = s.tier := rfl
@[simp] theorem disarm_mcs (b : Fin 40) (i : Nat) : (disarm b i s).mcs = s.mcs := rfl
@[simp] theorem disarm_til (b : Fin 40) (i : Nat) : (disarm b i s).til = s.til := rfl
@[simp] theorem disarm_pair (b : Fin 40) (i : Nat) : (disarm b i s).pair = s.pair := rfl
@[simp] theorem disarm_pwr (b : Fin 40) (i : Nat) : (disarm b i s).pwr = s.pwr := rfl
@[simp] theorem disarm_bring (b : Fin 40) (i : Nat) : (disarm b i s).bring = s.bring := rfl
@[simp] theorem disarm_husk (b : Fin 40) (i : Nat) : (disarm b i s).husk = s.husk := rfl
@[simp] theorem disarm_clk (b : Fin 40) (i : Nat) : (disarm b i s).clk = s.clk := rfl
@[simp] theorem disarm_pins (b : Fin 40) (i : Nat) : (disarm b i s).pins = s.pins := rfl
@[simp] theorem disarm_thermal (b : Fin 40) (i : Nat) : (disarm b i s).thermal = s.thermal := rfl
@[simp] theorem disarm_fw (b : Fin 40) (i : Nat) : (disarm b i s).fw = s.fw := rfl
@[simp] theorem disarm_fuses (b : Fin 40) (i : Nat) : (disarm b i s).fuses = s.fuses := rfl
@[simp] theorem disarm_queue (b : Fin 40) (i : Nat) : (disarm b i s).queue = s.queue := rfl
@[simp] theorem disarm_perf (b : Fin 40) (i : Nat) : (disarm b i s).perf = s.perf := rfl
@[simp] theorem disarm_dtime (b : Fin 40) (i : Nat) : (disarm b i s).dtime = s.dtime := rfl
@[simp] theorem disarm_domainDown (b : Fin 40) (i : Nat) : (disarm b i s).domainDown = s.domainDown := rfl
@[simp] theorem disarm_seq (b : Fin 40) (i : Nat) : (disarm b i s).seq = s.seq := rfl
@[simp] theorem disarm_free (b : Fin 40) (i : Nat) : (disarm b i s).free = s.free := rfl
@[simp] theorem disarm_out (b : Fin 40) (i : Nat) : (disarm b i s).out = s.out := rfl
@[simp] theorem disarm_pending (b : Fin 40) (i : Nat) : (disarm b i s).pending = s.pending := rfl

/-! ## regSet -/

@[simp] theorem regSet_regs (a : Nat) (v : Word) : (regSet a v s).regs = kset (regReset a) s.regs a v := rfl
@[simp] theorem regSet_headers (a : Nat) (v : Word) : (regSet a v s).headers = s.headers := rfl
@[simp] theorem regSet_img (a : Nat) (v : Word) : (regSet a v s).img = s.img := rfl
@[simp] theorem regSet_imgDigest (a : Nat) (v : Word) : (regSet a v s).imgDigest = s.imgDigest := rfl
@[simp] theorem regSet_imgCopyB (a : Nat) (v : Word) : (regSet a v s).imgCopyB = s.imgCopyB := rfl
@[simp] theorem regSet_dram (a : Nat) (v : Word) : (regSet a v s).dram = s.dram := rfl
@[simp] theorem regSet_filled (a : Nat) (v : Word) : (regSet a v s).filled = s.filled := rfl
@[simp] theorem regSet_fillMap (a : Nat) (v : Word) : (regSet a v s).fillMap = s.fillMap := rfl
@[simp] theorem regSet_flash (a : Nat) (v : Word) : (regSet a v s).flash = s.flash := rfl
@[simp] theorem regSet_ports (a : Nat) (v : Word) : (regSet a v s).ports = s.ports := rfl
@[simp] theorem regSet_gate (a : Nat) (v : Word) : (regSet a v s).gate = s.gate := rfl
@[simp] theorem regSet_spks (a : Nat) (v : Word) : (regSet a v s).spks = s.spks := rfl
@[simp] theorem regSet_crypt (a : Nat) (v : Word) : (regSet a v s).crypt = s.crypt := rfl
@[simp] theorem regSet_tier (a : Nat) (v : Word) : (regSet a v s).tier = s.tier := rfl
@[simp] theorem regSet_mcs (a : Nat) (v : Word) : (regSet a v s).mcs = s.mcs := rfl
@[simp] theorem regSet_til (a : Nat) (v : Word) : (regSet a v s).til = s.til := rfl
@[simp] theorem regSet_pair (a : Nat) (v : Word) : (regSet a v s).pair = s.pair := rfl
@[simp] theorem regSet_pwr (a : Nat) (v : Word) : (regSet a v s).pwr = s.pwr := rfl
@[simp] theorem regSet_bring (a : Nat) (v : Word) : (regSet a v s).bring = s.bring := rfl
@[simp] theorem regSet_husk (a : Nat) (v : Word) : (regSet a v s).husk = s.husk := rfl
@[simp] theorem regSet_clk (a : Nat) (v : Word) : (regSet a v s).clk = s.clk := rfl
@[simp] theorem regSet_pins (a : Nat) (v : Word) : (regSet a v s).pins = s.pins := rfl
@[simp] theorem regSet_thermal (a : Nat) (v : Word) : (regSet a v s).thermal = s.thermal := rfl
@[simp] theorem regSet_fw (a : Nat) (v : Word) : (regSet a v s).fw = s.fw := rfl
@[simp] theorem regSet_fuses (a : Nat) (v : Word) : (regSet a v s).fuses = s.fuses := rfl
@[simp] theorem regSet_queue (a : Nat) (v : Word) : (regSet a v s).queue = s.queue := rfl
@[simp] theorem regSet_perf (a : Nat) (v : Word) : (regSet a v s).perf = s.perf := rfl
@[simp] theorem regSet_dtime (a : Nat) (v : Word) : (regSet a v s).dtime = s.dtime := rfl
@[simp] theorem regSet_domainDown (a : Nat) (v : Word) : (regSet a v s).domainDown = s.domainDown := rfl
@[simp] theorem regSet_seq (a : Nat) (v : Word) : (regSet a v s).seq = s.seq := rfl
@[simp] theorem regSet_free (a : Nat) (v : Word) : (regSet a v s).free = s.free := rfl
@[simp] theorem regSet_out (a : Nat) (v : Word) : (regSet a v s).out = s.out := rfl
@[simp] theorem regSet_pending (a : Nat) (v : Word) : (regSet a v s).pending = s.pending := rfl

/-! ## regSetField -/

@[simp] theorem regSetField_regs (a lo w v : Nat) : (regSetField a lo w v s).regs = kset (regReset a) s.regs a (setField (regGet s a) lo w v) := rfl
@[simp] theorem regSetField_headers (a lo w v : Nat) : (regSetField a lo w v s).headers = s.headers := rfl
@[simp] theorem regSetField_img (a lo w v : Nat) : (regSetField a lo w v s).img = s.img := rfl
@[simp] theorem regSetField_imgDigest (a lo w v : Nat) : (regSetField a lo w v s).imgDigest = s.imgDigest := rfl
@[simp] theorem regSetField_imgCopyB (a lo w v : Nat) : (regSetField a lo w v s).imgCopyB = s.imgCopyB := rfl
@[simp] theorem regSetField_dram (a lo w v : Nat) : (regSetField a lo w v s).dram = s.dram := rfl
@[simp] theorem regSetField_filled (a lo w v : Nat) : (regSetField a lo w v s).filled = s.filled := rfl
@[simp] theorem regSetField_fillMap (a lo w v : Nat) : (regSetField a lo w v s).fillMap = s.fillMap := rfl
@[simp] theorem regSetField_flash (a lo w v : Nat) : (regSetField a lo w v s).flash = s.flash := rfl
@[simp] theorem regSetField_ports (a lo w v : Nat) : (regSetField a lo w v s).ports = s.ports := rfl
@[simp] theorem regSetField_gate (a lo w v : Nat) : (regSetField a lo w v s).gate = s.gate := rfl
@[simp] theorem regSetField_spks (a lo w v : Nat) : (regSetField a lo w v s).spks = s.spks := rfl
@[simp] theorem regSetField_crypt (a lo w v : Nat) : (regSetField a lo w v s).crypt = s.crypt := rfl
@[simp] theorem regSetField_tier (a lo w v : Nat) : (regSetField a lo w v s).tier = s.tier := rfl
@[simp] theorem regSetField_mcs (a lo w v : Nat) : (regSetField a lo w v s).mcs = s.mcs := rfl
@[simp] theorem regSetField_til (a lo w v : Nat) : (regSetField a lo w v s).til = s.til := rfl
@[simp] theorem regSetField_pair (a lo w v : Nat) : (regSetField a lo w v s).pair = s.pair := rfl
@[simp] theorem regSetField_pwr (a lo w v : Nat) : (regSetField a lo w v s).pwr = s.pwr := rfl
@[simp] theorem regSetField_bring (a lo w v : Nat) : (regSetField a lo w v s).bring = s.bring := rfl
@[simp] theorem regSetField_husk (a lo w v : Nat) : (regSetField a lo w v s).husk = s.husk := rfl
@[simp] theorem regSetField_clk (a lo w v : Nat) : (regSetField a lo w v s).clk = s.clk := rfl
@[simp] theorem regSetField_pins (a lo w v : Nat) : (regSetField a lo w v s).pins = s.pins := rfl
@[simp] theorem regSetField_thermal (a lo w v : Nat) : (regSetField a lo w v s).thermal = s.thermal := rfl
@[simp] theorem regSetField_fw (a lo w v : Nat) : (regSetField a lo w v s).fw = s.fw := rfl
@[simp] theorem regSetField_fuses (a lo w v : Nat) : (regSetField a lo w v s).fuses = s.fuses := rfl
@[simp] theorem regSetField_queue (a lo w v : Nat) : (regSetField a lo w v s).queue = s.queue := rfl
@[simp] theorem regSetField_perf (a lo w v : Nat) : (regSetField a lo w v s).perf = s.perf := rfl
@[simp] theorem regSetField_dtime (a lo w v : Nat) : (regSetField a lo w v s).dtime = s.dtime := rfl
@[simp] theorem regSetField_domainDown (a lo w v : Nat) : (regSetField a lo w v s).domainDown = s.domainDown := rfl
@[simp] theorem regSetField_seq (a lo w v : Nat) : (regSetField a lo w v s).seq = s.seq := rfl
@[simp] theorem regSetField_free (a lo w v : Nat) : (regSetField a lo w v s).free = s.free := rfl
@[simp] theorem regSetField_out (a lo w v : Nat) : (regSetField a lo w v s).out = s.out := rfl
@[simp] theorem regSetField_pending (a lo w v : Nat) : (regSetField a lo w v s).pending = s.pending := rfl

/-! ## dramSet -/

@[simp] theorem dramSet_regs (a : Nat) (v : Image) : (dramSet a v s).regs = s.regs := rfl
@[simp] theorem dramSet_headers (a : Nat) (v : Image) : (dramSet a v s).headers = s.headers := rfl
@[simp] theorem dramSet_img (a : Nat) (v : Image) : (dramSet a v s).img = s.img := rfl
@[simp] theorem dramSet_imgDigest (a : Nat) (v : Image) : (dramSet a v s).imgDigest = s.imgDigest := rfl
@[simp] theorem dramSet_imgCopyB (a : Nat) (v : Image) : (dramSet a v s).imgCopyB = s.imgCopyB := rfl
@[simp] theorem dramSet_dram (a : Nat) (v : Image) : (dramSet a v s).dram = kset (dramUnlisted s a) s.dram a v := rfl
@[simp] theorem dramSet_filled (a : Nat) (v : Image) : (dramSet a v s).filled = s.filled := rfl
@[simp] theorem dramSet_fillMap (a : Nat) (v : Image) : (dramSet a v s).fillMap = s.fillMap := rfl
@[simp] theorem dramSet_flash (a : Nat) (v : Image) : (dramSet a v s).flash = s.flash := rfl
@[simp] theorem dramSet_ports (a : Nat) (v : Image) : (dramSet a v s).ports = s.ports := rfl
@[simp] theorem dramSet_gate (a : Nat) (v : Image) : (dramSet a v s).gate = s.gate := rfl
@[simp] theorem dramSet_spks (a : Nat) (v : Image) : (dramSet a v s).spks = s.spks := rfl
@[simp] theorem dramSet_crypt (a : Nat) (v : Image) : (dramSet a v s).crypt = s.crypt := rfl
@[simp] theorem dramSet_tier (a : Nat) (v : Image) : (dramSet a v s).tier = s.tier := rfl
@[simp] theorem dramSet_mcs (a : Nat) (v : Image) : (dramSet a v s).mcs = s.mcs := rfl
@[simp] theorem dramSet_til (a : Nat) (v : Image) : (dramSet a v s).til = s.til := rfl
@[simp] theorem dramSet_pair (a : Nat) (v : Image) : (dramSet a v s).pair = s.pair := rfl
@[simp] theorem dramSet_pwr (a : Nat) (v : Image) : (dramSet a v s).pwr = s.pwr := rfl
@[simp] theorem dramSet_bring (a : Nat) (v : Image) : (dramSet a v s).bring = s.bring := rfl
@[simp] theorem dramSet_husk (a : Nat) (v : Image) : (dramSet a v s).husk = s.husk := rfl
@[simp] theorem dramSet_clk (a : Nat) (v : Image) : (dramSet a v s).clk = s.clk := rfl
@[simp] theorem dramSet_pins (a : Nat) (v : Image) : (dramSet a v s).pins = s.pins := rfl
@[simp] theorem dramSet_thermal (a : Nat) (v : Image) : (dramSet a v s).thermal = s.thermal := rfl
@[simp] theorem dramSet_fw (a : Nat) (v : Image) : (dramSet a v s).fw = s.fw := rfl
@[simp] theorem dramSet_fuses (a : Nat) (v : Image) : (dramSet a v s).fuses = s.fuses := rfl
@[simp] theorem dramSet_queue (a : Nat) (v : Image) : (dramSet a v s).queue = s.queue := rfl
@[simp] theorem dramSet_perf (a : Nat) (v : Image) : (dramSet a v s).perf = s.perf := rfl
@[simp] theorem dramSet_dtime (a : Nat) (v : Image) : (dramSet a v s).dtime = s.dtime := rfl
@[simp] theorem dramSet_domainDown (a : Nat) (v : Image) : (dramSet a v s).domainDown = s.domainDown := rfl
@[simp] theorem dramSet_seq (a : Nat) (v : Image) : (dramSet a v s).seq = s.seq := rfl
@[simp] theorem dramSet_free (a : Nat) (v : Image) : (dramSet a v s).free = s.free := rfl
@[simp] theorem dramSet_out (a : Nat) (v : Image) : (dramSet a v s).out = s.out := rfl
@[simp] theorem dramSet_pending (a : Nat) (v : Image) : (dramSet a v s).pending = s.pending := rfl

/-! ## setPwr -/

@[simp] theorem setPwr_regs (f : Pwr → Pwr) : (setPwr f s).regs = s.regs := rfl
@[simp] theorem setPwr_headers (f : Pwr → Pwr) : (setPwr f s).headers = s.headers := rfl
@[simp] theorem setPwr_img (f : Pwr → Pwr) : (setPwr f s).img = s.img := rfl
@[simp] theorem setPwr_imgDigest (f : Pwr → Pwr) : (setPwr f s).imgDigest = s.imgDigest := rfl
@[simp] theorem setPwr_imgCopyB (f : Pwr → Pwr) : (setPwr f s).imgCopyB = s.imgCopyB := rfl
@[simp] theorem setPwr_dram (f : Pwr → Pwr) : (setPwr f s).dram = s.dram := rfl
@[simp] theorem setPwr_filled (f : Pwr → Pwr) : (setPwr f s).filled = s.filled := rfl
@[simp] theorem setPwr_fillMap (f : Pwr → Pwr) : (setPwr f s).fillMap = s.fillMap := rfl
@[simp] theorem setPwr_flash (f : Pwr → Pwr) : (setPwr f s).flash = s.flash := rfl
@[simp] theorem setPwr_ports (f : Pwr → Pwr) : (setPwr f s).ports = s.ports := rfl
@[simp] theorem setPwr_gate (f : Pwr → Pwr) : (setPwr f s).gate = s.gate := rfl
@[simp] theorem setPwr_spks (f : Pwr → Pwr) : (setPwr f s).spks = s.spks := rfl
@[simp] theorem setPwr_crypt (f : Pwr → Pwr) : (setPwr f s).crypt = s.crypt := rfl
@[simp] theorem setPwr_tier (f : Pwr → Pwr) : (setPwr f s).tier = s.tier := rfl
@[simp] theorem setPwr_mcs (f : Pwr → Pwr) : (setPwr f s).mcs = s.mcs := rfl
@[simp] theorem setPwr_til (f : Pwr → Pwr) : (setPwr f s).til = s.til := rfl
@[simp] theorem setPwr_pair (f : Pwr → Pwr) : (setPwr f s).pair = s.pair := rfl
@[simp] theorem setPwr_pwr (f : Pwr → Pwr) : (setPwr f s).pwr = f s.pwr := rfl
@[simp] theorem setPwr_bring (f : Pwr → Pwr) : (setPwr f s).bring = s.bring := rfl
@[simp] theorem setPwr_husk (f : Pwr → Pwr) : (setPwr f s).husk = s.husk := rfl
@[simp] theorem setPwr_clk (f : Pwr → Pwr) : (setPwr f s).clk = s.clk := rfl
@[simp] theorem setPwr_pins (f : Pwr → Pwr) : (setPwr f s).pins = s.pins := rfl
@[simp] theorem setPwr_thermal (f : Pwr → Pwr) : (setPwr f s).thermal = s.thermal := rfl
@[simp] theorem setPwr_fw (f : Pwr → Pwr) : (setPwr f s).fw = s.fw := rfl
@[simp] theorem setPwr_fuses (f : Pwr → Pwr) : (setPwr f s).fuses = s.fuses := rfl
@[simp] theorem setPwr_queue (f : Pwr → Pwr) : (setPwr f s).queue = s.queue := rfl
@[simp] theorem setPwr_perf (f : Pwr → Pwr) : (setPwr f s).perf = s.perf := rfl
@[simp] theorem setPwr_dtime (f : Pwr → Pwr) : (setPwr f s).dtime = s.dtime := rfl
@[simp] theorem setPwr_domainDown (f : Pwr → Pwr) : (setPwr f s).domainDown = s.domainDown := rfl
@[simp] theorem setPwr_seq (f : Pwr → Pwr) : (setPwr f s).seq = s.seq := rfl
@[simp] theorem setPwr_free (f : Pwr → Pwr) : (setPwr f s).free = s.free := rfl
@[simp] theorem setPwr_out (f : Pwr → Pwr) : (setPwr f s).out = s.out := rfl
@[simp] theorem setPwr_pending (f : Pwr → Pwr) : (setPwr f s).pending = s.pending := rfl

/-! ## setHusk -/

@[simp] theorem setHusk_regs (f : Husk → Husk) : (setHusk f s).regs = s.regs := rfl
@[simp] theorem setHusk_headers (f : Husk → Husk) : (setHusk f s).headers = s.headers := rfl
@[simp] theorem setHusk_img (f : Husk → Husk) : (setHusk f s).img = s.img := rfl
@[simp] theorem setHusk_imgDigest (f : Husk → Husk) : (setHusk f s).imgDigest = s.imgDigest := rfl
@[simp] theorem setHusk_imgCopyB (f : Husk → Husk) : (setHusk f s).imgCopyB = s.imgCopyB := rfl
@[simp] theorem setHusk_dram (f : Husk → Husk) : (setHusk f s).dram = s.dram := rfl
@[simp] theorem setHusk_filled (f : Husk → Husk) : (setHusk f s).filled = s.filled := rfl
@[simp] theorem setHusk_fillMap (f : Husk → Husk) : (setHusk f s).fillMap = s.fillMap := rfl
@[simp] theorem setHusk_flash (f : Husk → Husk) : (setHusk f s).flash = s.flash := rfl
@[simp] theorem setHusk_ports (f : Husk → Husk) : (setHusk f s).ports = s.ports := rfl
@[simp] theorem setHusk_gate (f : Husk → Husk) : (setHusk f s).gate = s.gate := rfl
@[simp] theorem setHusk_spks (f : Husk → Husk) : (setHusk f s).spks = s.spks := rfl
@[simp] theorem setHusk_crypt (f : Husk → Husk) : (setHusk f s).crypt = s.crypt := rfl
@[simp] theorem setHusk_tier (f : Husk → Husk) : (setHusk f s).tier = s.tier := rfl
@[simp] theorem setHusk_mcs (f : Husk → Husk) : (setHusk f s).mcs = s.mcs := rfl
@[simp] theorem setHusk_til (f : Husk → Husk) : (setHusk f s).til = s.til := rfl
@[simp] theorem setHusk_pair (f : Husk → Husk) : (setHusk f s).pair = s.pair := rfl
@[simp] theorem setHusk_pwr (f : Husk → Husk) : (setHusk f s).pwr = s.pwr := rfl
@[simp] theorem setHusk_bring (f : Husk → Husk) : (setHusk f s).bring = s.bring := rfl
@[simp] theorem setHusk_husk (f : Husk → Husk) : (setHusk f s).husk = f s.husk := rfl
@[simp] theorem setHusk_clk (f : Husk → Husk) : (setHusk f s).clk = s.clk := rfl
@[simp] theorem setHusk_pins (f : Husk → Husk) : (setHusk f s).pins = s.pins := rfl
@[simp] theorem setHusk_thermal (f : Husk → Husk) : (setHusk f s).thermal = s.thermal := rfl
@[simp] theorem setHusk_fw (f : Husk → Husk) : (setHusk f s).fw = s.fw := rfl
@[simp] theorem setHusk_fuses (f : Husk → Husk) : (setHusk f s).fuses = s.fuses := rfl
@[simp] theorem setHusk_queue (f : Husk → Husk) : (setHusk f s).queue = s.queue := rfl
@[simp] theorem setHusk_perf (f : Husk → Husk) : (setHusk f s).perf = s.perf := rfl
@[simp] theorem setHusk_dtime (f : Husk → Husk) : (setHusk f s).dtime = s.dtime := rfl
@[simp] theorem setHusk_domainDown (f : Husk → Husk) : (setHusk f s).domainDown = s.domainDown := rfl
@[simp] theorem setHusk_seq (f : Husk → Husk) : (setHusk f s).seq = s.seq := rfl
@[simp] theorem setHusk_free (f : Husk → Husk) : (setHusk f s).free = s.free := rfl
@[simp] theorem setHusk_out (f : Husk → Husk) : (setHusk f s).out = s.out := rfl
@[simp] theorem setHusk_pending (f : Husk → Husk) : (setHusk f s).pending = s.pending := rfl

/-! ## setSlot -/

@[simp] theorem setSlot_regs (i : Nat) (k : KeySlot) : (setSlot i k s).regs = s.regs := rfl
@[simp] theorem setSlot_headers (i : Nat) (k : KeySlot) : (setSlot i k s).headers = s.headers := rfl
@[simp] theorem setSlot_img (i : Nat) (k : KeySlot) : (setSlot i k s).img = s.img := rfl
@[simp] theorem setSlot_imgDigest (i : Nat) (k : KeySlot) : (setSlot i k s).imgDigest = s.imgDigest := rfl
@[simp] theorem setSlot_imgCopyB (i : Nat) (k : KeySlot) : (setSlot i k s).imgCopyB = s.imgCopyB := rfl
@[simp] theorem setSlot_dram (i : Nat) (k : KeySlot) : (setSlot i k s).dram = s.dram := rfl
@[simp] theorem setSlot_filled (i : Nat) (k : KeySlot) : (setSlot i k s).filled = s.filled := rfl
@[simp] theorem setSlot_fillMap (i : Nat) (k : KeySlot) : (setSlot i k s).fillMap = s.fillMap := rfl
@[simp] theorem setSlot_flash (i : Nat) (k : KeySlot) : (setSlot i k s).flash = s.flash := rfl
@[simp] theorem setSlot_ports (i : Nat) (k : KeySlot) : (setSlot i k s).ports = s.ports := rfl
@[simp] theorem setSlot_gate (i : Nat) (k : KeySlot) : (setSlot i k s).gate = s.gate := rfl
@[simp] theorem setSlot_spks (i : Nat) (k : KeySlot) : (setSlot i k s).spks = s.spks := rfl
@[simp] theorem setSlot_crypt (i : Nat) (k : KeySlot) : (setSlot i k s).crypt = { s.crypt with slots := kset emptySlot s.crypt.slots i k } := rfl
@[simp] theorem setSlot_tier (i : Nat) (k : KeySlot) : (setSlot i k s).tier = s.tier := rfl
@[simp] theorem setSlot_mcs (i : Nat) (k : KeySlot) : (setSlot i k s).mcs = s.mcs := rfl
@[simp] theorem setSlot_til (i : Nat) (k : KeySlot) : (setSlot i k s).til = s.til := rfl
@[simp] theorem setSlot_pair (i : Nat) (k : KeySlot) : (setSlot i k s).pair = s.pair := rfl
@[simp] theorem setSlot_pwr (i : Nat) (k : KeySlot) : (setSlot i k s).pwr = s.pwr := rfl
@[simp] theorem setSlot_bring (i : Nat) (k : KeySlot) : (setSlot i k s).bring = s.bring := rfl
@[simp] theorem setSlot_husk (i : Nat) (k : KeySlot) : (setSlot i k s).husk = s.husk := rfl
@[simp] theorem setSlot_clk (i : Nat) (k : KeySlot) : (setSlot i k s).clk = s.clk := rfl
@[simp] theorem setSlot_pins (i : Nat) (k : KeySlot) : (setSlot i k s).pins = s.pins := rfl
@[simp] theorem setSlot_thermal (i : Nat) (k : KeySlot) : (setSlot i k s).thermal = s.thermal := rfl
@[simp] theorem setSlot_fw (i : Nat) (k : KeySlot) : (setSlot i k s).fw = s.fw := rfl
@[simp] theorem setSlot_fuses (i : Nat) (k : KeySlot) : (setSlot i k s).fuses = s.fuses := rfl
@[simp] theorem setSlot_queue (i : Nat) (k : KeySlot) : (setSlot i k s).queue = s.queue := rfl
@[simp] theorem setSlot_perf (i : Nat) (k : KeySlot) : (setSlot i k s).perf = s.perf := rfl
@[simp] theorem setSlot_dtime (i : Nat) (k : KeySlot) : (setSlot i k s).dtime = s.dtime := rfl
@[simp] theorem setSlot_domainDown (i : Nat) (k : KeySlot) : (setSlot i k s).domainDown = s.domainDown := rfl
@[simp] theorem setSlot_seq (i : Nat) (k : KeySlot) : (setSlot i k s).seq = s.seq := rfl
@[simp] theorem setSlot_free (i : Nat) (k : KeySlot) : (setSlot i k s).free = s.free := rfl
@[simp] theorem setSlot_out (i : Nat) (k : KeySlot) : (setSlot i k s).out = s.out := rfl
@[simp] theorem setSlot_pending (i : Nat) (k : KeySlot) : (setSlot i k s).pending = s.pending := rfl

/-! ## flashPut -/

@[simp] theorem flashPut_regs (a : Nat) (bs : List Byte) : (flashPut a bs s).regs = s.regs := rfl
@[simp] theorem flashPut_headers (a : Nat) (bs : List Byte) : (flashPut a bs s).headers = s.headers := rfl
@[simp] theorem flashPut_img (a : Nat) (bs : List Byte) : (flashPut a bs s).img = s.img := rfl
@[simp] theorem flashPut_imgDigest (a : Nat) (bs : List Byte) : (flashPut a bs s).imgDigest = s.imgDigest := rfl
@[simp] theorem flashPut_imgCopyB (a : Nat) (bs : List Byte) : (flashPut a bs s).imgCopyB = s.imgCopyB := rfl
@[simp] theorem flashPut_dram (a : Nat) (bs : List Byte) : (flashPut a bs s).dram = s.dram := rfl
@[simp] theorem flashPut_filled (a : Nat) (bs : List Byte) : (flashPut a bs s).filled = s.filled := rfl
@[simp] theorem flashPut_fillMap (a : Nat) (bs : List Byte) : (flashPut a bs s).fillMap = s.fillMap := rfl
@[simp] theorem flashPut_flash (a : Nat) (bs : List Byte) : (flashPut a bs s).flash = bs.zipIdx.foldl (fun m e => kset 0xFF m (a + e.2) e.1) s.flash := rfl
@[simp] theorem flashPut_ports (a : Nat) (bs : List Byte) : (flashPut a bs s).ports = s.ports := rfl
@[simp] theorem flashPut_gate (a : Nat) (bs : List Byte) : (flashPut a bs s).gate = s.gate := rfl
@[simp] theorem flashPut_spks (a : Nat) (bs : List Byte) : (flashPut a bs s).spks = s.spks := rfl
@[simp] theorem flashPut_crypt (a : Nat) (bs : List Byte) : (flashPut a bs s).crypt = s.crypt := rfl
@[simp] theorem flashPut_tier (a : Nat) (bs : List Byte) : (flashPut a bs s).tier = s.tier := rfl
@[simp] theorem flashPut_mcs (a : Nat) (bs : List Byte) : (flashPut a bs s).mcs = s.mcs := rfl
@[simp] theorem flashPut_til (a : Nat) (bs : List Byte) : (flashPut a bs s).til = s.til := rfl
@[simp] theorem flashPut_pair (a : Nat) (bs : List Byte) : (flashPut a bs s).pair = s.pair := rfl
@[simp] theorem flashPut_pwr (a : Nat) (bs : List Byte) : (flashPut a bs s).pwr = s.pwr := rfl
@[simp] theorem flashPut_bring (a : Nat) (bs : List Byte) : (flashPut a bs s).bring = s.bring := rfl
@[simp] theorem flashPut_husk (a : Nat) (bs : List Byte) : (flashPut a bs s).husk = s.husk := rfl
@[simp] theorem flashPut_clk (a : Nat) (bs : List Byte) : (flashPut a bs s).clk = s.clk := rfl
@[simp] theorem flashPut_pins (a : Nat) (bs : List Byte) : (flashPut a bs s).pins = s.pins := rfl
@[simp] theorem flashPut_thermal (a : Nat) (bs : List Byte) : (flashPut a bs s).thermal = s.thermal := rfl
@[simp] theorem flashPut_fw (a : Nat) (bs : List Byte) : (flashPut a bs s).fw = s.fw := rfl
@[simp] theorem flashPut_fuses (a : Nat) (bs : List Byte) : (flashPut a bs s).fuses = s.fuses := rfl
@[simp] theorem flashPut_queue (a : Nat) (bs : List Byte) : (flashPut a bs s).queue = s.queue := rfl
@[simp] theorem flashPut_perf (a : Nat) (bs : List Byte) : (flashPut a bs s).perf = s.perf := rfl
@[simp] theorem flashPut_dtime (a : Nat) (bs : List Byte) : (flashPut a bs s).dtime = s.dtime := rfl
@[simp] theorem flashPut_domainDown (a : Nat) (bs : List Byte) : (flashPut a bs s).domainDown = s.domainDown := rfl
@[simp] theorem flashPut_seq (a : Nat) (bs : List Byte) : (flashPut a bs s).seq = s.seq := rfl
@[simp] theorem flashPut_free (a : Nat) (bs : List Byte) : (flashPut a bs s).free = s.free := rfl
@[simp] theorem flashPut_out (a : Nat) (bs : List Byte) : (flashPut a bs s).out = s.out := rfl
@[simp] theorem flashPut_pending (a : Nat) (bs : List Byte) : (flashPut a bs s).pending = s.pending := rfl

/-! ## setQp -/

@[simp] theorem setQp_regs (n : Nat) (q : QPair) : (setQp n q s).regs = s.regs := rfl
@[simp] theorem setQp_headers (n : Nat) (q : QPair) : (setQp n q s).headers = s.headers := rfl
@[simp] theorem setQp_img (n : Nat) (q : QPair) : (setQp n q s).img = s.img := rfl
@[simp] theorem setQp_imgDigest (n : Nat) (q : QPair) : (setQp n q s).imgDigest = s.imgDigest := rfl
@[simp] theorem setQp_imgCopyB (n : Nat) (q : QPair) : (setQp n q s).imgCopyB = s.imgCopyB := rfl
@[simp] theorem setQp_dram (n : Nat) (q : QPair) : (setQp n q s).dram = s.dram := rfl
@[simp] theorem setQp_filled (n : Nat) (q : QPair) : (setQp n q s).filled = s.filled := rfl
@[simp] theorem setQp_fillMap (n : Nat) (q : QPair) : (setQp n q s).fillMap = s.fillMap := rfl
@[simp] theorem setQp_flash (n : Nat) (q : QPair) : (setQp n q s).flash = s.flash := rfl
@[simp] theorem setQp_ports (n : Nat) (q : QPair) : (setQp n q s).ports = s.ports := rfl
@[simp] theorem setQp_gate (n : Nat) (q : QPair) : (setQp n q s).gate = s.gate := rfl
@[simp] theorem setQp_spks (n : Nat) (q : QPair) : (setQp n q s).spks = s.spks := rfl
@[simp] theorem setQp_crypt (n : Nat) (q : QPair) : (setQp n q s).crypt = s.crypt := rfl
@[simp] theorem setQp_tier (n : Nat) (q : QPair) : (setQp n q s).tier = s.tier := rfl
@[simp] theorem setQp_mcs (n : Nat) (q : QPair) : (setQp n q s).mcs = s.mcs := rfl
@[simp] theorem setQp_til (n : Nat) (q : QPair) : (setQp n q s).til = s.til := rfl
@[simp] theorem setQp_pair (n : Nat) (q : QPair) : (setQp n q s).pair = s.pair := rfl
@[simp] theorem setQp_pwr (n : Nat) (q : QPair) : (setQp n q s).pwr = s.pwr := rfl
@[simp] theorem setQp_bring (n : Nat) (q : QPair) : (setQp n q s).bring = s.bring := rfl
@[simp] theorem setQp_husk (n : Nat) (q : QPair) : (setQp n q s).husk = s.husk := rfl
@[simp] theorem setQp_clk (n : Nat) (q : QPair) : (setQp n q s).clk = s.clk := rfl
@[simp] theorem setQp_pins (n : Nat) (q : QPair) : (setQp n q s).pins = s.pins := rfl
@[simp] theorem setQp_thermal (n : Nat) (q : QPair) : (setQp n q s).thermal = s.thermal := rfl
@[simp] theorem setQp_fw (n : Nat) (q : QPair) : (setQp n q s).fw = s.fw := rfl
@[simp] theorem setQp_fuses (n : Nat) (q : QPair) : (setQp n q s).fuses = s.fuses := rfl
@[simp] theorem setQp_queue (n : Nat) (q : QPair) :
    (setQp n q s).queue = { s.queue with pairs := kset QPair.init s.queue.pairs n q } := rfl
@[simp] theorem setQp_perf (n : Nat) (q : QPair) : (setQp n q s).perf = s.perf := rfl
@[simp] theorem setQp_dtime (n : Nat) (q : QPair) : (setQp n q s).dtime = s.dtime := rfl
@[simp] theorem setQp_domainDown (n : Nat) (q : QPair) : (setQp n q s).domainDown = s.domainDown := rfl
@[simp] theorem setQp_seq (n : Nat) (q : QPair) : (setQp n q s).seq = s.seq := rfl
@[simp] theorem setQp_free (n : Nat) (q : QPair) : (setQp n q s).free = s.free := rfl
@[simp] theorem setQp_out (n : Nat) (q : QPair) : (setQp n q s).out = s.out := rfl
@[simp] theorem setQp_pending (n : Nat) (q : QPair) : (setQp n q s).pending = s.pending := rfl

/-! ## updQp -/

@[simp] theorem updQp_regs (n : Nat) (f : QPair → QPair) : (updQp n f s).regs = s.regs := rfl
@[simp] theorem updQp_headers (n : Nat) (f : QPair → QPair) : (updQp n f s).headers = s.headers := rfl
@[simp] theorem updQp_img (n : Nat) (f : QPair → QPair) : (updQp n f s).img = s.img := rfl
@[simp] theorem updQp_imgDigest (n : Nat) (f : QPair → QPair) : (updQp n f s).imgDigest = s.imgDigest := rfl
@[simp] theorem updQp_imgCopyB (n : Nat) (f : QPair → QPair) : (updQp n f s).imgCopyB = s.imgCopyB := rfl
@[simp] theorem updQp_dram (n : Nat) (f : QPair → QPair) : (updQp n f s).dram = s.dram := rfl
@[simp] theorem updQp_filled (n : Nat) (f : QPair → QPair) : (updQp n f s).filled = s.filled := rfl
@[simp] theorem updQp_fillMap (n : Nat) (f : QPair → QPair) : (updQp n f s).fillMap = s.fillMap := rfl
@[simp] theorem updQp_flash (n : Nat) (f : QPair → QPair) : (updQp n f s).flash = s.flash := rfl
@[simp] theorem updQp_ports (n : Nat) (f : QPair → QPair) : (updQp n f s).ports = s.ports := rfl
@[simp] theorem updQp_gate (n : Nat) (f : QPair → QPair) : (updQp n f s).gate = s.gate := rfl
@[simp] theorem updQp_spks (n : Nat) (f : QPair → QPair) : (updQp n f s).spks = s.spks := rfl
@[simp] theorem updQp_crypt (n : Nat) (f : QPair → QPair) : (updQp n f s).crypt = s.crypt := rfl
@[simp] theorem updQp_tier (n : Nat) (f : QPair → QPair) : (updQp n f s).tier = s.tier := rfl
@[simp] theorem updQp_mcs (n : Nat) (f : QPair → QPair) : (updQp n f s).mcs = s.mcs := rfl
@[simp] theorem updQp_til (n : Nat) (f : QPair → QPair) : (updQp n f s).til = s.til := rfl
@[simp] theorem updQp_pair (n : Nat) (f : QPair → QPair) : (updQp n f s).pair = s.pair := rfl
@[simp] theorem updQp_pwr (n : Nat) (f : QPair → QPair) : (updQp n f s).pwr = s.pwr := rfl
@[simp] theorem updQp_bring (n : Nat) (f : QPair → QPair) : (updQp n f s).bring = s.bring := rfl
@[simp] theorem updQp_husk (n : Nat) (f : QPair → QPair) : (updQp n f s).husk = s.husk := rfl
@[simp] theorem updQp_clk (n : Nat) (f : QPair → QPair) : (updQp n f s).clk = s.clk := rfl
@[simp] theorem updQp_pins (n : Nat) (f : QPair → QPair) : (updQp n f s).pins = s.pins := rfl
@[simp] theorem updQp_thermal (n : Nat) (f : QPair → QPair) : (updQp n f s).thermal = s.thermal := rfl
@[simp] theorem updQp_fw (n : Nat) (f : QPair → QPair) : (updQp n f s).fw = s.fw := rfl
@[simp] theorem updQp_fuses (n : Nat) (f : QPair → QPair) : (updQp n f s).fuses = s.fuses := rfl
@[simp] theorem updQp_queue (n : Nat) (f : QPair → QPair) : (updQp n f s).queue =
    { s.queue with pairs := kset QPair.init s.queue.pairs n (f (qpAt s n)) } := rfl
@[simp] theorem updQp_perf (n : Nat) (f : QPair → QPair) : (updQp n f s).perf = s.perf := rfl
@[simp] theorem updQp_dtime (n : Nat) (f : QPair → QPair) : (updQp n f s).dtime = s.dtime := rfl
@[simp] theorem updQp_domainDown (n : Nat) (f : QPair → QPair) : (updQp n f s).domainDown = s.domainDown := rfl
@[simp] theorem updQp_seq (n : Nat) (f : QPair → QPair) : (updQp n f s).seq = s.seq := rfl
@[simp] theorem updQp_free (n : Nat) (f : QPair → QPair) : (updQp n f s).free = s.free := rfl
@[simp] theorem updQp_out (n : Nat) (f : QPair → QPair) : (updQp n f s).out = s.out := rfl
@[simp] theorem updQp_pending (n : Nat) (f : QPair → QPair) : (updQp n f s).pending = s.pending := rfl

end Sys2Proof.Machine
end

