-- ==== Sys2Proof/Laws/Tables.lean ====
section
/-! SUPPORT. Sparse tables: a read after a write, and what keeps their order. -/

namespace Sys2Proof.Machine

variable {α : Type} {d x : α} {k j : Nat}

/-- Every key of a sorted table with head `(k, v)` lies above `k`. -/
theorem ksorted_cons {v : α} {m : KMap α} :
    ksorted ((k, v) :: m) = true ↔ ksorted m = true ∧ ∀ e ∈ m, k < e.1 := by
  induction m generalizing k v with
  | nil => simp [ksorted]
  | cons e m ih =>
    obtain ⟨j, w⟩ := e
    simp only [ksorted, Bool.and_eq_true, decide_eq_true_eq, List.mem_cons, forall_eq_or_imp]
    constructor
    · rintro ⟨hk, h⟩
      exact ⟨h, hk, fun e he => Nat.lt_trans hk ((ih.1 h).2 e he)⟩
    · rintro ⟨h, hk, -⟩
      exact ⟨hk, h⟩

theorem mem_kput {m : KMap α} {e : Nat × α} (h : e ∈ kput m k x) : e = (k, x) ∨ e ∈ m := by
  induction m with
  | nil => simp_all [kput]
  | cons a m ih =>
    obtain ⟨j, w⟩ := a
    simp only [kput] at h
    split at h
    · rcases List.mem_cons.1 h with h | h
      · exact .inl h
      · exact .inr (List.mem_cons_of_mem _ h)
    · split at h
      · rcases List.mem_cons.1 h with h | h
        · exact .inl h
        · exact .inr h
      · rcases List.mem_cons.1 h with h | h
        · exact .inr (h ▸ List.mem_cons_self ..)
        · rcases ih h with h | h
          · exact .inl h
          · exact .inr (List.mem_cons_of_mem _ h)

theorem mem_kdel {m : KMap α} {e : Nat × α} (h : e ∈ kdel m k) : e ∈ m := by
  induction m with
  | nil => simp_all [kdel]
  | cons a m ih =>
    obtain ⟨j, w⟩ := a
    simp only [kdel] at h
    split at h
    · exact List.mem_cons_of_mem _ h
    · split at h
      · exact h
      · rcases List.mem_cons.1 h with h | h
        · exact h ▸ List.mem_cons_self ..
        · exact List.mem_cons_of_mem _ (ih h)

theorem ksorted_kput {m : KMap α} (h : ksorted m = true) : ksorted (kput m k x) = true := by
  induction m with
  | nil => rfl
  | cons a m ih =>
    obtain ⟨j, w⟩ := a
    have h' := ksorted_cons.1 h
    simp only [kput]
    split
    · next e => exact e ▸ ksorted_cons.2 h'
    · split
      · next hk =>
        refine ksorted_cons.2 ⟨h, fun e he => ?_⟩
        rcases List.mem_cons.1 he with rfl | he
        · exact hk
        · exact Nat.lt_trans hk (h'.2 e he)
      · next h1 h2 =>
        refine ksorted_cons.2 ⟨ih h'.1, fun e he => ?_⟩
        rcases mem_kput he with rfl | he
        · show j < k; omega
        · exact h'.2 e he

theorem ksorted_kdel {m : KMap α} (h : ksorted m = true) : ksorted (kdel m k) = true := by
  induction m with
  | nil => rfl
  | cons a m ih =>
    obtain ⟨j, w⟩ := a
    have h' := ksorted_cons.1 h
    simp only [kdel]
    split
    · exact h'.1
    · split
      · exact h
      · exact ksorted_cons.2 ⟨ih h'.1, fun e he => h'.2 e (mem_kdel he)⟩

/-- A write keeps a table in order. -/
theorem ksorted_kset [DecidableEq α] {m : KMap α} (h : ksorted m = true) : ksorted (kset d m k x) = true := by
  unfold kset
  split
  · exact ksorted_kdel h
  · exact ksorted_kput h

theorem ksorted_filter {m : KMap α} {p : Nat × α → Bool} (h : ksorted m = true) : ksorted (m.filter p) = true := by
  induction m with
  | nil => rfl
  | cons a m ih =>
    obtain ⟨j, w⟩ := a
    have h' := ksorted_cons.1 h
    by_cases hp : p (j, w) = true
    · rw [List.filter_cons_of_pos hp]
      exact ksorted_cons.2 ⟨ih h'.1, fun e he => h'.2 e (List.mem_filter.1 he).1⟩
    · rw [List.filter_cons_of_neg hp]
      exact ih h'.1

theorem kget_of_above {m : KMap α} (h : ∀ e ∈ m, k < e.1) : kget d m k = d := by
  cases m with
  | nil => rfl
  | cons a m =>
    have := h a (List.mem_cons_self ..)
    obtain ⟨j, w⟩ := a
    simp only [kget]
    rw [if_neg (by simp at this; omega), if_pos this]

/-- What a put leaves at its key; no order is needed. -/
theorem kget_kput_same {m : KMap α} : kget d (kput m k x) k = x := by
  induction m with
  | nil => simp [kput, kget]
  | cons a m ih =>
    obtain ⟨j, w⟩ := a
    simp only [kput]
    split
    · simp [kget]
    · split
      · simp [kget]
      · next h1 h2 => simp [kget, h1, h2, ih]

theorem kget_kput_other {m : KMap α} (hm : ksorted m = true) (hj : j ≠ k) : kget d (kput m k x) j = kget d m j := by
  induction m with
  | nil => simp [kput, kget, hj]
  | cons a m ih =>
    obtain ⟨i, w⟩ := a
    have h' := ksorted_cons.1 hm
    simp only [kput]
    split
    · next e => subst e; simp [kget, hj]
    · split
      · next h1 h2 =>
        simp only [kget, if_neg hj]
        split
        · next h3 => rw [if_neg (by omega), if_pos (by omega)]
        · rfl
      · simp only [kget, ih h'.1]

theorem kget_kdel_same {m : KMap α} (hm : ksorted m = true) : kget d (kdel m k) k = d := by
  induction m with
  | nil => rfl
  | cons a m ih =>
    obtain ⟨i, w⟩ := a
    have h' := ksorted_cons.1 hm
    simp only [kdel]
    split
    · next e => exact kget_of_above (e ▸ h'.2)
    · split
      · next h1 h2 => simp [kget, h1, h2]
      · next h1 h2 => simp [kget, h1, h2, ih h'.1]

theorem kget_kdel_other {m : KMap α} (hm : ksorted m = true) (hj : j ≠ k) : kget d (kdel m k) j = kget d m j := by
  induction m with
  | nil => rfl
  | cons a m ih =>
    obtain ⟨i, w⟩ := a
    have h' := ksorted_cons.1 hm
    simp only [kdel]
    split
    · next e =>
      subst e
      simp only [kget, if_neg hj]
      split
      · next h => exact kget_of_above fun e he => Nat.lt_trans h (h'.2 e he)
      · rfl
    · split
      · rfl
      · simp only [kget, ih h'.1]

/-- A read at the key written gives the value written. -/
theorem kget_kset_same [DecidableEq α] {m : KMap α} (hm : ksorted m = true) : kget d (kset d m k x) k = x := by
  unfold kset
  split
  · next h => rw [kget_kdel_same hm, h]
  · exact kget_kput_same

/-- A write leaves every other key as it was. -/
theorem kget_kset_other [DecidableEq α] {m : KMap α} (hm : ksorted m = true) (hj : j ≠ k) :
    kget d (kset d m k x) j = kget d m j := by
  unfold kset
  split
  · exact kget_kdel_other hm hj
  · exact kget_kput_other hm hj

/-- A write of a value other than the default needs no order. -/
theorem kget_kset_ne [DecidableEq α] {m : KMap α} (hx : x ≠ d) : kget d (kset d m k x) k = x := by
  unfold kset
  rw [if_neg hx]
  exact kget_kput_same

end Sys2Proof.Machine
end

