-- ==== Sys2Proof/Laws/Ops.lean ====
section
/-! SUPPORT. One lemma for each shared operation, that says everything it does: causes, refused writes, guarded writes, updates of
every instance, registers, and DRAM with its canonical form. -/

namespace Sys2Proof.Machine

/-! ## One instance of many -/

theorem updAt_get {α : Type} {n : Nat} (v : Vector α n) (i j : Fin n) (f : α → α) :
    (updAt v i f)[j] = if i = j then f v[i] else v[j] := by
  simp only [updAt, Fin.getElem_fin, Vector.getElem_set]
  simp [Fin.ext_iff]

@[simp] theorem updAt_get_same {α : Type} {n : Nat} (v : Vector α n) (i : Fin n) (f : α → α) : (updAt v i f)[i] = f v[i] := by
  rw [updAt_get, if_pos rfl]

theorem updAt_get_other {α : Type} {n : Nat} (v : Vector α n) {i j : Fin n} (f : α → α) (h : i ≠ j) :
    (updAt v i f)[j] = v[j] := by
  rw [updAt_get, if_neg h]

/-- What every step of a fold leaves, the fold leaves. -/
theorem fold_keep {α β : Type} (π : State → α) (f : State → β → State) (h : ∀ b s, π (f s b) = π s) (l : List β) (s : State) :
    π (l.foldl f s) = π s := by
  induction l generalizing s with
  | nil => rfl
  | cons a l ih => rw [List.foldl_cons, ih, h]

theorem eachPort_keep {α : Type} (π : State → α) (f : Fin 4 → State → State) (h : ∀ b s, π (f b s) = π s) (s : State) :
    π (eachPort f s) = π s := fold_keep π _ (fun b s => h b s) _ s

theorem eachSpk_keep {α : Type} (π : State → α) (f : Fin 8 → State → State) (h : ∀ b s, π (f b s) = π s) (s : State) :
    π (eachSpk f s) = π s := fold_keep π _ (fun b s => h b s) _ s

theorem eachMc_keep {α : Type} (π : State → α) (f : Fin 16 → State → State) (h : ∀ b s, π (f b s) = π s) (s : State) :
    π (eachMc f s) = π s := fold_keep π _ (fun b s => h b s) _ s

/-! ## Causes (R440 to R445) -/

/-- A cause is set in its own block and in no other. -/
theorem raise_header (b d : Fin 40) (i : Nat) (c : Cap) (s : State) :
    (raise b i c s).headers[d] = if b = d then headerSet s.headers[b] i (capFor b i c) s.dtime else s.headers[d] := by
  rw [raise_headers, updAt_get]

/-- Setting a cause sets its bit and the count, and nothing that a write has set. -/
theorem headerSet_spec (h : Header) (i : Nat) (c : Cap) (now : Nat) :
    (headerSet h i c now).cause = h.cause ||| BitVec.ofNat 32 (1 <<< i) ∧ (headerSet h i c now).errCount = satAdd 48 h.errCount 1 ∧
    (headerSet h i c now).mask = h.mask ∧ (headerSet h i c now).armed = h.armed := by
  unfold headerSet
  split <;> simp

/-- The capture is taken exactly when none is held and the cause is not masked (R442, R443). -/
theorem headerSet_capture (h : Header) (i : Nat) (c : Cap) (now : Nat) :
    (h.firstValid = true ∨ h.mask.getLsbD i = true → (headerSet h i c now).firstValid = h.firstValid ∧
      (headerSet h i c now).feAddr = h.feAddr ∧ (headerSet h i c now).feSrc = h.feSrc ∧ (headerSet h i c now).feTime = h.feTime) ∧
    (h.firstValid = false → h.mask.getLsbD i = false → (headerSet h i c now).firstValid = true ∧
      (headerSet h i c now).feAddr = BitVec.ofNat 64 c.addr ∧ (headerSet h i c now).feSrc = feSrc i c ∧
      (headerSet h i c now).feTime = BitVec.ofNat 64 now) := by
  unfold headerSet
  constructor
  · intro hh
    rw [if_pos (by simpa using hh)]
    simp
  · intro h1 h2
    simp [h1, h2]

/-- A count stays within its bits. -/
theorem satAdd_lt (w a b : Nat) : satAdd w a b < 2 ^ w := by
  unfold satAdd
  have : 0 < 2 ^ w := Nat.two_pow_pos w
  omega

/-! ## Writes -/

/-- A refused write sets REFUSED_WRITE and its count in its block, tells the writer, and does nothing else (R15, R446). -/
theorem refusedWrite_refused (b : Fin 40) (m : Master) (off : Nat) (s : State) :
    Refused b m off s (refusedWrite b (refusedBit (blkType b).1) m off s) := by
  refine ⟨rfl, ?_, ?_, ?_⟩
  · simp only [refusedWrite, emit_headers, raise_header, if_pos, (headerSet_spec _ _ _ _).1, Nat.one_shiftLeft]
  · simp only [refusedWrite, emit_headers, raise_header, if_pos, (headerSet_spec _ _ _ _).2.1, satAdd]
  · intro d hd
    simp only [refusedWrite, emit_headers, raise_header, if_neg (Ne.symm hd)]

/-- A guarded write is performed, or refused in the block that holds the register. -/
theorem guardWrite_spec (m : Master) (off : Nat) (f : State → State) (s : State) :
    (blkOf off = none ∧ guardWrite m off f s = s) ∨
    ∃ b, blkOf off = some b ∧
      ((mayWrite s b (off - blkBase b) m = true ∧ guardWrite m off f s = f s) ∨
       (mayWrite s b (off - blkBase b) m = false ∧ Refused b m off s (guardWrite m off f s))) := by
  unfold guardWrite
  cases blkOf off with
  | none => exact .inl ⟨rfl, rfl⟩
  | some b =>
    refine .inr ⟨b, rfl, ?_⟩
    cases h : mayWrite s b (off - blkBase b) m with
    | true => exact .inl ⟨rfl, by simp only [h, if_true]⟩
    | false =>
      right
      simp only [h, Bool.false_eq_true, if_false]
      exact ⟨trivial, refusedWrite_refused b m off s⟩

/-! ## Registers -/

/-- A register reads as it was set, while the table is in order. -/
theorem regGet_regSet_same (a : Nat) (v : Word) (s : State) (h : ksorted s.regs = true) : regGet (regSet a v s) a = v :=
  kget_kset_same h

theorem regGet_regSet_other (a b : Nat) (v : Word) (s : State) (h : ksorted s.regs = true) (hb : b ≠ a) :
    regGet (regSet a v s) b = regGet s b := by
  show kget (regReset b) (kset (regReset a) s.regs a v) b = kget (regReset b) s.regs b
  unfold kset
  split
  · exact kget_kdel_other h hb
  · exact kget_kput_other h hb

theorem regSet_sorted (a : Nat) (v : Word) (s : State) (h : ksorted s.regs = true) : ksorted (regSet a v s).regs = true :=
  ksorted_kset h

/-! ## DRAM -/

/-- A line reads as it was written. -/
theorem dramGet_dramSet_same (a : Nat) (v : Image) (s : State) (h : ksorted s.dram = true) : dramGet (dramSet a v s) a = v :=
  kget_kset_same h

/-- A write leaves every other line as it was. -/
theorem dramGet_dramSet_other (a b : Nat) (v : Image) (s : State) (h : ksorted s.dram = true) (hb : b ≠ a) :
    dramGet (dramSet a v s) b = dramGet s b := by
  show kget (dramUnlisted s b) (kset (dramUnlisted s a) s.dram a v) b = kget (dramUnlisted s b) s.dram b
  unfold kset
  split
  · exact kget_kdel_other h hb
  · exact kget_kput_other h hb

/-- A write keeps the canonical form of memory: the one operation that writes DRAM is `dramSet`. -/
theorem dramSet_wf (a : Nat) (v : Image) (s : State) (h : Memory.wf s = true) : Memory.wf (dramSet a v s) = true := by
  unfold Memory.wf at *
  rw [Bool.and_eq_true, List.all_eq_true] at *
  refine ⟨ksorted_kset h.1, fun e he => ?_⟩
  have key : ∀ k, dramUnlisted (dramSet a v s) k = dramUnlisted s k := fun _ => rfl
  rw [key, decide_eq_true_eq]
  change e ∈ kset (dramUnlisted s a) s.dram a v at he
  unfold kset at he
  split at he
  · exact of_decide_eq_true (h.2 e (mem_kdel he))
  · next hv =>
    rcases mem_kput he with rfl | he
    · exact hv
    · exact of_decide_eq_true (h.2 e he)

theorem reset_memory_wf : Memory.wf State.reset = true := rfl

/-! ## Completion -/

/-- A command whose meaning is `.next (f s)` completes with whatever holds of `f s`. -/
theorem completes_of_next {c : Instr} {s t : State} {P : State → Prop} (h : exec c s = .next t) (hp : P t) : Completes c s P :=
  ⟨t, h, hp⟩

end Sys2Proof.Machine
end

