-- ==== Sys2Proof/Tests/Slice0.lean ====
section
/-! SUPPORT. The author's own tests: small states, witnesses for the hypotheses of the statements, ill-formed commands that the check
refuses, and the worked examples of the spec. -/

namespace Sys2Proof.Tests

open Sys2Proof Sys2Proof.Machine

set_option maxRecDepth 100000
set_option Elab.async false

/-! ## Small states -/

/-- A region of LD 0 of port 0: light, not shared, key 0xA6. -/
def regA : Region :=
  { number := 6, size := 30, shared := false, strong := false, awn := false, elastic := false, pinned := false, aliasW := 0
    defClass := 1, hasDef := true, defKey := 0xA6, keyBase := 0x200, dpaBase := 0, ownerLd := 0, heads := 0, headLd := [0, 0, 0, 0] }

/-- An elastic strong region of LD 3 of port 1, with four alias bits. -/
def regB : Region :=
  { number := 7, size := 32, shared := false, strong := true, awn := false, elastic := true, pinned := false, aliasW := 4
    defClass := 3, hasDef := true, defKey := 0xA7, keyBase := 0x210, dpaBase := 0x8000000000, ownerLd := 0x13, heads := 0
    headLd := [0, 0, 0, 0] }

/-- An image with an SLD link at port 0 and an MLD link at port 1, both x16. -/
def img0 : SolvikImage :=
  { seq := 7, rollback := 3, portMask := 3, bifurcation := [0, 0, 0, 0]
    links := [(1, 3), (0, 0), (0, 0), (0, 0), (3, 3), (0, 0), (0, 0), (0, 0), (0, 0), (0, 0), (0, 0), (0, 0), (0, 0), (0, 0), (0, 0), (0, 0)]
    rate := 6400, rowBits := 16, stack := 0, ranks := 1, dpc2 := false, unit256 := false, trfc := 300, hotLimit := 85
    spare := List.replicate 16 0
    map := [0x4C50000000, 0x4C50000000, 0x4C6FFFF000, 0x4000000000, 0x4400000000, 0x4420000000, 0x4421000000, 0x4421080000,
      0x4421088000, 0x4430000000, 0x4440000000, 0, 0x4000000000, 0x4C40000000, 0x4C44000000, 0x4C44000000, 0x4C80000000,
      0x1000000, 0x8000004000000000, 0x4C6FFFF000] ++ List.replicate 14 0
    branBase := 0x4C80000000, branSize := 0x1000000, threshold := 1000, ueLimit := 4, caLimit := 4, deltaT := 10
    scrubEnable := true, fiAllowed := true, scrubRate := 24, scrubReserve := 20, pkgLimit := 200, vcoreMv := 800, vsramMv := 800
    rails := 0x10, uvMv := 10800, ovMv := 13200, insertMs := 400, pfwMv := 11000, cooldownMs := 2000, outEnable := 0xF
    outs := List.replicate 4 ⟨20000, 5000, (List.range 8).map fun k => (11000 + 1000 * k, 80000 - 10000 * k)⟩
    patch := [], ownerKey := [], ownerCert := []
    lds := (List.range 64).map fun t => ⟨t = 0 || t = 0x10 || t = 0x13, 0, false, 0⟩
    portFlags := [2, 2, 0, 0], regions := [regA, regB]
    keys := [⟨0xA6, false, true, 1, 1, 1, 1⟩, ⟨0xA7, false, true, 2, 3, 0x80000, 0x80000⟩, ⟨0x212, true, false, 2, 3, 0x80000, 0⟩]
    window := 1000, shift := 3, holdNs := 200, tBi := 100, classes := List.replicate 8 ⟨1000, 0, 256, 1023, 1000⟩
    pools := [(64, 32, 1), (64, 32, 1)], paired := false, preferred := false, formWait := 0, reissueWindow := 0, macInterval := 0
    pairTimeout := 0, peerId := 0, predecessor := 0, compat := 0, faultInjection := true, locks := 0, branHash := 0, branLen := 64 }

/-- The state right after power-on with that image loaded. -/
def si : State := { State.reset with img := some img0 }

/-- The same after the release, ACTIVE, with firmware running and every channel ACTIVE. -/
def sr : State :=
  { si with
    bring := { Bringup.init with step := 9, kind := 1, released := true, infoValid := true, mboxReady := true }
    pwr := { Pwr.init with state := .active }, fw := ⟨true, true, false, [], []⟩
    pins := { Pins.init with powerGood := true, perst := Vector.replicate 4 false }
    mcs := Vector.replicate 16 { Mc.init with state := .active, dramReset := false } }

/-- One link up at full width, port 0 in a given state. -/
def linkUp : Link := { Link.init with up := true, trained := true, width := 16, speed := 3, flit256 := true }
def portIn (st : PortState) (s : State) : State :=
  updPort 0 (fun o => { o with state := st, links := o.links.set 0 linkUp }) s
def withPort (f : Port → Port) (s : State) : State := updPort 0 f s
def withBring (f : Bringup → Bringup) (s : State) : State := { s with bring := f s.bring }
def withPwr (f : Pwr → Pwr) (s : State) : State := { s with pwr := f s.pwr }
def withOut (f : Output → Output) (s : State) : State := updOut 0 f s
def withMc (f : Mc → Mc) (s : State) : State := updMc 0 f s
def withSpk (f : Spk → Spk) (s : State) : State := updSpk 0 f s
def withHusk (f : Husk → Husk) (s : State) : State := { s with husk := f s.husk }
def withTil (f : Tiller → Tiller) (s : State) : State := { s with til := f s.til }
def withPair (f : Pair → Pair) (s : State) : State := { s with pair := f s.pair }

/-! ## A remap tree -/

/-- The lines of four remap trees as the memory engine seals them under the all-zero key of a state that has none, and their
counter nodes: DPA 0x1000 of LD 0 in a leaf of 2^30 bytes at MPA 0x40000000; DPA 0x8000001000 of LD 3 of port 1 in such a
leaf; the same page as a packed leaf with its descriptor at 0x4C40000000; and the first leaf with KEY_POLICY set. -/
def treeA : KMap Image × List (Nat × Line) :=
  ([(0x26280000, 0x6539c840ed7d6b369a5fd1fc13327dc3a171c9ab4021fcea34e6509e1812caaebf1d9ccceb051b85b62e8786fc77e9792e6f17975fb45b91896913433cf263f25fe481ea12dbbf5a9591c5ec0b06b2f1),
    (0x4026280000, 0x856ed4d43b232959cbc8356ae7fbc1f122b3718f28ec5fcc2cab6d9d4a1696407a62edd4eec4695ef616802b51f0464d172587a16901f4f3a573e02270790c201111f2491db016ae2896536fde7fd36d),
    (0xc026280000, 0xda4fe1dcf7ae50953b055f4b8c5ac432fd8bb8a545d61fab2627002d911d1d449bb4ac5098be61d33b6d1cc38550d41442a09d94b769f84d478fb5c1995dd93bf5e96dd3181a8cf5a9731ead3097ba3b)],
   [(0x4262806000, 0xc707fc89c39c31640000000000000000000000000000000000000000000000000000000000000000000000000000000000000000000000010000000000000000),
    (0x4262807000, 0xbd348800e501edf40000000000000000000000000000000000000000000000000000000000000000000000000000000000000000000000010000000000000000),
    (0x4262805000, 0x2c5799d85832652a0000000000000000000000000000000000000000000000000000000000000000000000000000000000000000000000010000000000000000)])
def treeB : KMap Image × List (Nat × Line) :=
  ([(0x26280000, 0x6539c840ed7d6b369a5fd1fc13321ca2a171c9ab4021fcea34e6509e1812caaebf1d9ccceb051b85b62e8786fc77e9792e6f17975fb45b91896913433cf263f25fe481a642db9f5b9591c5a05b0692f0),
    (0x4026280002, 0x68c67ed1421a82365a9de6bdfca5a34ff8ad4d10f1580b632c470acb73b2fbb31432b7ea6c3480f76d439f4f0344129be1bc448b0398d177131c8806ca4991a9f2c8df688a678f62a9a0e4947600863a),
    (0xc026280000, 0xda4fe1dcf7ae50953b055f4b8c5ac432fd8bb8a545d61fab2627002d911d1d449bb4ac5098be61d33b6d1cc38550d41442a09d94b769f84d478fb5c1995dd93bf5e96dd3181a8cf5a9731ead3097ba3b)],
   [(0x4262806000, 0xc707fc89c39c31640000000000000000000000000000000000000000000000000000000000000000000000000000000000000000000000010000000000000000),
    (0x4262807000, 0xbd348800e501edf40000000000000000000000000000000000000000000000000000000000000000000000000000000000000000010000000000000000000000),
    (0x4262805000, 0x2c5799d85832652a0000000000000000000000000000000000000000000000000000000000000000000000000000000000000000000000010000000000000000)])
def treeP : KMap Image × List (Nat × Line) :=
  ([(0x26280000, 0x6539c840ed7d6b369a5fd1fc13321ca2a171c9ab4021fcea34e6509e1812caaebf1d9ccceb051b85b62e8786fc77e9792e6f17975fb45b91896913433cf263f25fe481a642db9f5b9591c5a05b0692f0),
    (0x4026280002, 0x68c67ed1421a82365a9de6bdfca5a34ff8ad4d10f1580b632c470acb73b2fbb31432b7ea6c3480f76d439f4f0344129be1bc448b0398d177131c8806ca4991a9f2c8df688a678f62a9a0e4947600863a),
    (0x8026280000, 0xcabc3abf5738219b48ab2f1fbfe8646c16d48ab03ef853543f72dd278a48d7412a6ed1cf87191f801d4cb5eb3a180112462f0efa4b4449162c35c14d5fc4f91a14d90083c8ca4eeec59dc0f9d3ea9796),
    (0xc026280000, 0xda4fe1dcf7ae50953b055f4b8c5ac46ffd8bb8a545d61fab2627002d911d1d449bb4ac5098be61d33b6d1cc38550d41442a09d94b769f84d478fb5c1995dd93bf5e96dd3181a8cf5d1731ee120978a39),
    (0x14026280000, 0x11646531bc60be05cb6dc9bc2946392f4ce135b57ebeb37d68f74bb7c47a5062709725d718f414560eb8a06be985a8e77adaa7035e384c806476e8d78502d03910bf32bbeb7f6c8737052f9ec7c44b90)],
   [(0x4262806000, 0xc707fc89c39c31640000000000000000000000000000000000000000000000000000000000000000000000000000000000000000000000010000000000000000),
    (0x4262807000, 0xbd348800e501edf40000000000000000000000000000000000000000000000000000000000000000000000000000000000000000010000000000000000000000),
    (0x4262804000, 0xc7124fa1ef33465f0000000000000000000000000000000000000000000000000000000000000000000000000000000000000000000000010000000000000000),
    (0x4262805000, 0x2c5799d85832652a0000000000000000000000000000000000000000000000000000000000000000000000000000000000000000000000010000000000000000),
    (0x4262803000, 0x60948b5d090327930000000000000000000000000000000000000000000000000000000000000000000000000000000000000000000000010000000000000000)])

def treeK : KMap Image × List (Nat × Line) :=
  ([(0x26280000, 0x6539c840ed7d6b369a5fd1fc13327dc3a171c9ab4021fcea34e6509e1812caaebf1d9ccceb051b85b62e8786fc77e9792e6f17975fb45b91896913433cf263f25fe481ea12dbbf5a9591c5ec0b06b2f1),
    (0x4026280000, 0x856ed4d43b232959cbc8356ae7fbc1f122b3718f28ec5fcc2cab6d9d4a1696407a62edd4eec4695ef616802b51f0464d172587a16901f4f3a573e02270790c201111f2491db016ae2896536fde7fd36d),
    (0xc026280000, 0xd7e553a8738e3c4f13e62aee6bf1d28758328cf5ace8607eb634e36be65b0836817320c321ccb749b5825f3ec1fa8cd11e5e5d56a854397fd7cbb4526c1f57a7c28fb987a08e0b608cb90efabb6feb1f)],
   [(0x4262806000, 0xc707fc89c39c31640000000000000000000000000000000000000000000000000000000000000000000000000000000000000000000000010000000000000000),
    (0x4262807000, 0xbd348800e501edf40000000000000000000000000000000000000000000000000000000000000000000000000000000000000000000000010000000000000000),
    (0x4262805000, 0x2c5799d85832652a0000000000000000000000000000000000000000000000000000000000000000000000000000000000000000000000020000000000000000)])

/-- The tree in DRAM, its counter nodes in the caches of the homes, and SHF_ROOT at its root. -/
def withTree (t : KMap Image × List (Nat × Line)) (s : State) : State :=
  t.2.foldl (fun u n => updSpk (spkOf n.1) (fun k => { k with culm := kset ⟨0, false, .pkt, 0, 0, false⟩ k.culm n.1 ⟨n.2, true, .node 0, 6, 1, false⟩ }) u)
    { regSet offShfRoot 0x4C50000000 s with dram := t.1, filled := true }

/-! ## A boot flash -/

/-- A signed image of 2206 bytes, as a number in little-endian order. -/
def imgNum : Nat :=
  0x8db2039d8ec17f99f6403a944cdea2264b1543d6791abc7c50b67e3d8f7b376e75cb7bc34b92bc7e10686af96b8a7c0d745e8d9cf8883b8e54da268ce52050788de967e5cc8c38c7411ec5247a2c1a4ca2f2c5849527ef373a0a24d597a1af480000006001ff000000000000000000400afc2438865a89b09b3375a1f06647213ac7147957383c6962b6d7b654cfefa5f8efd4a4744aa84b7a3d6b11b79e2c9f00000038010a0000000000000000000100000008010900000000000000000000000000000000000000000000000000000000000000000000000000000000000000000000000000000000000000000000000000000000000000000000000000000000000000000000000000000000000000000000000000000000000000000000000000000000000000000070010800000000000000000064000000400000040000000000000000640000004000000400000000200107000000000000000007d003ff0040000800c800000000000007d003ff0040000800c800000000000007d003ff0040000800c800000000000007d003ff0040000800c800000000000007d003ff0040000800c800000000000007d003ff0040000800c800000000000007d003ff0040000800c800000000000007d003ff0040000800c8027601f4000403e800000088010600000000000000000000000000000008000000000000003212120000000000000000000000000008000000000000002201210000000000000000000000000008000000000000002201200000000000010000000000000001000000000000003220a80000000000080000000000000008000000000000003220a70000000000010001000000000001000100000000001120a60000000000080000000000000008000000000000002220a50000000000000007000000b00105000000000000000000100000009000000000020180a830041f0800000000000000130000008000000000021080a7340e200700000000000000000000000000000000020080a610021e0600000000000000130000004000000000012080a5240624050000000000000004000000680104000000000000000002020000000000000000000000000000000000000000000000000000000000000000000000000000000000000000000000000000000000000000000000000000000000000000000000000000000000000000000000000000000000000000000000000000000000000000000000000000000000000000000000000000000000000000000000000000000000000000000000000000000000000000000000000000000000000000000000000000000000000000800000000000000000000000900000a60000000000000000000000000000000000000000000000000000000000000000000000000000000000000000000000000000000000000000000000008000000000000104010300005f0eea907c1d437a9d817e1dceb1600ac0b8f0b51331dae97c149a28bd1df4f829dc9292bf989e5d6f2c26964ade1736b70a7672385e543a6c2955bf5df20255382a5482e041f759989ba78b623b1d6e74ad20f31ec7b18e37058bbe22ca87aa000000600101000045c08b790596b047f141b6eb7cabb64f3942d8ce49303f505360d80805191770d173b4a96a2c584af57080edf7a9cce783dc188cb22be578c7f795e3431754632b601b264c9f8fad0808a7721c12ae18f6355bc90e850f3987b55e919560f9fb0000006000ff0000000027100000465000004e20000042680000753000003e8000009c4000003a980000c350000036b00000ea60000032c80001117000002ee00001388000002af80000138800004e20000027100000465000004e20000042680000753000003e8000009c4000003a980000c350000036b00000ea60000032c80001117000002ee00001388000002af80000138800004e20000027100000465000004e20000042680000753000003e8000009c4000003a980000c350000036b00000ea60000032c80001117000002ee00001388000002af80000138800004e20000027100000465000004e20000042680000753000003e8000009c4000003a980000c350000036b00000ea60000032c80001117000002ee00001388000002af80000138800004e2000000000000f07d02af8019033902a30000001300006000000100320032000c800000008000500001418030a040403e80000000800040000000000000000000000000000000000000000000000000000000000000000000000000000000000000000000000000000000000000000000000000000000000000000000000000000000000000000000000000000000000000000000000000000000000000000000000000000000000000000004c6ffff000800000400000000000000000010000000000004c800000000000004c440000000000004c440000000000004c4000000000000040000000000000000000000000000000444000000000000044300000000000004421088000000000442108000000000044210000000000004420000000000000440000000000000040000000000000004c6ffff0000000004c500000000000004c50000000000001100003000000000000000000000000000000000055012c000100101900000000180002000000000000000000000000000f0000000d00000000ffffff0300000018000100000000000000000000000000000000000000000000000000000000000000000000000000000000000000000000000000000000000000000000000000000000000000000000000000000000000000000000000000000000000000000000000000000000000000000000000000000000000008380000089e000000000000000700000000000000000000000000000000000000000000000000000000000000000000000000000000000000000000000000000000000000000000000000000000000000000000000000000000000000000000000000000000000000000000000000000000000003b0000000000000000000000000000000b0081600014b564c53

def imgBytes : List Byte := natToBytes 2206 imgNum

def flashAt (off : Nat) (bs : List Byte) : KMap Byte := (bs.zipIdx.map fun e => (off + e.2, e.1)).filter fun e => e.2 ≠ 0xFF

/-- The image as copy B, with the 64 bytes of its BRAN. -/
def flashB : KMap Byte := flashAt (imageOff true) imgBytes ++ flashAt (branOff true) ((List.range 64).map (BitVec.ofNat 8))

/-- Copy A as well, with a lower IMAGE_SEQ. -/
def flashAB : KMap Byte := flashAt (imageOff false) (imgBytes.set 128 6) ++ flashB

/-- A BOOT record that prefers copy A, which is erased. -/
def bootHead : List Byte :=
  let head : List Byte := [0x53, 0x4C, 0x56, 0x42, 0, 0, 0, 0]
  head ++ natToBytes 4 (crc32c head)
def flashBoot : KMap Byte := flashAt 0 bootHead ++ flashB

/-! ## Copies in the flash and free choices -/

theorem dropWhile_later (f : KMap Byte) (lo off : Nat) (h : lo ≤ off) :
    f.dropWhile (fun e => e.1 < off) = (f.dropWhile (fun e => e.1 < lo)).dropWhile (fun e => e.1 < off) := by
  induction f with
  | nil => rfl
  | cons x xs ih =>
    by_cases hx : x.1 < lo
    · have : x.1 < off := by omega
      simp [hx, this, ih]
    · simp [List.dropWhile_cons, hx]

theorem flashRead_same (s t : State) (lo off n : Nat) (h : lo ≤ off)
    (hf : s.flash.dropWhile (fun e => e.1 < lo) = t.flash.dropWhile (fun e => e.1 < lo)) :
    flashRead s off n = flashRead t off n := by
  unfold flashRead
  rw [dropWhile_later s.flash lo off h, dropWhile_later t.flash lo off h, hf]

theorem consistent_same (i : SolvikImage) (s t : State) : consistent i s = consistent i t := rfl

/-- The checks of copy B depend on the fuses and on the flash from copy B on. -/
theorem checkCopy_same (s t : State) (hu : s.fuses = t.fuses)
    (hf : s.flash.dropWhile (fun e => e.1 < 0x110000) = t.flash.dropWhile (fun e => e.1 < 0x110000)) :
    checkCopy s true = checkCopy t true := by
  have r : ∀ off n, 0x110000 ≤ off → flashRead s off n = flashRead t off n := fun off n h => flashRead_same s t _ off n h hf
  unfold checkCopy checkBody ownerFuseOk
  rw [hu]
  simp only [r (imageOff true) _ (by decide), r (branOff true) _ (by decide), consistent_same _ s t]

def accepted : CopyCheck → Bool
  | .ok _ _ => true
  | .refused _ => false

theorem of_accepted {c : CopyCheck} (h : accepted c = true) : ∃ i d, c = .ok i d := by
  cases c with
  | ok i d => exact ⟨i, d, rfl⟩
  | refused r => cases h

/-! The checks of that image, one by one: each is its own evaluation. -/

def stateB : State := { State.reset with flash := flashB }

/-- The two messages that the image signs: Zaloux's part and the owner's. -/
def zalouxPart : List Byte := imgBytes.take 128 ++ (imgBytes.drop 256).take (944 - 256)
def ownerPart : List Byte := imgBytes.take 2104

/-- A signature holds when its two multiples of points do (FIPS 186). -/
theorem ecdsa_of_points {x y r s w u1 u2 zi : Nat} {d : BitVec 384} {p q : JPoint}
    (hr : (!(decide (r = 0) || decide (n384 ≤ r) || decide (s = 0) || decide (n384 ≤ s) || !keyOnCurve x y)) = true)
    (hw : powMod n384 384 s (n384 - 2) = w) (h1 : d.toNat * w % n384 = u1) (h2 : r * w % n384 = u2)
    (hp : jMul 384 u1 (gx384, gy384, 1) = p) (hq : jMul 384 u2 (x, y, 1) = q)
    (hz : powMod p384 384 (jAdd p q).2.2 (p384 - 2) = zi)
    (hx : ((jAdd p q).2.2 != 0 && ((jAdd p q).1 * zi % p384 * zi % p384) % n384 == r) = true) : ecdsaVerify x y d r s = true := by
  subst hw h1 h2 hp hq hz
  simp only [Bool.not_eq_true', Bool.or_eq_false_iff, decide_eq_false_iff_not, Bool.and_eq_true, bne_iff_ne] at hr hx
  unfold ecdsaVerify
  rw [if_neg (by simp only [not_or]; exact ⟨hr.1.1.1.1, hr.1.1.1.2, hr.1.1.2, hr.1.2, by simpa using hr.2⟩)]
  simp only [if_neg hx.1, hx.2]

def zalouxP : JPoint :=
  (25590182779941036946007400698468874469465594303860424913199393736392771507495764463258532738080575197570654269326429,
   4629065404891920818418614600307476664596347396050892684165290986112949747253825865361355080982608751302782190693392,
   9071410027087324697977677906881149882372784709257134630755105257661559422611550713432510087940239986850046347043087)
def zalouxQ : JPoint :=
  (12757477032430634729595377716298315814632896481971866426217176599223793070218857653290485275814467747571567098886310,
   6417711076498088521995650080817799926003887361540081083078183304312446939017491926387390417223544126018721589373173,
   17552065743456130661520829477903642019579327979987996727843976305449629644456219896632260050071614081309688441613394)
def ownerP : JPoint :=
  (31325397029523307368627378534916676466715043846679125585155937921581776923435006549604288397161301147299365624103071,
   2188688223250975344070753530616370792484175610089838763458343343512450930285138469966565376318141817762356071530701,
   22283254023730702434385015991521027906862948821089265632525441039804565435266917320708908230723735017823285448501112)
def ownerQ : JPoint :=
  (28188245726638478864150998507169820277264758920761927493452094399071419138204966241816538619788054387574371603202863,
   8500100509817664497782012260682183761787353777184725280506157261123301282052945968351244901974150270525947154822222,
   36429827286417096417350551283818408707332840963397993131965966884798716860686309623664988978446667117632830206876842)

theorem test_zaloux_digest : sha384 zalouxPart =
    0xf99d62636f833db1e17343620faeece2dd40fd42fc691e392bd63b3cb0a710e65c12d5ba74b216541568aaffe112cfeb#384 := by decide +kernel

theorem test_owner_digest : sha384 ownerPart =
    0xe09b704fbf1dd142c5aa8d28baa191a0bf2111e9c1f531d6dc38cfbde8450aa367d15542a894f1c8b27a2dfa6d2d103d#384 := by decide +kernel

theorem test_zaloux_base_multiple :
    jMul 384 18174687375641257003921410336501698558640374170109132292525022109453432383832761848581479250262099681840788109609017
      (gx384, gy384, 1) = zalouxP := by decide +kernel

theorem test_zaloux_key_multiple :
    jMul 384 21227318820753222208357629763641915246439365100356314375421883170174227015280501720817477057890196543482112839233321
      (gx384, gy384, 1) = zalouxQ := by decide +kernel

theorem test_owner_base_multiple :
    jMul 384 14857727096084134524284007890601962419080974982846661212082433366143636103768701772393848196311971097934455860119346
      (gx384, gy384, 1) = ownerP := by decide +kernel

theorem test_owner_key_multiple :
    jMul 384 24544279100310344687995032209541651385998764287618785455864471913484023295344561797005108111840323815620023912223588
      (gx384, gy384, 1) = ownerQ := by decide +kernel

theorem test_zaloux_signature : signedBy gx384 gy384 (imgBytes.take 128 ++ (imgBytes.drop 256).take (944 - 256))
    ((imgBytes.drop (944 + 6)).take 96) = true := by
  unfold signedBy
  rw [show imgBytes.take 128 ++ (imgBytes.drop 256).take (944 - 256) = zalouxPart from rfl, test_zaloux_digest]
  exact ecdsa_of_points (by decide +kernel) rfl (by decide +kernel) (by decide +kernel) test_zaloux_base_multiple
    test_zaloux_key_multiple rfl (by decide +kernel)

theorem test_owner_signature : signedBy gx384 gy384 (imgBytes.take 2104) ((imgBytes.drop (2104 + 6)).take 96) = true := by
  unfold signedBy
  rw [show imgBytes.take 2104 = ownerPart from rfl, test_owner_digest]
  exact ecdsa_of_points (by decide +kernel) rfl (by decide +kernel) (by decide +kernel) test_owner_base_multiple
    test_owner_key_multiple rfl (by decide +kernel)

/-- What the checks after the signatures ask of the sections. -/
def bodyChecks (s : State) (b : Bool) (bs : List Byte) : Bool :=
  match sections 64 256 (bs.drop 256) with
  | none => false
  | some ss => sectionsOk ss (le bs 24 4) (le bs 140 4) && fieldsOk ss && consistent (imageOf bs ss) s &&
    decide (sha384 (flashRead s (branOff b) (imageOf bs ss).branLen) = (imageOf bs ss).branHash)

theorem accepted_of_checks {s : State} {b : Bool} {bs k : List Byte}
    (h3 : (decide (le bs (le bs 24 4) 2 = 0xFF) && signedBy s.fuses.zalouxX.toNat s.fuses.zalouxY.toNat
      (bs.take 128 ++ (bs.drop 256).take (le bs 24 4 - 256)) ((bs.drop (le bs 24 4 + 6)).take 96)) = true)
    (hk : ownerKeyOf bs = some k) (h4 : ownerFuseOk s (some k) = true)
    (h5 : signedBy (bytesToNatBE (k.take 48)) (bytesToNatBE (k.drop 48)) (bs.take (le bs 140 4)) ((bs.drop (le bs 140 4 + 6)).take 96) = true)
    (h6 : (decide (le bs 16 8 < s.fuses.rollback) || decide (64 < le bs 16 8)) = false) (h7 : bodyChecks s b bs = true) :
    accepted (checkBody s b bs) = true := by
  unfold bodyChecks at h7
  unfold checkBody
  simp only [hk, h3, h4, h5, h6, Bool.not_true, Bool.false_eq_true, if_false]
  split at h7
  · cases h7
  · next ss e =>
    simp only [Bool.and_eq_true, decide_eq_true_eq] at h7
    simp only [e, h7.1.1.1, h7.1.1.2, h7.1.2, h7.2, Bool.not_true, Bool.false_eq_true, if_false, ne_eq, not_true_eq_false]
    rfl

theorem test_image_bytes : flashRead stateB (imageOff true) 2206 = imgBytes := by decide +kernel

theorem test_image_header : le (flashRead stateB (imageOff true) 256) 0 4 = 0x4B564C53 ∧
    le (flashRead stateB (imageOff true) 256) 136 4 = 2206 ∧ headerOk (flashRead stateB (imageOff true) 256) 2206 = true := by
  decide +kernel

theorem test_image_ends : le imgBytes 24 4 = 944 ∧ le imgBytes 140 4 = 2104 ∧ le imgBytes 944 2 = 0xFF := by decide +kernel

theorem test_zaloux_key : stateB.fuses.zalouxX.toNat = gx384 ∧ stateB.fuses.zalouxY.toNat = gy384 := by decide +kernel

theorem test_image_owner_key : ∃ k, ownerKeyOf imgBytes = some k ∧ bytesToNatBE (k.take 48) = gx384 ∧ bytesToNatBE (k.drop 48) = gy384 := by
  have h : ((ownerKeyOf imgBytes).any fun k => bytesToNatBE (k.take 48) == gx384 && bytesToNatBE (k.drop 48) == gy384) = true := by
    decide +kernel
  cases e : ownerKeyOf imgBytes with
  | none => rw [e] at h; cases h
  | some k => rw [e] at h; exact ⟨k, rfl, by simpa using h⟩

theorem test_image_body : bodyChecks stateB true imgBytes = true := by decide +kernel

/-- The image passes every check of Table 13.16 as copy B. -/
theorem test_image_accepted : accepted (checkCopy { State.reset with flash := flashB } true) = true := by
  obtain ⟨e1, e2, e3⟩ := test_image_ends
  obtain ⟨k, hk, hx, hy⟩ := test_image_owner_key
  obtain ⟨m, t, h⟩ := test_image_header
  have hb : accepted (checkBody stateB true imgBytes) = true := by
    refine accepted_of_checks (k := k) ?_ hk rfl ?_ (by decide +kernel) test_image_body
    · rw [e1, e3, test_zaloux_key.1, test_zaloux_key.2, test_zaloux_signature]
      rfl
    · rw [e2, hx, hy, test_owner_signature]
  change accepted (checkCopy stateB true) = true
  unfold checkCopy
  simp only [m, t, h, test_image_bytes, ne_eq, not_true_eq_false, Bool.not_true, Bool.false_eq_true, if_false]
  exact hb

theorem dropWhile_before (a b : KMap Byte) (h : a.all (fun e => decide (e.1 < 0x110000)) = true) :
    (a ++ b).dropWhile (fun e => decide (e.1 < 0x110000)) = b.dropWhile (fun e => decide (e.1 < 0x110000)) := by
  induction a with
  | nil => rfl
  | cons x xs ih =>
    rw [List.all_cons, Bool.and_eq_true] at h
    rw [List.cons_append, List.dropWhile_cons, if_pos h.1, ih h.2]

theorem copyB_ok (s : State) (a : KMap Byte) (h : a.all (fun e => decide (e.1 < 0x110000)) = true) (hu : s.fuses = Fuses.init)
    (hf : s.flash = a ++ flashB) : ∃ i d, checkCopy s true = .ok i d := by
  rw [checkCopy_same s { State.reset with flash := flashB } hu (by rw [hf]; exact dropWhile_before a flashB h)]
  exact of_accepted test_image_accepted

theorem some_of {α β : Type} {r : Option α × β} (h : r.1.isSome = true) : ∃ d t, r = (some d, t) := by
  obtain ⟨o, t⟩ := r
  cases o with
  | none => cases h
  | some d => exact ⟨d, t, rfl⟩

/-- With one free page the free choice (log entry 4) has one outcome. -/
theorem allocPick_one (n : Fin 2) (ok : Nat → Bool) (s : State) (h : s.tier.pools[n].free.foldl (fun a r => a + r.2) 0 = 1) :
    allocPick n ok s =
      if poolFree s s.tier.pools[n] = 0 then (none, s)
      else match (nthPage s.tier.pools[n].free 0).bind fun pg => nearPage s s.tier.pools[n].free pg ok with
        | some pg => (some (pg <<< 12), setPool n (takePage pg) { s with free := s.free + 1 })
        | none => (none, { s with free := s.free + 1 }) := by
  unfold allocPick
  simp only [h, drawChoice, Nat.mod_one] <;> rfl

/-- With one free descriptor likewise. -/
def oneDesc (s : State) (ok : Nat → Bool) : Option Nat × State :=
  match (nthPage s.tier.descFree 0).bind fun a => seekFree s.tier.descFree a fun d => ok (64 * d) with
  | some d => (some (64 * d), { s with free := s.free + 1, tier := { s.tier with descFree := takePage d s.tier.descFree } })
  | none => (none, { s with free := s.free + 1 })

theorem takeDesc_one (s : State) (ok : Nat → Bool) (h : s.tier.descFree.foldl (fun n r => n + r.2) 0 = 1) :
    takeDesc s ok = oneDesc s ok := by
  unfold takeDesc oneDesc
  simp only [h, drawChoice, Nat.mod_one, if_neg Nat.one_ne_zero] <;> rfl

/-- The check does not read the power state, nor the check field itself (R409). -/
theorem sealCheck_same (s : State) (p : Pwr) (r : Seal) (c : BitVec 32) :
    sealCheck { s with pwr := p } { r with check := c } = sealCheck s r := rfl

/-! ## Well-formedness: an ill-formed term for each check, which the check refuses -/

def ctl0 : FlitCtl := ⟨0, false, false, 0, 0, 0⟩
def hdr0 : MirrorHdr := ⟨false, false, false, 0, 0, 0, 0, 0, 0, 0, 0⟩
def upd0 : SfUpdate := ⟨false, 0, 0, 0, 0⟩
def req0 : FormReq := ⟨false, false, false, false, false, 0, 0, 0, 0⟩
def spd0 : DimmSpd := ⟨true, 0, 0, 0, 0, 0, 0⟩

/-- The first command is well formed and none of the others is. -/
def refuses (good : Instr) (bad : List Instr) : Bool := good.wf && bad.all fun c => !c.wf

theorem test_ill_formed_1 :
    refuses (.spdCheckDone 0 none none) [.spdCheckDone 0 (some { spd0 with densityGb := 256 }) none, .spdCheckDone 0 none (some
      { spd0 with densityGb := 256 })] = true ∧
    refuses (.channelTrained 0 [] 0 0) [.channelTrained 0 [] 2048 0, .channelTrained 0 [] (-2049) 0, .channelTrained 0 [] 0 2048,
      .channelTrained 0 [] 0 (-2049)] = true ∧
    refuses (.channelRestore 0 false 0 0 []) [.channelRestore 0 false 2048 0 [], .channelRestore 0 false (-2049) 0 [],
      .channelRestore 0 false 0 2048 [], .channelRestore 0 false 0 (-2049) []] = true ∧
    refuses (.linkTrained 0 0 16 3 false) [.linkTrained 0 0 3 3 false, .linkTrained 0 0 16 0 false, .linkTrained 0 0 16 4 false] =
      true ∧
    refuses (.linkLaneLoss 0 0 0) [.linkLaneLoss 0 0 16] = true ∧
    refuses (.linkRecoveryDone 0 0 16) [.linkRecoveryDone 0 0 2] = true ∧
    refuses (.ideIntegrityFailure 0 0 []) [.ideIntegrityFailure 0 0 [65536]] = true ∧
    refuses (.decoderCommit 0 0 0 0 0 0 0) [.decoderCommit 0 0 0 (2 ^ 64) 0 0 0, .decoderCommit 0 0 0 0 (2 ^ 64) 0 0, .decoderCommit
      0 0 0 0 0 16 0, .decoderCommit 0 0 0 0 0 0 16] = true ∧
    refuses (.memRd 0 0 0 0 0 .data .good) [.memRd 0 0 0 65536 0 .data .good, .memRd 0 0 0 0 (2 ^ 52) .data .good] = true := by
      decide +kernel

theorem test_ill_formed_2 :
    refuses (.memWr 0 0 0 0 0 0 false .good) [.memWr 0 0 0 65536 0 0 false .good, .memWr 0 0 0 0 (2 ^ 52) 0 false .good] = true ∧
    refuses (.memWrPtl 0 0 0 0 0 0 0 .good) [.memWrPtl 0 0 0 65536 0 0 0 .good, .memWrPtl 0 0 0 0 (2 ^ 52) 0 0 .good] = true ∧
    refuses (.memInv 0 0 0 0 0 .good) [.memInv 0 0 0 65536 0 .good, .memInv 0 0 0 0 (2 ^ 52) .good] = true ∧
    refuses (.memClnEvct 0 0 0 0 0 .good) [.memClnEvct 0 0 0 65536 0 .good, .memClnEvct 0 0 0 0 (2 ^ 52) .good] = true ∧
    refuses (.walkRead 0 0 .good) [.walkRead 64 0 .good, .walkRead 0 0 { Parity.good with key := true }] = true ∧
    refuses (.homeRequest 0 0 .good) [.homeRequest 0 257 .good] = true ∧
    refuses (.birsp 0 0 .i .good) [.birsp 0 256 .i .good] = true ∧
    refuses (.biConflict 0 0 .good) [.biConflict 0 256 .good] = true ∧
    refuses (.culmNodeFetchDone 0 0 0 .good) [.culmNodeFetchDone 0 (2 ^ 44) 0 .good, .culmNodeFetchDone 0 32 0 .good,
      .culmNodeFetchDone 0 0 0 { Parity.good with key := true }] = true := by decide +kernel

theorem test_ill_formed_3 :
    refuses (.reencryptionDone 0 0) [.reencryptionDone 0 (2 ^ 44), .reencryptionDone 0 32] = true ∧
    refuses (.culmRetagDone 0 0) [.culmRetagDone 0 (2 ^ 44), .culmRetagDone 0 32] = true ∧
    refuses (.doeDiscovery 0 0 0) [.doeDiscovery 0 0 256] = true ∧
    refuses (.compressionJobDone 0 0 []) [.compressionJobDone 0 0 [List.replicate 1025 0]] = true ∧
    refuses (.forwardRepoint 0 0) [.forwardRepoint 0 (2 ^ 44), .forwardRepoint 0 32] = true ∧
    refuses (.migrationCopy 0 0 .good) [.migrationCopy 0 0 { Parity.good with key := true }] = true ∧
    refuses (.promote 0 0 0 0) [.promote 0 65536 0 0, .promote 0 0 64 0, .promote 0 0 0 (2 ^ 45), .promote 0 0 0 64] = true ∧
    refuses (.demote 0 0 0 0) [.demote 0 65536 0 0, .demote 0 0 64 0, .demote 0 0 0 (2 ^ 45), .demote 0 0 0 64] = true ∧
    refuses (.retirePage 0 0 0) [.retirePage 0 65536 0, .retirePage 0 0 (2 ^ 44), .retirePage 0 0 64] = true := by decide +kernel

theorem test_ill_formed_4 :
    refuses (.portEnable 0 0 0) [.portEnable 0 65536 0, .portEnable 0 0 4] = true ∧
    refuses (.portDisable 0 0 0) [.portDisable 0 65536 0, .portDisable 0 0 4] = true ∧
    refuses (.qosSet 0 0 0 0) [.qosSet 0 65536 0 0, .qosSet 0 0 65536 0] = true ∧
    refuses (.pin 0 0 0 0 0) [.pin 0 65536 0 0 0, .pin 0 0 64 0 0, .pin 0 0 0 (2 ^ 45) 0, .pin 0 0 0 64 0, .pin 0 0 0 0 46] = true ∧
    refuses (.unpin 0 0 0 0 0) [.unpin 0 65536 0 0 0, .unpin 0 0 64 0 0, .unpin 0 0 0 (2 ^ 45) 0, .unpin 0 0 0 64 0, .unpin 0 0 0 0
      46] = true ∧
    refuses (.leave 0 0) [.leave 0 65536] = true ∧
    refuses (.handover 0 0) [.handover 0 65536] = true ∧
    refuses (.reload 0 0 0) [.reload 0 65536 0, .reload 0 0 3] = true ∧
    refuses (.rest 0 0) [.rest 0 65536] = true := by decide +kernel

theorem test_ill_formed_5 :
    refuses (.refab 0 0) [.refab 0 4] = true ∧
    refuses (.refreshEnd 0 0) [.refreshEnd 0 4] = true ∧
    refuses (.dimmTempRead 0 none none) [.dimmTempRead 0 (some 2048) none, .dimmTempRead 0 none (some 2048)] = true ∧
    refuses (.scrubRead 0 0 .good) [.scrubRead 0 0 { Parity.good with key := true }] = true ∧
    refuses (.caParityError 0 0 0) [.caParityError 0 (2 ^ 44) 0, .caParityError 0 32 0, .caParityError 0 0 6] = true ∧
    refuses (.rankCopyLine 0 0 .good) [.rankCopyLine 0 0 { Parity.good with key := true }] = true ∧
    refuses (.idleFlit ⟨ctl0, false, 0⟩) [.idleFlit ⟨{ ctl0 with ack := 4096 }, false, 0⟩] = true ∧
    refuses (.dataFlit ⟨ctl0, false, 0⟩ 0 0) [.dataFlit ⟨{ ctl0 with ack := 4096 }, false, 0⟩ 0 0, .dataFlit ⟨ctl0, false, 0⟩ 4096
      0] = true ∧
    refuses (.macFlit ⟨ctl0, false, 0⟩ 0 0) [.macFlit ⟨{ ctl0 with ack := 4096 }, false, 0⟩ 0 0, .macFlit ⟨ctl0, false, 0⟩ 4096 0] =
      true := by decide +kernel

theorem test_ill_formed_6 :
    refuses (.initFlit ⟨ctl0, false, 0⟩ 0) [.initFlit ⟨{ ctl0 with ack := 4096 }, false, 0⟩ 0] = true ∧
    refuses (.linkKey 0 0 0) [.linkKey 0 0 4096] = true ∧
    refuses (.mirrorWr hdr0 0 .good) [.mirrorWr { hdr0 with qos := 8 } 0 .good] = true ∧
    refuses (.mirrorPwr hdr0 0 0 .good) [.mirrorPwr { hdr0 with qos := 8 } 0 0 .good] = true ∧
    refuses (.mirrorAck 0 0) [.mirrorAck 4096 0, .mirrorAck 0 3] = true ∧
    refuses (.lineFetch 0 0 0 0 .good) [.lineFetch 64 0 0 0 .good, .lineFetch 0 4096 0 0 .good, .lineFetch 0 0 4096 0 .good,
      .lineFetch 0 0 0 (2 ^ 45) .good, .lineFetch 0 0 0 32 .good] = true ∧
    refuses (.lineData 0 0 0) [.lineData 4096 0 0, .lineData 0 3 0] = true ∧
    refuses (.sfSync [upd0]) [.sfSync [], .sfSync (List.replicate 29 upd0), .sfSync [{ upd0 with ldTag := 64 }]] = true ∧
    refuses (.sfReject upd0) [.sfReject { upd0 with ldTag := 64 }] = true := by decide +kernel

theorem test_ill_formed_7 :
    refuses (.resyncReq 0 0 0 .good) [.resyncReq 64 0 0 .good, .resyncReq 0 46 0 .good, .resyncReq 0 0 (2 ^ 45) .good, .resyncReq 0
      0 64 .good, .resyncReq 0 0 0 { Parity.good with key := true }] = true ∧
    refuses (.resyncZero 0 0 .good) [.resyncZero 64 0 .good, .resyncZero 0 (2 ^ 45) .good, .resyncZero 0 64 .good, .resyncZero 0 0
      { Parity.good with key := true }] = true ∧
    refuses (.resyncDone 0 0 0 false false) [.resyncDone 64 0 0 false false, .resyncDone 0 46 0 false false, .resyncDone 0 0 (2 ^
      45) false false, .resyncDone 0 0 64 false false] = true ∧
    refuses (.heartbeat 0 false 0 0) [.heartbeat 6 false 0 0, .heartbeat 0 false 256 0, .heartbeat 0 false 0 (2 ^ 64)] = true ∧
    refuses (.timeReq 0) [.timeReq (2 ^ 64)] = true ∧
    refuses (.timeRsp 0 0) [.timeRsp (2 ^ 64) 0, .timeRsp 0 (2 ^ 64)] = true ∧
    refuses (.formReq req0) [.formReq { req0 with epoch := 256 }, .formReq { req0 with gen := (2 ^ 64) }] = true ∧
    refuses (.formRsp 0 false false) [.formRsp 4 false false] = true ∧
    refuses (.handoverMsg 0) [.handoverMsg 256] = true := by decide +kernel

theorem test_ill_formed_8 :
    refuses (.feedQualify 0 0) [.feedQualify 0 65536] = true ∧
    refuses (.feedUnderVoltage 0 0) [.feedUnderVoltage 0 65536] = true ∧
    refuses (.feedOverVoltage 0 0) [.feedOverVoltage 0 65536] = true ∧
    refuses (.reverseCurrent 0 0) [.reverseCurrent 0 65536] = true ∧
    refuses (.inputLost 0) [.inputLost 65536] = true ∧
    refuses (.rampDone 0 0) [.rampDone 0 65536] = true ∧
    refuses (.currentLimit 0 0) [.currentLimit 0 65536] = true ∧
    refuses (.limitClear 0 0) [.limitClear 0 65536] = true ∧
    refuses (.fastTrip 0 0) [.fastTrip 0 65536] = true := by decide +kernel

theorem test_ill_formed_9 :
    refuses (.outputDischarged 0 0) [.outputDischarged 0 65536] = true ∧
    refuses (.cooldownEnd 0 0) [.cooldownEnd 0 65536] = true ∧
    refuses (.pfwAssert 0) [.pfwAssert 65536] = true ∧
    refuses (.pfwRelease 0) [.pfwRelease 65536] = true ∧
    refuses (.zero 0 0 .good) [.zero 0 65536 .good] = true ∧
    refuses (.discard 0 0 .good) [.discard 0 65536 .good] = true ∧
    refuses (.copy 0 0 .good) [.copy 0 65536 .good] = true ∧
    refuses (.fetchAdd 0 0 .good) [.fetchAdd 0 65536 .good] = true ∧
    refuses (.swap 0 0 .good) [.swap 0 65536 .good] = true := by decide +kernel

theorem test_ill_formed_10 :
    refuses (.cas8 0 0 .good) [.cas8 0 65536 .good] = true ∧
    refuses (.cas16 0 0 .good) [.cas16 0 65536 .good] = true ∧
    refuses (.hintHot 0 0 .good) [.hintHot 0 65536 .good] = true ∧
    refuses (.hintCold 0 0 .good) [.hintCold 0 65536 .good] = true ∧
    refuses (.cqPin 0 0 .good) [.cqPin 0 65536 .good] = true ∧
    refuses (.cqUnpin 0 0 .good) [.cqUnpin 0 65536 .good] = true ∧
    refuses (.flush 0 0) [.flush 0 65536] = true ∧
    refuses (.loopback 0 0 0) [.loopback 0 65536 0] = true ∧
    refuses (.badDesc 0 0) [.badDesc 0 65536] = true := by decide +kernel

theorem test_ill_formed_11 :
    refuses (.getEventRecords 0 0 0) [.getEventRecords 0 0 4] = true ∧
    refuses (.clearEventRecords 0 0 0 false []) [.clearEventRecords 0 0 4 false [], .clearEventRecords 0 0 0 false [65536]] = true ∧
    refuses (.setEventInterruptPolicy 0 0 []) [.setEventInterruptPolicy 0 0 [256]] = true ∧
    refuses (.transferFw 0 0 0 0 0 []) [.transferFw 0 0 256 0 0 [], .transferFw 0 0 0 256 0 [], .transferFw 0 0 0 0 (2 ^ 39) []] =
      true ∧
    refuses (.activateFw 0 0 false 0) [.activateFw 0 0 false 256] = true ∧
    refuses (.setTimestamp 0 0 0) [.setTimestamp 0 0 (2 ^ 64)] = true ∧
    refuses (.getLog 0 0 0 0) [.getLog 0 0 (2 ^ 32) 0, .getLog 0 0 0 (2 ^ 32)] = true ∧
    refuses (.setShutdownState 0 0 0) [.setShutdownState 0 0 256] = true ∧
    refuses (.getPoisonList 0 0 0 0 0) [.getPoisonList 0 0 0 (2 ^ 45) 0, .getPoisonList 0 0 0 32 0, .getPoisonList 0 0 0 0 (2 ^ 39)]
      = true := by decide +kernel

theorem test_ill_formed_12 :
    refuses (.injectPoison 0 0 0 0) [.injectPoison 0 0 0 (2 ^ 45), .injectPoison 0 0 0 32] = true ∧
    refuses (.clearPoison 0 0 0 0 0) [.clearPoison 0 0 0 (2 ^ 45) 0, .clearPoison 0 0 0 32 0] = true ∧
    refuses (.getScanMediaCapabilities 0 0 0 0 0) [.getScanMediaCapabilities 0 0 0 (2 ^ 45) 0, .getScanMediaCapabilities 0 0 0 32 0,
      .getScanMediaCapabilities 0 0 0 0 (2 ^ 39)] = true ∧
    refuses (.scanMedia 0 0 0 0 0) [.scanMedia 0 0 0 (2 ^ 45) 0, .scanMedia 0 0 0 32 0, .scanMedia 0 0 0 0 (2 ^ 39)] = true ∧
    refuses (.unsupportedOpcode 0 0 0) [.unsupportedOpcode 0 0 65536] = true ∧
    refuses (.bootFlashWrite 0 0 []) [.bootFlashWrite 0 (2 ^ 26 + 1) []] = true ∧
    refuses (.pldmType2 0) [.pldmType2 65536] = true ∧
    refuses (.zalouxVendorMessage 0) [.zalouxVendorMessage (2 ^ 24)] = true ∧
    refuses (.badAccess .germ 0 0 false) [.badAccess .germ (2 ^ 24) 0 false] = true := by decide +kernel

theorem test_ill_formed_13 :
    refuses (.registerWrite .germ 0 0 0) [.registerWrite .germ (2 ^ 24) 0 0] = true ∧
    refuses (.thermalWarn 0 0) [.thermalWarn 0 2048, .thermalWarn 0 (-2049)] = true ∧
    refuses (.thermalTrip 0 0) [.thermalTrip 0 2048, .thermalTrip 0 (-2049)] = true ∧
    refuses (.failedFlit false 0) [.failedFlit false 256] = true ∧
    refuses (.regulationFloorCrossed 0 0) [.regulationFloorCrossed 0 65536] = true ∧
    refuses (.breakerCurveSample 0 0 0 0) [.breakerCurveSample 65536 0 0 0, .breakerCurveSample 0 65536 0 0, .breakerCurveSample 0 0
      65536 0, .breakerCurveSample 0 0 0 65536] = true := by decide +kernel

/-! ## Worked examples of the spec -/

/-- A geometry of four logical ranks of four chip identifiers with 17 row bits (R200's example). -/
def geomR : Geom := ⟨17, 2, 4, false⟩

/-- The home of MPA 0x3A2_1CE7_8880 is SPK_2, its LA and coordinates in either unit, the line in the row as column (04_coherence.md:22, Table 8.3). -/
theorem test_worked_place : home 0x3A21CE78880 = 2 ∧ localAddr 0x3A21CE78880 = 0x74439CF880 ∧
    mpaOf 2 0x74439CF880 = 0x3A21CE78880 ∧ populated geomR = 2 ^ 44 ∧
    coordOf geomR 2 0x74439CF880 = ⟨4, 1, 0, 3, 1, 0, 0x14439, 0x67⟩ ∧
    coordOf { geomR with unit256 := true } 2 0x74439CF880 = ⟨4, 0, 0, 3, 7, 0, 0x14439, 0x66⟩ := by decide +kernel

/-- The spill slot of the line at MPA 0x0A1_2345_6780 (05_protection.md:289). -/
theorem test_worked_spill_slot : place134 0xC000000000 512 8 0x8000000000 0xA123456780 = 0xC4246884F0 := by decide +kernel

/-- Keystream block 1 of a line at major counter 0x13 and minor counter 0x02B (05_protection.md:172). -/
theorem test_worked_keystream_input : inputBlock 0x3A21CE78880 ⟨0x13, 0x2B⟩ 1 0 = 0x3A21CE788800000000000000_4C0AD000 := by
  decide +kernel

/-- Eight counters that step by 0x10 are BD1 of 17 bytes, by 0x20 BD2 of 25 (06_glume_format.md:54). -/
theorem test_worked_awn_line :
    glumeL (lineOfWords ((List.range 8).map fun i => 0x7F3A00001000 + BitVec.ofNat 64 (16 * i))) =
      some [0x11, 0, 0x10, 0, 0, 0x3A, 0x7F, 0, 0, 0, 0x10, 0x20, 0x30, 0x40, 0x50, 0x60, 0x70] ∧
    (glumeL (lineOfWords ((List.range 8).map fun i => 0x7F3A00001000 + BitVec.ofNat 64 (32 * i)))).map List.length = some 25 := by
  decide +kernel

def workedStream : List Byte := [0xB4, 0x30, 0xC1, 0x12, 0xF0, 0xCB, 0x83, 0, 0, 0x3F, 0x3E, 0x02, 0xF8, 0x03]
def workedPlain : List Byte := (List.replicate 128 [0x5A, 0x4C, 0x58, 0x01]).flatten ++ List.replicate 512 0

/-- The worked block: its header says LZ and 22 bytes, its stream gives the plaintext, it takes one granule (Table 6.6). -/
theorem test_worked_block : (lzBlock false workedStream workedPlain).take 4 = [0x16, 0, 0, 0x10] ∧
    glumeBDecode (lzBlock false workedStream workedPlain) = .ok workedPlain ∧
    blockLength (lzBlock false workedStream workedPlain) = 22 ∧ granulesOf 22 = 1 := by decide +kernel

def workedDesc : Line := lineOfWords [0x3A21CE789, 0xCE78A00000000000, 0x3A21CE78B3A21, 0, 0, 0x1CE78D3A21CE78C0,
  0x27C93A21CE78E3A2, 0x11]

/-- The worked descriptor (Table 7.2). -/
theorem test_worked_descriptor : (List.range 4).map (descGranules workedDesc) =
      [[0x3A21CE789], [0x3A21CE78A, 0x3A21CE78B], [], [0x3A21CE78C, 0x3A21CE78D, 0x3A21CE78E]] ∧
    descKey workedDesc = 0x127 ∧ descKeyState workedDesc = 1 ∧ descForm workedDesc = 0 := by decide +kernel

/-- Device 3 returns 0x11 XORed into symbol 3 of codeword 5: data byte 43 is repaired (09_ecc_ras.md:48). -/
theorem test_worked_repair : strongDecode (xorByte (strongEncode .plain 0x1234) 43 0x11) 8 = some (strongEncode .plain 0x1234, [3]) ∧
    synd0 (xorByte (strongEncode .plain 0) 43 0x11) 5 = synd0 (strongEncode .plain 0) 5 ^^^ 0x11 ∧
    gf256Mul 0x08 0x11 = 0x88 := by decide +kernel

def sampled : State := takeSample 0 3 3800 (regSetField offEwmaCfg 0 4 4 (regSetField (offQosTarget 3) 0 20 2000
  (updSpk 0 (fun q => { q with ewma := q.ewma.set 3 (1400 * 256), orderedActive := false }) State.reset)))

/-- A sample of 3,800 ns moves E from 1,400 to 1,550 ns with SHIFT 4, and BOOST becomes 1 (10_qos_latency.md:52). -/
theorem test_worked_sample : ewmaOf sampled 0 3 = 1550 * 256 ∧ sampled.spks[(0 : Fin 8)].boost.getD 3 0 = 1 := by decide +kernel

/-- The worked decode: DPA 0x43_4567_8880 under alias 7, and back (02_host_ports.md:130). -/
theorem test_worked_decode :
    let d : Decoder := ⟨0x20000000000, 2 ^ 40, 256, 1, true, false⟩
    let r : Region := { regA with size := 36, dpaBase := 0x4000000000, aliasW := 4 }
    let o := decodeOffset d 0x27345678880
    o >>> r.size = 7 ∧ r.dpaBase + o % 2 ^ r.size = 0x4345678880 ∧ hpaOf d 0 r 7 0x4345678880 = 0x27345678880 := by decide +kernel

/-- The worked descriptor of a CAS8 and its completion entry (Table 17.10). -/
theorem test_worked_completion :
    cqEntry 0x2A true ⟨0, 1, 5, true, false⟩ 0x77 = (0x77 <<< 192) ||| (5 <<< 64) ||| 0x1_0100802A := by decide +kernel

/-- The populated balls of Table 21.1. -/
theorem test_ball_count : ballCount = 5620 := by decide +kernel

/-! ## Published vectors -/

/-- SHA-384 of "abc" (FIPS 180-4). -/
theorem test_sha384_abc : sha384 [0x61, 0x62, 0x63] =
    0xCB00753F45A35E8BB5A03D699AC65007272C32AB0EDED1631A8B605A43FF5BED8086072BA1E7CC2358BAECA134C825A7 := by decide +kernel

/-- AES-256 of the vector of FIPS 197, appendix C.3. -/
theorem test_aes256_fips197 : aes 0x000102030405060708090A0B0C0D0E0F101112131415161718191A1B1C1D1E1F
    0x00112233445566778899AABBCCDDEEFF = 0x8EA2B7CA516745BFEAFC49904B496089 := by decide +kernel

/-- CRC-32C of the bytes "123456789" (its check value). -/
theorem test_crc32c_check : crc32c [0x31, 0x32, 0x33, 0x34, 0x35, 0x36, 0x37, 0x38, 0x39] = 0xE3069283 := by decide +kernel

/-- The generator of P-384 lies on the curve (FIPS 186). -/
theorem test_p384_generator : keyOnCurve gx384 gy384 = true := by decide +kernel

/-! ## The machine as a whole, formats and the domain -/

/-- A device whose link stands in HELD, with its hold-off run out. -/
def heldLink : State := regSetField offTilCtl 1 1 1 { sr with til := { sr.til with state := .held, holdNs := 0, slew := 0 } }

theorem witness_StepRunsFrontCommand : ({ sr with pending := [.pfwNLow, .pfwNLow] } : State).pending = .pfwNLow :: [.pfwNLow] ∧
    sr.pending = [] ∧ heldLink.pending = [] ∧ heldLink.til.state = .held ∧ holdDown heldLink = true ∧ heldLink.til.holdNs = 0 ∧
    heldLink.til.slew = 0 ∧ ∀ n : Fin 192, flag (regGet heldLink (offPerfSel n)) 63 = false := by decide +kernel

theorem witness_RunInvariantKeptByEveryStep : runInvariant sr = true ∧ ∃ t, step sr = .next t := ⟨by decide +kernel, _, rfl⟩

/-- A sealed line of the strong code with its tag in the spill slot, and one that is an awn. -/
theorem witness_SealedLineOpens :
    (sealLine ⟨1, 2, 3⟩ ⟨true, false⟩ 0x40 ⟨0, 0⟩ 5).spill.isSome = true ∧ (sealLine ⟨1, 2, 3⟩ ⟨true, true⟩ 0x40 ⟨0, 0⟩ 5).spill = none := by
  decide +kernel

theorem witness_TillerMessagesRoundTrip : msgFits (.resyncDone 1 2 0x3000 true false) = true ∧
    msgFits (.lineFetch 63 4095 4095 (2 ^ 45 - 64)) = true := by decide +kernel

theorem witness_PlaceIsOneToOne : 2 ^ 44 - 1 < 2 ^ 44 ∧ 7 < 8 ∧ 2 ^ 41 - 1 < 2 ^ 41 := by decide

def viralPort : State := { portIn .viral sr with domainDown := true }

theorem witness_ViralLeftOnlyByReset : viralPort.domainDown = true ∧ ¬ resetsDevice (.portEnable 0 0x40 0) ∧
    (∃ t, exec (.portEnable 0 0x40 0) viralPort = .next t) ∧ viralPort.ports[(0 : Fin 4)].state = .viral :=
  ⟨rfl, by simp [resetsDevice], ⟨_, rfl⟩, by decide +kernel⟩

/-- A member of a pair with an open request at an existing port, and a port that does not exist. -/
def openPort : State := withPort (fun o => { o with reqs := [⟨rawReq 9 (.host 0 0 0 5) 0 .wr 64 0 0 false, .egress, false, false, false, false⟩] })
  { portIn .enabled sr with pair := { sr.pair with role := .primary } }

theorem witness_DomainDownActs : openPort.domainDown = false ∧ openPort.pair.role = .primary ∧ portExists 0 openPort = true ∧
    portExists 2 openPort = false ∧ (∃ r ∈ openPort.ports[(0 : Fin 4)].reqs, r.discard = false ∧ r.req.src = .host 0 0 0 5 ∧ port4 0 = 0) ∧
    ksorted openPort.queue.pairs = true := by decide +kernel

/-! ## Witnesses: states and operands that meet the hypotheses of each clause of the statements together -/

/-! ### Registers, headers and counters (chapters 18, 19, 22) -/

namespace OnRegisters

def sHeld : State := { State.reset with headers := State.reset.headers.set 3 { Header.init with firstValid := true, errCount := 2 ^ 48 - 1 } }
def sMask : State := { State.reset with headers := State.reset.headers.set 3 { Header.init with mask := 1 } }
def sArm : State := { sr with headers := sr.headers.set 3 { Header.init with armed := 2 } }
def sSel : State := regSet (offPerfSel 0) 0x8000000000000000 State.reset
def sCnt : State := { State.reset with perf := { State.reset.perf with window := .counting, counts := [(3, 5)], ovf := [(0, 4)] } }
def sWait : State := { State.reset with perf := { State.reset.perf with window := .waiting } }

theorem witness_HeaderWritesByAdmittedMasters :
    ((isGerm Master.germ = true ∨ isBran Master.germ = true ∨ isHost Master.germ = true)) ∧
    ((isGerm (Master.bran (1 : Fin 4)) = true ∨ isBran (Master.bran (1 : Fin 4)) = true ∨ isHost (Master.bran (1 : Fin 4)) = true)) ∧
    (isGerm Master.germ = true) ∧
    (¬(isGerm Master.bmc = true ∨ isBran Master.bmc = true ∨ isHost Master.bmc = true)) ∧
    (¬isGerm (Master.bran (1 : Fin 4)) = true) ∧
    (¬isGerm Master.sequencer = true) :=
  ⟨by decide +kernel, by decide +kernel, by decide +kernel, by decide +kernel, by decide +kernel, by decide +kernel⟩

theorem witness_CausesCaptureAndInject :
    (31 < 32) ∧
    (0 < 32 ∧ (sHeld.headers[(3 : Fin 40)].firstValid = true ∨ sHeld.headers[(3 : Fin 40)].mask.getLsbD 0 = true)) ∧
    (0 < 32 ∧ (sMask.headers[(3 : Fin 40)].firstValid = true ∨ sMask.headers[(3 : Fin 40)].mask.getLsbD 0 = true)) ∧
    (0 < 32 ∧ State.reset.headers[(3 : Fin 40)].firstValid = false ∧ State.reset.headers[(3 : Fin 40)].mask.getLsbD 0 = false) ∧
    ((isGerm Master.germ = true ∨ isHost Master.germ = true) ∧ fiPermitted si = true) ∧
    ((isGerm (Master.link (0 : Fin 4) (0 : Fin 4)) = true ∨ isHost (Master.link (0 : Fin 4) (0 : Fin 4)) = true) ∧ fiPermitted sr = true) ∧
    ((isGerm Master.germ = true ∨ isHost Master.germ = true) ∧ fiPermitted sr = true ∧ (4 : BitVec 32) ≠ (0 : BitVec 32)) ∧
    (fiPermitted State.reset = false) ∧
    (sArm.headers[(3 : Fin 40)].armed ≠ (0 : BitVec 32) ∧ sArm.fw.germUp = true ∧ coreOn sArm = true) :=
  ⟨by decide +kernel, by decide +kernel, by decide +kernel, by decide +kernel, by decide +kernel, by decide +kernel, by decide +kernel,
    by decide +kernel, by decide +kernel⟩

theorem witness_RegisterAccessCheckedAndStored :
    ((2 ≠ 4 ∧ 2 ≠ 8 ∨ 524568 % 2 ≠ 0 ∨ blkOf 524568 = none)) ∧
    ((8 ≠ 4 ∧ 8 ≠ 8 ∨ 524572 % 8 ≠ 0 ∨ blkOf 524572 = none)) ∧
    ((8 ≠ 4 ∧ 8 ≠ 8 ∨ 655360 % 8 ≠ 0 ∨ blkOf 655360 = none)) ∧
    (ksorted State.reset.regs = true) :=
  ⟨by decide +kernel, by decide +kernel, by decide +kernel, by decide +kernel⟩

theorem witness_PerfCountersAndWindow :
    ((isGerm Master.germ = true ∨ isHost Master.germ = true) ∧ tablesOrdered State.reset = true ∧ ksorted State.reset.perf.counts = true ∧
      badSelect ↑(0 : Fin 192) (1 : Word) = false) ∧
    ((isGerm (Master.link (0 : Fin 4) (0 : Fin 4)) = true ∨ isHost (Master.link (0 : Fin 4) (0 : Fin 4)) = true) ∧ tablesOrdered State.reset
      = true ∧ ksorted State.reset.perf.counts = true ∧ badSelect ↑(0 : Fin 192) (255 : Word) = true) ∧
    ((isGerm (Master.link (0 : Fin 4) (0 : Fin 4)) = true ∨ isHost (Master.link (0 : Fin 4) (0 : Fin 4)) = true) ∧ tablesOrdered State.reset
      = true ∧ ksorted State.reset.perf.counts = true ∧ flag (regGet State.reset (offPerfSel ↑(0 : Fin 192))) 63 = false) ∧
    ((isGerm (Master.link (0 : Fin 4) (0 : Fin 4)) = true ∨ isHost (Master.link (0 : Fin 4) (0 : Fin 4)) = true) ∧ tablesOrdered sSel = true
      ∧ ksorted sSel.perf.counts = true ∧ flag (regGet sSel (offPerfSel ↑(0 : Fin 192))) 63 = true) ∧
    ((isGerm (Master.link (0 : Fin 4) (0 : Fin 4)) = true ∨ isHost (Master.link (0 : Fin 4) (0 : Fin 4)) = true) ∧ tablesOrdered sSel = true
      ∧ flag (1 : Word) 2 = false) ∧
    ((isGerm Master.germ = true ∨ isHost Master.germ = true) ∧ tablesOrdered sCnt = true ∧ flag (3 : Word) 2 = false ∧ sCnt.perf.window =
      WindowState.counting) ∧
    ((isGerm Master.germ = true ∨ isHost Master.germ = true) ∧ tablesOrdered sWait = true ∧ flag (3 : Word) 2 = false ∧ sWait.perf.window ≠
      WindowState.counting) ∧
    (sWait.perf.window = WindowState.waiting) :=
  ⟨by decide +kernel, by decide +kernel, by decide +kernel, by decide +kernel, by decide +kernel, by decide +kernel, by decide +kernel,
    by decide +kernel⟩

end OnRegisters

/-! ### Starts and resumes (chapter 14) -/

namespace OnStarts

def sOff : State := { sr with pins := { sr.pins with vddAux := false } }
def sStook : State := withPwr (fun p => { p with state := .stook }) sr
def sealZ : Seal := { valid := true, stookKind := false, clean := false, entry := 0, copyB := false, digest := 0, vcore := 800, vsram := 800, slots := [], salt := 1, km := 2, hm := 3, root := Vector.replicate 8 4, save := [], check := 0 }
def sKept : State := withBring (fun _ => Bringup.init) (withPwr (fun p => { p with state := .start, sealRec := some sealZ }) sr)
def sDm : State := { sr with dram := [(5, 3)], regs := [(0x390100, 5), (0x380110, 7)] }
def sealT : Seal := { sealZ with check := sealCheck State.reset sealZ }
def sWarm : State := withPwr (fun p => { p with state := .rest, sealRec := some sealT }) State.reset
def sBad : State := withPwr (fun p => { p with state := .rest, sealRec := some sealT }) (regSetField offHuskSeal 4 1 1 State.reset)
def sInv : State := withPwr (fun p => { p with state := .rest, sealRec := some {sealT with valid := false} }) (State.reset)
def stepAt (n : Nat) (s : State) : State := withBring (fun b => { b with step := n, released := false }) s
def sC1 : State := stepAt 1 State.reset
def sC2 : State := stepAt 2 si
def spd (good ok : Bool) : State := withMc (fun m => { m with state := .spd, pmicGood := good, spdOk := ok }) (stepAt 4 si)
def spdA : DimmSpd := ⟨true, 16, 1, 1, 4, 6400, 310⟩
def outsOn : Vector Output 4 := Vector.replicate 4 { Output.init with state := .on, commanded := true, aboveFloor := true, rampAt := 1 }
def spdOn : State := withHusk (fun h => { h with outs := outsOn }) (withMc (fun m => { m with pmicAt := some 0 }) (spd false true))
def trn : State := withMc (fun m => { m with state := .training }) (stepAt 5 si)
def case1 : State := withMc (fun m => {m with state := .spd, pmicAt := some 7}) (stepAt 4 sr)
def case2 : State := (stepAt 5 (withMc (fun m => {m with state := .training}) sr))
def sRel : State := portIn .training (stepAt 9 si)
def sWr : State := withPwr (fun p => { p with sealRec := some {sealT with copyB := true} }) (stepAt 12 si)
def case3 : Seal := {sealT with copyB := true}
def sealDig : Seal := { sealT with digest := sha384 [] }
def sWr2 : State := withPwr (fun p => { p with sealRec := some sealDig }) (stepAt 12 { si with flash := (List.range 4).map fun n => (imageOff false + 136 + n, 0) })
def snap : Snapshot := { cal := [(3, ⟨1, 2⟩)], temp := 100, copy := none, map := 0xE4, oos := 0, bound := 0, remaps := [], ueRank := [0,0,0,0] }
def sRes : State := withMc (fun m => { m with state := .restoring, snapshot := some snap, cal := snap.cal }) (regSetField (offRecalCfg 0) 0 8 10 (stepAt 13 si))

theorem witness_SupplyChoosesStart :
    (sOff.pins.vddAux = false) ∧
    (sr.pins.vddAux = true) ∧
    (sStook.pins.powerGood = true ∧ (resting sStook = true ∨ sealKept sStook = true)) ∧
    (sKept.pins.powerGood = true ∧ (resting sKept = true ∨ sealKept sKept = true)) ∧
    (sr.pins.powerGood = true ∧ resting sr = false ∧ sealKept sr = false ∧ sr.pwr.state ≠ PowerState.off) ∧
    (sDm.pins.powerGood = true ∧ resting sDm = false ∧ sealKept sDm = false ∧ sDm.pwr.state ≠ PowerState.off) ∧
    ((sWarm.pins.powerGood = false ∧ sWarm.pins.vddAux = true ∧ (resting sWarm = true ∨ sWarm.pwr.state = PowerState.start ∧
      sWarm.bring.step = 0) ∧ sealT.valid = true ∧ regulated sWarm = true) ∧ sWarm.pwr.sealRec = some sealT ∧ sealCheck sWarm sealT =
      sealT.check) ∧
    (State.reset.pins.powerGood = false ∧ State.reset.pins.vddAux = true ∧ (resting State.reset = true ∨ State.reset.pwr.state =
      PowerState.start ∧ State.reset.bring.step = 0) ∧ (∀ (r : Seal), State.reset.pwr.sealRec = some r → r.valid = true → ¬(regulated
      State.reset = true ∧ sealCheck State.reset r = r.check))) ∧
    (sBad.pins.powerGood = false ∧ sBad.pins.vddAux = true ∧ (resting sBad = true ∨ sBad.pwr.state = PowerState.start ∧ sBad.bring.step = 0)
      ∧ (∀ (r : Seal), sBad.pwr.sealRec = some r → r.valid = true → ¬(regulated sBad = true ∧ sealCheck sBad r = r.check))) ∧
    (sInv.pins.powerGood = false ∧ sInv.pins.vddAux = true ∧ (resting sInv = true ∨ sInv.pwr.state = PowerState.start ∧ sInv.bring.step = 0)
      ∧ (∀ (r : Seal), sInv.pwr.sealRec = some r → r.valid = true → ¬(regulated sInv = true ∧ sealCheck sInv r = r.check))) :=
  ⟨by decide +kernel, by decide +kernel, by decide +kernel, by decide +kernel, by decide +kernel, by decide +kernel, ⟨by decide +kernel,
    rfl, sealCheck_same State.reset _ sealZ _⟩, by decide +kernel, by decide +kernel, by decide +kernel⟩

theorem witness_ColdStartRunsInOrder_1 :
    (sC1.bring.step = 1 ∧ sC1.bring.warm = false ∧ checkCopy sC1 (firstCopy sC1) = CopyCheck.refused 1 ∧ (checkCopy sC1 !firstCopy sC1) =
      CopyCheck.refused 1) ∧
    (sC2.img = some img0 ∧ sC2.bring.step = 2) ∧
    ((stepAt 6 si).bring.step = 6) ∧
    ((stepAt 7 sDm).bring.step = 7) ∧
    ((stepAt 1 sDm).bring.step ≠ 2 ∧ (stepAt 1 sDm).bring.step ≠ 3 ∧ (stepAt 1 sDm).bring.step ≠ 6 ∧ (stepAt 1 sDm).bring.step ≠ 7 ∧ (stepAt
      1 sDm).bring.step ≠ 8) ∧
    ((stepAt 3 si).img = some img0 ∧ (stepAt 3 si).bring.step = 3 ∧ (stepAt 3 si).pwr.avsBusy = false) ∧
    ((spd true false).mcs[(0 : Fin 16)].state = McState.spd ∧ (spdsMatch (spd true false) fun d => if d = (0 : Fin 2) then some spdA else
      none) = true) ∧
    (spdOn.mcs[(0 : Fin 16)].state = McState.spd ∧ spdOn.mcs[(0 : Fin 16)].pmicAt ≠ none) ∧
    ((spd false true).mcs[(0 : Fin 16)].state = McState.spd ∧ 0 = (spd false true).dtime) ∧
    (spdOn.mcs[(0 : Fin 16)].state = McState.spd ∧ spdOn.mcs[(0 : Fin 16)].pmicGood = false ∧ (∃ n, spdOn.mcs[(0 : Fin 16)].pmicAt = some n
      ∧ 10000000 = max spdOn.dtime (n + 10000000))) ∧
    ((spd false true).mcs[(0 : Fin 16)].state ≠ McState.off ∧ (spd false true).mcs[(0 : Fin 16)].state ≠ McState.failed ∧ 0 = (spd false
      true).dtime) ∧
    (trn.mcs[(0 : Fin 16)].state = McState.training ∧ 0 = trn.dtime) :=
  ⟨by decide +kernel, by decide +kernel, by decide +kernel, by decide +kernel, by decide +kernel, by decide +kernel, by decide +kernel,
    by decide +kernel, by decide +kernel, by decide +kernel, by decide +kernel, by decide +kernel⟩

theorem witness_ColdStartRunsInOrder_2 :
    (sr.mcs[(0 : Fin 16)].state ≠ McState.off ∧ sr.mcs[(0 : Fin 16)].state ≠ McState.failed ∧ 0 = sr.dtime) ∧
    (case1.mcs[(0 : Fin 16)].state = McState.spd ∧ case1.mcs[(0 : Fin 16)].pmicGood = false ∧ (∃ n, case1.mcs[(0 : Fin 16)].pmicAt = some n
      ∧ 10000007 = max case1.dtime (n + 10000000))) ∧
    (case2.mcs[(0 : Fin 16)].state = McState.training ∧ 0 = case2.dtime) ∧
    (trn.mcs[(0 : Fin 16)].state = McState.training) ∧
    ((stepAt 8 sDm).bring.step = 8) ∧
    ((stepAt 8 State.reset).bring.step = 8) :=
  ⟨by decide +kernel, by decide +kernel, by decide +kernel, by decide +kernel, by decide +kernel, by decide +kernel⟩

theorem witness_ReleaseAndWarmResume :
    ((stepAt 9 sr).bring.step = 9 ∧ (stepAt 9 sr).bring.released = false) ∧
    (sRel.bring.step = 9 ∧ sRel.bring.released = false) ∧
    ((sWr.img = some img0 ∧ sWr.bring.step = 12 ∧ copyMatches case3 sWr = false) ∧ sWr.pwr.sealRec = some case3) ∧
    ((sWr2.img = some img0 ∧ sWr2.bring.step = 12 ∧ copyMatches sealDig sWr2 = true) ∧ sWr2.pwr.sealRec = some sealDig) ∧
    (sRes.mcs[(0 : Fin 16)].state = McState.restoring ∧ sRes.mcs[(0 : Fin 16)].snapshot = some snap ∧ ↑((if (Option.map (fun x => x.dpc2)
      sRes.img).getD false = true then max (103 : ℤ) (110 : ℤ) else (103 : ℤ)) - snap.temp).natAbs ≤ (3 : ℤ) * ↑(regField sRes (offRecalCfg
      ↑(0 : Fin 16)) 0 8)) ∧
    (sRes.mcs[(0 : Fin 16)].state = McState.restoring ∧ sRes.mcs[(0 : Fin 16)].snapshot = some snap ∧ ¬(true = true ∧ ↑((if (Option.map (fun
      x => x.dpc2) sRes.img).getD false = true then max (1030 : ℤ) (110 : ℤ) else (1030 : ℤ)) - snap.temp).natAbs ≤ (3 : ℤ) * ↑(regField
      sRes (offRecalCfg ↑(0 : Fin 16)) 0 8))) ∧
    (sRes.mcs[(0 : Fin 16)].state = McState.restoring ∧ sRes.mcs[(0 : Fin 16)].snapshot = some snap ∧ ¬(false = true ∧ ↑((if (Option.map
      (fun x => x.dpc2) sRes.img).getD false = true then max (103 : ℤ) (110 : ℤ) else (103 : ℤ)) - snap.temp).natAbs ≤ (3 : ℤ) * ↑(regField
      sRes (offRecalCfg ↑(0 : Fin 16)) 0 8)) ∧ [TrainFault.rank (0 : Fin 4)] ≠ []) ∧
    ((stepAt 13 sr).bring.step = 13 ∧ (∀ (x : Fin 16), (stepAt 13 sr).mcs[x].state = McState.active)) ∧
    ((stepAt 13 si).bring.step = 13 ∧ (∃ x : Fin 16, (stepAt 13 si).mcs[x].state ≠ McState.active)) :=
  ⟨by decide +kernel, by decide +kernel, ⟨by decide +kernel, rfl⟩, ⟨by decide +kernel, rfl⟩, by decide +kernel, by decide +kernel,
    by decide +kernel, by decide +kernel, by decide +kernel⟩

end OnStarts

/-! ### The image at a cold start (chapter 14) -/

namespace OnColdStart

def atStep (n : Nat) (s : State) : State := withBring (fun b => { b with step := n, released := false }) s
def sA : State := atStep 1 { State.reset with flash := flashAB }
def sAB : State := atStep 1 { State.reset with flash := flashBoot }

/-- Copy A is preferred by no BOOT record and copy B passes; or copy A is preferred, erased, and copy B passes (R369). -/
theorem witness_ColdStartRunsInOrder_image :
    (sA.bring.step = 1 ∧ sA.bring.warm = false ∧ firstCopy sA = true ∧
      ∃ i d, checkCopy sA (firstCopy sA) = .ok i d) ∧
    (sAB.bring.step = 1 ∧ sAB.bring.warm = false ∧ checkCopy sAB (firstCopy sAB) = .refused 1 ∧
      ∃ i d, checkCopy sAB (!firstCopy sAB) = .ok i d) := by
  have hA : firstCopy sA = true := by decide +kernel
  have hB : firstCopy sAB = false := by decide +kernel
  refine ⟨⟨by decide +kernel, by decide +kernel, hA, ?_⟩, by decide +kernel, by decide +kernel, by decide +kernel, ?_⟩
  · rw [hA]; exact copyB_ok sA (flashAt (imageOff false) (imgBytes.set 128 6)) (by decide +kernel) rfl rfl
  · rw [hB]; exact copyB_ok sAB (flashAt 0 bootHead) (by decide +kernel) rfl rfl

end OnColdStart

/-! ### Ports and links (chapter 2) -/

namespace OnPorts

def case1 : State := (withBring (fun b => {b with released := false}) (portIn .training sr))
def case2 : State := (withBring (fun b => {b with released := false}) (portIn .training sr))
def recov : State := withPort (fun o => { o with links := o.links.set 0 { linkUp with up := false, retraining := true, good := 9 } }) (portIn .enabled sr)
def recovB : State := withPort (fun o => { o with links := o.links.set 0 { linkUp with up := false, retraining := true, good := 16 }, bis := [{ bid := 5, spk := 0, sid := 1, link := 0, hpa := 64, kind := .inv, ldTag := 0, conflict := false, unsent := true }] }) (portIn .enabled sr)
def ideOn : State := withPort (fun o => { o with links := o.links.set 0 { linkUp with ideIo := ⟨true, 5, none⟩ } }) (portIn .training sr)
def sMld (st : PortState) : State := updPort 1 (fun o => { o with state := st, links := o.links.set 0 linkUp }) sr
def ideNext : State := withPort (fun o => { o with links := o.links.set 0 { linkUp with ideMem := ⟨true, 5, some 7⟩ } }) (portIn .enabled sr)
def case3 : State := {ideNext with fw := Firmware.init}
def sFly : State := withPort (fun o => { o with reqs := [⟨rawReq 9 (.host 0 0 0 5) 0 .wr 64 0 0 false, .miss, false, false, false, false⟩] }) (portIn .enabled sr)
def sDec : State := regSetField (offDecMap 0 0 0) 16 8 6 (portIn .enabled sr)
def sCom : State := withPort (fun o => { o with decs := [(0, ⟨0, 2^30, 256, 1, true, false⟩)] }) sDec

theorem witness_PortResetAndLinkTraining :
    ((portIn PortState.training sr).pins.perst[(0 : Fin 4)] = false ∧ wasUp (portIn PortState.training sr).ports[(0 : Fin 4)].state = false)
      ∧
    ((portIn PortState.viral sr).pins.perst[(0 : Fin 4)] = false ∧ wasUp (portIn PortState.viral sr).ports[(0 : Fin 4)].state = false) ∧
    ((portIn PortState.enabled sr).pins.perst[(0 : Fin 4)] = false ∧ wasUp (portIn PortState.enabled sr).ports[(0 : Fin 4)].state = true) ∧
    ((portIn PortState.draining sr).pins.perst[(0 : Fin 4)] = false ∧ wasUp (portIn PortState.draining sr).ports[(0 : Fin 4)].state = true)
      ∧
    (case1.ports[(0 : Fin 4)].state = PortState.training ∧ trainable case1 (0 : Fin 4) (0 : Fin 4) 16 3 true = true) ∧
    (case2.ports[(0 : Fin 4)].state = PortState.training ∧ trainable case2 (0 : Fin 4) (0 : Fin 4) 4 1 true = true) ∧
    ((portIn PortState.enabled sr).ports[(0 : Fin 4)].links[(0 : Fin 4)].up = true ∧ (portIn PortState.enabled sr).ports[(0 : Fin
      4)].links[(0 : Fin 4)].retraining = false ∧ 15 < (portIn PortState.enabled sr).ports[(0 : Fin 4)].links[(0 : Fin 4)].width ∧
      degradedWidth 15 (portIn PortState.enabled sr).ports[(0 : Fin 4)].links[(0 : Fin 4)].speed ≠ 0) ∧
    ((portIn PortState.enabled sr).ports[(0 : Fin 4)].links[(0 : Fin 4)].up = true ∧ (portIn PortState.enabled sr).ports[(0 : Fin
      4)].links[(0 : Fin 4)].retraining = false ∧ 3 < (portIn PortState.enabled sr).ports[(0 : Fin 4)].links[(0 : Fin 4)].width ∧
      degradedWidth 3 (portIn PortState.enabled sr).ports[(0 : Fin 4)].links[(0 : Fin 4)].speed = 0) ∧
    (recov.ports[(0 : Fin 4)].links[(0 : Fin 4)].retraining = true ∧ degradedWidth recov.ports[(0 : Fin 4)].links[(0 : Fin 4)].good
      recov.ports[(0 : Fin 4)].links[(0 : Fin 4)].speed = 8) ∧
    (recovB.ports[(0 : Fin 4)].links[(0 : Fin 4)].retraining = true ∧ degradedWidth recovB.ports[(0 : Fin 4)].links[(0 : Fin 4)].good
      recovB.ports[(0 : Fin 4)].links[(0 : Fin 4)].speed = 16) ∧
    ((regSetField offPwrCfg 16 1 1 (portIn PortState.enabled sr)).ports[(0 : Fin 4)].links[(0 : Fin 4)].up = true) :=
  ⟨by decide +kernel, by decide +kernel, by decide +kernel, by decide +kernel, by decide +kernel, by decide +kernel, by decide +kernel,
    by decide +kernel, by decide +kernel, by decide +kernel, by decide +kernel⟩

theorem witness_LinkLossAndIdeKeys :
    ((portIn PortState.training sr).ports[(0 : Fin 4)].links[(0 : Fin 4)].up = true) ∧
    (ideOn.ports[(0 : Fin 4)].links[(0 : Fin 4)].up = true ∧ (ideOn.ports[(0 : Fin 4)].links[(0 : Fin 4)].ideIo.active = true ∨
      ideOn.ports[(0 : Fin 4)].links[(0 : Fin 4)].ideMem.active = true)) ∧
    ((withPort (fun o => { o with state := PortState.enabled }) ideOn).ports[(0 : Fin 4)].links[(0 : Fin 4)].up = true ∧ ((withPort (fun o
      => { o with state := PortState.enabled }) ideOn).ports[(0 : Fin 4)].links[(0 : Fin 4)].ideIo.active = true ∨ (withPort (fun o =>
      { o with state := PortState.enabled }) ideOn).ports[(0 : Fin 4)].links[(0 : Fin 4)].ideMem.active = true)) ∧
    ((sMld PortState.enabled).ports[(1 : Fin 4)].links[(0 : Fin 4)].up = true) ∧
    ((sMld PortState.draining).ports[(1 : Fin 4)].links[(0 : Fin 4)].up = true) ∧
    ((portIn PortState.drained sr).ports[(0 : Fin 4)].links[(0 : Fin 4)].up = true) ∧
    ((sMld PortState.drained).ports[(1 : Fin 4)].links[(0 : Fin 4)].up = true) ∧
    ((portIn PortState.enabled sr).ports[(0 : Fin 4)].links[(0 : Fin 4)].up = true ∧ (portIn PortState.enabled sr).fw.germUp = true) ∧
    (ideNext.ports[(0 : Fin 4)].links[(0 : Fin 4)].up = true ∧ ideNext.fw.germUp = true ∧ (ideOf ideNext.ports[(0 : Fin 4)].links[(0 : Fin
      4)] IdeKind.mem).next = some (7 : BitVec 256)) ∧
    (case3.ports[(0 : Fin 4)].links[(0 : Fin 4)].up = true ∧ case3.fw.germUp = false) :=
  ⟨by decide +kernel, by decide +kernel, by decide +kernel, by decide +kernel, by decide +kernel, by decide +kernel, by decide +kernel,
    by decide +kernel, by decide +kernel, by decide +kernel⟩

theorem witness_PortEnableAndDecoders_1 :
    ((isGerm Master.germ = true ∨ ∃ l, Master.germ = Master.link (0 : Fin 4) l) ∧ flag (1 : Word) 1 = false ∧ ((portIn PortState.training
      sr).ports[(0 : Fin 4)].state = PortState.training ∨ (portIn PortState.training sr).ports[(0 : Fin 4)].state = PortState.draining)) ∧
    ((isGerm Master.germ = true ∨ ∃ l, Master.germ = Master.link (0 : Fin 4) l) ∧ flag (0 : Word) 1 = false ∧ ((portIn PortState.training
      sr).ports[(0 : Fin 4)].state = PortState.training ∨ (portIn PortState.training sr).ports[(0 : Fin 4)].state = PortState.draining)) ∧
    ((isGerm Master.germ = true ∨ ∃ l, Master.germ = Master.link (0 : Fin 4) l) ∧ flag (0 : Word) 1 = false ∧ (portIn PortState.drained
      sr).ports[(0 : Fin 4)].state = PortState.drained ∧ ideReady (portIn PortState.drained sr) (0 : Fin 4) = true ∧ mayServe (portIn
      PortState.drained sr) = true) ∧
    ((isGerm (Master.link (0 : Fin 4) (2 : Fin 4)) = true ∨ ∃ l, Master.link (0 : Fin 4) (2 : Fin 4) = Master.link (0 : Fin 4) l) ∧ flag (1
      : Word) 1 = false ∧ (portIn PortState.drained sr).ports[(0 : Fin 4)].state = PortState.drained ∧ ideReady (portIn PortState.drained
      sr) (0 : Fin 4) = true ∧ mayServe (portIn PortState.drained sr) = true) ∧
    ((isGerm Master.germ = true ∨ ∃ l, Master.germ = Master.link (0 : Fin 4) l) ∧ flag (1 : Word) 1 = false ∧ (portIn PortState.drained
      si).ports[(0 : Fin 4)].state = PortState.drained ∧ (ideReady (portIn PortState.drained si) (0 : Fin 4) = false ∨ mayServe (portIn
      PortState.drained si) = false)) ∧
    ((isGerm Master.germ = true ∨ ∃ l, Master.germ = Master.link (0 : Fin 4) l) ∧ flag (2 : Word) 0 = false ∧ (portIn PortState.enabled
      sr).ports[(0 : Fin 4)].state = PortState.enabled ∧ (portIn PortState.enabled sr).ports[(0 : Fin 4)].enableQueued = false ∧ errorFree
      (portIn PortState.enabled sr) = true) ∧
    ((isGerm Master.germ = true ∨ ∃ l, Master.germ = Master.link (0 : Fin 4) l) ∧ flag (0 : Word) 0 = false ∧ sFly.ports[(0 : Fin 4)].state
      = PortState.enabled ∧ inflight sFly (0 : Fin 4) ≠ 0) ∧
    ((isGerm Master.germ = true ∨ ∃ l, Master.germ = Master.link (0 : Fin 4) l) ∧ flag (2 : Word) 0 = false ∧ (portIn PortState.enabled
      sr).ports[(0 : Fin 4)].state = PortState.enabled ∧ inflight (portIn PortState.enabled sr) (0 : Fin 4) = 0 ∧ (portIn PortState.enabled
      sr).ports[(0 : Fin 4)].enableQueued = false ∧ (∀ (k : Fin 8), (portIn PortState.enabled sr).spks[k].sf = [] ∧ (portIn
      PortState.enabled sr).spks[k].snps = [])) ∧
    ((isGerm Master.germ = true ∨ ∃ l, Master.germ = Master.link (0 : Fin 4) l) ∧ flag (2 : Word) 0 = false ∧ (withPort (fun o =>
      { o with state := PortState.draining }) sFly).ports[(0 : Fin 4)].state = PortState.draining) ∧
    ((isGerm Master.germ = true ∨ ∃ l, Master.germ = Master.link (0 : Fin 4) l) ∧ flag (3 : Word) 0 = true ∧ flag (3 : Word) 1 = true) ∧
    ((isGerm Master.germ = true ∨ ∃ l, Master.germ = Master.link (0 : Fin 4) l) ∧ (portIn PortState.draining sr).ports[(0 : Fin 4)].state =
      PortState.draining) ∧
    (sDec.ports[(0 : Fin 4)].state ≠ PortState.reset ∧ sDec.ports[(0 : Fin 4)].links[port4 (ldRec sDec (16 * ↑(0 : Fin 4) + ↑(0 : Fin
      16))).link].up = true) :=
  ⟨by decide +kernel, by decide +kernel, by decide +kernel, by decide +kernel, by decide +kernel, by decide +kernel, by decide +kernel,
    by decide +kernel, by decide +kernel, by decide +kernel, by decide +kernel, by decide +kernel⟩

theorem witness_PortEnableAndDecoders_2 :
    ((isGerm Master.germ = true ∨ ∃ l, Master.germ = Master.link (0 : Fin 4) l) ∧ (kget decoderInit sCom.ports[(0 : Fin 4)].decs (4 * ↑(0 :
      Fin 16) + ↑(0 : Fin 4))).committed = true) ∧
    ((isGerm Master.germ = true ∨ ∃ l, Master.germ = Master.link (0 : Fin 4) l) ∧ (kget decoderInit sCom.ports[(0 : Fin 4)].decs (4 * ↑(0 :
      Fin 16) + ↑(1 : Fin 4))).committed = false ∧ ksorted sCom.regs = true) :=
  ⟨by decide +kernel, by decide +kernel⟩

end OnPorts

/-! ### The husk die (chapter 15) -/

namespace OnHusk

def case1 : State := (withHusk (fun h => { h with inputLost := true, insertAt := some 3, insertDone := true }) sr)
def case2 : State := (withHusk (fun h => { h with insertAt := some 3, insertDone := true }) sr)
def fq : State := withHusk (fun h => { h with feeds := #v[⟨12000, true, true⟩, ⟨12000, true, true⟩], vinOr := 12100, insertAt := some 5 }) sr
def outIn (st : OutState) : State := withOut (fun o => { o with state := st, commanded := true, enteredAt := 7, rampAt := 8, ilimit := 20000, timer := 10, faultUs := 5000, curve := (List.range 8).map fun k => (11000 + 1000 * k, 8 - k) }) fq
def outReg (st : OutState) : State := withOut (fun o => { o with state := st, commanded := true, aboveFloor := true, enteredAt := 7, rampAt := 8, ilimit := 20000 }) fq
def case3 : State := (withPwr (fun p => { p with state := .rest }) (outReg .on))
def case4 : State := (withBring (fun p => { p with released := false }) (outReg .on))
def case5 : State := (withBring (fun p => { p with released := false }) (outIn .on))
def case6 : State := (withHusk (fun h => { h with pfwDrive := true}) { sr with pins := { sr.pins with pfwLow := true}})
def noOut (s : State) : State := { s with img := some { img0 with outEnable := 0 } }
def case7 : State := (withBring (fun p => { p with released := false }) (outReg .on))
def curveRegs (s : State) : State := (List.range 8).foldl (fun t k => regSet (offCurve 0 k) (BitVec.ofNat 64 (11000 + 1000 * k + (80000 - 10000 * k) * 2 ^ 32)) t) (regSet (offOutLimit 0) (BitVec.ofNat 64 (20000 * 2 ^ 32 + 5000)) s)
def ramp0 : State := curveRegs (withHusk (fun h => { h with insertDone := true }) (outIn .wait))
def case8 : State := (withOut (fun o => {o with timer := 0, vout := 9900}) (outIn .enhance))
def case9 : State := (withOut (fun o => {o with timer := 0}) (outIn .enhance))
def case10 : State := (withOut (fun o => {o with counters := [8, 0, 0, 0, 0, 0, 0, 0]}) (outIn .on))
def cdLow : State := (withOut (fun o => {o with outputLow := true}) (outIn .cooldown))
def case11 : State := (withBring (fun p => { p with released := false }) (outIn .enhance))
def case11b : State := (withBring (fun p => { p with released := false }) (outIn .wait))
def case13 : State := (withOut (fun o => {o with onPending := true}) (outIn .cooldown))

theorem witness_FeedsAndSupplyLoss_1 :
    (sr.husk.feeds[(0 : Fin 2)].qualified = false ∧ uvMv sr ≤ 10800 ∧ 10800 ≤ ovMv sr) ∧
    (case1.husk.feeds[(1 : Fin 2)].qualified = false ∧ uvMv case1 ≤ 13200 ∧ 13200 ≤ ovMv case1) ∧
    (case2.husk.feeds[(1 : Fin 2)].qualified = false ∧ uvMv case2 ≤ 13200 ∧ 13200 ≤ ovMv case2) ∧
    (fq.husk.feeds[(0 : Fin 2)].qualified = true ∧ 10799 < uvMv fq) ∧
    (fq.husk.feeds[(0 : Fin 2)].qualified = true ∧ ovMv fq < 13201) ∧
    (fq.husk.feeds[(0 : Fin 2)].orOn = true ∧ 12079 + 20 < fq.husk.vinOr) ∧
    (fq.husk.insertAt = some 5 ∧ fq.husk.insertDone = false) ∧
    (5999 < 6000) ∧
    (outEnabled (outIn OutState.on) (0 : Fin 4) = true ∧ ((outIn OutState.on).husk.outs[(0 : Fin 4)].state = OutState.on ∨ (outIn
      OutState.on).husk.outs[(0 : Fin 4)].state = OutState.limit) ∧ (floorMv (outIn OutState.on) ≤ 9800 ∨ (outIn OutState.on).husk.outs[(0 :
      Fin 4)].aboveFloor = false)) ∧
    (outEnabled case3 (0 : Fin 4) = true ∧ (case3.husk.outs[(0 : Fin 4)].state = OutState.on ∨ case3.husk.outs[(0 : Fin 4)].state =
      OutState.limit) ∧ case3.husk.outs[(0 : Fin 4)].aboveFloor = true ∧ 9799 < floorMv case3) ∧
    (outEnabled case4 (0 : Fin 4) = true ∧ (case4.husk.outs[(0 : Fin 4)].state = OutState.on ∨ case4.husk.outs[(0 : Fin 4)].state =
      OutState.limit) ∧ case4.husk.outs[(0 : Fin 4)].aboveFloor = true ∧ 9799 < floorMv case4) ∧
    (outEnabled (outReg OutState.limit) (0 : Fin 4) = true ∧ ((outReg OutState.limit).husk.outs[(0 : Fin 4)].state = OutState.on ∨ (outReg
      OutState.limit).husk.outs[(0 : Fin 4)].state = OutState.limit) ∧ (outReg OutState.limit).husk.outs[(0 : Fin 4)].aboveFloor = true ∧
      9799 < floorMv (outReg OutState.limit)) :=
  ⟨by decide +kernel, by decide +kernel, by decide +kernel, by decide +kernel, by decide +kernel, by decide +kernel, by decide +kernel,
    by decide +kernel, by decide +kernel, by decide +kernel, by decide +kernel, by decide +kernel⟩

theorem witness_FeedsAndSupplyLoss_2 :
    (outEnabled case5 (0 : Fin 4) = true ∧ (case5.husk.outs[(0 : Fin 4)].state = OutState.on ∨ case5.husk.outs[(0 : Fin 4)].state =
      OutState.limit) ∧ case5.husk.outs[(0 : Fin 4)].aboveFloor = false ∧ case5.bring.released = false ∧ case5.bring.step ≠ 10 ∧
      case5.bring.step ≠ 11 ∧ case5.husk.outs[(0 : Fin 4)].rampAt ≠ 0) ∧
    (isGerm Master.germ = true ∧ flag (1 : Word) 0 = true ∧ ksorted sr.regs = true) ∧
    (flag (241 : Word) 0 = true ∧ ksorted (regSetField offHuskSeal 4 4 5 sr).regs = true) ∧
    (10999 < pfwMv sr ∧ sr.husk.pfwDrive = false) ∧
    (pfwMv sr + 200 ≤ 11200) ∧
    (pfwMv case6 + 200 ≤ 11200) :=
  ⟨by decide +kernel, by decide +kernel, by decide +kernel, by decide +kernel, by decide +kernel, by decide +kernel⟩

theorem witness_OutputCommandsAndRamp_1 :
    (isGerm Master.germ = true ∧ outEnabled (outIn OutState.off) (0 : Fin 4) = true ∧ (outIn OutState.off).husk.outs[(0 : Fin 4)].state =
      OutState.off) ∧
    (isGerm Master.germ = true ∧ outEnabled (outIn OutState.discharge) (0 : Fin 4) = true ∧ ((outIn OutState.discharge).husk.outs[(0 : Fin
      4)].state = OutState.discharge ∨ (outIn OutState.discharge).husk.outs[(0 : Fin 4)].state = OutState.cooldown)) ∧
    (isGerm Master.germ = true ∧ outEnabled (outIn OutState.cooldown) (0 : Fin 4) = true ∧ ((outIn OutState.cooldown).husk.outs[(0 : Fin
      4)].state = OutState.discharge ∨ (outIn OutState.cooldown).husk.outs[(0 : Fin 4)].state = OutState.cooldown)) ∧
    (isGerm Master.germ = true ∧ outEnabled (noOut (outIn OutState.off)) (0 : Fin 4) = false ∧ ((noOut (outIn OutState.off)).husk.outs[(0 :
      Fin 4)].state = OutState.off ∨ (noOut (outIn OutState.off)).husk.outs[(0 : Fin 4)].state = OutState.discharge)) ∧
    (isGerm Master.germ = true ∧ outEnabled (noOut (outIn OutState.discharge)) (0 : Fin 4) = false ∧ ((noOut (outIn
      OutState.discharge)).husk.outs[(0 : Fin 4)].state = OutState.off ∨ (noOut (outIn OutState.discharge)).husk.outs[(0 : Fin 4)].state =
      OutState.discharge)) ∧
    (isGerm Master.germ = true ∧ (running (outIn OutState.on).husk.outs[(0 : Fin 4)].state = true ∨ (outIn OutState.on).husk.outs[(0 : Fin
      4)].state = OutState.wait)) ∧
    (isGerm Master.germ = true ∧ (running (outIn OutState.wait).husk.outs[(0 : Fin 4)].state = true ∨ (outIn OutState.wait).husk.outs[(0 :
      Fin 4)].state = OutState.wait)) ∧
    (isGerm Master.germ = true ∧ (running case7.husk.outs[(0 : Fin 4)].state = true ∨ case7.husk.outs[(0 : Fin 4)].state = OutState.wait)) ∧
    (ramp0.husk.outs[(0 : Fin 4)].state = OutState.wait ∧ feedQualified ramp0 = true ∧ ramp0.husk.insertDone = true ∧ curveValid (rampIlimit
      ramp0 (0 : Fin 4)) (rampCurve ramp0 (0 : Fin 4)) = true) ∧
    ((regSetField (offOutLimit 0) 32 16 17999 ramp0).husk.outs[(0 : Fin 4)].state = OutState.wait ∧ feedQualified (regSetField (offOutLimit
      0) 32 16 17999 ramp0) = true ∧ (regSetField (offOutLimit 0) 32 16 17999 ramp0).husk.insertDone = true ∧ curveValid (rampIlimit
      (regSetField (offOutLimit 0) 32 16 17999 ramp0) (0 : Fin 4)) (rampCurve (regSetField (offOutLimit 0) 32 16 17999 ramp0) (0 : Fin 4)) =
      false) ∧
    ((outIn OutState.ramp).husk.outs[(0 : Fin 4)].state = OutState.ramp ∧ (outIn OutState.ramp).husk.vinOr ≤ 11600 + 500) ∧
    ((outIn OutState.enhance).husk.outs[(0 : Fin 4)].state = OutState.enhance) :=
  ⟨by decide +kernel, by decide +kernel, by decide +kernel, by decide +kernel, by decide +kernel, by decide +kernel, by decide +kernel,
    by decide +kernel, by decide +kernel, by decide +kernel, by decide +kernel, by decide +kernel⟩

theorem witness_OutputCommandsAndRamp_2 :
    case8.husk.outs[(0 : Fin 4)].state = OutState.enhance :=
  by decide +kernel

theorem witness_OutputProtectionAndCurves_1 :
    ((outIn OutState.on).husk.outs[(0 : Fin 4)].ilimit ≤ 20000 ∧ (outIn OutState.on).husk.outs[(0 : Fin 4)].state = OutState.on) ∧
    ((outIn OutState.ramp).husk.outs[(0 : Fin 4)].ilimit ≤ 20000 ∧ ((outIn OutState.ramp).husk.outs[(0 : Fin 4)].state = OutState.ramp ∨
      (outIn OutState.ramp).husk.outs[(0 : Fin 4)].state = OutState.enhance)) ∧
    (case9.husk.outs[(0 : Fin 4)].ilimit ≤ 20000 ∧ (case9.husk.outs[(0 : Fin 4)].state = OutState.ramp ∨ case9.husk.outs[(0 : Fin 4)].state
      = OutState.enhance)) ∧
    (18999 + 1000 < (outIn OutState.limit).husk.outs[(0 : Fin 4)].ilimit ∧ (outIn OutState.limit).husk.outs[(0 : Fin 4)].state =
      OutState.limit) ∧
    (18999 + 1000 < (outIn OutState.ramp).husk.outs[(0 : Fin 4)].ilimit ∧ ((outIn OutState.ramp).husk.outs[(0 : Fin 4)].state =
      OutState.ramp ∨ (outIn OutState.ramp).husk.outs[(0 : Fin 4)].state = OutState.enhance)) ∧
    (30000 ≤ 30000 ∧ running (outIn OutState.limit).husk.outs[(0 : Fin 4)].state = true) ∧
    (30000 ≤ 30000 ∧ running (noOut (outIn OutState.limit)).husk.outs[(0 : Fin 4)].state = true) ∧
    (running (outIn OutState.limit).husk.outs[(0 : Fin 4)].state = true ∧ (outIn OutState.limit).husk.outs[(0 : Fin 4)].timer ≠ 0) ∧
    (case10.husk.outs[(0 : Fin 4)].state = OutState.on ∧ curveHit case10.husk.outs[(0 : Fin 4)] ≠ none) ∧
    ((outIn OutState.ramp).husk.outs[(0 : Fin 4)].state = OutState.ramp) ∧
    ((noOut (outIn OutState.enhance)).husk.outs[(0 : Fin 4)].state = OutState.enhance) ∧
    (((noOut (outIn OutState.off)).husk.outs[(0 : Fin 4)].state = OutState.off ∨ (noOut (outIn OutState.off)).husk.outs[(0 : Fin 4)].state =
      OutState.wait ∨ (noOut (outIn OutState.off)).husk.outs[(0 : Fin 4)].state = OutState.cooldown ∧ (noOut (outIn
      OutState.off)).husk.outs[(0 : Fin 4)].outputLow = true)) :=
  ⟨by decide +kernel, by decide +kernel, by decide +kernel, by decide +kernel, by decide +kernel, by decide +kernel, by decide +kernel,
    by decide +kernel, by decide +kernel, by decide +kernel, by decide +kernel, by decide +kernel⟩

theorem witness_OutputProtectionAndCurves_2 :
    (((noOut cdLow).husk.outs[(0 : Fin 4)].state = OutState.off ∨ (noOut cdLow).husk.outs[(0 : Fin 4)].state = OutState.wait ∨ (noOut
      cdLow).husk.outs[(0 : Fin 4)].state = OutState.cooldown ∧ (noOut cdLow).husk.outs[(0 : Fin 4)].outputLow = true)) ∧
    (((noOut (outIn OutState.cooldown)).husk.outs[(0 : Fin 4)].state = OutState.discharge ∨ (noOut (outIn OutState.cooldown)).husk.outs[(0 :
      Fin 4)].state = OutState.cooldown ∧ (noOut (outIn OutState.cooldown)).husk.outs[(0 : Fin 4)].outputLow = false)) ∧
    (outEnabled case11 (0 : Fin 4) = true ∧ case11.bring.released = false ∧ case11.bring.step ≠ 11) ∧
    (outEnabled case11b (0 : Fin 4) = true ∧ case11b.bring.released = false ∧ case11b.bring.step ≠ 11) ∧
    (999 < 1000 ∧ (outIn OutState.discharge).husk.outs[(0 : Fin 4)].state = OutState.discharge) ∧
    (999 < 1000 ∧ (outIn OutState.cooldown).husk.outs[(0 : Fin 4)].state = OutState.cooldown) ∧
    (999 < 1000 ∧ case13.husk.outs[(0 : Fin 4)].state = OutState.cooldown) :=
  ⟨by decide +kernel, by decide +kernel, by decide +kernel, by decide +kernel, by decide +kernel, by decide +kernel, by decide +kernel⟩

end OnHusk

/-! ### Power states, wakes and clocks (chapters 16, 20, 21) -/

namespace OnPower

def av (core sram : Nat) (busy : Bool) (reqs : List (Bool × Nat)) (row : Nat) : State := withPwr (fun p => { p with ackCore := core, ackSram := sram, avsBusy := busy, avsReqs := reqs, inRow := row }) sr
def almost : State := withPwr (fun p => { p with gated := ((List.range 64).filter fun d => 6 ≤ d ∧ d < 13 ∨ 17 ≤ d ∧ d < 21).map fun d => (d, true) }) sr
def dozeS (s : State) : State := regSetField offPwrCfg 16 1 1 (withPwr (fun p => { p with state := .idle, dozeSince := some 9 }) s)
def case2 : State := (withMc (fun m => { m with state := .failed }) (dozeS sr))
def inDoze : State := { withPwr (fun p => { p with state := .doze }) (regSet offPwrCfg 0 sr) with mcs := Vector.replicate 16 { Mc.init with state := .powerDown } }
def case3 : State := (withPwr (fun p => { p with state := .enteringRest }) sr)
def case4 : State := { sr with domainDown := true }
def ent (n : Nat) (s : State) : State := withPwr (fun p => { p with state := .stooking, step := n, stepAt := 3, ackCore := 5 }) s
def entR (n : Nat) (s : State) : State := withPwr (fun p => { p with state := .enteringRest, step := n, stepAt := 3, ackCore := 5 }) s
def txn0 : Txn := { tid := 3, msg := ⟨rawReq 9 (.host 0 0 0 5) 0 .wr 64 0 0 false, 64, none, 0⟩, state := .memory, queued := true, need := [], started := 0, rsp := ⟨9, .cmp, 0, false, 0, 0, false, 0⟩, sfWaited := false, absorbed := false, waiting := false, mirror := none, wrote := none }
def busy : State := withSpk (fun k => { k with txns := [txn0], inbox := [txn0.msg] }) (withPort (fun o => { o with reqs := [⟨rawReq 9 (.host 0 0 0 5) 0 .wr 64 0 0 false, .home 0, false, false, false, false⟩] }) (portIn .reset sr))
def case5 : State := (entR 4 { sr with crypt := { sr.crypt with salt := 4, km := 5, root := Vector.replicate 8 3} })
def case6 : State := (ent 5 (withMc (fun m => { m with acts := [⟨3, 4⟩], cal := [(3, ⟨1,2⟩)] }) sr))
def case7 : State := (withPwr (fun p => { p with sealRec := some (⟨true, false, false, 0, false, 0, 800, 800, [], 1, 2, 3, Vector.replicate 8 4, [], 0⟩ : Seal) }) (ent 6 sr))
def case8 : State := (entR 7 { sr with img := some { img0 with paired := true }, pair := { sr.pair with role := .primary } })
def sTilUp : State := withTil (fun t => { t with state := .up, mirrors := [⟨1, 0, 3, none, 0, 0, 0⟩] }) (ent 2 busy)
def sRest : State := withPwr (fun p => { p with state := .rest, railsOff := true }) sr
def sRestL : State := { sRest with pins := { sRest.pins with pfwLow := true } }
def case9 : State := (withPwr (fun p => { p with wakeLatched := true }) sRest)
def case10 : State := (withPwr (fun p => { p with wakeLatched := true }) sRestL)
def case11 : State := (withPwr (fun p => { p with state := .stook }) sRestL)
def lockd : State := { sr with clk := { sr.clk with locked := BitVec.allOnes 64 } }
def case13 : State := { lockd with thermal := ⟨true, false, 4, 0, 391⟩ }

theorem witness_AvsGatingAndDoze :
    ((av 800 800 false [] 0).pwr.avsBusy = false ∧ (av 800 800 false [] 0).pwr.avsFail = false) ∧
    ((av 0 0 false [] 0).pwr.avsBusy = false ∧ (av 0 0 false [] 0).pwr.avsFail = false) ∧
    (((av 0 0 true [(false, 800)] 0).pwr.avsBusy = true ∨ (av 0 0 true [(false, 800)] 0).pwr.avsFail = true)) ∧
    ((av 0 0 true [(true, 805)] 1).pwr.avsBusy = true ∧ (av 0 0 true [(true, 805)] 1).pwr.avsReqs = [(true, 805)]) ∧
    ((av 0 0 true [(false, 805), (true, 800)] 1).pwr.avsBusy = true ∧ (av 0 0 true [(false, 805), (true, 800)] 1).pwr.avsReqs = [(false,
      805), (true, 800)] ∧ (av 0 0 true [(false, 805), (true, 800)] 1).pwr.inRow < 2) ∧
    ((av 0 0 true [(false, 805)] 2).pwr.avsBusy = true ∧ 2 ≤ (av 0 0 true [(false, 805)] 2).pwr.inRow) ∧
    (domainIdle sr ↑(5 : Fin 64) = true ∧ BitVec.getLsbD (regGet sr offGateDis) ↑(5 : Fin 64) = false ∧ coreOn sr = true) ∧
    (domainIdle almost ↑(5 : Fin 64) = true ∧ BitVec.getLsbD (regGet almost offGateDis) ↑(5 : Fin 64) = false ∧ coreOn almost = true) ∧
    (((dozeS sr).pwr.state = PowerState.active ∨ (dozeS sr).pwr.state = PowerState.idle) ∧ dozeEnabled (dozeS sr) = true ∧ dozeHolds (dozeS
      sr) = true) ∧
    ((case2.pwr.state = PowerState.active ∨ case2.pwr.state = PowerState.idle) ∧ dozeEnabled case2 = true ∧ dozeHolds case2 = true) ∧
    (inDoze.pwr.state = PowerState.doze ∧ ¬(dozeEnabled inDoze = true ∧ dozeHolds inDoze = true)) :=
  ⟨by decide +kernel, by decide +kernel, by decide +kernel, by decide +kernel, by decide +kernel, by decide +kernel, by decide +kernel,
    by decide +kernel, by decide +kernel, by decide +kernel, by decide +kernel⟩

theorem witness_EntryToRestAndStook_1 :
    (sr.domainDown = false ∧ servingState sr = true ∧ errorFree sr = true) ∧
    ((portIn PortState.draining inDoze).domainDown = false ∧ servingState (portIn PortState.draining inDoze) = true ∧ errorFree (portIn
      PortState.draining inDoze) = true) ∧
    ((portIn PortState.enabled sr).domainDown = false ∧ servingState (portIn PortState.enabled sr) = true ∧ errorFree (portIn
      PortState.enabled sr) = true ∧ flag (1 : Word) 0 = true) ∧
    (case3.domainDown = false ∧ case3.pwr.state = PowerState.enteringRest) ∧
    (case4.domainDown = true) ∧
    (entering (ent 2 busy) = true ∧ (ent 2 busy).domainDown = false ∧ (ent 2 busy).pwr.step = 2) ∧
    (entering (entR 2 sr) = true ∧ (entR 2 sr).domainDown = false ∧ (entR 2 sr).pwr.step = 2) ∧
    (entering (ent 2 sr) = true ∧ (ent 2 sr).domainDown = false ∧ (ent 2 sr).pwr.step = 2) ∧
    (entering (ent 3 sr) = true ∧ (ent 3 sr).domainDown = false ∧ (ent 3 sr).pwr.step = 3) ∧
    (entering (ent 4 sr) = true ∧ (ent 4 sr).domainDown = false ∧ (ent 4 sr).pwr.step = 4) ∧
    (entering case5 = true ∧ case5.domainDown = false ∧ case5.pwr.step = 4) ∧
    (entering case6 = true ∧ case6.domainDown = false ∧ case6.pwr.step = 5) :=
  ⟨by decide +kernel, by decide +kernel, by decide +kernel, by decide +kernel, by decide +kernel, by decide +kernel, by decide +kernel,
    by decide +kernel, by decide +kernel, by decide +kernel, by decide +kernel, by decide +kernel⟩

theorem witness_EntryToRestAndStook_2 :
    ((entering case7 = true ∧ case7.domainDown = false ∧ case7.pwr.step = 6) ∧ case7.pwr.sealRec = some
      ({ valid := true, stookKind := false, clean := false, entry := 0, copyB := false, digest := (0 : BitVec 384), vcore := 800, vsram := 800, slots := [], salt := (1 : BitVec 128), km := (2 : BitVec 256), hm := (3 : Block), root := Vector.replicate 8 (4 : Line), save := [], check := (0 : BitVec 32) }
      : Seal)) ∧
    (entering (ent 7 sr) = true ∧ (ent 7 sr).domainDown = false ∧ (ent 7 sr).pwr.step = 7) ∧
    (entering case8 = true ∧ case8.domainDown = false ∧ case8.pwr.step = 7) ∧
    (entering (ent 7 sr) = true ∧ (ent 7 sr).domainDown = false ∧ (ent 7 sr).pwr.step ≠ 2) ∧
    (entering (ent 7 sr) = true ∧ (ent 7 sr).domainDown = false ∧ (ent 7 sr).pwr.step ≠ 3) ∧
    (entering (ent 7 sr) = true ∧ (ent 7 sr).domainDown = false ∧ (ent 7 sr).pwr.step ≠ 4) ∧
    (entering (ent 7 sr) = true ∧ (ent 7 sr).domainDown = false ∧ (ent 7 sr).pwr.step ≠ 5) ∧
    (entering (ent 7 sr) = true ∧ (ent 7 sr).domainDown = false ∧ (ent 7 sr).pwr.step ≠ 6) ∧
    (entering (ent 6 sr) = true ∧ (ent 6 sr).domainDown = false ∧ (ent 6 sr).pwr.step ≠ 7) ∧
    (sTilUp.pwr.state = PowerState.stooking ∧ sTilUp.domainDown = false ∧ sTilUp.pwr.step = 2 ∧ (sTilUp.til.mirrors ≠ [] ∨
      sTilUp.til.fetches ≠ []) ∧ sTilUp.til.state = TilState.up) :=
  ⟨⟨by decide +kernel, rfl⟩, by decide +kernel, by decide +kernel, by decide +kernel, by decide +kernel, by decide +kernel,
    by decide +kernel, by decide +kernel, by decide +kernel, by decide +kernel⟩

theorem witness_WakesClocksAndThermalLimits_1 :
    (resting sRest = true ∧ sRest.pwr.railsOff = true ∧ sRest.pins.pfwLow = false) ∧
    (resting (regSetField offWakeCfg 0 1 1 sRest) = true ∧ (regSetField offWakeCfg 0 1 1 sRest).pwr.railsOff = true ∧ (regSetField
      offWakeCfg 0 1 1 sRest).pins.pfwLow = false ∧ flag (regGet (regSetField offWakeCfg 0 1 1 sRest) offWakeCfg) 0 = true) ∧
    (resting (regSetField offWakeCfg 1 4 15 sRest) = true ∧ (regSetField offWakeCfg 1 4 15 sRest).pwr.railsOff = true ∧ (regSetField
      offWakeCfg 1 4 15 sRest).pins.pfwLow = false ∧ regField (regSetField offWakeCfg 1 4 15 sRest) offWakeCfg 1 1 ≠ 0) ∧
    (resting (regSetField offWakeCfg 1 4 1 sRest) = true ∧ (regSetField offWakeCfg 1 4 1 sRest).pwr.railsOff = true ∧ (regSetField
      offWakeCfg 1 4 1 sRest).pins.pfwLow = false ∧ regField (regSetField offWakeCfg 1 4 1 sRest) offWakeCfg 1 1 ≠ 0) ∧
    (resting case9 = true ∧ case9.pwr.railsOff = true ∧ case9.pins.pfwLow = false ∧ case9.pwr.wakeLatched = true) ∧
    (resting sRestL = true ∧ sRestL.pwr.railsOff = true ∧ sRestL.pins.pfwLow = true) ∧
    (resting case10 = true ∧ case10.pwr.railsOff = true ∧ case10.pins.pfwLow = true ∧ (case10.pwr.wakeLatched = true ∨ case10.pwr.state =
      PowerState.stook)) ∧
    (resting case11 = true ∧ case11.pwr.railsOff = true ∧ case11.pins.pfwLow = true ∧ (case11.pwr.wakeLatched = true ∨ case11.pwr.state =
      PowerState.stook)) ∧
    (sr.pins.vddAux = true ∧ sr.clk.coarse = false) ∧
    (↑(20 : Fin 64) ≠ 0 ∧ ↑(20 : Fin 64) ≠ 2 ∧ domLocked lockd ↑(20 : Fin 64) = true) ∧
    (↑(1 : Fin 64) ≠ 0 ∧ ↑(1 : Fin 64) ≠ 2) ∧
    (3 ≤ ↑(58 : Fin 64) ∧ (↑(58 : Fin 64) < 21 ∨ 41 ≤ ↑(58 : Fin 64) ∧ ↑(58 : Fin 64) < 59) ∧ corePowered lockd = true ∧ BitVec.getLsbD
      lockd.clk.locked ↑(58 : Fin 64) = true ∧ lockd.bring.released = true ∧ lockd.domainDown = false) :=
  ⟨by decide +kernel, by decide +kernel, by decide +kernel, by decide +kernel, by decide +kernel, by decide +kernel, by decide +kernel,
    by decide +kernel, by decide +kernel, by decide +kernel, by decide +kernel, by decide +kernel⟩

theorem witness_WakesClocksAndThermalLimits_2 :
    (3 ≤ ↑(3 : Fin 64) ∧ (↑(3 : Fin 64) < 21 ∨ 41 ≤ ↑(3 : Fin 64) ∧ ↑(3 : Fin 64) < 59) ∧ corePowered (portIn PortState.enabled lockd) =
      true ∧ BitVec.getLsbD (portIn PortState.enabled lockd).clk.locked ↑(3 : Fin 64) = true ∧ (portIn PortState.enabled
      lockd).bring.released = true ∧ (portIn PortState.enabled lockd).domainDown = false) ∧
    (corePowered lockd = true ∧ (-2048 : ℤ) ≤ (400 : ℤ) ∧ (400 : ℤ) < (2048 : ℤ) ∧ (400 : ℤ) ≤ (400 : ℤ) ∧ lockd.thermal.warn = false) ∧
    (corePowered case13 = true ∧ (-2048 : ℤ) ≤ (391 : ℤ) ∧ (391 : ℤ) < (2048 : ℤ) ∧ (391 : ℤ) < (392 : ℤ) ∧ case13.thermal.grain1.toInt <
      (392 : ℤ)) ∧
    (corePowered lockd = true ∧ (-2048 : ℤ) ≤ (460 : ℤ) ∧ (460 : ℤ) < (2048 : ℤ) ∧ (460 : ℤ) ≤ (460 : ℤ) ∧ lockd.thermal.tripped = false ∧
      lockd.domainDown = false) ∧
    (corePowered (portIn PortState.enabled lockd) = true ∧ (-2048 : ℤ) ≤ (2047 : ℤ) ∧ (2047 : ℤ) < (2048 : ℤ) ∧ (460 : ℤ) ≤ (2047 : ℤ) ∧
      (portIn PortState.enabled lockd).thermal.tripped = false ∧ (portIn PortState.enabled lockd).domainDown = false) :=
  ⟨by decide +kernel, by decide +kernel, by decide +kernel, by decide +kernel, by decide +kernel⟩

end OnPower

/-! ### Host requests, walks and fills (chapters 2, 3, 10) -/

namespace OnRequests

def sm0 : State := withPort (fun o => { o with decs := [(0, ⟨0, 2^30, 256, 1, true, false⟩)], budgets := [9,9,9,9,9,9,9,9], counts := List.replicate 8 0 }) { regSetField (offDecMap 0 0 0) 16 8 6 (portIn .enabled sr) with crypt := { sr.crypt with copies := [(0xA6, ⟨true, 1, 1⟩)] } }
def e0 : SheafEntry := ⟨0, 0, 12, 0x4000, false, false, false⟩
def sm : State := withPort (fun o => { o with sheaf := [e0] }) sm0
def sm1 : State := withPort (fun o => { o with slots := [⟨0, 0, 0⟩] }) sm0
def slow : State := updLink 0 0 (fun l => { l with belowFloor := true }) sm
def smMld : State := { sm with img := some { img0 with links := [(3, 3)] } }
def smK : State := { sm with crypt := { sm.crypt with copies := [] } }
def parF : Parity := { Parity.good with address := true }
def parC : Parity := { Parity.good with key := true }
def rsp9 : Rsp := ⟨9, .cmp, 5, true, 1, 0, false, 0⟩
def req9 : OpenReq := ⟨rawReq 9 (.host 0 0 0 5) 0 .wr 64 0 0 false, .egress, false, false, false, false⟩
def sEg (d : Bool) : State := withPort (fun o => { o with egress := [rsp9], reqs := [{ req9 with discard := d }] }) sr
def case1 : OpenReq := { req9 with discard := false }
def case2 : OpenReq := { req9 with discard := true }
def case3 : OpenReq := { req9 with discard := false }
def case4 : State := (regSetField offQosWindow 0 16 1000 { sr with dtime := 1999 })
def mr : MissRec := ⟨0, 0, 0x1000, 0, 0xA6, 0, 7⟩
def case5 : State := { sr with gate := { sr.gate with records := [mr, mr] } }
def wk : Walk := ⟨mr, 2, 0x4C50002000, [], none, false⟩
def wkD : Walk := ⟨{ mr with dpa := 0 }, 0, 0x4C50000000, [], none, false⟩
def sWk (w : Walk) : State := withTree treeA { sr with gate := { sr.gate with walks := [w] } }
def rd (w : Walk) := readEntry (entryAddr w.table w.level w.miss.ldTag w.miss.dpa) idWalk 0 (sWk w)
def rdE (w : Walk) : Word := (rd w).1.getD 0
def wkE : Walk := { wkD with level := 4 }
def wkU : Walk := ⟨{ mr with dpa := 0x80000000 }, 2, 0x4C50002000, [], none, false⟩
def wkX : Walk := ⟨{ mr with dpa := 0 }, 0, 0x123456789000, [], none, false⟩
def wkL : Walk := ⟨mr, 4, 0x4C50002000, [], none, false⟩
def busyX : State := { sWk wk with mcs := Vector.replicate 16 { Mc.init with state := .active, refreshing := List.range 64 } }
def fillS : State := regSet offShfFillMap (mkLeaf 12 false false 0x9000) (regSet offShfFillKey 0x1000 sr)
def oldE : SheafEntry := ⟨0, 0x1000, 12, 0x4000, false, false, true⟩
def case6 : State := (withPort (fun o => { o with sheaf := [oldE, e0] }) fillS)
def case7 : State := (withPort (fun o => { o with sheaf := [oldE, e0] }) fillS)

theorem witness_HostRequestStaged :
    ((linkServes sm (0 : Fin 4) (0 : Fin 4) = true ∧ protocolError sm (0 : Fin 4) ↑(0 : Fin 4) ↑(0 : Fin 16) = false ∧ decodeHpa sm (0 : Fin
      4) ↑(0 : Fin 16) 64 = some (regA, 0, 64) ∧ noInjection sm = true ∧ keyAdmits sm (stagedReq sm (0 : Fin 4) (0 : Fin 4) (0 : Fin 16) 7
      (HomeOp.rd SnpType.data) 64 (0 : Line) (0 : BitVec 64) false regA 0 64).ldTag (stagedReq sm (0 : Fin 4) (0 : Fin 4) (0 : Fin 16) 7
      (HomeOp.rd SnpType.data) 64 (0 : Line) (0 : BitVec 64) false regA 0 64).key = true ∧ admitsNow sm (0 : Fin 4) (stagedReq sm (0 : Fin
      4) (0 : Fin 4) (0 : Fin 16) 7 (HomeOp.rd SnpType.data) 64 (0 : Line) (0 : BitVec 64) false regA 0 64) = true ∧ sheafHit sm (0 : Fin 4)
      (stagedReq sm (0 : Fin 4) (0 : Fin 4) (0 : Fin 16) 7 (HomeOp.rd SnpType.data) 64 (0 : Line) (0 : BitVec 64) false regA 0 64).ldTag 64
      = some e0) ∧ memCommand (0 : Fin 4) (0 : Fin 4) (0 : Fin 16) 7 64 (0 : Line) (0 : BitVec 64) false (HomeOp.rd SnpType.data)
      (Instr.memRd (0 : Fin 4) (0 : Fin 4) (0 : Fin 16) 7 64 SnpType.data Parity.good)) ∧
    ((linkServes sm (0 : Fin 4) (0 : Fin 4) = true ∧ protocolError sm (0 : Fin 4) ↑(0 : Fin 4) ↑(0 : Fin 16) = false ∧ decodeHpa sm (0 : Fin
      4) ↑(0 : Fin 16) 65 = some (regA, 0, 65) ∧ noInjection sm = true ∧ keyAdmits sm (stagedReq sm (0 : Fin 4) (0 : Fin 4) (0 : Fin 16) 7
      HomeOp.wr 65 (9 : Line) (0 : BitVec 64) true regA 0 65).ldTag (stagedReq sm (0 : Fin 4) (0 : Fin 4) (0 : Fin 16) 7 HomeOp.wr 65 (9 :
      Line) (0 : BitVec 64) true regA 0 65).key = true ∧ admitsNow sm (0 : Fin 4) (stagedReq sm (0 : Fin 4) (0 : Fin 4) (0 : Fin 16) 7
      HomeOp.wr 65 (9 : Line) (0 : BitVec 64) true regA 0 65) = true ∧ sheafHit sm (0 : Fin 4) (stagedReq sm (0 : Fin 4) (0 : Fin 4) (0 :
      Fin 16) 7 HomeOp.wr 65 (9 : Line) (0 : BitVec 64) true regA 0 65).ldTag 65 = some e0) ∧ memCommand (0 : Fin 4) (0 : Fin 4) (0 : Fin
      16) 7 65 (9 : Line) (0 : BitVec 64) true HomeOp.wr (Instr.memWr (0 : Fin 4) (0 : Fin 4) (0 : Fin 16) 7 65 (9 : Line) true
      Parity.good)) ∧
    ((linkServes sm (0 : Fin 4) (0 : Fin 4) = true ∧ protocolError sm (0 : Fin 4) ↑(0 : Fin 4) ↑(0 : Fin 16) = false ∧ decodeHpa sm (0 : Fin
      4) ↑(0 : Fin 16) 65 = some (regA, 0, 65) ∧ noInjection sm = true ∧ keyAdmits sm (stagedReq sm (0 : Fin 4) (0 : Fin 4) (0 : Fin 16) 7
      HomeOp.wrPtl 65 (9 : Line) (3 : BitVec 64) false regA 0 65).ldTag (stagedReq sm (0 : Fin 4) (0 : Fin 4) (0 : Fin 16) 7 HomeOp.wrPtl 65
      (9 : Line) (3 : BitVec 64) false regA 0 65).key = true ∧ admitsNow sm (0 : Fin 4) (stagedReq sm (0 : Fin 4) (0 : Fin 4) (0 : Fin 16) 7
      HomeOp.wrPtl 65 (9 : Line) (3 : BitVec 64) false regA 0 65) = true ∧ sheafHit sm (0 : Fin 4) (stagedReq sm (0 : Fin 4) (0 : Fin 4) (0
      : Fin 16) 7 HomeOp.wrPtl 65 (9 : Line) (3 : BitVec 64) false regA 0 65).ldTag 65 = some e0) ∧ memCommand (0 : Fin 4) (0 : Fin 4) (0 :
      Fin 16) 7 65 (9 : Line) (3 : BitVec 64) false HomeOp.wrPtl (Instr.memWrPtl (0 : Fin 4) (0 : Fin 4) (0 : Fin 16) 7 65 (9 : Line) (3 :
      BitVec 64) Parity.good)) ∧
    ((linkServes sm (0 : Fin 4) (0 : Fin 4) = true ∧ protocolError sm (0 : Fin 4) ↑(0 : Fin 4) ↑(0 : Fin 16) = false ∧ decodeHpa sm (0 : Fin
      4) ↑(0 : Fin 16) 65 = some (regA, 0, 65) ∧ noInjection sm = true ∧ keyAdmits sm (stagedReq sm (0 : Fin 4) (0 : Fin 4) (0 : Fin 16) 7
      HomeOp.inv 65 (0 : Line) (0 : BitVec 64) false regA 0 65).ldTag (stagedReq sm (0 : Fin 4) (0 : Fin 4) (0 : Fin 16) 7 HomeOp.inv 65 (0
      : Line) (0 : BitVec 64) false regA 0 65).key = true ∧ admitsNow sm (0 : Fin 4) (stagedReq sm (0 : Fin 4) (0 : Fin 4) (0 : Fin 16) 7
      HomeOp.inv 65 (0 : Line) (0 : BitVec 64) false regA 0 65) = true ∧ sheafHit sm (0 : Fin 4) (stagedReq sm (0 : Fin 4) (0 : Fin 4) (0 :
      Fin 16) 7 HomeOp.inv 65 (0 : Line) (0 : BitVec 64) false regA 0 65).ldTag 65 = some e0) ∧ memCommand (0 : Fin 4) (0 : Fin 4) (0 : Fin
      16) 7 65 (0 : Line) (0 : BitVec 64) false HomeOp.inv (Instr.memInv (0 : Fin 4) (0 : Fin 4) (0 : Fin 16) 7 65 Parity.good)) ∧
    ((linkServes sm (0 : Fin 4) (0 : Fin 4) = true ∧ protocolError sm (0 : Fin 4) ↑(0 : Fin 4) ↑(0 : Fin 16) = false ∧ decodeHpa sm (0 : Fin
      4) ↑(0 : Fin 16) 65 = some (regA, 0, 65) ∧ noInjection sm = true ∧ keyAdmits sm (stagedReq sm (0 : Fin 4) (0 : Fin 4) (0 : Fin 16) 7
      HomeOp.clnEvct 65 (0 : Line) (0 : BitVec 64) false regA 0 65).ldTag (stagedReq sm (0 : Fin 4) (0 : Fin 4) (0 : Fin 16) 7
      HomeOp.clnEvct 65 (0 : Line) (0 : BitVec 64) false regA 0 65).key = true ∧ admitsNow sm (0 : Fin 4) (stagedReq sm (0 : Fin 4) (0 : Fin
      4) (0 : Fin 16) 7 HomeOp.clnEvct 65 (0 : Line) (0 : BitVec 64) false regA 0 65) = true ∧ sheafHit sm (0 : Fin 4) (stagedReq sm (0 :
      Fin 4) (0 : Fin 4) (0 : Fin 16) 7 HomeOp.clnEvct 65 (0 : Line) (0 : BitVec 64) false regA 0 65).ldTag 65 = some e0) ∧ memCommand (0 :
      Fin 4) (0 : Fin 4) (0 : Fin 16) 7 65 (0 : Line) (0 : BitVec 64) false HomeOp.clnEvct (Instr.memClnEvct (0 : Fin 4) (0 : Fin 4) (0 :
      Fin 16) 7 65 Parity.good)) ∧
    ((linkServes sm0 (0 : Fin 4) (0 : Fin 4) = true ∧ protocolError sm0 (0 : Fin 4) ↑(0 : Fin 4) ↑(0 : Fin 16) = false ∧ decodeHpa sm0 (0 :
      Fin 4) ↑(0 : Fin 16) 64 = some (regA, 0, 64) ∧ noInjection sm0 = true ∧ keyAdmits sm0 (stagedReq sm0 (0 : Fin 4) (0 : Fin 4) (0 : Fin
      16) 7 (HomeOp.rd SnpType.data) 64 (0 : Line) (0 : BitVec 64) false regA 0 64).ldTag (stagedReq sm0 (0 : Fin 4) (0 : Fin 4) (0 : Fin
      16) 7 (HomeOp.rd SnpType.data) 64 (0 : Line) (0 : BitVec 64) false regA 0 64).key = true ∧ admitsNow sm0 (0 : Fin 4) (stagedReq sm0 (0
      : Fin 4) (0 : Fin 4) (0 : Fin 16) 7 (HomeOp.rd SnpType.data) 64 (0 : Line) (0 : BitVec 64) false regA 0 64) = true ∧ sheafHit sm0 (0 :
      Fin 4) (stagedReq sm0 (0 : Fin 4) (0 : Fin 4) (0 : Fin 16) 7 (HomeOp.rd SnpType.data) 64 (0 : Line) (0 : BitVec 64) false regA 0
      64).ldTag 64 = none ∧ (∀ x ∈ sm0.ports[(0 : Fin 4)].slots, ¬(x.ldTag = (stagedReq sm0 (0 : Fin 4) (0 : Fin 4) (0 : Fin 16) 7
      (HomeOp.rd SnpType.data) 64 (0 : Line) (0 : BitVec 64) false regA 0 64).ldTag ∧ x.page = 64 >>> 12)) ∧ sm0.ports[(0 : Fin
      4)].slots.length < 64) ∧ memCommand (0 : Fin 4) (0 : Fin 4) (0 : Fin 16) 7 64 (0 : Line) (0 : BitVec 64) false (HomeOp.rd
      SnpType.data) (Instr.memRd (0 : Fin 4) (0 : Fin 4) (0 : Fin 16) 7 64 SnpType.data Parity.good)) ∧
    ((linkServes sm1 (0 : Fin 4) (0 : Fin 4) = true ∧ protocolError sm1 (0 : Fin 4) ↑(0 : Fin 4) ↑(0 : Fin 16) = false ∧ decodeHpa sm1 (0 :
      Fin 4) ↑(0 : Fin 16) 64 = some (regA, 0, 64) ∧ noInjection sm1 = true ∧ keyAdmits sm1 (stagedReq sm1 (0 : Fin 4) (0 : Fin 4) (0 : Fin
      16) 7 (HomeOp.rd SnpType.data) 64 (0 : Line) (0 : BitVec 64) false regA 0 64).ldTag (stagedReq sm1 (0 : Fin 4) (0 : Fin 4) (0 : Fin
      16) 7 (HomeOp.rd SnpType.data) 64 (0 : Line) (0 : BitVec 64) false regA 0 64).key = true ∧ admitsNow sm1 (0 : Fin 4) (stagedReq sm1 (0
      : Fin 4) (0 : Fin 4) (0 : Fin 16) 7 (HomeOp.rd SnpType.data) 64 (0 : Line) (0 : BitVec 64) false regA 0 64) = true ∧ sheafHit sm1 (0 :
      Fin 4) (stagedReq sm1 (0 : Fin 4) (0 : Fin 4) (0 : Fin 16) 7 (HomeOp.rd SnpType.data) 64 (0 : Line) (0 : BitVec 64) false regA 0
      64).ldTag 64 = none ∧ (∃ x ∈ sm1.ports[(0 : Fin 4)].slots, x.ldTag = (stagedReq sm1 (0 : Fin 4) (0 : Fin 4) (0 : Fin 16) 7 (HomeOp.rd
      SnpType.data) 64 (0 : Line) (0 : BitVec 64) false regA 0 64).ldTag ∧ x.page = 64 >>> 12)) ∧ memCommand (0 : Fin 4) (0 : Fin 4) (0 :
      Fin 16) 7 64 (0 : Line) (0 : BitVec 64) false (HomeOp.rd SnpType.data) (Instr.memRd (0 : Fin 4) (0 : Fin 4) (0 : Fin 16) 7 64
      SnpType.data Parity.good)) :=
  ⟨⟨by decide +kernel, by simp [memCommand]⟩, ⟨by decide +kernel, by simp [memCommand]⟩, ⟨by decide +kernel, by simp [memCommand]⟩,
    ⟨by decide +kernel, by simp [memCommand]⟩, ⟨by decide +kernel, by simp [memCommand]⟩, ⟨by decide +kernel, by simp [memCommand]⟩,
    ⟨by decide +kernel, by simp [memCommand]⟩⟩

theorem witness_RefusedRequestCompletes :
    (((portIn PortState.drained sr).ports[(0 : Fin 4)].links[(0 : Fin 4)].up = true ∧ ((portIn PortState.drained sr).ports[(0 : Fin
      4)].state = PortState.training ∨ (portIn PortState.drained sr).ports[(0 : Fin 4)].state = PortState.drained ∨ (portIn
      PortState.drained sr).ports[(0 : Fin 4)].state = PortState.viral) ∧ ((portIn PortState.drained sr).pair.fenceIn = false ∨ (portIn
      PortState.drained sr).domainDown = true)) ∧ memCommand (0 : Fin 4) (0 : Fin 4) (0 : Fin 16) 7 64 (0 : Line) (0 : BitVec 64) false
      (HomeOp.rd SnpType.data) (Instr.memRd (0 : Fin 4) (0 : Fin 4) (0 : Fin 16) 7 64 SnpType.data Parity.good)) ∧
    (((portIn PortState.viral sr).ports[(0 : Fin 4)].links[(0 : Fin 4)].up = true ∧ ((portIn PortState.viral sr).ports[(0 : Fin 4)].state =
      PortState.training ∨ (portIn PortState.viral sr).ports[(0 : Fin 4)].state = PortState.drained ∨ (portIn PortState.viral sr).ports[(0 :
      Fin 4)].state = PortState.viral) ∧ ((portIn PortState.viral sr).pair.fenceIn = false ∨ (portIn PortState.viral sr).domainDown = true))
      ∧ memCommand (0 : Fin 4) (0 : Fin 4) (0 : Fin 16) 7 65 (9 : Line) (0 : BitVec 64) true HomeOp.wr (Instr.memWr (0 : Fin 4) (0 : Fin 4)
      (0 : Fin 16) 7 65 (9 : Line) true Parity.good)) ∧
    ((slow.ports[(0 : Fin 4)].links[(0 : Fin 4)].up = true ∧ linkOpen slow (0 : Fin 4) (0 : Fin 4) = true ∧ slow.ports[(0 : Fin 4)].links[(0
      : Fin 4)].belowFloor = true ∧ noInjection slow = true) ∧ memCommand (0 : Fin 4) (0 : Fin 4) (0 : Fin 16) 7 64 (0 : Line) (0 : BitVec
      64) false (HomeOp.rd SnpType.data) (Instr.memRd (0 : Fin 4) (0 : Fin 4) (0 : Fin 16) 7 64 SnpType.data Parity.good)) ∧
    ((sm.ports[(0 : Fin 4)].links[(0 : Fin 4)].up = true ∧ linkServes sm (0 : Fin 4) (0 : Fin 4) = true ∧ noInjection sm = true ∧
      protocolError sm (0 : Fin 4) ↑(0 : Fin 4) ↑(0 : Fin 16) = false ∧ decodeHpa sm (0 : Fin 4) (↑(0 : Fin 16)) (2 ^ 30) = none) ∧
      memCommand (0 : Fin 4) (0 : Fin 4) (0 : Fin 16) 7 (2 ^ 30) (0 : Line) (0 : BitVec 64) false (HomeOp.rd SnpType.data) (Instr.memRd (0 :
      Fin 4) (0 : Fin 4) (0 : Fin 16) 7 (2 ^ 30) SnpType.data Parity.good)) ∧
    ((sm.ports[(0 : Fin 4)].links[(0 : Fin 4)].up = true ∧ linkServes sm (0 : Fin 4) (0 : Fin 4) = true ∧ noInjection sm = true ∧
      protocolError sm (0 : Fin 4) ↑(0 : Fin 4) ↑(0 : Fin 16) = false ∧ decodeHpa sm (0 : Fin 4) (↑(0 : Fin 16)) (2 ^ 30) = none) ∧
      memCommand (0 : Fin 4) (0 : Fin 4) (0 : Fin 16) 7 (2 ^ 30) (9 : Line) (0 : BitVec 64) true HomeOp.wr (Instr.memWr (0 : Fin 4) (0 : Fin
      4) (0 : Fin 16) 7 (2 ^ 30) (9 : Line) true Parity.good)) ∧
    ((smMld.ports[(0 : Fin 4)].links[(0 : Fin 4)].up = true ∧ linkServes smMld (0 : Fin 4) (0 : Fin 4) = true ∧ noInjection smMld = true ∧
      protocolError smMld (0 : Fin 4) ↑(0 : Fin 4) ↑(5 : Fin 16) = true) ∧ memCommand (0 : Fin 4) (0 : Fin 4) (5 : Fin 16) 7 (2 ^ 30) (0 :
      Line) (0 : BitVec 64) false (HomeOp.rd SnpType.data) (Instr.memRd (0 : Fin 4) (0 : Fin 4) (5 : Fin 16) 7 (2 ^ 30) SnpType.data
      Parity.good)) ∧
    ((smK.ports[(0 : Fin 4)].links[(0 : Fin 4)].up = true ∧ linkServes smK (0 : Fin 4) (0 : Fin 4) = true ∧ noInjection smK = true ∧
      protocolError smK (0 : Fin 4) ↑(0 : Fin 4) ↑(0 : Fin 16) = false ∧ decodeHpa smK (0 : Fin 4) ↑(0 : Fin 16) 64 = some (regA, 0, 64) ∧
      keyAdmits smK (16 * ↑(0 : Fin 4) + ↑(0 : Fin 16)) (stagedReq smK (0 : Fin 4) (0 : Fin 4) (0 : Fin 16) 7 (HomeOp.rd SnpType.data) 64 (0
      : Line) (0 : BitVec 64) false regA 0 64).key = false) ∧ memCommand (0 : Fin 4) (0 : Fin 4) (0 : Fin 16) 7 64 (0 : Line) (0 : BitVec
      64) false (HomeOp.rd SnpType.data) (Instr.memRd (0 : Fin 4) (0 : Fin 4) (0 : Fin 16) 7 64 SnpType.data Parity.good)) ∧
    (sm.ports[(0 : Fin 4)].state = PortState.enabled ∧ sm.ports[(0 : Fin 4)].links[(0 : Fin 4)].up = true ∧ noInjection sm = true ∧
      sm.domainDown = false ∧ parityAt parF CtlStage.port = ParityKind.fatal) ∧
    (sm.ports[(0 : Fin 4)].state = PortState.enabled ∧ sm.ports[(0 : Fin 4)].links[(0 : Fin 4)].up = true ∧ noInjection sm = true ∧
      sm.domainDown = false ∧ parityAt parC CtlStage.port = ParityKind.contained) :=
  ⟨⟨by decide +kernel, by simp [memCommand]⟩, ⟨by decide +kernel, by simp [memCommand]⟩, ⟨by decide +kernel, by simp [memCommand]⟩,
    ⟨by decide +kernel, by simp [memCommand]⟩, ⟨by decide +kernel, by simp [memCommand]⟩, ⟨by decide +kernel, by simp [memCommand]⟩,
    ⟨by decide +kernel, by simp [memCommand]⟩, by decide +kernel, by decide +kernel⟩

theorem witness_ResponsesAndAdmission :
    (List.find? (fun x => decide (x.rid = 9)) (sEg false).ports[(0 : Fin 4)].egress = some rsp9 ∧ List.find? (fun x => decide (x.req.rid =
      9)) (sEg false).ports[(0 : Fin 4)].reqs = some case1 ∧ case1.req.src = Src.host ↑(0 : Fin 4) ↑(0 : Fin 4) 0 5 ∧ (sEg false).ports[(0 :
      Fin 4)].links[(0 : Fin 4)].retraining = false ∧ (sEg false).pair.fenceIn = false) ∧
    (List.find? (fun x => decide (x.rid = 9)) (sEg true).ports[(0 : Fin 4)].egress = some rsp9 ∧ List.find? (fun x => decide (x.req.rid =
      9)) (sEg true).ports[(0 : Fin 4)].reqs = some case2 ∧ case2.req.src = Src.host ↑(0 : Fin 4) ↑(0 : Fin 4) 0 5 ∧ (sEg true).ports[(0 :
      Fin 4)].links[(0 : Fin 4)].retraining = false ∧ (sEg true).pair.fenceIn = false) ∧
    (List.find? (fun x => decide (x.rid = 9)) (portIn PortState.drained (sEg false)).ports[(0 : Fin 4)].egress = some rsp9 ∧ List.find? (fun
      x => decide (x.req.rid = 9)) (portIn PortState.drained (sEg false)).ports[(0 : Fin 4)].reqs = some case3 ∧ case3.req.src = Src.host
      ↑(0 : Fin 4) ↑(0 : Fin 4) 0 5 ∧ (portIn PortState.drained (sEg false)).ports[(0 : Fin 4)].links[(0 : Fin 4)].retraining = false ∧
      (portIn PortState.drained (sEg false)).pair.fenceIn = false) ∧
    (sr.domainDown = false) ∧
    (case4.domainDown = false) ∧
    ((regSetField offQosWindow 0 16 1000 ({ sr with dtime := 900 })).domainDown = false) :=
  ⟨by decide +kernel, by decide +kernel, by decide +kernel, by decide +kernel, by decide +kernel, by decide +kernel⟩

theorem witness_WalksAndFills :
    (case5.domainDown = false ∧ case5.fw.germUp = true ∧ case5.gate.walks.length < 16 ∧ case5.gate.records = [mr, mr]) ∧
    ((sWk wk).domainDown = false ∧ noInjection (sWk wk) = true ∧ parityAt Parity.good CtlStage.channel ≠ ParityKind.fatal ∧ (sWk
      wk).gate.walks[0]? = some wk ∧ wk.leaf = none ∧ wk.waiting = false ∧ targetBusy (sWk wk) (entryAddr wk.table wk.level wk.miss.ldTag
      wk.miss.dpa) = false ∧ (readEntry (entryAddr wk.table wk.level wk.miss.ldTag wk.miss.dpa) idWalk (0 : Image) (sWk wk)).1 = some (rdE
      wk) ∧ eValid (rdE wk) = true ∧ checkEntry (rd wk).2 wk.level (rdE wk) = none ∧ eLeaf (rdE wk) = true) ∧
    ((sWk wkD).domainDown = false ∧ noInjection (sWk wkD) = true ∧ parityAt Parity.good CtlStage.channel ≠ ParityKind.fatal ∧ (sWk
      wkD).gate.walks[0]? = some wkD ∧ wkD.leaf = none ∧ wkD.waiting = false ∧ targetBusy (sWk wkD) (entryAddr wkD.table wkD.level
      wkD.miss.ldTag wkD.miss.dpa) = false ∧ (readEntry (entryAddr wkD.table wkD.level wkD.miss.ldTag wkD.miss.dpa) idWalk (0 : Image) (sWk
      wkD)).1 = some (rdE wkD) ∧ eValid (rdE wkD) = true ∧ checkEntry (rd wkD).2 wkD.level (rdE wkD) = some 3) ∧
    ((sWk wkE).domainDown = false ∧ noInjection (sWk wkE) = true ∧ parityAt Parity.good CtlStage.channel ≠ ParityKind.fatal ∧ (sWk
      wkE).gate.walks[0]? = some wkE ∧ wkE.leaf = none ∧ wkE.waiting = false ∧ targetBusy (sWk wkE) (entryAddr wkE.table wkE.level
      wkE.miss.ldTag wkE.miss.dpa) = false ∧ (readEntry (entryAddr wkE.table wkE.level wkE.miss.ldTag wkE.miss.dpa) idWalk (0 : Image) (sWk
      wkE)).1 = some (rdE wkE) ∧ eValid (rdE wkE) = true ∧ checkEntry (rd wkE).2 wkE.level (rdE wkE) = none ∧ eLeaf (rdE wkE) = false) ∧
    ((sWk wkU).domainDown = false ∧ noInjection (sWk wkU) = true ∧ parityAt Parity.good CtlStage.channel ≠ ParityKind.fatal ∧ (sWk
      wkU).gate.walks[0]? = some wkU ∧ wkU.leaf = none ∧ wkU.waiting = false ∧ targetBusy (sWk wkU) (entryAddr wkU.table wkU.level
      wkU.miss.ldTag wkU.miss.dpa) = false ∧ (readEntry (entryAddr wkU.table wkU.level wkU.miss.ldTag wkU.miss.dpa) idWalk (0 : Image) (sWk
      wkU)).1 = some (rdE wkU) ∧ eValid (rdE wkU) = false) ∧
    ((sWk wkX).domainDown = false ∧ noInjection (sWk wkX) = true ∧ parityAt Parity.good CtlStage.channel ≠ ParityKind.fatal ∧ (sWk
      wkX).gate.walks[0]? = some wkX ∧ wkX.leaf = none ∧ wkX.waiting = false ∧ targetBusy (sWk wkX) (entryAddr wkX.table wkX.level
      wkX.miss.ldTag wkX.miss.dpa) = false) ∧
    ((sWk wkL).domainDown = false ∧ noInjection (sWk wkL) = true ∧ parityAt Parity.good CtlStage.channel ≠ ParityKind.fatal ∧ (sWk
      wkL).gate.walks[0]? = some wkL ∧ wkL.leaf = none ∧ wkL.waiting = false ∧ targetBusy (sWk wkL) (entryAddr wkL.table wkL.level
      wkL.miss.ldTag wkL.miss.dpa) = false ∧ (readEntry (entryAddr wkL.table wkL.level wkL.miss.ldTag wkL.miss.dpa) idWalk (0 : Image) (sWk
      wkL)).1 = some (rdE wkL)) ∧
    (busyX.domainDown = false ∧ noInjection busyX = true ∧ parityAt Parity.good CtlStage.channel ≠ ParityKind.fatal ∧ busyX.gate.walks[0]? =
      some wk ∧ wk.leaf = none ∧ wk.waiting = false) ∧
    (flag (1 : Word) 0 = true ∧ fillable (regWrite Half.whole offShfFillCmd (1 : Word) fillS) (regGet (regWrite Half.whole offShfFillCmd (1
      : Word) fillS) offShfFillMap) = true ∧ regField (regWrite Half.whole offShfFillCmd (1 : Word) fillS) offShfFillCmd 32 16 =
      fillS.ports[port4 (regField (regWrite Half.whole offShfFillCmd (1 : Word) fillS) offShfFillKey 56 2)].invSeq % 65536 ∧
      fillS.ports[port4 (regField (regWrite Half.whole offShfFillCmd (1 : Word) fillS) offShfFillKey 56 2)].sheaf.length < 4096) ∧
    (flag (1 : Word) 0 = true ∧ fillable (regWrite Half.whole offShfFillCmd (1 : Word) case6) (regGet (regWrite Half.whole offShfFillCmd (1
      : Word) case6) offShfFillMap) = true ∧ regField (regWrite Half.whole offShfFillCmd (1 : Word) case6) offShfFillCmd 32 16 =
      case6.ports[port4 (regField (regWrite Half.whole offShfFillCmd (1 : Word) case6) offShfFillKey 56 2)].invSeq % 65536 ∧
      case6.ports[port4 (regField (regWrite Half.whole offShfFillCmd (1 : Word) case6) offShfFillKey 56 2)].sheaf.length < 4096) ∧
    (flag ((2 : Word) ^ 32 + (1 : Word)) 0 = true ∧ fillable (regWrite Half.whole offShfFillCmd ((2 : Word) ^ 32 + (1 : Word)) case7)
      (regGet (regWrite Half.whole offShfFillCmd ((2 : Word) ^ 32 + (1 : Word)) case7) offShfFillMap) = true ∧ regField (regWrite Half.whole
      offShfFillCmd ((2 : Word) ^ 32 + (1 : Word)) case7) offShfFillCmd 32 16 ≠ case7.ports[port4 (regField (regWrite Half.whole
      offShfFillCmd ((2 : Word) ^ 32 + (1 : Word)) case7) offShfFillKey 56 2)].invSeq % 65536) :=
  ⟨by decide +kernel, by decide +kernel, by decide +kernel, by decide +kernel, by decide +kernel, by decide +kernel, by decide +kernel,
    by decide +kernel, by decide +kernel, by decide +kernel, by decide +kernel⟩

end OnRequests

/-! ### Invalidations (chapter 3) -/

namespace OnSheaf

def e0 : SheafEntry := ⟨0, 0, 12, 0x4000, false, false, false⟩
def e1 : SheafEntry := ⟨0, 0x1000, 12, 0x5000, false, false, true⟩
def rq (st : Stage) (d : Nat) : OpenReq := ⟨{ rawReq d (.host 0 0 0 5) 0 .wr 64 0 0 false with dpa := 0x1000 }, st, false, false, false, false⟩
def sInv : State := regSet offShfInvRange (place 58 12) (withPort (fun o => { o with sheaf := [e0, e1], reqs := [rq (.home 0) 3], slots := [⟨0, 0, 0⟩] }) sr)
def sInvW : State := regSet offShfInvRange (place 58 13) sInv
def sInvO : State := { sInv with gate := { sInv.gate with invOpen := true } }
def sPin : State := { sr with gate := { sr.gate with reinstall := [(0, e1)] } }
def leafW : Word := mkLeaf 30 false false 0x40000000
def sPm : State := withTree treeA sPin

theorem witness_SheafInvalidations :
    (flag (1 : Word) 0 = true ∧ sInv.gate.invOpen = false) ∧
    (flag (1 : Word) 0 = true ∧ sInvW.gate.invOpen = false) ∧
    (flag (1 : Word) 0 = true ∧ (regSet offShfInvRange (place 57 1 ||| place 58 44) sInv).gate.invOpen = false) ∧
    (flag (1 : Word) 0 = true ∧ sInvO.gate.invOpen = true ∧ sInvO.gate.invTimedOut = false) ∧
    (flag ((1 : Word) + place 58 21) 0 = true) ∧
    (flag ((1 : Word) + place 58 21 + (2097152 : Word)) 0 = true) ∧
    (sPm.gate.invOpen = false ∧ sPm.domainDown = false ∧ sPm.fw.germUp = true ∧ sPm.gate.reinstall = [(0, e1)] ∧ (leavesIn (2 ^ e1.size /
      4096 + 1) e1.ldTag e1.dpaBase (e1.dpaBase + 2 ^ e1.size) { sPm with gate := { sPm.gate with reinstall := [] } }).1 = [(0, leafW)]) :=
  ⟨by decide +kernel, by decide +kernel, by decide +kernel, by decide +kernel, by decide +kernel, by decide +kernel, by decide +kernel⟩

end OnSheaf

/-! ### The homes (chapters 4, 5) -/

namespace OnHomes

def lk (s : State) : State := portIn .enabled s
def mkm (op : HomeOp) (mpa : Nat) : Msg := ⟨{ rawReq 9 (.host 0 0 0 5) 0 op 64 7 0 false with dpa := 64, region := 6, key := 0xA6, cls := 1 }, mpa, none, 0⟩
def qos (s : State) : State := (List.range 8).foldl (fun t c => regSet (offQosShare c) (BitVec.ofNat 64 (256 * 2 ^ 32)) t) s
def sHo (m : Msg) : State := qos (withSpk (fun k => { k with inbox := [m], sf := [(16 * 5 + 3, { freshEntry 6 6 3 0 0 with st := #v[.s, .i, .i, .i], vector := 1 })] }) (lk sr))
def case1 : State := ({ sHo (mkm .wr 0x40) with ports := sr.ports })
def txq (op : HomeOp) (p : Nat) (st : TxState) : Txn := { tid := 33, msg := ⟨{ rawReq 9 (.host p 0 0 5) (16 * p) op 64 7 0 false with dpa := 64, region := 6, key := 0xA6, cls := 1 }, 0x40, none, 0⟩, state := st, need := [], started := 0, rsp := ⟨9, .cmpE, 0, false, 0, 0, false, 0⟩, sfWaited := false, absorbed := false, waiting := false, queued := false, mirror := none, wrote := none }
def eO : SfEntry := { freshEntry (plainSector 0x40) 6 0 0 0 with st := #v[.i, .o, .i, .i], owner := #v[0, 0, 0, 0], holdEnd := 100 }
def sBi (st : TxState) : State := withSpk (fun k => { k with txns := [txq (.rd .inv) 1 st], sf := [(16 * sfSet (plainSector 0x40) + 2, eO)] }) (regSetField (offDecMap 0 0 0) 16 8 6 (regSetField (offSpkHold 0) 0 12 200 (withPort (fun o => { o with decs := [(0, ⟨0x100000, 2^30, 256, 1, true, false⟩)] }) (lk { sr with dtime := 20 }))))
def bi0 : PortBi := ⟨4, 0, 7, 0, 0x100040, .inv, 0, false, false⟩
def sn0 : Snp := ⟨7, .txn 33, plainSector 0x40, 1, 0, .inv, 5, 1, none, false⟩
def sBr : State := withPort (fun o => { o with bis := [bi0] }) (withSpk (fun k => { k with snps := [sn0] }) (sBi .biWait))
def sBc : State := withPort (fun o => { o with reqs := [⟨{ rawReq 9 (.host 0 0 0 5) 0 .wr 0x100044 0 0 false with dpa := 0x1000 }, .egress, false, false, false, false⟩] }) sBr
def sBt : State := withSpk (fun k => { k with snps := [{ sn0 with timedOut := true }] }) sBr
def sMs (op : HomeOp) : State := withSpk (fun k => { k with txns := [txq op 0 .memory] }) (lk { sr with filled := true })
def nodesAt (k : Fin 8) (l : KMap CulmLine) (s : State) : State := updSpk k (fun o => { o with culm := l }) s
def tq : Txn := { txq (.rd .data) 0 .memory with queued := true }
def sRd0 : State := withSpk (fun k => { k with txns := [tq] }) (lk { sr with filled := true, dram := [(137438953473, 2499964865786586526549121903910974082373121389946737796836254178914522712818489430899765325433536670654373100457977238597491714788836005202237704812945006047925080620823280545312661585752325557)] })
def sRd : State := nodesAt 0 [(274877923328, ⟨0x10000000000000000000, true, .node 0, 0, 0, false⟩), (293131546624, ⟨0xf29ebd65a61296b80000000000000000, true, .spill, 0, 0, false⟩)] (nodesAt 2 [(292594647040, ⟨0, false, .node 2, 0, 0, false⟩)] (nodesAt 6 [(292057776128, ⟨0, false, .node 1, 0, 0, false⟩)] sRd0))
def rdS : ReadRes × State := readData 0x40 (reqAcc sRd tq.msg.req) 0 sRd
def rk (l tid : Nat) (s : State) : State := withSpk (fun k => { k with rekeys := [⟨0x40, l, tid⟩] }) s
def txw : Txn := { txq .wr 0 .memory with waiting := true }
def sRw : State := withSpk (fun k => { k with txns := [txw] }) (rk 0 33 (lk sr))
def sFe : State := withSpk (fun k => { k with fetches := [⟨0x4400000000, .node 1, 1⟩] }) sr
def sFp : State := withSpk (fun k => { k with fetches := [⟨0x4400000000, .pkt, 1⟩] }) sr
def fo : List CulmOp × State := fetchOps .pkt 0x4400000000 1 { sFp with spks := sFp.spks.set 0 { sFp.spks[0] with fetches := [] } }

theorem witness_HomeOrdersAndGrants :
    ((halted case1 = false ∧ errorFree case1 = true ∧ portsQuiet case1 = true ∧ homeWaits case1 (0 : Fin 8) = true ∧ pickMessages case1 (0 :
      Fin 8) (serviceOrder case1 (0 : Fin 8)) 1 [] = [(0, mkm HomeOp.wr 64)] ∧ (∀ w ∈ case1.ports[reqPort (mkm HomeOp.wr
      64).req].creditWait, spkOf w.mpa ≠ (0 : Fin 8) ∨ w.req.cls ≠ (mkm HomeOp.wr 64).req.cls) ∧ holdPage (mkm HomeOp.wr 64) ∉ case1.spks[(0
      : Fin 8)].holds ∧ case1.spks[(0 : Fin 8)].evict = [] ∧ (∀ u ∈ case1.spks[(0 : Fin 8)].txns, u.tid < case1.seq) ∧ (mkm HomeOp.wr
      64).packed = none ∧ isProtected case1 (mkm HomeOp.wr 64).mpa = false ∧ coherent case1 (mkm HomeOp.wr 64).req = false) ∧ (∀ (p l ld tag
      : ℕ), (mkm HomeOp.wr 64).req.src = Src.host p l ld tag → p < 4) ∧ keyFree case1 (0 : Fin 8) (mkm HomeOp.wr 64) case1.seq ∧ (∀ (a :
      AtomicKind) (b c : BitVec 128) (d : ℕ), (mkm HomeOp.wr 64).req.op ≠ HomeOp.atomic a b c d)) ∧
    ((halted (sHo (mkm (HomeOp.rd SnpType.inv) 64)) = false ∧ errorFree (sHo (mkm (HomeOp.rd SnpType.inv) 64)) = true ∧ portsQuiet (sHo (mkm
      (HomeOp.rd SnpType.inv) 64)) = true ∧ homeWaits (sHo (mkm (HomeOp.rd SnpType.inv) 64)) (0 : Fin 8) = true ∧ pickMessages (sHo (mkm
      (HomeOp.rd SnpType.inv) 64)) (0 : Fin 8) (serviceOrder (sHo (mkm (HomeOp.rd SnpType.inv) 64)) (0 : Fin 8)) 1 [] = [(0, mkm (HomeOp.rd
      SnpType.inv) 64)] ∧ (∀ w ∈ (sHo (mkm (HomeOp.rd SnpType.inv) 64)).ports[reqPort (mkm (HomeOp.rd SnpType.inv) 64).req].creditWait,
      spkOf w.mpa ≠ (0 : Fin 8) ∨ w.req.cls ≠ (mkm (HomeOp.rd SnpType.inv) 64).req.cls) ∧ holdPage (mkm (HomeOp.rd SnpType.inv) 64) ∉ (sHo
      (mkm (HomeOp.rd SnpType.inv) 64)).spks[(0 : Fin 8)].holds ∧ (sHo (mkm (HomeOp.rd SnpType.inv) 64)).spks[(0 : Fin 8)].evict = [] ∧ (∀ u
      ∈ (sHo (mkm (HomeOp.rd SnpType.inv) 64)).spks[(0 : Fin 8)].txns, u.tid < (sHo (mkm (HomeOp.rd SnpType.inv) 64)).seq) ∧ (mkm (HomeOp.rd
      SnpType.inv) 64).packed = none ∧ isProtected (sHo (mkm (HomeOp.rd SnpType.inv) 64)) (mkm (HomeOp.rd SnpType.inv) 64).mpa = false ∧
      reqHead (sHo (mkm (HomeOp.rd SnpType.inv) 64)) (mkm (HomeOp.rd SnpType.inv) 64).req = some 0 ∧ 0 < 4 ∧ ((mkm (HomeOp.rd SnpType.inv)
      64).req.op = HomeOp.rd SnpType.inv ∨ (mkm (HomeOp.rd SnpType.inv) 64).req.op = HomeOp.inv) ∧ sfFind (sHo (mkm (HomeOp.rd SnpType.inv)
      64)).spks[(0 : Fin 8)] (msgSector (mkm (HomeOp.rd SnpType.inv) 64)) = none ∧ chooseWay (sHo (mkm (HomeOp.rd SnpType.inv) 64)) (0 : Fin
      8) (msgSector (mkm (HomeOp.rd SnpType.inv) 64)) = WayChoice.free (16 * sfSet (plainSector 64))) ∧ (∀ (p l ld tag : ℕ), (mkm (HomeOp.rd
      SnpType.inv) 64).req.src = Src.host p l ld tag → p < 4) ∧ keyFree (sHo (mkm (HomeOp.rd SnpType.inv) 64)) (0 : Fin 8) (mkm (HomeOp.rd
      SnpType.inv) 64) (sHo (mkm (HomeOp.rd SnpType.inv) 64)).seq ∧ (∀ (a : AtomicKind) (b c : BitVec 128) (d : ℕ), (mkm (HomeOp.rd
      SnpType.inv) 64).req.op ≠ HomeOp.atomic a b c d)) ∧
    ((halted (sHo (mkm HomeOp.inv 64)) = false ∧ errorFree (sHo (mkm HomeOp.inv 64)) = true ∧ portsQuiet (sHo (mkm HomeOp.inv 64)) = true ∧
      homeWaits (sHo (mkm HomeOp.inv 64)) (0 : Fin 8) = true ∧ pickMessages (sHo (mkm HomeOp.inv 64)) (0 : Fin 8) (serviceOrder (sHo (mkm
      HomeOp.inv 64)) (0 : Fin 8)) 1 [] = [(0, mkm HomeOp.inv 64)] ∧ (∀ w ∈ (sHo (mkm HomeOp.inv 64)).ports[reqPort (mkm HomeOp.inv
      64).req].creditWait, spkOf w.mpa ≠ (0 : Fin 8) ∨ w.req.cls ≠ (mkm HomeOp.inv 64).req.cls) ∧ holdPage (mkm HomeOp.inv 64) ∉ (sHo (mkm
      HomeOp.inv 64)).spks[(0 : Fin 8)].holds ∧ (sHo (mkm HomeOp.inv 64)).spks[(0 : Fin 8)].evict = [] ∧ (∀ u ∈ (sHo (mkm HomeOp.inv
      64)).spks[(0 : Fin 8)].txns, u.tid < (sHo (mkm HomeOp.inv 64)).seq) ∧ (mkm HomeOp.inv 64).packed = none ∧ isProtected (sHo (mkm
      HomeOp.inv 64)) (mkm HomeOp.inv 64).mpa = false ∧ reqHead (sHo (mkm HomeOp.inv 64)) (mkm HomeOp.inv 64).req = some 0 ∧ 0 < 4 ∧ ((mkm
      HomeOp.inv 64).req.op = HomeOp.rd SnpType.inv ∨ (mkm HomeOp.inv 64).req.op = HomeOp.inv) ∧ sfFind (sHo (mkm HomeOp.inv 64)).spks[(0 :
      Fin 8)] (msgSector (mkm HomeOp.inv 64)) = none ∧ chooseWay (sHo (mkm HomeOp.inv 64)) (0 : Fin 8) (msgSector (mkm HomeOp.inv 64)) =
      WayChoice.free (16 * sfSet (plainSector 64))) ∧ (∀ (p l ld tag : ℕ), (mkm HomeOp.inv 64).req.src = Src.host p l ld tag → p < 4) ∧
      keyFree (sHo (mkm HomeOp.inv 64)) (0 : Fin 8) (mkm HomeOp.inv 64) (sHo (mkm HomeOp.inv 64)).seq ∧ (∀ (a : AtomicKind) (b c : BitVec
      128) (d : ℕ), (mkm HomeOp.inv 64).req.op ≠ HomeOp.atomic a b c d)) :=
  ⟨⟨by decide +kernel, by intro p l ld tag h; cases h <;> decide, by unfold keyFree; decide +kernel, by intro a b c d h; cases h⟩,
    ⟨by decide +kernel, by intro p l ld tag h; cases h <;> decide, by unfold keyFree; decide +kernel, by intro a b c d h; cases h⟩,
    ⟨by decide +kernel, by intro p l ld tag h; cases h <;> decide, by unfold keyFree; decide +kernel, by intro a b c d h; cases h⟩⟩

theorem witness_BackInvalidates :
    (halted (sBi TxState.holdWait) = false ∧ portsQuiet (sBi TxState.holdWait) = true ∧ homeWaits (sBi TxState.holdWait) (0 : Fin 8) = true
      ∧ txq (HomeOp.rd SnpType.inv) 1 TxState.holdWait ∈ (sBi TxState.holdWait).spks[(0 : Fin 8)].txns ∧ (txq (HomeOp.rd SnpType.inv) 1
      TxState.holdWait).state = TxState.holdWait ∧ (txq (HomeOp.rd SnpType.inv) 1 TxState.holdWait).tid ≠ 0 ∧ (∀ u ∈ (sBi
      TxState.holdWait).spks[(0 : Fin 8)].txns, u.tid = (txq (HomeOp.rd SnpType.inv) 1 TxState.holdWait).tid → u = txq (HomeOp.rd
      SnpType.inv) 1 TxState.holdWait) ∧ sfFind (sBi TxState.holdWait).spks[(0 : Fin 8)] (msgSector (txq (HomeOp.rd SnpType.inv) 1
      TxState.holdWait).msg) = some (16 * sfSet (plainSector 64) + 2, eO) ∧ inHold
      { (sBi TxState.holdWait) with dtime := (sBi TxState.holdWait).dtime + holdLeft (sBi TxState.holdWait) (↑(0 : Fin 8)) eO } (↑(0 : Fin
      8)) eO = false ∧ pairMode (sBi TxState.holdWait) = false ∧ txnNeeds (sBi TxState.holdWait) (txq (HomeOp.rd SnpType.inv) 1
      TxState.holdWait) eO = [({ line := 1, head := 0, kind := BiKind.inv } : BiNeed)] ∧ regionNo (sBi TxState.holdWait) eO.region = some
      regA ∧ headLdTag regA ({ line := 1, head := 0, kind := BiKind.inv } : BiNeed).head = some 0 ∧ (sBi TxState.holdWait).ports[port4
      ({ line := 1, head := 0, kind := BiKind.inv } : BiNeed).head].links[port4 (ldRec (sBi TxState.holdWait) 0).link].up = true ∧
      namingDecoders (sBi TxState.holdWait) (port4 ({ line := 1, head := 0, kind := BiKind.inv } : BiNeed).head) 0 eO.region ≠ []) ∧
    (errorFree sBr = true ∧ portsQuiet sBr = true ∧ pairMode sBr = false ∧ windowOver sBr (0 : Fin 4) = false ∧ homeWaits sBr (spk8 bi0.spk)
      = true ∧ List.find? (fun c => decide (c.bid = 4) && !c.unsent) sBr.ports[(0 : Fin 4)].bis = some bi0 ∧ sn0 ∈ sBr.spks[spk8
      bi0.spk].snps ∧ (∀ m ∈ sBr.spks[spk8 bi0.spk].snps, m.sid = sn0.sid ∨ m.owner = BiOwner.txn (txq (HomeOp.rd SnpType.inv) 1
      TxState.biWait).tid → m = sn0) ∧ sBr.spks[spk8 bi0.spk].snps.Nodup ∧ sn0.sid = bi0.sid ∧ sn0.left = 1 ∧ sn0.answer = none ∧ sn0.owner
      = BiOwner.txn (txq (HomeOp.rd SnpType.inv) 1 TxState.biWait).tid ∧ txq (HomeOp.rd SnpType.inv) 1 TxState.biWait ∈ sBr.spks[spk8
      bi0.spk].txns ∧ (txq (HomeOp.rd SnpType.inv) 1 TxState.biWait).state = TxState.biWait ∧ (∀ u ∈ sBr.spks[spk8 bi0.spk].txns, u.tid =
      (txq (HomeOp.rd SnpType.inv) 1 TxState.biWait).tid → u = txq (HomeOp.rd SnpType.inv) 1 TxState.biWait) ∧ (∀ m ∈ sBr.spks[spk8
      bi0.spk].inbox, lineBase m.req.hpa ≠ lineBase bi0.hpa) ∧ sfFind sBr.spks[spk8 bi0.spk] (msgSector (txq (HomeOp.rd SnpType.inv) 1
      TxState.biWait).msg) = some (16 * sfSet (plainSector 64) + 2, eO) ∧ (∀ m ∈ txnNeeds sBr (txq (HomeOp.rd SnpType.inv) 1 TxState.biWait)
      (recordBis eO [{ sn0 with left := 0, answer := some BiRsp.i }] (Option.map (fun h => (↑(msgLine (txq (HomeOp.rd SnpType.inv) 1
      TxState.biWait).msg), h)) (reqHead sBr (txq (HomeOp.rd SnpType.inv) 1 TxState.biWait).msg.req))), sn0.kind = BiKind.cur ∧ m.kind =
      BiKind.cur ∧ m.head = sn0.head)) ∧
    (noInjection sBr = true ∧ List.filter (fun x => decide (x.bid = bi0.bid)) sBr.ports[(0 : Fin 4)].bis = [bi0] ∧ bi0.unsent = false ∧ (∀ c
      ∈ sBr.ports[(0 : Fin 4)].bis, c.conflict = false) ∧ (∀ r ∈ sBr.ports[(0 : Fin 4)].reqs, orderedBefore sBr r = false ∨ lineBase
      r.req.hpa ≠ lineBase bi0.hpa)) ∧
    (noInjection sBc = true ∧ List.filter (fun x => decide (x.bid = bi0.bid)) sBc.ports[(0 : Fin 4)].bis = [bi0] ∧ bi0.unsent = false ∧ (∀ c
      ∈ sBc.ports[(0 : Fin 4)].bis, c.conflict = false) ∧ (∃ r ∈ sBc.ports[(0 : Fin 4)].reqs, orderedBefore sBc r = true ∧ lineBase
      r.req.hpa = lineBase bi0.hpa)) ∧
    (List.find? (fun n => decide (n.sid = 7) && n.answer.isNone && !n.timedOut) sBr.spks[(0 : Fin 8)].snps = some sn0) ∧
    ((∀ n ∈ sBt.spks[(0 : Fin 8)].snps, n.sid = 7 → n.answer ≠ none ∨ n.timedOut = true)) :=
  ⟨by decide +kernel, by decide +kernel, by decide +kernel, by decide +kernel, by decide +kernel, by decide +kernel⟩

theorem witness_MemoryStageAndCulmWork :
    ((halted (sMs HomeOp.inv) = false ∧ errorFree (sMs HomeOp.inv) = true ∧ portsQuiet (sMs HomeOp.inv) = true ∧ homeWaits (sMs HomeOp.inv)
      (0 : Fin 8) = true ∧ txq HomeOp.inv 0 TxState.memory ∈ (sMs HomeOp.inv).spks[(0 : Fin 8)].txns ∧ (∀ u ∈ (sMs HomeOp.inv).spks[(0 : Fin
      8)].txns, u.tid = (txq HomeOp.inv 0 TxState.memory).tid → u = txq HomeOp.inv 0 TxState.memory) ∧ (txq HomeOp.inv 0
      TxState.memory).state = TxState.memory ∧ memBlocked (sMs HomeOp.inv) (0 : Fin 8) (txq HomeOp.inv 0 TxState.memory) = false ∧ dupOf
      (sMs HomeOp.inv) (txq HomeOp.inv 0 TxState.memory).msg.req = none ∧ txnMissing (sMs HomeOp.inv) (txq HomeOp.inv 0 TxState.memory) = []
      ∧ memFirst (sMs HomeOp.inv) (0 : Fin 8) (txq HomeOp.inv 0 TxState.memory) = true ∧ (txq HomeOp.inv 0 TxState.memory).msg.packed = none
      ∧ (txq HomeOp.inv 0 TxState.memory).msg.req.src = Src.host 0 0 0 5 ∧ ((txq HomeOp.inv 0 TxState.memory).msg.req.op = HomeOp.inv ∨ (txq
      HomeOp.inv 0 TxState.memory).msg.req.op = HomeOp.clnEvct)) ∧ keyFree (sMs HomeOp.inv) (0 : Fin 8) (txq HomeOp.inv 0
      TxState.memory).msg (txq HomeOp.inv 0 TxState.memory).tid) ∧
    ((halted (sMs HomeOp.clnEvct) = false ∧ errorFree (sMs HomeOp.clnEvct) = true ∧ portsQuiet (sMs HomeOp.clnEvct) = true ∧ homeWaits (sMs
      HomeOp.clnEvct) (0 : Fin 8) = true ∧ txq HomeOp.clnEvct 0 TxState.memory ∈ (sMs HomeOp.clnEvct).spks[(0 : Fin 8)].txns ∧ (∀ u ∈ (sMs
      HomeOp.clnEvct).spks[(0 : Fin 8)].txns, u.tid = (txq HomeOp.clnEvct 0 TxState.memory).tid → u = txq HomeOp.clnEvct 0 TxState.memory) ∧
      (txq HomeOp.clnEvct 0 TxState.memory).state = TxState.memory ∧ memBlocked (sMs HomeOp.clnEvct) (0 : Fin 8) (txq HomeOp.clnEvct 0
      TxState.memory) = false ∧ dupOf (sMs HomeOp.clnEvct) (txq HomeOp.clnEvct 0 TxState.memory).msg.req = none ∧ txnMissing (sMs
      HomeOp.clnEvct) (txq HomeOp.clnEvct 0 TxState.memory) = [] ∧ memFirst (sMs HomeOp.clnEvct) (0 : Fin 8) (txq HomeOp.clnEvct 0
      TxState.memory) = true ∧ (txq HomeOp.clnEvct 0 TxState.memory).msg.packed = none ∧ (txq HomeOp.clnEvct 0 TxState.memory).msg.req.src =
      Src.host 0 0 0 5 ∧ ((txq HomeOp.clnEvct 0 TxState.memory).msg.req.op = HomeOp.inv ∨ (txq HomeOp.clnEvct 0 TxState.memory).msg.req.op =
      HomeOp.clnEvct)) ∧ keyFree (sMs HomeOp.clnEvct) (0 : Fin 8) (txq HomeOp.clnEvct 0 TxState.memory).msg (txq HomeOp.clnEvct 0
      TxState.memory).tid) ∧
    ((halted sRd = false ∧ errorFree sRd = true ∧ portsQuiet sRd = true ∧ homeWaits sRd (0 : Fin 8) = true ∧ tq ∈ sRd.spks[(0 : Fin 8)].txns
      ∧ (∀ u ∈ sRd.spks[(0 : Fin 8)].txns, u.tid = tq.tid → u = tq) ∧ tq.state = TxState.memory ∧ memBlocked sRd (0 : Fin 8) tq = false ∧
      dupOf sRd tq.msg.req = none ∧ txnMissing sRd tq = [] ∧ memFirst sRd (0 : Fin 8) tq = true ∧ tq.msg.packed = none ∧ tq.msg.req.src =
      Src.host 0 0 0 5 ∧ tq.msg.req.op = HomeOp.rd SnpType.data ∧ (readData tq.msg.mpa (reqAcc sRd tq.msg.req) (0 : Image) sRd).1 = rdS.1 ∧
      readPlain rdS.1 = some (7 : Line) ∧ rdS.2.spks = sRd.spks ∧ rdS.2.ports = sRd.ports ∧ rdS.2.pair = sRd.pair ∧ rdS.2.fw = sRd.fw) ∧
      keyFree sRd (0 : Fin 8) tq.msg tq.tid) ∧
    (portsQuiet (rk 0 3 sr) = true ∧ List.find? (fun r => decide (r.level = 0) && decide (r.base = 64)) (rk 0 3 sr).spks[(0 : Fin 8)].rekeys
      = some ({ base := 64, level := 0, tid := 3 } : Rekey) ∧ txnOf (rk 0 3 sr) (0 : Fin 8) ({ base := 64, level := 0, tid := 3 } :
      Rekey).tid = none) ∧
    ((portsQuiet sRw = true ∧ List.find? (fun r => decide (r.level = 0) && decide (r.base = 64)) sRw.spks[(0 : Fin 8)].rekeys = some
      ({ base := 64, level := 0, tid := 33 } : Rekey) ∧ txnOf sRw (0 : Fin 8) ({ base := 64, level := 0, tid := 33 } : Rekey).tid = some txw
      ∧ txw.waiting = true ∧ homeWaits sRw (0 : Fin 8) = true ∧ pairMode sRw = false) ∧ keyFree sRw (0 : Fin 8) txw.msg txw.tid) ∧
    (List.find? (fun r => decide (r.level ≠ 0) && decide (r.base = 64)) (rk 1 33 sr).spks[(0 : Fin 8)].rekeys = some
      ({ base := 64, level := 1, tid := 33 } : Rekey)) ∧
    (halted sFe = false ∧ noInjection sFe = true ∧ parityAt Parity.good CtlStage.channel ≠ ParityKind.fatal ∧ List.find? (fun x => decide
      (x.mpa = 292057776128)) sFe.spks[(0 : Fin 8)].fetches = some ({ mpa := 292057776128, kind := CulmKind.node 1, cls := 1 } : CulmFetch)
      ∧ (fetchReady sFe ({ mpa := 292057776128, kind := CulmKind.node 1, cls := 1 } : CulmFetch) = false ∨ targetBusy sFe 292057776128 =
      true)) ∧
    (halted sFp = false ∧ noInjection sFp = true ∧ parityAt Parity.good CtlStage.channel ≠ ParityKind.fatal ∧ List.find? (fun x => decide
      (x.mpa = 292057776128)) sFp.spks[(0 : Fin 8)].fetches = some ({ mpa := 292057776128, kind := CulmKind.pkt, cls := 1 } : CulmFetch) ∧
      fetchReady sFp ({ mpa := 292057776128, kind := CulmKind.pkt, cls := 1 } : CulmFetch) = true ∧ targetBusy sFp 292057776128 = false ∧
      (fetchOps ({ mpa := 292057776128, kind := CulmKind.pkt, cls := 1 } : CulmFetch).kind 292057776128 (1 : Image)
      { sFp with spks := sFp.spks.set (↑(0 : Fin 8)) ({ sFp.spks[(0 : Fin 8)] with fetches := List.filter (fun x => decide (x.mpa ≠ 292057776128)) sFp.spks[(0 : Fin 8)].fetches }) (by decide) }).1
      = fo.1) :=
  ⟨⟨by decide +kernel, by unfold keyFree; decide +kernel⟩, ⟨by decide +kernel, by unfold keyFree; decide +kernel⟩, ⟨by decide +kernel,
    by unfold keyFree; decide +kernel⟩, by decide +kernel, ⟨by decide +kernel, by unfold keyFree; decide +kernel⟩, by decide +kernel,
    by decide +kernel, by decide +kernel⟩

end OnHomes

/-! ### Key slots, key messages and DOE (chapters 2, 5) -/

namespace OnKeys

def vpg (n : Nat) : Word := 1 + BitVec.ofNat 64 (n * 4096)
def hd (hs : List Nat) : State := withSpk (fun k => { k with holds := hs }) sr
def hdE : State := regSetField (offSpkHold 0) 0 12 200 (withSpk (fun k => { k with sf := [(16 * sfSet (plainSector 0x40), { freshEntry (plainSector 0x40) 6 0 0 0 with st := #v[.s, .i, .i, .i], vector := 1, holdEnd := 100 })] }) sr)
def mq : Msg := ⟨{ rawReq 9 (.host 0 0 0 5) 0 .wr 64 7 0 false with dpa := 64, region := 6, key := 0xA6, cls := 1 }, 0x40, none, 0⟩
def sRt : State := withPort (fun o => { o with retries := [(55, mq)] }) sr
def kreg (s : State) : State := regSet offSlotPolicy 5 (regSet offSlotMask 0x80000 s)
def ld0 : KeySlot := ⟨77, 8, 3, 0x80000, .loaded⟩
def sk (slots : KMap KeySlot) (f : Crypt → Crypt) : State := kreg { sr with crypt := f { sr.crypt with slots := slots, keyIn := #v[1, 2, 3, 4] } }
def case1 : State := (sk [(0xA7, ld0)] fun c => { c with copies := [(0xA7, ⟨true, 1, 1⟩), (4096 + 0xA7, ⟨true, 1, 1⟩)] })
def case2 : State := (sk [(0xA7, {ld0 with state := .retiring})] id)
def case3 : State := (sk [(0xA7, {ld0 with state := .retiring})] id)
def skz (s : State) : State := { s with crypt := { s.crypt with keyIn := Vector.replicate 4 0 } }
def skb : State := sk [(0xA7, {ld0 with state := .retiring})] fun c => { c with busy := true, openSlot := 0xA7, markers := 0xF }
def case4 : State := { skb with crypt := { skb.crypt with timedOut := true } }
def kmsg (op cls : Nat) (slot : Nat) (key0 : List Byte) (mask : Nat) : List Byte := let key := key0 ++ List.replicate (32 - key0.length) 0;  [BitVec.ofNat 8 op, 0, BitVec.ofNat 8 slot, BitVec.ofNat 8 (slot / 256), BitVec.ofNat 8 cls, 0,0,0] ++ (List.range 8).map (fun i => BitVec.ofNat 8 (mask >>> (8 * i))) ++ key
def kp (sec : Bool) (pay : List Byte) : KeyMsg := ⟨1, 0, sec, pay⟩
def sup (slots : KMap KeySlot) : State := updPort 1 (fun o => { o with state := .enabled, links := o.links.set 0 linkUp }) (sk slots id)
def kA : KeyMsg := kp false (kmsg 5 0 0xA7 [] 0)
def kB : KeyMsg := kp true [1,2,3]
def K (op cls slot : Nat) (key : List Byte) (mask : Nat) : KeyMsg := kp true (kmsg op cls slot key mask)
def rqS (v c : Nat) : SpdmReq := ⟨v, c, 0, 0, 0, 0⟩
def sDo : State := portIn .enabled sr
def sDo2 : State := updLink 0 0 (fun l => { l with sessions := 2 }) sDo
def sDoG : State := { sDo with fw := { sDo.fw with germUp := false } }

theorem witness_PageHoldsAndRetries :
    (flag (vpg 0) 0 = true ∧ (hd [9437184]).spks[(0 : Fin 8)].recalling = none ∧ home (field (vpg 0) 12 32 <<< 12) = ↑(0 : Fin 8) ∧ (hd
      [9437184]).spks[(0 : Fin 8)].holds.length < 16 ∧ field (vpg 0) 12 32 <<< 12 ∉ (hd [9437184]).spks[(0 : Fin 8)].holds) ∧
    (flag (vpg 0) 0 = true ∧ (hd [0]).spks[(0 : Fin 8)].recalling = none ∧ ¬(home (field (vpg 0) 12 32 <<< 12) = ↑(0 : Fin 8) ∧ (hd
      [0]).spks[(0 : Fin 8)].holds.length < 16 ∧ field (vpg 0) 12 32 <<< 12 ∉ (hd [0]).spks[(0 : Fin 8)].holds)) ∧
    (flag (vpg 1) 0 = true ∧ (hd [0]).spks[(0 : Fin 8)].recalling = none ∧ ¬(home (field (vpg 1) 12 32 <<< 12) = ↑(0 : Fin 8) ∧ (hd
      [0]).spks[(0 : Fin 8)].holds.length < 16 ∧ field (vpg 1) 12 32 <<< 12 ∉ (hd [0]).spks[(0 : Fin 8)].holds)) ∧
    (flag (vpg 0) 0 = true ∧ (hd (List.map (fun x => x + 1) (List.range 16))).spks[(0 : Fin 8)].recalling = none ∧ ¬(home (field (vpg 0) 12
      32 <<< 12) = ↑(0 : Fin 8) ∧ (hd (List.map (fun x => x + 1) (List.range 16))).spks[(0 : Fin 8)].holds.length < 16 ∧ field (vpg 0) 12 32
      <<< 12 ∉ (hd (List.map (fun x => x + 1) (List.range 16))).spks[(0 : Fin 8)].holds)) ∧
    (flag (vpg 0) 0 = true ∧ (hd [0]).spks[(0 : Fin 8)].recalling = none ∧ portsQuiet (hd [0]) = true ∧ field (vpg 0) 12 32 <<< 12 ∈ (hd
      [0]).spks[(0 : Fin 8)].holds ∧ homeWaits (hd [0]) (0 : Fin 8) = true ∧ (∀ u ∈ (hd [0]).spks[(0 : Fin 8)].txns, u.state =
      TxState.parked → holdPage u.msg ≠ field (vpg 0) 12 32 <<< 12)) ∧
    (flag (vpg 0) 0 = true ∧ (hd [4]).spks[(0 : Fin 8)].recalling = none ∧ portsQuiet (hd [4]) = true ∧ field (vpg 0) 12 32 <<< 12 ∉ (hd
      [4]).spks[(0 : Fin 8)].holds) ∧
    (flag (vpg 0) 0 = true ∧ (hd [4]).spks[(0 : Fin 8)].recalling = none ∧ home (field (vpg 0) 12 32 <<< 12) = ↑(0 : Fin 8) ∧ homeWaits (hd
      [4]) (0 : Fin 8) = true ∧ (∀ n ∈ (hd [4]).spks[(0 : Fin 8)].snps, n.owner ≠ BiOwner.recall (field (vpg 0) 12 32 <<< 12))) ∧
    (flag (vpg 0) 0 = true ∧ (hd [0]).spks[(0 : Fin 8)].recalling = none ∧ home (field (vpg 0) 12 32 <<< 12) = ↑(0 : Fin 8) ∧ homeWaits (hd
      [0]) (0 : Fin 8) = true ∧ (∀ n ∈ (hd [0]).spks[(0 : Fin 8)].snps, n.owner ≠ BiOwner.recall (field (vpg 0) 12 32 <<< 12))) ∧
    (flag (vpg 0) 0 = true ∧ hdE.spks[(0 : Fin 8)].recalling = none ∧ home (field (vpg 0) 12 32 <<< 12) = ↑(0 : Fin 8) ∧ homeWaits hdE (0 :
      Fin 8) = true ∧ (∀ n ∈ hdE.spks[(0 : Fin 8)].snps, n.owner ≠ BiOwner.recall (field (vpg 0) 12 32 <<< 12)) ∧ recallEntries hdE (0 : Fin
      8) (BiOwner.recall (field (vpg 0) 12 32 <<< 12)) ≠ [] ∧ (∀ e ∈ recallEntries hdE (0 : Fin 8) (BiOwner.recall (field (vpg 0) 12 32 <<<
      12)), inHold hdE (↑(0 : Fin 8)) e.2 = true)) ∧
    (flag (vpg 1) 0 = true ∧ (hd [4]).spks[(0 : Fin 8)].recalling = none ∧ home (field (vpg 1) 12 32 <<< 12) ≠ ↑(0 : Fin 8)) ∧
    (List.find? (fun x => decide (x.2.req.rid = 9)) sRt.ports[(0 : Fin 4)].retries = some (55, mq)) :=
  ⟨by decide +kernel, by decide +kernel, by decide +kernel, by decide +kernel, by decide +kernel, by decide +kernel, by decide +kernel,
    by decide +kernel, by decide +kernel, by decide +kernel, by decide +kernel⟩

theorem witness_KeySlotCommands_1 :
    ((sk [(530, ld0)] id).crypt.busy = false ∧ (sk [(530, ld0)] id).fw.germUp = true ∧ tablesOrdered (sk [(530, ld0)] id) = true ∧ (slotAt
      (sk [(530, ld0)] id) ↑(167 : Fin 4096)).state = SlotState.empty ∧ (keyRec (sk [(530, ld0)] id) ↑(167 : Fin 4096)).host = false ∧
      subMask (regGet (sk [(530, ld0)] id) offSlotMask) (keyRec (sk [(530, ld0)] id) ↑(167 : Fin 4096)).allowed = true) ∧
    ((sk [(167, ld0)] id).crypt.busy = false ∧ (sk [(167, ld0)] id).fw.germUp = true ∧ tablesOrdered (sk [(167, ld0)] id) = true ∧ (slotAt
      (sk [(167, ld0)] id) ↑(530 : Fin 4096)).state = SlotState.empty ∧ (keyRec (sk [(167, ld0)] id) ↑(530 : Fin 4096)).host = true ∧
      subMask (regGet (sk [(167, ld0)] id) offSlotMask) (keyRec (sk [(167, ld0)] id) ↑(530 : Fin 4096)).allowed = true ∧ keyInValue (sk
      [(167, ld0)] id) ≠ (0 : BitVec 256)) ∧
    ((sk [(167, ld0)] id).crypt.busy = false ∧ (sk [(167, ld0)] id).fw.germUp = true ∧ tablesOrdered (sk [(167, ld0)] id) = true ∧ (slotAt
      (sk [(167, ld0)] id) ↑(167 : Fin 4096)).state = SlotState.loaded ∧ subMask (regGet (sk [(167, ld0)] id) offSlotMask) (keyRec (sk
      [(167, ld0)] id) ↑(167 : Fin 4096)).allowed = true) ∧
    (case1.crypt.busy = false ∧ case1.fw.germUp = true ∧ tablesOrdered case1 = true ∧ (slotAt case1 ↑(167 : Fin 4096)).state =
      SlotState.loaded ∧ ksorted case1.crypt.copies = true) ∧
    ((sk [(167, ld0)] id).crypt.busy = false ∧ (sk [(167, ld0)] id).fw.germUp = true ∧ tablesOrdered (sk [(167, ld0)] id) = true ∧ (slotAt
      (sk [(167, ld0)] id) ↑(167 : Fin 4096)).cls < 8) ∧
    (case2.crypt.busy = false ∧ case2.fw.germUp = true ∧ tablesOrdered case2 = true ∧ (slotAt case2 ↑(167 : Fin 4096)).cls < 8) ∧
    (case3.crypt.busy = false ∧ case3.fw.germUp = true ∧ tablesOrdered case3 = true ∧ (slotAt case3 ↑(168 : Fin 4096)).cls < 8) ∧
    ((sk [(167, ld0)] id).crypt.busy = false ∧ (sk [(167, ld0)] id).fw.germUp = true ∧ tablesOrdered (sk [(167, ld0)] id) = true ∧ (1 = if
      (slotAt (sk [(167, ld0)] id) ↑(167 : Fin 4096)).state ≠ SlotState.empty then 1 else if (keyRec (sk [(167, ld0)] id) ↑(167 : Fin
      4096)).host = true then 2 else if subMask (regGet (sk [(167, ld0)] id) offSlotMask) (keyRec (sk [(167, ld0)] id) ↑(167 : Fin
      4096)).allowed = false then 3 else 0) ∧ 1 ≠ 0) ∧
    ((sk [(167, ld0)] id).crypt.busy = false ∧ (sk [(167, ld0)] id).fw.germUp = true ∧ tablesOrdered (sk [(167, ld0)] id) = true ∧ (2 = if
      (slotAt (sk [(167, ld0)] id) ↑(530 : Fin 4096)).state ≠ SlotState.empty then 1 else if (keyRec (sk [(167, ld0)] id) ↑(530 : Fin
      4096)).host = true then 2 else if subMask (regGet (sk [(167, ld0)] id) offSlotMask) (keyRec (sk [(167, ld0)] id) ↑(530 : Fin
      4096)).allowed = false then 3 else 0) ∧ 2 ≠ 0) ∧
    ((regSet offSlotMask (524289 : Word) (sk [(167, ld0)] id)).crypt.busy = false ∧ (regSet offSlotMask (524289 : Word) (sk [(167, ld0)]
      id)).fw.germUp = true ∧ tablesOrdered (regSet offSlotMask (524289 : Word) (sk [(167, ld0)] id)) = true ∧ (3 = if (slotAt (regSet
      offSlotMask (524289 : Word) (sk [(167, ld0)] id)) ↑(530 : Fin 4096)).state ≠ SlotState.empty then 1 else if (keyRec (regSet
      offSlotMask (524289 : Word) (sk [(167, ld0)] id)) ↑(530 : Fin 4096)).host = false then 2 else if subMask (regGet (regSet offSlotMask
      (524289 : Word) (sk [(167, ld0)] id)) offSlotMask) (keyRec (regSet offSlotMask (524289 : Word) (sk [(167, ld0)] id)) ↑(530 : Fin
      4096)).allowed = false then 3 else if keyInValue (regSet offSlotMask (524289 : Word) (sk [(167, ld0)] id)) = (0 : BitVec 256) then 4
      else 0) ∧ 3 ≠ 0) ∧
    ((skz (sk [(167, ld0)] id)).crypt.busy = false ∧ (skz (sk [(167, ld0)] id)).fw.germUp = true ∧ tablesOrdered (skz (sk [(167, ld0)] id))
      = true ∧ (4 = if (slotAt (skz (sk [(167, ld0)] id)) ↑(530 : Fin 4096)).state ≠ SlotState.empty then 1 else if (keyRec (skz (sk [(167,
      ld0)] id)) ↑(530 : Fin 4096)).host = false then 2 else if subMask (regGet (skz (sk [(167, ld0)] id)) offSlotMask) (keyRec (skz (sk
      [(167, ld0)] id)) ↑(530 : Fin 4096)).allowed = false then 3 else if keyInValue (skz (sk [(167, ld0)] id)) = (0 : BitVec 256) then 4
      else 0) ∧ 4 ≠ 0) ∧
    ((sk [(167, ld0)] id).crypt.busy = false ∧ (sk [(167, ld0)] id).fw.germUp = true ∧ tablesOrdered (sk [(167, ld0)] id) = true ∧ (1 = if
      (slotAt (sk [(167, ld0)] id) ↑(530 : Fin 4096)).state ≠ SlotState.loaded then 1 else if subMask (regGet (sk [(167, ld0)] id)
      offSlotMask) (keyRec (sk [(167, ld0)] id) ↑(530 : Fin 4096)).allowed = false then 3 else 0) ∧ 1 ≠ 0) :=
  ⟨by decide +kernel, by decide +kernel, by decide +kernel, by decide +kernel, by decide +kernel, by decide +kernel, by decide +kernel,
    by decide +kernel, by decide +kernel, by decide +kernel, by decide +kernel, by decide +kernel⟩

theorem witness_KeySlotCommands_2 :
    ((sk [(167, ld0)] id).crypt.busy = false ∧ (sk [(167, ld0)] id).fw.germUp = true ∧ tablesOrdered (sk [(167, ld0)] id) = true ∧ (1 = if
      (slotAt (sk [(167, ld0)] id) ↑(530 : Fin 4096)).state ≠ SlotState.loaded then 1 else 0) ∧ 1 ≠ 0) ∧
    ((sk [(167, ld0)] id).crypt.busy = false ∧ (sk [(167, ld0)] id).fw.germUp = true ∧ tablesOrdered (sk [(167, ld0)] id) = true ∧ 5 ≠ 0) ∧
    (skb.crypt.busy = true ∧ (↑(0 : Fin 16) = 0 ∨ 5 < ↑(0 : Fin 16))) ∧
    (skb.crypt.busy = true ∧ (↑(6 : Fin 16) = 0 ∨ 5 < ↑(6 : Fin 16))) ∧
    (skb.crypt.busy = true ∧ skb.crypt.markers = (15 : BitVec 4) ∧ portsQuiet skb = true ∧ noInjection skb = true ∧ (skb.crypt.waits = [] ∧
      skb.fw.erasing = [] ∨ skb.fw.germUp = false) ∧ ksorted skb.crypt.slots = true) ∧
    (skb.crypt.busy = true ∧ skb.crypt.timedOut = false) ∧
    (case4.crypt.busy = true ∧ case4.crypt.timedOut = true) :=
  ⟨by decide +kernel, by decide +kernel, by decide +kernel, by decide +kernel, by decide +kernel, by decide +kernel, by decide +kernel⟩

theorem witness_KeyMessages :
    ((sup []).ports[kA.port].links[kA.link].up = true ∧ (sup []).fw.germUp = true ∧ (sup []).crypt.busy = false ∧ (sup []).crypt.waits = []
      ∧ (sup []).crypt.msgOpen = false ∧ tablesOrdered (sup []) = true ∧ kA.secured = false) ∧
    ((sup []).ports[kB.port].links[kB.link].up = true ∧ (sup []).fw.germUp = true ∧ (sup []).crypt.busy = false ∧ (sup []).crypt.waits = []
      ∧ (sup []).crypt.msgOpen = false ∧ tablesOrdered (sup []) = true ∧ kB.secured = true ∧ msgWellFormed kB = false) ∧
    ((sup []).ports[(K 5 0 166 [] 0).port].links[(K 5 0 166 [] 0).link].up = true ∧ (sup []).fw.germUp = true ∧ (sup []).crypt.busy = false
      ∧ (sup []).crypt.waits = [] ∧ (sup []).crypt.msgOpen = false ∧ tablesOrdered (sup []) = true ∧ (K 5 0 166 [] 0).secured = true ∧
      msgWellFormed (K 5 0 166 [] 0) = true ∧ (keyRec (sup []) (msgSlot (K 5 0 166 [] 0))).mgr.testBit ↑(K 5 0 166 [] 0).port = false) ∧
    ((sup []).ports[(K 1 2 167 [(9 : Byte)] 524288).port].links[(K 1 2 167 [(9 : Byte)] 524288).link].up = true ∧ (sup []).fw.germUp = true
      ∧ (sup []).crypt.busy = false ∧ (sup []).crypt.waits = [] ∧ (sup []).crypt.msgOpen = false ∧ tablesOrdered (sup []) = true ∧ (K 1 2
      167 [(9 : Byte)] 524288).secured = true ∧ msgWellFormed (K 1 2 167 [(9 : Byte)] 524288) = true ∧ (keyRec (sup []) (msgSlot (K 1 2 167
      [(9 : Byte)] 524288))).mgr.testBit ↑(K 1 2 167 [(9 : Byte)] 524288).port = true ∧ (msgOp (K 1 2 167 [(9 : Byte)] 524288) = 1 ∧ (keyRec
      (sup []) (msgSlot (K 1 2 167 [(9 : Byte)] 524288))).host = false ∨ msgOp (K 1 2 167 [(9 : Byte)] 524288) = 3 ∧ (keyRec (sup [])
      (msgSlot (K 1 2 167 [(9 : Byte)] 524288))).host = true)) ∧
    ((sup []).ports[(K 3 2 530 [] 524288).port].links[(K 3 2 530 [] 524288).link].up = true ∧ (sup []).fw.germUp = true ∧ (sup
      []).crypt.busy = false ∧ (sup []).crypt.waits = [] ∧ (sup []).crypt.msgOpen = false ∧ tablesOrdered (sup []) = true ∧ (K 3 2 530 []
      524288).secured = true ∧ msgWellFormed (K 3 2 530 [] 524288) = true ∧ (keyRec (sup []) (msgSlot (K 3 2 530 [] 524288))).mgr.testBit
      ↑(K 3 2 530 [] 524288).port = true ∧ (msgOp (K 3 2 530 [] 524288) = 1 ∧ (keyRec (sup []) (msgSlot (K 3 2 530 [] 524288))).host = false
      ∨ msgOp (K 3 2 530 [] 524288) = 3 ∧ (keyRec (sup []) (msgSlot (K 3 2 530 [] 524288))).host = true)) ∧
    ((sup []).ports[(K 1 2 530 [(9 : Byte)] 524289).port].links[(K 1 2 530 [(9 : Byte)] 524289).link].up = true ∧ (sup []).fw.germUp = true
      ∧ (sup []).crypt.busy = false ∧ (sup []).crypt.waits = [] ∧ (sup []).crypt.msgOpen = false ∧ tablesOrdered (sup []) = true ∧ (K 1 2
      530 [(9 : Byte)] 524289).secured = true ∧ msgWellFormed (K 1 2 530 [(9 : Byte)] 524289) = true ∧ (keyRec (sup []) (msgSlot (K 1 2 530
      [(9 : Byte)] 524289))).mgr.testBit ↑(K 1 2 530 [(9 : Byte)] 524289).port = true ∧ msgOp (K 1 2 530 [(9 : Byte)] 524289) = 1 ∧ (keyRec
      (sup []) (msgSlot (K 1 2 530 [(9 : Byte)] 524289))).host = true ∧ subMask (msgMask (K 1 2 530 [(9 : Byte)] 524289)) (keyRec (sup [])
      (msgSlot (K 1 2 530 [(9 : Byte)] 524289))).allowed = false) ∧
    ((sup []).ports[(K 1 2 530 [(9 : Byte)] 524288).port].links[(K 1 2 530 [(9 : Byte)] 524288).link].up = true ∧ (sup []).fw.germUp = true
      ∧ (sup []).crypt.busy = false ∧ (sup []).crypt.waits = [] ∧ (sup []).crypt.msgOpen = false ∧ tablesOrdered (sup []) = true ∧ (K 1 2
      530 [(9 : Byte)] 524288).secured = true ∧ msgWellFormed (K 1 2 530 [(9 : Byte)] 524288) = true ∧ (keyRec (sup []) (msgSlot (K 1 2 530
      [(9 : Byte)] 524288))).mgr.testBit ↑(K 1 2 530 [(9 : Byte)] 524288).port = true ∧ msgOp (K 1 2 530 [(9 : Byte)] 524288) = 1 ∧ (keyRec
      (sup []) (msgSlot (K 1 2 530 [(9 : Byte)] 524288))).host = true ∧ subMask (msgMask (K 1 2 530 [(9 : Byte)] 524288)) (keyRec (sup [])
      (msgSlot (K 1 2 530 [(9 : Byte)] 524288))).allowed = true ∧ ((msgKey (K 1 2 530 [(9 : Byte)] 524288)).all fun x => decide (x = (0 :
      Byte))) = false ∧ (slotAt (sup []) (msgSlot (K 1 2 530 [(9 : Byte)] 524288))).state = SlotState.empty) ∧
    ((sup [(167, ld0)]).ports[(K 2 0 167 [] 0).port].links[(K 2 0 167 [] 0).link].up = true ∧ (sup [(167, ld0)]).fw.germUp = true ∧ (sup
      [(167, ld0)]).crypt.busy = false ∧ (sup [(167, ld0)]).crypt.waits = [] ∧ (sup [(167, ld0)]).crypt.msgOpen = false ∧ tablesOrdered (sup
      [(167, ld0)]) = true ∧ (K 2 0 167 [] 0).secured = true ∧ msgWellFormed (K 2 0 167 [] 0) = true ∧ (keyRec (sup [(167, ld0)]) (msgSlot
      (K 2 0 167 [] 0))).mgr.testBit ↑(K 2 0 167 [] 0).port = true ∧ msgOp (K 2 0 167 [] 0) = 2 ∧ (slotAt (sup [(167, ld0)]) (msgSlot (K 2 0
      167 [] 0))).state = SlotState.loaded) ∧
    ((sup [(167, ld0)]).ports[(K 3 2 167 [] 524288).port].links[(K 3 2 167 [] 524288).link].up = true ∧ (sup [(167, ld0)]).fw.germUp = true
      ∧ (sup [(167, ld0)]).crypt.busy = false ∧ (sup [(167, ld0)]).crypt.waits = [] ∧ (sup [(167, ld0)]).crypt.msgOpen = false ∧
      tablesOrdered (sup [(167, ld0)]) = true ∧ (K 3 2 167 [] 524288).secured = true ∧ msgWellFormed (K 3 2 167 [] 524288) = true ∧ (keyRec
      (sup [(167, ld0)]) (msgSlot (K 3 2 167 [] 524288))).mgr.testBit ↑(K 3 2 167 [] 524288).port = true ∧ msgOp (K 3 2 167 [] 524288) = 3 ∧
      (keyRec (sup [(167, ld0)]) (msgSlot (K 3 2 167 [] 524288))).host = false ∧ subMask (msgMask (K 3 2 167 [] 524288)) (keyRec (sup [(167,
      ld0)]) (msgSlot (K 3 2 167 [] 524288))).allowed = true ∧ (slotAt (sup [(167, ld0)]) (msgSlot (K 3 2 167 [] 524288))).state =
      SlotState.loaded) ∧
    ((sup [(167, ld0)]).ports[(K 4 2 167 [] 524288).port].links[(K 4 2 167 [] 524288).link].up = true ∧ (sup [(167, ld0)]).fw.germUp = true
      ∧ (sup [(167, ld0)]).crypt.busy = false ∧ (sup [(167, ld0)]).crypt.waits = [] ∧ (sup [(167, ld0)]).crypt.msgOpen = false ∧
      tablesOrdered (sup [(167, ld0)]) = true ∧ (K 4 2 167 [] 524288).secured = true ∧ msgWellFormed (K 4 2 167 [] 524288) = true ∧ (keyRec
      (sup [(167, ld0)]) (msgSlot (K 4 2 167 [] 524288))).mgr.testBit ↑(K 4 2 167 [] 524288).port = true ∧ msgOp (K 4 2 167 [] 524288) = 4 ∧
      subMask (msgMask (K 4 2 167 [] 524288)) (keyRec (sup [(167, ld0)]) (msgSlot (K 4 2 167 [] 524288))).allowed = true ∧ (slotAt (sup
      [(167, ld0)]) (msgSlot (K 4 2 167 [] 524288))).state = SlotState.loaded) ∧
    ((sup [(167, ld0)]).ports[(K 5 0 167 [] 0).port].links[(K 5 0 167 [] 0).link].up = true ∧ (sup [(167, ld0)]).fw.germUp = true ∧ (sup
      [(167, ld0)]).crypt.busy = false ∧ (sup [(167, ld0)]).crypt.waits = [] ∧ (sup [(167, ld0)]).crypt.msgOpen = false ∧ tablesOrdered (sup
      [(167, ld0)]) = true ∧ (K 5 0 167 [] 0).secured = true ∧ msgWellFormed (K 5 0 167 [] 0) = true ∧ (keyRec (sup [(167, ld0)]) (msgSlot
      (K 5 0 167 [] 0))).mgr.testBit ↑(K 5 0 167 [] 0).port = true ∧ msgOp (K 5 0 167 [] 0) = 5) :=
  ⟨by decide +kernel, by decide +kernel, by decide +kernel, by decide +kernel, by decide +kernel, by decide +kernel, by decide +kernel,
    by decide +kernel, by decide +kernel, by decide +kernel, by decide +kernel⟩

theorem witness_DoeAnswersOverLink :
    (sDo.ports[(0 : Fin 4)].links[(0 : Fin 4)].up = true ∧ sDo.fw.germUp = true ∧ (rqS 19 228).version = 19 ∧ (rqS 19 228).code = 228 ∧
      sDo.ports[(0 : Fin 4)].links[(0 : Fin 4)].sessions < 2 ∧ sessionCount sDo < 32) ∧
    (sDo2.ports[(0 : Fin 4)].links[(0 : Fin 4)].up = true ∧ sDo2.fw.germUp = true ∧ (rqS 19 228).version = 19 ∧ (rqS 19 228).code = 228 ∧ (2
      ≤ sDo2.ports[(0 : Fin 4)].links[(0 : Fin 4)].sessions ∨ 32 ≤ sessionCount sDo2)) ∧
    (sDo.ports[(0 : Fin 4)].links[(0 : Fin 4)].up = true ∧ sDo.fw.germUp = true ∧ (rqS 18 228).code ≠ 132 ∧ (rqS 18 228).version ≠ 19) ∧
    (sDo.ports[(0 : Fin 4)].links[(0 : Fin 4)].up = true ∧ sDo.fw.germUp = true ∧ (rqS 19 237).version = 19 ∧ (rqS 19 237).code ≠ 132 ∧ (rqS
      19 237).code ∉ spdmOpenCodes ++ spdmSessionCodes) ∧
    (sDoG.ports[(0 : Fin 4)].links[(0 : Fin 4)].up = true ∧ sDoG.fw.germUp = false) ∧
    (sr.ports[(0 : Fin 4)].links[(0 : Fin 4)].up = false) :=
  ⟨by decide +kernel, by decide +kernel, by decide +kernel, by decide +kernel, by decide +kernel, by decide +kernel⟩

end OnKeys

/-! ### Pages, moves and the gate (chapters 7, 17) -/

namespace OnMoves

def mv0 (st : MoveStep) (packed : Bool) : Move := ⟨5, 0x13, 0x8000000000, false, 0x8000, packed, 0x4C40000000, st, 2, some 3, false⟩
def jb (pois : List (List Bool)) : Job := ⟨8, .page 5, 0x4C40000000, 0xA7, [[], [], [], List.replicate 1024 0], pois, []⟩
def sJ (j : Job) (m : Move) : State := withSpk (fun k => { k with jobs := [j], stock := [⟨0x900, 0xA7⟩, ⟨0x901, 0⟩] }) { sr with tier := { sr.tier with moves := [m] } }
def sj2 : State := sJ (jb [[], [false]]) (mv0 .job true)
def os2 : List (List Byte) := [[], [], [], zeroBlock false]
def tg : Option (List ℕ) × State := takeGranules 1 0 0xA7 (moveStrong sj2 (mv0 .job true)) sj2
def fw0 (inv : Option Nat) : Forward := ⟨0x4C40000000, 0, some 0x8000, true, 0x13, 0x8000000000, 0xA7, [], inv⟩
def sF (f : Forward) (o : Bool) (c : Nat) : State := withSpk (fun k => { k with forwards := [f] }) { sr with gate := { sr.gate with invOpen := o, invCount := c } }
def sSt : State := withSpk (fun k => { k with stock := [⟨3, 4⟩] }) { sr with tier := { sr.tier with granFree := [⟨0, 1⟩, ⟨0x10, 1⟩, ⟨1, 0xA7⟩], retired := [], pools := Vector.replicate 2 ⟨[(0, 64)], .normal⟩ } }
def poolS (st : PoolState) (n : Nat) : State := regSet (offTierWm 0) (place 40 1 ||| place 16 1) { sr with tier := { sr.tier with pools := #v[⟨[(0, n)], st⟩, ⟨[], .normal⟩] } }
def sM (m : Move) (o : Bool) : State := { sr with tier := { sr.tier with moves := [m] }, gate := { sr.gate with invOpen := o, invCount := 2 } }
def sG (f : State → State) : State := f { sr with queue := { sr.queue with gateTail := 255, gateHead := 255 } }
def case1 : State := { sG id with domainDown := true }
def case2 : State := (withBring (fun b => { b with reloadBusy := true }) (sG id))
def sBusyQ : State := { sG id with queue := { (sG id).queue with verdicts := [(255, ⟨1, 0, 0, 4, 0, true⟩)] } }
def fly (s : State) : State := withPort (fun o => { o with reqs := [⟨rawReq 9 (.host 0 0 0 5) 0 .wr 64 0 0 false, .miss, false, false, false, false⟩] }) (portIn .enabled s)

theorem witness_PageJobsStocksAndPools :
    (portsQuiet (sJ (jb [[], [false, true]]) (mv0 MoveStep.job true)) = true ∧ halted (sJ (jb [[], [false, true]]) (mv0 MoveStep.job true))
      = false ∧ (sJ (jb [[], [false, true]]) (mv0 MoveStep.job true)).fw.germUp = true ∧ List.find? (fun x => decide (x.jid = 8)) (sJ (jb
      [[], [false, true]]) (mv0 MoveStep.job true)).spks[(0 : Fin 8)].jobs = some (jb [[], [false, true]]) ∧ (jb [[], [false, true]]).jid =
      8 ∧ (jb [[], [false, true]]).kind = JobKind.page 5 ∧ moveOf (sJ (jb [[], [false, true]]) (mv0 MoveStep.job true)) 5 = some (mv0
      MoveStep.job true) ∧ (mv0 MoveStep.job true).mid = 5 ∧ (jb [[], [false, true]]).output = [] ∧ ((jb [[], [false, true]]).poisoned.any
      fun b => b.any id) = true ∧ (sJ (jb [[], [false, true]]) (mv0 MoveStep.job true)).spks[(0 : Fin 8)].promo = []) ∧
    (portsQuiet sj2 = true ∧ halted sj2 = false ∧ sj2.fw.germUp = true ∧ List.find? (fun x => decide (x.jid = 8)) sj2.spks[(0 : Fin 8)].jobs
      = some (jb [[], [false]]) ∧ (jb [[], [false]]).jid = 8 ∧ (jb [[], [false]]).kind = JobKind.page 5 ∧ moveOf sj2 5 = some (mv0
      MoveStep.job true) ∧ (mv0 MoveStep.job true).mid = 5 ∧ (jb [[], [false]]).output = [] ∧ ((jb [[], [false]]).poisoned.any fun b =>
      b.any id) = false ∧ List.map (fun b => if ((jb [[], [false]]).plain.getD b []).isEmpty = true then some [] else compressBlock false
      ([].getD b []) ((jb [[], [false]]).plain.getD b [])) (List.range 4) = List.map some os2 ∧ (os2.all fun o => decide (o.length ≤ 768)) =
      true ∧ (takeGranules (List.map (fun o => if o.isEmpty = true then 0 else granulesOf o.length) os2).sum (0 : Fin 8) (jb [[],
      [false]]).key (moveStrong sj2 (mv0 MoveStep.job true)) sj2).1 = some (tg.1.getD [])) ∧
    (portsQuiet (sF (fw0 (some 4)) true 5) = true ∧ halted (sF (fw0 (some 4)) true 5) = false ∧ (sF (fw0 (some 4)) true 5).fw.germUp = true
      ∧ List.find? (fun x => decide (x.desc = 327491256320) && x.done) (sF (fw0 (some 4)) true 5).spks[(0 : Fin 8)].forwards = some (fw0
      (some 4)) ∧ (fw0 (some 4)).desc = 327491256320 ∧ (fw0 (some 4)).inv = some 4 ∧ invAcked (sF (fw0 (some 4)) true 5) 4 = true) ∧
    (portsQuiet (sF (fw0 (some 5)) true 5) = true ∧ halted (sF (fw0 (some 5)) true 5) = false ∧ (sF (fw0 (some 5)) true 5).fw.germUp = true
      ∧ List.find? (fun x => decide (x.desc = 327491256320) && x.done) (sF (fw0 (some 5)) true 5).spks[(0 : Fin 8)].forwards = some (fw0
      (some 5)) ∧ (fw0 (some 5)).desc = 327491256320 ∧ (fw0 (some 5)).inv = some 5 ∧ invAcked (sF (fw0 (some 5)) true 5) 5 = false) ∧
    (portsQuiet (sF (fw0 none) true 5) = true ∧ halted (sF (fw0 none) true 5) = false ∧ (sF (fw0 none) true 5).fw.germUp = true ∧ List.find?
      (fun x => decide (x.desc = 327491256320) && x.done) (sF (fw0 none) true 5).spks[(0 : Fin 8)].forwards = some (fw0 none) ∧ (fw0
      none).desc = 327491256320 ∧ (fw0 none).inv = none ∧ (fw0 none).page = some 32768 ∧ (sF (fw0 none) true 5).gate.invOpen = true) ∧
    (portsQuiet (sF (fw0 none) false 5) = true ∧ halted (sF (fw0 none) false 5) = false ∧ (sF (fw0 none) false 5).fw.germUp = true ∧
      List.find? (fun x => decide (x.desc = 327491256320) && x.done) (sF (fw0 none) false 5).spks[(0 : Fin 8)].forwards = some (fw0 none) ∧
      (fw0 none).desc = 327491256320 ∧ (fw0 none).inv = none ∧ (fw0 none).page = some 32768 ∧ (sF (fw0 none) false 5).gate.invOpen = false ∧
      (∀ m ∈ (sF (fw0 none) false 5).tier.moves, m.dst ≠ 327491256320 ∧ m.src ≠ 327491256320) ∧ regionAt (sF (fw0 none) false 5) (fw0
      none).ldTag (fw0 none).dpa = some regB) ∧
    (portsQuiet sSt = true ∧ sSt.domainDown = false ∧ sSt.fw.germUp = true ∧ (∀ j ∈ sSt.spks[(0 : Fin 8)].jobs, j.output = []) ∧ (∀ f ∈
      sSt.spks[(0 : Fin 8)].forwards, f.done = true) ∧ (∀ w ∈ sSt.gate.walks, w.waiting = false)) ∧
    (portsQuiet (poolS PoolState.normal 255) = true ∧ noRequests (poolS PoolState.normal 255) = true ∧ (∀ (p : Fin 4), (poolS
      PoolState.normal 255).ports[p].stalled = (0 : BitVec 4) ∧ (poolS PoolState.normal 255).ports[p].holdStalled = (0 : BitVec 4) ∧
      windowOver (poolS PoolState.normal 255) p = false)) ∧
    (portsQuiet (regSet (offTierWm 0) (place 40 2 ||| place 16 1) (poolS PoolState.normal 300)) = true ∧ noRequests (regSet (offTierWm 0)
      (place 40 2 ||| place 16 1) (poolS PoolState.normal 300)) = true ∧ (∀ (p : Fin 4), (regSet (offTierWm 0) (place 40 2 ||| place 16 1)
      (poolS PoolState.normal 300)).ports[p].stalled = (0 : BitVec 4) ∧ (regSet (offTierWm 0) (place 40 2 ||| place 16 1) (poolS
      PoolState.normal 300)).ports[p].holdStalled = (0 : BitVec 4) ∧ windowOver (regSet (offTierWm 0) (place 40 2 ||| place 16 1) (poolS
      PoolState.normal 300)) p = false)) ∧
    (portsQuiet (poolS PoolState.critical 287) = true ∧ noRequests (poolS PoolState.critical 287) = true ∧ (∀ (p : Fin 4), (poolS
      PoolState.critical 287).ports[p].stalled = (0 : BitVec 4) ∧ (poolS PoolState.critical 287).ports[p].holdStalled = (0 : BitVec 4) ∧
      windowOver (poolS PoolState.critical 287) p = false)) ∧
    (portsQuiet (poolS PoolState.critical 288) = true ∧ noRequests (poolS PoolState.critical 288) = true ∧ (∀ (p : Fin 4), (poolS
      PoolState.critical 288).ports[p].stalled = (0 : BitVec 4) ∧ (poolS PoolState.critical 288).ports[p].holdStalled = (0 : BitVec 4) ∧
      windowOver (poolS PoolState.critical 288) p = false)) ∧
    (portsQuiet (regSet (offTierWm 0) (place 40 2 ||| place 16 1) (poolS PoolState.low 576)) = true ∧ noRequests (regSet (offTierWm 0)
      (place 40 2 ||| place 16 1) (poolS PoolState.low 576)) = true ∧ (∀ (p : Fin 4), (regSet (offTierWm 0) (place 40 2 ||| place 16 1)
      (poolS PoolState.low 576)).ports[p].stalled = (0 : BitVec 4) ∧ (regSet (offTierWm 0) (place 40 2 ||| place 16 1) (poolS PoolState.low
      576)).ports[p].holdStalled = (0 : BitVec 4) ∧ windowOver (regSet (offTierWm 0) (place 40 2 ||| place 16 1) (poolS PoolState.low 576))
      p = false)) :=
  ⟨by decide +kernel, by decide +kernel, by decide +kernel, by decide +kernel, by decide +kernel, by decide +kernel, by decide +kernel,
    by decide +kernel, by decide +kernel, by decide +kernel, by decide +kernel, by decide +kernel⟩

theorem witness_MoveStepsInOrder :
    (moveOf (sM (mv0 MoveStep.inval false) true) (mv0 MoveStep.inval false).mid = some (mv0 MoveStep.inval false) ∧ portsQuiet (sM (mv0
      MoveStep.inval false) true) = true ∧ (sM (mv0 MoveStep.inval false) true).domainDown = false ∧ (sM (mv0 MoveStep.inval false)
      true).fw.germUp = true ∧ (mv0 MoveStep.inval false).step = MoveStep.inval ∧ (invAcked (sM (mv0 MoveStep.inval false) true) (mv0
      MoveStep.inval false).inv = false ∨ (sM (mv0 MoveStep.inval false) true).spks[spkOf (moveFrom (sM (mv0 MoveStep.inval false) true)
      (mv0 MoveStep.inval false))].recalling ≠ none ∨ pageQuiet (sM (mv0 MoveStep.inval false) true) (mv0 MoveStep.inval false).src =
      false)) ∧
    (moveOf (sM (mv0 MoveStep.inval false) false) (mv0 MoveStep.inval false).mid = some (mv0 MoveStep.inval false) ∧ portsQuiet (sM (mv0
      MoveStep.inval false) false) = true ∧ (sM (mv0 MoveStep.inval false) false).domainDown = false ∧ (sM (mv0 MoveStep.inval false)
      false).fw.germUp = true ∧ (mv0 MoveStep.inval false).step = MoveStep.inval ∧ invAcked (sM (mv0 MoveStep.inval false) false) (mv0
      MoveStep.inval false).inv = true ∧ (sM (mv0 MoveStep.inval false) false).spks[spkOf (moveFrom (sM (mv0 MoveStep.inval false) false)
      (mv0 MoveStep.inval false))].recalling = none ∧ pageQuiet (sM (mv0 MoveStep.inval false) false) (mv0 MoveStep.inval false).src = true)
      ∧
    (moveOf (sM (mv0 MoveStep.job false) false) (mv0 MoveStep.job false).mid = some (mv0 MoveStep.job false) ∧ portsQuiet (sM (mv0
      MoveStep.job false) false) = true ∧ (sM (mv0 MoveStep.job false) false).domainDown = false ∧ (sM (mv0 MoveStep.job false)
      false).fw.germUp = true ∧ ((mv0 MoveStep.job false).step = MoveStep.recall ∨ (mv0 MoveStep.job false).step = MoveStep.job ∨ (mv0
      MoveStep.job false).step = MoveStep.release)) ∧
    (moveOf (sM (mv0 MoveStep.recall false) false) (mv0 MoveStep.recall false).mid = some (mv0 MoveStep.recall false) ∧ portsQuiet (sM (mv0
      MoveStep.recall false) false) = true ∧ (sM (mv0 MoveStep.recall false) false).domainDown = false ∧ (sM (mv0 MoveStep.recall false)
      false).fw.germUp = true ∧ ((mv0 MoveStep.recall false).step = MoveStep.recall ∨ (mv0 MoveStep.recall false).step = MoveStep.job ∨ (mv0
      MoveStep.recall false).step = MoveStep.release)) ∧
    (moveOf (sM (mv0 MoveStep.release false) false) (mv0 MoveStep.release false).mid = some (mv0 MoveStep.release false) ∧ portsQuiet (sM
      (mv0 MoveStep.release false) false) = true ∧ (sM (mv0 MoveStep.release false) false).domainDown = false ∧ (sM (mv0 MoveStep.release
      false) false).fw.germUp = true ∧ ((mv0 MoveStep.release false).step = MoveStep.recall ∨ (mv0 MoveStep.release false).step =
      MoveStep.job ∨ (mv0 MoveStep.release false).step = MoveStep.release)) ∧
    (moveOf (sM (mv0 MoveStep.recall false) false) (mv0 MoveStep.recall false).mid = some (mv0 MoveStep.recall false) ∧ halted (sM (mv0
      MoveStep.recall false) false) = false ∧ entering (sM (mv0 MoveStep.recall false) false) = false ∧ noInjection (sM (mv0 MoveStep.recall
      false) false) = true ∧ parityAt Parity.good CtlStage.channel ≠ ParityKind.fatal ∧ (mv0 MoveStep.recall false).step = MoveStep.recall ∧
      (sM (mv0 MoveStep.recall false) false).spks[spkOf (moveFrom (sM (mv0 MoveStep.recall false) false) (mv0 MoveStep.recall
      false))].recalling ≠ some (unitPage (moveFrom (sM (mv0 MoveStep.recall false) false) (mv0 MoveStep.recall false))) ∧ pageQuiet (sM
      (mv0 MoveStep.recall false) false) (moveFrom (sM (mv0 MoveStep.recall false) false) (mv0 MoveStep.recall false)) = true ∧
      backgroundMay (sM (mv0 MoveStep.recall false) false) [(mv0 MoveStep.recall false).src, (mv0 MoveStep.recall false).dst] (some
      (unitPage (mv0 MoveStep.recall false).dst)) = true) ∧
    (moveOf (sM (mv0 MoveStep.recall true) false) (mv0 MoveStep.recall true).mid = some (mv0 MoveStep.recall true) ∧ halted (sM (mv0
      MoveStep.recall true) false) = false ∧ entering (sM (mv0 MoveStep.recall true) false) = false ∧ noInjection (sM (mv0 MoveStep.recall
      true) false) = true ∧ parityAt Parity.good CtlStage.channel ≠ ParityKind.fatal ∧ (mv0 MoveStep.recall true).step = MoveStep.recall ∧
      (sM (mv0 MoveStep.recall true) false).spks[spkOf (moveFrom (sM (mv0 MoveStep.recall true) false) (mv0 MoveStep.recall
      true))].recalling ≠ some (unitPage (moveFrom (sM (mv0 MoveStep.recall true) false) (mv0 MoveStep.recall true))) ∧ pageQuiet (sM (mv0
      MoveStep.recall true) false) (moveFrom (sM (mv0 MoveStep.recall true) false) (mv0 MoveStep.recall true)) = true ∧ backgroundMay (sM
      (mv0 MoveStep.recall true) false) [(mv0 MoveStep.recall true).src, (mv0 MoveStep.recall true).dst] (some (unitPage (mv0
      MoveStep.recall true).dst)) = true) ∧
    (moveOf (sM (mv0 MoveStep.job true) false) (mv0 MoveStep.job true).mid = some (mv0 MoveStep.job true) ∧ halted (sM (mv0 MoveStep.job
      true) false) = false ∧ entering (sM (mv0 MoveStep.job true) false) = false ∧ noInjection (sM (mv0 MoveStep.job true) false) = true ∧
      parityAt Parity.good CtlStage.channel ≠ ParityKind.fatal ∧ ¬((mv0 MoveStep.job true).step = MoveStep.recall ∧ (sM (mv0 MoveStep.job
      true) false).spks[spkOf (moveFrom (sM (mv0 MoveStep.job true) false) (mv0 MoveStep.job true))].recalling ≠ some (unitPage (moveFrom
      (sM (mv0 MoveStep.job true) false) (mv0 MoveStep.job true))) ∧ pageQuiet (sM (mv0 MoveStep.job true) false) (moveFrom (sM (mv0
      MoveStep.job true) false) (mv0 MoveStep.job true)) = true ∧ backgroundMay (sM (mv0 MoveStep.job true) false) [(mv0 MoveStep.job
      true).src, (mv0 MoveStep.job true).dst] (some (unitPage (mv0 MoveStep.job true).dst)) = true)) ∧
    (moveOf (sM (mv0 MoveStep.job true) false) (mv0 MoveStep.job true).mid = some (mv0 MoveStep.job true) ∧ portsQuiet (sM (mv0 MoveStep.job
      true) false) = true ∧ (sM (mv0 MoveStep.job true) false).domainDown = false ∧ (sM (mv0 MoveStep.job true) false).fw.germUp = true ∧
      (mv0 MoveStep.job true).step ≠ MoveStep.release) ∧
    (moveOf (sM (mv0 MoveStep.release false) false) (mv0 MoveStep.release false).mid = some (mv0 MoveStep.release false) ∧ portsQuiet (sM
      (mv0 MoveStep.release false) false) = true ∧ (sM (mv0 MoveStep.release false) false).domainDown = false ∧ (sM (mv0 MoveStep.release
      false) false).fw.germUp = true ∧ (mv0 MoveStep.release false).step = MoveStep.release) ∧
    (moveOf (sM (mv0 MoveStep.release true) false) (mv0 MoveStep.release true).mid = some (mv0 MoveStep.release true) ∧ portsQuiet (sM (mv0
      MoveStep.release true) false) = true ∧ (sM (mv0 MoveStep.release true) false).domainDown = false ∧ (sM (mv0 MoveStep.release true)
      false).fw.germUp = true ∧ (mv0 MoveStep.release true).step = MoveStep.release) :=
  ⟨by decide +kernel, by decide +kernel, by decide +kernel, by decide +kernel, by decide +kernel, by decide +kernel, by decide +kernel,
    by decide +kernel, by decide +kernel, by decide +kernel, by decide +kernel⟩

theorem witness_GateChecksAndSettings_1 :
    (portsQuiet case1 = true ∧ gateReady case1 = true ∧ case1.domainDown = true) ∧
    (portsQuiet case2 = true ∧ gateReady case2 = true ∧ case2.domainDown = false ∧ case2.bring.reloadBusy = true ∧ propField (12 : BitVec
      256) 0 2 ≠ 13) ∧
    (portsQuiet (sG id) = true ∧ gateReady (sG id) = true ∧ (sG id).domainDown = false ∧ (sG id).bring.reloadBusy = false ∧ propOk (0 :
      BitVec 256) = false) ∧
    (portsQuiet sBusyQ = true ∧ sBusyQ.fw.branUp = true ∧ slotBusy sBusyQ sBusyQ.queue.gateTail = true) ∧
    (portsQuiet sBusyQ = true ∧ sBusyQ.fw.branUp = true ∧ (∃ j < (↑(0 : Fin 256) + 256 - sBusyQ.queue.gateTail) % 256, slotBusy sBusyQ
      ((sBusyQ.queue.gateTail + j) % 256) = true)) ∧
    (portsQuiet (sG (portIn PortState.enabled)) = true ∧ gateReady (sG (portIn PortState.enabled)) = true ∧ (sG (portIn
      PortState.enabled)).domainDown = false ∧ (sG (portIn PortState.enabled)).bring.reloadBusy = false ∧ tablesOrdered (sG (portIn
      PortState.enabled)) = true ∧ (sG (portIn PortState.enabled)).ports[(0 : Fin 4)].state = PortState.enabled) ∧
    (portsQuiet (sG (portIn PortState.training)) = true ∧ gateReady (sG (portIn PortState.training)) = true ∧ (sG (portIn
      PortState.training)).domainDown = false ∧ (sG (portIn PortState.training)).bring.reloadBusy = false ∧ tablesOrdered (sG (portIn
      PortState.training)) = true ∧ (sG (portIn PortState.training)).ports[(0 : Fin 4)].state = PortState.training) ∧
    (portsQuiet (sG (portIn PortState.drained)) = true ∧ gateReady (sG (portIn PortState.drained)) = true ∧ (sG (portIn
      PortState.drained)).domainDown = false ∧ (sG (portIn PortState.drained)).bring.reloadBusy = false ∧ tablesOrdered (sG (portIn
      PortState.drained)) = true ∧ (sG (portIn PortState.drained)).ports[(0 : Fin 4)].state = PortState.drained ∧ ideReady (sG (portIn
      PortState.drained)) (0 : Fin 4) = true ∧ mayServe (sG (portIn PortState.drained)) = true) ∧
    (portsQuiet (sG fly) = true ∧ gateReady (sG fly) = true ∧ (sG fly).domainDown = false ∧ (sG fly).bring.reloadBusy = false ∧
      tablesOrdered (sG fly) = true ∧ (sG fly).ports[(0 : Fin 4)].state = PortState.enabled ∧ inflight (sG fly) (0 : Fin 4) ≠ 0) ∧
    (portsQuiet (sG (portIn PortState.training)) = true ∧ gateReady (sG (portIn PortState.training)) = true ∧ (sG (portIn
      PortState.training)).domainDown = false ∧ (sG (portIn PortState.training)).bring.reloadBusy = false ∧ tablesOrdered (sG (portIn
      PortState.training)) = true ∧ (sG (portIn PortState.training)).ports[(0 : Fin 4)].state ≠ PortState.enabled) ∧
    (portsQuiet (sG (portIn PortState.reset)) = true ∧ gateReady (sG (portIn PortState.reset)) = true ∧ (sG (portIn
      PortState.reset)).domainDown = false ∧ (sG (portIn PortState.reset)).bring.reloadBusy = false ∧ tablesOrdered (sG (portIn
      PortState.reset)) = true ∧ (sG (portIn PortState.reset)).ports[(0 : Fin 4)].state ≠ PortState.enabled) ∧
    (portsQuiet (sG id) = true ∧ gateReady (sG id) = true ∧ (sG id).domainDown = false ∧ (sG id).bring.reloadBusy = false ∧ tablesOrdered
      (sG id) = true ∧ 320 ≤ 376 ∧ 376 < 512 ∧ 376 % 8 = 0 ∧ 376 < 384 ∧ 1 ≤ BitVec.toNat (1000 : Word) ∧ BitVec.toNat (1000 : Word) ≤ 65535
      ∧ BitVec.toNat (1000 : Word) ≤ budgetCeiling (sG id) ((376 - 320) / 8)) :=
  ⟨by decide +kernel, by decide +kernel, by decide +kernel, by decide +kernel, by decide +kernel, by decide +kernel, by decide +kernel,
    by decide +kernel, by decide +kernel, by decide +kernel, by decide +kernel, by decide +kernel⟩

theorem witness_GateChecksAndSettings_2 :
    (portsQuiet (sG id) = true ∧ gateReady (sG id) = true ∧ (sG id).domainDown = false ∧ (sG id).bring.reloadBusy = false ∧ tablesOrdered
      (sG id) = true ∧ 320 ≤ 376 ∧ 376 < 512 ∧ 376 % 8 = 0 ∧ 376 < 384 ∧ BitVec.toNat (1001 : Word) ≤ 65535 ∧ budgetCeiling (sG id) ((376 -
      320) / 8) < BitVec.toNat (1001 : Word)) ∧
    (portsQuiet (sG id) = true ∧ gateReady (sG id) = true ∧ (sG id).domainDown = false ∧ (sG id).bring.reloadBusy = false ∧ tablesOrdered
      (sG id) = true ∧ 320 ≤ 384 ∧ 384 < 512 ∧ 384 % 8 = 0 ∧ 384 ≤ 384 ∧ 384 < 448 ∧ field (place 48 1) 48 10 ≠ 0) ∧
    (portsQuiet (sG id) = true ∧ gateReady (sG id) = true ∧ (sG id).domainDown = false ∧ (sG id).bring.reloadBusy = false ∧ tablesOrdered
      (sG id) = true ∧ 320 ≤ 440 ∧ 440 < 512 ∧ 440 % 8 = 0 ∧ 384 ≤ 440 ∧ 440 < 448 ∧ field (BitVec.allOnes 64) 48 10 ≠ 0) ∧
    (portsQuiet (sG id) = true ∧ gateReady (sG id) = true ∧ (sG id).domainDown = false ∧ (sG id).bring.reloadBusy = false ∧ tablesOrdered
      (sG id) = true ∧ 320 ≤ 448 ∧ 448 < 512 ∧ 448 % 8 = 0 ∧ 448 ≤ 448 ∧ 100 ≤ BitVec.toNat (1000000 : Word) ∧ BitVec.toNat (1000000 : Word)
      ≤ 1000000) ∧
    (portsQuiet (sG id) = true ∧ gateReady (sG id) = true ∧ (sG id).domainDown = false ∧ (sG id).bring.reloadBusy = false ∧ tablesOrdered
      (sG id) = true ∧ 320 ≤ 504 ∧ 504 < 512 ∧ 504 % 8 = 0 ∧ 448 ≤ 504 ∧ 100 ≤ BitVec.toNat (100 : Word) ∧ BitVec.toNat (100 : Word) ≤
      1000000) ∧
    (portsQuiet (sG id) = true ∧ gateReady (sG id) = true ∧ (sG id).domainDown = false ∧ (sG id).bring.reloadBusy = false ∧ tablesOrdered
      (sG id) = true ∧ 32769 < 2 ^ 16 ∧ 1 ≤ 1 ∧ 1 ≤ 125 ∧ 125 ≤ 125 ∧ 195 ≤ 195) ∧
    (portsQuiet (sG id) = true ∧ gateReady (sG id) = true ∧ (sG id).domainDown = false ∧ (sG id).bring.reloadBusy = false ∧ tablesOrdered
      (sG id) = true ∧ 32769 < 2 ^ 16 ∧ 0 ≤ 1 ∧ 1 ≤ 1 ∧ 1 ≤ 125 ∧ 0 ≤ 195) :=
  ⟨by decide +kernel, by decide +kernel, by decide +kernel, by decide +kernel, by decide +kernel, by decide +kernel, by decide +kernel⟩

end OnMoves

/-! ### Proposals on pages and banks (chapters 9, 17) -/

namespace OnBanks

def sG : State := { sr with queue := { sr.queue with gateTail := 255, gateHead := 255 } }
def dB : Nat := 0x8000001000
def pk : Word := mkLeaf 12 false true 0x4C40000000
/-- The counter node and the tag line of that descriptor, as the fill wrote them, in the cache of their home. -/
def descNode : Line := 0xfa241cd466c63b590000000000000000000000000000000000000000000000000000000000000000000000000000000000000000000000000000000000000000#512
def descTags : Line := 0xabb73148bbccb3a91e5ccca06f58d95e66ab26d923739296dd5232451d1858b1cb94b32a97f187f69b1b751e21bc13000d7a7885309adfc3dd0bf2679a892a2e#512
def withDesc (s : State) : State :=
  updSpk 3 (fun k => { k with culm := [(0x4262001000, ⟨descNode, true, .node 0, 6, 1, false⟩), (0x4C44004000, ⟨descTags, true, .dtag, 6, 1, false⟩)].foldl (fun c e => kset ⟨0, false, .pkt, 0, 0, false⟩ c e.1 e.2) k.culm }) s
def sPk : State := withDesc (withTree treeP { sG with gate := { sG.gate with invOpen := true }, tier := { sG.tier with pools := Vector.replicate 2 ⟨[(0x900, 1)], .normal⟩, descFree := [(0x131000001, 1)] } })
def b1 : BitVec 256 := proposal 1 7 (pageArgs 0x13 dB 0)
def pl : Option Word × State := pageLeaf 0x13 dB (taken b1 sPk)
def pn : Word := mkLeaf 30 false false 0x40000000
def sPn : State := withDesc (withTree treeB { sG with gate := { sG.gate with invOpen := true }, tier := { sG.tier with pools := Vector.replicate 2 ⟨[(0x900, 1)], .normal⟩, descFree := [(0x131000001, 1)] } })
/-- The same with one region of one page, so that finding the page in the remap table is one walk. -/
def regP : Region := { regB with size := 12, dpaBase := dB }
def sPr : State := { sPn with img := some { img0 with regions := [regP] } }
def b2 : BitVec 256 := proposal 2 7 (pageArgs 0x13 dB 0)
def pl2 : Option Word × State := pageLeaf 0x13 dB (taken b2 sPn)
def case1 : State := { sG with tier := { sG.tier with retired := [0x9000] } }
def b3 : BitVec 256 := proposal 3 7 0x9000
def sNoReg : State := { sG with img := some { img0 with regions := [] } }
def sp (m : Nat) : State := { sG with img := some { img0 with ranks := 2, spare := List.replicate 16 m } }
def rmp (n : Nat) (s : State) : State := updMc 3 (fun m => { m with remaps := List.replicate n ⟨true, 0, 1, 1, 7, 3⟩ }) s
def sPinR : State := { sG with img := some { img0 with regions := [{ regA with pinned := true }] } }
def case2 : Region := { regA with pinned := true }
def full : State := updPort 1 (fun o => { o with sheaf := List.replicate 3584 ⟨0x13, 0, 12, 0, false, false, true⟩ }) sPn
def b3r : BitVec 256 := proposal 3 7 0x40001000
def fb2 : Option (ℕ × ℕ) × State := findBacked 0x40001000 (taken b3r sPr)
def sUn : State := updPort 1 (fun o => { o with pins := [⟨0x13, dB, 0x1000⟩, ⟨0x13, 0x8000008000, 0x1000⟩], sheaf := [⟨0x13, dB, 12, 0, false, false, true⟩, ⟨0x13, 0x8000008000, 12, 0, false, false, true⟩] }) sG

theorem witness_PageBankAndMemberProposals_1 :
    (portsQuiet sG = true ∧ gateReady sG = true ∧ sG.domainDown = false ∧ sG.bring.reloadBusy = false ∧ 4096 < 2 ^ 45 ∧ 4096 % 4096 = 0 ∧
      regionAt sG ↑(5 : Fin 64) 4096 = none) ∧
    (portsQuiet sG = true ∧ gateReady sG = true ∧ sG.domainDown = false ∧ sG.bring.reloadBusy = false ∧ 4096 < 2 ^ 45 ∧ 4096 % 4096 = 0 ∧
      regionAt sG ↑(0 : Fin 64) 4096 = some regA ∧ regA.elastic = false) ∧
    (portsQuiet sG = true ∧ gateReady sG = true ∧ sG.domainDown = false ∧ sG.bring.reloadBusy = false ∧ 274877906944 < 2 ^ 44 ∧ 274877906944
      % 4096 = 0 ∧ (isProtected sG 274877906944 = true ∨ populated (geom sG) ≤ 274877906944)) ∧
    (portsQuiet sG = true ∧ gateReady sG = true ∧ sG.domainDown = false ∧ sG.bring.reloadBusy = false ∧ 17592186040320 < 2 ^ 44 ∧
      17592186040320 % 4096 = 0 ∧ (isProtected sG 17592186040320 = true ∨ populated (geom sG) ≤ 17592186040320)) ∧
    (portsQuiet case1 = true ∧ gateReady case1 = true ∧ case1.domainDown = false ∧ case1.bring.reloadBusy = false ∧ 36864 < 2 ^ 44 ∧ 36864 %
      4096 = 0 ∧ isProtected case1 36864 = false ∧ pageSpare case1 (36864 >>> 12) = false ∧ 36864 < populated (geom case1) ∧
      case1.tier.retired.contains 36864 = true) ∧
    (portsQuiet sNoReg = true ∧ gateReady sNoReg = true ∧ sNoReg.domainDown = false ∧ sNoReg.bring.reloadBusy = false ∧ 36864 < 2 ^ 44 ∧
      36864 % 4096 = 0 ∧ isProtected sNoReg 36864 = false ∧ pageSpare sNoReg (36864 >>> 12) = false ∧ 36864 < populated (geom sNoReg) ∧
      sNoReg.tier.retired.contains 36864 = false ∧ sNoReg.tier.retired.length < 65536 ∧ (sNoReg.tier.moves.any fun v => !v.srcPacked &&
      decide (v.src = 36864) || !v.dstPacked && decide (v.dst = 36864)) = false ∧ kfind sNoReg.tier.granulePages 36864 = none ∧ findBacked
      36864 (taken (proposal 3 7 36864) sNoReg) = (none, taken b3 sNoReg) ∧ (taken b3 sNoReg).queue = (taken (proposal 3 7 36864)
      sNoReg).queue) ∧
    (portsQuiet (sp 2) = true ∧ gateReady (sp 2) = true ∧ (sp 2).domainDown = false ∧ (sp 2).bring.reloadBusy = false ∧ 1 < 2 ∧ 7 < 8 ∧ 3 <
      4 ∧ ((spareMask (sp 2) ↑(3 : Fin 16)).testBit ↑(1 : Fin 4) = true ∨ (geom (sp 2)).ranks ≤ ↑(1 : Fin 4))) ∧
    (portsQuiet (sp 2) = true ∧ gateReady (sp 2) = true ∧ (sp 2).domainDown = false ∧ (sp 2).bring.reloadBusy = false ∧ 1 < 2 ∧ 7 < 8 ∧ 3 <
      4 ∧ ((spareMask (sp 2) ↑(3 : Fin 16)).testBit ↑(2 : Fin 4) = true ∨ (geom (sp 2)).ranks ≤ ↑(2 : Fin 4))) ∧
    (portsQuiet (rmp 1 (sp 2)) = true ∧ gateReady (rmp 1 (sp 2)) = true ∧ (rmp 1 (sp 2)).domainDown = false ∧ (rmp 1 (sp
      2)).bring.reloadBusy = false ∧ 1 < 2 ∧ 7 < 8 ∧ 3 < 4 ∧ (spareMask (rmp 1 (sp 2)) ↑(3 : Fin 16)).testBit ↑(0 : Fin 4) = false ∧ ↑(0 :
      Fin 4) < (geom (rmp 1 (sp 2))).ranks ∧ ((rmp 1 (sp 2)).mcs[(3 : Fin 16)].remaps.any fun m => decide (m.rank = ↑(0 : Fin 4)) && decide
      (m.subch = 1) && decide (m.bg = 7) && decide (m.ba = 3)) = true) ∧
    (portsQuiet (rmp 4 (sp 2)) = true ∧ gateReady (rmp 4 (sp 2)) = true ∧ (rmp 4 (sp 2)).domainDown = false ∧ (rmp 4 (sp
      2)).bring.reloadBusy = false ∧ 1 < 2 ∧ 7 < 8 ∧ 2 < 4 ∧ (spareMask (rmp 4 (sp 2)) ↑(3 : Fin 16)).testBit ↑(0 : Fin 4) = false ∧ ↑(0 :
      Fin 4) < (geom (rmp 4 (sp 2))).ranks ∧ ((rmp 4 (sp 2)).mcs[(3 : Fin 16)].remaps.any fun m => decide (m.rank = ↑(0 : Fin 4)) && decide
      (m.subch = 1) && decide (m.bg = 7) && decide (m.ba = 2)) = false ∧ 4 ≤ (rmp 4 (sp 2)).mcs[(3 : Fin 16)].remaps.length) ∧
    (portsQuiet (sp 0) = true ∧ gateReady (sp 0) = true ∧ (sp 0).domainDown = false ∧ (sp 0).bring.reloadBusy = false ∧ 1 < 2 ∧ 7 < 8 ∧ 2 <
      4 ∧ (spareMask (sp 0) ↑(3 : Fin 16)).testBit ↑(0 : Fin 4) = false ∧ ↑(0 : Fin 4) < (geom (sp 0)).ranks ∧ ((sp 0).mcs[(3 : Fin
      16)].remaps.any fun m => decide (m.rank = ↑(0 : Fin 4)) && decide (m.subch = 1) && decide (m.bg = 7) && decide (m.ba = 2)) = false ∧
      (sp 0).mcs[(3 : Fin 16)].remaps.length < 4 ∧ (sp 0).mcs[(3 : Fin 16)].copy = none ∧ usableSpares (sp 0) (3 : Fin 16) ↑(0 : Fin 4) =
      []) ∧
    (portsQuiet (sp 2) = true ∧ gateReady (sp 2) = true ∧ (sp 2).domainDown = false ∧ (sp 2).bring.reloadBusy = false ∧ 1 < 2 ∧ 7 < 8 ∧ 2 <
      4 ∧ (spareMask (sp 2) ↑(3 : Fin 16)).testBit ↑(0 : Fin 4) = false ∧ ↑(0 : Fin 4) < (geom (sp 2)).ranks ∧ ((sp 2).mcs[(3 : Fin
      16)].remaps.any fun m => decide (m.rank = ↑(0 : Fin 4)) && decide (m.subch = 1) && decide (m.bg = 7) && decide (m.ba = 2)) = false ∧
      (sp 2).mcs[(3 : Fin 16)].remaps.length < 4 ∧ (sp 2).mcs[(3 : Fin 16)].copy = none ∧ (usableSpares (sp 2) (3 : Fin 16) ↑(0 : Fin
      4)).head? = some 1) :=
  ⟨by decide +kernel, by decide +kernel, by decide +kernel, by decide +kernel, by decide +kernel, by decide +kernel, by decide +kernel,
    by decide +kernel, by decide +kernel, by decide +kernel, by decide +kernel, by decide +kernel⟩

theorem witness_PageBankAndMemberProposals_2 :
    (portsQuiet sG = true ∧ gateReady sG = true ∧ sG.domainDown = false ∧ sG.bring.reloadBusy = false ∧ 12 ≤ 12 ∧ 12 ≤ 44 ∧ 4096 < 2 ^ 45 ∧
      4096 % 2 ^ 12 = 0 ∧ rangeRegion sG ↑(5 : Fin 64) 4096 (2 ^ 12) = none) ∧
    (portsQuiet sPinR = true ∧ gateReady sPinR = true ∧ sPinR.domainDown = false ∧ sPinR.bring.reloadBusy = false ∧ 12 ≤ 12 ∧ 12 ≤ 44 ∧ 4096
      < 2 ^ 45 ∧ 4096 % 2 ^ 12 = 0 ∧ rangeRegion sPinR ↑(0 : Fin 64) 4096 (2 ^ 12) = some case2 ∧ case2.pinned = true) ∧
    (portsQuiet full = true ∧ gateReady full = true ∧ full.domainDown = false ∧ full.bring.reloadBusy = false ∧ 12 ≤ 12 ∧ 12 ≤ 44 ∧ dB < 2 ^
      45 ∧ dB % 2 ^ 12 = 0 ∧ rangeRegion full (↑(19 : Fin 64)) dB (2 ^ 12) = some regB ∧ regB.pinned = false ∧ pinRange (↑(19 : Fin 64)) dB
      12 regB (taken (proposal 9 7 (pageArgs (↑(19 : Fin 64)) dB 12)) full) = none) ∧
    (portsQuiet sUn = true ∧ gateReady sUn = true ∧ sUn.domainDown = false ∧ sUn.bring.reloadBusy = false ∧ 12 ≤ 12 ∧ 12 ≤ 44 ∧ dB < 2 ^ 45
      ∧ dB % 2 ^ 12 = 0 ∧ rangeRegion sUn (↑(19 : Fin 64)) dB (2 ^ 12) = some regB ∧ regB.pinned = false) :=
  ⟨by decide +kernel, by decide +kernel, by decide +kernel, by decide +kernel⟩

theorem pairOf {α β : Type} {r : α × β} {a : α} (h : r.1 = a) : r = (a, r.2) := by rw [← h]

def pagePick (s : State) : Option Nat × State := allocPick (regionPool regB) (fun pg => !homeFull s (home (pg <<< 12))) s

theorem pagePick_isSome : (pagePick pl.2).1.isSome = true := by
  have h : pl.2.tier.pools[regionPool regB].free.foldl (fun a r => a + r.2) 0 = 1 := by decide +kernel
  unfold pagePick
  rw [allocPick_one _ _ _ h]
  decide +kernel

theorem promote_page :
    pl.1 = some pk ∧ pl.2.queue = (taken (proposal 1 7 (pageArgs 0x13 dB 0)) sPk).queue ∧ moveOpen pl.2 regB dB = false ∧
      commandOpen pl.2 regB dB = false ∧ pagesFull pl.2 (regionPool regB) = false ∧ eTier pk = 1 ∧ pl.2.tier.pools[regionPool
      regB].state = .normal := by
  decide +kernel

theorem promote_plain : forwardedTo pl.2 (eAddr pk) = none := by decide +kernel
theorem promote_pl : pageLeaf 0x13 dB (taken (proposal 1 7 (pageArgs 0x13 dB 0)) sPk) = pl := rfl
theorem promote_state : portsQuiet sPk = true ∧ gateReady sPk = true ∧ sPk.domainDown = false ∧ sPk.bring.reloadBusy = false ∧ dB < 2 ^ 45 ∧
      dB % 4096 = 0 ∧ regionAt sPk 0x13 dB = some regB ∧ regB.elastic = true := by decide +kernel
theorem pagePick_some : ∃ d t, pagePick pl.2 = (some d, t) := some_of pagePick_isSome

/-- PROMOTE of a packed page, with one free page. -/
theorem witness_PageBankAndMemberProposals_promote :
    portsQuiet sPk = true ∧ gateReady sPk = true ∧ sPk.domainDown = false ∧ sPk.bring.reloadBusy = false ∧ dB < 2 ^ 45 ∧
      dB % 4096 = 0 ∧ regionAt sPk 0x13 dB = some regB ∧ regB.elastic = true ∧
      ∃ s1 d s2, pageLeaf 0x13 dB (taken (proposal 1 7 (pageArgs 0x13 dB 0)) sPk) = (some pk, s1) ∧
        s1.queue = (taken (proposal 1 7 (pageArgs 0x13 dB 0)) sPk).queue ∧
        moveOpen s1 regB dB = false ∧ commandOpen s1 regB dB = false ∧ pagesFull s1 (regionPool regB) = false ∧ eTier pk = 1 ∧
        forwardedTo s1 (eAddr pk) = none ∧ s1.tier.pools[regionPool regB].state = .normal ∧ pagePick s1 = (some d, s2) := by
  obtain ⟨h0, h1, h2, h3, h4, h5, h6, h7⟩ := promote_state
  obtain ⟨p0, p1, p2, p3, p4, p5, p6⟩ := promote_page
  obtain ⟨d, t, h⟩ := pagePick_some
  exact ⟨h0, h1, h2, h3, h4, h5, h6, h7, pl.2, d, t, promote_pl.trans (pairOf p0), p1, p2, p3, p4, p5,
    promote_plain, p6, h⟩

def descPick (s : State) : Option Nat × State := oneDesc s (fun x => !homeFull s (home x))

theorem takeDesc_pick (h : pl2.2.tier.descFree.foldl (fun n r => n + r.2) 0 = 1) :
    takeDesc pl2.2 (fun x => !homeFull pl2.2 (home x)) = descPick pl2.2 := takeDesc_one _ _ h

theorem demote_page :
    pl2.1 = some pn ∧ moveOpen pl2.2 regB dB = false ∧ commandOpen pl2.2 regB dB = false ∧ descsFull pl2.2 = false ∧
      pl2.2.tier.descFree.foldl (fun n r => n + r.2) 0 = 1 ∧ (descPick pl2.2).1 = some ((descPick pl2.2).1.getD 0) := by
  decide +kernel

theorem demote_queue : (writeDesc ((descPick pl2.2).1.getD 0) 0 (holdPath 7 ((descPick pl2.2).1.getD 0) (descPick pl2.2).2)).queue =
    (taken (proposal 2 7 (pageArgs 0x13 dB 0)) sPn).queue := by decide +kernel
theorem demote_pl : pageLeaf 0x13 dB (taken (proposal 2 7 (pageArgs 0x13 dB 0)) sPn) = pl2 := rfl
theorem demote_state : portsQuiet sPn = true ∧ gateReady sPn = true ∧ sPn.domainDown = false ∧ sPn.bring.reloadBusy = false ∧
    regionAt sPn 0x13 dB = some regB ∧ regB.pinned = false ∧ eTier pn = 0 := by decide +kernel

/-- DEMOTE of a plain page, with one free descriptor. -/
theorem witness_PageBankAndMemberProposals_demote :
    portsQuiet sPn = true ∧ gateReady sPn = true ∧ sPn.domainDown = false ∧ sPn.bring.reloadBusy = false ∧
      regionAt sPn 0x13 dB = some regB ∧ regB.pinned = false ∧
      ∃ s1 d s2, pageLeaf 0x13 dB (taken (proposal 2 7 (pageArgs 0x13 dB 0)) sPn) = (some pn, s1) ∧
        moveOpen s1 regB dB = false ∧ commandOpen s1 regB dB = false ∧ descsFull s1 = false ∧ eTier pn = 0 ∧
        takeDesc s1 (fun x => !homeFull s1 (home x)) = (some d, s2) ∧
        (writeDesc d 0 (holdPath 7 d s2)).queue = (taken (proposal 2 7 (pageArgs 0x13 dB 0)) sPn).queue := by
  obtain ⟨h0, h1, h2, h3, h4, h5, h6⟩ := demote_state
  obtain ⟨p0, p1, p2, p3, p4, p5⟩ := demote_page
  exact ⟨h0, h1, h2, h3, h4, h5, pl2.2, (descPick pl2.2).1.getD 0, (descPick pl2.2).2, demote_pl.trans (pairOf p0), p1, p2, p3, h6,
    (takeDesc_pick p4).trans (pairOf p5), demote_queue⟩

def pinned9 : Option State := pinRange 0x13 dB 12 regB (taken (proposal 9 7 (pageArgs 0x13 dB 12)) sPn)

/-- PIN of one page. -/
theorem witness_PageBankAndMemberProposals_pin : rangeRegion sPn 0x13 dB (2 ^ 12) = some regB ∧ ∃ t, pinned9 = some t ∧
    t.queue = (taken (proposal 9 7 (pageArgs 0x13 dB 12)) sPn).queue := by
  have h : pinned9.any (fun t => t.queue = (taken (proposal 9 7 (pageArgs 0x13 dB 12)) sPn).queue) = true := by decide +kernel
  refine ⟨by decide +kernel, ?_⟩
  generalize pinned9 = o at h ⊢
  cases o with
  | none => cases h
  | some t => exact ⟨t, rfl, of_decide_eq_true h⟩

def poolPick (s : State) : Option Nat × State := allocPick (poolOf s 0x40001000) (fun _ => true) s

theorem poolPick_isSome : (poolPick fb2.2).1.isSome = true := by
  have h : fb2.2.tier.pools[poolOf fb2.2 0x40001000].free.foldl (fun a r => a + r.2) 0 = 1 := by decide +kernel
  unfold poolPick
  rw [allocPick_one _ _ _ h]
  decide +kernel

theorem retire_page :
    fb2.1 = some (0x13, dB) ∧ fb2.2.queue = (taken (proposal 3 7 0x40001000) sPr).queue ∧ regionAt fb2.2 0x13 dB = some regP ∧
      moveOpen fb2.2 regP dB = false ∧ commandOpen fb2.2 regP dB = false ∧ fb2.2.tier.pools[poolOf fb2.2 0x40001000].state ≠
      .critical := by
  decide +kernel

theorem retire_fb : findBacked 0x40001000 (taken (proposal 3 7 0x40001000) sPr) = fb2 := rfl
theorem retire_state : isProtected sPr 0x40001000 = false ∧ pageSpare sPr (0x40001000 >>> 12) = false ∧
    0x40001000 < populated (geom sPr) ∧ sPr.tier.retired.contains 0x40001000 = false ∧ sPr.tier.retired.length < 65536 ∧
    sPr.tier.moves = [] ∧ kfind sPr.tier.granulePages 0x40001000 = none := by decide +kernel
theorem retire_plain : forwardOf sPr 0x40001000 = none := by decide +kernel

/-- RETIRE_PAGE of a backed page, with one free page. -/
theorem witness_PageBankAndMemberProposals_retire :
    isProtected sPr 0x40001000 = false ∧ pageSpare sPr (0x40001000 >>> 12) = false ∧ 0x40001000 < populated (geom sPr) ∧
      sPr.tier.retired.contains 0x40001000 = false ∧ sPr.tier.retired.length < 65536 ∧ sPr.tier.moves = [] ∧
      kfind sPr.tier.granulePages 0x40001000 = none ∧ forwardOf sPr 0x40001000 = none ∧
      ∃ s1 d s2, findBacked 0x40001000 (taken (proposal 3 7 0x40001000) sPr) = (some (0x13, dB), s1) ∧
        s1.queue = (taken (proposal 3 7 0x40001000) sPr).queue ∧ regionAt s1 0x13 dB = some regP ∧
        moveOpen s1 regP dB = false ∧ commandOpen s1 regP dB = false ∧
        s1.tier.pools[poolOf s1 0x40001000].state ≠ .critical ∧ poolPick s1 = (some d, s2) := by
  obtain ⟨h0, h1, h2, h3, h4, h5, h6⟩ := retire_state
  obtain ⟨p0, p1, p2, p3, p4, p5⟩ := retire_page
  obtain ⟨d, t, h⟩ := some_of poolPick_isSome
  exact ⟨h0, h1, h2, h3, h4, h5, h6, retire_plain, fb2.2, d, t, retire_fb.trans (pairOf p0), p1, p2, p3, p4, p5, h⟩

end OnBanks

/-! ### Reloads, channels and copies (chapters 8, 9, 17) -/

namespace OnChannels

def sG : State := { sr with queue := { sr.queue with gateTail := 255, gateHead := 255 } }
def role (r : Role) (s : State) : State := { s with pair := { s.pair with role := r } }
def case1 : State := (withTil (fun t => { t with state := .up }) (role .primary (portIn .enabled sG)))
def prim : State := withTil (fun t => { t with state := .up }) { role .primary sG with pair := { (role .primary sG).pair with partnered := true, peerSynced := true } }
def sRl (b : Bool) : State := withBring (fun q => { q with reloadBusy := true, reloadCopy := b, reloadSlot := some 3, reloadAt := 4 }) { sr with flash := [(3, 7), (4, 9), (70, 1)], dtime := 77 }
def gd (w : List GermWait) : State := { sr with fw := { sr.fw with germUp := false, waits := w } }
def case2 : State := (updMbox 1 2 (fun m => { m with busy := true, opcode := 0x4300 }) sr)
def sHf (f : Mc → Mc) : State := updMc 3 f sr
def case3 : State := (sHf fun m => { m with fastWanted := true, state := .powerDown, refreshing := [0] })
def case4 : State := (sHf fun m => { m with fastApplied := 3 })
def case5 : State := (sHf fun m => { m with refreshing := [0, 5], owed := [(9, true), (8, false)] })
def case6 : State := (sHf fun m => { m with refreshing := [rowTarget sr 9, 5], owed := [(9, true)] })
def case7 : State := (sHf fun m => { m with refreshing := [rowTarget sr 9, 5], owed := [(9, false)] })
def case8 : State := (sHf fun m => { m with refreshing := [5], owed := [(9, false)] })
def case10 : State := (sHf fun m => { m with missed := #v[2, 0], fastWanted := false })
def case11 : State := (sHf fun m => { m with missed := #v[2, 0], fastWanted := true })
def case12 : State := (sHf fun m => { m with missed := #v[1, 0], fastWanted := true })
def calS : KMap CalVal := [(0, ⟨5, 9⟩), (7, ⟨9, 5⟩), (40, ⟨3, 3⟩)]
def sCal (run : Bool) : State := updMc 3 (fun m => { m with cal := calS, calRunning := run, calGen := 2 ^ 32 - 1 }) sr
def sSel (v : Word) (f : Mc → Mc) : State := regSet (offCalSel 3) v (updMc 3 f (sCal true))
def case13 : State := (sSel (place 0 1) fun m => { m with state := .powerDown })
def case14 : State := (sSel (place 8 6) fun m => m)
def case15 : State := (sSel (place 0 1) fun m => { m with state := .selfRefresh })
def scr (f : Mc → Mc) : State := regSetField (offScrubCfg 3) 32 1 1 (updMc 3 (fun m => f { m with scrubRun := true }) { sr with filled := true })
def la0 : ℕ := (scrubLine (scr id) 3 5 0).getD 0
def rl (s : State) (la : Nat) := readLine (mpaOf 1 la) true 0 .scrub ⟨mpaOf 1 la, 1, idScrub, 0xA, none⟩ (perfMc 3 0x07 1 none (let s1 : State := { s with dtime := max s.dtime (s.mcs[3].scrubAt + scrubGapNs s 3) }
  { s1 with mcs := s1.mcs.set 3 { s1.mcs[3] with scrubCount := scrubsInWindow s1 3 + 1, scrubAt := s1.dtime } }))
def fm (d : Decoded) : Form × Image := match d with | .line f img _ => (f, img) | _ => (.plain, 0)
def lastLa : Nat := (1 <<< rankShift (geom sr)) - 64
def scE : State := scr fun m => { m with scrubPos := lastLa, laps := 65535, lapStart := 5 }
def rlE : Decoded × State := rl scE lastLa
def case16 : State := (updMc 0 (fun m => { m with state := .powerDown, elogHead := 2 ^ 32 - 1, caRank := [(0, 7), (2, 8)] }) sr)
def sp2 : State := { sr with img := some { img0 with ranks := 2, spare := List.replicate 16 2 } }
def goW (op : Nat) : Word := place 63 1 ||| place 60 op ||| place 10 1 ||| place 8 1 ||| place 4 7 ||| place 0 3
def case17 : State := (updMc 3 (fun m => { m with copy := some ⟨true, 0, 1, 1, 7, 2, 6080, none⟩ }) sp2)
def case18 : State := (updMc 3 (fun m => { m with copy := some ⟨true, 0, 1, 1, 7, 2, 6080, none⟩ }) sp2)
def kc (bank : Bool) (p : Nat) : SpareCopy := ⟨bank, 0, 1, 1, 7, 2, p, some 3⟩
def sCp (k : SpareCopy) : State := updMc 3 (fun m => { m with copy := some k }) { sp2 with filled := true }
def rc (k : SpareCopy) := readLine (mpaOf 1 k.ptr) true 0 .copy ⟨mpaOf 1 k.ptr, 1, idMigration, 8, none⟩ (sCp k)
def fixed (d : Decoded) := match d with | .line _ _ fx => fx | _ => []
def eP (b : Bool) := copyEnd (geom sp2) (kc b 64) - 64

theorem witness_PageBankAndMemberProposals :
    (portsQuiet sG = true ∧ gateReady sG = true ∧ sG.domainDown = false ∧ sG.bring.reloadBusy = false ∧ mayLeave sG = false) ∧
    (portsQuiet (role Role.secondary (portIn PortState.enabled sG)) = true ∧ gateReady (role Role.secondary (portIn PortState.enabled sG)) =
      true ∧ (role Role.secondary (portIn PortState.enabled sG)).domainDown = false ∧ (role Role.secondary (portIn PortState.enabled
      sG)).bring.reloadBusy = false ∧ mayLeave (role Role.secondary (portIn PortState.enabled sG)) = true ∧ (role Role.secondary (portIn
      PortState.enabled sG)).til.mirrors = [] ∧ (role Role.secondary (portIn PortState.enabled sG)).til.fetches = []) ∧
    (portsQuiet case1 = true ∧ gateReady case1 = true ∧ case1.domainDown = false ∧ case1.bring.reloadBusy = false ∧ mayLeave case1 = true ∧
      case1.til.mirrors = [] ∧ case1.til.fetches = []) ∧
    (portsQuiet sG = true ∧ gateReady sG = true ∧ sG.domainDown = false ∧ sG.bring.reloadBusy = false ∧ mayHandover sG = false) ∧
    (portsQuiet prim = true ∧ gateReady prim = true ∧ prim.domainDown = false ∧ prim.bring.reloadBusy = false ∧ mayHandover prim = true) ∧
    (portsQuiet prim = true ∧ gateReady prim = true ∧ prim.domainDown = false ∧ prim.bring.reloadBusy = false ∧ ¬(prim.pair.role ≠
      Role.primary ∧ receivesMirror prim = false)) ∧
    (portsQuiet sG = true ∧ gateReady sG = true ∧ sG.domainDown = false ∧ sG.bring.reloadBusy = false ∧ sG.pair.role ≠ Role.primary ∧
      receivesMirror sG = false ∧ ¬decide (↑(0 : Fin 2) = 1) ≠ sG.imgCopyB) ∧
    (portsQuiet sG = true ∧ gateReady sG = true ∧ sG.domainDown = false ∧ sG.bring.reloadBusy = false ∧ sG.pair.role ≠ Role.primary ∧
      receivesMirror sG = false ∧ decide (↑(1 : Fin 2) = 1) ≠ sG.imgCopyB ∧ checkCopy (taken (proposal 13 7 ↑(1 : Fin 2)) sG) (decide (↑(1 :
      Fin 2) = 1)) = CopyCheck.refused 1) ∧
    (portsQuiet (portIn PortState.enabled sG) = true ∧ gateReady (portIn PortState.enabled sG) = true ∧ (portIn PortState.enabled
      sG).domainDown = false ∧ (portIn PortState.enabled sG).bring.reloadBusy = false ∧ allDrained (portIn PortState.enabled sG) = false) ∧
    (portsQuiet prim = true ∧ gateReady prim = true ∧ prim.domainDown = false ∧ prim.bring.reloadBusy = false ∧ allDrained prim = true ∧
      prim.pair.role ≠ Role.none ∧ prim.pair.role ≠ Role.detached) ∧
    (portsQuiet (portIn PortState.drained sG) = true ∧ gateReady (portIn PortState.drained sG) = true ∧ (portIn PortState.drained
      sG).domainDown = false ∧ (portIn PortState.drained sG).bring.reloadBusy = false ∧ allDrained (portIn PortState.drained sG) = true ∧
      ((portIn PortState.drained sG).pair.role = Role.none ∨ (portIn PortState.drained sG).pair.role = Role.detached) ∧ servingState (portIn
      PortState.drained sG) = true ∧ errorFree (portIn PortState.drained sG) = true) :=
  ⟨by decide +kernel, by decide +kernel, by decide +kernel, by decide +kernel, by decide +kernel, by decide +kernel, by decide +kernel,
    by decide +kernel, by decide +kernel, by decide +kernel, by decide +kernel⟩

theorem witness_ReloadAndRestarts :
    ((sRl true).bring.reloadBusy = true ∧ allDrained (sRl true) = true) ∧
    ((sRl false).bring.reloadBusy = true ∧ allDrained (sRl false) = true) ∧
    ((sr.bring.reloadBusy = false ∨ allDrained sr = false)) ∧
    (((portIn PortState.draining (sRl true)).bring.reloadBusy = false ∨ allDrained (portIn PortState.draining (sRl true)) = false)) ∧
    ((portIn PortState.training (sRl true)).bring.reloadBusy = true ∧ allDrained (portIn PortState.training (sRl true)) = false ∧ (portIn
      PortState.training (sRl true)).bring.reloadSlot = some 3) ∧
    (portsQuiet (gd []) = true ∧ (gd []).fw.germUp = false ∧ (gd []).bring.step ≠ 0 ∧ (gd []).crypt.waits = [] ∧ (gd []).fw.erasing = [] ∧
      (gd []).tier.moves = [] ∧ (∀ (x : Fin 16), (gd []).mcs[x].lost = []) ∧ (gd []).queue.gateHead = (gd []).queue.gateTail) ∧
    (portsQuiet (gd [GermWait.discovery (0 : Fin 4) (0 : Fin 4) 100000]) = true ∧ (gd [GermWait.discovery (0 : Fin 4) (0 : Fin 4)
      100000]).fw.germUp = false ∧ (gd [GermWait.discovery (0 : Fin 4) (0 : Fin 4) 100000]).bring.step ≠ 0 ∧ (gd [GermWait.discovery (0 :
      Fin 4) (0 : Fin 4) 100000]).crypt.waits = [] ∧ (gd [GermWait.discovery (0 : Fin 4) (0 : Fin 4) 100000]).fw.erasing = [] ∧ (gd
      [GermWait.discovery (0 : Fin 4) (0 : Fin 4) 100000]).tier.moves = [] ∧ (∀ (x : Fin 16), (gd [GermWait.discovery (0 : Fin 4) (0 : Fin
      4) 100000]).mcs[x].lost = []) ∧ (gd [GermWait.discovery (0 : Fin 4) (0 : Fin 4) 100000]).queue.gateHead = (gd [GermWait.discovery (0 :
      Fin 4) (0 : Fin 4) 100000]).queue.gateTail) ∧
    (portsQuiet (portIn PortState.enabled (gd [GermWait.discovery (0 : Fin 4) (0 : Fin 4) 3])) = true ∧ (portIn PortState.enabled (gd
      [GermWait.discovery (0 : Fin 4) (0 : Fin 4) 3])).fw.germUp = false ∧ (portIn PortState.enabled (gd [GermWait.discovery (0 : Fin 4) (0
      : Fin 4) 3])).bring.step ≠ 0 ∧ (portIn PortState.enabled (gd [GermWait.discovery (0 : Fin 4) (0 : Fin 4) 3])).crypt.waits = [] ∧
      (portIn PortState.enabled (gd [GermWait.discovery (0 : Fin 4) (0 : Fin 4) 3])).fw.erasing = [] ∧ (portIn PortState.enabled (gd
      [GermWait.discovery (0 : Fin 4) (0 : Fin 4) 3])).tier.moves = [] ∧ (∀ (x : Fin 16), (portIn PortState.enabled (gd [GermWait.discovery
      (0 : Fin 4) (0 : Fin 4) 3])).mcs[x].lost = []) ∧ (portIn PortState.enabled (gd [GermWait.discovery (0 : Fin 4) (0 : Fin 4)
      3])).queue.gateHead = (portIn PortState.enabled (gd [GermWait.discovery (0 : Fin 4) (0 : Fin 4) 3])).queue.gateTail) ∧
    ((case2.bring.released = true ∨ case2.fw.branUp = true)) :=
  ⟨by decide +kernel, by decide +kernel, by decide +kernel, by decide +kernel, by decide +kernel, by decide +kernel, by decide +kernel,
    by decide +kernel, by decide +kernel⟩

theorem witness_RefreshTemperatureCalibration_1 :
    ((sr.mcs[(3 : Fin 16)].state = McState.active ∨ sr.mcs[(3 : Fin 16)].state = McState.powerDown) ∧ 1 < 2 * targetsPer sr ∧ sr.mcs[(3 :
      Fin 16)].refreshing.contains 1 = false) ∧
    ((case3.mcs[(3 : Fin 16)].state = McState.active ∨ case3.mcs[(3 : Fin 16)].state = McState.powerDown) ∧ 1 < 2 * targetsPer case3 ∧
      case3.mcs[(3 : Fin 16)].refreshing.contains 1 = false) ∧
    ((case4.mcs[(3 : Fin 16)].state = McState.active ∨ case4.mcs[(3 : Fin 16)].state = McState.powerDown) ∧ 0 < 2 * targetsPer case4 ∧
      case4.mcs[(3 : Fin 16)].refreshing.contains 0 = false) ∧
    (case5.mcs[(3 : Fin 16)].refreshing.contains 5 = true ∧ (case5.mcs[(3 : Fin 16)].owed.any fun e => e.2 && decide (rowTarget case5 e.1 =
      5)) = false ∧ (∀ row ∈ case5.mcs[(3 : Fin 16)].firstDue, rowTarget case5 row ≠ 5)) ∧
    (case6.mcs[(3 : Fin 16)].refreshing.contains (rowTarget sr 9) = true) ∧
    ((case7.mcs[(3 : Fin 16)].owed.any fun e => decide (e.1 = 9)) = true ∧ case7.mcs[(3 : Fin 16)].refreshing.contains (rowTarget case7 9) =
      true) ∧
    ((case8.mcs[(3 : Fin 16)].owed.any fun e => decide (e.1 = 9)) = true ∧ case8.mcs[(3 : Fin 16)].refreshing.contains (rowTarget case8 9) =
      false) ∧
    (sr.img = some img0 ∧ img0.dpc2 = false ∧ sideband sr.mcs[(3 : Fin 16)].state = true) ∧
    (case10.img = some img0 ∧ img0.dpc2 = false ∧ sideband case10.mcs[(3 : Fin 16)].state = true) ∧
    (case11.img = some img0 ∧ img0.dpc2 = false ∧ sideband case11.mcs[(3 : Fin 16)].state = true) ∧
    (case12.img = some img0 ∧ img0.dpc2 = false ∧ sideband case12.mcs[(3 : Fin 16)].state = true) ∧
    (ksorted (sCal false).mcs[(3 : Fin 16)].cal = true) :=
  ⟨by decide +kernel, by decide +kernel, by decide +kernel, by decide +kernel, by decide +kernel, by decide +kernel, by decide +kernel,
    by decide +kernel, by decide +kernel, by decide +kernel, by decide +kernel, by decide +kernel⟩

theorem witness_RefreshTemperatureCalibration_2 :
    (ksorted (sCal true).mcs[(3 : Fin 16)].cal = true ∧ (sCal true).mcs[(3 : Fin 16)].calRunning = true ∧ inService (sCal true).mcs[(3 : Fin
      16)].state = true) ∧
    (ksorted (sCal true).mcs[(3 : Fin 16)].cal = true ∧ (sCal true).mcs[(3 : Fin 16)].state = McState.active) ∧
    (ksorted case13.mcs[(3 : Fin 16)].cal = true ∧ calSelected case13 (3 : Fin 16) = some (1, 0) ∧ (case13.mcs[(3 : Fin 16)].state =
      McState.active ∨ case13.mcs[(3 : Fin 16)].state = McState.powerDown)) ∧
    (ksorted case14.mcs[(3 : Fin 16)].cal = true ∧ calSelected case14 (3 : Fin 16) = some (calKey 0 0 6 0, 6) ∧ (case14.mcs[(3 : Fin
      16)].state = McState.active ∨ case14.mcs[(3 : Fin 16)].state = McState.powerDown)) ∧
    (ksorted (sSel (place 0 63) id).mcs[(3 : Fin 16)].cal = true ∧ (calSelected (sSel (place 0 63) id) (3 : Fin 16) = none ∨ (sSel (place 0
      63) id).mcs[(3 : Fin 16)].state ≠ McState.active ∧ (sSel (place 0 63) id).mcs[(3 : Fin 16)].state ≠ McState.powerDown)) ∧
    (ksorted case15.mcs[(3 : Fin 16)].cal = true ∧ (calSelected case15 (3 : Fin 16) = none ∨ case15.mcs[(3 : Fin 16)].state ≠ McState.active
      ∧ case15.mcs[(3 : Fin 16)].state ≠ McState.powerDown)) :=
  ⟨by decide +kernel, by decide +kernel, by decide +kernel, by decide +kernel, by decide +kernel, by decide +kernel⟩

theorem witness_ScrubberAndSpareCopies_1 :
    (noInjection sr = true ∧ (sr.mcs[(3 : Fin 16)].scrubRun = false ∨ sr.mcs[(3 : Fin 16)].state ≠ McState.active ∨ sr.domainDown = true ∨
      regField sr (offScrubCfg ↑(3 : Fin 16)) 32 1 = 0)) ∧
    (noInjection (scr id) = true ∧ (scr id).mcs[(3 : Fin 16)].scrubRun = true ∧ (scr id).mcs[(3 : Fin 16)].state = McState.active ∧ (scr
      id).domainDown = false ∧ regField (scr id) (offScrubCfg ↑(3 : Fin 16)) 32 1 ≠ 0 ∧ parityAt Parity.good CtlStage.channel ≠
      ParityKind.fatal ∧ (chanIdle
      { (scr id) with dtime := max (scr id).dtime ((scr id).mcs[(3 : Fin 16)].scrubAt + scrubGapNs (scr id) (3 : Fin 16)) } (3 : Fin 16) =
      true ∨ scrubsInWindow
      { (scr id) with dtime := max (scr id).dtime ((scr id).mcs[(3 : Fin 16)].scrubAt + scrubGapNs (scr id) (3 : Fin 16)) } (3 : Fin 16) <
      regField (scr id) (offScrubCfg ↑(3 : Fin 16)) 16 8) ∧ scrubLine
      { (scr id) with dtime := max (scr id).dtime ((scr id).mcs[(3 : Fin 16)].scrubAt + scrubGapNs (scr id) (3 : Fin 16)) } (3 : Fin 16) 5
      (scr id).mcs[(3 : Fin 16)].scrubPos = some la0 ∧ lineFree
      { (scr id) with dtime := max (scr id).dtime ((scr id).mcs[(3 : Fin 16)].scrubAt + scrubGapNs (scr id) (3 : Fin 16)) } (mpaOf (↑(3 :
      Fin 16) / 2) la0) = true ∧ (readLine (mpaOf (↑(3 : Fin 16) / 2) la0) true (0 : Image) Reader.scrub
      ({ addr := mpaOf (↑(3 : Fin 16) / 2) la0, kind := 1, master := idScrub, access := 10, key := none } : Cap) (perfMc (3 : Fin 16) 7 1
      none
      { { (scr id) with dtime := max (scr id).dtime ((scr id).mcs[(3 : Fin 16)].scrubAt + scrubGapNs (scr id) (3 : Fin 16)) } with mcs := { (scr id) with dtime := max (scr id).dtime ((scr id).mcs[(3 : Fin 16)].scrubAt + scrubGapNs (scr id) (3 : Fin 16)) }.mcs.set (↑(3 : Fin 16)) (have __src := { (scr id) with dtime := max (scr id).dtime ((scr id).mcs[(3 : Fin 16)].scrubAt + scrubGapNs (scr id) (3 : Fin 16)) }.mcs[(3 : Fin 16)]; { __src with scrubAt := { (scr id) with dtime := max (scr id).dtime ((scr id).mcs[(3 : Fin 16)].scrubAt + scrubGapNs (scr id) (3 : Fin 16)) }.dtime, scrubCount := scrubsInWindow { (scr id) with dtime := max (scr id).dtime ((scr id).mcs[(3 : Fin 16)].scrubAt + scrubGapNs (scr id) (3 : Fin 16)) } (3 : Fin 16) + 1 }) (by decide) })).1
      = Decoded.line (fm (rl (scr id) la0).1).1 (fm (rl (scr id) la0).1).2 []) ∧
    (noInjection scE = true ∧ scE.mcs[(3 : Fin 16)].scrubRun = true ∧ scE.mcs[(3 : Fin 16)].state = McState.active ∧ scE.domainDown = false
      ∧ regField scE (offScrubCfg ↑(3 : Fin 16)) 32 1 ≠ 0 ∧ parityAt Parity.good CtlStage.channel ≠ ParityKind.fatal ∧ (chanIdle
      { scE with dtime := max scE.dtime (scE.mcs[(3 : Fin 16)].scrubAt + scrubGapNs scE (3 : Fin 16)) } (3 : Fin 16) = true ∨ scrubsInWindow
      { scE with dtime := max scE.dtime (scE.mcs[(3 : Fin 16)].scrubAt + scrubGapNs scE (3 : Fin 16)) } (3 : Fin 16) < regField scE
      (offScrubCfg ↑(3 : Fin 16)) 16 8) ∧ scrubLine
      { scE with dtime := max scE.dtime (scE.mcs[(3 : Fin 16)].scrubAt + scrubGapNs scE (3 : Fin 16)) } (3 : Fin 16) 5 scE.mcs[(3 : Fin
      16)].scrubPos = some lastLa ∧ lineFree
      { scE with dtime := max scE.dtime (scE.mcs[(3 : Fin 16)].scrubAt + scrubGapNs scE (3 : Fin 16)) } (mpaOf (↑(3 : Fin 16) / 2) lastLa) =
      true ∧ (readLine (mpaOf (↑(3 : Fin 16) / 2) lastLa) true (0 : Image) Reader.scrub
      ({ addr := mpaOf (↑(3 : Fin 16) / 2) lastLa, kind := 1, master := idScrub, access := 10, key := none } : Cap) (perfMc (3 : Fin 16) 7 1
      none
      { { scE with dtime := max scE.dtime (scE.mcs[(3 : Fin 16)].scrubAt + scrubGapNs scE (3 : Fin 16)) } with mcs := { scE with dtime := max scE.dtime (scE.mcs[(3 : Fin 16)].scrubAt + scrubGapNs scE (3 : Fin 16)) }.mcs.set (↑(3 : Fin 16)) (have __src := { scE with dtime := max scE.dtime (scE.mcs[(3 : Fin 16)].scrubAt + scrubGapNs scE (3 : Fin 16)) }.mcs[(3 : Fin 16)]; { __src with scrubAt := { scE with dtime := max scE.dtime (scE.mcs[(3 : Fin 16)].scrubAt + scrubGapNs scE (3 : Fin 16)) }.dtime, scrubCount := scrubsInWindow { scE with dtime := max scE.dtime (scE.mcs[(3 : Fin 16)].scrubAt + scrubGapNs scE (3 : Fin 16)) } (3 : Fin 16) + 1 }) (by decide) })).1
      = Decoded.line (fm rlE.1).1 (fm rlE.1).2 []) ∧
    (noInjection sr = true ∧ chanOf sr (lineBase 0) = (0 : Fin 16) ∧ (sr.mcs[(0 : Fin 16)].state = McState.active ∨ sr.mcs[(0 : Fin
      16)].state = McState.powerDown) ∧ regField sr (offRasCfg ↑(0 : Fin 16)) 8 8 = 0) ∧
    (noInjection case16 = true ∧ chanOf case16 (lineBase 0) = (0 : Fin 16) ∧ (case16.mcs[(0 : Fin 16)].state = McState.active ∨
      case16.mcs[(0 : Fin 16)].state = McState.powerDown) ∧ regField case16 (offRasCfg ↑(0 : Fin 16)) 8 8 = 0) ∧
    (noInjection sr = true ∧ chanOf sr (lineBase 0) ≠ (3 : Fin 16)) ∧
    (flag (goW 1) 63 = true ∧ case17.mcs[(3 : Fin 16)].copy ≠ none) ∧
    (flag (goW 1) 63 = true ∧ case18.mcs[(3 : Fin 16)].copy ≠ none) ∧
    (flag (goW 1) 63 = true ∧ sp2.mcs[(3 : Fin 16)].copy = none ∧ field (regGet (regWrite Half.whole (offSpareCmd ↑(3 : Fin 16)) (goW 1)
      sp2) (offSpareCmd ↑(3 : Fin 16))) 60 3 ≠ 0 ∧ field (regGet (regWrite Half.whole (offSpareCmd ↑(3 : Fin 16)) (goW 1) sp2) (offSpareCmd
      ↑(3 : Fin 16))) 12 2 < (geom sp2).ranks ∧ (spareMask sp2 ↑(3 : Fin 16)).testBit (field (regGet (regWrite Half.whole (offSpareCmd ↑(3 :
      Fin 16)) (goW 1) sp2) (offSpareCmd ↑(3 : Fin 16))) 12 2) = false ∧ sp2.mcs[(3 : Fin 16)].remaps.length < 4 ∧ (usableSpares (regWrite
      Half.whole (offSpareCmd ↑(3 : Fin 16)) (goW 1) sp2) (3 : Fin 16) (field (regGet (regWrite Half.whole (offSpareCmd ↑(3 : Fin 16)) (goW
      1) sp2) (offSpareCmd ↑(3 : Fin 16))) 12 2)).head? = some (field (regGet (regWrite Half.whole (offSpareCmd ↑(3 : Fin 16)) (goW 1) sp2)
      (offSpareCmd ↑(3 : Fin 16))) 10 2)) ∧
    (flag (goW 2) 63 = true ∧ sp2.mcs[(3 : Fin 16)].copy = none ∧ field (regGet (regWrite Half.whole (offSpareCmd ↑(3 : Fin 16)) (goW 2)
      sp2) (offSpareCmd ↑(3 : Fin 16))) 60 3 ≠ 0 ∧ field (regGet (regWrite Half.whole (offSpareCmd ↑(3 : Fin 16)) (goW 2) sp2) (offSpareCmd
      ↑(3 : Fin 16))) 12 2 < (geom sp2).ranks ∧ (spareMask sp2 ↑(3 : Fin 16)).testBit (field (regGet (regWrite Half.whole (offSpareCmd ↑(3 :
      Fin 16)) (goW 2) sp2) (offSpareCmd ↑(3 : Fin 16))) 12 2) = false ∧ sp2.mcs[(3 : Fin 16)].remaps.length < 4 ∧ (usableSpares (regWrite
      Half.whole (offSpareCmd ↑(3 : Fin 16)) (goW 2) sp2) (3 : Fin 16) (field (regGet (regWrite Half.whole (offSpareCmd ↑(3 : Fin 16)) (goW
      2) sp2) (offSpareCmd ↑(3 : Fin 16))) 12 2)).head? = some (field (regGet (regWrite Half.whole (offSpareCmd ↑(3 : Fin 16)) (goW 2) sp2)
      (offSpareCmd ↑(3 : Fin 16))) 10 2)) ∧
    ((sCp (kc true 6080)).mcs[(3 : Fin 16)].copy = some (kc true 6080) ∧ (sCp (kc true 6080)).mcs[(3 : Fin 16)].state = McState.active ∧
      (sCp (kc true 6080)).domainDown = false ∧ entering (sCp (kc true 6080)) = false ∧ noInjection (sCp (kc true 6080)) = true ∧ parityAt
      Parity.good CtlStage.channel ≠ ParityKind.fatal ∧ lineFree (sCp (kc true 6080)) (mpaOf (↑(3 : Fin 16) / 2) (kc true 6080).ptr) = true
      ∧ (readLine (mpaOf (↑(3 : Fin 16) / 2) (kc true 6080).ptr) true (0 : Image) Reader.copy
      ({ addr := mpaOf (↑(3 : Fin 16) / 2) (kc true 6080).ptr, kind := 1, master := idMigration, access := 8, key := none } : Cap) (sCp (kc
      true 6080))).1 = Decoded.line (fm (rc (kc true 6080)).1).1 (fm (rc (kc true 6080)).1).2 (fixed (rc (kc true 6080)).1) ∧ copyLine (geom
      (sCp (kc true 6080))) (3 : Fin 16) (kc true 6080) ((kc true 6080).ptr + 64) < copyEnd (geom (sCp (kc true 6080))) (kc true 6080)) ∧
    ((sCp (kc false 64)).mcs[(3 : Fin 16)].copy = some (kc false 64) ∧ (sCp (kc false 64)).mcs[(3 : Fin 16)].state = McState.active ∧ (sCp
      (kc false 64)).domainDown = false ∧ entering (sCp (kc false 64)) = false ∧ noInjection (sCp (kc false 64)) = true ∧ parityAt
      Parity.good CtlStage.channel ≠ ParityKind.fatal ∧ lineFree (sCp (kc false 64)) (mpaOf (↑(3 : Fin 16) / 2) (kc false 64).ptr) = true ∧
      (readLine (mpaOf (↑(3 : Fin 16) / 2) (kc false 64).ptr) true (0 : Image) Reader.copy
      ({ addr := mpaOf (↑(3 : Fin 16) / 2) (kc false 64).ptr, kind := 1, master := idMigration, access := 8, key := none } : Cap) (sCp (kc
      false 64))).1 = Decoded.line (fm (rc (kc false 64)).1).1 (fm (rc (kc false 64)).1).2 (fixed (rc (kc false 64)).1) ∧ copyLine (geom
      (sCp (kc false 64))) (3 : Fin 16) (kc false 64) ((kc false 64).ptr + 64) < copyEnd (geom (sCp (kc false 64))) (kc false 64)) :=
  ⟨by decide +kernel, by decide +kernel, by decide +kernel, by decide +kernel, by decide +kernel, by decide +kernel, by decide +kernel,
    by decide +kernel, by decide +kernel, by decide +kernel, by decide +kernel, by decide +kernel⟩

theorem witness_ScrubberAndSpareCopies_2 :
    ((sCp (kc true (eP true))).mcs[(3 : Fin 16)].copy = some (kc true (eP true)) ∧ (sCp (kc true (eP true))).mcs[(3 : Fin 16)].state =
      McState.active ∧ (sCp (kc true (eP true))).domainDown = false ∧ entering (sCp (kc true (eP true))) = false ∧ noInjection (sCp (kc true
      (eP true))) = true ∧ parityAt Parity.good CtlStage.channel ≠ ParityKind.fatal ∧ lineFree (sCp (kc true (eP true))) (mpaOf (↑(3 : Fin
      16) / 2) (kc true (eP true)).ptr) = true ∧ copyEnd (geom (sCp (kc true (eP true)))) (kc true (eP true)) ≤ copyLine (geom (sCp (kc true
      (eP true)))) (3 : Fin 16) (kc true (eP true)) ((kc true (eP true)).ptr + 64)) ∧
    ((sCp (kc false (eP false))).mcs[(3 : Fin 16)].copy = some (kc false (eP false)) ∧ (sCp (kc false (eP false))).mcs[(3 : Fin 16)].state =
      McState.active ∧ (sCp (kc false (eP false))).domainDown = false ∧ entering (sCp (kc false (eP false))) = false ∧ noInjection (sCp (kc
      false (eP false))) = true ∧ parityAt Parity.good CtlStage.channel ≠ ParityKind.fatal ∧ lineFree (sCp (kc false (eP false))) (mpaOf
      (↑(3 : Fin 16) / 2) (kc false (eP false)).ptr) = true ∧ copyEnd (geom (sCp (kc false (eP false)))) (kc false (eP false)) ≤ copyLine
      (geom (sCp (kc false (eP false)))) (3 : Fin 16) (kc false (eP false)) ((kc false (eP false)).ptr + 64)) ∧
    ((sp2.mcs[(3 : Fin 16)].copy = none ∨ sp2.mcs[(3 : Fin 16)].state ≠ McState.active)) :=
  ⟨by decide +kernel, by decide +kernel, by decide +kernel⟩

end OnChannels

/-! ### The Tiller link (chapter 11) -/

namespace OnTiller

def T0 (st : TilState) (f : Tiller → Tiller := id) : State := withTil (fun t => f { t with state := st, enteredAt := 9 }) (regSet offTilCtl 0 sr)
def case1 : State := (T0 .attest fun t => { t with mirrors := [⟨1, 0, 3, none, 0, 0, 0⟩], delivered := [(.leave, 3)], queue := [.leave] })
def case2 : State := (T0 .up fun t => { t with quads := 0xF })
def case3 : State := (T0 .init fun t => { t with quads := 0xD, lostAt := [(1, 6)] })
def case4 : State := (T0 .up fun t => { t with quads := 0xD, lostAt := [(1, 6)] })
def case5 : State := (T0 .up fun t => { t with mirrors := [⟨1, 0, 3, none, 0, 0, 0⟩] })
def tf (n : Nat) (r : Nat) : TxFlit := ⟨false, n, 5, n = 11, false, false, r⟩
def ctl (ack : Nat) (av nak : Bool) (ns : Nat) : FlitCtl := ⟨ack, av, nak, ns, 3, 0⟩
def R0 (f : Tiller → Tiller := id) : State := T0 .up fun t => f { t with txNext := 13, replayBuf := [tf 10 0, tf 11 1, tf 12 7], expect := 4095 }
def rx (c : FlitCtl) : RxFlit := ⟨c, false, 3⟩
def C0 (st : TilState) (cr : Credit) : State := T0 st fun t => { t with credits := t.credits.set 3 cr }
def case6 : State := (R0 fun t => { t with replayBuf := [tf 10 0, tf 11 1, tf 12 8] })
def ci : RxFlit := rx (ctl 8 false false 11)
def case7 : State := (R0 fun t => { t with rxStarted := true })
def m1 : TilMsg := .spdm [1,2,3]
def m2 : TilMsg := .lineFetch 0x10 5 0xA6 0x1240
def m3 : TilMsg := .mirrorWr ⟨false, false, false, 1, 0x10, 0, 7, 1, 9, 0xA6, 0x1240⟩ 0x1234
def pl1 : BitVec 1888 := dataPayload (msgTxSlots m1)
def pl2 : BitVec 1888 := dataPayload (msgTxSlots m2 ++ msgTxSlots (.lineData 3 0 0x1234))
def pl3 : BitVec 1888 := dataPayload (msgTxSlots m2 ++ (msgTxSlots m3).take 3)
def kk : LinkKey := ⟨5, 6, 77⟩
def RK (rest : List HeldFlit) : State := R0 fun t => { t with rxKey := some kk, rxStarted := true, rxGroup := 3, heldFlits := rest }
def encPl (ps : List (BitVec 1888)) : List (BitVec 1888) :=
  (cutBytes 236 ps.length (gcmCtr kk 3 (ps.flatMap payloadBytes))).map bytesPayload
def held1 : List HeldFlit := [⟨4093, (encPl [pl2, pl3])[0]!, 8⟩, ⟨4094, (encPl [pl2, pl3])[1]!, 9⟩]
def macG : BitVec 1888 := macPayload (gcmTag kk 3 (groupAad [4093, 4094] 4095) (held1.flatMap fun f => payloadBytes f.payload)) 3 2
def case8 : State := (R0 fun t => { t with nakOpen := true, nakAt := 77 })

theorem witness_TillerLinkStates_1 :
    (tablesOrdered (T0 TilState.down) = true ∧ (T0 TilState.down).til.state = TilState.down ∧ flag (regGet (T0 TilState.down) offTilCtl) 1 =
      false) ∧
    (tablesOrdered (T0 TilState.training) = true ∧ (T0 TilState.training).til.state = TilState.training) ∧
    (tablesOrdered (T0 TilState.align) = true ∧ (T0 TilState.align).til.state = TilState.align) ∧
    (tablesOrdered case1 = true ∧ case1.til.state = TilState.attest) ∧
    (tablesOrdered (T0 TilState.held) = true ∧ flag (0 : Word) 0 = false ∧ flag (0 : Word) 1 = false ∧ (T0 TilState.held).til.state =
      TilState.held) ∧
    (tablesOrdered (regSet offTilCtl (2 : Word) (T0 TilState.held)) = true ∧ flag (0 : Word) 0 = false ∧ flag (0 : Word) 1 = false ∧ (regSet
      offTilCtl (2 : Word) (T0 TilState.held)).til.state = TilState.held) ∧
    (tablesOrdered (T0 TilState.down) = true ∧ flag (2 : Word) 0 = false ∧ flag (2 : Word) 1 = true ∧ (T0 TilState.down).til.state =
      TilState.down) ∧
    (tablesOrdered (T0 TilState.up) = true ∧ flag (1 : Word) 0 = true ∧ (T0 TilState.up).til.state = TilState.up) ∧
    (tablesOrdered (T0 TilState.up) = true ∧ flag (3 : Word) 0 = true ∧ (T0 TilState.up).til.state = TilState.up) ∧
    (tablesOrdered case2 = true ∧ tilLive case2 = true ∧ case2.til.quads.getLsbD ↑(3 : Fin 4) = true) ∧
    (tablesOrdered case3 = true ∧ tilLive case3 = true ∧ ksorted case3.til.lostAt = true) ∧
    (tablesOrdered case4 = true ∧ tilLive case4 = true ∧ kfind case4.til.lostAt ↑(1 : Fin 4) = some 6) :=
  ⟨by decide +kernel, by decide +kernel, by decide +kernel, by decide +kernel, by decide +kernel, by decide +kernel, by decide +kernel,
    by decide +kernel, by decide +kernel, by decide +kernel, by decide +kernel, by decide +kernel⟩

theorem witness_TillerLinkStates_2 :
    (tablesOrdered case5 = true ∧ tilLive case5 = true ∧ (case5.til.mirrors ≠ [] ∨ case5.til.fetches ≠ [])) ∧
    (tablesOrdered (T0 TilState.up) = true ∧ (T0 TilState.up).til.state ≠ TilState.down ∧ ((T0 TilState.up).til.state ≠ TilState.held ∨ flag
      (regGet (T0 TilState.up) offTilCtl) 1 = true)) ∧
    (tablesOrdered (T0 TilState.up) = true ∧ (T0 TilState.up).til.state ≠ TilState.training) ∧
    (tablesOrdered (T0 TilState.up) = true ∧ (T0 TilState.up).til.state ≠ TilState.align) ∧
    (tablesOrdered (T0 TilState.up) = true ∧ (T0 TilState.up).til.state ≠ TilState.attest) :=
  ⟨by decide +kernel, by decide +kernel, by decide +kernel, by decide +kernel, by decide +kernel⟩

theorem witness_TillerReceiver_1 :
    (tablesOrdered (C0 TilState.up ({ adv := 100, cons := 20, retSeen := 0, ret := 5, told := 0 } : Credit)) = true ∧ tilReceives (C0
      TilState.up ({ adv := 100, cons := 20, retSeen := 0, ret := 5, told := 0 } : Credit)) = true ∧ (rx
      ({ ack := 0, ackValid := false, nak := false, nakSeq := 0, crSel := (3 : Fin 8), crCount := 12 } : FlitCtl)).ctl.ackValid = false ∧
      (rx ({ ack := 0, ackValid := false, nak := false, nakSeq := 0, crSel := (3 : Fin 8), crCount := 12 } : FlitCtl)).ctl.nak = false ∧ (rx
      ({ ack := 0, ackValid := false, nak := false, nakSeq := 0, crSel := (3 : Fin 8), crCount := 12 } : FlitCtl)).reserved = false ∧ ((rx
      ({ ack := 0, ackValid := false, nak := false, nakSeq := 0, crSel := (3 : Fin 8), crCount := 12 } : FlitCtl)).ctl.crCount + 65536 - (C0
      TilState.up ({ adv := 100, cons := 20, retSeen := 0, ret := 5, told := 0 } : Credit)).til.credits[(rx
      ({ ack := 0, ackValid := false, nak := false, nakSeq := 0, crSel := (3 : Fin 8), crCount := 12 } : FlitCtl)).ctl.crSel].retSeen) %
      65536 ≤ ((C0 TilState.up ({ adv := 100, cons := 20, retSeen := 0, ret := 5, told := 0 } : Credit)).til.credits[(rx
      ({ ack := 0, ackValid := false, nak := false, nakSeq := 0, crSel := (3 : Fin 8), crCount := 12 } : FlitCtl)).ctl.crSel].cons + 65536 -
      (C0 TilState.up ({ adv := 100, cons := 20, retSeen := 0, ret := 5, told := 0 } : Credit)).til.credits[(rx
      ({ ack := 0, ackValid := false, nak := false, nakSeq := 0, crSel := (3 : Fin 8), crCount := 12 } : FlitCtl)).ctl.crSel].retSeen) %
      65536) ∧
    (tablesOrdered (C0 TilState.init ({ adv := 100, cons := 20, retSeen := 0, ret := 5, told := 0 } : Credit)) = true ∧ tilReceives (C0
      TilState.init ({ adv := 100, cons := 20, retSeen := 0, ret := 5, told := 0 } : Credit)) = true ∧ (rx
      ({ ack := 0, ackValid := false, nak := false, nakSeq := 0, crSel := (3 : Fin 8), crCount := 12 } : FlitCtl)).ctl.ackValid = false ∧
      (rx ({ ack := 0, ackValid := false, nak := false, nakSeq := 0, crSel := (3 : Fin 8), crCount := 12 } : FlitCtl)).ctl.nak = false ∧ (rx
      ({ ack := 0, ackValid := false, nak := false, nakSeq := 0, crSel := (3 : Fin 8), crCount := 12 } : FlitCtl)).reserved = false ∧ ((rx
      ({ ack := 0, ackValid := false, nak := false, nakSeq := 0, crSel := (3 : Fin 8), crCount := 12 } : FlitCtl)).ctl.crCount + 65536 - (C0
      TilState.init ({ adv := 100, cons := 20, retSeen := 0, ret := 5, told := 0 } : Credit)).til.credits[(rx
      ({ ack := 0, ackValid := false, nak := false, nakSeq := 0, crSel := (3 : Fin 8), crCount := 12 } : FlitCtl)).ctl.crSel].retSeen) %
      65536 ≤ ((C0 TilState.init ({ adv := 100, cons := 20, retSeen := 0, ret := 5, told := 0 } : Credit)).til.credits[(rx
      ({ ack := 0, ackValid := false, nak := false, nakSeq := 0, crSel := (3 : Fin 8), crCount := 12 } : FlitCtl)).ctl.crSel].cons + 65536 -
      (C0 TilState.init ({ adv := 100, cons := 20, retSeen := 0, ret := 5, told := 0 } : Credit)).til.credits[(rx
      ({ ack := 0, ackValid := false, nak := false, nakSeq := 0, crSel := (3 : Fin 8), crCount := 12 } : FlitCtl)).ctl.crSel].retSeen) %
      65536) ∧
    (tablesOrdered (C0 TilState.init ({ adv := 100, cons := 20, retSeen := 0, ret := 5, told := 0 } : Credit)) = true ∧ tilReceives (C0
      TilState.init ({ adv := 100, cons := 20, retSeen := 0, ret := 5, told := 0 } : Credit)) = true ∧ (rx
      ({ ack := 0, ackValid := false, nak := false, nakSeq := 0, crSel := (3 : Fin 8), crCount := 22 } : FlitCtl)).ctl.ackValid = false ∧
      (rx ({ ack := 0, ackValid := false, nak := false, nakSeq := 0, crSel := (3 : Fin 8), crCount := 22 } : FlitCtl)).ctl.nak = false ∧
      ((rx ({ ack := 0, ackValid := false, nak := false, nakSeq := 0, crSel := (3 : Fin 8), crCount := 22 } : FlitCtl)).reserved = true ∨
      ¬((rx ({ ack := 0, ackValid := false, nak := false, nakSeq := 0, crSel := (3 : Fin 8), crCount := 22 } : FlitCtl)).ctl.crCount + 65536
      - (C0 TilState.init ({ adv := 100, cons := 20, retSeen := 0, ret := 5, told := 0 } : Credit)).til.credits[(rx
      ({ ack := 0, ackValid := false, nak := false, nakSeq := 0, crSel := (3 : Fin 8), crCount := 22 } : FlitCtl)).ctl.crSel].retSeen) %
      65536 ≤ ((C0 TilState.init ({ adv := 100, cons := 20, retSeen := 0, ret := 5, told := 0 } : Credit)).til.credits[(rx
      ({ ack := 0, ackValid := false, nak := false, nakSeq := 0, crSel := (3 : Fin 8), crCount := 22 } : FlitCtl)).ctl.crSel].cons + 65536 -
      (C0 TilState.init ({ adv := 100, cons := 20, retSeen := 0, ret := 5, told := 0 } : Credit)).til.credits[(rx
      ({ ack := 0, ackValid := false, nak := false, nakSeq := 0, crSel := (3 : Fin 8), crCount := 22 } : FlitCtl)).ctl.crSel].retSeen) %
      65536)) ∧
    (tablesOrdered (C0 TilState.attest ({ adv := 100, cons := 20, retSeen := 0, ret := 5, told := 0 } : Credit)) = true ∧ tilReceives (C0
      TilState.attest ({ adv := 100, cons := 20, retSeen := 0, ret := 5, told := 0 } : Credit)) = true ∧
      ({ ctl := ({ ack := 0, ackValid := false, nak := false, nakSeq := 0, crSel := (3 : Fin 8), crCount := 5 } : FlitCtl), reserved := true, corrected := 0 }
      : RxFlit).ctl.ackValid = false ∧
      ({ ctl := ({ ack := 0, ackValid := false, nak := false, nakSeq := 0, crSel := (3 : Fin 8), crCount := 5 } : FlitCtl), reserved := true, corrected := 0 }
      : RxFlit).ctl.nak = false ∧
      (({ ctl := ({ ack := 0, ackValid := false, nak := false, nakSeq := 0, crSel := (3 : Fin 8), crCount := 5 } : FlitCtl), reserved := true, corrected := 0 }
      : RxFlit).reserved = true ∨
      ¬(({ ctl := ({ ack := 0, ackValid := false, nak := false, nakSeq := 0, crSel := (3 : Fin 8), crCount := 5 } : FlitCtl), reserved := true, corrected := 0 }
      : RxFlit).ctl.crCount + 65536 - (C0 TilState.attest ({ adv := 100, cons := 20, retSeen := 0, ret := 5, told := 0 } :
      Credit)).til.credits[({ ctl := ({ ack := 0, ackValid := false, nak := false, nakSeq := 0, crSel := (3 : Fin 8), crCount := 5 } : FlitCtl), reserved := true, corrected := 0 }
      : RxFlit).ctl.crSel].retSeen) % 65536 ≤ ((C0 TilState.attest ({ adv := 100, cons := 20, retSeen := 0, ret := 5, told := 0 } :
      Credit)).til.credits[({ ctl := ({ ack := 0, ackValid := false, nak := false, nakSeq := 0, crSel := (3 : Fin 8), crCount := 5 } : FlitCtl), reserved := true, corrected := 0 }
      : RxFlit).ctl.crSel].cons + 65536 - (C0 TilState.attest ({ adv := 100, cons := 20, retSeen := 0, ret := 5, told := 0 } :
      Credit)).til.credits[({ ctl := ({ ack := 0, ackValid := false, nak := false, nakSeq := 0, crSel := (3 : Fin 8), crCount := 5 } : FlitCtl), reserved := true, corrected := 0 }
      : RxFlit).ctl.crSel].retSeen) % 65536)) ∧
    (tablesOrdered R0 = true ∧ tilFlows R0 = true ∧ (rx (ctl 11 true false 0)).reserved = false ∧ R0.til.replayBuf.length < 2049 ∧
      R0.til.credits[(rx (ctl 11 true false 0)).ctl.crSel].retSeen < 65536 ∧ (rx (ctl 11 true false 0)).ctl.crCount = R0.til.credits[(rx
      (ctl 11 true false 0)).ctl.crSel].retSeen ∧ (rx (ctl 11 true false 0)).ctl.ackValid = true ∧ (rx (ctl 11 true false 0)).ctl.nak =
      false ∧ ((rx (ctl 11 true false 0)).ctl.ack + 1 + 4096 - (R0.til.txNext + 4096 - R0.til.replayBuf.length % 4096) % 4096) % 4096 ≤
      R0.til.replayBuf.length) ∧
    (tablesOrdered R0 = true ∧ tilFlows R0 = true ∧ (rx (ctl 10 true false 0)).reserved = false ∧ R0.til.replayBuf.length < 2049 ∧
      R0.til.credits[(rx (ctl 10 true false 0)).ctl.crSel].retSeen < 65536 ∧ (rx (ctl 10 true false 0)).ctl.crCount = R0.til.credits[(rx
      (ctl 10 true false 0)).ctl.crSel].retSeen ∧ (rx (ctl 10 true false 0)).ctl.ackValid = true ∧ (rx (ctl 10 true false 0)).ctl.nak =
      false ∧ ((rx (ctl 10 true false 0)).ctl.ack + 1 + 4096 - (R0.til.txNext + 4096 - R0.til.replayBuf.length % 4096) % 4096) % 4096 ≤
      R0.til.replayBuf.length) ∧
    (tablesOrdered R0 = true ∧ tilFlows R0 = true ∧ (rx (ctl 9 true false 0)).reserved = false ∧ R0.til.replayBuf.length < 2049 ∧
      R0.til.credits[(rx (ctl 9 true false 0)).ctl.crSel].retSeen < 65536 ∧ (rx (ctl 9 true false 0)).ctl.crCount = R0.til.credits[(rx (ctl
      9 true false 0)).ctl.crSel].retSeen ∧ (rx (ctl 9 true false 0)).ctl.ackValid = true ∧ (rx (ctl 9 true false 0)).ctl.nak = false ∧ ((rx
      (ctl 9 true false 0)).ctl.ack + 1 + 4096 - (R0.til.txNext + 4096 - R0.til.replayBuf.length % 4096) % 4096) % 4096 ≤
      R0.til.replayBuf.length) ∧
    (tablesOrdered R0 = true ∧ tilFlows R0 = true ∧ (rx (ctl 13 true false 0)).reserved = false ∧ R0.til.replayBuf.length < 2049 ∧
      R0.til.credits[(rx (ctl 13 true false 0)).ctl.crSel].retSeen < 65536 ∧ (rx (ctl 13 true false 0)).ctl.crCount = R0.til.credits[(rx
      (ctl 13 true false 0)).ctl.crSel].retSeen ∧ (rx (ctl 13 true false 0)).ctl.ackValid = true ∧ R0.til.replayBuf.length < ((rx (ctl 13
      true false 0)).ctl.ack + 1 + 4096 - (R0.til.txNext + 4096 - R0.til.replayBuf.length % 4096) % 4096) % 4096) ∧
    (tablesOrdered R0 = true ∧ tilFlows R0 = true ∧ (rx (ctl 8 true false 0)).reserved = false ∧ R0.til.replayBuf.length < 2049 ∧
      R0.til.credits[(rx (ctl 8 true false 0)).ctl.crSel].retSeen < 65536 ∧ (rx (ctl 8 true false 0)).ctl.crCount = R0.til.credits[(rx (ctl
      8 true false 0)).ctl.crSel].retSeen ∧ (rx (ctl 8 true false 0)).ctl.ackValid = true ∧ R0.til.replayBuf.length < ((rx (ctl 8 true false
      0)).ctl.ack + 1 + 4096 - (R0.til.txNext + 4096 - R0.til.replayBuf.length % 4096) % 4096) % 4096) ∧
    (tablesOrdered case6 = true ∧ tilFlows case6 = true ∧ (rx (ctl 8 false true 12)).reserved = false ∧ case6.til.replayBuf.length < 2049 ∧
      case6.til.credits[(rx (ctl 8 false true 12)).ctl.crSel].retSeen < 65536 ∧ (rx (ctl 8 false true 12)).ctl.crCount =
      case6.til.credits[(rx (ctl 8 false true 12)).ctl.crSel].retSeen ∧ (rx (ctl 8 false true 12)).ctl.ackValid = false ∧ (rx (ctl 8 false
      true 12)).ctl.nak = true ∧ (rx (ctl 8 false true 12)).ctl.nakSeq ≠ case6.til.txNext ∧ List.findIdx? (fun x => decide (x.seq = (rx (ctl
      8 false true 12)).ctl.nakSeq)) case6.til.replayBuf = some 2 ∧ case6.til.replayBuf[2]? = some (tf 12 8) ∧ 8 ≤ (tf 12 8).replays) ∧
    (tablesOrdered R0 = true ∧ tilFlows R0 = true ∧ (rx (ctl 8 false true 11)).reserved = false ∧ R0.til.replayBuf.length < 2049 ∧
      R0.til.credits[(rx (ctl 8 false true 11)).ctl.crSel].retSeen < 65536 ∧ (rx (ctl 8 false true 11)).ctl.crCount = R0.til.credits[(rx
      (ctl 8 false true 11)).ctl.crSel].retSeen ∧ (rx (ctl 8 false true 11)).ctl.ackValid = false ∧ (rx (ctl 8 false true 11)).ctl.nak =
      true ∧ (rx (ctl 8 false true 11)).ctl.nakSeq ≠ R0.til.txNext ∧ List.findIdx? (fun x => decide (x.seq = (rx (ctl 8 false true
      11)).ctl.nakSeq)) R0.til.replayBuf = some 1 ∧ R0.til.replayBuf[1]? = some (tf 11 1) ∧ (tf 11 1).replays < 8 ∧ noInjection R0 = true) ∧
    (tablesOrdered R0 = true ∧ tilFlows R0 = true ∧ ci.reserved = false ∧ R0.til.replayBuf.length < 2049 ∧
      R0.til.credits[ci.ctl.crSel].retSeen < 65536 ∧ ci.ctl.crCount = R0.til.credits[ci.ctl.crSel].retSeen ∧ ci.ctl.ackValid = false ∧
      ci.ctl.nak = false ∧ 4094 ≠ R0.til.expect) :=
  ⟨by decide +kernel, by decide +kernel, by decide +kernel, by decide +kernel, by decide +kernel, by decide +kernel, by decide +kernel,
    by decide +kernel, by decide +kernel, by decide +kernel, by decide +kernel, by decide +kernel⟩

theorem witness_TillerReceiver_2 :
    (tablesOrdered case7 = true ∧ tilFlows case7 = true ∧ ci.reserved = false ∧ case7.til.replayBuf.length < 2049 ∧
      case7.til.credits[ci.ctl.crSel].retSeen < 65536 ∧ ci.ctl.crCount = case7.til.credits[ci.ctl.crSel].retSeen ∧ ci.ctl.ackValid = false ∧
      ci.ctl.nak = false ∧ case7.til.rxStarted = true) ∧
    (tablesOrdered R0 = true ∧ tilFlows R0 = true ∧ ci.reserved = false ∧ R0.til.replayBuf.length < 2049 ∧
      R0.til.credits[ci.ctl.crSel].retSeen < 65536 ∧ ci.ctl.crCount = R0.til.credits[ci.ctl.crSel].retSeen ∧ ci.ctl.ackValid = false ∧
      ci.ctl.nak = false ∧ R0.til.rxStarted = false ∧ R0.til.rxKey = none ∧ assemble ((R0.til.rxPart ++ payloadSlots R0.dtime (payloadBytes
      pl1)).length + 1) [] (R0.til.rxPart ++ payloadSlots R0.dtime (payloadBytes pl1)) = some ([(m1, 0)], []) ∧ ([(m1, 0)].all fun m =>
      isSpdm m.1) = true) ∧
    (tablesOrdered R0 = true ∧ tilFlows R0 = true ∧ ci.reserved = false ∧ R0.til.replayBuf.length < 2049 ∧
      R0.til.credits[ci.ctl.crSel].retSeen < 65536 ∧ ci.ctl.crCount = R0.til.credits[ci.ctl.crSel].retSeen ∧ ci.ctl.ackValid = false ∧
      ci.ctl.nak = false ∧ R0.til.rxStarted = false ∧ R0.til.rxKey = none ∧ assemble ((R0.til.rxPart ++ payloadSlots R0.dtime (payloadBytes
      pl2)).length + 1) [] (R0.til.rxPart ++ payloadSlots R0.dtime (payloadBytes pl2)) = some ([(m2, 0), (TilMsg.lineData 3 0 (4660 : Line),
      0)], []) ∧ ([(m2, 0), (TilMsg.lineData 3 0 (4660 : Line), 0)].all fun m => isSpdm m.1) = false) ∧
    (tilReceives R0 = true ∧ (false = true ∨ 0 < 4)) ∧
    (tilReceives (T0 TilState.init) = true) ∧
    (tablesOrdered case8 = true ∧ tilFlows case8 = true ∧ ci.reserved = false ∧ case8.til.replayBuf.length < 2049 ∧
      case8.til.credits[ci.ctl.crSel].retSeen < 65536 ∧ ci.ctl.crCount = case8.til.credits[ci.ctl.crSel].retSeen ∧ case8.til.nakOpen = true
      ∧ case8.til.nakPending = false) :=
  ⟨by decide +kernel, by decide +kernel, by decide +kernel, by decide +kernel, by decide +kernel, by decide +kernel⟩

theorem witness_TillerReceiver_3 :
    tablesOrdered (RK held1) = true ∧ tilFlows (RK held1) = true ∧ ci.reserved = false ∧ (RK held1).til.replayBuf.length < 2049 ∧ (RK
      held1).til.credits[ci.ctl.crSel].retSeen < 65536 ∧ ci.ctl.crCount = (RK held1).til.credits[ci.ctl.crSel].retSeen ∧ ci.ctl.ackValid =
      false ∧ ci.ctl.nak = false ∧ (RK held1).til.rxKey = some kk ∧ (RK held1).til.rxStarted = true ∧ (RK held1).til.heldFlits ≠ [] ∧
      ¬(bytesToNatBE (List.take 16 (payloadBytes (7 : BitVec 1888))) = BitVec.toNat (gcmTag kk (RK held1).til.rxGroup (groupAad (List.map
      (fun x => x.seq) (RK held1).til.heldFlits) (RK held1).til.expect) (List.flatMap (fun f => payloadBytes f.payload) (RK
      held1).til.heldFlits)) ∧ bytesToNat (List.take 8 (List.drop 16 (payloadBytes (7 : BitVec 1888)))) = (RK held1).til.rxGroup ∧
      BitVec.toNat ((payloadBytes (7 : BitVec 1888)).getD 24 (0 : Byte)) = (RK held1).til.heldFlits.length) :=
  by decide +kernel

theorem witness_TillerReceiver_4 :
    tablesOrdered (RK held1) = true ∧ tilFlows (RK held1) = true ∧ ci.reserved = false ∧ (RK held1).til.replayBuf.length < 2049 ∧ (RK
      held1).til.credits[ci.ctl.crSel].retSeen < 65536 ∧ ci.ctl.crCount = (RK held1).til.credits[ci.ctl.crSel].retSeen ∧ ci.ctl.ackValid =
      false ∧ ci.ctl.nak = false ∧ (RK held1).til.rxKey = some kk ∧ (RK held1).til.rxStarted = true ∧ (RK held1).til.heldFlits ≠ [] ∧
      bytesToNatBE (List.take 16 (payloadBytes macG)) = BitVec.toNat (gcmTag kk (RK held1).til.rxGroup (groupAad (List.map (fun x => x.seq)
      (RK held1).til.heldFlits) (RK held1).til.expect) (List.flatMap (fun f => payloadBytes f.payload) (RK held1).til.heldFlits)) ∧
      bytesToNat (List.take 8 (List.drop 16 (payloadBytes macG))) = (RK held1).til.rxGroup ∧ BitVec.toNat ((payloadBytes macG).getD 24 (0 :
      Byte)) = (RK held1).til.heldFlits.length ∧ assemble (((RK held1).til.rxPart ++ List.flatMap (fun p => payloadSlots p.1 p.2) ((List.map
      (fun x => x.time) (RK held1).til.heldFlits).zip (cutBytes 236 (RK held1).til.heldFlits.length (gcmCtr kk (RK held1).til.rxGroup
      (List.flatMap (fun f => payloadBytes f.payload) (RK held1).til.heldFlits))))).length + 1) [] ((RK held1).til.rxPart ++ List.flatMap
      (fun p => payloadSlots p.1 p.2) ((List.map (fun x => x.time) (RK held1).til.heldFlits).zip (cutBytes 236 (RK
      held1).til.heldFlits.length (gcmCtr kk (RK held1).til.rxGroup (List.flatMap (fun f => payloadBytes f.payload) (RK
      held1).til.heldFlits))))) = some ([(m2, 8), (TilMsg.lineData 3 0 (4660 : Line), 8), (m2, 9), (m3, 9)], []) :=
  by decide +kernel

end OnTiller

/-! ### Tiller groups and attestation (chapter 11) -/

namespace OnGroups

def T0 (st : TilState) (f : Tiller → Tiller := id) : State := withTil (fun t => f { t with state := st, enteredAt := 9 }) (regSet offTilCtl 0 sr)
def ctl (ack : Nat) (av nak : Bool) (ns : Nat) : FlitCtl := ⟨ack, av, nak, ns, 3, 0⟩
def cI : FlitCtl := ctl 8 false false 11
def ci : RxFlit := ⟨cI, false, 3⟩
def kk : LinkKey := ⟨5, 6, 77⟩
def initPl (v fl : Nat) (adv : Nat) : BitVec 1888 := bytesPayload (natToBytes 2 v ++ [BitVec.ofNat 8 fl, 0] ++ (List.range 8).flatMap (fun i => natToBytes 2 (adv + i)) ++ List.replicate 48 0xAB)
def case2 : State := (T0 .init fun t => { t with sentRxSeen := true })
def TD (ms : List (TilMsg × Nat)) (f : Tiller → Tiller := id) : State := T0 .attest fun t => f { t with delivered := ms }
def sp : TilMsg × Nat := (.spdm [7], 5)
def TP : State := { TD [sp] with img := some { img0 with peerId := 5 } }
def case3 : State := TD [sp] fun t => { t with txNew := some kk }
def case4 : State := TD [sp] fun t => { t with txNew := some kk, txStarted := true, txKey := some ⟨1,2,3⟩ }
def case5 : State := TD [sp] fun t => { t with attested := true }
def TU (r : Role) : State := withPair (fun p => { p with role := r }) (T0 .attest fun t => { t with txStarted := true, rxVerified := true })

theorem witness_TillerAttestation_1 :
    (ci.ctl.ackValid = false ∧ ci.ctl.nak = false ∧ ci.reserved = false ∧ (T0 TilState.init).til.credits[ci.ctl.crSel].retSeen < 65536 ∧
      ci.ctl.crCount = (T0 TilState.init).til.credits[ci.ctl.crSel].retSeen ∧ (T0 TilState.init).til.state = TilState.init ∧ ¬(bytesToNat
      (List.take 2 (payloadBytes (initPl 2 0 100))) = 1 ∧ ∀ i < 8, bytesToNat (List.take 2 (List.drop (4 + 2 * i) (payloadBytes (initPl 2 0
      100)))) ≤ 32767)) ∧
    (ci.ctl.ackValid = false ∧ ci.ctl.nak = false ∧ ci.reserved = false ∧ (T0 TilState.init).til.credits[ci.ctl.crSel].retSeen < 65536 ∧
      ci.ctl.crCount = (T0 TilState.init).til.credits[ci.ctl.crSel].retSeen ∧ (T0 TilState.init).til.state = TilState.init ∧ ¬(bytesToNat
      (List.take 2 (payloadBytes (initPl 1 0 32767))) = 1 ∧ ∀ i < 8, bytesToNat (List.take 2 (List.drop (4 + 2 * i) (payloadBytes (initPl 1
      0 32767)))) ≤ 32767)) ∧
    (ci.ctl.ackValid = false ∧ ci.ctl.nak = false ∧ ci.reserved = false ∧ (T0 TilState.init).til.credits[ci.ctl.crSel].retSeen < 65536 ∧
      ci.ctl.crCount = (T0 TilState.init).til.credits[ci.ctl.crSel].retSeen ∧ (T0 TilState.init).til.state = TilState.init ∧ bytesToNat
      (List.take 2 (payloadBytes (initPl 1 0 100))) = 1 ∧ (∀ i < 8, bytesToNat (List.take 2 (List.drop (4 + 2 * i) (payloadBytes (initPl 1 0
      100)))) ≤ 32767) ∧ (BitVec.getLsbD ((payloadBytes (initPl 1 0 100)).getD 2 (0 : Byte)) 0 && (T0 TilState.init).til.sentRxSeen) =
      false) ∧
    (ci.ctl.ackValid = false ∧ ci.ctl.nak = false ∧ ci.reserved = false ∧ (T0 TilState.init).til.credits[ci.ctl.crSel].retSeen < 65536 ∧
      ci.ctl.crCount = (T0 TilState.init).til.credits[ci.ctl.crSel].retSeen ∧ (T0 TilState.init).til.state = TilState.init ∧ bytesToNat
      (List.take 2 (payloadBytes (initPl 1 1 100))) = 1 ∧ (∀ i < 8, bytesToNat (List.take 2 (List.drop (4 + 2 * i) (payloadBytes (initPl 1 1
      100)))) ≤ 32767) ∧ (BitVec.getLsbD ((payloadBytes (initPl 1 1 100)).getD 2 (0 : Byte)) 0 && (T0 TilState.init).til.sentRxSeen) =
      false) ∧
    (ci.ctl.ackValid = false ∧ ci.ctl.nak = false ∧ ci.reserved = false ∧ case2.til.credits[ci.ctl.crSel].retSeen < 65536 ∧ ci.ctl.crCount =
      case2.til.credits[ci.ctl.crSel].retSeen ∧ case2.til.state = TilState.init ∧ bytesToNat (List.take 2 (payloadBytes (initPl 1 1 100))) =
      1 ∧ (∀ i < 8, bytesToNat (List.take 2 (List.drop (4 + 2 * i) (payloadBytes (initPl 1 1 100)))) ≤ 32767) ∧ BitVec.getLsbD
      ((payloadBytes (initPl 1 1 100)).getD 2 (0 : Byte)) 0 = true ∧ case2.til.sentRxSeen = true) ∧
    (ci.ctl.ackValid = false ∧ ci.ctl.nak = false ∧ ci.reserved = false ∧ (T0 TilState.up).til.credits[ci.ctl.crSel].retSeen < 65536 ∧
      ci.ctl.crCount = (T0 TilState.up).til.credits[ci.ctl.crSel].retSeen ∧ ((T0 TilState.up).til.state = TilState.up ∨ (T0
      TilState.up).til.state = TilState.attest)) ∧
    ((TD []).til.state = TilState.attest ∧ (∀ (d : TilMsg × ℕ), headOf (TD []) 3 = some d → isSpdm d.1 = false)) ∧
    ((TD [(TilMsg.formReq
      ({ preferred := false, serving := false, fresh := false, warmClean := false, wasPrimary := false, epoch := 0, gen := 0, compat := (0 : BitVec 384), predecessor := (0 : BitVec 384) }
      : FormReq), 3), sp]).til.state = TilState.attest ∧ (∀ (d : TilMsg × ℕ), headOf (TD [(TilMsg.formReq
      ({ preferred := false, serving := false, fresh := false, warmClean := false, wasPrimary := false, epoch := 0, gen := 0, compat := (0 : BitVec 384), predecessor := (0 : BitVec 384) }
      : FormReq), 3), sp]) 3 = some d → isSpdm d.1 = false)) ∧
    ((TD [sp]).til.state = TilState.attest ∧ headOf (TD [sp]) 3 = some sp ∧ isSpdm sp.1 = true ∧ peerPasses (TD [sp]) true true true (5 :
      BitVec 384) = false) ∧
    (TP.til.state = TilState.attest ∧ headOf TP 3 = some sp ∧ isSpdm sp.1 = true ∧ peerPasses TP true true true (5 : BitVec 384) = true ∧
      TP.til.attested = false) ∧
    (case3.til.state = TilState.attest ∧ headOf case3 3 = some sp ∧ isSpdm sp.1 = true ∧ case3.til.txNew = some kk) ∧
    (case4.til.state = TilState.attest ∧ headOf case4 3 = some sp ∧ isSpdm sp.1 = true ∧ case4.til.txNew = some kk) :=
  ⟨by decide +kernel, by decide +kernel, by decide +kernel, by decide +kernel, by decide +kernel, by decide +kernel, by decide +kernel,
    by decide +kernel, by decide +kernel, by decide +kernel, by decide +kernel, by decide +kernel⟩

theorem witness_TillerAttestation_2 :
    (case5.til.state = TilState.attest ∧ headOf case5 3 = some sp ∧ isSpdm sp.1 = true ∧ case5.til.attested = true ∧ case5.til.rxKey = none)
      ∧
    ((TD [sp]).til.state = TilState.attest ∧ headOf (TD [sp]) 3 = some sp ∧ isSpdm sp.1 = true ∧ ((TD [sp]).til.attested = false ∨ (TD
      [sp]).til.rxKey ≠ none)) ∧
    ((TD []).til.state = TilState.attest ∧ ((TD []).til.txStarted = false ∨ (TD []).til.rxVerified = false)) ∧
    ((TU Role.detached).til.state = TilState.attest ∧ (TU Role.detached).til.txStarted = true ∧ (TU Role.detached).til.rxVerified = true) ∧
    ((TU Role.primary).til.state = TilState.attest ∧ (TU Role.primary).til.txStarted = true ∧ (TU Role.primary).til.rxVerified = true) ∧
    ((TU Role.secondary).til.state = TilState.attest ∧ (TU Role.secondary).til.txStarted = true ∧ (TU Role.secondary).til.rxVerified = true)
      ∧
    ((TU Role.none).til.state = TilState.attest ∧ (TU Role.none).til.txStarted = true ∧ (TU Role.none).til.rxVerified = true) :=
  ⟨by decide +kernel, by decide +kernel, by decide +kernel, by decide +kernel, by decide +kernel, by decide +kernel, by decide +kernel⟩

end OnGroups

/-! ### Mirroring and recovery (chapters 11, 12) -/

namespace OnMirror

def T0 (st : TilState) (f : Tiller → Tiller := id) : State := withTil (fun t => f { t with state := st, enteredAt := 9 }) (regSet offTilCtl 0 sr)
def rl (r : Role) (s : State) : State := withPair (fun p => { p with role := r }) s
def hd : MirrorHdr := ⟨false, false, false, 2, 0, 1, 7, 1, 9, 0xA6, 0x1040⟩
def U (f : Tiller → Tiller := id) : State := T0 .up f
def Mw (m : TilMsg) : State := rl .secondary (U fun t => { t with delivered := [(.leave, 1), (m, 6)] })
def dd : Dedup := ⟨false, 1, 7, 0, 5, 0, false⟩
def case1 : State := (withPair (fun p => { p with reissueOpen := true, dedup := [dd] }) (Mw (.mirrorWr hd 5)))
def case2 : State := (withPair (fun p => { p with reissueOpen := true, dedup := [dd] }) (Mw (.mirrorPwr hd 3 5)))
def hd2 : MirrorHdr := { hd with dpa := 0x40001040 }
def e1 : SheafEntry := ⟨0, 0x1000, 12, 0x5000, false, false, true⟩
def sm (s : State) : State := withPort (fun o => { o with sheaf := [e1], decs := [(0, ⟨0, 2^30, 256, 1, true, false⟩)], budgets := [9,9,9,9,9,9,9,9], counts := List.replicate 8 0 }) { s with crypt := { sr.crypt with copies := [(0xA6, ⟨true, 1, 1⟩)] } }
def om (n : Nat) : OpenMirror := ⟨n, 0, 33, none, 0, 0x1040, 3⟩
def Ma (r : Nat) : State := rl .primary (U fun t => { t with mirrors := [om 4, om 4101], timerAt := 2, delivered := [(.mirrorAck 4 r, 7), (.mirrorAck 5 0, 8)] })
def txm : Txn := { tid := 33, msg := ⟨{ rawReq 9 (.host 0 0 0 5) 0 .wr 64 7 0 false with dpa := 64, region := 6, key := 0xA6, cls := 1 }, 0x40, none, 0⟩, state := .respond, need := [], started := 0, rsp := ⟨9, .cmpE, 0, false, 0, 0, false, 0⟩, sfWaited := false, absorbed := false, waiting := false, queued := false, mirror := some 4, wrote := none }
def Mt : State := withSpk (fun k => { k with txns := [txm] }) (portIn .enabled (Ma 1))
def fe : TilMsg := .lineFetch 0 5 0xA6 0x1040
def De (m : TilMsg) (s : State) : State := withTil (fun t => { t with delivered := [(m, 6)] }) s
def Lf : State := De fe (withTree treeA (rl .primary (U)))
def Lu : State := takeDelivered (fe, 6) Lf
def Ln : State := De fe (rl .secondary (U))
def Lv : State := takeDelivered (fe, 6) Ln
def Fe (r : Nat) : State := rl .primary (U fun t => { t with fetches := [⟨4101, 3, 0x9040, 0xA6⟩], delivered := [(.lineData 5 r 99, 6)] })
def rq : TilMsg := .resyncReq 0 20 0x100000
def Lz : State := De (.resyncZero 0 0x1000) (rl .secondary (U))
def rd (a b : Bool) : TilMsg := .resyncDone 0 0 0 a b
def case3 : State := (withPair (fun p => { p with peerSynced := true }) (De (rd true false) (rl .joining (U))))
def cj (pg last : Nat) (full : Bool) : CopyJob := ⟨0, pg, last, 0, 13, full⟩
def Cj (j : CopyJob) : State := withPair (fun p => { p with copies := [j, fullCopy] }) (rl .primary (U))
def v1 : State := Cj { cj 0x1000 0x3000 false with page := 0x2000 }
def v1' : State := { v1 with pair := { v1.pair with copyPages := v1.pair.copyPages + 1 } }
def Lr : State := withPair (fun p => { p with partnered := true, resync := [(0, 0x1000, true)] }) (rl .primary (U))
def Lr' : State := { Lr with pair := { Lr.pair with resync := [(0, 0x1000, false)] } }

theorem witness_MirrorWritesAndAcks :
    (receivesMirror (Mw (TilMsg.mirrorWr hd (4 : Line))) = true ∧ (Mw (TilMsg.mirrorWr hd (4 : Line))).til.state = TilState.up ∧ (Mw
      (TilMsg.mirrorWr hd (4 : Line))).pair.dedup.length < 16384 ∧ noInjection (Mw (TilMsg.mirrorWr hd (4 : Line))) = true ∧ portsQuiet (Mw
      (TilMsg.mirrorWr hd (4 : Line))) = true ∧ parityAt Parity.good CtlStage.port = ParityKind.good ∧ arrivedAt (Mw (TilMsg.mirrorWr hd (4
      : Line))) (TilMsg.mirrorWr hd (5 : Line)) = none) ∧
    (receivesMirror (Mw (TilMsg.mirrorWr hd (4 : Line))) = true ∧ (Mw (TilMsg.mirrorWr hd (4 : Line))).til.state = TilState.up ∧ (Mw
      (TilMsg.mirrorWr hd (4 : Line))).pair.dedup.length < 16384 ∧ noInjection (Mw (TilMsg.mirrorWr hd (4 : Line))) = true ∧ portsQuiet (Mw
      (TilMsg.mirrorWr hd (4 : Line))) = true ∧ parityAt Parity.good CtlStage.port = ParityKind.good ∧ arrivedAt (Mw (TilMsg.mirrorWr hd (4
      : Line))) (TilMsg.mirrorPwr hd (3 : BitVec 64) (5 : Line)) = none) ∧
    (receivesMirror case1 = true ∧ case1.til.state = TilState.up ∧ case1.pair.dedup.length < 16384 ∧ noInjection case1 = true ∧ portsQuiet
      case1 = true ∧ parityAt Parity.good CtlStage.port = ParityKind.good ∧ arrivedAt case1 (TilMsg.mirrorWr hd (5 : Line)) = some 6 ∧
      mirrorDup case1 hd = true) ∧
    (receivesMirror case2 = true ∧ case2.til.state = TilState.up ∧ case2.pair.dedup.length < 16384 ∧ noInjection case2 = true ∧ portsQuiet
      case2 = true ∧ parityAt Parity.good CtlStage.port = ParityKind.good ∧ arrivedAt case2 (TilMsg.mirrorPwr hd (3 : BitVec 64) (5 : Line))
      = some 6 ∧ mirrorDup case2 hd = true) ∧
    (receivesMirror (Mw (TilMsg.mirrorWr hd2 (5 : Line))) = true ∧ (Mw (TilMsg.mirrorWr hd2 (5 : Line))).til.state = TilState.up ∧ (Mw
      (TilMsg.mirrorWr hd2 (5 : Line))).pair.dedup.length < 16384 ∧ noInjection (Mw (TilMsg.mirrorWr hd2 (5 : Line))) = true ∧ portsQuiet
      (Mw (TilMsg.mirrorWr hd2 (5 : Line))) = true ∧ parityAt Parity.good CtlStage.port = ParityKind.good ∧ arrivedAt (Mw (TilMsg.mirrorWr
      hd2 (5 : Line))) (TilMsg.mirrorWr hd2 (5 : Line)) = some 6 ∧ mirrorDup (Mw (TilMsg.mirrorWr hd2 (5 : Line))) hd2 = false ∧ regionAt
      (Mw (TilMsg.mirrorWr hd2 (5 : Line))) hd2.ldTag hd2.dpa = none) ∧
    (receivesMirror (Mw (TilMsg.mirrorPwr hd2 (3 : BitVec 64) (5 : Line))) = true ∧ (Mw (TilMsg.mirrorPwr hd2 (3 : BitVec 64) (5 :
      Line))).til.state = TilState.up ∧ (Mw (TilMsg.mirrorPwr hd2 (3 : BitVec 64) (5 : Line))).pair.dedup.length < 16384 ∧ noInjection (Mw
      (TilMsg.mirrorPwr hd2 (3 : BitVec 64) (5 : Line))) = true ∧ portsQuiet (Mw (TilMsg.mirrorPwr hd2 (3 : BitVec 64) (5 : Line))) = true ∧
      parityAt Parity.good CtlStage.port = ParityKind.good ∧ arrivedAt (Mw (TilMsg.mirrorPwr hd2 (3 : BitVec 64) (5 : Line)))
      (TilMsg.mirrorPwr hd2 (3 : BitVec 64) (5 : Line)) = some 6 ∧ mirrorDup (Mw (TilMsg.mirrorPwr hd2 (3 : BitVec 64) (5 : Line))) hd2 =
      false ∧ regionAt (Mw (TilMsg.mirrorPwr hd2 (3 : BitVec 64) (5 : Line))) hd2.ldTag hd2.dpa = none) ∧
    (receivesMirror (sm (Mw (TilMsg.mirrorWr hd (5 : Line)))) = true ∧ (sm (Mw (TilMsg.mirrorWr hd (5 : Line)))).til.state = TilState.up ∧
      (sm (Mw (TilMsg.mirrorWr hd (5 : Line)))).pair.dedup.length < 16384 ∧ noInjection (sm (Mw (TilMsg.mirrorWr hd (5 : Line)))) = true ∧
      portsQuiet (sm (Mw (TilMsg.mirrorWr hd (5 : Line)))) = true ∧ parityAt Parity.good CtlStage.port = ParityKind.good ∧ arrivedAt (sm (Mw
      (TilMsg.mirrorWr hd (5 : Line)))) (TilMsg.mirrorWr hd (5 : Line)) = some 6 ∧ mirrorDup (sm (Mw (TilMsg.mirrorWr hd (5 : Line)))) hd =
      false ∧ regionAt (sm (Mw (TilMsg.mirrorWr hd (5 : Line)))) hd.ldTag hd.dpa = some regA ∧ (∀ r ∈ (sm (Mw (TilMsg.mirrorWr hd (5 :
      Line)))).ports[port4 (hd.ldTag / 16)].reqs, r.req.rid ≠ (sm (Mw (TilMsg.mirrorWr hd (5 : Line)))).seq) ∧ windowOver (sm (Mw
      (TilMsg.mirrorWr hd (5 : Line)))) (port4 (hd.ldTag / 16)) = false ∧ keyAdmits (sm (Mw (TilMsg.mirrorWr hd (5 : Line)))) hd.ldTag
      hd.key = true ∧ admitsNow (sm (Mw (TilMsg.mirrorWr hd (5 : Line)))) (port4 (hd.ldTag / 16))
      ({ rawReq (sm (Mw (TilMsg.mirrorWr hd (5 : Line)))).seq (Src.mirror hd) hd.ldTag HomeOp.wr 0 (5 : Line) (0 : BitVec 64) hd.poison with dpa := hd.dpa, region := regA.number, key := hd.key, cls := hd.qos, par := Parity.good })
      = true ∧ sheafHit (sm (Mw (TilMsg.mirrorWr hd (5 : Line)))) (port4 (hd.ldTag / 16)) hd.ldTag hd.dpa = some e1) ∧
    (receivesMirror (sm (Mw (TilMsg.mirrorPwr hd (3 : BitVec 64) (5 : Line)))) = true ∧ (sm (Mw (TilMsg.mirrorPwr hd (3 : BitVec 64) (5 :
      Line)))).til.state = TilState.up ∧ (sm (Mw (TilMsg.mirrorPwr hd (3 : BitVec 64) (5 : Line)))).pair.dedup.length < 16384 ∧ noInjection
      (sm (Mw (TilMsg.mirrorPwr hd (3 : BitVec 64) (5 : Line)))) = true ∧ portsQuiet (sm (Mw (TilMsg.mirrorPwr hd (3 : BitVec 64) (5 :
      Line)))) = true ∧ parityAt Parity.good CtlStage.port = ParityKind.good ∧ arrivedAt (sm (Mw (TilMsg.mirrorPwr hd (3 : BitVec 64) (5 :
      Line)))) (TilMsg.mirrorPwr hd (3 : BitVec 64) (5 : Line)) = some 6 ∧ mirrorDup (sm (Mw (TilMsg.mirrorPwr hd (3 : BitVec 64) (5 :
      Line)))) hd = false ∧ regionAt (sm (Mw (TilMsg.mirrorPwr hd (3 : BitVec 64) (5 : Line)))) hd.ldTag hd.dpa = some regA ∧ (∀ r ∈ (sm (Mw
      (TilMsg.mirrorPwr hd (3 : BitVec 64) (5 : Line)))).ports[port4 (hd.ldTag / 16)].reqs, r.req.rid ≠ (sm (Mw (TilMsg.mirrorPwr hd (3 :
      BitVec 64) (5 : Line)))).seq) ∧ windowOver (sm (Mw (TilMsg.mirrorPwr hd (3 : BitVec 64) (5 : Line)))) (port4 (hd.ldTag / 16)) = false
      ∧ keyAdmits (sm (Mw (TilMsg.mirrorPwr hd (3 : BitVec 64) (5 : Line)))) hd.ldTag hd.key = true ∧ admitsNow (sm (Mw (TilMsg.mirrorPwr hd
      (3 : BitVec 64) (5 : Line)))) (port4 (hd.ldTag / 16))
      ({ rawReq (sm (Mw (TilMsg.mirrorPwr hd (3 : BitVec 64) (5 : Line)))).seq (Src.mirror hd) hd.ldTag HomeOp.wrPtl 0 (5 : Line) (3 : BitVec 64) hd.poison with dpa := hd.dpa, region := regA.number, key := hd.key, cls := hd.qos, par := Parity.good })
      = true ∧ sheafHit (sm (Mw (TilMsg.mirrorPwr hd (3 : BitVec 64) (5 : Line)))) (port4 (hd.ldTag / 16)) hd.ldTag hd.dpa = some e1) ∧
    ((Ma 1).til.state = TilState.up ∧ noInjection (Ma 1) = true ∧ portsQuiet (Ma 1) = true ∧ arrivedAt (Ma 1) (TilMsg.mirrorAck 4 1) = some
      7 ∧ List.find? (fun o => decide (o.mid % 4096 = 4)) (Ma 1).til.mirrors = some (om 4) ∧ (om 4).page = none ∧ (∀ x ∈ (Ma 1).spks[spk8
      (om 4).spk].txns, x.mirror ≠ some (om 4).mid) ∧ 1 ≠ 2) ∧
    ((Ma 0).til.state = TilState.up ∧ noInjection (Ma 0) = true ∧ portsQuiet (Ma 0) = true ∧ arrivedAt (Ma 0) (TilMsg.mirrorAck 4 0) = some
      7 ∧ List.find? (fun o => decide (o.mid % 4096 = 4)) (Ma 0).til.mirrors = some (om 4) ∧ (om 4).page = none ∧ (∀ x ∈ (Ma 0).spks[spk8
      (om 4).spk].txns, x.mirror ≠ some (om 4).mid) ∧ 0 ≠ 2) ∧
    ((Ma 2).til.state = TilState.up ∧ noInjection (Ma 2) = true ∧ portsQuiet (Ma 2) = true ∧ arrivedAt (Ma 2) (TilMsg.mirrorAck 4 2) = some
      7 ∧ List.find? (fun o => decide (o.mid % 4096 = 4)) (Ma 2).til.mirrors = some (om 4) ∧ (om 4).page = none ∧ (∀ x ∈ (Ma 2).spks[spk8
      (om 4).spk].txns, x.mirror ≠ some (om 4).mid) ∧ (Ma 2).pair.resync.length < 1024 ∧ ((Ma 2).pair.resync.any fun e => decide (e.1 = (om
      4).ldTag) && decide (e.2.1 = pageBase (om 4).dpa)) = false) ∧
    ((Mt.til.state = TilState.up ∧ noInjection Mt = true ∧ portsQuiet Mt = true ∧ arrivedAt Mt (TilMsg.mirrorAck 4 1) = some 7 ∧ List.find?
      (fun o => decide (o.mid % 4096 = 4)) Mt.til.mirrors = some (om 4) ∧ (om 4).page = none ∧ List.find? (fun t => decide (t.mirror = some
      (om 4).mid)) Mt.spks[spk8 (om 4).spk].txns = some txm ∧ txm.msg.req.src = Src.host 0 0 0 5 ∧ 1 ≠ 2 ∧ homeWaits Mt (spk8 (om 4).spk) =
      true) ∧ keyFree Mt (spk8 (om 4).spk) txm.msg txm.tid) :=
  ⟨by decide +kernel, by decide +kernel, by decide +kernel, by decide +kernel, by decide +kernel, by decide +kernel, by decide +kernel,
    by decide +kernel, by decide +kernel, by decide +kernel, by decide +kernel, ⟨by decide +kernel, by unfold keyFree; decide +kernel⟩⟩

theorem witness_LineRecoveryAndResync_1 :
    ((De fe (rl Role.joining U)).til.state = TilState.up ∧ noInjection (De fe (rl Role.joining U)) = true ∧ portsQuiet (De fe (rl
      Role.joining U)) = true ∧ arrivedAt (De fe (rl Role.joining U)) (TilMsg.lineFetch 0 5 166 4160) = some 6 ∧ parityAt Parity.good
      CtlStage.port = ParityKind.good ∧ pageAtRest 0 4160 (De fe (rl Role.joining U)) = true ∧ ((De fe (rl Role.joining U)).pair.role =
      Role.joining ∨ (De fe (rl Role.joining U)).pair.role = Role.detached)) ∧
    ((De fe (rl Role.detached U)).til.state = TilState.up ∧ noInjection (De fe (rl Role.detached U)) = true ∧ portsQuiet (De fe (rl
      Role.detached U)) = true ∧ arrivedAt (De fe (rl Role.detached U)) (TilMsg.lineFetch 0 5 166 4160) = some 6 ∧ parityAt Parity.good
      CtlStage.port = ParityKind.good ∧ pageAtRest 0 4160 (De fe (rl Role.detached U)) = true ∧ ((De fe (rl Role.detached U)).pair.role =
      Role.joining ∨ (De fe (rl Role.detached U)).pair.role = Role.detached)) ∧
    (Ln.til.state = TilState.up ∧ noInjection Ln = true ∧ portsQuiet Ln = true ∧ arrivedAt Ln (TilMsg.lineFetch 0 5 166 4160) = some 6 ∧
      parityAt Parity.good CtlStage.port = ParityKind.good ∧ pageAtRest 0 4160 Ln = true ∧ Ln.pair.role ≠ Role.joining ∧ Ln.pair.role ≠
      Role.detached ∧ (mappedLine 0 4160 166 (takeDelivered (TilMsg.lineFetch 0 5 166 4160, 6) Ln)).1 = (mappedLine 0 4160 166 Lv).1) ∧
    ((Fe 0).til.state = TilState.up ∧ noInjection (Fe 0) = true ∧ portsQuiet (Fe 0) = true ∧ arrivedAt (Fe 0) (TilMsg.lineData 5 0 (99 :
      Line)) = some 6 ∧ (Fe 0).fw.germUp = true ∧ (Fe 0).domainDown = false ∧ List.find? (fun f => decide (f.fid % 4096 = 5)) (Fe
      0).til.fetches = some ({ fid := 4101, mc := 3, mpa := 36928, key := 166 } : OpenFetch)) ∧
    ((Fe 1).til.state = TilState.up ∧ noInjection (Fe 1) = true ∧ portsQuiet (Fe 1) = true ∧ arrivedAt (Fe 1) (TilMsg.lineData 5 1 (99 :
      Line)) = some 6 ∧ (Fe 1).fw.germUp = true ∧ (Fe 1).domainDown = false ∧ List.find? (fun f => decide (f.fid % 4096 = 5)) (Fe
      1).til.fetches = some ({ fid := 4101, mc := 3, mpa := 36928, key := 166 } : OpenFetch)) ∧
    ((Fe 7).til.state = TilState.up ∧ noInjection (Fe 7) = true ∧ portsQuiet (Fe 7) = true ∧ arrivedAt (Fe 7) (TilMsg.lineData 5 7 (99 :
      Line)) = some 6 ∧ (Fe 7).fw.germUp = true ∧ (Fe 7).domainDown = false ∧ List.find? (fun f => decide (f.fid % 4096 = 5)) (Fe
      7).til.fetches = some ({ fid := 4101, mc := 3, mpa := 36928, key := 166 } : OpenFetch)) ∧
    ((De rq (rl Role.joining U)).til.state = TilState.up ∧ noInjection (De rq (rl Role.joining U)) = true ∧ portsQuiet (De rq (rl
      Role.joining U)) = true ∧ arrivedAt (De rq (rl Role.joining U)) (TilMsg.resyncReq 0 20 1048576) = some 6 ∧ parityAt Parity.good
      CtlStage.port ≠ ParityKind.fatal ∧ parityAt Parity.good CtlStage.port = ParityKind.good ∧ ((De rq (rl Role.joining U)).pair.role =
      Role.joining ∨ (De rq (rl Role.joining U)).pair.role = Role.detached)) ∧
    ((De rq (rl Role.primary U)).til.state = TilState.up ∧ noInjection (De rq (rl Role.primary U)) = true ∧ portsQuiet (De rq (rl
      Role.primary U)) = true ∧ arrivedAt (De rq (rl Role.primary U)) (TilMsg.resyncReq 0 20 1048576) = some 6 ∧ parityAt Parity.good
      CtlStage.port ≠ ParityKind.fatal ∧ parityAt Parity.good CtlStage.port = ParityKind.good ∧ (De rq (rl Role.primary U)).pair.role ≠
      Role.joining ∧ (De rq (rl Role.primary U)).pair.role ≠ Role.detached) ∧
    (Lz.til.state = TilState.up ∧ noInjection Lz = true ∧ portsQuiet Lz = true ∧ halted Lz = false ∧ Lz.fw.germUp = true ∧ parityAt
      Parity.good CtlStage.port = ParityKind.good ∧ arrivedAt Lz (TilMsg.resyncZero 0 4096) = some 6 ∧ (blankPageStep HoldOwner.resync 0
      4096 Lz).1 = Blanking.done ∧ arrivedAt (blankPageStep HoldOwner.resync 0 4096 Lz).2 (TilMsg.resyncZero 0 4096) = some 6 ∧ noInjection
      (blankPageStep HoldOwner.resync 0 4096 Lz).2 = true) ∧
    ((De (rd true false) (rl Role.joining U)).til.state = TilState.up ∧ noInjection (De (rd true false) (rl Role.joining U)) = true ∧
      portsQuiet (De (rd true false) (rl Role.joining U)) = true ∧ arrivedAt (De (rd true false) (rl Role.joining U)) (TilMsg.resyncDone 0 0
      0 true false) = some 6) ∧
    (case3.til.state = TilState.up ∧ noInjection case3 = true ∧ portsQuiet case3 = true ∧ arrivedAt case3 (TilMsg.resyncDone 0 0 0 true
      false) = some 6) ∧
    ((De (rd true true) (rl Role.joining U)).til.state = TilState.up ∧ noInjection (De (rd true true) (rl Role.joining U)) = true ∧
      portsQuiet (De (rd true true) (rl Role.joining U)) = true ∧ arrivedAt (De (rd true true) (rl Role.joining U)) (TilMsg.resyncDone 0 0 0
      true true) = some 6) :=
  ⟨by decide +kernel, by decide +kernel, by decide +kernel, by decide +kernel, by decide +kernel, by decide +kernel, by decide +kernel,
    by decide +kernel, by decide +kernel, by decide +kernel, by decide +kernel, by decide +kernel⟩

theorem witness_LineRecoveryAndResync_2 :
    ((De (TilMsg.resyncDone 0 20 0 false false) (rl Role.primary U)).til.state = TilState.up ∧ noInjection (De (TilMsg.resyncDone 0 20 0
      false false) (rl Role.primary U)) = true ∧ portsQuiet (De (TilMsg.resyncDone 0 20 0 false false) (rl Role.primary U)) = true ∧
      arrivedAt (De (TilMsg.resyncDone 0 20 0 false false) (rl Role.primary U)) (TilMsg.resyncDone 0 20 0 false false) = some 6) ∧
    ((Cj (cj 8192 8192 false)).til.state = TilState.up ∧ noInjection (Cj (cj 8192 8192 false)) = true ∧ portsQuiet (Cj (cj 8192 8192 false))
      = true ∧ halted (Cj (cj 8192 8192 false)) = false ∧ entering (Cj (cj 8192 8192 false)) = false ∧ (Cj (cj 8192 8192 false)).pair.copies
      = [cj 8192 8192 false, fullCopy] ∧ nextCopy (Cj (cj 8192 8192 false)) (cj 8192 8192 false) = none ∧ (cj 8192 8192 false).full = false)
      ∧
    ((Cj (cj 4096 12288 false)).til.state = TilState.up ∧ noInjection (Cj (cj 4096 12288 false)) = true ∧ portsQuiet (Cj (cj 4096 12288
      false)) = true ∧ halted (Cj (cj 4096 12288 false)) = false ∧ entering (Cj (cj 4096 12288 false)) = false ∧ (Cj (cj 4096 12288
      false)).pair.copies = [cj 4096 12288 false, fullCopy] ∧ nextCopy (Cj (cj 4096 12288 false)) (cj 4096 12288 false) = some (0, 4096) ∧
      pageAtRest 0 4096 (Cj (cj 4096 12288 false)) = true ∧ (mappedPage 0 4096
      { (Cj (cj 4096 12288 false)) with pair := { (Cj (cj 4096 12288 false)).pair with copies := [{ (cj 4096 12288 false) with ldTag := 0, page := 4096 + 4096 }, fullCopy], copyPages := (Cj (cj 4096 12288 false)).pair.copyPages + 1 } }).1
      = none ∧ nextCopy (mappedPage 0 4096 v1').2 { (cj 4096 12288 false) with ldTag := 0, page := 4096 + 4096 } ≠ none) ∧
    (Lr.til.state = TilState.up ∧ noInjection Lr = true ∧ portsQuiet Lr = true ∧ pairMode Lr = true ∧ halted Lr = false ∧ Lr.pair.resync =
      [(0, 4096, true)] ∧ (∀ o ∈ Lr.til.mirrors, o.page ≠ some 4096 ∨ o.ldTag ≠ 0) ∧ pageAtRest 0 4096 Lr = true ∧ (mappedPage 0 4096
      { Lr with pair := { Lr.pair with resync := [(0, 4096, false)] } }).1 = none ∧ (mappedPage 0 4096 Lr').2.til.mirrors = Lr.til.mirrors ∧
      (mappedPage 0 4096 Lr').2.pair.resync = [(0, 4096, false)]) :=
  ⟨by decide +kernel, by decide +kernel, by decide +kernel, by decide +kernel⟩

theorem witness_LineRecoveryAndResync_3 :
    Lf.til.state = TilState.up ∧ noInjection Lf = true ∧ portsQuiet Lf = true ∧ arrivedAt Lf (TilMsg.lineFetch 0 5 166 4160) = some 6 ∧
      parityAt Parity.good CtlStage.port = ParityKind.good ∧ pageAtRest 0 4160 Lf = true ∧ Lf.pair.role ≠ Role.joining ∧ Lf.pair.role ≠
      Role.detached ∧ (mappedLine 0 4160 166 (takeDelivered (TilMsg.lineFetch 0 5 166 4160, 6) Lf)).1 = (mappedLine 0 4160 166 Lu).1 :=
  ⟨by decide +kernel, by decide +kernel, by decide +kernel, by decide +kernel, by decide +kernel, by decide +kernel, by decide +kernel, by decide +kernel,
    congrArg (fun v => (mappedLine 0 4160 166 v).1) (show takeDelivered (fe, 6) Lf = Lu from rfl)⟩

end OnMirror

/-! ### Forming a pair (chapter 12) -/

namespace OnForming

def T0 (st : TilState) (f : Tiller → Tiller := id) : State := withTil (fun t => f { t with state := st, enteredAt := 9 }) (regSet offTilCtl 0 sr)
def rl (r : Role) (s : State) : State := withPair (fun p => { p with role := r }) s
def U (f : Tiller → Tiller := id) : State := T0 .up f
def sh0 : ShadowEntry := ⟨0, 6, 16, 99, 3, 0⟩
def uF : SfUpdate := ⟨true, 0, 16, 3, 0⟩
def uS : SfUpdate := ⟨false, 0, 16, 3, 0⟩
def Ss (u : SfUpdate) : State := withSpk (fun k => { k with shadow := [sh0, { sh0 with dpaSector := 17 }], rejects := [uS] }) (rl .secondary (U fun t => { t with delivered := [(.sfSync [u], 6)] }))
def De (m : TilMsg) (s : State) : State := withTil (fun t => { t with delivered := [(m, 3500)] }) s
def Ssm : State := withTree treeA (Ss uS)
def w2 : Option (Fin 8 × ℕ) × State := ownSector 0 16 (shadowFree 6 16 (takeDelivered (.sfSync [uS], 6) Ssm))
def k2 : Fin 8 := (w2.1.getD (0,0)).1
def c2 : Nat := (w2.1.getD (0,0)).2
def Pm (f : Spk → Spk) : State := withSpk f (withPair (fun p => { p with partnered := true }) (rl .primary (U fun t => { t with delivered := [(.sfReject uS, 6)] })))
def en0 : SfEntry := { freshEntry (plainSector 0x9000) 6 16 0 0 with st := #v[.s, .i, .i, .i], vector := 1 }
def case1 : State := (Pm fun k => { k with sf := [(5, { en0 with busy := true })] })
def case2 : SfEntry := { en0 with busy := true }
def case3 : State := (Pm fun k => { k with sf := [(5, en0)] })
def Hp : State := withPort (fun o => { o with reqs := [⟨rawReq 9 (.host 0 0 0 5) 0 .wr 64 7 0 false, .home 0, false, false, false, false⟩] }) (withPair (fun p => { p with openWrites := [(9, 44), (10, 3)], lagging := true }) { rl .primary U with dtime := 100 })
def hb (r : Nat) (b : Bool) (e : Nat) : TilMsg := .heartbeat r b e 88
def Hs (r : Role) : State := withPair (fun p => { p with synced := true, dedup := [⟨false, 1, 7, 0, 67, 0, false⟩, ⟨false, 1, 7, 0, 68, 0, false⟩] }) (rl r U)
def case4 : State := (rl .primary (U fun t => { t with mirrors := [⟨4, 0, 33, none, 0, 0x1040, 3⟩]}))
def Ht (t1 : Nat) (d : Nat) (n : Nat) : State := { rl .secondary (U fun t => { t with t1 := t1, delivered := [(.timeRsp n n, d)] }) with dtime := d + 7 }
def Bl : State := withPair (fun p => { p with backlog := [(7, uS), (9, uF)] }) (Pm fun k => { k with sf := [(5, en0), (8, { en0 with dpaSector := 19 })] })
def fr (g : Nat) (c : BitVec 384) (sv : Bool) : FormReq := ⟨true, sv, false, false, false, 9, g, c, 0⟩
def Fo (r : Role) (m : TilMsg := .leave) : State := De m (withPair (fun p => { p with formSent := true, role := r, fenceOut := true }) U)
def gn (s : State) : State := regSet offPairGen 5 s
def case5 : State := (withPair (fun p => { p with formOutcome := some true, formAt := 8 }) (Fo .primary))
def case6 : State := (withPair (fun p => { p with formOutcome := some false, formAt := 8 }) (Fo .primary))
def Fr (r : Role) (c : Bool) : State := withSpk (fun k => { k with shadow := [sh0], rejects := [uS] }) (withPair (fun p => { p with peerReq := some (fr 9 0 false), dedup := [⟨false, 1, 7, 0, 67, 0, false⟩] }) (Fo r (.formRsp 0 c true)))
def Fw : State := { rl .detached sr with regs := sr.regs }
def Po : State := withPair (fun p => { p with resolveDue := true, resync := [(0, 0x1000, true)], downAt := 50 }) (rl .primary sr)

theorem witness_ShadowHeartbeatAndTime_1 :
    ((Ss uF).til.state = TilState.up ∧ noInjection (Ss uF) = true ∧ receivesMirror (Ss uF) = true ∧ halted (Ss uF) = false ∧ arrivedAt (Ss
      uF) (TilMsg.sfSync [uF]) = some 6 ∧ regionAt (Ss uF) uF.ldTag (256 * uF.sector) = some regA ∧ uF.free = true) ∧
    (Ssm.til.state = TilState.up ∧ noInjection Ssm = true ∧ receivesMirror Ssm = true ∧ halted Ssm = false ∧ arrivedAt Ssm (TilMsg.sfSync
      [uS]) = some 6 ∧ regionAt Ssm uS.ldTag (256 * uS.sector) = some regA ∧ uS.free = false ∧ (ownSector uS.ldTag uS.sector (shadowFree
      regA.number uS.sector (takeDelivered (TilMsg.sfSync [uS], 6) Ssm))).1 = some (k2, c2) ∧ (List.filter (fun e => decide (sfSet e.sector
      = sfSet c2)) w2.2.spks[k2].shadow).length < 16) ∧
    ((Pm id).til.state = TilState.up ∧ noInjection (Pm id) = true ∧ pairMode (Pm id) = true ∧ portsQuiet (Pm id) = true ∧ arrivedAt (Pm id)
      (TilMsg.sfReject uS) = some 6 ∧ entryOfSector (Pm id) uS.ldTag uS.sector = none) ∧
    (case1.til.state = TilState.up ∧ noInjection case1 = true ∧ pairMode case1 = true ∧ portsQuiet case1 = true ∧ arrivedAt case1
      (TilMsg.sfReject uS) = some 6 ∧ entryOfSector case1 uS.ldTag uS.sector = some ((0 : Fin 8), 5, case2) ∧ (case2.busy = true ∨ 32 ≤
      case1.spks[(0 : Fin 8)].evict.length)) ∧
    (case3.til.state = TilState.up ∧ noInjection case3 = true ∧ pairMode case3 = true ∧ portsQuiet case3 = true ∧ arrivedAt case3
      (TilMsg.sfReject uS) = some 6 ∧ entryOfSector case3 uS.ldTag uS.sector = some ((0 : Fin 8), 5, en0) ∧ en0.busy = false ∧ case3.spks[(0
      : Fin 8)].evict.length < 32 ∧ (∀ x ∈ case3.spks[(0 : Fin 8)].txns, x.state = TxState.memory ∨ x.state = TxState.respond)) ∧
    ((rl Role.secondary U).til.state = TilState.up ∧ noInjection (rl Role.secondary U) = true ∧ (rl Role.secondary U).pair.hbWithheld =
      false) ∧
    (Hp.til.state = TilState.up ∧ noInjection Hp = true ∧ Hp.pair.hbWithheld = false) ∧
    ((De (hb 3 true 9) (rl Role.secondary U)).til.state = TilState.up ∧ noInjection (De (hb 3 true 9) (rl Role.secondary U)) = true ∧
      tablesOrdered (De (hb 3 true 9) (rl Role.secondary U)) = true ∧ arrivedAt (De (hb 3 true 9) (rl Role.secondary U)) (TilMsg.heartbeat 3
      true 9 88) = some 3500 ∧ (receivesMirror (De (hb 3 true 9) (rl Role.secondary U)) = false ∨ 3 ≠ 4)) ∧
    ((De (hb 4 true 9) (rl Role.primary U)).til.state = TilState.up ∧ noInjection (De (hb 4 true 9) (rl Role.primary U)) = true ∧
      tablesOrdered (De (hb 4 true 9) (rl Role.primary U)) = true ∧ arrivedAt (De (hb 4 true 9) (rl Role.primary U)) (TilMsg.heartbeat 4
      true 9 88) = some 3500 ∧ (receivesMirror (De (hb 4 true 9) (rl Role.primary U)) = false ∨ 4 ≠ 4)) ∧
    ((De (hb 4 true 9) (Hs Role.secondary)).til.state = TilState.up ∧ noInjection (De (hb 4 true 9) (Hs Role.secondary)) = true ∧
      tablesOrdered (De (hb 4 true 9) (Hs Role.secondary)) = true ∧ arrivedAt (De (hb 4 true 9) (Hs Role.secondary)) (TilMsg.heartbeat 4
      true 9 88) = some 3500 ∧ receivesMirror (De (hb 4 true 9) (Hs Role.secondary)) = true ∧ 9 < 256) ∧
    ((De (hb 4 false 255) (Hs Role.secondary)).til.state = TilState.up ∧ noInjection (De (hb 4 false 255) (Hs Role.secondary)) = true ∧
      tablesOrdered (De (hb 4 false 255) (Hs Role.secondary)) = true ∧ arrivedAt (De (hb 4 false 255) (Hs Role.secondary)) (TilMsg.heartbeat
      4 false 255 88) = some 3500 ∧ receivesMirror (De (hb 4 false 255) (Hs Role.secondary)) = true ∧ 255 < 256) ∧
    ((De (hb 4 true 9) (Hs Role.joining)).til.state = TilState.up ∧ noInjection (De (hb 4 true 9) (Hs Role.joining)) = true ∧ tablesOrdered
      (De (hb 4 true 9) (Hs Role.joining)) = true ∧ arrivedAt (De (hb 4 true 9) (Hs Role.joining)) (TilMsg.heartbeat 4 true 9 88) = some
      3500 ∧ receivesMirror (De (hb 4 true 9) (Hs Role.joining)) = true ∧ 9 < 256) :=
  ⟨by decide +kernel, by decide +kernel, by decide +kernel, by decide +kernel, by decide +kernel, by decide +kernel, by decide +kernel,
    by decide +kernel, by decide +kernel, by decide +kernel, by decide +kernel, by decide +kernel⟩

theorem witness_ShadowHeartbeatAndTime_2 :
    ((Hs Role.joining).til.state = TilState.up ∧ noInjection (Hs Role.joining) = true) ∧
    ((rl Role.none U).til.state = TilState.up ∧ noInjection (rl Role.none U) = true) ∧
    (case4.til.state = TilState.up ∧ noInjection case4 = true) ∧
    ((Hs Role.secondary).til.state = TilState.up ∧ noInjection (Hs Role.secondary) = true ∧ (Hs Role.secondary).pair.role = Role.secondary)
      ∧
    ((De (TilMsg.timeReq 9) (rl Role.primary U)).til.state = TilState.up ∧ noInjection (De (TilMsg.timeReq 9) (rl Role.primary U)) = true ∧
      (De (TilMsg.timeReq 9) (rl Role.primary U)).pair.role = Role.primary ∧ arrivedAt (De (TilMsg.timeReq 9) (rl Role.primary U))
      (TilMsg.timeReq 9) = some 3500) ∧
    ((Ht 1000 2000 5000).til.state = TilState.up ∧ noInjection (Ht 1000 2000 5000) = true ∧ (Ht 1000 2000 5000).pair.role = Role.secondary ∧
      (Ht 1000 2000 5000).til.replaySeen = false ∧ arrivedAt (Ht 1000 2000 5000) (TilMsg.timeRsp 5000 5000) = some 2000 ∧ (2 : ℤ) * (3500 :
      ℤ) = ↑5000 - ↑(Ht 1000 2000 5000).til.t1 - (↑2000 - ↑5000) ∧ (1000 : ℤ) < (3500 : ℤ)) ∧
    ((Ht 9000 10000 5000).til.state = TilState.up ∧ noInjection (Ht 9000 10000 5000) = true ∧ (Ht 9000 10000 5000).pair.role =
      Role.secondary ∧ (Ht 9000 10000 5000).til.replaySeen = false ∧ arrivedAt (Ht 9000 10000 5000) (TilMsg.timeRsp 5000 5000) = some 10000
      ∧ (2 : ℤ) * (-4500 : ℤ) = ↑5000 - ↑(Ht 9000 10000 5000).til.t1 - (↑10000 - ↑5000) ∧ (-4500 : ℤ) < (-1000 : ℤ)) ∧
    ((Ht 5000 6000 5000).til.state = TilState.up ∧ noInjection (Ht 5000 6000 5000) = true ∧ (Ht 5000 6000 5000).pair.role = Role.secondary ∧
      (Ht 5000 6000 5000).til.replaySeen = false ∧ arrivedAt (Ht 5000 6000 5000) (TilMsg.timeRsp 5000 5000) = some 6000 ∧ (2 : ℤ) * (-500 :
      ℤ) = ↑5000 - ↑(Ht 5000 6000 5000).til.t1 - (↑6000 - ↑5000) ∧ (-1000 : ℤ) ≤ (-500 : ℤ) ∧ (-500 : ℤ) ≤ (1000 : ℤ)) ∧
    ((Ht 5000 6000 6500).til.state = TilState.up ∧ noInjection (Ht 5000 6000 6500) = true ∧ (Ht 5000 6000 6500).pair.role = Role.secondary ∧
      (Ht 5000 6000 6500).til.replaySeen = false ∧ arrivedAt (Ht 5000 6000 6500) (TilMsg.timeRsp 6500 6500) = some 6000 ∧ (2 : ℤ) * (1000 :
      ℤ) = ↑6500 - ↑(Ht 5000 6000 6500).til.t1 - (↑6000 - ↑6500) ∧ (-1000 : ℤ) ≤ (1000 : ℤ) ∧ (1000 : ℤ) ≤ (1000 : ℤ)) ∧
    (Bl.til.state = TilState.up ∧ noInjection Bl = true ∧ pairMode Bl = true ∧ Bl.pair.backlog = [(7, uS), (9, uF)] ∧ Bl.pair.backlog.length
      ≤ 4096) :=
  ⟨by decide +kernel, by decide +kernel, by decide +kernel, by decide +kernel, by decide +kernel, by decide +kernel, by decide +kernel,
    by decide +kernel, by decide +kernel, by decide +kernel⟩

theorem witness_FormingAndPartnerLoss_1 :
    (noInjection (Fo Role.detached (TilMsg.formReq (fr 0 (5 : BitVec 384) false))) = true ∧ portsQuiet (Fo Role.detached (TilMsg.formReq (fr
      0 (5 : BitVec 384) false))) = true ∧ tablesOrdered (Fo Role.detached (TilMsg.formReq (fr 0 (5 : BitVec 384) false))) = true ∧
      arrivedAt (Fo Role.detached (TilMsg.formReq (fr 0 (5 : BitVec 384) false))) (TilMsg.formReq (fr 0 (5 : BitVec 384) false)) = some 3500
      ∧ (Fo Role.detached (TilMsg.formReq (fr 0 (5 : BitVec 384) false))).til.state = TilState.up ∧ (Fo Role.detached (TilMsg.formReq (fr 0
      (5 : BitVec 384) false))).pair.formSent = true ∧ (Fo Role.detached (TilMsg.formReq (fr 0 (5 : BitVec 384) false))).pair.peerReq = none
      ∧ ((Fo Role.detached (TilMsg.formReq (fr 0 (5 : BitVec 384) false))).pair.role = Role.detached ∨ (Fo Role.detached (TilMsg.formReq (fr
      0 (5 : BitVec 384) false))).pair.role = Role.fenced ∨ (Fo Role.detached (TilMsg.formReq (fr 0 (5 : BitVec 384) false))).pair.role =
      Role.primary) ∧ (compatible (ownForm (Fo Role.detached (TilMsg.formReq (fr 0 (5 : BitVec 384) false)))) (fr 0 (5 : BitVec 384) false)
      = false ∨ formOwner (ownForm (Fo Role.detached (TilMsg.formReq (fr 0 (5 : BitVec 384) false)))) (fr 0 (5 : BitVec 384) false) true =
      none)) ∧
    (noInjection (Fo Role.primary (TilMsg.formReq (fr 0 (0 : BitVec 384) true))) = true ∧ portsQuiet (Fo Role.primary (TilMsg.formReq (fr 0
      (0 : BitVec 384) true))) = true ∧ tablesOrdered (Fo Role.primary (TilMsg.formReq (fr 0 (0 : BitVec 384) true))) = true ∧ arrivedAt (Fo
      Role.primary (TilMsg.formReq (fr 0 (0 : BitVec 384) true))) (TilMsg.formReq (fr 0 (0 : BitVec 384) true)) = some 3500 ∧ (Fo
      Role.primary (TilMsg.formReq (fr 0 (0 : BitVec 384) true))).til.state = TilState.up ∧ (Fo Role.primary (TilMsg.formReq (fr 0 (0 :
      BitVec 384) true))).pair.formSent = true ∧ (Fo Role.primary (TilMsg.formReq (fr 0 (0 : BitVec 384) true))).pair.peerReq = none ∧ ((Fo
      Role.primary (TilMsg.formReq (fr 0 (0 : BitVec 384) true))).pair.role = Role.detached ∨ (Fo Role.primary (TilMsg.formReq (fr 0 (0 :
      BitVec 384) true))).pair.role = Role.fenced ∨ (Fo Role.primary (TilMsg.formReq (fr 0 (0 : BitVec 384) true))).pair.role =
      Role.primary) ∧ (compatible (ownForm (Fo Role.primary (TilMsg.formReq (fr 0 (0 : BitVec 384) true)))) (fr 0 (0 : BitVec 384) true) =
      false ∨ formOwner (ownForm (Fo Role.primary (TilMsg.formReq (fr 0 (0 : BitVec 384) true)))) (fr 0 (0 : BitVec 384) true) true = none))
      ∧
    (noInjection (gn (Fo Role.detached (TilMsg.formReq (fr 2 (0 : BitVec 384) false)))) = true ∧ portsQuiet (gn (Fo Role.detached
      (TilMsg.formReq (fr 2 (0 : BitVec 384) false)))) = true ∧ tablesOrdered (gn (Fo Role.detached (TilMsg.formReq (fr 2 (0 : BitVec 384)
      false)))) = true ∧ arrivedAt (gn (Fo Role.detached (TilMsg.formReq (fr 2 (0 : BitVec 384) false)))) (TilMsg.formReq (fr 2 (0 : BitVec
      384) false)) = some 3500 ∧ (gn (Fo Role.detached (TilMsg.formReq (fr 2 (0 : BitVec 384) false)))).til.state = TilState.up ∧ (gn (Fo
      Role.detached (TilMsg.formReq (fr 2 (0 : BitVec 384) false)))).pair.formSent = true ∧ (gn (Fo Role.detached (TilMsg.formReq (fr 2 (0 :
      BitVec 384) false)))).pair.peerReq = none ∧ ((gn (Fo Role.detached (TilMsg.formReq (fr 2 (0 : BitVec 384) false)))).pair.role =
      Role.detached ∨ (gn (Fo Role.detached (TilMsg.formReq (fr 2 (0 : BitVec 384) false)))).pair.role = Role.fenced ∨ (gn (Fo Role.detached
      (TilMsg.formReq (fr 2 (0 : BitVec 384) false)))).pair.role = Role.primary) ∧ compatible (ownForm (gn (Fo Role.detached (TilMsg.formReq
      (fr 2 (0 : BitVec 384) false))))) (fr 2 (0 : BitVec 384) false) = true ∧ (∀ (b : Bool), formOwner (ownForm (gn (Fo Role.detached
      (TilMsg.formReq (fr 2 (0 : BitVec 384) false))))) (fr 2 (0 : BitVec 384) false) b = some true) ∧ (gn (Fo Role.detached (TilMsg.formReq
      (fr 2 (0 : BitVec 384) false)))).pair.role ≠ Role.fenced) ∧
    (noInjection (gn (Fo Role.primary (TilMsg.formReq (fr 9 (0 : BitVec 384) false)))) = true ∧ portsQuiet (gn (Fo Role.primary
      (TilMsg.formReq (fr 9 (0 : BitVec 384) false)))) = true ∧ tablesOrdered (gn (Fo Role.primary (TilMsg.formReq (fr 9 (0 : BitVec 384)
      false)))) = true ∧ arrivedAt (gn (Fo Role.primary (TilMsg.formReq (fr 9 (0 : BitVec 384) false)))) (TilMsg.formReq (fr 9 (0 : BitVec
      384) false)) = some 3500 ∧ (gn (Fo Role.primary (TilMsg.formReq (fr 9 (0 : BitVec 384) false)))).til.state = TilState.up ∧ (gn (Fo
      Role.primary (TilMsg.formReq (fr 9 (0 : BitVec 384) false)))).pair.formSent = true ∧ (gn (Fo Role.primary (TilMsg.formReq (fr 9 (0 :
      BitVec 384) false)))).pair.peerReq = none ∧ ((gn (Fo Role.primary (TilMsg.formReq (fr 9 (0 : BitVec 384) false)))).pair.role =
      Role.detached ∨ (gn (Fo Role.primary (TilMsg.formReq (fr 9 (0 : BitVec 384) false)))).pair.role = Role.fenced ∨ (gn (Fo Role.primary
      (TilMsg.formReq (fr 9 (0 : BitVec 384) false)))).pair.role = Role.primary) ∧ compatible (ownForm (gn (Fo Role.primary (TilMsg.formReq
      (fr 9 (0 : BitVec 384) false))))) (fr 9 (0 : BitVec 384) false) = true ∧ (∀ (b : Bool), formOwner (ownForm (gn (Fo Role.primary
      (TilMsg.formReq (fr 9 (0 : BitVec 384) false))))) (fr 9 (0 : BitVec 384) false) b = some true) ∧ (gn (Fo Role.primary (TilMsg.formReq
      (fr 9 (0 : BitVec 384) false)))).pair.role ≠ Role.fenced) ∧
    (noInjection (gn (Fo Role.detached (TilMsg.formReq (fr 9 (0 : BitVec 384) false)))) = true ∧ portsQuiet (gn (Fo Role.detached
      (TilMsg.formReq (fr 9 (0 : BitVec 384) false)))) = true ∧ tablesOrdered (gn (Fo Role.detached (TilMsg.formReq (fr 9 (0 : BitVec 384)
      false)))) = true ∧ arrivedAt (gn (Fo Role.detached (TilMsg.formReq (fr 9 (0 : BitVec 384) false)))) (TilMsg.formReq (fr 9 (0 : BitVec
      384) false)) = some 3500 ∧ (gn (Fo Role.detached (TilMsg.formReq (fr 9 (0 : BitVec 384) false)))).til.state = TilState.up ∧ (gn (Fo
      Role.detached (TilMsg.formReq (fr 9 (0 : BitVec 384) false)))).pair.formSent = true ∧ (gn (Fo Role.detached (TilMsg.formReq (fr 9 (0 :
      BitVec 384) false)))).pair.peerReq = none ∧ ((gn (Fo Role.detached (TilMsg.formReq (fr 9 (0 : BitVec 384) false)))).pair.role =
      Role.detached ∨ (gn (Fo Role.detached (TilMsg.formReq (fr 9 (0 : BitVec 384) false)))).pair.role = Role.fenced ∨ (gn (Fo Role.detached
      (TilMsg.formReq (fr 9 (0 : BitVec 384) false)))).pair.role = Role.primary) ∧ compatible (ownForm (gn (Fo Role.detached (TilMsg.formReq
      (fr 9 (0 : BitVec 384) false))))) (fr 9 (0 : BitVec 384) false) = true ∧ (∀ (b : Bool), formOwner (ownForm (gn (Fo Role.detached
      (TilMsg.formReq (fr 9 (0 : BitVec 384) false))))) (fr 9 (0 : BitVec 384) false) b = some false ∨ (∃ b, formOwner (ownForm (gn (Fo
      Role.detached (TilMsg.formReq (fr 9 (0 : BitVec 384) false))))) (fr 9 (0 : BitVec 384) false) b ≠ none) ∧ (gn (Fo Role.detached
      (TilMsg.formReq (fr 9 (0 : BitVec 384) false)))).pair.role = Role.fenced)) ∧
    (noInjection (gn (Fo Role.fenced (TilMsg.formReq (fr 2 (0 : BitVec 384) false)))) = true ∧ portsQuiet (gn (Fo Role.fenced
      (TilMsg.formReq (fr 2 (0 : BitVec 384) false)))) = true ∧ tablesOrdered (gn (Fo Role.fenced (TilMsg.formReq (fr 2 (0 : BitVec 384)
      false)))) = true ∧ arrivedAt (gn (Fo Role.fenced (TilMsg.formReq (fr 2 (0 : BitVec 384) false)))) (TilMsg.formReq (fr 2 (0 : BitVec
      384) false)) = some 3500 ∧ (gn (Fo Role.fenced (TilMsg.formReq (fr 2 (0 : BitVec 384) false)))).til.state = TilState.up ∧ (gn (Fo
      Role.fenced (TilMsg.formReq (fr 2 (0 : BitVec 384) false)))).pair.formSent = true ∧ (gn (Fo Role.fenced (TilMsg.formReq (fr 2 (0 :
      BitVec 384) false)))).pair.peerReq = none ∧ ((gn (Fo Role.fenced (TilMsg.formReq (fr 2 (0 : BitVec 384) false)))).pair.role =
      Role.detached ∨ (gn (Fo Role.fenced (TilMsg.formReq (fr 2 (0 : BitVec 384) false)))).pair.role = Role.fenced ∨ (gn (Fo Role.fenced
      (TilMsg.formReq (fr 2 (0 : BitVec 384) false)))).pair.role = Role.primary) ∧ compatible (ownForm (gn (Fo Role.fenced (TilMsg.formReq
      (fr 2 (0 : BitVec 384) false))))) (fr 2 (0 : BitVec 384) false) = true ∧ (∀ (b : Bool), formOwner (ownForm (gn (Fo Role.fenced
      (TilMsg.formReq (fr 2 (0 : BitVec 384) false))))) (fr 2 (0 : BitVec 384) false) b = some false ∨ (∃ b, formOwner (ownForm (gn (Fo
      Role.fenced (TilMsg.formReq (fr 2 (0 : BitVec 384) false))))) (fr 2 (0 : BitVec 384) false) b ≠ none) ∧ (gn (Fo Role.fenced
      (TilMsg.formReq (fr 2 (0 : BitVec 384) false)))).pair.role = Role.fenced)) ∧
    (noInjection case5 = true ∧ portsQuiet case5 = true ∧ tablesOrdered case5 = true ∧ case5.til.state = TilState.up ∧ case5.pair.role =
      Role.primary ∧ case5.pair.formOutcome = some true) ∧
    (noInjection case6 = true ∧ portsQuiet case6 = true ∧ tablesOrdered case6 = true ∧ case6.til.state = TilState.up ∧ case6.pair.role =
      Role.primary ∧ case6.pair.formOutcome = some false) ∧
    (noInjection (Fr Role.detached true) = true ∧ portsQuiet (Fr Role.detached true) = true ∧ tablesOrdered (Fr Role.detached true) = true ∧
      arrivedAt (Fr Role.detached true) (TilMsg.formRsp 0 true true) = some 3500 ∧ (Fr Role.detached true).til.state = TilState.up ∧ ((Fr
      Role.detached true).pair.role = Role.detached ∨ (Fr Role.detached true).pair.role = Role.fenced) ∧ (Fr Role.detached
      true).pair.peerReq = some (fr 9 (0 : BitVec 384) false) ∧ (fr 9 (0 : BitVec 384) false).epoch < 256) ∧
    (noInjection (Fr Role.fenced false) = true ∧ portsQuiet (Fr Role.fenced false) = true ∧ tablesOrdered (Fr Role.fenced false) = true ∧
      arrivedAt (Fr Role.fenced false) (TilMsg.formRsp 0 false true) = some 3500 ∧ (Fr Role.fenced false).til.state = TilState.up ∧ ((Fr
      Role.fenced false).pair.role = Role.detached ∨ (Fr Role.fenced false).pair.role = Role.fenced) ∧ (Fr Role.fenced false).pair.peerReq =
      some (fr 9 (0 : BitVec 384) false) ∧ (fr 9 (0 : BitVec 384) false).epoch < 256) ∧
    (noInjection (Fo Role.fenced (TilMsg.formRsp 2 false false)) = true ∧ portsQuiet (Fo Role.fenced (TilMsg.formRsp 2 false false)) = true
      ∧ tablesOrdered (Fo Role.fenced (TilMsg.formRsp 2 false false)) = true ∧ 2 ≠ 0 ∧ arrivedAt (Fo Role.fenced (TilMsg.formRsp 2 false
      false)) (TilMsg.formRsp 2 false false) = some 3500) ∧
    (noInjection Fw = true ∧ portsQuiet Fw = true ∧ tablesOrdered Fw = true ∧ Fw.pair.role = Role.detached ∧ Fw.pair.formSent = false ∧
      Fw.pair.peerOwn = false ∧ Fw.domainDown = false ∧ Fw.bring.released = true ∧ coreOn Fw = true) :=
  ⟨by decide +kernel, by decide +kernel, by decide +kernel, by decide +kernel, by decide +kernel, by decide +kernel, by decide +kernel,
    by decide +kernel, by decide +kernel, by decide +kernel, by decide +kernel, by decide +kernel⟩

theorem witness_FormingAndPartnerLoss_2 :
    (noInjection Po = true ∧ portsQuiet Po = true ∧ tablesOrdered Po = true ∧ Po.pair.role = Role.primary ∧ Po.pair.resolveDue = true ∧
      pairMode Po = false) ∧
    (noInjection Po = true ∧ portsQuiet Po = true ∧ tablesOrdered Po = true ∧ Po.pair.role = Role.primary ∧ Po.pair.resolveDue = true ∧
      Po.til.mirrors = [] ∧ Po.til.fetches = []) ∧
    (noInjection (De TilMsg.leave (Pm id)) = true ∧ portsQuiet (De TilMsg.leave (Pm id)) = true ∧ tablesOrdered (De TilMsg.leave (Pm id)) =
      true ∧ arrivedAt (De TilMsg.leave (Pm id)) TilMsg.leave = some 3500 ∧ (De TilMsg.leave (Pm id)).pair.role = Role.primary) ∧
    (noInjection (rl Role.joining sr) = true ∧ portsQuiet (rl Role.joining sr) = true ∧ tablesOrdered (rl Role.joining sr) = true ∧
      receivesMirror (rl Role.joining sr) = true ∧ (rl Role.joining sr).til.state ≠ TilState.up ∧ (rl Role.joining sr).pair.promotion =
      Promotion.idle ∧ (rl Role.joining sr).til.mirrors = [] ∧ (rl Role.joining sr).til.fetches = []) :=
  ⟨by decide +kernel, by decide +kernel, by decide +kernel, by decide +kernel⟩

end OnForming

/-! ### Ownership (chapter 12) -/

namespace OnOwner

def T0 (st : TilState) (f : Tiller → Tiller := id) : State := withTil (fun t => f { t with state := st, enteredAt := 9 }) (regSet offTilCtl 0 sr)
def rl (r : Role) (s : State) : State := withPair (fun p => { p with role := r }) s
def U (f : Tiller → Tiller := id) : State := T0 .up f
def en (s : State) : State := portIn .enabled s
def case1 : State := (en (withPair (fun p => { p with synced := true, own := true }) (rl .secondary sr)))
def case2 : State := (withPair (fun p => { p with fenceOut := true }) (rl .primary sr))
def tq : State := withPort (fun o => { o with state := .training, enableQueued := true }) (rl .primary sr)
def case3 : State := (withPair (fun p => { p with peerOwn := true }) (rl .primary sr))
def Cf (v : Bool) : State := (fun s => { s with img := some { img0 with preferred := v } }) (withPair (fun p => { p with own := true, ownSampleAt := 5 }) { rl .primary sr with dtime := 1005 })
def Sy (r : Role) (f : Pair → Pair := id) : State := withPair f (withPair (fun p => { p with synced := true, partnered := true, peerSynced := true }) (rl r (U)))
def Dn (st : TilState) : State := withTil (fun t => { t with state := st }) (Sy .secondary)
def Pd : State := withPort (fun o => { o with state := .drained }) (withTil (fun t => { t with state := .down }) (Sy .secondary fun p => { p with promotion := .draining }))
def hd : MirrorHdr := ⟨false, false, false, 2, 0, 1, 7, 1, 9, 0xA6, 0x1040⟩
def Pm2 : State := withTil (fun t => { t with delivered := [(.mirrorWr hd 5, 6)] }) Pd
def Rw : State := Sy .primary fun p => { p with reissueOpen := true, reissueEnd := 70, dedup := [⟨false, 1, 7, 0, 67, 0, false⟩, ⟨true, 1, 5000, 0, 67, 9, true⟩] }
def Hn : State := en (Sy .primary fun p => { p with handover := true })
def Ho (e : Nat) : State := withTil (fun t => { t with delivered := [(.handover e, 6)] }) (Sy .secondary)

theorem witness_OwnershipAndPromotion_1 :
    ((en (rl Role.detached sr)).pair.role ≠ Role.none ∧ (en (rl Role.detached sr)).pair.fenceOut = false) ∧
    (case1.pair.role ≠ Role.none ∧ case1.pair.fenceOut = false) ∧
    ((en (rl Role.primary sr)).pair.role ≠ Role.none ∧ (en (rl Role.primary sr)).pair.fenceOut = false) ∧
    ((en (rl Role.fenced sr)).pair.role ≠ Role.none ∧ (en (rl Role.fenced sr)).pair.fenceOut = false) ∧
    (case2.pair.fenceOut = true) ∧
    ((rl Role.fenced sr).pair.role = Role.fenced ∧ portsQuiet (rl Role.fenced sr) = true) ∧
    ((rl Role.primary sr).pair.role ≠ Role.fenced ∧ portsQuiet (rl Role.primary sr) = true ∧ (∀ (p : Fin 4), (rl Role.primary
      sr).ports[p].state ≠ PortState.drained)) ∧
    (tq.pair.role ≠ Role.fenced ∧ portsQuiet tq = true ∧ (∀ (p : Fin 4), tq.ports[p].state ≠ PortState.drained)) ∧
    (mayOwn (rl Role.primary sr) = true ∧ (rl Role.primary sr).pair.own = false ∧ (rl Role.primary sr).pair.peerOwn = false) ∧
    ((mayOwn (rl Role.secondary sr) = false ∨ (rl Role.secondary sr).pair.peerOwn = true)) ∧
    ((mayOwn case3 = false ∨ case3.pair.peerOwn = true)) ∧
    ((Cf true).pair.own = true ∧ (Cf true).dtime ≤ (Cf true).pair.ownSampleAt + 1000 ∧ isPreferred (Cf true) = true) :=
  ⟨by decide +kernel, by decide +kernel, by decide +kernel, by decide +kernel, by decide +kernel, by decide +kernel, by decide +kernel,
    by decide +kernel, by decide +kernel, by decide +kernel, by decide +kernel, by decide +kernel⟩

theorem witness_OwnershipAndPromotion_2 :
    ((Cf false).pair.own = true ∧ (Cf false).dtime ≤ (Cf false).pair.ownSampleAt + 1000 ∧ isPreferred (Cf false) = false) ∧
    (portsQuiet (Sy Role.secondary) = true ∧ tablesOrdered (Sy Role.secondary) = true ∧ receivesMirror (Sy Role.secondary) = true ∧ (Sy
      Role.secondary).pair.peerOwn = false ∧ (Sy Role.secondary).pair.promotion = Promotion.idle ∧ (Sy Role.secondary).pair.synced = true ∧
      (Sy Role.secondary).domainDown = false ∧ (Sy Role.secondary).pair.fenceIn = false ∧ entering (Sy Role.secondary) = false) ∧
    (portsQuiet (Dn TilState.down) = true ∧ tablesOrdered (Dn TilState.down) = true ∧ receivesMirror (Dn TilState.down) = true ∧ (Dn
      TilState.down).pair.peerOwn = false ∧ (Dn TilState.down).pair.promotion = Promotion.idle ∧ (Dn TilState.down).pair.synced = true ∧ (Dn
      TilState.down).domainDown = false ∧ (Dn TilState.down).pair.fenceIn = false ∧ entering (Dn TilState.down) = false) ∧
    (portsQuiet (Dn TilState.held) = true ∧ tablesOrdered (Dn TilState.held) = true ∧ receivesMirror (Dn TilState.held) = true ∧ (Dn
      TilState.held).pair.peerOwn = false ∧ (Dn TilState.held).pair.promotion = Promotion.idle ∧ (Dn TilState.held).pair.synced = true ∧ (Dn
      TilState.held).domainDown = false ∧ (Dn TilState.held).pair.fenceIn = false ∧ entering (Dn TilState.held) = false) ∧
    (portsQuiet (Dn TilState.attest) = true ∧ tablesOrdered (Dn TilState.attest) = true ∧ receivesMirror (Dn TilState.attest) = true ∧ (Dn
      TilState.attest).pair.peerOwn = false ∧ (Dn TilState.attest).pair.promotion = Promotion.idle ∧ (Dn TilState.attest).pair.synced = true
      ∧ (Dn TilState.attest).domainDown = false ∧ (Dn TilState.attest).pair.fenceIn = false ∧ entering (Dn TilState.attest) = false) ∧
    (portsQuiet (rl Role.secondary U) = true ∧ tablesOrdered (rl Role.secondary U) = true ∧ (rl Role.secondary U).pair.synced = false ∧ (rl
      Role.secondary U).pair.syncedAtDown = false) ∧
    (portsQuiet Pd = true ∧ tablesOrdered Pd = true ∧ Pd.pair.promotion = Promotion.draining ∧ receivesMirror Pd = true ∧ mirrorsPending Pd
      = false ∧ Pd.pair.peerOwn = false ∧ ownable Pd = true ∧ Pd.til.mirrors = [] ∧ Pd.til.fetches = [] ∧ (∀ (k : Fin 8), Pd.spks[k].shadow
      = [] ∧ Pd.spks[k].rejects = []) ∧ noRequests Pd = true) ∧
    (portsQuiet Pm2 = true ∧ tablesOrdered Pm2 = true ∧ (mirrorsPending Pm2 = true ∨ ownable Pm2 = false)) ∧
    (Rw.pair.reissueOpen = true) ∧
    (portsQuiet (Sy Role.primary) = true ∧ tablesOrdered (Sy Role.primary) = true ∧ flag (2 : Word) 1 = true ∧ flag (2 : Word) 0 = false ∧
      mayHandover (Sy Role.primary) = true) ∧
    (portsQuiet (en (Sy Role.secondary)) = true ∧ tablesOrdered (en (Sy Role.secondary)) = true ∧ flag (1 : Word) 1 = false ∧ flag (1 :
      Word) 0 = true ∧ mayLeave (en (Sy Role.secondary)) = true) ∧
    (portsQuiet (rl Role.primary sr) = true ∧ tablesOrdered (rl Role.primary sr) = true ∧ flag (1 : Word) 1 = false ∧ flag (1 : Word) 0 =
      true ∧ mayLeave (rl Role.primary sr) = true) :=
  ⟨by decide +kernel, by decide +kernel, by decide +kernel, by decide +kernel, by decide +kernel, by decide +kernel, by decide +kernel,
    by decide +kernel, by decide +kernel, by decide +kernel, by decide +kernel, by decide +kernel⟩

theorem witness_OwnershipAndPromotion_3 :
    (portsQuiet Hn = true ∧ tablesOrdered Hn = true ∧ handoverReady Hn = true ∧ noRequests Hn = true) ∧
    (portsQuiet (Sy Role.primary) = true ∧ tablesOrdered (Sy Role.primary) = true ∧ handoverReady (Sy Role.primary) = false) ∧
    (portsQuiet (Ho 9) = true ∧ tablesOrdered (Ho 9) = true ∧ noInjection (Ho 9) = true ∧ arrivedAt (Ho 9) (TilMsg.handover 9) = some 6 ∧
      (Ho 9).pair.role = Role.secondary ∧ (Ho 9).pair.synced = true ∧ entering (Ho 9) = false) ∧
    (portsQuiet (Ho 0) = true ∧ tablesOrdered (Ho 0) = true ∧ noInjection (Ho 0) = true ∧ arrivedAt (Ho 0) (TilMsg.handover 0) = some 6 ∧
      (Ho 0).pair.role = Role.secondary ∧ (Ho 0).pair.synced = true ∧ entering (Ho 0) = false) :=
  ⟨by decide +kernel, by decide +kernel, by decide +kernel, by decide +kernel⟩

end OnOwner

/-! ### Command queues (chapter 17) -/

namespace OnQueues

def mkD (op fl cmd key cnt dpa src : Nat) (opd cmp : Nat) (user : Nat := 0xABC) : Line := BitVec.ofNat 512 (op + fl * 2^8 + cmd * 2^16 + key * 2^32 + cnt * 2^48 + dpa * 2^64 + src * 2^128 + opd * 2^192 + cmp * 2^320 + user * 2^448)
def tk (cmd : Nat) (d : Line) (f : Taken → Taken := id) : Taken := f ⟨cmd, d, false, false, false, 0, false, 0, none, 0, false⟩
def qp0 : QPair := { QPair.init with enable := true, sqTail := 5, sqHead := 5, cqHead := 3, cqTail := 63, phase := true }
def en (s : State) : State := portIn .enabled { s with crypt := { sr.crypt with copies := [(0xA6, ⟨true, 1, 1⟩)] } }
def Q (ts : List Taken) (f : QPair → QPair := id) (n : Nat := 0) (s : State := en sr) : State := setQp n (f { qp0 with taken := ts }) s
def case1 : State := (setQp 0 { qp0 with enable := false, plainServed := true } { sr with queue := { sr.queue with recovery := [⟨0, 3, 4, true⟩, ⟨1, 3, 4, true⟩] } })
def t1 : Taken := tk 5 (mkD 1 0 5 0 1 0x1000 0 0 0)
def t2 : Taken := tk 6 (mkD 3 0 6 0 1 0x1000 0x2000 0 0) fun t => { t with started := true }
def t3 : Taken := tk 7 (mkD 0x40 0 7 0 0 0 0 0 0)
def Qs (k : Nat) : State := Q [t1] (f := fun q => { q with sq := [(k, mkD 3 2 9 0 1 0x1000 0x2000 0 0)], sqHead := k, sqTail := k })
def Qf : State := Q [t1, t2, t3] (f := fun q => { q with cqHead := 10, cqTail := 6 })
def Qc : State := Q [t1] (f := fun q => { q with sqHead := 5, sqTail := 6, cqHead := 0 })
def D1 (t : Taken) (ts : List Taken := []) : State := Q (ts ++ [t])
def bad : Taken := tk 5 (mkD 0x77 0 5 0 1 0x1000 0 0 0)
def badz : Taken := tk 5 (mkD 1 0 5 3 1 0x1000 0 0 0)
def at1 : Taken := tk 5 (mkD 0x10 2 5 0 0 0x1008 0 9 0)
def Qrec : State := { D1 at1 with queue := { (D1 at1).queue with recovery := [⟨0, 5, 77, false⟩] } }
def noB (s : State) : State := withPort (fun o => { o with budgets := List.replicate 8 0, counts := List.replicate 8 9 }) s
def atR : Taken := tk 5 (mkD 0x10 0 5 0 0 (2^40) 0 9 0)
def adm (t : Taken) : Taken := { t with admitted := true }
def nok (s : State) : State := { s with crypt := { s.crypt with copies := [] } }
def h20 : Taken := adm (tk 5 (mkD 0x20 0 5 0 1 0x1000 0 0 0))
def h2 : Taken := adm (tk 5 (mkD 2 0 5 0 1 0x1000 0 0 0))
def flb : Taken := tk 5 (mkD 0x40 0 5 3 0 0 0 0 0)
def lbk : Taken := tk 5 (mkD 0x50 0 5 0 0 0 1 0 0)
def started : Taken := adm (tk 5 (mkD 3 0 5 0 1 0x1000 0x2000 0 0))
def st (t : Taken) : Taken := { t with started := true, admitted := true, key := 0xA6 }
def fl : Taken := st t3
def lb (g : Nat) := st (tk 5 (mkD 0x50 0 5 0 0 0 g 0 0))
def pinD (o : Nat) := st (tk 5 (mkD o 0 5 0 0 0x100000 0 20 0))
def Qp (o : Nat) : State := Q [pinD o]
def s1p : State := (pinRange 0 0x100000 20 regA (Qp 0x30)).getD sr
def many (s : State) : State := withPort (fun o => { o with pins := (List.range 3584).map fun i => ⟨0, 0x400000 + 4096 * i, 4096⟩ }) s
def case2 : State := (withPort (fun o => { o with pins := [⟨0, 0x100000, 2^20⟩] }) (Qp 0x31))

theorem witness_QueuePairRegisters :
    (mayWritePair sr Master.bmc ↑(3 : Fin 64) = false) ∧
    (mayWritePair sr (Master.link (1 : Fin 4) (2 : Fin 4)) ↑(3 : Fin 64) = false) ∧
    (mayWritePair sr Master.germ ↑(3 : Fin 64) = true ∧ flag (1 : Word) 0 = true ∧ (qpAt sr ↑(3 : Fin 64)).enable = false) ∧
    (mayWritePair case1 Master.germ ↑(0 : Fin 64) = true ∧ flag (1 : Word) 0 = true ∧ (qpAt case1 ↑(0 : Fin 64)).enable = false) ∧
    (mayWritePair (Q []) (Master.link (0 : Fin 4) (0 : Fin 4)) ↑(0 : Fin 64) = true ∧ flag (1 : Word) 0 = true ∧ (qpAt (Q []) ↑(0 : Fin
      64)).enable = true) ∧
    (mayWritePair (Q [t1, t2, t3]) Master.germ ↑(0 : Fin 64) = true ∧ flag (0 : Word) 0 = false ∧ (qpAt (Q [t1, t2, t3]) ↑(0 : Fin
      64)).enable = true ∧ (List.map (fun x => x.cmd) (qpAt (Q [t1, t2, t3]) ↑(0 : Fin 64)).taken).Nodup ∧ (qpAt (Q [t1, t2, t3]) ↑(0 : Fin
      64)).cqTail < 64 ∧ ksorted (Q [t1, t2, t3]).queue.pairs = true) ∧
    (mayWritePair (Q [t1]) Master.germ ↑(0 : Fin 64) = true ∧ flag (0 : Word) 0 = false ∧ (qpAt (Q [t1]) ↑(0 : Fin 64)).enable = true ∧
      (qpAt (Q [t1]) ↑(0 : Fin 64)).taken = [t1] ∧ t1.started = false ∧ (qpAt (Q [t1]) ↑(0 : Fin 64)).cqTail < 64 ∧ ksorted (Q
      [t1]).queue.pairs = true) ∧
    (mayWritePair (Qs 5) Master.germ ↑(0 : Fin 64) = true ∧ pairServes (Qs 5) ↑(0 : Fin 64) = true ∧ (qpAt (Qs 5) ↑(0 : Fin 64)).sqHead < 64
      ∧ field (6 : Word) 0 6 = ((qpAt (Qs 5) ↑(0 : Fin 64)).sqHead + 1) % 64 ∧ (qpAt (Qs 5) ↑(0 : Fin 64)).taken.length + ((qpAt (Qs 5) ↑(0
      : Fin 64)).cqTail + 64 - (qpAt (Qs 5) ↑(0 : Fin 64)).cqHead) % 64 < 63) ∧
    (mayWritePair (Qs 63) Master.germ ↑(0 : Fin 64) = true ∧ pairServes (Qs 63) ↑(0 : Fin 64) = true ∧ (qpAt (Qs 63) ↑(0 : Fin 64)).sqHead <
      64 ∧ field (0 : Word) 0 6 = ((qpAt (Qs 63) ↑(0 : Fin 64)).sqHead + 1) % 64 ∧ (qpAt (Qs 63) ↑(0 : Fin 64)).taken.length + ((qpAt (Qs
      63) ↑(0 : Fin 64)).cqTail + 64 - (qpAt (Qs 63) ↑(0 : Fin 64)).cqHead) % 64 < 63) ∧
    (mayWritePair Qf Master.germ ↑(0 : Fin 64) = true ∧ pairServes Qf ↑(0 : Fin 64) = true ∧ (qpAt Qf ↑(0 : Fin 64)).sqHead < 64 ∧ 63 ≤
      (qpAt Qf ↑(0 : Fin 64)).taken.length + ((qpAt Qf ↑(0 : Fin 64)).cqTail + 64 - (qpAt Qf ↑(0 : Fin 64)).cqHead) % 64) ∧
    (mayWritePair Qc Master.germ ↑(0 : Fin 64) = true ∧ pairServes Qc ↑(0 : Fin 64) = true ∧ (qpAt Qc ↑(0 : Fin 64)).sqHead < 64 ∧ (qpAt Qc
      ↑(0 : Fin 64)).sqTail = ((qpAt Qc ↑(0 : Fin 64)).sqHead + 1) % 64 ∧ (qpAt Qc ↑(0 : Fin 64)).taken.length + ((qpAt Qc ↑(0 : Fin
      64)).cqTail + 64 - field (60 : Word) 0 6) % 64 < 63) :=
  ⟨by decide +kernel, by decide +kernel, by decide +kernel, by decide +kernel, by decide +kernel, by decide +kernel, by decide +kernel,
    by decide +kernel, by decide +kernel, by decide +kernel, by decide +kernel⟩

theorem witness_DescriptorChecks_1 :
    (portsQuiet (D1 bad) = true ∧ noInjection (D1 bad) = true ∧ pairServes (D1 bad) ↑(0 : Fin 64) = true ∧ (qpAt (D1 bad) ↑(0 : Fin
      64)).sqHead = (qpAt (D1 bad) ↑(0 : Fin 64)).sqTail ∧ (List.map (fun x => x.cmd) (qpAt (D1 bad) ↑(0 : Fin 64)).taken).Nodup ∧ takenOf
      (D1 bad) ↑(0 : Fin 64) 5 = some bad ∧ bad.started = false ∧ badDescriptor bad.desc = true) ∧
    (portsQuiet (D1 t1) = true ∧ noInjection (D1 t1) = true ∧ pairServes (D1 t1) ↑(0 : Fin 64) = true ∧ (qpAt (D1 t1) ↑(0 : Fin 64)).sqHead
      = (qpAt (D1 t1) ↑(0 : Fin 64)).sqTail ∧ (List.map (fun x => x.cmd) (qpAt (D1 t1) ↑(0 : Fin 64)).taken).Nodup ∧ takenOf (D1 t1) ↑(0 :
      Fin 64) 5 = some t1 ∧ t1.started = false ∧ badDescriptor t1.desc = false) ∧
    ((portsQuiet (D1 t1) = true ∧ noInjection (D1 t1) = true ∧ pairServes (D1 t1) ↑(0 : Fin 64) = true ∧ (qpAt (D1 t1) ↑(0 : Fin 64)).sqHead
      = (qpAt (D1 t1) ↑(0 : Fin 64)).sqTail ∧ (List.map (fun x => x.cmd) (qpAt (D1 t1) ↑(0 : Fin 64)).taken).Nodup ∧ takenOf (D1 t1) ↑(0 :
      Fin 64) 5 = some t1 ∧ t1.started = false ∧ dOpcode t1.desc ≠ 3) ∧ (∀ (st : CtlStage), parityAt Parity.good st = ParityKind.good)) ∧
    ((portsQuiet (D1 badz) = true ∧ noInjection (D1 badz) = true ∧ pairServes (D1 badz) ↑(0 : Fin 64) = true ∧ (qpAt (D1 badz) ↑(0 : Fin
      64)).sqHead = (qpAt (D1 badz) ↑(0 : Fin 64)).sqTail ∧ (List.map (fun x => x.cmd) (qpAt (D1 badz) ↑(0 : Fin 64)).taken).Nodup ∧ takenOf
      (D1 badz) ↑(0 : Fin 64) 5 = some badz ∧ badz.started = false ∧ dOpcode badz.desc = 1 ∧ badDescriptor badz.desc = true) ∧ (∀ (st :
      CtlStage), parityAt Parity.good st = ParityKind.good)) ∧
    ((portsQuiet Qrec = true ∧ noInjection Qrec = true ∧ pairServes Qrec ↑(0 : Fin 64) = true ∧ (qpAt Qrec ↑(0 : Fin 64)).sqHead = (qpAt
      Qrec ↑(0 : Fin 64)).sqTail ∧ (List.map (fun x => x.cmd) (qpAt Qrec ↑(0 : Fin 64)).taken).Nodup ∧ takenOf Qrec ↑(0 : Fin 64) 5 = some
      at1 ∧ at1.started = false ∧ dOpcode at1.desc = 16 ∧ badDescriptor at1.desc = false ∧ recorded Qrec (↑(0 : Fin 64)) at1.desc = some
      ({ pair := 0, cmd := 5, result := (77 : BitVec 128), casOk := false } : Recovery)) ∧ (∀ (st : CtlStage), parityAt Parity.good st =
      ParityKind.good)) ∧
    ((portsQuiet (D1 at1 [t2]) = true ∧ noInjection (D1 at1 [t2]) = true ∧ pairServes (D1 at1 [t2]) ↑(0 : Fin 64) = true ∧ (qpAt (D1 at1
      [t2]) ↑(0 : Fin 64)).sqHead = (qpAt (D1 at1 [t2]) ↑(0 : Fin 64)).sqTail ∧ (List.map (fun x => x.cmd) (qpAt (D1 at1 [t2]) ↑(0 : Fin
      64)).taken).Nodup ∧ takenOf (D1 at1 [t2]) ↑(0 : Fin 64) 5 = some at1 ∧ at1.started = false ∧ dOpcode at1.desc = 16 ∧ badDescriptor
      at1.desc = false ∧ recorded (D1 at1 [t2]) (↑(0 : Fin 64)) at1.desc = none ∧ behind (D1 at1 [t2]) ↑(0 : Fin 64) 5 at1.desc = true) ∧ (∀
      (st : CtlStage), parityAt Parity.good st = ParityKind.good)) ∧
    ((portsQuiet (noB (D1 at1)) = true ∧ noInjection (noB (D1 at1)) = true ∧ pairServes (noB (D1 at1)) ↑(0 : Fin 64) = true ∧ (qpAt (noB (D1
      at1)) ↑(0 : Fin 64)).sqHead = (qpAt (noB (D1 at1)) ↑(0 : Fin 64)).sqTail ∧ (List.map (fun x => x.cmd) (qpAt (noB (D1 at1)) ↑(0 : Fin
      64)).taken).Nodup ∧ takenOf (noB (D1 at1)) ↑(0 : Fin 64) 5 = some at1 ∧ at1.started = false ∧ dOpcode at1.desc = 16 ∧ badDescriptor
      at1.desc = false ∧ recorded (noB (D1 at1)) (↑(0 : Fin 64)) at1.desc = none ∧ behind (noB (D1 at1)) ↑(0 : Fin 64) 5 at1.desc = false ∧
      at1.admitted = false ∧ noRequests (noB (D1 at1)) = true ∧ windowOver (noB (D1 at1)) (port4 (↑(0 : Fin 64) / 16)) = false ∧ ((noB (D1
      at1)).pair.handover = true ∨ budgetAdmits (noB (D1 at1)) (port4 (↑(0 : Fin 64) / 16)) (if (dKeyIndex (noB (D1 at1)) (↑(0 : Fin 64))
      at1.desc).isSome = true then (slotCopy (noB (D1 at1)) (↑(port4 (↑(0 : Fin 64) / 16))) ((dKeyIndex (noB (D1 at1)) (↑(0 : Fin 64))
      at1.desc).getD 0)).cls else 0) = false)) ∧ (∀ (st : CtlStage), parityAt Parity.good st = ParityKind.good)) ∧
    ((portsQuiet (noB (D1 atR)) = true ∧ noInjection (noB (D1 atR)) = true ∧ pairServes (noB (D1 atR)) ↑(0 : Fin 64) = true ∧ (qpAt (noB (D1
      atR)) ↑(0 : Fin 64)).sqHead = (qpAt (noB (D1 atR)) ↑(0 : Fin 64)).sqTail ∧ (List.map (fun x => x.cmd) (qpAt (noB (D1 atR)) ↑(0 : Fin
      64)).taken).Nodup ∧ takenOf (noB (D1 atR)) ↑(0 : Fin 64) 5 = some atR ∧ atR.started = false ∧ dOpcode atR.desc = 16 ∧ badDescriptor
      atR.desc = false ∧ recorded (noB (D1 atR)) (↑(0 : Fin 64)) atR.desc = none ∧ behind (noB (D1 atR)) ↑(0 : Fin 64) 5 atR.desc = false ∧
      atR.admitted = false ∧ noRequests (noB (D1 atR)) = true ∧ windowOver (noB (D1 atR)) (port4 (↑(0 : Fin 64) / 16)) = false ∧ ((noB (D1
      atR)).pair.handover = true ∨ budgetAdmits (noB (D1 atR)) (port4 (↑(0 : Fin 64) / 16)) (if (dKeyIndex (noB (D1 atR)) (↑(0 : Fin 64))
      atR.desc).isSome = true then (slotCopy (noB (D1 atR)) (↑(port4 (↑(0 : Fin 64) / 16))) ((dKeyIndex (noB (D1 atR)) (↑(0 : Fin 64))
      atR.desc).getD 0)).cls else 0) = false)) ∧ (∀ (st : CtlStage), parityAt Parity.good st = ParityKind.good)) ∧
    ((portsQuiet (D1 (adm atR)) = true ∧ noInjection (D1 (adm atR)) = true ∧ pairServes (D1 (adm atR)) ↑(0 : Fin 64) = true ∧ (qpAt (D1 (adm
      atR)) ↑(0 : Fin 64)).sqHead = (qpAt (D1 (adm atR)) ↑(0 : Fin 64)).sqTail ∧ (List.map (fun x => x.cmd) (qpAt (D1 (adm atR)) ↑(0 : Fin
      64)).taken).Nodup ∧ takenOf (D1 (adm atR)) ↑(0 : Fin 64) 5 = some (adm atR) ∧ (adm atR).started = false ∧ dOpcode (adm atR).desc = 16
      ∧ badDescriptor (adm atR).desc = false ∧ recorded (D1 (adm atR)) (↑(0 : Fin 64)) (adm atR).desc = none ∧ behind (D1 (adm atR)) ↑(0 :
      Fin 64) 5 (adm atR).desc = false ∧ (adm atR).admitted = true ∧ dInRange (D1 (adm atR)) (↑(0 : Fin 64)) (adm atR).desc = false) ∧ (∀
      (st : CtlStage), parityAt Parity.good st = ParityKind.good)) ∧
    ((portsQuiet (nok (D1 (adm at1))) = true ∧ noInjection (nok (D1 (adm at1))) = true ∧ pairServes (nok (D1 (adm at1))) ↑(0 : Fin 64) =
      true ∧ (qpAt (nok (D1 (adm at1))) ↑(0 : Fin 64)).sqHead = (qpAt (nok (D1 (adm at1))) ↑(0 : Fin 64)).sqTail ∧ (List.map (fun x =>
      x.cmd) (qpAt (nok (D1 (adm at1))) ↑(0 : Fin 64)).taken).Nodup ∧ takenOf (nok (D1 (adm at1))) ↑(0 : Fin 64) 5 = some (adm at1) ∧ (adm
      at1).started = false ∧ dOpcode (adm at1).desc = 16 ∧ badDescriptor (adm at1).desc = false ∧ recorded (nok (D1 (adm at1))) (↑(0 : Fin
      64)) (adm at1).desc = none ∧ behind (nok (D1 (adm at1))) ↑(0 : Fin 64) 5 (adm at1).desc = false ∧ (adm at1).admitted = true ∧ dInRange
      (nok (D1 (adm at1))) (↑(0 : Fin 64)) (adm at1).desc = true ∧ (adm at1).contained = false ∧ keyAdmits (nok (D1 (adm at1))) (↑(0 : Fin
      64)) ((dKeyIndex (nok (D1 (adm at1))) (↑(0 : Fin 64)) (adm at1).desc).getD 0) = false) ∧ (∀ (st : CtlStage), parityAt Parity.good st =
      ParityKind.good)) ∧
    ((portsQuiet (D1 h20) = true ∧ noInjection (D1 h20) = true ∧ pairServes (D1 h20) ↑(0 : Fin 64) = true ∧ (qpAt (D1 h20) ↑(0 : Fin
      64)).sqHead = (qpAt (D1 h20) ↑(0 : Fin 64)).sqTail ∧ (List.map (fun x => x.cmd) (qpAt (D1 h20) ↑(0 : Fin 64)).taken).Nodup ∧ takenOf
      (D1 h20) ↑(0 : Fin 64) 5 = some h20 ∧ h20.started = false ∧ dOpcode h20.desc = 32 ∧ badDescriptor h20.desc = false ∧ recorded (D1 h20)
      (↑(0 : Fin 64)) h20.desc = none ∧ behind (D1 h20) ↑(0 : Fin 64) 5 h20.desc = false) ∧ (∀ (st : CtlStage), parityAt Parity.good st =
      ParityKind.good)) ∧
    ((portsQuiet (D1 h2) = true ∧ noInjection (D1 h2) = true ∧ pairServes (D1 h2) ↑(0 : Fin 64) = true ∧ (qpAt (D1 h2) ↑(0 : Fin 64)).sqHead
      = (qpAt (D1 h2) ↑(0 : Fin 64)).sqTail ∧ (List.map (fun x => x.cmd) (qpAt (D1 h2) ↑(0 : Fin 64)).taken).Nodup ∧ takenOf (D1 h2) ↑(0 :
      Fin 64) 5 = some h2 ∧ h2.started = false ∧ dOpcode h2.desc = 2 ∧ badDescriptor h2.desc = false ∧ recorded (D1 h2) (↑(0 : Fin 64))
      h2.desc = none ∧ behind (D1 h2) ↑(0 : Fin 64) 5 h2.desc = false) ∧ (∀ (st : CtlStage), parityAt Parity.good st = ParityKind.good)) :=
  ⟨by decide +kernel, by decide +kernel, ⟨by decide +kernel, by intro st; cases st <;> rfl⟩, ⟨by decide +kernel,
    by intro st; cases st <;> rfl⟩, ⟨by decide +kernel, by intro st; cases st <;> rfl⟩, ⟨by decide +kernel, by intro st; cases st <;> rfl⟩,
    ⟨by decide +kernel, by intro st; cases st <;> rfl⟩, ⟨by decide +kernel, by intro st; cases st <;> rfl⟩, ⟨by decide +kernel,
    by intro st; cases st <;> rfl⟩, ⟨by decide +kernel, by intro st; cases st <;> rfl⟩, ⟨by decide +kernel, by intro st; cases st <;> rfl⟩,
    ⟨by decide +kernel, by intro st; cases st <;> rfl⟩⟩

theorem witness_DescriptorChecks_2 :
    ((portsQuiet (D1 h2) = true ∧ noInjection (D1 h2) = true ∧ pairServes (D1 h2) ↑(0 : Fin 64) = true ∧ (qpAt (D1 h2) ↑(0 : Fin 64)).sqHead
      = (qpAt (D1 h2) ↑(0 : Fin 64)).sqTail ∧ (List.map (fun x => x.cmd) (qpAt (D1 h2) ↑(0 : Fin 64)).taken).Nodup ∧ takenOf (D1 h2) ↑(0 :
      Fin 64) 5 = some h2 ∧ h2.started = false ∧ dOpcode h2.desc ≠ 3) ∧ (∀ (st : CtlStage), parityAt Parity.good st = ParityKind.good)) ∧
    ((portsQuiet (D1 t1) = true ∧ noInjection (D1 t1) = true ∧ pairServes (D1 t1) ↑(0 : Fin 64) = true ∧ (qpAt (D1 t1) ↑(0 : Fin 64)).sqHead
      = (qpAt (D1 t1) ↑(0 : Fin 64)).sqTail ∧ (List.map (fun x => x.cmd) (qpAt (D1 t1) ↑(0 : Fin 64)).taken).Nodup ∧ takenOf (D1 t1) ↑(0 :
      Fin 64) 5 = some t1 ∧ t1.started = false ∧ dOpcode t1.desc ≠ 49) ∧ (∀ (st : CtlStage), parityAt Parity.good st = ParityKind.good)) ∧
    ((portsQuiet (D1 t1) = true ∧ noInjection (D1 t1) = true ∧ pairServes (D1 t1) ↑(0 : Fin 64) = true ∧ (qpAt (D1 t1) ↑(0 : Fin 64)).sqHead
      = (qpAt (D1 t1) ↑(0 : Fin 64)).sqTail ∧ (List.map (fun x => x.cmd) (qpAt (D1 t1) ↑(0 : Fin 64)).taken).Nodup ∧ takenOf (D1 t1) ↑(0 :
      Fin 64) 5 = some t1 ∧ t1.started = false ∧ dOpcode t1.desc ≠ 19) ∧ (∀ (st : CtlStage), parityAt Parity.good st = ParityKind.good)) ∧
    (portsQuiet (D1 flb) = true ∧ noInjection (D1 flb) = true ∧ pairServes (D1 flb) ↑(0 : Fin 64) = true ∧ (qpAt (D1 flb) ↑(0 : Fin
      64)).sqHead = (qpAt (D1 flb) ↑(0 : Fin 64)).sqTail ∧ (List.map (fun x => x.cmd) (qpAt (D1 flb) ↑(0 : Fin 64)).taken).Nodup ∧ takenOf
      (D1 flb) ↑(0 : Fin 64) 5 = some flb ∧ flb.started = false ∧ dOpcode flb.desc = 64 ∧ badDescriptor flb.desc = true) ∧
    (portsQuiet (D1 t3) = true ∧ noInjection (D1 t3) = true ∧ pairServes (D1 t3) ↑(0 : Fin 64) = true ∧ (qpAt (D1 t3) ↑(0 : Fin 64)).sqHead
      = (qpAt (D1 t3) ↑(0 : Fin 64)).sqTail ∧ (List.map (fun x => x.cmd) (qpAt (D1 t3) ↑(0 : Fin 64)).taken).Nodup ∧ takenOf (D1 t3) ↑(0 :
      Fin 64) 7 = some t3 ∧ t3.started = false ∧ dOpcode t3.desc = 64 ∧ badDescriptor t3.desc = false) ∧
    (portsQuiet (D1 lbk) = true ∧ noInjection (D1 lbk) = true ∧ pairServes (D1 lbk) ↑(0 : Fin 64) = true ∧ (qpAt (D1 lbk) ↑(0 : Fin
      64)).sqHead = (qpAt (D1 lbk) ↑(0 : Fin 64)).sqTail ∧ (List.map (fun x => x.cmd) (qpAt (D1 lbk) ↑(0 : Fin 64)).taken).Nodup ∧ takenOf
      (D1 lbk) ↑(0 : Fin 64) 5 = some lbk ∧ lbk.started = false ∧ dOpcode lbk.desc = 80 ∧ badDescriptor lbk.desc = false) ∧
    ((portsQuiet (D1 started) = true ∧ noInjection (D1 started) = true ∧ pairServes (D1 started) ↑(0 : Fin 64) = true ∧ (qpAt (D1 started)
      ↑(0 : Fin 64)).sqHead = (qpAt (D1 started) ↑(0 : Fin 64)).sqTail ∧ (List.map (fun x => x.cmd) (qpAt (D1 started) ↑(0 : Fin
      64)).taken).Nodup ∧ takenOf (D1 started) ↑(0 : Fin 64) 5 = some started ∧ started.started = false ∧ dOpcode started.desc = 3 ∧
      badDescriptor started.desc = false ∧ recorded (D1 started) (↑(0 : Fin 64)) started.desc = none ∧ behind (D1 started) ↑(0 : Fin 64) 5
      started.desc = false ∧ started.admitted = true ∧ dInRange (D1 started) (↑(0 : Fin 64)) started.desc = true ∧ (keyAdmits (D1 started)
      (↑(0 : Fin 64)) ((dKeyIndex (D1 started) (↑(0 : Fin 64)) started.desc).getD 0) = true ∨ started.contained = true) ∧ dElasticOk (D1
      started) (↑(0 : Fin 64)) started.desc = true) ∧ (∀ (st : CtlStage), parityAt Parity.good st = ParityKind.good)) :=
  ⟨⟨by decide +kernel, by intro st; cases st <;> rfl⟩, ⟨by decide +kernel, by intro st; cases st <;> rfl⟩, ⟨by decide +kernel,
    by intro st; cases st <;> rfl⟩, by decide +kernel, by decide +kernel, by decide +kernel, ⟨by decide +kernel,
    by intro st; cases st <;> rfl⟩⟩

theorem witness_StartedCommands :
    (portsQuiet (Q [fl, t1]) = true ∧ noInjection (Q [fl, t1]) = true ∧ pairServes (Q [fl, t1]) ↑(0 : Fin 64) = true ∧ (qpAt (Q [fl, t1])
      ↑(0 : Fin 64)).sqHead = (qpAt (Q [fl, t1]) ↑(0 : Fin 64)).sqTail ∧ takenOf (Q [fl, t1]) ↑(0 : Fin 64) 7 = some fl ∧ fl.started = true
      ∧ parityAt Parity.good CtlStage.sheaf = ParityKind.good ∧ dOpcode fl.desc = 64 ∧ earlier (Q [fl, t1]) ↑(0 : Fin 64) 7 = []) ∧
    (portsQuiet (Q [t1, fl]) = true ∧ noInjection (Q [t1, fl]) = true ∧ pairServes (Q [t1, fl]) ↑(0 : Fin 64) = true ∧ (qpAt (Q [t1, fl])
      ↑(0 : Fin 64)).sqHead = (qpAt (Q [t1, fl]) ↑(0 : Fin 64)).sqTail ∧ takenOf (Q [t1, fl]) ↑(0 : Fin 64) 7 = some fl ∧ fl.started = true
      ∧ parityAt Parity.good CtlStage.sheaf = ParityKind.good ∧ dOpcode fl.desc = 64 ∧ earlier (Q [t1, fl]) ↑(0 : Fin 64) 7 ≠ []) ∧
    (portsQuiet (Q [lb 1]) = true ∧ noInjection (Q [lb 1]) = true ∧ pairServes (Q [lb 1]) ↑(0 : Fin 64) = true ∧ (qpAt (Q [lb 1]) ↑(0 : Fin
      64)).sqHead = (qpAt (Q [lb 1]) ↑(0 : Fin 64)).sqTail ∧ takenOf (Q [lb 1]) ↑(0 : Fin 64) 5 = some (lb 1) ∧ (lb 1).started = true ∧
      parityAt Parity.good CtlStage.sheaf = ParityKind.good ∧ dOpcode (lb 1).desc = 80 ∧ groupFree (Q [lb 1]) (dSrc (lb 1).desc) = false) ∧
    (portsQuiet (Q [lb 20]) = true ∧ noInjection (Q [lb 20]) = true ∧ pairServes (Q [lb 20]) ↑(0 : Fin 64) = true ∧ (qpAt (Q [lb 20]) ↑(0 :
      Fin 64)).sqHead = (qpAt (Q [lb 20]) ↑(0 : Fin 64)).sqTail ∧ takenOf (Q [lb 20]) ↑(0 : Fin 64) 5 = some (lb 20) ∧ (lb 20).started =
      true ∧ parityAt Parity.good CtlStage.sheaf = ParityKind.good ∧ dOpcode (lb 20).desc = 80 ∧ groupFree (Q [lb 20]) (dSrc (lb 20).desc) =
      true) ∧
    (portsQuiet (Qp 48) = true ∧ noInjection (Qp 48) = true ∧ pairServes (Qp 48) ↑(0 : Fin 64) = true ∧ (qpAt (Qp 48) ↑(0 : Fin 64)).sqHead
      = (qpAt (Qp 48) ↑(0 : Fin 64)).sqTail ∧ takenOf (Qp 48) ↑(0 : Fin 64) 5 = some (pinD 48) ∧ (pinD 48).started = true ∧ parityAt
      Parity.good CtlStage.sheaf = ParityKind.good ∧ (Qp 48).fw.germUp = true ∧ rangeRegion (Qp 48) (↑(0 : Fin 64)) (dDpa (pinD 48).desc) (2
      ^ ((dOperand (pinD 48).desc).toNat % 64)) = some regA ∧ dOpcode (pinD 48).desc = 48 ∧ pinRange (↑(0 : Fin 64)) (dDpa (pinD 48).desc)
      ((dOperand (pinD 48).desc).toNat % 64) regA (Qp 48) = some s1p ∧ portsQuiet s1p = true) ∧
    (portsQuiet (many (Qp 48)) = true ∧ noInjection (many (Qp 48)) = true ∧ pairServes (many (Qp 48)) ↑(0 : Fin 64) = true ∧ (qpAt (many (Qp
      48)) ↑(0 : Fin 64)).sqHead = (qpAt (many (Qp 48)) ↑(0 : Fin 64)).sqTail ∧ takenOf (many (Qp 48)) ↑(0 : Fin 64) 5 = some (pinD 48) ∧
      (pinD 48).started = true ∧ parityAt Parity.good CtlStage.sheaf = ParityKind.good ∧ (many (Qp 48)).fw.germUp = true ∧ rangeRegion (many
      (Qp 48)) (↑(0 : Fin 64)) (dDpa (pinD 48).desc) (2 ^ ((dOperand (pinD 48).desc).toNat % 64)) = some regA ∧ dOpcode (pinD 48).desc = 48
      ∧ pinRange (↑(0 : Fin 64)) (dDpa (pinD 48).desc) ((dOperand (pinD 48).desc).toNat % 64) regA (many (Qp 48)) = none) ∧
    (portsQuiet case2 = true ∧ noInjection case2 = true ∧ pairServes case2 ↑(0 : Fin 64) = true ∧ (qpAt case2 ↑(0 : Fin 64)).sqHead = (qpAt
      case2 ↑(0 : Fin 64)).sqTail ∧ takenOf case2 ↑(0 : Fin 64) 5 = some (pinD 49) ∧ (pinD 49).started = true ∧ parityAt Parity.good
      CtlStage.sheaf = ParityKind.good ∧ case2.fw.germUp = true ∧ rangeRegion case2 (↑(0 : Fin 64)) (dDpa (pinD 49).desc) (2 ^ ((dOperand
      (pinD 49).desc).toNat % 64)) = some regA ∧ dOpcode (pinD 49).desc = 49) :=
  ⟨by decide +kernel, by decide +kernel, by decide +kernel, by decide +kernel, by decide +kernel, by decide +kernel, by decide +kernel⟩

end OnQueues

/-! ### Started commands (chapter 17) -/

namespace OnCommands

def mkD (op fl cmd key cnt dpa src : Nat) (opd cmp : Nat) (user : Nat := 0xABC) : Line := BitVec.ofNat 512 (op + fl * 2^8 + cmd * 2^16 + key * 2^32 + cnt * 2^48 + dpa * 2^64 + src * 2^128 + opd * 2^192 + cmp * 2^320 + user * 2^448)
def tk (cmd : Nat) (d : Line) (f : Taken → Taken := id) : Taken := f ⟨cmd, d, false, false, false, 0, false, 0, none, 0, false⟩
def qp0 : QPair := { QPair.init with enable := true, sqTail := 5, sqHead := 5, cqHead := 3, cqTail := 63, phase := true }
def en (s : State) : State := portIn .enabled { s with crypt := { sr.crypt with copies := [(0xA6, ⟨true, 1, 1⟩)] } }
def Q (ts : List Taken) (f : QPair → QPair := id) (n : Nat := 0) (s : State := en sr) : State := setQp n (f { qp0 with taken := ts }) s
def t3 : Taken := tk 7 (mkD 0x40 0 7 0 0 0 0 0 0)
def st (t : Taken) : Taken := { t with started := true, admitted := true, key := 0xA6 }
def fl : Taken := st t3
def pinD (o : Nat) := st (tk 5 (mkD o 0 5 0 0 0x100000 0 20 0))
def Qp (o : Nat) : State := Q [pinD o]
def zo (o : Nat) (f : Nat := 0) : Taken := st (tk 5 (mkD o f 5 (if f = 1 then 0xA6 else 0) 1 0x1000 0 0 0))
def Qu (o : Nat) : State := Q [zo o]
def leafW : Word := mkLeaf 30 false false 0x40000000
def Qv (o : Nat) : State := withTree treeA (Q [zo o])
def Qn (o : Nat) : State := Q [zo o]
def zA : Taken := st (tk 5 (mkD 1 0 5 0 1 0x40000000 0 0 0))
def Qe : State := withTree treeA (Q [zA])
def sL (o : Nat) := (cqPage 0 0x1000 0xA6 (Qv o)).2
def zP (o : Nat) : Taken := st (tk 5 (mkD o 0 5 0 1 0x8000001000 0 0 0))
def enP (s : State) : State := updPort 1 (fun o => { o with state := .enabled }) s
def Qp1 (o : Nat) : State := withTree treeP (Q [zP o] (n := 0x13) (s := enP sr))
def sP (o : Nat) := (cqPage 0x13 0x8000001000 0xA6 (Qp1 o)).2
def pkW : Word := mkLeaf 12 false true 0x4C40000000
def busySf (s : State) : State := (List.finRange 8).foldl (fun t k => updSpk k (fun q => { q with sf := [(16 * sfSet (plainSector 0x40001000) + 2, { freshEntry (plainSector 0x40001000) 6 16 0 0 with st := #v[.o, .i, .i, .i], vector := 1 })] }) t) s
def decd (s : State) : State := regSetField (offDecMap 0 0 0) 16 8 6 (withPort (fun o => { o with decs := [(0, ⟨0x100000, 2^30, 256, 1, true, false⟩)] }) s)
def Qw : State := busySf (decd (Qv 1))
def sw : PageLook × State := (cqPage 0 0x1000 0xA6 Qw)
def bw : Blanking × State := blankPageStep (.command 0 5) 0 0x1000 sw.2
def zk : Taken := st (tk 5 (mkD 1 1 5 0xA6 1 0x1000 0 0 0))
def Qk : State := withTree treeK (Q [zk])
def leafK : Word := leafW ||| place 56 1
def gdn (s : State) : State := { s with fw := { s.fw with germUp := false } }
def e1 : SheafEntry := ⟨0, 0x1000, 12, 0x5000, false, false, true⟩
def e2 : SheafEntry := ⟨0, 0x2000, 12, 0x6000, true, false, false⟩
def Sh (t : Taken) : State := withPort (fun o => { o with sheaf := [e1, e2] }) (Q [t])
def cp (w : Nat) (b : Option Line) : Taken := { st (tk 5 (mkD 3 0 5 0 1 0x1000 0x2000 0 0)) with wait := w, buf := b }
def at_ (o : Nat) : Taken := st (tk 5 (mkD o 0 5 0 0 0x1010 0 7 8))

theorem witness_StartedCommands_1 :
    (portsQuiet (Qn 2) = true ∧ noInjection (Qn 2) = true ∧ pairServes (Qn 2) ↑(0 : Fin 64) = true ∧ (qpAt (Qn 2) ↑(0 : Fin 64)).sqHead =
      (qpAt (Qn 2) ↑(0 : Fin 64)).sqTail ∧ takenOf (Qn 2) ↑(0 : Fin 64) 5 = some (zo 2) ∧ (zo 2).started = true ∧ parityAt Parity.good
      CtlStage.sheaf = ParityKind.good ∧ dOpcode (zo 2).desc = 2 ∧ (Qn 2).fw.germUp = true ∧ dCount (zo 2).desc = 1 ∧ (zo 2).unit = 0 ∧ (zo
      2).wait = 0 ∧ pageMoving (Qn 2) (↑(0 : Fin 64)) (dDpa (zo 2).desc) = false ∧ pageTaken (Qn 2) ↑(0 : Fin 64) 5 (dDpa (zo 2).desc) =
      false ∧ (zo 2).cmd = 5 ∧ (qpAt (Qn 2) ↑(0 : Fin 64)).taken = [zo 2] ∧ (cqPage (↑(0 : Fin 64)) (dDpa (zo 2).desc) (zo 2).key (Qn 2)).1
      = PageLook.fault ∧ (cqPage 0 4096 166 (Qn 2)).2.queue = (Qn 2).queue ∧ portsQuiet (cqPage 0 4096 166 (Qn 2)).2 = true) ∧
    (portsQuiet (gdn (Qu 1)) = true ∧ noInjection (gdn (Qu 1)) = true ∧ pairServes (gdn (Qu 1)) ↑(0 : Fin 64) = true ∧ (qpAt (gdn (Qu 1))
      ↑(0 : Fin 64)).sqHead = (qpAt (gdn (Qu 1)) ↑(0 : Fin 64)).sqTail ∧ takenOf (gdn (Qu 1)) ↑(0 : Fin 64) 5 = some (zo 1) ∧ (zo 1).started
      = true ∧ parityAt Parity.good CtlStage.sheaf = ParityKind.good ∧ (gdn (Qu 1)).fw.germUp = false ∧ dOpcode (zo 1).desc = 1) ∧
    (portsQuiet (gdn (Qu 2)) = true ∧ noInjection (gdn (Qu 2)) = true ∧ pairServes (gdn (Qu 2)) ↑(0 : Fin 64) = true ∧ (qpAt (gdn (Qu 2))
      ↑(0 : Fin 64)).sqHead = (qpAt (gdn (Qu 2)) ↑(0 : Fin 64)).sqTail ∧ takenOf (gdn (Qu 2)) ↑(0 : Fin 64) 5 = some (zo 2) ∧ (zo 2).started
      = true ∧ parityAt Parity.good CtlStage.sheaf = ParityKind.good ∧ (gdn (Qu 2)).fw.germUp = false ∧ dOpcode (zo 2).desc = 2) ∧
    (portsQuiet (gdn (Qp 48)) = true ∧ noInjection (gdn (Qp 48)) = true ∧ pairServes (gdn (Qp 48)) ↑(0 : Fin 64) = true ∧ (qpAt (gdn (Qp
      48)) ↑(0 : Fin 64)).sqHead = (qpAt (gdn (Qp 48)) ↑(0 : Fin 64)).sqTail ∧ takenOf (gdn (Qp 48)) ↑(0 : Fin 64) 5 = some (pinD 48) ∧
      (pinD 48).started = true ∧ parityAt Parity.good CtlStage.sheaf = ParityKind.good ∧ (gdn (Qp 48)).fw.germUp = false ∧ dOpcode (pinD
      48).desc = 48) ∧
    (portsQuiet (gdn (Qp 49)) = true ∧ noInjection (gdn (Qp 49)) = true ∧ pairServes (gdn (Qp 49)) ↑(0 : Fin 64) = true ∧ (qpAt (gdn (Qp
      49)) ↑(0 : Fin 64)).sqHead = (qpAt (gdn (Qp 49)) ↑(0 : Fin 64)).sqTail ∧ takenOf (gdn (Qp 49)) ↑(0 : Fin 64) 5 = some (pinD 49) ∧
      (pinD 49).started = true ∧ parityAt Parity.good CtlStage.sheaf = ParityKind.good ∧ (gdn (Qp 49)).fw.germUp = false ∧ dOpcode (pinD
      49).desc = 49) ∧
    (portsQuiet (gdn (Qu 32)) = true ∧ noInjection (gdn (Qu 32)) = true ∧ pairServes (gdn (Qu 32)) ↑(0 : Fin 64) = true ∧ (qpAt (gdn (Qu
      32)) ↑(0 : Fin 64)).sqHead = (qpAt (gdn (Qu 32)) ↑(0 : Fin 64)).sqTail ∧ takenOf (gdn (Qu 32)) ↑(0 : Fin 64) 5 = some (zo 32) ∧ (zo
      32).started = true ∧ parityAt Parity.good CtlStage.sheaf = ParityKind.good ∧ (gdn (Qu 32)).fw.germUp = false ∧ dOpcode (zo 32).desc =
      32) ∧
    (portsQuiet (gdn (Qu 33)) = true ∧ noInjection (gdn (Qu 33)) = true ∧ pairServes (gdn (Qu 33)) ↑(0 : Fin 64) = true ∧ (qpAt (gdn (Qu
      33)) ↑(0 : Fin 64)).sqHead = (qpAt (gdn (Qu 33)) ↑(0 : Fin 64)).sqTail ∧ takenOf (gdn (Qu 33)) ↑(0 : Fin 64) 5 = some (zo 33) ∧ (zo
      33).started = true ∧ parityAt Parity.good CtlStage.sheaf = ParityKind.good ∧ (gdn (Qu 33)).fw.germUp = false ∧ dOpcode (zo 33).desc =
      33) ∧
    (portsQuiet (Sh (cp 0 none)) = true ∧ noInjection (Sh (cp 0 none)) = true ∧ pairServes (Sh (cp 0 none)) ↑(0 : Fin 64) = true ∧ (qpAt (Sh
      (cp 0 none)) ↑(0 : Fin 64)).sqHead = (qpAt (Sh (cp 0 none)) ↑(0 : Fin 64)).sqTail ∧ takenOf (Sh (cp 0 none)) ↑(0 : Fin 64) 5 = some
      (cp 0 none) ∧ (cp 0 none).started = true ∧ parityAt Parity.good CtlStage.sheaf = ParityKind.good ∧ (cp 0 none).wait = 0 ∧ 8192 = dSrc
      (cp 0 none).desc + 64 * (cp 0 none).unit ∧ dOpcode (cp 0 none).desc = 3 ∧ sheafHit (Sh (cp 0 none)) (port4 (↑(0 : Fin 64) / 16)) ↑(0 :
      Fin 64) 8192 = some e2 ∧ (e2.keyPolicy = false ∨ dExplicit (cp 0 none).desc = false ∨ (cp 0 none).contained = true)) ∧
    (portsQuiet (Sh (cp 4 (some (9 : Line)))) = true ∧ noInjection (Sh (cp 4 (some (9 : Line)))) = true ∧ pairServes (Sh (cp 4 (some (9 :
      Line)))) ↑(0 : Fin 64) = true ∧ (qpAt (Sh (cp 4 (some (9 : Line)))) ↑(0 : Fin 64)).sqHead = (qpAt (Sh (cp 4 (some (9 : Line)))) ↑(0 :
      Fin 64)).sqTail ∧ takenOf (Sh (cp 4 (some (9 : Line)))) ↑(0 : Fin 64) 5 = some (cp 4 (some (9 : Line))) ∧ (cp 4 (some (9 :
      Line))).started = true ∧ parityAt Parity.good CtlStage.sheaf = ParityKind.good ∧ ((cp 4 (some (9 : Line))).wait = 4 ∧ 4096 = dDpa (cp
      4 (some (9 : Line))).desc + 64 * (cp 4 (some (9 : Line))).unit ∧ (9 : Line) = (cp 4 (some (9 : Line))).buf.getD (0 : Line) ∨ (cp 4
      (some (9 : Line))).wait = 5 ∧ 4096 = dDpa (cp 4 (some (9 : Line))).desc + 64 * (cp 4 (some (9 : Line))).unit ∧ (9 : Line) = (0 : Line)
      ∧ false = true) ∧ dOpcode (cp 4 (some (9 : Line))).desc = 3 ∧ sheafHit (Sh (cp 4 (some (9 : Line)))) (port4 (↑(0 : Fin 64) / 16)) ↑(0
      : Fin 64) 4096 = some e1 ∧ (e1.keyPolicy = false ∨ dExplicit (cp 4 (some (9 : Line))).desc = false ∨ (cp 4 (some (9 :
      Line))).contained = true)) ∧
    (portsQuiet (Sh (cp 5 none)) = true ∧ noInjection (Sh (cp 5 none)) = true ∧ pairServes (Sh (cp 5 none)) ↑(0 : Fin 64) = true ∧ (qpAt (Sh
      (cp 5 none)) ↑(0 : Fin 64)).sqHead = (qpAt (Sh (cp 5 none)) ↑(0 : Fin 64)).sqTail ∧ takenOf (Sh (cp 5 none)) ↑(0 : Fin 64) 5 = some
      (cp 5 none) ∧ (cp 5 none).started = true ∧ parityAt Parity.good CtlStage.sheaf = ParityKind.good ∧ ((cp 5 none).wait = 4 ∧ 4096 = dDpa
      (cp 5 none).desc + 64 * (cp 5 none).unit ∧ (0 : Line) = (cp 5 none).buf.getD (0 : Line) ∧ true = false ∨ (cp 5 none).wait = 5 ∧ 4096 =
      dDpa (cp 5 none).desc + 64 * (cp 5 none).unit) ∧ dOpcode (cp 5 none).desc = 3 ∧ sheafHit (Sh (cp 5 none)) (port4 (↑(0 : Fin 64) / 16))
      ↑(0 : Fin 64) 4096 = some e1 ∧ (e1.keyPolicy = false ∨ dExplicit (cp 5 none).desc = false ∨ (cp 5 none).contained = true)) ∧
    (portsQuiet (Sh (at_ 16)) = true ∧ noInjection (Sh (at_ 16)) = true ∧ pairServes (Sh (at_ 16)) ↑(0 : Fin 64) = true ∧ (qpAt (Sh (at_
      16)) ↑(0 : Fin 64)).sqHead = (qpAt (Sh (at_ 16)) ↑(0 : Fin 64)).sqTail ∧ takenOf (Sh (at_ 16)) ↑(0 : Fin 64) 5 = some (at_ 16) ∧ (at_
      16).started = true ∧ parityAt Parity.good CtlStage.sheaf = ParityKind.good ∧ (at_ 16).wait = 0 ∧ 4112 = dDpa (at_ 16).desc ∧
      HomeOp.atomic AtomicKind.fetchAdd (7 : BitVec 128) (8 : BitVec 128) 16 = HomeOp.atomic AtomicKind.fetchAdd (dOperand (at_ 16).desc)
      (dCompare (at_ 16).desc) (dDpa (at_ 16).desc % 64) ∧ dOpcode (at_ 16).desc = 16 ∧ sheafHit (Sh (at_ 16)) (port4 (↑(0 : Fin 64) / 16))
      ↑(0 : Fin 64) 4112 = some e1 ∧ (e1.keyPolicy = false ∨ dExplicit (at_ 16).desc = false ∨ (at_ 16).contained = true)) ∧
    (portsQuiet (Sh (at_ 17)) = true ∧ noInjection (Sh (at_ 17)) = true ∧ pairServes (Sh (at_ 17)) ↑(0 : Fin 64) = true ∧ (qpAt (Sh (at_
      17)) ↑(0 : Fin 64)).sqHead = (qpAt (Sh (at_ 17)) ↑(0 : Fin 64)).sqTail ∧ takenOf (Sh (at_ 17)) ↑(0 : Fin 64) 5 = some (at_ 17) ∧ (at_
      17).started = true ∧ parityAt Parity.good CtlStage.sheaf = ParityKind.good ∧ (at_ 17).wait = 0 ∧ 4112 = dDpa (at_ 17).desc ∧
      HomeOp.atomic AtomicKind.swap (7 : BitVec 128) (8 : BitVec 128) 16 = HomeOp.atomic AtomicKind.swap (dOperand (at_ 17).desc) (dCompare
      (at_ 17).desc) (dDpa (at_ 17).desc % 64) ∧ dOpcode (at_ 17).desc = 17 ∧ sheafHit (Sh (at_ 17)) (port4 (↑(0 : Fin 64) / 16)) ↑(0 : Fin
      64) 4112 = some e1 ∧ (e1.keyPolicy = false ∨ dExplicit (at_ 17).desc = false ∨ (at_ 17).contained = true)) :=
  ⟨by decide +kernel, by decide +kernel, by decide +kernel, by decide +kernel, by decide +kernel, by decide +kernel, by decide +kernel,
    by decide +kernel, by decide +kernel, by decide +kernel, by decide +kernel, by decide +kernel⟩

theorem witness_StartedCommands_2 :
    (portsQuiet (Sh (at_ 18)) = true ∧ noInjection (Sh (at_ 18)) = true ∧ pairServes (Sh (at_ 18)) ↑(0 : Fin 64) = true ∧ (qpAt (Sh (at_
      18)) ↑(0 : Fin 64)).sqHead = (qpAt (Sh (at_ 18)) ↑(0 : Fin 64)).sqTail ∧ takenOf (Sh (at_ 18)) ↑(0 : Fin 64) 5 = some (at_ 18) ∧ (at_
      18).started = true ∧ parityAt Parity.good CtlStage.sheaf = ParityKind.good ∧ (at_ 18).wait = 0 ∧ 4112 = dDpa (at_ 18).desc ∧
      HomeOp.atomic AtomicKind.cas8 (7 : BitVec 128) (8 : BitVec 128) 16 = HomeOp.atomic AtomicKind.cas8 (dOperand (at_ 18).desc) (dCompare
      (at_ 18).desc) (dDpa (at_ 18).desc % 64) ∧ dOpcode (at_ 18).desc = 18 ∧ sheafHit (Sh (at_ 18)) (port4 (↑(0 : Fin 64) / 16)) ↑(0 : Fin
      64) 4112 = some e1 ∧ (e1.keyPolicy = false ∨ dExplicit (at_ 18).desc = false ∨ (at_ 18).contained = true)) ∧
    (portsQuiet (Sh (at_ 19)) = true ∧ noInjection (Sh (at_ 19)) = true ∧ pairServes (Sh (at_ 19)) ↑(0 : Fin 64) = true ∧ (qpAt (Sh (at_
      19)) ↑(0 : Fin 64)).sqHead = (qpAt (Sh (at_ 19)) ↑(0 : Fin 64)).sqTail ∧ takenOf (Sh (at_ 19)) ↑(0 : Fin 64) 5 = some (at_ 19) ∧ (at_
      19).started = true ∧ parityAt Parity.good CtlStage.sheaf = ParityKind.good ∧ (at_ 19).wait = 0 ∧ 4112 = dDpa (at_ 19).desc ∧
      HomeOp.atomic AtomicKind.cas16 (7 : BitVec 128) (8 : BitVec 128) 16 = HomeOp.atomic AtomicKind.cas16 (dOperand (at_ 19).desc)
      (dCompare (at_ 19).desc) (dDpa (at_ 19).desc % 64) ∧ dOpcode (at_ 19).desc = 19 ∧ sheafHit (Sh (at_ 19)) (port4 (↑(0 : Fin 64) / 16))
      ↑(0 : Fin 64) 4112 = some e1 ∧ (e1.keyPolicy = false ∨ dExplicit (at_ 19).desc = false ∨ (at_ 19).contained = true)) :=
  ⟨by decide +kernel, by decide +kernel⟩

theorem witness_StartedCommands_3 :
    portsQuiet Qe = true ∧ noInjection Qe = true ∧ pairServes Qe ↑(0 : Fin 64) = true ∧ (qpAt Qe ↑(0 : Fin 64)).sqHead = (qpAt Qe ↑(0 : Fin
      64)).sqTail ∧ takenOf Qe ↑(0 : Fin 64) 5 = some zA ∧ zA.started = true ∧ parityAt Parity.good CtlStage.sheaf = ParityKind.good ∧
      dOpcode zA.desc = 1 ∧ Qe.fw.germUp = true ∧ dCount zA.desc = 1 ∧ zA.unit = 0 ∧ zA.wait = 0 ∧ pageMoving Qe (↑(0 : Fin 64)) (dDpa
      zA.desc) = false ∧ pageTaken Qe ↑(0 : Fin 64) 5 (dDpa zA.desc) = false ∧ zA.cmd = 5 ∧ (qpAt Qe ↑(0 : Fin 64)).taken = [zA] ∧ (cqPage
      (↑(0 : Fin 64)) (dDpa zA.desc) zA.key Qe).1 = PageLook.unbacked ∧ (cqPage 0 1073741824 166 Qe).2.queue = Qe.queue ∧ portsQuiet (cqPage
      0 1073741824 166 Qe).2 = true :=
  by decide +kernel

/-- The same command where the image names no region at the leaf: nothing is left to blank. -/
def Qd : State := { Qp1 1 with img := some { img0 with regions := [regA] } }
def sD := (cqPage 0x13 0x8000001000 0xA6 Qd).2
def bD := blankPageStep (.command 0x13 5) 0x13 0x8000001000 sD

theorem witness_StartedCommands_4_before :
    portsQuiet Qd = true ∧ noInjection Qd = true ∧ pairServes Qd (19 : Fin 64) = true ∧ (qpAt Qd (19 : Fin 64)).sqHead =
      (qpAt Qd (19 : Fin 64)).sqTail ∧ takenOf Qd (19 : Fin 64) 5 = some (zP 1) ∧ (zP 1).started = true ∧
      parityAt Parity.good CtlStage.sheaf = ParityKind.good ∧ dOpcode (zP 1).desc = 1 ∧ Qd.fw.germUp = true ∧
      dCount (zP 1).desc = 1 ∧ (zP 1).unit = 0 ∧ (zP 1).wait = 0 ∧ pageMoving Qd (19 : Fin 64) (dDpa (zP 1).desc) = false ∧
      pageTaken Qd (19 : Fin 64) 5 (dDpa (zP 1).desc) = false ∧ (zP 1).cmd = 5 ∧ (qpAt Qd (19 : Fin 64)).taken = [zP 1] :=
  by decide +kernel

theorem witness_StartedCommands_4_leaf :
    (cqPage (19 : Fin 64) (dDpa (zP 1).desc) (zP 1).key Qd).1 = PageLook.leaf pkW ∧ policyRefuses (zP 1) pkW = false := by decide +kernel

theorem witness_StartedCommands_4_done :
    (blankPageStep (.command (19 : Fin 64) 5) (19 : Fin 64) (dDpa (zP 1).desc) sD).1 = Blanking.done := by decide +kernel

theorem witness_StartedCommands_4_queue : bD.2.queue = Qd.queue := by decide +kernel

theorem witness_StartedCommands_4_ports : portsQuiet bD.2 = true := by decide +kernel

theorem witness_StartedCommands_4_still : pageMoving bD.2 (19 : Fin 64) (dDpa (zP 1).desc) = false := by decide +kernel

theorem witness_StartedCommands_4 :
    portsQuiet Qd = true ∧ noInjection Qd = true ∧ pairServes Qd (19 : Fin 64) = true ∧ (qpAt Qd (19 : Fin 64)).sqHead =
      (qpAt Qd (19 : Fin 64)).sqTail ∧ takenOf Qd (19 : Fin 64) 5 = some (zP 1) ∧ (zP 1).started = true ∧
      parityAt Parity.good CtlStage.sheaf = ParityKind.good ∧ dOpcode (zP 1).desc = 1 ∧ Qd.fw.germUp = true ∧
      dCount (zP 1).desc = 1 ∧ (zP 1).unit = 0 ∧ (zP 1).wait = 0 ∧ pageMoving Qd (19 : Fin 64) (dDpa (zP 1).desc) = false ∧
      pageTaken Qd (19 : Fin 64) 5 (dDpa (zP 1).desc) = false ∧ (zP 1).cmd = 5 ∧ (qpAt Qd (19 : Fin 64)).taken = [zP 1] ∧
      (cqPage (19 : Fin 64) (dDpa (zP 1).desc) (zP 1).key Qd).1 = PageLook.leaf pkW ∧ policyRefuses (zP 1) pkW = false ∧
      (blankPageStep (.command (19 : Fin 64) 5) (19 : Fin 64) (dDpa (zP 1).desc) sD).1 = Blanking.done ∧
      bD.2.queue = Qd.queue ∧ portsQuiet bD.2 = true ∧ pageMoving bD.2 (19 : Fin 64) (dDpa (zP 1).desc) = false :=
  have ⟨h0, h1, h2, h3, h4, h5, h6, h7, h8, h9, h10, h11, h12, h13, h14, h15⟩ := witness_StartedCommands_4_before
  ⟨h0, h1, h2, h3, h4, h5, h6, h7, h8, h9, h10, h11, h12, h13, h14, h15, witness_StartedCommands_4_leaf.1,
    witness_StartedCommands_4_leaf.2, witness_StartedCommands_4_done, witness_StartedCommands_4_queue,
    witness_StartedCommands_4_ports, witness_StartedCommands_4_still⟩

theorem witness_StartedCommands_5_before :
    portsQuiet Qw = true ∧ noInjection Qw = true ∧ pairServes Qw ↑(0 : Fin 64) = true ∧ (qpAt Qw ↑(0 : Fin 64)).sqHead = (qpAt Qw ↑(0 : Fin
      64)).sqTail ∧ takenOf Qw ↑(0 : Fin 64) 5 = some (zo 1) ∧ (zo 1).started = true ∧ parityAt Parity.good CtlStage.sheaf = ParityKind.good
      ∧ dOpcode (zo 1).desc = 1 ∧ Qw.fw.germUp = true ∧ dCount (zo 1).desc = 1 ∧ (zo 1).unit = 0 ∧ (zo 1).wait = 0 ∧ pageMoving Qw (↑(0 :
      Fin 64)) (dDpa (zo 1).desc) = false ∧ pageTaken Qw ↑(0 : Fin 64) 5 (dDpa (zo 1).desc) = false ∧ (zo 1).cmd = 5 ∧ (qpAt Qw ↑(0 : Fin
      64)).taken = [zo 1] ∧ (cqPage (↑(0 : Fin 64)) (dDpa (zo 1).desc) (zo 1).key Qw).1 = PageLook.leaf leafW ∧ policyRefuses (zo 1) leafW =
      false :=
  by decide +kernel

theorem witness_StartedCommands_5_part1 : (blankPageStep (HoldOwner.command ↑(0 : Fin 64) 5) (↑(0 : Fin 64)) (dDpa (zo 1).desc) sw.2).1 = Blanking.waits :=
  by decide +kernel

theorem witness_StartedCommands_5_part2 : bw.2.queue = Qw.queue :=
  by decide +kernel

theorem witness_StartedCommands_5_part3 : portsQuiet bw.2 = true :=
  by decide +kernel

theorem witness_StartedCommands_5 :
    portsQuiet Qw = true ∧ noInjection Qw = true ∧ pairServes Qw ↑(0 : Fin 64) = true ∧ (qpAt Qw ↑(0 : Fin 64)).sqHead = (qpAt Qw ↑(0 : Fin
      64)).sqTail ∧ takenOf Qw ↑(0 : Fin 64) 5 = some (zo 1) ∧ (zo 1).started = true ∧ parityAt Parity.good CtlStage.sheaf = ParityKind.good
      ∧ dOpcode (zo 1).desc = 1 ∧ Qw.fw.germUp = true ∧ dCount (zo 1).desc = 1 ∧ (zo 1).unit = 0 ∧ (zo 1).wait = 0 ∧ pageMoving Qw (↑(0 :
      Fin 64)) (dDpa (zo 1).desc) = false ∧ pageTaken Qw ↑(0 : Fin 64) 5 (dDpa (zo 1).desc) = false ∧ (zo 1).cmd = 5 ∧ (qpAt Qw ↑(0 : Fin
      64)).taken = [zo 1] ∧ (cqPage (↑(0 : Fin 64)) (dDpa (zo 1).desc) (zo 1).key Qw).1 = PageLook.leaf leafW ∧ policyRefuses (zo 1) leafW =
      false ∧ (blankPageStep (HoldOwner.command ↑(0 : Fin 64) 5) (↑(0 : Fin 64)) (dDpa (zo 1).desc) sw.2).1 = Blanking.waits ∧ bw.2.queue =
      Qw.queue ∧ portsQuiet bw.2 = true :=
  have ⟨h0, h1, h2, h3, h4, h5, h6, h7, h8, h9, h10, h11, h12, h13, h14, h15, h16, h17⟩ := witness_StartedCommands_5_before
  ⟨h0, h1, h2, h3, h4, h5, h6, h7, h8, h9, h10, h11, h12, h13, h14, h15, h16, h17, witness_StartedCommands_5_part1, witness_StartedCommands_5_part2, witness_StartedCommands_5_part3⟩

theorem witness_StartedCommands_6 :
    portsQuiet Qk = true ∧ noInjection Qk = true ∧ pairServes Qk ↑(0 : Fin 64) = true ∧ (qpAt Qk ↑(0 : Fin 64)).sqHead = (qpAt Qk ↑(0 : Fin
      64)).sqTail ∧ takenOf Qk ↑(0 : Fin 64) 5 = some zk ∧ zk.started = true ∧ parityAt Parity.good CtlStage.sheaf = ParityKind.good ∧
      dOpcode zk.desc = 1 ∧ Qk.fw.germUp = true ∧ dCount zk.desc = 1 ∧ zk.unit = 0 ∧ zk.wait = 0 ∧ pageMoving Qk (↑(0 : Fin 64)) (dDpa
      zk.desc) = false ∧ pageTaken Qk ↑(0 : Fin 64) 5 (dDpa zk.desc) = false ∧ zk.cmd = 5 ∧ (qpAt Qk ↑(0 : Fin 64)).taken = [zk] ∧ (cqPage
      (↑(0 : Fin 64)) (dDpa zk.desc) zk.key Qk).1 = PageLook.leaf leafK ∧ policyRefuses zk leafK = true ∧ (cqPage 0 4096 166 Qk).2.queue =
      Qk.queue ∧ portsQuiet (cqPage 0 4096 166 Qk).2 = true :=
  by decide +kernel

theorem witness_StartedCommands_7 :
    portsQuiet (Qv 32) = true ∧ noInjection (Qv 32) = true ∧ pairServes (Qv 32) ↑(0 : Fin 64) = true ∧ (qpAt (Qv 32) ↑(0 : Fin 64)).sqHead =
      (qpAt (Qv 32) ↑(0 : Fin 64)).sqTail ∧ takenOf (Qv 32) ↑(0 : Fin 64) 5 = some (zo 32) ∧ (zo 32).started = true ∧ parityAt Parity.good
      CtlStage.sheaf = ParityKind.good ∧ dOpcode (zo 32).desc = 32 ∧ ((Qv 32).fw.germUp = true ∨ (sheafHit (Qv 32) (port4 (↑(0 : Fin 64) /
      16)) (↑(0 : Fin 64)) (dDpa (zo 32).desc)).isSome = true) ∧ dCount (zo 32).desc = 1 ∧ (zo 32).unit = 0 ∧ (zo 32).cmd = 5 ∧ (qpAt (Qv
      32) ↑(0 : Fin 64)).taken = [zo 32] ∧ cqPage (↑(0 : Fin 64)) (dDpa (zo 32).desc) (zo 32).key (Qv 32) = (PageLook.leaf leafW, sL 32) ∧
      policyRefuses (zo 32) leafW = false ∧ (sL 32).queue = (Qv 32).queue ∧ portsQuiet (sL 32) = true :=
  by decide +kernel

theorem witness_StartedCommands_8 :
    portsQuiet (Qv 33) = true ∧ noInjection (Qv 33) = true ∧ pairServes (Qv 33) ↑(0 : Fin 64) = true ∧ (qpAt (Qv 33) ↑(0 : Fin 64)).sqHead =
      (qpAt (Qv 33) ↑(0 : Fin 64)).sqTail ∧ takenOf (Qv 33) ↑(0 : Fin 64) 5 = some (zo 33) ∧ (zo 33).started = true ∧ parityAt Parity.good
      CtlStage.sheaf = ParityKind.good ∧ dOpcode (zo 33).desc = 33 ∧ ((Qv 33).fw.germUp = true ∨ (sheafHit (Qv 33) (port4 (↑(0 : Fin 64) /
      16)) (↑(0 : Fin 64)) (dDpa (zo 33).desc)).isSome = true) ∧ dCount (zo 33).desc = 1 ∧ (zo 33).unit = 0 ∧ (zo 33).cmd = 5 ∧ (qpAt (Qv
      33) ↑(0 : Fin 64)).taken = [zo 33] ∧ cqPage (↑(0 : Fin 64)) (dDpa (zo 33).desc) (zo 33).key (Qv 33) = (PageLook.leaf leafW, sL 33) ∧
      policyRefuses (zo 33) leafW = false ∧ (sL 33).queue = (Qv 33).queue ∧ portsQuiet (sL 33) = true :=
  by decide +kernel

end OnCommands

/-! ### The mailbox (chapter 2) -/

namespace OnMailbox

def en : State := portIn .enabled { sr with crypt := { sr.crypt with copies := [(0xA6, ⟨true, 1, 1⟩)] } }
def noM : State := withBring (fun b => { b with mboxReady := false }) en
def noB : State := { en with fw := { en.fw with branUp := false } }
def rec : State := withBring (fun b => { b with step := 10 }) noB
def mb (f : Mailbox → Mailbox) (s : State := en) : State := updMbox 0 0 f s
def evs : State := mb (fun b => { b with events := [⟨5, 1, 9⟩, ⟨6, 2, 10⟩, ⟨7, 1, 11⟩] })
def en1 : State := updPort 1 (fun o => { o with state := .enabled, links := o.links.set 0 linkUp }) en

theorem witness_MailboxCommands_1 :
    (mboxReachable noM (0 : Fin 4) (0 : Fin 4) = false) ∧
    (mboxReachable noB (0 : Fin 4) (0 : Fin 4) = true ∧ germServes noB = false ∧ noB.fw.branUp = false) ∧
    (mailServes rec (0 : Fin 4) (0 : Fin 4) 1 = true) ∧
    (mailServes en (0 : Fin 4) (0 : Fin 4) 1 = true) ∧
    (mboxReachable rec (0 : Fin 4) (0 : Fin 4) = true ∧ germServes rec = true ∧ germOpcodes.contains 2 = false) ∧
    (mailServes en (0 : Fin 4) (0 : Fin 4) 2 = true) ∧
    (mboxReachable rec (0 : Fin 4) (0 : Fin 4) = true ∧ germServes rec = true ∧ germOpcodes.contains 3 = false) ∧
    (mailServes en (0 : Fin 4) (0 : Fin 4) 3 = true) ∧
    (mboxReachable rec (0 : Fin 4) (0 : Fin 4) = true ∧ germServes rec = true ∧ germOpcodes.contains 256 = false) ∧
    (mboxReachable rec (0 : Fin 4) (0 : Fin 4) = true ∧ germServes rec = true ∧ germOpcodes.contains 257 = false) ∧
    (mboxReachable rec (0 : Fin 4) (0 : Fin 4) = true ∧ germServes rec = true ∧ germOpcodes.contains 258 = false) ∧
    (mailServes en (0 : Fin 4) (0 : Fin 4) 258 = true) :=
  ⟨by decide +kernel, by decide +kernel, by decide +kernel, by decide +kernel, by decide +kernel, by decide +kernel, by decide +kernel,
    by decide +kernel, by decide +kernel, by decide +kernel, by decide +kernel, by decide +kernel⟩

theorem witness_MailboxCommands_2 :
    (mboxReachable rec (0 : Fin 4) (0 : Fin 4) = true ∧ germServes rec = true ∧ germOpcodes.contains 259 = false) ∧
    (mailServes en (0 : Fin 4) (0 : Fin 4) 259 = true) ∧
    (mailServes rec (0 : Fin 4) (0 : Fin 4) 512 = true) ∧
    (mailServes en (0 : Fin 4) (0 : Fin 4) 512 = true) ∧
    (mailServes rec (0 : Fin 4) (0 : Fin 4) 513 = true) ∧
    (mailServes en (0 : Fin 4) (0 : Fin 4) 513 = true) ∧
    (mailServes rec (0 : Fin 4) (0 : Fin 4) 514 = true) ∧
    (mailServes en (0 : Fin 4) (0 : Fin 4) 514 = true) ∧
    (mboxReachable rec (0 : Fin 4) (0 : Fin 4) = true ∧ germServes rec = true ∧ germOpcodes.contains 768 = false) ∧
    (mailServes en (0 : Fin 4) (0 : Fin 4) 768 = true) ∧
    (mboxReachable rec (0 : Fin 4) (0 : Fin 4) = true ∧ germServes rec = true ∧ germOpcodes.contains 769 = false) ∧
    (mailServes en (0 : Fin 4) (0 : Fin 4) 769 = true) :=
  ⟨by decide +kernel, by decide +kernel, by decide +kernel, by decide +kernel, by decide +kernel, by decide +kernel, by decide +kernel,
    by decide +kernel, by decide +kernel, by decide +kernel, by decide +kernel, by decide +kernel⟩

theorem witness_MailboxCommands_3 :
    (mailServes rec (0 : Fin 4) (0 : Fin 4) 1024 = true) ∧
    (mailServes en (0 : Fin 4) (0 : Fin 4) 1024 = true) ∧
    (mailServes rec (0 : Fin 4) (0 : Fin 4) 1025 = true) ∧
    (mboxReachable rec (0 : Fin 4) (0 : Fin 4) = true ∧ germServes rec = true ∧ germOpcodes.contains 16384 = false) ∧
    (mailServes en (0 : Fin 4) (0 : Fin 4) 16384 = true) ∧
    (mboxReachable rec (0 : Fin 4) (0 : Fin 4) = true ∧ germServes rec = true ∧ germOpcodes.contains 16640 = false) ∧
    (mailServes en (0 : Fin 4) (0 : Fin 4) 16640 = true) ∧
    (mboxReachable rec (0 : Fin 4) (0 : Fin 4) = true ∧ germServes rec = true ∧ germOpcodes.contains 16896 = false) ∧
    (mailServes en (0 : Fin 4) (0 : Fin 4) 16896 = true) ∧
    (mboxReachable rec (0 : Fin 4) (0 : Fin 4) = true ∧ germServes rec = true ∧ germOpcodes.contains 16897 = false) ∧
    (mailServes en (0 : Fin 4) (0 : Fin 4) 16897 = true) ∧
    (mboxReachable rec (0 : Fin 4) (0 : Fin 4) = true ∧ germServes rec = true ∧ germOpcodes.contains 16898 = false) :=
  ⟨by decide +kernel, by decide +kernel, by decide +kernel, by decide +kernel, by decide +kernel, by decide +kernel, by decide +kernel,
    by decide +kernel, by decide +kernel, by decide +kernel, by decide +kernel, by decide +kernel⟩

theorem witness_MailboxCommands_4 :
    (mailServes en (0 : Fin 4) (0 : Fin 4) 16898 = true) ∧
    (mboxReachable rec (0 : Fin 4) (0 : Fin 4) = true ∧ germServes rec = true ∧ germOpcodes.contains 16899 = false) ∧
    (mailServes en (0 : Fin 4) (0 : Fin 4) 16899 = true) ∧
    (mboxReachable rec (0 : Fin 4) (0 : Fin 4) = true ∧ germServes rec = true ∧ germOpcodes.contains 16900 = false) ∧
    (mboxReachable rec (0 : Fin 4) (0 : Fin 4) = true ∧ germServes rec = true ∧ germOpcodes.contains 17152 = false) ∧
    (mailServes en (0 : Fin 4) (0 : Fin 4) 17152 = true) ∧
    (mboxReachable rec (0 : Fin 4) (0 : Fin 4) = true ∧ germServes rec = true ∧ germOpcodes.contains 17153 = false) ∧
    (mailServes en (0 : Fin 4) (0 : Fin 4) 17153 = true) ∧
    (mboxReachable rec (0 : Fin 4) (0 : Fin 4) = true ∧ germServes rec = true ∧ germOpcodes.contains 17154 = false) ∧
    (mailServes en (0 : Fin 4) (0 : Fin 4) 17154 = true) ∧
    (mboxReachable rec (0 : Fin 4) (0 : Fin 4) = true ∧ germServes rec = true ∧ germOpcodes.contains 17155 = false) ∧
    (mailServes en (0 : Fin 4) (0 : Fin 4) 17155 = true) :=
  ⟨by decide +kernel, by decide +kernel, by decide +kernel, by decide +kernel, by decide +kernel, by decide +kernel, by decide +kernel,
    by decide +kernel, by decide +kernel, by decide +kernel, by decide +kernel, by decide +kernel⟩

theorem witness_MailboxCommands_5 :
    (mboxReachable rec (0 : Fin 4) (0 : Fin 4) = true ∧ germServes rec = true ∧ germOpcodes.contains 17156 = false) ∧
    (mailServes en (0 : Fin 4) (0 : Fin 4) 17156 = true) ∧
    (mboxReachable rec (0 : Fin 4) (0 : Fin 4) = true ∧ germServes rec = true ∧ germOpcodes.contains 17157 = false) ∧
    (mailServes en (0 : Fin 4) (0 : Fin 4) 17157 = true) ∧
    (mboxReachable rec (0 : Fin 4) (0 : Fin 4) = true ∧ germServes rec = true ∧ germOpcodes.contains 17408 = false) ∧
    (mailServes en (0 : Fin 4) (0 : Fin 4) 17408 = true) ∧
    (mboxReachable rec (0 : Fin 4) (0 : Fin 4) = true ∧ germServes rec = true ∧ germOpcodes.contains 17409 = false) ∧
    (mailServes en (0 : Fin 4) (0 : Fin 4) 17409 = true) ∧
    (mboxReachable rec (0 : Fin 4) (0 : Fin 4) = true ∧ germServes rec = true ∧ germOpcodes.contains 21504 = false) ∧
    (mboxReachable rec (0 : Fin 4) (0 : Fin 4) = true ∧ germServes rec = true ∧ germOpcodes.contains 21505 = false) ∧
    (mboxReachable rec (0 : Fin 4) (0 : Fin 4) = true ∧ germServes rec = true ∧ germOpcodes.contains 39321 = false) ∧
    (mailServes en (0 : Fin 4) (0 : Fin 4) 39321 = true) :=
  ⟨by decide +kernel, by decide +kernel, by decide +kernel, by decide +kernel, by decide +kernel, by decide +kernel, by decide +kernel,
    by decide +kernel, by decide +kernel, by decide +kernel, by decide +kernel, by decide +kernel⟩

theorem witness_MailboxCommands_6 :
    ((mb fun b => { b with bgOpcode := 17156, bgDone := true }).fw.erasing = [] ∧ mailServes (mb fun b =>
      { b with bgOpcode := 17156, bgDone := true }) (0 : Fin 4) (0 : Fin 4) 2 = true) ∧
    (3 < 4 ∧ mailServes en (0 : Fin 4) (0 : Fin 4) 256 = true) ∧
    (3 < 4 ∧ mailServes en (0 : Fin 4) (0 : Fin 4) 257 = true) ∧
    (1 ≤ 3 ∧ mailServes evs (0 : Fin 4) (0 : Fin 4) 256 = true) ∧
    (3 ≤ 3 ∧ mailServes evs (0 : Fin 4) (0 : Fin 4) 256 = true) ∧
    (0 ≤ 3 ∧ mailServes en (0 : Fin 4) (0 : Fin 4) 256 = true) ∧
    (1 ≤ 3 ∧ (false = true ∨ ∀ h ∈ [7], ∃ e ∈ evs.ports[(0 : Fin 4)].mbox[(0 : Fin 4)].events, e.code = 1 ∧ e.handle = h) ∧ mailServes evs
      (0 : Fin 4) (0 : Fin 4) 257 = true) ∧
    (1 ≤ 3 ∧ (∃ h ∈ [7, 9], ∀ e ∈ evs.ports[(0 : Fin 4)].mbox[(0 : Fin 4)].events, e.code = 1 → e.handle ≠ h) ∧ mailServes evs (0 : Fin 4)
      (0 : Fin 4) 257 = true) ∧
    (mailServes (mb (fun b => { b with timestamp := 50, timestampAt := 20 }) ({ en with dtime := 30 })) (0 : Fin 4) (0 : Fin 4) 768 = true)
      ∧
    (4 + 4 ≤ (effectsLog en).length ∧ mailServes en (0 : Fin 4) (0 : Fin 4) 1025 = true) ∧
    ((effectsLog en).length < 4 + 4000 ∧ mailServes en (0 : Fin 4) (0 : Fin 4) 1025 = true) ∧
    (1 ≤ 1 ∧ mailServes en (0 : Fin 4) (0 : Fin 4) 16900 = true) :=
  ⟨by decide +kernel, by decide +kernel, by decide +kernel, by decide +kernel, by decide +kernel, by decide +kernel, by decide +kernel,
    by decide +kernel, by decide +kernel, by decide +kernel, by decide +kernel, by decide +kernel⟩

theorem witness_MailboxCommands_7 :
    (1 < 2 ∧ mailServes en (0 : Fin 4) (0 : Fin 4) 16900 = true) ∧
    (linkMode en ↑(0 : Fin 4) ↑(0 : Fin 4) ≠ 3 ∧ mailServes en (0 : Fin 4) (0 : Fin 4) 21504 = true) ∧
    (linkMode en ↑(0 : Fin 4) ↑(0 : Fin 4) ≠ 3 ∧ mailServes en (0 : Fin 4) (0 : Fin 4) 21505 = true) ∧
    (linkMode en1 ↑(1 : Fin 4) ↑(0 : Fin 4) = 3 ∧ mailServes en1 (1 : Fin 4) (0 : Fin 4) 21505 = true) ∧
    (linkMode en1 ↑(1 : Fin 4) ↑(0 : Fin 4) = 3 ∧ mailServes en1 (1 : Fin 4) (0 : Fin 4) 21504 = true) :=
  ⟨by decide +kernel, by decide +kernel, by decide +kernel, by decide +kernel, by decide +kernel⟩

end OnMailbox

/-! ### Firmware, poison and the BMC (chapters 2, 13, 17) -/

namespace OnFirmware

def en : State := portIn .enabled { sr with crypt := { sr.crypt with copies := [(0xA6, ⟨true, 1, 1⟩)] }, free := 40 }
def mb (f : Mailbox → Mailbox) (s : State := en) : State := updMbox 0 0 f s
def op (o : Nat) : State := mb fun x => { x with xferOpen := true, xferCopy := 2, xferOff := o }
def case1 : ℕ := ((match checkCopy en true with | .refused r => r | _ => 99))
def enF : State := { en with flash := flashAB }
def enB : State := { enF with imgCopyB := true }
def noB : State := { en with fw := { en.fw with branUp := false } }
def kn : State := mb fun b => { b with poison := [0x1040, 0x1100, 0x1000 + 2^48], scanned := [0x1000, 0x2000] }
def nofi : State := { en with img := some { img0 with faultInjection := false } }
def nok : State := { en with crypt := { en.crypt with copies := [] } }
def hl2 : State := { kn with domainDown := true }
def bgo : State := { kn with fw := { kn.fw with erasing := [⟨0, 0, 0, true, [], none, 0⟩] } }
def slots (s : State) : State := { s with crypt := { s.crypt with slots := [(0xA6, ⟨7, subkey 7, 1, 1, .loaded⟩), (0xA7, ⟨9, subkey 9, 1, 1, .loaded⟩)] } }
def gd (s : State) : State := { s with fw := { s.fw with germUp := false } }
def ej : EraseJob := ⟨0, 0, 0, true, [0xA6], some (1, 1), 0⟩
def rt : State := { slots kn with fw := { kn.fw with erasing := [ej] }, crypt := { (slots kn).crypt with busy := true, markers := 0xF, openSlot := 0xA6, slots := [(0xA6, ⟨7, subkey 7, 1, 1, .retiring⟩)] } }

theorem witness_FirmwareTransferAndActivation :
    (slotCopyB 2 = some true ∧ mailServes en (0 : Fin 4) (0 : Fin 4) 512 = true) ∧
    (slotCopyB 1 = some false ∧ mailServes en (0 : Fin 4) (0 : Fin 4) 513 = true ∧ isRunning en false = true) ∧
    (slotCopyB 2 = some true ∧ mailServes en (0 : Fin 4) (0 : Fin 4) 513 = true ∧ isRunning en true = false ∧ 0 + [(1 : Byte), (2 :
      Byte)].length ≤ 13631488) ∧
    (slotCopyB 2 = some true ∧ mailServes en (0 : Fin 4) (0 : Fin 4) 513 = true ∧ isRunning en true = false ∧ 1048575 + [(1 : Byte), (2 :
      Byte)].length ≤ 13631488 ∧ 1048575 ≠ 0) ∧
    (slotCopyB 2 = some true ∧ mailServes (op 1048575) (0 : Fin 4) (0 : Fin 4) 513 = true ∧ isRunning (op 1048575) true = false ∧ 1048575 +
      [(1 : Byte), (2 : Byte)].length ≤ 13631488 ∧ (op 1048575).ports[(0 : Fin 4)].mbox[(0 : Fin 4)].xferOpen = true ∧ (op 1048575).ports[(0
      : Fin 4)].mbox[(0 : Fin 4)].xferCopy = 2 ∧ (op 1048575).ports[(0 : Fin 4)].mbox[(0 : Fin 4)].xferOff = 1048575) ∧
    (slotCopyB 2 = some true ∧ mailServes (op 1048575) (0 : Fin 4) (0 : Fin 4) 513 = true ∧ isRunning (op 1048575) true = false ∧ 1048574 +
      [(1 : Byte), (2 : Byte)].length ≤ 13631488 ∧ ((op 1048575).ports[(0 : Fin 4)].mbox[(0 : Fin 4)].xferOpen = false ∨ (op
      1048575).ports[(0 : Fin 4)].mbox[(0 : Fin 4)].xferCopy ≠ 2 ∨ (op 1048575).ports[(0 : Fin 4)].mbox[(0 : Fin 4)].xferOff ≠ 1048574)) ∧
    (slotCopyB 2 = some true ∧ mailServes (op 1048575) (0 : Fin 4) (0 : Fin 4) 513 = true ∧ isRunning (op 1048575) true = false ∧ 1048574 +
      [(1 : Byte), (2 : Byte)].length ≤ 13631488 ∧ (op 1048575).ports[(0 : Fin 4)].mbox[(0 : Fin 4)].xferOpen = true) ∧
    (slotCopyB 2 = some true ∧ mailServes en (0 : Fin 4) (0 : Fin 4) 514 = true ∧ checkCopy en true = CopyCheck.refused case1) ∧
    (slotCopyB 2 = some true ∧ noB.fw.branUp = false) ∧
    (slotCopyB 2 = some true ∧ en.fw.branUp = true ∧ branMayWrite en 0 [(1 : Byte), (2 : Byte)].length = true) ∧
    (slotCopyB 2 = some true ∧ en.fw.branUp = true ∧ branMayWrite en 65536 [(1 : Byte), (2 : Byte)].length = false) :=
  ⟨by decide +kernel, by decide +kernel, by decide +kernel, by decide +kernel, by decide +kernel, by decide +kernel, by decide +kernel,
    by decide +kernel, by decide +kernel, by decide +kernel, by decide +kernel⟩

theorem witness_PoisonScanAndErase_1 :
    (mailServes en (0 : Fin 4) (0 : Fin 4) 17152 = true ∧ poisonRange en (0 : Fin 4) (0 : Fin 4) (0 : Fin 16) 4112 4 ≠ 0) ∧
    (mailServes en (0 : Fin 4) (0 : Fin 4) 17152 = true ∧ poisonRange en (0 : Fin 4) (0 : Fin 4) (1 : Fin 16) 4096 4 ≠ 0) ∧
    (mailServes kn (0 : Fin 4) (0 : Fin 4) 17152 = true ∧ poisonRange kn (0 : Fin 4) (0 : Fin 4) (0 : Fin 16) 4096 4 = 0) ∧
    (mailServes nofi (0 : Fin 4) (0 : Fin 4) 17153 = true ∧ fiPermitted nofi = false) ∧
    (mailServes en (0 : Fin 4) (0 : Fin 4) 17153 = true ∧ fiPermitted en = true ∧ poisonRange en (0 : Fin 4) (0 : Fin 4) (0 : Fin 16) 4112 1
      ≠ 0) ∧
    (mailServes en (0 : Fin 4) (0 : Fin 4) 17154 = true ∧ poisonRange en (0 : Fin 4) (0 : Fin 4) (0 : Fin 16) 4112 1 ≠ 0) ∧
    (poisonRange nok (0 : Fin 4) (0 : Fin 4) (0 : Fin 16) 4096 1 = 0 ∧ regionAt nok (16 * ↑(0 : Fin 4) + ↑(0 : Fin 16)) 4096 = some regA ∧
      mailServes nok (0 : Fin 4) (0 : Fin 4) 17153 = true ∧ fiPermitted nok = true ∧ (halted nok || !keyAdmits nok (16 * ↑(0 : Fin 4) + ↑(0
      : Fin 16)) (defaultKey nok (16 * ↑(0 : Fin 4) + ↑(0 : Fin 16)) regA)) = true) ∧
    (poisonRange en (0 : Fin 4) (0 : Fin 4) (0 : Fin 16) 4096 1 = 0 ∧ regionAt en (16 * ↑(0 : Fin 4) + ↑(0 : Fin 16)) 4096 = some regA ∧
      mailServes en (0 : Fin 4) (0 : Fin 4) 17153 = true ∧ fiPermitted en = true ∧ (halted en || !keyAdmits en (16 * ↑(0 : Fin 4) + ↑(0 :
      Fin 16)) (defaultKey en (16 * ↑(0 : Fin 4) + ↑(0 : Fin 16)) regA)) = false) ∧
    (poisonRange nok (0 : Fin 4) (0 : Fin 4) (0 : Fin 16) 4096 1 = 0 ∧ regionAt nok (16 * ↑(0 : Fin 4) + ↑(0 : Fin 16)) 4096 = some regA ∧
      mailServes nok (0 : Fin 4) (0 : Fin 4) 17154 = true ∧ (halted nok || !keyAdmits nok (16 * ↑(0 : Fin 4) + ↑(0 : Fin 16)) (defaultKey
      nok (16 * ↑(0 : Fin 4) + ↑(0 : Fin 16)) regA)) = true) ∧
    (poisonRange kn (0 : Fin 4) (0 : Fin 4) (0 : Fin 16) 4160 1 = 0 ∧ regionAt kn (16 * ↑(0 : Fin 4) + ↑(0 : Fin 16)) 4160 = some regA ∧
      mailServes kn (0 : Fin 4) (0 : Fin 4) 17154 = true ∧ (halted kn || !keyAdmits kn (16 * ↑(0 : Fin 4) + ↑(0 : Fin 16)) (defaultKey kn
      (16 * ↑(0 : Fin 4) + ↑(0 : Fin 16)) regA)) = false) ∧
    (mailServes kn (0 : Fin 4) (0 : Fin 4) 17155 = true ∧ poisonRange kn (0 : Fin 4) (0 : Fin 4) (0 : Fin 16) 4112 4 ≠ 0) ∧
    (mailServes kn (0 : Fin 4) (0 : Fin 4) 17155 = true ∧ poisonRange kn (0 : Fin 4) (0 : Fin 4) (0 : Fin 16) 4160 4 = 0) :=
  ⟨by decide +kernel, by decide +kernel, by decide +kernel, by decide +kernel, by decide +kernel, by decide +kernel, by decide +kernel,
    by decide +kernel, by decide +kernel, by decide +kernel, by decide +kernel, by decide +kernel⟩

theorem witness_PoisonScanAndErase_2 :
    (mailServes kn (0 : Fin 4) (0 : Fin 4) 17156 = true ∧ poisonRange kn (0 : Fin 4) (0 : Fin 4) (0 : Fin 16) 4112 4 ≠ 0) ∧
    (mailServes hl2 (0 : Fin 4) (0 : Fin 4) 17156 = true ∧ poisonRange hl2 (0 : Fin 4) (0 : Fin 4) (0 : Fin 16) 4160 4 = 0 ∧ backgroundOpen
      hl2 (0 : Fin 4) (0 : Fin 4) = false ∧ halted hl2 = true) ∧
    (mailServes bgo (0 : Fin 4) (0 : Fin 4) 17156 = true ∧ poisonRange bgo (0 : Fin 4) (0 : Fin 4) (0 : Fin 16) 4160 4 = 0 ∧ backgroundOpen
      bgo (0 : Fin 4) (0 : Fin 4) = true) ∧
    (mailServes kn (0 : Fin 4) (0 : Fin 4) 17156 = true ∧ poisonRange kn (0 : Fin 4) (0 : Fin 4) (0 : Fin 16) 4160 4 = 0 ∧ backgroundOpen kn
      (0 : Fin 4) (0 : Fin 4) = false) ∧
    (mailServes kn (0 : Fin 4) (0 : Fin 4) 17157 = true) ∧
    (mailServes kn (0 : Fin 4) (0 : Fin 4) 17408 = true ∧ ((linkLdTags kn (0 : Fin 4) (0 : Fin 4)).contains (16 * ↑(0 : Fin 4) + ↑(1 : Fin
      16)) = false ∨ privateRegions kn (16 * ↑(0 : Fin 4) + ↑(1 : Fin 16)) = [])) ∧
    (mailServes hl2 (0 : Fin 4) (0 : Fin 4) 17409 = true ∧ (linkLdTags hl2 (0 : Fin 4) (0 : Fin 4)).contains (16 * ↑(0 : Fin 4) + ↑(0 : Fin
      16)) = true ∧ privateRegions hl2 (16 * ↑(0 : Fin 4) + ↑(0 : Fin 16)) ≠ [] ∧ (halted hl2 = true ∨ backgroundOpen hl2 (0 : Fin 4) (0 :
      Fin 4) = true)) ∧
    (mailServes (gd (slots kn)) (0 : Fin 4) (0 : Fin 4) 17408 = true ∧ (linkLdTags (gd (slots kn)) (0 : Fin 4) (0 : Fin 4)).contains (16 *
      ↑(0 : Fin 4) + ↑(0 : Fin 16)) = true ∧ privateRegions (gd (slots kn)) (16 * ↑(0 : Fin 4) + ↑(0 : Fin 16)) ≠ [] ∧ halted (gd (slots
      kn)) = false ∧ backgroundOpen (gd (slots kn)) (0 : Fin 4) (0 : Fin 4) = false ∧ (gd (slots kn)).fw.germUp = false) ∧
    (mailServes (gd (slots kn)) (0 : Fin 4) (0 : Fin 4) 17409 = true ∧ (linkLdTags (gd (slots kn)) (0 : Fin 4) (0 : Fin 4)).contains (16 *
      ↑(0 : Fin 4) + ↑(0 : Fin 16)) = true ∧ privateRegions (gd (slots kn)) (16 * ↑(0 : Fin 4) + ↑(0 : Fin 16)) ≠ [] ∧ halted (gd (slots
      kn)) = false ∧ backgroundOpen (gd (slots kn)) (0 : Fin 4) (0 : Fin 4) = false ∧ (gd (slots kn)).fw.germUp = false) ∧
    (mailServes (slots kn) (0 : Fin 4) (0 : Fin 4) 17408 = true ∧ (linkLdTags (slots kn) (0 : Fin 4) (0 : Fin 4)).contains (16 * ↑(0 : Fin
      4) + ↑(0 : Fin 16)) = true ∧ privateRegions (slots kn) (16 * ↑(0 : Fin 4) + ↑(0 : Fin 16)) ≠ [] ∧ halted (slots kn) = false ∧
      backgroundOpen (slots kn) (0 : Fin 4) (0 : Fin 4) = false ∧ (slots kn).fw.germUp = true ∧ (slots kn).crypt.busy = false ∧ (slots
      kn).crypt.msgOpen = false ∧ (slots kn).fw.erasing = [] ∧ ownSlots (slots kn) (16 * ↑(0 : Fin 4) + ↑(0 : Fin 16)) = (ownSlots (slots
      kn) 0).headD 0 :: List.drop 1 (ownSlots (slots kn) 0) ∧ (slotAt (slots kn) ((ownSlots (slots kn) 0).headD 0)).state =
      SlotState.loaded) ∧
    (mailServes (slots kn) (0 : Fin 4) (0 : Fin 4) 17409 = true ∧ (linkLdTags (slots kn) (0 : Fin 4) (0 : Fin 4)).contains (16 * ↑(0 : Fin
      4) + ↑(0 : Fin 16)) = true ∧ privateRegions (slots kn) (16 * ↑(0 : Fin 4) + ↑(0 : Fin 16)) ≠ [] ∧ halted (slots kn) = false ∧
      backgroundOpen (slots kn) (0 : Fin 4) (0 : Fin 4) = false ∧ (slots kn).fw.germUp = true ∧ (slots kn).crypt.busy = false ∧ (slots
      kn).crypt.msgOpen = false ∧ (slots kn).fw.erasing = [] ∧ ownSlots (slots kn) (16 * ↑(0 : Fin 4) + ↑(0 : Fin 16)) = (ownSlots (slots
      kn) 0).headD 0 :: List.drop 1 (ownSlots (slots kn) 0) ∧ (slotAt (slots kn) ((ownSlots (slots kn) 0).headD 0)).state =
      SlotState.loaded) ∧
    (rt.fw.erasing = [ej] ∧ ej.slots = [166] ∧ ej.retiring = some (1, (1 : Word)) ∧ rt.crypt.busy = true ∧ rt.crypt.markers = (15 : BitVec
      4) ∧ rt.crypt.openSlot = 166 ∧ rt.crypt.waits = [] ∧ rt.crypt.msgOpen = false ∧ rt.fw.germUp = true ∧ halted rt = false ∧ portsQuiet
      rt = true ∧ noInjection rt = true ∧ tablesOrdered rt = true ∧ 1 < 8 ∧ (keyRec rt 166).host = false ∧ subMask (1 : Word) (keyRec rt
      166).allowed = true) :=
  ⟨by decide +kernel, by decide +kernel, by decide +kernel, by decide +kernel, by decide +kernel, by decide +kernel, by decide +kernel,
    by decide +kernel, by decide +kernel, by decide +kernel, by decide +kernel, by decide +kernel⟩

theorem witness_BmcMessagesChangeNoRegister :
    ((noB.fw.branUp = false ∨ noB.pins.vddAux = false)) ∧
    (en.fw.branUp = true ∧ en.pins.vddAux = true ∧ sensorValue en 3 = some ((sensorValue en 3).getD (0 : ℤ)) ∧ 3 ≠ 40) ∧
    (en.fw.branUp = true ∧ en.pins.vddAux = true ∧ sensorValue en 99 = none ∧ 99 ≠ 40) ∧
    ((en.pins.vddAux = false ∨ vendorNames 713 = false)) ∧
    (en.pins.vddAux = true ∧ vendorNames 1024 = true ∧ corePowered en = true) ∧
    (State.reset.pins.vddAux = true ∧ vendorNames 1024 = true ∧ corePowered State.reset = false) :=
  ⟨by decide +kernel, by decide +kernel, by decide +kernel, by decide +kernel, by decide +kernel, by decide +kernel⟩

/-- Copy B is accepted; it differs from the running copy in BRAN alone, or it is the running one (R364). -/
theorem witness_FirmwareTransferAndActivation_activate :
    (slotCopyB 2 = some true ∧ mailServes enF 0 0 0x0202 = true ∧ (∃ i d, checkCopy enF true = .ok i d) ∧ germServes enF = false ∧
      enF.img.isSome = true ∧ isRunning enF true = false ∧ copyBare enF true = copyBare enF enF.imgCopyB) ∧
    (slotCopyB 2 = some true ∧ mailServes enB 0 0 0x0202 = true ∧ (∃ i d, checkCopy enB true = .ok i d) ∧ isRunning enB true = true) := by
  have ok : ∀ s, s.fuses = Fuses.init → s.flash = flashAB → ∃ i d, checkCopy s true = .ok i d := fun s hu hf =>
    copyB_ok s (flashAt (imageOff false) (imgBytes.set 128 6)) (by decide +kernel) hu hf
  have nB : min (le (flashRead enF (imageOff true) 256) 136 4) 0x100000 = 2206 := by decide +kernel
  have nA : min (le (flashRead enF (imageOff false) 256) 136 4) 0x100000 = 2206 := by decide +kernel
  have h1 : (flashRead enF (imageOff true) 2206).take 128 = (flashRead enF (imageOff false) 2206).take 128 := by decide +kernel
  have h2 : (flashRead enF (imageOff true) 2206).drop 136 = (flashRead enF (imageOff false) 2206).drop 136 := by decide +kernel
  have h3 : (flashRead enF (imageOff true) 2206).drop 256 = (flashRead enF (imageOff false) 2206).drop 256 := by
    have := congrArg (List.drop 120) h2
    simpa [List.drop_drop] using this
  refine ⟨⟨rfl, by decide +kernel, ok _ rfl rfl, by decide +kernel, by decide +kernel, by decide +kernel, ?_⟩,
    rfl, by decide +kernel, ok _ rfl rfl, by decide +kernel⟩
  show copyBare enF true = copyBare enF false
  unfold copyBare
  simp only [nA, nB, h1, h2, h3]

end OnFirmware

end Sys2Proof.Tests
end

/-! # A host request on its way from its link to its home or to the gate (R16, R62 to R65, R70, R117, R253, R256) -/

namespace Sys2Proof.Machine

/-! ## What counting an event leaves (R453, R454) -/

/-- `t` is `s` but for the performance counters and the header of PERF, and no injection is armed that was not. -/
structure OnlyCounted (s t : State) : Prop where
  frame : t = { s with perf := t.perf, headers := t.headers }
  headers : ∀ b, b ≠ blkPerf → t.headers[b] = s.headers[b]
  armed : ∀ b : Fin 40, t.headers[b].armed = s.headers[b].armed

theorem OnlyCounted.refl (s : State) : OnlyCounted s s := ⟨rfl, fun _ _ => rfl, fun _ => rfl⟩

theorem OnlyCounted.trans {s t u : State} (h : OnlyCounted s t) (k : OnlyCounted t u) : OnlyCounted s u where
  frame := by rw [k.frame, h.frame]
  headers b hb := (k.headers b hb).trans (h.headers b hb)
  armed b := (k.armed b).trans (h.armed b)

theorem raise_blkPerf_onlyCounted (i : Nat) (c : Cap) (s : State) : OnlyCounted s (raise blkPerf i c s) where
  frame := rfl
  headers b hb := by rw [raise_header, if_neg (Ne.symm hb)]
  armed b := by
    rw [raise_header]
    split
    · next e =>
      obtain ⟨-, -, -, harmed⟩ := headerSet_spec s.headers[blkPerf] i (capFor blkPerf i c) s.dtime
      subst e
      exact harmed
    · rfl

theorem setPerf_onlyCounted (f : Perf) (s : State) : OnlyCounted s { s with perf := f } :=
  ⟨rfl, fun _ _ => rfl, fun _ => rfl⟩

theorem perfAdd_onlyCounted (fuel n amount : Nat) (s : State) : OnlyCounted s (perfAdd fuel n amount s) := by
  induction fuel generalizing n amount s with
  | zero => exact .refl s
  | succ fuel ih =>
    have hcount := setPerf_onlyCounted { s.perf with
      counts := kset 0 s.perf.counts n ((kget 0 s.perf.counts n + amount) % 2 ^ 48) } s
    simp only [perfAdd]
    split
    · exact hcount
    · split
      · exact hcount.trans (ih ..)
      · exact (hcount.trans (setPerf_onlyCounted _ _)).trans (raise_blkPerf_onlyCounted ..)

theorem foldl_onlyCounted {β : Type} (f : State → β → State) (h : ∀ s b, OnlyCounted s (f s b)) (l : List β)
    (s : State) : OnlyCounted s (l.foldl f s) := by
  induction l generalizing s with
  | nil => exact .refl s
  | cons b l ih => exact (h s b).trans (ih (f s b))

theorem ite_onlyCounted {s t : State} (c : Prop) [Decidable c] (h : OnlyCounted s t) : OnlyCounted s (if c then t else s) := by
  split
  · exact h
  · exact .refl s

theorem perfEvent_onlyCounted (first count event amount : Nat) (cls : Option Nat) (s : State) :
    OnlyCounted s (perfEvent first count event amount cls s) := by
  unfold perfEvent
  split
  · exact .refl s
  · refine foldl_onlyCounted _ (fun t i => ?_) _ s
    exact ite_onlyCounted _ (perfAdd_onlyCounted ..)

theorem perfPort_onlyCounted (p : Fin 4) (event amount : Nat) (cls : Option Nat) (s : State) :
    OnlyCounted s (perfPort p event amount cls s) := perfEvent_onlyCounted ..

/-! ## A request on its way through its port -/

/-- What stages 1 and 2 of a request at port `p` leave of the device: the port changes in its open requests and in the L1 state
of its links, the counters count, and the clock of the port runs. -/
structure Carried (p : Fin 4) (s t : State) : Prop where
  frame : t = { s with ports := t.ports, perf := t.perf, headers := t.headers, pwr := t.pwr, seq := t.seq }
  others : ∀ r, r ≠ p → t.ports[r] = s.ports[r]
  port : t.ports[p] = { s.ports[p] with links := t.ports[p].links, reqs := t.ports[p].reqs }
  links : ∀ l : Fin 4, t.ports[p].links[l] = { s.ports[p].links[l] with inL1 := t.ports[p].links[l].inL1 }
  headers : ∀ b, b ≠ blkPerf → t.headers[b] = s.headers[b]
  armed : ∀ b : Fin 40, t.headers[b].armed = s.headers[b].armed
  sealRec : t.pwr.sealRec = s.pwr.sealRec

theorem Carried.trans {p : Fin 4} {s t u : State} (h : Carried p s t) (k : Carried p t u) : Carried p s u where
  frame := by rw [k.frame, h.frame]
  others r hr := (k.others r hr).trans (h.others r hr)
  port := by rw [k.port, h.port]
  links l := by rw [k.links l, h.links l]
  headers b hb := (k.headers b hb).trans (h.headers b hb)
  armed b := (k.armed b).trans (h.armed b)
  sealRec := k.sealRec.trans h.sealRec

theorem OnlyCounted.carried {s t : State} (h : OnlyCounted s t) (p : Fin 4) : Carried p s t := by
  have hports : t.ports = s.ports := by rw [h.frame]
  refine ⟨?_, fun r _ => by rw [hports], by rw [hports], fun l => by rw [hports], h.headers, h.armed, by rw [h.frame]⟩
  rw [h.frame]

theorem ungate_carried (d : Nat) (p : Fin 4) (s : State) : Carried p s (ungate d s) := by
  unfold ungate
  split <;> exact ⟨rfl, fun _ _ => rfl, rfl, fun _ => rfl, fun _ _ => rfl, fun _ => rfl, rfl⟩

theorem takeSeq_carried (p : Fin 4) (s : State) : Carried p s (takeSeq s).2 :=
  ⟨rfl, fun _ _ => rfl, rfl, fun _ => rfl, fun _ _ => rfl, fun _ => rfl, rfl⟩

theorem updReqs_carried (p : Fin 4) (f : Port → List OpenReq) (s : State) :
    Carried p s (updPort p (fun o => { o with reqs := f o }) s) where
  frame := rfl
  others r hr := by rw [updPort_ports, updAt_get_other _ _ (Ne.symm hr)]
  port := by rw [updPort_ports, updAt_get_same]
  links l := by rw [updPort_ports, updAt_get_same]
  headers _ _ := rfl
  armed _ := rfl
  sealRec := rfl

theorem wakeLink_carried (p l : Fin 4) (s : State) : Carried p s (updLink p l (fun k => { k with inL1 := false }) s) where
  frame := rfl
  others r hr := by rw [updLink_ports, updAt_get_other _ _ (Ne.symm hr)]
  port := by rw [updLink_ports, updAt_get_same]
  links m := by
    simp only [updLink_ports, updAt_get_same]
    rw [updAt_get]
    split
    · next e => rw [e]
    · rfl
  headers _ _ := rfl
  armed _ := rfl
  sealRec := rfl

/-! ## What the checks of a request read -/

section Reads
variable {p : Fin 4} {s t : State} (h : Carried p s t)
include h

theorem Carried.img : t.img = s.img := by rw [h.frame]
theorem Carried.regs : t.regs = s.regs := by rw [h.frame]
theorem Carried.crypt : t.crypt = s.crypt := by rw [h.frame]
theorem Carried.pair : t.pair = s.pair := by rw [h.frame]
theorem Carried.tier : t.tier = s.tier := by rw [h.frame]
theorem Carried.spks : t.spks = s.spks := by rw [h.frame]
theorem Carried.gate : t.gate = s.gate := by rw [h.frame]
theorem Carried.out : t.out = s.out := by rw [h.frame]
theorem Carried.dram : t.dram = s.dram := by rw [h.frame]
theorem Carried.dtime : t.dtime = s.dtime := by rw [h.frame]

theorem Carried.sheaf : t.ports[p].sheaf = s.ports[p].sheaf := by rw [h.port]
theorem Carried.slots : t.ports[p].slots = s.ports[p].slots := by rw [h.port]
theorem Carried.invSeq : t.ports[p].invSeq = s.ports[p].invSeq := by rw [h.port]
theorem Carried.creditWait : t.ports[p].creditWait = s.ports[p].creditWait := by rw [h.port]

theorem Carried.noInjection : noInjection t = noInjection s := by
  unfold Machine.noInjection
  rw [Bool.eq_iff_iff]
  simp only [List.all_eq_true, Vector.mem_toList_iff, decide_eq_true_eq, Vector.mem_iff_getElem]
  have harmed (i : Nat) (hi : i < 40) : t.headers[i].armed = s.headers[i].armed := h.armed ⟨i, hi⟩
  constructor
  · rintro ha _ ⟨i, hi, rfl⟩
    rw [← harmed i hi]
    exact ha _ ⟨i, hi, rfl⟩
  · rintro ha _ ⟨i, hi, rfl⟩
    rw [harmed i hi]
    exact ha _ ⟨i, hi, rfl⟩

theorem Carried.ldRec (n : Nat) : ldRec t n = ldRec s n := by unfold Machine.ldRec; rw [h.img]

theorem Carried.linkMode (q l : Nat) : linkMode t q l = linkMode s q l := by unfold Machine.linkMode; rw [h.img]

theorem Carried.regionNo (n : Nat) : regionNo t n = regionNo s n := by unfold Machine.regionNo regions; rw [h.img]

theorem Carried.regField (off lo w : Nat) : regField t off lo w = regField s off lo w := by
  unfold Machine.regField regGet; rw [h.regs]

theorem Carried.protocolError (l ld : Nat) : protocolError t p l ld = protocolError s p l ld := by
  unfold Machine.protocolError
  rw [h.ldRec, h.linkMode]

theorem Carried.decodeHpa (ld hpa : Nat) : decodeHpa t p ld hpa = decodeHpa s p ld hpa := by
  have hdecs : t.ports[p].decs = s.ports[p].decs := by rw [h.port]
  unfold Machine.decodeHpa
  simp only [hdecs, h.regionNo, h.regField]

theorem Carried.slotCopy (k : Nat) : slotCopy t p k = slotCopy s p k := by
  simp only [Machine.slotCopy, h.crypt]

theorem Carried.keyAdmits (ldTag k : Nat) : keyAdmits t ldTag k = keyAdmits s ldTag k := by
  simp only [Machine.keyAdmits, Machine.slotCopy, h.crypt]

theorem Carried.defaultKey (ldTag : Nat) (r : Region) : defaultKey t ldTag r = defaultKey s ldTag r := by
  unfold Machine.defaultKey
  rw [h.ldRec]

theorem Carried.writePool (q : Req) : writePool t q = writePool s q := by
  unfold Machine.writePool
  rw [h.regionNo]

theorem Carried.admitsNow (q : Req) : admitsNow t p q = admitsNow s p q := by
  have hbis : t.ports[p].bis = s.ports[p].bis := by rw [h.port]
  have hbudgets : t.ports[p].budgets = s.ports[p].budgets := by rw [h.port]
  have hcounts : t.ports[p].counts = s.ports[p].counts := by rw [h.port]
  have hlow : t.ports[p].lowCounts = s.ports[p].lowCounts := by rw [h.port]
  have hfree : freeAdmit t p q = freeAdmit s p q := by unfold freeAdmit; rw [hbis]
  have hbudget : budgetAdmits t p q.cls = budgetAdmits s p q.cls := by unfold budgetAdmits; rw [hbudgets, hcounts]
  have hpool : poolAdmits t p q = poolAdmits s p q := by
    unfold poolAdmits lowLimit
    simp only [h.writePool, h.tier, hlow, h.regField]
  unfold Machine.admitsNow
  rw [hfree, hbudget, hpool, h.pair]

end Reads

/-! ## Control parity -/

@[simp] theorem parityAt_good (st : CtlStage) : parityAt .good st = .good := by
  unfold parityAt
  split
  · rfl
  · simp [Parity.good]

theorem armed_of_noInjection {s : State} (h : noInjection s = true) (b : Fin 40) (bit : Nat) : armed s b bit = false := by
  unfold noInjection at h
  rw [List.all_eq_true] at h
  have hb : s.headers[b].armed = 0 := of_decide_eq_true (h _ (Vector.mem_toList_iff.2 (Vector.getElem_mem b.isLt)))
  rw [armed, hb]
  exact BitVec.getLsbD_zero

/-- With no injection armed a stage finds nothing on a request whose parity is good (R449). -/
theorem stageParity_good {s : State} {par : Parity} (h : noInjection s = true) (hpar : par = .good) (b : Fin 40)
    (fatalBit containedBit : Nat) (keyed : Bool) (st : CtlStage) :
    stageParity b fatalBit containedBit keyed (parityAt par st) s = (.good, s) := by
  simp [stageParity, fires, armed_of_noInjection h, hpar]

/-! ## The stages of a request (Table 1.5) -/

/-- The request as the port opens it, in ingress. -/
def arrival (s : State) (p l : Fin 4) (ld : Fin 16) (tag : Nat) (op : HomeOp) (hpa : Nat) (data : Line) (be : BitVec 64)
    (poison : Bool) : OpenReq :=
  ⟨{ rawReq s.seq (.host p l ld tag) (16 * p.val + ld.val) op hpa data be poison with reissued := s.pair.reissueOpen },
    .ingress, false, false, false, false⟩

/-- The device once the request has arrived: its link has left L1 and the clock of the port runs. -/
def arrived (p l : Fin 4) (r : OpenReq) (s : State) : State :=
  updPort p (fun o => { o with reqs := o.reqs ++ [r] })
    (takeSeq (updLink p l (fun k => { k with inL1 := false }) (ungate (domPort p) s))).2

theorem ungate_seq (d : Nat) (s : State) : (ungate d s).seq = s.seq := by
  unfold ungate
  split <;> rfl

theorem ungate_ports (d : Nat) (s : State) : (ungate d s).ports = s.ports := by
  unfold ungate
  split <;> rfl

theorem arrived_carried (p l : Fin 4) (r : OpenReq) (s : State) : Carried p s (arrived p l r s) :=
  (ungate_carried _ p s).trans <| (wakeLink_carried p l _).trans <| (takeSeq_carried p _).trans <|
    updReqs_carried p (fun o => o.reqs ++ [r]) _

theorem arrived_seq (p l : Fin 4) (r : OpenReq) (s : State) : (arrived p l r s).seq = s.seq + 1 := by
  show (ungate _ s).seq + 1 = _
  rw [ungate_seq]

theorem arrived_reqs (p l : Fin 4) (r : OpenReq) (s : State) : (arrived p l r s).ports[p].reqs = s.ports[p].reqs ++ [r] := by
  simp only [arrived, takeSeq, updPort_ports, updLink_ports, updAt_get_same, ungate_ports]

/-- Every well-behaved CXL.mem command is the reception of its request. -/
theorem exec_memCommand {p l : Fin 4} {ld : Fin 16} {tag hpa : Nat} {data : Line} {be : BitVec 64} {poison : Bool} {op : HomeOp}
    {c : Instr} (h : memCommand p l ld tag hpa data be poison op c) (s : State) :
    exec c s = .next (receive p l ld tag op hpa data be poison .good s) := by
  rcases h with ⟨snp, rfl, rfl, rfl, rfl, rfl⟩ | ⟨rfl, rfl, rfl⟩ | ⟨rfl, rfl, rfl⟩ | ⟨rfl, rfl, rfl, rfl, rfl⟩ |
    ⟨rfl, rfl, rfl, rfl, rfl⟩ <;> rfl

theorem receive_of_open {s : State} {p l : Fin 4} (hstate : s.ports[p].state = .enabled) (hup : s.ports[p].links[l].up = true)
    (hinj : noInjection s = true) (ld : Fin 16) (tag : Nat) (op : HomeOp) (hpa : Nat) (data : Line) (be : BitVec 64)
    (poison : Bool) :
    receive p l ld tag op hpa data be poison .good s =
      pumpIngress p (arrived p l (arrival s p l ld tag op hpa data be poison) s) := by
  have hinj' : noInjection (takeSeq (updLink p l (fun k => { k with inL1 := false }) (ungate (domPort p) s))).2 = true := by
    rw [← hinj]
    exact ((ungate_carried _ p s).trans ((wakeLink_carried p l _).trans (takeSeq_carried p _))).noInjection
  have hrid : (takeSeq (updLink p l (fun k => { k with inL1 := false }) (ungate (domPort p) s))).1 = s.seq := ungate_seq ..
  unfold receive
  simp only [hstate, hup, hrid, stageParity_good hinj' rfl]
  rfl

/-- The one request in ingress, on a link that nothing stalls, enters. -/
theorem pumpIngress_last {s : State} {p l : Fin 4} {r : OpenReq} {old : List OpenReq} (hwindow : windowOver s p = false)
    (hfence : s.pair.fenceIn = false) (hreqs : s.ports[p].reqs = old ++ [r]) (hold : ∀ x ∈ old, x.stage ≠ .ingress)
    (hr : r.stage = .ingress) (hlink : reqLink r.req = some l.val)
    (hstall : (s.ports[p].stalled ||| s.ports[p].holdStalled).getLsbD l = false) :
    pumpIngress p s = enter p r s := by
  have hnone : old.filter (fun x => decide (x.stage = .ingress)) = [] :=
    List.filter_eq_nil_iff.2 fun x hx => by simpa using hold x hx
  have hfind : old.find? (fun x => decide (x.req.rid = r.req.rid) && decide (x.stage = .ingress)) = none :=
    List.find?_eq_none.2 fun x hx => by simp [hold x hx]
  simp [-Fin.getElem_fin, -BitVec.getLsbD_or, -BitVec.getLsbD_eq_getElem, pumpIngress, rollWindow, hwindow,
    hfence, hreqs, hnone, hr, hfind, hlink, hstall]

theorem keyStage_admits {s : State} {p : Fin 4} {q : Req} (go : Req → State → State)
    (hinj : noInjection s = true) (hpar : q.par = .good) (hkey : keyAdmits s q.ldTag q.key = true) : keyStage p q go s = go q s := by
  simp [keyStage, stageParity_good hinj hpar, hkey]

theorem admitReq_now {s : State} {p : Fin 4} {q : Req} (hinj : noInjection s = true) (hpar : q.par = .good)
    (hnow : admitsNow s p q = true) : admitReq p q s = admitted p q (countAdmit p q s) := by
  unfold admitsNow at hnow
  simp only [admitReq, stageParity_good hinj hpar, reduceCtorEq, decide_false, Bool.or_false, Bool.false_and, Bool.false_eq_true,
    if_false, hnow, if_true]

theorem admitted_host {p : Fin 4} {q : Req} {a b c d : Nat} (hsrc : q.src = .host a b c d) (s : State) :
    admitted p q s = translate p q s := by
  simp [admitted, hsrc]

theorem translate_hit {s : State} {p : Fin 4} {q : Req} {e : SheafEntry} (hinj : noInjection s = true) (hpar : q.par = .good)
    (hit : sheafHit s p q.ldTag q.dpa = some e) (hpolicy : e.keyPolicy = false ∨ q.aliasF = 0) :
    translate p q s = toHome p (msgOf e q s.dtime) s := by
  have hadmit : (e.keyPolicy && decide (q.aliasF ≠ 0) && !q.contained) = false := by
    rcases hpolicy with h | h <;> simp [h]
  simp only [translate, stageParity_good hinj hpar, reduceCtorEq, decide_false, Bool.or_false, Bool.false_and, Bool.false_eq_true,
    if_false, hit, hadmit]

theorem translate_miss {s : State} {p : Fin 4} {q : Req} (hinj : noInjection s = true) (hpar : q.par = .good)
    (hmiss : sheafHit s p q.ldTag q.dpa = none) : translate p q s = raiseMiss p q s := by
  simp only [translate, stageParity_good hinj hpar, reduceCtorEq, decide_false, Bool.or_false, Bool.false_and, Bool.false_eq_true,
    if_false, hmiss]

/-! ## A request that has been admitted -/

/-- What a request that has come from its link to the Sheaf leaves of the device, with the number that it has taken. -/
structure Staged (p : Fin 4) (s u : State) : Prop where
  frame : u = { s with ports := u.ports, perf := u.perf, headers := u.headers, pwr := u.pwr, seq := s.seq + 1 }
  others : ∀ r, r ≠ p → u.ports[r] = s.ports[r]
  sheaf : u.ports[p].sheaf = s.ports[p].sheaf
  slots : u.ports[p].slots = s.ports[p].slots
  invSeq : u.ports[p].invSeq = s.ports[p].invSeq
  creditWait : u.ports[p].creditWait = s.ports[p].creditWait
  flit256 : ∀ l : Fin 4, u.ports[p].links[l].flit256 = s.ports[p].links[l].flit256
  opened : ∃ r ∈ u.ports[p].reqs, r.req.rid = s.seq
  headers : ∀ b, b ≠ blkPerf → u.headers[b] = s.headers[b]
  noInjection : noInjection u = noInjection s
  sealRec : u.pwr.sealRec = s.pwr.sealRec

theorem countAdmit_staged {p : Fin 4} {s t : State} (q : Req) (h : Carried p s t) (hseq : t.seq = s.seq + 1)
    (hopen : ∃ r ∈ t.ports[p].reqs, r.req.rid = s.seq) : Staged p s (countAdmit p q t) where
  frame := by
    show { t with ports := _ } = _
    rw [h.frame, hseq]
    rfl
  others r hr := by
    rw [← h.others r hr]
    exact updAt_get_other _ _ (Ne.symm hr)
  sheaf := by rw [← h.sheaf]; simp only [countAdmit, updPort_ports, updAt_get_same]
  slots := by rw [← h.slots]; simp only [countAdmit, updPort_ports, updAt_get_same]
  invSeq := by rw [← h.invSeq]; simp only [countAdmit, updPort_ports, updAt_get_same]
  creditWait := by rw [← h.creditWait]; simp only [countAdmit, updPort_ports, updAt_get_same]
  flit256 l := by
    simp only [countAdmit, updPort_ports, updAt_get_same]
    rw [h.links l]
  opened := by simpa only [countAdmit, updPort_ports, updAt_get_same] using hopen
  headers := h.headers
  noInjection := h.noInjection
  sealRec := h.sealRec

/-- What a link that takes a request at once fulfils (R70, R259, R260, R301). -/
theorem linkOpen_iff {s : State} {p l : Fin 4} : linkOpen s p l = true ↔
    s.ports[p].state = .enabled ∧ s.ports[p].links[l].up = true ∧ s.ports[p].stalled.getLsbD l = false ∧
    s.ports[p].holdStalled.getLsbD l = false ∧ s.pair.fenceIn = false ∧ windowOver s p = false ∧
    ∀ r ∈ s.ports[p].reqs, r.stage ≠ .ingress ∧ r.req.rid ≠ s.seq := by
  simp only [linkOpen, Bool.and_eq_true, Bool.not_eq_true', decide_eq_true_eq, List.all_eq_true, and_assoc]

theorem pumpIngress_arrived {s : State} {p l : Fin 4} {r : OpenReq} (hopen : linkOpen s p l = true) (hr : r.stage = .ingress)
    (hlink : reqLink r.req = some l.val) : pumpIngress p (arrived p l r s) = enter p r (arrived p l r s) := by
  obtain ⟨-, -, hstall, hhold, hfence, hwindow, hreqs⟩ := linkOpen_iff.1 hopen
  have ha := arrived_carried p l r s
  have hstart : (arrived p l r s).ports[p].windowStart = s.ports[p].windowStart := by rw [ha.port]
  have hstalled : (arrived p l r s).ports[p].stalled = s.ports[p].stalled := by rw [ha.port]
  have hheld : (arrived p l r s).ports[p].holdStalled = s.ports[p].holdStalled := by rw [ha.port]
  refine pumpIngress_last ?_ (by rw [ha.pair, hfence]) (arrived_reqs p l r s) (fun x hx => (hreqs x hx).1) hr hlink ?_
  · rw [← hwindow]
    unfold windowOver
    rw [hstart, ha.regField, ha.dtime]
  · rw [hstalled, hheld, BitVec.getLsbD_or, hstall, hhold]
    rfl

/-- The decode of an arrived request gives the staged request, which then meets key check and admission. -/
theorem enter_arrived {s : State} {p l : Fin 4} {ld : Fin 16} {tag hpa : Nat} {data : Line} {be : BitVec 64} {poison : Bool}
    {op : HomeOp} {rg : Region} {al dpa : Nat} (hfloor : s.ports[p].links[l].belowFloor = false)
    (hprotocol : protocolError s p l ld = false) (hdecode : decodeHpa s p ld hpa = some (rg, al, dpa)) :
    let q := stagedReq s p l ld tag op hpa data be poison rg al dpa
    let r := arrival s p l ld tag op hpa data be poison
    enter p r (arrived p l r s) = keyStage p q (admitReq p) (perfPort p 0x02 1 (some q.cls)
      (updPort p (fun o => { o with reqs := o.reqs.map fun x => if x.req.rid = q.rid then { x with req := q } else x })
        (arrived p l r s))) := by
  intro q r
  have hc : Carried p s (arrived p l r s) := arrived_carried p l r s
  have hport : port4 l.val = l := Fin.ext (Nat.mod_eq_of_lt l.isLt)
  have hlow : (arrived p l r s).ports[p].links[l].belowFloor = false := by rw [hc.links l]; exact hfloor
  have hsrc : r.req.src = .host p l ld tag := rfl
  have hpassed : r.passed = false := rfl
  have hhpa : r.req.hpa = hpa := rfl
  unfold enter
  simp only [hpassed, Bool.false_eq_true, if_false, hsrc, hport, hlow, hc.protocolError, hprotocol, hhpa, hc.decodeHpa, hdecode,
    hc.defaultKey, hc.slotCopy]
  rfl

/-- A host request that decodes, whose slot copy admits its LD and that admission lets in comes to the Sheaf at once (R41,
R62, R117, R256). -/
theorem hostRequest_meets_sheaf {s : State} {p l : Fin 4} {ld : Fin 16} {tag hpa : Nat} {data : Line} {be : BitVec 64}
    {poison : Bool} {op : HomeOp} {c : Instr} {rg : Region} {al dpa : Nat} (hcmd : memCommand p l ld tag hpa data be poison op c)
    (hserves : linkServes s p l = true) (hprotocol : protocolError s p l ld = false)
    (hdecode : decodeHpa s p ld hpa = some (rg, al, dpa)) (hinj : noInjection s = true)
    (hkey : keyAdmits s (16 * p.val + ld.val) (stagedReq s p l ld tag op hpa data be poison rg al dpa).key = true)
    (hnow : admitsNow s p (stagedReq s p l ld tag op hpa data be poison rg al dpa) = true) :
    ∃ u, Staged p s u ∧ exec c s = .next (translate p (stagedReq s p l ld tag op hpa data be poison rg al dpa) u) := by
  simp only [linkServes, Bool.and_eq_true, Bool.not_eq_true'] at hserves
  obtain ⟨hopen, hfloor⟩ := hserves
  obtain ⟨hstate, hup, -⟩ := linkOpen_iff.1 hopen
  set q := stagedReq s p l ld tag op hpa data be poison rg al dpa
  set r := arrival s p l ld tag op hpa data be poison
  set named := updPort p (fun o => { o with reqs := o.reqs.map fun x => if x.req.rid = q.rid then { x with req := q } else x })
    (arrived p l r s) with hnamed
  have hcount := perfPort_onlyCounted p 0x02 1 (some q.cls) named
  set t := perfPort p 0x02 1 (some q.cls) named
  have ht : Carried p s t := (arrived_carried p l r s).trans <| (updReqs_carried p _ _).trans (hcount.carried p)
  have hseq : t.seq = s.seq + 1 := by
    rw [hcount.frame]
    exact arrived_seq p l r s
  have hnumber : ∃ x ∈ t.ports[p].reqs, x.req.rid = s.seq := by
    refine ⟨{ r with req := q }, ?_, rfl⟩
    rw [hcount.frame]
    simp only [hnamed, updPort_ports, updAt_get_same, arrived_reqs, List.map_append, List.mem_append]
    exact .inr (List.mem_singleton.2 (if_pos rfl).symm)
  refine ⟨countAdmit p q t, countAdmit_staged q ht hseq hnumber, ?_⟩
  have hinj' : noInjection t = true := ht.noInjection.trans hinj
  have hpar : q.par = .good := rfl
  rw [exec_memCommand hcmd, receive_of_open hstate hup hinj, pumpIngress_arrived hopen rfl rfl,
    enter_arrived hfloor hprotocol hdecode]
  rw [keyStage_admits _ hinj' hpar (by rw [ht.keyAdmits]; exact hkey), admitReq_now hinj' hpar (by rw [ht.admitsNow]; exact hnow),
    admitted_host rfl]

/-! ## Stage 3: to the home, or to the gate -/

section Staged
variable {p : Fin 4} {s u : State} (h : Staged p s u)
include h

theorem Staged.img : u.img = s.img := by rw [h.frame]
theorem Staged.spks : u.spks = s.spks := by rw [h.frame]
theorem Staged.gate : u.gate = s.gate := by rw [h.frame]
theorem Staged.out : u.out = s.out := by rw [h.frame]
theorem Staged.dram : u.dram = s.dram := by rw [h.frame]
theorem Staged.dtime : u.dtime = s.dtime := by rw [h.frame]

/-- The request that has taken the number stands at the stage to which it has come. -/
theorem Staged.setStage_open {q : Req} (hq : q.rid = s.seq) (st : Stage) (passed : Bool) :
    ∃ r ∈ (Machine.setStage p q st passed u).ports[p].reqs, r.req = q ∧ r.stage = st := by
  obtain ⟨r, hr, hrid⟩ := h.opened
  refine ⟨{ r with req := q, stage := st, passed := passed }, ?_, rfl, rfl⟩
  simp only [Machine.setStage, updPort_ports, updAt_get_same]
  exact List.mem_map.2 ⟨r, hr, if_pos (hrid.trans hq.symm)⟩

theorem Staged.setStage {q : Req} (hq : q.rid = s.seq) (st : Stage) (passed : Bool) :
    Staged p s (setStage p q st passed u) where
  frame := by
    show { u with ports := _ } = _
    rw [h.frame]
    rfl
  others r hr := (updAt_get_other _ _ (Ne.symm hr)).trans (h.others r hr)
  sheaf := by rw [← h.sheaf]; simp only [Machine.setStage, updPort_ports, updAt_get_same]
  slots := by rw [← h.slots]; simp only [Machine.setStage, updPort_ports, updAt_get_same]
  invSeq := by rw [← h.invSeq]; simp only [Machine.setStage, updPort_ports, updAt_get_same]
  creditWait := by rw [← h.creditWait]; simp only [Machine.setStage, updPort_ports, updAt_get_same]
  flit256 l := by rw [← h.flit256 l]; simp only [Machine.setStage, updPort_ports, updAt_get_same]
  opened := by
    obtain ⟨r, hr, hreq, -⟩ := h.setStage_open hq st passed
    exact ⟨r, hr, hreq ▸ hq⟩
  headers := h.headers
  noInjection := h.noInjection
  sealRec := h.sealRec

theorem Staged.ungate (d : Nat) : Staged p s (ungate d u) where
  frame := by rw [(ungate_carried d p u).frame, ungate_seq, h.frame]
  others r hr := by rw [ungate_ports]; exact h.others r hr
  sheaf := by rw [ungate_ports]; exact h.sheaf
  slots := by rw [ungate_ports]; exact h.slots
  invSeq := by rw [ungate_ports]; exact h.invSeq
  creditWait := by rw [ungate_ports]; exact h.creditWait
  flit256 l := by rw [ungate_ports]; exact h.flit256 l
  opened := by rw [ungate_ports]; exact h.opened
  headers b hb := ((ungate_carried d p u).headers b hb).trans (h.headers b hb)
  noInjection := (ungate_carried d p u).noInjection.trans h.noInjection
  sealRec := (ungate_carried d p u).sealRec.trans h.sealRec

theorem Staged.sheafHit (ldTag dpa : Nat) : sheafHit u p ldTag dpa = sheafHit s p ldTag dpa := by
  unfold Machine.sheafHit
  rw [h.sheaf]

theorem Staged.creditOut (k : Fin 8) (cls : Nat) : creditOut u p k cls = creditOut s p k cls := by
  unfold Machine.creditOut
  rw [h.spks]

theorem Staged.awaited {m : Msg} {l ld tag : Nat} (hsrc : m.req.src = .host p l ld tag) (k : Fin 8) :
    awaited u k m = awaited s k m := by
  have hport : port4 p.val = p := Fin.ext (Nat.mod_eq_of_lt p.isLt)
  have hdb : hdmDb u (port4 p) l = hdmDb s (port4 p) l := by
    unfold hdmDb linkMode
    rw [h.img, hport, h.flit256]
  have hhead : reqHead u m.req = reqHead s m.req := by
    simp only [reqHead, hsrc, hdb]
  unfold Machine.awaited snpOpenTo
  rw [hhead, h.spks]

end Staged

@[simp] theorem msgOf_req (e : SheafEntry) (q : Req) (now : Nat) : (msgOf e q now).req = q := by
  unfold msgOf
  split <;> rfl

/-- A request without a credit waits at its port (R253). -/
theorem sendHome_waits {p : Fin 4} {m : Msg} {s : State} (hout : creditOut s p (spkOf m.mpa) m.req.cls = true)
    (hnot : awaited s (spkOf m.mpa) m = false) :
    sendHome p m s = updPort p (fun q => { q with creditWait := q.creditWait ++ [m] }) s := by
  simp [sendHome, hout, hnot]

/-- A request with a credit, or one that its home waits on, leaves for the home (R253, R257). -/
theorem sendHome_leaves {p : Fin 4} {m : Msg} {s : State}
    (hgo : creditOut s p (spkOf m.mpa) m.req.cls = false ∨ awaited s (spkOf m.mpa) m = true) :
    sendHome p m s = updSpk (spkOf m.mpa) (fun q => { q with inbox := q.inbox ++ [m] }) (ungate (domSpk (spkOf m.mpa)) s) := by
  unfold sendHome
  rcases hgo with h | h <;> simp [h]

/-- What the sending of a request to its home leaves of the device (R16, R253). -/
def JoinsHome (s : State) (p : Fin 4) (m : Msg) (t : State) : Prop :=
  let k := spkOf m.mpa
  t = { s with spks := t.spks, ports := t.ports, perf := t.perf, headers := t.headers, pwr := t.pwr, seq := s.seq + 1 } ∧
  (creditOut s p k m.req.cls = false → t.spks[k].inbox = s.spks[k].inbox ++ [m]) ∧
  (creditOut s p k m.req.cls = true → awaited s k m = false → t.spks[k].inbox = s.spks[k].inbox ∧
    t.ports[p].creditWait = s.ports[p].creditWait ++ [m]) ∧ (∀ j, j ≠ k → t.spks[j] = s.spks[j]) ∧
  (∃ r ∈ t.ports[p].reqs, r.req = m.req ∧ r.stage = .home k) ∧ t.ports[p].sheaf = s.ports[p].sheaf ∧
  (∀ r, r ≠ p → t.ports[r] = s.ports[r]) ∧ t.pwr.sealRec = s.pwr.sealRec ∧
  (∀ b, b ≠ blkPerf → t.headers[b] = s.headers[b])

theorem toHome_joinsHome {p : Fin 4} {s u : State} {m : Msg} {l ld tag : Nat} (h : Staged p s u) (hrid : m.req.rid = s.seq)
    (hsrc : m.req.src = .host p l ld tag) : JoinsHome s p m (toHome p m u) := by
  have hv := h.setStage hrid (.home (spkOf m.mpa)) true
  have hopen := h.setStage_open hrid (.home (spkOf m.mpa)) true
  unfold toHome JoinsHome
  intro k
  set v := setStage p m.req (.home (spkOf m.mpa)) true u
  rw [← hv.creditOut, ← hv.awaited hsrc]
  by_cases hwait : creditOut v p k m.req.cls = true ∧ awaited v k m = false
  · obtain ⟨hout, hnot⟩ := hwait
    rw [sendHome_waits hout hnot]
    refine ⟨?_, fun hc => absurd (hout.symm.trans hc) (by decide), fun _ _ => ⟨by rw [updPort_spks, hv.spks], ?_⟩,
      fun j _ => by rw [updPort_spks, hv.spks], ?_, ?_, ?_, hv.sealRec, hv.headers⟩
    · show { v with ports := _ } = _
      rw [hv.frame]
      rfl
    · simp only [updPort_ports, updAt_get_same, hv.creditWait]
    · simpa only [updPort_ports, updAt_get_same] using hopen
    · simp only [updPort_ports, updAt_get_same, hv.sheaf]
    · intro r hr
      rw [updPort_ports, updAt_get_other _ _ (Ne.symm hr), hv.others r hr]
  · have hgo : creditOut v p k m.req.cls = false ∨ awaited v k m = true := by
      simpa [-not_and, not_and_or] using hwait
    rw [sendHome_leaves hgo]
    have hw := hv.ungate (domSpk k)
    rw [← ungate_ports (domSpk k) v] at hopen
    set w := ungate (domSpk k) v
    refine ⟨?_, fun _ => ?_, fun hc hn => absurd ⟨hc, hn⟩ hwait, fun j hj => ?_, hopen, hw.sheaf, hw.others, hw.sealRec,
      hw.headers⟩
    · show { w with spks := _ } = _
      rw [hw.frame]
      rfl
    · rw [updSpk_spks, updAt_get_same, hw.spks]
    · rw [updSpk_spks, updAt_get_other _ _ (Ne.symm hj), hw.spks]

/-- A miss on a page whose miss is open shares its slot (R70). -/
theorem raiseMiss_shares {p : Fin 4} {q : Req} {s : State}
    (hopen : ∃ x ∈ s.ports[p].slots, x.ldTag = q.ldTag ∧ x.page = q.dpa >>> 12) :
    raiseMiss p q s = setStage p q .miss true s := by
  have hany : (s.ports[p].slots.any fun m => decide (m.ldTag = q.ldTag) && decide (m.page = q.dpa >>> 12)) = true := by
    simpa using hopen
  simp only [raiseMiss, hany, if_true]

/-- A miss on another page takes a slot, counts, and sends its record across the gate (R70). -/
theorem raiseMiss_opens {p : Fin 4} {q : Req} {s : State}
    (hnew : ∀ x ∈ s.ports[p].slots, ¬ (x.ldTag = q.ldTag ∧ x.page = q.dpa >>> 12)) (hroom : s.ports[p].slots.length < 64) :
    ∃ v, OnlyCounted (setStage p q .miss true s) v ∧ raiseMiss p q s =
      { updPort p (fun o => { o with
          slots := o.slots ++ [⟨q.ldTag, q.dpa >>> 12, o.invSeq⟩], misses := satAdd 48 o.misses 1 }) v with
        gate := { v.gate with records := v.gate.records ++
          [⟨p, q.ldTag, q.dpa, reqMaster q, q.key, s.ports[p].invSeq, 7⟩] } } := by
  have hany : (s.ports[p].slots.any fun m => decide (m.ldTag = q.ldTag) && decide (m.page = q.dpa >>> 12)) = false := by
    simpa using hnew
  refine ⟨perfPort p 0x03 1 none (setStage p q .miss true s), perfPort_onlyCounted .., ?_⟩
  simp only [raiseMiss, hany, Bool.false_eq_true, if_false, if_neg (Nat.not_le.2 hroom)]
  rfl

/-- A request with no Sheaf entry on a new page: its slot, its record and its stage. -/
theorem raiseMiss_sends_record {p : Fin 4} {s u : State} {q : Req} {l ld tag : Nat} (h : Staged p s u) (hrid : q.rid = s.seq)
    (hsrc : q.src = .host p l ld tag) (hnew : ∀ x ∈ s.ports[p].slots, ¬ (x.ldTag = q.ldTag ∧ x.page = q.dpa >>> 12))
    (hroom : s.ports[p].slots.length < 64) :
    let t := raiseMiss p q u
    t.ports[p].slots = s.ports[p].slots ++ [⟨q.ldTag, q.dpa >>> 12, s.ports[p].invSeq⟩] ∧
    t.gate = { s.gate with records := s.gate.records ++ [⟨p, q.ldTag, q.dpa, q.ldTag, q.key, s.ports[p].invSeq, 7⟩] } ∧
    (∃ r ∈ t.ports[p].reqs, r.req = q ∧ r.stage = .miss) ∧ t.spks = s.spks ∧ t.out = s.out ∧ t.dram = s.dram := by
  obtain ⟨v, hcount, heq⟩ := raiseMiss_opens (p := p) (q := q) (s := u) (by rw [h.slots]; exact hnew)
    (by rw [h.slots]; exact hroom)
  have hw := h.setStage hrid .miss true
  have hv := hcount.carried p
  have hports : v.ports = (setStage p q .miss true u).ports := by rw [hcount.frame]
  have hmaster : reqMaster q = q.ldTag := by simp only [reqMaster, hsrc]
  intro t
  have ht : t = _ := heq
  rw [ht]
  refine ⟨?_, ?_, ?_, hv.spks.trans hw.spks, hv.out.trans hw.out, hv.dram.trans hw.dram⟩
  · simp only [updPort_ports, updAt_get_same, hports, hw.slots, hw.invSeq]
  · simp only [hv.gate, hw.gate, h.invSeq, hmaster]
  · simp only [updPort_ports, updAt_get_same, hports]
    exact h.setStage_open hrid .miss true

/-- Settles O17. Stages 1 and 2 leave the request at the Sheaf with everything it reads as it was; there it joins its home, or its
miss opens or shares a slot. -/
theorem hostRequestStaged : Obligations.HostRequestStaged := by
  unfold Obligations.HostRequestStaged
  refine ⟨?_, ?_⟩
  · intro p l ld tag hpa data be poison op c rg al dpa e s hcmd hserves hprotocol hdecode hinj q hkey hnow hit hpolicy
    obtain ⟨u, hu, hexec⟩ := hostRequest_meets_sheaf hcmd hserves hprotocol hdecode hinj hkey hnow
    rw [translate_hit (hu.noInjection.trans hinj) rfl ((hu.sheafHit _ _).trans hit) hpolicy, hu.dtime] at hexec
    have hjoins := toHome_joinsHome (m := msgOf e q s.dtime) hu (by rw [msgOf_req]; rfl) (by rw [msgOf_req]; rfl)
    unfold JoinsHome at hjoins
    rw [msgOf_req] at hjoins
    exact completes_of_next hexec hjoins
  · intro p l ld tag hpa data be poison op c rg al dpa s hcmd hserves hprotocol hdecode hinj q hkey hnow hmiss
    obtain ⟨u, hu, hexec⟩ := hostRequest_meets_sheaf hcmd hserves hprotocol hdecode hinj hkey hnow
    rw [translate_miss (hu.noInjection.trans hinj) rfl ((hu.sheafHit _ _).trans hmiss)] at hexec
    refine ⟨fun hnew hroom => completes_of_next hexec (raiseMiss_sends_record hu rfl rfl hnew hroom), fun hopen => ?_⟩
    rw [raiseMiss_shares (by rw [hu.slots]; exact hopen)] at hexec
    have hv := hu.setStage (q := q) rfl .miss true
    exact completes_of_next hexec ⟨hv.slots, hv.gate, hu.setStage_open rfl .miss true, hv.spks, hv.out, hv.dram⟩

end Sys2Proof.Machine

/-! # Poison, scan and erase (R49, R118) -/

namespace Sys2Proof.Machine

/-! ## An erase at a key-slot table that lists a slot twice -/

/-- An entry of a RETIRING slot. -/
def retiringSlot : KeySlot := ⟨0, 0, 0, 0, .retiring⟩

/-- The erase has retired slot 0 and waits for its drain, which has come to its end; the slot table lists slot 0 twice. DRAM and
registers are in order, as `tablesOrdered` asks; of the slot table it asks nothing. -/
def twiceListedRetire : State :=
  { State.reset with
    fw := { State.reset.fw with germUp := true, erasing := [⟨0, 0, 0, false, [0], some (0, 0), 0⟩] }
    crypt := { State.reset.crypt with
      slots := [(0, retiringSlot), (0, retiringSlot)], busy := true, markers := 0xF, openSlot := 0 } }

/-- The drain empties the first entry of the slot and the second stands, so that LOAD_GEN finds the slot not EMPTY and refuses. -/
theorem twiceListedRetire_stays_retiring :
    (slotAt (eraseSteps (doRetireDrainComplete twiceListedRetire)) 0).state = .retiring := by
  decide +kernel

/-- Refutes O49 in its last clause. The clause asks for the order of the DRAM and register tables only, and not of the table of
key slots: where that lists the retired slot twice, the drain takes one entry away, the load that follows is refused with
BAD_STATE (R118 step 4), and the slot is not LOADED. -/
theorem not_poisonScanAndErase : ¬ Obligations.PoisonScanAndErase := by
  unfold Obligations.PoisonScanAndErase
  intro h
  obtain ⟨-, -, -, -, -, -, -, -, hDrained⟩ := h 0 0 0 0 0 0 twiceListedRetire
  obtain ⟨t, ht, hslot, -⟩ := hDrained ⟨0, 0, 0, false, [0], some (0, 0), 0⟩ 0 0 0 rfl rfl rfl rfl rfl rfl rfl rfl rfl
    (by decide +kernel) (by decide +kernel) (by decide +kernel) (by decide +kernel) (by decide) rfl (by decide +kernel)
  have hstate := twiceListedRetire_stays_retiring
  have ht' : eraseSteps (doRetireDrainComplete twiceListedRetire) = t := Host.Outcome.next.inj ht
  rw [ht', hslot] at hstate
  exact absurd hstate (by decide)

end Sys2Proof.Machine

namespace Sys2Proof.Machine

/-! # What every command keeps, whatever it does (R58, R112, R440) -/

/-- The parts of the state that the invariants of a run speak of. -/
structure Kept where
  regs : KMap Word
  headers : Vector Header 40
  dram : KMap Image
  ports : Vector Port 4
  domainDown : Bool
  pending : List Instr

/-- Those parts of a state. -/
def kept (s : State) : Kept := ⟨s.regs, s.headers, s.dram, s.ports, s.domainDown, s.pending⟩

/-- What lies between two states of a run with no reset of the whole device between them: the tables stay in order, the error
counts within their bits and the queue of commands as it was; the coherent domain stays down, and a VIRAL port VIRAL. -/
structure Kept.Onward (a b : Kept) : Prop where
  regs : ksorted a.regs = true → ksorted b.regs = true
  dram : ksorted a.dram = true → ksorted b.dram = true
  counts : (∀ i : Fin 40, a.headers[i].errCount < 2 ^ 48) → ∀ i : Fin 40, b.headers[i].errCount < 2 ^ 48
  pending : b.pending = a.pending
  down : a.domainDown = true → b.domainDown = true
  viral : a.domainDown = true → ∀ p : Fin 4, a.ports[p].state = .viral → b.ports[p].state = .viral

/-- `t` may follow `s` with no reset of the whole device between them. It speaks of the `kept` parts alone, so that a change of
any other field needs no word. -/
def Evolves (s t : State) : Prop := (kept s).Onward (kept t)

namespace Evolves

variable {σ s t u : State}

/-! ## A preorder -/

@[refl] theorem refl (s : State) : Evolves s s := ⟨id, id, id, rfl, id, fun _ _ => id⟩

theorem trans (h : Evolves s t) (k : Evolves t u) : Evolves s u where
  regs := k.regs ∘ h.regs
  dram := k.dram ∘ h.dram
  counts := k.counts ∘ h.counts
  pending := k.pending.trans h.pending
  down := k.down ∘ h.down
  viral hd p hp := k.viral (h.down hd) p (h.viral hd p hp)

/-- A change of any fields outside the `kept` parts. -/
theorem frame {img imgDigest imgCopyB filled fillMap flash gate spks crypt tier mcs til pair pwr bring husk clk pins thermal fw
    fuses queue perf dtime seq free out} (hs : Evolves σ s) :
    Evolves σ { s with
      img := img, imgDigest := imgDigest, imgCopyB := imgCopyB, filled := filled, fillMap := fillMap, flash := flash
      gate := gate, spks := spks, crypt := crypt, tier := tier, mcs := mcs, til := til, pair := pair, pwr := pwr
      bring := bring, husk := husk, clk := clk, pins := pins, thermal := thermal, fw := fw, fuses := fuses, queue := queue
      perf := perf, dtime := dtime, seq := seq, free := free, out := out } := hs

theorem ite {c : Prop} [Decidable c] (h : Evolves σ s) (k : Evolves σ t) : Evolves σ (if c then s else t) := by
  split
  · exact h
  · exact k

theorem ite_snd {α : Type} {c : Prop} [Decidable c] {x y : α × State} (h : Evolves σ x.2) (k : Evolves σ y.2) :
    Evolves σ (if c then x else y).2 := by
  split
  · exact h
  · exact k

theorem ite_fst {α : Type} {c : Prop} [Decidable c] {x y : State × α} (h : Evolves σ x.1) (k : Evolves σ y.1) :
    Evolves σ (if c then x else y).1 := by
  split
  · exact h
  · exact k

theorem foldl {β : Type} {f : State → β → State} {l : List β} (hs : Evolves σ s)
    (hf : ∀ u b, Evolves σ u → Evolves σ (f u b)) : Evolves σ (l.foldl f s) := by
  induction l generalizing s with
  | nil => exact hs
  | cons b l ih => exact ih (hf s b hs)

theorem foldl_fst {α β : Type} {f : State × α → β → State × α} {l : List β} {x : State × α} (hs : Evolves σ x.1)
    (hf : ∀ y b, Evolves σ y.1 → Evolves σ (f y b).1) : Evolves σ (l.foldl f x).1 := by
  induction l generalizing x with
  | nil => exact hs
  | cons b l ih => exact ih (hf x b hs)

theorem foldl_snd {α β : Type} {f : α × State → β → α × State} {l : List β} {x : α × State} (hs : Evolves σ x.2)
    (hf : ∀ y b, Evolves σ y.2 → Evolves σ (f y b).2) : Evolves σ (l.foldl f x).2 := by
  induction l generalizing x with
  | nil => exact hs
  | cons b l ih => exact ih (hf x b hs)

/-- The state that an operation answers beside its result. -/
theorem of_eq {α : Type} {x : α × State} {a : α} (h : Evolves σ x.2) (e : x = (a, u)) : Evolves σ u := by
  rw [e] at h
  exact h

theorem of_eq₂ {α β : Type} {x : α × β × State} {a : α} {b : β} (h : Evolves σ x.2.2) (e : x = (a, b, u)) :
    Evolves σ u := by
  rw [e] at h
  exact h

/-! ## Writes of the kept parts -/

protected theorem setRegs {R : KMap Word} (hs : Evolves σ s) (hR : ksorted s.regs = true → ksorted R = true) :
    Evolves σ { s with regs := R } :=
  hs.trans ⟨hR, id, id, rfl, id, fun _ _ => id⟩

protected theorem setDram {D : KMap Image} (hs : Evolves σ s) (hD : ksorted s.dram = true → ksorted D = true) :
    Evolves σ { s with dram := D } :=
  hs.trans ⟨id, hD, id, rfl, id, fun _ _ => id⟩

protected theorem setHeaders {H : Vector Header 40} (hs : Evolves σ s)
    (hH : (∀ i : Fin 40, s.headers[i].errCount < 2 ^ 48) → ∀ i : Fin 40, H[i].errCount < 2 ^ 48) :
    Evolves σ { s with headers := H } :=
  hs.trans ⟨id, id, hH, rfl, id, fun _ _ => id⟩

protected theorem setPorts {P : Vector Port 4} (hs : Evolves σ s)
    (hP : ∀ p : Fin 4, s.ports[p].state = .viral → P[p].state = .viral) : Evolves σ { s with ports := P } :=
  hs.trans ⟨id, id, id, rfl, id, fun _ => hP⟩

protected theorem setDomainDown (hs : Evolves σ s) : Evolves σ { s with domainDown := true } :=
  hs.trans ⟨id, id, id, rfl, fun _ => rfl, fun _ _ => id⟩

protected theorem regSet {off : Nat} {v : Word} (hs : Evolves σ s) : Evolves σ (regSet off v s) :=
  hs.setRegs ksorted_kset

protected theorem dramSet {k : Nat} {v : Image} (hs : Evolves σ s) : Evolves σ (dramSet k v s) :=
  hs.setDram ksorted_kset

/-- A header is written and its count stays within its bits. -/
protected theorem updHeader {b : Fin 40} {f : Header → Header} (hs : Evolves σ s)
    (hf : ∀ h, h.errCount < 2 ^ 48 → (f h).errCount < 2 ^ 48 := by exact fun _ h => h) : Evolves σ (updHeader b f s) :=
  hs.setHeaders fun hH i => by
    rw [updAt_get]
    split
    · exact hf _ (hH b)
    · exact hH i

protected theorem raise {b : Fin 40} {i : Nat} {c : Cap} (hs : Evolves σ s) : Evolves σ (raise b i c s) :=
  hs.updHeader fun h _ => by
    rw [(headerSet_spec ..).2.1]
    exact satAdd_lt ..

/-- A cause that is raised on a condition. -/
theorem raiseIf {c : Prop} [Decidable c] {b : Fin 40} {i : Nat} {x : Cap} (hs : Evolves σ s) :
    Evolves σ (if c then Machine.raise b i x s else s) := .ite hs.raise hs

protected theorem disarm {b : Fin 40} {i : Nat} (hs : Evolves σ s) : Evolves σ (disarm b i s) := hs.updHeader

/-- A port is written, and is VIRAL still if it was. -/
protected theorem updPort {p : Fin 4} {f : Port → Port} (hs : Evolves σ s)
    (hf : ∀ q, q.state = .viral → (f q).state = .viral := by exact fun _ h => h) : Evolves σ (updPort p f s) :=
  hs.setPorts fun q hq => by
    rw [updAt_get]
    split
    · next e =>
      subst e
      exact hf _ hq
    · exact hq

/-- A port that is not VIRAL now was not VIRAL at the start of a run with the domain down. -/
theorem start_ne_viral {p : Fin 4} (hs : Evolves σ s) (hp : s.ports[p].state ≠ .viral) :
    σ.domainDown = true → σ.ports[p].state ≠ .viral := fun hd hv => hp (hs.viral hd p hv)

/-- A domain that is up now was up at the start. -/
theorem start_up (hs : Evolves σ s) (h : s.domainDown = false) : σ.domainDown = false :=
  Bool.eq_false_iff.2 fun hd => Bool.false_ne_true (h.symm.trans (hs.down hd))

/-- A port changes its state that was not VIRAL at the start. -/
protected theorem updPort_of_start {p : Fin 4} {f : Port → Port} (hs : Evolves σ s)
    (hp : σ.domainDown = true → σ.ports[p].state ≠ .viral) : Evolves σ (updPort p f s) := by
  refine ⟨hs.regs, hs.dram, hs.counts, hs.pending, hs.down, fun hd q hq => ?_⟩
  have hne : p ≠ q := fun e => hp hd (by rw [e]; exact hq)
  show (updAt s.ports p f)[q].state = .viral
  rw [updAt_get_other _ _ hne]
  exact hs.viral hd q hq

protected theorem eachPort {f : Fin 4 → State → State} (hs : Evolves σ s) (hf : ∀ p u, Evolves σ u → Evolves σ (f p u)) :
    Evolves σ (eachPort f s) := hs.foldl fun u p => hf p u

protected theorem eachSpk {f : Fin 8 → State → State} (hs : Evolves σ s) (hf : ∀ k u, Evolves σ u → Evolves σ (f k u)) :
    Evolves σ (eachSpk f s) := hs.foldl fun u k => hf k u

protected theorem eachMc {f : Fin 16 → State → State} (hs : Evolves σ s) (hf : ∀ x u, Evolves σ u → Evolves σ (f x u)) :
    Evolves σ (eachMc f s) := hs.foldl fun u x => hf x u

end Evolves
end Sys2Proof.Machine

namespace Sys2Proof.Machine

-- Eight hundred proofs at once would take more threads than the memory holds: they are checked one after the other.
set_option Elab.async false

variable {σ s : State}

/-! ## Ops -/

protected theorem Evolves.updSpk {k : Fin 8} {f : Spk → Spk} (hs : Evolves σ s) : Evolves σ (updSpk k f s) := hs.frame

protected theorem Evolves.updMc {x : Fin 16} {f : Mc → Mc} (hs : Evolves σ s) : Evolves σ (updMc x f s) := hs.frame

protected theorem Evolves.updOut {o : Fin 4} {f : Output → Output} (hs : Evolves σ s) : Evolves σ (updOut o f s) := hs.frame

protected theorem Evolves.updLink {p l : Fin 4} {f : Link → Link} (hs : Evolves σ s) :
    Evolves σ (updLink p l f s) := hs.updPort

protected theorem Evolves.updMbox {p l : Fin 4} {f : Mailbox → Mailbox} (hs : Evolves σ s) :
    Evolves σ (updMbox p l f s) := hs.updPort

protected theorem Evolves.takeSeq (hs : Evolves σ s) : Evolves σ (takeSeq s).2 := by
  unfold takeSeq
  dsimp only
  exact hs.frame

protected theorem Evolves.emit {o : Out} (hs : Evolves σ s) : Evolves σ (emit o s) := hs.frame

protected theorem Evolves.timeTo {t : Nat} (hs : Evolves σ s) : Evolves σ (timeTo t s) := hs.frame

protected theorem Evolves.drawBits (hs : Evolves σ s) : Evolves σ (drawBits s).2 := by
  unfold drawBits
  dsimp only
  exact hs.frame

protected theorem Evolves.drawChoice {n : Nat} (hs : Evolves σ s) : Evolves σ (drawChoice n s).2 := by
  unfold drawChoice
  dsimp only
  exact hs.frame

protected theorem Evolves.ungate {d : Nat} (hs : Evolves σ s) : Evolves σ (ungate d s) := .ite hs.frame hs

protected theorem Evolves.raiseBits {b : Fin 40} {v : BitVec 32} {c : Cap} (hs : Evolves σ s) :
    Evolves σ (raiseBits b v c s) := hs.foldl fun _ _ h => h.raise

protected theorem Evolves.refusedWrite {b : Fin 40} {bit : Nat} {m : Master} {off : Nat} (hs : Evolves σ s) :
    Evolves σ (refusedWrite b bit m off s) := hs.raise.emit

protected theorem Evolves.perfAdd {fuel n amount : Nat} (hs : Evolves σ s) : Evolves σ (perfAdd fuel n amount s) := by
  induction fuel generalizing n amount s with
  | zero => exact hs
  | succ fuel ih => exact .ite hs.frame (.ite (ih hs.frame) hs.frame.raise)

protected theorem Evolves.perfEvent {first count event amount : Nat} {cls : Option Nat} (hs : Evolves σ s) :
    Evolves σ (perfEvent first count event amount cls s) := .ite hs (hs.foldl fun _ _ h => .ite h.perfAdd h)

protected theorem Evolves.perfSpk {k : Fin 8} {event amount : Nat} {cls : Option Nat} (hs : Evolves σ s) :
    Evolves σ (perfSpk k event amount cls s) := hs.perfEvent

protected theorem Evolves.perfPort {p : Fin 4} {event amount : Nat} {cls : Option Nat} (hs : Evolves σ s) :
    Evolves σ (perfPort p event amount cls s) := hs.perfEvent

protected theorem Evolves.perfMc {x : Fin 16} {event amount : Nat} {cls : Option Nat} (hs : Evolves σ s) :
    Evolves σ (perfMc x event amount cls s) := hs.perfEvent

/-! ## Regs -/

protected theorem Evolves.regSetField {off lo w v : Nat} (hs : Evolves σ s) :
    Evolves σ (regSetField off lo w v s) := hs.regSet

protected theorem Evolves.regWrite {h : Half} {off : Nat} {v : Word} (hs : Evolves σ s) :
    Evolves σ (regWrite h off v s) := hs.regSet

protected theorem Evolves.guardWrite {m : Master} {off : Nat} {f : State → State} (hs : Evolves σ s)
    (hf : ∀ u, Evolves σ u → Evolves σ (f u)) :
    Evolves σ (guardWrite m off f s) := by
  unfold guardWrite
  split
  · exact hs
  · exact .ite (hf _ hs) hs.refusedWrite

/-! ## Mem -/

protected theorem Evolves.firstSlice {x : Fin 16} {row : Nat} (hs : Evolves σ s) : Evolves σ (firstSlice x row s).2 := by
  unfold firstSlice
  dsimp only
  exact (hs.foldl fun _ _ h => h.emit).updMc.perfMc

protected theorem Evolves.dueSlice {x : Fin 16} {row : Nat} (hs : Evolves σ s) : Evolves σ (dueSlice x row s).2 := by
  unfold dueSlice
  refine ite_snd ?_ ?_
  · dsimp only
    exact hs.updMc
  · exact hs.firstSlice

protected theorem Evolves.activateRows {fuel : Nat} {x : Fin 16} {rows : List Nat} (hs : Evolves σ s) :
    Evolves σ (activateRows fuel x rows s) := by
  induction fuel generalizing rows s with
  | zero => exact hs.updMc
  | succ fuel ih =>
    cases rows with
    | nil => exact hs
    | cons r rows =>
      unfold activateRows
      dsimp only
      split
      · split
        · exact ih hs.perfMc.updMc.dueSlice
        · exact ih hs.perfMc.updMc
      · split
        · exact ih hs.perfMc.updMc
        · exact ih hs.perfMc.updMc.raise.dueSlice

protected theorem Evolves.activate {m : Nat} (hs : Evolves σ s) : Evolves σ (activate m s) := by
  unfold activate
  dsimp only
  exact .ite hs.updMc hs.updMc.ungate.activateRows

protected theorem Evolves.logError {x : Fin 16} {kind device p : Nat} {c : Coord} {m : Nat} (hs : Evolves σ s) :
    Evolves σ (logError x kind device p c m s) := hs.updMc

protected theorem Evolves.callSpare {x : Fin 16} {r : Nat} (hs : Evolves σ s) :
    Evolves σ (callSpare x r s) := .ite hs (.ite hs.raise hs.updMc)

protected theorem Evolves.countUe {x : Fin 16} {r : Nat} (hs : Evolves σ s) :
    Evolves σ (countUe x r s) := .ite hs.updMc.callSpare hs.updMc

protected theorem Evolves.busImage {x : Fin 16} {key : Nat} {held : Option Image} {noise : Image} (hs : Evolves σ s) :
    Evolves σ (busImage x key held noise s).2 := by
  unfold busImage
  dsimp only
  refine ite_snd ?_ ?_
  · dsimp only
    exact hs.disarm
  · refine ite_snd ?_ ?_
    · dsimp only
      exact hs.disarm
    · exact hs

protected theorem Evolves.readLine {m : Nat} {awn : Bool} {noise : Image} {who : Reader} {cap : Cap} (hs : Evolves σ s) :
    Evolves σ (readLine m awn noise who cap s).2 := by
  unfold readLine
  dsimp only
  split
  · dsimp only
    exact .ite hs.activate.perfMc.busImage.updMc hs.activate.perfMc.busImage
  · dsimp only
    exact (Evolves.ite hs.activate.perfMc.busImage.updMc hs.activate.perfMc.busImage).updMc.raise.logError
  · dsimp only
    exact (Evolves.ite hs.activate.perfMc.busImage.updMc hs.activate.perfMc.busImage).raise.countUe.logError
  · dsimp only
    exact (Evolves.ite hs.activate.perfMc.busImage.updMc hs.activate.perfMc.busImage).raise.countUe.logError

protected theorem Evolves.writeLine {m : Nat} {img : Image} (hs : Evolves σ s) :
    Evolves σ (writeLine m img s) := .ite hs (.ite hs.updMc.updMc hs.updMc.activate.perfMc.dramSet)

/-! ## Culm -/

protected theorem Evolves.setCulm {a : Nat} {l : CulmLine} (hs : Evolves σ s) : Evolves σ (setCulm a l s) := hs.updSpk

protected theorem Evolves.dropCulm {a : Nat} (hs : Evolves σ s) : Evolves σ (dropCulm a s) := hs.updSpk

protected theorem Evolves.touch {a : Nat} (hs : Evolves σ s) : Evolves σ (touch a s) := by
  unfold touch
  dsimp only
  split
  · exact hs.setCulm.frame
  · exact hs

protected theorem Evolves.putHeld {kind : CulmKind} {a : Nat} {d : Line} (hs : Evolves σ s) :
    Evolves σ (putHeld kind a d s) := by
  unfold putHeld
  dsimp only
  split
  · exact .ite hs hs.setCulm
  · exact hs.setCulm

protected theorem Evolves.putNode {c m : Nat} {n : Line} (hs : Evolves σ s) :
    Evolves σ (putNode c m n s) := .ite hs.frame hs.putHeld

protected theorem Evolves.retireSpan {lo size : Nat} (hs : Evolves σ s) :
    Evolves σ (retireSpan lo size s) := hs.frame.eachSpk (fun _ _ h => h.updSpk)

protected theorem Evolves.failNode {c m a : Nat} (hs : Evolves σ s) :
    Evolves σ (failNode c m a s) := hs.updSpk.retireSpan.raise

protected theorem Evolves.retagChild {c m : Nat} {old new : Ctr} (hs : Evolves σ s) :
    Evolves σ (retagChild c m old new s) := by
  unfold retagChild
  dsimp only
  split
  · exact hs.putHeld
  · split
    · exact .ite hs.readLine.writeLine hs.readLine.failNode
    · exact hs.readLine.failNode

protected theorem Evolves.bumpParent {c m : Nat} (hs : Evolves σ s) : Evolves σ (bumpParent c m s) := by
  unfold bumpParent
  dsimp only
  split
  · exact hs
  · exact .ite hs.putNode (hs.putNode.raise.updSpk.foldl fun _ _ h => h.retagChild)

protected theorem Evolves.fetchOps {kind : CulmKind} {a : Nat} {noise : Image} (hs : Evolves σ s) :
    Evolves σ (fetchOps kind a noise s).2 := by
  unfold fetchOps
  dsimp only
  split
  · split
    · exact ite_snd hs.perfSpk.readLine hs.perfSpk.readLine.failNode
    · exact hs.perfSpk.readLine
    · exact hs.perfSpk.readLine.failNode
  · split
    · exact hs.perfSpk.readLine
    · exact hs.perfSpk.readLine

protected theorem Evolves.culmStep {cls : Nat} {op : CulmOp} (hs : Evolves σ s) : Evolves σ (culmStep cls op s).2 := by
  unfold culmStep
  dsimp only
  split
  · refine ite_snd hs ?_
    split
    · dsimp only
      exact hs.perfSpk.touch
    · exact hs
  · split
    · exact hs.fetchOps
    · exact hs
  · split
    · dsimp only
      exact hs.perfSpk.touch
    · exact hs.fetchOps
  · refine ite_snd ?_ ?_
    · dsimp only
      exact hs.setCulm
    · split
      · split
        · refine ite_snd ?_ ?_
          · exact ite_snd hs hs
          · dsimp only
            exact hs.dropCulm
        · exact hs
      · dsimp only
        exact hs.setCulm.frame
  · split
    · refine ite_snd hs ?_
      split
      · dsimp only
        exact hs.touch
      · exact hs
    · exact hs
  · dsimp only
    exact hs.bumpParent
  · split
    · dsimp only
      exact hs.setCulm.writeLine
    · exact hs
  · dsimp only
    exact hs.dropCulm

protected theorem Evolves.culmRun {fuel cls : Nat} {ops : List CulmOp} (hs : Evolves σ s) :
    Evolves σ (culmRun fuel cls ops s) := by
  induction fuel generalizing ops s with
  | zero => exact hs
  | succ fuel ih =>
    cases ops with
    | nil => exact hs
    | cons op ops => exact ih hs.culmStep

protected theorem Evolves.holdPath {cls m : Nat} (hs : Evolves σ s) : Evolves σ (holdPath cls m s) := hs.culmRun

/-! ## Data -/

protected theorem Evolves.setPkt {m : Nat} {k : Option Nat} (hs : Evolves σ s) : Evolves σ (setPkt m k s) := by
  unfold setPkt
  dsimp only
  split
  · exact hs.putHeld
  · exact hs

protected theorem Evolves.bindPage {m k : Nat} (hs : Evolves σ s) : Evolves σ (bindPage m k s).2 := by
  unfold bindPage
  split
  · exact hs
  · dsimp only
    exact hs.setPkt

protected theorem Evolves.setTagSlot {m : Nat} {t : BitVec 64} (hs : Evolves σ s) : Evolves σ (setTagSlot m t s) := by
  unfold setTagSlot
  dsimp only
  split
  · split
    · exact hs.putHeld
    · exact hs
  · exact hs

protected theorem Evolves.putLeaf {m : Nat} {n : Line} (hs : Evolves σ s) : Evolves σ (putLeaf m n s) := hs.putHeld

protected theorem Evolves.readData {m : Nat} {a : Acc} {noise : Image} (hs : Evolves σ s) :
    Evolves σ (readData m a noise s).2 := by
  unfold readData
  dsimp only
  refine ite_snd hs ?_
  split
  · exact hs
  · split
    · exact hs.readLine
    · exact hs.readLine
    · exact hs.readLine
    · refine ite_snd (.ite hs.readLine.perfSpk hs.readLine) (ite_snd (.ite hs.readLine.perfSpk hs.readLine) ?_)
      split
      · exact .ite hs.readLine.perfSpk hs.readLine
      · exact .ite hs.readLine.perfSpk hs.readLine

protected theorem Evolves.readCause {m : Nat} {a : Acc} {r : ReadRes} (hs : Evolves σ s) : Evolves σ (readCause m a r s) := by
  unfold readCause
  split
  · exact hs.raise
  · exact hs.raise
  · exact hs.raise
  · exact hs

protected theorem Evolves.holdSlot {cls m : Nat} (hs : Evolves σ s) : Evolves σ (holdSlot cls m s) := by
  unfold holdSlot
  split
  · exact .ite hs hs.culmRun
  · exact hs

protected theorem Evolves.storeLine {cls m : Nat} {awn : Bool} {c : Ctr} {n : NewLine} {blank : Bool} (hs : Evolves σ s) :
    Evolves σ (storeLine cls m awn c n blank s) := by
  unfold storeLine
  dsimp only
  split
  · exact hs.writeLine
  · refine .writeLine ?_
    split
    · exact hs.holdSlot.setTagSlot
    · exact .ite hs.perfSpk hs

protected theorem Evolves.moveCause {m : Nat} {a : Acc} {r : ReadRes} (hs : Evolves σ s) :
    Evolves σ (moveCause m a r s) := .ite hs hs.readCause

protected theorem Evolves.reencRead {m : Nat} {a : Acc} (hs : Evolves σ s) : Evolves σ (reencRead m a s).2 := by
  unfold reencRead
  dsimp only
  generalize hx : readData m _ 0 _ = x
  have h : Evolves σ x.2 := hx ▸ hs.holdPath.readData
  obtain ⟨r, t⟩ := x
  cases r
  case ok => exact h
  case blank => exact h
  all_goals exact h.moveCause

protected theorem Evolves.reencrypt {m : Nat} {a : Acc} {n : NewLine} (hs : Evolves σ s) : Evolves σ (reencrypt m a n s) := by
  unfold reencrypt
  dsimp only
  split
  · exact hs
  · refine .raise ?_
    refine .updSpk ?_
    refine .foldl ?_ (fun _ _ h => h.storeLine)
    refine .putLeaf ?_
    refine foldl_snd hs fun _ _ h => ?_
    dsimp only
    exact h.reencRead

protected theorem Evolves.writeData {m : Nat} {a : Acc} {n : NewLine} (hs : Evolves σ s) : Evolves σ (writeData m a n s) := by
  unfold writeData
  dsimp only
  refine .ite hs ?_
  split
  · exact hs
  · exact .ite hs.reencrypt hs.putLeaf.storeLine

protected theorem Evolves.blankGroup {m : Nat} {awn : Bool} (hs : Evolves σ s) : Evolves σ (blankGroup m awn s) := by
  unfold blankGroup
  dsimp only
  split
  · exact hs
  · exact .ite hs (hs.putLeaf.foldl fun _ _ h => h.storeLine)

protected theorem Evolves.blankPage {p : Nat} {awn : Bool} (hs : Evolves σ s) : Evolves σ (blankPage p awn s) := by
  unfold blankPage
  exact hs.holdPath.blankGroup.holdPath.blankGroup.holdPath.setPkt

/-! ## Region -/

protected theorem Evolves.judgePool {n : Fin 2} (hs : Evolves σ s) : Evolves σ (judgePool n s) := by
  unfold judgePool
  dsimp only
  refine .ite hs ?_
  split
  · exact hs.frame.raise
  · exact hs.frame.raise
  · exact hs.frame

protected theorem Evolves.setPool {n : Fin 2} {f : List (Nat × Nat) → List (Nat × Nat)} (hs : Evolves σ s) :
    Evolves σ (setPool n f s) := hs.frame.judgePool

protected theorem Evolves.allocPick {n : Fin 2} {ok : Nat → Bool} (hs : Evolves σ s) : Evolves σ (allocPick n ok s).2 := by
  unfold allocPick
  dsimp only
  refine ite_snd hs ?_
  split
  · exact hs.drawChoice.setPool
  · exact hs.frame

protected theorem Evolves.allocPage {n : Fin 2} (hs : Evolves σ s) : Evolves σ (allocPage n s).2 := by
  unfold allocPage
  exact hs.allocPick

protected theorem Evolves.allocHomed {n : Fin 2} {k : Fin 8} (hs : Evolves σ s) : Evolves σ (allocHomed n k s).2 := by
  unfold allocHomed
  exact hs.allocPick

protected theorem Evolves.returnPage {m : Nat} (hs : Evolves σ s) : Evolves σ (returnPage m s) := .ite hs.setPool hs

/-! ## Snoop -/

protected theorem Evolves.sfPut {k : Fin 8} {pl : Nat} {e : SfEntry} (hs : Evolves σ s) :
    Evolves σ (sfPut k pl e s) := hs.updSpk

protected theorem Evolves.sendBi_done {k : Fin 8} {owner : BiOwner} {sec : Nat} {n : BiNeed} {sid left : Nat}
    (hs : Evolves σ s) : Evolves σ (sendBi.done k owner sec n sid left s) := hs.updSpk.perfSpk

protected theorem Evolves.sendBi {k : Fin 8} {owner : BiOwner} {sec region aliasF dpaSector : Nat} {n : BiNeed}
    (hs : Evolves σ s) : Evolves σ (sendBi k owner sec region aliasF dpaSector n s) := by
  unfold sendBi
  dsimp only
  split
  · exact hs.takeSeq.sendBi_done
  · split
    · exact hs.takeSeq.sendBi_done
    · exact .ite hs.takeSeq.sendBi_done
        (hs.takeSeq.foldl fun _ _ h => .ite h.takeSeq.updPort.emit h.takeSeq.updPort).sendBi_done

protected theorem Evolves.sendUnsent {p : Fin 4} {l : Nat} (hs : Evolves σ s) :
    Evolves σ (sendUnsent p l s) := hs.foldl fun _ _ h => h.updPort.emit

protected theorem Evolves.sendBis {k : Fin 8} {owner : BiOwner} {e : SfEntry} {ns : List BiNeed} (hs : Evolves σ s) :
    Evolves σ (sendBis k owner e ns s) := (hs.foldl fun _ _ h => h.sendBi).updSpk

/-! ## Packed -/

protected theorem Evolves.readDesc {d : Nat} {noise : Image} (hs : Evolves σ s) : Evolves σ (readDesc d noise s).2 := by
  unfold readDesc
  exact hs.readData

protected theorem Evolves.writeDesc {d : Nat} {l : Line} (hs : Evolves σ s) : Evolves σ (writeDesc d l s) := hs.writeData

protected theorem Evolves.readGranule {g : Nat} {a : Acc} {noise : Image} (hs : Evolves σ s) :
    Evolves σ (readGranule g a noise s).2 := by
  refine foldl_snd hs fun acc _ h => ?_
  dsimp only
  split
  · exact h
  · split
    · exact h.holdPath.readData
    · exact h.holdPath.readData.readCause

protected theorem Evolves.readBlock {k : Fin 8} {d : Line} {b : Nat} {a : Acc} {noise : Image} (hs : Evolves σ s) :
    Evolves σ (readBlock k d b a noise s).2 := by
  unfold readBlock
  dsimp only
  split
  · exact hs
  · have hgs : ∀ gs : List Nat, Evolves σ (gs.foldl (fun (acc : Option (List Byte) × State) g =>
        match acc.1 with
        | none => acc
        | some bs =>
          let (r, t) := Machine.readGranule g a (if bs.isEmpty then noise else 0) acc.2
          (r.map (bs ++ ·), t)) (some [], s)).2 := fun gs => by
      refine foldl_snd hs fun acc _ h => ?_
      dsimp only
      split
      · exact h
      · exact h.readGranule
    split
    · exact (hgs _).updSpk
    · split
      · exact .ite (hgs _).updSpk.disarm (hgs _).updSpk
      · exact (Evolves.ite (hgs _).updSpk.disarm (hgs _).updSpk).raise
      · exact (Evolves.ite (hgs _).updSpk.disarm (hgs _).updSpk).raise

protected theorem Evolves.takeGranule {k : Fin 8} {key : Nat} {strong : Bool} (hs : Evolves σ s) :
    Evolves σ (takeGranule k key strong s).2 := by
  unfold takeGranule
  dsimp only
  split
  · dsimp only
    exact hs.updSpk
  · split
    · exact hs
    · dsimp only
      exact hs.holdPath.setPkt.frame.updSpk

protected theorem Evolves.takeGranules {n : Nat} {k : Fin 8} {key : Nat} {strong : Bool} (hs : Evolves σ s) :
    Evolves σ (takeGranules n k key strong s).2 := by
  induction n generalizing s with
  | zero => exact hs
  | succ n ih =>
    unfold takeGranules
    split
    · exact hs
    · next e =>
      split
      · exact hs
      · next e' => exact (ih (hs.takeGranule.of_eq e)).of_eq e'

protected theorem Evolves.ringAdd {k : Fin 8} {key : Nat} {gs : List Nat} (hs : Evolves σ s) :
    Evolves σ (ringAdd k key gs s) := hs.updSpk

protected theorem Evolves.writeGranule {cls g key : Nat} {awn : Bool} {bytes : List Byte} (hs : Evolves σ s) :
    Evolves σ (writeGranule cls g key awn bytes s) := hs.foldl fun _ _ h => h.holdPath.writeData

protected theorem Evolves.writeBlock {cls : Nat} {gs : List Nat} {key : Nat} {awn : Bool} {bytes : List Byte}
    (hs : Evolves σ s) :
    Evolves σ (writeBlock cls gs key awn bytes s) := hs.foldl fun _ _ h => h.writeGranule

protected theorem Evolves.fillPage {p key : Nat} {awn : Bool} {ls : List PageLine} (hs : Evolves σ s) :
    Evolves σ (fillPage p key awn ls s) := by
  unfold fillPage
  dsimp only
  refine hs.foldl fun _ _ h => ?_
  split
  · exact h
  · exact h.holdPath.writeData
  · exact h.holdPath.writeData

protected theorem Evolves.readPlainPage {p : Nat} {awn : Bool} {noise : Image} (hs : Evolves σ s) :
    Evolves σ (readPlainPage p awn noise s).2 := by
  refine foldl_snd hs fun acc i h => ?_
  dsimp only
  generalize hx : readData _ _ _ _ = x
  have h : Evolves σ x.2 := hx ▸ h.holdPath.readData
  obtain ⟨r, t⟩ := x
  cases r
  case ok => exact h
  case blank => exact h
  all_goals exact h.moveCause

protected theorem Evolves.readPackedPage {k : Fin 8} {d : Line} {awn : Bool} {noise : Image} (hs : Evolves σ s) :
    Evolves σ (readPackedPage k d awn noise s).2 := by
  unfold readPackedPage
  dsimp only
  refine foldl_snd hs fun _ _ h => ?_
  refine ite_snd h ?_
  split
  · next e =>
      dsimp only
      exact h.readBlock.of_eq e
  · next e =>
      dsimp only
      exact h.readBlock.of_eq e

/-! ## Remap -/

protected theorem Evolves.readEntry {a master : Nat} {noise : Image} (hs : Evolves σ s) :
    Evolves σ (readEntry a master noise s).2 := by
  unfold readEntry
  dsimp only
  split
  · dsimp only
    exact hs.holdPath.readData
  · dsimp only
    exact hs.holdPath.readData.readCause

protected theorem Evolves.writeEntry {a : Nat} {v : Word} (hs : Evolves σ s) : Evolves σ (writeEntry a v s) := by
  unfold writeEntry
  dsimp only
  split
  · exact hs.holdPath.readData.writeData
  · exact hs.holdPath.readData

protected theorem Evolves.takeTable (hs : Evolves σ s) : Evolves σ (takeTable s).2 := ite_snd hs hs.frame

protected theorem Evolves.tableFor {fuel ldTag dpa want level table : Nat} (hs : Evolves σ s) :
    Evolves σ (tableFor fuel ldTag dpa want level table s).2 := by
  induction fuel generalizing level table s with
  | zero => exact hs
  | succ fuel ih =>
    unfold tableFor
    dsimp only
    split
    · exact hs
    · split
      · next e => exact hs.readEntry.of_eq e
      · next e =>
        have h := hs.readEntry.of_eq e
        split
        · split
          · exact h
          · exact ih h
        · split
          · next e' => exact h.takeTable.of_eq e'
          · next e' => exact ih (h.takeTable.of_eq e').writeEntry

protected theorem Evolves.writeSlots {ldTag dpa size : Nat} {v : Word} (hs : Evolves σ s) :
    Evolves σ (writeSlots ldTag dpa size v s) := by
  unfold writeSlots
  dsimp only
  split
  · next e =>
      exact hs.tableFor.of_eq e
  · next e =>
      exact (hs.tableFor.of_eq e).foldl fun _ _ h => h.writeEntry

protected theorem Evolves.linkTable {first ld dpa level : Nat} (hs : Evolves σ s) :
    Evolves σ (linkTable first ld dpa level s) := by
  unfold linkTable
  dsimp only
  split
  · next e =>
      exact hs.tableFor.of_eq e
  · next e =>
      split
      · next e' =>
          exact (hs.tableFor.of_eq e).tableFor.of_eq e'
      · next e' =>
          split
          · next e₃ =>
              exact .ite (((hs.tableFor.of_eq e).tableFor.of_eq e').readEntry.of_eq e₃)
                  (((hs.tableFor.of_eq e).tableFor.of_eq e').readEntry.of_eq e₃).writeEntry
          · next e'2 =>
              exact ((hs.tableFor.of_eq e).tableFor.of_eq e').readEntry.of_eq e'2

protected theorem Evolves.writeMapping {r : Region} {dpa size : Nat} {v : Word} (hs : Evolves σ s) :
    Evolves σ (writeMapping r dpa size v s) := by
  unfold writeMapping
  dsimp only
  split
  · exact .ite (hs.foldl fun _ _ h => h.writeSlots) (hs.writeSlots.foldl fun _ _ h => h.linkTable)
  · exact hs

protected theorem Evolves.lookEntry {fuel ldTag dpa level table : Nat} (hs : Evolves σ s) :
    Evolves σ (lookEntry fuel ldTag dpa level table s).2 := by
  induction fuel generalizing level table s with
  | zero => exact hs
  | succ fuel ih =>
    unfold lookEntry
    split
    · next e => exact hs.readEntry.of_eq e
    · next e =>
      have h := hs.readEntry.of_eq e
      split
      · exact h
      · split
        · exact h
        · split
          · exact h
          · exact ih h

protected theorem Evolves.lookLeaf {ldTag dpa : Nat} (hs : Evolves σ s) : Evolves σ (lookLeaf ldTag dpa s).2 := by
  unfold lookLeaf
  exact hs.lookEntry

protected theorem Evolves.leavesIn {fuel ldTag dpa limit : Nat} (hs : Evolves σ s) :
    Evolves σ (leavesIn fuel ldTag dpa limit s).2 := by
  induction fuel generalizing dpa s with
  | zero => exact hs
  | succ fuel ih =>
    unfold leavesIn
    split
    · exact hs
    · split
      · next e => exact ih (hs.lookLeaf.of_eq e)
      · next e => exact ih (hs.lookLeaf.of_eq e)

protected theorem Evolves.cachePtr {w : WalkPtr} (hs : Evolves σ s) : Evolves σ (cachePtr w s) := hs.frame

protected theorem Evolves.descend {fuel : Nat} {w : Walk} (hs : Evolves σ s) : Evolves σ (descend fuel w s).2 := by
  induction fuel generalizing w s with
  | zero => exact hs
  | succ fuel ih =>
    unfold descend
    split
    · split
      · exact hs
      · exact ih hs.cachePtr
    · exact hs

protected theorem Evolves.restartWalk {w : Walk} (hs : Evolves σ s) : Evolves σ (restartWalk w s).2 := by
  unfold restartWalk
  exact hs.descend

protected theorem Evolves.flushCache {all : Bool} {ldTag dpa size : Nat} (hs : Evolves σ s) :
    Evolves σ (flushCache all ldTag dpa size s) := by
  unfold flushCache
  dsimp only
  refine .frame (foldl_snd hs.frame fun acc _ h => ?_)
  split
  · exact h.restartWalk
  · exact h

/-! ## QueueBase -/

protected theorem Evolves.setQp {n : Nat} {q : QPair} (hs : Evolves σ s) : Evolves σ (setQp n q s) := hs.frame

protected theorem Evolves.updQp {n : Nat} {f : QPair → QPair} (hs : Evolves σ s) : Evolves σ (updQp n f s) := hs.setQp

protected theorem Evolves.setVerdict {i status reason detail : Nat} (hs : Evolves σ s) :
    Evolves σ (setVerdict i status reason detail s) := hs.frame

protected theorem Evolves.endAccepted {kind status reason : Nat} {ok : BitVec 256 → Bool} (hs : Evolves σ s) :
    Evolves σ (endAccepted kind status reason ok s) := hs.foldl fun _ _ h => h.setVerdict

protected theorem Evolves.updTaken {n i : Nat} {f : Taken → Taken} (hs : Evolves σ s) :
    Evolves σ (updTaken n i f s) := hs.updQp

protected theorem Evolves.complete {n i : Nat} {f : Fin_} (hs : Evolves σ s) : Evolves σ (complete n i f s) := by
  unfold complete
  dsimp only
  split
  · exact hs
  · exact .ite hs.setQp.raise hs.setQp

protected theorem Evolves.takeDescs {fuel n : Nat} (hs : Evolves σ s) : Evolves σ (takeDescs fuel n s) := by
  induction fuel generalizing s with
  | zero => exact hs
  | succ fuel ih => exact .ite hs (ih hs.setQp)

protected theorem Evolves.takePort {p : Fin 4} (hs : Evolves σ s) :
    Evolves σ (takePort p s) := hs.foldl fun _ _ h => h.takeDescs

protected theorem Evolves.dropHeld {n : Nat} (hs : Evolves σ s) : Evolves σ (dropHeld n s) := hs.updPort

protected theorem Evolves.qpDisable {n : Nat} {down : Bool} (hs : Evolves σ s) :
    Evolves σ (qpDisable n down s) := (hs.dropHeld.foldl fun _ _ h => h.complete).updQp

/-! ## Domain -/

protected theorem Evolves.sendRsp {p : Fin 4} {l ld tag : Nat} {kind : RspKind} {data : Line} {poison : Bool}
    {devLoad : Nat} (hs : Evolves σ s) :
    Evolves σ (sendRsp p l ld tag kind data poison devLoad s) := .ite hs.emit.perfPort hs.emit

protected theorem Evolves.refuseHost {q : Req} (hs : Evolves σ s) : Evolves σ (refuseHost q s) := by
  unfold refuseHost
  dsimp only
  split
  · exact hs.sendRsp
  · exact hs

protected theorem Evolves.portViral {p : Fin 4} (hs : Evolves σ s) : Evolves σ (portViral p s) :=
  .ite hs ((hs.raise.emit.foldl fun _ _ h => h.refuseHost).updPort fun _ _ => rfl)

protected theorem Evolves.spkDown {k : Fin 8} (hs : Evolves σ s) : Evolves σ (spkDown k s) := hs.updSpk.raise

protected theorem Evolves.goDown (hs : Evolves σ s) : Evolves σ (goDown s) :=
  .ite hs ((((hs.setDomainDown.raise.eachSpk fun _ _ h => h.spkDown).eachPort fun _ _ h => h.portViral).foldl
    fun _ _ h => .ite h.qpDisable h).frame)

protected theorem Evolves.fatalParity {b : Fin 40} {bit : Nat} {c : Cap} (hs : Evolves σ s) :
    Evolves σ (fatalParity b bit c s) := hs.raise.goDown

protected theorem Evolves.stageParity {b : Fin 40} {fatalBit containedBit : Nat} {keyed : Bool} {par : ParityKind}
    (hs : Evolves σ s) :
    Evolves σ (stageParity b fatalBit containedBit keyed par s).2 := by
  unfold stageParity
  refine ite_snd ?_ ?_
  · dsimp only
    exact hs.disarm
  · refine ite_snd ?_ ?_
    · dsimp only
      exact hs.disarm
    · exact hs

protected theorem Evolves.chanParity {m : Nat} {read keyed : Bool} {par : ParityKind} (hs : Evolves σ s) :
    Evolves σ (chanParity m read keyed par s).2 := by
  unfold chanParity
  dsimp only
  exact ite_snd hs hs.stageParity

protected theorem Evolves.chanAccess {m : Nat} {read : Bool} {par : Parity} {c : Cap} {f : State → State}
    (hs : Evolves σ s) (hf : ∀ u, Evolves σ u → Evolves σ (f u)) :
    Evolves σ (chanAccess m read par c f s) := by
  unfold chanAccess
  split
  · next e =>
      exact (hs.chanParity.of_eq e).fatalParity
  · next e =>
      exact hf _ (hs.chanParity.of_eq e)

/-! ## TilTx -/

protected theorem Evolves.queueTil {m : TilMsg} (hs : Evolves σ s) : Evolves σ (queueTil m s) := .ite hs.frame hs

protected theorem Evolves.startTimer (hs : Evolves σ s) : Evolves σ (startTimer s) := .ite hs.frame hs

protected theorem Evolves.openMirror {spk tid ldTag dpa : Nat} {page : Option Nat} (hs : Evolves σ s) :
    Evolves σ (openMirror spk tid ldTag dpa page s).2 := by
  unfold openMirror
  dsimp only
  exact hs.startTimer.frame

protected theorem Evolves.openFetch {x mpa ldTag key dpa : Nat} (hs : Evolves σ s) :
    Evolves σ (openFetch x mpa ldTag key dpa s) := hs.startTimer.frame.queueTil

protected theorem Evolves.queueSync {u : SfUpdate} (hs : Evolves σ s) : Evolves σ (queueSync u s) := hs.frame

protected theorem Evolves.sfKeep {k : Fin 8} {pl : Nat} {e : SfEntry} (hs : Evolves σ s) : Evolves σ (sfKeep k pl e s) := by
  unfold sfKeep
  dsimp only
  refine .ite hs.sfPut ?_
  split
  · exact .ite hs.sfPut.queueSync hs.sfPut
  · exact .ite hs.sfPut.queueSync (.ite (.ite hs.sfPut.queueSync hs.sfPut) (.ite hs.sfPut.queueSync hs.sfPut))

/-! ## Service -/

protected theorem Evolves.updTxn {k : Fin 8} {tid : Nat} {f : Txn → Txn} (hs : Evolves σ s) :
    Evolves σ (updTxn k tid f s) := hs.updSpk

protected theorem Evolves.dropTxn {k : Fin 8} {tid : Nat} (hs : Evolves σ s) : Evolves σ (dropTxn k tid s) := hs.updSpk

protected theorem Evolves.sendHome {p : Fin 4} {m : Msg} (hs : Evolves σ s) :
    Evolves σ (sendHome p m s) := .ite hs.updPort hs.ungate.updSpk

protected theorem Evolves.returnCredit {k : Fin 8} {m : Msg} (hs : Evolves σ s) : Evolves σ (returnCredit k m s) := by
  unfold returnCredit
  dsimp only
  split
  · exact hs
  · exact .ite hs hs.updPort.updSpk

protected theorem Evolves.enterMemory {k : Fin 8} {tid : Nat} {kind : RspKind} (hs : Evolves σ s) :
    Evolves σ (enterMemory k tid kind s) := hs.updTxn

protected theorem Evolves.refillQueue {k : Fin 8} (hs : Evolves σ s) :
    Evolves σ (refillQueue k s) := hs.foldl fun _ _ h => .ite h.updTxn h

/-! ## Home -/

protected theorem Evolves.takeSample {k : Fin 8} {c sample : Nat} (hs : Evolves σ s) :
    Evolves σ (takeSample k c sample s) := .ite hs hs.updSpk.raiseIf

protected theorem Evolves.cqReturn {n i unit : Nat} {op : HomeOp} {r : Rsp} (hs : Evolves σ s) :
    Evolves σ (cqReturn n i unit op r s) := by
  unfold cqReturn
  split
  · exact hs.complete
  · exact hs.updTaken
  · refine .ite hs.complete ?_
    split
    · exact hs
    · exact .ite hs.complete hs.updTaken

protected theorem Evolves.mirrorReturn {h : MirrorHdr} {r : Rsp} (hs : Evolves σ s) :
    Evolves σ (mirrorReturn h r s) := (Evolves.ite hs.frame hs).queueTil

protected theorem Evolves.deliver {q : Req} {r : Rsp} (hs : Evolves σ s) : Evolves σ (deliver q r s) := by
  unfold deliver
  dsimp only
  split
  · exact hs.updPort
  · exact hs.updPort.cqReturn
  · exact hs.updPort.mirrorReturn

protected theorem Evolves.respond {k : Fin 8} {t : Txn} (hs : Evolves σ s) :
    Evolves σ (respond k t s) := hs.takeSample.perfSpk.dropTxn.deliver

protected theorem Evolves.hotTouch {k : Fin 8} {ldTag page : Nat} {packed : Bool} {enter : Nat} {f : Nat → Nat}
    (hs : Evolves σ s) :
    Evolves σ (hotTouch k ldTag page packed enter f s) := by
  unfold hotTouch
  dsimp only
  split
  · exact hs.updSpk
  · exact hs.updSpk

protected theorem Evolves.hotSample {k : Fin 8} {m : Msg} (hs : Evolves σ s) : Evolves σ (hotSample k m s) := by
  unfold hotSample
  dsimp only
  split
  · exact hs
  · exact .ite hs (.ite hs.updSpk.hotTouch hs.updSpk)

protected theorem Evolves.toMemory {k : Fin 8} {tid pl : Nat} {e : SfEntry} {t : Txn} (hs : Evolves σ s) :
    Evolves σ (toMemory k tid pl e t s) := by
  unfold toMemory
  dsimp only
  exact hs.sfKeep.enterMemory

protected theorem Evolves.toMemoryBare {k : Fin 8} {t : Txn} (hs : Evolves σ s) :
    Evolves σ (toMemoryBare k t s) := hs.enterMemory

protected theorem Evolves.evictEntry {k : Fin 8} {pl : Nat} {e : SfEntry} (hs : Evolves σ s) :
    Evolves σ (evictEntry k pl e s) := by
  unfold evictEntry
  dsimp only
  exact hs.takeSeq.updSpk.sendBis

protected theorem Evolves.freeEvict {k : Fin 8} {id : Nat} (hs : Evolves σ s) : Evolves σ (freeEvict k id s) := by
  unfold freeEvict
  dsimp only
  refine .ite hs ?_
  refine .updSpk ?_
  split
  · exact .ite hs.queueSync hs
  · exact hs

protected theorem Evolves.sfWait {k : Fin 8} {t : Txn} (hs : Evolves σ s) :
    Evolves σ (sfWait k t s) := .ite hs.updTxn hs.updTxn.updSpk.raise

protected theorem Evolves.needBis {k : Fin 8} {t : Txn} {pl : Nat} {e : SfEntry} {ns : List BiNeed} (hs : Evolves σ s) :
    Evolves σ (needBis k t pl e ns s) := .ite hs.sfKeep.updTxn hs.sfKeep.updTxn.sendBis

protected theorem Evolves.lookup {k : Fin 8} {t : Txn} (hs : Evolves σ s) : Evolves σ (lookup k t s) := by
  unfold lookup
  dsimp only
  refine .ite hs.fatalParity ?_
  refine .ite (.ite hs (.ite hs.updTxn.perfSpk hs.dropTxn.updPort)) ?_
  refine .ite hs.toMemoryBare ?_
  split
  · exact .ite hs.toMemory hs.needBis
  · refine .ite hs.toMemoryBare ?_
    split
    · exact hs.sfWait
    · exact hs.perfSpk.toMemory
    · exact hs.evictEntry.perfSpk.toMemory

protected theorem Evolves.freeEvicts {k : Fin 8} (hs : Evolves σ s) :
    Evolves σ (freeEvicts k s) := hs.foldl fun _ _ h => h.freeEvict

protected theorem Evolves.settle {k : Fin 8} (hs : Evolves σ s) : Evolves σ (settle k s) := by
  unfold settle
  dsimp only
  refine hs.freeEvicts.foldl fun _ _ h => ?_
  split
  · exact h
  · split
    · exact .ite h.lookup h
    · exact .ite h (.ite h.lookup h.updTxn)
    · exact .ite h.lookup h
    · exact h

protected theorem Evolves.recallMore {k : Fin 8} {o : BiOwner} (hs : Evolves σ s) :
    Evolves σ (recallMore k o s) := hs.foldl fun _ _ h => .ite h h.sfPut.sendBis

protected theorem Evolves.recallRecord {k : Fin 8} {o : BiOwner} (hs : Evolves σ s) : Evolves σ (recallRecord k o s) := by
  unfold recallRecord
  dsimp only
  refine hs.foldl fun _ _ h => ?_
  split
  · exact h.updSpk.sfKeep
  · exact h.updSpk

protected theorem Evolves.txnAnswered {k : Fin 8} {tid : Nat} (hs : Evolves σ s) : Evolves σ (txnAnswered k tid s) := by
  unfold txnAnswered
  dsimp only
  split
  · exact hs
  · refine .ite hs ?_
    split
    · exact hs.updSpk.lookup
    · exact .ite hs.updSpk.toMemory hs.updSpk.sfKeep.needBis

protected theorem Evolves.afterAnswers {k : Fin 8} (hs : Evolves σ s) : Evolves σ (afterAnswers k s) := by
  unfold afterAnswers
  dsimp only
  generalize ht : freeEvicts k _ = t
  have h : Evolves σ t := ht ▸ .freeEvicts (.foldl (.foldl (.foldl hs fun _ _ h => h.txnAnswered) fun _ _ h => h.recallMore)
    fun _ _ h => h.recallRecord)
  refine .settle ?_
  split
  · exact h
  · exact .ite h.updSpk h

protected theorem Evolves.dropNeed {k : Fin 8} {tid : Nat} {p : BiNeed → Bool} (hs : Evolves σ s) :
    Evolves σ (dropNeed k tid p s) := by
  unfold dropNeed
  dsimp only
  split
  · exact hs
  · refine .ite hs ?_
    refine .ite hs.updTxn ?_
    split
    · exact .ite hs.toMemory hs.needBis
    · exact hs.lookup

/-! ## HomeMem -/

protected theorem Evolves.finish {k : Fin 8} {t : Txn} {r : Rsp} {w : Option MirrorData} (hs : Evolves σ s) :
    Evolves σ (finish k t r w s) := by
  unfold finish
  dsimp only
  split
  · exact .ite hs.openMirror.frame.updTxn.queueTil hs.respond.settle
  · exact hs.respond.settle

protected theorem Evolves.refuseAtHome {k : Fin 8} {q : Req} {kind : RspKind} {poison : Bool} {status : Nat}
    (hs : Evolves σ s) :
    Evolves σ (refuseAtHome k q kind poison status s) := hs.deliver

protected theorem Evolves.arrive {k : Fin 8} {m0 : Msg} {par : ParityKind} (hs : Evolves σ s) :
    Evolves σ (arrive k m0 par s) := by
  unfold arrive
  dsimp only
  generalize hx : (if _ && fires s (blkSpk k) 11 then _ else _) = x
  have h1 : Evolves σ x.2 := hx ▸ .ite_snd hs hs.stageParity
  split
  · exact h1.fatalParity
  · have h2 : Evolves σ (if x.1 = .contained then raise (blkSpk k) 5 (reqCap m0.req m0.mpa) x.2 else x.2) := .ite h1.raise h1
    generalize (if x.1 = ParityKind.contained then raise (blkSpk k) 5 (reqCap m0.req m0.mpa) x.2 else x.2) = y at h2 ⊢
    refine .ite h2.raise.refuseAtHome (.ite h2.refuseAtHome (.ite h2.raise.refuseAtHome ?_))
    have h3 {c} {m} : Evolves σ (takeSeq (hotSample k m (perfSpk k 2 1 c y))).2 := h2.perfSpk.hotSample.takeSeq
    split
    · exact h3.updSpk.settle
    · refine .ite h3.updSpk.settle (.ite ?_ ?_)
      · split
        · exact h3.updSpk.enterMemory.sfKeep
        · exact h3.updSpk.enterMemory
      · split
        · refine .dropNeed ?_
          split
          · exact h3.updSpk.enterMemory.sfKeep
          · exact h3.updSpk.enterMemory
        · exact h3.updSpk.settle

protected theorem Evolves.takeMessages {k : Fin 8} {n : Nat} {par : ParityKind} (hs : Evolves σ s) :
    Evolves σ (takeMessages k n par s) :=
  foldl_fst hs.updSpk fun _ _ h => .ite_fst h h.arrive.returnCredit

protected theorem Evolves.takeAwaited {k : Fin 8} {m : Msg → Bool} (hs : Evolves σ s) :
    Evolves σ (takeAwaited k m s) := hs.updSpk.foldl fun _ _ h => .ite h h.arrive.returnCredit

protected theorem Evolves.addFetches {cls : Nat} {ns : List (CulmKind × Nat)} (hs : Evolves σ s) :
    Evolves σ (addFetches cls ns s) := hs.foldl fun _ _ h => .ite h h.updSpk

protected theorem Evolves.keyMismatch {k : Fin 8} {t : Txn} (hs : Evolves σ s) :
    Evolves σ (keyMismatch k t s) := hs.raise.finish

protected theorem Evolves.writeAndFinish {k : Fin 8} {t : Txn} {n : NewLine} {r : Rsp} {w : MirrorData} (hs : Evolves σ s) :
    Evolves σ (writeAndFinish k t n r w s) := .ite hs.writeData.updSpk.updTxn hs.writeData.finish

protected theorem Evolves.containedWrite {k : Fin 8} {t : Txn} (hs : Evolves σ s) :
    Evolves σ (containedWrite k t s) := hs.writeAndFinish

protected theorem Evolves.checkKey {k : Fin 8} {t : Txn} {f : State → State} (hs : Evolves σ s)
    (hf : ∀ u, Evolves σ u → Evolves σ (f u)) :
    Evolves σ (checkKey k t f s) := by
  unfold checkKey
  dsimp only
  exact .ite hs.finish (.ite (hf _ hs.bindPage) hs.keyMismatch)

protected theorem Evolves.readPoison {k : Fin 8} {t : Txn} {a : Acc} {r : ReadRes} (hs : Evolves σ s) :
    Evolves σ (readPoison k t a r s) := hs.readCause.finish

protected theorem Evolves.readOp {k : Fin 8} {t : Txn} {noise : Image} (hs : Evolves σ s) :
    Evolves σ (readOp k t noise s) := by
  unfold readOp
  dsimp only
  split
  · exact (Evolves.ite hs.disarm hs).readData.finish
  · exact (Evolves.ite hs.disarm hs).readData.readPoison

protected theorem Evolves.mergeCause {k : Fin 8} {m : Nat} {a : Acc} {r : ReadRes} (hs : Evolves σ s) :
    Evolves σ (mergeCause k m a r s) := by
  unfold mergeCause
  split
  · exact hs.raise
  · exact hs
  · exact hs.readCause

protected theorem Evolves.partialOp {k : Fin 8} {t : Txn} {noise : Image} (hs : Evolves σ s) :
    Evolves σ (partialOp k t noise s) := by
  unfold partialOp
  dsimp only
  refine .ite hs.readData.finish ?_
  split
  · exact hs.readData.writeAndFinish
  · exact .ite hs.readData.readCause.finish hs.readData.mergeCause.writeAndFinish

protected theorem Evolves.atomicOp {k : Fin 8} {t : Txn} {kind : AtomicKind} {operand compare : BitVec 128} {off : Nat}
    {noise : Image} (hs : Evolves σ s) :
    Evolves σ (atomicOp k t kind operand compare off noise s) := by
  unfold atomicOp
  dsimp only
  refine .ite hs.readData.finish ?_
  split
  · split
    · exact hs.readData.finish
    · exact hs.readData.checkKey (fun _ h => h.writeAndFinish)
  · exact .ite hs.readData.readPoison (hs.readData.checkKey (fun _ h => h.mergeCause.raise.writeAndFinish))

protected theorem Evolves.plainOp {k : Fin 8} {t : Txn} {noise : Image} (hs : Evolves σ s) :
    Evolves σ (plainOp k t noise s) := by
  unfold plainOp
  dsimp only
  refine .ite hs.containedWrite ?_
  split
  · exact hs.readOp
  · exact hs.readOp
  · exact hs.finish
  · exact hs.finish
  · exact hs.checkKey (fun _ h => h.partialOp)
  · exact hs.atomicOp
  · exact .ite hs.finish (hs.checkKey (fun _ h => .ite h.writeAndFinish h.writeAndFinish))

protected theorem Evolves.descFailed {k : Fin 8} {t : Txn} {r : ReadRes} (hs : Evolves σ s) :
    Evolves σ (descFailed k t r s) := hs.readCause.finish

protected theorem Evolves.startJob {k : Fin 8} {t : Txn} {b key : Nat} {bytes : List Byte} {bad : List Bool} {r : Rsp}
    (hs : Evolves σ s) :
    Evolves σ (startJob k t b key bytes bad r s) := by
  unfold startJob
  dsimp only
  exact hs.takeSeq.updSpk.updTxn

protected theorem Evolves.checkDescKey {k : Fin 8} {t : Txn} {d : Line} {f : State → State} (hs : Evolves σ s)
    (hf : ∀ u, Evolves σ u → Evolves σ (f u)) :
    Evolves σ (checkDescKey k t d f s) := by
  unfold checkDescKey
  dsimp only
  split
  · exact .ite (hf _ hs) hs.keyMismatch
  · exact hf _ hs.writeDesc

protected theorem Evolves.mergeBlock {k : Fin 8} {d : Line} {b : Nat} {a : Acc} (hs : Evolves σ s) :
    Evolves σ (mergeBlock k d b a s).2.2 := by
  unfold mergeBlock
  split
  · next e => exact hs.readBlock.of_eq e
  · next e => exact hs.readBlock.of_eq e

protected theorem Evolves.packedRead {k : Fin 8} {t : Txn} {d : Line} {b i : Nat} {a : Acc} (hs : Evolves σ s) :
    Evolves σ (packedRead k t d b i a s) := by
  unfold packedRead
  dsimp only
  split
  · next e =>
      exact (hs.readBlock.of_eq e).finish
  · next e =>
      exact (hs.readBlock.of_eq e).finish

protected theorem Evolves.packedAtomic {k : Fin 8} {t : Txn} {d : Line} {b i : Nat} {a : Acc} {kind : AtomicKind}
    {op cmp : BitVec 128} {off : Nat} (hs : Evolves σ s) :
    Evolves σ (packedAtomic k t d b i a kind op cmp off s) := by
  unfold packedAtomic
  dsimp only
  refine .ite (hs.mergeBlock.checkDescKey (fun _ h => h.raise.raise.startJob)) ?_
  split
  · exact hs.mergeBlock.finish
  · exact hs.mergeBlock.checkDescKey (fun _ h => h.startJob)

protected theorem Evolves.packedContained {k : Fin 8} {t : Txn} {d : Line} {b i : Nat} {a : Acc} (hs : Evolves σ s) :
    Evolves σ (packedContained k t d b i a s) := by
  unfold packedContained
  dsimp only
  exact hs.mergeBlock.startJob

protected theorem Evolves.packedPartial {k : Fin 8} {t : Txn} {d : Line} {b i : Nat} {a : Acc} (hs : Evolves σ s) :
    Evolves σ (packedPartial k t d b i a s) := by
  unfold packedPartial
  dsimp only
  exact .ite hs.mergeBlock.raise.startJob hs.mergeBlock.startJob

protected theorem Evolves.packedFull {k : Fin 8} {t : Txn} {d : Line} {b i : Nat} {a : Acc} (hs : Evolves σ s) :
    Evolves σ (packedFull k t d b i a s) := by
  unfold packedFull
  dsimp only
  exact hs.mergeBlock.startJob

protected theorem Evolves.packedOp {k : Fin 8} {t : Txn} {ln : Nat} {noise : Image} (hs : Evolves σ s) :
    Evolves σ (packedOp k t ln noise s) := by
  unfold packedOp
  dsimp only
  split
  · exact hs.readDesc.descFailed
  · refine .ite hs.readDesc.packedContained ?_
    split
    · exact hs.readDesc.finish
    · exact hs.readDesc.finish
    · exact hs.readDesc.packedRead
    · exact hs.readDesc.packedRead
    · exact hs.readDesc.checkDescKey (fun _ h => h.packedPartial)
    · exact hs.readDesc.packedAtomic
    · exact hs.readDesc.checkDescKey (fun _ h => h.packedFull)

protected theorem Evolves.forwardLines {k : Fin 8} {desc : Nat} {d : Line} {a : Acc} (hs : Evolves σ s) :
    Evolves σ (forwardLines k desc d a s).2 := by
  refine foldl_snd hs fun acc _ h => ?_
  split
  · exact h
  · refine ite_snd h ?_
    split
    · next e => exact h.readBlock.of_eq e
    · next e => exact h.readBlock.of_eq e

protected theorem Evolves.endJobs {k : Fin 8} {js : List Job} {f : Job → Txn → State → State} (hs : Evolves σ s)
    (hf : ∀ a a1 u, Evolves σ u → Evolves σ (f a a1 u)) :
    Evolves σ (endJobs k js f s) := by
  unfold endJobs
  refine hs.foldl fun _ _ h => ?_
  split
  · split
    · exact hf _ _ _ h
    · exact h
  · exact h

protected theorem Evolves.finishForward {k : Fin 8} {f : Forward} (hs : Evolves σ s) : Evolves σ (finishForward k f s) := by
  unfold finishForward
  dsimp only
  split
  · refine .ite hs ?_
    split
    · exact hs.holdPath.readDesc.updSpk.updSpk.endJobs (fun _ _ _ h => h.descFailed)
    · exact (hs.holdPath.readDesc.forwardLines.holdPath.setPkt.fillPage.holdPath.writeDesc.frame.raise.updSpk.updSpk.endJobs
        (fun _ _ _ h => h.finish)).refillQueue
  · exact hs

protected theorem Evolves.startForward {k : Fin 8} {j : Job} {tid : Nat} (hs : Evolves σ s) :
    Evolves σ (startForward k j tid s) := by
  unfold startForward
  dsimp only
  split
  · exact hs.raise.updSpk
  · exact hs.updSpk.recallMore.finishForward

protected theorem Evolves.stepForwards {k : Fin 8} (hs : Evolves σ s) :
    Evolves σ (stepForwards k s) := hs.foldl fun _ _ h => h.finishForward

protected theorem Evolves.storeBlock {k : Fin 8} {j : Job} {b tid : Nat} {out : List Byte} (hs : Evolves σ s) :
    Evolves σ (storeBlock k j b tid out s) := by
  unfold storeBlock
  dsimp only
  split
  · exact hs
  · split
    · exact hs.holdPath.readDesc.updSpk.descFailed
    · refine .ite hs.holdPath.readDesc.updSpk.raise ?_
      split
      · exact hs.holdPath.readDesc.updSpk.raise
      · next e₃ =>
          exact (hs.holdPath.readDesc.takeGranules.of_eq e₃).writeBlock.ringAdd.holdPath.writeDesc.updSpk.updSpk.finish.refillQueue

protected theorem Evolves.failJob {k : Fin 8} {j : Job} (hs : Evolves σ s) :
    Evolves σ (failJob k j s) := .ite hs.updSpk.raise hs.updSpk

protected theorem Evolves.channelStage {k : Fin 8} {t : Txn} {f : Txn → State → State} (hs : Evolves σ s)
    (hf : ∀ a u, Evolves σ u → Evolves σ (f a u)) :
    Evolves σ (channelStage k t f s) := by
  unfold channelStage
  dsimp only
  refine .ite (hf _ _ hs) ?_
  split
  · next e =>
      exact hf _ _ (hs.chanParity.of_eq e)
  · next e =>
      exact (hs.chanParity.of_eq e).fatalParity
  · next e =>
      exact .ite (hf _ _ (hs.chanParity.of_eq e).raise) (hs.chanParity.of_eq e).raise.finish

protected theorem Evolves.memoryDone {k : Fin 8} {tid : Nat} {noise : Image} (hs : Evolves σ s) :
    Evolves σ (memoryDone k tid noise s) := by
  unfold memoryDone
  dsimp only
  refine .ite hs ?_
  split
  · exact hs
  · refine .ite hs ?_
    split
    · exact hs.frame.raise.finish.refillQueue
    · refine .ite hs.addFetches ?_
      refine .ite hs ?_
      refine .refillQueue ?_
      refine hs.channelStage fun _ _ h => ?_
      split
      · exact h.plainOp
      · exact h.packedOp

/-! ## Cross -/

protected theorem Evolves.crossAll {f : Crossing → Crossing} (hs : Evolves σ s) : Evolves σ (crossAll f s) := hs.frame

protected theorem Evolves.syncCrossings (hs : Evolves σ s) : Evolves σ (syncCrossings s) := hs.crossAll

/-! ## HomeCmds -/

protected theorem Evolves.doHomeRequest {k : Fin 8} {n : Nat} {par : Parity} (hs : Evolves σ s) :
    Evolves σ (doHomeRequest k n par s) := .ite hs hs.takeMessages

protected theorem Evolves.doHoldEnd {k : Fin 8} {tid : Nat} (hs : Evolves σ s) : Evolves σ (doHoldEnd k tid s) := by
  unfold doHoldEnd
  dsimp only
  refine .ite hs ?_
  refine .ite ((hs.timeTo.foldl fun _ _ h => h.timeTo.recallMore).afterAnswers.stepForwards) ?_
  split
  · exact hs
  · refine .ite hs ?_
    split
    · exact hs
    · exact (Evolves.ite hs.timeTo.toMemory hs.timeTo.needBis).afterAnswers.stepForwards

protected theorem Evolves.answerSnp {k : Fin 8} {sid : Nat} {r : BiRsp} (hs : Evolves σ s) :
    Evolves σ (answerSnp k sid r s) := hs.updSpk

protected theorem Evolves.doBirsp {p : Fin 4} {bid : Nat} {r : BiRsp} {par : Parity} (hs : Evolves σ s) :
    Evolves σ (doBirsp p bid r par s) := by
  unfold doBirsp
  dsimp only
  split
  · exact hs
  · split
    · next e' =>
        exact (hs.updPort.stageParity.of_eq e').fatalParity
    · next e' =>
        split
        · next e'2 =>
            exact ((hs.updPort.stageParity.of_eq e').stageParity.of_eq e'2).fatalParity
        · next e₄ =>
            exact ((hs.updPort.stageParity.of_eq e').stageParity.of_eq e₄).takeAwaited.answerSnp.afterAnswers.stepForwards

protected theorem Evolves.ackConflicts {p : Fin 4} (hs : Evolves σ s) :
    Evolves σ (ackConflicts p s) := hs.foldl fun _ _ h => h.updPort.emit

protected theorem Evolves.doBiConflict {p : Fin 4} {bid : Nat} {par : Parity} (hs : Evolves σ s) :
    Evolves σ (doBiConflict p bid par s) := by
  unfold doBiConflict
  dsimp only
  split
  · exact hs
  · split
    · next e' =>
        exact (hs.stageParity.of_eq e').fatalParity
    · next e' =>
        split
        · next e'2 =>
            exact ((hs.stageParity.of_eq e').stageParity.of_eq e'2).fatalParity
        · next e₄ =>
            exact ((hs.stageParity.of_eq e').stageParity.of_eq e₄).updPort.ackConflicts

protected theorem Evolves.doBiTimeout {k : Fin 8} {sid : Nat} (hs : Evolves σ s) : Evolves σ (doBiTimeout k sid s) := by
  unfold doBiTimeout
  dsimp only
  split
  · exact hs
  · exact hs.timeTo.updSpk.raise

protected theorem Evolves.doHomeMemoryDone {k : Fin 8} {tid : Nat} {noise : Image} (hs : Evolves σ s) :
    Evolves σ (doHomeMemoryDone k tid noise s) := hs.memoryDone.stepForwards

protected theorem Evolves.doCulmNodeFetchDone {k : Fin 8} {mpa : Nat} {noise : Image} {par : Parity} (hs : Evolves σ s) :
    Evolves σ (doCulmNodeFetchDone k mpa noise par s) := by
  unfold doCulmNodeFetchDone
  dsimp only
  refine .ite hs ?_
  split
  · exact hs
  · exact .ite hs (hs.chanAccess (fun _ h => h.updSpk.fetchOps.culmRun))

protected theorem Evolves.doReencryptionDone {k : Fin 8} {base : Nat} (hs : Evolves σ s) :
    Evolves σ (doReencryptionDone k base s) := by
  unfold doReencryptionDone
  dsimp only
  split
  · exact hs
  · split
    · exact hs.updSpk
    · exact .ite hs.updSpk.finish.stepForwards hs.updSpk

protected theorem Evolves.doCulmRetagDone {k : Fin 8} {base : Nat} (hs : Evolves σ s) :
    Evolves σ (doCulmRetagDone k base s) := by
  unfold doCulmRetagDone
  split
  · exact hs
  · exact hs.updSpk

protected theorem Evolves.goWrite {off opLo opW op : Nat} {v : Word} {go : State → State} (hs : Evolves σ s)
    (hgo : ∀ u, Evolves σ u → Evolves σ (go u)) :
    Evolves σ (goWrite off opLo opW op v go s) := .ite (hgo _ hs.regWrite) hs.regWrite

protected theorem Evolves.placeHold {k : Fin 8} {page : Nat} {u : State} (hs : Evolves σ s)
    (e : placeHold k page s = some u) : Evolves σ u := by
  unfold placeHold at e
  dsimp only at e
  split at e
  · cases e
  · exact Option.some.inj e ▸ hs.updSpk

protected theorem Evolves.liftHold {k : Fin 8} {page : Nat} (hs : Evolves σ s) :
    Evolves σ (liftHold k page s) := hs.updSpk.settle

protected theorem Evolves.putHolder {page : Nat} {o : HoldOwner} (hs : Evolves σ s) :
    Evolves σ (putHolder page o s) := hs.frame

protected theorem Evolves.ownHold {o : HoldOwner} {page : Nat} {u : State} (hs : Evolves σ s)
    (e : ownHold o page s = some u) : Evolves σ u := by
  unfold ownHold at e
  split at e
  · exact Option.some.inj e ▸ hs.putHolder
  · obtain ⟨t, ht, rfl⟩ := Option.map_eq_some_iff.1 e
    exact (hs.placeHold ht).putHolder

protected theorem Evolves.disownHold {o : HoldOwner} {page : Nat} (hs : Evolves σ s) :
    Evolves σ (disownHold o page s) := .ite hs.frame hs.frame.liftHold

protected theorem Evolves.disownAll {o : HoldOwner} (hs : Evolves σ s) :
    Evolves σ (disownAll o s) := hs.foldl fun _ _ h => h.disownHold

protected theorem Evolves.pgEnd {k : Fin 8} {done refused : Bool} (hs : Evolves σ s) :
    Evolves σ (pgEnd k done refused s) := hs.updSpk

protected theorem Evolves.pgGo {k : Fin 8} {op : Nat → State → State} {v : Word} (hs : Evolves σ s)
    (hop : ∀ a u, Evolves σ u → Evolves σ (op a u)) :
    Evolves σ (pgGo k op v s) := .ite hs (hop _ _ hs.pgEnd)

protected theorem Evolves.doPageHold {m : Master} {k : Fin 8} {v : Word} (hs : Evolves σ s) :
    Evolves σ (doPageHold m k v s) := by
  unfold doPageHold
  refine hs.guardWrite fun _ h => ?_
  refine h.goWrite fun _ h' => ?_
  refine h'.pgGo fun _ _ k' => ?_
  split
  · next e =>
      exact ((k'.placeHold e).putHolder).pgEnd
  · exact k'.pgEnd

protected theorem Evolves.doPageRelease {m : Master} {k : Fin 8} {v : Word} (hs : Evolves σ s) :
    Evolves σ (doPageRelease m k v s) :=
  hs.guardWrite (fun _ h => h.goWrite (fun _ h' => h'.pgGo (fun _ _ k' => .ite k'.frame.pgEnd.liftHold k'.pgEnd)))

protected theorem Evolves.doPageRecall {m : Master} {k : Fin 8} {v : Word} (hs : Evolves σ s) :
    Evolves σ (doPageRecall m k v s) :=
  hs.guardWrite (fun _ h => h.goWrite (fun _ h' => h'.pgGo (fun _ _ k' => .ite k'.pgEnd k'.updSpk.recallMore.afterAnswers)))

protected theorem Evolves.setOrdered {on : Bool} (hs : Evolves σ s) :
    Evolves σ (setOrdered on s) := hs.eachSpk (fun _ _ h => h.regSetField.updSpk)

protected theorem Evolves.doOrderedModeWrite {m : Master} {k : Fin 8} {v : Word} (hs : Evolves σ s) :
    Evolves σ (doOrderedModeWrite m k v s) := hs.guardWrite (fun _ h => h.regWrite.updSpk)

/-! ## Request -/

protected theorem Evolves.dropReq {p : Fin 4} {rid : Nat} (hs : Evolves σ s) : Evolves σ (dropReq p rid s) := hs.updPort

protected theorem Evolves.refuseReq {p : Fin 4} {q : Req} {status : Nat} (hs : Evolves σ s) :
    Evolves σ (refuseReq p q status s) := by
  unfold refuseReq
  dsimp only
  split
  · exact .ite hs.dropReq hs.dropReq.refuseHost
  · exact .ite hs.dropReq.updTaken hs.dropReq.complete
  · exact hs.dropReq.queueTil

protected theorem Evolves.setStage {p : Fin 4} {q : Req} {st : Stage} {passed : Bool} (hs : Evolves σ s) :
    Evolves σ (setStage p q st passed s) := hs.updPort

protected theorem Evolves.toHome {p : Fin 4} {m : Msg} (hs : Evolves σ s) : Evolves σ (toHome p m s) := hs.setStage.sendHome

protected theorem Evolves.stallLink {p : Fin 4} {q : Req} (hs : Evolves σ s) : Evolves σ (stallLink p q s) := by
  unfold stallLink
  split
  · exact hs.updPort
  · exact hs

protected theorem Evolves.stallHold {p : Fin 4} {q : Req} (hs : Evolves σ s) : Evolves σ (stallHold p q s) := by
  unfold stallHold
  split
  · exact hs.updPort
  · exact hs

protected theorem Evolves.raiseMiss {p : Fin 4} {q : Req} (hs : Evolves σ s) :
    Evolves σ (raiseMiss p q s) := .ite hs.setStage (.ite hs.setStage.stallLink hs.setStage.perfPort.updPort.frame)

protected theorem Evolves.containAt {p : Fin 4} {q : Req} (hs : Evolves σ s) : Evolves σ (containAt p q s) := hs.refuseReq

protected theorem Evolves.translate {p : Fin 4} {q0 : Req} (hs : Evolves σ s) : Evolves σ (translate p q0 s) := by
  unfold translate
  dsimp only
  split
  · exact hs.stageParity.fatalParity
  · refine .ite hs.stageParity.raiseIf.containAt ?_
    split
    · exact .ite hs.stageParity.raiseIf.raise.refuseReq hs.stageParity.raiseIf.toHome
    · exact hs.stageParity.raiseIf.raiseMiss

protected theorem Evolves.countAdmit {p : Fin 4} {q : Req} (hs : Evolves σ s) : Evolves σ (countAdmit p q s) := by
  unfold countAdmit
  dsimp only
  exact hs.updPort

protected theorem Evolves.keyStage {p : Fin 4} {q : Req} {go : Req → State → State} (hs : Evolves σ s)
    (hgo : ∀ a u, Evolves σ u → Evolves σ (go a u)) :
    Evolves σ (keyStage p q go s) := by
  unfold keyStage
  dsimp only
  split
  · exact hs.stageParity.fatalParity
  · exact .ite hs.stageParity.raiseIf.containAt (.ite (hgo _ _ hs.stageParity.raiseIf) hs.stageParity.raiseIf.raise.refuseReq)

protected theorem Evolves.admitted {p : Fin 4} {q : Req} (hs : Evolves σ s) : Evolves σ (admitted p q s) := by
  unfold admitted
  split
  · exact hs.dropReq.updTaken
  · exact hs.translate

protected theorem Evolves.admitReq {p : Fin 4} {q : Req} (hs : Evolves σ s) : Evolves σ (admitReq p q s) := by
  unfold admitReq
  dsimp only
  split
  · exact hs.stageParity.fatalParity
  · exact .ite hs.stageParity.raiseIf.containAt
      (.ite hs.stageParity.raiseIf.countAdmit.admitted
        (.ite hs.stageParity.raiseIf.raise.stallHold
          (.ite hs.stageParity.raiseIf.setStage.updPort.perfPort.frame hs.stageParity.raiseIf.setStage.updPort.perfPort)))

protected theorem Evolves.enter {p : Fin 4} {r : OpenReq} (hs : Evolves σ s) : Evolves σ (enter p r s) := by
  unfold enter
  dsimp only
  refine .ite hs.translate ?_
  split
  · refine .ite hs.refuseReq ?_
    refine .ite hs.raise.refuseReq ?_
    split
    · exact hs.raise.refuseReq
    · exact hs.updPort.perfPort.keyStage (fun _ _ h => h.admitReq)
  · exact .ite hs.translate hs.admitReq
  · exact hs.keyStage (fun _ _ h => h.admitReq)

protected theorem Evolves.admitHeld {p : Fin 4} (hs : Evolves σ s) :
    Evolves σ (admitHeld p s) := hs.foldl fun _ _ h => .ite h.updPort.countAdmit.admitted h

protected theorem Evolves.startWindow {p : Fin 4} (hs : Evolves σ s) : Evolves σ (startWindow p s) := hs.updPort.admitHeld

protected theorem Evolves.rollWindow {p : Fin 4} (hs : Evolves σ s) : Evolves σ (rollWindow p s) := .ite hs.startWindow hs

protected theorem Evolves.pumpIngress {p : Fin 4} (hs : Evolves σ s) : Evolves σ (pumpIngress p s) := by
  unfold pumpIngress
  dsimp only
  refine hs.rollWindow.foldl fun _ _ h => ?_
  split
  · exact h
  · split
    · exact .ite h h.enter
    · exact h.enter

protected theorem Evolves.pumpFreed {p : Fin 4} (hs : Evolves σ s) : Evolves σ (pumpFreed p s) := .ite hs.pumpIngress hs

protected theorem Evolves.unstall {p : Fin 4} (hs : Evolves σ s) : Evolves σ (unstall p s) := hs.updPort.pumpFreed

protected theorem Evolves.receive {p l : Fin 4} {ld tag : Nat} {op : HomeOp} {hpa : Nat} {data : Line} {be : BitVec 64}
    {poison : Bool} {par : Parity} (hs : Evolves σ s) :
    Evolves σ (receive p l ld tag op hpa data be poison par s) := by
  unfold receive
  dsimp only
  refine .ite hs ?_
  refine .ite (.ite hs.ungate.updLink.takeSeq.updPort hs.ungate.updLink.takeSeq.refuseHost) ?_
  split
  · exact hs.ungate.updLink.takeSeq.stageParity.fatalParity.refuseHost
  · exact .ite hs.ungate.updLink.takeSeq.stageParity.raiseIf.refuseHost
      hs.ungate.updLink.takeSeq.stageParity.raiseIf.updPort.pumpIngress

protected theorem Evolves.newWindow (hs : Evolves σ s) :
    Evolves σ (newWindow s) := hs.eachPort (fun _ _ h => h.startWindow.pumpFreed)

protected theorem Evolves.doAdmissionWindow (hs : Evolves σ s) :
    Evolves σ (doAdmissionWindow s) :=
  .ite (.ite hs (hs.eachPort (fun _ _ h => h.rollWindow.pumpFreed)))
    (.ite (.ite hs hs.timeTo) (Evolves.ite hs hs.timeTo).newWindow)

/-! ## PortOps -/

protected theorem Evolves.setPort {p : Fin 4} {st : PortState} (hs : Evolves σ s)
    (hp : σ.domainDown = true → σ.ports[p].state ≠ .viral) : Evolves σ (setPort p st s) := hs.updPort_of_start hp

protected theorem Evolves.enterEnabled {p : Fin 4} (hs : Evolves σ s)
    (hp : σ.domainDown = true → σ.ports[p].state ≠ .viral) : Evolves σ (enterEnabled p s) :=
  (hs.frame.updPort_of_start hp).endAccepted.takePort

protected theorem Evolves.queuedEnable {p : Fin 4} (hs : Evolves σ s) : Evolves σ (queuedEnable p s) := by
  unfold queuedEnable
  dsimp only
  split
  · next h =>
    simp only [Bool.and_eq_true, decide_eq_true_eq] at h
    obtain ⟨⟨⟨hdrained, -⟩, -⟩, -⟩ := h
    exact hs.enterEnabled (hs.start_ne_viral (by rw [hdrained]; decide))
  · exact hs

protected theorem Evolves.leaveTraining {p : Fin 4} (hs : Evolves σ s) : Evolves σ (leaveTraining p s) := by
  unfold leaveTraining
  dsimp only
  split
  · next h =>
    simp only [Bool.and_eq_true, decide_eq_true_eq] at h
    obtain ⟨⟨htraining, -⟩, -⟩ := h
    have hp := hs.start_ne_viral (p := p) (by rw [htraining]; decide)
    exact .ite (hs.enterEnabled hp) (hs.updPort_of_start hp)
  · exact hs

protected theorem Evolves.drainSend {p : Fin 4} (hs : Evolves σ s) :
    Evolves σ (drainSend p s) := hs.eachSpk (fun _ _ h => h.foldl fun _ _ h' => .ite h' h'.sfPut.sendBis)

protected theorem Evolves.drainRecord {p : Fin 4} (hs : Evolves σ s) : Evolves σ (drainRecord p s) := by
  unfold drainRecord
  dsimp only
  refine hs.eachSpk fun _ _ h => ?_
  refine h.foldl fun _ _ h' => ?_
  split
  · exact h'.updSpk.sfKeep.settle
  · exact h'.updSpk

protected theorem Evolves.drainStep {p : Fin 4} (hs : Evolves σ s) : Evolves σ (drainStep p s) := by
  unfold drainStep
  split
  · exact hs
  · next h =>
    simp only [Bool.or_eq_true, decide_eq_true_eq, not_or, ne_eq, not_not] at h
    obtain ⟨hdraining, -⟩ := h
    have hp := hs.start_ne_viral (p := p) (by rw [hdraining]; decide)
    exact .ite (hs.drainSend.drainRecord.updPort_of_start hp).endAccepted.queuedEnable hs.drainSend.drainRecord

protected theorem Evolves.invAckStep {p : Fin 4} (hs : Evolves σ s) : Evolves σ (invAckStep p s) := .ite hs hs.updPort.frame

protected theorem Evolves.markerStep {p : Fin 4} (hs : Evolves σ s) : Evolves σ (markerStep p s) := .ite hs.updPort.frame hs

protected theorem Evolves.portSettle {p : Fin 4} (hs : Evolves σ s) :
    Evolves σ (portSettle p s) := hs.pumpFreed.ackConflicts.invAckStep.markerStep.drainStep

protected theorem Evolves.leaveOrdered (hs : Evolves σ s) : Evolves σ (leaveOrdered s) := .ite hs.frame hs.setOrdered

protected theorem Evolves.endReissue (hs : Evolves σ s) : Evolves σ (endReissue s) := .ite hs hs.frame.leaveOrdered

protected theorem Evolves.endInjection (hs : Evolves σ s) :
    Evolves σ (endInjection s) := .ite (.ite hs.frame.setOrdered hs.frame) hs

protected theorem Evolves.allSettle (hs : Evolves σ s) :
    Evolves σ (allSettle s) := ((hs.eachPort (fun _ _ h => h.portSettle)).endReissue).endInjection

protected theorem Evolves.headLost {p : Fin 4} (hs : Evolves σ s) :
    Evolves σ (headLost p s) :=
  hs.updPort.eachSpk
    (fun _ _ h => ((h.updSpk.foldl fun _ _ h' => h'.sfKeep).foldl fun _ _ h' => h'.dropNeed).afterAnswers.stepForwards)

protected theorem Evolves.discardLink {p : Fin 4} {l : Option (Fin 4)} (hs : Evolves σ s) :
    Evolves σ (discardLink p l s) := hs.updPort

protected theorem Evolves.takeLinkDown {p l : Fin 4} (hs : Evolves σ s) : Evolves σ (takeLinkDown p l s) := by
  unfold takeLinkDown
  refine .ite hs ?_
  dsimp only
  split
  · exact hs.updLink.raise
  · next hup =>
    have hp := hs.start_ne_viral (p := p) fun hv => hup (by rw [hv]; rfl)
    refine .portSettle (.setPort (.ite (.headLost ?_) ?_) hp)
    · exact hs.updLink.discardLink.raise
    · exact hs.updLink.discardLink.raise

/-! ## PortCmds -/

protected theorem Evolves.disablePairs {p : Fin 4} (hs : Evolves σ s) :
    Evolves σ (disablePairs p s) := hs.foldl fun _ _ h => .ite h.qpDisable h

protected theorem Evolves.perstClear {p : Fin 4} (hs : Evolves σ s) :
    Evolves σ (perstClear p s) := hs.updPort.regSetField.foldl fun _ _ h => h.regSet

protected theorem Evolves.doPerstAssert {p : Fin 4} (hs : Evolves σ s) : Evolves σ (doPerstAssert p s) := by
  unfold doPerstAssert
  refine .ite hs (.syncCrossings (.portSettle ?_))
  dsimp only
  generalize ht : disablePairs p _ = t
  have h : Evolves σ t := ht ▸ .disablePairs (.perstClear (.ite hs.frame.raise.discardLink.headLost hs.frame.raise))
  split
  · exact h
  · next hv => exact h.setPort (h.start_ne_viral hv)

protected theorem Evolves.leaveReset {p : Fin 4} (hs : Evolves σ s) : Evolves σ (leaveReset p s) := by
  unfold leaveReset
  split
  · next h =>
    simp only [Bool.and_eq_true, decide_eq_true_eq] at h
    obtain ⟨⟨⟨⟨-, hreset⟩, -⟩, -⟩, -⟩ := h
    exact hs.setPort (hs.start_ne_viral (by rw [hreset]; decide))
  · exact hs

protected theorem Evolves.doPerstRelease {p : Fin 4} (hs : Evolves σ s) :
    Evolves σ (doPerstRelease p s) := hs.frame.leaveReset.syncCrossings

protected theorem Evolves.noteAer {p l : Fin 4} {uncorrectable : Bool} (hs : Evolves σ s) :
    Evolves σ (noteAer p l uncorrectable s) := hs.frame.updLink

protected theorem Evolves.doLinkTrained {p l : Fin 4} {width speed : Nat} {flit256 : Bool} (hs : Evolves σ s) :
    Evolves σ (doLinkTrained p l width speed flit256 s) := .ite hs ((Evolves.ite hs.updLink hs.updLink.raise).leaveTraining)

protected theorem Evolves.doLinkLaneLoss {p l : Fin 4} {good : Nat} (hs : Evolves σ s) :
    Evolves σ (doLinkLaneLoss p l good s) := .ite hs (.ite hs.takeLinkDown hs.updLink.noteAer)

protected theorem Evolves.doLinkRecoveryDone {p l : Fin 4} {width : Nat} (hs : Evolves σ s) :
    Evolves σ (doLinkRecoveryDone p l width s) := .ite hs hs.updLink.raise.sendUnsent

protected theorem Evolves.doLinkDown {p l : Fin 4} (hs : Evolves σ s) : Evolves σ (doLinkDown p l s) := hs.takeLinkDown

protected theorem Evolves.dropUnverified {p l : Fin 4} {tags : List Nat} (hs : Evolves σ s) :
    Evolves σ (dropUnverified p l tags s) := hs.updPort.eachSpk (fun _ _ h => h.updSpk)

protected theorem Evolves.doIdeIntegrityFailure {p l : Fin 4} {tags : List Nat} (hs : Evolves σ s) :
    Evolves σ (doIdeIntegrityFailure p l tags s) := .ite hs hs.dropUnverified.raise.takeLinkDown.noteAer

protected theorem Evolves.updIde {p l : Fin 4} {kind : IdeKind} {f : IdeStream → IdeStream} (hs : Evolves σ s) :
    Evolves σ (updIde p l kind f s) := hs.updLink

protected theorem Evolves.serveKeyProg {p l : Fin 4} {kind : IdeKind} {key : BitVec 256} (hs : Evolves σ s) :
    Evolves σ (serveKeyProg p l kind key s) := .ite hs hs.updIde.emit

protected theorem Evolves.serveSetGo {p l : Fin 4} {kind : IdeKind} (hs : Evolves σ s) :
    Evolves σ (serveSetGo p l kind s) := by
  unfold serveSetGo
  split
  · exact hs.emit
  · exact hs.updIde.emit.queuedEnable

protected theorem Evolves.askGerm {w : GermWait} {f : State → State} (hs : Evolves σ s)
    (hf : ∀ u, Evolves σ u → Evolves σ (f u)) :
    Evolves σ (askGerm w f s) := .ite (hf _ hs) hs.frame

protected theorem Evolves.doIdeKmKeyProg {p l : Fin 4} {secured : Bool} {kind : IdeKind} {key : BitVec 256}
    (hs : Evolves σ s) :
    Evolves σ (doIdeKmKeyProg p l secured kind key s) := .ite hs (.ite hs.emit (hs.askGerm (fun _ h => h.serveKeyProg)))

protected theorem Evolves.doIdeKmKSetGo {p l : Fin 4} {secured : Bool} {kind : IdeKind} (hs : Evolves σ s) :
    Evolves σ (doIdeKmKSetGo p l secured kind s) := .ite hs (.ite hs.emit (hs.askGerm (fun _ h => h.serveSetGo)))

protected theorem Evolves.enablePort {p : Fin 4} (hs : Evolves σ s) : Evolves σ (enablePort p s) := by
  unfold enablePort
  dsimp only
  split
  · exact hs.updPort
  · exact hs.updPort.queuedEnable
  · exact hs.updPort
  · exact hs

protected theorem Evolves.disablePort {p : Fin 4} (hs : Evolves σ s) : Evolves σ (disablePort p s) := by
  unfold disablePort
  split
  · next h => exact (hs.updPort_of_start (hs.start_ne_viral (by rw [h]; decide))).drainStep
  · exact hs.updPort
  · exact hs

protected theorem Evolves.portCtl {m : Master} {p : Fin 4} {v : Word} (hs : Evolves σ s) :
    Evolves σ (portCtl m p v s) :=
  hs.guardWrite (fun _ h => .ite h (.ite h.regWrite.enablePort (.ite h.regWrite.disablePort h.regWrite)))

protected theorem Evolves.doPortCtlEnable {m : Master} {p : Fin 4} {v : Word} (hs : Evolves σ s) :
    Evolves σ (doPortCtlEnable m p v s) := hs.portCtl

protected theorem Evolves.doPortCtlDisable {m : Master} {p : Fin 4} {v : Word} (hs : Evolves σ s) :
    Evolves σ (doPortCtlDisable m p v s) := hs.portCtl

protected theorem Evolves.doDrainTimeout {p : Fin 4} (hs : Evolves σ s) :
    Evolves σ (doDrainTimeout p s) := .ite hs hs.timeTo.raise

protected theorem Evolves.setDec {p : Fin 4} {i : Nat} {d : Decoder} (hs : Evolves σ s) :
    Evolves σ (setDec p i d s) := hs.updPort

protected theorem Evolves.doDecoderCommit {p : Fin 4} {ld : Fin 16} {d : Fin 4} {base size ig iw : Nat} (hs : Evolves σ s) :
    Evolves σ (doDecoderCommit p ld d base size ig iw s) := .ite hs (.ite hs.setDec hs.setDec.raise)

protected theorem Evolves.doDecMapWrite {m : Master} {p : Fin 4} {ld : Fin 16} {d : Fin 4} {v : Word} (hs : Evolves σ s) :
    Evolves σ (doDecMapWrite m p ld d v s) := hs.guardWrite (fun _ h => .ite h h.regWrite)

protected theorem Evolves.doHomeResponse {p : Fin 4} {rid : Nat} (hs : Evolves σ s) : Evolves σ (doHomeResponse p rid s) := by
  unfold doHomeResponse
  dsimp only
  split
  · split
    · exact .ite hs (Evolves.ite hs.updPort.dropReq hs.updPort.dropReq.sendRsp).portSettle.endReissue
    · exact hs
  · exact hs

protected theorem Evolves.countBirsp {p : Fin 4} {bid : Nat} (hs : Evolves σ s) : Evolves σ (countBirsp p bid s) := by
  unfold countBirsp
  dsimp only
  split
  · exact hs
  · split
    · exact hs
    · exact hs.rollWindow.pumpFreed.updPort

protected theorem Evolves.doBirspPort {p : Fin 4} {bid : Nat} {r : BiRsp} {par : Parity} (hs : Evolves σ s) :
    Evolves σ (doBirspPort p bid r par s) := hs.countBirsp.doBirsp.allSettle

protected theorem Evolves.doParkRetryResend {p : Fin 4} {rid : Nat} (hs : Evolves σ s) :
    Evolves σ (doParkRetryResend p rid s) := by
  unfold doParkRetryResend
  dsimp only
  split
  · exact hs
  · exact hs.updPort.timeTo.ungate.updSpk

/-! ## Bring -/

protected theorem Evolves.bringupFail {cause : Nat} (hs : Evolves σ s) : Evolves σ (bringupFail cause s) := .ite hs hs.frame

protected theorem Evolves.enablePmics (hs : Evolves σ s) :
    Evolves σ (enablePmics s) := .ite hs (hs.eachMc (fun _ _ h => .ite h.updMc.emit h))

protected theorem Evolves.channelsMoved (hs : Evolves σ s) :
    Evolves σ (channelsMoved s) := .ite (.ite hs.bringupFail (.ite hs (.ite hs.frame (.ite hs.frame hs)))) hs

/-! ## Husk -/

protected theorem Evolves.setHusk {f : Husk → Husk} (hs : Evolves σ s) : Evolves σ (setHusk f s) := hs.frame

protected theorem Evolves.updFeed {b : Fin 2} {f : Feed → Feed} (hs : Evolves σ s) : Evolves σ (updFeed b f s) := hs.setHusk

protected theorem Evolves.judgeOr (hs : Evolves σ s) : Evolves σ (judgeOr s) := hs.raiseIf.setHusk

protected theorem Evolves.setVin {mv : Nat} (hs : Evolves σ s) : Evolves σ (setVin mv s) := hs.setHusk.judgeOr

protected theorem Evolves.doFeedQualify {b : Fin 2} {mv : Nat} (hs : Evolves σ s) :
    Evolves σ (doFeedQualify b mv s) := .ite hs ((Evolves.ite hs.updFeed.setHusk hs.updFeed).setVin)

protected theorem Evolves.feedLost {b : Fin 2} {mv : Nat} (hs : Evolves σ s) : Evolves σ (feedLost b mv s) := hs.updFeed.raise

protected theorem Evolves.doFeedUnderVoltage {b : Fin 2} {mv : Nat} (hs : Evolves σ s) :
    Evolves σ (doFeedUnderVoltage b mv s) := .ite hs.feedLost hs

protected theorem Evolves.doFeedOverVoltage {b : Fin 2} {mv : Nat} (hs : Evolves σ s) :
    Evolves σ (doFeedOverVoltage b mv s) := .ite hs.feedLost.raise hs

protected theorem Evolves.doReverseCurrent {b : Fin 2} {mv : Nat} (hs : Evolves σ s) :
    Evolves σ (doReverseCurrent b mv s) := .ite hs.updFeed.raise hs

protected theorem Evolves.regLost {o : Fin 4} (hs : Evolves σ s) :
    Evolves σ (regLost o s) :=
  .ite hs (.ite (.ite hs.raise.regSetField hs.raise)
    (.ite (Evolves.ite hs.raise.regSetField hs.raise).goDown (Evolves.ite hs.raise.regSetField hs.raise).bringupFail))

protected theorem Evolves.trip {o : Fin 4} {to_ : OutState} {cause last : Nat} (hs : Evolves σ s) :
    Evolves σ (trip o to_ cause last s) := .ite hs.updOut.raise.regLost hs.updOut.raise

protected theorem Evolves.doInputLost {mv : Nat} (hs : Evolves σ s) :
    Evolves σ (doInputLost mv s) := .ite hs (hs.setHusk.setVin.foldl fun _ _ h => .ite (.ite h.updOut.regLost h.updOut) h)

protected theorem Evolves.doInsertionDelayEnd (hs : Evolves σ s) : Evolves σ (doInsertionDelayEnd s) := by
  unfold doInsertionDelayEnd
  split
  · exact .ite hs hs.timeTo.setHusk
  · exact hs

protected theorem Evolves.commandOn {o : Fin 4} (hs : Evolves σ s) : Evolves σ (commandOn o s) := by
  unfold commandOn
  dsimp only
  split
  · exact .ite hs.emit.setHusk.raise hs.emit.setHusk.updOut.updOut
  · exact .ite hs.emit.setHusk.raise hs.emit.setHusk.updOut
  · exact hs.emit.setHusk.updOut
  · exact hs.emit.setHusk

protected theorem Evolves.commandOff {o : Fin 4} (hs : Evolves σ s) :
    Evolves σ (commandOff o s) := .ite hs.emit.setHusk.updOut (.ite hs.emit.setHusk.updOut hs.emit.setHusk)

protected theorem Evolves.doOutputOn {m : Master} {o : Fin 4} (hs : Evolves σ s) :
    Evolves σ (doOutputOn m o s) := hs.guardWrite (fun _ h => h.commandOn)

protected theorem Evolves.doOutputOff {m : Master} {o : Fin 4} (hs : Evolves σ s) :
    Evolves σ (doOutputOff m o s) := hs.guardWrite (fun _ h => h.commandOff)

protected theorem Evolves.doOutputRampStart {o : Fin 4} (hs : Evolves σ s) :
    Evolves σ (doOutputRampStart o s) := .ite hs (.ite hs.updOut hs.updOut.raise)

protected theorem Evolves.doRampDone {o : Fin 4} {mv : Nat} (hs : Evolves σ s) :
    Evolves σ (doRampDone o mv s) := .ite hs.updOut hs

protected theorem Evolves.doEnhanceDone {o : Fin 4} (hs : Evolves σ s) :
    Evolves σ (doEnhanceDone o s) := .ite hs.updOut.enablePmics hs

protected theorem Evolves.doCurrentLimit {o : Fin 4} {ma : Nat} (hs : Evolves σ s) : Evolves σ (doCurrentLimit o ma s) := by
  unfold doCurrentLimit
  dsimp only
  refine .ite hs ?_
  split
  · exact hs.updOut
  · exact hs.updOut
  · exact hs.updOut
  · exact hs

protected theorem Evolves.doLimitClear {o : Fin 4} {ma : Nat} (hs : Evolves σ s) : Evolves σ (doLimitClear o ma s) := by
  unfold doLimitClear
  dsimp only
  refine .ite hs ?_
  split
  · exact hs.updOut
  · exact hs.updOut
  · exact hs.updOut
  · exact hs

protected theorem Evolves.doFastTrip {o : Fin 4} {ma : Nat} (hs : Evolves σ s) :
    Evolves σ (doFastTrip o ma s) := .ite hs.updOut.trip hs

protected theorem Evolves.doFaultTimer {o : Fin 4} (hs : Evolves σ s) : Evolves σ (doFaultTimer o s) := .ite hs.timeTo.trip hs

protected theorem Evolves.doCurveTrip {o : Fin 4} (hs : Evolves σ s) : Evolves σ (doCurveTrip o s) := by
  unfold doCurveTrip
  dsimp only
  refine .ite hs ?_
  split
  · exact hs.updOut.trip
  · exact hs

protected theorem Evolves.sampleCurve {o : Fin 4} {ma : Nat} (hs : Evolves σ s) : Evolves σ (sampleCurve o ma s) := hs.updOut

protected theorem Evolves.doRampTimeout {o : Fin 4} (hs : Evolves σ s) :
    Evolves σ (doRampTimeout o s) := .ite hs.timeTo.trip hs

protected theorem Evolves.fetFault {o : Fin 4} {cause last : Nat} (hs : Evolves σ s) :
    Evolves σ (fetFault o cause last s) := .ite hs.trip.bringupFail hs.trip

protected theorem Evolves.doFetOpen {o : Fin 4} (hs : Evolves σ s) : Evolves σ (doFetOpen o s) := by
  unfold doFetOpen
  dsimp only
  split
  · exact hs.timeTo.fetFault
  · exact hs.fetFault
  · exact hs

protected theorem Evolves.doFetShort {o : Fin 4} (hs : Evolves σ s) : Evolves σ (doFetShort o s) := by
  unfold doFetShort
  dsimp only
  split
  · exact hs.fetFault
  · exact hs.fetFault
  · exact (Evolves.ite hs hs.timeTo).fetFault
  · exact hs.timeTo.fetFault
  · exact hs

protected theorem Evolves.afterOff {o : Fin 4} {mv : Nat} (hs : Evolves σ s) : Evolves σ (afterOff o mv s) := hs.updOut

protected theorem Evolves.doOutputDischarged {o : Fin 4} {mv : Nat} (hs : Evolves σ s) :
    Evolves σ (doOutputDischarged o mv s) := by
  unfold doOutputDischarged
  refine .ite hs ?_
  split
  · exact hs.afterOff
  · exact hs.updOut
  · exact hs

protected theorem Evolves.doCooldownEnd {o : Fin 4} {mv : Nat} (hs : Evolves σ s) :
    Evolves σ (doCooldownEnd o mv s) := .ite hs.timeTo.afterOff hs

protected theorem Evolves.doRegulationFloorCrossed {o : Fin 4} {mv : Nat} (hs : Evolves σ s) :
    Evolves σ (doRegulationFloorCrossed o mv s) := .ite hs (.ite hs.updOut.regLost hs.updOut.enablePmics)

protected theorem Evolves.doOutputRegulationTimeout {o : Fin 4} (hs : Evolves σ s) :
    Evolves σ (doOutputRegulationTimeout o s) := .ite hs.timeTo.bringupFail hs

protected theorem Evolves.armWatch (hs : Evolves σ s) : Evolves σ (armWatch s) := hs.regSetField.setHusk

protected theorem Evolves.doHuskSealArm {m : Master} {v : Word} (hs : Evolves σ s) :
    Evolves σ (doHuskSealArm m v s) := hs.guardWrite (fun _ h => .ite h.armWatch h.regWrite)

protected theorem Evolves.doHuskLinkLost (hs : Evolves σ s) : Evolves σ (doHuskLinkLost s) := hs.setHusk.raise

protected theorem Evolves.doPfwAssert {mv : Nat} (hs : Evolves σ s) :
    Evolves σ (doPfwAssert mv s) := .ite hs hs.setHusk.setVin.frame.raise

protected theorem Evolves.doPfwRelease {mv : Nat} (hs : Evolves σ s) :
    Evolves σ (doPfwRelease mv s) := .ite hs hs.setHusk.setVin

/-! ## Keys -/

protected theorem Evolves.setSlot {i : Nat} {k : KeySlot} (hs : Evolves σ s) : Evolves σ (setSlot i k s) := hs.frame

protected theorem Evolves.setCopies {i : Nat} {loaded : Bool} {cls : Nat} {mask : Word} (hs : Evolves σ s) :
    Evolves σ (setCopies i loaded cls mask s) := hs.foldl fun _ _ h => h.frame

protected theorem Evolves.loadSlot {i : Nat} {key : BitVec 256} {cls : Nat} {mask : Word} (hs : Evolves σ s) :
    Evolves σ (loadSlot i key cls mask s) := hs.setCopies.setSlot

protected theorem Evolves.genSlot {i cls : Nat} {mask : Word} (hs : Evolves σ s) : Evolves σ (genSlot i cls mask s) := by
  unfold genSlot
  dsimp only
  exact hs.drawBits.loadSlot

protected theorem Evolves.slotEnd {reason : Nat} (hs : Evolves σ s) :
    Evolves σ (slotEnd reason s) := .ite hs.frame hs.frame.raise

protected theorem Evolves.sendMarkers (hs : Evolves σ s) :
    Evolves σ (sendMarkers s) :=
  ((hs.foldl fun _ _ h => h.updQp).frame.eachPort (fun _ _ h => h.updPort)).eachPort (fun _ _ h => h.markerStep)

protected theorem Evolves.slotRun {op i : Nat} (hs : Evolves σ s) : Evolves σ (slotRun op i s) := by
  unfold slotRun
  dsimp only
  split
  · exact hs.frame.slotEnd
  · refine .ite hs.frame.slotEnd ?_
    refine .ite hs.frame.slotEnd ?_
    split
    · exact hs.frame.genSlot.slotEnd
    · exact hs.frame.loadSlot.slotEnd
    · exact hs.frame.setCopies.setSlot.slotEnd
    · exact hs.frame.setSlot.setCopies.frame.sendMarkers

protected theorem Evolves.germSlot {op i cls : Nat} {mask : Word} (hs : Evolves σ s) :
    Evolves σ (germSlot op i cls mask s) := ((Evolves.ite hs hs.regSet.regSet).regSet).slotRun

protected theorem Evolves.slotCmd {m : Master} {op i : Nat} (hs : Evolves σ s) :
    Evolves σ (slotCmd m op i s) := .ite hs (hs.guardWrite (fun _ h => .ite h.regWrite h.regWrite.slotRun))

protected theorem Evolves.freeByte (hs : Evolves σ s) : Evolves σ (freeByte s).2 := by
  unfold freeByte
  dsimp only
  exact hs.frame

protected theorem Evolves.keyAnswer {m : KeyMsg} {result : Nat} {examined : Bool} (hs : Evolves σ s) :
    Evolves σ (keyAnswer m result examined s) := by
  unfold keyAnswer
  cases examined
  · exact .ite hs.freeByte.freeByte.emit hs.freeByte.freeByte.emit.raise
  · exact .ite hs.emit hs.emit.raise

protected theorem Evolves.msgRun {m : KeyMsg} {op : Nat} (hs : Evolves σ s) :
    Evolves σ (msgRun m op s) := (Evolves.ite hs.frame hs).germSlot

protected theorem Evolves.serveKeyMsg {m : KeyMsg} (hs : Evolves σ s) :
    Evolves σ (serveKeyMsg m s) :=
  .ite hs.emit.raise.frame
    (.ite hs.keyAnswer.frame
      (.ite hs.keyAnswer.frame
        (.ite hs.keyAnswer.frame
          (.ite hs.keyAnswer.frame (.ite hs.keyAnswer.frame (.ite hs.msgRun.frame hs.msgRun.keyAnswer.frame))))))

protected theorem Evolves.finishKeyMsg (hs : Evolves σ s) : Evolves σ (finishKeyMsg s) := by
  unfold finishKeyMsg
  dsimp only
  split
  · exact .ite hs (Evolves.ite hs.frame.msgRun hs.frame).keyAnswer
  · exact hs

protected theorem Evolves.serveKeys {fuel : Nat} (hs : Evolves σ s) : Evolves σ (serveKeys fuel s) := by
  induction fuel generalizing s with
  | zero => exact hs
  | succ fuel ih =>
    unfold serveKeys
    split
    · exact .ite hs (ih hs.serveKeyMsg)
    · exact hs

protected theorem Evolves.serveAllKeys (hs : Evolves σ s) : Evolves σ (serveAllKeys s) := .ite hs hs.finishKeyMsg.serveKeys

protected theorem Evolves.doKeyMsg {km : KeyMsg} (hs : Evolves σ s) :
    Evolves σ (doKeyMsg km s) := .ite hs hs.frame.serveAllKeys

protected theorem Evolves.doRetireDrainComplete (hs : Evolves σ s) : Evolves σ (doRetireDrainComplete s) := by
  unfold doRetireDrainComplete
  dsimp only
  split
  · exact hs.allSettle
  · exact hs.allSettle.setSlot.slotEnd.serveAllKeys

protected theorem Evolves.doRetireTimeout (hs : Evolves σ s) : Evolves σ (doRetireTimeout s) := .ite hs hs.timeTo.frame.raise

protected theorem Evolves.doLoadGen {m : Master} {slot : Fin 4096} (hs : Evolves σ s) :
    Evolves σ (doLoadGen m slot s) := hs.slotCmd

protected theorem Evolves.doLoadKey {m : Master} {slot : Fin 4096} (hs : Evolves σ s) :
    Evolves σ (doLoadKey m slot s) := hs.slotCmd

protected theorem Evolves.doSetPolicy {m : Master} {slot : Fin 4096} (hs : Evolves σ s) :
    Evolves σ (doSetPolicy m slot s) := hs.slotCmd

protected theorem Evolves.doRetire {m : Master} {slot : Fin 4096} (hs : Evolves σ s) :
    Evolves σ (doRetire m slot s) := hs.slotCmd

protected theorem Evolves.doQuery {m : Master} {slot : Fin 4096} (hs : Evolves σ s) :
    Evolves σ (doQuery m slot s) := hs.slotCmd

protected theorem Evolves.doBadOp {m : Master} {op : Fin 16} {slot : Fin 4096} (hs : Evolves σ s) :
    Evolves σ (doBadOp m op slot s) := .ite hs hs.slotCmd

/-! ## Image -/

protected theorem Evolves.flashPut {off : Nat} {bs : List Byte} (hs : Evolves σ s) : Evolves σ (flashPut off bs s) := hs.frame

protected theorem Evolves.writeBoot {b : Bool} (hs : Evolves σ s) : Evolves σ (writeBoot b s) := hs.flashPut

protected theorem Evolves.layout {i : SolvikImage} (hs : Evolves σ s) : Evolves σ (layout i s) :=
  hs.frame.setRegs fun _ => rfl

protected theorem Evolves.setFields {fs : List (Nat × Nat × Nat × Nat)} (hs : Evolves σ s) :
    Evolves σ (setFields fs s) := hs.foldl fun _ _ h => h.regSetField

/-! ## SheafOps -/

protected theorem Evolves.installEntry {p : Fin 4} {e : SheafEntry} (hs : Evolves σ s) : Evolves σ (installEntry p e s) := by
  unfold installEntry
  dsimp only
  refine .ite hs.updPort.raiseIf.updPort ?_
  split
  · exact hs.updPort.raiseIf.drawChoice.updPort.updPort
  · exact hs.updPort.raiseIf.drawChoice

protected theorem Evolves.releaseHeld {p : Fin 4} {e : SheafEntry} (hs : Evolves σ s) :
    Evolves σ (releaseHeld p e s) := (hs.updPort.foldl fun _ _ h => h.translate).unstall

protected theorem Evolves.failSlot {m : MissRec} {status : Nat} (hs : Evolves σ s) :
    Evolves σ (failSlot m status s) := (hs.updPort.foldl fun _ _ h => h.refuseReq).unstall

protected theorem Evolves.readyFill (hs : Evolves σ s) : Evolves σ (readyFill s) := by
  unfold readyFill
  dsimp only
  split
  · split
    · exact hs.regSet.regSet.regSet
    · exact hs
  · exact hs

protected theorem Evolves.refill {p : Fin 4} {ldTag dpa : Nat} (hs : Evolves σ s) : Evolves σ (refill p ldTag dpa s) := by
  unfold refill
  dsimp only
  split
  · exact hs.updPort.updPort
  · exact hs.updPort.updPort.frame

protected theorem Evolves.fillGo (hs : Evolves σ s) : Evolves σ (fillGo s) := by
  unfold fillGo
  dsimp only
  refine .ite hs ?_
  refine .portSettle ?_
  refine .readyFill ?_
  refine .ite hs.frame.installEntry.releaseHeld ?_
  split
  · exact hs.frame.refill
  · exact hs.frame.updPort

protected theorem Evolves.setWalk {i : Nat} {w : Walk} (hs : Evolves σ s) : Evolves σ (setWalk i w s) := hs.frame

protected theorem Evolves.endWalk {i : Nat} (hs : Evolves σ s) : Evolves σ (endWalk i s) := hs.frame

protected theorem Evolves.takeDesc {ok : Nat → Bool} (hs : Evolves σ s) : Evolves σ (takeDesc s ok).2 := by
  unfold takeDesc
  dsimp only
  refine ite_snd hs ?_
  split
  · dsimp only
    exact hs.drawChoice.frame
  · dsimp only
    exact hs.drawChoice

protected theorem Evolves.returnDesc {d : Nat} (hs : Evolves σ s) : Evolves σ (returnDesc d s) := .ite hs.frame hs

/-- A new page from a pool that backs an address, as `backPage` takes it outside an elastic region. -/
theorem Evolves.allocPage_mapped {q : Fin 2} {r : Region} {pg : Nat} (hs : Evolves σ s) :
    Evolves σ (match allocPage q s with
      | (some m, u) => (true, writeMapping r pg 12 (mkLeaf 12 r.pinned false m) u)
      | (none, u) => (false, raise blkTier 4 Cap.none u)).2 := by
  split
  · next e => exact (hs.allocPage.of_eq e).writeMapping
  · next e => exact (hs.allocPage.of_eq e).raise

protected theorem Evolves.backPage {ldTag dpa : Nat} (hs : Evolves σ s) : Evolves σ (backPage ldTag dpa s).2 := by
  unfold backPage
  split
  · exact hs
  · dsimp only
    split
    · exact hs
    · split
      · exact hs.allocPage_mapped
      · split
        · next e => exact (hs.takeDesc.of_eq e).holdPath.writeDesc.writeMapping
        · next e => exact .ite (hs.takeDesc.of_eq e).allocPage_mapped (hs.takeDesc.of_eq e).allocPage_mapped.raise

protected theorem Evolves.walkUnbacked {i : Nat} {w : Walk} (hs : Evolves σ s) : Evolves σ (walkUnbacked i w s) := by
  unfold walkUnbacked
  dsimp only
  refine .ite hs.setWalk ?_
  split
  · next e =>
      exact (hs.backPage.of_eq e).restartWalk.setWalk
  · next e =>
      exact (hs.backPage.of_eq e).setWalk

protected theorem Evolves.retryWalks (hs : Evolves σ s) : Evolves σ (retryWalks s) := by
  unfold retryWalks
  refine .ite hs ?_
  refine hs.foldl fun _ _ h => ?_
  split
  · exact .ite h.walkUnbacked h
  · exact h

protected theorem Evolves.walkStep {i : Nat} {noise : Image} (hs : Evolves σ s) : Evolves σ (walkStep i noise s) := by
  unfold walkStep
  dsimp only
  split
  · exact hs
  · refine .ite hs ?_
    split
    · next e' =>
        exact (hs.readEntry.of_eq e').endWalk.failSlot
    · next e' =>
        refine .ite ((hs.readEntry.of_eq e').walkUnbacked) ?_
        split
        · exact (hs.readEntry.of_eq e').raise.endWalk.failSlot
        · exact .ite (hs.readEntry.of_eq e').setWalk.readyFill (hs.readEntry.of_eq e').cachePtr.descend.setWalk

protected theorem Evolves.invPort {p : Fin 4} {all : Bool} {tag dpa size : Nat} (hs : Evolves σ s) :
    Evolves σ (invPort p all tag dpa size s) := hs.updPort.frame

protected theorem Evolves.invalidate {all : Bool} {tag dpa size : Nat} (hs : Evolves σ s) :
    Evolves σ (invalidate all tag dpa size s) :=
  (hs.frame.eachPort (fun _ _ h => h.invPort)).eachPort (fun _ _ h => h.invAckStep)

protected theorem Evolves.invalidatePage {r : Region} {dpa : Nat} (hs : Evolves σ s) :
    Evolves σ (invalidatePage r dpa s) := by
  unfold invalidatePage
  split
  · exact hs.invalidate
  · exact hs.invalidate

protected theorem Evolves.remapPage {r : Region} {dpa : Nat} {leaf : Word} (hs : Evolves σ s) :
    Evolves σ (remapPage r dpa leaf s) := hs.writeMapping.invalidatePage

protected theorem Evolves.installRange {ldTag dpa size : Nat} (hs : Evolves σ s) :
    Evolves σ (installRange ldTag dpa size s) := by
  unfold installRange
  dsimp only
  exact hs.leavesIn.foldl fun _ _ h => h.installEntry

protected theorem Evolves.installPinned (hs : Evolves σ s) :
    Evolves σ (installPinned s) := hs.eachPort (fun _ _ h => h.foldl fun _ _ k => k.installRange)

protected theorem Evolves.reinstallPinned (hs : Evolves σ s) :
    Evolves σ (reinstallPinned s) := hs.frame.foldl fun _ _ h => h.installRange

/-! ## Tiering -/

protected theorem Evolves.updMove {mid : Nat} {f : Move → Move} (hs : Evolves σ s) : Evolves σ (updMove mid f s) := hs.frame

protected theorem Evolves.moveInval {mid : Nat} (hs : Evolves σ s) : Evolves σ (moveInval mid s) := by
  unfold moveInval
  dsimp only
  split
  · exact hs
  · refine .ite hs ?_
    split
    · next e' _ =>
        exact .ite (hs.ownHold e') (Evolves.ite (hs.ownHold e').remapPage (hs.ownHold e').invalidatePage).updMove
    · exact hs

protected theorem Evolves.startMove {ldTag dpa src : Nat} {srcPacked : Bool} {dst : Nat} {dstPacked : Bool}
    {slot : Option Nat} {retire : Bool} (hs : Evolves σ s) :
    Evolves σ (startMove ldTag dpa src srcPacked dst dstPacked slot retire s) := by
  unfold startMove
  dsimp only
  exact hs.takeSeq.frame.moveInval

protected theorem Evolves.doMigrationRecall {mid : Nat} (hs : Evolves σ s) : Evolves σ (doMigrationRecall mid s) := by
  unfold doMigrationRecall
  dsimp only
  refine .ite hs.allSettle ?_
  split
  · exact hs.allSettle.moveInval
  · exact .ite hs.allSettle.moveInval hs.allSettle.moveInval.updSpk.recallMore.afterAnswers.updMove

protected theorem Evolves.readPlainSource {p : Nat} {awn : Bool} {noise : Image} (hs : Evolves σ s) :
    Evolves σ (readPlainSource p awn noise s).2.2 := by
  unfold readPlainSource
  dsimp only
  exact hs.readPlainPage

protected theorem Evolves.readSource {m : Move} {awn : Bool} {noise : Image} (hs : Evolves σ s) :
    Evolves σ (readSource m awn noise s).2.2 := by
  unfold readSource
  split
  · dsimp only
    split
    · split
      · exact hs.holdPath.readDesc.readPlainSource
      · exact hs.holdPath.readDesc.readPackedPage
    · exact hs.holdPath.readDesc.readCause
  · exact hs.readPlainSource

protected theorem Evolves.pageJob {m : Move} {key : Nat} {ls : List PageLine} (hs : Evolves σ s) :
    Evolves σ (pageJob m key ls s) := by
  unfold pageJob
  dsimp only
  exact hs.takeSeq.updSpk

protected theorem Evolves.doMigrationCopy {mid : Nat} {noise : Image} {par : Parity} (hs : Evolves σ s) :
    Evolves σ (doMigrationCopy mid noise par s) := by
  unfold doMigrationCopy
  dsimp only
  refine .ite hs ?_
  split
  · exact hs
  · refine .ite hs ?_
    refine hs.chanAccess fun _ h => ?_
    refine .ite h.readSource.pageJob.updMove ?_
    refine .updMove ?_
    refine .fillPage ?_
    split
    · exact h.readSource.holdPath.setPkt
    · exact h.readSource

protected theorem Evolves.pageRetired {m : Nat} (hs : Evolves σ s) : Evolves σ (pageRetired m s) := hs.endAccepted

protected theorem Evolves.freeGranules {gs : List Granule} (hs : Evolves σ s) :
    Evolves σ (freeGranules gs s) := hs.frame.foldl fun _ _ h => .ite h h.frame.blankPage.returnPage.pageRetired

protected theorem Evolves.leavePage {p : Nat} {retire : Bool} (hs : Evolves σ s) :
    Evolves σ (leavePage p retire s) :=
  .ite (Evolves.ite hs hs.blankPage).pageRetired (Evolves.ite hs hs.blankPage).returnPage

protected theorem Evolves.leaveDesc {d : Nat} {retire : Bool} (hs : Evolves σ s) : Evolves σ (leaveDesc d retire s) := by
  unfold leaveDesc
  dsimp only
  exact .ite (.ite hs.holdPath.readDesc.updSpk.freeGranules.leavePage hs.holdPath.readDesc.updSpk.freeGranules)
      (Evolves.ite hs.holdPath.readDesc.updSpk.freeGranules.leavePage
        hs.holdPath.readDesc.updSpk.freeGranules).holdPath.writeDesc

protected theorem Evolves.freeSource {m : Move} (hs : Evolves σ s) :
    Evolves σ (freeSource m s) := .ite hs.leaveDesc.returnDesc hs.leavePage

protected theorem Evolves.redirectTxns {k : Fin 8} {d p : Nat} (hs : Evolves σ s) :
    Evolves σ (redirectTxns k d p s) := hs.updSpk

protected theorem Evolves.doMigrationRelease {mid : Nat} (hs : Evolves σ s) : Evolves σ (doMigrationRelease mid s) := by
  unfold doMigrationRelease
  refine .ite hs ?_
  split
  · exact hs
  · next m _ =>
    have hred : Evolves σ (match if m.dstPacked then forwardedTo s m.dst else none with
        | some p => redirectTxns (spkOf m.dst) m.dst p s
        | none => s) := by
      split
      · exact hs.redirectTxns
      · exact hs
    refine .ite hs ?_
    dsimp only
    split
    · exact hred.disownHold.freeSource.frame.retryWalks.setVerdict
    · exact hred.disownHold.freeSource.frame.retryWalks

protected theorem Evolves.setOutput {k : Fin 8} {jid : Nat} {out : List (List Byte)} (hs : Evolves σ s) :
    Evolves σ (setOutput k jid out s) := hs.updSpk

protected theorem Evolves.dropJob {k : Fin 8} {jid : Nat} (hs : Evolves σ s) : Evolves σ (dropJob k jid s) := hs.updSpk

protected theorem Evolves.stockEmpty {k : Fin 8} {j : Job} (hs : Evolves σ s) : Evolves σ (stockEmpty k j s) := hs.raise

protected theorem Evolves.forwardMove {k : Fin 8} {j : Job} {m : Move} (hs : Evolves σ s) :
    Evolves σ (forwardMove k j m s) := by
  unfold forwardMove
  split
  · exact hs.stockEmpty.setOutput
  · dsimp only
    refine .updMove (.dropJob (.updSpk (.raise (.frame (.writeDesc (.holdPath (.fillPage ?_)))))))
    split
    · exact hs.updSpk.readSource.holdPath.setPkt
    · exact hs.updSpk.readSource

protected theorem Evolves.storePage {k : Fin 8} {j : Job} {m : Move} {outs : List (List Byte)} (hs : Evolves σ s) :
    Evolves σ (storePage k j m outs s) := by
  unfold storePage
  dsimp only
  split
  · exact hs.stockEmpty.setOutput
  · next e =>
    refine .updMove (.dropJob (.updSpk (.writeDesc (.holdPath ?_))))
    exact foldl_fst (hs.takeGranules.of_eq e) fun _ _ h => by
      split
      · exact h
      · exact h.writeBlock

protected theorem Evolves.pageJobDone {k : Fin 8} {j : Job} {mid : Nat} {streams : List (List Byte)} (hs : Evolves σ s) :
    Evolves σ (pageJobDone k j mid streams s) := by
  unfold pageJobDone
  dsimp only
  split
  · exact hs.dropJob
  · exact .ite hs (.ite hs.failJob.forwardMove (.ite hs (.ite hs.failJob.forwardMove hs.storePage)))

protected theorem Evolves.blockJobDone {k : Fin 8} {j : Job} {b tid : Nat} {streams : List (List Byte)} (hs : Evolves σ s) :
    Evolves σ (blockJobDone k j b tid streams s) := by
  unfold blockJobDone
  refine .ite hs ?_
  refine .ite hs.failJob.startForward ?_
  split
  · exact hs
  · exact .ite hs.failJob.startForward hs.storeBlock

protected theorem Evolves.doCompressionJobDone {k : Fin 8} {jid : Nat} {streams : List (List Byte)} (hs : Evolves σ s) :
    Evolves σ (doCompressionJobDone k jid streams s) := by
  unfold doCompressionJobDone
  refine .ite hs ?_
  split
  · exact hs
  · split
    · exact hs.blockJobDone.stepForwards
    · exact hs.pageJobDone

protected theorem Evolves.updForward {k : Fin 8} {d : Nat} {f : Forward → Forward} (hs : Evolves σ s) :
    Evolves σ (updForward k d f s) := hs.updSpk

protected theorem Evolves.endForward {k : Fin 8} {f : Forward} (hs : Evolves σ s) :
    Evolves σ (endForward k f s) := hs.freeGranules.holdPath.writeDesc.returnDesc.updSpk.retryWalks

protected theorem Evolves.doForwardRepoint {k : Fin 8} {desc : Nat} (hs : Evolves σ s) :
    Evolves σ (doForwardRepoint k desc s) := by
  unfold doForwardRepoint
  dsimp only
  refine .ite hs.allSettle ?_
  split
  · exact hs.allSettle
  · split
    · exact .ite hs.allSettle.endForward hs.allSettle
    · refine .ite hs.allSettle ?_
      split
      · exact hs.allSettle
      · exact .ite hs.allSettle.remapPage.updForward.endForward hs.allSettle.remapPage.updForward
    · exact hs.allSettle

protected theorem Evolves.refillPromo {k : Fin 8} {n : Fin 2} (hs : Evolves σ s) : Evolves σ (refillPromo k n s) := by
  unfold refillPromo
  refine .ite hs ?_
  split
  · next e =>
      exact (hs.allocHomed.of_eq e).updSpk
  · next e =>
      exact hs.allocHomed.of_eq e

protected theorem Evolves.refillStock {k : Fin 8} (hs : Evolves σ s) : Evolves σ (refillStock k s) := hs.frame.updSpk

protected theorem Evolves.retryStock {k : Fin 8} (hs : Evolves σ s) : Evolves σ (retryStock k s) := by
  refine .stepForwards (.foldl (hs.foldl fun _ _ h => ?_) fun _ _ h => ?_)
  · refine .ite h ?_
    split
    · exact h.setOutput.storeBlock
    · split
      · exact h
      · exact .ite h.setOutput.storePage h.setOutput.forwardMove
  · split
    · exact h.startForward
    · exact h

protected theorem Evolves.doStockRefill {k : Fin 8} (hs : Evolves σ s) :
    Evolves σ (doStockRefill k s) := .ite hs hs.updSpk.freeGranules.refillStock.refillPromo.refillPromo.retryStock.retryWalks

protected theorem Evolves.doHotEpoch (hs : Evolves σ s) :
    Evolves σ (doHotEpoch s) := (Evolves.ite hs hs.timeTo).eachSpk (fun _ _ h => h.updSpk)

protected theorem Evolves.doHeldWriteRelease {n : Fin 2} (hs : Evolves σ s) :
    Evolves σ (doHeldWriteRelease n s) :=
  .ite hs.judgePool (hs.judgePool.eachPort (fun _ _ h => h.rollWindow.admitHeld.pumpFreed))

protected theorem Evolves.pageLeaf {ldTag dpa : Nat} (hs : Evolves σ s) : Evolves σ (pageLeaf ldTag dpa s).2 := by
  unfold pageLeaf
  split
  · next e3 =>
      dsimp only
      exact hs.lookLeaf.of_eq e3
  · next e =>
      dsimp only
      exact hs.lookLeaf.of_eq e

protected theorem Evolves.decidePromote {slot ldTag dpa : Nat} (hs : Evolves σ s) :
    Evolves σ (decidePromote slot ldTag dpa s).2 := by
  unfold decidePromote
  split
  · exact hs
  · refine ite_snd hs ?_
    split
    · next e' =>
        dsimp only
        exact hs.pageLeaf.of_eq e'
    · next e' =>
        refine ite_snd ?_ ?_
        · dsimp only
          exact hs.pageLeaf.of_eq e'
        · refine ite_snd ?_ ?_
          · dsimp only
            exact hs.pageLeaf.of_eq e'
          · refine ite_snd ?_ ?_
            · dsimp only
              exact hs.pageLeaf.of_eq e'
            · split
              · next e'2 =>
                  dsimp only
                  exact (hs.pageLeaf.of_eq e').allocPick.of_eq e'2
              · next e₃ =>
                  dsimp only
                  exact ((hs.pageLeaf.of_eq e').allocPick.of_eq e₃).startMove

protected theorem Evolves.decideDemote {slot ldTag dpa : Nat} (hs : Evolves σ s) :
    Evolves σ (decideDemote slot ldTag dpa s).2 := by
  unfold decideDemote
  dsimp only
  split
  · exact hs
  · refine ite_snd hs ?_
    split
    · next e' =>
        dsimp only
        exact hs.pageLeaf.of_eq e'
    · next e' =>
        refine ite_snd ?_ ?_
        · dsimp only
          exact hs.pageLeaf.of_eq e'
        · refine ite_snd ?_ ?_
          · dsimp only
            exact hs.pageLeaf.of_eq e'
          · refine ite_snd ?_ ?_
            · dsimp only
              exact hs.pageLeaf.of_eq e'
            · split
              · next e'2 =>
                  dsimp only
                  exact (hs.pageLeaf.of_eq e').takeDesc.of_eq e'2
              · next e₃ =>
                  dsimp only
                  exact ((hs.pageLeaf.of_eq e').takeDesc.of_eq e₃).holdPath.writeDesc.startMove

protected theorem Evolves.findBacked {m : Nat} (hs : Evolves σ s) : Evolves σ (findBacked m s).2 := by
  unfold findBacked
  split
  · exact hs
  · refine foldl_snd hs fun acc _ h => ?_
    split
    · dsimp only
      split
      · exact h.leavesIn
      · exact h.leavesIn
    · exact h

protected theorem Evolves.splitLeaf {fuel ldTag dpa level table : Nat} (hs : Evolves σ s) :
    Evolves σ (splitLeaf fuel ldTag dpa level table s) := by
  induction fuel generalizing level table s with
  | zero => exact hs
  | succ fuel ih =>
    unfold splitLeaf
    dsimp only
    split
    · next e => exact hs.readEntry.of_eq e
    · next e =>
      have h := hs.readEntry.of_eq e
      refine .ite h (.ite (ih h) ?_)
      refine .ite (h.foldl fun _ _ h => .ite h h.writeEntry) ?_
      split
      · next e' => exact (h.foldl fun _ _ h => .ite h h.writeEntry).takeTable.of_eq e'
      · next e' =>
        exact ih (((h.foldl fun _ _ h => .ite h h.writeEntry).takeTable.of_eq e').foldl fun _ _ h => h.writeEntry).writeEntry

protected theorem Evolves.splitPage {r : Region} {dpa : Nat} (hs : Evolves σ s) :
    Evolves σ (splitPage r dpa s) := hs.foldl fun _ _ h => h.splitLeaf.flushCache

protected theorem Evolves.dropFree {m : Nat} (hs : Evolves σ s) :
    Evolves σ (dropFree m s) := ((hs.eachSpk (fun _ _ h => h.updSpk)).setPool).setPool

protected theorem Evolves.decideRetirePage {slot m : Nat} (hs : Evolves σ s) : Evolves σ (decideRetirePage slot m s).2 := by
  unfold decideRetirePage
  dsimp only
  refine ite_snd hs ?_
  refine ite_snd hs ?_
  refine ite_snd hs ?_
  refine ite_snd hs ?_
  refine ite_snd ?_ ?_
  · dsimp only
    exact hs.frame.eachSpk (fun _ _ h => h.updSpk.freeGranules)
  · split
    · next e =>
        dsimp only
        exact (hs.findBacked.of_eq e).dropFree.frame
    · next e =>
        split
        · dsimp only
          exact (hs.findBacked.of_eq e).frame
        · refine ite_snd ?_ ?_
          · dsimp only
            exact hs.findBacked.of_eq e
          · refine ite_snd ?_ ?_
            · dsimp only
              exact hs.findBacked.of_eq e
            · split
              · next e'2 =>
                  dsimp only
                  exact (hs.findBacked.of_eq e).allocPick.of_eq e'2
              · next e₃ =>
                  split
                  · dsimp only
                    exact (Evolves.ite ((hs.findBacked.of_eq e).allocPick.of_eq e₃)
                        ((hs.findBacked.of_eq e).allocPick.of_eq e₃).splitPage).frame.startMove
                  · dsimp only
                    exact (Evolves.ite ((hs.findBacked.of_eq e).allocPick.of_eq e₃)
                        ((hs.findBacked.of_eq e).allocPick.of_eq e₃).splitPage).frame.startMove

protected theorem Evolves.toPacked {r : Region} {ldTag dpa m : Nat} (hs : Evolves σ s) :
    Evolves σ (toPacked r ldTag dpa m s) := by
  unfold toPacked
  refine .ite hs ?_
  split
  · next e =>
      exact hs.takeDesc.of_eq e
  · next e =>
      exact (hs.takeDesc.of_eq e).holdPath.writeDesc.startMove

protected theorem Evolves.zeroPage {o : Option HoldOwner} {r : Region} {ldTag dpa : Nat} {leaf : Word} (hs : Evolves σ s) :
    Evolves σ (zeroPage o r ldTag dpa leaf s) := by
  unfold zeroPage
  dsimp only
  refine .ite ?_ ?_
  · refine .retryWalks ?_
    split
    · exact (Evolves.ite hs.holdPath.readDesc.blankPage hs.holdPath.readDesc.freeGranules.holdPath.writeDesc).disownAll
    · exact .ite hs.holdPath.readDesc.blankPage hs.holdPath.readDesc.freeGranules.holdPath.writeDesc
  · refine .toPacked ?_
    split
    · exact hs.blankPage.disownAll
    · exact hs.blankPage

/-! ## Blank -/

protected theorem Evolves.remapBlank {r : Region} {dpa : Nat} {leaf : Word} {u : State} (hs : Evolves σ s)
    (e : remapBlank r dpa leaf s = some u) : Evolves σ u := by
  unfold remapBlank at e
  split at e
  · cases e
  · split at e
    · split at e
      · next hd => exact Option.some.inj e ▸ (hs.takeDesc.of_eq hd).holdPath.writeDesc.leaveDesc.remapPage
      · cases e
    · split at e
      · next hm =>
        have h := hs.allocPick.of_eq hm
        exact Option.some.inj e ▸ (Evolves.ite h h.splitPage).remapPage
      · cases e

protected theorem Evolves.recallBacking {b : Nat} (hs : Evolves σ s) :
    Evolves σ (recallBacking b s) := .ite hs hs.updSpk.recallMore.afterAnswers

protected theorem Evolves.mappedPage {ldTag dpa : Nat} (hs : Evolves σ s) : Evolves σ (mappedPage ldTag dpa s).2 := by
  unfold mappedPage
  split
  · next e6 =>
      dsimp only
      exact hs.lookLeaf.of_eq e6
  · next e _ =>
      dsimp only
      exact hs.lookLeaf.of_eq e

protected theorem Evolves.blankPageStep {o : HoldOwner} {ldTag dpa : Nat} (hs : Evolves σ s) :
    Evolves σ (blankPageStep o ldTag dpa s).2 := by
  unfold blankPageStep
  split
  · next e => exact hs.mappedPage.of_eq e
  · next e =>
    have h1 := hs.mappedPage.of_eq e
    dsimp only
    split
    · split
      · next e' => exact (h1.remapBlank e').disownAll
      · exact h1
    · split
      · exact h1
      · next t e' =>
        have h2 := h1.ownHold e'
        generalize hu : (if recalledBacking (linesAt _ dpa _) t then t else _) = u
        have h3 : Evolves σ u := hu ▸ .ite h2 h2.recallBacking
        split
        · dsimp only
          exact h3.zeroPage
        · exact h3

/-! ## Channel -/

protected theorem Evolves.setMc {x : Fin 16} {c : McState} (hs : Evolves σ s) : Evolves σ (setMc x c s) := hs.updMc

protected theorem Evolves.measure {x : Fin 16} {items : List Nat} {live : Bool} (hs : Evolves σ s) :
    Evolves σ (measure x items live s) := hs.foldl fun _ _ h => h.frame.updMc

protected theorem Evolves.judgeRefresh {x : Fin 16} (hs : Evolves σ s) : Evolves σ (judgeRefresh x s) := hs.updMc

protected theorem Evolves.takeTemp {x : Fin 16} {d : Fin 2} {t : Option Int} (hs : Evolves σ s) :
    Evolves σ (takeTemp x d t s) := by
  unfold takeTemp
  dsimp only
  split
  · exact .ite hs.updMc.raise hs.updMc
  · exact .ite hs.updMc.raise hs.updMc

protected theorem Evolves.startTemps {x : Fin 16} {t0 t1 : Int} (hs : Evolves σ s) :
    Evolves σ (startTemps x t0 t1 s) := .ite hs.updMc.takeTemp.takeTemp hs.updMc.takeTemp

protected theorem Evolves.judgeRecal {x : Fin 16} (hs : Evolves σ s) : Evolves σ (judgeRecal x s) := .ite hs.updMc hs

protected theorem Evolves.doDimmTempRead {x : Fin 16} {t0 t1 : Option Int} (hs : Evolves σ s) :
    Evolves σ (doDimmTempRead x t0 t1 s) := .ite hs (((Evolves.ite hs.takeTemp.takeTemp hs.takeTemp).judgeRefresh).judgeRecal)

protected theorem Evolves.doRefab {x : Fin 16} {t : Nat} (hs : Evolves σ s) :
    Evolves σ (doRefab x t s) := .ite hs hs.updMc.emit

protected theorem Evolves.secondSlice {x : Fin 16} {row : Nat} (hs : Evolves σ s) :
    Evolves σ (secondSlice x row s) := (hs.updMc.perfMc.foldl fun _ _ h => h.emit).activateRows

protected theorem Evolves.doRefreshEnd {x : Fin 16} {t : Nat} (hs : Evolves σ s) : Evolves σ (doRefreshEnd x t s) := by
  unfold doRefreshEnd
  dsimp only
  exact .ite hs ((hs.updMc.updMc.foldl fun _ _ h => h.firstSlice.activateRows).foldl fun _ _ h => h.secondSlice)

protected theorem Evolves.doNeighborRefreshSlice2 {x : Fin 16} {row : Nat} (hs : Evolves σ s) :
    Evolves σ (doNeighborRefreshSlice2 x row s) := .ite hs (.ite hs.updMc hs.secondSlice)

protected theorem Evolves.doRecalForce {m : Master} {x : Fin 16} {v : Word} (hs : Evolves σ s) :
    Evolves σ (doRecalForce m x v s) := hs.guardWrite (fun _ h => .ite h.regWrite.updMc h.regWrite)

protected theorem Evolves.doRecalRunDone {x : Fin 16} (hs : Evolves σ s) :
    Evolves σ (doRecalRunDone x s) := .ite hs hs.measure.updMc

protected theorem Evolves.doCalStep {x : Fin 16} (hs : Evolves σ s) : Evolves σ (doCalStep x s) := .ite hs hs.updMc

protected theorem Evolves.doCalTargetWrite {m : Master} {x : Fin 16} {v : Word} (hs : Evolves σ s) :
    Evolves σ (doCalTargetWrite m x v s) := by
  unfold doCalTargetWrite
  dsimp only
  refine hs.guardWrite fun _ h => ?_
  split
  · exact h
  · exact .ite h.updMc h

protected theorem Evolves.leaveSpd {x : Fin 16} (hs : Evolves σ s) :
    Evolves σ (leaveSpd x s) := (Evolves.ite hs.setMc hs).channelsMoved

protected theorem Evolves.failMc {x : Fin 16} {bit : Nat} (hs : Evolves σ s) :
    Evolves σ (failMc x bit s) := hs.raise.setMc.channelsMoved

protected theorem Evolves.doSpdCheckDone {x : Fin 16} {spd0 spd1 : Option DimmSpd} (hs : Evolves σ s) :
    Evolves σ (doSpdCheckDone x spd0 spd1 s) := .ite hs (.ite hs.failMc hs.updMc.leaveSpd)

protected theorem Evolves.doPmicPowerGood {x : Fin 16} (hs : Evolves σ s) :
    Evolves σ (doPmicPowerGood x s) := .ite hs hs.updMc.leaveSpd

protected theorem Evolves.doPmicTimeout {x : Fin 16} (hs : Evolves σ s) : Evolves σ (doPmicTimeout x s) := by
  unfold doPmicTimeout
  split
  · exact .ite hs.timeTo.failMc hs
  · exact hs

protected theorem Evolves.doPmicFault {x : Fin 16} (hs : Evolves σ s) : Evolves σ (doPmicFault x s) := .ite hs hs.failMc

protected theorem Evolves.replaceRank {x : Fin 16} {bad : List Nat} {p : Nat} {u : State} (hs : Evolves σ s)
    (e : replaceRank x bad p s = some u) : Evolves σ u := by
  unfold replaceRank at e
  dsimp only at e
  split at e
  · exact Option.some.inj e ▸ hs
  · split at e
    · cases e
    · exact Option.some.inj e ▸ hs.regSetField.regSetField.updMc.raise

protected theorem Evolves.replaceRanks {x : Fin 16} {bad ps : List Nat} {u : State} (hs : Evolves σ s)
    (e : ps.foldl (fun (a : Option State) p => a.bind (replaceRank x bad p)) (some s) = some u) : Evolves σ u := by
  induction ps generalizing s with
  | nil => exact Option.some.inj e ▸ hs
  | cons p ps ih =>
    simp only [List.foldl_cons, Option.bind_some] at e
    cases hp : Machine.replaceRank x bad p s with
    | some t => exact ih (hs.replaceRank hp) (hp ▸ e)
    | none =>
      rw [hp] at e
      have hnone : ∀ l : List Nat, l.foldl (fun (a : Option State) p => a.bind (Machine.replaceRank x bad p)) none = none :=
        fun l => by induction l <;> simp_all
      rw [hnone] at e
      cases e

protected theorem Evolves.doChannelTrained {x : Fin 16} {faults : List TrainFault} {t0 t1 : Int} (hs : Evolves σ s) :
    Evolves σ (doChannelTrained x faults t0 t1 s) := by
  unfold doChannelTrained
  refine .ite hs ?_
  dsimp only
  split
  · exact hs.failMc
  · next u e =>
    have hu : Evolves σ u := by
      split at e
      · cases e
      · exact hs.replaceRanks e
    exact hu.startTemps.measure.judgeRefresh.updMc.setMc.channelsMoved

protected theorem Evolves.enterSelfRefresh {x : Fin 16} (hs : Evolves σ s) :
    Evolves σ (enterSelfRefresh x s) := .ite hs ((hs.foldl fun _ _ h => h.dramSet).updMc)

protected theorem Evolves.loadSnapshot {x : Fin 16} (hs : Evolves σ s) : Evolves σ (loadSnapshot x s) := by
  unfold loadSnapshot
  dsimp only
  split
  · exact hs.regSetField.updMc
  · exact hs

protected theorem Evolves.doChannelRestore {x : Fin 16} {ok : Bool} {t0 t1 : Int} {fails : List TrainFault}
    (hs : Evolves σ s) :
    Evolves σ (doChannelRestore x ok t0 t1 fails s) :=
  .ite hs (.ite hs.startTemps.judgeRefresh.updMc.setMc.judgeRecal.channelsMoved
    (.ite hs.startTemps.judgeRefresh.updMc.failMc hs.startTemps.judgeRefresh.updMc.raise.measure.updMc.setMc.channelsMoved))

protected theorem Evolves.endLap {x : Fin 16} (hs : Evolves σ s) : Evolves σ (endLap x s) := hs.updMc

protected theorem Evolves.scrubAt {x : Fin 16} {la : Nat} {noise : Image} {par : Parity} (hs : Evolves σ s) :
    Evolves σ (scrubAt x la noise par s) := by
  unfold scrubAt
  dsimp only
  refine hs.chanAccess fun _ h => ?_
  split
  · refine .updMc ?_
    split
    · exact h.updMc.perfMc.readLine
    · exact h.updMc.perfMc.readLine.writeLine
    · exact h.updMc.perfMc.readLine
  · refine .endLap ?_
    split
    · exact h.updMc.perfMc.readLine
    · exact h.updMc.perfMc.readLine.writeLine
    · exact h.updMc.perfMc.readLine

protected theorem Evolves.doScrubRead {x : Fin 16} {noise : Image} {par : Parity} (hs : Evolves σ s) :
    Evolves σ (doScrubRead x noise par s) := by
  unfold doScrubRead
  dsimp only
  refine .ite hs ?_
  refine .ite hs ?_
  split
  · exact hs
  · exact .ite (Evolves.ite hs.timeTo.endLap hs.timeTo).scrubAt hs

protected theorem Evolves.doCaParityError {x : Fin 16} {mpa tries : Nat} (hs : Evolves σ s) :
    Evolves σ (doCaParityError x mpa tries s) :=
  .ite hs (.ite (Evolves.ite hs.raise.logError.updMc hs.raise.logError.updMc.raise.updMc).callSpare
    (.ite hs.raise.logError.updMc hs.raise.logError.updMc.raise.updMc))

protected theorem Evolves.dropRows {x : Fin 16} {r : Nat} (hs : Evolves σ s) : Evolves σ (dropRows x r s) := hs.updMc

protected theorem Evolves.startCopy {x : Fin 16} {k : SpareCopy} (hs : Evolves σ s) :
    Evolves σ (startCopy x k s) := .ite ((Evolves.ite hs hs.dropRows).updMc) (((Evolves.ite hs hs.dropRows).updMc).raise)

protected theorem Evolves.spareCmd {m : Master} {x : Fin 16} {v : Word} (hs : Evolves σ s) :
    Evolves σ (spareCmd m x v s) := hs.guardWrite (fun _ h => .ite h.regWrite.startCopy h.regWrite)

protected theorem Evolves.doRankCopy {m : Master} {x : Fin 16} {v : Word} (hs : Evolves σ s) :
    Evolves σ (doRankCopy m x v s) := hs.spareCmd

protected theorem Evolves.doBankCopy {m : Master} {x : Fin 16} {v : Word} (hs : Evolves σ s) :
    Evolves σ (doBankCopy m x v s) := hs.spareCmd

protected theorem Evolves.awnAt {m : Nat} (hs : Evolves σ s) : Evolves σ (awnAt m s).2 := by
  refine foldl_snd hs fun acc _ h => ?_
  split
  · exact h.leavesIn
  · exact h

protected theorem Evolves.writeCopied {m : Nat} {n : NewLine} {key : Nat} (hs : Evolves σ s) :
    Evolves σ (writeCopied m n key s) := by
  unfold writeCopied
  dsimp only
  refine .writeData ?_
  refine .holdPath ?_
  refine ite_snd ?_ ?_
  · dsimp only
    exact hs.holdPath
  · exact hs.holdPath.awnAt

protected theorem Evolves.poisonCopied {x : Fin 16} {m : Nat} (hs : Evolves σ s) :
    Evolves σ (poisonCopied x m s) := hs.writeCopied.raise

protected theorem Evolves.lostData {x : Fin 16} {m : Nat} (hs : Evolves σ s) : Evolves σ (lostData x m s) := by
  unfold lostData
  dsimp only
  refine .ite hs.poisonCopied ?_
  split
  · next e =>
      exact (hs.findBacked.of_eq e).poisonCopied
  · next e =>
      split
      · exact (hs.findBacked.of_eq e).holdPath.poisonCopied
      · exact (hs.findBacked.of_eq e).holdPath.openFetch

protected theorem Evolves.resyncSpan {base size : Nat} (hs : Evolves σ s) : Evolves σ (resyncSpan base size s) := by
  unfold resyncSpan
  dsimp only
  refine .ite hs ?_
  refine hs.foldl fun _ _ h => ?_
  split
  · exact h
  · exact h.leavesIn.foldl fun _ _ k => .ite (.ite k.queueTil k) (.ite k.queueTil (.ite k.queueTil k))

protected theorem Evolves.lostTags {x : Fin 16} {b sp m : Nat} (hs : Evolves σ s) : Evolves σ (lostTags x b sp m s) := by
  unfold lostTags
  dsimp only
  refine (Evolves.ite hs.writeLine.putHeld hs.writeLine).foldl fun _ _ h => ?_
  split
  · next e =>
      exact .ite (h.readLine.of_eq e).poisonCopied.resyncSpan (h.readLine.of_eq e).lostData
  · next e =>
      exact h.readLine.of_eq e

protected theorem Evolves.lostLine {x : Fin 16} {m : Nat} (hs : Evolves σ s) : Evolves σ (lostLine x m s) := by
  unfold lostLine
  dsimp only
  split
  · exact hs.failNode.resyncSpan
  · exact (Evolves.ite hs.writeLine.putHeld hs.writeLine).foldl fun _ _ h => h.resyncSpan
  · exact hs.lostTags
  · exact hs.lostTags
  · exact hs.poisonCopied.resyncSpan
  · exact hs.lostData
  · exact hs.poisonCopied

protected theorem Evolves.endRankCopy {x : Fin 16} {k : SpareCopy} (hs : Evolves σ s) :
    Evolves σ (endRankCopy x k s) := hs.regSetField.regSetField.dropRows.updMc.raise

protected theorem Evolves.endBankCopy {x : Fin 16} {k : SpareCopy} (hs : Evolves σ s) : Evolves σ (endBankCopy x k s) := by
  unfold endBankCopy
  dsimp only
  split
  · exact hs.updMc.raise.setVerdict
  · exact hs.updMc.raise

protected theorem Evolves.judgeWaiting {x : Fin 16} (hs : Evolves σ s) :
    Evolves σ (judgeWaiting x s) := hs.foldl fun _ _ h => h.updMc.raise

protected theorem Evolves.loseLine {x : Fin 16} {m : Nat} (hs : Evolves σ s) :
    Evolves σ (loseLine x m s) := .ite hs.updMc hs.lostLine

protected theorem Evolves.serveLost (hs : Evolves σ s) :
    Evolves σ (serveLost s) := hs.foldl fun _ _ h => h.updMc.foldl fun _ _ k => k.lostLine

protected theorem Evolves.doRankCopyLine {x : Fin 16} {noise : Image} {par : Parity} (hs : Evolves σ s) :
    Evolves σ (doRankCopyLine x noise par s) := by
  unfold doRankCopyLine
  dsimp only
  split
  · exact hs
  · refine .ite hs ?_
    refine hs.chanAccess fun _ h => ?_
    refine .ite ?_ ?_
    · split
      · exact h.readLine.updMc.writeLine
      · exact h.readLine.updMc.loseLine
    · refine .judgeWaiting ?_
      refine .ite ?_ ?_
      · refine .endBankCopy ?_
        split
        · exact h.readLine.updMc.writeLine
        · exact h.readLine.updMc.loseLine
      · refine .endRankCopy ?_
        split
        · exact h.readLine.updMc.writeLine
        · exact h.readLine.updMc.loseLine

protected theorem Evolves.decideRetireBank {slot x0 rank subch bg ba : Nat} (hs : Evolves σ s) :
    Evolves σ (decideRetireBank slot x0 rank subch bg ba s).2 := by
  unfold decideRetireBank
  dsimp only
  refine ite_snd hs ?_
  refine ite_snd hs ?_
  refine ite_snd hs ?_
  refine ite_snd hs ?_
  split
  · exact hs
  · dsimp only
    exact hs.startCopy

/-! ## TilFlit -/

protected theorem Evolves.updCredit {i : Fin 8} {f : Credit → Credit} (hs : Evolves σ s) :
    Evolves σ (updCredit i f s) := hs.frame

protected theorem Evolves.freeCredit {m : TilMsg} (hs : Evolves σ s) : Evolves σ (freeCredit m s) := hs.updCredit.updCredit

protected theorem Evolves.flitCtl (hs : Evolves σ s) : Evolves σ (flitCtl s).2 := by
  unfold flitCtl
  dsimp only
  exact hs.updCredit.frame

protected theorem Evolves.sendOne {type seq : Nat} {payload : BitVec 1888} (hs : Evolves σ s) :
    Evolves σ (sendOne type seq payload s) := by
  unfold sendOne
  dsimp only
  exact (Evolves.ite hs.flitCtl.disarm hs.flitCtl).frame.emit

protected theorem Evolves.sendFlit {type seq : Nat} {payload : BitVec 1888} (hs : Evolves σ s) :
    Evolves σ (sendFlit type seq payload s) := (Evolves.ite hs.sendOne hs).sendOne

/-! ## TilLink -/

protected theorem Evolves.setRole {r : Role} (hs : Evolves σ s) : Evolves σ (setRole r s) := hs.frame

protected theorem Evolves.judgeSync (hs : Evolves σ s) : Evolves σ (judgeSync s) := by
  unfold judgeSync
  dsimp only
  split
  · exact .ite hs.frame.raise hs
  · exact .ite (.ite hs hs.frame.raise) hs.frame.raiseIf
  · exact hs

protected theorem Evolves.pairLinkLost (hs : Evolves σ s) :
    Evolves σ (pairLinkLost s) := (Evolves.ite hs.frame.endAccepted hs.frame).judgeSync

protected theorem Evolves.tilEnter {st : TilState} (hs : Evolves σ s) : Evolves σ (tilEnter st s) := hs.frame

protected theorem Evolves.tilTrain (hs : Evolves σ s) : Evolves σ (tilTrain s) := hs.frame.tilEnter

protected theorem Evolves.tilDown {cause : Nat} (hs : Evolves σ s) :
    Evolves σ (tilDown cause s) := .ite hs hs.frame.regSetField.raiseBits.tilEnter.pairLinkLost

protected theorem Evolves.judgeHold (hs : Evolves σ s) : Evolves σ (judgeHold s) := by
  unfold judgeHold
  split
  · exact .ite hs.tilEnter hs
  · exact .ite hs hs.tilTrain
  · exact hs

protected theorem Evolves.doTilDownIdleEnd (hs : Evolves σ s) :
    Evolves σ (doTilDownIdleEnd s) := .ite hs.judgeHold.timeTo.tilTrain hs.judgeHold

protected theorem Evolves.tilCtl {m : Master} {v : Word} (hs : Evolves σ s) :
    Evolves σ (tilCtl m v s) :=
  hs.guardWrite (fun _ h => (Evolves.ite h.judgeHold.regWrite.tilDown h.judgeHold.regWrite).judgeHold)

protected theorem Evolves.doTilLanesAdapted (hs : Evolves σ s) : Evolves σ (doTilLanesAdapted s) := .ite hs.tilEnter hs

protected theorem Evolves.doTilTrainTimeout (hs : Evolves σ s) : Evolves σ (doTilTrainTimeout s) := .ite hs.timeTo.tilDown hs

protected theorem Evolves.doTilQuadsLocked (hs : Evolves σ s) : Evolves σ (doTilQuadsLocked s) := .ite hs.frame.tilEnter hs

protected theorem Evolves.doTilAttestTimeout (hs : Evolves σ s) :
    Evolves σ (doTilAttestTimeout s) := .ite hs.timeTo.tilDown hs

protected theorem Evolves.doSymbolLockLost {q : Fin 4} (hs : Evolves σ s) :
    Evolves σ (doSymbolLockLost q s) := .ite hs.frame.raise hs

protected theorem Evolves.doSymbolLockRegained {q : Fin 4} (hs : Evolves σ s) :
    Evolves σ (doSymbolLockRegained q s) := .ite hs.frame hs

protected theorem Evolves.doLockLoss {q : Fin 4} (hs : Evolves σ s) : Evolves σ (doLockLoss q s) := by
  unfold doLockLoss
  split
  · exact .ite hs.timeTo.tilDown hs
  · exact hs

protected theorem Evolves.restartTimer (hs : Evolves σ s) : Evolves σ (restartTimer s) := hs.frame

protected theorem Evolves.takeAck {c : FlitCtl} (hs : Evolves σ s) :
    Evolves σ (takeAck c s) := .ite hs (.ite (.ite hs.frame.restartTimer hs.frame) hs.tilDown)

protected theorem Evolves.takeNak {c : FlitCtl} (hs : Evolves σ s) : Evolves σ (takeNak c s) := by
  unfold takeNak
  dsimp only
  refine .ite hs ?_
  split
  · exact hs.tilDown
  · exact .ite (hs.frame.raise.foldl fun _ _ h => h.sendFlit) hs.tilDown

protected theorem Evolves.takeReturn {c : FlitCtl} (hs : Evolves σ s) :
    Evolves σ (takeReturn c s) := .ite hs (.ite (.ite hs.updCredit.restartTimer hs.updCredit) hs.tilDown)

protected theorem Evolves.takeCtl {c : FlitCtl} (hs : Evolves σ s) :
    Evolves σ (takeCtl c s) := .ite hs hs.takeAck.takeNak.takeReturn

protected theorem Evolves.takeRx {r : RxFlit} (hs : Evolves σ s) :
    Evolves σ (takeRx r s) := .ite hs (.ite hs.frame.takeCtl.tilDown hs.frame.takeCtl)

protected theorem Evolves.acceptSeq {seq : Nat} {u : State} (hs : Evolves σ s) (e : acceptSeq seq s = some u) :
    Evolves σ u := by
  unfold acceptSeq at e
  split at e
  · exact Option.some.inj e ▸ hs.frame
  · cases e

protected theorem Evolves.takePayloads {clear : Bool} {ps : List (Nat × List Byte)} (hs : Evolves σ s) :
    Evolves σ (takePayloads clear ps s) := by
  unfold takePayloads
  dsimp only
  split
  · exact hs.tilDown
  · exact .ite hs.tilDown hs.frame

protected theorem Evolves.doDataFlit {rx : RxFlit} {seq : Nat} {payload : BitVec 1888} (hs : Evolves σ s) :
    Evolves σ (doDataFlit rx seq payload s) := by
  unfold doDataFlit
  dsimp only
  split
  · exact hs.takeRx
  · next e =>
      exact .ite (hs.takeRx.acceptSeq e).frame (hs.takeRx.acceptSeq e).takePayloads

protected theorem Evolves.doMacFlit {rx : RxFlit} {seq : Nat} {payload : BitVec 1888} (hs : Evolves σ s) :
    Evolves σ (doMacFlit rx seq payload s) := by
  unfold doMacFlit
  dsimp only
  split
  · exact hs.takeRx
  · next e =>
      split
      · exact (hs.takeRx.acceptSeq e).tilDown
      · exact .ite (hs.takeRx.acceptSeq e).frame.takePayloads (hs.takeRx.acceptSeq e).tilDown

protected theorem Evolves.freeSpdm (hs : Evolves σ s) : Evolves σ (freeSpdm s) := hs.frame.queueTil

protected theorem Evolves.enterAttest {bs : List Byte} (hs : Evolves σ s) :
    Evolves σ (enterAttest bs s) := .ite hs.frame.tilEnter.freeSpdm hs.frame.tilEnter

protected theorem Evolves.doInitFlit {payload : BitVec 1888} (hs : Evolves σ s) : Evolves σ (doInitFlit payload s) := by
  unfold doInitFlit
  dsimp only
  split
  · exact .ite hs.tilDown (.ite hs.enterAttest hs.frame)
  · exact hs.tilDown
  · exact hs.tilDown
  · exact hs

protected theorem Evolves.askReplay (hs : Evolves σ s) : Evolves σ (askReplay s) := .ite hs.frame hs

protected theorem Evolves.doFailedFlit {crc : Bool} {codewords : Nat} (hs : Evolves σ s) :
    Evolves σ (doFailedFlit crc codewords s) :=
  .ite hs (Evolves.ite (.ite hs.frame.raise hs) (Evolves.ite hs.frame.raise hs).frame.raise).askReplay

protected theorem Evolves.doNakResend (hs : Evolves σ s) : Evolves σ (doNakResend s) := .ite hs.timeTo.askReplay hs

protected theorem Evolves.doPairTimeout (hs : Evolves σ s) : Evolves σ (doPairTimeout s) := .ite hs.timeTo.tilDown hs

protected theorem Evolves.takeDelivered {d : TilMsg × Nat} (hs : Evolves σ s) :
    Evolves σ (takeDelivered d s) := hs.frame.freeCredit

protected theorem Evolves.takeSpdm {u : State} (hs : Evolves σ s) (e : takeSpdm s = some u) : Evolves σ u := by
  obtain ⟨d, -, rfl⟩ := Option.map_eq_some_iff.1 e
  exact hs.takeDelivered

protected theorem Evolves.sendLinkKey (hs : Evolves σ s) : Evolves σ (sendLinkKey s) := by
  unfold sendLinkKey
  dsimp only
  exact hs.drawBits.drawBits.frame.freeSpdm

protected theorem Evolves.installTx {k : LinkKey} (hs : Evolves σ s) :
    Evolves σ (installTx k s) := hs.frame.foldl fun _ _ h => h.freeSpdm

protected theorem Evolves.spdmStep {st : SpdmStep} (hs : Evolves σ s) : Evolves σ (spdmStep st s) := by
  unfold spdmStep
  refine .ite hs ?_
  split
  · exact hs.freeSpdm
  · exact .ite hs.tilDown (.ite hs hs.sendLinkKey)
  · split
    · exact hs.installTx
    · exact hs

protected theorem Evolves.doTillerSpdm {st : SpdmStep} (hs : Evolves σ s) : Evolves σ (doTillerSpdm st s) := by
  unfold doTillerSpdm
  split
  · next e =>
      exact (hs.takeSpdm e).spdmStep
  · exact hs

protected theorem Evolves.doLinkKey {key : BitVec 256} {fixed : BitVec 32} {start : Nat} (hs : Evolves σ s) :
    Evolves σ (doLinkKey key fixed start s) := by
  unfold doLinkKey
  dsimp only
  split
  · exact hs
  · next e =>
      exact .ite (hs.takeSpdm e).frame.freeSpdm (hs.takeSpdm e)

protected theorem Evolves.doAttestDone (hs : Evolves σ s) :
    Evolves σ (doAttestDone s) := .ite (.ite hs.frame.tilEnter.frame.queueTil hs.frame.tilEnter) hs

/-! ## Pair -/

protected theorem Evolves.tilMessage {m : TilMsg} {addr : Nat} {keyed : Bool} {par : Parity} {f : Bool → State → State}
    (hs : Evolves σ s) (hf : ∀ a u, Evolves σ u → Evolves σ (f a u)) :
    Evolves σ (tilMessage m addr keyed par f s) := by
  unfold tilMessage
  dsimp only
  split
  · exact hs
  · split
    · exact hs.stageParity.fatalParity
    · exact hf _ _ hs.stageParity.raise.takeDelivered
    · exact hf _ _ hs.stageParity.takeDelivered

protected theorem Evolves.ackMirror {h : MirrorHdr} {result : Nat} (hs : Evolves σ s) :
    Evolves σ (ackMirror h result s) := hs.queueTil

protected theorem Evolves.mirrorEnter {par : Parity} {h : MirrorHdr} {op : HomeOp} {data : Line} {be : BitVec 64}
    {contained : Bool} (hs : Evolves σ s) :
    Evolves σ (mirrorEnter par h op data be contained s) := by
  unfold mirrorEnter
  dsimp only
  split
  · exact hs.ackMirror
  · exact (Evolves.ite hs.takeSeq.frame hs.takeSeq).updPort.pumpIngress

protected theorem Evolves.takeMirror {par : Parity} {h : MirrorHdr} {op : HomeOp} {data : Line} {be : BitVec 64}
    {m : TilMsg} (hs : Evolves σ s) :
    Evolves σ (takeMirror par h op data be m s) :=
  .ite hs (hs.tilMessage (fun _ _ k => .ite k.frame.raise.ackMirror k.mirrorEnter))

protected theorem Evolves.doMirrorWr {h : MirrorHdr} {data : Line} {par : Parity} (hs : Evolves σ s) :
    Evolves σ (doMirrorWr h data par s) := hs.takeMirror

protected theorem Evolves.doMirrorPwr {h : MirrorHdr} {mask : BitVec 64} {data : Line} {par : Parity} (hs : Evolves σ s) :
    Evolves σ (doMirrorPwr h mask data par s) := hs.takeMirror

protected theorem Evolves.listPage {ldTag dpa : Nat} (hs : Evolves σ s) :
    Evolves σ (listPage ldTag dpa s) := .ite hs (.ite hs.frame hs.frame)

protected theorem Evolves.pageAcked {ldTag dpa : Nat} {refused : Bool} (hs : Evolves σ s) :
    Evolves σ (pageAcked ldTag dpa refused s) := hs.frame

protected theorem Evolves.closeMirror {o : OpenMirror} {result : Nat} (hs : Evolves σ s) :
    Evolves σ (closeMirror o result s) := by
  unfold closeMirror
  dsimp only
  split
  · exact (Evolves.ite hs.frame.restartTimer.frame.raise.listPage hs.frame.restartTimer).pageAcked
  · split
    · exact (Evolves.ite hs.frame.restartTimer.frame.raise.listPage hs.frame.restartTimer).respond.settle
    · exact .ite hs.frame.restartTimer.frame.raise.listPage hs.frame.restartTimer

protected theorem Evolves.doMirrorAck {mirrorId result : Nat} (hs : Evolves σ s) :
    Evolves σ (doMirrorAck mirrorId result s) := by
  unfold doMirrorAck
  refine hs.tilMessage fun _ _ h => ?_
  split
  · exact h.closeMirror
  · exact h

protected theorem Evolves.mappedLine {ldTag dpa key : Nat} (hs : Evolves σ s) : Evolves σ (mappedLine ldTag dpa key s).2 := by
  unfold mappedLine
  dsimp only
  split
  · next e =>
      dsimp only
      exact hs.mappedPage.of_eq e
  · next e =>
      refine ite_snd ?_ ?_
      · split
        · dsimp only
          exact (hs.mappedPage.of_eq e).holdPath.readDesc.readCause
        · refine ite_snd ?_ ?_
          · dsimp only
            exact (hs.mappedPage.of_eq e).holdPath.readDesc.holdPath.readData.readCause
          · split
            · next e₃ =>
                dsimp only
                exact (hs.mappedPage.of_eq e).holdPath.readDesc.readBlock.of_eq e₃
            · next e'2 =>
                dsimp only
                exact (hs.mappedPage.of_eq e).holdPath.readDesc.readBlock.of_eq e'2
      · dsimp only
        exact (hs.mappedPage.of_eq e).holdPath.readData.readCause

protected theorem Evolves.doLineFetch {ldTag fetchId key dpa : Nat} {par : Parity} (hs : Evolves σ s) :
    Evolves σ (doLineFetch ldTag fetchId key dpa par s) := by
  unfold doLineFetch
  refine .ite hs ?_
  refine hs.tilMessage fun _ _ h => ?_
  refine .ite h.queueTil ?_
  refine .ite h.queueTil ?_
  split
  · next e =>
      exact (h.mappedLine.of_eq e).queueTil
  · next e =>
      exact (h.mappedLine.of_eq e).queueTil
  · next e =>
      exact (h.mappedLine.of_eq e).queueTil

protected theorem Evolves.closeFetch {f : OpenFetch} {data : Option Line} (hs : Evolves σ s) :
    Evolves σ (closeFetch f data s) := by
  unfold closeFetch
  dsimp only
  refine .ite hs.frame.restartTimer ?_
  split
  · exact hs.frame.restartTimer.writeCopied.raise
  · exact hs.frame.restartTimer.poisonCopied

protected theorem Evolves.doLineData {fetchId result : Nat} {data : Line} (hs : Evolves σ s) :
    Evolves σ (doLineData fetchId result data s) := by
  unfold doLineData
  refine .ite hs ?_
  refine hs.tilMessage fun _ _ h => ?_
  split
  · exact h.closeFetch
  · exact h

protected theorem Evolves.sendCopyLine {ldTag key page dpa : Nat} {l : PageLine} (hs : Evolves σ s) :
    Evolves σ (sendCopyLine ldTag key page dpa l s) := by
  unfold sendCopyLine
  dsimp only
  split
  · exact hs.openMirror.queueTil
  · exact hs.openMirror.queueTil
  · exact hs.openMirror.queueTil

protected theorem Evolves.sendPage {ldTag dpa : Nat} (hs : Evolves σ s) : Evolves σ (sendPage ldTag dpa s) := by
  unfold sendPage
  split
  · next e => exact (hs.mappedPage.of_eq e).queueTil
  · next r leaf s1 e =>
    have hread (m : Move) : Evolves σ (Machine.readSource m r.awn 0 s1).2.2 := (hs.mappedPage.of_eq e).readSource
    extract_lets b fwd m
    generalize hx : Machine.readSource m r.awn 0 s1 = x
    obtain ⟨ls, key, s2⟩ := x
    have h2 : Evolves σ s2 := (hread m).of_eq₂ hx
    dsimp only
    split
    · exact h2.queueTil
    · exact .ite h2.queueTil (h2.foldl fun _ _ h => h.sendCopyLine)

protected theorem Evolves.syncAll (hs : Evolves σ s) :
    Evolves σ (syncAll s) := hs.eachSpk (fun _ _ h => h.foldl fun _ _ h' => h'.queueSync)

protected theorem Evolves.endCopy {j : CopyJob} (hs : Evolves σ s) :
    Evolves σ (endCopy j s) := .ite hs.frame.syncAll.queueTil hs.frame.queueTil

protected theorem Evolves.doResyncCopyPage (hs : Evolves σ s) : Evolves σ (doResyncCopyPage s) := by
  unfold doResyncCopyPage
  dsimp only
  refine .ite hs ?_
  split
  · exact hs
  · split
    · exact hs.endCopy
    · exact .ite hs (.ite hs.frame.sendPage.endCopy hs.frame.sendPage)

protected theorem Evolves.doResyncListResend (hs : Evolves σ s) :
    Evolves σ (doResyncListResend s) := .ite hs (hs.foldl fun _ _ h => .ite h.frame.sendPage.pageAcked h.frame.sendPage)

protected theorem Evolves.doResyncReq {ldTag size dpa : Nat} {par : Parity} (hs : Evolves σ s) :
    Evolves σ (doResyncReq ldTag size dpa par s) := hs.tilMessage (fun _ _ h => .ite h.queueTil h.frame)

protected theorem Evolves.doResyncZero {ldTag dpa : Nat} {par : Parity} (hs : Evolves σ s) :
    Evolves σ (doResyncZero ldTag dpa par s) := by
  unfold doResyncZero
  dsimp only
  refine .ite hs ?_
  split
  · next e =>
      exact hs.blankPageStep.of_eq e
  · next e =>
      exact (hs.blankPageStep.of_eq e).tilMessage (fun _ _ h => h.frame)

protected theorem Evolves.doResyncDone {ldTag size dpa : Nat} {all failed : Bool} (hs : Evolves σ s) :
    Evolves σ (doResyncDone ldTag size dpa all failed s) := hs.tilMessage (fun _ _ h => .ite h.frame.judgeSync h)

protected theorem Evolves.ownSector {ldTag dpaSector : Nat} (hs : Evolves σ s) :
    Evolves σ (ownSector ldTag dpaSector s).2 := by
  unfold ownSector
  dsimp only
  split
  · next e3 =>
      dsimp only
      exact hs.lookLeaf.of_eq e3
  · next e =>
      split
      · next e' =>
          dsimp only
          exact (hs.lookLeaf.of_eq e).backPage.lookLeaf.of_eq e'
      · next e' =>
          dsimp only
          exact (hs.lookLeaf.of_eq e).backPage.lookLeaf.of_eq e'

protected theorem Evolves.shadowFree {region dpaSector : Nat} (hs : Evolves σ s) :
    Evolves σ (shadowFree region dpaSector s) := hs.eachSpk (fun _ _ h => h.updSpk)

protected theorem Evolves.storeUpdate {u : SfUpdate} (hs : Evolves σ s) : Evolves σ (storeUpdate u s) := by
  unfold storeUpdate
  dsimp only
  split
  · exact hs
  · refine .ite hs.shadowFree ?_
    split
    · next e' =>
        exact hs.shadowFree.ownSector.of_eq e'
    · next e' =>
        exact .ite (hs.shadowFree.ownSector.of_eq e').updSpk (hs.shadowFree.ownSector.of_eq e').updSpk.frame.queueTil

protected theorem Evolves.doSfSync {us : List SfUpdate} (hs : Evolves σ s) :
    Evolves σ (doSfSync us s) := .ite hs (hs.tilMessage (fun _ _ h => (h.foldl fun _ _ k => k.storeUpdate).judgeSync))

protected theorem Evolves.doSfReject {u : SfUpdate} (hs : Evolves σ s) : Evolves σ (doSfReject u s) := by
  unfold doSfReject
  dsimp only
  refine .ite hs ?_
  split
  · exact .ite hs (hs.tilMessage (fun _ _ h => h.frame.evictEntry.settle))
  · exact hs.tilMessage (fun _ _ h => h.frame.queueSync)

protected theorem Evolves.doSyncLagExpiry (hs : Evolves σ s) : Evolves σ (doSyncLagExpiry s) := by
  unfold doSyncLagExpiry
  dsimp only
  split
  · exact hs
  · exact .ite hs (Evolves.ite hs hs.timeTo).frame.syncAll

protected theorem Evolves.judgeLag (hs : Evolves σ s) : Evolves σ (judgeLag s) := .ite hs.frame hs

protected theorem Evolves.doHeartbeatSend (hs : Evolves σ s) :
    Evolves σ (doHeartbeatSend s) :=
  .ite hs (.ite (.ite hs.frame.judgeLag.frame.disarm hs.frame.judgeLag)
    (Evolves.ite hs.frame.judgeLag.frame.disarm hs.frame.judgeLag).queueTil)

protected theorem Evolves.setEpoch {e : Nat} (hs : Evolves σ s) : Evolves σ (setEpoch e s) := hs.regSetField

protected theorem Evolves.doHeartbeat {role : Nat} {synced : Bool} {epoch oldest : Nat} (hs : Evolves σ s) :
    Evolves σ (doHeartbeat role synced epoch oldest s) :=
  hs.tilMessage (fun _ _ h => .ite h.frame.frame.setEpoch.judgeSync h.frame)

protected theorem Evolves.doHbMiss (hs : Evolves σ s) : Evolves σ (doHbMiss s) := .ite hs.timeTo.raise.tilDown hs

protected theorem Evolves.doTimeReqSend (hs : Evolves σ s) : Evolves σ (doTimeReqSend s) := .ite hs.queueTil hs

protected theorem Evolves.doTimeReq {t1 : Nat} (hs : Evolves σ s) :
    Evolves σ (doTimeReq t1 s) := hs.tilMessage (fun _ _ h => .ite h.queueTil h)

protected theorem Evolves.thetaOf {t1 t2 t3 t4 : Nat} (hs : Evolves σ s) : Evolves σ (thetaOf t1 t2 t3 t4 s).2 := by
  unfold thetaOf
  dsimp only
  refine ite_snd hs ?_
  dsimp only
  exact hs.drawChoice

protected theorem Evolves.doTimeRsp {t2 t3 : Nat} (hs : Evolves σ s) : Evolves σ (doTimeRsp t2 t3 s) := by
  unfold doTimeRsp
  dsimp only
  exact hs.tilMessage (fun _ _ h => .ite h (.ite h.thetaOf.frame (.ite h.thetaOf.frame h.thetaOf.frame)))

protected theorem Evolves.bumpGen (hs : Evolves σ s) : Evolves σ (bumpGen s) := hs.regSet

protected theorem Evolves.enablePorts (hs : Evolves σ s) :
    Evolves σ (enablePorts s) := hs.eachPort (fun _ _ h => h.queuedEnable.pumpFreed)

protected theorem Evolves.formRefused (hs : Evolves σ s) : Evolves σ (formRefused s) := hs.regSetField.raise

protected theorem Evolves.decideForm {r : FormReq} (hs : Evolves σ s) : Evolves σ (decideForm r s) := by
  unfold decideForm
  dsimp only
  refine .ite hs.formRefused.queueTil ?_
  split
  · exact hs.formRefused.queueTil
  · have h2 {c : Prop} [Decidable c] : Evolves σ (if c then (drawChoice 2 s).2 else s) := .ite hs.drawChoice hs
    refine .ite ?_ h2
    refine .enablePorts (.frame (.ite h2 ?_))
    split
    · exact h2.setRole.bumpGen
    · exact h2.setRole

protected theorem Evolves.doFormReq {r : FormReq} (hs : Evolves σ s) :
    Evolves σ (doFormReq r s) := hs.tilMessage (fun _ _ h => .ite h.frame.decideForm h)

protected theorem Evolves.doFormRspSend (hs : Evolves σ s) : Evolves σ (doFormRspSend s) := by
  unfold doFormRspSend
  dsimp only
  split
  · exact .ite hs hs.timeTo.frame.queueTil
  · exact hs

protected theorem Evolves.clearShadow (hs : Evolves σ s) :
    Evolves σ (clearShadow s) := hs.frame.eachSpk (fun _ _ h => h.updSpk)

protected theorem Evolves.doFormRsp {result : Nat} {copy senderPrimary : Bool} (hs : Evolves σ s) :
    Evolves σ (doFormRsp result copy senderPrimary s) := by
  unfold doFormRsp
  dsimp only
  refine hs.tilMessage fun _ _ h => ?_
  refine .ite h ?_
  split
  · exact h
  · exact .ite h.frame.clearShadow.setEpoch.judgeSync h

protected theorem Evolves.doFormWaitExpiry (hs : Evolves σ s) :
    Evolves σ (doFormWaitExpiry s) := .ite hs hs.timeTo.frame.bumpGen.enablePorts

protected theorem Evolves.resolveOpen (hs : Evolves σ s) :
    Evolves σ (resolveOpen s) := ((Evolves.ite hs hs.frame).foldl fun _ _ h => h.closeMirror).foldl fun _ _ h => h.closeFetch

protected theorem Evolves.doPrimaryResolveOpen (hs : Evolves σ s) :
    Evolves σ (doPrimaryResolveOpen s) := .ite hs hs.timeTo.frame.resolveOpen.bumpGen.raise

protected theorem Evolves.partnerLeft (hs : Evolves σ s) : Evolves σ (partnerLeft s) := hs.frame

protected theorem Evolves.doLeaveMsg (hs : Evolves σ s) :
    Evolves σ (doLeaveMsg s) := hs.tilMessage (fun _ _ h => .ite h.partnerLeft h)

protected theorem Evolves.enterDetached (hs : Evolves σ s) : Evolves σ (enterDetached s) := hs.frame.resolveOpen

protected theorem Evolves.doPromoteGraceExpiry (hs : Evolves σ s) :
    Evolves σ (doPromoteGraceExpiry s) := .ite hs hs.timeTo.enterDetached

protected theorem Evolves.holdPorts (hs : Evolves σ s) : Evolves σ (holdPorts s) := by
  refine hs.eachPort fun p t h => ?_
  split
  · next he => exact h.updPort_of_start (h.start_ne_viral (by rw [he]; decide))
  · exact h

protected theorem Evolves.doPairFenceLow (hs : Evolves σ s) :
    Evolves σ (doPairFenceLow s) := .ite hs (.ite hs.frame.holdPorts.frame.raise hs.frame.holdPorts)

protected theorem Evolves.afterFence {p : Fin 4} (hs : Evolves σ s) :
    Evolves σ (afterFence p s) := .ite hs.pumpFreed (hs.foldl fun _ _ h => h.dropReq.refuseHost)

protected theorem Evolves.doPairFenceReleased (hs : Evolves σ s) :
    Evolves σ (doPairFenceReleased s) :=
  (Evolves.ite hs.frame.setRole hs.frame.enablePorts).eachPort (fun _ _ h => h.afterFence)

protected theorem Evolves.doOwnAssert (hs : Evolves σ s) : Evolves σ (doOwnAssert s) := .ite hs hs.timeTo.frame

protected theorem Evolves.doOwnConflict (hs : Evolves σ s) :
    Evolves σ (doOwnConflict s) := .ite hs (.ite hs.frame hs.frame.frame.raise)

protected theorem Evolves.doWatchdogExpiry (hs : Evolves σ s) : Evolves σ (doWatchdogExpiry s) := hs.frame

protected theorem Evolves.doPairPeerOwnNChange {high : Bool} (hs : Evolves σ s) :
    Evolves σ (doPairPeerOwnNChange high s) := hs.frame

protected theorem Evolves.beginPromotion (hs : Evolves σ s) : Evolves σ (beginPromotion s) := hs.tilDown.frame

protected theorem Evolves.doPromoteStart (hs : Evolves σ s) : Evolves σ (doPromoteStart s) := .ite hs hs.timeTo.beginPromotion

protected theorem Evolves.adoptShadow (hs : Evolves σ s) : Evolves σ (adoptShadow s) := by
  refine hs.eachSpk fun k t h => ?_
  refine .foldl (.foldl h.updSpk fun u e h => .ite h ?_) fun u r h => ?_
  · split
    · next e => exact h.ownSector.of_eq e
    · next e =>
      have h := h.ownSector.of_eq e
      split
      · exact h.sfPut
      · exact h.evictEntry.sfPut
      · exact h
  · split
    · next e => exact (h.ownSector.of_eq e).takeSeq.updSpk.sendBis
    · next e _ => exact h.ownSector.of_eq e

protected theorem Evolves.doPromoteSealed (hs : Evolves σ s) :
    Evolves σ (doPromoteSealed s) :=
  .ite hs (hs.timeTo.frame.setEpoch.bumpGen.setOrdered.frame.adoptShadow.resolveOpen.eachPort
    (fun _ _ h => .ite h.updPort h)).enablePorts.raise

protected theorem Evolves.doReissueWindowEnd (hs : Evolves σ s) :
    Evolves σ (doReissueWindowEnd s) := .ite hs ((hs.timeTo.raiseIf.frame).endReissue)

protected theorem Evolves.beginHandover (hs : Evolves σ s) : Evolves σ (beginHandover s) := hs.frame

protected theorem Evolves.doLeave (hs : Evolves σ s) :
    Evolves σ (doLeave s) := (((Evolves.ite hs.queueTil hs).frame).holdPorts).enterDetached

protected theorem Evolves.pairCtl {m : Master} {v : Word} (hs : Evolves σ s) :
    Evolves σ (pairCtl m v s) :=
  hs.guardWrite (fun _ h => .ite (Evolves.ite h.beginHandover h).doLeave (.ite h.beginHandover h))

protected theorem Evolves.doHandoverSend (hs : Evolves σ s) :
    Evolves σ (doHandoverSend s) :=
  .ite hs ((hs.queueTil.eachPort (fun _ _ h => h.discardLink)).holdPorts.eachSpk
    (fun _ _ h => h.updSpk)).frame.clearShadow.endAccepted

protected theorem Evolves.doHandoverMsg {epoch : Nat} (hs : Evolves σ s) :
    Evolves σ (doHandoverMsg epoch s) := hs.tilMessage (fun _ _ h => .ite h.setEpoch.beginPromotion h)

/-! ## Startup -/

protected theorem Evolves.stocksBack (hs : Evolves σ s) : Evolves σ (stocksBack s) := hs.frame.foldl fun _ _ h => h.returnPage

/-- The core rails are gone
  (R407): what the tables keep of their entries stays in order, and a domain that was up stays so. -/
protected theorem Evolves.railsLost (hs : Evolves σ s) (hd : σ.domainDown = false) : Evolves σ (railsLost s) := by
  have h := hs.stocksBack
  refine ⟨fun hr => ksorted_filter (h.regs hr), h.dram, fun hc i => ?_, h.pending, ?_, ?_⟩
  · show (State.reset.headers.set blkHusk (stocksBack s).headers[blkHusk])[i].errCount < 2 ^ 48
    simp only [Fin.getElem_fin, Vector.getElem_set]
    split
    · exact h.counts hc blkHusk
    · simp [State.reset, Header.init]
  · intro hd'
    simp [kept, hd] at hd'
  · intro hd'
    simp [kept, hd] at hd'

protected theorem Evolves.avsSend (hs : Evolves σ s) : Evolves σ (avsSend s) := by
  unfold avsSend
  dsimp only
  split
  · exact hs
  · exact .ite hs hs.frame.emit

protected theorem Evolves.avsAsk {rs : List (Bool × Nat)} (hs : Evolves σ s) : Evolves σ (avsAsk rs s) := hs.frame.avsSend

protected theorem Evolves.avsEnd (hs : Evolves σ s) : Evolves σ (avsEnd s) := hs.frame.avsSend

protected theorem Evolves.doAvsAck (hs : Evolves σ s) : Evolves σ (doAvsAck s) := by
  unfold doAvsAck
  dsimp only
  split
  · exact hs.frame.avsEnd
  · exact hs

protected theorem Evolves.doAvsTimeout (hs : Evolves σ s) :
    Evolves σ (doAvsTimeout s) := .ite hs (.ite hs.frame.raise.frame.raise hs.frame.raise.avsEnd)

protected theorem Evolves.doAvsRequest {m : Master} {v : Word} (hs : Evolves σ s) :
    Evolves σ (doAvsRequest m v s) :=
  hs.guardWrite (fun _ h => .ite h (Evolves.ite (Evolves.ite h.regSetField h).regSetField (.ite h.regSetField h)).avsAsk)

protected theorem Evolves.restoreRegs {save : KMap Word} (hs : Evolves σ s) :
    Evolves σ (restoreRegs save s) := hs.foldl fun _ _ h => h.regSet

protected theorem Evolves.restoreSlots {r : Seal} (hs : Evolves σ s) : Evolves σ (restoreSlots r s) := by
  unfold restoreSlots
  refine hs.foldl fun _ _ h => ?_
  split
  · exact h.setSlot.setCopies
  · exact h

protected theorem Evolves.setResults {first : Bool} {r1 r2 : Nat} (hs : Evolves σ s) :
    Evolves σ (setResults first r1 r2 s) := hs.frame

protected theorem Evolves.loadImage {b : Bool} {i : SolvikImage} {digest : BitVec 384} (hs : Evolves σ s) :
    Evolves σ (loadImage b i digest s) := hs.frame.setFields.newWindow

protected theorem Evolves.enterRecovery (hs : Evolves σ s) : Evolves σ (enterRecovery s) := hs.frame.leaveReset

protected theorem Evolves.doColdStartImage (hs : Evolves σ s) : Evolves σ (doColdStartImage s) := by
  unfold doColdStartImage
  dsimp only
  refine .ite hs ?_
  split
  · exact hs.frame.setResults.loadImage.eachPort (fun _ _ h => h.leaveReset)
  · split
    · exact hs.frame.setResults.loadImage.eachPort (fun _ _ h => h.leaveReset)
    · exact hs.frame.setResults.enterRecovery

protected theorem Evolves.doColdStartRails (hs : Evolves σ s) : Evolves σ (doColdStartRails s) := by
  unfold doColdStartRails
  dsimp only
  split
  · exact hs
  · exact .ite hs hs.frame.syncCrossings.avsAsk

protected theorem Evolves.outputsOn {i : SolvikImage} (hs : Evolves σ s) :
    Evolves σ (outputsOn i s) := hs.foldl fun _ _ h => .ite h.commandOn h

protected theorem Evolves.doColdStartPower (hs : Evolves σ s) : Evolves σ (doColdStartPower s) := by
  unfold doColdStartPower
  dsimp only
  split
  · exact hs
  · exact .ite hs (hs.frame.eachMc (fun _ _ h => h.updMc.setMc)).setFields.outputsOn.enablePmics

protected theorem Evolves.doColdStartKeys (hs : Evolves σ s) : Evolves σ (doColdStartKeys s) := by
  unfold doColdStartKeys
  dsimp only
  exact .ite hs hs.drawBits.drawBits.frame.setOrdered

protected theorem Evolves.fillActivates {x : Fin 16} (hs : Evolves σ s) : Evolves σ (fillActivates x s) := hs.updMc.raise

protected theorem Evolves.doColdStartFill (hs : Evolves σ s) : Evolves σ (doColdStartFill s) := by
  have h : Evolves σ (eachMc Machine.fillActivates s) := hs.eachMc fun _ _ h => h.fillActivates
  exact .ite hs (.frame (h.setDram (D := []) fun _ => rfl))

protected theorem Evolves.placeFirm {r : Region} {w dpa : Nat} (hs : Evolves σ s) : Evolves σ (placeFirm r w dpa s) := by
  induction w generalizing dpa s with
  | zero =>
    unfold placeFirm
    split
    · next e => exact (hs.allocPage.of_eq e).writeMapping
    · next e => exact hs.allocPage.of_eq e
  | succ w ih =>
    unfold placeFirm
    dsimp only
    split
    · exact ih (ih hs)
    · split
      · exact hs.drawChoice
      · exact hs.drawChoice.setPool.writeMapping

protected theorem Evolves.mapRegions (hs : Evolves σ s) :
    Evolves σ (mapRegions s) := ((hs.frame.foldl fun _ _ h => h.placeFirm).judgePool).judgePool

protected theorem Evolves.loadInitial (hs : Evolves σ s) : Evolves σ (loadInitial s) := by
  unfold loadInitial
  split
  · exact hs
  · exact hs.foldl fun _ _ h => h.germSlot

protected theorem Evolves.putBranLine {a : Nat} {bs : List Byte} (hs : Evolves σ s) :
    Evolves σ (putBranLine a bs s) := hs.holdPath.writeData

protected theorem Evolves.putBran {n a : Nat} {bs : List Byte} (hs : Evolves σ s) : Evolves σ (putBran n a bs s) := by
  induction n generalizing a bs s with
  | zero => exact hs
  | succ n ih => exact ih hs.putBranLine

protected theorem Evolves.startBran (hs : Evolves σ s) : Evolves σ (startBran s) := by
  unfold startBran
  dsimp only
  split
  · exact hs
  · exact hs.putBran.frame

protected theorem Evolves.doColdStartLoad (hs : Evolves σ s) :
    Evolves σ (doColdStartLoad s) := .ite hs hs.mapRegions.loadInitial.installPinned.startBran.frame.syncCrossings

protected theorem Evolves.blowFuses (hs : Evolves σ s) : Evolves σ (blowFuses s) := by
  unfold blowFuses
  dsimp only
  split
  · exact hs
  · exact hs.frame

protected theorem Evolves.doRelease (hs : Evolves σ s) :
    Evolves σ (doRelease s) :=
  .ite hs ((Evolves.ite hs.frame.leaveOrdered hs.frame.leaveOrdered.blowFuses).eachPort (fun _ _ h => h.leaveTraining))

protected theorem Evolves.tilStart (hs : Evolves σ s) : Evolves σ (tilStart s) := .ite hs.tilTrain hs

protected theorem Evolves.loadLevel {c : Nat} (hs : Evolves σ s) :
    Evolves σ (loadLevel c s) := hs.foldl fun _ _ h => .ite h.culmRun h

protected theorem Evolves.abandonMove {m : Move} (hs : Evolves σ s) :
    Evolves σ (abandonMove m s) := .ite hs.frame.disownHold.returnDesc hs.frame.disownHold.returnPage

protected theorem Evolves.clearDest {m : Move} (hs : Evolves σ s) :
    Evolves σ (clearDest m s) := .ite hs.updSpk.leaveDesc hs.updSpk

protected theorem Evolves.resumeMoves (hs : Evolves σ s) :
    Evolves σ (resumeMoves s) := hs.foldl fun _ _ h => .ite h.abandonMove h.clearDest.updMove.moveInval

protected theorem Evolves.doWarmResumeCulm (hs : Evolves σ s) :
    Evolves σ (doWarmResumeCulm s) := .ite hs hs.loadLevel.loadLevel.loadLevel.installPinned.resumeMoves.frame.syncCrossings

/-! ## Clocks -/

protected theorem Evolves.dropLock {d : Nat} (hs : Evolves σ s) : Evolves σ (dropLock d s) := hs.frame

protected theorem Evolves.lockLost {d : Nat} (hs : Evolves σ s) : Evolves σ (lockLost d s) := by
  unfold lockLost
  dsimp only
  exact .ite hs.frame.raise
      (.ite hs.takeLinkDown
        (.ite (hs.dropLock.foldl fun _ _ h => h.takeLinkDown)
          (.ite hs.doSymbolLockLost (.ite hs.dropLock.tilDown (.ite hs.dropLock.goDown hs.drawChoice.dropLock.bringupFail)))))

protected theorem Evolves.doPllUnlock {d : Fin 64} (hs : Evolves σ s) :
    Evolves σ (doPllUnlock d s) := .ite hs hs.raise.lockLost

protected theorem Evolves.doTimebaseRelock (hs : Evolves σ s) : Evolves σ (doTimebaseRelock s) := hs.frame

protected theorem Evolves.takeReading {die : Fin 2} {q : Int} (hs : Evolves σ s) :
    Evolves σ (takeReading die q s) :=
  .ite (.ite (.ite hs.frame hs.frame) (Evolves.ite hs.frame hs.frame).frame.raise)
    (.ite (Evolves.ite hs.frame hs.frame).frame (.ite hs.frame hs.frame))

protected theorem Evolves.doThermalWarn {die : Fin 2} {quarterC : Int} (hs : Evolves σ s) :
    Evolves σ (doThermalWarn die quarterC s) := .ite hs.takeReading hs

protected theorem Evolves.doThermalTrip {die : Fin 2} {quarterC : Int} (hs : Evolves σ s) :
    Evolves σ (doThermalTrip die quarterC s) := .ite hs (.ite hs.takeReading hs.takeReading.frame.raise.goDown)

/-! ## Doe -/

protected theorem Evolves.freeTail {n : Nat} (hs : Evolves σ s) : Evolves σ (freeTail n s).2 := by
  unfold freeTail
  dsimp only
  exact hs.frame

protected theorem Evolves.measurement {i : Nat} (hs : Evolves σ s) : Evolves σ (measurement i s).2 := by
  unfold measurement
  dsimp only
  refine ite_snd hs ?_
  refine ite_snd hs ?_
  dsimp only
  exact hs.freeTail

protected theorem Evolves.measurements {is : List Nat} (hs : Evolves σ s) : Evolves σ (measurements is s).2 := by
  induction is generalizing s with
  | nil => exact hs
  | cons i is ih => exact ih hs.measurement

protected theorem Evolves.spdmAnswer {p l : Fin 4} {h : SpdmReq} {param1 param2 : Nat} {body : List Byte} {n : Nat}
    (hs : Evolves σ s) :
    Evolves σ (spdmAnswer p l h param1 param2 body n s) := by
  unfold spdmAnswer
  dsimp only
  exact hs.freeTail.emit

protected theorem Evolves.certificateAnswer {p l : Fin 4} {h : SpdmReq} (hs : Evolves σ s) :
    Evolves σ (certificateAnswer p l h s) := .ite hs.spdmAnswer hs.spdmAnswer

protected theorem Evolves.measurementAnswer {p l : Fin 4} {h : SpdmReq} (hs : Evolves σ s) :
    Evolves σ (measurementAnswer p l h s) := by
  unfold measurementAnswer
  dsimp only
  exact .ite hs.spdmAnswer (.ite hs.measurements.spdmAnswer hs.emit)

protected theorem Evolves.serveSpdm {p l : Fin 4} {h : SpdmReq} (hs : Evolves σ s) :
    Evolves σ (serveSpdm p l h s) :=
  .ite hs.spdmAnswer
    (.ite hs.emit
      (.ite (.ite hs.emit (Evolves.ite hs.updLink hs).spdmAnswer)
        (.ite hs.emit
          (.ite (.ite hs.emit hs.updLink.spdmAnswer)
            (.ite hs.spdmAnswer
              (.ite hs.spdmAnswer
                (.ite hs.spdmAnswer
                  (.ite hs.measurementAnswer (.ite hs.emit (.ite hs.certificateAnswer hs.spdmAnswer))))))))))

protected theorem Evolves.serveDiscovery {p l : Fin 4} {index : Nat} (hs : Evolves σ s) :
    Evolves σ (serveDiscovery p l index s) := hs.emit

protected theorem Evolves.serveCdat {p l : Fin 4} (hs : Evolves σ s) : Evolves σ (serveCdat p l s) := hs.emit

protected theorem Evolves.overLink {p l : Fin 4} {w : GermWait} {f : State → State} (hs : Evolves σ s)
    (hf : ∀ u, Evolves σ u → Evolves σ (f u)) :
    Evolves σ (overLink p l w f s) := .ite (hs.askGerm (fun _ h => hf _ h)) hs

protected theorem Evolves.doSpdmRequest {p l : Fin 4} {h : SpdmReq} (hs : Evolves σ s) :
    Evolves σ (doSpdmRequest p l h s) := hs.overLink (fun _ k => k.serveSpdm)

protected theorem Evolves.doDoeDiscovery {p l : Fin 4} {index : Nat} (hs : Evolves σ s) :
    Evolves σ (doDoeDiscovery p l index s) := hs.overLink (fun _ h => h.serveDiscovery)

protected theorem Evolves.doCdatTableAccess {p l : Fin 4} (hs : Evolves σ s) :
    Evolves σ (doCdatTableAccess p l s) := hs.overLink (fun _ h => h.serveCdat)

protected theorem Evolves.serveWait {w : GermWait} (hs : Evolves σ s) : Evolves σ (serveWait w s) := by
  unfold serveWait
  split
  · exact hs.serveSpdm
  · exact hs.serveDiscovery
  · exact hs.serveCdat
  · exact hs.serveKeyProg
  · exact hs.serveSetGo

protected theorem Evolves.serveWaits (hs : Evolves σ s) :
    Evolves σ (serveWaits s) := (hs.frame.foldl fun _ _ h => h.serveWait).serveAllKeys

/-! ## SheafCmds -/

protected theorem Evolves.doWalkStart (hs : Evolves σ s) : Evolves σ (doWalkStart s) := by
  unfold doWalkStart
  dsimp only
  refine .ite hs ?_
  split
  · exact hs
  · exact hs.frame.restartWalk.frame

protected theorem Evolves.doWalkRead {w : Nat} {noise : Image} {par : Parity} (hs : Evolves σ s) :
    Evolves σ (doWalkRead w noise par s) := by
  unfold doWalkRead
  dsimp only
  refine .ite hs ?_
  split
  · exact hs
  · exact .ite hs (.ite hs (hs.chanAccess (fun _ h => h.walkStep)))

protected theorem Evolves.shfGo {m : Master} {off : Nat} {v : Word} {go : State → State} (hs : Evolves σ s)
    (hgo : ∀ u, Evolves σ u → Evolves σ (go u)) :
    Evolves σ (shfGo m off v go s) := hs.guardWrite (fun _ h => .ite (hgo _ h.regWrite) h.regWrite)

protected theorem Evolves.doSheafFill {m : Master} {v : Word} (hs : Evolves σ s) :
    Evolves σ (doSheafFill m v s) := hs.shfGo (fun _ h => h.fillGo)

protected theorem Evolves.doSheafInvalidate {m : Master} {v : Word} (hs : Evolves σ s) :
    Evolves σ (doSheafInvalidate m v s) := hs.shfGo (fun _ h => .ite h h.invalidate)

protected theorem Evolves.doInvTimeout (hs : Evolves σ s) : Evolves σ (doInvTimeout s) := .ite hs hs.timeTo.frame.raise

protected theorem Evolves.doWalkCacheFlush {m : Master} {v : Word} (hs : Evolves σ s) :
    Evolves σ (doWalkCacheFlush m v s) := hs.shfGo (fun _ h => h.flushCache)

protected theorem Evolves.doPinnedReinstall (hs : Evolves σ s) : Evolves σ (doPinnedReinstall s) := .ite hs hs.reinstallPinned

/-! ## Power -/

protected theorem Evolves.setPwr {f : Pwr → Pwr} (hs : Evolves σ s) : Evolves σ (setPwr f s) := hs.frame

protected theorem Evolves.judgeIdle (hs : Evolves σ s) : Evolves σ (judgeIdle s) := .ite hs.setPwr hs

protected theorem Evolves.doClockGate {d : Fin 64} (hs : Evolves σ s) :
    Evolves σ (doClockGate d s) := .ite hs hs.setPwr.judgeIdle

protected theorem Evolves.powerDown {down : Bool} (hs : Evolves σ s) : Evolves σ (setDown down s) := hs.frame

protected theorem Evolves.doDozeEntry (hs : Evolves σ s) : Evolves σ (doDozeEntry s) := by
  refine .ite (.powerDown (.setPwr ?_)) hs
  split
  · exact hs.timeTo
  · exact hs

protected theorem Evolves.doDozeExit (hs : Evolves σ s) : Evolves σ (doDozeExit s) := .ite hs.setPwr.powerDown hs

protected theorem Evolves.doLinkL1Entry {p l : Fin 4} (hs : Evolves σ s) :
    Evolves σ (doLinkL1Entry p l s) := .ite hs (.ite hs.updLink.setPwr hs.updLink)

protected theorem Evolves.stepEnd {n : Nat} (hs : Evolves σ s) : Evolves σ (stepEnd n s) := hs.regSetField.setPwr

/-- An entry to REST or STOOK resets every port; it begins with the domain up alone (R113). -/
protected theorem Evolves.blockPort {p : Fin 4} (hs : Evolves σ s) (hd : σ.domainDown = false) : Evolves σ (blockPort p s) :=
  (hs.foldl fun _ _ h => h.takeLinkDown).setPort fun h => by simp [hd] at h

protected theorem Evolves.abandonReload (hs : Evolves σ s) : Evolves σ (abandonReload s) := by
  refine .ite hs (.frame ?_)
  split
  · exact hs.setVerdict
  · exact hs

protected theorem Evolves.enterBegin {stook : Bool} (hs : Evolves σ s) (hd : σ.domainDown = false) :
    Evolves σ (enterBegin stook s) := by
  unfold enterBegin
  exact .stepEnd (.frame (.syncCrossings
    (hs.abandonReload.setPwr.regSet.regSet.regSet.powerDown.eachPort fun _ _ h => h.blockPort hd)))

protected theorem Evolves.stopResume (hs : Evolves σ s) (hd : σ.domainDown = false) : Evolves σ (stopResume s) :=
  hs.railsLost hd

protected theorem Evolves.doPfwNLow (hs : Evolves σ s) : Evolves σ (doPfwNLow s) := by
  have h0 : Evolves σ { s with pins := { s.pins with pfwLow := true } } := hs.frame
  unfold doPfwNLow
  dsimp only
  split
  · exact h0
  · next hdown =>
    have hd := hs.start_up (Bool.eq_false_iff.2 hdown)
    exact .ite (h0.enterBegin hd) (.ite h0.setPwr.regSetField
      (.ite (.ite (h0.enterBegin hd) (h0.stopResume hd)) h0))

protected theorem Evolves.doPwrCtlRest {m : Master} {v : Word} (hs : Evolves σ s) : Evolves σ (doPwrCtlRest m v s) := by
  refine hs.guardWrite fun _ h => ?_
  split
  · next hc =>
    simp only [Bool.and_eq_true, Bool.not_eq_true'] at hc
    obtain ⟨-, hd⟩ := hc
    exact h.enterBegin (h.start_up hd)
  · exact h

protected theorem Evolves.drainHome {k : Fin 8} (hs : Evolves σ s) :
    Evolves σ (drainHome k s) := (hs.doHomeRequest.foldl fun _ _ h => h.doCulmNodeFetchDone).foldl fun _ _ h => h.memoryDone

protected theorem Evolves.drainRounds {n : Nat} (hs : Evolves σ s) : Evolves σ (drainRounds n s) := by
  induction n generalizing s with
  | zero => exact hs
  | succ n ih => exact ih (hs.eachSpk fun _ _ h => h.drainHome)

protected theorem Evolves.resendRetries (hs : Evolves σ s) :
    Evolves σ (resendRetries s) := hs.eachPort (fun _ _ h => h.foldl fun _ _ k => k.doParkRetryResend)

protected theorem Evolves.drainEnd {n : Nat} (hs : Evolves σ s) : Evolves σ (drainEnd n s) :=
  .stepEnd (.regSet (hs.setPwr.setPorts fun p hp => by simpa using hp))

protected theorem Evolves.doStookDrain (hs : Evolves σ s) :
    Evolves σ (doStookDrain s) := .ite hs (.ite hs.resendRetries.drainRounds.drainEnd hs.resendRetries.drainRounds)

protected theorem Evolves.doStookMirrorTimeout (hs : Evolves σ s) :
    Evolves σ (doStookMirrorTimeout s) := .ite hs hs.timeTo.tilDown

protected theorem Evolves.doStookDrop (hs : Evolves σ s) : Evolves σ (doStookDrop s) := .ite hs hs.timeTo.frame.drainEnd

protected theorem Evolves.flushLevel {c : Option Nat} (hs : Evolves σ s) :
    Evolves σ (flushLevel c s) := hs.eachSpk (fun _ _ h => h.foldl fun _ _ h' => h'.culmRun)

protected theorem Evolves.doStookFlush (hs : Evolves σ s) :
    Evolves σ (doStookFlush s) := .ite hs ((hs.foldl fun _ _ h => h.flushLevel).stepEnd)

protected theorem Evolves.doStookSeal (hs : Evolves σ s) : Evolves σ (doStookSeal s) := .ite hs hs.setPwr.regSetField.stepEnd

protected theorem Evolves.doStookSelfRefresh (hs : Evolves σ s) :
    Evolves σ (doStookSelfRefresh s) := .ite hs ((hs.eachMc (fun _ _ h => h.enterSelfRefresh)).stepEnd)

protected theorem Evolves.doStookHold (hs : Evolves σ s) : Evolves σ (doStookHold s) := .ite hs hs.armWatch.setPwr.stepEnd

protected theorem Evolves.doStookPartner (hs : Evolves σ s) :
    Evolves σ (doStookPartner s) := .ite hs hs.tilDown.stepEnd.setPwr.setPwr

protected theorem Evolves.wake (hs : Evolves σ s) : Evolves σ (wake s) := .ite hs (.ite hs.setPwr hs.setPwr)

protected theorem Evolves.doWakeN {low : Bool} (hs : Evolves σ s) : Evolves σ (doWakeN low s) := .ite hs.setPwr.wake hs.setPwr

protected theorem Evolves.doWakeAlarm (hs : Evolves σ s) : Evolves σ (doWakeAlarm s) := .ite hs.timeTo.wake hs

protected theorem Evolves.doWakePerst {p : Fin 4} {lastCycles : Bool} (hs : Evolves σ s) :
    Evolves σ (doWakePerst p lastCycles s) :=
  .ite hs.doPerstRelease (.ite (.ite hs.doPerstRelease hs.doPerstRelease.setPwr) hs.doPerstRelease.wake)

protected theorem Evolves.doPfwNHigh (hs : Evolves σ s) : Evolves σ (doPfwNHigh s) := .ite hs.frame.wake hs.frame

protected theorem Evolves.doLatchedWakeRelease (hs : Evolves σ s) :
    Evolves σ (doLatchedWakeRelease s) := .ite hs.timeTo.wake hs

/-! ## Gate -/

protected theorem Evolves.refuseProp {i reason detail : Nat} (hs : Evolves σ s) :
    Evolves σ (refuseProp i reason detail s) := hs.setVerdict

protected theorem Evolves.acceptProp {i : Nat} (hs : Evolves σ s) : Evolves σ (acceptProp i s) := hs.setVerdict

protected theorem Evolves.doneProp {i : Nat} (hs : Evolves σ s) : Evolves σ (doneProp i s) := hs.setVerdict

protected theorem Evolves.pinRange {ldTag dpa size : Nat} {r : Region} {u : State} (hs : Evolves σ s)
    (e : pinRange ldTag dpa size r s = some u) : Evolves σ u := by
  unfold pinRange at e
  dsimp only at e
  split at e
  · exact Option.some.inj e ▸ hs
  · split at e
    · cases e
    · exact Option.some.inj e ▸ hs.leavesIn.installRange.updPort

protected theorem Evolves.unpinRange {ldTag dpa size : Nat} {r : Region} (hs : Evolves σ s) :
    Evolves σ (unpinRange ldTag dpa size r s) := .ite hs hs.updPort

protected theorem Evolves.applyDecision {i : Nat} {d : Decision × State} (hs : Evolves σ d.2) :
    Evolves σ (applyDecision i d) := by
  obtain ⟨d, s⟩ := d
  cases d with
  | refuse r x => exact hs.refuseProp
  | done => exact hs.doneProp
  | accept => exact .ite hs.acceptProp hs

protected theorem Evolves.decideQos {i off : Nat} {v : Word} (hs : Evolves σ s) :
    Evolves σ (decideQos i off v s) :=
  .ite (.ite hs.refuseProp (.ite hs.refuseProp hs.acceptProp.regSetField.doneProp))
    (.ite (.ite hs.refuseProp hs.acceptProp.regSetField.doneProp) (.ite hs.acceptProp.regSetField.doneProp hs.refuseProp))

protected theorem Evolves.setScrub {mask en rate reserve : Nat} (hs : Evolves σ s) :
    Evolves σ (setScrub mask en rate reserve s) := hs.eachMc (fun _ _ h => .ite h.regSetField.regSetField.regSetField h)

protected theorem Evolves.decidePin {i : Nat} {b : BitVec 256} {on : Bool} (hs : Evolves σ s) :
    Evolves σ (decidePin i b on s) := by
  unfold decidePin
  dsimp only
  split
  · exact hs.refuseProp
  · refine .ite hs.acceptProp.unpinRange.doneProp ?_
    split
    · exact hs.refuseProp
    · next e' =>
        exact (hs.pinRange e').acceptProp.doneProp

protected theorem Evolves.decideReload {i : Nat} {copy : Bool} (hs : Evolves σ s) : Evolves σ (decideReload i copy s) := by
  unfold decideReload
  dsimp only
  refine .ite hs.refuseProp.frame ?_
  refine .ite hs.refuseProp ?_
  split
  · exact hs.refuseProp.frame
  · exact hs.frame.acceptProp.eachPort (fun _ _ h => .ite h.disablePort h)

protected theorem Evolves.decideRest {i : Nat} (hs : Evolves σ s) (hd : σ.domainDown = false) : Evolves σ (decideRest i s) :=
  .ite hs.refuseProp (.ite hs.refuseProp (.ite (hs.acceptProp.enterBegin hd) hs.acceptProp))

protected theorem Evolves.decide_ {i : Nat} (hs : Evolves σ s) : Evolves σ (decide_ i s) := by
  unfold decide_
  dsimp only
  split
  · exact hs.refuseProp
  · next hdown =>
    have hd := hs.start_up (Bool.eq_false_iff.2 hdown)
    refine .ite (.ite hs.refuseProp.frame hs.refuseProp) (.ite hs.refuseProp ?_)
    split
    · exact hs.decidePromote.applyDecision
    · exact hs.decideDemote.applyDecision
    · exact hs.decideRetirePage.applyDecision
    · exact hs.decideRetireBank.applyDecision
    · exact .ite hs.doneProp hs.acceptProp.enablePort
    · exact .ite hs.acceptProp.disablePort hs.doneProp
    · exact hs.decideQos
    · exact hs.acceptProp.setScrub.doneProp
    · exact hs.decidePin
    · exact hs.decidePin
    · exact .ite hs.acceptProp.doLeave.doneProp hs.refuseProp
    · exact .ite hs.acceptProp.beginHandover hs.refuseProp
    · exact hs.decideReload
    · exact hs.decideRest hd

protected theorem Evolves.takeOne (hs : Evolves σ s) : Evolves σ (takeOne s) := hs.frame.decide_

protected theorem Evolves.takeProposals {n : Nat} (hs : Evolves σ s) : Evolves σ (takeProposals n s) := by
  induction n generalizing s with
  | zero => exact hs
  | succ n ih => exact .ite hs (ih hs.takeOne)

protected theorem Evolves.tailWrite {tail : Nat} (hs : Evolves σ s) :
    Evolves σ (tailWrite tail s) := .ite hs.raise hs.frame.takeProposals

protected theorem Evolves.submit {b : BitVec 256} (hs : Evolves σ s) :
    Evolves σ (submit b s) := .ite hs (.ite hs.raise hs.frame.tailWrite)

protected theorem Evolves.doGateOverrun {tail : Fin 256} (hs : Evolves σ s) :
    Evolves σ (doGateOverrun tail s) := .ite hs.tailWrite.allSettle hs

protected theorem Evolves.doReloadDrainTimeout (hs : Evolves σ s) :
    Evolves σ (doReloadDrainTimeout s) := .ite hs ((hs.timeTo.eachPort (fun _ _ h => .ite h.enablePort h)).abandonReload)

protected theorem Evolves.doGermRestart (hs : Evolves σ s) : Evolves σ (doGermRestart s) := .ite hs.frame.syncCrossings hs

protected theorem Evolves.restartWalks (hs : Evolves σ s) : Evolves σ (restartWalks s) := by
  unfold restartWalks
  dsimp only
  refine hs.foldl fun _ _ h => ?_
  split
  · exact h.restartWalk.setWalk
  · exact h

protected theorem Evolves.unretire {ms : List Move} (hs : Evolves σ s) : Evolves σ (unretire ms s) := hs.frame

protected theorem Evolves.decideAgain {i : Nat} (hs : Evolves σ s) :
    Evolves σ (decideAgain i s) := .ite hs.decide_.setVerdict hs.decide_

protected theorem Evolves.doGermRestartDone (hs : Evolves σ s) : Evolves σ (doGermRestartDone s) :=
  have h := hs.frame.syncCrossings.serveWaits.restartWalks.resumeMoves.unretire.serveLost
  .ite hs (.takeProposals (.foldl h fun _ _ h => h.decideAgain))

protected theorem Evolves.mboxRestart (hs : Evolves σ s) :
    Evolves σ (mboxRestart s) := hs.eachPort (fun _ _ h => h.foldl fun _ _ k => (Evolves.ite k.emit k).updMbox)

protected theorem Evolves.doBranRestart (hs : Evolves σ s) :
    Evolves σ (doBranRestart s) := .ite hs.frame.crossAll.mboxRestart hs

/-! ## Queues -/

protected theorem Evolves.qpSetUp {n : Nat} (hs : Evolves σ s) : Evolves σ (qpSetUp n s) := (Evolves.ite hs.frame hs).setQp

protected theorem Evolves.doQpEnable {m : Master} {n : Fin 64} {v : Word} (hs : Evolves σ s) :
    Evolves σ (doQpEnable m n v s) := .ite hs.refusedWrite (.ite (.ite hs hs.qpSetUp) (.ite hs.qpDisable hs))

protected theorem Evolves.doSqTailWrite {m : Master} {n : Fin 64} {v : Word} (hs : Evolves σ s) :
    Evolves σ (doSqTailWrite m n v s) := .ite hs.refusedWrite (.ite hs hs.updQp.takeDescs)

protected theorem Evolves.doCqHeadWrite {m : Master} {n : Fin 64} {v : Word} (hs : Evolves σ s) :
    Evolves σ (doCqHeadWrite m n v s) := .ite hs.refusedWrite (.ite hs hs.updQp.takeDescs)

protected theorem Evolves.seekAdmission {par : Parity} {n i : Nat} {d : Line} (hs : Evolves σ s) :
    Evolves σ (seekAdmission par n i d s) := by
  unfold seekAdmission
  dsimp only
  exact .ite hs hs.takeSeq.ungate.updPort.pumpIngress

protected theorem Evolves.checkDesc {par : Parity} {n i : Nat} {t : Taken} (hs : Evolves σ s) :
    Evolves σ (checkDesc par n i t s) := by
  unfold checkDesc
  dsimp only
  refine .ite hs.complete ?_
  split
  · exact hs.stageParity.fatalParity
  · exact .ite hs.stageParity.raiseIf.raise.complete (.ite hs.stageParity.raiseIf.complete hs.stageParity.raiseIf.updTaken)

protected theorem Evolves.startDesc {par : Parity} {n i : Nat} {t : Taken} (hs : Evolves σ s) :
    Evolves σ (startDesc par n i t s) := by
  unfold startDesc
  dsimp only
  split
  · exact hs.stageParity.fatalParity
  · refine .ite ((Evolves.ite hs.stageParity.raise.updTaken hs.stageParity).complete) ?_
    refine .ite ((Evolves.ite hs.stageParity.raise.updTaken hs.stageParity).updTaken) ?_
    split
    · exact (Evolves.ite hs.stageParity.raise.updTaken hs.stageParity).complete
    · refine .ite (.ite hs.stageParity.raise.updTaken hs.stageParity) ?_
      split
      · exact .ite
          (Evolves.ite (.ite hs.stageParity.raise.updTaken hs.stageParity)
            (Evolves.ite hs.stageParity.raise.updTaken hs.stageParity).seekAdmission).checkDesc
              (.ite (.ite hs.stageParity.raise.updTaken hs.stageParity)
                (Evolves.ite hs.stageParity.raise.updTaken hs.stageParity).seekAdmission)
      · exact .ite (.ite hs.stageParity.raise.updTaken hs.stageParity)
          (Evolves.ite hs.stageParity.raise.updTaken hs.stageParity).seekAdmission

protected theorem Evolves.cqRun {op : Nat} {par : Parity} {n i : Nat} {go : Taken → State → State} (hs : Evolves σ s)
    (hgo : ∀ a u, Evolves σ u → Evolves σ (go a u)) :
    Evolves σ (cqRun op par n i go s) := by
  unfold cqRun
  dsimp only
  refine .ite hs ?_
  split
  · exact hs.takeDescs
  · refine .ite hs.takeDescs ?_
    split
    · exact .ite (hgo _ _ (.ite hs.takeDescs hs.takeDescs.startDesc)) (.ite hs.takeDescs hs.takeDescs.startDesc)
    · exact .ite hs.takeDescs hs.takeDescs.startDesc

protected theorem Evolves.cqWalk {fuel ldTag dpa key level table : Nat} (hs : Evolves σ s) :
    Evolves σ (cqWalk fuel ldTag dpa key level table s).2 := by
  induction fuel generalizing level table s with
  | zero => exact hs
  | succ fuel ih =>
    unfold cqWalk
    dsimp only
    split
    · next e => exact hs.readEntry.of_eq e
    · next e =>
      have h := hs.readEntry.of_eq e
      split
      · exact h
      · split
        · exact h.raise
        · split
          · exact h
          · exact ih h

protected theorem Evolves.cqPage {ldTag dpa key : Nat} (hs : Evolves σ s) : Evolves σ (cqPage ldTag dpa key s).2 := by
  unfold cqPage
  exact hs.cqWalk

protected theorem Evolves.stopAt {n i status : Nat} {t : Taken} (hs : Evolves σ s) :
    Evolves σ (stopAt n i status t s) := hs.complete.disownAll

protected theorem Evolves.policyStop {n i : Nat} {t : Taken} {dpa : Nat} (hs : Evolves σ s) :
    Evolves σ (policyStop n i t dpa s) := hs.raise.stopAt

protected theorem Evolves.blankPages {fuel n i : Nat} (hs : Evolves σ s) : Evolves σ (blankPages fuel n i s) := by
  induction fuel generalizing s with
  | zero => exact hs
  | succ fuel ih =>
    unfold blankPages
    split
    · exact hs
    · refine .ite hs.complete (.ite (.ite hs (ih hs.updTaken)) (.ite hs ?_))
      split
      · next e => exact (hs.cqPage.of_eq e).stopAt
      · next e => exact ih (hs.cqPage.of_eq e).updTaken
      · next e =>
        have h := hs.cqPage.of_eq e
        refine .ite h.policyStop ?_
        split
        · next e' => exact (h.blankPageStep.of_eq e').updTaken
        · next e' => exact ih (Evolves.ite (h.blankPageStep.of_eq e').queueTil (h.blankPageStep.of_eq e')).updTaken

protected theorem Evolves.blankGo {n i : Nat} {t : Taken} (hs : Evolves σ s) :
    Evolves σ (blankGo n i t s) := .ite hs hs.blankPages

protected theorem Evolves.sendAccess {par : Parity} {n i : Nat} {t : Taken} {op : HomeOp} {dpa : Nat} {data : Line}
    {poison : Bool} (hs : Evolves σ s) :
    Evolves σ (sendAccess par n i t op dpa data poison s) := by
  unfold sendAccess
  dsimp only
  exact hs.takeSeq.updTaken.ungate.updPort.translate

protected theorem Evolves.copyGo {par : Parity} {n i : Nat} {t : Taken} (hs : Evolves σ s) :
    Evolves σ (copyGo par n i t s) := by
  unfold copyGo
  split
  · exact hs.sendAccess
  · exact hs.sendAccess
  · exact hs.sendAccess
  · exact hs

protected theorem Evolves.atomicGo {par : Parity} {kind : AtomicKind} {n i : Nat} {t : Taken} (hs : Evolves σ s) :
    Evolves σ (atomicGo par kind n i t s) := .ite hs.sendAccess hs

protected theorem Evolves.hintPage {hot : Bool} {ldTag dpa : Nat} {e : Word} (hs : Evolves σ s) :
    Evolves σ (hintPage hot ldTag dpa e s) := .ite hs.hotTouch (.ite hs.hotTouch hs)

protected theorem Evolves.hintPages {hot : Bool} {fuel n i : Nat} (hs : Evolves σ s) :
    Evolves σ (hintPages hot fuel n i s) := by
  induction fuel generalizing s with
  | zero => exact hs
  | succ fuel ih =>
    unfold hintPages
    split
    · exact hs
    · refine .ite hs.complete (.ite hs ?_)
      split
      · next e => exact (hs.cqPage.of_eq e).stopAt
      · next e => exact ih (hs.cqPage.of_eq e).updTaken
      · next e =>
        have h := hs.cqPage.of_eq e
        exact .ite h.policyStop (ih h.hintPage.updTaken)

protected theorem Evolves.pinGo {on : Bool} {n i : Nat} {t : Taken} (hs : Evolves σ s) : Evolves σ (pinGo on n i t s) := by
  unfold pinGo
  dsimp only
  refine .ite hs ?_
  split
  · exact hs.complete
  · refine .ite ?_ ?_
    · split
      · next e' =>
          exact (hs.pinRange e').complete
      · exact hs.complete
    · exact hs.unpinRange.complete

protected theorem Evolves.flushGo {n i : Nat} (hs : Evolves σ s) : Evolves σ (flushGo n i s) := .ite hs.complete hs

protected theorem Evolves.loopbackGo {n i : Nat} {failures : BitVec 128} {t : Taken} (hs : Evolves σ s) :
    Evolves σ (loopbackGo n i failures t s) := .ite hs.complete hs.complete

protected theorem Evolves.doBadDesc {n i : Nat} (hs : Evolves σ s) : Evolves σ (doBadDesc n i s) := by
  unfold doBadDesc
  dsimp only
  split
  · exact .ite hs.takeDescs.complete hs.takeDescs
  · exact hs.takeDescs

/-! ## Mailbox -/

protected theorem Evolves.freeBytes {n : Nat} (hs : Evolves σ s) : Evolves σ (freeBytes n s).2 := by
  unfold freeBytes
  dsimp only
  exact hs.frame

protected theorem Evolves.mboxFree {n : Nat} (hs : Evolves σ s) : Evolves σ (mboxFree n s).state := hs.frame

protected theorem Evolves.mailbox {p l : Fin 4} {opcode : Nat} {f : State → MboxDone} (hs : Evolves σ s)
    (hf : Evolves σ (f s).state) : Evolves σ (mailbox p l opcode f s) := by
  refine .ite hs (.ite hs.updMbox (.emit (.updMbox ?_)))
  split
  · exact hs
  · exact hf

theorem Evolves.ite_state {c : Prop} [Decidable c] {x y : MboxDone} (h : Evolves σ x.state) (k : Evolves σ y.state) :
    Evolves σ (if c then x else y).state := by
  split
  · exact h
  · exact k

protected theorem Evolves.logEvents {p l : Fin 4} (hs : Evolves σ s) : Evolves σ (logEvents p l s) := by
  unfold logEvents
  dsimp only
  exact .ite hs.drawChoice hs.drawChoice.takeSeq.updMbox

protected theorem Evolves.eventBytes {b : Mailbox} {e : EventRec} (hs : Evolves σ s) : Evolves σ (eventBytes b e s).2 := by
  unfold eventBytes
  dsimp only
  exact hs.freeBytes.freeBytes.freeBytes

protected theorem Evolves.eventsBytes {b : Mailbox} {es : List EventRec} (hs : Evolves σ s) :
    Evolves σ (eventsBytes b es s).2 := by
  induction es generalizing s with
  | nil => exact hs
  | cons e es ih => exact ih (hs.eventBytes (b := b) (e := e))

protected theorem Evolves.getEvents {p l : Fin 4} {log : Nat} (hs : Evolves σ s) : Evolves σ (getEvents p l log s).state :=
  .ite_state hs hs.logEvents.eventsBytes

protected theorem Evolves.clearEvents {p l : Fin 4} {log : Nat} {all : Bool} {handles : List Nat} (hs : Evolves σ s) :
    Evolves σ (clearEvents p l log all handles s).state :=
  .ite_state hs (.ite_state hs.updMbox (.ite_state hs hs.updMbox))

protected theorem Evolves.fwInfo (hs : Evolves σ s) : Evolves σ (fwInfo s).state := hs.frame

protected theorem Evolves.writePackage {b : Bool} {o : Nat} {bs : List Byte} (hs : Evolves σ s) :
    Evolves σ (writePackage b o bs s) := hs.flashPut.flashPut

protected theorem Evolves.transfer {p l : Fin 4} {action slot off : Nat} {bytes : List Byte} (hs : Evolves σ s) :
    Evolves σ (transfer p l action slot off bytes s).state := by
  unfold transfer
  dsimp only
  split
  · exact hs
  · refine .ite_state hs (.ite_state hs ?_)
    split
    · exact .ite_state hs.writePackage.updMbox hs
    · exact .ite_state hs.writePackage.updMbox hs
    · exact .ite_state hs.writePackage.updMbox hs
    · exact .ite_state hs.writePackage.updMbox hs
    · exact .ite_state hs.updMbox hs
    · exact hs

protected theorem Evolves.switchCopy {b : Bool} {i : SolvikImage} {digest : BitVec 384} (hs : Evolves σ s) :
    Evolves σ (switchCopy b i digest s) := hs.frame.startBran.mboxRestart.writeBoot

protected theorem Evolves.activateCopy {online : Bool} {slot : Nat} (hs : Evolves σ s) :
    Evolves σ (activateCopy online slot s).state := by
  unfold activateCopy
  split
  · exact hs
  · split
    · exact hs
    · exact .ite_state hs.writeBoot (.ite_state hs hs.switchCopy)

protected theorem Evolves.doBootFlashWrite {core : Fin 4} {off : Nat} {bytes : List Byte} (hs : Evolves σ s) :
    Evolves σ (doBootFlashWrite core off bytes s) := .ite hs (.ite hs.flashPut hs.emit)

protected theorem Evolves.identifyMemory {p l : Fin 4} (hs : Evolves σ s) : Evolves σ (identifyMemory p l s).state := hs.frame

protected theorem Evolves.poisonList {p l : Fin 4} {ld : Fin 16} {dpa lines : Nat} (hs : Evolves σ s) :
    Evolves σ (poisonList p l ld dpa lines s).state := .ite_state hs hs

protected theorem Evolves.ownWrite {p l : Fin 4} {t dpa : Nat} {data : Line} {poison : Bool} (hs : Evolves σ s) :
    Evolves σ (ownWrite p l t dpa data poison s).state := by
  unfold ownWrite
  split
  · exact hs
  · dsimp only
    split
    · exact hs
    · dsimp only [mboxOk]
      exact hs.takeSeq.updPort.translate.allSettle

protected theorem Evolves.markPoison {p l : Fin 4} {t dpa : Nat} {on : Bool} {d : MboxDone} (hd : Evolves σ d.state) :
    Evolves σ (markPoison p l t dpa on d).state := .ite_state hd hd.updMbox

protected theorem Evolves.injectPoisonAt {p l : Fin 4} {ld : Fin 16} {dpa : Nat} (hs : Evolves σ s) :
    Evolves σ (injectPoisonAt p l ld dpa s).state := .ite_state hs (.ite_state hs (.markPoison hs.ownWrite))

protected theorem Evolves.clearPoisonAt {p l : Fin 4} {ld : Fin 16} {dpa : Nat} {data : Line} (hs : Evolves σ s) :
    Evolves σ (clearPoisonAt p l ld dpa data s).state := .ite_state hs (.markPoison hs.ownWrite)

protected theorem Evolves.pageBad {ldTag dpa : Nat} (hs : Evolves σ s) : Evolves σ (pageBad ldTag dpa s).2 := by
  unfold pageBad
  dsimp only
  split
  · next e =>
      dsimp only
      exact hs.mappedPage.of_eq e
  · next e =>
      dsimp only
      exact (hs.mappedPage.of_eq e).readSource

protected theorem Evolves.scanPages {n ldTag dpa : Nat} (hs : Evolves σ s) : Evolves σ (scanPages n ldTag dpa s).2 := by
  induction n generalizing dpa s with
  | zero => exact hs
  | succ n ih => exact ih hs.pageBad

protected theorem Evolves.scan {p l : Fin 4} {ld : Fin 16} {dpa lines : Nat} (hs : Evolves σ s) :
    Evolves σ (scan p l ld dpa lines s).state := by
  unfold scan
  exact .ite_state hs (.ite_state hs (Evolves.updMbox (.updMbox (.ite_snd hs hs.scanPages))))

protected theorem Evolves.erasePages {t from_ : Nat} (hs : Evolves σ s) : Evolves σ (erasePages t from_ s).2 := by
  unfold erasePages
  dsimp only
  refine foldl_snd hs fun _ _ h => ?_
  dsimp only
  exact h.leavesIn

protected theorem Evolves.refillPage {r : Region} {t dpa : Nat} {leaf : Word} {move : Bool} {u : State} (hs : Evolves σ s)
    (e : refillPage r t dpa leaf move s = some u) : Evolves σ u := by
  unfold refillPage at e
  dsimp only at e
  split at e
  · exact hs.remapBlank e
  · split at e
    · exact Option.some.inj e ▸ hs.zeroPage
    · exact Option.some.inj e ▸ hs.blankPage

protected theorem Evolves.refillPages {t : Nat} {move : Bool} {es : List (Region × Nat × Word)} (hs : Evolves σ s) :
    Evolves σ (refillPages t move es s).2 := by
  induction es generalizing s with
  | nil => exact hs
  | cons x es ih =>
    unfold refillPages
    split
    · next e => exact ih (hs.refillPage e)
    · exact hs

protected theorem Evolves.putErase {j : EraseJob} (hs : Evolves σ s) : Evolves σ (putErase j s) := hs.frame

protected theorem Evolves.eraseStep {fuel : Nat} (hs : Evolves σ s) : Evolves σ (eraseStep fuel s) := by
  induction fuel generalizing s with
  | zero => exact hs
  | succ fuel ih =>
    unfold eraseStep
    refine .ite hs ?_
    split
    · exact hs
    · split
      · exact ih (.ite hs.putErase hs.putErase.germSlot)
      · exact .ite (ih hs.putErase.germSlot) (ih hs.putErase)
      · dsimp only
        split
        · next e => exact (hs.erasePages.refillPages.of_eq e).putErase
        · next e => exact ih (hs.erasePages.refillPages.of_eq e).frame.updMbox

protected theorem Evolves.eraseSteps (hs : Evolves σ s) : Evolves σ (eraseSteps s) := hs.eraseStep

protected theorem Evolves.erase {p l : Fin 4} {ld : Fin 16} {sanitize : Bool} (hs : Evolves σ s) :
    Evolves σ (erase p l ld sanitize s).state := by
  unfold erase
  dsimp only
  split
  · exact hs
  · split
    · exact hs
    · dsimp only
      exact hs.frame.updMbox.eraseSteps.allSettle

protected theorem Evolves.ldInfo {p l : Fin 4} (hs : Evolves σ s) : Evolves σ (ldInfo p l s).state := .ite_state hs hs.frame

protected theorem Evolves.ldAllocations {p l : Fin 4} (hs : Evolves σ s) : Evolves σ (ldAllocations p l s).state :=
  .ite_state hs hs

/-! ## Headers -/

protected theorem Evolves.doCauseClear {m : Master} {b : Fin 40} {v : BitVec 32} (hs : Evolves σ s) :
    Evolves σ (doCauseClear m b v s) := hs.guardWrite (fun _ h => h.updHeader)

protected theorem Evolves.doCauseMaskWrite {m : Master} {b : Fin 40} {v : BitVec 32} (hs : Evolves σ s) :
    Evolves σ (doCauseMaskWrite m b v s) := hs.guardWrite (fun _ h => h.updHeader)

protected theorem Evolves.doFeRearm {m : Master} {b : Fin 40} (hs : Evolves σ s) :
    Evolves σ (doFeRearm m b s) := hs.guardWrite (fun _ h => h.updHeader)

protected theorem Evolves.forceWrite {m : Master} {b : Fin 40} {f : State → State} (hs : Evolves σ s)
    (hf : ∀ u, Evolves σ u → Evolves σ (f u)) :
    Evolves σ (forceWrite m b f s) := .ite (hs.guardWrite (fun _ h => hf _ h)) hs

protected theorem Evolves.doForceReport {m : Master} {b : Fin 40} {v : BitVec 32} (hs : Evolves σ s) :
    Evolves σ (doForceReport m b v s) := hs.forceWrite (fun _ h => h.raiseBits)

protected theorem Evolves.doForceDisarm {m : Master} {b : Fin 40} (hs : Evolves σ s) :
    Evolves σ (doForceDisarm m b s) := hs.forceWrite (fun _ h => h.updHeader.endInjection)

protected theorem Evolves.doForceArm {m : Master} {b : Fin 40} {v : BitVec 32} (hs : Evolves σ s) :
    Evolves σ (doForceArm m b v s) := .ite hs.doForceDisarm (hs.forceWrite (fun _ h => h.updHeader))

protected theorem Evolves.doInjectionOrderedMode (hs : Evolves σ s) :
    Evolves σ (doInjectionOrderedMode s) := .ite hs.frame.setOrdered hs

/-! ## Perf -/

protected theorem Evolves.doPerfSelWrite {m : Master} {n : Fin 192} {v : Word} (hs : Evolves σ s) :
    Evolves σ (doPerfSelWrite m n v s) := hs.guardWrite (fun _ h => .ite h.raise h.regWrite)

protected theorem Evolves.doPerfCountWrite {m : Master} {n : Fin 192} {v : Word} (hs : Evolves σ s) :
    Evolves σ (doPerfCountWrite m n v s) := hs.guardWrite (fun _ h => .ite h h.frame)

protected theorem Evolves.perfCtl {m : Master} {v : Word} (hs : Evolves σ s) :
    Evolves σ (perfCtl m v s) := hs.guardWrite (fun _ h => (((Evolves.ite h.frame h).regSetField).regSetField).frame)

protected theorem Evolves.doClearAll {m : Master} {v : Word} (hs : Evolves σ s) : Evolves σ (doClearAll m v s) := hs.perfCtl

protected theorem Evolves.doFreeze {m : Master} {v : Word} (hs : Evolves σ s) : Evolves σ (doFreeze m v s) := hs.perfCtl

protected theorem Evolves.doWindowEn {m : Master} {v : Word} (hs : Evolves σ s) : Evolves σ (doWindowEn m v s) := hs.perfCtl

protected theorem Evolves.windowWrite {off : Nat} {v : Word} (hs : Evolves σ s) :
    Evolves σ (windowWrite off v s) := .ite hs (.ite hs.regWrite.frame hs.regWrite)

protected theorem Evolves.doPerfWindowStart (hs : Evolves σ s) : Evolves σ (doPerfWindowStart s) := .ite hs.timeTo.frame hs

protected theorem Evolves.doWindowDone (hs : Evolves σ s) : Evolves σ (doWindowDone s) := .ite hs.timeTo.frame.raise hs

/-! ## Bmc -/

protected theorem Evolves.branAnswer (hs : Evolves σ s) : Evolves σ (branAnswer s) := .ite hs.frame.emit hs

protected theorem Evolves.doMctpControl {_msg : List Byte} (hs : Evolves σ s) :
    Evolves σ (doMctpControl _msg s) := hs.branAnswer

protected theorem Evolves.doPldmType0 {_msg : List Byte} (hs : Evolves σ s) : Evolves σ (doPldmType0 _msg s) := hs.branAnswer

protected theorem Evolves.doPldmType2 {sensor : Nat} (hs : Evolves σ s) :
    Evolves σ (doPldmType2 sensor s) := .ite hs (.ite hs.frame.emit hs.emit)

protected theorem Evolves.doZalouxVendorMessage {off : Nat} (hs : Evolves σ s) :
    Evolves σ (doZalouxVendorMessage off s) := .ite hs.emit hs

/-! ## Registers -/

protected theorem Evolves.badRequest {m : Master} {off : Nat} (hs : Evolves σ s) :
    Evolves σ (badRequest m off s) := hs.raise.emit

protected theorem Evolves.doBadAccess {m : Master} {off width : Nat} {write : Bool} (hs : Evolves σ s) :
    Evolves σ (doBadAccess m off width write s) := .ite hs.badRequest hs

protected theorem Evolves.writeHeader {m : Master} {b : Fin 40} {r : Nat} {h : Half} {v : Word} (hs : Evolves σ s) :
    Evolves σ (writeHeader m b r h v s) := by
  unfold writeHeader
  dsimp only
  split
  · exact hs.doCauseClear
  · exact .ite (hs.guardWrite fun _ h => h) hs.doCauseMaskWrite
  · exact .ite hs.doForceArm hs.doForceReport
  · exact .ite hs.doFeRearm (hs.guardWrite fun _ h => h)
  · exact hs.guardWrite fun _ h => h

protected theorem Evolves.outCtl {m : Master} {v : Word} (hs : Evolves σ s) :
    Evolves σ (outCtl m v s) := hs.guardWrite
      (fun _ h => h.foldl fun _ _ k => .ite k (.ite k.commandOn (.ite k.commandOff k)))

protected theorem Evolves.slotCmdWrite {m : Master} {v : Word} (hs : Evolves σ s) :
    Evolves σ (slotCmdWrite m v s) := .ite hs.slotCmd (hs.guardWrite (fun _ h => h.regWrite))

protected theorem Evolves.pgWrite {m : Master} {k : Fin 8} {v : Word} (hs : Evolves σ s) : Evolves σ (pgWrite m k v s) := by
  unfold pgWrite
  dsimp only
  split
  · exact hs.doPageHold
  · exact hs.doPageRelease
  · exact hs.doPageRecall
  · exact hs.guardWrite (fun _ h => h.regWrite)

protected theorem Evolves.pairPageWrite {m : Master} {n : Fin 64} {r : Nat} {h : Half} {v : Word} (hs : Evolves σ s) :
    Evolves σ (pairPageWrite m n r h v s) := by
  unfold pairPageWrite
  refine .ite (.ite hs hs.refusedWrite) ?_
  split
  · exact hs.doQpEnable
  · exact hs.doSqTailWrite
  · exact hs.doCqHeadWrite
  · exact .ite hs hs.refusedWrite

protected theorem Evolves.ringWrite {n r : Nat} {h : Half} {v : Word} (hs : Evolves σ s) :
    Evolves σ (ringWrite n r h v s) := .ite hs.updQp (.ite hs.updQp hs)

protected theorem Evolves.slotWrite {r : Nat} {h : Half} {v : Word} (hs : Evolves σ s) :
    Evolves σ (slotWrite r h v s) := hs.frame

protected theorem Evolves.verdictWrite {r : Nat} {h : Half} {v : Word} (hs : Evolves σ s) :
    Evolves σ (verdictWrite r h v s) := hs.frame

protected theorem Evolves.queueWrite {m : Master} {r : Nat} {h : Half} {v : Word} (hs : Evolves σ s) :
    Evolves σ (queueWrite m r h v s) := by
  unfold queueWrite
  refine .ite (hs.guardWrite fun _ h => h.ringWrite) ?_
  split
  · exact hs.pairPageWrite
  · refine .ite (hs.guardWrite fun _ h => h.slotWrite) (.ite (hs.guardWrite fun _ h => h.verdictWrite) ?_)
    exact .ite (hs.guardWrite fun _ h => h.tailWrite) (hs.guardWrite fun _ h => h)

protected theorem Evolves.perfWrite {m : Master} {r : Nat} {h : Half} {v : Word} (hs : Evolves σ s) :
    Evolves σ (perfWrite m r h v s) := by
  unfold perfWrite
  dsimp only
  split
  · exact hs.doPerfSelWrite
  · split
    · exact hs.doPerfCountWrite
    · split
      · exact hs.guardWrite fun _ h => h.frame
      · split
        · exact hs.perfCtl
        · exact hs.guardWrite fun _ h => h.windowWrite
        · exact hs.guardWrite fun _ h => h.windowWrite
        · exact hs.guardWrite fun _ h => h.regWrite

protected theorem Evolves.writeReg {m : Master} {b : Fin 40} {r : Nat} {h : Half} {v : Word} (hs : Evolves σ s) :
    Evolves σ (writeReg m b r h v s) := by
  have hplain : Evolves σ
      (guardWrite m (blkBase b + r) (regWrite h (blkBase b + r) v) s) := hs.guardWrite fun _ h => h.regWrite
  unfold writeReg
  dsimp only
  split
  · exact hs.portCtl
  · exact hs.guardWrite fun _ h => .ite h.updPort h
  · split
    · split
      · exact hs.doDecMapWrite
      · exact hplain
    · exact hplain
  · exact hs.doSheafFill
  · exact hs.doSheafInvalidate
  · exact hs.doWalkCacheFlush
  · exact hs.doOrderedModeWrite
  · exact hs.pgWrite
  · exact hs.doRecalForce
  · exact .ite (hs.guardWrite fun _ h => h) hs.doCalTargetWrite
  · exact hs.spareCmd
  · exact hs.slotCmdWrite
  · split
    · exact hs.guardWrite fun _ h => h.frame
    · exact hplain
  · exact hs.tilCtl
  · exact hs.pairCtl.allSettle
  · exact hs.doPwrCtlRest
  · exact hs.doAvsRequest
  · exact hs.outCtl
  · exact hs.doHuskSealArm
  · exact hs.guardWrite fun _ h => h.frame
  · exact hs.perfWrite
  · exact hs.queueWrite
  · exact hplain

protected theorem Evolves.doRegisterWrite {m : Master} {off width : Nat} {v : Word} (hs : Evolves σ s) :
    Evolves σ (doRegisterWrite m off width v s) := by
  unfold doRegisterWrite
  dsimp only
  refine .ite hs.badRequest ?_
  split
  · exact hs
  · exact .ite hs.writeHeader hs.writeReg

end Sys2Proof.Machine

namespace Sys2Proof.Machine

variable {σ s t u : State}

/-! ## Commands -/

/-- Whatever state a command ends in may follow `σ` with no reset of the whole device between them. -/
def EvolvesTo (σ : State) (o : Host.Outcome State Fault Refusal) : Prop := ∀ t, o = .next t → Evolves σ t

theorem EvolvesTo.next (h : Evolves σ u) : EvolvesTo σ (.next u) := by
  rintro t ⟨⟩
  exact h

open EvolvesTo in
/-- No command but a reset of the whole device (Table 14.1) leaves the states that may follow `σ`. -/
theorem Evolves.exec {c : Instr} (hs : Evolves σ s) (hc : ¬ resetsDevice c) : EvolvesTo σ (exec c s) := by
  cases c with
  | warmResumeDram => exact absurd (by simp [resetsDevice]) hc
  | reloadReset => exact absurd (by simp [resetsDevice]) hc
  | powerGoodRise _ => exact absurd (by simp [resetsDevice]) hc
  | powerGoodFall => exact absurd (by simp [resetsDevice]) hc
  | vddAuxLost => exact absurd (by simp [resetsDevice]) hc
  | powerOn _ _ => exact absurd (by simp [resetsDevice]) hc
  | coldStartImage => exact next hs.doColdStartImage
  | coldStartRails => exact next hs.doColdStartRails
  | coldStartPower => exact next hs.doColdStartPower
  | spdCheckDone _ _ _ => exact next hs.doSpdCheckDone
  | pmicPowerGood _ => exact next hs.doPmicPowerGood
  | pmicTimeout _ => exact next hs.doPmicTimeout
  | channelTrained _ _ _ _ => exact next hs.doChannelTrained
  | coldStartKeys => exact next hs.doColdStartKeys
  | coldStartFill => exact next hs.doColdStartFill
  | coldStartLoad => exact next hs.doColdStartLoad
  | release => exact next hs.doRelease
  | channelRestore _ _ _ _ _ => exact next hs.doChannelRestore
  | warmResumeCulm => exact next hs.doWarmResumeCulm
  | perstAssert _ => exact next hs.doPerstAssert
  | perstRelease _ => exact next hs.doPerstRelease
  | linkTrained _ _ _ _ _ => exact next hs.doLinkTrained
  | linkLaneLoss _ _ _ => exact next hs.doLinkLaneLoss
  | linkRecoveryDone _ _ _ => exact next hs.doLinkRecoveryDone
  | linkDown _ _ => exact next hs.doLinkDown
  | ideIntegrityFailure _ _ _ => exact next hs.doIdeIntegrityFailure
  | ideKmKeyProg _ _ _ _ _ => exact next hs.doIdeKmKeyProg
  | ideKmKSetGo _ _ _ _ => exact next hs.doIdeKmKSetGo
  | portCtlEnable _ _ _ => exact next hs.doPortCtlEnable
  | portCtlDisable _ _ _ => exact next hs.doPortCtlDisable
  | drainTimeout _ => exact next hs.doDrainTimeout
  | decoderCommit _ _ _ _ _ _ _ => exact next hs.doDecoderCommit
  | decMapWrite _ _ _ _ _ => exact next hs.doDecMapWrite
  | memRd _ _ _ _ _ _ _ => exact next hs.receive
  | memWr _ _ _ _ _ _ _ _ => exact next hs.receive
  | memWrPtl _ _ _ _ _ _ _ _ => exact next hs.receive
  | memInv _ _ _ _ _ _ => exact next hs.receive
  | memClnEvct _ _ _ _ _ _ => exact next hs.receive
  | admissionWindow => exact next hs.doAdmissionWindow.allSettle
  | walkStart => exact next hs.doWalkStart
  | walkRead _ _ _ => exact next hs.doWalkRead
  | sheafFill _ _ => exact next hs.doSheafFill
  | sheafInvalidate _ _ => exact next hs.doSheafInvalidate
  | invTimeout => exact next hs.doInvTimeout
  | walkCacheFlush _ _ => exact next hs.doWalkCacheFlush
  | pinnedReinstall => exact next hs.doPinnedReinstall
  | homeRequest _ _ _ => exact next hs.doHomeRequest.allSettle
  | holdEnd _ _ => exact next hs.doHoldEnd.allSettle
  | birsp _ _ _ _ => exact next hs.doBirspPort
  | biConflict _ _ _ => exact next hs.doBiConflict
  | biTimeout _ _ => exact next hs.doBiTimeout
  | homeMemoryDone _ _ _ => exact next hs.doHomeMemoryDone.allSettle
  | culmNodeFetchDone _ _ _ _ => exact next hs.doCulmNodeFetchDone
  | reencryptionDone _ _ => exact next hs.doReencryptionDone.allSettle
  | culmRetagDone _ _ => exact next hs.doCulmRetagDone
  | homeResponse _ _ => exact next hs.doHomeResponse
  | pageHold _ _ _ => exact next hs.doPageHold
  | pageRelease _ _ _ => exact next hs.doPageRelease.allSettle
  | pageRecall _ _ _ => exact next hs.doPageRecall
  | parkRetryResend _ _ => exact next hs.doParkRetryResend
  | orderedModeWrite _ _ _ => exact next hs.doOrderedModeWrite
  | loadGen _ _ => exact next hs.doLoadGen
  | loadKey _ _ => exact next hs.doLoadKey
  | setPolicy _ _ => exact next hs.doSetPolicy
  | retire _ _ => exact next hs.doRetire
  | query _ _ => exact next hs.doQuery
  | badOp _ _ _ => exact next hs.doBadOp
  | retireDrainComplete => exact next hs.doRetireDrainComplete.eraseSteps
  | retireTimeout => exact next hs.doRetireTimeout
  | keyMsgLoad _ => exact next hs.doKeyMsg
  | keyMsgRetire _ => exact next hs.doKeyMsg
  | keyMsgRegen _ => exact next hs.doKeyMsg
  | keyMsgPolicy _ => exact next hs.doKeyMsg
  | keyMsgQuery _ => exact next hs.doKeyMsg
  | spdmRequest _ _ _ => exact next hs.doSpdmRequest
  | doeDiscovery _ _ _ => exact next hs.doDoeDiscovery
  | cdatTableAccess _ _ => exact next hs.doCdatTableAccess
  | compressionJobDone _ _ _ => exact next hs.doCompressionJobDone.allSettle
  | forwardRepoint _ _ => exact next hs.doForwardRepoint
  | stockRefill _ => exact next hs.doStockRefill.allSettle
  | hotEpoch => exact next hs.doHotEpoch
  | heldWriteRelease _ => exact next hs.doHeldWriteRelease.allSettle
  | migrationRecall _ => exact next hs.doMigrationRecall
  | migrationCopy _ _ _ => exact next hs.doMigrationCopy
  | migrationRelease _ => exact next hs.doMigrationRelease.allSettle
  | promote _ _ _ _ => exact next hs.submit
  | demote _ _ _ _ => exact next hs.submit
  | retirePage _ _ _ => exact next hs.submit
  | retireBank _ _ _ _ _ _ _ => exact next hs.submit
  | portEnable _ _ _ => exact next hs.submit.allSettle
  | portDisable _ _ _ => exact next hs.submit.allSettle
  | qosSet _ _ _ _ => exact next hs.submit
  | scrubSet _ _ _ _ _ _ => exact next hs.submit
  | pin _ _ _ _ _ => exact next hs.submit
  | unpin _ _ _ _ _ => exact next hs.submit
  | leave _ _ => exact next hs.submit.allSettle
  | handover _ _ => exact next hs.submit
  | reload _ _ _ => exact next hs.submit.allSettle
  | reloadDrainTimeout => exact next hs.doReloadDrainTimeout.allSettle
  | rest _ _ => exact next hs.submit
  | badProposal _ _ => exact next hs.submit.allSettle
  | gateOverrun _ _ => exact next hs.doGateOverrun
  | refab _ _ => exact next hs.doRefab
  | refreshEnd _ _ => exact next hs.doRefreshEnd
  | dimmTempRead _ _ _ => exact next hs.doDimmTempRead
  | neighborRefreshSlice2 _ _ => exact next hs.doNeighborRefreshSlice2
  | actCountWindow _ => exact next hs.updMc
  | recalForce _ _ _ => exact next hs.doRecalForce
  | recalRunDone _ => exact next hs.doRecalRunDone
  | calStep _ => exact next hs.doCalStep
  | calTargetWrite _ _ _ => exact next hs.doCalTargetWrite
  | scrubRead _ _ _ => exact next hs.doScrubRead
  | caParityError _ _ _ => exact next hs.doCaParityError
  | rankCopy _ _ _ => exact next hs.doRankCopy
  | bankCopy _ _ _ => exact next hs.doBankCopy
  | rankCopyLine _ _ _ => exact next hs.doRankCopyLine
  | tilDownIdleEnd => exact next hs.doTilDownIdleEnd
  | holdDownWrite _ _ => exact next hs.tilCtl
  | tilDownCommand _ _ => exact next hs.tilCtl
  | tilLanesAdapted => exact next hs.doTilLanesAdapted
  | tilTrainTimeout => exact next hs.doTilTrainTimeout
  | tilQuadsLocked => exact next hs.doTilQuadsLocked
  | tilAttestTimeout => exact next hs.doTilAttestTimeout
  | lockLoss _ => exact next hs.doLockLoss
  | idleFlit _ => exact next hs.takeRx
  | dataFlit _ _ _ => exact next hs.doDataFlit
  | macFlit _ _ _ => exact next hs.doMacFlit
  | initFlit _ _ => exact next hs.takeRx.doInitFlit
  | nakResend => exact next hs.doNakResend
  | pairTimeout => exact next hs.doPairTimeout
  | linkKey _ _ _ => exact next hs.doLinkKey
  | tillerSpdm _ => exact next hs.doTillerSpdm
  | attestDone => exact next hs.doAttestDone
  | mirrorWr _ _ _ => exact next hs.doMirrorWr.allSettle
  | mirrorPwr _ _ _ _ => exact next hs.doMirrorPwr.allSettle
  | mirrorAck _ _ => exact next hs.doMirrorAck.allSettle
  | lineFetch _ _ _ _ _ => exact next hs.doLineFetch
  | lineData _ _ _ => exact next hs.doLineData.allSettle
  | sfSync _ => exact next hs.doSfSync
  | sfReject _ => exact next hs.doSfReject.allSettle
  | resyncReq _ _ _ _ => exact next hs.doResyncReq
  | resyncZero _ _ _ => exact next hs.doResyncZero.allSettle
  | resyncDone _ _ _ _ _ => exact next hs.doResyncDone
  | resyncCopyPage => exact next hs.doResyncCopyPage
  | resyncListResend => exact next hs.doResyncListResend
  | heartbeatSend => exact next hs.doHeartbeatSend
  | heartbeat _ _ _ _ => exact next hs.doHeartbeat
  | hbMiss => exact next hs.doHbMiss
  | timeReqSend => exact next hs.doTimeReqSend
  | timeReq _ => exact next hs.doTimeReq
  | timeRsp _ _ => exact next hs.doTimeRsp
  | formReq _ => exact next hs.doFormReq
  | formRspSend => exact next hs.doFormRspSend
  | formRsp _ _ _ => exact next hs.doFormRsp
  | handoverMsg _ => exact next hs.doHandoverMsg
  | leaveMsg => exact next hs.doLeaveMsg
  | formWaitExpiry => exact next hs.doFormWaitExpiry
  | promoteGraceExpiry => exact next hs.doPromoteGraceExpiry.allSettle
  | pairFenceLow => exact next hs.doPairFenceLow
  | pairFenceReleased => exact next hs.doPairFenceReleased
  | ownAssert => exact next hs.doOwnAssert
  | ownConflict => exact next hs.doOwnConflict
  | watchdogExpiry => exact next hs.doWatchdogExpiry
  | promoteStart => exact next hs.doPromoteStart
  | promoteSealed => exact next hs.doPromoteSealed.allSettle
  | primaryResolveOpen => exact next hs.doPrimaryResolveOpen.allSettle
  | syncLagExpiry => exact next hs.doSyncLagExpiry
  | reissueWindowEnd => exact next hs.doReissueWindowEnd
  | handoverSend => exact next hs.doHandoverSend.allSettle
  | pairCtlHandover _ _ => exact next hs.pairCtl.allSettle
  | pairCtlLeave _ _ => exact next hs.pairCtl.allSettle
  | feedQualify _ _ => exact next hs.doFeedQualify
  | feedUnderVoltage _ _ => exact next hs.doFeedUnderVoltage
  | feedOverVoltage _ _ => exact next hs.doFeedOverVoltage
  | reverseCurrent _ _ => exact next hs.doReverseCurrent
  | inputLost _ => exact next hs.doInputLost
  | insertionDelayEnd => exact next hs.doInsertionDelayEnd
  | outputOn _ _ => exact next hs.doOutputOn
  | outputOff _ _ => exact next hs.doOutputOff
  | outputRampStart _ => exact next hs.doOutputRampStart
  | rampDone _ _ => exact next hs.doRampDone
  | enhanceDone _ => exact next hs.doEnhanceDone
  | currentLimit _ _ => exact next hs.doCurrentLimit
  | limitClear _ _ => exact next hs.doLimitClear
  | fastTrip _ _ => exact next hs.doFastTrip
  | faultTimer _ => exact next hs.doFaultTimer
  | curveTrip _ => exact next hs.doCurveTrip
  | rampTimeout _ => exact next hs.doRampTimeout
  | fetOpen _ => exact next hs.doFetOpen
  | fetShort _ => exact next hs.doFetShort
  | outputDischarged _ _ => exact next hs.doOutputDischarged
  | cooldownEnd _ _ => exact next hs.doCooldownEnd
  | huskSealArm _ _ => exact next hs.doHuskSealArm
  | huskLinkLost => exact next hs.doHuskLinkLost
  | pfwAssert _ => exact next hs.doPfwAssert
  | pfwRelease _ => exact next hs.doPfwRelease
  | pfwNLow => exact next hs.doPfwNLow
  | pfwNHigh => exact next hs.doPfwNHigh
  | pwrCtlRest _ _ => exact next hs.doPwrCtlRest
  | stookDrain => exact next hs.doStookDrain
  | stookMirrorTimeout => exact next hs.doStookMirrorTimeout
  | stookDrop => exact next hs.doStookDrop
  | stookFlush => exact next hs.doStookFlush
  | stookSeal => exact next hs.doStookSeal
  | stookSelfRefresh => exact next hs.doStookSelfRefresh
  | stookHold => exact next hs.doStookHold
  | stookPartner => exact next hs.doStookPartner
  | wakeN _ => exact next hs.doWakeN
  | wakeAlarm => exact next hs.doWakeAlarm
  | wakePerst _ _ => exact next hs.doWakePerst
  | clockGate _ => exact next hs.doClockGate
  | dozeEntry => exact next hs.doDozeEntry
  | dozeExit => exact next hs.doDozeExit
  | avsRequest _ _ => exact next hs.doAvsRequest
  | avsAck => exact next hs.doAvsAck
  | avsTimeout => exact next hs.doAvsTimeout
  | germRestart => exact next hs.doGermRestart
  | germRestartDone => exact next hs.doGermRestartDone.eraseSteps.allSettle
  | branRestart => exact next hs.doBranRestart
  | qpEnable _ _ _ => exact next hs.doQpEnable
  | sqTailWrite _ _ _ => exact next hs.doSqTailWrite
  | cqHeadWrite _ _ _ => exact next hs.doCqHeadWrite
  | zero _ _ _ => exact next ((hs.cqRun fun _ _ h => h.blankGo).allSettle)
  | discard _ _ _ => exact next ((hs.cqRun fun _ _ h => h.blankGo).allSettle)
  | copy _ _ _ => exact next ((hs.cqRun fun _ _ h => h.copyGo).allSettle)
  | fetchAdd _ _ _ => exact next ((hs.cqRun fun _ _ h => h.atomicGo).allSettle)
  | swap _ _ _ => exact next ((hs.cqRun fun _ _ h => h.atomicGo).allSettle)
  | cas8 _ _ _ => exact next ((hs.cqRun fun _ _ h => h.atomicGo).allSettle)
  | cas16 _ _ _ => exact next ((hs.cqRun fun _ _ h => h.atomicGo).allSettle)
  | hintHot _ _ _ => exact next ((hs.cqRun fun _ _ h => h.hintPages).allSettle)
  | hintCold _ _ _ => exact next ((hs.cqRun fun _ _ h => h.hintPages).allSettle)
  | cqPin _ _ _ => exact next ((hs.cqRun fun _ _ h => h.pinGo).allSettle)
  | cqUnpin _ _ _ => exact next ((hs.cqRun fun _ _ h => h.pinGo).allSettle)
  | flush _ _ => exact next ((hs.cqRun fun _ _ h => h.flushGo).allSettle)
  | loopback _ _ _ => exact next ((hs.cqRun fun _ _ h => h.loopbackGo).allSettle)
  | badDesc _ _ => exact next hs.doBadDesc
  | identify _ _ => exact next (hs.mailbox hs.mboxFree)
  | backgroundOperationStatus _ _ => exact next (hs.mailbox hs.eraseSteps)
  | getResponseMessageLimit _ _ => exact next (hs.mailbox hs.mboxFree)
  | getEventRecords _ _ _ => exact next (hs.mailbox hs.getEvents)
  | clearEventRecords _ _ _ _ _ => exact next (hs.mailbox hs.clearEvents)
  | getEventInterruptPolicy _ _ => exact next (hs.mailbox hs)
  | setEventInterruptPolicy _ _ _ => exact next (hs.mailbox (.ite_state hs hs))
  | getFwInfo _ _ => exact next (hs.mailbox hs.fwInfo)
  | transferFw _ _ _ _ _ _ => exact next (hs.mailbox hs.transfer)
  | activateFw _ _ _ _ => exact next (hs.mailbox hs.activateCopy)
  | getTimestamp _ _ => exact next (hs.mailbox hs)
  | setTimestamp _ _ _ => exact next (hs.mailbox hs.updMbox)
  | getSupportedLogs _ _ => exact next (hs.mailbox hs)
  | getLog _ _ _ _ => exact next (hs.mailbox (.ite_state hs hs))
  | identifyMemoryDevice _ _ => exact next (hs.mailbox hs.identifyMemory)
  | getPartitionInfo _ _ => exact next (hs.mailbox hs)
  | getHealthInfo _ _ => exact next (hs.mailbox hs.mboxFree)
  | getAlertConfiguration _ _ => exact next (hs.mailbox hs)
  | setAlertConfiguration _ _ _ => exact next (hs.mailbox hs.updMbox)
  | getShutdownState _ _ => exact next (hs.mailbox hs)
  | setShutdownState _ _ _ => exact next (hs.mailbox (.ite_state hs hs.updMbox))
  | getPoisonList _ _ _ _ _ => exact next (hs.mailbox hs.poisonList)
  | injectPoison _ _ _ _ => exact next (hs.mailbox hs.injectPoisonAt)
  | clearPoison _ _ _ _ _ => exact next (hs.mailbox hs.clearPoisonAt)
  | getScanMediaCapabilities _ _ _ _ _ => exact next (hs.mailbox (.ite_state hs hs.frame))
  | scanMedia _ _ _ _ _ => exact next (hs.mailbox hs.scan)
  | getScanMediaResults _ _ => exact next (hs.mailbox hs)
  | sanitize _ _ _ => exact next (hs.mailbox hs.erase)
  | secureErase _ _ _ => exact next (hs.mailbox hs.erase)
  | getLdInfo _ _ => exact next (hs.mailbox hs.ldInfo)
  | getLdAllocations _ _ => exact next (hs.mailbox hs.ldAllocations)
  | unsupportedOpcode _ _ _ => exact next (.ite hs (hs.mailbox hs))
  | bootFlashWrite _ _ _ => exact next hs.doBootFlashWrite
  | mctpControl _ => exact next hs.doMctpControl
  | pldmType0 _ => exact next hs.doPldmType0
  | pldmType2 _ => exact next hs.doPldmType2
  | zalouxVendorMessage _ => exact next hs.doZalouxVendorMessage
  | causeClear _ _ _ => exact next hs.doCauseClear
  | causeMaskWrite _ _ _ => exact next hs.doCauseMaskWrite
  | feRearm _ _ => exact next hs.doFeRearm
  | forceReport _ _ _ => exact next hs.doForceReport
  | forceArm _ _ _ => exact next hs.doForceArm
  | forceDisarm _ _ => exact next hs.doForceDisarm
  | injectionOrderedMode => exact next hs.doInjectionOrderedMode
  | badAccess _ _ _ _ => exact next hs.doBadAccess
  | registerWrite _ _ _ _ => exact next hs.doRegisterWrite
  | perfSelWrite _ _ _ => exact next hs.doPerfSelWrite
  | perfCountWrite _ _ _ => exact next hs.doPerfCountWrite
  | clearAll _ _ => exact next hs.doClearAll
  | freeze _ _ => exact next hs.doFreeze
  | windowEn _ _ => exact next hs.doWindowEn
  | perfWindowStart => exact next hs.doPerfWindowStart
  | windowDone => exact next hs.doWindowDone
  | pllUnlock _ => exact next hs.doPllUnlock
  | timebaseRelock => exact next hs.doTimebaseRelock
  | thermalWarn _ _ => exact next hs.doThermalWarn
  | thermalTrip _ _ => exact next hs.doThermalTrip
  | failedFlit _ _ => exact next hs.doFailedFlit
  | symbolLockLost _ => exact next hs.doSymbolLockLost
  | symbolLockRegained _ => exact next hs.doSymbolLockRegained
  | outputRegulationTimeout _ => exact next hs.doOutputRegulationTimeout
  | regulationFloorCrossed _ _ => exact next hs.doRegulationFloorCrossed
  | breakerCurveSample _ _ _ _ => exact next hs.sampleCurve.sampleCurve.sampleCurve.sampleCurve
  | latchedWakeRelease => exact next hs.doLatchedWakeRelease
  | pairPeerOwnNChange _ => exact next hs.doPairPeerOwnNChange
  | linkL1Entry _ _ => exact next hs.doLinkL1Entry
  | pmicFault _ => exact next hs.doPmicFault

/-- Settles O59. Whatever follows without a reset of the whole device keeps the domain down and a VIRAL port VIRAL. -/
theorem viralLeftOnlyByReset : Obligations.ViralLeftOnlyByReset := by
  unfold Obligations.ViralLeftOnlyByReset
  intro c s t hdown hc hstep
  have h := (Evolves.refl s).exec hc t hstep
  exact ⟨h.down hdown, h.viral hdown⟩

end Sys2Proof.Machine

/-! # PERST# at a port with a partner's write in ingress (R55, R112) -/

namespace Sys2Proof.Machine

/-- A partner's write whose address fails its parity at stage 2, from where its key is checked (R21). -/
def badAddressWrite : Req :=
  { rawReq 0 (.mirror ⟨false, false, false, 0, 0, 0, 0, 0, 0, 0, 0⟩) 0 .wr 0 0 0 false with
    par := { Parity.good with address := true, stage := .key } }

/-- The port is in TRAINING, PERST# is released, and the write waits in the port's ingress. -/
def trainingWithBadWrite : State :=
  { State.reset with
    pins := { State.reset.pins with perst := Vector.replicate 4 false }
    ports := State.reset.ports.set 0 { State.reset.ports[0] with
      state := .training, reqs := [⟨badAddressWrite, .ingress, false, false, false, false⟩] } }

/-- What waits in ingress goes on once PERST# has cleared the port, and the write takes the coherent domain down (R23, R112). -/
theorem perstAssert_takes_domain_down : (doPerstAssert 0 trainingWithBadWrite).spks[0].domainDown = true := by
  decide +kernel

/-- Refutes O8 in its first clause, which says that PERST# at a port that did not serve leaves every spikelet as it was. It does
not ask that the open requests carry no control parity error: a write in ingress that has one goes on when the port settles, and
takes the coherent domain down at every spikelet (R112). -/
theorem not_portResetAndLinkTraining : ¬ Obligations.PortResetAndLinkTraining := by
  unfold Obligations.PortResetAndLinkTraining
  rintro ⟨⟨hassert, -⟩, -⟩
  obtain ⟨t, ht, -, -, -, -, -, -, -, -, -, -, -, hspks, -⟩ :=
    hassert 0 trainingWithBadWrite (by decide +kernel) (by decide +kernel)
  have hdown := perstAssert_takes_domain_down
  rw [show doPerstAssert 0 trainingWithBadWrite = t from Host.Outcome.next.inj ht, hspks] at hdown
  exact absurd hdown (by decide +kernel)

end Sys2Proof.Machine

/-! # The DOE instances of the links (R3, R24, R43, R44) -/

namespace Sys2Proof.Machine

/-! ## The way to Germ -/

theorem overLink_serves {p l : Fin 4} {w : GermWait} {f : State → State} {s : State} (hup : s.ports[p].links[l].up = true)
    (hgerm : s.fw.germUp = true) : overLink p l w f s = f s := by
  rw [overLink, if_pos hup, askGerm, if_pos hgerm]

theorem overLink_waits {p l : Fin 4} {w : GermWait} {f : State → State} {s : State} (hup : s.ports[p].links[l].up = true)
    (hgerm : s.fw.germUp = false) : overLink p l w f s = { s with fw := { s.fw with waits := s.fw.waits ++ [w] } } := by
  rw [overLink, if_pos hup, askGerm, hgerm]
  rfl

theorem overLink_down {p l : Fin 4} {w : GermWait} {f : State → State} {s : State} (hup : s.ports[p].links[l].up = false) :
    overLink p l w f s = s := by
  rw [overLink, hup]
  rfl

/-! ## Discovery -/

theorem serveDiscovery_eq (p l : Fin 4) (k : Nat) (s : State) :
    serveDiscovery p l k s = { s with out := s.out ++ [.doeProtocol p l k
      (if k = 0 then some .discovery else if k = 1 then some .cmaSpdm else if k = 2 then some .securedCmaSpdm
        else if k = 3 then some .cdat else none)] } := by
  match k with
  | 0 => rfl
  | 1 => rfl
  | 2 => rfl
  | 3 => rfl
  | n + 4 => rfl

/-! ## CDAT -/

/-- The checksum byte of the header makes the bytes of the table sum to 0. -/
theorem cdatBytes_sum (es : List (Nat × Nat × Nat)) (bw : Nat) : ((cdatBytes es bw).map (·.toNat)).sum % 256 = 0 := by
  simp only [cdatBytes, natToBytes, List.map_append, List.map_cons, List.map_nil, List.sum_append, List.sum_cons, List.sum_nil,
    BitVec.toNat_ofNat]
  omega

theorem mem_linkRegions {p l : Fin 4} {s : State} {ld : Nat} {rg : Region} (hld : ld < 16) (hrg : rg ∈ regions s)
    (hvalid : (ldRec s (16 * p.val + ld)).valid = true) (hlink : (ldRec s (16 * p.val + ld)).link = l.val)
    (hreach : ldReaches (16 * p.val + ld) rg = true) : (ld, rg.dpaBase, 2 ^ rg.size) ∈ linkRegions p l s := by
  refine List.mem_flatMap.2 ⟨ld, List.mem_filter.2 ⟨List.mem_range.2 hld, ?_⟩, ?_⟩
  · simp [hvalid, hlink]
  · exact List.mem_map.2 ⟨rg, List.mem_filter.2 ⟨hrg, hreach⟩, rfl⟩

/-! ## SPDM -/

theorem serveSpdm_version {p l : Fin 4} {h : SpdmReq} {s : State} (hcode : h.code ≠ 0x84) (hversion : h.version ≠ 0x13) :
    serveSpdm p l h s = emit (.spdmError p l .versionMismatch) s := by
  rw [serveSpdm, if_neg hcode, if_pos hversion]

theorem serveSpdm_unsupported {p l : Fin 4} {h : SpdmReq} {s : State} (hversion : h.version = 0x13) (hget : h.code ≠ 0x84)
    (hcode : h.code ∉ spdmOpenCodes ++ spdmSessionCodes) :
    serveSpdm p l h s = emit (.spdmError p l .unsupportedRequest) s := by
  rw [List.mem_append, not_or] at hcode
  obtain ⟨hopen, hsession⟩ := hcode
  simp [serveSpdm, hget, hversion, hopen, hsession]

/-- A KEY_EXCHANGE opens a session where one is left, and fails where none is. -/
theorem serveSpdm_keyExchange {p l : Fin 4} {h : SpdmReq} {s : State} (hversion : h.version = 0x13) (hcode : h.code = 0xE4) :
    serveSpdm p l h s =
      if 2 ≤ s.ports[p].links[l].sessions ∨ 32 ≤ sessionCount s then emit (.spdmError p l .sessionLimitExceeded) s
      else spdmAnswer p l h 0 0 [] 64 (updLink p l (fun k => { k with sessions := k.sessions + 1 }) s) := by
  simp [serveSpdm, hversion, hcode, spdmSessionCodes, spdmOpenCodes, spdmEndSession, spdmKeyExchange]

/-- What the answer to a KEY_EXCHANGE begins with. -/
theorem spdmAnswer_keyExchange {p l : Fin 4} {h : SpdmReq} {n : Nat} {s : State} (hcode : h.code = 0xE4) :
    ∃ body, (spdmAnswer p l h 0 0 [] n s).out = s.out ++ [.spdm p l 0xE4 (0x13 :: 0x64 :: 0 :: 0 :: body)] := by
  refine ⟨(freeTail n s).1, ?_⟩
  rw [spdmAnswer, hcode]
  rfl

/-- Settles O28. Over a link that is up a request reaches Germ, and each answer is what R43, R44 and Table 2.4 name. -/
theorem doeAnswersOverLink : Obligations.DoeAnswersOverLink := by
  unfold Obligations.DoeAnswersOverLink
  refine fun p l h s => ⟨fun hup hgerm => ⟨fun k => ?_, ?_, fun hversion hcode hlink hdevice => ?_,
    fun hversion hcode hfull => ?_,
    fun hget hversion => ?_, fun hversion hget hcode => ?_⟩, fun hup hgerm k c w hc => ?_, fun hup k c hc => ?_⟩
  · exact congrArg Host.Outcome.next ((overLink_serves hup hgerm).trans (serveDiscovery_eq p l k s))
  · exact completes_of_next (congrArg Host.Outcome.next (overLink_serves hup hgerm))
      ⟨rfl, _, _, rfl, cdatBytes_sum _ _, fun ld rg => mem_linkRegions⟩
  · refine completes_of_next (congrArg Host.Outcome.next ((overLink_serves hup hgerm).trans
      ((serveSpdm_keyExchange hversion hcode).trans (if_neg (by omega))))) ⟨rfl, updAt_get_same ..,
      fun q hq => updAt_get_other _ _ (Ne.symm hq), spdmAnswer_keyExchange hcode⟩
  · exact congrArg Host.Outcome.next ((overLink_serves hup hgerm).trans
      ((serveSpdm_keyExchange hversion hcode).trans (if_pos hfull)))
  · exact congrArg Host.Outcome.next ((overLink_serves hup hgerm).trans (serveSpdm_version hget hversion))
  · exact congrArg Host.Outcome.next ((overLink_serves hup hgerm).trans (serveSpdm_unsupported hversion hget hcode))
  · simp only [List.mem_cons, Prod.mk.injEq, List.not_mem_nil, or_false] at hc
    obtain ⟨rfl, rfl⟩ | ⟨rfl, rfl⟩ | ⟨rfl, rfl⟩ := hc
    · exact congrArg Host.Outcome.next (overLink_waits hup hgerm)
    · exact congrArg Host.Outcome.next (overLink_waits hup hgerm)
    · exact congrArg Host.Outcome.next (overLink_waits hup hgerm)
  · simp only [List.mem_cons, List.not_mem_nil, or_false] at hc
    obtain rfl | rfl | rfl := hc
    · exact congrArg Host.Outcome.next (overLink_down hup)
    · exact congrArg Host.Outcome.next (overLink_down hup)
    · exact congrArg Host.Outcome.next (overLink_down hup)

end Sys2Proof.Machine

/-! # The mailbox (R48, R341, R378, R423, Table 2.5) -/

namespace Sys2Proof.Machine

/-! ## Writes of a mailbox -/

theorem updAt_updAt {α : Type} {n : Nat} (v : Vector α n) (i : Fin n) (f g : α → α) :
    updAt (updAt v i f) i g = updAt v i fun x => g (f x) := by
  simp [updAt]

theorem updMbox_updMbox (p l : Fin 4) (f g : Mailbox → Mailbox) (s : State) :
    updMbox p l g (updMbox p l f s) = updMbox p l (fun b => g (f b)) s := by
  simp only [updMbox, updPort, updAt_updAt]

@[simp] theorem mbox_updMbox_same (p l : Fin 4) (f : Mailbox → Mailbox) (s : State) :
    (updMbox p l f s).ports[p].mbox[l] = f s.ports[p].mbox[l] := by
  simp only [updMbox, updPort, updAt_get_same]

/-! ## The four ways that a command can go -/

section Ways

variable {p l : Fin 4} {op : Nat} {f : State → MboxDone} {s : State}

theorem mailbox_unreachable (h : mboxReachable s p l = false) : mailbox p l op f s = s := by
  rw [mailbox, h]
  rfl

theorem mailbox_waits (h : mboxReachable s p l = true) (hgerm : germServes s = false) (hbran : s.fw.branUp = false) :
    mailbox p l op f s = updMbox p l (fun b => { b with busy := true, opcode := op }) s := by
  rw [mailbox, h, hgerm, hbran]
  rfl

theorem mailbox_unsupported (h : mboxReachable s p l = true) (hgerm : germServes s = true)
    (hop : germOpcodes.contains op = false) : mailbox p l op f s = mailDone p l op 3 [] id s := by
  rw [mailbox, h, hgerm, hop]
  rfl

theorem mailbox_serves (h : mailServes s p l op = true) :
    mailbox p l op f s = emit (.mailbox p l op (f s).code (f s).payload)
      (updMbox p l (fun b => { b with opcode := op, retCode := (f s).code }) (f s).state) := by
  rw [mailServes, Bool.and_eq_true] at h
  obtain ⟨hreach, hserved⟩ := h
  rw [mailbox, hreach]
  split at hserved
  · next hgerm =>
    rw [hgerm, hserved]
    rfl
  · next hgerm =>
    rw [Bool.not_eq_true] at hgerm
    rw [hgerm, hserved]
    rfl

/-- The command answers and leaves the state it was served in. -/
theorem mailbox_answers {code : Nat} {bs : List Byte} {t : State} (h : mailServes s p l op = true) (hf : f s = ⟨code, bs, t⟩) :
    mailbox p l op f s = mailDone p l op code bs id t := by
  rw [mailbox_serves h, hf]
  rfl

/-- The command stores in its mailbox. -/
theorem mailbox_sets {g : Mailbox → Mailbox} (h : mailServes s p l op = true) (hf : f s = mboxOk [] (updMbox p l g s)) :
    mailbox p l op f s = mailDone p l op 0 [] g s := by
  rw [mailbox_serves h, hf]
  simp only [mboxOk, updMbox_updMbox]
  rfl

/-- A command that is served completes with its return code and payload. -/
theorem mailbox_completes (h : mailServes s p l op = true) :
    ∃ code bs, (mailbox p l op f s).out.getLast? = some (.mailbox p l op code bs) ∧
      (mailbox p l op f s).ports[p].mbox[l].opcode = op ∧ (mailbox p l op f s).ports[p].mbox[l].retCode = code := by
  refine ⟨(f s).code, (f s).payload, ?_⟩
  rw [mailbox_serves h]
  refine ⟨List.getLast?_concat .., ?_⟩
  simp only [emit, mbox_updMbox_same, and_self]

end Ways

/-! ## Event records -/

theorem natToBytes_length (n x : Nat) : (natToBytes n x).length = n := by
  induction n generalizing x with
  | zero => rfl
  | succ n ih => rw [natToBytes, List.length_cons, ih]

/-- Flags, handle and timestamp of an event record, as they stand at byte 16. -/
def eventHeader (b : Mailbox) (e : EventRec) : List Byte :=
  natToBytes 1 128 ++ natToBytes 3 e.code ++ natToBytes 2 e.handle ++ natToBytes 2 0 ++ natToBytes 8 (stampAt b e.time)

theorem eventBytes_state (b : Mailbox) (e : EventRec) (s : State) : (eventBytes b e s).2 = { s with free := s.free + 3 } := rfl

/-- A record is 128 bytes, with its header at byte 16. -/
theorem eventBytes_shape (b : Mailbox) (e : EventRec) (s : State) : ∃ u v : List Byte, u.length = 16 ∧ v.length = 96 ∧
    (eventBytes b e s).1 = u ++ eventHeader b e ++ v := by
  refine ⟨(freeBytes 16 s).1,
    natToBytes 16 0 ++ (freeBytes 64 (freeBytes 16 s).2).1 ++ (freeBytes 16 (freeBytes 64 (freeBytes 16 s).2).2).1,
    natToBytes_length .., ?_, ?_⟩
  · simp only [List.length_append, freeBytes, natToBytes_length]
  · simp only [eventBytes, eventHeader, List.append_assoc]

theorem eventHeader_length (b : Mailbox) (e : EventRec) : (eventHeader b e).length = 16 := by
  simp only [eventHeader, List.length_append, natToBytes_length]

theorem eventsBytes_state (b : Mailbox) (es : List EventRec) (s : State) :
    (eventsBytes b es s).2 = { s with free := s.free + 3 * es.length } := by
  induction es generalizing s with
  | nil => rfl
  | cons e es ih =>
    show (eventsBytes b es (eventBytes b e s).2).2 = _
    rw [ih, eventBytes_state, List.length_cons]
    simp only [State.mk.injEq, and_true, true_and]
    omega

theorem eventsBytes_length (b : Mailbox) (es : List EventRec) (s : State) :
    (eventsBytes b es s).1.length = 128 * es.length := by
  induction es generalizing s with
  | nil => rfl
  | cons e es ih =>
    obtain ⟨u, v, hu, hv, hrec⟩ := eventBytes_shape b e s
    show ((eventBytes b e s).1 ++ (eventsBytes b es (eventBytes b e s).2).1).length = _
    rw [List.length_append, ih, hrec, List.length_append, List.length_append, hu, hv, eventHeader_length, List.length_cons]
    omega

/-- Record `i` of the payload stands at byte `128 * i`. -/
theorem eventsBytes_header (b : Mailbox) (es : List EventRec) (s : State) (i : Nat) (e : EventRec) (he : es[i]? = some e) :
    ((eventsBytes b es s).1.drop (128 * i + 16)).take 16 = eventHeader b e := by
  induction es generalizing i s with
  | nil => cases he
  | cons e0 es ih =>
    obtain ⟨u, v, hu, hv, hrec⟩ := eventBytes_shape b e0 s
    have hlen : (u ++ eventHeader b e0 ++ v).length = 128 := by
      simp only [List.length_append, hu, hv, eventHeader_length]
    show (((eventBytes b e0 s).1 ++ (eventsBytes b es (eventBytes b e0 s).2).1).drop _).take 16 = _
    rw [hrec]
    cases i with
    | zero =>
      cases he
      simp only [List.append_assoc, Nat.mul_zero, Nat.zero_add]
      rw [List.drop_left' hu, List.take_left' (eventHeader_length b e)]
    | succ i =>
      rw [List.drop_append, List.drop_of_length_le (by omega), List.nil_append, hlen,
        show 128 * (i + 1) + 16 - 128 = 128 * i + 16 by omega]
      exact ih _ i he

/-- At most one event is logged, behind those that stand. -/
theorem logEvents_spec (p l : Fin 4) (s : State) : ∃ es : List EventRec, es.length ≤ 1 ∧
    (logEvents p l s).ports[p].mbox[l] = { s.ports[p].mbox[l] with events := s.ports[p].mbox[l].events ++ es } ∧
    logEvents p l s = { s with
      free := (logEvents p l s).free, seq := (logEvents p l s).seq, ports := (logEvents p l s).ports } := by
  unfold logEvents
  dsimp only
  split
  · exact ⟨[], by simp, by simp [drawChoice], rfl⟩
  · exact ⟨[_], by simp, mbox_updMbox_same .., rfl⟩

/-- Get Event Records of a log that Table 2.5 has. -/
theorem getEvents_state {p l : Fin 4} {log : Nat} {s : State} (hlog : log ≤ 3) :
    ∃ (es : List EventRec) (bs : List Byte) (u : State),
    let b := s.ports[p].mbox[l]
    let rs := (b.events ++ es).filter (·.code = log)
    es.length ≤ 1 ∧ bs.length = 128 * rs.length ∧ (∀ i e, rs[i]? = some e → (bs.drop (128 * i + 16)).take 16 = eventHeader b e) ∧
    getEvents p l log s = mboxOk (natToBytes 20 0 ++ natToBytes 2 rs.length ++ natToBytes 10 0 ++ bs) u ∧
    u = { s with free := u.free, seq := u.seq, ports := u.ports } ∧ u.ports[p].mbox[l] = { b with events := b.events ++ es } := by
  obtain ⟨es, hes, hbox, hframe⟩ := logEvents_spec p l s
  let b' : Mailbox := { s.ports[p].mbox[l] with events := s.ports[p].mbox[l].events ++ es }
  let rs := b'.events.filter (·.code = log)
  have hstate := eventsBytes_state b' rs (logEvents p l s)
  refine ⟨es, (eventsBytes b' rs (logEvents p l s)).1, (eventsBytes b' rs (logEvents p l s)).2, hes, eventsBytes_length ..,
    eventsBytes_header b' rs (logEvents p l s), ?_, ?_, ?_⟩
  · rw [getEvents, if_neg (by omega)]
    dsimp only
    rw [hbox]
  · rw [hstate, hframe]
  · rw [hstate]
    exact hbox

theorem mailbox_getEvents {p l : Fin 4} {log : Nat} {s : State} (hlog : log ≤ 3) (h : mailServes s p l 0x0100 = true) :
    let b := s.ports[p].mbox[l]
    Completes (.getEventRecords p l log) s fun t =>
       t = { s with free := t.free, seq := t.seq, ports := t.ports, out := t.out } ∧
       ∃ es bs, t.ports[p].mbox[l] = { b with events := b.events ++ es, opcode := 0x0100, retCode := 0 } ∧ es.length ≤ 1 ∧
         let rs := (b.events ++ es).filter (·.code = log)
         bs.length = 128 * rs.length ∧
         t.out = s.out ++ [.mailbox p l 0x0100 0 (natToBytes 20 0 ++ natToBytes 2 rs.length ++ natToBytes 10 0 ++ bs)] ∧
         ∀ i e, rs[i]? = some e → (bs.drop (128 * i + 16)).take 16 = eventHeader b e := by
  obtain ⟨es, bs, u, hes, hbs, hheader, hget, hframe, hbox⟩ := getEvents_state (p := p) (l := l) (s := s) hlog
  refine completes_of_next (congrArg Host.Outcome.next (mailbox_serves h)) ?_
  simp only [hget, mboxOk]
  refine ⟨?_, es, bs, ?_, hes, hbs, ?_, hheader⟩
  · rw [hframe]
    rfl
  · show (updMbox p l _ u).ports[p].mbox[l] = _
    rw [mbox_updMbox_same, hbox]
    rfl
  · rw [hframe]
    rfl

/-! ## The other commands -/

theorem eraseSteps_idle {s : State} (h : s.fw.erasing = []) : eraseSteps s = s := by
  rw [eraseSteps, h, List.map_nil, List.sum_nil, Nat.zero_add, eraseStep]
  split
  · rfl
  · rw [h]

theorem bgStatus_idle {p l : Fin 4} {s : State} (h : s.fw.erasing = []) :
    bgStatus p l (eraseSteps s) = mboxOk (natToBytes 2 (if s.ports[p].mbox[l].bgDone then 200 else 0) ++
      natToBytes 2 s.ports[p].mbox[l].bgOpcode ++ natToBytes 4 0) s := by
  rw [eraseSteps_idle h, bgStatus, show backgroundOpen s p l = false by simp only [backgroundOpen, h]; rfl]
  rfl

/-- The records that Clear Event Records leaves. -/
theorem clearEvents_found {p l : Fin 4} {log : Nat} {all : Bool} {handles : List Nat} {s : State} (hlog : log ≤ 3)
    (hfound : all = true ∨ ∀ h ∈ handles, ∃ e ∈ s.ports[p].mbox[l].events, e.code = log ∧ e.handle = h) :
    clearEvents p l log all handles s = mboxOk [] (updMbox p l (fun b => { b with
      events := s.ports[p].mbox[l].events.filter fun e => !(e.code = log && (all || handles.contains e.handle)) }) s) := by
  rw [clearEvents, if_neg (by omega)]
  cases all with
  | true =>
    rw [if_pos rfl]
    simp only [Bool.true_or, Bool.and_true, ne_eq, decide_not]
  | false =>
    have hall : (handles.all fun h => s.ports[p].mbox[l].events.any fun e => e.code = log && e.handle = h) = true := by
      simpa using hfound
    rw [if_neg Bool.false_ne_true, hall]
    simp only [Bool.not_true, Bool.false_eq_true, if_false, Bool.false_or, Bool.not_and, ne_eq, decide_not]

theorem clearEvents_missing {p l : Fin 4} {log : Nat} {handles : List Nat} {s : State} (hlog : log ≤ 3)
    (hmissing : ∃ h ∈ handles, ∀ e ∈ s.ports[p].mbox[l].events, e.code = log → e.handle ≠ h) :
    clearEvents p l log false handles s = mboxFail rcInvalidHandle s := by
  have hall : (handles.all fun h => s.ports[p].mbox[l].events.any fun e => e.code = log && e.handle = h) = false := by
    simpa using hmissing
  rw [clearEvents, if_neg (by omega), if_neg Bool.false_ne_true, hall]
  rfl

/-- A command whose meaning is the mailbox under its opcode goes one of the four ways; one whose opcode is not of Table 2.5 is
Unsupported. -/
theorem mailboxCommand_ways {p l : Fin 4} {op other : Nat} {c : Instr} {f : State → MboxDone} {s : State}
    (hexec : exec c s = .next (mailbox p l op f s))
    (hf : op = other → f s = mboxFail rcUnsupported s) :
    (mboxReachable s p l = false → exec c s = .next s) ∧
    (mboxReachable s p l = true → germServes s = false → s.fw.branUp = false →
      exec c s = .next (updMbox p l (fun b => { b with busy := true, opcode := op }) s)) ∧
    (mboxReachable s p l = true → germServes s = true → germOpcodes.contains op = false →
      exec c s = .next (mailDone p l op 3 [] id s)) ∧
    (mailServes s p l op = true → Completes c s fun t => ∃ code bs, t.out.getLast? = some (.mailbox p l op code bs) ∧
      t.ports[p].mbox[l].opcode = op ∧ t.ports[p].mbox[l].retCode = code ∧ (op = other → t = mailDone p l op 3 [] id s)) := by
  refine ⟨fun h => ?_, fun h hgerm hbran => ?_, fun h hgerm hop => ?_, fun h => ?_⟩
  · rw [hexec, mailbox_unreachable h]
  · rw [hexec, mailbox_waits h hgerm hbran]
  · rw [hexec, mailbox_unsupported h hgerm hop]
  · obtain ⟨code, bs, hout, hop, hcode⟩ := mailbox_completes (f := f) h
    exact completes_of_next hexec ⟨code, bs, hout, hop, hcode, fun e => mailbox_answers h (hf e)⟩

/-- Settles O47. Every command runs the mailbox under its opcode, and goes one of its four ways; what a served one answers and
stores is told command by command. -/
theorem mailboxCommands : Obligations.MailboxCommands := by
  unfold Obligations.MailboxCommands
  refine ⟨fun p l ld log action slot off len dpa lines ns st other all online handles modes bytes v data s hother op c hc => ?_,
    fun p l log off len ns st all handles modes v s => ?_⟩
  · have hrun : ∃ f, exec c s = .next (mailbox p l op f s) ∧ (op = other → f s = mboxFail rcUnsupported s) := by
      simp only [List.mem_cons, Prod.mk.injEq, List.not_mem_nil, or_false] at hc
      iterate 31
        obtain ⟨rfl, rfl⟩ | hc := hc
        · exact ⟨_, rfl, fun e => absurd (e ▸ hother) (by decide)⟩
      obtain ⟨rfl, rfl⟩ := hc
      refine ⟨fun t => mboxFail rcUnsupported t, ?_, fun _ => rfl⟩
      show Host.Outcome.next (if mboxOpcodes.contains op then _ else _) = _
      rw [hother]
      rfl
    obtain ⟨f, hexec, hf⟩ := hrun
    exact mailboxCommand_ways hexec hf
  · intro b answers sets free named
    refine ⟨fun h => ?_, fun h => ?_, fun h => ?_, fun hidle h => ?_, fun h => ?_, fun h => ?_, fun hlog => ⟨fun h => ?_,
      fun h => ?_⟩,
      mailbox_getEvents, fun hlog hfound h => ?_, fun hlog hall hmissing h => ?_, fun h => ?_, fun h => ?_, fun h => ?_,
      fun hlen h => ?_, fun hlen h => ?_, fun h => ?_, fun h => ?_, fun h => ?_, fun h => ?_, fun h => ?_, fun hst h => ?_,
      fun hst h => ?_, fun hmode => ⟨fun h => ?_, fun h => ?_⟩, fun hmode => ⟨fun h => ?_, fun h => ?_⟩⟩
    all_goals refine congrArg Host.Outcome.next ?_
    · exact mailbox_answers h rfl
    · exact mailbox_answers h rfl
    · exact mailbox_answers h rfl
    · exact mailbox_answers h (bgStatus_idle hidle)
    · exact mailbox_answers h rfl
    · refine mailbox_answers h ?_
      split <;> rfl
    · exact mailbox_answers h (by rw [getEvents, if_pos hlog]; rfl)
    · exact mailbox_answers h (by rw [clearEvents, if_pos hlog]; rfl)
    · exact mailbox_sets h (clearEvents_found hlog hfound)
    · subst hall
      exact mailbox_answers h (clearEvents_missing hlog hmissing)
    · exact mailbox_answers h rfl
    · exact mailbox_sets h rfl
    · exact mailbox_answers h rfl
    · exact mailbox_answers h (if_neg (by omega))
    · exact mailbox_answers h (if_pos hlen)
    · exact mailbox_answers h rfl
    · exact mailbox_answers h rfl
    · exact mailbox_answers h rfl
    · exact mailbox_sets h rfl
    · exact mailbox_answers h rfl
    · exact mailbox_sets h (if_neg (by omega))
    · exact mailbox_answers h (if_pos hst)
    · exact mailbox_answers h (if_pos hmode)
    · exact mailbox_answers h (if_pos hmode)
    · exact mailbox_answers h (if_neg (not_not.2 hmode))
    · exact mailbox_answers h (if_neg (not_not.2 hmode))

end Sys2Proof.Machine

/-! # Requests that their port refuses (R22, R23, R42, R112, R117, R496, R497) -/

namespace Sys2Proof.Machine

/-! ## The message that a refused request is answered with -/

theorem port4_val (p : Fin 4) : port4 p.val = p := Fin.ext (Nat.mod_eq_of_lt p.isLt)

/-- Every request of a host but an atomic is refused with poisoned data or a bare Cmp, as it reads or not. -/
theorem refusedRsp_memCommand {p l : Fin 4} {ld : Fin 16} {tag hpa : Nat} {data : Line} {be : BitVec 64} {poison : Bool}
    {op : HomeOp} {c : Instr} (h : memCommand p l ld tag hpa data be poison op c) :
    refusedRsp op = (if isReadOp op then .data else .cmp, isReadOp op) := by
  rcases h with ⟨snp, rfl, rfl, rfl, rfl, rfl⟩ | ⟨rfl, rfl, rfl⟩ | ⟨rfl, rfl, rfl⟩ | ⟨rfl, rfl, rfl, rfl, rfl⟩ |
    ⟨rfl, rfl, rfl, rfl, rfl⟩ <;> rfl

theorem sendRsp_onlyCounted (p : Fin 4) (l ld tag : Nat) (k : RspKind) (data : Line) (poison : Bool) (devLoad : Nat) (s : State) :
    OnlyCounted { s with out := s.out ++ [.rsp p l ld tag k data poison devLoad] } (sendRsp p l ld tag k data poison devLoad s) :=
  ite_onlyCounted _ (perfPort_onlyCounted ..)

/-- The refusal of a host's request sends one message and counts. -/
theorem refuseHost_onlyCounted {q : Req} {p : Fin 4} {l ld tag : Nat} {k : RspKind} {poison : Bool}
    (hsrc : q.src = .host p l ld tag) (hrsp : refusedRsp q.op = (k, poison)) (s : State) :
    ∃ dl, OnlyCounted { s with out := s.out ++ [.rsp p l ld tag k 0 poison dl] } (refuseHost q s) := by
  refine ⟨bareDevLoad s p l q.heldOnce, ?_⟩
  simp only [refuseHost, hsrc, hrsp, port4_val]
  exact sendRsp_onlyCounted ..

theorem refuseReq_host {p : Fin 4} {q : Req} {a b c d : Nat} {status : Nat} {s : State} (hsrc : q.src = .host a b c d)
    (hkept : ∀ r ∈ s.ports[p].reqs, r.req.rid = q.rid → r.discard = false) :
    refuseReq p q status s = refuseHost q (dropReq p q.rid s) := by
  have hany : (s.ports[p].reqs.any fun r => decide (r.req.rid = q.rid) && r.discard) = false := by
    simp only [List.any_eq_false, Bool.and_eq_true, decide_eq_true_eq, not_and, Bool.not_eq_true]
    exact hkept
  simp only [refuseReq, hsrc, hany, Bool.false_eq_true, if_false]

/-! ## What stands aside from the port while a request is there -/

/-- `t` is `s` but for the ports, the counters, the headers and the power of the domains, and one number has been taken. -/
def AtPort (s t : State) : Prop :=
  t = { s with ports := t.ports, perf := t.perf, headers := t.headers, pwr := t.pwr, seq := s.seq + 1 }

theorem Carried.atPort {p : Fin 4} {s t : State} (h : Carried p s t) (hseq : t.seq = s.seq + 1) : AtPort s t := by
  rw [AtPort, ← hseq]
  exact h.frame

theorem AtPort.raise {s t : State} (h : AtPort s t) (b : Fin 40) (i : Nat) (c : Cap) : AtPort s (raise b i c t) := by
  rw [AtPort] at h ⊢
  show { t with headers := _ } = _
  rw [h]
  rfl

theorem AtPort.dropReq {s t : State} (h : AtPort s t) (p : Fin 4) (rid : Nat) : AtPort s (dropReq p rid t) := by
  rw [AtPort] at h ⊢
  show { t with ports := _ } = _
  rw [h]
  rfl

/-- The request has been answered as R496 refuses it, and nothing has been written. -/
def Answered (p l : Fin 4) (ld : Fin 16) (tag : Nat) (op : HomeOp) (s t : State) : Prop :=
  t = { s with ports := t.ports, perf := t.perf, headers := t.headers, pwr := t.pwr, out := t.out, seq := s.seq + 1 } ∧
  ∃ dl, t.out = s.out ++ [.rsp p l ld tag (if isReadOp op then .data else .cmp) 0 (isReadOp op) dl]

theorem AtPort.answered {p l : Fin 4} {ld : Fin 16} {tag : Nat} {op : HomeOp} {s u : State} {q : Req} (h : AtPort s u)
    (hsrc : q.src = .host p l ld tag) (hrsp : refusedRsp q.op = (if isReadOp op then .data else .cmp, isReadOp op)) :
    Answered p l ld tag op s (refuseHost q u) ∧ ∀ b, b ≠ blkPerf → (refuseHost q u).headers[b] = u.headers[b] := by
  obtain ⟨dl, hcount⟩ := refuseHost_onlyCounted hsrc hrsp u
  rw [AtPort] at h
  refine ⟨⟨?_, dl, ?_⟩, hcount.headers⟩
  · rw [hcount.frame, h]
  · rw [hcount.frame, h]

/-! ## The causes of a refusal -/

theorem raise_cause {b : Fin 40} {i : Nat} {c : Cap} {s : State} :
    (raise b i c s).headers[b].cause = s.headers[b].cause ||| BitVec.ofNat 32 (1 <<< i) := by
  rw [raise_header, if_pos rfl]
  exact (headerSet_spec ..).1

theorem getLsbD_raise_cause {b : Fin 40} {i : Nat} {c : Cap} {s : State} (hi : i < 32) :
    (raise b i c s).headers[b].cause.getLsbD i = true := by
  rw [raise_cause, BitVec.getLsbD_or, BitVec.getLsbD_ofNat, Nat.one_shiftLeft, Nat.testBit_two_pow_self]
  simp [hi]

theorem and_bit_of_getLsbD {x : BitVec 32} {i : Nat} (h : x.getLsbD i = true) :
    x &&& BitVec.twoPow 32 i = BitVec.twoPow 32 i := by
  rw [BitVec.and_twoPow, if_pos h]

/-- A field that ends at bit 46 leaves nothing above it. -/
theorem place_above {lo v w : Nat} (hv : v < 2 ^ w) (hw : lo + w ≤ 46) : (place lo v).toNat >>> 46 = 0 := by
  have hlow : v <<< lo < 2 ^ 46 := by
    rw [Nat.shiftLeft_eq]
    calc v * 2 ^ lo < 2 ^ w * 2 ^ lo := Nat.mul_lt_mul_of_pos_right hv (Nat.two_pow_pos lo)
      _ = 2 ^ (lo + w) := by rw [← Nat.pow_add, Nat.add_comm]
      _ ≤ 2 ^ 46 := Nat.pow_le_pow_right (by decide) hw
  rw [place, BitVec.toNat_ofNat, Nat.mod_eq_of_lt (by omega), Nat.shiftRight_eq_div_pow, Nat.div_eq_of_lt hlow]

/-- KIND of a source register stands above every other field. -/
theorem kind_feSrc {i : Nat} {c : Cap} (hkind : c.kind = 3) (hkey : c.key = none) : field (feSrc i c) 46 2 = 3 := by
  have hmaster := place_above (lo := 32) (Nat.mod_lt c.master (by decide : 0 < 2 ^ 7)) (by decide)
  have haccess := place_above (lo := 24) (Nat.mod_lt c.access (by decide : 0 < 2 ^ 4)) (by decide)
  have hbit := place_above (lo := 0) (Nat.mod_lt i (by decide : 0 < 2 ^ 5)) (by decide)
  simp only [Nat.reducePow] at hmaster haccess hbit
  simp only [field, bitsAt, feSrc, hkind, hkey, BitVec.toNat_or, Nat.shiftRight_or_distrib, hmaster, haccess, hbit]
  rfl

theorem blkPort_ne_blkPerf (p : Fin 4) : blkPort p ≠ blkPerf := by
  revert p
  decide

theorem namesAddr_port (p : Fin 4) : namesAddr (blkPort p) 5 = true ∧ namesAddr (blkPort p) 11 = true := by
  revert p
  decide

/-- What a port records of a request that it cannot carry (R42, R497). -/
def NamesHpa (p : Fin 4) (n hpa : Nat) (s t : State) : Prop :=
  s.headers[blkPort p].firstValid = false → s.headers[blkPort p].mask.getLsbD n = false →
    t.headers[blkPort p].feAddr = BitVec.ofNat 64 hpa ∧ field t.headers[blkPort p].feSrc 46 2 = 3

theorem raise_namesHpa {p : Fin 4} {n : Nat} {q : Req} (hn : namesAddr (blkPort p) n = true) (s : State) :
    NamesHpa p n q.hpa s (raise (blkPort p) n (hpaCap q) s) := by
  intro hvalid hmask
  obtain ⟨-, haddr, hsrc, -⟩ :=
    (headerSet_capture s.headers[blkPort p] n (capFor (blkPort p) n (hpaCap q)) s.dtime).2 hvalid hmask
  rw [raise_header, if_pos rfl, haddr, hsrc, capFor, if_pos hn]
  exact ⟨rfl, kind_feSrc rfl rfl⟩

/-! ## The stages that refuse -/

section Refusals
variable {s : State} {p l : Fin 4} {ld : Fin 16} {tag hpa : Nat} {data : Line} {be : BitVec 64} {poison : Bool} {op : HomeOp}

/-- An open request with the number of the arrived one is the arrived one. -/
theorem arrived_kept (hopen : linkOpen s p l = true) :
    ∀ r ∈ (arrived p l (arrival s p l ld tag op hpa data be poison) s).ports[p].reqs,
      r.req.rid = s.seq → r.discard = false := by
  obtain ⟨-, -, -, -, -, -, hreqs⟩ := linkOpen_iff.1 hopen
  intro r hr hrid
  rw [arrived_reqs, List.mem_append, List.mem_singleton] at hr
  rcases hr with hr | rfl
  · exact absurd hrid (hreqs r hr).2
  · rfl

theorem enter_belowFloor {r : OpenReq} {u : State} {ld' tag' : Nat} (hpassed : r.passed = false)
    (hsrc : r.req.src = .host p l ld' tag')
    (hlow : u.ports[p].links[l].belowFloor = true) : enter p r u = refuseReq p r.req 0 u := by
  simp only [enter, hpassed, Bool.false_eq_true, if_false, hsrc, port4_val, hlow, if_true]

theorem enter_protocolError {r : OpenReq} {u : State} {ld' tag' : Nat} (hpassed : r.passed = false)
    (hsrc : r.req.src = .host p l ld' tag') (hlow : u.ports[p].links[l].belowFloor = false)
    (herror : protocolError u p l ld' = true) :
    enter p r u = refuseReq p r.req 0 (raise (blkPort p) 11 (hpaCap r.req) u) := by
  simp only [enter, hpassed, Bool.false_eq_true, if_false, hsrc, port4_val, hlow, herror, if_true]

theorem enter_noDecode {r : OpenReq} {u : State} {ld' tag' : Nat} (hpassed : r.passed = false)
    (hsrc : r.req.src = .host p l ld' tag') (hlow : u.ports[p].links[l].belowFloor = false)
    (hprotocol : protocolError u p l ld' = false) (hdecode : decodeHpa u p ld' r.req.hpa = none) :
    enter p r u = refuseReq p r.req 0 (raise (blkPort p) 5 (hpaCap r.req) u) := by
  simp only [enter, hpassed, Bool.false_eq_true, if_false, hsrc, port4_val, hlow, hprotocol, hdecode]

theorem keyStage_refuses {u : State} {q : Req} (go : Req → State → State) (hinj : noInjection u = true) (hpar : q.par = .good)
    (hcontained : q.contained = false) (hkey : keyAdmits u q.ldTag q.key = false) :
    keyStage p q go u = refuseReq p q 1 (raise blkCrypt 1 (dpaCap q) u) := by
  simp [keyStage, stageParity_good hinj hpar, hkey, hcontained]

/-- The device once the link has left L1, the clock of the port runs and the request has its number. -/
def numbered (p l : Fin 4) (s : State) : State :=
  (takeSeq (updLink p l (fun k => { k with inL1 := false }) (ungate (domPort p) s))).2

theorem numbered_carried : Carried p s (numbered p l s) :=
  (ungate_carried _ p s).trans ((wakeLink_carried p l _).trans (takeSeq_carried p _))

theorem takeSeq_numbered :
    takeSeq (updLink p l (fun k => { k with inL1 := false }) (ungate (domPort p) s)) = (s.seq, numbered p l s) :=
  Prod.ext (ungate_seq ..) rfl

theorem numbered_seq : (numbered p l s).seq = s.seq + 1 := congrArg (· + 1) (ungate_seq ..)

/-- A port that neither serves nor drains refuses at once, unless a failover holds the request (R496). -/
theorem receive_notServing {par : Parity} (hup : s.ports[p].links[l].up = true)
    (hstate : s.ports[p].state = .training ∨ s.ports[p].state = .drained ∨ s.ports[p].state = .viral)
    (hfence : s.pair.fenceIn = false ∨ s.domainDown = true) :
    receive p l ld tag op hpa data be poison par s =
      refuseHost (rawReq s.seq (.host p l ld tag) (16 * p.val + ld.val) op hpa data be poison) (numbered p l s) := by
  have hhold : (s.pair.fenceIn && !s.domainDown) = false := by
    rcases hfence with h | h <;> simp [h]
  have hreset : s.ports[p].state ≠ .reset := by
    rcases hstate with h | h | h <;> simp only [h, ne_eq, reduceCtorEq, not_false_eq_true]
  have hserves : s.ports[p].state ≠ .enabled ∧ s.ports[p].state ≠ .draining := by
    rcases hstate with h | h | h <;> simp only [h, ne_eq, reduceCtorEq, not_false_eq_true, and_self]
  simp only [receive, hup, hreset, hserves.1, hserves.2, takeSeq_numbered, hhold, Bool.not_true, decide_false, Bool.or_false,
    Bool.false_eq_true, if_false, ne_eq, not_false_eq_true, decide_true, Bool.and_self, if_true]

/-- A port that serves meets control parity errors first (R21 to R23). -/
theorem receive_parity {snp : SnpType} {par : Parity} (hup : s.ports[p].links[l].up = true) (hstate : s.ports[p].state = .enabled)
    (hinj : noInjection s = true) :
    let q := rawReq s.seq (.host p l ld tag) (16 * p.val + ld.val) (.rd snp) hpa data be poison
    (parityAt par .port = .fatal → receive p l ld tag (.rd snp) hpa data be poison par s =
      refuseHost q (fatalParity (blkPort p) 9 (hpaCap q) (numbered p l s))) ∧
    (parityAt par .port = .contained → receive p l ld tag (.rd snp) hpa data be poison par s =
      refuseHost q (raise (blkPort p) 8 (hpaCap q) (numbered p l s))) := by
  have hquiet (b : Fin 40) (i : Nat) : fires (numbered p l s) b i = false := by
    rw [fires, armed_of_noInjection (numbered_carried.noInjection.trans hinj)]
    rfl
  refine ⟨fun hpar => ?_, fun hpar => ?_⟩
  · simp [-Fin.getElem_fin, receive, hup, hstate, takeSeq_numbered, stageParity, hquiet, hpar]
  · simp [-Fin.getElem_fin, receive, hup, hstate, takeSeq_numbered, stageParity, hquiet, hpar, isWrite]

end Refusals

/-! ## What the loss of the coherent domain keeps -/

/-- `t` has the DRAM of `s` and every cause that `s` has, and the coherent domain is no more up than it was. -/
structure Noted (s t : State) : Prop where
  dram : t.dram = s.dram
  down : s.domainDown = true → t.domainDown = true
  cause : ∀ (b : Fin 40) (i : Nat), b ≠ blkPerf → s.headers[b].cause.getLsbD i = true → t.headers[b].cause.getLsbD i = true

section Noted
variable {s t : State}

theorem Noted.refl (s : State) : Noted s s := ⟨rfl, id, fun _ _ _ => id⟩

theorem Noted.trans {u : State} (h : Noted s t) (k : Noted t u) : Noted s u :=
  ⟨k.dram.trans h.dram, fun d => k.down (h.down d), fun b i hb c => k.cause b i hb (h.cause b i hb c)⟩

/-- A write of fields that are none of the three. -/
theorem Noted.frame {u : State} (h : Noted s t) (hdram : u.dram = t.dram) (hdown : u.domainDown = t.domainDown)
    (hheaders : u.headers = t.headers) : Noted s u :=
  h.trans ⟨hdram, fun d => hdown.trans d, fun b i _ c => by rw [hheaders]; exact c⟩

theorem Noted.foldl {β : Type} {f : State → β → State} (hf : ∀ u b, Noted s u → Noted s (f u b)) (l : List β)
    (h : Noted s t) : Noted s (l.foldl f t) := by
  induction l generalizing t with
  | nil => exact h
  | cons b l ih => exact ih (hf t b h)

theorem Noted.raise {b : Fin 40} {i : Nat} {c : Cap} (h : Noted s t) : Noted s (raise b i c t) where
  dram := h.dram
  down := h.down
  cause d n hd hc := by
    have hkept := h.cause d n hd hc
    rw [raise_header]
    split
    · next e =>
      subst e
      rw [(headerSet_spec ..).1, BitVec.getLsbD_or, hkept, Bool.true_or]
    · exact hkept

theorem Noted.counted {u : State} (h : Noted s t) (k : OnlyCounted t u) : Noted s u := by
  refine h.trans ⟨by rw [k.frame], fun d => by rw [k.frame]; exact d, fun b i hb hc => ?_⟩
  rw [k.headers b hb]
  exact hc

theorem Noted.refuseHost {q : Req} (h : Noted s t) : Noted s (refuseHost q t) := by
  unfold Machine.refuseHost
  split
  · exact (h.frame (u := emit _ t) rfl rfl rfl).counted (sendRsp_onlyCounted ..)
  · exact h

theorem Noted.portViral {p : Fin 4} (h : Noted s t) : Noted s (portViral p t) := by
  unfold Machine.portViral
  split
  · exact h
  · have hsent : Noted s (emit (.viral p) (Machine.raise (blkPort p) 10 Cap.none t)) := h.raise.frame rfl rfl rfl
    exact (Noted.foldl (fun _ _ k => k.refuseHost) _ hsent).frame rfl rfl rfl

theorem Noted.spkDown {k : Fin 8} (h : Noted s t) : Noted s (spkDown k t) :=
  Noted.raise (h.frame (u := updSpk k _ t) rfl rfl rfl)

theorem Noted.complete {n i : Nat} {f : Fin_} (h : Noted s t) : Noted s (complete n i f t) := by
  unfold Machine.complete
  split
  · exact h
  · dsimp only
    split
    · exact Noted.raise (h.frame (u := setQp n _ t) rfl rfl rfl)
    · exact h.frame rfl rfl rfl

theorem Noted.qpDisable {n : Nat} {down : Bool} (h : Noted s t) : Noted s (qpDisable n down t) :=
  .frame (.foldl (fun _ _ k => k.complete) _ (h.frame (u := dropHeld n t) rfl rfl rfl)) rfl rfl rfl

/-- The spikelets, the ports and the queue pairs of a domain that goes down. -/
theorem Noted.silence (h : Noted s t) : Noted s ((List.range 64).foldl
    (fun t n => if (qpAt t n).enable then Machine.qpDisable n true t else t)
    (eachPort Machine.portViral (eachSpk Machine.spkDown t))) := by
  refine .foldl (fun u n k => ?_) _ (.foldl (fun _ _ k => k.portViral) _ (.foldl (fun _ _ k => k.spkDown) _ h))
  split
  · exact k.qpDisable
  · exact k

theorem Noted.pair {x : Pair} (h : Noted s t) : Noted s { t with pair := x } := h.frame rfl rfl rfl

theorem Noted.goDown (h : Noted s t) : Noted s (goDown t) := by
  unfold Machine.goDown
  split
  · exact h
  · have hdown : Noted s { t with domainDown := true } := ⟨h.dram, fun _ => rfl, h.cause⟩
    exact (hdown.raise (b := blkGlb) (i := 2) (c := Cap.none)).silence.pair

/-- A domain that goes down is recorded in the cause register of the device (R112). -/
theorem goDown_down {s : State} (h : s.domainDown = false) :
    (goDown s).domainDown = true ∧ (goDown s).headers[blkGlb].cause.getLsbD 2 = true := by
  have hsilence := Noted.silence (Noted.refl (raise blkGlb 2 Cap.none { s with domainDown := true }))
  unfold goDown
  rw [if_neg (by simp [h])]
  dsimp only
  exact ⟨hsilence.down rfl, hsilence.cause blkGlb 2 (by decide) (getLsbD_raise_cause (by decide))⟩

end Noted

/-! ## The refusals of a request that its port takes -/

theorem linkServes_iff {s : State} {p l : Fin 4} :
    linkServes s p l = true ↔ linkOpen s p l = true ∧ s.ports[p].links[l].belowFloor = false := by
  rw [linkServes, Bool.and_eq_true, Bool.not_eq_true']

section Answers
variable {s : State} {p l : Fin 4} {ld : Fin 16} {tag hpa : Nat} {data : Line} {be : BitVec 64} {poison : Bool} {op : HomeOp}
  {c : Instr} (hcmd : memCommand p l ld tag hpa data be poison op c)
include hcmd

/-- The refusal of the one arrived request answers it, and the headers but that of the counters stay as the refusal finds them. -/
theorem refuseReq_answered {q : Req} {status : Nat} {u : State} (hu : AtPort s u) (hsrc : q.src = .host p l ld tag)
    (hop : q.op = op) (hkept : ∀ r ∈ u.ports[p].reqs, r.req.rid = q.rid → r.discard = false) :
    Answered p l ld tag op s (refuseReq p q status u) ∧
      ∀ b, b ≠ blkPerf → (refuseReq p q status u).headers[b] = u.headers[b] := by
  rw [refuseReq_host hsrc hkept]
  exact (hu.dropReq p q.rid).answered hsrc (by rw [hop]; exact refusedRsp_memCommand hcmd)

theorem exec_arrived (hopen : linkOpen s p l = true) (hinj : noInjection s = true) :
    exec c s = .next (enter p (arrival s p l ld tag op hpa data be poison)
      (arrived p l (arrival s p l ld tag op hpa data be poison) s)) := by
  obtain ⟨hstate, hup, -⟩ := linkOpen_iff.1 hopen
  rw [exec_memCommand hcmd, receive_of_open hstate hup hinj, pumpIngress_arrived hopen rfl rfl]

/-- A request that its port refuses at its decoders with the cause `n` is answered, and the cause and the HPA are recorded. -/
theorem refusedAtDecoders {n : Nat} (hn : n < 32) (hnames : namesAddr (blkPort p) n = true) (hopen : linkOpen s p l = true) :
    let r := arrival s p l ld tag op hpa data be poison
    let t := refuseReq p r.req 0 (raise (blkPort p) n (hpaCap r.req) (arrived p l r s))
    Answered p l ld tag op s t ∧ t.headers[blkPort p].cause.getLsbD n = true ∧ NamesHpa p n hpa s t := by
  intro r t
  have hport := blkPort_ne_blkPerf p
  have hhere := ((arrived_carried p l r s).atPort (arrived_seq p l r s)).raise (blkPort p) n (hpaCap r.req)
  obtain ⟨hanswered, hheaders⟩ := refuseReq_answered hcmd (q := r.req) (status := 0) hhere rfl rfl (arrived_kept hopen)
  refine ⟨hanswered, ?_, ?_⟩
  · rw [hheaders _ hport]
    exact getLsbD_raise_cause hn
  · rw [NamesHpa, hheaders _ hport, ← (arrived_carried p l r s).headers _ hport]
    exact raise_namesHpa (q := r.req) hnames (arrived p l r s)

/-- A request whose slot copy shuts out its LD is answered, and the refusal is recorded (R117). -/
theorem refusedAtKeys {rg : Region} {al dpa : Nat} (hopen : linkOpen s p l = true) (hinj : noInjection s = true)
    (hfloor : s.ports[p].links[l].belowFloor = false) (hprotocol : protocolError s p l ld = false)
    (hdecode : decodeHpa s p ld hpa = some (rg, al, dpa))
    (hkey : keyAdmits s (16 * p.val + ld.val) (stagedReq s p l ld tag op hpa data be poison rg al dpa).key = false) :
    Completes c s fun t => Answered p l ld tag op s t ∧ t.headers[blkCrypt].cause.getLsbD 1 = true := by
  set q := stagedReq s p l ld tag op hpa data be poison rg al dpa with hq
  set r := arrival s p l ld tag op hpa data be poison
  set named := updPort p (fun o => { o with reqs := o.reqs.map fun x => if x.req.rid = q.rid then { x with req := q } else x })
    (arrived p l r s) with hnamed
  have hcount := perfPort_onlyCounted p 0x02 1 (some q.cls) named
  set t := perfPort p 0x02 1 (some q.cls) named
  have ht : Carried p s t := (arrived_carried p l r s).trans <| (updReqs_carried p _ _).trans (hcount.carried p)
  have hseq : t.seq = s.seq + 1 := by
    rw [hcount.frame]
    exact arrived_seq p l r s
  have hkept : ∀ x ∈ t.ports[p].reqs, x.req.rid = q.rid → x.discard = false := by
    have hreqs : t.ports[p].reqs = (arrived p l r s).ports[p].reqs.map
        fun x => if x.req.rid = q.rid then { x with req := q } else x := by
      rw [hcount.frame]
      simp only [hnamed, updPort_ports, updAt_get_same]
    rw [hreqs]
    intro x hx _
    obtain ⟨y, hy, rfl⟩ := List.mem_map.1 hx
    split
    · next hrid => exact arrived_kept hopen y hy hrid
    · next hother => simp_all
  obtain ⟨hanswered, hheaders⟩ := refuseReq_answered hcmd (q := q) (status := 1)
    ((ht.atPort hseq).raise blkCrypt 1 (dpaCap q)) rfl rfl hkept
  refine completes_of_next ?_ ⟨hanswered, ?_⟩
  · rw [exec_arrived hcmd hopen hinj, enter_arrived hfloor hprotocol hdecode]
    exact congrArg Host.Outcome.next (keyStage_refuses _ (ht.noInjection.trans hinj) rfl rfl (by rw [ht.keyAdmits]; exact hkey))
  · rw [hheaders _ (by decide)]
    exact getLsbD_raise_cause (by decide)

end Answers

/-- A read with a control parity error at its port completes with poison (R21 to R23, R112). -/
theorem parityRefused {p l : Fin 4} {ld : Fin 16} {tag : Nat} {q : Req} {u : State} (hsrc : q.src = .host p l ld tag)
    (hrsp : refusedRsp q.op = (.data, true)) :
    ∃ dl, (refuseHost q u).out = u.out ++ [.rsp p l ld tag .data 0 true dl] ∧ (refuseHost q u).domainDown = u.domainDown ∧
      (refuseHost q u).dram = u.dram ∧ (refuseHost q u).spks = u.spks ∧
      ∀ b, b ≠ blkPerf → (refuseHost q u).headers[b] = u.headers[b] := by
  obtain ⟨dl, hcount⟩ := refuseHost_onlyCounted hsrc hrsp u
  refine ⟨dl, ?_, ?_, ?_, ?_, hcount.headers⟩
  · rw [hcount.frame]
  · rw [hcount.frame]
  · rw [hcount.frame]
  · rw [hcount.frame]

/-- Settles O18. -/
theorem refusedRequestCompletes : Obligations.RefusedRequestCompletes := by
  unfold Obligations.RefusedRequestCompletes
  refine ⟨fun p l ld tag hpa data be poison op c s hcmd hup => ?_, fun p l ld tag hpa snp par s hstate hup hinj hdown => ?_⟩
  · refine ⟨fun hstate hfence => ?_, fun hopen hlow hinj => ?_, fun hserves hinj hprotocol hdecode => ?_,
      fun hserves hinj hprotocol => ?_, fun rg al dpa hserves hinj hprotocol hdecode hkey => ?_⟩
    · rw [Completes, exec_memCommand hcmd, receive_notServing hup hstate hfence]
      exact ⟨_, rfl, ((numbered_carried.atPort numbered_seq).answered rfl (refusedRsp_memCommand hcmd)).1⟩
    · have hhere := (arrived_carried p l (arrival s p l ld tag op hpa data be poison) s).atPort (arrived_seq ..)
      rw [Completes, exec_arrived hcmd hopen hinj, enter_belowFloor rfl rfl (by rw [(arrived_carried ..).links l]; exact hlow)]
      exact ⟨_, rfl, (refuseReq_answered hcmd hhere rfl rfl (arrived_kept hopen)).1⟩
    · obtain ⟨hopen, hfloor⟩ := linkServes_iff.1 hserves
      obtain ⟨hanswered, hcause, hnamed⟩ := refusedAtDecoders hcmd (n := 5) (by decide) (namesAddr_port p).1 hopen
      rw [Completes, exec_arrived hcmd hopen hinj, enter_noDecode rfl rfl (by rw [(arrived_carried ..).links l]; exact hfloor)
        (by rw [(arrived_carried ..).protocolError]; exact hprotocol) (by rw [(arrived_carried ..).decodeHpa]; exact hdecode)]
      exact ⟨_, rfl, hanswered, and_bit_of_getLsbD hcause, hnamed⟩
    · obtain ⟨hopen, hfloor⟩ := linkServes_iff.1 hserves
      obtain ⟨hanswered, hcause, hnamed⟩ := refusedAtDecoders hcmd (n := 11) (by decide) (namesAddr_port p).2 hopen
      rw [Completes, exec_arrived hcmd hopen hinj, enter_protocolError rfl rfl
        (by rw [(arrived_carried ..).links l]; exact hfloor) (by rw [(arrived_carried ..).protocolError]; exact hprotocol)]
      exact ⟨_, rfl, hanswered, and_bit_of_getLsbD hcause, hnamed⟩
    · obtain ⟨hopen, hfloor⟩ := linkServes_iff.1 hserves
      obtain ⟨t, ht, hanswered, hcause⟩ := refusedAtKeys hcmd hopen hinj hfloor hprotocol hdecode hkey
      exact ⟨t, ht, hanswered, and_bit_of_getLsbD hcause⟩
  · obtain ⟨hfatal, hcontained⟩ := receive_parity (ld := ld) (tag := tag) (hpa := hpa) (data := 0) (be := 0) (poison := false)
      (snp := snp) (par := par) hup hstate hinj
    set q := rawReq s.seq (.host p l ld tag) (16 * p.val + ld.val) (.rd snp) hpa 0 0 false
    have hn : Carried p s (numbered p l s) := numbered_carried
    have hup' : (numbered p l s).domainDown = false := by rw [hn.frame]; exact hdown
    have hport := blkPort_ne_blkPerf p
    refine ⟨fun hpar => ?_, fun hpar => ?_⟩
    · set u := raise (blkPort p) 9 (hpaCap q) (numbered p l s)
      obtain ⟨hdown', hglb⟩ := goDown_down (s := u) hup'
      have hnoted : Noted u (goDown u) := (Noted.refl u).goDown
      obtain ⟨dl, hout, hdomain, hdram, -, hheaders⟩ := parityRefused (q := q) (u := goDown u) (p := p) (l := l) (ld := ld)
        (tag := tag) rfl rfl
      refine completes_of_next (congrArg Host.Outcome.next (hfatal hpar)) ⟨hdomain.trans hdown',
        hdram.trans (hnoted.dram.trans hn.dram), ?_, ?_, _, dl, hout⟩
      · show (refuseHost q (goDown u)).headers[blkPort p].cause &&& _ = _
        rw [hheaders _ hport]
        exact and_bit_of_getLsbD (hnoted.cause _ _ hport (getLsbD_raise_cause (by decide)))
      · show (refuseHost q (goDown u)).headers[blkGlb].cause &&& _ = _
        rw [hheaders _ (by decide)]
        exact and_bit_of_getLsbD hglb
    · obtain ⟨dl, hout, hdomain, hdram, hspks, hheaders⟩ := parityRefused (q := q)
        (u := raise (blkPort p) 8 (hpaCap q) (numbered p l s)) (p := p) (l := l) (ld := ld) (tag := tag) rfl rfl
      refine completes_of_next (congrArg Host.Outcome.next (hcontained hpar)) ⟨hdomain.trans hup', hdram.trans hn.dram,
        hspks.trans hn.spks, ?_, dl, hout.trans (congrArg (· ++ _) hn.out)⟩
      show (refuseHost q _).headers[blkPort p].cause &&& _ = _
      rw [hheaders _ hport]
      exact and_bit_of_getLsbD (getLsbD_raise_cause (by decide))

end Sys2Proof.Machine

/-! # What the loss of a link keeps of the other links and of the causes (R47, R56, R104) -/

namespace Sys2Proof.Machine

-- These proofs are checked one after the other, as those of `Evolves` are.
set_option Elab.async false

/-- None of the open requests carries a control parity error. -/
def Good (rs : List OpenReq) : Prop := ∀ r ∈ rs, r.req.par = .good

theorem Good.filter {rs : List OpenReq} (h : Good rs) (f : OpenReq → Bool) : Good (rs.filter f) :=
  fun r hr => h r (List.mem_filter.1 hr).1

theorem Good.map {rs : List OpenReq} (h : Good rs) {f : OpenReq → OpenReq} (hf : ∀ r, r.req.par = .good → (f r).req.par = .good) :
    Good (rs.map f) := by
  intro r hr
  obtain ⟨x, hx, rfl⟩ := List.mem_map.1 hr
  exact hf x (h x hx)

/-- No injection is armed and no open request carries a control parity error. -/
structure Calm (s : State) : Prop where
  armed : ∀ b : Fin 40, s.headers[b].armed = 0
  good : ∀ p : Fin 4, Good s.ports[p].reqs

theorem Calm.noInjection {s : State} (h : Calm s) : noInjection s = true := by
  unfold Machine.noInjection
  simp only [List.all_eq_true, Vector.mem_toList_iff, decide_eq_true_eq, Vector.mem_iff_getElem]
  rintro _ ⟨i, hi, rfl⟩
  exact h.armed ⟨i, hi⟩

/-- What lies between two states of a step that no link and no write of a cause register is part of: the links stand, the causes
that were set are set, and a calm device stays calm. Where `D` holds, the ports of a calm device keep their states too. -/
structure Settles (D : Prop) (s t : State) : Prop where
  links : ∀ p : Fin 4, t.ports[p].links = s.ports[p].links
  cause : ∀ (b : Fin 40) (i : Nat), s.headers[b].cause.getLsbD i = true → t.headers[b].cause.getLsbD i = true
  calm : Calm s → Calm t
  states : D → Calm s → ∀ p : Fin 4, t.ports[p].state = s.ports[p].state

namespace Settles

variable {D : Prop} {σ s t u : State}

/-! ## A preorder -/

@[refl] theorem refl (s : State) : Settles D s s := ⟨fun _ => rfl, fun _ _ => id, id, fun _ _ _ => rfl⟩

theorem trans (h : Settles D s t) (k : Settles D t u) : Settles D s u where
  links p := (k.links p).trans (h.links p)
  cause b i := k.cause b i ∘ h.cause b i
  calm := k.calm ∘ h.calm
  states hD hs p := (k.states hD (h.calm hs) p).trans (h.states hD hs p)

/-- The ports' states may be set aside. -/
theorem weaken (h : Settles D s t) : Settles False s t := ⟨h.links, h.cause, h.calm, False.elim⟩

/-- A change of any fields but the ports and the headers. -/
theorem frame {img imgDigest imgCopyB filled fillMap flash gate spks crypt tier mcs til pair pwr bring husk clk pins thermal fw
    fuses queue perf dtime seq free out regs dram domainDown pending} (hs : Settles D σ s) :
    Settles D σ { s with
      img := img, imgDigest := imgDigest, imgCopyB := imgCopyB, filled := filled, fillMap := fillMap, flash := flash
      gate := gate, spks := spks, crypt := crypt, tier := tier, mcs := mcs, til := til, pair := pair, pwr := pwr
      bring := bring, husk := husk, clk := clk, pins := pins, thermal := thermal, fw := fw, fuses := fuses, queue := queue
      perf := perf, dtime := dtime, seq := seq, free := free, out := out, regs := regs, dram := dram
      domainDown := domainDown, pending := pending } :=
  ⟨hs.links, hs.cause, fun h => ⟨(hs.calm h).armed, (hs.calm h).good⟩, hs.states⟩

theorem ite {c : Prop} [Decidable c] (h : Settles D σ s) (k : Settles D σ t) : Settles D σ (if c then s else t) := by
  split
  · exact h
  · exact k

theorem ite_snd {α : Type} {c : Prop} [Decidable c] {x y : α × State} (h : Settles D σ x.2) (k : Settles D σ y.2) :
    Settles D σ (if c then x else y).2 := by
  split
  · exact h
  · exact k

theorem ite_fst {α : Type} {c : Prop} [Decidable c] {x y : State × α} (h : Settles D σ x.1) (k : Settles D σ y.1) :
    Settles D σ (if c then x else y).1 := by
  split
  · exact h
  · exact k

theorem foldl {β : Type} {f : State → β → State} {l : List β} (hs : Settles D σ s)
    (hf : ∀ u b, Settles D σ u → Settles D σ (f u b)) : Settles D σ (l.foldl f s) := by
  induction l generalizing s with
  | nil => exact hs
  | cons b l ih => exact ih (hf s b hs)

theorem foldl_mem {β : Type} {f : State → β → State} {l : List β} (hs : Settles D σ s)
    (hf : ∀ u b, b ∈ l → Settles D σ u → Settles D σ (f u b)) : Settles D σ (l.foldl f s) := by
  induction l generalizing s with
  | nil => exact hs
  | cons b l ih => exact ih (hf s b (.head l) hs) fun u c hc => hf u c (.tail b hc)

theorem foldl_fst {α β : Type} {f : State × α → β → State × α} {l : List β} {x : State × α} (hs : Settles D σ x.1)
    (hf : ∀ y b, Settles D σ y.1 → Settles D σ (f y b).1) : Settles D σ (l.foldl f x).1 := by
  induction l generalizing x with
  | nil => exact hs
  | cons b l ih => exact ih (hf x b hs)

theorem foldl_snd {α β : Type} {f : α × State → β → α × State} {l : List β} {x : α × State} (hs : Settles D σ x.2)
    (hf : ∀ y b, Settles D σ y.2 → Settles D σ (f y b).2) : Settles D σ (l.foldl f x).2 := by
  induction l generalizing x with
  | nil => exact hs
  | cons b l ih => exact ih (hf x b hs)

/-- A calm device finds no fatal error on a request with good parity. -/
theorem not_calm {q : Req} {b : Fin 40} {fatalBit containedBit : Nat} {keyed : Bool} {st : CtlStage} (hs : Settles D σ s)
    (hq : Calm σ → q.par = .good) (h : (stageParity b fatalBit containedBit keyed (parityAt q.par st) s).1 = .fatal) :
    ¬ Calm σ := by
  intro hc
  rw [stageParity_good (hs.calm hc).noInjection (hq hc)] at h
  cases h

/-- The state that an operation answers beside its result. -/
theorem of_eq {α : Type} {x : α × State} {a : α} (h : Settles D σ x.2) (e : x = (a, u)) : Settles D σ u := by
  rw [e] at h
  exact h

theorem of_eq₂ {α β : Type} {x : α × β × State} {a : α} {b : β} (h : Settles D σ x.2.2) (e : x = (a, b, u)) :
    Settles D σ u := by
  rw [e] at h
  exact h

/-! ## Writes of the ports and the headers -/

/-- A port is written beside its links. -/
protected theorem updPort {p : Fin 4} {f : Port → Port} (hs : Settles D σ s)
    (hf : ∀ o, (f o).links = o.links ∧ (D → (f o).state = o.state) ∧ (Calm σ → Good o.reqs → Good (f o).reqs) := by
      exact fun _ => ⟨rfl, fun _ => rfl, fun _ => id⟩) : Settles D σ (updPort p f s) := by
  refine ⟨fun q => ?_, hs.cause, fun hc => ⟨(hs.calm hc).armed, fun q => ?_⟩, fun hD hc q => ?_⟩
  · rw [← hs.links q, updPort_ports, updAt_get]
    split
    · next e => rw [(hf _).1, e]
    · rfl
  · have hgood := (hs.calm hc).good
    rw [updPort_ports, updAt_get]
    split
    · exact (hf _).2.2 hc (hgood p)
    · exact hgood q
  · rw [← hs.states hD hc q, updPort_ports, updAt_get]
    split
    · next e => rw [(hf _).2.1 hD, e]
    · rfl

/-- A header is written, and loses no cause and arms no injection. -/
protected theorem updHeader {b : Fin 40} {f : Header → Header} (hs : Settles D σ s)
    (hcause : ∀ h i, h.cause.getLsbD i = true → (f h).cause.getLsbD i = true)
    (harmed : ∀ h, h.armed = 0 → (f h).armed = 0) : Settles D σ { s with headers := updAt s.headers b f } := by
  refine ⟨hs.links, fun d i hi => ?_, fun hc => ⟨fun d => ?_, (hs.calm hc).good⟩, hs.states⟩
  · have hkept := hs.cause d i hi
    show (updAt s.headers b f)[d].cause.getLsbD i = true
    rw [updAt_get]
    split
    · next e => exact hcause _ i (e ▸ hkept)
    · exact hkept
  · have hkept := (hs.calm hc).armed
    show (updAt s.headers b f)[d].armed = 0
    rw [updAt_get]
    split
    · exact harmed _ (hkept b)
    · exact hkept d

protected theorem raise {b : Fin 40} {i : Nat} {c : Cap} (hs : Settles D σ s) : Settles D σ (raise b i c s) :=
  hs.updHeader (fun h n hn => by rw [(headerSet_spec ..).1, BitVec.getLsbD_or, hn, Bool.true_or])
    fun h hh => (headerSet_spec ..).2.2.2.trans hh

/-- A cause that is raised on a condition. -/
theorem raiseIf {c : Prop} [Decidable c] {b : Fin 40} {i : Nat} {x : Cap} (hs : Settles D σ s) :
    Settles D σ (if c then Machine.raise b i x s else s) := .ite hs.raise hs

protected theorem disarm {b : Fin 40} {i : Nat} (hs : Settles D σ s) : Settles D σ (disarm b i s) :=
  hs.updHeader (fun _ _ h => h) fun h hh => by
    show h.armed &&& _ = 0
    rw [hh]
    exact BitVec.zero_and

protected theorem dramSet {k : Nat} {v : Image} (hs : Settles D σ s) : Settles D σ (dramSet k v s) := hs.frame

protected theorem eachPort {f : Fin 4 → State → State} (hs : Settles D σ s) (hf : ∀ p u, Settles D σ u → Settles D σ (f p u)) :
    Settles D σ (eachPort f s) := hs.foldl fun u p => hf p u

protected theorem eachSpk {f : Fin 8 → State → State} (hs : Settles D σ s) (hf : ∀ k u, Settles D σ u → Settles D σ (f k u)) :
    Settles D σ (eachSpk f s) := hs.foldl fun u k => hf k u

end Settles

variable {D : Prop} {σ s : State}

protected theorem Settles.updSpk {k : Fin 8} {f : Spk → Spk} (hs : Settles D σ s) : Settles D σ (updSpk k f s) := hs.frame

protected theorem Settles.updMc {x : Fin 16} {f : Mc → Mc} (hs : Settles D σ s) : Settles D σ (updMc x f s) := hs.frame

protected theorem Settles.takeSeq (hs : Settles D σ s) : Settles D σ (takeSeq s).2 := by
  unfold takeSeq
  dsimp only
  exact hs.frame

protected theorem Settles.emit {o : Out} (hs : Settles D σ s) : Settles D σ (emit o s) := hs.frame

protected theorem Settles.drawChoice {n : Nat} (hs : Settles D σ s) : Settles D σ (drawChoice n s).2 := by
  unfold drawChoice
  dsimp only
  exact hs.frame

protected theorem Settles.ungate {d : Nat} (hs : Settles D σ s) : Settles D σ (ungate d s) := .ite hs.frame hs

protected theorem Settles.perfAdd {fuel n amount : Nat} (hs : Settles D σ s) : Settles D σ (perfAdd fuel n amount s) := by
  induction fuel generalizing n amount s with
  | zero => exact hs
  | succ fuel ih => exact .ite hs.frame (.ite (ih hs.frame) hs.frame.raise)

protected theorem Settles.perfEvent {first count event amount : Nat} {cls : Option Nat} (hs : Settles D σ s) :
    Settles D σ (perfEvent first count event amount cls s) := .ite hs (hs.foldl fun _ _ h => .ite h.perfAdd h)

protected theorem Settles.perfSpk {k : Fin 8} {event amount : Nat} {cls : Option Nat} (hs : Settles D σ s) :
    Settles D σ (perfSpk k event amount cls s) := hs.perfEvent

protected theorem Settles.perfPort {p : Fin 4} {event amount : Nat} {cls : Option Nat} (hs : Settles D σ s) :
    Settles D σ (perfPort p event amount cls s) := hs.perfEvent

protected theorem Settles.perfMc {x : Fin 16} {event amount : Nat} {cls : Option Nat} (hs : Settles D σ s) :
    Settles D σ (perfMc x event amount cls s) := hs.perfEvent

protected theorem Settles.firstSlice {x : Fin 16} {row : Nat} (hs : Settles D σ s) : Settles D σ (firstSlice x row s).2 := by
  unfold firstSlice
  dsimp only
  exact (hs.foldl fun _ _ h => h.emit).updMc.perfMc

protected theorem Settles.dueSlice {x : Fin 16} {row : Nat} (hs : Settles D σ s) : Settles D σ (dueSlice x row s).2 := by
  unfold dueSlice
  refine ite_snd ?_ ?_
  · dsimp only
    exact hs.updMc
  · exact hs.firstSlice

protected theorem Settles.activateRows {fuel : Nat} {x : Fin 16} {rows : List Nat} (hs : Settles D σ s) :
    Settles D σ (activateRows fuel x rows s) := by
  induction fuel generalizing rows s with
  | zero => exact hs.updMc
  | succ fuel ih =>
    cases rows with
    | nil => exact hs
    | cons r rows =>
      unfold activateRows
      dsimp only
      split
      · split
        · exact ih hs.perfMc.updMc.dueSlice
        · exact ih hs.perfMc.updMc
      · split
        · exact ih hs.perfMc.updMc
        · exact ih hs.perfMc.updMc.raise.dueSlice

protected theorem Settles.activate {m : Nat} (hs : Settles D σ s) : Settles D σ (activate m s) := by
  unfold activate
  dsimp only
  exact .ite hs.updMc hs.updMc.ungate.activateRows

protected theorem Settles.logError {x : Fin 16} {kind device p : Nat} {c : Coord} {m : Nat} (hs : Settles D σ s) :
    Settles D σ (logError x kind device p c m s) := hs.updMc

protected theorem Settles.callSpare {x : Fin 16} {r : Nat} (hs : Settles D σ s) :
    Settles D σ (callSpare x r s) := .ite hs (.ite hs.raise hs.updMc)

protected theorem Settles.countUe {x : Fin 16} {r : Nat} (hs : Settles D σ s) :
    Settles D σ (countUe x r s) := .ite hs.updMc.callSpare hs.updMc

protected theorem Settles.busImage {x : Fin 16} {key : Nat} {held : Option Image} {noise : Image} (hs : Settles D σ s) :
    Settles D σ (busImage x key held noise s).2 := by
  unfold busImage
  dsimp only
  refine ite_snd ?_ ?_
  · dsimp only
    exact hs.disarm
  · refine ite_snd ?_ ?_
    · dsimp only
      exact hs.disarm
    · exact hs

protected theorem Settles.readLine {m : Nat} {awn : Bool} {noise : Image} {who : Reader} {cap : Cap} (hs : Settles D σ s) :
    Settles D σ (readLine m awn noise who cap s).2 := by
  unfold readLine
  dsimp only
  split
  · dsimp only
    exact .ite hs.activate.perfMc.busImage.updMc hs.activate.perfMc.busImage
  · dsimp only
    exact (Settles.ite hs.activate.perfMc.busImage.updMc hs.activate.perfMc.busImage).updMc.raise.logError
  · dsimp only
    exact (Settles.ite hs.activate.perfMc.busImage.updMc hs.activate.perfMc.busImage).raise.countUe.logError
  · dsimp only
    exact (Settles.ite hs.activate.perfMc.busImage.updMc hs.activate.perfMc.busImage).raise.countUe.logError

protected theorem Settles.writeLine {m : Nat} {img : Image} (hs : Settles D σ s) :
    Settles D σ (writeLine m img s) := .ite hs (.ite hs.updMc.updMc hs.updMc.activate.perfMc.dramSet)

protected theorem Settles.setCulm {a : Nat} {l : CulmLine} (hs : Settles D σ s) : Settles D σ (setCulm a l s) := hs.updSpk

protected theorem Settles.dropCulm {a : Nat} (hs : Settles D σ s) : Settles D σ (dropCulm a s) := hs.updSpk

protected theorem Settles.touch {a : Nat} (hs : Settles D σ s) : Settles D σ (touch a s) := by
  unfold touch
  dsimp only
  split
  · exact hs.setCulm.frame
  · exact hs

protected theorem Settles.putHeld {kind : CulmKind} {a : Nat} {d : Line} (hs : Settles D σ s) :
    Settles D σ (putHeld kind a d s) := by
  unfold putHeld
  dsimp only
  split
  · exact .ite hs hs.setCulm
  · exact hs.setCulm

protected theorem Settles.putNode {c m : Nat} {n : Line} (hs : Settles D σ s) :
    Settles D σ (putNode c m n s) := .ite hs.frame hs.putHeld

protected theorem Settles.retireSpan {lo size : Nat} (hs : Settles D σ s) :
    Settles D σ (retireSpan lo size s) := hs.frame.eachSpk (fun _ _ h => h.updSpk)

protected theorem Settles.failNode {c m a : Nat} (hs : Settles D σ s) :
    Settles D σ (failNode c m a s) := hs.updSpk.retireSpan.raise

protected theorem Settles.retagChild {c m : Nat} {old new : Ctr} (hs : Settles D σ s) :
    Settles D σ (retagChild c m old new s) := by
  unfold retagChild
  dsimp only
  split
  · exact hs.putHeld
  · split
    · exact .ite hs.readLine.writeLine hs.readLine.failNode
    · exact hs.readLine.failNode

protected theorem Settles.bumpParent {c m : Nat} (hs : Settles D σ s) : Settles D σ (bumpParent c m s) := by
  unfold bumpParent
  dsimp only
  split
  · exact hs
  · exact .ite hs.putNode (hs.putNode.raise.updSpk.foldl fun _ _ h => h.retagChild)

protected theorem Settles.fetchOps {kind : CulmKind} {a : Nat} {noise : Image} (hs : Settles D σ s) :
    Settles D σ (fetchOps kind a noise s).2 := by
  unfold fetchOps
  dsimp only
  split
  · split
    · exact ite_snd hs.perfSpk.readLine hs.perfSpk.readLine.failNode
    · exact hs.perfSpk.readLine
    · exact hs.perfSpk.readLine.failNode
  · split
    · exact hs.perfSpk.readLine
    · exact hs.perfSpk.readLine

protected theorem Settles.culmStep {cls : Nat} {op : CulmOp} (hs : Settles D σ s) : Settles D σ (culmStep cls op s).2 := by
  unfold culmStep
  dsimp only
  split
  · refine ite_snd hs ?_
    split
    · dsimp only
      exact hs.perfSpk.touch
    · exact hs
  · split
    · exact hs.fetchOps
    · exact hs
  · split
    · dsimp only
      exact hs.perfSpk.touch
    · exact hs.fetchOps
  · refine ite_snd ?_ ?_
    · dsimp only
      exact hs.setCulm
    · split
      · split
        · refine ite_snd ?_ ?_
          · exact ite_snd hs hs
          · dsimp only
            exact hs.dropCulm
        · exact hs
      · dsimp only
        exact hs.setCulm.frame
  · split
    · refine ite_snd hs ?_
      split
      · dsimp only
        exact hs.touch
      · exact hs
    · exact hs
  · dsimp only
    exact hs.bumpParent
  · split
    · dsimp only
      exact hs.setCulm.writeLine
    · exact hs
  · dsimp only
    exact hs.dropCulm

protected theorem Settles.culmRun {fuel cls : Nat} {ops : List CulmOp} (hs : Settles D σ s) :
    Settles D σ (culmRun fuel cls ops s) := by
  induction fuel generalizing ops s with
  | zero => exact hs
  | succ fuel ih =>
    cases ops with
    | nil => exact hs
    | cons op ops => exact ih hs.culmStep

protected theorem Settles.holdPath {cls m : Nat} (hs : Settles D σ s) : Settles D σ (holdPath cls m s) := hs.culmRun

protected theorem Settles.setPkt {m : Nat} {k : Option Nat} (hs : Settles D σ s) : Settles D σ (setPkt m k s) := by
  unfold setPkt
  dsimp only
  split
  · exact hs.putHeld
  · exact hs

protected theorem Settles.setTagSlot {m : Nat} {t : BitVec 64} (hs : Settles D σ s) : Settles D σ (setTagSlot m t s) := by
  unfold setTagSlot
  dsimp only
  split
  · split
    · exact hs.putHeld
    · exact hs
  · exact hs

protected theorem Settles.putLeaf {m : Nat} {n : Line} (hs : Settles D σ s) : Settles D σ (putLeaf m n s) := hs.putHeld

protected theorem Settles.readData {m : Nat} {a : Acc} {noise : Image} (hs : Settles D σ s) :
    Settles D σ (readData m a noise s).2 := by
  unfold readData
  dsimp only
  refine ite_snd hs ?_
  split
  · exact hs
  · split
    · exact hs.readLine
    · exact hs.readLine
    · exact hs.readLine
    · refine ite_snd (.ite hs.readLine.perfSpk hs.readLine) (ite_snd (.ite hs.readLine.perfSpk hs.readLine) ?_)
      split
      · exact .ite hs.readLine.perfSpk hs.readLine
      · exact .ite hs.readLine.perfSpk hs.readLine

protected theorem Settles.readCause {m : Nat} {a : Acc} {r : ReadRes} (hs : Settles D σ s) : Settles D σ (readCause m a r s) := by
  unfold readCause
  split
  · exact hs.raise
  · exact hs.raise
  · exact hs.raise
  · exact hs

protected theorem Settles.holdSlot {cls m : Nat} (hs : Settles D σ s) : Settles D σ (holdSlot cls m s) := by
  unfold holdSlot
  split
  · exact .ite hs hs.culmRun
  · exact hs

protected theorem Settles.storeLine {cls m : Nat} {awn : Bool} {c : Ctr} {n : NewLine} {blank : Bool} (hs : Settles D σ s) :
    Settles D σ (storeLine cls m awn c n blank s) := by
  unfold storeLine
  dsimp only
  split
  · exact hs.writeLine
  · refine .writeLine ?_
    split
    · exact hs.holdSlot.setTagSlot
    · exact .ite hs.perfSpk hs

protected theorem Settles.moveCause {m : Nat} {a : Acc} {r : ReadRes} (hs : Settles D σ s) :
    Settles D σ (moveCause m a r s) := .ite hs hs.readCause

protected theorem Settles.reencRead {m : Nat} {a : Acc} (hs : Settles D σ s) : Settles D σ (reencRead m a s).2 := by
  unfold reencRead
  dsimp only
  generalize hx : readData m _ 0 _ = x
  have h : Settles D σ x.2 := hx ▸ hs.holdPath.readData
  obtain ⟨r, t⟩ := x
  cases r
  case ok => exact h
  case blank => exact h
  all_goals
    dsimp only
    exact h.moveCause

protected theorem Settles.reencrypt {m : Nat} {a : Acc} {n : NewLine} (hs : Settles D σ s) : Settles D σ (reencrypt m a n s) := by
  unfold reencrypt
  dsimp only
  split
  · exact hs
  · refine .raise ?_
    refine .updSpk ?_
    refine .foldl ?_ (fun _ _ h => h.storeLine)
    refine .putLeaf ?_
    refine foldl_snd hs fun _ _ h => ?_
    dsimp only
    exact h.reencRead

protected theorem Settles.writeData {m : Nat} {a : Acc} {n : NewLine} (hs : Settles D σ s) : Settles D σ (writeData m a n s) := by
  unfold writeData
  dsimp only
  refine .ite hs ?_
  split
  · exact hs
  · exact .ite hs.reencrypt hs.putLeaf.storeLine

protected theorem Settles.judgePool {n : Fin 2} (hs : Settles D σ s) : Settles D σ (judgePool n s) := by
  unfold judgePool
  dsimp only
  refine .ite hs ?_
  split
  · exact hs.frame.raise
  · exact hs.frame.raise
  · exact hs.frame

protected theorem Settles.setPool {n : Fin 2} {f : List (Nat × Nat) → List (Nat × Nat)} (hs : Settles D σ s) :
    Settles D σ (setPool n f s) := hs.frame.judgePool

protected theorem Settles.allocPick {n : Fin 2} {ok : Nat → Bool} (hs : Settles D σ s) : Settles D σ (allocPick n ok s).2 := by
  unfold allocPick
  dsimp only
  refine ite_snd hs ?_
  split
  · exact hs.drawChoice.setPool
  · exact hs.frame

protected theorem Settles.sfPut {k : Fin 8} {pl : Nat} {e : SfEntry} (hs : Settles D σ s) :
    Settles D σ (sfPut k pl e s) := hs.updSpk

protected theorem Settles.sendBi_done {k : Fin 8} {owner : BiOwner} {sec : Nat} {n : BiNeed} {sid left : Nat}
    (hs : Settles D σ s) : Settles D σ (sendBi.done k owner sec n sid left s) := hs.updSpk.perfSpk

protected theorem Settles.sendBi {k : Fin 8} {owner : BiOwner} {sec region aliasF dpaSector : Nat} {n : BiNeed}
    (hs : Settles D σ s) : Settles D σ (sendBi k owner sec region aliasF dpaSector n s) := by
  unfold sendBi
  dsimp only
  split
  · exact hs.takeSeq.sendBi_done
  · split
    · exact hs.takeSeq.sendBi_done
    · exact .ite hs.takeSeq.sendBi_done
        (hs.takeSeq.foldl fun _ _ h => .ite h.takeSeq.updPort.emit h.takeSeq.updPort).sendBi_done

protected theorem Settles.sendBis {k : Fin 8} {owner : BiOwner} {e : SfEntry} {ns : List BiNeed} (hs : Settles D σ s) :
    Settles D σ (sendBis k owner e ns s) := (hs.foldl fun _ _ h => h.sendBi).updSpk

protected theorem Settles.readDesc {d : Nat} {noise : Image} (hs : Settles D σ s) : Settles D σ (readDesc d noise s).2 := by
  unfold readDesc
  exact hs.readData

protected theorem Settles.writeDesc {d : Nat} {l : Line} (hs : Settles D σ s) : Settles D σ (writeDesc d l s) := hs.writeData

protected theorem Settles.readGranule {g : Nat} {a : Acc} {noise : Image} (hs : Settles D σ s) :
    Settles D σ (readGranule g a noise s).2 := by
  refine foldl_snd hs fun acc _ h => ?_
  dsimp only
  split
  · exact h
  · split
    · exact h.holdPath.readData
    · exact h.holdPath.readData.readCause

protected theorem Settles.readBlock {k : Fin 8} {d : Line} {b : Nat} {a : Acc} {noise : Image} (hs : Settles D σ s) :
    Settles D σ (readBlock k d b a noise s).2 := by
  unfold readBlock
  dsimp only
  split
  · exact hs
  · have hgs : ∀ gs : List Nat, Settles D σ (gs.foldl (fun (acc : Option (List Byte) × State) g =>
        match acc.1 with
        | none => acc
        | some bs =>
          let (r, t) := Machine.readGranule g a (if bs.isEmpty then noise else 0) acc.2
          (r.map (bs ++ ·), t)) (some [], s)).2 := fun gs => by
      refine foldl_snd hs fun acc _ h => ?_
      dsimp only
      split
      · exact h
      · exact h.readGranule
    split
    · exact (hgs _).updSpk
    · split
      · exact .ite (hgs _).updSpk.disarm (hgs _).updSpk
      · exact (Settles.ite (hgs _).updSpk.disarm (hgs _).updSpk).raise
      · exact (Settles.ite (hgs _).updSpk.disarm (hgs _).updSpk).raise

protected theorem Settles.fillPage {p key : Nat} {awn : Bool} {ls : List PageLine} (hs : Settles D σ s) :
    Settles D σ (fillPage p key awn ls s) := by
  unfold fillPage
  dsimp only
  refine hs.foldl fun _ _ h => ?_
  split
  · exact h
  · exact h.holdPath.writeData
  · exact h.holdPath.writeData

protected theorem Settles.readPackedPage {k : Fin 8} {d : Line} {awn : Bool} {noise : Image} (hs : Settles D σ s) :
    Settles D σ (readPackedPage k d awn noise s).2 := by
  unfold readPackedPage
  dsimp only
  refine foldl_snd hs fun _ _ h => ?_
  refine ite_snd h ?_
  split
  · next e =>
      dsimp only
      exact h.readBlock.of_eq e
  · next e =>
      dsimp only
      exact h.readBlock.of_eq e

protected theorem Settles.setQp {n : Nat} {q : QPair} (hs : Settles D σ s) : Settles D σ (setQp n q s) := hs.frame

protected theorem Settles.updQp {n : Nat} {f : QPair → QPair} (hs : Settles D σ s) : Settles D σ (updQp n f s) := hs.setQp

protected theorem Settles.setVerdict {i status reason detail : Nat} (hs : Settles D σ s) :
    Settles D σ (setVerdict i status reason detail s) := hs.frame

protected theorem Settles.endAccepted {kind status reason : Nat} {ok : BitVec 256 → Bool} (hs : Settles D σ s) :
    Settles D σ (endAccepted kind status reason ok s) := hs.foldl fun _ _ h => h.setVerdict

protected theorem Settles.updTaken {n i : Nat} {f : Taken → Taken} (hs : Settles D σ s) :
    Settles D σ (updTaken n i f s) := hs.updQp

protected theorem Settles.complete {n i : Nat} {f : Fin_} (hs : Settles D σ s) : Settles D σ (complete n i f s) := by
  unfold complete
  dsimp only
  split
  · exact hs
  · exact .ite hs.setQp.raise hs.setQp

protected theorem Settles.takeDescs {fuel n : Nat} (hs : Settles D σ s) : Settles D σ (takeDescs fuel n s) := by
  induction fuel generalizing s with
  | zero => exact hs
  | succ fuel ih => exact .ite hs (ih hs.setQp)

protected theorem Settles.takePort {p : Fin 4} (hs : Settles D σ s) :
    Settles D σ (takePort p s) := hs.foldl fun _ _ h => h.takeDescs

protected theorem Settles.dropHeld {n : Nat} (hs : Settles D σ s) : Settles D σ (dropHeld n s) :=
  hs.updPort fun _ => ⟨rfl, fun _ => rfl, fun _ h => h.filter _⟩

protected theorem Settles.qpDisable {n : Nat} {down : Bool} (hs : Settles D σ s) : Settles D σ (qpDisable n down s) := by
  unfold qpDisable
  exact (hs.dropHeld.foldl fun _ _ h => h.complete).updQp

protected theorem Settles.sendRsp {p : Fin 4} {l ld tag : Nat} {kind : RspKind} {data : Line} {poison : Bool}
    {devLoad : Nat} (hs : Settles D σ s) :
    Settles D σ (sendRsp p l ld tag kind data poison devLoad s) := .ite hs.emit.perfPort hs.emit

protected theorem Settles.refuseHost {q : Req} (hs : Settles D σ s) : Settles D σ (refuseHost q s) := by
  unfold refuseHost
  dsimp only
  split
  · exact hs.sendRsp
  · exact hs

protected theorem Settles.portViral {p : Fin 4} (hs : Settles False σ s) : Settles False σ (portViral p s) :=
  .ite hs (.updPort (hs.raise.emit.foldl fun _ _ h => h.refuseHost) fun _ => ⟨rfl, False.elim, fun _ _ _ hr => nomatch hr⟩)

protected theorem Settles.spkDown {k : Fin 8} (hs : Settles False σ s) : Settles False σ (spkDown k s) := hs.updSpk.raise

protected theorem Settles.goDown (hs : Settles False σ s) : Settles False σ (goDown s) :=
  .ite hs (((((hs.frame (domainDown := true)).raise.eachSpk fun _ _ h => h.spkDown).eachPort fun _ _ h => h.portViral).foldl
    fun _ _ h => .ite h.qpDisable h).frame)

/-- A fatal control parity error is a sign that the device was not calm, or the ports' states are set aside. -/
protected theorem Settles.fatalParity {b : Fin 40} {bit : Nat} {c : Cap} (hs : Settles D σ s) (hf : D → ¬ Calm σ) :
    Settles D σ (fatalParity b bit c s) :=
  have h : Settles False σ (goDown (raise b bit c s)) := hs.weaken.raise.goDown
  ⟨h.links, h.cause, h.calm, fun hD hc => absurd hc (hf hD)⟩

protected theorem Settles.stageParity {b : Fin 40} {fatalBit containedBit : Nat} {keyed : Bool} {par : ParityKind}
    (hs : Settles D σ s) :
    Settles D σ (stageParity b fatalBit containedBit keyed par s).2 := by
  unfold stageParity
  refine ite_snd ?_ ?_
  · dsimp only
    exact hs.disarm
  · refine ite_snd ?_ ?_
    · dsimp only
      exact hs.disarm
    · exact hs

protected theorem Settles.queueTil {m : TilMsg} (hs : Settles D σ s) : Settles D σ (queueTil m s) := .ite hs.frame hs

protected theorem Settles.startTimer (hs : Settles D σ s) : Settles D σ (startTimer s) := .ite hs.frame hs

protected theorem Settles.openMirror {spk tid ldTag dpa : Nat} {page : Option Nat} (hs : Settles D σ s) :
    Settles D σ (openMirror spk tid ldTag dpa page s).2 := by
  unfold openMirror
  dsimp only
  exact hs.startTimer.frame

protected theorem Settles.queueSync {u : SfUpdate} (hs : Settles D σ s) : Settles D σ (queueSync u s) := hs.frame

protected theorem Settles.sfKeep {k : Fin 8} {pl : Nat} {e : SfEntry} (hs : Settles D σ s) : Settles D σ (sfKeep k pl e s) := by
  unfold sfKeep
  dsimp only
  refine .ite hs.sfPut ?_
  split
  · exact .ite hs.sfPut.queueSync hs.sfPut
  · exact .ite hs.sfPut.queueSync (.ite (.ite hs.sfPut.queueSync hs.sfPut) (.ite hs.sfPut.queueSync hs.sfPut))

protected theorem Settles.updTxn {k : Fin 8} {tid : Nat} {f : Txn → Txn} (hs : Settles D σ s) :
    Settles D σ (updTxn k tid f s) := hs.updSpk

protected theorem Settles.dropTxn {k : Fin 8} {tid : Nat} (hs : Settles D σ s) : Settles D σ (dropTxn k tid s) := hs.updSpk

protected theorem Settles.sendHome {p : Fin 4} {m : Msg} (hs : Settles D σ s) :
    Settles D σ (sendHome p m s) := .ite hs.updPort hs.ungate.updSpk

protected theorem Settles.enterMemory {k : Fin 8} {tid : Nat} {kind : RspKind} (hs : Settles D σ s) :
    Settles D σ (enterMemory k tid kind s) := hs.updTxn

protected theorem Settles.refillQueue {k : Fin 8} (hs : Settles D σ s) :
    Settles D σ (refillQueue k s) := hs.foldl fun _ _ h => .ite h.updTxn h

protected theorem Settles.takeSample {k : Fin 8} {c sample : Nat} (hs : Settles D σ s) :
    Settles D σ (takeSample k c sample s) := .ite hs hs.updSpk.raiseIf

protected theorem Settles.cqReturn {n i unit : Nat} {op : HomeOp} {r : Rsp} (hs : Settles D σ s) :
    Settles D σ (cqReturn n i unit op r s) := by
  unfold cqReturn
  split
  · exact hs.complete
  · exact hs.updTaken
  · refine .ite hs.complete ?_
    split
    · exact hs
    · exact .ite hs.complete hs.updTaken

protected theorem Settles.mirrorReturn {h : MirrorHdr} {r : Rsp} (hs : Settles D σ s) :
    Settles D σ (mirrorReturn h r s) := (Settles.ite hs.frame hs).queueTil

protected theorem Settles.deliver {q : Req} {r : Rsp} (hs : Settles D σ s) : Settles D σ (deliver q r s) := by
  unfold deliver
  dsimp only
  split
  · refine hs.updPort fun o => ⟨rfl, fun _ => rfl, fun _ h => h.map fun r hr => ?_⟩
    split
    · exact hr
    · exact hr
  · refine .cqReturn (.updPort hs fun _ => ⟨rfl, fun _ => rfl, fun _ h => h.filter _⟩)
  · refine .mirrorReturn (.updPort hs fun _ => ⟨rfl, fun _ => rfl, fun _ h => h.filter _⟩)

protected theorem Settles.respond {k : Fin 8} {t : Txn} (hs : Settles D σ s) :
    Settles D σ (respond k t s) := hs.takeSample.perfSpk.dropTxn.deliver

protected theorem Settles.hotTouch {k : Fin 8} {ldTag page : Nat} {packed : Bool} {enter : Nat} {f : Nat → Nat}
    (hs : Settles D σ s) :
    Settles D σ (hotTouch k ldTag page packed enter f s) := by
  unfold hotTouch
  dsimp only
  split
  · exact hs.updSpk
  · exact hs.updSpk

protected theorem Settles.hotSample {k : Fin 8} {m : Msg} (hs : Settles D σ s) : Settles D σ (hotSample k m s) := by
  unfold hotSample
  dsimp only
  split
  · exact hs
  · exact .ite hs (.ite hs.updSpk.hotTouch hs.updSpk)

protected theorem Settles.toMemory {k : Fin 8} {tid pl : Nat} {e : SfEntry} {t : Txn} (hs : Settles D σ s) :
    Settles D σ (toMemory k tid pl e t s) := by
  unfold toMemory
  dsimp only
  exact hs.sfKeep.enterMemory

protected theorem Settles.toMemoryBare {k : Fin 8} {t : Txn} (hs : Settles D σ s) :
    Settles D σ (toMemoryBare k t s) := hs.enterMemory

protected theorem Settles.evictEntry {k : Fin 8} {pl : Nat} {e : SfEntry} (hs : Settles D σ s) :
    Settles D σ (evictEntry k pl e s) := by
  unfold evictEntry
  dsimp only
  exact hs.takeSeq.updSpk.sendBis

protected theorem Settles.freeEvict {k : Fin 8} {id : Nat} (hs : Settles D σ s) : Settles D σ (freeEvict k id s) := by
  unfold freeEvict
  dsimp only
  refine .ite hs ?_
  refine .updSpk ?_
  split
  · exact .ite hs.queueSync hs
  · exact hs

protected theorem Settles.sfWait {k : Fin 8} {t : Txn} (hs : Settles D σ s) :
    Settles D σ (sfWait k t s) := .ite hs.updTxn hs.updTxn.updSpk.raise

protected theorem Settles.needBis {k : Fin 8} {t : Txn} {pl : Nat} {e : SfEntry} {ns : List BiNeed} (hs : Settles D σ s) :
    Settles D σ (needBis k t pl e ns s) := .ite hs.sfKeep.updTxn hs.sfKeep.updTxn.sendBis

protected theorem Settles.lookup {k : Fin 8} {t : Txn} (hs : Settles False σ s) : Settles False σ (lookup k t s) := by
  unfold lookup
  dsimp only
  refine .ite (hs.fatalParity False.elim) ?_
  refine .ite (.ite hs (.ite hs.updTxn.perfSpk hs.dropTxn.updPort)) ?_
  refine .ite hs.toMemoryBare ?_
  split
  · exact .ite hs.toMemory hs.needBis
  · refine .ite hs.toMemoryBare ?_
    split
    · exact hs.sfWait
    · exact hs.perfSpk.toMemory
    · exact hs.evictEntry.perfSpk.toMemory

protected theorem Settles.freeEvicts {k : Fin 8} (hs : Settles D σ s) :
    Settles D σ (freeEvicts k s) := hs.foldl fun _ _ h => h.freeEvict

protected theorem Settles.settle {k : Fin 8} (hs : Settles False σ s) : Settles False σ (settle k s) := by
  unfold settle
  dsimp only
  refine hs.freeEvicts.foldl fun _ _ h => ?_
  split
  · exact h
  · split
    · exact .ite h.lookup h
    · exact .ite h (.ite h.lookup h.updTxn)
    · exact .ite h.lookup h
    · exact h

protected theorem Settles.recallMore {k : Fin 8} {o : BiOwner} (hs : Settles D σ s) :
    Settles D σ (recallMore k o s) := hs.foldl fun _ _ h => .ite h h.sfPut.sendBis

protected theorem Settles.recallRecord {k : Fin 8} {o : BiOwner} (hs : Settles D σ s) : Settles D σ (recallRecord k o s) := by
  unfold recallRecord
  dsimp only
  refine hs.foldl fun _ _ h => ?_
  split
  · exact h.updSpk.sfKeep
  · exact h.updSpk

protected theorem Settles.txnAnswered {k : Fin 8} {tid : Nat} (hs : Settles False σ s) :
    Settles False σ (txnAnswered k tid s) := by
  unfold txnAnswered
  dsimp only
  split
  · exact hs
  · refine .ite hs ?_
    split
    · exact hs.updSpk.lookup
    · exact .ite hs.updSpk.toMemory hs.updSpk.sfKeep.needBis

protected theorem Settles.afterAnswers {k : Fin 8} (hs : Settles False σ s) : Settles False σ (afterAnswers k s) := by
  unfold afterAnswers
  dsimp only
  generalize ht : freeEvicts k _ = t
  have h : Settles False σ t := ht ▸ .freeEvicts (.foldl (.foldl (.foldl hs fun _ _ h => h.txnAnswered) fun _ _ h => h.recallMore)
    fun _ _ h => h.recallRecord)
  refine .settle ?_
  split
  · exact h
  · exact .ite h.updSpk h

protected theorem Settles.dropNeed {k : Fin 8} {tid : Nat} {p : BiNeed → Bool} (hs : Settles False σ s) :
    Settles False σ (dropNeed k tid p s) := by
  unfold dropNeed
  dsimp only
  split
  · exact hs
  · refine .ite hs ?_
    refine .ite hs.updTxn ?_
    split
    · exact .ite hs.toMemory hs.needBis
    · exact hs.lookup

protected theorem Settles.finish {k : Fin 8} {t : Txn} {r : Rsp} {w : Option MirrorData} (hs : Settles False σ s) :
    Settles False σ (finish k t r w s) := by
  unfold finish
  dsimp only
  split
  · exact .ite hs.openMirror.frame.updTxn.queueTil hs.respond.settle
  · exact hs.respond.settle

protected theorem Settles.refuseAtHome {k : Fin 8} {q : Req} {kind : RspKind} {poison : Bool} {status : Nat}
    (hs : Settles D σ s) :
    Settles D σ (refuseAtHome k q kind poison status s) := hs.deliver

protected theorem Settles.arrive {k : Fin 8} {m0 : Msg} {par : ParityKind} (hs : Settles False σ s) :
    Settles False σ (arrive k m0 par s) := by
  unfold arrive
  dsimp only
  generalize hx : (if _ && fires s (blkSpk k) 11 then _ else _) = x
  have h1 : Settles False σ x.2 := hx ▸ .ite_snd hs hs.stageParity
  split
  · exact h1.fatalParity False.elim
  · have h2 : Settles False σ (if x.1 = .contained then raise (blkSpk k) 5 (reqCap m0.req m0.mpa) x.2 else x.2) :=
      .ite h1.raise h1
    generalize (if x.1 = ParityKind.contained then raise (blkSpk k) 5 (reqCap m0.req m0.mpa) x.2 else x.2) = y at h2 ⊢
    refine .ite h2.raise.refuseAtHome (.ite h2.refuseAtHome (.ite h2.raise.refuseAtHome ?_))
    have h3 {c} {m} : Settles False σ (takeSeq (hotSample k m (perfSpk k 2 1 c y))).2 := h2.perfSpk.hotSample.takeSeq
    split
    · exact h3.updSpk.settle
    · refine .ite h3.updSpk.settle (.ite ?_ ?_)
      · split
        · exact h3.updSpk.enterMemory.sfKeep
        · exact h3.updSpk.enterMemory
      · split
        · refine .dropNeed ?_
          split
          · exact h3.updSpk.enterMemory.sfKeep
          · exact h3.updSpk.enterMemory
        · exact h3.updSpk.settle

protected theorem Settles.descFailed {k : Fin 8} {t : Txn} {r : ReadRes} (hs : Settles False σ s) :
    Settles False σ (descFailed k t r s) := by
  unfold descFailed
  exact hs.readCause.finish

protected theorem Settles.forwardLines {k : Fin 8} {desc : Nat} {d : Line} {a : Acc} (hs : Settles D σ s) :
    Settles D σ (forwardLines k desc d a s).2 := by
  refine foldl_snd hs fun acc _ h => ?_
  split
  · exact h
  · refine ite_snd h ?_
    split
    · next e => exact h.readBlock.of_eq e
    · next e => exact h.readBlock.of_eq e

protected theorem Settles.endJobs {k : Fin 8} {js : List Job} {f : Job → Txn → State → State} (hs : Settles False σ s)
    (hf : ∀ a a1 u, Settles False σ u → Settles False σ (f a a1 u)) :
    Settles False σ (endJobs k js f s) := by
  unfold endJobs
  refine hs.foldl fun _ _ h => ?_
  split
  · split
    · exact hf _ _ _ h
    · exact h
  · exact h

protected theorem Settles.finishForward {k : Fin 8} {f : Forward} (hs : Settles False σ s) :
    Settles False σ (finishForward k f s) := by
  unfold finishForward
  dsimp only
  split
  · refine .ite hs ?_
    split
    · exact hs.holdPath.readDesc.updSpk.updSpk.endJobs (fun _ _ _ h => h.descFailed)
    · exact (hs.holdPath.readDesc.forwardLines.holdPath.setPkt.fillPage.holdPath.writeDesc.frame.raise.updSpk.updSpk.endJobs
        (fun _ _ _ h => h.finish)).refillQueue
  · exact hs

protected theorem Settles.stepForwards {k : Fin 8} (hs : Settles False σ s) :
    Settles False σ (stepForwards k s) := hs.foldl fun _ _ h => h.finishForward

protected theorem Settles.ackConflicts {p : Fin 4} (hs : Settles D σ s) :
    Settles D σ (ackConflicts p s) := hs.foldl fun _ _ h => h.updPort.emit

protected theorem Settles.dropReq {p : Fin 4} {rid : Nat} (hs : Settles D σ s) : Settles D σ (dropReq p rid s) :=
  hs.updPort fun _ => ⟨rfl, fun _ => rfl, fun _ h => h.filter _⟩

protected theorem Settles.refuseReq {p : Fin 4} {q : Req} {status : Nat} (hs : Settles D σ s) :
    Settles D σ (refuseReq p q status s) := by
  unfold refuseReq
  dsimp only
  split
  · exact .ite hs.dropReq hs.dropReq.refuseHost
  · exact .ite hs.dropReq.updTaken hs.dropReq.complete
  · exact hs.dropReq.queueTil

protected theorem Settles.setStage {p : Fin 4} {q : Req} {st : Stage} {passed : Bool} (hs : Settles D σ s)
    (hq : Calm σ → q.par = .good) : Settles D σ (setStage p q st passed s) :=
  hs.updPort fun _ => ⟨rfl, fun _ => rfl, fun hc h => h.map fun r hr => by
    split
    · exact hq hc
    · exact hr⟩

protected theorem Settles.toHome {p : Fin 4} {m : Msg} (hs : Settles D σ s) (hq : Calm σ → m.req.par = .good) :
    Settles D σ (toHome p m s) := (hs.setStage hq).sendHome

protected theorem Settles.stallLink {p : Fin 4} {q : Req} (hs : Settles D σ s) : Settles D σ (stallLink p q s) := by
  unfold stallLink
  split
  · exact hs.updPort
  · exact hs

protected theorem Settles.stallHold {p : Fin 4} {q : Req} (hs : Settles D σ s) : Settles D σ (stallHold p q s) := by
  unfold stallHold
  split
  · exact hs.updPort
  · exact hs

protected theorem Settles.raiseMiss {p : Fin 4} {q : Req} (hs : Settles D σ s) (hq : Calm σ → q.par = .good) :
    Settles D σ (raiseMiss p q s) :=
  .ite (hs.setStage hq) (.ite (hs.setStage hq).stallLink (hs.setStage hq).perfPort.updPort.frame)

protected theorem Settles.containAt {p : Fin 4} {q : Req} (hs : Settles D σ s) : Settles D σ (containAt p q s) := hs.refuseReq

protected theorem Settles.translate {p : Fin 4} {q0 : Req} (hs : Settles D σ s) (hq : Calm σ → q0.par = .good) :
    Settles D σ (translate p q0 s) := by
  unfold translate
  dsimp only
  split
  · next h => exact hs.stageParity.fatalParity fun _ => hs.not_calm hq h
  · refine .ite hs.stageParity.raiseIf.containAt ?_
    split
    · refine .ite hs.stageParity.raiseIf.raise.refuseReq (hs.stageParity.raiseIf.toHome fun hc => ?_)
      rw [msgOf_req]
      exact hq hc
    · exact hs.stageParity.raiseIf.raiseMiss hq

protected theorem Settles.countAdmit {p : Fin 4} {q : Req} (hs : Settles D σ s) : Settles D σ (countAdmit p q s) := by
  unfold countAdmit
  dsimp only
  exact hs.updPort

protected theorem Settles.keyStage {p : Fin 4} {q : Req} {go : Req → State → State} (hs : Settles D σ s)
    (hq : Calm σ → q.par = .good)
    (hgo : ∀ a u, Settles D σ u → (Calm σ → a.par = .good) → Settles D σ (go a u)) : Settles D σ (keyStage p q go s) := by
  unfold keyStage
  dsimp only
  split
  · next h => exact hs.stageParity.fatalParity fun _ => hs.not_calm hq h
  · refine .ite hs.stageParity.raiseIf.containAt ?_
    exact .ite (hgo _ _ hs.stageParity.raiseIf hq) hs.stageParity.raiseIf.raise.refuseReq

protected theorem Settles.admitted {p : Fin 4} {q : Req} (hs : Settles D σ s) (hq : Calm σ → q.par = .good) :
    Settles D σ (admitted p q s) := by
  unfold admitted
  split
  · exact hs.dropReq.updTaken
  · exact hs.translate hq

protected theorem Settles.admitReq {p : Fin 4} {q : Req} (hs : Settles D σ s) (hq : Calm σ → q.par = .good) :
    Settles D σ (admitReq p q s) := by
  unfold admitReq
  dsimp only
  split
  · next h => exact hs.stageParity.fatalParity fun _ => hs.not_calm hq h
  · refine .ite hs.stageParity.raiseIf.containAt ?_
    refine .ite (hs.stageParity.raiseIf.countAdmit.admitted hq) ?_
    refine .ite hs.stageParity.raiseIf.raise.stallHold ?_
    refine .ite (.frame (.perfPort (.updPort (.setStage ?_ hq)))) (.perfPort (.updPort (.setStage ?_ hq)))
    · exact hs.stageParity.raiseIf
    · exact hs.stageParity.raiseIf

protected theorem Settles.enter {p : Fin 4} {r : OpenReq} (hs : Settles D σ s) (hq : Calm σ → r.req.par = .good) :
    Settles D σ (enter p r s) := by
  unfold enter
  dsimp only
  refine .ite (hs.translate hq) ?_
  split
  · refine .ite hs.refuseReq ?_
    refine .ite hs.raise.refuseReq ?_
    split
    · exact hs.raise.refuseReq
    · refine .keyStage (.perfPort (.updPort hs fun _ => ⟨rfl, fun _ => rfl, fun hc h => h.map fun x hx => ?_⟩)) hq
        fun _ _ h => h.admitReq
      split
      · exact hq hc
      · exact hx
  · exact .ite (hs.translate hq) (hs.admitReq hq)
  · exact hs.keyStage hq fun _ _ h => h.admitReq

protected theorem Settles.admitHeld {p : Fin 4} (hs : Settles D σ s) : Settles D σ (admitHeld p s) := by
  unfold admitHeld
  dsimp only
  refine Settles.foldl_mem hs fun u q hq h => .ite (h.updPort.countAdmit.admitted fun hc => ?_) h
  split at hq
  · cases hq
  · obtain ⟨r, hr, rfl⟩ := List.mem_map.1 hq
    exact (hs.calm hc).good p r (List.mem_filter.1 hr).1

protected theorem Settles.startWindow {p : Fin 4} (hs : Settles D σ s) : Settles D σ (startWindow p s) := hs.updPort.admitHeld

protected theorem Settles.rollWindow {p : Fin 4} (hs : Settles D σ s) : Settles D σ (rollWindow p s) := .ite hs.startWindow hs

protected theorem Settles.pumpIngress {p : Fin 4} (hs : Settles D σ s) : Settles D σ (pumpIngress p s) := by
  unfold pumpIngress
  dsimp only
  refine hs.rollWindow.foldl fun u _ h => ?_
  split
  · exact h
  · next hfind =>
    have hgood := fun hc => (h.calm hc).good p _ (List.mem_of_find?_eq_some hfind)
    split
    · exact .ite h (h.enter hgood)
    · exact h.enter hgood

protected theorem Settles.pumpFreed {p : Fin 4} (hs : Settles D σ s) : Settles D σ (pumpFreed p s) := .ite hs.pumpIngress hs

protected theorem Settles.enterEnabled {p : Fin 4} (hs : Settles False σ s) : Settles False σ (enterEnabled p s) :=
  .takePort (.endAccepted (.updPort hs.frame fun _ => ⟨rfl, False.elim, fun _ => id⟩))

protected theorem Settles.queuedEnable {p : Fin 4} (hs : Settles False σ s) : Settles False σ (queuedEnable p s) :=
  .ite hs.enterEnabled hs

protected theorem Settles.drainSend {p : Fin 4} (hs : Settles D σ s) :
    Settles D σ (drainSend p s) := hs.eachSpk (fun _ _ h => h.foldl fun _ _ h' => .ite h' h'.sfPut.sendBis)

protected theorem Settles.drainRecord {p : Fin 4} (hs : Settles False σ s) : Settles False σ (drainRecord p s) := by
  unfold drainRecord
  dsimp only
  refine hs.eachSpk fun _ _ h => ?_
  refine h.foldl fun _ _ h' => ?_
  split
  · exact h'.updSpk.sfKeep.settle
  · exact h'.updSpk

protected theorem Settles.drainStep {p : Fin 4} (hs : Settles False σ s) : Settles False σ (drainStep p s) :=
  .ite hs (.ite (.queuedEnable (.endAccepted (.updPort hs.drainSend.drainRecord fun _ => ⟨rfl, False.elim, fun _ => id⟩)))
    hs.drainSend.drainRecord)

protected theorem Settles.invAckStep {p : Fin 4} (hs : Settles D σ s) : Settles D σ (invAckStep p s) := .ite hs hs.updPort.frame

protected theorem Settles.markerStep {p : Fin 4} (hs : Settles D σ s) : Settles D σ (markerStep p s) := .ite hs.updPort.frame hs

protected theorem Settles.portSettle {p : Fin 4} (hs : Settles False σ s) :
    Settles False σ (portSettle p s) := hs.pumpFreed.ackConflicts.invAckStep.markerStep.drainStep

protected theorem Settles.headLost {p : Fin 4} (hs : Settles False σ s) :
    Settles False σ (headLost p s) :=
  hs.updPort.eachSpk
    (fun _ _ h => ((h.updSpk.foldl fun _ _ h' => h'.sfKeep).foldl fun _ _ h' => h'.dropNeed).afterAnswers.stepForwards)

protected theorem Settles.discardLink {p : Fin 4} {l : Option (Fin 4)} (hs : Settles D σ s) :
    Settles D σ (discardLink p l s) :=
  hs.updPort fun _ => ⟨rfl, fun _ => rfl, fun _ h => (h.filter _).map fun r hr => by
    split
    · exact hr
    · exact hr⟩

protected theorem Settles.dropUnverified {p l : Fin 4} {tags : List Nat} (hs : Settles D σ s) :
    Settles D σ (dropUnverified p l tags s) :=
  .eachSpk (.updPort hs fun _ => ⟨rfl, fun _ => rfl, fun _ h => h.filter _⟩) fun _ _ h => h.updSpk

end Sys2Proof.Machine

/-! # The loss of a link, and the keys of its IDE streams (R24, R45 to R47, R56, R104) -/

namespace Sys2Proof.Machine

/-! ## Calm devices -/

theorem calm_of_errorFree {s : State} (h : errorFree s = true) : Calm s := by
  simp only [errorFree, Bool.and_eq_true, List.all_eq_true, Vector.mem_toList_iff, decide_eq_true_eq] at h
  obtain ⟨⟨hinj, hports⟩, -⟩ := h
  refine ⟨fun b => ?_, fun p r hr => ?_⟩
  · rw [noInjection, List.all_eq_true] at hinj
    exact of_decide_eq_true (hinj _ (Vector.mem_toList_iff.2 (Vector.getElem_mem b.isLt)))
  · obtain ⟨⟨hreqs, -⟩, -⟩ := hports _ (Vector.getElem_mem p.isLt)
    exact hreqs r hr

theorem Calm.updLink {s : State} (h : Calm s) (p l : Fin 4) (f : Link → Link) : Calm (updLink p l f s) := by
  refine ⟨h.armed, fun q => ?_⟩
  have hgood := h.good
  rw [updLink_ports, updAt_get]
  split
  · exact hgood p
  · exact hgood q

/-! ## A port in TRAINING settles -/

section Training
variable {D : Prop} {σ s : State} {p : Fin 4}

theorem setPort_state (st : PortState) : (setPort p st s).ports[p].state = st := by
  simp only [setPort, updPort_ports, updAt_get_same]

theorem Settles.setPort {st : PortState} (hs : Settles False σ s) : Settles False σ (setPort p st s) :=
  hs.updPort fun _ => ⟨rfl, False.elim, fun _ => id⟩

/-- What a port does when it settles but for the end of a drain. -/
theorem Settles.settled (hs : Settles D σ s) :
    Settles D σ (Machine.markerStep p (Machine.invAckStep p (Machine.ackConflicts p (Machine.pumpFreed p s)))) :=
  hs.pumpFreed.ackConflicts.invAckStep.markerStep

theorem drainStep_of_training (h : s.ports[p].state = .training) : drainStep p s = s := by
  rw [drainStep, if_pos]
  simp only [h, ne_eq, reduceCtorEq, not_false_eq_true, decide_true, Bool.true_or]

/-- No request takes a calm device down while its port settles (Table 2.7). -/
theorem portSettle_training (hcalm : Calm s) (htraining : s.ports[p].state = .training) :
    (portSettle p s).ports[p].state = .training := by
  have hkept := ((Settles.refl (D := True) s).settled (p := p)).states trivial hcalm p
  rw [portSettle, drainStep_of_training (hkept.trans htraining)]
  exact hkept.trans htraining

end Training

/-! ## A port with no request settles by itself -/

/-- `t` is `s` at the spikelets, in the DRAM, at the other ports and in the state of the port. -/
structure PortOnly (p : Fin 4) (s t : State) : Prop where
  dram : t.dram = s.dram
  spks : t.spks = s.spks
  others : ∀ q, q ≠ p → t.ports[q] = s.ports[q]
  state : t.ports[p].state = s.ports[p].state

section PortOnly
variable {p : Fin 4} {s t u : State}

theorem PortOnly.refl (s : State) : PortOnly p s s := ⟨rfl, rfl, fun _ _ => rfl, rfl⟩

theorem PortOnly.updPort (h : PortOnly p s t) {f : Port → Port} (hf : ∀ o, (f o).state = o.state := by exact fun _ => rfl) :
    PortOnly p s (updPort p f t) where
  dram := h.dram
  spks := h.spks
  others q hq := (updAt_get_other _ _ (Ne.symm hq)).trans (h.others q hq)
  state := by
    rw [updPort_ports, updAt_get_same, hf]
    exact h.state

theorem PortOnly.ackConflicts (h : PortOnly p s t) : PortOnly p s (ackConflicts p t) := by
  unfold Machine.ackConflicts
  dsimp only
  generalize t.ports[p].bis.filter _ = due
  induction due generalizing t with
  | nil => exact h
  | cons b due ih =>
    have hnext : PortOnly p s (Machine.updPort p
      (fun q => { q with bis := q.bis.map fun x => if x.bid = b.bid then { x with conflict := false } else x }) t) := h.updPort
    exact ih ⟨hnext.dram, hnext.spks, hnext.others, hnext.state⟩

theorem PortOnly.invAckStep (h : PortOnly p s t) : PortOnly p s (invAckStep p t) := by
  unfold Machine.invAckStep
  dsimp only
  split
  · exact h
  · have hnext : PortOnly p s (Machine.updPort p (fun q => { q with invBusy := false }) t) := h.updPort
    exact ⟨hnext.dram, hnext.spks, hnext.others, hnext.state⟩

theorem PortOnly.markerStep (h : PortOnly p s t) : PortOnly p s (markerStep p t) := by
  unfold Machine.markerStep
  dsimp only
  split
  · have hnext : PortOnly p s (Machine.updPort p (fun q => { q with keyMarker := false }) t) := h.updPort
    exact ⟨hnext.dram, hnext.spks, hnext.others, hnext.state⟩
  · exact h

theorem portSettle_alone (htraining : s.ports[p].state = .training) (hnone : s.ports[p].reqs = []) :
    PortOnly p s (portSettle p s) := by
  have hpump : pumpFreed p s = s := by
    rw [pumpFreed, if_neg]
    simp only [mayPump, hnone, List.any_nil, Bool.false_eq_true, not_false_eq_true]
  have hkept := (PortOnly.refl (p := p) s).ackConflicts.invAckStep.markerStep
  rw [portSettle, hpump, drainStep_of_training (hkept.state.trans htraining)]
  exact hkept

end PortOnly

/-! ## The link goes down -/

/-- A write of a link is a write of its port in the links alone. -/
theorem updLink_eq (p l : Fin 4) (f : Link → Link) (s : State) : updLink p l f s = { s with
    ports := s.ports.set p { s.ports[p] with links := (updLink p l f s).ports[p].links } } := by
  rw [updLink_ports, updAt_get_same]
  rfl

/-- A link that is down, with its keys erased (R47, R56). -/
def lostLink (k : Link) : Link :=
  { k with
    up := false, trained := false, belowFloor := false, width := 0, speed := 0, flit256 := false, degraded := false
    retraining := false, inL1 := false, good := 0, ideIo := IdeStream.init, ideMem := IdeStream.init }

/-- A port that served has its requests of the link discarded and its head let go, and settles in TRAINING. -/
def losing (p l : Fin 4) (s : State) : State :=
  let s1 := raise (blkPort p) 0 Cap.none (discardLink p (some l) (updLink p l lostLink s))
  setPort p .training (if linkMode s p l = 1 || linkMode s p l = 2 then headLost p s1 else s1)

section Losing
variable {p l : Fin 4} {s : State}

theorem takeLinkDown_wasUp (hup : s.ports[p].links[l].up = true) (hserved : wasUp s.ports[p].state = true) :
    takeLinkDown p l s = portSettle p (losing p l s) := by
  simp only [takeLinkDown, hup, hserved, Bool.not_true, Bool.false_and, Bool.false_eq_true, if_false, losing]
  rfl

theorem takeLinkDown_notUp (hup : s.ports[p].links[l].up = true) (hserved : wasUp s.ports[p].state = false) :
    takeLinkDown p l s = raise (blkPort p) 0 Cap.none (updLink p l lostLink s) := by
  simp only [takeLinkDown, hup, hserved, Bool.not_true, Bool.false_and, Bool.false_eq_true, if_false, Bool.not_false, if_true]
  rfl

theorem losing_raised :
    Settles False (raise (blkPort p) 0 Cap.none (discardLink p (some l) (updLink p l lostLink s))) (losing p l s) := by
  have hraised := Settles.refl (D := False) (raise (blkPort p) 0 Cap.none (discardLink p (some l) (updLink p l lostLink s)))
  exact .setPort (.ite hraised.headLost hraised)

theorem losing_settles : Settles False (updLink p l lostLink s) (losing p l s) :=
  (Settles.refl (updLink p l lostLink s)).discardLink.raise.trans losing_raised

/-- The link that goes down is the only one that changes; the causes that were set stay, and LINK_DOWN is set. -/
theorem takeLinkDown_links_cause (hup : s.ports[p].links[l].up = true) :
    (takeLinkDown p l s).ports[p].links = s.ports[p].links.set l (lostLink s.ports[p].links[l]) ∧
    (takeLinkDown p l s).headers[blkPort p].cause.getLsbD 0 = true ∧
    ∀ (b : Fin 40) (i : Nat), s.headers[b].cause.getLsbD i = true → (takeLinkDown p l s).headers[b].cause.getLsbD i = true := by
  have hlinks : (updLink p l lostLink s).ports[p].links = s.ports[p].links.set l (lostLink s.ports[p].links[l]) := by
    rw [updLink_ports, updAt_get_same]
    rfl
  cases hserved : wasUp s.ports[p].state with
  | true =>
    rw [takeLinkDown_wasUp hup hserved]
    have hall := (losing_settles (p := p) (l := l) (s := s)).portSettle (p := p)
    have hraised := (losing_raised (p := p) (l := l) (s := s)).portSettle (p := p)
    exact ⟨(hall.links p).trans hlinks, hraised.cause _ _ (getLsbD_raise_cause (by decide)), hall.cause⟩
  | false =>
    rw [takeLinkDown_notUp hup hserved]
    have hall := (Settles.refl (D := False) (updLink p l lostLink s)).raise (b := blkPort p) (i := 0) (c := Cap.none)
    exact ⟨(hall.links p).trans hlinks, getLsbD_raise_cause (by decide), hall.cause⟩

theorem takeLinkDown_training (hup : s.ports[p].links[l].up = true) (hserved : wasUp s.ports[p].state = true) (hcalm : Calm s) :
    (takeLinkDown p l s).ports[p].state = .training := by
  rw [takeLinkDown_wasUp hup hserved]
  exact portSettle_training (losing_settles.calm (hcalm.updLink p l lostLink)) (setPort_state _)

/-- With no head and no request at the ports the loss stays at its port. -/
theorem takeLinkDown_alone (hup : s.ports[p].links[l].up = true) (hserved : wasUp s.ports[p].state = true)
    (hmode : linkMode s p l = 0 ∨ linkMode s p l = 3) (hnone : noRequests s = true) :
    (takeLinkDown p l s).dram = s.dram ∧ (takeLinkDown p l s).spks = s.spks ∧
      ∀ q, q ≠ p → (takeLinkDown p l s).ports[q] = s.ports[q] := by
  have hreqs : s.ports[p].reqs = [] := by
    rw [noRequests, List.all_eq_true] at hnone
    exact List.isEmpty_iff.1 (hnone _ (Vector.mem_toList_iff.2 (Vector.getElem_mem p.isLt)))
  have hheadless : losing p l s =
      setPort p .training (raise (blkPort p) 0 Cap.none (discardLink p (some l) (updLink p l lostLink s))) := by
    rcases hmode with h | h <;> simp [losing, h]
  have hempty : (losing p l s).ports[p].reqs = [] := by
    rw [hheadless]
    simp only [setPort, updPort_ports, raise_ports, discardLink, updLink_ports, updAt_get_same, hreqs]
    rfl
  have hsettled := portSettle_alone (s := losing p l s) (p := p) (setPort_state _) hempty
  rw [takeLinkDown_wasUp hup hserved]
  refine ⟨hsettled.dram.trans ?_, hsettled.spks.trans ?_, fun q hq => (hsettled.others q hq).trans ?_⟩
  · rw [hheadless]
    rfl
  · rw [hheadless]
    rfl
  · rw [hheadless]
    simp only [setPort, updPort_ports, raise_ports, discardLink, updLink_ports, updAt_get_other _ _ (Ne.symm hq)]

end Losing

/-! ## An IDE MAC that fails -/

section Integrity
variable {p l : Fin 4} {tags : List Nat} {s : State}

theorem eachSpk_updSpk (f : Fin 8 → Spk → Spk) (s : State) :
    eachSpk (fun k t => updSpk k (f k) t) s = { s with spks := (eachSpk (fun k t => updSpk k (f k) t) s).spks } := by
  unfold eachSpk
  generalize List.finRange 8 = ks
  induction ks generalizing s with
  | nil => rfl
  | cons k ks ih =>
    rw [List.foldl_cons, ih]
    rfl

/-- The unverified requests are discarded at their port and at the homes. -/
theorem dropUnverified_port : (dropUnverified p l tags s).dram = s.dram ∧
    (∀ q, q ≠ p → (dropUnverified p l tags s).ports[q] = s.ports[q]) ∧
    (dropUnverified p l tags s).ports[p].state = s.ports[p].state := by
  rw [dropUnverified, eachSpk_updSpk]
  refine ⟨rfl, fun q hq => ?_, ?_⟩
  · exact updAt_get_other _ _ (Ne.symm hq)
  · simp only [updPort_ports, updAt_get_same]

/-- The device once the failure is recorded, before the link goes down. -/
def unverified (p l : Fin 4) (tags : List Nat) (s : State) : State :=
  raise (blkPort p) 7 Cap.none (dropUnverified p l tags s)

theorem unverified_settles : Settles True s (unverified p l tags s) := (Settles.refl s).dropUnverified.raise

theorem doIdeIntegrityFailure_eq (hup : s.ports[p].links[l].up = true)
    (hactive : s.ports[p].links[l].ideIo.active = true ∨ s.ports[p].links[l].ideMem.active = true) :
    doIdeIntegrityFailure p l tags s = noteAer p l true (takeLinkDown p l (unverified p l tags s)) := by
  have hany : (s.ports[p].links[l].ideIo.active || s.ports[p].links[l].ideMem.active) = true := by
    rwa [Bool.or_eq_true]
  simp only [doIdeIntegrityFailure, hup, hany, Bool.not_true, Bool.or_self, Bool.false_eq_true, if_false]
  rfl

/-- AER speaks of the link's configuration space alone. -/
theorem noteAer_frame (s : State) (uncorrectable : Bool) :
    (noteAer p l uncorrectable s).dram = s.dram ∧ (noteAer p l uncorrectable s).headers = s.headers ∧
    (∀ q, q ≠ p → (noteAer p l uncorrectable s).ports[q] = s.ports[q]) ∧
    (noteAer p l uncorrectable s).ports[p].state = s.ports[p].state ∧
    ∃ cfg, (noteAer p l uncorrectable s).ports[p].links[l] = { s.ports[p].links[l] with cfg := cfg } := by
  refine ⟨rfl, rfl, fun q hq => ?_, ?_, ?_⟩
  · exact updAt_get_other _ _ (Ne.symm hq)
  · simp only [noteAer, updLink_ports, updAt_get_same]
  · simp only [noteAer, updLink_ports, updAt_get_same]
    exact ⟨_, rfl⟩

theorem and_0x81_of_bits {x : BitVec 32} (h0 : x.getLsbD 0 = true) (h7 : x.getLsbD 7 = true) : x &&& 0x81 = 0x81 := by
  rw [show (0x81 : BitVec 32) = BitVec.twoPow 32 0 ||| BitVec.twoPow 32 7 from rfl, BitVec.and_or_distrib_left,
    and_bit_of_getLsbD h0, and_bit_of_getLsbD h7]

theorem linkDown_of_takeLinkDown {u : State} (hup : u.ports[p].links[l].up = true) :
    ∃ cfg, (noteAer p l true (takeLinkDown p l u)).ports[p].links[l] = { lostLink u.ports[p].links[l] with cfg := cfg } := by
  obtain ⟨-, -, -, -, cfg, hcfg⟩ := noteAer_frame (p := p) (l := l) (takeLinkDown p l u) true
  refine ⟨cfg, hcfg.trans ?_⟩
  rw [(takeLinkDown_links_cause hup).1]
  simp

end Integrity

/-! ## Key programming -/

section Keys
variable {p l : Fin 4} {kind : IdeKind} {s : State}

theorem endAccepted_out (k status reason : Nat) (ok : BitVec 256 → Bool) (s : State) :
    (endAccepted k status reason ok s).out = s.out := by
  unfold endAccepted
  generalize (acceptedSlots s k).filter _ = slots
  induction slots generalizing s with
  | nil => rfl
  | cons i slots ih => exact ih _

theorem takeDescs_out (fuel n : Nat) (s : State) : (takeDescs fuel n s).out = s.out := by
  induction fuel generalizing s with
  | zero => rfl
  | succ fuel ih =>
    rw [takeDescs]
    split
    · rfl
    · exact ih _

theorem takePort_out (s : State) : (takePort p s).out = s.out := by
  unfold takePort
  generalize List.range 16 = pairs
  induction pairs generalizing s with
  | nil => rfl
  | cons i pairs ih => exact (ih _).trans (takeDescs_out ..)

theorem queuedEnable_out (s : State) : (queuedEnable p s).out = s.out := by
  unfold queuedEnable
  dsimp only
  split
  · exact (takePort_out _).trans (endAccepted_out ..)
  · rfl

theorem queuedEnable_of_not_drained (h : s.ports[p].state ≠ .drained) : queuedEnable p s = s := by
  rw [queuedEnable, if_neg]
  simp only [h, decide_false, Bool.false_and, Bool.false_eq_true, not_false_eq_true]

theorem serveSetGo_some {k : BitVec 256} (hnext : (ideOf s.ports[p].links[l] kind).next = some k) :
    serveSetGo p l kind s = queuedEnable p (emit (.ideAck p l kind true) (updIde p l kind (fun _ => ⟨true, k, none⟩) s)) := by
  rw [serveSetGo, hnext]

theorem ideOf_updIde (f : IdeStream → IdeStream) :
    ideOf (updIde p l kind f s).ports[p].links[l] kind = f (ideOf s.ports[p].links[l] kind) := by
  simp only [updIde, updLink_ports, updAt_get_same]
  cases kind
  · rfl
  · rfl

theorem doIdeKmKeyProg_germ {key : BitVec 256} (hup : s.ports[p].links[l].up = true) (hgerm : s.fw.germUp = true) :
    doIdeKmKeyProg p l true kind key s =
      emit (.ideAck p l kind true) (updIde p l kind (fun i => { i with next := some key }) s) := by
  rw [doIdeKmKeyProg, hup, askGerm, hgerm, serveKeyProg, hup]
  rfl

theorem doIdeKmKSetGo_germ (hup : s.ports[p].links[l].up = true) (hgerm : s.fw.germUp = true) :
    doIdeKmKSetGo p l true kind s = serveSetGo p l kind s := by
  rw [doIdeKmKSetGo, hup, askGerm, hgerm]
  rfl

/-- K_SET_GO puts the waiting key to use (R45, R46). -/
theorem serveSetGo_spec {k : BitVec 256} (hnext : (ideOf s.ports[p].links[l] kind).next = some k) :
    ideOf (serveSetGo p l kind s).ports[p].links[l] kind = ⟨true, k, none⟩ ∧
    (serveSetGo p l kind s).out = s.out ++ [.ideAck p l kind true] ∧
    (s.ports[p].state ≠ .drained → serveSetGo p l kind s = { s with
      out := (serveSetGo p l kind s).out
      ports := s.ports.set p { s.ports[p] with links := (serveSetGo p l kind s).ports[p].links } }) := by
  set v := emit (.ideAck p l kind true) (updIde p l kind (fun _ => ⟨true, k, none⟩) s) with hv
  have hlinks : (queuedEnable p v).ports[p].links = v.ports[p].links := (Settles.refl v).queuedEnable.links p
  rw [serveSetGo_some hnext]
  have hkey : ideOf v.ports[p].links[l] kind = ⟨true, k, none⟩ := by
    rw [hv, emit, ideOf_updIde]
  have hport : v.ports[p].state = s.ports[p].state := by
    simp only [hv, emit, updIde, updLink_ports, updAt_get_same]
  have hframe : v = { s with out := v.out, ports := s.ports.set p { s.ports[p] with links := v.ports[p].links } } :=
    congrArg (emit (.ideAck p l kind true)) (updLink_eq p l _ s)
  refine ⟨by rw [hlinks]; exact hkey, (queuedEnable_out v).trans rfl, fun hstate => ?_⟩
  rw [← hport] at hstate
  rw [queuedEnable_of_not_drained hstate]
  exact hframe

end Keys

/-- Settles O9. -/
theorem linkLossAndIdeKeys : Obligations.LinkLossAndIdeKeys := by
  unfold Obligations.LinkLossAndIdeKeys
  refine ⟨fun p l tags s hup => ⟨?_, fun hactive => ?_⟩, fun p l key s hup => ⟨fun kind => ⟨?_, ?_⟩, fun hgerm => ⟨?_, ?_, ?_⟩,
    fun hgerm kind => ?_⟩⟩
  · obtain ⟨hlinks, hcause, -⟩ := takeLinkDown_links_cause hup
    refine completes_of_next (t := takeLinkDown p l s) rfl ⟨hlinks, and_bit_of_getLsbD hcause,
      fun hserved hfree => takeLinkDown_training hup hserved (calm_of_errorFree hfree), takeLinkDown_alone hup, fun hidle => ?_⟩
    rw [takeLinkDown_notUp hup hidle]
    exact ⟨rfl, rfl, congrArg State.ports (updLink_eq p l lostLink s)⟩
  · set w := unverified p l tags s
    have hw : Settles True s w := unverified_settles
    obtain ⟨hdram, hothers, hstate⟩ := dropUnverified_port (p := p) (l := l) (tags := tags) (s := s)
    have hlink : w.ports[p].links[l] = s.ports[p].links[l] := by rw [hw.links p]
    have hup' : w.ports[p].links[l].up = true := by rw [hlink]; exact hup
    obtain ⟨-, hcause, hkept⟩ := takeLinkDown_links_cause hup'
    obtain ⟨hdramN, hheadersN, hothersN, hstateN, -⟩ := noteAer_frame (p := p) (l := l) (takeLinkDown p l w) true
    obtain ⟨cfg, hlost⟩ := linkDown_of_takeLinkDown hup'
    refine completes_of_next (congrArg Host.Outcome.next (doIdeIntegrityFailure_eq hup hactive)) ⟨?_, ?_, ?_, ?_,
      fun hserved hfree => hstateN.trans ?_, fun hidle => ?_⟩
    · rw [hlost]
      rfl
    · rw [hlost]
      rfl
    · rw [hlost]
      rfl
    · rw [hheadersN]
      exact and_0x81_of_bits hcause (hkept _ _ (getLsbD_raise_cause (by decide)))
    · have hcalm := calm_of_errorFree hfree
      exact takeLinkDown_training hup' (by rw [hw.states trivial hcalm p]; exact hserved) (hw.calm hcalm)
    · have hidle' : wasUp w.ports[p].state = false := (congrArg wasUp hstate).trans hidle
      have hdown := takeLinkDown_notUp hup' hidle'
      refine ⟨hdramN.trans ?_, fun q hq => (hothersN q hq).trans ?_⟩
      · rw [hdown]
        exact hdram
      · rw [hdown]
        exact (updAt_get_other _ _ (Ne.symm hq)).trans (hothers q hq)
  · show Host.Outcome.next (doIdeKmKeyProg p l false kind key s) = _
    rw [doIdeKmKeyProg, hup]
    rfl
  · show Host.Outcome.next (doIdeKmKSetGo p l false kind s) = _
    rw [doIdeKmKSetGo, hup]
    rfl
  · exact congrArg Host.Outcome.next (doIdeKmKeyProg_germ hup hgerm)
  · exact congrArg Host.Outcome.next (doIdeKmKeyProg_germ hup hgerm)
  · intro kind k hnext
    exact completes_of_next (congrArg Host.Outcome.next (doIdeKmKSetGo_germ hup hgerm)) (serveSetGo_spec hnext)
  · show Host.Outcome.next (doIdeKmKeyProg p l true kind key s) = _
    rw [doIdeKmKeyProg, hup, askGerm, hgerm]
    rfl

end Sys2Proof.Machine

/-! # A response that leaves beside a request with bad parity (R21, R23, R78, R112) -/

namespace Sys2Proof.Machine

/-- An image whose PORT_MASK names ports 0 and 1. -/
def twoPortImage : SolvikImage := { imageOf [] [] with portMask := 3 }

/-- A completion that waits in egress for the link. -/
def waitingCmp (rid : Nat) : Rsp := ⟨rid, .cmp, 0, false, 0, 0, false, 0⟩

/-- A host's write at link 0 of a port whose home has answered. -/
def answeredWrite (p rid : Nat) : OpenReq :=
  ⟨rawReq rid (.host p 0 0 5) (16 * p) .wr 64 0 0 false, .egress, false, false, false, false⟩

/-- Ports 0 and 1 are ENABLED, each with a write whose completion waits in egress; at port 0 a partner's write whose address fails
its parity waits in ingress. -/
def cmpBesideBadWrite : State :=
  { State.reset with
    img := some twoPortImage
    ports := (State.reset.ports.set 0 { State.reset.ports[0] with
      state := .enabled, egress := [waitingCmp 9]
      reqs := [answeredWrite 0 9, ⟨badAddressWrite, .ingress, false, false, false, false⟩] }).set 1
      { State.reset.ports[1] with state := .enabled, egress := [waitingCmp 10], reqs := [answeredWrite 1 10] } }

/-- Once the completion of port 0 has left, the write goes on and takes the coherent domain down, and port 1 goes VIRAL, which
completes its requests under R496 and drops what waits in its egress (R112 steps 3, 4). -/
theorem homeResponse_empties_other_egress : (doHomeResponse 0 9 cmpBesideBadWrite).ports[1].egress = [] := by
  decide +kernel

/-- Refutes O19 in its first clause, which says that a response that leaves port 0 leaves the egress of every other port as it was,
before it asks that the ports be quiet. A request in ingress with a fatal control parity error goes on when the port settles after
the response, and takes the coherent domain down at every port (R23, R112). -/
theorem not_responsesAndAdmission : ¬ Obligations.ResponsesAndAdmission := by
  unfold Obligations.ResponsesAndAdmission
  rintro ⟨hresponse, -⟩
  obtain ⟨t, ht, -, hothers, -⟩ := hresponse 0 0 0 5 9 (waitingCmp 9) (answeredWrite 0 9) cmpBesideBadWrite
    (by decide +kernel) (by decide +kernel) rfl (by decide +kernel) rfl
  have hempty := homeResponse_empties_other_egress
  have hkept : t.ports[1].egress = [waitingCmp 10] := hothers 1 (by decide)
  rw [show doHomeResponse 0 9 cmpBesideBadWrite = t from Host.Outcome.next.inj ht, hkept] at hempty
  exact absurd hempty (List.cons_ne_nil _ _)

end Sys2Proof.Machine

/-! # Pinned entries that come back past a dirty line of a culm cache (R82, R137, R146, R255) -/

namespace Sys2Proof.Machine

/-- An image of one rank of 16 row bits with the structures of the MAP section apart from each other. -/
def mappedImage : SolvikImage :=
  { imageOf [] [] with
    rowBits := 16, ranks := 1
    map := [0x4C50000000, 0x4C50000000, 0x4C6FFFF000, 0x4000000000, 0x4400000000, 0x4420000000, 0x4421000000, 0x4421080000,
      0x4421088000, 0x4430000000, 0x4440000000, 0, 0x4000000000, 0x4C40000000, 0x4C44000000, 0x4C44000000, 0x4C80000000,
      0x1000000] }

/-- A line of page-key records in which a write has bound one page, held dirty in way 6 of its set. -/
def dirtyRecords : CulmLine := ⟨0x4000, true, .pkt, 6, 0, false⟩

/-- Memory is as fill left it, Germ is up, and class 7 may replace way 6 alone. An acknowledged invalidation has removed one pinned
entry. The home of the leaf over the root of the remap table holds `dirtyRecords` in the set of that leaf. -/
def reinstallPastDirtyLine : State :=
  setCulm 0x4430200000 dirtyRecords (regSet offShfRoot 0x4C50000000 (regSet (offQosShare 7) (place 48 1)
    { State.reset with
      img := some mappedImage, filled := true, fw := { State.reset.fw with germUp := true }
      gate := { State.reset.gate with reinstall := [(0, ⟨0, 0x1000, 12, 0x5000, false, false, true⟩)] } }))

/-- Germ reads the root for the new leaf; the fill of the leaf over it evicts the records, which are written back (R137, R255). -/
theorem pinnedReinstall_writes_records : (doPinnedReinstall reinstallPastDirtyLine).dram =
    [(physLine reinstallPastDirtyLine 0x4430200000, strongEncode .plain dirtyRecords.data)] := by
  decide +kernel

/-- Refutes O21 in its clause that PINNED_REINSTALL leaves DRAM as it was. Germ reads the remap table to find the leaf that maps a
pinned entry now, and the nodes that verify what it reads take ways of the culm caches: a dirty line that they replace reaches
DRAM. -/
theorem not_sheafInvalidations : ¬ Obligations.SheafInvalidations := by
  unfold Obligations.SheafInvalidations
  rintro ⟨-, -, hreinstall, -⟩
  obtain ⟨t, ht, -, hdram⟩ := hreinstall reinstallPastDirtyLine rfl rfl rfl
  have hwritten := pinnedReinstall_writes_records
  rw [show doPinnedReinstall reinstallPastDirtyLine = t from Host.Outcome.next.inj ht, hdram] at hwritten
  exact absurd hwritten.symm (List.cons_ne_nil _ _)

end Sys2Proof.Machine

/-! # What a port at rest and a home at rest leave as they are (R52, R87, R100, R118, R322, R450) -/

namespace Sys2Proof.Machine

/-! ## Ports -/

section Quiet
variable {s : State}

theorem portsQuiet_iff : portsQuiet s = true ↔
    (∀ p : Fin 4, s.ports[p].state ≠ .draining ∧ s.ports[p].invBusy = false ∧ s.ports[p].keyMarker = false ∧
      (∀ b ∈ s.ports[p].bis, b.conflict = false) ∧ ∀ r ∈ s.ports[p].reqs, r.stage ≠ .ingress) ∧
    s.pair.promotion ≠ .reissue ∧ s.fw.injecting = false := by
  simp only [portsQuiet, Bool.and_eq_true, List.all_eq_true, Vector.mem_toList_iff, decide_eq_true_eq, Bool.not_eq_true', and_assoc,
    Vector.mem_iff_getElem]
  refine and_congr_left fun _ => ⟨fun h p => h _ ⟨p, p.isLt, rfl⟩, ?_⟩
  rintro h _ ⟨i, hi, rfl⟩
  exact h ⟨i, hi⟩

variable (hquiet : portsQuiet s = true)
include hquiet

theorem portSettle_of_portsQuiet (p : Fin 4) : portSettle p s = s := by
  obtain ⟨hports, -⟩ := portsQuiet_iff.1 hquiet
  obtain ⟨hdrain, hinv, hmarker, hbis, hreqs⟩ := hports p
  have hpump : pumpFreed p s = s := by
    rw [pumpFreed, if_neg]
    simp only [mayPump, List.any_eq_true, Bool.and_eq_true, decide_eq_true_eq, not_exists, not_and]
    exact fun r hr hingress => absurd hingress (hreqs r hr)
  have hack : ackConflicts p s = s := by
    have hdue : (s.ports[p].bis.filter fun b => b.conflict &&
        s.ports[p].reqs.all fun r => !orderedBefore s r || lineBase r.req.hpa ≠ lineBase b.hpa) = [] :=
      List.filter_eq_nil_iff.2 fun b hb => by simp [hbis b hb]
    simp only [ackConflicts, hdue, List.foldl_nil]
  have hinvAck : invAckStep p s = s := by simp only [invAckStep, hinv, Bool.not_false, Bool.true_or, if_true]
  have hmark : markerStep p s = s := by
    simp only [markerStep, hmarker, Bool.false_and, Bool.false_eq_true, if_false]
  have hstep : drainStep p s = s := by
    rw [drainStep, if_pos]
    simp [-Fin.getElem_fin, hdrain]
  rw [portSettle, hpump, hack, hinvAck, hmark, hstep]

/-- Where nothing at the ports waits for a completion, a completion changes nothing there. -/
theorem allSettle_of_portsQuiet : allSettle s = s := by
  obtain ⟨-, hreissue, hinjecting⟩ := portsQuiet_iff.1 hquiet
  have hports : eachPort portSettle s = s := by
    unfold eachPort
    induction List.finRange 4 with
    | nil => rfl
    | cons p ps ih => rw [List.foldl_cons, portSettle_of_portsQuiet hquiet p, ih]
  rw [allSettle, hports, endReissue, if_pos (by simp [hreissue]), endInjection, if_neg (by simp [hinjecting])]

end Quiet

/-! ## Transactions that wait at their home -/

/-- The transaction has nothing to do when its home settles: it waits behind another, at a held page, or for something else. -/
def Stays (s : State) (k : Fin 8) (t : Txn) : Prop :=
  match t.state with
  | .order => mayLook s k t = false
  | .sfWait => mayLook s k t = false
  | .parked => holdPage t.msg ∈ s.spks[k].holds
  | _ => True

theorem stays_of_homeWaits {s : State} {k : Fin 8} (h : homeWaits s k = true) {u : Txn} (hu : u ∈ s.spks[k].txns) :
    Stays s k u := by
  simp only [homeWaits, Bool.and_eq_true, List.all_eq_true] at h
  obtain ⟨⟨⟨htxns, -⟩, -⟩, -⟩ := h
  have hwaits := htxns u hu
  unfold Stays
  cases hstate : u.state with
  | order => simpa [hstate] using hwaits
  | sfWait => simpa [hstate] using hwaits
  | parked => simpa [hstate] using hwaits
  | holdWait => trivial
  | biWait => trivial
  | memory => trivial
  | respond => trivial

/-- What a home that settles does with the transaction of a number. -/
def settleTxn (k : Fin 8) (u : State) (tid : Nat) : State :=
  match txnOf u k tid with
  | none => u
  | some t =>
    match t.state with
    | .order => if mayLook u k t then lookup k t u else u
    | .parked =>
      if u.spks[k].holds.contains (holdPage t.msg) || !slotFree u (slotsHeld u k) t.msg.req.cls then u
      else if mayLook u k t then lookup k t u
      else updTxn k t.tid (fun t => { t with state := .order }) u
    | .sfWait => if mayLook u k t then lookup k t u else u
    | _ => u

theorem settle_eq_foldl (k : Fin 8) (s : State) :
    settle k s = ((freeEvicts k s).spks[k].txns.map (·.tid)).foldl (settleTxn k) (freeEvicts k s) := rfl

theorem settleTxn_of_stays {k : Fin 8} {s : State} {tid : Nat} (h : ∀ t, txnOf s k tid = some t → Stays s k t) :
    settleTxn k s tid = s := by
  unfold settleTxn
  cases hfind : txnOf s k tid with
  | none => rfl
  | some t =>
    have hstays := h t hfind
    unfold Stays at hstays
    cases hstate : t.state <;> simp_all

theorem settleTxn_order {k : Fin 8} {s : State} {t : Txn} (hfind : txnOf s k t.tid = some t) (hstate : t.state = .order)
    (hlook : mayLook s k t = true) : settleTxn k s t.tid = lookup k t s := by
  simp only [settleTxn, hfind, hstate, hlook, if_true]

theorem foldl_settleTxn_of_stays {k : Fin 8} {s : State} {tids : List Nat}
    (h : ∀ tid ∈ tids, ∀ t, txnOf s k tid = some t → Stays s k t) : tids.foldl (settleTxn k) s = s := by
  induction tids with
  | nil => rfl
  | cons tid tids ih =>
    rw [List.foldl_cons, settleTxn_of_stays (h tid (List.mem_cons_self ..)),
      ih fun x hx => h x (List.mem_cons_of_mem _ hx)]

theorem freeEvicts_of_nil {k : Fin 8} {s : State} (h : s.spks[k].evict = []) : freeEvicts k s = s := by
  simp only [freeEvicts, h, List.map_nil, List.foldl_nil]

/-! ## A transaction that joins the others -/

/-- At home `k` the transaction `x` has come behind those of `s`, and what holds a transaction back beside others is as in `s`. -/
structure Joins (k : Fin 8) (x : Txn) (s v : State) : Prop where
  txns : v.spks[k].txns = s.spks[k].txns ++ [x]
  evict : v.spks[k].evict = s.spks[k].evict
  forwards : v.spks[k].forwards = s.spks[k].forwards
  holds : v.spks[k].holds = s.spks[k].holds

section Joins
variable {k : Fin 8} {x : Txn} {s v : State} (hjoin : Joins k x s v)
include hjoin

/-- The snoop filter holds no transaction back. -/
theorem Joins.of_sf {w : State} (hhome : w.spks[k] = { v.spks[k] with sf := w.spks[k].sf }) : Joins k x s w := by
  constructor
  · rw [hhome, hjoin.txns]
  · rw [hhome, hjoin.evict]
  · rw [hhome, hjoin.forwards]
  · rw [hhome, hjoin.holds]

/-- A transaction looks at those before it alone. -/
theorem Joins.mayLook {u : Txn} (hu : u ∈ s.spks[k].txns) : mayLook v k u = mayLook s k u := by
  have hstop : ¬ (s.spks[k].txns.takeWhile fun y => decide (y.tid ≠ u.tid)).length = s.spks[k].txns.length := fun hlen => by
    have hall := List.takeWhile_eq_self_iff.1 ((List.takeWhile_prefix _).eq_of_length hlen) u hu
    simp at hall
  simp only [Machine.mayLook, pageForwarding, hjoin.txns, hjoin.evict, hjoin.forwards, List.takeWhile_append, if_neg hstop]

theorem Joins.stays {u : Txn} (hu : u ∈ s.spks[k].txns) (h : Stays s k u) : Stays v k u := by
  unfold Stays at h ⊢
  rw [hjoin.mayLook hu, hjoin.holds]
  exact h

theorem Joins.txnOf_old {tid : Nat} (htid : tid ≠ x.tid) : txnOf v k tid = txnOf s k tid := by
  simp [-Fin.getElem_fin, txnOf, hjoin.txns, List.find?_append, Ne.symm htid]

variable (hfresh : ∀ u ∈ s.spks[k].txns, u.tid ≠ x.tid)
include hfresh

theorem Joins.txnOf_new : txnOf v k x.tid = some x := by
  have hnone : s.spks[k].txns.find? (fun u => decide (u.tid = x.tid)) = none :=
    List.find?_eq_none.2 fun u hu => by simpa using hfresh u hu
  rw [txnOf, hjoin.txns, List.find?_append, hnone]
  simp

/-- No earlier transaction is on the line of the new one, and its sector is in no eviction buffer (R87, R102). -/
theorem Joins.mayLook_new (hevict : s.spks[k].evict = []) (hkey : ∀ u ∈ s.spks[k].txns, orderKey u.msg ≠ orderKey x.msg)
    (hplain : x.msg.packed = none) : Machine.mayLook v k x = true := by
  have hearlier : (v.spks[k].txns.takeWhile fun y => decide (y.tid ≠ x.tid)) = s.spks[k].txns := by
    rw [hjoin.txns, List.takeWhile_append_of_pos fun u hu => by simpa using hfresh u hu]
    simp
  simp only [Machine.mayLook, pageForwarding, hearlier, hjoin.evict, hevict, hplain, List.all_nil, Option.isSome_none,
    Bool.false_and, Bool.not_false, Bool.and_true, List.all_eq_true, List.mem_filter, decide_eq_true_eq]
  exact fun u hu => hkey u hu.1

/-- At a home where everything else waits, the new transaction alone looks up. -/
theorem Joins.settle (hwaits : homeWaits s k = true) (hevict : s.spks[k].evict = [])
    (hkey : ∀ u ∈ s.spks[k].txns, orderKey u.msg ≠ orderKey x.msg) (hplain : x.msg.packed = none) (hstate : x.state = .order) :
    settle k v = lookup k x v := by
  have hold : ∀ tid ∈ s.spks[k].txns.map (·.tid), ∀ t, txnOf v k tid = some t → Stays v k t := by
    rintro tid htid t ht
    obtain ⟨u, hu, rfl⟩ := List.mem_map.1 htid
    rw [hjoin.txnOf_old (hfresh u hu)] at ht
    have hmem := List.mem_of_find?_eq_some ht
    exact hjoin.stays hmem (stays_of_homeWaits hwaits hmem)
  rw [settle_eq_foldl, freeEvicts_of_nil (hjoin.evict.trans hevict), hjoin.txns, List.map_append, List.foldl_append,
    foldl_settleTxn_of_stays hold, List.map_singleton, List.foldl_cons, List.foldl_nil,
    settleTxn_order (hjoin.txnOf_new hfresh) hstate (hjoin.mayLook_new hfresh hevict hkey hplain)]

/-- The new transaction goes to memory; the others stay as they are. -/
theorem Joins.enterMemory (kind : RspKind) :
    ∃ y, (Machine.enterMemory k x.tid kind v).spks[k].txns = s.spks[k].txns ++ [y] ∧ y.msg = x.msg ∧ y.state = .memory ∧
      y.started = x.started ∧ y.rsp.kind = kind := by
  refine ⟨{ x with
    state := .memory, need := [], rsp := { x.rsp with kind := kind }
    queued := !usesChannel x || queueRoom v k (subchOf v x.msg.mpa) x.msg.req.cls }, ?_, rfl, rfl, rfl, rfl⟩
  simp only [Machine.enterMemory, updTxn, updSpk_spks, updAt_get_same, hjoin.txns, List.map_append, List.map_singleton, if_true]
  congr 1
  exact (List.map_congr_left fun u hu => if_neg (hfresh u hu)).trans (List.map_id _)

end Joins

end Sys2Proof.Machine

/-! # A message at the ordering point of its home (R87, R96, R98, R186, R247, R253) -/

namespace Sys2Proof.Machine

/-! ## The order of service -/

theorem mem_insertBy {α : Type} {key : α → Nat} {x y : α} {l : List α} (h : y ∈ insertBy key x l) : y = x ∨ y ∈ l := by
  induction l with
  | nil => exact .inl (List.mem_singleton.1 h)
  | cons z l ih =>
    rw [insertBy] at h
    split at h
    · exact List.mem_cons.1 h
    · rcases List.mem_cons.1 h with rfl | h
      · exact .inr (List.mem_cons_self ..)
      · exact (ih h).imp_right (List.mem_cons_of_mem _)

theorem mem_sortBy {α : Type} {key : α → Nat} {y : α} {l : List α} (h : y ∈ sortBy key l) : y ∈ l := by
  have hfold : ∀ (l acc : List α), y ∈ l.foldl (fun acc x => insertBy key x acc) acc → y ∈ acc ∨ y ∈ l := by
    intro l
    induction l with
    | nil => exact fun acc h => .inl h
    | cons x l ih =>
      intro acc h
      rcases ih _ h with h | h
      · rcases mem_insertBy h with rfl | h
        · exact .inr (List.mem_cons_self ..)
        · exact .inl h
      · exact .inr (List.mem_cons_of_mem _ h)
  exact (hfold l [] h).resolve_left List.not_mem_nil

theorem mem_pickMessages {s : State} {k : Fin 8} {e : Nat × Msg} {ms acc : List (Nat × Msg)} {n : Nat}
    (h : e ∈ pickMessages s k ms n acc) : e ∈ ms ∨ e ∈ acc := by
  induction ms generalizing n acc with
  | nil => exact .inr (by simpa [pickMessages] using h)
  | cons m ms ih =>
    cases n with
    | zero => exact .inr (by simpa [pickMessages] using h)
    | succ n =>
      simp only [pickMessages] at h
      split at h
      · rcases ih h with h | h
        · exact .inl (List.mem_cons_of_mem _ h)
        · rcases List.mem_append.1 h with h | h
          · exact .inr h
          · exact .inl (List.mem_singleton.1 h ▸ List.mem_cons_self ..)
      · split at h
        · exact .inr h
        · exact (ih h).imp_left (List.mem_cons_of_mem _)

theorem mem_inbox_of_serviceOrder {s : State} {k : Fin 8} {e : Nat × Msg} (h : e ∈ serviceOrder s k) :
    e.2 ∈ s.spks[k].inbox := by
  obtain ⟨y, hy, rfl⟩ := List.mem_map.1 (mem_sortBy h)
  exact List.fst_mem_of_mem_zipIdx hy

/-- The elements at all places but one. -/
theorem filter_zipIdx_ne {α : Type} (l : List α) (i n : Nat) :
    ((l.zipIdx n).filter fun e => decide (n + i ≠ e.2)).map (·.1) = l.eraseIdx i := by
  induction l generalizing i n with
  | nil => rfl
  | cons a l ih =>
    rw [List.zipIdx_cons]
    cases i with
    | zero =>
      have hall : (l.zipIdx (n + 1)).filter (fun e => decide (n + 0 ≠ e.2)) = l.zipIdx (n + 1) :=
        List.filter_eq_self.2 fun e he => by
          have := (List.mem_zipIdx (x := e.1) (i := e.2) he).1
          simp only [decide_eq_true_eq]
          omega
      rw [List.filter_cons_of_neg (by simp), hall, List.zipIdx_map_fst, List.eraseIdx_cons_zero]
    | succ i =>
      have hrest := ih i (n + 1)
      rw [show n + 1 + i = n + (i + 1) by omega] at hrest
      rw [List.filter_cons_of_pos (by simp), List.map_cons, hrest, List.eraseIdx_cons_succ]

theorem arrivalRank_lt {s : State} {k : Fin 8} {m : Msg} (h : ∀ p l ld tag, m.req.src = .host p l ld tag → p < 4) :
    arrivalRank s k m < 9 := by
  unfold arrivalRank
  split
  · decide
  · split
    · next hsrc =>
      have := h _ _ _ _ hsrc
      omega
    · decide

theorem byRank_singleton {s : State} {k : Fin 8} {i : Nat} {m : Msg} (h : arrivalRank s k m < 9) :
    byRank s k [(i, m)] = [(i, m)] := by
  have hfilter (r : Nat) : [(i, m)].filter (fun e => decide (arrivalRank s k e.2 = r)) =
      if arrivalRank s k m = r then [(i, m)] else [] := by
    simp [List.filter_cons]
  simp only [byRank, hfilter]
  generalize arrivalRank s k m = r at h
  interval_cases r <;> rfl

theorem returnCredit_of_none {k : Fin 8} {m : Msg} {s : State}
    (h : ∀ w ∈ s.ports[reqPort m.req].creditWait, spkOf w.mpa ≠ k ∨ w.req.cls ≠ m.req.cls) : returnCredit k m s = s := by
  have hnone : (s.ports[reqPort m.req].creditWait.find? fun w =>
      decide (spkOf w.mpa = k) && decide (w.req.cls = m.req.cls)) = none :=
    List.find?_eq_none.2 fun w hw => by
      rcases h w hw with h | h <;> simp [h]
  simp only [returnCredit, hnone]

/-! ## What a home changes beside its own lists -/

/-- `t` is `s` but for home `k`, the counters, the headers, the next number and what waits for the partner's shadow. -/
structure AtHome (k : Fin 8) (s t : State) : Prop where
  frame : t = { s with
    spks := t.spks, perf := t.perf, headers := t.headers, seq := t.seq, pair := { s.pair with backlog := t.pair.backlog } }
  others : ∀ j, j ≠ k → t.spks[j] = s.spks[j]

section AtHome
variable {k : Fin 8} {s t u : State}

theorem AtHome.trans (h : AtHome k s t) (g : AtHome k t u) : AtHome k s u where
  frame := by rw [g.frame, h.frame]
  others j hj := (g.others j hj).trans (h.others j hj)

theorem OnlyCounted.atHome (h : OnlyCounted s t) : AtHome k s t where
  frame := by rw [h.frame]
  others _ _ := by rw [h.frame]

theorem updSpk_atHome (f : Spk → Spk) (s : State) : AtHome k s (updSpk k f s) where
  frame := rfl
  others _ hj := updAt_get_other _ _ (Ne.symm hj)

theorem takeSeq_atHome (s : State) : AtHome k s (takeSeq s).2 := ⟨rfl, fun _ _ => rfl⟩

theorem queueSync_atHome (w : SfUpdate) (s : State) : AtHome k s (queueSync w s) := ⟨rfl, fun _ _ => rfl⟩

variable (h : AtHome k s t)
include h

theorem AtHome.ports : t.ports = s.ports := by rw [h.frame]
theorem AtHome.img : t.img = s.img := by rw [h.frame]
theorem AtHome.dram : t.dram = s.dram := by rw [h.frame]
theorem AtHome.out : t.out = s.out := by rw [h.frame]
theorem AtHome.dtime : t.dtime = s.dtime := by rw [h.frame]
theorem AtHome.regs : t.regs = s.regs := by rw [h.frame]

theorem AtHome.portsQuiet : portsQuiet t = portsQuiet s := by
  unfold Machine.portsQuiet
  rw [h.frame]

theorem AtHome.hdmDb (p : Fin 4) (l : Nat) : hdmDb t p l = hdmDb s p l := by
  unfold Machine.hdmDb linkMode
  rw [h.img, h.ports]

theorem AtHome.reqHead (q : Req) : reqHead t q = reqHead s q := by
  unfold Machine.reqHead
  simp only [h.hdmDb]

theorem AtHome.coherent (q : Req) : coherent t q = coherent s q := by
  unfold Machine.coherent ldHdmDb ldRec
  simp only [h.hdmDb, h.img]

theorem AtHome.isProtected (m : Nat) : isProtected t m = isProtected s m := by
  unfold Machine.isProtected mapAt
  rw [h.img]

theorem AtHome.newHold (j : Nat) : newHold t j = newHold s j := by
  unfold Machine.newHold holdNs regField regGet
  rw [h.dtime, h.regs]

end AtHome

/-! ## Hot sampling -/

/-- `t` is `s` but for the counters and the hot table of home `k`. -/
structure Sampled (k : Fin 8) (s t : State) : Prop where
  atHome : AtHome k s t
  home : t.spks[k] = { s.spks[k] with samples := t.spks[k].samples, hot := t.spks[k].hot }
  seq : t.seq = s.seq

section Sampled
variable {k : Fin 8} {s t u : State}

theorem Sampled.trans (h : Sampled k s t) (g : Sampled k t u) : Sampled k s u where
  atHome := h.atHome.trans g.atHome
  home := by rw [g.home, h.home]
  seq := g.seq.trans h.seq

theorem OnlyCounted.sampled (h : OnlyCounted s t) : Sampled k s t := ⟨h.atHome, by rw [h.frame], by rw [h.frame]⟩

theorem hotTouch_sampled (ldTag page : Nat) (packed : Bool) (enter : Nat) (f : Nat → Nat) (s : State) :
    Sampled k s (hotTouch k ldTag page packed enter f s) := by
  unfold hotTouch
  dsimp only
  split
  · exact ⟨updSpk_atHome _ s, by simp only [updSpk_spks, updAt_get_same], rfl⟩
  · exact ⟨updSpk_atHome _ s, by simp only [updSpk_spks, updAt_get_same], rfl⟩

theorem hotSample_sampled (m : Msg) (s : State) : Sampled k s (hotSample k m s) := by
  have hcount (n : Nat) : Sampled k s (updSpk k (fun q => { q with samples := n }) s) :=
    ⟨updSpk_atHome _ s, by simp only [updSpk_spks, updAt_get_same], rfl⟩
  unfold hotSample
  split
  · exact (OnlyCounted.refl s).sampled
  · dsimp only
    split
    · exact (OnlyCounted.refl s).sampled
    · split
      · exact (hcount _).trans (hotTouch_sampled ..)
      · exact hcount _

end Sampled

/-! ## Arrival -/

/-- The home's state once the message has become a transaction in ORDER, before the home settles. -/
def joined (k : Fin 8) (m : Msg) (s : State) : State :=
  updSpk k (fun q => { q with txns := q.txns ++ [newTxn s.seq m .order false s.dtime] })
    (takeSeq (hotSample k m (perfSpk k 0x02 1 (some m.req.cls) s))).2

section Arrival
variable {k : Fin 8} {m : Msg} {s : State}

theorem perfSpk_onlyCounted (event amount : Nat) (cls : Option Nat) (s : State) :
    OnlyCounted s (perfSpk k event amount cls s) := perfEvent_onlyCounted ..

theorem sampled_onArrival (s : State) : Sampled k s (hotSample k m (perfSpk k 0x02 1 (some m.req.cls) s)) :=
  (perfSpk_onlyCounted ..).sampled.trans (hotSample_sampled ..)

theorem joined_atHome : AtHome k s (joined k m s) :=
  (sampled_onArrival s).atHome.trans ((takeSeq_atHome _).trans (updSpk_atHome _ _))

theorem joined_home : ∃ samples hot, (joined k m s).spks[k] = { s.spks[k] with
    txns := s.spks[k].txns ++ [newTxn s.seq m .order false s.dtime], samples := samples, hot := hot } := by
  have hhome := (sampled_onArrival (k := k) (m := m) s).home
  simp only [joined, takeSeq, updSpk_spks, updAt_get_same]
  rw [hhome]
  exact ⟨_, _, rfl⟩

theorem fires_of_noInjection (h : noInjection s = true) (b : Fin 40) (bit : Nat) : fires s b bit = false := by
  rw [fires, armed_of_noInjection h, Bool.false_and]

/-- A message with good parity for an open line becomes a transaction in ORDER, unless it is a host's write that may be taken ahead
(R99, R107, R153). -/
theorem arrive_joined (hinj : noInjection s = true) (hpar : m.req.par = .good) (hplain : m.packed = none)
    (hopen : isProtected s m.mpa = false) (haligned : atomicAligned m.req.op = true)
    (hnotAhead : reqHead s m.req = none ∨ m.req.op ≠ .wr ∧ m.req.op ≠ .wrPtl) :
    arrive k m .good s = settle k (joined k m s) := by
  have hsampled := sampled_onArrival (k := k) (m := m) s
  have hhead : reqHead (takeSeq (hotSample k m (perfSpk k 0x02 1 (some m.req.cls) s))).2 m.req = reqHead s m.req :=
    (hsampled.atHome.trans (takeSeq_atHome _)).reqHead _
  have hmsg : resolveForward s { m with req := { m.req with contained := m.req.contained || false } } = m := by
    have hsame : { m with req := { m.req with contained := m.req.contained || false } } = m := by rw [Bool.or_false]
    rw [hsame, resolveForward, hplain]
  have hfound : worseParity .good (parityAt m.req.par .home) = .good := by
    rw [hpar, parityAt_good]
    rfl
  have hseq : (takeSeq (hotSample k m (perfSpk k 0x02 1 (some m.req.cls) s))).1 = s.seq := hsampled.seq
  unfold arrive
  simp only [hfound, fires_of_noInjection hinj, Bool.and_false, Bool.false_eq_true, if_false, stageParity, reduceCtorEq,
    decide_false, hmsg]
  simp only [hplain, Option.isNone_none, Bool.true_and, hopen, Bool.false_and, haligned, Bool.not_true, Bool.false_eq_true,
    if_false, hseq, hhead]
  rcases hnotAhead with hnone | ⟨hwr, hwrPtl⟩
  · rw [hnone]
    rfl
  · cases reqHead s m.req with
    | none => rfl
    | some h => exact if_pos (by simp [hwr, hwrPtl])

/-- The one message that the order of service puts first is taken (R247). -/
theorem takeMessages_one {i : Nat} (hup : s.domainDown = false) (hrank : arrivalRank s k m < 9)
    (hpick : pickMessages s k (serviceOrder s k) 1 [] = [(i, m)]) :
    takeMessages k 1 .good s =
      returnCredit k m (arrive k m .good (updSpk k (fun x => { x with inbox := s.spks[k].inbox.eraseIdx i }) s)) := by
  have hleft : ((s.spks[k].inbox.zipIdx.filter fun e => [(i, m)].all fun x => decide (x.1 ≠ e.2)).map (·.1)) =
      s.spks[k].inbox.eraseIdx i := by
    have hall := filter_zipIdx_ne s.spks[k].inbox i 0
    simpa using hall
  unfold takeMessages
  simp only [hpick, byRank_singleton hrank, hleft, List.foldl_cons, List.foldl_nil, updSpk_domainDown, hup, Bool.false_eq_true,
    if_false]

end Arrival

/-! ## Lookup -/

section Lookup
variable {k : Fin 8} {t : Txn} {s : State} (hpar : t.msg.req.par = .good) (hheld : holdPage t.msg ∉ s.spks[k].holds)
include hpar hheld

/-- A request outside the coherence of chapter 4 goes to memory with no record. -/
theorem lookup_incoherent (hcoherent : coherent s t.msg.req = false) : lookup k t s = toMemoryBare k t s := by
  simp [-Fin.getElem_fin, lookup, hpar, hheld, hcoherent]

/-- A request that is granted a line of a sector without an entry takes a free way (R89, R103). -/
theorem lookup_freeWay {pl : Nat} (hcoherent : coherent s t.msg.req = true) (hgrants : grants t.msg.req.op = true)
    (hmiss : sfFind s.spks[k] (msgSector t.msg) = none) (hway : chooseWay s k (msgSector t.msg) = .free pl) :
    lookup k t s = toMemory k t.tid pl
      (freshEntry (msgSector t.msg) t.msg.req.region (t.msg.req.dpa / 256) t.msg.req.aliasF s.dtime) t
      (perfSpk k 0x05 1 none s) := by
  simp [-Fin.getElem_fin, lookup, hpar, hheld, hcoherent, hgrants, hmiss, hway]

end Lookup

/-! ## A grant -/

theorem kfind_kput_same {α : Type} {m : KMap α} {k : Nat} {x : α} : kfind (kput m k x) k = some x := by
  induction m with
  | nil => simp [kput, kfind]
  | cons a m ih =>
    obtain ⟨j, w⟩ := a
    simp only [kput]
    split
    · simp [kfind]
    · split
      · simp [kfind]
      · next h1 h2 => simp [kfind, h1, h2, ih]

section Grant
variable {k : Fin 8} {pl : Nat} {e : SfEntry} {s : State}

/-- An entry put back changes the filter of its home, and what waits for the partner's shadow. -/
theorem sfKeep_spec : AtHome k s (sfKeep k pl e s) ∧ (sfKeep k pl e s).spks = (sfPut k pl e s).spks := by
  have hput : AtHome k s (sfPut k pl e s) := updSpk_atHome _ s
  have hsync (w : SfUpdate) : AtHome k s (queueSync w (sfPut k pl e s)) ∧
      (queueSync w (sfPut k pl e s)).spks = (sfPut k pl e s).spks := ⟨hput.trans (queueSync_atHome w _), rfl⟩
  have hite (c : Prop) [Decidable c] {x y : State} (hx : AtHome k s x ∧ x.spks = (sfPut k pl e s).spks)
      (hy : AtHome k s y ∧ y.spks = (sfPut k pl e s).spks) :
      AtHome k s (if c then x else y) ∧ (if c then x else y).spks = (sfPut k pl e s).spks := by
    split
    · exact hx
    · exact hy
  unfold sfKeep
  refine hite _ ⟨hput, rfl⟩ ?_
  split
  · exact hite _ (hsync _) ⟨hput, rfl⟩
  · exact hite _ (hsync _) (hite _ (hite _ (hsync _) ⟨hput, rfl⟩) (hite _ (hsync _) ⟨hput, rfl⟩))

theorem sfPut_home : (sfPut k pl e s).spks[k] =
    { s.spks[k] with sf := if anyHeld e || e.busy then kput s.spks[k].sf pl e else kdel s.spks[k].sf pl } := by
  simp only [sfPut, updSpk_spks, updAt_get_same]

/-- An entry of which a head holds a line is found at its place. -/
theorem kfind_sfKeep (hheld : anyHeld e = true) : kfind (sfKeep k pl e s).spks[k].sf pl = some e := by
  rw [sfKeep_spec.2, sfPut_home]
  simp only [hheld, Bool.true_or, if_true]
  exact kfind_kput_same

theorem anyHeld_of_owned {i : Fin 4} (h : e.st[i] = .o) : anyHeld e = true := by
  rw [anyHeld, List.any_eq_true]
  exact ⟨i, List.mem_finRange i, by simp [h]⟩

/-- Making an entry tidy changes its vector alone. -/
theorem tidy_spec : tidy e = { e with imprecise := (tidy e).imprecise, vector := (tidy e).vector } := by
  unfold tidy
  split <;> rfl

/-- The owner of a line after it is granted (R89). -/
theorem setOwner_spec (i h : Fin 4) : (setOwner e i h).st[i] = .o ∧ (setOwner e i h).owner[i] = h ∧
    (setOwner e i h).sector = e.sector ∧ (setOwner e i h).aliasF = e.aliasF := by
  unfold setOwner
  dsimp only
  rw [tidy_spec]
  exact ⟨by simp [setSt], by simp [setSt], rfl, rfl⟩

/-- The record of a read of ownership to a line of a sector that no head holds (Table 4.2). -/
theorem recordOp_owns {t : Txn} {h : Nat} (hop : t.msg.req.op = .rd .inv ∨ t.msg.req.op = .inv)
    (hhead : reqHead s t.msg.req = some h) (hfree : anyHeld e = false) :
    let x := (recordOp s k t e).1
    x.sector = e.sector ∧ x.st[msgLine t.msg] = .o ∧ x.owner[msgLine t.msg] = port4 h ∧ x.holdEnd = newHold s k ∧
      x.aliasF = t.msg.req.aliasF ∧ (recordOp s k t e).2 = .cmpE := by
  have hfresh := setOwner_spec (e := { e with
    aliasF := t.msg.req.aliasF, dpaSector := t.msg.req.dpa / 256, region := t.msg.req.region }) (msgLine t.msg) (port4 h)
  obtain ⟨hst, howner, hsector, halias⟩ := hfresh
  rcases hop with hop | hop
  · simp only [recordOp, hop, hhead, hfree, Bool.false_eq_true, if_false, grantLine, if_true]
    exact ⟨hsector, hst, howner, trivial, halias, trivial⟩
  · simp only [recordOp, hop, hhead, hfree, Bool.false_eq_true, if_false, grantLine, if_true]
    exact ⟨hsector, hst, howner, trivial, halias, trivial⟩

end Grant

/-! ## The message taken, from its home's inbox to memory -/

/-- The home once the message at place `i` has left its inbox. -/
def dequeued (k : Fin 8) (i : Nat) (s : State) : State :=
  updSpk k (fun x => { x with inbox := s.spks[k].inbox.eraseIdx i }) s

/-- The transaction that the message of home `k` at place `i` has become, in MEMORY, and what its way there leaves as it was. -/
def TakenAs (k : Fin 8) (i : Nat) (m : Msg) (s : State) (x : Txn) (t : State) : Prop :=
  t.spks[k].txns = s.spks[k].txns ++ [x] ∧ x.msg = m ∧ x.state = .memory ∧ x.started = s.dtime ∧
    t.spks[k].inbox = s.spks[k].inbox.eraseIdx i ∧ t.dram = s.dram ∧ t.out = s.out ∧ ∀ j, j ≠ k → t.spks[j] = s.spks[j]

theorem coherent_of_reqHead {s : State} {q : Req} {h : Nat} (hhead : reqHead s q = some h) : coherent s q = true := by
  unfold reqHead at hhead
  unfold coherent
  cases hsrc : q.src with
  | host p l ld tag =>
    simp only [hsrc, Option.ite_none_right_eq_some] at hhead
    exact hhead.1
  | cq pair cmd unit => simp [hsrc] at hhead
  | mirror hdr => simp [hsrc] at hhead

theorem reqHead_of_incoherent {s : State} {q : Req} (h : coherent s q = false) : reqHead s q = none :=
  Option.eq_none_iff_forall_ne_some.2 fun _ hhead => Bool.false_ne_true (h.symm.trans (coherent_of_reqHead hhead))

theorem chooseWay_congr {s v : State} {k : Fin 8} (hsf : v.spks[k].sf = s.spks[k].sf) (hevict : v.spks[k].evict = s.spks[k].evict)
    (sec : Nat) : chooseWay v k sec = chooseWay s k sec := by
  unfold chooseWay sfWays
  rw [hsf, hevict]

theorem sfFind_congr {a b : Spk} (h : a.sf = b.sf) (sec : Nat) : sfFind a sec = sfFind b sec := by
  unfold sfFind
  rw [h]

theorem anyHeld_freshEntry (sec region dpaSector aliasF stamp : Nat) :
    anyHeld (freshEntry sec region dpaSector aliasF stamp) = false := rfl

section Taken
variable {k : Fin 8} {i : Nat} {m : Msg} {s : State}

theorem dequeued_atHome : AtHome k s (dequeued k i s) := updSpk_atHome _ s

theorem dequeued_joined_atHome : AtHome k s (joined k m (dequeued k i s)) := dequeued_atHome.trans joined_atHome

theorem dequeued_joined_home : ∃ samples hot, (joined k m (dequeued k i s)).spks[k] = { s.spks[k] with
    inbox := s.spks[k].inbox.eraseIdx i, txns := s.spks[k].txns ++ [newTxn s.seq m .order false s.dtime]
    samples := samples, hot := hot } := by
  obtain ⟨samples, hot, hhome⟩ := joined_home (k := k) (m := m) (s := dequeued k i s)
  refine ⟨samples, hot, hhome.trans ?_⟩
  simp only [dequeued, updSpk_spks, updAt_get_same]
  rfl

theorem dequeued_joins : Joins k (newTxn s.seq m .order false s.dtime) s (joined k m (dequeued k i s)) := by
  obtain ⟨samples, hot, hhome⟩ := dequeued_joined_home (k := k) (i := i) (m := m) (s := s)
  constructor <;> rw [hhome]

theorem enterMemory_takenAs {w : State} {kind : RspKind} (hat : AtHome k s w)
    (hjoin : Joins k (newTxn s.seq m .order false s.dtime) s w) (hinbox : w.spks[k].inbox = s.spks[k].inbox.eraseIdx i)
    (hfresh : ∀ u ∈ s.spks[k].txns, u.tid < s.seq) :
    ∃ x, TakenAs k i m s x (enterMemory k s.seq kind w) ∧ x.rsp.kind = kind := by
  obtain ⟨x, htxns, hmsg, hstate, hstarted, hkind⟩ := hjoin.enterMemory (fun u hu => Nat.ne_of_lt (hfresh u hu)) kind
  have hentered : AtHome k s (enterMemory k s.seq kind w) := hat.trans (updSpk_atHome _ w)
  refine ⟨x, ⟨htxns, hmsg, hstate, hstarted, ?_, hentered.dram, hentered.out, hentered.others⟩, hkind⟩
  simp only [enterMemory, updTxn, updSpk_spks, updAt_get_same]
  exact hinbox

/-- A read of ownership of a sector that has no entry goes to memory with the record of its grant (Tables 4.2 and 4.3). -/
theorem toMemory_grants {v : State} {pl h : Nat} (hat : AtHome k s v) (hjoin : Joins k (newTxn s.seq m .order false s.dtime) s v)
    (hinbox : v.spks[k].inbox = s.spks[k].inbox.eraseIdx i) (hfresh : ∀ u ∈ s.spks[k].txns, u.tid < s.seq)
    (hop : m.req.op = .rd .inv ∨ m.req.op = .inv) (hhead : reqHead s m.req = some h) :
    let t := toMemory k s.seq pl (freshEntry (msgSector m) m.req.region (m.req.dpa / 256) m.req.aliasF v.dtime)
      (newTxn s.seq m .order false s.dtime) v
    AtHome k s t ∧ (∃ x, TakenAs k i m s x t ∧ x.rsp.kind = .cmpE) ∧
      ∃ e, kfind t.spks[k].sf pl = some e ∧ e.sector = msgSector m ∧ e.st[msgLine m] = .o ∧ e.owner[msgLine m] = port4 h ∧
        e.holdEnd = newHold s k ∧ e.aliasF = m.req.aliasF := by
  intro t
  set x := newTxn s.seq m .order false s.dtime
  set fresh := freshEntry (msgSector m) m.req.region (m.req.dpa / 256) m.req.aliasF v.dtime
  obtain ⟨hsector, hst, howner, hhold, halias, hkind⟩ := recordOp_owns (k := k) (e := fresh) (t := x) hop
    ((hat.reqHead _).trans hhead) (anyHeld_freshEntry ..)
  set e : SfEntry := { (recordOp v k x fresh).1 with
    busy := otherSnp v k (.txn s.seq) fresh.sector || otherBusy v k s.seq fresh.sector }
  set w := sfKeep k pl e v
  obtain ⟨hkeep, hspks⟩ := sfKeep_spec (k := k) (pl := pl) (e := e) (s := v)
  have hhome : w.spks[k] = { v.spks[k] with sf := w.spks[k].sf } := by
    rw [hspks, sfPut_home]
  have ht : t = enterMemory k s.seq .cmpE w := by
    rw [← hkind]
    rfl
  rw [ht]
  refine ⟨(hat.trans hkeep).trans (updSpk_atHome _ w),
    enterMemory_takenAs (hat.trans hkeep) (hjoin.of_sf hhome) (by rw [hhome]; exact hinbox) hfresh,
    e, ?_, hsector, hst, howner, hhold.trans (hat.newHold k), halias⟩
  simp only [enterMemory, updTxn, updSpk_spks, updAt_get_same]
  exact kfind_sfKeep (anyHeld_of_owned hst)

/-- The message that the order of service puts first comes from the home's inbox. -/
theorem picked_mem_inbox (hpick : pickMessages s k (serviceOrder s k) 1 [] = [(i, m)]) : m ∈ s.spks[k].inbox := by
  have hpicked : (i, m) ∈ pickMessages s k (serviceOrder s k) 1 [] := by rw [hpick]; exact List.mem_singleton.2 rfl
  exact mem_inbox_of_serviceOrder ((mem_pickMessages hpicked).resolve_right List.not_mem_nil)

theorem par_good_of_errorFree (hfree : errorFree s = true) (hmem : m ∈ s.spks[k].inbox) : m.req.par = .good := by
  simp only [errorFree, Bool.and_eq_true, List.all_eq_true, Vector.mem_toList_iff, decide_eq_true_eq] at hfree
  obtain ⟨-, hspks⟩ := hfree
  exact (hspks _ (Vector.getElem_mem k.isLt)).1 m hmem

/-- The message that the order of service puts first looks up at once when it meets no earlier transaction on its line (R87). -/
theorem exec_homeRequest_looksUp {t : State} (hhalted : halted s = false) (hfree : errorFree s = true)
    (hquiet : portsQuiet s = true) (hwaits : homeWaits s k = true)
    (hpick : pickMessages s k (serviceOrder s k) 1 [] = [(i, m)]) (hsrc : ∀ p l ld tag, m.req.src = .host p l ld tag → p < 4)
    (hcredit : ∀ w ∈ s.ports[reqPort m.req].creditWait, spkOf w.mpa ≠ k ∨ w.req.cls ≠ m.req.cls)
    (hevict : s.spks[k].evict = []) (hkey : keyFree s k m s.seq) (hfresh : ∀ u ∈ s.spks[k].txns, u.tid < s.seq)
    (hplain : m.packed = none) (hopen : isProtected s m.mpa = false) (haligned : ∀ a b c d, m.req.op ≠ .atomic a b c d)
    (hnotAhead : reqHead s m.req = none ∨ m.req.op ≠ .wr ∧ m.req.op ≠ .wrPtl)
    (hlookup : lookup k (newTxn s.seq m .order false s.dtime) (joined k m (dequeued k i s)) = t) (hat : AtHome k s t) :
    exec (.homeRequest k 1 .good) s = .next t := by
  have hup : s.domainDown = false := by
    simp only [halted, Bool.or_eq_false_iff] at hhalted
    exact hhalted.1.1
  have hop : atomicAligned m.req.op = true := by
    cases hcase : m.req.op with
    | atomic a b c d => exact absurd hcase (haligned a b c d)
    | _ => rfl
  have hinj : noInjection s = true := (calm_of_errorFree hfree).noInjection
  have harrive : arrive k m .good (dequeued k i s) = t := by
    rw [arrive_joined (s := dequeued k i s) hinj (par_good_of_errorFree hfree (picked_mem_inbox hpick)) hplain
      ((dequeued_atHome.isProtected _).trans hopen) hop (by rw [dequeued_atHome.reqHead]; exact hnotAhead)]
    rw [dequeued_joins.settle (fun u hu => Nat.ne_of_lt (hfresh u hu)) hwaits hevict
      (fun u hu => hkey u hu (Nat.ne_of_lt (hfresh u hu))) hplain rfl]
    exact hlookup
  have htake : doHomeRequest k 1 .good s = t := by
    rw [doHomeRequest, if_neg (by simp [hhalted])]
    refine (takeMessages_one hup (arrivalRank_lt hsrc) hpick).trans ?_
    refine (congrArg (returnCredit k m) harrive).trans (returnCredit_of_none ?_)
    rw [hat.ports]
    exact hcredit
  have hsettle : allSettle t = t := allSettle_of_portsQuiet (hat.portsQuiet.trans hquiet)
  show Host.Outcome.next (allSettle (doHomeRequest k 1 .good s)) = _
  rw [htake, hsettle]

end Taken

/-- Settles O22. Everything else at the home waits, so that the new transaction alone looks up: outside coherence it goes to memory
with no record, and a read of ownership of a sector without an entry goes there with the record of its grant. -/
theorem homeOrdersAndGrants : Obligations.HomeOrdersAndGrants := by
  unfold Obligations.HomeOrdersAndGrants
  intro k i m s hhalted hfree hquiet hwaits hpick hsrc hcredit hheld hevict hkey hfresh hplain hopen hatomic taken
  set x := newTxn s.seq m .order false s.dtime
  set v := joined k m (dequeued k i s) with hv
  have hat : AtHome k s v := dequeued_joined_atHome
  have hjoin : Joins k x s v := dequeued_joins
  have hpar : x.msg.req.par = .good := par_good_of_errorFree hfree (picked_mem_inbox hpick)
  have hheld' : holdPage x.msg ∉ v.spks[k].holds := by rw [hjoin.holds]; exact hheld
  obtain ⟨samples, hot, hhome⟩ := dequeued_joined_home (k := k) (i := i) (m := m) (s := s)
  have hinbox : v.spks[k].inbox = s.spks[k].inbox.eraseIdx i := by rw [hv, hhome]
  have hsf : v.spks[k].sf = s.spks[k].sf := by rw [hv, hhome]
  refine ⟨fun hcoherent => ?_, fun h pl hhead hport hop hmiss hway => ?_⟩
  · have hlookup := lookup_incoherent hpar hheld' ((hat.coherent _).trans hcoherent)
    obtain ⟨y, htaken, -⟩ := enterMemory_takenAs (kind := if isReadOp m.req.op then .data else .cmp) hat hjoin hinbox hfresh
    refine completes_of_next (exec_homeRequest_looksUp hhalted hfree hquiet hwaits hpick hsrc hcredit hevict hkey hfresh hplain hopen
      hatomic (.inl (reqHead_of_incoherent hcoherent)) hlookup (hat.trans (updSpk_atHome _ v))) ⟨⟨y, htaken⟩, ?_⟩
    simp only [toMemoryBare, enterMemory, updTxn, updSpk_spks, updAt_get_same]
    exact hsf
  · have hcoherent : coherent v m.req = true := (hat.coherent _).trans (coherent_of_reqHead hhead)
    have hgrants : grants m.req.op = true := by
      rcases hop with hop | hop <;> rw [hop] <;> rfl
    have hlookup := lookup_freeWay hpar hheld' hcoherent hgrants ((sfFind_congr hsf _).trans hmiss)
      ((chooseWay_congr hsf hjoin.evict _).trans hway)
    have hcount := perfSpk_onlyCounted (k := k) 0x05 1 none v
    set u := perfSpk k 0x05 1 none v
    have hspks : u.spks = v.spks := by rw [hcount.frame]
    rw [← hcount.atHome.dtime (k := k)] at hlookup
    obtain ⟨hat', htaken, e, hfind, hsector, hst, howner, hhold, halias⟩ := toMemory_grants (pl := pl)
      (hat.trans hcount.atHome) (hjoin.of_sf (by rw [hspks])) (by rw [hspks]; exact hinbox) hfresh hop hhead
    refine completes_of_next (exec_homeRequest_looksUp hhalted hfree hquiet hwaits hpick hsrc hcredit hevict hkey hfresh hplain hopen
      hatomic (.inr ?_) hlookup hat') ⟨htaken, e, hfind, hsector, hst, ?_, hhold, halias⟩
    · rcases hop with hop | hop <;> simp [hop]
    · rw [howner]
      exact Nat.mod_eq_of_lt hport

end Sys2Proof.Machine

/-! # Answers recorded for a recall that no home has open (R94, R106) -/

namespace Sys2Proof.Machine

/-- An answered back-invalidate of a recall of the page at 0x1000. -/
def recalledLine : Snp := ⟨8, .recall 0x1000, 32, 0, 0, .inv, 0, 0, some .i, false⟩

/-- A host's request of link 0 of port 0 that has come to the home of the line at `mpa`. -/
def hostMsg (op : HomeOp) (mpa : Nat) : Msg := ⟨rawReq 9 (.host 0 0 0 5) 0 op 0 0 0 false, mpa, none, 0⟩

/-- A read of ownership that waits for the answer to its back-invalidate. -/
def askingRead : Txn := newTxn 33 (hostMsg (.rd .inv) 0) .biWait false 0

/-- The back-invalidate of that read, with one answer to come. -/
def askedLine : Snp := ⟨7, .txn 33, 0, 0, 0, .inv, 0, 1, none, false⟩

/-- Its BISnp, open at port 0. -/
def askedBi : PortBi := ⟨4, 0, 7, 0, 0, .inv, 0, false, false⟩

/-- The read waits at home 0, which still lists the answered back-invalidate of the recall; no recall is in progress, as `homeWaits`
asks. -/
def recalledAndAsked : State :=
  { State.reset with
    ports := State.reset.ports.set 0 { State.reset.ports[0] with bis := [askedBi] }
    spks := State.reset.spks.set 0 { State.reset.spks[0] with
      txns := [askingRead], snps := [askedLine, recalledLine], sf := [(0, freshEntry 0 0 0 0 0)] } }

/-- The answer lets the home record whatever is answered, the back-invalidate of the recall with it. -/
theorem birsp_records_recall : (doBirspPort 0 4 .i .good recalledAndAsked).spks[0].snps = [] := by
  decide +kernel

/-- Refutes O23 in its clause on the last answer, which says that the home's list of back-invalidates loses the answered one alone.
`homeWaits` asks that no recall be in progress, but not that no answered back-invalidate of a recall be listed: the home records
and removes that one in the same step. -/
theorem not_backInvalidates : ¬ Obligations.BackInvalidates := by
  unfold Obligations.BackInvalidates
  rintro ⟨-, hbirsp, -⟩
  obtain ⟨t, ht, hsnps, -⟩ := hbirsp 0 4 askedBi .i askingRead askedLine 0 (freshEntry 0 0 0 0 0) recalledAndAsked
    (by decide +kernel) (by decide +kernel) rfl (by decide +kernel) (by decide +kernel) rfl (by decide +kernel) (by decide +kernel)
    (by decide +kernel) rfl rfl rfl rfl (by decide +kernel) rfl (by decide +kernel) (by decide +kernel) (by decide +kernel)
    (by decide +kernel)
  have hkept : t.spks[0].snps = [recalledLine] := hsnps.trans (by decide +kernel)
  have hgone := birsp_records_recall
  rw [show doBirspPort 0 4 .i .good recalledAndAsked = t from Host.Outcome.next.inj ht, hkept] at hgone
  exact absurd hgone (List.cons_ne_nil _ _)

/-- Home 0 is idle but for the answered back-invalidate of the recall of the page at 0x1000. -/
def recalledBeside : State :=
  { State.reset with spks := State.reset.spks.set 0 { State.reset.spks[0] with snps := [recalledLine] } }

/-- A write of GO for the page at 0, which lives at home 0. -/
def recallPageZero : Word := 1

/-- The recall of another page records the answer too. -/
theorem pageRecall_records_other : (doPageRecall .germ 0 recallPageZero recalledBeside).spks[0].snps = [] := by
  decide +kernel

/-- Refutes O25 in its clause on RECALL of a page of which no head holds a line, which says that the home changes in its done and
refused bits alone. It asks that no back-invalidate of a recall of that page be listed; an answered one of a recall of another
page is recorded and removed by the same command. -/
theorem not_pageHoldsAndRetries : ¬ Obligations.PageHoldsAndRetries := by
  unfold Obligations.PageHoldsAndRetries
  rintro ⟨hpage, -⟩
  obtain ⟨-, -, -, -, hrecall, -⟩ := hpage 0 recallPageZero recalledBeside rfl rfl
  obtain ⟨hnotHeld, -⟩ := hrecall (by decide +kernel) (by decide +kernel) (by decide +kernel)
  obtain ⟨t, ht, hended⟩ := hnotHeld (by decide +kernel) (by decide +kernel)
  have hgone := pageRecall_records_other
  rw [show doPageRecall .germ 0 recallPageZero recalledBeside = t from Host.Outcome.next.inj ht, hended] at hgone
  exact absurd hgone (List.cons_ne_nil _ _)

end Sys2Proof.Machine

/-! # The end of a re-encryption where two transactions have one number (R87, R140) -/

namespace Sys2Proof.Machine

/-- A host's write that waits for the re-encryption of its group. -/
def rekeyingWrite : Txn := { newTxn 33 (hostMsg .wr 0) .memory false 0 with waiting := true }

/-- An eviction notice for another line, under the number of that write. -/
def sameNumber : Txn := newTxn 33 (hostMsg .clnEvct 0x40) .memory false 0

/-- A read of that other line, which waits for the notice. -/
def queuedRead : Txn := newTxn 34 (hostMsg (.rd .inv) 0x40) .order false 0

/-- The three stand at home 0, in this order, while the re-encryption that the write started is open. -/
def rekeyedTwice : State :=
  { State.reset with spks := State.reset.spks.set 0 { State.reset.spks[0] with
      txns := [rekeyingWrite, sameNumber, queuedRead], rekeys := [⟨0, 0, 33⟩] } }

/-- Every transaction of the write's number closes with it, so that the read looks up and goes on to memory. -/
theorem reencryptionDone_frees_queuedRead :
    ∀ u ∈ (allSettle (doReencryptionDone 0 0 rekeyedTwice)).spks[0].txns, u.state = .memory := by
  decide +kernel

/-- Refutes O24 in its clause on REENCRYPTION_DONE, which says that every transaction of another number stays in its state. Unlike
the clause on HOME_MEMORY_DONE it does not ask that the number be the transaction's alone: a second one of that number, on another
line, closes too, and the request behind it leaves ORDER. -/
theorem not_memoryStageAndCulmWork : ¬ Obligations.MemoryStageAndCulmWork := by
  unfold Obligations.MemoryStageAndCulmWork
  rintro ⟨-, hreencryption, -⟩
  obtain ⟨-, hwaiting⟩ := hreencryption 0 0 ⟨0, 0, 33⟩ rekeyedTwice (by decide +kernel) (by decide +kernel)
  obtain ⟨t, ht, -, -, hothers, -⟩ := hwaiting rekeyingWrite (by decide +kernel) rfl (by decide +kernel)
    (by unfold keyFree; decide +kernel) rfl
  obtain ⟨v, hv, -, -, hstate⟩ := hothers queuedRead (by decide +kernel) (by decide)
  have hmemory := reencryptionDone_frees_queuedRead
  rw [show allSettle (doReencryptionDone 0 0 rekeyedTwice) = t from Host.Outcome.next.inj ht] at hmemory
  rw [hmemory v hv] at hstate
  exact absurd hstate (by decide)

end Sys2Proof.Machine

/-! # The loss of the coherent domain beside a port that does not exist (R112, R428, R488) -/

namespace Sys2Proof.Machine

/-- A request of descriptor 5 of queue pair 0 that waits at admission. -/
def heldCommand : OpenReq := ⟨rawReq 7 (.cq 0 5 0) 0 .cqRead 0 0 0 false, .hold, false, false, false, false⟩

/-- No image is loaded, so that port 0 does not exist; queue pair 0 is enabled, and the request waits at that port. -/
def heldAtNoPort : State :=
  { State.reset with
    ports := State.reset.ports.set 0 { State.reset.ports[0] with reqs := [heldCommand] }
    queue := { State.reset.queue with pairs := [(0, { QPair.init with enable := true })] } }

/-- The queue pair is disabled with the domain, and its request leaves the port (R428). -/
theorem goDown_drops_heldCommand : (goDown heldAtNoPort).ports[0].reqs = [] := by
  decide +kernel

/-- Refutes O60 in its clause that a port that does not exist stays as it was. The port does not go VIRAL, but the queue pairs of
its LDs are disabled like any other's, and their requests that wait at admission leave it. -/
theorem not_domainDownActs : ¬ Obligations.DomainDownActs := by
  unfold Obligations.DomainDownActs
  intro h
  obtain ⟨-, -, -, -, -, -, -, -, -, -, habsent, -⟩ := h heldAtNoPort rfl
  have hkept : (goDown heldAtNoPort).ports[0] = heldAtNoPort.ports[0] := habsent 0 rfl
  have hgone := goDown_drops_heldCommand
  rw [hkept] at hgone
  exact absurd hgone (List.cons_ne_nil _ _)

end Sys2Proof.Machine

/-! # A sealed line opens (R126 to R128, R142 to R144, R151, R156 to R160) -/

namespace Sys2Proof.Machine

/-! ## Bytes of numbers (R6) -/

theorem bytesToNat_natToBytes (n x : Nat) : bytesToNat (natToBytes n x) = x % 256 ^ n := by
  induction n generalizing x with
  | zero => simp [natToBytes, bytesToNat, Nat.mod_one]
  | succ n ih =>
    have hbyte : (BitVec.ofNat 8 x).toNat = x % 256 := BitVec.toNat_ofNat x 8
    rw [natToBytes, bytesToNat, ih, hbyte, Nat.pow_succ', Nat.mod_mul]

theorem natToBytes_bytesToNat (bs : List Byte) : natToBytes bs.length (bytesToNat bs) = bs := by
  induction bs with
  | nil => rfl
  | cons b bs ih =>
    have hb : b.toNat < 256 := b.isLt
    have hdiv : (b.toNat + 256 * bytesToNat bs) / 256 = bytesToNat bs := by omega
    have hhead : BitVec.ofNat 8 (b.toNat + 256 * bytesToNat bs) = b := by
      apply BitVec.eq_of_toNat_eq
      rw [BitVec.toNat_ofNat]
      omega
    rw [List.length_cons, bytesToNat, natToBytes, hdiv, ih, hhead]

theorem natToBytes_mod (n x : Nat) : natToBytes n (x % 256 ^ n) = natToBytes n x := by
  have h := natToBytes_bytesToNat (natToBytes n x)
  rwa [natToBytes_length, bytesToNat_natToBytes] at h

theorem take_natToBytes {m n : Nat} (h : n ≤ m) (x : Nat) : (natToBytes m x).take n = natToBytes n x := by
  induction n generalizing m x with
  | zero => simp [natToBytes]
  | succ n ih =>
    obtain ⟨m, rfl⟩ : ∃ k, m = k + 1 := ⟨m - 1, by omega⟩
    rw [natToBytes, natToBytes, List.take_succ_cons, ih (by omega)]

/-! ## The parts of an image and of a line (R226) -/

@[simp] theorem imageData_mkImage (l : Line) (dev8 dev9 : BitVec 64) : imageData (mkImage l dev8 dev9) = l := by
  refine BitVec.eq_of_getLsbD_eq fun i hi => ?_
  have h8 : i < 512 := hi
  have h9 : i < 576 := by omega
  have hwidth : i < 640 := by omega
  simp [imageData, mkImage, h8, h9, hwidth]

@[simp] theorem imageDev9_mkImage (l : Line) (dev8 dev9 : BitVec 64) : imageDev9 (mkImage l dev8 dev9) = dev9 := by
  refine BitVec.eq_of_getLsbD_eq fun i hi => ?_
  have hl : l.getLsbD (576 + i) = false := BitVec.getLsbD_of_ge _ _ (by omega)
  have h8 : dev8.getLsbD (576 + i - 512) = false := BitVec.getLsbD_of_ge _ _ (by omega)
  have hwidth : 576 + i < 640 := by omega
  simp [imageDev9, mkImage, hi, hl, h8, hwidth]

@[simp] theorem imageData_strongEncode (f : Form) (l : Line) : imageData (strongEncode f l) = l := imageData_mkImage ..
@[simp] theorem imageData_lightEncode (f : Form) (l : Line) (d : BitVec 64) : imageData (lightEncode f l d) = l :=
  imageData_mkImage ..
@[simp] theorem imageDev9_lightEncode (f : Form) (l : Line) (d : BitVec 64) : imageDev9 (lightEncode f l d) = d :=
  imageDev9_mkImage ..

theorem getLsbD_low56 (l : Line) (i : Nat) : (low56 l).getLsbD i = (decide (i < 448) && l.getLsbD i) := by
  by_cases h : i < 448
  · have h' : i < 512 := by omega
    simp [low56, h, h']
  · simp [low56, h]

theorem getLsbD_setTop (l : Line) (t : BitVec 64) {i : Nat} (hi : i < 512) :
    (setTop l t).getLsbD i = if i < 448 then l.getLsbD i else t.getLsbD (i - 448) := by
  by_cases h : i < 448
  · simp [setTop, getLsbD_low56, h]
  · have hlow : (low56 l).getLsbD i = false := by simp [getLsbD_low56, h]
    rw [setTop, BitVec.getLsbD_or, hlow, if_neg h]
    simp [hi, h]

@[simp] theorem low56_low56 (l : Line) : low56 (low56 l) = low56 l :=
  BitVec.eq_of_getLsbD_eq fun i _ => by simp [getLsbD_low56]

@[simp] theorem low56_setTop (l : Line) (t : BitVec 64) : low56 (setTop l t) = low56 l := by
  refine BitVec.eq_of_getLsbD_eq fun i hi => ?_
  rw [getLsbD_low56, getLsbD_low56, getLsbD_setTop l t hi]
  by_cases h : i < 448 <;> simp [h]

theorem low56_xor (a b : Line) : low56 (a ^^^ b) = low56 a ^^^ low56 b := by
  refine BitVec.eq_of_getLsbD_eq fun i _ => ?_
  rw [BitVec.getLsbD_xor, getLsbD_low56, getLsbD_low56, getLsbD_low56, BitVec.getLsbD_xor]
  by_cases h : i < 448 <;> simp [h]

/-- The tag field of a line whose tag has been set. -/
@[simp] theorem extract_setTop (l : Line) (t : BitVec 64) : (setTop l t).extractLsb' 448 64 = t := by
  refine BitVec.eq_of_getLsbD_eq fun i hi => ?_
  rw [BitVec.getLsbD_extractLsb', getLsbD_setTop l t (by omega)]
  simp [hi]

theorem toNat_low56 (l : Line) : (low56 l).toNat = l.toNat % 2 ^ 448 := by
  rw [low56, BitVec.toNat_setWidth, BitVec.extractLsb'_toNat, Nat.shiftRight_zero]
  exact Nat.mod_eq_of_lt (Nat.lt_of_lt_of_le (Nat.mod_lt _ (Nat.two_pow_pos _)) (Nat.pow_le_pow_right (by decide) (by decide)))

/-- Bytes 0 to 55 of a line that was built from 56 bytes are those bytes (R143). -/
theorem take_lineBytes_low56 {bs : List Byte} (h : bs.length = 56) :
    (lineBytes (low56 (lineOfBytes bs))).take 56 = bs := by
  have hmod : bytesToNat bs % 2 ^ 512 % 2 ^ 448 = bytesToNat bs % 256 ^ 56 :=
    Nat.mod_mod_of_dvd _ (Nat.pow_dvd_pow 2 (by decide))
  rw [lineBytes, take_natToBytes (by decide), toNat_low56, lineOfBytes, BitVec.toNat_ofNat, hmod, natToBytes_mod, ← h]
  exact natToBytes_bytesToNat bs

/-! ## Glume-L (R156 to R160) -/

/-- The bytes are an encoding of the words (Table 6.1): their header tells their length, and what follows them changes no word. -/
def GlumeCodes (enc : List Byte) (ws : List Word) : Prop :=
  glumeLLength (enc.getD 0 0) = some enc.length ∧ ∀ pad, glumeLWords (enc ++ pad) = ws

/-- A line is its eight words (R156). -/
theorem lineOfWords_lineWords (l : Line) : lineOfWords (lineWords l) = l := by
  apply BitVec.eq_of_toNat_eq
  have hl : l.toNat < 2 ^ 512 := l.isLt
  have hw (i : Nat) : (wordAt l i).toNat = l.toNat / 2 ^ (64 * i) % 2 ^ 64 := by
    rw [wordAt, BitVec.extractLsb'_toNat, Nat.shiftRight_eq_div_pow]
  have hws : lineWords l = [wordAt l 0, wordAt l 1, wordAt l 2, wordAt l 3, wordAt l 4, wordAt l 5, wordAt l 6, wordAt l 7] := rfl
  rw [lineOfWords, BitVec.toNat_ofNat, hws]
  simp only [List.foldr, hw]
  omega

theorem lineWords_length (l : Line) : (lineWords l).length = 8 := rfl

theorem wordBytes_length (n : Nat) (d : Word) : (wordBytes n d).length = n := natToBytes_length n _

/-- A base is read back from its eight bytes (R157). -/
theorem baseAt_wordBytes (pre post : List Byte) (b : Word) : baseAt (pre ++ (wordBytes 8 b ++ post)) pre.length = b := by
  rw [baseAt, List.drop_left, List.take_left' (wordBytes_length 8 b), wordBytes, bytesToNat_natToBytes]
  exact BitVec.eq_of_toNat_eq (by rw [BitVec.toNat_ofNat]; have := b.isLt; omega)

/-- A delta that fits is read back from its bytes (R157). -/
theorem deltaAt_wordBytes {n : Nat} {d : Word} (pre post : List Byte) (h : fitsDelta n d = true) :
    deltaAt (pre ++ (wordBytes n d ++ post)) n pre.length = d := by
  have hbytes : BitVec.ofNat (8 * n) (bytesToNat (wordBytes n d)) = BitVec.setWidth (8 * n) d := by
    apply BitVec.eq_of_toNat_eq
    rw [BitVec.toNat_ofNat, BitVec.toNat_setWidth, wordBytes, bytesToNat_natToBytes, Nat.pow_mul, Nat.mod_mod]
  rw [deltaAt, List.drop_left, List.take_left' (wordBytes_length n d), hbytes]
  exact eq_of_beq h

theorem flatMap_wordBytes_length (n : Nat) (f : Word → Word) (ws : List Word) :
    (ws.flatMap fun w => wordBytes n (f w)).length = n * ws.length := by
  induction ws with
  | nil => rfl
  | cons w ws ih => rw [List.flatMap_cons, List.length_append, wordBytes_length, ih, List.length_cons, Nat.mul_succ, Nat.add_comm]

/-- Delta `i` of the deltas that follow `pre`. -/
theorem deltaAt_flatMap {n i : Nat} {f : Word → Word} {ws : List Word} (pre post : List Byte) (hi : i < ws.length)
    (hfits : ∀ w ∈ ws, fitsDelta n (f w) = true) :
    deltaAt (pre ++ ((ws.flatMap fun w => wordBytes n (f w)) ++ post)) n (pre.length + n * i) = f ws[i] := by
  have hsplit : ws = ws.take i ++ ws[i] :: ws.drop (i + 1) := by rw [← List.drop_eq_getElem_cons hi, List.take_append_drop]
  have hlen : (pre ++ (ws.take i).flatMap fun w => wordBytes n (f w)).length = pre.length + n * i := by
    rw [List.length_append, flatMap_wordBytes_length, List.length_take_of_le (Nat.le_of_lt hi)]
  have hbytes : pre ++ ((ws.flatMap fun w => wordBytes n (f w)) ++ post) =
      (pre ++ (ws.take i).flatMap fun w => wordBytes n (f w)) ++
        (wordBytes n (f ws[i]) ++ (((ws.drop (i + 1)).flatMap fun w => wordBytes n (f w)) ++ post)) := by
    conv_lhs => rw [hsplit]
    simp only [List.flatMap_append, List.flatMap_cons, List.append_assoc]
  rw [hbytes, ← hlen]
  exact deltaAt_wordBytes _ _ (hfits _ (List.getElem_mem hi))

/-- Bit i of the MASK byte (R158, step 4). -/
theorem testBit_tbMask {n i : Nat} {b0 : Word} {ws : List Word} (hi : i < ws.length) :
    (tbMask n b0 ws).testBit i = !fitsDelta n (ws[i] - b0) := by
  induction ws generalizing i with
  | nil => exact absurd hi (Nat.not_lt_zero i)
  | cons w ws ih =>
    cases i with
    | zero =>
      rw [tbMask, Nat.testBit_zero, List.getElem_cons_zero]
      cases fitsDelta n (w - b0) <;> simp [bit]
    | succ i =>
      have hhalf : (bit (!fitsDelta n (w - b0)) + 2 * tbMask n b0 ws) / 2 = tbMask n b0 ws := by
        have : bit (!fitsDelta n (w - b0)) < 2 := by unfold bit; split <;> decide
        omega
      rw [tbMask, Nat.testBit_succ, hhalf, List.getElem_cons_succ, ih (Nat.lt_of_succ_lt_succ hi)]

/-- The words that a BD encoding names, whatever header byte stands before it (Table 6.1). -/
theorem decBD_bytes {n : Nat} {b : Word} {ws : List Word} (h : Byte) (pad : List Byte) (hlen : ws.length = 8)
    (hfits : ∀ w ∈ ws, fitsDelta n (w - b) = true) :
    decBD n (h :: (wordBytes 8 b ++ ws.flatMap fun w => wordBytes n (w - b)) ++ pad) = ws := by
  have hbase := baseAt_wordBytes [h] ((ws.flatMap fun w => wordBytes n (w - b)) ++ pad) b
  refine List.ext_getElem (by simp [decBD, hlen]) fun i _ hi => ?_
  have hdelta := deltaAt_flatMap (h :: wordBytes 8 b) pad hi hfits
  simp only [List.length_cons, wordBytes_length, List.length_nil] at hbase hdelta
  simp only [decBD, List.getElem_map, List.getElem_range]
  simp only [List.cons_append, List.nil_append, List.append_assoc] at hbase hdelta ⊢
  rw [hbase, hdelta]
  exact add_sub_cancel ..

/-- Which base word `i` is taken from, read from the MASK byte. -/
theorem testBit_maskByte {n i : Nat} {b0 : Word} {ws : List Word} (hi : i < ws.length) (hlen : ws.length = 8) :
    (BitVec.ofNat 8 (tbMask n b0 ws)).toNat.testBit i = !fitsDelta n (ws[i] - b0) := by
  rw [← testBit_tbMask hi, BitVec.toNat_ofNat, Nat.testBit_mod_two_pow, decide_eq_true (hlen ▸ hi), Bool.true_and]

/-- The base that a TB encoding takes a word's delta from (R158, step 4). -/
def tbWordBase (n : Nat) (b0 b1 w : Word) : Word := if fitsDelta n (w - b0) then b0 else b1

theorem getD_length_append (pre post : List Byte) (b : Byte) : (pre ++ b :: post).getD pre.length 0 = b := by
  simp [List.getD_eq_getElem?_getD]

theorem decTB_getElem (n : Nat) (bs : List Byte) {i : Nat} (hi : i < (decTB n bs).length) :
    (decTB n bs)[i] = (if (bs.getD 17 0).toNat.testBit i then baseAt bs 9 else baseAt bs 1) + deltaAt bs n (18 + n * i) := by
  simp [decTB]

/-- The words that a TB encoding names, whatever header byte stands before it. -/
theorem decTB_bytes {n : Nat} {b0 b1 : Word} {ws : List Word} (h : Byte) (pad : List Byte) (hlen : ws.length = 8)
    (hfits : ∀ w ∈ ws, fitsDelta n (w - tbWordBase n b0 b1 w) = true) :
    decTB n (h :: (wordBytes 8 b0 ++ wordBytes 8 b1 ++ BitVec.ofNat 8 (tbMask n b0 ws) ::
      ws.flatMap fun w => wordBytes n (w - tbWordBase n b0 b1 w)) ++ pad) = ws := by
  generalize hdeltas : (ws.flatMap fun w => wordBytes n (w - tbWordBase n b0 b1 w)) = deltas
  generalize hbyte : BitVec.ofNat 8 (tbMask n b0 ws) = mask
  have hbase0 := baseAt_wordBytes [h] (wordBytes 8 b1 ++ mask :: (deltas ++ pad)) b0
  have hbase1 := baseAt_wordBytes (h :: wordBytes 8 b0) (mask :: (deltas ++ pad)) b1
  have hmask := getD_length_append (h :: (wordBytes 8 b0 ++ wordBytes 8 b1)) (deltas ++ pad) mask
  refine List.ext_getElem (by simp [decTB, hlen]) fun i _ hi => ?_
  have hdelta := deltaAt_flatMap (h :: (wordBytes 8 b0 ++ (wordBytes 8 b1 ++ [mask]))) pad hi hfits
  have hbit := testBit_maskByte (n := n) (b0 := b0) hi hlen
  simp only [List.length_cons, List.length_append, wordBytes_length, List.length_nil, List.cons_append, List.nil_append,
    List.append_assoc] at hbase0 hbase1 hmask hdelta
  rw [hbyte] at hbit
  rw [hdeltas] at hdelta
  rw [decTB_getElem]
  simp only [List.cons_append, List.append_assoc]
  rw [hmask, hbit, hbase0, hbase1, hdelta, tbWordBase]
  cases fitsDelta n (ws[i] - b0) <;> simp

theorem glumeLWords_BD {n : Nat} (hn : n = 1 ∨ n = 2 ∨ n = 4) (bs : List Byte) :
    glumeLWords (BitVec.ofNat 8 (0x10 + n) :: bs) = decBD n (BitVec.ofNat 8 (0x10 + n) :: bs) := by
  rcases hn with rfl | rfl | rfl <;> rfl

theorem glumeLWords_TB {n : Nat} (hn : n = 1 ∨ n = 2 ∨ n = 4) (bs : List Byte) :
    glumeLWords (BitVec.ofNat 8 (0x20 + n) :: bs) = decTB n (BitVec.ofNat 8 (0x20 + n) :: bs) := by
  rcases hn with rfl | rfl | rfl <;> rfl

theorem glumeLLength_BD {n : Nat} (hn : n = 1 ∨ n = 2 ∨ n = 4) : glumeLLength (BitVec.ofNat 8 (0x10 + n)) = some (9 + n * 8) := by
  rcases hn with rfl | rfl | rfl <;> rfl

theorem glumeLLength_TB {n : Nat} (hn : n = 1 ∨ n = 2 ∨ n = 4) : glumeLLength (BitVec.ofNat 8 (0x20 + n)) = some (18 + n * 8) := by
  rcases hn with rfl | rfl | rfl <;> rfl

/-! ### Each encoding names the words it was made of -/

section Encodings

variable {ws : List Word} {enc : List Byte} (hlen : ws.length = 8)

include hlen

theorem encZero_codes (h : encZero ws = some enc) : GlumeCodes enc ws := by
  obtain ⟨hall, henc⟩ := Option.ite_none_right_eq_some.1 h
  cases Option.some.inj henc
  have hws : ws = List.replicate 8 0 := List.eq_replicate_iff.2 ⟨hlen, by simpa using hall⟩
  exact ⟨rfl, fun _ => hws.symm⟩

theorem encRepeat_codes (h : encRepeat ws = some enc) : GlumeCodes enc ws := by
  obtain ⟨hall, henc⟩ := Option.ite_none_right_eq_some.1 h
  cases Option.some.inj henc
  have hws : ws = List.replicate 8 (ws.getD 0 0) := List.eq_replicate_iff.2 ⟨hlen, by simpa using hall⟩
  refine ⟨rfl, fun pad => ?_⟩
  have hbase := baseAt_wordBytes [0x02] pad (ws.getD 0 0)
  exact (congrArg (List.replicate 8) hbase).trans hws.symm

theorem encBD_codes {n : Nat} (hn : n = 1 ∨ n = 2 ∨ n = 4) (h : encBD n ws = some enc) : GlumeCodes enc ws := by
  obtain ⟨hall, henc⟩ := Option.ite_none_right_eq_some.1 h
  cases Option.some.inj henc
  refine ⟨?_, fun pad => ?_⟩
  · have hdeltas := flatMap_wordBytes_length n (fun w => w - ws.getD 0 0) ws
    rw [List.getD_cons_zero, glumeLLength_BD hn]
    simp only [List.length_cons, List.length_append, wordBytes_length, hdeltas, hlen]
    congr 1; omega
  · rw [List.cons_append, glumeLWords_BD hn]
    exact decBD_bytes _ pad hlen (List.all_eq_true.1 hall)

theorem encTB_codes {n : Nat} (hn : n = 1 ∨ n = 2 ∨ n = 4) (h : encTB n ws = some enc) : GlumeCodes enc ws := by
  obtain ⟨hall, henc⟩ := Option.ite_none_right_eq_some.1 h
  cases Option.some.inj henc
  refine ⟨?_, fun pad => ?_⟩
  · have hdeltas := flatMap_wordBytes_length n (fun w => w - tbWordBase n (ws.getD 0 0) (tbBase n ws) w) ws
    rw [List.getD_cons_zero, glumeLLength_TB hn]
    simp only [tbWordBase] at hdeltas
    simp only [List.length_cons, List.length_append, wordBytes_length, hdeltas, hlen]
    congr 1; omega
  · rw [List.cons_append, glumeLWords_TB hn]
    exact decTB_bytes _ pad hlen (List.all_eq_true.1 hall)

end Encodings

theorem orElse_codes {a b : Option (List Byte)} {ws : List Word} (ha : ∀ e, a = some e → GlumeCodes e ws)
    (hb : ∀ e, b = some e → GlumeCodes e ws) (enc : List Byte) (h : (a <|> b) = some enc) : GlumeCodes enc ws := by
  cases a with
  | none => exact hb enc h
  | some e => exact ha enc h

/-- Every encoding that the home chooses names the line's words (R158). -/
theorem glumeL_codes {l : Line} {enc : List Byte} (h : glumeL l = some enc) : GlumeCodes enc (lineWords l) :=
  have hlen := lineWords_length l
  orElse_codes (fun _ => encZero_codes hlen) (orElse_codes (fun _ => encRepeat_codes hlen)
    (orElse_codes (fun _ => encBD_codes hlen (by decide)) (orElse_codes (fun _ => encBD_codes hlen (by decide))
    (orElse_codes (fun _ => encTB_codes hlen (by decide)) (orElse_codes (fun _ => encTB_codes hlen (by decide))
    (orElse_codes (fun _ => encBD_codes hlen (by decide)) (fun _ => encTB_codes hlen (by decide)))))))) enc h

theorem GlumeCodes.ne_nil {enc : List Byte} {ws : List Word} (h : GlumeCodes enc ws) : enc ≠ [] := by
  rintro rfl
  exact absurd h.1 (by decide)

/-- The 56 bytes of an awn decode to the line whose words its encoding names (R160). -/
theorem glumeLDecode_awnBytes {l : Line} {enc : List Byte} (h : GlumeCodes enc (lineWords l)) :
    glumeLDecode (awnBytes enc) = some l := by
  have hhead : (awnBytes enc).getD 0 0 = enc.getD 0 0 := by
    cases enc with
    | nil => exact absurd rfl h.ne_nil
    | cons b bs => rfl
  obtain ⟨hlength, hwords⟩ := h
  have hpad : ((awnBytes enc).drop enc.length).all (· == 0) = true := by simp [awnBytes]
  have hline : glumeLWords (awnBytes enc) = lineWords l := hwords _
  simp only [glumeLDecode, hhead, hlength, hpad, hline, lineOfWords_lineWords, if_true]

theorem awnBytes_length {enc : List Byte} (h : enc.length ≤ 56) : (awnBytes enc).length = 56 := by
  simp [awnBytes, h]

/-! ## Opening (R128, R142 to R144, R151) -/

/-- The tag of an awn does not depend on its bytes 56 to 63 (R128). -/
theorem lineTag_setTop (k : SealKey) (mpa : Nat) (c : Ctr) (l : Line) (t : BitVec 64) :
    lineTag k mpa c true (setTop l t) = lineTag k mpa c true l := by
  simp [lineTag]

/-- Decryption gives bytes 0 to 55 of an awn back, whatever tag stands above them (R143). -/
theorem low56_decrypt (clear stream : Line) (t : BitVec 64) :
    low56 (setTop (low56 (clear ^^^ stream)) t ^^^ stream) = low56 clear := by
  rw [low56_xor, low56_setTop, low56_low56, ← low56_xor, BitVec.xor_assoc, BitVec.xor_self, BitVec.xor_zero]

section Opening

variable (k : SealKey) (mpa : Nat) (c : Ctr) (plain : Line) (slot : BitVec 64)

/-- The LIGHT form opens from its own tag in device 9, whatever the spill slot holds. -/
theorem openLine_sealLight : openLine k false mpa c .plain (sealLight k mpa c plain).img slot = some plain := by
  simp [openLine, tagOk, plainOf, sealLight]

/-- The SPILL form opens under its own tag word, and under no other. -/
theorem openLine_sealSpill : openLine k true mpa c .plain (sealSpill k mpa c plain).img slot =
    if (sealSpill k mpa c plain).spill = some slot then some plain else none := by
  simp [openLine, tagOk, plainOf, sealSpill]

/-- The AWN form opens to the line that its encoding names; its tag leaves bytes 56 to 63 out. -/
theorem openLine_sealAwn {enc : List Byte} (hfits : enc.length ≤ 56) (henc : GlumeCodes enc (lineWords plain)) :
    openLine k true mpa c .awn (sealAwn k mpa c enc).img slot = some plain := by
  simp [openLine, tagOk, plainOf, sealAwn, lineTag_setTop, low56_decrypt, take_lineBytes_low56 (awnBytes_length hfits),
    glumeLDecode_awnBytes henc]

end Opening

/-- A seal takes one of three forms (R142, Table 5.10): LIGHT under the light code, AWN where awns are on in the region and an
encoding of the line fits, and SPILL otherwise. -/
theorem sealLine_cases (k : SealKey) (code : SealCode) (mpa : Nat) (c : Ctr) (plain : Line) :
    (code.strong = false ∧ sealLine k code mpa c plain = sealLight k mpa c plain) ∨
    (code.strong = true ∧ sealLine k code mpa c plain = sealSpill k mpa c plain) ∨
    (code.strong = true ∧ code.awn = true ∧ ∃ enc, enc.length ≤ 56 ∧ GlumeCodes enc (lineWords plain) ∧
      sealLine k code mpa c plain = sealAwn k mpa c enc) := by
  obtain ⟨strong, awn⟩ := code
  cases strong with
  | false => exact .inl ⟨rfl, rfl⟩
  | true =>
    cases awn with
    | false => exact .inr (.inl ⟨rfl, rfl⟩)
    | true =>
      cases henc : glumeL plain with
      | none => exact .inr (.inl ⟨rfl, by simp [sealLine, henc]⟩)
      | some enc =>
        by_cases hfits : enc.length ≤ 56
        · exact .inr (.inr ⟨rfl, rfl, enc, hfits, glumeL_codes henc, by simp [sealLine, henc, hfits]⟩)
        · exact .inr (.inl ⟨rfl, by simp [sealLine, henc, hfits]⟩)

/-- Settles O56, form by form: data and tag are read back from the image, the keystream cancels, and the encoding of an awn decodes
to the words that it was made of. -/
theorem sealedLineOpens : Obligations.SealedLineOpens := by
  unfold Obligations.SealedLineOpens
  intro k code mpa c plain
  rcases sealLine_cases k code mpa c plain with ⟨hcode, hseal⟩ | ⟨hcode, hseal⟩ | ⟨hcode, hawn, enc, hfits, henc, hseal⟩
  · have hopen := openLine_sealLight k mpa c plain 0
    have hspill : (sealLight k mpa c plain).spill = none := rfl
    refine ⟨?_, ?_, ?_⟩
    · simpa [hseal, hcode, hspill] using hopen
    · simp [hcode]
    · simp [hseal, hspill]
  · have hopen := openLine_sealSpill k mpa c plain
    obtain ⟨w, hw⟩ : ∃ w, (sealSpill k mpa c plain).spill = some w := ⟨_, rfl⟩
    refine ⟨?_, ?_, fun w' slot hw' hslot => ?_⟩
    · simp [hseal, hcode, hw, hopen]
    · simp [hseal, hw]
    · rw [hseal] at hw' ⊢
      rw [hcode, hopen, hw', if_neg fun h => hslot (Option.some.inj h).symm]
  · have hopen := openLine_sealAwn k mpa c plain 0 hfits henc
    have hspill : (sealAwn k mpa c enc).spill = none := rfl
    refine ⟨?_, fun _ => hawn, ?_⟩
    · simpa [hseal, hcode, hspill] using hopen
    · simp [hseal, hspill]

end Sys2Proof.Machine

/-! # The key slots and their load port (R24, R115 to R122, Tables 5.1, 5.2, 5.12 and 5.16) -/

namespace Sys2Proof.Machine

/-! ## A put into a table in whatever order -/

/-- A put leaves what every other key reads as; no order is needed, since the new entry stands before the first key above it. -/
theorem kget_kput_of_ne {α : Type} {d x : α} {k j : Nat} (hj : j ≠ k) (m : KMap α) : kget d (kput m k x) j = kget d m j := by
  induction m with
  | nil => simp [kput, kget, hj]
  | cons e m ih =>
    obtain ⟨i, v⟩ := e
    by_cases hki : k = i
    · subst hki
      simp [kput, kget, hj]
    · by_cases hlt : k < i
      · by_cases hjk : j < k
        · have hji : j < i := Nat.lt_trans hjk hlt
          simp [kput, kget, hj, hki, hlt, hjk, hji, Nat.ne_of_lt hji]
        · simp [kput, kget, hj, hki, hlt, hjk]
      · simp [kput, kget, hki, hlt, ih]

theorem kget_kset_of_ne {α : Type} [DecidableEq α] {d x : α} {k j : Nat} (hx : x ≠ d) (hj : j ≠ k) (m : KMap α) :
    kget d (kset d m k x) j = kget d m j := by
  rw [kset, if_neg hx, kget_kput_of_ne hj]

/-! ## Slots and copies -/

theorem ne_emptySlot {k : KeySlot} (hk : k.state ≠ .empty) : k ≠ emptySlot := fun h => hk (congrArg KeySlot.state h)

theorem slotAt_setSlot_same {i : Nat} {k : KeySlot} {s : State} (hk : k.state ≠ .empty) : slotAt (setSlot i k s) i = k :=
  kget_kset_ne (ne_emptySlot hk)

theorem slotAt_setSlot_other {i j : Nat} {k : KeySlot} {s : State} (hk : k.state ≠ .empty) (hj : j ≠ i) :
    slotAt (setSlot i k s) j = slotAt s j := kget_kset_of_ne (ne_emptySlot hk) hj _

theorem slotAt_emptied_same {i : Nat} {s : State} (h : ksorted s.crypt.slots = true) :
    slotAt (setSlot i emptySlot s) i = emptySlot := kget_kset_same (d := emptySlot) (x := emptySlot) h

theorem slotAt_emptied_other {i j : Nat} {s : State} (h : ksorted s.crypt.slots = true) (hj : j ≠ i) :
    slotAt (setSlot i emptySlot s) j = slotAt s j := kget_kset_other (d := emptySlot) (x := emptySlot) h hj

theorem setCopies_frame (i : Nat) (loaded : Bool) (cls : Nat) (mask : Word) (s : State) : setCopies i loaded cls mask s =
    { s with crypt := { s.crypt with copies := (setCopies i loaded cls mask s).crypt.copies } } := rfl

/-- The copies of slot `i` at the ports `ps` are written. -/
def putCopies (i : Nat) (f : Nat → SlotCopy) (ps : List Nat) (m : KMap SlotCopy) : KMap SlotCopy :=
  ps.foldl (fun m p => kset ⟨false, 0, 0⟩ m (4096 * p + i) (f p)) m

theorem setCopies_copies (i : Nat) (loaded : Bool) (cls : Nat) (mask : Word) (s : State) :
    (setCopies i loaded cls mask s).crypt.copies = putCopies i
      (fun p => if loaded then ⟨true, cls, mask.extractLsb' (16 * p) 16⟩ else ⟨false, 0, 0⟩) (List.range 4) s.crypt.copies := rfl

section Copies
variable {i p : Nat} {f : Nat → SlotCopy}

theorem kget_putCopies_other {ps : List Nat} {m : KMap SlotCopy} (hm : (∀ n, f n ≠ ⟨false, 0, 0⟩) ∨ ksorted m = true)
    (hp : p ∉ ps) : kget ⟨false, 0, 0⟩ (putCopies i f ps m) (4096 * p + i) = kget ⟨false, 0, 0⟩ m (4096 * p + i) := by
  induction ps generalizing m with
  | nil => rfl
  | cons q ps ih =>
    obtain ⟨hq, hps⟩ := List.ne_and_not_mem_of_not_mem_cons hp
    have hkey : 4096 * p + i ≠ 4096 * q + i := by omega
    rw [putCopies, List.foldl_cons, ← putCopies, ih (hm.imp_right ksorted_kset) hps]
    exact hm.elim (fun h => kget_kset_of_ne (h q) hkey m) (fun h => kget_kset_other h hkey)

theorem kget_putCopies {ps : List Nat} {m : KMap SlotCopy} (hm : (∀ n, f n ≠ ⟨false, 0, 0⟩) ∨ ksorted m = true)
    (hp : p ∈ ps) : kget ⟨false, 0, 0⟩ (putCopies i f ps m) (4096 * p + i) = f p := by
  induction ps generalizing m with
  | nil => exact absurd hp List.not_mem_nil
  | cons q ps ih =>
    rw [putCopies, List.foldl_cons, ← putCopies]
    by_cases hps : p ∈ ps
    · exact ih (hm.imp_right ksorted_kset) hps
    · obtain rfl : p = q := (List.mem_cons.1 hp).resolve_right hps
      rw [kget_putCopies_other (hm.imp_right ksorted_kset) hps]
      exact hm.elim (fun h => kget_kset_ne (h p)) kget_kset_same

end Copies

theorem slotCopy_setCopies_loaded (i cls : Nat) (mask : Word) (s : State) (p : Fin 4) :
    slotCopy (setCopies i true cls mask s) p i = ⟨true, cls, mask.extractLsb' (16 * p.val) 16⟩ := by
  rw [slotCopy, setCopies_copies]
  exact kget_putCopies (.inl fun n => by simp) (List.mem_range.2 p.isLt)

theorem slotCopy_setCopies_cleared {s : State} (i : Nat) (h : ksorted s.crypt.copies = true) (p : Fin 4) :
    slotCopy (setCopies i false 0 0 s) p i = ⟨false, 0, 0⟩ := by
  rw [slotCopy, setCopies_copies]
  exact kget_putCopies (.inr h) (List.mem_range.2 p.isLt)

/-! ## Drain markers (R118 step 6) -/

/-- `t` is `s` but for the ports, the command queues and MARKERS. -/
def MarkersSent (s t : State) : Prop :=
  t = { s with ports := t.ports, queue := t.queue, crypt := { s.crypt with markers := t.crypt.markers } }

theorem MarkersSent.trans {s t u : State} (h : MarkersSent s t) (k : MarkersSent t u) : MarkersSent s u := by
  unfold MarkersSent at *
  rw [k, h]

theorem MarkersSent.foldl {β : Type} {f : State → β → State} (hf : ∀ u b, MarkersSent u (f u b)) (l : List β) (s : State) :
    MarkersSent s (l.foldl f s) := by
  induction l generalizing s with
  | nil => exact rfl
  | cons b l ih => exact (hf s b).trans (ih _)

theorem markerStep_markersSent (p : Fin 4) (s : State) : MarkersSent s (markerStep p s) := by
  unfold markerStep
  dsimp only
  split <;> exact rfl

theorem sendMarkers_markersSent (s : State) : MarkersSent s (sendMarkers s) := by
  have hqueues := MarkersSent.foldl (f := fun t n => updQp n (fun q => { q with
    taken := q.taken.map fun t => { t with marker := t.marker || t.admitted } }) t) (fun _ _ => rfl) (List.range 64) s
  have hzero (u : State) : MarkersSent u { u with crypt := { u.crypt with markers := 0 } } := rfl
  have hports (f : Fin 4 → Port → Port) (u : State) : MarkersSent u (eachPort (fun p t => updPort p (f p) t) u) :=
    .foldl (f := fun t p => updPort p (f p) t) (fun _ _ => rfl) _ _
  exact ((hqueues.trans (hzero _)).trans (hports _ _)).trans (.foldl (fun u p => markerStep_markersSent p u) _ _)

/-! ## The end of a command (R118 step 7) -/

/-- The status of the last command is cleared as the next one starts. -/
def statusCleared (s : State) : State := { s with crypt := { s.crypt with done := false, refused := false, reason := 0 } }

/-- A command on slot `i` ends DONE and has left `k` there, in the slot and in its copies. -/
structure SlotWritten (i : Nat) (k : KeySlot) (s t : State) : Prop where
  frame : t = { s with crypt := { s.crypt with
    slots := t.crypt.slots, copies := t.crypt.copies, busy := false, done := true, refused := false, reason := 0
    keyIn := Vector.replicate 4 0 } }
  slot : slotAt t i = k
  others : ∀ j, j ≠ i → slotAt t j = slotAt s j
  copies : ∀ p : Fin 4, slotCopy t p i = ⟨true, k.cls, k.mask.extractLsb' (16 * p.val) 16⟩

theorem slotEnd_written {i : Nat} {k : KeySlot} (hk : k.state ≠ .empty) (s : State) :
    SlotWritten i k s (slotEnd 0 (setSlot i k (setCopies i true k.cls k.mask (statusCleared s)))) where
  frame := by
    have hcopies := setCopies_frame i true k.cls k.mask (statusCleared s)
    generalize setCopies i true k.cls k.mask (statusCleared s) = u at hcopies ⊢
    rw [hcopies]
    rfl
  slot := slotAt_setSlot_same hk
  others _ hj := slotAt_setSlot_other hk hj
  copies := slotCopy_setCopies_loaded i k.cls k.mask _

theorem SlotWritten.ended {i : Nat} {k : KeySlot} {s t : State} (h : SlotWritten i k s t) :
    t.crypt.busy = false ∧ t.crypt.done = true ∧ t.crypt.refused = false ∧ t.crypt.reason = 0 ∧
      t.crypt.keyIn = Vector.replicate 4 0 ∧ ∀ j, j ≠ i → slotAt t j = slotAt s j := by
  refine ⟨?_, ?_, ?_, ?_, ?_, h.others⟩ <;> rw [h.frame]

/-- A command ends REFUSED with a REASON and SLOT_CMD_REFUSED, and no slot has changed. -/
structure SlotRefused (reason : Nat) (s t : State) : Prop where
  frame : t = { s with headers := t.headers, crypt := { s.crypt with
    busy := false, done := false, refused := true, reason := reason, keyIn := Vector.replicate 4 0 } }
  cause : t.headers[blkCrypt].cause = s.headers[blkCrypt].cause ||| 4
  others : ∀ d, d ≠ blkCrypt → t.headers[d] = s.headers[d]

theorem slotEnd_refused {reason : Nat} (h : reason ≠ 0) (s : State) : SlotRefused reason s (slotEnd reason (statusCleared s)) := by
  rw [slotEnd, if_neg h]
  refine ⟨?_, raise_cause, fun d hd => ?_⟩
  · simp [raise, statusCleared, h]
  · rw [raise_header, if_neg (Ne.symm hd)]
    rfl

/-! ## Fields of a word that is put together from fields (R5) -/

theorem testBit_field (x : Word) (lo w n : Nat) : (field x lo w).testBit n = (decide (n < w) && x.getLsbD (lo + n)) := by
  rw [field, bitsAt, Nat.testBit_mod_two_pow, Nat.testBit_shiftRight]
  rfl

theorem getLsbD_place (lo v n : Nat) : (place lo v).getLsbD n = (decide (n < 64) && (decide (lo ≤ n) && v.testBit (n - lo))) := by
  rw [place, BitVec.getLsbD_ofNat, Nat.testBit_shiftLeft]

theorem field_or (x y : Word) (lo w : Nat) : field (x ||| y) lo w = field x lo w ||| field y lo w := by
  refine Nat.eq_of_testBit_eq fun n => ?_
  rw [Nat.testBit_or, testBit_field, testBit_field, testBit_field, BitVec.getLsbD_or, Bool.and_or_distrib_left]

theorem field_place_same {lo w v : Nat} (hv : v < 2 ^ w) (hw : lo + w ≤ 64) : field (place lo v) lo w = v := by
  refine Nat.eq_of_testBit_eq fun n => ?_
  rw [testBit_field, getLsbD_place]
  by_cases hn : n < w
  · have hlt : lo + n < 64 := by omega
    simp [hn, hlt]
  · have hbit : v.testBit n = false := Nat.testBit_lt_two_pow (Nat.lt_of_lt_of_le hv (Nat.pow_le_pow_right (by decide) (by omega)))
    simp [hn, hbit]

/-- A value placed above a field leaves the field zero. -/
theorem field_place_above {lo w lo' v : Nat} (h : lo + w ≤ lo') : field (place lo' v) lo w = 0 := by
  refine Nat.eq_of_testBit_eq fun n => ?_
  rw [testBit_field, getLsbD_place, Nat.zero_testBit]
  by_cases hn : n < w
  · have hlt : ¬ lo' ≤ lo + n := by omega
    simp [hlt]
  · simp [hn]

/-- A value placed below a field, and short enough not to reach it, leaves the field zero. -/
theorem field_place_below {lo w lo' w' v : Nat} (hv : v < 2 ^ w') (h : lo' + w' ≤ lo) : field (place lo' v) lo w = 0 := by
  refine Nat.eq_of_testBit_eq fun n => ?_
  have hbit : v.testBit (lo + n - lo') = false :=
    Nat.testBit_lt_two_pow (Nat.lt_of_lt_of_le hv (Nat.pow_le_pow_right (by decide) (by omega)))
  rw [testBit_field, getLsbD_place, hbit, Nat.zero_testBit]
  simp

theorem bit_lt (b : Bool) : bit b < 2 ^ 1 := by cases b <;> decide

theorem stateCode_lt (st : SlotState) : stateCode st < 2 ^ 2 := by cases st <;> decide

/-- The word of CRY_SLOT_INFO that QUERY gives of a slot (Table 5.17). -/
def slotInfo (s : State) (i : Nat) : Word :=
  place 32 i ||| place 7 (bit (keyRec s i).host) ||| place 5 (stateCode (slotAt s i).state) ||| place 0 (slotAt s i).cls

theorem slotInfo_fields {s : State} {i : Nat} (hi : i < 2 ^ 12) (hcls : (slotAt s i).cls < 2 ^ 3) :
    field (slotInfo s i) 32 12 = i ∧ field (slotInfo s i) 7 1 = bit (keyRec s i).host ∧
    field (slotInfo s i) 0 3 = (slotAt s i).cls ∧ field (slotInfo s i) 5 2 = stateCode (slotAt s i).state := by
  have hhost := bit_lt (keyRec s i).host
  have hstate := stateCode_lt (slotAt s i).state
  simp only [slotInfo, field_or]
  refine ⟨?_, ?_, ?_, ?_⟩
  · rw [field_place_same hi (by decide), field_place_below hhost (by decide), field_place_below hstate (by decide),
      field_place_below hcls (by decide)]
    simp
  · rw [field_place_above (by decide), field_place_same hhost (by decide), field_place_below hstate (by decide),
      field_place_below hcls (by decide)]
    simp
  · rw [field_place_above (by decide), field_place_above (by decide), field_place_above (by decide),
      field_place_same hcls (by decide)]
    simp
  · rw [field_place_above (by decide), field_place_above (by decide), field_place_same hstate (by decide),
      field_place_below hcls (by decide)]
    simp

/-! ## What a command on a slot does (R118, Table 5.16) -/

section Reasons
variable (s : State) (i : Nat) (mask : Word)

theorem slotReason_loadGen : slotReason s 1 i mask = if (slotAt s i).state ≠ .empty then 1 else if (keyRec s i).host = true then 2
    else if subMask mask (keyRec s i).allowed = false then 3 else 0 := by
  simp [slotReason]

theorem slotReason_loadKey : slotReason s 2 i mask = if (slotAt s i).state ≠ .empty then 1 else if (keyRec s i).host = false then 2
    else if subMask mask (keyRec s i).allowed = false then 3 else if keyInValue s = 0 then 4 else 0 := by
  simp [slotReason]

theorem slotReason_setPolicy : slotReason s 3 i mask = if (slotAt s i).state ≠ .loaded then 1
    else if subMask mask (keyRec s i).allowed = false then 3 else 0 := by
  simp [slotReason]

theorem slotReason_retire : slotReason s 4 i mask = if (slotAt s i).state ≠ .loaded then 1 else 0 := by
  simp [slotReason]

end Reasons

section Runs
variable {s : State} {i : Nat}

theorem slotRun_refused {op : Nat} (hop : 1 ≤ op ∧ op ≤ 4) (h : slotReason s op i (regGet s offSlotMask) ≠ 0) :
    SlotRefused (slotReason s op i (regGet s offSlotMask)) s (slotRun op i s) := by
  have hrun : slotRun op i s = slotEnd (slotReason s op i (regGet s offSlotMask)) (statusCleared s) := by
    obtain ⟨hlow, hhigh⟩ := hop
    have hdefined : ¬ (op = 0 || 5 < op) = true := by simp only [Bool.or_eq_true, decide_eq_true_eq]; omega
    have hquery : op ≠ 5 := by omega
    simp only [slotRun]
    rw [if_neg hdefined]
    exact if_pos h
  rw [hrun]
  exact slotEnd_refused h s

theorem slotRun_badOp {op : Nat} (hop : op = 0 ∨ 5 < op) : SlotRefused 5 s (slotRun op i s) := by
  have hrun : slotRun op i s = slotEnd 5 (statusCleared s) := by
    have hquery : op ≠ 5 := by omega
    simp only [slotRun]
    rw [if_pos (by simpa using hop)]
    rfl
  rw [hrun]
  exact slotEnd_refused (by decide) s

theorem slotRun_loadGen (hstate : (slotAt s i).state = .empty) (hdevice : (keyRec s i).host = false)
    (hmask : subMask (regGet s offSlotMask) (keyRec s i).allowed = true) :
    SlotWritten i ⟨Config.randomBits s.free, subkey (Config.randomBits s.free), regField s offSlotPolicy 0 3,
      regGet s offSlotMask, .loaded⟩ { s with free := s.free + 1 } (slotRun 1 i s) := by
  have hreason : slotReason s 1 i (regGet s offSlotMask) = 0 := by simp [slotReason_loadGen, hstate, hdevice, hmask]
  have hrun : slotRun 1 i s = slotEnd 0 (genSlot i (regField s offSlotPolicy 0 3) (regGet s offSlotMask) (statusCleared s)) :=
    if_neg (not_not.2 hreason)
  rw [hrun]
  exact slotEnd_written (by simp) _

theorem slotRun_loadKey (hstate : (slotAt s i).state = .empty) (hhost : (keyRec s i).host = true)
    (hmask : subMask (regGet s offSlotMask) (keyRec s i).allowed = true) (hkey : keyInValue s ≠ 0) :
    SlotWritten i ⟨deliveredKey s.crypt.salt (keyInValue s), subkey (deliveredKey s.crypt.salt (keyInValue s)),
      regField s offSlotPolicy 0 3, regGet s offSlotMask, .loaded⟩ s (slotRun 2 i s) := by
  have hreason : slotReason s 2 i (regGet s offSlotMask) = 0 := by
    simpa [slotReason_loadKey, hstate, hhost, hmask] using hkey
  have hrun : slotRun 2 i s = slotEnd 0 (loadSlot i (deliveredKey s.crypt.salt (keyInValue s)) (regField s offSlotPolicy 0 3)
      (regGet s offSlotMask) (statusCleared s)) := if_neg (not_not.2 hreason)
  rw [hrun]
  exact slotEnd_written (by simp) _

theorem slotRun_setPolicy (hstate : (slotAt s i).state = .loaded)
    (hmask : subMask (regGet s offSlotMask) (keyRec s i).allowed = true) :
    SlotWritten i { slotAt s i with cls := regField s offSlotPolicy 0 3, mask := regGet s offSlotMask } s (slotRun 3 i s) := by
  have hreason : slotReason s 3 i (regGet s offSlotMask) = 0 := by simp [slotReason_setPolicy, hstate, hmask]
  have hrun : slotRun 3 i s = slotEnd 0 (setSlot i
      { slotAt s i with cls := regField s offSlotPolicy 0 3, mask := regGet s offSlotMask }
      (setCopies i true (regField s offSlotPolicy 0 3) (regGet s offSlotMask) (statusCleared s))) := if_neg (not_not.2 hreason)
  rw [hrun]
  exact slotEnd_written (by simp [hstate]) _

/-- A RETIRE has begun on slot `i`: the slot is RETIRING, and the command stays open. -/
structure SlotRetires (i : Nat) (s t : State) : Prop where
  busy : t.crypt.busy = true
  openSlot : t.crypt.openSlot = i
  goTime : t.crypt.goTime = s.dtime
  done : t.crypt.done = false
  slot : slotAt t i = { slotAt s i with state := .retiring }
  others : ∀ j, j ≠ i → slotAt t j = slotAt s j
  copies : ksorted s.crypt.copies = true → ∀ p : Fin 4, slotCopy t p i = ⟨false, 0, 0⟩
  out : t.out = s.out

theorem slotRun_retire (hstate : (slotAt s i).state = .loaded) : SlotRetires i s (slotRun 4 i s) := by
  have hreason : slotReason s 4 i (regGet s offSlotMask) = 0 := by simp [slotReason_retire, hstate]
  let cleared := setCopies i false 0 0 (setSlot i { slotAt s i with state := .retiring } (statusCleared s))
  let begun := { cleared with crypt := { cleared.crypt with busy := true, openSlot := i, goTime := s.dtime, timedOut := false } }
  have hrun : slotRun 4 i s = sendMarkers begun := if_neg (not_not.2 hreason)
  have hsent := sendMarkers_markersSent begun
  rw [← hrun] at hsent
  generalize slotRun 4 i s = t at hsent ⊢
  have hslots : t.crypt.slots = (setSlot i { slotAt s i with state := .retiring } (statusCleared s)).crypt.slots := by rw [hsent]; rfl
  have hcopies : t.crypt.copies = cleared.crypt.copies := by rw [hsent]
  exact {
    busy := by rw [hsent]
    openSlot := by rw [hsent]
    goTime := by rw [hsent]
    done := by rw [hsent]; rfl
    slot := by rw [slotAt, hslots]; exact slotAt_setSlot_same (by simp)
    others := fun j hj => by rw [slotAt, hslots]; exact slotAt_setSlot_other (by simp) hj
    copies := fun h p => by rw [slotCopy, hcopies]; exact slotCopy_setCopies_cleared i h p
    out := by rw [hsent]; rfl }

theorem slotRun_query : slotRun 5 i s = { s with crypt := { s.crypt with
    busy := false, done := true, refused := false, reason := 0, keyIn := Vector.replicate 4 0
    info := slotInfo s i, infoMask := (slotAt s i).mask } } := by
  have hcode : stateCode (slotAt s i).state = (match (slotAt s i).state with | .empty => 0 | .loaded => 1 | .retiring => 2) := by
    cases (slotAt s i).state <;> rfl
  rw [slotInfo, hcode]
  rfl

end Runs

/-! ## The write of CRY_SLOT_CMD that starts a command (R24, R118, Table 5.12) -/

section Command
variable {s : State} {op i : Nat}

/-- The fields of CRY_SLOT_CMD have taken the written values. -/
def cmdWritten (op i : Nat) (s : State) : State := regWrite .whole offSlotCmd (place 60 op ||| place 32 i ||| 1) s

theorem cmdWritten_frame (op i : Nat) (s : State) : cmdWritten op i s = { s with regs := (cmdWritten op i s).regs } := rfl

theorem regGet_cmdWritten {off : Nat} (h : ksorted s.regs = true) (hoff : off ≠ offSlotCmd) :
    regGet (cmdWritten op i s) off = regGet s off := regGet_regSet_other _ _ _ _ h hoff

theorem guardWrite_slotCmd (f : State → State) (s : State) : guardWrite .germ offSlotCmd f s = f s := rfl

theorem slotCmd_down (hgerm : s.fw.germUp = false) : slotCmd .germ op i s = s := by
  simp [slotCmd, hgerm]

theorem slotCmd_busy (hgerm : s.fw.germUp = true) (hbusy : s.crypt.busy = true) : slotCmd .germ op i s = cmdWritten op i s := by
  have hopen : (cmdWritten op i s).crypt.busy = true := hbusy
  rw [slotCmd, if_neg (by simp [hgerm]), guardWrite_slotCmd]
  exact if_pos hopen

theorem slotCmd_starts (hgerm : s.fw.germUp = true) (hidle : s.crypt.busy = false) :
    slotCmd .germ op i s = slotRun op i (cmdWritten op i s) := by
  have hfree : ¬ (cmdWritten op i s).crypt.busy = true := Bool.not_eq_true _ ▸ hidle
  rw [slotCmd, if_neg (by simp [hgerm]), guardWrite_slotCmd]
  exact if_neg hfree

/-- While a command is open a GO writes the fields of CRY_SLOT_CMD and starts nothing; a Germ that restarts writes nothing. -/
theorem slotCmd_open (hbusy : s.crypt.busy = true) :
    slotCmd .germ op i s = { s with regs := if s.fw.germUp then (slotCmd .germ op i s).regs else s.regs } := by
  cases hgerm : s.fw.germUp with
  | false => rw [slotCmd_down hgerm]; rfl
  | true =>
    rw [slotCmd_busy hgerm hbusy]
    exact cmdWritten_frame op i s

theorem tablesOrdered_regs (h : tablesOrdered s = true) : ksorted s.regs = true := by
  rw [tablesOrdered, Bool.and_eq_true] at h
  exact h.2

end Command

/-! ## The end of a RETIRE (R118 step 6, R119) -/

theorem serveAllKeys_of_idle {s : State} (h : s.crypt.waits = [] ∨ s.fw.germUp = false) : serveAllKeys s = s := by
  rcases h with h | h
  · have hfinish : finishKeyMsg s = s := by simp [finishKeyMsg, h]
    rw [serveAllKeys, hfinish, serveKeys, h, ite_self]
  · simp [serveAllKeys, h]

theorem eraseSteps_of_idle {s : State} (h : s.fw.erasing = [] ∨ s.fw.germUp = false) : eraseSteps s = s := by
  rcases h with h | h <;> simp [eraseSteps, eraseStep, h]

theorem doRetireDrainComplete_of_markers {s : State} (hbusy : s.crypt.busy = true) (hmarkers : s.crypt.markers = 0xF)
    (hquiet : portsQuiet s = true) (hwaits : s.crypt.waits = [] ∨ s.fw.germUp = false) :
    doRetireDrainComplete s = slotEnd 0 (setSlot s.crypt.openSlot emptySlot s) := by
  rw [doRetireDrainComplete, allSettle_of_portsQuiet hquiet]
  simp only [hbusy, hmarkers]
  exact serveAllKeys_of_idle hwaits

theorem doRetireTimeout_again {s : State} (h : s.crypt.timedOut = true) : doRetireTimeout s = s := by
  simp [doRetireTimeout, h]

theorem doRetireTimeout_first {s : State} (hbusy : s.crypt.busy = true) (h : s.crypt.timedOut = false) :
    doRetireTimeout s = raise blkCrypt 3 Cap.none { s with
      dtime := max s.dtime (s.crypt.goTime + 100000 * regField s offRetireTimeout 0 16)
      crypt := { s.crypt with timedOut := true } } := by
  rw [doRetireTimeout, if_neg (by simp [hbusy, h])]
  rfl

/-! ## The commands -/

theorem exec_badOp {op : Fin 16} {i : Fin 4096} (s : State) (h : op.val = 0 ∨ 5 < op.val) :
    exec (.badOp .germ op i) s = .next (slotCmd .germ op i s) := by
  have hreserved : doBadOp .germ op i s = slotCmd .germ op i s := if_neg (by simp; omega)
  rw [← hreserved]
  rfl

theorem completes_of_slotRefused {c : Instr} {op i reason : Nat} {s : State}
    (hexec : exec c s = .next (slotRun op i (cmdWritten op i s))) (hidle : s.crypt.busy = false)
    (h : SlotRefused reason (cmdWritten op i s) (slotRun op i (cmdWritten op i s))) : Completes c s fun t =>
      t = { s with crypt := t.crypt, regs := t.regs, headers := t.headers } ∧
      t.crypt = { s.crypt with done := false, refused := true, reason := reason, keyIn := Vector.replicate 4 0 } ∧
      t.headers[blkCrypt].cause = s.headers[blkCrypt].cause ||| 4 ∧ ∀ d, d ≠ blkCrypt → t.headers[d] = s.headers[d] := by
  refine completes_of_next hexec ⟨?_, ?_, h.cause, h.others⟩
  · rw [h.frame]
    rfl
  · rw [h.frame, ← hidle]
    rfl

theorem completes_of_slotReason {c : Instr} {op i reason : Nat} {s : State} (hgerm : s.fw.germUp = true)
    (hidle : s.crypt.busy = false) (hregs : ksorted s.regs = true) (hexec : exec c s = .next (slotCmd .germ op i s))
    (hop : 1 ≤ op ∧ op ≤ 4) (hreason : reason = slotReason s op i (regGet s offSlotMask)) (hne : reason ≠ 0) :
    Completes c s fun t => t = { s with crypt := t.crypt, regs := t.regs, headers := t.headers } ∧
      t.crypt = { s.crypt with done := false, refused := true, reason := reason, keyIn := Vector.replicate 4 0 } ∧
      t.headers[blkCrypt].cause = s.headers[blkCrypt].cause ||| 4 ∧ ∀ d, d ≠ blkCrypt → t.headers[d] = s.headers[d] := by
  have hwritten : slotReason (cmdWritten op i s) op i (regGet (cmdWritten op i s) offSlotMask) = reason := by
    rw [hreason, regGet_cmdWritten hregs (by decide)]
    rfl
  have hrun := slotRun_refused hop (hwritten ▸ hne)
  rw [hwritten] at hrun
  exact completes_of_slotRefused (hexec.trans (congrArg _ (slotCmd_starts hgerm hidle))) hidle hrun

/-- Settles O26. Germ's write of CRY_SLOT_CMD runs the command on a state that differs in that register alone; each command writes
one slot with its copies, opens a RETIRE, reads a slot, or is refused with the first REASON that applies. -/
theorem keySlotCommands : Obligations.KeySlotCommands := by
  unfold Obligations.KeySlotCommands
  refine ⟨fun i s hidle hgerm hordered => ?_, fun s hbusy => ⟨?_, ?_, ?_, ?_⟩⟩
  · have hstarts (op : Nat) := slotCmd_starts (op := op) (i := i.val) hgerm hidle
    have hnext (op : Nat) : (.next (slotCmd .germ op i s) : Host.Outcome State Fault Refusal) =
      .next (slotRun op i (cmdWritten op i s)) := congrArg _ (hstarts op)
    have hregs := tablesOrdered_regs hordered
    have hmaskReg (op : Nat) : regGet (cmdWritten op i s) offSlotMask = regGet s offSlotMask := regGet_cmdWritten hregs (by decide)
    have hcls (op : Nat) : regField (cmdWritten op i s) offSlotPolicy 0 3 = regField s offSlotPolicy 0 3 :=
      congrArg (field · 0 3) (regGet_cmdWritten hregs (by decide))
    refine ⟨?_, ?_, ?_, ?_, ?_, ?_⟩
    · intro hstate hdevice hmask
      have hrun := slotRun_loadGen (s := cmdWritten 1 i s) (i := i) hstate hdevice (by rw [hmaskReg]; exact hmask)
      rw [hmaskReg, hcls] at hrun
      refine completes_of_next (hnext 1) ⟨?_, hrun.slot, hrun.copies, hrun.ended⟩
      rw [hrun.frame]
      rfl
    · intro hstate hhost hmask hkey
      have hrun := slotRun_loadKey (s := cmdWritten 2 i s) (i := i) hstate hhost (by rw [hmaskReg]; exact hmask) hkey
      rw [hmaskReg, hcls] at hrun
      refine completes_of_next (hnext 2) ⟨?_, hrun.slot, hrun.copies, hrun.ended⟩
      rw [hrun.frame]
      rfl
    · intro hstate hmask
      have hrun := slotRun_setPolicy (s := cmdWritten 3 i s) (i := i) hstate (by rw [hmaskReg]; exact hmask)
      rw [hmaskReg, hcls] at hrun
      refine completes_of_next (hnext 3) ⟨?_, hrun.slot, hrun.copies, hrun.ended⟩
      rw [hrun.frame]
      rfl
    · intro hstate hcopies
      have hrun := slotRun_retire (s := cmdWritten 4 i s) (i := i) hstate
      exact completes_of_next (hnext 4) ⟨hrun.busy, hrun.openSlot, hrun.goTime, hrun.done, hrun.slot, hrun.copies hcopies, hrun.others⟩
    · intro hclass
      obtain ⟨hslot, hhost, hclassField, hstate⟩ := slotInfo_fields (s := cmdWritten 5 i s) i.isLt hclass
      refine completes_of_next ((hnext 5).trans (congrArg _ slotRun_query)) ⟨rfl, rfl, rfl, rfl, hslot, hhost, hclassField,
        hstate.trans ?_, rfl, rfl, rfl, rfl, rfl, fun _ _ => rfl⟩
      show stateCode (slotAt s i).state = _
      cases (slotAt s i).state <;> rfl
    · rintro c reason (⟨rfl, hreason⟩ | ⟨rfl, hreason⟩ | ⟨rfl, hreason⟩ | ⟨rfl, hreason⟩ | ⟨op, rfl, hop, rfl⟩) hne
      · exact completes_of_slotReason hgerm hidle hregs rfl (by decide) (hreason.trans (slotReason_loadGen ..).symm) hne
      · exact completes_of_slotReason hgerm hidle hregs rfl (by decide) (hreason.trans (slotReason_loadKey ..).symm) hne
      · exact completes_of_slotReason hgerm hidle hregs rfl (by decide) (hreason.trans (slotReason_setPolicy ..).symm) hne
      · exact completes_of_slotReason hgerm hidle hregs rfl (by decide) (hreason.trans (slotReason_retire ..).symm) hne
      · exact completes_of_slotRefused ((exec_badOp s hop).trans (hnext op)) hidle (slotRun_badOp hop)
  · intro i op hop c hc
    obtain ⟨n, hexec⟩ : ∃ n, exec c s = .next (slotCmd .germ n i s) := by
      simp only [List.mem_cons, List.not_mem_nil, or_false] at hc
      rcases hc with rfl | rfl | rfl | rfl | rfl | rfl
      · exact ⟨1, rfl⟩
      · exact ⟨2, rfl⟩
      · exact ⟨3, rfl⟩
      · exact ⟨4, rfl⟩
      · exact ⟨5, rfl⟩
      · exact ⟨op, exec_badOp s hop⟩
    exact completes_of_next hexec (slotCmd_open hbusy)
  · intro hmarkers hquiet _ hrest hslots
    have hdrained := doRetireDrainComplete_of_markers hbusy hmarkers hquiet (hrest.imp_left And.left)
    have hexec : exec .retireDrainComplete s = .next (slotEnd 0 (setSlot s.crypt.openSlot emptySlot s)) := by
      show Host.Outcome.next (eraseSteps (doRetireDrainComplete s)) = _
      rw [hdrained]
      exact congrArg _ (eraseSteps_of_idle (hrest.imp_left And.right))
    exact completes_of_next hexec ⟨rfl, rfl, slotAt_emptied_same hslots, fun j hj => slotAt_emptied_other hslots hj⟩
  · exact fun hlate => congrArg Host.Outcome.next (doRetireTimeout_first hbusy hlate)
  · exact fun hlate => congrArg Host.Outcome.next (doRetireTimeout_again hlate)

end Sys2Proof.Machine

/-! # Key messages (R123, Tables 5.3 and 5.4) -/

namespace Sys2Proof.Machine

/-! ## The key of a LOAD on its way to CRY_KEY_IN (Table 5.15) -/

theorem bytesToNatBE_reverse (bs : List Byte) : bytesToNatBE bs.reverse = bytesToNat bs := by
  rw [bytesToNatBE, List.foldl_reverse]
  induction bs with
  | nil => rfl
  | cons b bs ih => rw [List.foldr_cons, ih, bytesToNat]; omega

theorem natToBytes_zero (n : Nat) : natToBytes n 0 = List.replicate n 0 := by
  induction n with
  | zero => rfl
  | succ n ih => rw [natToBytes, Nat.zero_div, ih, List.replicate_succ]; rfl

/-- A key of 32 bytes is zero as a number only when every byte is. -/
theorem keyValue_ne_zero {bs : List Byte} (hlen : bs.length = 32) (h : bs.all (· = 0) = false) :
    BitVec.ofNat 256 (bytesToNatBE bs) ≠ 0 := by
  intro hzero
  have hmod : bytesToNat bs.reverse % 256 ^ 32 = 0 := by
    have := congrArg BitVec.toNat hzero
    rw [← List.reverse_reverse bs, bytesToNatBE_reverse] at this
    exact (BitVec.toNat_ofNat ..).symm.trans this
  have hbytes : bs.reverse = List.replicate 32 0 := by
    rw [← natToBytes_bytesToNat bs.reverse, List.length_reverse, hlen, ← natToBytes_mod, hmod, natToBytes_zero]
  have hall : bs = List.replicate 32 0 := by rw [← List.reverse_reverse bs, hbytes, List.reverse_replicate]
  rw [hall] at h
  exact absurd h (by decide)

/-- Word `n` of CRY_KEY_IN that Germ writes from the key of a message. -/
def keyWord (bs : List Byte) (n : Nat) : Word := BitVec.ofNat 64 (bytesToNat ((bs.drop (8 * n)).take 8))

theorem natToBytes_keyWord {bs : List Byte} (hlen : bs.length = 32) {n : Nat} (hn : n < 4) :
    natToBytes 8 (keyWord bs n).toNat = (bs.drop (8 * n)).take 8 := by
  have hpart : ((bs.drop (8 * n)).take 8).length = 8 := by simp; omega
  have hmod : (keyWord bs n).toNat = bytesToNat ((bs.drop (8 * n)).take 8) % 256 ^ 8 := BitVec.toNat_ofNat ..
  have hback := natToBytes_bytesToNat ((bs.drop (8 * n)).take 8)
  rw [hpart] at hback
  rw [hmod, natToBytes_mod, hback]

theorem keyWords_bytes {bs : List Byte} (hlen : bs.length = 32) :
    [keyWord bs 0, keyWord bs 1, keyWord bs 2, keyWord bs 3].flatMap (fun w => natToBytes 8 w.toNat) = bs := by
  have hlast : (bs.drop 24).take 8 = bs.drop 24 := List.take_of_length_le (by simp; omega)
  have hjoin (n : Nat) : (bs.drop n).take 8 ++ bs.drop (n + 8) = bs.drop n := by
    rw [← List.drop_drop, List.take_append_drop]
  simp only [List.flatMap_cons, List.flatMap_nil, List.append_nil, natToBytes_keyWord hlen (by decide : 0 < 4),
    natToBytes_keyWord hlen (by decide : 1 < 4), natToBytes_keyWord hlen (by decide : 2 < 4),
    natToBytes_keyWord hlen (by decide : 3 < 4)]
  rw [hlast, hjoin 16, hjoin 8, hjoin 0, List.drop_zero]

/-! ## The policy that Germ writes before a command (R118 step 1) -/

section Policy
variable {s : State} {op i cls : Nat} {mask : Word}

/-- CRY_SLOT_POLICY, CRY_SLOT_MASK and CRY_SLOT_CMD hold what Germ has written. -/
def policyWritten (op i cls : Nat) (mask : Word) (s : State) : State :=
  regSet offSlotCmd (place 60 op ||| place 32 i) (regSet offSlotMask mask (regSet offSlotPolicy (BitVec.ofNat 64 cls) s))

theorem regGet_policyWritten_mask (h : ksorted s.regs = true) : regGet (policyWritten op i cls mask s) offSlotMask = mask := by
  have hpolicy := regSet_sorted offSlotPolicy (BitVec.ofNat 64 cls) s h
  rw [policyWritten, regGet_regSet_other _ _ _ _ (regSet_sorted _ _ _ hpolicy) (by decide), regGet_regSet_same _ _ _ hpolicy]

theorem regField_policyWritten_cls (h : ksorted s.regs = true) (hcls : cls < 8) :
    regField (policyWritten op i cls mask s) offSlotPolicy 0 3 = cls := by
  have hpolicy := regSet_sorted offSlotPolicy (BitVec.ofNat 64 cls) s h
  have hplace : BitVec.ofNat 64 cls = place 0 cls := rfl
  rw [regField, policyWritten, regGet_regSet_other _ _ _ _ (regSet_sorted _ _ _ hpolicy) (by decide),
    regGet_regSet_other _ _ _ _ hpolicy (by decide), regGet_regSet_same _ _ _ h, hplace, field_place_same hcls (by decide)]

end Policy

/-! ## Messages and their answers (Tables 5.3 and 5.4) -/

theorem msgWellFormed_length {m : KeyMsg} (h : msgWellFormed m = true) : m.payload.length = 48 := by
  simp only [msgWellFormed, Bool.and_eq_true, decide_eq_true_eq] at h
  tauto

theorem msgWellFormed_class {m : KeyMsg} (h : msgWellFormed m = true) : msgByte m 4 < 8 := by
  simp only [msgWellFormed, Bool.and_eq_true, decide_eq_true_eq] at h
  tauto

theorem msgKey_length {m : KeyMsg} (h : msgWellFormed m = true) : (msgKey m).length = 32 := by
  simp [msgKey, msgWellFormed_length h]

/-- The answer of Table 5.4 about a slot that has been examined. -/
def answerBytes (m : KeyMsg) (result : Nat) (k : KeySlot) : List Byte :=
  [BitVec.ofNat 8 (msgOp m), BitVec.ofNat 8 result, BitVec.ofNat 8 (msgByte m 2), BitVec.ofNat 8 (msgByte m 3),
    BitVec.ofNat 8 (stateCode k.state), BitVec.ofNat 8 k.cls, 0, 0]

theorem keyAnswer_success (m : KeyMsg) (s : State) :
    keyAnswer m 0 true s = emit (.keyAnswer m.port m.link (answerBytes m 0 (slotAt s (msgSlot m)))) s := by
  have hcode : stateCode (slotAt s (msgSlot m)).state =
      (match (slotAt s (msgSlot m)).state with | .empty => 0 | .loaded => 1 | .retiring => 2) := by
    cases (slotAt s (msgSlot m)).state <;> rfl
  rw [answerBytes, hcode]
  rfl

/-- A message is refused: an answer with its result and KEY_MSG_REFUSED; before the slot is examined, two free bytes are drawn. -/
theorem keyAnswer_refused (m : KeyMsg) {result : Nat} (h : result ≠ 0) (examined : Bool) (s : State) : ∃ free rest,
    (examined = true → free = s.free) ∧ keyAnswer m result examined s = raise blkCrypt 4 Cap.none { s with
      free := free
      out := s.out ++ [.keyAnswer m.port m.link (BitVec.ofNat 8 (msgOp m) :: BitVec.ofNat 8 result :: rest)] } := by
  cases examined
  · exact ⟨s.free + 2, _, nofun, if_neg h⟩
  · exact ⟨s.free, _, fun _ => rfl, if_neg h⟩

/-! ## Serving a message (R123) -/

/-- A message has been served and leaves the queue of messages. -/
def messageServed (s : State) : State := { s with crypt := { s.crypt with waits := s.crypt.waits.tail, msgOpen := false } }

/-- The load-port command that carries a message's OP out (Table 5.3); REGEN retires the slot first. -/
def portOp : Nat → Nat
  | 1 => 2
  | 2 => 4
  | 3 => 4
  | 4 => 3
  | _ => 5

/-- What Germ does once the command of a message has run: a RETIRE stays open, any other is answered. -/
def commandAnswered (m : KeyMsg) (s : State) : State :=
  if s.crypt.busy then { s with crypt := { s.crypt with msgOpen := true } }
  else messageServed (keyAnswer m (reasonResult s.crypt.reason) true s)

section Serve
variable {m : KeyMsg} {s : State}

theorem serveKeyMsg_unsecured (hsecured : m.secured = false) : serveKeyMsg m s =
    messageServed (raise blkCrypt 4 Cap.none (emit (.spdmError m.port m.link .unexpectedRequest) s)) :=
  if_pos (by simp [hsecured])

variable (hsecured : m.secured = true)
include hsecured

theorem serveKeyMsg_malformed (hformed : msgWellFormed m = false) :
    serveKeyMsg m s = messageServed (keyAnswer m 3 false s) := by
  rw [serveKeyMsg, if_neg (by simp [hsecured]), if_pos (by simp [hformed])]
  rfl

variable (hformed : msgWellFormed m = true)
include hformed

theorem serveKeyMsg_notManager (hmgr : (keyRec s (msgSlot m)).mgr.testBit m.port = false) :
    serveKeyMsg m s = messageServed (keyAnswer m 1 true s) := by
  rw [serveKeyMsg, if_neg (by simp [hsecured]), if_neg (by simp [hformed]), if_pos (by simp [hmgr])]
  rfl

variable (hmgr : (keyRec s (msgSlot m)).mgr.testBit m.port = true)
include hmgr

theorem serveKeyMsg_wrongKind
    (hkind : msgOp m = 1 ∧ (keyRec s (msgSlot m)).host = false ∨ msgOp m = 3 ∧ (keyRec s (msgSlot m)).host = true) :
    serveKeyMsg m s = messageServed (keyAnswer m 1 true s) := by
  rw [serveKeyMsg, if_neg (by simp [hsecured]), if_neg (by simp [hformed]), if_neg (by simp [hmgr]), if_pos (by simpa using hkind)]
  rfl

theorem serveKeyMsg_notAllowed (hop : msgOp m = 1) (hhost : (keyRec s (msgSlot m)).host = true)
    (hmask : subMask (msgMask m) (keyRec s (msgSlot m)).allowed = false) :
    serveKeyMsg m s = messageServed (keyAnswer m 3 true s) := by
  rw [serveKeyMsg, if_neg (by simp [hsecured]), if_neg (by simp [hformed]), if_neg (by simp [hmgr]),
    if_neg (by simp [hop, hhost]), if_pos (by simp [hop, hmask])]
  rfl

/-- A message that passes every check runs its command. -/
theorem serveKeyMsg_runs (hload : msgOp m = 1 → (keyRec s (msgSlot m)).host = true ∧ (msgKey m).all (· = 0) = false)
    (hregen : msgOp m = 3 → (keyRec s (msgSlot m)).host = false)
    (hmask : msgOp m = 1 ∨ msgOp m = 3 ∨ msgOp m = 4 → subMask (msgMask m) (keyRec s (msgSlot m)).allowed = true) :
    serveKeyMsg m s = commandAnswered m (msgRun m (portOp (msgOp m)) s) := by
  have hkind : ¬ ((msgOp m = 1 && !(keyRec s (msgSlot m)).host) || (msgOp m = 3 && (keyRec s (msgSlot m)).host)) = true := by
    simp only [Bool.or_eq_true, Bool.and_eq_true, decide_eq_true_eq, Bool.not_eq_true']
    rintro (⟨hop, hdevice⟩ | ⟨hop, hhost⟩)
    · exact absurd (hload hop).1 (by simp [hdevice])
    · exact absurd (hregen hop) (by simp [hhost])
  have hallowed : ¬ ((msgOp m = 1 || msgOp m = 3 || msgOp m = 4) && !subMask (msgMask m) (keyRec s (msgSlot m)).allowed) = true := by
    simp only [Bool.or_eq_true, Bool.and_eq_true, decide_eq_true_eq, Bool.not_eq_true', or_assoc]
    rintro ⟨hop, hnot⟩
    exact absurd (hmask hop) (by simp [hnot])
  have hkey : ¬ (msgOp m = 1 && (msgKey m).all (· = 0)) = true := by
    simp only [Bool.and_eq_true, decide_eq_true_eq]
    rintro ⟨hop, hzero⟩
    exact Bool.false_ne_true ((hload hop).2.symm.trans hzero)
  rw [serveKeyMsg, if_neg (by simp [hsecured]), if_neg (by simp [hformed]), if_neg (by simp [hmgr]), if_neg hkind, if_neg hallowed,
    if_neg hkey]
  rfl

end Serve

/-! ## What the command of a message runs on -/

/-- CRY_KEY_IN holds the key of a LOAD. -/
def keyWritten (m : KeyMsg) (s : State) : State := { s with crypt := { s.crypt with
  keyIn := #v[keyWord (msgKey m) 0, keyWord (msgKey m) 1, keyWord (msgKey m) 2, keyWord (msgKey m) 3] } }

theorem keyInValue_keyWritten {m : KeyMsg} (h : msgWellFormed m = true) (s : State) :
    keyInValue (keyWritten m s) = BitVec.ofNat 256 (bytesToNatBE (msgKey m)) :=
  congrArg (fun bs => BitVec.ofNat 256 (bytesToNatBE bs)) (keyWords_bytes (msgKey_length h))

theorem msgRun_load (m : KeyMsg) (s : State) : msgRun m 2 s =
    slotRun 2 (msgSlot m) (policyWritten 2 (msgSlot m) (msgByte m 4) (msgMask m) (keyWritten m s)) := rfl

theorem msgRun_policy (m : KeyMsg) (s : State) : msgRun m 3 s =
    slotRun 3 (msgSlot m) (policyWritten 3 (msgSlot m) (msgByte m 4) (msgMask m) s) := rfl

theorem msgRun_retire (m : KeyMsg) (s : State) : msgRun m 4 s =
    slotRun 4 (msgSlot m) (regSet offSlotCmd (place 60 4 ||| place 32 (msgSlot m)) s) := rfl

theorem msgRun_query (m : KeyMsg) (s : State) : msgRun m 5 s =
    slotRun 5 (msgSlot m) (regSet offSlotCmd (place 60 5 ||| place 32 (msgSlot m)) s) := rfl

/-! ## A message that comes while the load port is free and no other waits -/

/-- The message stands alone in the queue of messages. -/
def messageQueued (m : KeyMsg) (s : State) : State := { s with crypt := { s.crypt with waits := [m] } }

theorem exec_keyMessage {km : KeyMsg} {c : Instr} (s : State)
    (hc : c ∈ [Instr.keyMsgLoad km, .keyMsgRetire km, .keyMsgRegen km, .keyMsgPolicy km, .keyMsgQuery km]) :
    exec c s = .next (doKeyMsg km s) := by
  simp only [List.mem_cons, List.not_mem_nil, or_false] at hc
  rcases hc with rfl | rfl | rfl | rfl | rfl <;> rfl

theorem serveKeys_of_none {fuel : Nat} {s : State} (h : s.crypt.waits = [] ∨ s.crypt.busy = true) : serveKeys fuel s = s := by
  cases fuel with
  | zero => rfl
  | succ fuel =>
    rw [serveKeys]
    split
    · next m rest hwaits => rw [if_pos (by simp [h.resolve_left (by simp [hwaits])])]
    · rfl

section Alone
variable {km : KeyMsg} {s : State} (hup : s.ports[km.port].links[km.link].up = true) (hgerm : s.fw.germUp = true)
  (hidle : s.crypt.busy = false) (hwaits : s.crypt.waits = []) (hopen : s.crypt.msgOpen = false)

include hwaits hopen in
/-- Once served, the message has left the load port as it was before. -/
theorem messageServed_of_crypt {u : State} (h : u.crypt = (messageQueued km s).crypt) : messageServed u = { u with crypt := s.crypt } := by
  have hcrypt : ({ s.crypt with waits := [], msgOpen := false } : Crypt) = s.crypt := by rw [← hwaits, ← hopen]
  rw [messageServed, h, ← hcrypt]
  rfl

include hup hgerm hidle hwaits hopen

/-- The message is served at once, and then no other. -/
theorem doKeyMsg_alone (h : (serveKeyMsg km (messageQueued km s)).crypt.waits = [] ∨
    (serveKeyMsg km (messageQueued km s)).crypt.busy = true) : doKeyMsg km s = serveKeyMsg km (messageQueued km s) := by
  have hqueued : { s with crypt := { s.crypt with waits := s.crypt.waits ++ [km] } } = messageQueued km s := by
    rw [hwaits]
    rfl
  have hfinish : finishKeyMsg (messageQueued km s) = messageQueued km s := if_pos (by simp [messageQueued, hopen])
  have hserve : serveKeys 2 (messageQueued km s) = serveKeys 1 (serveKeyMsg km (messageQueued km s)) :=
    if_neg (by simp [messageQueued, hidle, hgerm])
  rw [doKeyMsg, if_neg (by rw [hup]; decide), hqueued, serveAllKeys, if_neg (by simp [messageQueued, hidle, hgerm]), hfinish]
  exact hserve.trans (serveKeys_of_none h)

/-- A message outside a secured session is answered with an SPDM error. -/
theorem doKeyMsg_unsecured (hsecured : km.secured = false) : doKeyMsg km s = raise blkCrypt 4 Cap.none { s with
    out := s.out ++ [.spdmError km.port km.link .unexpectedRequest] } := by
  have hleft := (serveKeyMsg_unsecured (s := messageQueued km s) hsecured).trans (messageServed_of_crypt hwaits hopen rfl)
  rw [doKeyMsg_alone hup hgerm hidle hwaits hopen (.inl (by rw [hleft]; exact hwaits)), hleft]
  rfl

/-- A message that is refused changes no more than the headers, what is sent, and the free values drawn. -/
theorem doKeyMsg_refused {result : Nat} {examined : Bool} (hresult : result ≠ 0)
    (h : serveKeyMsg km (messageQueued km s) = messageServed (keyAnswer km result examined (messageQueued km s))) :
    ∃ free rest, (examined = true → free = s.free) ∧ doKeyMsg km s = raise blkCrypt 4 Cap.none { s with
      free := free
      out := s.out ++ [.keyAnswer km.port km.link (BitVec.ofNat 8 (msgOp km) :: BitVec.ofNat 8 result :: rest)] } := by
  obtain ⟨free, rest, hfree, hanswer⟩ := keyAnswer_refused km hresult examined (messageQueued km s)
  have hleft := h.trans ((congrArg messageServed hanswer).trans (messageServed_of_crypt hwaits hopen rfl))
  refine ⟨free, rest, hfree, ?_⟩
  rw [doKeyMsg_alone hup hgerm hidle hwaits hopen (.inl (by rw [hleft]; exact hwaits)), hleft]
  rfl

/-- Each of the five key messages so completes where it is refused after the slot has been examined. -/
theorem completes_of_refusal {c : Instr} {result : Nat} (hresult : result ≠ 0)
    (h : serveKeyMsg km (messageQueued km s) = messageServed (keyAnswer km result true (messageQueued km s)))
    (hc : c ∈ [Instr.keyMsgLoad km, .keyMsgRetire km, .keyMsgRegen km, .keyMsgPolicy km, .keyMsgQuery km]) :
    Completes c s fun t => t = { s with headers := t.headers, out := t.out } ∧
      t.headers[blkCrypt].cause = s.headers[blkCrypt].cause ||| 16 ∧ (∀ d, d ≠ blkCrypt → t.headers[d] = s.headers[d]) ∧
      ∃ rest, t.out = s.out ++ [.keyAnswer km.port km.link (BitVec.ofNat 8 (msgOp km) :: BitVec.ofNat 8 result :: rest)] := by
  obtain ⟨free, rest, hfree, heq⟩ := doKeyMsg_refused hup hgerm hidle hwaits hopen hresult h
  obtain rfl := hfree rfl
  refine completes_of_next ((exec_keyMessage s hc).trans (congrArg _ heq)) ⟨rfl, raise_cause, fun d hd => ?_, rest, rfl⟩
  rw [raise_header, if_neg (Ne.symm hd)]

/-- A message whose command is done is answered with SUCCESS. -/
theorem doKeyMsg_success {t : State} (h : serveKeyMsg km (messageQueued km s) = commandAnswered km t)
    (hdone : t.crypt.busy = false) (hreason : t.crypt.reason = 0) (hqueue : t.crypt.waits = [km]) : doKeyMsg km s =
      messageServed (emit (.keyAnswer km.port km.link (answerBytes km 0 (slotAt t (msgSlot km)))) t) := by
  have hanswer : commandAnswered km t =
      messageServed (emit (.keyAnswer km.port km.link (answerBytes km 0 (slotAt t (msgSlot km)))) t) := by
    rw [commandAnswered, if_neg (by simp [hdone]), hreason, ← keyAnswer_success]
    rfl
  have hempty : (serveKeyMsg km (messageQueued km s)).crypt.waits = [] := by
    rw [h, hanswer, messageServed, emit, hqueue]
    rfl
  rw [doKeyMsg_alone hup hgerm hidle hwaits hopen (.inl hempty), h, hanswer]

/-- A message whose command has written a slot. -/
theorem doKeyMsg_written {k : KeySlot} {u t : State} (h : serveKeyMsg km (messageQueued km s) = commandAnswered km t)
    (hwritten : SlotWritten (msgSlot km) k u t) (hu : u = { s with regs := u.regs, crypt := u.crypt })
    (hslots : u.crypt.slots = s.crypt.slots) (hqueue : u.crypt.waits = [km]) :
    doKeyMsg km s = { s with crypt := (doKeyMsg km s).crypt, regs := (doKeyMsg km s).regs, out := (doKeyMsg km s).out } ∧
    slotAt (doKeyMsg km s) (msgSlot km) = k ∧ (doKeyMsg km s).crypt.keyIn = Vector.replicate 4 0 ∧
    (∀ j, j ≠ msgSlot km → slotAt (doKeyMsg km s) j = slotAt s j) ∧ (doKeyMsg km s).crypt.busy = false ∧
    (doKeyMsg km s).out = s.out ++ [.keyAnswer km.port km.link (answerBytes km 0 k)] := by
  obtain ⟨hbusy, -, -, hreason, hkeyIn, hothers⟩ := hwritten.ended
  have hout : t.out = s.out := by rw [hwritten.frame, hu]
  rw [doKeyMsg_success hup hgerm hidle hwaits hopen h hbusy hreason (by rw [hwritten.frame]; exact hqueue), hwritten.slot]
  refine ⟨?_, hwritten.slot, hkeyIn, fun j hj => ?_, hbusy, ?_⟩
  · rw [hwritten.frame, hu]
    rfl
  · exact (hothers j hj).trans (congrArg (kget emptySlot · j) hslots)
  · rw [← hout]
    rfl

/-- A message whose command has begun a RETIRE leaves the command open. -/
theorem doKeyMsg_retires {u t : State} (h : serveKeyMsg km (messageQueued km s) = commandAnswered km t)
    (hretires : SlotRetires (msgSlot km) u t) (hslots : u.crypt.slots = s.crypt.slots) (hout : u.out = s.out) :
    (doKeyMsg km s).crypt.busy = true ∧ (doKeyMsg km s).crypt.msgOpen = true ∧ (doKeyMsg km s).crypt.openSlot = msgSlot km ∧
    slotAt (doKeyMsg km s) (msgSlot km) = { slotAt s (msgSlot km) with state := .retiring } ∧ (doKeyMsg km s).out = s.out := by
  have hstays : commandAnswered km t = { t with crypt := { t.crypt with msgOpen := true } } := if_pos hretires.busy
  rw [doKeyMsg_alone hup hgerm hidle hwaits hopen (.inr (by rw [h, hstays]; exact hretires.busy)), h, hstays]
  have hslot : slotAt u (msgSlot km) = slotAt s (msgSlot km) := congrArg (kget emptySlot · (msgSlot km)) hslots
  exact ⟨hretires.busy, rfl, hretires.openSlot, hslot ▸ hretires.slot, hretires.out.trans hout⟩

/-- A QUERY changes the load port's registers alone, and is answered with the slot's state and class. -/
theorem doKeyMsg_queried
    (h : serveKeyMsg km (messageQueued km s) = commandAnswered km (msgRun km 5 (messageQueued km s))) :
    doKeyMsg km s = { s with crypt := (doKeyMsg km s).crypt, regs := (doKeyMsg km s).regs, out := (doKeyMsg km s).out } ∧
    (doKeyMsg km s).crypt.slots = s.crypt.slots ∧ (doKeyMsg km s).crypt.copies = s.crypt.copies ∧
    (doKeyMsg km s).out = s.out ++ [.keyAnswer km.port km.link (answerBytes km 0 (slotAt s (msgSlot km)))] := by
  rw [msgRun_query, slotRun_query] at h
  rw [doKeyMsg_success hup hgerm hidle hwaits hopen h rfl rfl rfl]
  exact ⟨rfl, rfl, rfl, rfl⟩

end Alone

/-! ## The commands of messages -/

section Commands
variable {m : KeyMsg} {s : State} (hregs : ksorted s.regs = true) (hformed : msgWellFormed m = true)
  (hmask : subMask (msgMask m) (keyRec s (msgSlot m)).allowed = true)
include hregs hformed hmask

theorem msgRun_load_writes (hstate : (slotAt s (msgSlot m)).state = .empty) (hhost : (keyRec s (msgSlot m)).host = true)
    (hkey : (msgKey m).all (· = 0) = false) :
    SlotWritten (msgSlot m) ⟨deliveredKey s.crypt.salt (BitVec.ofNat 256 (bytesToNatBE (msgKey m))),
        subkey (deliveredKey s.crypt.salt (BitVec.ofNat 256 (bytesToNatBE (msgKey m)))), msgByte m 4, msgMask m, .loaded⟩
      (policyWritten 2 (msgSlot m) (msgByte m 4) (msgMask m) (keyWritten m s)) (msgRun m 2 s) := by
  let u := policyWritten 2 (msgSlot m) (msgByte m 4) (msgMask m) (keyWritten m s)
  have hu : ksorted (keyWritten m s).regs = true := hregs
  have hmaskReg : regGet u offSlotMask = msgMask m := regGet_policyWritten_mask hu
  have hcls : regField u offSlotPolicy 0 3 = msgByte m 4 := regField_policyWritten_cls hu (msgWellFormed_class hformed)
  have hvalue : keyInValue u = BitVec.ofNat 256 (bytesToNatBE (msgKey m)) := keyInValue_keyWritten hformed s
  have hnonzero := keyValue_ne_zero (msgKey_length hformed) hkey
  have hrun := slotRun_loadKey (s := u) (i := msgSlot m) hstate hhost (by rw [hmaskReg]; exact hmask) (by rw [hvalue]; exact hnonzero)
  rw [hmaskReg, hcls, hvalue] at hrun
  rw [msgRun_load]
  exact hrun

theorem msgRun_policy_writes (hstate : (slotAt s (msgSlot m)).state = .loaded) :
    SlotWritten (msgSlot m) { slotAt s (msgSlot m) with cls := msgByte m 4, mask := msgMask m }
      (policyWritten 3 (msgSlot m) (msgByte m 4) (msgMask m) s) (msgRun m 3 s) := by
  let u := policyWritten 3 (msgSlot m) (msgByte m 4) (msgMask m) s
  have hmaskReg : regGet u offSlotMask = msgMask m := regGet_policyWritten_mask hregs
  have hcls : regField u offSlotPolicy 0 3 = msgByte m 4 := regField_policyWritten_cls hregs (msgWellFormed_class hformed)
  have hrun := slotRun_setPolicy (s := u) (i := msgSlot m) hstate (by rw [hmaskReg]; exact hmask)
  rw [hmaskReg, hcls] at hrun
  rw [msgRun_policy]
  exact hrun

end Commands

theorem msgRun_retire_opens {m : KeyMsg} {s : State} (hstate : (slotAt s (msgSlot m)).state = .loaded) :
    SlotRetires (msgSlot m) (regSet offSlotCmd (place 60 4 ||| place 32 (msgSlot m)) s) (msgRun m 4 s) := by
  rw [msgRun_retire]
  exact slotRun_retire hstate

/-! ## The statement -/

/-- Settles O27. Germ serves the message alone: the checks of R123 refuse it one after the other, or its command writes the slot,
opens a RETIRE, or reads the slot. -/
theorem keyMessages : Obligations.KeyMessages := by
  unfold Obligations.KeyMessages
  intro km s hup hgerm hidle hwaits hopen hordered
  have hregs := tablesOrdered_regs hordered
  refine ⟨?_, ?_, ?_, ?_⟩
  · exact fun hsecured c hc =>
      (exec_keyMessage s hc).trans (congrArg _ (doKeyMsg_unsecured hup hgerm hidle hwaits hopen hsecured))
  · intro hsecured hformed c hc
    obtain ⟨free, rest, -, heq⟩ := doKeyMsg_refused hup hgerm hidle hwaits hopen (by decide)
      (serveKeyMsg_malformed (s := messageQueued km s) hsecured hformed)
    exact completes_of_next ((exec_keyMessage s hc).trans (congrArg _ heq)) ⟨rfl, raise_cause, rest, rfl⟩
  · exact fun hsecured hformed hmgr c => completes_of_refusal hup hgerm hidle hwaits hopen (by decide)
      (serveKeyMsg_notManager hsecured hformed hmgr)
  · intro hsecured hformed hmgr
    refine ⟨?_, ?_, ?_, ?_, ?_, ?_, ?_⟩
    · exact fun hkind c => completes_of_refusal hup hgerm hidle hwaits hopen (by decide)
        (serveKeyMsg_wrongKind hsecured hformed hmgr hkind)
    · exact fun hop hhost hmask c => completes_of_refusal hup hgerm hidle hwaits hopen (by decide)
        (serveKeyMsg_notAllowed hsecured hformed hmgr hop hhost hmask)
    · intro hop hhost hmask hkey hstate
      have hserve := serveKeyMsg_runs (s := messageQueued km s) hsecured hformed hmgr (fun _ => ⟨hhost, hkey⟩) (by simp [hop])
        (fun _ => hmask)
      rw [hop] at hserve
      have hwrites := msgRun_load_writes (s := messageQueued km s) hregs hformed hmask hstate hhost hkey
      obtain ⟨hframe, hslot, hkeyIn, hothers, hbusy, hout⟩ := doKeyMsg_written hup hgerm hidle hwaits hopen hserve hwrites rfl rfl rfl
      refine completes_of_next rfl ⟨hframe, hslot, hkeyIn, hothers, hbusy, ?_⟩
      rw [hout, answerBytes, hop]
      rfl
    · intro hop hstate
      have hserve := serveKeyMsg_runs (s := messageQueued km s) hsecured hformed hmgr (by simp [hop]) (by simp [hop]) (by simp [hop])
      rw [hop] at hserve
      exact completes_of_next rfl
        (doKeyMsg_retires hup hgerm hidle hwaits hopen hserve (msgRun_retire_opens (s := messageQueued km s) hstate) rfl rfl)
    · intro hop hdevice hmask hstate
      have hserve := serveKeyMsg_runs (s := messageQueued km s) hsecured hformed hmgr (by simp [hop]) (fun _ => hdevice)
        (fun _ => hmask)
      rw [hop] at hserve
      exact completes_of_next rfl
        (doKeyMsg_retires hup hgerm hidle hwaits hopen hserve (msgRun_retire_opens (s := messageQueued km s) hstate) rfl rfl)
    · intro hop hmask hstate
      have hserve := serveKeyMsg_runs (s := messageQueued km s) hsecured hformed hmgr (by simp [hop]) (by simp [hop])
        (fun _ => hmask)
      rw [hop] at hserve
      have hwrites := msgRun_policy_writes (s := messageQueued km s) hregs hformed hmask hstate
      obtain ⟨hframe, hslot, -, -, -, hout⟩ := doKeyMsg_written hup hgerm hidle hwaits hopen hserve hwrites rfl rfl rfl
      refine completes_of_next rfl ⟨hframe, hslot, ?_⟩
      rw [hout, answerBytes, hop]
      have hloaded : (slotAt (messageQueued km s) (msgSlot km)).state = .loaded := hstate
      simp only [hloaded]
      rfl
    · intro hop
      have hserve := serveKeyMsg_runs (s := messageQueued km s) hsecured hformed hmgr (by simp [hop]) (by simp [hop]) (by simp [hop])
      rw [hop] at hserve
      obtain ⟨hframe, hslots, hcopies, hout⟩ := doKeyMsg_queried hup hgerm hidle hwaits hopen hserve
      refine completes_of_next rfl ⟨hframe, hslots, hcopies, ?_⟩
      rw [hout, answerBytes, hop]
      cases (slotAt s (msgSlot km)).state <;> rfl

end Sys2Proof.Machine

/-! # A refill of the stocks at a home whose forwarding is done and names no page (R184, R185) -/

namespace Sys2Proof.Machine

/-- A recompression of block 0 of the packed page at 0x4C40000000, for the write of transaction 33. -/
def recompression : Job := ⟨8, .block 0 33, 0x4C40000000, 0xA7, [[]], [[]], []⟩

/-- The forwarding of that page, marked done although no plain page was taken for it. -/
def doneWithoutPage : Forward := ⟨0x4C40000000, 33, none, true, 0x13, 0x8000000000, 0xA7, [], none⟩

/-- Germ runs and home 0 has nothing but that job and that forwarding: its stocks and its release ring are empty. -/
def refillBesideDone : State :=
  { State.reset with
    fw := { State.reset.fw with germUp := true }
    spks := State.reset.spks.set 0 { State.reset.spks[0] with jobs := [recompression], forwards := [doneWithoutPage] } }

/-- The forwarding starts again: it is waiting for a page of the promotion stock, and done no more. -/
theorem stockRefill_restarts_doneWithoutPage :
    ∀ f ∈ (allSettle (doStockRefill 0 refillBesideDone)).spks[0].forwards, f.done = false := by
  decide +kernel

/-- Refutes O29 in its clause on STOCK_REFILL, which says that with an empty release ring the home changes in its two stocks alone.
It asks that every forwarding of the home be done, to say that none waits on a stock; the refill goes by the page, and starts each
forwarding that names none again for the job of its transaction, a done one too. The clause speaks of every state; that a run
reaches this one is not claimed. -/
theorem not_pageJobsStocksAndPools : ¬ Obligations.PageJobsStocksAndPools := by
  unfold Obligations.PageJobsStocksAndPools
  rintro ⟨-, hrefill, -⟩
  obtain ⟨t, ht, -, -, hframe⟩ := hrefill 0 refillBesideDone (by decide +kernel) rfl rfl (by decide +kernel) (by decide +kernel)
    (by decide +kernel)
  obtain ⟨-, -, hhome, -⟩ := hframe rfl
  have hkept : t.spks[0].forwards = [doneWithoutPage] := congrArg Spk.forwards hhome
  have hrestarted := stockRefill_restarts_doneWithoutPage
  rw [show allSettle (doStockRefill 0 refillBesideDone) = t from Host.Outcome.next.inj ht, hkept] at hrestarted
  exact absurd (hrestarted doneWithoutPage (List.mem_singleton_self _)) (by decide)

end Sys2Proof.Machine

/-! # What work at the homes, the ports and in memory leaves to Germ (R188, R191, R365, R404, R424) -/

namespace Sys2Proof.Machine

-- These proofs are checked one after the other, as those of `Evolves` are.
set_option Elab.async false

/-- What Germ alone changes: its moves, holds and retired pages, an open reload, the ring of the gate queue, a promotion, the
state of its firmware, and the step of a power sequence. -/
structure GermSide where
  moves : List Move
  holders : List (Nat × HoldOwner)
  retired : List Nat
  bring : Bringup
  slots : KMap (BitVec 256)
  gateHead : Nat
  gateTail : Nat
  promotion : Promotion
  fw : Firmware
  step : Nat

def germSide (s : State) : GermSide :=
  ⟨s.tier.moves, s.tier.holders, s.tier.retired, s.bring, s.queue.slots, s.queue.gateHead, s.queue.gateTail, s.pair.promotion,
    s.fw, s.pwr.step⟩

/-- The proposal in a slot is ACCEPTED and of a KIND that work on a page or at a port ends: RETIRE_PAGE, PORT_ENABLE or
PORT_DISABLE. -/
def Ends (s : State) (i : Nat) : Prop :=
  (verdictAt s i).used = true ∧ (verdictAt s i).status = 1 ∧ propField (slotBits s i) 0 2 ∈ [3, 5, 6]

/-- Nothing at a port waits for a completion, but the end of a drain. -/
structure PortRests (o : Port) : Prop where
  invBusy : o.invBusy = false
  keyMarker : o.keyMarker = false
  bis : ∀ b ∈ o.bis, b.conflict = false
  reqs : ∀ r ∈ o.reqs, r.stage ≠ .ingress

/-- No transaction of a home carries a control parity error. -/
def GoodTxns (xs : List Txn) : Prop := ∀ x ∈ xs, x.msg.req.par = .good

def Peaceful (s : State) : Prop := ∀ k : Fin 8, GoodTxns s.spks[k].txns

/-- `t` comes of `s` by work at the homes, the ports and in memory: Germ's own side is as it was, no proposal ends but one that
such work ends, and a port at rest stays so. Where `F` holds no forwarding of a page has changed; where `S` holds and no
transaction carries an error, no port has changed its state. -/
structure Works (F S : Prop) (s t : State) : Prop where
  germSide : germSide t = germSide s
  power : s.pwr.state ≠ .idle → t.pwr.state = s.pwr.state
  verdicts : ∀ i, ¬ Ends s i → verdictAt t i = verdictAt s i
  ports : (∀ p : Fin 4, PortRests s.ports[p]) → ∀ p : Fin 4, PortRests t.ports[p]
  peaceful : Peaceful s → Peaceful t
  forwards : F → ∀ k : Fin 8, t.spks[k].forwards = s.spks[k].forwards
  states : S → Peaceful s → ∀ p : Fin 4, t.ports[p].state = s.ports[p].state

/-! ## Requests and transactions -/

theorem GoodTxns.filter {xs : List Txn} (h : GoodTxns xs) (f : Txn → Bool) : GoodTxns (xs.filter f) :=
  fun x hx => h x (List.mem_filter.1 hx).1

theorem GoodTxns.map {xs : List Txn} (h : GoodTxns xs) {f : Txn → Txn} (hf : ∀ x, (f x).msg.req.par = x.msg.req.par) :
    GoodTxns (xs.map f) := by
  intro x hx
  obtain ⟨y, hy, rfl⟩ := List.mem_map.1 hx
  rw [hf]
  exact h y hy

theorem Peaceful.txnOf {s : State} (h : Peaceful s) {k : Fin 8} {tid : Nat} {t : Txn} (ht : txnOf s k tid = some t) :
    t.msg.req.par = .good := h k t (List.mem_of_find?_eq_some ht)

/-- Requests leave a port at rest, or go on in it. -/
theorem PortRests.setReqs {o o' : Port} (h : PortRests o)
    (hreqs : ∀ r ∈ o'.reqs, ∃ x ∈ o.reqs, r.stage = x.stage ∨ r.stage ≠ .ingress)
    (hinv : o'.invBusy = o.invBusy := by rfl) (hmarker : o'.keyMarker = o.keyMarker := by rfl) (hbis : o'.bis = o.bis := by rfl) :
    PortRests o' where
  invBusy := hinv.trans h.invBusy
  keyMarker := hmarker.trans h.keyMarker
  bis b hb := h.bis b (hbis ▸ hb)
  reqs r hr := by
    obtain ⟨x, hx, he | hne⟩ := hreqs r hr
    · exact he ▸ h.reqs x hx
    · exact hne

/-! ## Verdicts -/

theorem verdictAt_setVerdict_same (i status reason detail : Nat) (s : State) :
    verdictAt (setVerdict i status reason detail s) i = ⟨status, reason, detail, (verdictAt s i).id, s.dtime, true⟩ :=
  kget_kset_ne (by simp [Verdict.init])

theorem verdictAt_setVerdict_other {i j : Nat} (h : j ≠ i) (status reason detail : Nat) (s : State) :
    verdictAt (setVerdict i status reason detail s) j = verdictAt s j :=
  kget_kset_of_ne (by simp [Verdict.init]) h _

theorem mem_acceptedSlots {s : State} {kind i : Nat} (h : i ∈ acceptedSlots s kind) :
    (verdictAt s i).used = true ∧ (verdictAt s i).status = 1 ∧ propField (slotBits s i) 0 2 = kind := by
  have hall := (List.mem_filter.1 h).2
  simp only [Bool.and_eq_true, decide_eq_true_eq] at hall
  exact ⟨hall.1.1, hall.1.2, hall.2⟩

/-- What ends the proposals of some slots leaves the verdict of every other. -/
theorem verdictAt_foldl_setVerdict {is : List Nat} {j status reason : Nat} (hj : j ∉ is) (s : State) :
    verdictAt (is.foldl (fun t i => setVerdict i status reason 0 t) s) j = verdictAt s j := by
  induction is generalizing s with
  | nil => rfl
  | cons i is ih =>
    rw [List.mem_cons, not_or] at hj
    rw [List.foldl_cons, ih hj.2, verdictAt_setVerdict_other hj.1]

namespace Works

variable {F S : Prop} {σ s t u : State}

/-! ## A preorder -/

@[refl] theorem refl (s : State) : Works F S s s := ⟨rfl, fun _ => rfl, fun _ _ => rfl, id, id, fun _ _ => rfl, fun _ _ _ => rfl⟩

section Fields
variable (h : Works F S s t)
include h

theorem moves : t.tier.moves = s.tier.moves := congrArg GermSide.moves h.germSide
theorem holders : t.tier.holders = s.tier.holders := congrArg GermSide.holders h.germSide
theorem retired : t.tier.retired = s.tier.retired := congrArg GermSide.retired h.germSide
theorem bring : t.bring = s.bring := congrArg GermSide.bring h.germSide
theorem slots : t.queue.slots = s.queue.slots := congrArg GermSide.slots h.germSide
theorem gateHead : t.queue.gateHead = s.queue.gateHead := congrArg GermSide.gateHead h.germSide
theorem gateTail : t.queue.gateTail = s.queue.gateTail := congrArg GermSide.gateTail h.germSide
theorem promotion : t.pair.promotion = s.pair.promotion := congrArg GermSide.promotion h.germSide
theorem fw : t.fw = s.fw := congrArg GermSide.fw h.germSide
theorem pwrStep : t.pwr.step = s.pwr.step := congrArg GermSide.step h.germSide

/-- A proposal that no such work ends is still one. -/
theorem not_ends {i : Nat} (hi : ¬ Ends s i) : ¬ Ends t i := by rwa [Ends, h.verdicts i hi, slotBits, h.slots]

end Fields

theorem trans (h : Works F S s t) (k : Works F S t u) : Works F S s u where
  germSide := k.germSide.trans h.germSide
  power hs := (k.power (by rwa [h.power hs])).trans (h.power hs)
  verdicts i hi := (k.verdicts i (h.not_ends hi)).trans (h.verdicts i hi)
  ports := k.ports ∘ h.ports
  peaceful := k.peaceful ∘ h.peaceful
  forwards hF i := (k.forwards hF i).trans (h.forwards hF i)
  states hS hs p := (k.states hS (h.peaceful hs) p).trans (h.states hS hs p)

/-- The forwardings and the ports' states may be set aside. -/
theorem weaken (h : Works F S s t) : Works False False s t :=
  ⟨h.germSide, h.power, h.verdicts, h.ports, h.peaceful, False.elim, False.elim⟩

/-- A change beside Germ's side, the ports and the homes. -/
theorem beside (hs : Works F S σ s) (hgerm : Machine.germSide t = Machine.germSide s := by rfl)
    (hverdicts : t.queue.verdicts = s.queue.verdicts := by rfl) (hports : t.ports = s.ports := by rfl)
    (hspks : t.spks = s.spks := by rfl) (hpower : t.pwr.state = s.pwr.state := by rfl) : Works F S σ t :=
  hs.trans {
    germSide := hgerm
    power := fun _ => hpower
    verdicts := fun i _ => by rw [verdictAt, verdictAt, hverdicts]
    ports := by rw [hports]; exact id
    peaceful := by unfold Peaceful; rw [hspks]; exact id
    forwards := fun _ k => by rw [hspks]
    states := fun _ _ p => by rw [hports] }

theorem ite {c : Prop} [Decidable c] (h : Works F S σ s) (k : Works F S σ t) : Works F S σ (if c then s else t) := by
  split
  · exact h
  · exact k

theorem ite_snd {α : Type} {c : Prop} [Decidable c] {x y : α × State} (h : Works F S σ x.2) (k : Works F S σ y.2) :
    Works F S σ (if c then x else y).2 := by
  split
  · exact h
  · exact k

theorem foldl {β : Type} {f : State → β → State} {l : List β} (hs : Works F S σ s)
    (hf : ∀ u b, Works F S σ u → Works F S σ (f u b)) : Works F S σ (l.foldl f s) := by
  induction l generalizing s with
  | nil => exact hs
  | cons b l ih => exact ih (hf s b hs)

theorem foldl_fst {α β : Type} {f : State × α → β → State × α} {l : List β} {x : State × α} (hs : Works F S σ x.1)
    (hf : ∀ y b, Works F S σ y.1 → Works F S σ (f y b).1) : Works F S σ (l.foldl f x).1 := by
  induction l generalizing x with
  | nil => exact hs
  | cons b l ih => exact ih (hf x b hs)

theorem foldl_snd {α β : Type} {f : α × State → β → α × State} {l : List β} {x : α × State} (hs : Works F S σ x.2)
    (hf : ∀ y b, Works F S σ y.2 → Works F S σ (f y b).2) : Works F S σ (l.foldl f x).2 := by
  induction l generalizing x with
  | nil => exact hs
  | cons b l ih => exact ih (hf x b hs)

/-- The state that an operation answers beside its result. -/
theorem of_eq {α : Type} {x : α × State} {a : α} (h : Works F S σ x.2) (e : x = (a, u)) : Works F S σ u := by
  rw [e] at h
  exact h

/-! ## Writes of the ports, the homes and the verdicts -/

protected theorem updPort {p : Fin 4} {f : Port → Port} (hs : Works F S σ s)
    (hf : ∀ o, (PortRests o → PortRests (f o)) ∧ (S → (f o).state = o.state) := by
      exact fun _ => ⟨fun h => ⟨h.invBusy, h.keyMarker, h.bis, h.reqs⟩, fun _ => rfl⟩) : Works F S σ (updPort p f s) :=
  hs.trans {
    germSide := rfl
    power := fun _ => rfl
    verdicts := fun _ _ => rfl
    ports := fun h q => by
      rw [updPort_ports, updAt_get]
      split
      · exact (hf _).1 (h p)
      · exact h q
    peaceful := id
    forwards := fun _ _ => rfl
    states := fun hS _ q => by
      rw [updPort_ports, updAt_get]
      split
      · next e => rw [(hf _).2 hS, e]
      · rfl }

protected theorem updSpk {k : Fin 8} {f : Spk → Spk} (hs : Works F S σ s)
    (hf : ∀ q, (GoodTxns q.txns → GoodTxns (f q).txns) ∧ (F → (f q).forwards = q.forwards) := by
      exact fun _ => ⟨fun h => h, fun _ => rfl⟩) : Works F S σ (updSpk k f s) :=
  hs.trans {
    germSide := rfl
    power := fun _ => rfl
    verdicts := fun _ _ => rfl
    ports := id
    peaceful := fun h j => by
      rw [updSpk_spks, updAt_get]
      split
      · exact (hf _).1 (h k)
      · exact h j
    forwards := fun hF j => by
      rw [updSpk_spks, updAt_get]
      split
      · next e => rw [(hf _).2 hF, e]
      · rfl
    states := fun _ _ _ => rfl }

protected theorem endAccepted {kind status reason : Nat} {ok : BitVec 256 → Bool} (hs : Works F S σ s)
    (hkind : kind ∈ [3, 5, 6] := by decide) : Works F S σ (endAccepted kind status reason ok s) := by
  have hrest (is : List Nat) (u : State) :
      ∃ v, is.foldl (fun t i => setVerdict i status reason 0 t) u = { u with queue := { u.queue with verdicts := v } } := by
    induction is generalizing u with
    | nil => exact ⟨_, rfl⟩
    | cons i is ih =>
      obtain ⟨v, hv⟩ := ih (setVerdict i status reason 0 u)
      exact ⟨v, hv⟩
  have hothers : ∀ i, ¬ Ends s i → verdictAt (Machine.endAccepted kind status reason ok s) i = verdictAt s i := fun i hi =>
    verdictAt_foldl_setVerdict (fun hmem => by
      obtain ⟨hused, hstatus, hk⟩ := mem_acceptedSlots (List.mem_filter.1 hmem).1
      exact hi ⟨hused, hstatus, hk ▸ hkind⟩) s
  obtain ⟨v, hv⟩ := hrest _ s
  rw [Machine.endAccepted, hv] at hothers ⊢
  exact hs.trans ⟨rfl, fun _ => rfl, hothers, id, id, fun _ _ => rfl, fun _ _ _ => rfl⟩

protected theorem eachPort {f : Fin 4 → State → State} (hs : Works F S σ s) (hf : ∀ p u, Works F S σ u → Works F S σ (f p u)) :
    Works F S σ (eachPort f s) := hs.foldl fun u p => hf p u

protected theorem eachSpk {f : Fin 8 → State → State} (hs : Works F S σ s) (hf : ∀ k u, Works F S σ u → Works F S σ (f k u)) :
    Works F S σ (eachSpk f s) := hs.foldl fun u k => hf k u

protected theorem raise {b : Fin 40} {i : Nat} {c : Cap} (hs : Works F S σ s) : Works F S σ (raise b i c s) := hs.beside

/-- A cause that is raised on a condition. -/
theorem raiseIf {c : Prop} [Decidable c] {b : Fin 40} {i : Nat} {x : Cap} (hs : Works F S σ s) :
    Works F S σ (if c then Machine.raise b i x s else s) := .ite hs.raise hs

protected theorem disarm {b : Fin 40} {i : Nat} (hs : Works F S σ s) : Works F S σ (disarm b i s) := hs.beside

end Works

variable {F S : Prop} {σ s : State}

/-! ## Channels and counters (R211 to R215, R234, R453) -/

protected theorem Works.emit {o : Out} (hs : Works F S σ s) : Works F S σ (emit o s) := hs.beside

protected theorem Works.takeSeq (hs : Works F S σ s) : Works F S σ (takeSeq s).2 := by
  unfold takeSeq
  dsimp only
  exact hs.beside

protected theorem Works.drawChoice {n : Nat} (hs : Works F S σ s) : Works F S σ (drawChoice n s).2 := by
  unfold drawChoice
  dsimp only
  exact hs.beside

protected theorem Works.perfAdd {fuel n amount : Nat} (hs : Works F S σ s) : Works F S σ (perfAdd fuel n amount s) := by
  induction fuel generalizing n amount s with
  | zero => exact hs
  | succ fuel ih => exact .ite hs.beside (.ite (ih hs.beside) hs.beside.raise)

protected theorem Works.perfEvent {first count event amount : Nat} {cls : Option Nat} (hs : Works F S σ s) :
    Works F S σ (perfEvent first count event amount cls s) := .ite hs (hs.foldl fun _ _ h => .ite h.perfAdd h)

protected theorem Works.perfSpk {k : Fin 8} {event amount : Nat} {cls : Option Nat} (hs : Works F S σ s) :
    Works F S σ (perfSpk k event amount cls s) := hs.perfEvent

protected theorem Works.perfPort {p : Fin 4} {event amount : Nat} {cls : Option Nat} (hs : Works F S σ s) :
    Works F S σ (perfPort p event amount cls s) := hs.perfEvent

protected theorem Works.perfMc {x : Fin 16} {event amount : Nat} {cls : Option Nat} (hs : Works F S σ s) :
    Works F S σ (perfMc x event amount cls s) := hs.perfEvent

protected theorem Works.updMc {x : Fin 16} {f : Mc → Mc} (hs : Works F S σ s) : Works F S σ (updMc x f s) := hs.beside

protected theorem Works.ungate {d : Nat} (hs : Works F S σ s) : Works F S σ (ungate d s) :=
  .ite (hs.trans ⟨rfl, fun h => if_neg h, fun _ _ => rfl, id, id, fun _ _ => rfl, fun _ _ _ => rfl⟩) hs

protected theorem Works.dramSet {a : Nat} {v : Image} (hs : Works F S σ s) : Works F S σ (dramSet a v s) := hs.beside

protected theorem Works.firstSlice {x : Fin 16} {row : Nat} (hs : Works F S σ s) : Works F S σ (firstSlice x row s).2 := by
  unfold firstSlice
  dsimp only
  exact (hs.foldl fun _ _ h => h.emit).updMc.perfMc

protected theorem Works.dueSlice {x : Fin 16} {row : Nat} (hs : Works F S σ s) : Works F S σ (dueSlice x row s).2 := by
  unfold dueSlice
  refine ite_snd ?_ ?_
  · dsimp only
    exact hs.updMc
  · exact hs.firstSlice

protected theorem Works.activateRows {fuel : Nat} {x : Fin 16} {rows : List Nat} (hs : Works F S σ s) :
    Works F S σ (activateRows fuel x rows s) := by
  induction fuel generalizing rows s with
  | zero => exact hs.updMc
  | succ fuel ih =>
    cases rows with
    | nil => exact hs
    | cons r rows =>
      unfold activateRows
      dsimp only
      split
      · split
        · exact ih hs.perfMc.updMc.dueSlice
        · exact ih hs.perfMc.updMc
      · split
        · exact ih hs.perfMc.updMc
        · exact ih hs.perfMc.updMc.raise.dueSlice

protected theorem Works.activate {m : Nat} (hs : Works F S σ s) : Works F S σ (activate m s) := by
  unfold activate
  dsimp only
  exact .ite hs.updMc hs.updMc.ungate.activateRows

protected theorem Works.writeLine {m : Nat} {img : Image} (hs : Works F S σ s) :
    Works F S σ (writeLine m img s) := .ite hs (.ite hs.updMc.updMc hs.updMc.activate.perfMc.dramSet)

protected theorem Works.logError {x : Fin 16} {kind device p : Nat} {c : Coord} {m : Nat} (hs : Works F S σ s) :
    Works F S σ (logError x kind device p c m s) := hs.updMc

protected theorem Works.callSpare {x : Fin 16} {r : Nat} (hs : Works F S σ s) :
    Works F S σ (callSpare x r s) := .ite hs (.ite hs.raise hs.updMc)

protected theorem Works.countUe {x : Fin 16} {r : Nat} (hs : Works F S σ s) :
    Works F S σ (countUe x r s) := .ite hs.updMc.callSpare hs.updMc

protected theorem Works.busImage {x : Fin 16} {key : Nat} {held : Option Image} {noise : Image} (hs : Works F S σ s) :
    Works F S σ (busImage x key held noise s).2 := by
  unfold busImage
  dsimp only
  refine ite_snd ?_ ?_
  · dsimp only
    exact hs.disarm
  · refine ite_snd ?_ ?_
    · dsimp only
      exact hs.disarm
    · exact hs

protected theorem Works.readLine {m : Nat} {awn : Bool} {noise : Image} {who : Reader} {cap : Cap} (hs : Works F S σ s) :
    Works F S σ (readLine m awn noise who cap s).2 := by
  unfold readLine
  dsimp only
  split
  · dsimp only
    exact .ite hs.activate.perfMc.busImage.updMc hs.activate.perfMc.busImage
  · dsimp only
    exact (Works.ite hs.activate.perfMc.busImage.updMc hs.activate.perfMc.busImage).updMc.raise.logError
  · dsimp only
    exact (Works.ite hs.activate.perfMc.busImage.updMc hs.activate.perfMc.busImage).raise.countUe.logError
  · dsimp only
    exact (Works.ite hs.activate.perfMc.busImage.updMc hs.activate.perfMc.busImage).raise.countUe.logError

/-! ## The culm tree (R136 to R141) -/

protected theorem Works.setCulm {a : Nat} {l : CulmLine} (hs : Works F S σ s) : Works F S σ (setCulm a l s) := hs.updSpk

protected theorem Works.dropCulm {a : Nat} (hs : Works F S σ s) : Works F S σ (dropCulm a s) := hs.updSpk

protected theorem Works.touch {a : Nat} (hs : Works F S σ s) : Works F S σ (touch a s) := by
  unfold touch
  dsimp only
  split
  · exact hs.setCulm.beside
  · exact hs

protected theorem Works.putHeld {kind : CulmKind} {a : Nat} {d : Line} (hs : Works F S σ s) :
    Works F S σ (putHeld kind a d s) := by
  unfold putHeld
  dsimp only
  split
  · exact .ite hs hs.setCulm
  · exact hs.setCulm

protected theorem Works.putNode {c m : Nat} {n : Line} (hs : Works F S σ s) :
    Works F S σ (putNode c m n s) := .ite hs.beside hs.putHeld

protected theorem Works.retireSpan {lo size : Nat} (hs : Works F S σ s) :
    Works F S σ (retireSpan lo size s) := hs.beside.eachSpk (fun _ _ h => h.updSpk)

protected theorem Works.failNode {c m a : Nat} (hs : Works F S σ s) :
    Works F S σ (failNode c m a s) := hs.updSpk.retireSpan.raise

protected theorem Works.retagChild {c m : Nat} {old new : Ctr} (hs : Works F S σ s) :
    Works F S σ (retagChild c m old new s) := by
  unfold retagChild
  dsimp only
  split
  · exact hs.putHeld
  · split
    · exact .ite hs.readLine.writeLine hs.readLine.failNode
    · exact hs.readLine.failNode

protected theorem Works.bumpParent {c m : Nat} (hs : Works F S σ s) : Works F S σ (bumpParent c m s) := by
  unfold bumpParent
  dsimp only
  split
  · exact hs
  · exact .ite hs.putNode (hs.putNode.raise.updSpk.foldl fun _ _ h => h.retagChild)

protected theorem Works.fetchOps {kind : CulmKind} {a : Nat} {noise : Image} (hs : Works F S σ s) :
    Works F S σ (fetchOps kind a noise s).2 := by
  unfold fetchOps
  dsimp only
  split
  · split
    · exact ite_snd hs.perfSpk.readLine hs.perfSpk.readLine.failNode
    · exact hs.perfSpk.readLine
    · exact hs.perfSpk.readLine.failNode
  · split
    · exact hs.perfSpk.readLine
    · exact hs.perfSpk.readLine

protected theorem Works.culmStep {cls : Nat} {op : CulmOp} (hs : Works F S σ s) : Works F S σ (culmStep cls op s).2 := by
  unfold culmStep
  dsimp only
  split
  · refine ite_snd hs ?_
    split
    · dsimp only
      exact hs.perfSpk.touch
    · exact hs
  · split
    · exact hs.fetchOps
    · exact hs
  · split
    · dsimp only
      exact hs.perfSpk.touch
    · exact hs.fetchOps
  · refine ite_snd ?_ ?_
    · dsimp only
      exact hs.setCulm
    · split
      · split
        · refine ite_snd ?_ ?_
          · exact ite_snd hs hs
          · dsimp only
            exact hs.dropCulm
        · exact hs
      · dsimp only
        exact hs.setCulm.beside
  · split
    · refine ite_snd hs ?_
      split
      · dsimp only
        exact hs.touch
      · exact hs
    · exact hs
  · dsimp only
    exact hs.bumpParent
  · split
    · dsimp only
      exact hs.setCulm.writeLine
    · exact hs
  · dsimp only
    exact hs.dropCulm

protected theorem Works.culmRun {fuel cls : Nat} {ops : List CulmOp} (hs : Works F S σ s) :
    Works F S σ (culmRun fuel cls ops s) := by
  induction fuel generalizing ops s with
  | zero => exact hs
  | succ fuel ih =>
    cases ops with
    | nil => exact hs
    | cons op ops => exact ih hs.culmStep

protected theorem Works.holdPath {cls m : Nat} (hs : Works F S σ s) : Works F S σ (holdPath cls m s) := hs.culmRun

/-! ## Data at its home (R124, R140, R147 to R151, R178) -/

protected theorem Works.setPkt {m : Nat} {k : Option Nat} (hs : Works F S σ s) : Works F S σ (setPkt m k s) := by
  unfold setPkt
  dsimp only
  split
  · exact hs.putHeld
  · exact hs

protected theorem Works.setTagSlot {m : Nat} {t : BitVec 64} (hs : Works F S σ s) : Works F S σ (setTagSlot m t s) := by
  unfold setTagSlot
  dsimp only
  split
  · split
    · exact hs.putHeld
    · exact hs
  · exact hs

protected theorem Works.putLeaf {m : Nat} {n : Line} (hs : Works F S σ s) : Works F S σ (putLeaf m n s) := hs.putHeld

protected theorem Works.readData {m : Nat} {a : Acc} {noise : Image} (hs : Works F S σ s) :
    Works F S σ (readData m a noise s).2 := by
  unfold readData
  dsimp only
  refine ite_snd hs ?_
  split
  · exact hs
  · split
    · exact hs.readLine
    · exact hs.readLine
    · exact hs.readLine
    · refine ite_snd (.ite hs.readLine.perfSpk hs.readLine) (ite_snd (.ite hs.readLine.perfSpk hs.readLine) ?_)
      split
      · exact .ite hs.readLine.perfSpk hs.readLine
      · exact .ite hs.readLine.perfSpk hs.readLine

protected theorem Works.readCause {m : Nat} {a : Acc} {r : ReadRes} (hs : Works F S σ s) : Works F S σ (readCause m a r s) := by
  unfold readCause
  split
  · exact hs.raise
  · exact hs.raise
  · exact hs.raise
  · exact hs

protected theorem Works.holdSlot {cls m : Nat} (hs : Works F S σ s) : Works F S σ (holdSlot cls m s) := by
  unfold holdSlot
  split
  · exact .ite hs hs.culmRun
  · exact hs

protected theorem Works.storeLine {cls m : Nat} {awn : Bool} {c : Ctr} {n : NewLine} {blank : Bool} (hs : Works F S σ s) :
    Works F S σ (storeLine cls m awn c n blank s) := by
  unfold storeLine
  dsimp only
  split
  · exact hs.writeLine
  · refine .writeLine ?_
    split
    · exact hs.holdSlot.setTagSlot
    · exact .ite hs.perfSpk hs

protected theorem Works.moveCause {m : Nat} {a : Acc} {r : ReadRes} (hs : Works F S σ s) :
    Works F S σ (moveCause m a r s) := .ite hs hs.readCause

protected theorem Works.reencRead {m : Nat} {a : Acc} (hs : Works F S σ s) : Works F S σ (reencRead m a s).2 := by
  unfold reencRead
  dsimp only
  generalize hx : readData m _ 0 _ = x
  have h : Works F S σ x.2 := hx ▸ hs.holdPath.readData
  obtain ⟨r, t⟩ := x
  cases r
  case ok => exact h
  case blank => exact h
  all_goals
    dsimp only
    exact h.moveCause

protected theorem Works.reencrypt {m : Nat} {a : Acc} {n : NewLine} (hs : Works F S σ s) : Works F S σ (reencrypt m a n s) := by
  unfold reencrypt
  dsimp only
  split
  · exact hs
  · refine .raise ?_
    refine .updSpk ?_
    refine .foldl ?_ (fun _ _ h => h.storeLine)
    refine .putLeaf ?_
    refine foldl_snd hs fun _ _ h => ?_
    dsimp only
    exact h.reencRead

protected theorem Works.writeData {m : Nat} {a : Acc} {n : NewLine} (hs : Works F S σ s) : Works F S σ (writeData m a n s) := by
  unfold writeData
  dsimp only
  refine .ite hs ?_
  split
  · exact hs
  · exact .ite hs.reencrypt hs.putLeaf.storeLine

protected theorem Works.readDesc {d : Nat} {noise : Image} (hs : Works F S σ s) : Works F S σ (readDesc d noise s).2 := by
  unfold readDesc
  exact hs.readData

protected theorem Works.writeDesc {d : Nat} {l : Line} (hs : Works F S σ s) : Works F S σ (writeDesc d l s) := hs.writeData

protected theorem Works.fillPage {p key : Nat} {awn : Bool} {ls : List PageLine} (hs : Works F S σ s) :
    Works F S σ (fillPage p key awn ls s) := by
  unfold fillPage
  dsimp only
  refine hs.foldl fun _ _ h => ?_
  split
  · exact h
  · exact h.holdPath.writeData
  · exact h.holdPath.writeData

protected theorem Works.readGranule {g : Nat} {a : Acc} {noise : Image} (hs : Works F S σ s) :
    Works F S σ (readGranule g a noise s).2 := by
  refine foldl_snd hs fun acc _ h => ?_
  dsimp only
  split
  · exact h
  · split
    · exact h.holdPath.readData
    · exact h.holdPath.readData.readCause

protected theorem Works.readBlock {k : Fin 8} {d : Line} {b : Nat} {a : Acc} {noise : Image} (hs : Works F S σ s) :
    Works F S σ (readBlock k d b a noise s).2 := by
  unfold readBlock
  dsimp only
  split
  · exact hs
  · have hgs : ∀ gs : List Nat, Works F S σ (gs.foldl (fun (acc : Option (List Byte) × State) g =>
        match acc.1 with
        | none => acc
        | some bs =>
          let (r, t) := Machine.readGranule g a (if bs.isEmpty then noise else 0) acc.2
          (r.map (bs ++ ·), t)) (some [], s)).2 := fun gs => by
      refine foldl_snd hs fun acc _ h => ?_
      dsimp only
      split
      · exact h
      · exact h.readGranule
    split
    · exact (hgs _).updSpk
    · split
      · exact .ite (hgs _).updSpk.disarm (hgs _).updSpk
      · exact (Works.ite (hgs _).updSpk.disarm (hgs _).updSpk).raise
      · exact (Works.ite (hgs _).updSpk.disarm (hgs _).updSpk).raise

/-! ## The remap table (R68 to R77, R177) -/

protected theorem Works.readEntry {a master : Nat} {noise : Image} (hs : Works F S σ s) :
    Works F S σ (readEntry a master noise s).2 := by
  unfold readEntry
  dsimp only
  split
  · dsimp only
    exact hs.holdPath.readData
  · dsimp only
    exact hs.holdPath.readData.readCause

protected theorem Works.writeEntry {a : Nat} {v : Word} (hs : Works F S σ s) : Works F S σ (writeEntry a v s) := by
  unfold writeEntry
  dsimp only
  split
  · exact hs.holdPath.readData.writeData
  · exact hs.holdPath.readData

protected theorem Works.takeTable (hs : Works F S σ s) : Works F S σ (takeTable s).2 := ite_snd hs hs.beside

protected theorem Works.tableFor {fuel ldTag dpa want level table : Nat} (hs : Works F S σ s) :
    Works F S σ (tableFor fuel ldTag dpa want level table s).2 := by
  induction fuel generalizing level table s with
  | zero => exact hs
  | succ fuel ih =>
    unfold tableFor
    dsimp only
    split
    · exact hs
    · split
      · next e => exact hs.readEntry.of_eq e
      · next e =>
        have h := hs.readEntry.of_eq e
        split
        · split
          · exact h
          · exact ih h
        · split
          · next e' => exact h.takeTable.of_eq e'
          · next e' => exact ih (h.takeTable.of_eq e').writeEntry

protected theorem Works.writeSlots {ldTag dpa size : Nat} {v : Word} (hs : Works F S σ s) :
    Works F S σ (writeSlots ldTag dpa size v s) := by
  unfold writeSlots
  dsimp only
  split
  · next e =>
      exact hs.tableFor.of_eq e
  · next e =>
      exact (hs.tableFor.of_eq e).foldl fun _ _ h => h.writeEntry

protected theorem Works.linkTable {first ld dpa level : Nat} (hs : Works F S σ s) :
    Works F S σ (linkTable first ld dpa level s) := by
  unfold linkTable
  dsimp only
  split
  · next e =>
      exact hs.tableFor.of_eq e
  · next e =>
      split
      · next e' =>
          exact (hs.tableFor.of_eq e).tableFor.of_eq e'
      · next e' =>
          split
          · next e₃ =>
              exact .ite (((hs.tableFor.of_eq e).tableFor.of_eq e').readEntry.of_eq e₃)
                  (((hs.tableFor.of_eq e).tableFor.of_eq e').readEntry.of_eq e₃).writeEntry
          · next e'2 =>
              exact ((hs.tableFor.of_eq e).tableFor.of_eq e').readEntry.of_eq e'2

protected theorem Works.writeMapping {r : Region} {dpa size : Nat} {v : Word} (hs : Works F S σ s) :
    Works F S σ (writeMapping r dpa size v s) := by
  unfold writeMapping
  dsimp only
  split
  · exact .ite (hs.foldl fun _ _ h => h.writeSlots) (hs.writeSlots.foldl fun _ _ h => h.linkTable)
  · exact hs

protected theorem Works.lookEntry {fuel ldTag dpa level table : Nat} (hs : Works F S σ s) :
    Works F S σ (lookEntry fuel ldTag dpa level table s).2 := by
  induction fuel generalizing level table s with
  | zero => exact hs
  | succ fuel ih =>
    unfold lookEntry
    split
    · next e => exact hs.readEntry.of_eq e
    · next e =>
      have h := hs.readEntry.of_eq e
      split
      · exact h
      · split
        · exact h
        · split
          · exact h
          · exact ih h

protected theorem Works.lookLeaf {ldTag dpa : Nat} (hs : Works F S σ s) : Works F S σ (lookLeaf ldTag dpa s).2 := by
  unfold lookLeaf
  exact hs.lookEntry

protected theorem Works.pageLeaf {ldTag dpa : Nat} (hs : Works F S σ s) : Works F S σ (pageLeaf ldTag dpa s).2 := by
  unfold pageLeaf
  split
  · next e3 =>
      dsimp only
      exact hs.lookLeaf.of_eq e3
  · next e =>
      dsimp only
      exact hs.lookLeaf.of_eq e

protected theorem Works.leavesIn {fuel ldTag dpa limit : Nat} (hs : Works F S σ s) :
    Works F S σ (leavesIn fuel ldTag dpa limit s).2 := by
  induction fuel generalizing dpa s with
  | zero => exact hs
  | succ fuel ih =>
    unfold leavesIn
    split
    · exact hs
    · split
      · next e => exact ih (hs.lookLeaf.of_eq e)
      · next e => exact ih (hs.lookLeaf.of_eq e)

protected theorem Works.findBacked {m : Nat} (hs : Works F S σ s) : Works F S σ (findBacked m s).2 := by
  unfold findBacked
  split
  · exact hs
  · refine foldl_snd hs fun acc _ h => ?_
    split
    · dsimp only
      split
      · exact h.leavesIn
      · exact h.leavesIn
    · exact h

protected theorem Works.cachePtr {w : WalkPtr} (hs : Works F S σ s) : Works F S σ (cachePtr w s) := hs.beside

protected theorem Works.descend {fuel : Nat} {w : Walk} (hs : Works F S σ s) : Works F S σ (descend fuel w s).2 := by
  induction fuel generalizing w s with
  | zero => exact hs
  | succ fuel ih =>
    unfold descend
    split
    · split
      · exact hs
      · exact ih hs.cachePtr
    · exact hs

protected theorem Works.restartWalk {w : Walk} (hs : Works F S σ s) : Works F S σ (restartWalk w s).2 := by
  unfold restartWalk
  exact hs.descend

protected theorem Works.setWalk {i : Nat} {w : Walk} (hs : Works F S σ s) : Works F S σ (setWalk i w s) := hs.beside

/-! ## Free pages (R130, R184, R192 to R194) -/

protected theorem Works.judgePool {n : Fin 2} (hs : Works F S σ s) : Works F S σ (judgePool n s) := by
  unfold judgePool
  dsimp only
  refine .ite hs ?_
  split
  · exact hs.beside.raise
  · exact hs.beside.raise
  · exact hs.beside

protected theorem Works.setPool {n : Fin 2} {f : List (Nat × Nat) → List (Nat × Nat)} (hs : Works F S σ s) :
    Works F S σ (setPool n f s) := hs.beside.judgePool

protected theorem Works.allocPick {n : Fin 2} {ok : Nat → Bool} (hs : Works F S σ s) : Works F S σ (allocPick n ok s).2 := by
  unfold allocPick
  dsimp only
  refine ite_snd hs ?_
  split
  · exact hs.drawChoice.setPool
  · exact hs.beside

protected theorem Works.allocPage {n : Fin 2} (hs : Works F S σ s) : Works F S σ (allocPage n s).2 := by
  unfold allocPage
  exact hs.allocPick

protected theorem Works.takeDesc {ok : Nat → Bool} (hs : Works F S σ s) : Works F S σ (takeDesc s ok).2 := by
  unfold takeDesc
  dsimp only
  refine ite_snd hs ?_
  split
  · dsimp only
    exact hs.drawChoice.beside
  · dsimp only
    exact hs.drawChoice

protected theorem Works.returnDesc {d : Nat} (hs : Works F S σ s) : Works F S σ (returnDesc d s) := .ite hs.beside hs

protected theorem Works.returnPage {m : Nat} (hs : Works F S σ s) : Works F S σ (returnPage m s) := .ite hs.setPool hs

protected theorem Works.dropFree {m : Nat} (hs : Works F S σ s) :
    Works F S σ (dropFree m s) := ((hs.eachSpk (fun _ _ h => h.updSpk)).setPool).setPool

protected theorem Works.blankGroup {m : Nat} {awn : Bool} (hs : Works F S σ s) : Works F S σ (blankGroup m awn s) := by
  unfold blankGroup
  dsimp only
  split
  · exact hs
  · exact .ite hs (hs.putLeaf.foldl fun _ _ h => h.storeLine)

protected theorem Works.blankPage {p : Nat} {awn : Bool} (hs : Works F S σ s) : Works F S σ (blankPage p awn s) := by
  unfold blankPage
  exact hs.holdPath.blankGroup.holdPath.blankGroup.holdPath.setPkt

protected theorem Works.backPage {ldTag dpa : Nat} (hs : Works F S σ s) : Works F S σ (backPage ldTag dpa s).2 := by
  unfold Machine.backPage
  split
  · exact hs
  · next r _ =>
    have hplain {u : State} (h : Works F S σ u) : Works F S σ (match Machine.allocPage (regionPool r) u with
        | (some m, v) => (true, Machine.writeMapping r (pageBase dpa) 12 (mkLeaf 12 r.pinned false m) v)
        | (none, v) => (false, Machine.raise blkTier 4 Cap.none v)).2 := by
      split
      · next e => exact (h.allocPage.of_eq e).writeMapping
      · next e => exact (h.allocPage.of_eq e).raise
    dsimp only
    refine .ite_snd hs (.ite_snd (hplain hs) ?_)
    split
    · next e => exact (hs.takeDesc.of_eq e).holdPath.writeDesc.writeMapping
    · next e => exact .ite (hplain (hs.takeDesc.of_eq e)) (hplain (hs.takeDesc.of_eq e)).raise

protected theorem Works.walkUnbacked {i : Nat} {w : Walk} (hs : Works F S σ s) : Works F S σ (walkUnbacked i w s) := by
  unfold walkUnbacked
  dsimp only
  refine .ite hs.setWalk ?_
  split
  · next e =>
      exact (hs.backPage.of_eq e).restartWalk.setWalk
  · next e =>
      exact (hs.backPage.of_eq e).setWalk

protected theorem Works.retryWalks (hs : Works F S σ s) : Works F S σ (retryWalks s) := by
  unfold retryWalks
  refine .ite hs ?_
  refine hs.foldl fun _ _ h => ?_
  split
  · exact .ite h.walkUnbacked h
  · exact h

/-! ## Queue pairs, responses and the loss of the domain (R112, R428, R429) -/

protected theorem Works.queueTil {m : TilMsg} (hs : Works F S σ s) : Works F S σ (queueTil m s) := .ite hs.beside hs

protected theorem Works.startTimer (hs : Works F S σ s) : Works F S σ (startTimer s) := .ite hs.beside hs

protected theorem Works.openMirror {spk tid ldTag dpa : Nat} {page : Option Nat} (hs : Works F S σ s) :
    Works F S σ (openMirror spk tid ldTag dpa page s).2 := by
  unfold openMirror
  dsimp only
  exact hs.startTimer.beside

protected theorem Works.queueSync {u : SfUpdate} (hs : Works F S σ s) : Works F S σ (queueSync u s) := hs.beside

protected theorem Works.setQp {n : Nat} {q : QPair} (hs : Works F S σ s) : Works F S σ (setQp n q s) := hs.beside

protected theorem Works.updQp {n : Nat} {f : QPair → QPair} (hs : Works F S σ s) : Works F S σ (updQp n f s) := hs.setQp

protected theorem Works.updTaken {n i : Nat} {f : Taken → Taken} (hs : Works F S σ s) :
    Works F S σ (updTaken n i f s) := hs.updQp

protected theorem Works.complete {n i : Nat} {f : Fin_} (hs : Works F S σ s) : Works F S σ (complete n i f s) := by
  unfold complete
  dsimp only
  split
  · exact hs
  · exact .ite hs.setQp.raise hs.setQp

protected theorem Works.dropHeld {n : Nat} (hs : Works F S σ s) : Works F S σ (dropHeld n s) :=
  hs.updPort fun _ => ⟨fun h => h.setReqs fun r hr => ⟨r, (List.mem_filter.1 hr).1, .inl rfl⟩, fun _ => rfl⟩

protected theorem Works.qpDisable {n : Nat} {down : Bool} (hs : Works F S σ s) : Works F S σ (qpDisable n down s) := by
  unfold qpDisable
  exact (hs.dropHeld.foldl fun _ _ h => h.complete).updQp

protected theorem Works.takeDescs {fuel n : Nat} (hs : Works F S σ s) : Works F S σ (takeDescs fuel n s) := by
  induction fuel generalizing s with
  | zero => exact hs
  | succ fuel ih => exact .ite hs (ih hs.setQp)

protected theorem Works.takePort {p : Fin 4} (hs : Works F S σ s) :
    Works F S σ (takePort p s) := hs.foldl fun _ _ h => h.takeDescs

protected theorem Works.sendRsp {p : Fin 4} {l ld tag : Nat} {kind : RspKind} {data : Line} {poison : Bool}
    {devLoad : Nat} (hs : Works F S σ s) :
    Works F S σ (sendRsp p l ld tag kind data poison devLoad s) := .ite hs.emit.perfPort hs.emit

protected theorem Works.refuseHost {q : Req} (hs : Works F S σ s) : Works F S σ (refuseHost q s) := by
  unfold refuseHost
  dsimp only
  split
  · exact hs.sendRsp
  · exact hs

protected theorem Works.portViral {p : Fin 4} (hs : Works F False σ s) : Works F False σ (portViral p s) :=
  .ite hs (.updPort (hs.raise.emit.foldl fun _ _ h => h.refuseHost)
    fun _ => ⟨fun h => ⟨h.invBusy, h.keyMarker, fun _ hb => absurd hb List.not_mem_nil, fun _ hr => absurd hr List.not_mem_nil⟩, False.elim⟩)

protected theorem Works.spkDown {k : Fin 8} (hs : Works False S σ s) : Works False S σ (spkDown k s) :=
  (hs.updSpk fun _ => ⟨fun _ _ hx => absurd hx List.not_mem_nil, False.elim⟩).raise

protected theorem Works.goDown (hs : Works False False σ s) : Works False False σ (goDown s) :=
  have hdown : Works False False σ { s with domainDown := true } := hs.beside
  have hgone {u : State} (h : Works False False σ u) : Works False False σ { u with pair := { u.pair with
      own := false, role := if u.pair.role = .primary then .detached else u.pair.role } } := h.beside
  .ite hs (hgone (((hdown.raise.eachSpk fun _ _ h => h.spkDown).eachPort fun _ _ h => h.portViral).foldl
    fun _ _ h => .ite h.qpDisable h))

/-- Where the transactions carry no error there is no fatal one. -/
protected theorem Works.fatalParity {b : Fin 40} {bit : Nat} {c : Cap} (hs : Works False S σ s) (hf : S → ¬ Peaceful σ) :
    Works False S σ (fatalParity b bit c s) :=
  have h : Works False False σ (goDown (raise b bit c s)) := hs.weaken.raise.goDown
  ⟨h.germSide, h.power, h.verdicts, h.ports, h.peaceful, h.forwards, fun hS hσ => absurd hσ (hf hS)⟩

/-! ## Homes (R87 to R106, R185) -/

/-- A transaction goes on, with the request it serves. -/
protected theorem Works.updTxn {k : Fin 8} {tid : Nat} {f : Txn → Txn} (hs : Works F S σ s)
    (hf : ∀ x, (f x).msg = x.msg := by exact fun _ => rfl) : Works F S σ (updTxn k tid f s) :=
  hs.updSpk fun _ => ⟨fun h => h.map fun x => by
    split
    · rw [hf]
    · rfl, fun _ => rfl⟩

protected theorem Works.dropTxn {k : Fin 8} {tid : Nat} (hs : Works F S σ s) : Works F S σ (dropTxn k tid s) :=
  hs.updSpk fun _ => ⟨fun h => h.filter _, fun _ => rfl⟩

protected theorem Works.redirectTxns {k : Fin 8} {d p : Nat} (hs : Works F S σ s) : Works F S σ (redirectTxns k d p s) :=
  hs.updSpk fun _ => ⟨fun h => h.map fun x => by
    split
    · split <;> rfl
    · rfl, fun _ => rfl⟩

protected theorem Works.enterMemory {k : Fin 8} {tid : Nat} {kind : RspKind} (hs : Works F S σ s) :
    Works F S σ (enterMemory k tid kind s) := hs.updTxn

protected theorem Works.refillQueue {k : Fin 8} (hs : Works F S σ s) :
    Works F S σ (refillQueue k s) := hs.foldl fun _ _ h => .ite h.updTxn h

protected theorem Works.takeSample {k : Fin 8} {c sample : Nat} (hs : Works F S σ s) :
    Works F S σ (takeSample k c sample s) := .ite hs hs.updSpk.raiseIf

protected theorem Works.cqReturn {n i unit : Nat} {op : HomeOp} {r : Rsp} (hs : Works F S σ s) :
    Works F S σ (cqReturn n i unit op r s) := by
  unfold cqReturn
  split
  · exact hs.complete
  · exact hs.updTaken
  · refine .ite hs.complete ?_
    split
    · exact hs
    · exact .ite hs.complete hs.updTaken

protected theorem Works.mirrorReturn {h : MirrorHdr} {r : Rsp} (hs : Works F S σ s) :
    Works F S σ (mirrorReturn h r s) := (Works.ite hs.beside hs).queueTil

protected theorem Works.deliver {q : Req} {r : Rsp} (hs : Works F S σ s) : Works F S σ (deliver q r s) := by
  have hleaves (p : Fin 4) : Works F S σ (updPort p (fun o => { o with reqs := o.reqs.filter fun x => x.req.rid ≠ q.rid }) s) :=
    hs.updPort fun _ => ⟨fun h => h.setReqs fun x hx => ⟨x, (List.mem_filter.1 hx).1, .inl rfl⟩, fun _ => rfl⟩
  unfold Machine.deliver
  dsimp only
  split
  · refine hs.updPort fun _ => ⟨fun h => h.setReqs fun x hx => ?_, fun _ => rfl⟩
    obtain ⟨y, hy, rfl⟩ := List.mem_map.1 hx
    refine ⟨y, hy, ?_⟩
    split
    · exact .inr nofun
    · exact .inl rfl
  · exact (hleaves _).cqReturn
  · exact (hleaves _).mirrorReturn

protected theorem Works.respond {k : Fin 8} {t : Txn} (hs : Works F S σ s) :
    Works F S σ (respond k t s) := hs.takeSample.perfSpk.dropTxn.deliver

protected theorem Works.sfPut {k : Fin 8} {pl : Nat} {e : SfEntry} (hs : Works F S σ s) :
    Works F S σ (sfPut k pl e s) := hs.updSpk

protected theorem Works.sfKeep {k : Fin 8} {pl : Nat} {e : SfEntry} (hs : Works F S σ s) : Works F S σ (sfKeep k pl e s) := by
  unfold sfKeep
  dsimp only
  refine .ite hs.sfPut ?_
  split
  · exact .ite hs.sfPut.queueSync hs.sfPut
  · exact .ite hs.sfPut.queueSync (.ite (.ite hs.sfPut.queueSync hs.sfPut) (.ite hs.sfPut.queueSync hs.sfPut))

protected theorem Works.sendBi_done {k : Fin 8} {owner : BiOwner} {sec : Nat} {n : BiNeed} {sid left : Nat}
    (hs : Works F S σ s) : Works F S σ (sendBi.done k owner sec n sid left s) := hs.updSpk.perfSpk

protected theorem Works.sendBi {k : Fin 8} {owner : BiOwner} {sec region aliasF dpaSector : Nat} {n : BiNeed}
    (hs : Works F S σ s) : Works F S σ (sendBi k owner sec region aliasF dpaSector n s) := by
  have hsent {p : Fin 4} {b : PortBi} (hb : b.conflict = false) {u : State} (h : Works F S σ u) :
      Works F S σ (updPort p (fun q => { q with bis := q.bis ++ [b] }) u) :=
    h.updPort fun _ => ⟨fun h => ⟨h.invBusy, h.keyMarker, fun x hx => by
      rcases List.mem_append.1 hx with hx | hx
      · exact h.bis x hx
      · exact List.mem_singleton.1 hx ▸ hb, h.reqs⟩, fun _ => rfl⟩
  unfold Machine.sendBi
  dsimp only
  split
  · exact hs.takeSeq.sendBi_done
  · split
    · exact hs.takeSeq.sendBi_done
    · exact .ite hs.takeSeq.sendBi_done
        (hs.takeSeq.foldl fun _ _ h => .ite (hsent rfl h.takeSeq).emit (hsent rfl h.takeSeq)).sendBi_done

protected theorem Works.sendBis {k : Fin 8} {owner : BiOwner} {e : SfEntry} {ns : List BiNeed} (hs : Works F S σ s) :
    Works F S σ (sendBis k owner e ns s) := (hs.foldl fun _ _ h => h.sendBi).updSpk

protected theorem Works.toMemory {k : Fin 8} {tid pl : Nat} {e : SfEntry} {t : Txn} (hs : Works F S σ s) :
    Works F S σ (toMemory k tid pl e t s) := by
  unfold toMemory
  dsimp only
  exact hs.sfKeep.enterMemory

protected theorem Works.toMemoryBare {k : Fin 8} {t : Txn} (hs : Works F S σ s) :
    Works F S σ (toMemoryBare k t s) := hs.enterMemory

protected theorem Works.evictEntry {k : Fin 8} {pl : Nat} {e : SfEntry} (hs : Works F S σ s) :
    Works F S σ (evictEntry k pl e s) := by
  unfold evictEntry
  dsimp only
  exact hs.takeSeq.updSpk.sendBis

protected theorem Works.freeEvict {k : Fin 8} {id : Nat} (hs : Works F S σ s) : Works F S σ (freeEvict k id s) := by
  unfold freeEvict
  dsimp only
  refine .ite hs ?_
  refine .updSpk ?_
  split
  · exact .ite hs.queueSync hs
  · exact hs

protected theorem Works.freeEvicts {k : Fin 8} (hs : Works F S σ s) :
    Works F S σ (freeEvicts k s) := hs.foldl fun _ _ h => h.freeEvict

protected theorem Works.sfWait {k : Fin 8} {t : Txn} (hs : Works F S σ s) :
    Works F S σ (sfWait k t s) := .ite hs.updTxn hs.updTxn.updSpk.raise

protected theorem Works.needBis {k : Fin 8} {t : Txn} {pl : Nat} {e : SfEntry} {ns : List BiNeed} (hs : Works F S σ s) :
    Works F S σ (needBis k t pl e ns s) := .ite hs.sfKeep.updTxn hs.sfKeep.updTxn.sendBis

protected theorem Works.lookup {k : Fin 8} {t : Txn} (hs : Works False S σ s) (ht : S → Peaceful σ → t.msg.req.par = .good) :
    Works False S σ (lookup k t s) := by
  unfold Machine.lookup
  dsimp only
  split
  · next hfatal =>
    refine hs.fatalParity fun hS hσ => ?_
    rw [ht hS hσ, parityAt_good] at hfatal
    cases hfatal
  · refine .ite (.ite hs (.ite hs.updTxn.perfSpk (hs.dropTxn.updPort))) (.ite hs.toMemoryBare ?_)
    split
    · exact .ite hs.toMemory hs.needBis
    · refine .ite hs.toMemoryBare ?_
      split
      · exact hs.sfWait
      · exact hs.perfSpk.toMemory
      · exact hs.evictEntry.perfSpk.toMemory

/-- A transaction of the home looks up, in whatever state. -/
theorem Works.lookup_of_txnOf {k : Fin 8} {tid : Nat} {t x : Txn} (hs : Works False S σ s) (ht : txnOf s k tid = some t)
    (hx : x.msg = t.msg := by rfl) : Works False S σ (Machine.lookup k x s) :=
  hs.lookup fun _ hσ => hx ▸ (hs.peaceful hσ).txnOf ht

protected theorem Works.settle {k : Fin 8} (hs : Works False S σ s) : Works False S σ (settle k s) := by
  rw [settle_eq_foldl]
  refine hs.freeEvicts.foldl fun u tid h => ?_
  unfold settleTxn
  split
  · exact h
  · next ht =>
    split
    · exact .ite (h.lookup_of_txnOf ht) h
    · exact .ite h (.ite (h.lookup_of_txnOf ht) h.updTxn)
    · exact .ite (h.lookup_of_txnOf ht) h
    · exact h

protected theorem Works.liftHold {k : Fin 8} {page : Nat} (hs : Works False S σ s) : Works False S σ (liftHold k page s) :=
  hs.updSpk.settle

protected theorem Works.recallMore {k : Fin 8} {o : BiOwner} (hs : Works F S σ s) :
    Works F S σ (recallMore k o s) := hs.foldl fun _ _ h => .ite h h.sfPut.sendBis

protected theorem Works.recallRecord {k : Fin 8} {o : BiOwner} (hs : Works F S σ s) : Works F S σ (recallRecord k o s) := by
  unfold recallRecord
  dsimp only
  refine hs.foldl fun _ _ h => ?_
  split
  · exact h.updSpk.sfKeep
  · exact h.updSpk

protected theorem Works.txnAnswered {k : Fin 8} {tid : Nat} (hs : Works False S σ s) : Works False S σ (txnAnswered k tid s) := by
  unfold Machine.txnAnswered
  dsimp only
  split
  · exact hs
  · next ht =>
    have hgood := fun (_ : S) hσ => (hs.peaceful hσ).txnOf ht
    refine .ite hs ?_
    split
    · exact hs.updSpk.lookup hgood
    · exact .ite hs.updSpk.toMemory hs.updSpk.sfKeep.needBis

protected theorem Works.afterAnswers {k : Fin 8} (hs : Works False S σ s) : Works False S σ (afterAnswers k s) := by
  unfold afterAnswers
  dsimp only
  generalize ht : freeEvicts k _ = t
  have h : Works False S σ t := ht ▸ .freeEvicts (.foldl (.foldl (.foldl hs fun _ _ h => h.txnAnswered) fun _ _ h => h.recallMore)
    fun _ _ h => h.recallRecord)
  refine .settle ?_
  split
  · exact h
  · exact .ite h.updSpk h

protected theorem Works.dropNeed {k : Fin 8} {tid : Nat} {p : BiNeed → Bool} (hs : Works False S σ s) :
    Works False S σ (dropNeed k tid p s) := by
  unfold Machine.dropNeed
  dsimp only
  split
  · exact hs
  · next ht =>
    refine .ite hs (.ite hs.updTxn ?_)
    split
    · exact .ite hs.toMemory hs.needBis
    · exact hs.lookup_of_txnOf ht

protected theorem Works.finish {k : Fin 8} {t : Txn} {r : Rsp} {w : Option MirrorData} (hs : Works False S σ s) :
    Works False S σ (finish k t r w s) := by
  unfold finish
  dsimp only
  split
  · exact .ite hs.openMirror.beside.updTxn.queueTil hs.respond.settle
  · exact hs.respond.settle

protected theorem Works.descFailed {k : Fin 8} {t : Txn} {r : ReadRes} (hs : Works False S σ s) :
    Works False S σ (descFailed k t r s) := by
  unfold descFailed
  exact hs.readCause.finish

protected theorem Works.forwardLines {k : Fin 8} {desc : Nat} {d : Line} {a : Acc} (hs : Works F S σ s) :
    Works F S σ (forwardLines k desc d a s).2 := by
  refine foldl_snd hs fun acc _ h => ?_
  split
  · exact h
  · refine ite_snd h ?_
    split
    · next e => exact h.readBlock.of_eq e
    · next e => exact h.readBlock.of_eq e

protected theorem Works.endJobs {k : Fin 8} {js : List Job} {f : Job → Txn → State → State} (hs : Works False S σ s)
    (hf : ∀ a a1 u, Works False S σ u → Works False S σ (f a a1 u)) :
    Works False S σ (endJobs k js f s) := by
  unfold endJobs
  refine hs.foldl fun _ _ h => ?_
  split
  · split
    · exact hf _ _ _ h
    · exact h
  · exact h

protected theorem Works.finishForward {k : Fin 8} {f : Forward} (hs : Works False S σ s) :
    Works False S σ (finishForward k f s) := by
  unfold Machine.finishForward
  dsimp only
  split
  · refine .ite hs ?_
    split
    · refine .endJobs (.updSpk ?_) fun _ _ _ h => h.descFailed
      exact .updSpk hs.holdPath.readDesc fun _ => ⟨fun h => h, False.elim⟩
    · have hcounted {u : State} (h : Works False S σ u) :
          Works False S σ { u with tier := { u.tier with forwarded := satAdd 48 u.tier.forwarded 1 } } := h.beside
      refine .refillQueue (.endJobs ?_ fun _ _ _ h => h.finish)
      refine .updSpk ?_
      refine .updSpk ?_ fun _ => ⟨fun h => h.map fun x => ?_, False.elim⟩
      · refine .raise (hcounted ?_)
        exact hs.holdPath.readDesc.forwardLines.holdPath.setPkt.fillPage.holdPath.writeDesc
      · split <;> rfl
  · exact hs

protected theorem Works.stepForwards {k : Fin 8} (hs : Works False S σ s) :
    Works False S σ (stepForwards k s) := hs.foldl fun _ _ h => h.finishForward

/-! ## Ports (R52, R56) -/

/-- A port changes its state. -/
theorem Works.movePort {p : Fin 4} {f : Port → Port} (hs : Works F S σ s)
    (hf : ∀ o, PortRests o → PortRests (f o) := by exact fun _ h => ⟨h.invBusy, h.keyMarker, h.bis, h.reqs⟩) :
    Works F False σ (Machine.updPort p f s) :=
  Works.updPort ⟨hs.germSide, hs.power, hs.verdicts, hs.ports, hs.peaceful, hs.forwards, False.elim⟩ fun o => ⟨hf o, False.elim⟩

protected theorem Works.enterEnabled {p : Fin 4} (hs : Works F False σ s) : Works F False σ (enterEnabled p s) :=
  .takePort (.endAccepted (.updPort hs.beside fun _ => ⟨fun h => ⟨h.invBusy, h.keyMarker, h.bis, h.reqs⟩, False.elim⟩))

protected theorem Works.queuedEnable {p : Fin 4} (hs : Works F False σ s) : Works F False σ (queuedEnable p s) :=
  .ite hs.enterEnabled hs

protected theorem Works.drainSend {p : Fin 4} (hs : Works F S σ s) :
    Works F S σ (drainSend p s) := hs.eachSpk (fun _ _ h => h.foldl fun _ _ h' => .ite h' h'.sfPut.sendBis)

protected theorem Works.drainRecord {p : Fin 4} (hs : Works False S σ s) : Works False S σ (drainRecord p s) := by
  unfold drainRecord
  dsimp only
  refine hs.eachSpk fun _ _ h => ?_
  refine h.foldl fun _ _ h' => ?_
  split
  · exact h'.updSpk.sfKeep.settle
  · exact h'.updSpk

protected theorem Works.drainStep {p : Fin 4} (hs : Works False False σ s) : Works False False σ (drainStep p s) :=
  .ite hs (.ite hs.drainSend.drainRecord.movePort.endAccepted.queuedEnable hs.drainSend.drainRecord)

protected theorem Works.disablePort {p : Fin 4} (hs : Works False False σ s) : Works False False σ (disablePort p s) := by
  unfold Machine.disablePort
  split
  · exact hs.movePort.drainStep
  · exact hs.updPort
  · exact hs

protected theorem Works.discardLink {p : Fin 4} {l : Option (Fin 4)} (hs : Works F S σ s) : Works F S σ (discardLink p l s) :=
  hs.updPort fun _ => ⟨fun h => h.setReqs fun x hx => by
    obtain ⟨y, hy, rfl⟩ := List.mem_map.1 hx
    refine ⟨y, (List.mem_filter.1 hy).1, .inl ?_⟩
    split <;> rfl, fun _ => rfl⟩

protected theorem Works.headLost {p : Fin 4} (hs : Works False S σ s) : Works False S σ (headLost p s) := by
  have hnone : Works False S σ (Machine.updPort p (fun q => { q with bis := [] }) s) :=
    hs.updPort fun _ => ⟨fun h => ⟨h.invBusy, h.keyMarker, fun _ hb => absurd hb List.not_mem_nil, h.reqs⟩, fun _ => rfl⟩
  exact hnone.eachSpk
    (fun _ _ h => ((h.updSpk.foldl fun _ _ h' => h'.sfKeep).foldl fun _ _ h' => h'.dropNeed).afterAnswers.stepForwards)

protected theorem Works.setDown {down : Bool} (hs : Works F S σ s) : Works F S σ (setDown down s) := hs.beside

protected theorem Works.crossAll {f : Crossing → Crossing} (hs : Works F S σ s) : Works F S σ (crossAll f s) := hs.beside

protected theorem Works.syncCrossings (hs : Works F S σ s) : Works F S σ (syncCrossings s) := hs.crossAll

/-! ## What a move leaves (R184, R188 step 8) -/

protected theorem Works.pageRetired {m : Nat} (hs : Works F S σ s) : Works F S σ (pageRetired m s) := hs.endAccepted

protected theorem Works.leavePage {p : Nat} {retire : Bool} (hs : Works F S σ s) :
    Works F S σ (leavePage p retire s) :=
  .ite (Works.ite hs hs.blankPage).pageRetired (Works.ite hs hs.blankPage).returnPage

protected theorem Works.freeGranules {gs : List Granule} (hs : Works F S σ s) :
    Works F S σ (freeGranules gs s) := hs.beside.foldl fun _ _ h => .ite h h.beside.blankPage.returnPage.pageRetired

/-- The granules of the page before it was forwarded are free, and its forwarding is over. -/
protected theorem Works.leaveDesc {d : Nat} {retire : Bool} (hs : Works False S σ s) : Works False S σ (leaveDesc d retire s) := by
  unfold Machine.leaveDesc
  dsimp only
  generalize (Machine.readDesc d 0 (Machine.holdPath 7 d s)).1 = r
  have hread : Works False S σ (updSpk (spkOf d) (fun q => { q with forwards := q.forwards.filter (·.desc ≠ d) })
      (Machine.readDesc d 0 (Machine.holdPath 7 d s)).2) := hs.holdPath.readDesc.updSpk fun _ => ⟨id, False.elim⟩
  split
  · exact .ite hread.freeGranules.leavePage hread.freeGranules.leavePage.holdPath.writeDesc
  · exact .ite hread.freeGranules hread.freeGranules.holdPath.writeDesc

protected theorem Works.freeSource {m : Move} (hs : Works False S σ s) :
    Works False S σ (freeSource m s) := .ite hs.leaveDesc.returnDesc hs.leavePage

end Sys2Proof.Machine

/-! # Ports at rest but for a drain (R52, R78, R100, R322, R450) -/

namespace Sys2Proof.Machine

/-- Nothing at the ports waits for a completion, but the end of a drain. -/
structure AtRest (s : State) : Prop where
  ports : ∀ p : Fin 4, PortRests s.ports[p]
  promotion : s.pair.promotion ≠ .reissue
  injecting : s.fw.injecting = false

theorem atRest_of_portsQuiet {s : State} (h : portsQuiet s = true) : AtRest s := by
  obtain ⟨hports, hpromotion, hinjecting⟩ := portsQuiet_iff.1 h
  refine ⟨fun p => ?_, hpromotion, hinjecting⟩
  obtain ⟨-, hinv, hmarker, hbis, hreqs⟩ := hports p
  exact ⟨hinv, hmarker, hbis, hreqs⟩

section AtRest
variable {F S : Prop} {σ s t : State}

theorem Works.atRest (h : Works F S s t) (hs : AtRest s) : AtRest t where
  ports := h.ports hs.ports
  promotion := h.promotion.trans_ne hs.promotion
  injecting := (congrArg Firmware.injecting h.fw).trans hs.injecting

/-- A change beside the ports, a promotion and the firmware. -/
theorem AtRest.beside (h : AtRest s) (hports : t.ports = s.ports := by rfl)
    (hpromotion : t.pair.promotion = s.pair.promotion := by rfl) (hfw : t.fw = s.fw := by rfl) : AtRest t :=
  ⟨fun p => hports ▸ h.ports p, hpromotion.trans_ne h.promotion, hfw ▸ h.injecting⟩

theorem portSettle_of_rests {p : Fin 4} (h : PortRests s.ports[p]) : portSettle p s = drainStep p s := by
  have hpump : pumpFreed p s = s := by
    rw [pumpFreed, if_neg]
    simp only [mayPump, List.any_eq_true, Bool.and_eq_true, decide_eq_true_eq, not_exists, not_and]
    exact fun r hr hingress => absurd hingress (h.reqs r hr)
  have hack : ackConflicts p s = s := by
    simp only [ackConflicts]
    rw [List.filter_eq_nil_iff.2 fun b hb => by simp [h.bis b hb], List.foldl_nil]
  have hinv : invAckStep p s = s := by simp only [invAckStep, h.invBusy, Bool.not_false, Bool.true_or, if_true]
  have hmark : markerStep p s = s := by simp only [markerStep, h.keyMarker, Bool.false_and, Bool.false_eq_true, if_false]
  rw [portSettle, hpump, hack, hinv, hmark]

/-- What completes at ports at rest is the drains alone. -/
theorem Works.allSettle (hs : Works False False σ s) (hrest : AtRest s) : Works False False σ (allSettle s) := by
  have hports (ps : List (Fin 4)) (u : State) (hu : AtRest u) :
      Works False False u (ps.foldl (fun t p => portSettle p t) u) := by
    induction ps generalizing u with
    | nil => exact .refl u
    | cons p ps ih =>
      have hstep : Works False False u (Machine.drainStep p u) := (Works.refl u).drainStep
      rw [List.foldl_cons, portSettle_of_rests (hu.ports p)]
      exact hstep.trans (ih _ (hstep.atRest hu))
  have hsettled : Works False False s (Machine.eachPort portSettle s) := hports _ s hrest
  have hdone := hsettled.atRest hrest
  rw [Machine.allSettle, endReissue, if_pos (by simp [hdone.promotion]), endInjection, if_neg (by simp [hdone.injecting])]
  exact hs.trans hsettled

end AtRest

end Sys2Proof.Machine

/-! # The steps of a move in their turn (R87, R188, R191, R209, R240, R247) -/

namespace Sys2Proof.Machine

variable {s : State} {m : Move}

/-! ## The records of moves -/

theorem step_of_updMove {mid : Nat} {st : MoveStep} {x : Move}
    (hx : x ∈ (updMove mid (fun m => { m with step := st }) s).tier.moves) (hmid : x.mid = mid) : x.step = st := by
  obtain ⟨y, -, rfl⟩ := List.mem_map.1 hx
  by_cases hy : y.mid = mid
  · rw [if_pos hy]
  · rw [if_neg hy] at hmid
    exact absurd hmid hy

/-- A move whose leaf has been written and invalidated is past its first steps. -/
theorem moveInval_of_past (hm : moveOf s m.mid = some m) (halloc : m.step ≠ .alloc) (hleaf : m.step ≠ .leaf) :
    moveInval m.mid s = s := by
  simp [moveInval, hm, halloc, hleaf]

/-- An access to a channel where no injection is armed and its parity is not fatal. -/
theorem chanAccess_of_good {n : Nat} {read : Bool} {par : Parity} {c : Cap} {f : State → State} (hinj : noInjection s = true)
    (hpar : parityAt par .channel ≠ .fatal) : chanAccess n read par c f s = f s := by
  simp only [chanAccess, chanParity, stageParity, fires, armed_of_noInjection hinj, Bool.false_and, Bool.and_false, Bool.or_false,
    Bool.false_eq_true, if_false]

/-! ## Recall (R188 step 5) -/

/-- Every port has acknowledged the invalidation, and the home may recall the source. -/
def RecallDue (s : State) (m : Move) : Prop :=
  m.step = .inval ∧ invAcked s m.inv = true ∧ s.spks[spkOf (moveFrom s m)].recalling = none ∧ pageQuiet s m.src = true

/-- The home of the source recalls it. -/
def recalled (s : State) (m : Move) : State :=
  let k := spkOf (moveFrom s m)
  let page := unitPage (moveFrom s m)
  updMove m.mid (fun m => { m with step := .recall }) (afterAnswers k (recallMore k (.recall page)
    (updSpk k (fun q => { q with recalling := some page }) s)))

theorem exec_migrationRecall (mid : Nat) : exec (.migrationRecall mid) s = .next (doMigrationRecall mid s) := rfl

section Recall
variable (hquiet : portsQuiet s = true) (hm : moveOf s m.mid = some m) (halloc : m.step ≠ .alloc) (hleaf : m.step ≠ .leaf)
include hquiet hm halloc hleaf

theorem exec_migrationRecall_of_due (hup : s.domainDown = false) (hgerm : s.fw.germUp = true) (hdue : RecallDue s m) :
    exec (.migrationRecall m.mid) s = .next (recalled s m) := by
  obtain ⟨hstep, hacked, hfree, hsource⟩ := hdue
  rw [exec_migrationRecall]
  simp only [doMigrationRecall, allSettle_of_portsQuiet hquiet, hup, hgerm, moveInval_of_past hm halloc hleaf, hm, hstep, hacked, hfree, hsource]
  rfl

theorem exec_migrationRecall_of_not_due (hdue : ¬ RecallDue s m) : exec (.migrationRecall m.mid) s = .next s := by
  rw [exec_migrationRecall]
  simp only [doMigrationRecall, allSettle_of_portsQuiet hquiet, moveInval_of_past hm halloc hleaf, hm]
  refine congrArg _ (ite_eq_left_iff.2 fun _ => if_pos ?_)
  simp only [RecallDue, not_and_or, Bool.not_eq_true] at hdue
  rcases hdue with h | h | h | h
  · simp [h]
  · simp [h]
  · simp [-Fin.getElem_fin, Option.isSome_iff_ne_none.2 h]
  · simp [h]

end Recall

/-! ## Copy (R188 step 6) -/

/-- The recall of the source is over, and its lines and those of the destination may be accessed. -/
def CopyDue (s : State) (m : Move) : Prop :=
  m.step = .recall ∧ s.spks[spkOf (moveFrom s m)].recalling ≠ some (unitPage (moveFrom s m)) ∧
    pageQuiet s (moveFrom s m) = true ∧ backgroundMay s [m.src, m.dst] (some (unitPage m.dst)) = true

/-- What the copy of a move leaves: its data at a plain destination, or a compression job for a packed one. -/
def copied (m : Move) (noise : Image) (s : State) : State :=
  let (ls, key, s1) := readSource m (moveAwn s m) noise s
  if m.dstPacked then updMove m.mid (fun m => { m with step := .job }) (pageJob m (key.getD 0) ls s1)
  else updMove m.mid (fun m => { m with step := .release }) (fillPage m.dst (key.getD 0) (moveAwn s m) ls
    (match key with
      | some k => setPkt m.dst (some k) (holdPath 7 m.dst s1)
      | none => s1))

section Copy
variable {noise : Image} {par : Parity} (hm : moveOf s m.mid = some m)
include hm

theorem exec_migrationCopy_of_due (hhalted : halted s = false) (hentering : entering s = false) (hinj : noInjection s = true)
    (hpar : parityAt par .channel ≠ .fatal) (hdue : CopyDue s m) :
    exec (.migrationCopy m.mid noise par) s = .next (copied m noise s) := by
  obtain ⟨hstep, hrecall, hquiet, hmay⟩ := hdue
  show Host.Outcome.next (doMigrationCopy m.mid noise par s) = _
  simp only [doMigrationCopy, hhalted, hentering, hm, hstep, hrecall, hquiet, hmay, chanAccess_of_good hinj hpar]
  rfl

theorem exec_migrationCopy_of_not_due (hhalted : halted s = false) (hentering : entering s = false) (hdue : ¬ CopyDue s m) :
    exec (.migrationCopy m.mid noise par) s = .next s := by
  show Host.Outcome.next (doMigrationCopy m.mid noise par s) = _
  simp only [doMigrationCopy, hhalted, hentering, hm]
  rw [if_neg (by simp), if_pos]
  simp only [CopyDue, not_and_or, not_not, Bool.not_eq_true] at hdue
  rcases hdue with h | h | h | h <;> simp [-Fin.getElem_fin, h]

end Copy

theorem copied_step (noise : Image) : ∀ x ∈ (copied m noise s).tier.moves, x.mid = m.mid →
    x.step = if m.dstPacked then .job else .release := by
  intro x hx hmid
  unfold copied at hx
  cases hpacked : m.dstPacked <;> simp only [hpacked, Bool.false_eq_true, if_false, if_true] at hx ⊢ <;>
    exact step_of_updMove hx hmid

/-- The compression job of a packed destination holds the page in four blocks. -/
theorem copied_job (noise : Image) (hpacked : m.dstPacked = true) :
    ∃ j ∈ (copied m noise s).spks[spkOf m.dst].jobs, j.kind = .page m.mid ∧ j.desc = m.dst ∧ j.output = [] ∧
      j.plain.length = 4 ∧ j.poisoned.length = 4 := by
  simp only [copied, hpacked, if_true, updMove, pageJob, updSpk_spks, updAt_get_same]
  exact ⟨_, List.mem_append_right _ (List.mem_singleton_self _), rfl, rfl, rfl, by simp, by simp⟩

/-! ## Release (R188 steps 7 and 8, R240) -/

/-- The source of a move cannot be read back in full: it is plain, in a poisoned span (R152). -/
def sourceLost (s : State) (m : Move) : Bool := !m.srcPacked && spanPoisoned s m.src

/-- The move, its hold and the proposal that asked for it are over. -/
structure Released (m : Move) (lost : Bool) (t : State) : Prop where
  moves : ∀ x ∈ t.tier.moves, x.mid ≠ m.mid
  holders : ∀ h ∈ t.tier.holders, h ≠ (unitPage m.dst, .move m.mid)
  verdict : ∀ i, m.slot = some i → (verdictAt t i).status = (if lost then 4 else 2) ∧
    (verdictAt t i).reason = if lost then 8 else 0

/-- What ends the move runs on: its hold is given up, and requests that name a forwarded destination name its plain page. -/
def releasing (s : State) (m : Move) : State :=
  match if m.dstPacked then forwardedTo s m.dst else none with
  | some p => redirectTxns (spkOf m.dst) m.dst p s
  | none => s

theorem works_releasing : Works False False s (releasing s m) := by
  unfold releasing
  split
  · exact (Works.refl s).redirectTxns
  · exact .refl s

theorem disownHold_holders {o : HoldOwner} {page : Nat} : ∀ h ∈ (disownHold o page s).tier.holders, h ≠ (page, o) := by
  have hkept : (disownHold o page s).tier.holders = s.tier.holders.filter (· ≠ (page, o)) := by
    unfold disownHold
    dsimp only
    split
    · rfl
    · exact (Works.refl (F := False) (S := False) _).liftHold.holders
  rw [hkept]
  exact fun h hh => of_decide_eq_true (List.mem_filter.1 hh).2

theorem AtRest.disownHold {o : HoldOwner} {page : Nat} (h : AtRest s) : AtRest (disownHold o page s) := by
  unfold Machine.disownHold
  dsimp only
  have hgiven : AtRest { s with tier := { s.tier with holders := s.tier.holders.filter (· ≠ (page, o)) } } := h.beside
  split
  · exact hgiven
  · exact (Works.refl (F := False) (S := False) _).liftHold.atRest hgiven

/-- The move is taken off the list, counted, and the walks that waited for a page go on. -/
def unlisted (m : Move) (u : State) : State :=
  retryWalks { u with tier := { u.tier with
    moves := u.tier.moves.filter (·.mid ≠ m.mid)
    promoted := if m.srcPacked && !m.dstPacked then satAdd 48 u.tier.promoted 1 else u.tier.promoted
    demoted := if !m.srcPacked && m.dstPacked then satAdd 48 u.tier.demoted 1 else u.tier.demoted } }

/-- The verdict of the proposal that asked for the move. -/
def judged (m : Move) (lost : Bool) (u : State) : State :=
  match m.slot with
  | some i => setVerdict i (if lost then 4 else 2) (if lost then 8 else 0) 0 u
  | none => u

theorem doMigrationRelease_eq (hup : s.domainDown = false) (hgerm : s.fw.germUp = true) (hm : moveOf s m.mid = some m)
    (hstep : m.step = .release) : doMigrationRelease m.mid s = judged m (sourceLost s m)
      (unlisted m (freeSource m (disownHold (.move m.mid) (unitPage m.dst) (releasing s m)))) := by
  simp only [doMigrationRelease, hup, hgerm, hm, hstep]
  rfl

theorem exec_migrationRelease_of_early (hquiet : portsQuiet s = true) (hm : moveOf s m.mid = some m) (hstep : m.step ≠ .release) :
    exec (.migrationRelease m.mid) s = .next s := by
  show Host.Outcome.next (allSettle (doMigrationRelease m.mid s)) = _
  have hsame : doMigrationRelease m.mid s = s := by
    simp only [doMigrationRelease, hm, hstep, ne_eq, not_false_eq_true, if_true, ite_self]
  rw [hsame, allSettle_of_portsQuiet hquiet]

theorem works_unlisted {u : State} : Works True True
    { u with tier := { u.tier with moves := u.tier.moves.filter (·.mid ≠ m.mid) } } (unlisted m u) :=
  (Works.beside (.refl _)).retryWalks

/-- A verdict that has been given stays. -/
theorem Works.verdictAt_given {F S : Prop} {t : State} {i status reason : Nat} (h : Works F S (setVerdict i status reason 0 s) t)
    (hstatus : status ≠ 1) : (verdictAt t i).status = status ∧ (verdictAt t i).reason = reason := by
  have hgiven := verdictAt_setVerdict_same i status reason 0 s
  rw [h.verdicts i fun hends => hstatus (by simpa [hgiven] using hends.2.1), hgiven]
  exact ⟨rfl, rfl⟩

theorem released (hrest : AtRest s) (lost : Bool) : Released m lost (allSettle (judged m lost
    (unlisted m (freeSource m (disownHold (.move m.mid) (unitPage m.dst) s))))) := by
  generalize hu : Machine.disownHold (.move m.mid) (unitPage m.dst) s = u
  have hheld : ∀ h ∈ u.tier.holders, h ≠ (unitPage m.dst, .move m.mid) := hu ▸ disownHold_holders
  have hrestu : AtRest u := hu ▸ hrest.disownHold
  have hfreed : Works False False u (freeSource m u) := (Works.refl u).freeSource
  have hunlisted := works_unlisted (m := m) (u := freeSource m u)
  have hrestv : AtRest (unlisted m (freeSource m u)) := hunlisted.atRest (AtRest.beside (hfreed.atRest hrestu))
  generalize hv : unlisted m (freeSource m u) = v at hunlisted hrestv
  have hjudged : (judged m lost v).tier = v.tier ∧ AtRest (judged m lost v) := by
    unfold judged
    split
    · exact ⟨rfl, hrestv.beside⟩
    · exact ⟨rfl, hrestv⟩
  have hsettled : Works False False (judged m lost v) (Machine.allSettle (judged m lost v)) := (Works.refl _).allSettle hjudged.2
  refine ⟨?_, ?_, fun i hi => ?_⟩
  · rw [hsettled.moves, hjudged.1, hunlisted.moves]
    exact fun x hx => of_decide_eq_true (List.mem_filter.1 hx).2
  · rw [hsettled.holders, hjudged.1, hunlisted.holders]
    show ∀ h ∈ (freeSource m u).tier.holders, h ≠ _
    rw [hfreed.holders]
    exact hheld
  · simp only [judged, hi] at hsettled ⊢
    exact hsettled.verdictAt_given (by cases lost <;> simp)

theorem completes_migrationRelease (hquiet : portsQuiet s = true) (hup : s.domainDown = false) (hgerm : s.fw.germUp = true)
    (hm : moveOf s m.mid = some m) (hstep : m.step = .release) :
    Completes (.migrationRelease m.mid) s (Released m (sourceLost s m)) :=
  completes_of_next rfl <| by
    rw [doMigrationRelease_eq hup hgerm hm hstep]
    exact released (works_releasing.atRest (atRest_of_portsQuiet hquiet)) _

/-! ## The statement -/

/-- Settles O30. Each command runs its step where the move's turn has come, and changes nothing before; what the home, the
memory and the ports do on the way leaves the moves, the holds and the verdict that has been given as they are. -/
theorem moveStepsInOrder : Obligations.MoveStepsInOrder := by
  unfold Obligations.MoveStepsInOrder
  intro m s hm b
  refine ⟨fun hquiet hup hgerm => ⟨fun hstep hearly => ?_, fun hstep hacked hfree hsource => ?_, fun hlate => ?_⟩, ?_,
    fun hquiet hup hgerm => ?_⟩
  · refine exec_migrationRecall_of_not_due hquiet hm (by simp [hstep]) (by simp [hstep]) ?_
    rintro ⟨-, hacked, hfree, hsource⟩
    rcases hearly with h | h | h
    · exact absurd (h.symm.trans hacked) (by decide)
    · exact h hfree
    · exact absurd (h.symm.trans hsource) (by decide)
  · exact completes_of_next (exec_migrationRecall_of_due hquiet hm (by simp [hstep]) (by simp [hstep]) hup hgerm
      ⟨hstep, hacked, hfree, hsource⟩) fun x => step_of_updMove
  · have hdue : ¬ RecallDue s m := fun hdue => by
      rcases hlate with h | h | h <;> exact absurd (h.symm.trans hdue.1) (by decide)
    rcases hlate with h | h | h <;>
      exact exec_migrationRecall_of_not_due hquiet hm (by simp [h]) (by simp [h]) hdue
  · intro noise par hhalted hentering hinj hpar due
    exact ⟨fun hdue => completes_of_next (exec_migrationCopy_of_due hm hhalted hentering hinj hpar hdue)
      ⟨copied_step noise, copied_job noise⟩, exec_migrationCopy_of_not_due hm hhalted hentering⟩
  · refine ⟨exec_migrationRelease_of_early hquiet hm, fun hstep => ?_⟩
    obtain ⟨t, ht, hdone⟩ := completes_migrationRelease hquiet hup hgerm hm hstep
    exact ⟨t, ht, hdone.moves, hdone.holders, fun i hi => (hdone.verdict i hi).symm⟩

end Sys2Proof.Machine

/-! # A proposal that Germ takes as it is written (R424 to R426, Tables 17.2 to 17.5) -/

namespace Sys2Proof.Machine

variable {s t : State}

/-! ## The fields of a proposal (Table 17.2) -/

section Fields
variable {kind id args ldTag dpa size : Nat}

theorem propField_eq (b : BitVec 256) (o n : Nat) : propField b o n = b.toNat / 2 ^ (8 * o) % 2 ^ (8 * n) := by
  rw [propField, BitVec.extractLsb'_toNat, Nat.shiftRight_eq_div_pow]

theorem propField_proposal {o n : Nat} (h : o + n ≤ 32) : propField (proposal kind id args) o n =
    (kind % 2 ^ 16 + id % 2 ^ 16 * 2 ^ 16 + args * 2 ^ 64) / 2 ^ (8 * o) % 2 ^ (8 * n) := by
  have hsplit : (2 : Nat) ^ 256 = 2 ^ (8 * o) * 2 ^ (256 - 8 * o) := by rw [← pow_add]; congr 1; omega
  have hdvd : (2 : Nat) ^ (8 * n) ∣ 2 ^ (256 - 8 * o) := pow_dvd_pow 2 (by omega)
  rw [propField_eq, proposal, BitVec.toNat_ofNat, hsplit, Nat.mod_mul_right_div_self, Nat.mod_mod_of_dvd _ hdvd]

theorem propField_kind (h : kind < 2 ^ 16) : propField (proposal kind id args) 0 2 = kind := by
  rw [propField_proposal (by decide)]
  omega

theorem propField_reserved : propField (proposal kind id args) 4 4 = 0 := by
  rw [propField_proposal (by decide)]
  omega

theorem propField_args {o n : Nat} (ho : 8 ≤ o) (h : o + n ≤ 32) :
    propField (proposal kind id args) o n = args / 2 ^ (8 * (o - 8)) % 2 ^ (8 * n) := by
  have hsplit : (2 : Nat) ^ (8 * o) = 2 ^ 64 * 2 ^ (8 * (o - 8)) := by rw [← pow_add]; congr 1; omega
  have hlow : (kind % 2 ^ 16 + id % 2 ^ 16 * 2 ^ 16 + args * 2 ^ 64) / 2 ^ 64 = args := by omega
  rw [propField_proposal h, hsplit, ← Nat.div_div_eq_div_mul, hlow]

theorem pageArgs_fields (hld : ldTag < 64) (hdpa : dpa < 2 ^ 45) (hsize : size < 256) :
    let b := proposal kind id (pageArgs ldTag dpa size)
    propField b 8 1 = ldTag ∧ propField b 9 7 = 0 ∧ propField b 16 8 = dpa ∧ propField b 24 1 = size ∧ propField b 25 7 = 0 := by
  refine ⟨?_, ?_, ?_, ?_, ?_⟩ <;> rw [propField_args (by decide) (by decide), pageArgs] <;> norm_num <;> omega

/-- A proposal about a page or a range of an LD is well formed. -/
theorem propOk_page (hkind : kind = 1 ∨ kind = 2) (hld : ldTag < 64) (hdpa : dpa < 2 ^ 45) (hpage : dpa % 4096 = 0) :
    propOk (proposal kind id (pageArgs ldTag dpa 0)) = true := by
  obtain ⟨hf8, hf9, hf16, hf24, hf25⟩ := pageArgs_fields (kind := kind) (id := id) hld hdpa (size := 0) (by decide)
  have hzero : propField (proposal kind id (pageArgs ldTag dpa 0)) 24 8 = 0 := by
    rw [propField_args (by decide) (by decide), pageArgs]
    norm_num
    omega
  norm_num at hdpa
  rcases hkind with rfl | rfl <;>
    simp [propOk, propZero, propPage, propField_kind, propField_reserved, hf8, hf9, hf16, hzero, hld, hdpa, hpage]

theorem propOk_range (hkind : kind = 9 ∨ kind = 10) (hld : ldTag < 64) (hdpa : dpa < 2 ^ 45) (hlow : 12 ≤ size) (hhigh : size ≤ 44)
    (hpage : dpa % 2 ^ size = 0) : propOk (proposal kind id (pageArgs ldTag dpa size)) = true := by
  obtain ⟨hf8, hf9, hf16, hf24, hf25⟩ := pageArgs_fields (kind := kind) (id := id) hld hdpa (size := size) (by omega)
  norm_num at hdpa
  rcases hkind with rfl | rfl <;>
    simp [propOk, propZero, propPage, propField_kind, propField_reserved, hf8, hf9, hf16, hf24, hf25, hld, hdpa, hpage, hlow, hhigh]

theorem mpaArgs_fields {m : Nat} (hm : m < 2 ^ 44) :
    propField (proposal kind id m) 8 8 = m ∧ propField (proposal kind id m) 16 16 = 0 := by
  refine ⟨?_, ?_⟩ <;> rw [propField_args (by decide) (by decide)] <;> norm_num <;> omega

theorem propOk_retirePage {m : Nat} (hm : m < 2 ^ 44) (hpage : m % 4096 = 0) : propOk (proposal 3 id m) = true := by
  obtain ⟨hf8, hf16⟩ := mpaArgs_fields (kind := 3) (id := id) hm
  norm_num at hm
  simp [propOk, propZero, propField_kind, propField_reserved, hf8, hf16, hm, hpage]

theorem bankArgs_fields {x rank subch bg ba : Nat} (hx : x < 16) (hrank : rank < 4) (hsubch : subch < 2) (hbg : bg < 8) (hba : ba < 4) :
    let b := proposal kind id (x + rank * 2 ^ 8 + subch * 2 ^ 16 + bg * 2 ^ 24 + ba * 2 ^ 32)
    propField b 8 1 = x ∧ propField b 9 1 = rank ∧ propField b 10 1 = subch ∧ propField b 11 1 = bg ∧ propField b 12 1 = ba ∧
      propField b 13 19 = 0 := by
  refine ⟨?_, ?_, ?_, ?_, ?_, ?_⟩ <;> rw [propField_args (by decide) (by decide)] <;> norm_num <;> omega

theorem propOk_retireBank {x rank subch bg ba : Nat} (hx : x < 16) (hrank : rank < 4) (hsubch : subch < 2) (hbg : bg < 8)
    (hba : ba < 4) : propOk (proposal 4 id (x + rank * 2 ^ 8 + subch * 2 ^ 16 + bg * 2 ^ 24 + ba * 2 ^ 32)) = true := by
  have hargs := bankArgs_fields (kind := 4) (id := id) hx hrank hsubch hbg hba
  generalize x + rank * 2 ^ 8 + subch * 2 ^ 16 + bg * 2 ^ 24 + ba * 2 ^ 32 = args at hargs
  obtain ⟨hf8, hf9, hf10, hf11, hf12, hf13⟩ := hargs
  simp [propOk, propZero, propField_kind, propField_reserved, hf8, hf9, hf10, hf11, hf12, hf13, hx, hrank, hsubch, hbg, hba]

theorem copyArgs_fields {copy : Nat} (hcopy : copy < 2) :
    propField (proposal kind id copy) 8 1 = copy ∧ propField (proposal kind id copy) 9 23 = 0 := by
  refine ⟨?_, ?_⟩ <;> rw [propField_args (by decide) (by decide)] <;> norm_num <;> omega

theorem propOk_reload {copy : Nat} (hcopy : copy < 2) : propOk (proposal 13 id copy) = true := by
  obtain ⟨hf8, hf9⟩ := copyArgs_fields (kind := 13) (id := id) hcopy
  have hle : copy ≤ 1 := by omega
  simp [propOk, propZero, propField_kind, propField_reserved, hf8, hf9, hle]

/-- A proposal about the member itself carries no arguments. -/
theorem propOk_member (hkind : kind = 11 ∨ kind = 12 ∨ kind = 14) : propOk (proposal kind id 0) = true := by
  have hzero : propField (proposal kind id 0) 8 24 = 0 := by
    rw [propField_args (by decide) (by decide)]
    norm_num
  rcases hkind with rfl | rfl | rfl <;> simp [propOk, propZero, propField_kind, propField_reserved, hzero]

end Fields

/-! ## Taking (R424, R425) -/

theorem takeProposals_of_empty (n : Nat) (h : t.queue.gateHead = t.queue.gateTail) : takeProposals n t = t := by
  cases n with
  | zero => rfl
  | succ n => simp [takeProposals, h]

theorem takeProposals_next {n : Nat} (hring : t.queue.gateHead ≠ t.queue.gateTail) (hgerm : t.fw.germUp = true) :
    takeProposals (n + 1) t = takeProposals n (takeOne t) := by
  rw [takeProposals, if_neg (by simp [hring, hgerm])]

theorem tailWrite_next (hlt : t.queue.gateTail < 256) (hfree : slotBusy t t.queue.gateTail = false) :
    tailWrite ((t.queue.gateTail + 1) % 256) t =
      takeProposals 256 { t with queue := { t.queue with gateTail := (t.queue.gateTail + 1) % 256 } } := by
  have hone : ((t.queue.gateTail + 1) % 256 + 256 - t.queue.gateTail) % 256 = 1 := by omega
  have hbusy : ¬ ((List.range (((t.queue.gateTail + 1) % 256 + 256 - t.queue.gateTail) % 256)).any
      fun j => slotBusy t ((t.queue.gateTail + j) % 256)) = true := by
    simp [hone, Nat.mod_eq_of_lt hlt, hfree]
  rw [tailWrite, if_neg hbusy, Nat.mod_mod]

/-- Bran has filled the next slot and moved the tail past it. -/
def offered (b : BitVec 256) (s : State) : State :=
  { s with queue := { s.queue with
      slots := kset 0 s.queue.slots s.queue.gateTail b, gateTail := (s.queue.gateTail + 1) % 256 } }

/-- The verdict of a proposal that Germ has taken is PENDING. -/
theorem verdictAt_taken (b : BitVec 256) : verdictAt (taken b s) s.queue.gateTail = ⟨0, 0, 0, propField b 2 2, s.dtime, true⟩ :=
  kget_kset_ne (by simp [Verdict.init])

theorem taken_domainDown (b : BitVec 256) : (taken b s).domainDown = s.domainDown := rfl
theorem taken_bring (b : BitVec 256) : (taken b s).bring = s.bring := rfl

section Taken
variable {b : BitVec 256} (hready : gateReady s = true)
include hready

theorem slotBits_taken : slotBits (taken b s) s.queue.gateTail = b := by
  simp only [gateReady, Bool.and_eq_true] at hready
  exact kget_kset_same hready.2

/-- The ring was empty, and Germ decides the one proposal in it. -/
theorem submit_of_gateReady : submit b s = takeProposals 255 (decide_ s.queue.gateTail (taken b s)) := by
  have hslot := slotBits_taken (b := b) hready
  simp only [gateReady, Bool.and_eq_true, decide_eq_true_eq, Bool.not_eq_true'] at hready
  obtain ⟨⟨⟨⟨⟨hbran, hgerm⟩, hlt⟩, hring⟩, hfree⟩, -⟩ := hready
  have hne : (offered b s).queue.gateHead ≠ (offered b s).queue.gateTail := by
    show s.queue.gateHead ≠ (s.queue.gateTail + 1) % 256
    omega
  have hwrite : submit b s = takeProposals 256 (offered b s) := by
    rw [submit, if_neg (by simp [hbran]), if_neg (by simp [hfree])]
    exact tailWrite_next (t := { s with queue := { s.queue with slots := kset 0 s.queue.slots s.queue.gateTail b } }) hlt hfree
  have hone : takeOne (offered b s) = decide_ s.queue.gateTail (taken b s) := by
    have hhead : (offered b s).queue.gateHead = s.queue.gateTail := hring
    simp only [takeOne, hhead]
    have hbits : propField (slotBits (offered b s) s.queue.gateTail) 2 2 = propField b 2 2 :=
      congrArg (propField · 2 2) hslot
    rw [hbits]
    rfl
  rw [hwrite, takeProposals_next hne hgerm, hone]

/-- The proposal is decided, and the ring is empty again. -/
theorem submit_eq (hring : (decide_ s.queue.gateTail (taken b s)).queue.gateHead =
    (decide_ s.queue.gateTail (taken b s)).queue.gateTail) : submit b s = decide_ s.queue.gateTail (taken b s) := by
  rw [submit_of_gateReady hready, takeProposals_of_empty _ hring]

variable (hup : s.domainDown = false) (hreload : s.bring.reloadBusy = false) (hok : propOk b = true)
include hup hreload hok

theorem decide_promote (hkind : propField b 0 2 = 1) : decide_ s.queue.gateTail (taken b s) =
    applyDecision s.queue.gateTail (decidePromote s.queue.gateTail (propField b 8 1) (propField b 16 8) (taken b s)) := by
  simp [decide_, slotBits_taken hready, taken_domainDown, taken_bring, hup, hreload, hok, hkind]

theorem decide_demote (hkind : propField b 0 2 = 2) : decide_ s.queue.gateTail (taken b s) =
    applyDecision s.queue.gateTail (decideDemote s.queue.gateTail (propField b 8 1) (propField b 16 8) (taken b s)) := by
  simp [decide_, slotBits_taken hready, taken_domainDown, taken_bring, hup, hreload, hok, hkind]

theorem decide_retirePage (hkind : propField b 0 2 = 3) : decide_ s.queue.gateTail (taken b s) =
    applyDecision s.queue.gateTail (decideRetirePage s.queue.gateTail (propField b 8 8) (taken b s)) := by
  simp [decide_, slotBits_taken hready, taken_domainDown, taken_bring, hup, hreload, hok, hkind]

theorem decide_retireBank (hkind : propField b 0 2 = 4) : decide_ s.queue.gateTail (taken b s) =
    applyDecision s.queue.gateTail (decideRetireBank s.queue.gateTail (propField b 8 1) (propField b 9 1) (propField b 10 1)
      (propField b 11 1) (propField b 12 1) (taken b s)) := by
  simp [decide_, slotBits_taken hready, taken_domainDown, taken_bring, hup, hreload, hok, hkind]

theorem decide_pin (hkind : propField b 0 2 = 9) :
    decide_ s.queue.gateTail (taken b s) = decidePin s.queue.gateTail b true (taken b s) := by
  simp [decide_, slotBits_taken hready, taken_domainDown, taken_bring, hup, hreload, hok, hkind]

theorem decide_unpin (hkind : propField b 0 2 = 10) :
    decide_ s.queue.gateTail (taken b s) = decidePin s.queue.gateTail b false (taken b s) := by
  simp [decide_, slotBits_taken hready, taken_domainDown, taken_bring, hup, hreload, hok, hkind]

theorem decide_leave (hkind : propField b 0 2 = 11) : decide_ s.queue.gateTail (taken b s) =
    if mayLeave s then doneProp s.queue.gateTail (doLeave (acceptProp s.queue.gateTail (taken b s)))
    else refuseProp s.queue.gateTail 12 0 (taken b s) := by
  simp only [decide_, slotBits_taken hready, taken_domainDown, taken_bring, hup, hreload, hok, hkind]
  rfl

theorem decide_handover (hkind : propField b 0 2 = 12) : decide_ s.queue.gateTail (taken b s) =
    if mayHandover s then beginHandover (acceptProp s.queue.gateTail (taken b s))
    else refuseProp s.queue.gateTail 12 0 (taken b s) := by
  simp only [decide_, slotBits_taken hready, taken_domainDown, taken_bring, hup, hreload, hok, hkind]
  rfl

theorem decide_reload (hkind : propField b 0 2 = 13) :
    decide_ s.queue.gateTail (taken b s) = decideReload s.queue.gateTail (propField b 8 1 = 1) (taken b s) := by
  simp [decide_, slotBits_taken hready, taken_domainDown, taken_bring, hup, hreload, hok, hkind]

theorem decide_rest (hkind : propField b 0 2 = 14) :
    decide_ s.queue.gateTail (taken b s) = decideRest s.queue.gateTail (taken b s) := by
  simp [decide_, slotBits_taken hready, taken_domainDown, taken_bring, hup, hreload, hok, hkind]

end Taken

end Sys2Proof.Machine

/-! # What the begin of a move leaves (R188) -/

namespace Sys2Proof.Machine

variable {s t u : State}

/-- The ring of the gate queue and the verdicts that no work at homes and ports gives are as they were. -/
structure RingKept (s t : State) : Prop where
  gateHead : t.queue.gateHead = s.queue.gateHead
  gateTail : t.queue.gateTail = s.queue.gateTail
  slots : t.queue.slots = s.queue.slots
  verdicts : ∀ i, ¬ Ends s i → verdictAt t i = verdictAt s i

theorem RingKept.trans (h : RingKept s t) (k : RingKept t u) : RingKept s u where
  gateHead := k.gateHead.trans h.gateHead
  gateTail := k.gateTail.trans h.gateTail
  slots := k.slots.trans h.slots
  verdicts i hi := (k.verdicts i (by rwa [Ends, h.verdicts i hi, slotBits, h.slots])).trans (h.verdicts i hi)

theorem Works.ringKept {F S : Prop} (h : Works F S s t) : RingKept s t := ⟨h.gateHead, h.gateTail, h.slots, h.verdicts⟩

theorem ringKept_of_eq (hqueue : t.queue = s.queue) : RingKept s t :=
  ⟨by rw [hqueue], by rw [hqueue], by rw [hqueue], fun i _ => by rw [verdictAt, verdictAt, hqueue]⟩

/-- An invalidation is the ports' and the Sheaf's alone. -/
theorem invalidatePage_keep (r : Region) (dpa : Nat) (s : State) :
    (invalidatePage r dpa s).queue = s.queue ∧ (invalidatePage r dpa s).tier = s.tier := by
  have hall (all : Bool) (tag : Nat) :
      (invalidate all tag dpa 12 s).queue = s.queue ∧ (invalidate all tag dpa 12 s).tier = s.tier := by
    have hack (p : Fin 4) (u : State) : ((invAckStep p u).queue, (invAckStep p u).tier) = (u.queue, u.tier) := by
      unfold invAckStep
      dsimp only
      split <;> rfl
    have hkept := eachPort_keep (fun u => (u.queue, u.tier)) invAckStep hack
    have hport := eachPort_keep (fun u => (u.queue, u.tier)) (fun p t => invPort p all tag dpa 12 t) fun _ _ => rfl
    exact Prod.mk.inj ((hkept _).trans (hport _))
  unfold invalidatePage
  split
  · exact hall false _
  · exact hall true 0

theorem ownHold_keep {o : HoldOwner} {page : Nat} (h : ownHold o page s = some t) :
    RingKept s t ∧ t.tier.moves = s.tier.moves ∧ t.tier.retired = s.tier.retired ∧ t.gate = s.gate := by
  unfold ownHold at h
  split at h
  · obtain rfl := Option.some.inj h
    exact ⟨ringKept_of_eq rfl, rfl, rfl, rfl⟩
  · obtain ⟨u, hplace, rfl⟩ := Option.map_eq_some_iff.1 h
    unfold placeHold at hplace
    dsimp only at hplace
    split at hplace
    · exact absurd hplace (by simp)
    · obtain rfl := Option.some.inj hplace
      exact ⟨ringKept_of_eq rfl, rfl, rfl, rfl⟩

/-- The leaf of a move's page is written and invalidated. -/
theorem remap_keep {c : Prop} [Decidable c] (r : Region) (dpa : Nat) (leaf : Word) (s : State) :
    let t := if c then remapPage r dpa leaf s else invalidatePage r dpa s
    RingKept s t ∧ t.tier.moves = s.tier.moves ∧ t.tier.retired = s.tier.retired := by
  have hinval (u : State) := invalidatePage_keep r dpa u
  have hwrite : Works False False s (writeMapping r dpa 12 leaf s) := (Works.refl s).writeMapping
  dsimp only
  split
  · obtain ⟨hqueue, htier⟩ := hinval (writeMapping r dpa 12 leaf s)
    exact ⟨hwrite.ringKept.trans (ringKept_of_eq hqueue), by rw [remapPage, htier, hwrite.moves],
      by rw [remapPage, htier, hwrite.retired]⟩
  · obtain ⟨hqueue, htier⟩ := hinval s
    exact ⟨ringKept_of_eq hqueue, by rw [htier], by rw [htier]⟩

/-- Every move of `s` is open in `t`, in the same step while another invalidation is open. -/
def MovesOpen (s t : State) : Prop := ∀ m ∈ s.tier.moves, ∃ st inv, { m with step := st, inv := inv } ∈ t.tier.moves ∧
  (s.gate.invOpen = true → st = m.step)

theorem movesOpen_of_eq (h : t.tier.moves = s.tier.moves) : MovesOpen s t := fun m hm => ⟨m.step, m.inv, h ▸ hm, fun _ => rfl⟩

theorem mem_updMove {mid : Nat} {f : Move → Move} {m : Move} (h : m ∈ s.tier.moves) :
    (if m.mid = mid then f m else m) ∈ (updMove mid f s).tier.moves :=
  List.mem_map_of_mem (f := fun m => if m.mid = mid then f m else m) h

theorem movesOpen_updMove {mid : Nat} {st : MoveStep} {inv : Nat} (hopen : s.gate.invOpen ≠ true)
    (hmoves : t.tier.moves = s.tier.moves) : MovesOpen s (updMove mid (fun m => { m with step := st, inv := inv }) t) := by
  intro m hm
  have hmem := mem_updMove (mid := mid) (f := fun m => { m with step := st, inv := inv }) (hmoves ▸ hm)
  by_cases hmid : m.mid = mid
  · exact ⟨st, inv, by rwa [if_pos hmid] at hmem, fun h => absurd h hopen⟩
  · exact ⟨m.step, m.inv, by rwa [if_neg hmid] at hmem, fun _ => rfl⟩

theorem moveInval_keep (mid : Nat) (s : State) :
    RingKept s (moveInval mid s) ∧ (moveInval mid s).tier.retired = s.tier.retired ∧ MovesOpen s (moveInval mid s) := by
  have hsame : RingKept s s ∧ s.tier.retired = s.tier.retired ∧ MovesOpen s s := ⟨ringKept_of_eq rfl, rfl, movesOpen_of_eq rfl⟩
  unfold moveInval
  split
  · exact hsame
  · next m _ =>
    split
    · exact hsame
    · split
      · next s1 r hown _ =>
        obtain ⟨hring, hmoves, hretired, hgate⟩ := ownHold_keep hown
        split
        · exact ⟨hring, hretired, movesOpen_of_eq hmoves⟩
        · next hopen =>
          obtain ⟨hring2, hmoves2, hretired2⟩ := remap_keep (c := m.step = .alloc) r m.dpa (moveLeaf r m) s1
          exact ⟨(hring.trans hring2).trans (ringKept_of_eq rfl), hretired2.trans hretired,
            movesOpen_updMove (hgate ▸ hopen) (hmoves2.trans hmoves)⟩
      · exact hsame

/-- A move that is begun is listed, in its first step while another invalidation is open. -/
theorem startMove_keep (ldTag dpa src : Nat) (srcPacked : Bool) (dst : Nat) (dstPacked : Bool) (slot : Option Nat) (retire : Bool)
    (s : State) :
    let t := startMove ldTag dpa src srcPacked dst dstPacked slot retire s
    RingKept s t ∧ t.tier.retired = s.tier.retired ∧
      ∃ st inv, ⟨s.seq, ldTag, dpa, srcPacked, src, dstPacked, dst, st, inv, slot, retire⟩ ∈ t.tier.moves ∧
        (s.gate.invOpen = true → st = .alloc) := by
  obtain ⟨hring, hretired, hmoves⟩ := moveInval_keep s.seq { s with seq := s.seq + 1, tier := { s.tier with
    moves := s.tier.moves ++ [⟨s.seq, ldTag, dpa, srcPacked, src, dstPacked, dst, .alloc, 0, slot, retire⟩] } }
  exact ⟨.trans (by exact ringKept_of_eq rfl) hring, hretired, hmoves _ (List.mem_append_right _ (List.mem_singleton_self _))⟩

end Sys2Proof.Machine

/-! # Proposals on a page (R188, R190, Tables 7.3 and 17.4) -/

namespace Sys2Proof.Machine

variable {s t s1 s2 : State} {b : BitVec 256} {ldTag dpa slot : Nat} {r : Region} {e : Word} {d : Nat}

/-! ## How a decision becomes a verdict -/

/-- A proposal that Germ has just taken is not one that other work ends. -/
theorem not_ends_taken : ¬ Ends (taken b s) s.queue.gateTail := fun h => by simp [Ends, verdictAt_taken] at h

theorem RingKept.verdictAt_taken (h : RingKept (taken b s) t) :
    verdictAt t s.queue.gateTail = ⟨0, 0, 0, propField b 2 2, s.dtime, true⟩ :=
  (h.verdicts _ not_ends_taken).trans (Machine.verdictAt_taken b)

theorem RingKept.empty (h : RingKept (taken b s) t) : t.queue.gateHead = t.queue.gateTail := h.gateHead.trans h.gateTail.symm

section Verdicts
variable (hready : gateReady s = true)
include hready

theorem submit_refused {reason : Nat}
    (h : decide_ s.queue.gateTail (taken b s) = applyDecision s.queue.gateTail (.refuse reason 0, taken b s)) :
    submit b s = setVerdict s.queue.gateTail 3 reason 0 (taken b s) := by
  rw [submit_eq hready (by rw [h]; rfl), h]
  rfl

theorem submit_accepted (h : decide_ s.queue.gateTail (taken b s) = applyDecision s.queue.gateTail (.accept, t))
    (hkept : RingKept (taken b s) t) : submit b s = acceptProp s.queue.gateTail t := by
  have haccept : applyDecision s.queue.gateTail (.accept, t) = acceptProp s.queue.gateTail t :=
    if_pos (by rw [hkept.verdictAt_taken])
  rw [submit_eq hready (by rw [h, haccept]; exact hkept.empty), h, haccept]

theorem submit_done (h : decide_ s.queue.gateTail (taken b s) = applyDecision s.queue.gateTail (.done, t))
    (hkept : RingKept (taken b s) t) : submit b s = doneProp s.queue.gateTail t := by
  rw [submit_eq hready (by rw [h]; exact hkept.empty), h]
  rfl

end Verdicts

/-! ## PROMOTE and DEMOTE -/

theorem regionAt_taken : regionAt (taken b s) = regionAt s := rfl

/-- No region that may hold packed pages is at the address. -/
def Inelastic (s : State) (ldTag dpa : Nat) : Prop := ∀ r, regionAt s ldTag dpa = some r → r.elastic = false

theorem decidePromote_of_inelastic (h : Inelastic s ldTag dpa) : decidePromote slot ldTag dpa s = (.refuse 1 0, s) := by
  unfold decidePromote
  cases hr : regionAt s ldTag dpa with
  | none => rfl
  | some r => simp [h r hr]

theorem decideDemote_of_inelastic (h : Inelastic s ldTag dpa) : decideDemote slot ldTag dpa s = (.refuse 1 0, s) := by
  unfold decideDemote
  cases hr : regionAt s ldTag dpa with
  | none => rfl
  | some r => simp [h r hr]

theorem decidePromote_accept (hr : regionAt s ldTag dpa = some r) (helastic : r.elastic = true)
    (hleaf : pageLeaf ldTag dpa s = (some e, s1)) (hmove : moveOpen s1 r dpa = false) (hcommand : commandOpen s1 r dpa = false)
    (hroom : pagesFull s1 (regionPool r) = false) (htier : eTier e = 1) (hforward : forwardedTo s1 (eAddr e) = none)
    (hpool : s1.tier.pools[regionPool r].state = .normal)
    (hpick : allocPick (regionPool r) (fun pg => !homeFull s1 (home (pg <<< 12))) s1 = (some d, s2)) :
    decidePromote slot ldTag dpa s = (.accept, startMove ldTag dpa (eAddr e) true d false (some slot) false s2) := by
  simp only [decidePromote, hr, helastic, hleaf, htier, hforward, hmove, hcommand, hroom, hpool, hpick]
  rfl

theorem decideDemote_accept (hr : regionAt s ldTag dpa = some r) (helastic : r.elastic = true)
    (hleaf : pageLeaf ldTag dpa s = (some e, s1)) (hmove : moveOpen s1 r dpa = false) (hcommand : commandOpen s1 r dpa = false)
    (hroom : descsFull s1 = false) (htier : eTier e = 0) (hpinned : r.pinned = false)
    (htake : takeDesc s1 (fun x => !homeFull s1 (home x)) = (some d, s2)) : decideDemote slot ldTag dpa s =
      (.accept, startMove ldTag dpa (eAddr e) false d true (some slot) false (writeDesc d 0 (holdPath 7 d s2))) := by
  simp only [decideDemote, hr, helastic, hleaf, htier, hpinned, hmove, hcommand, hroom, htake]
  rfl

/-- Picking a free page leaves the Sheaf as it was. -/
theorem allocPick_gate {n : Fin 2} {ok : Nat → Bool} (h : allocPick n ok s = (some d, t)) : t.gate = s.gate := by
  have hjudge (u : State) : (judgePool n u).gate = u.gate := by
    unfold judgePool
    dsimp only
    split
    · rfl
    · split <;> rfl
  unfold allocPick at h
  dsimp only at h
  split at h
  · exact absurd h (by simp)
  · split at h
    · obtain ⟨-, rfl⟩ := Prod.mk.inj h
      exact hjudge _
    · exact absurd h (by simp)

/-- The move that a proposal has begun, with the proposal ACCEPTED. -/
theorem accepted_move {src : Nat} {srcPacked : Bool} {dst : Nat} {dstPacked retire : Bool} (i : Nat) (s : State) :
    let t := acceptProp i (startMove ldTag dpa src srcPacked dst dstPacked (some i) retire s)
    (verdictAt t i).status = 1 ∧ t.tier.retired = s.tier.retired ∧
      ∃ m ∈ t.tier.moves, m.mid = s.seq ∧ m.ldTag = ldTag ∧ m.dpa = dpa ∧ m.src = src ∧ m.srcPacked = srcPacked ∧ m.dst = dst ∧
        m.dstPacked = dstPacked ∧ m.slot = some i ∧ m.retire = retire ∧ (s.gate.invOpen = true → m.step = .alloc) := by
  obtain ⟨-, hretired, st, inv, hmem, hstep⟩ := startMove_keep ldTag dpa src srcPacked dst dstPacked (some i) retire s
  refine ⟨congrArg Verdict.status (verdictAt_setVerdict_same i 1 0 0 _), hretired, _, hmem, ?_⟩
  exact ⟨rfl, rfl, rfl, rfl, rfl, rfl, rfl, rfl, rfl, hstep⟩

section Pages
variable {c : Fin 4} {id : Nat} {ldTag : Fin 64} (hready : gateReady s = true) (hup : s.domainDown = false)
  (hreload : s.bring.reloadBusy = false) (hdpa : dpa < 2 ^ 45) (hpage : dpa % 4096 = 0)
include hready hup hreload hdpa hpage

theorem decide_promote_page : decide_ s.queue.gateTail (taken (proposal 1 id (pageArgs ldTag dpa 0)) s) =
    applyDecision s.queue.gateTail (decidePromote s.queue.gateTail ldTag dpa (taken (proposal 1 id (pageArgs ldTag dpa 0)) s)) := by
  obtain ⟨hf8, -, hf16, -, -⟩ := pageArgs_fields (kind := 1) (id := id) ldTag.isLt hdpa (size := 0) (by decide)
  rw [decide_promote hready hup hreload (propOk_page (.inl rfl) ldTag.isLt hdpa hpage) (propField_kind (by decide)), hf8, hf16]

theorem decide_demote_page : decide_ s.queue.gateTail (taken (proposal 2 id (pageArgs ldTag dpa 0)) s) =
    applyDecision s.queue.gateTail (decideDemote s.queue.gateTail ldTag dpa (taken (proposal 2 id (pageArgs ldTag dpa 0)) s)) := by
  obtain ⟨hf8, -, hf16, -, -⟩ := pageArgs_fields (kind := 2) (id := id) ldTag.isLt hdpa (size := 0) (by decide)
  rw [decide_demote hready hup hreload (propOk_page (.inr rfl) ldTag.isLt hdpa hpage) (propField_kind (by decide)), hf8, hf16]

theorem exec_of_inelastic (h : Inelastic s ldTag dpa) :
    exec (.promote c id ldTag dpa) s =
        .next (setVerdict s.queue.gateTail 3 1 0 (taken (proposal 1 id (pageArgs ldTag dpa 0)) s)) ∧
      exec (.demote c id ldTag dpa) s =
        .next (setVerdict s.queue.gateTail 3 1 0 (taken (proposal 2 id (pageArgs ldTag dpa 0)) s)) := by
  constructor
  · exact congrArg _ (submit_refused hready <| by
      rw [decide_promote_page hready hup hreload hdpa hpage, decidePromote_of_inelastic (s := taken _ s) h])
  · exact congrArg _ (submit_refused hready <| by
      rw [decide_demote_page hready hup hreload hdpa hpage, decideDemote_of_inelastic (s := taken _ s) h])

theorem completes_promote (hr : regionAt s ldTag dpa = some r) (helastic : r.elastic = true)
    (hleaf : pageLeaf ldTag dpa (taken (proposal 1 id (pageArgs ldTag dpa 0)) s) = (some e, s1))
    (hmove : moveOpen s1 r dpa = false) (hcommand : commandOpen s1 r dpa = false)
    (hroom : pagesFull s1 (regionPool r) = false) (htier : eTier e = 1) (hforward : forwardedTo s1 (eAddr e) = none)
    (hpool : s1.tier.pools[regionPool r].state = .normal)
    (hpick : allocPick (regionPool r) (fun pg => !homeFull s1 (home (pg <<< 12))) s1 = (some d, s2)) :
    Completes (.promote c id ldTag dpa) s fun t => (verdictAt t s.queue.gateTail).status = 1 ∧
      ∃ m ∈ t.tier.moves, m.mid = s2.seq ∧ m.ldTag = ldTag ∧ m.dpa = dpa ∧ m.src = eAddr e ∧ m.srcPacked = true ∧
        m.dst = d ∧ m.dstPacked = false ∧ m.slot = some s.queue.gateTail ∧ m.retire = false ∧
        (s1.gate.invOpen = true → m.step = .alloc) := by
  have hleafed : Works False False (taken (proposal 1 id (pageArgs ldTag dpa 0)) s) s1 := (Works.refl _).pageLeaf.of_eq hleaf
  have hpicked : Works False False _ s2 := hleafed.allocPick.of_eq hpick
  have hkept := hpicked.ringKept.trans
    (startMove_keep ldTag dpa (eAddr e) true d false (some s.queue.gateTail) false s2).1
  have hdecided := decide_promote_page (id := id) (ldTag := ldTag) hready hup hreload hdpa hpage
  rw [← regionAt_taken (b := proposal 1 id (pageArgs ldTag dpa 0))] at hr
  rw [decidePromote_accept hr helastic hleaf hmove hcommand hroom htier hforward hpool hpick] at hdecided
  obtain ⟨hstatus, -, hmoves⟩ := accepted_move (ldTag := ldTag) (dpa := dpa) (src := eAddr e) (srcPacked := true) (dst := d)
    (dstPacked := false) (retire := false) s.queue.gateTail s2
  rw [allocPick_gate hpick] at hmoves
  exact completes_of_next (congrArg Host.Outcome.next (submit_accepted hready hdecided hkept)) ⟨hstatus, hmoves⟩

theorem completes_demote (hr : regionAt s ldTag dpa = some r) (helastic : r.elastic = true)
    (hleaf : pageLeaf ldTag dpa (taken (proposal 2 id (pageArgs ldTag dpa 0)) s) = (some e, s1))
    (hmove : moveOpen s1 r dpa = false) (hcommand : commandOpen s1 r dpa = false)
    (hroom : descsFull s1 = false) (htier : eTier e = 0) (hpinned : r.pinned = false)
    (htake : takeDesc s1 (fun x => !homeFull s1 (home x)) = (some d, s2)) :
    Completes (.demote c id ldTag dpa) s fun t => (verdictAt t s.queue.gateTail).status = 1 ∧
      ∃ m ∈ t.tier.moves, m.ldTag = ldTag ∧ m.dpa = dpa ∧ m.src = eAddr e ∧ m.srcPacked = false ∧
        m.dst = d ∧ m.dstPacked = true ∧ m.slot = some s.queue.gateTail ∧ m.retire = false := by
  have hleafed : Works False False (taken (proposal 2 id (pageArgs ldTag dpa 0)) s) s1 := (Works.refl _).pageLeaf.of_eq hleaf
  have hwritten : Works False False _ (writeDesc d 0 (holdPath 7 d s2)) := (hleafed.takeDesc.of_eq htake).holdPath.writeDesc
  have hkept := hwritten.ringKept.trans
    (startMove_keep ldTag dpa (eAddr e) false d true (some s.queue.gateTail) false _).1
  have hdecided := decide_demote_page (id := id) (ldTag := ldTag) hready hup hreload hdpa hpage
  rw [← regionAt_taken (b := proposal 2 id (pageArgs ldTag dpa 0))] at hr
  rw [decideDemote_accept hr helastic hleaf hmove hcommand hroom htier hpinned htake] at hdecided
  obtain ⟨hstatus, -, m, hmem, -, htag, haddr, hsrc, hsrcPacked, hdst, hdstPacked, hslot, hretire, -⟩ := accepted_move
    (ldTag := ldTag) (dpa := dpa) (src := eAddr e) (srcPacked := false) (dst := d) (dstPacked := true) (retire := false)
    s.queue.gateTail (writeDesc d 0 (holdPath 7 d s2))
  exact completes_of_next (congrArg Host.Outcome.next (submit_accepted hready hdecided hkept))
    ⟨hstatus, m, hmem, htag, haddr, hsrc, hsrcPacked, hdst, hdstPacked, hslot, hretire⟩

end Pages

end Sys2Proof.Machine

/-! # RETIRE_PAGE (R190, R239, R240, Table 9.4) -/

namespace Sys2Proof.Machine

variable {s t s1 s2 : State} {b : BitVec 256} {dpa slot : Nat} {r : Region} {d : Nat}

/-! ## What the free pages and the forwardings are read from -/

theorem setPool_dram (n : Fin 2) (f : List (Nat × Nat) → List (Nat × Nat)) (s : State) : (setPool n f s).dram = s.dram := by
  unfold setPool judgePool
  dsimp only
  split
  · rfl
  · split <;> rfl

theorem dropFree_dram (m : Nat) (s : State) : (dropFree m s).dram = s.dram := by
  unfold dropFree
  dsimp only
  have hgone := eachSpk_keep State.dram (fun k t => updSpk k (fun q => { q with promo := q.promo.erase m }) t) (fun _ _ => rfl) s
  exact (setPool_dram 1 _ _).trans ((setPool_dram 0 _ _).trans hgone)

theorem Works.forwardOf {S : Prop} (h : Works True S s t) (p : Nat) : forwardOf t p = forwardOf s p := by
  have hmap : t.spks.map (·.forwards) = s.spks.map (·.forwards) := Vector.ext fun i hi => by
    rw [Vector.getElem_map, Vector.getElem_map]
    exact h.forwards trivial ⟨i, hi⟩
  have hlist := congrArg (fun v => v.toList.flatten) hmap
  simp only [Vector.toList_map] at hlist
  rw [Machine.forwardOf, Machine.forwardOf, List.flatMap_def, List.flatMap_def, hlist]

/-! ## The decision -/

/-- The page's refusals so far do not hold: it is neither protected, nor a spare, nor retired, and no move, no list of retired
pages and no granule stands against it. -/
structure Retirable (s : State) (m : Nat) : Prop where
  guarded : isProtected s m = false
  spare : pageSpare s (m >>> 12) = false
  populated : m < populated (geom s)
  fresh : s.tier.retired.contains m = false
  room : s.tier.retired.length < 65536
  moves : (s.tier.moves.any fun v => (!v.srcPacked && v.src = m) || (!v.dstPacked && v.dst = m)) = false
  granules : kfind s.tier.granulePages m = none

/-- The page joins the list of retired ones. -/
def retiring (m : Nat) (s : State) : State := { s with tier := { s.tier with retired := s.tier.retired ++ [m] } }

section Decision
variable {m : Nat}

theorem doneProp_retiring (i m : Nat) (s : State) : (doneProp i (retiring m s)).tier.retired = s.tier.retired ++ [m] ∧
    (doneProp i (retiring m s)).dram = s.dram := ⟨rfl, rfl⟩

theorem ringKept_retiring (m : Nat) (s : State) : RingKept s (retiring m s) := ringKept_of_eq rfl

theorem decideRetirePage_of_fixed (h : isProtected s m = true ∨ populated (geom s) ≤ m) :
    decideRetirePage slot m s = (.refuse 8 0, s) := by
  rcases h with h | h <;> simp [decideRetirePage, h]

theorem decideRetirePage_of_retired (hprotected : isProtected s m = false) (hspare : pageSpare s (m >>> 12) = false)
    (hpopulated : m < populated (geom s)) (h : s.tier.retired.contains m = true) :
    decideRetirePage slot m s = (.refuse 9 0, s) := by
  simp only [decideRetirePage, hprotected, hspare, Nat.not_le.2 hpopulated, h]
  rfl

theorem decideRetirePage_unbacked (h : Retirable s m) (hfind : findBacked m s = (none, s1)) :
    decideRetirePage slot m s = (.done, retiring m (dropFree m s1)) := by
  simp only [decideRetirePage, h.guarded, h.spare, Nat.not_le.2 h.populated, h.fresh, Nat.not_le.2 h.room, h.moves, h.granules, hfind]
  rfl

theorem decideRetirePage_backed {ld : Nat} (h : Retirable s m) (hfind : findBacked m s = (some (ld, dpa), s1))
    (hr : regionAt s1 ld dpa = some r) (helastic : r.elastic = true) (hmove : moveOpen s1 r dpa = false)
    (hcommand : commandOpen s1 r dpa = false) (hpool : s1.tier.pools[poolOf s1 m].state ≠ .critical)
    (hpick : allocPick (poolOf s1 m) (fun _ => true) s1 = (some d, s2)) (hforward : forwardOf s1 m = none) :
    decideRetirePage slot m s = (.accept, startMove ld dpa m false d false (some slot) true (retiring m s2)) := by
  simp only [decideRetirePage, h.guarded, h.spare, Nat.not_le.2 h.populated, h.fresh, Nat.not_le.2 h.room, h.moves, h.granules,
    hfind, hr, helastic, hmove, hcommand, hpool, hpick, hforward]
  rfl

theorem Retirable.taken (h : Retirable s m) : Retirable (taken b s) m := ⟨h.1, h.2, h.3, h.4, h.5, h.6, h.7⟩

end Decision

/-! ## The proposal -/

section Page
variable {c : Fin 4} {id m : Nat} (hready : gateReady s = true) (hup : s.domainDown = false)
  (hreload : s.bring.reloadBusy = false) (hm : m < 2 ^ 44) (hpage : m % 4096 = 0)

theorem exec_retirePage (hm : m < 2 ^ 44) : exec (.retirePage c id m) s = .next (submit (proposal 3 id m) s) := by
  show Host.Outcome.next (submit (proposal 3 id (m % 2 ^ 64)) s) = _
  rw [Nat.mod_eq_of_lt (hm.trans (by decide))]

include hready hup hreload hm hpage

theorem decide_retirePage_page : decide_ s.queue.gateTail (taken (proposal 3 id m) s) =
    applyDecision s.queue.gateTail (decideRetirePage s.queue.gateTail m (taken (proposal 3 id m) s)) := by
  obtain ⟨hf8, -⟩ := mpaArgs_fields (kind := 3) (id := id) hm
  rw [decide_retirePage hready hup hreload (propOk_retirePage hm hpage) (propField_kind (by decide)), hf8]

theorem exec_retirePage_of_fixed (h : isProtected s m = true ∨ populated (geom s) ≤ m) :
    exec (.retirePage c id m) s = .next (setVerdict s.queue.gateTail 3 8 0 (taken (proposal 3 id m) s)) := by
  rw [exec_retirePage hm, submit_refused hready (reason := 8)]
  rw [decide_retirePage_page hready hup hreload hm hpage, decideRetirePage_of_fixed (s := taken _ s) h]

theorem exec_retirePage_of_retired (hprotected : isProtected s m = false) (hspare : pageSpare s (m >>> 12) = false)
    (hpopulated : m < populated (geom s)) (h : s.tier.retired.contains m = true) :
    exec (.retirePage c id m) s = .next (setVerdict s.queue.gateTail 3 9 0 (taken (proposal 3 id m) s)) := by
  rw [exec_retirePage hm, submit_refused hready (reason := 9)]
  rw [decide_retirePage_page hready hup hreload hm hpage,
    decideRetirePage_of_retired (s := taken _ s) hprotected hspare hpopulated h]

theorem completes_retirePage_unbacked (h : Retirable s m) (hfind : findBacked m (taken (proposal 3 id m) s) = (none, s1)) :
    Completes (.retirePage c id m) s fun t => (verdictAt t s.queue.gateTail).status = 2 ∧
      t.tier.retired = s1.tier.retired ++ [m] ∧ t.dram = s1.dram := by
  have hfound : Works False False (taken (proposal 3 id m) s) s1 := (Works.refl _).findBacked.of_eq hfind
  have hdropped : Works False False s1 (dropFree m s1) := (Works.refl s1).dropFree
  have hdecided := decide_retirePage_page (id := id) hready hup hreload hm hpage
  rw [decideRetirePage_unbacked h.taken hfind] at hdecided
  have hring : RingKept (taken (proposal 3 id m) s) (retiring m (dropFree m s1)) :=
    (hfound.trans hdropped).ringKept.trans (ringKept_retiring m _)
  obtain ⟨hretired, hdram⟩ := doneProp_retiring s.queue.gateTail m (dropFree m s1)
  refine completes_of_next ((exec_retirePage hm).trans (congrArg _ (submit_done hready hdecided hring))) ⟨?_, ?_, ?_⟩
  · exact congrArg Verdict.status (verdictAt_setVerdict_same s.queue.gateTail 2 0 0 _)
  · exact hretired.trans (congrArg (· ++ [m]) hdropped.retired)
  · exact hdram.trans (dropFree_dram m s1)

theorem completes_retirePage_backed {ld : Nat} (h : Retirable s m) (hforward : Machine.forwardOf s m = none)
    (hfind : findBacked m (taken (proposal 3 id m) s) = (some (ld, dpa), s1)) (hr : regionAt s1 ld dpa = some r)
    (helastic : r.elastic = true) (hmove : moveOpen s1 r dpa = false) (hcommand : commandOpen s1 r dpa = false)
    (hpool : s1.tier.pools[poolOf s1 m].state ≠ .critical)
    (hpick : allocPick (poolOf s1 m) (fun _ => true) s1 = (some d, s2)) :
    Completes (.retirePage c id m) s fun t => (verdictAt t s.queue.gateTail).status = 1 ∧ m ∈ t.tier.retired ∧
      ∃ v ∈ t.tier.moves, v.ldTag = ld ∧ v.dpa = dpa ∧ v.src = m ∧ v.srcPacked = false ∧ v.dst = d ∧ v.dstPacked = false ∧
        v.retire = true ∧ v.slot = some s.queue.gateTail := by
  have hfound : Works True False (taken (proposal 3 id m) s) s1 := (Works.refl _).findBacked.of_eq hfind
  have hpicked : Works True False _ s2 := hfound.allocPick.of_eq hpick
  have hforward1 : Machine.forwardOf s1 m = none := (hfound.forwardOf m).trans hforward
  have hdecided := decide_retirePage_page (id := id) hready hup hreload hm hpage
  rw [decideRetirePage_backed h.taken hfind hr helastic hmove hcommand hpool hpick hforward1] at hdecided
  have hkept := (hpicked.ringKept.trans (ringKept_retiring m s2)).trans
    (startMove_keep ld dpa m false d false (some s.queue.gateTail) true (retiring m s2)).1
  obtain ⟨hstatus, hretired, v, hmem, -, htag, haddr, hsrc, hsrcPacked, hdst, hdstPacked, hslot, hretire, -⟩ := accepted_move
    (ldTag := ld) (dpa := dpa) (src := m) (srcPacked := false) (dst := d) (dstPacked := false) (retire := true)
    s.queue.gateTail (retiring m s2)
  refine completes_of_next ((exec_retirePage hm).trans (congrArg _ (submit_accepted hready hdecided hkept))) ⟨hstatus, ?_, v, hmem,
    htag, haddr, hsrc, hsrcPacked, hdst, hdstPacked, hretire, hslot⟩
  rw [hretired]
  exact List.mem_append_right _ (List.mem_singleton_self m)

end Page

end Sys2Proof.Machine

/-! # RETIRE_BANK (R243, Table 9.4) -/

namespace Sys2Proof.Machine

variable {s : State} {b : BitVec 256} {slot : Nat}

/-- The bank's copy to the spare rank `q`. -/
def bankCopy (s : State) (x : Fin 16) (rank q subch bg ba slot : Nat) : SpareCopy :=
  let k : SpareCopy := ⟨true, rank, q, subch, bg, ba, 0, some slot⟩
  { k with ptr := copyLine (geom s) x k (rank <<< rankShift (geom s)) }

/-- A bank's copy begins in its channel alone. -/
def copying (x : Fin 16) (k : SpareCopy) (s : State) : State :=
  updMc x (fun m => { m with copy := some k, bound := m.bound ||| (1 <<< k.to_) }) s

/-- A bank of a rank that may be remapped, and is not yet: at most three others of its channel are, and no copy runs. -/
structure BankFree (s : State) (x : Fin 16) (rank subch bg ba : Nat) : Prop where
  unspared : (spareMask s x).testBit rank = false
  ranks : rank < (geom s).ranks
  unknown : (s.mcs[x].remaps.any fun m => m.rank = rank && m.subch = subch && m.bg = bg && m.ba = ba) = false
  room : s.mcs[x].remaps.length < 4
  idle : s.mcs[x].copy = none

section Decision
variable {x : Fin 16} {rank subch bg ba q : Nat}

theorem mc16_val (x : Fin 16) : mc16 x = x := Fin.ext (Nat.mod_eq_of_lt x.isLt)

theorem decideRetireBank_of_spare (h : (spareMask s x).testBit rank = true ∨ (geom s).ranks ≤ rank) :
    decideRetireBank slot x rank subch bg ba s = (.refuse 8 0, s) := by
  rcases h with h | h <;> simp [decideRetireBank, mc16_val, h]

section Unspared
variable (hspare : (spareMask s x).testBit rank = false) (hranks : rank < (geom s).ranks)
include hspare hranks

theorem decideRetireBank_of_known
    (hknown : (s.mcs[x].remaps.any fun m => m.rank = rank && m.subch = subch && m.bg = bg && m.ba = ba) = true) :
    decideRetireBank slot x rank subch bg ba s = (.refuse 9 0, s) := by
  simp only [decideRetireBank, mc16_val, hspare, Nat.not_le.2 hranks, hknown]
  rfl

theorem decideRetireBank_of_full
    (hknown : (s.mcs[x].remaps.any fun m => m.rank = rank && m.subch = subch && m.bg = bg && m.ba = ba) = false)
    (hfull : 4 ≤ s.mcs[x].remaps.length) : decideRetireBank slot x rank subch bg ba s = (.refuse 10 0, s) := by
  simp only [decideRetireBank, mc16_val, hspare, Nat.not_le.2 hranks, hknown, hfull]
  rfl

end Unspared

theorem decideRetireBank_of_no_spare (h : BankFree s x rank subch bg ba) (hnone : usableSpares s x rank = []) :
    decideRetireBank slot x rank subch bg ba s = (.refuse 11 0, s) := by
  simp only [decideRetireBank, mc16_val, h.unspared, Nat.not_le.2 h.ranks, h.unknown, Nat.not_le.2 h.room, h.idle, hnone]
  rfl

theorem decideRetireBank_accept (h : BankFree s x rank subch bg ba) (hspare : (usableSpares s x rank).head? = some q) :
    decideRetireBank slot x rank subch bg ba s = (.accept, copying x (bankCopy s x rank q subch bg ba slot) s) := by
  simp only [decideRetireBank, mc16_val, h.unspared, Nat.not_le.2 h.ranks, h.unknown, Nat.not_le.2 h.room, h.idle, hspare]
  rfl

theorem BankFree.taken (h : BankFree s x rank subch bg ba) : BankFree (taken b s) x rank subch bg ba := ⟨h.1, h.2, h.3, h.4, h.5⟩

end Decision

section Bank
variable {c : Fin 4} {id : Nat} {x : Fin 16} {rank : Fin 4} {subch bg ba q : Nat} (hready : gateReady s = true)
  (hup : s.domainDown = false) (hreload : s.bring.reloadBusy = false) (hsubch : subch < 2) (hbg : bg < 8) (hba : ba < 4)

theorem exec_retireBank (hsubch : subch < 2) (hbg : bg < 8) (hba : ba < 4) : exec (.retireBank c id x rank subch bg ba) s =
    .next (submit (proposal 4 id (x + rank * 2 ^ 8 + subch * 2 ^ 16 + bg * 2 ^ 24 + ba * 2 ^ 32)) s) := by
  show Host.Outcome.next (submit (proposal 4 id (x % 256 + (rank % 256) * 2 ^ 8 + (subch % 256) * 2 ^ 16 + (bg % 256) * 2 ^ 24 +
    (ba % 256) * 2 ^ 32)) s) = _
  rw [Nat.mod_eq_of_lt (show x.val < 256 by omega), Nat.mod_eq_of_lt (show rank.val < 256 by omega),
    Nat.mod_eq_of_lt (show subch < 256 by omega), Nat.mod_eq_of_lt (show bg < 256 by omega), Nat.mod_eq_of_lt (show ba < 256 by omega)]

include hready hup hreload hsubch hbg hba

theorem decide_retireBank_bank :
    let b := proposal 4 id (x + rank * 2 ^ 8 + subch * 2 ^ 16 + bg * 2 ^ 24 + ba * 2 ^ 32)
    decide_ s.queue.gateTail (taken b s) = applyDecision s.queue.gateTail
      (decideRetireBank s.queue.gateTail x rank subch bg ba (taken b s)) := by
  obtain ⟨hf8, hf9, hf10, hf11, hf12, -⟩ := bankArgs_fields (kind := 4) (id := id) x.isLt rank.isLt hsubch hbg hba
  dsimp only
  rw [decide_retireBank hready hup hreload (propOk_retireBank x.isLt rank.isLt hsubch hbg hba) (propField_kind (by decide)), hf8, hf9,
    hf10, hf11, hf12]

/-- What the decision refuses, the proposal is refused with. -/
theorem exec_retireBank_refused {reason : Nat}
    (h : ∀ b, decideRetireBank s.queue.gateTail x rank subch bg ba (taken b s) = (.refuse reason 0, taken b s)) :
    exec (.retireBank c id x rank subch bg ba) s = .next (setVerdict s.queue.gateTail 3 reason 0
      (taken (proposal 4 id (x + rank * 2 ^ 8 + subch * 2 ^ 16 + bg * 2 ^ 24 + ba * 2 ^ 32)) s)) := by
  rw [exec_retireBank hsubch hbg hba, submit_refused hready]
  rw [decide_retireBank_bank hready hup hreload hsubch hbg hba, h]

theorem completes_retireBank (h : BankFree s x rank subch bg ba) (hspare : (usableSpares s x rank).head? = some q) :
    Completes (.retireBank c id x rank subch bg ba) s fun t => t = { s with mcs := t.mcs, queue := t.queue } ∧
      (verdictAt t s.queue.gateTail).status = 1 ∧
      (∃ p, t.mcs[x].copy = some ⟨true, rank, q, subch, bg, ba, p, some s.queue.gateTail⟩) ∧
      t.mcs[x].bound = s.mcs[x].bound ||| 1 <<< q ∧ ∀ y, y ≠ x → t.mcs[y] = s.mcs[y] := by
  have hdecided := decide_retireBank_bank (id := id) (x := x) (rank := rank) hready hup hreload hsubch hbg hba
  dsimp only at hdecided
  rw [decideRetireBank_accept h.taken hspare] at hdecided
  refine completes_of_next ((exec_retireBank hsubch hbg hba).trans
    (congrArg _ (submit_accepted hready hdecided (ringKept_of_eq rfl)))) ⟨rfl, ?_, ?_, ?_, fun y hy => ?_⟩
  · exact congrArg Verdict.status (verdictAt_setVerdict_same s.queue.gateTail 1 0 0 _)
  · simp only [acceptProp, copying, setVerdict, updMc, updAt_get_same]
    exact ⟨_, rfl⟩
  · simp only [acceptProp, copying, setVerdict, updMc, updAt_get_same]
    rfl
  · simp only [acceptProp, copying, setVerdict, updMc, updAt_get, if_neg (Ne.symm hy)]
    rfl

end Bank

end Sys2Proof.Machine

/-! # PIN and UNPIN (R431, Table 17.4) -/

namespace Sys2Proof.Machine

variable {s s1 : State} {b : BitVec 256} {i : Nat} {r : Region}

/-! ## A second verdict of one proposal -/

theorem kput_kput {α : Type} (m : KMap α) (k : Nat) (x y : α) : kput (kput m k x) k y = kput m k y := by
  induction m with
  | nil => simp [kput]
  | cons a m ih =>
    obtain ⟨j, v⟩ := a
    rcases Nat.lt_trichotomy k j with h | h | h
    · simp [kput, h, h.ne]
    · simp [kput, h]
    · simp [kput, h.ne', h.not_gt, ih]

/-- Of two verdicts of one proposal the second stands. -/
theorem setVerdict_setVerdict (status reason detail status' reason' detail' : Nat) (s : State) :
    setVerdict i status' reason' detail' (setVerdict i status reason detail s) = setVerdict i status' reason' detail' s := by
  have hput (st re de : Nat) (u : State) : setVerdict i st re de u = { u with queue := { u.queue with
      verdicts := kput u.queue.verdicts i ⟨st, re, de, (verdictAt u i).id, u.dtime, true⟩ } } := by
    unfold setVerdict
    dsimp only
    rw [kset, if_neg (by simp [Verdict.init])]
  rw [hput status' reason' detail' (setVerdict _ _ _ _ _), verdictAt_setVerdict_same]
  simp only [hput, kput_kput]

/-! ## The decision -/

/-- The range of a proposal on pins. -/
structure Names (b : BitVec 256) (ldTag dpa size : Nat) : Prop where
  ldTag : propField b 8 1 = ldTag
  dpa : propField b 16 8 = dpa
  size : propField b 24 1 = size

section Decision
variable {ldTag dpa size : Nat} {on : Bool} (h : Names b ldTag dpa size)
include h

theorem decidePin_of_none (hnone : rangeRegion s ldTag dpa (2 ^ size) = none) : decidePin i b on s = setVerdict i 3 17 0 s := by
  simp only [decidePin, h.ldTag, h.dpa, h.size, hnone]
  rfl

variable (hr : rangeRegion s ldTag dpa (2 ^ size) = some r)
include hr

theorem decidePin_off : decidePin i b false s = doneProp i (unpinRange ldTag dpa size r (acceptProp i s)) := by
  simp only [decidePin, h.ldTag, h.dpa, h.size, hr]
  rfl

theorem decidePin_of_full (hfull : pinRange ldTag dpa size r s = none) : decidePin i b true s = setVerdict i 3 19 0 s := by
  simp only [decidePin, h.ldTag, h.dpa, h.size, hr, hfull]
  rfl

theorem decidePin_on (hpin : pinRange ldTag dpa size r s = some s1) : decidePin i b true s = setVerdict i 2 0 0 s1 := by
  simp only [decidePin, h.ldTag, h.dpa, h.size, hr, hpin]
  exact setVerdict_setVerdict _ _ _ _ _ _ s1

theorem decidePin_of_pinned (hpinned : r.pinned = true) : decidePin i b on s = setVerdict i 2 0 0 s := by
  cases on with
  | false =>
    rw [decidePin_off h hr, unpinRange, if_pos hpinned]
    exact setVerdict_setVerdict _ _ _ _ _ _ s
  | true => exact decidePin_on h hr (by simp [pinRange, hpinned])

end Decision

/-- A range that a port has pinned is on its list. -/
theorem mem_pins_of_pinRange {ldTag dpa size : Nat} (hpinned : r.pinned = false) (h : pinRange ldTag dpa size r s = some s1) :
    ⟨ldTag, dpa, 2 ^ size⟩ ∈ s1.ports[port4 (ldTag / 16)].pins := by
  simp only [pinRange, hpinned, Bool.false_eq_true, if_false] at h
  split at h
  · exact absurd h (by simp)
  · obtain rfl := Option.some.inj h
    rw [updPort_ports, updAt_get_same]
    dsimp only
    split
    · next hold => exact List.contains_iff_mem.1 hold
    · exact List.mem_append_right _ (List.mem_singleton_self _)

section Unpin
variable {ldTag dpa size : Nat} (hpinned : r.pinned = false)
include hpinned

theorem unpinRange_other {q : Fin 4} (hq : q ≠ port4 (ldTag / 16)) : (unpinRange ldTag dpa size r s).ports[q] = s.ports[q] := by
  rw [unpinRange, if_neg (by simp [hpinned]), updPort_ports, updAt_get_other _ _ hq.symm]

theorem unpinRange_pins : (unpinRange ldTag dpa size r s).ports[port4 (ldTag / 16)].pins =
    s.ports[port4 (ldTag / 16)].pins.filter (fun x => x ≠ ⟨ldTag, dpa, 2 ^ size⟩) := by
  rw [unpinRange, if_neg (by simp [hpinned]), updPort_ports, updAt_get_same]

/-- No entry of the range is pinned any longer. -/
theorem unpinRange_sheaf : ∀ e ∈ (unpinRange ldTag dpa size r s).ports[port4 (ldTag / 16)].sheaf, e.ldTag = ldTag →
    dpa < e.dpaBase + 2 ^ e.size → e.dpaBase < dpa + 2 ^ size → e.pinned = false := by
  rw [unpinRange, if_neg (by simp [hpinned]), updPort_ports, updAt_get_same]
  intro e he htag hlow hhigh
  obtain ⟨x, -, rfl⟩ := List.mem_map.1 he
  by_cases hx : x.ldTag = ldTag ∧ dpa < x.dpaBase + 2 ^ x.size ∧ x.dpaBase < dpa + 2 ^ size
  · simp [hx]
  · have hkept : ¬ (x.ldTag = ldTag && dpa < x.dpaBase + 2 ^ x.size && x.dpaBase < dpa + 2 ^ size) = true := by
      simpa [and_assoc] using hx
    rw [if_neg hkept] at htag hlow hhigh
    exact absurd ⟨htag, hlow, hhigh⟩ hx

end Unpin

/-! ## The proposals -/

theorem rangeRegion_taken (b : BitVec 256) : rangeRegion (taken b s) = rangeRegion s := rfl

theorem names_pageArgs {kind id dpa size : Nat} {ldTag : Fin 64} (hdpa : dpa < 2 ^ 45) (hsize : size < 256) :
    Names (proposal kind id (pageArgs ldTag dpa size)) ldTag dpa size := by
  obtain ⟨hf8, -, hf16, hf24, -⟩ := pageArgs_fields (kind := kind) (id := id) ldTag.isLt hdpa hsize
  exact ⟨hf8, hf16, hf24⟩

section Range
variable {c : Fin 4} {id dpa size : Nat} {ldTag : Fin 64} {u : State} (hready : gateReady s = true) (hup : s.domainDown = false)
  (hreload : s.bring.reloadBusy = false) (hlow : 12 ≤ size) (hhigh : size ≤ 44) (hdpa : dpa < 2 ^ 45) (hpage : dpa % 2 ^ size = 0)
include hready hup hreload hlow hhigh hdpa hpage

theorem exec_pin (h : decidePin s.queue.gateTail (proposal 9 id (pageArgs ldTag dpa size)) true
      (taken (proposal 9 id (pageArgs ldTag dpa size)) s) = u) (hring : u.queue.gateHead = u.queue.gateTail) :
    exec (.pin c id ldTag dpa size) s = .next u := by
  have hdecided := decide_pin hready hup hreload (b := proposal 9 id (pageArgs ldTag dpa size))
    (propOk_range (.inl rfl) ldTag.isLt hdpa hlow hhigh hpage) (propField_kind (by decide))
  show Host.Outcome.next (submit (proposal 9 id (pageArgs ldTag dpa size)) s) = _
  rw [submit_eq hready (by rw [hdecided, h]; exact hring), hdecided, h]

theorem exec_unpin (h : decidePin s.queue.gateTail (proposal 10 id (pageArgs ldTag dpa size)) false
      (taken (proposal 10 id (pageArgs ldTag dpa size)) s) = u) (hring : u.queue.gateHead = u.queue.gateTail) :
    exec (.unpin c id ldTag dpa size) s = .next u := by
  have hdecided := decide_unpin hready hup hreload (b := proposal 10 id (pageArgs ldTag dpa size))
    (propOk_range (.inr rfl) ldTag.isLt hdpa hlow hhigh hpage) (propField_kind (by decide))
  show Host.Outcome.next (submit (proposal 10 id (pageArgs ldTag dpa size)) s) = _
  rw [submit_eq hready (by rw [hdecided, h]; exact hring), hdecided, h]

theorem completes_pin (hr : rangeRegion s ldTag dpa (2 ^ size) = some r) (hpinned : r.pinned = false)
    (hpin : pinRange ldTag dpa size r (taken (proposal 9 id (pageArgs ldTag dpa size)) s) = some s1)
    (hqueue : s1.queue = (taken (proposal 9 id (pageArgs ldTag dpa size)) s).queue) :
    Completes (.pin c id ldTag dpa size) s fun t => (verdictAt t s.queue.gateTail).status = 2 ∧ t.ports = s1.ports ∧
      t.gate = s1.gate ∧ ⟨ldTag, dpa, 2 ^ size⟩ ∈ t.ports[port4 (ldTag.val / 16)].pins := by
  have hlisted := mem_pins_of_pinRange hpinned hpin
  have hring : s1.queue.gateHead = s1.queue.gateTail := by
    rw [hqueue]
    rfl
  exact completes_of_next
    (exec_pin hready hup hreload hlow hhigh hdpa hpage (decidePin_on (names_pageArgs hdpa (by omega)) hr hpin) hring)
    ⟨congrArg Verdict.status (verdictAt_setVerdict_same s.queue.gateTail 2 0 0 s1), rfl, rfl, hlisted⟩

theorem completes_unpin (hr : rangeRegion s ldTag dpa (2 ^ size) = some r) (hpinned : r.pinned = false) :
    Completes (.unpin c id ldTag dpa size) s fun t => t = { s with ports := t.ports, queue := t.queue } ∧
      (verdictAt t s.queue.gateTail).status = 2 ∧ (∀ q, q ≠ port4 (ldTag.val / 16) → t.ports[q] = s.ports[q]) ∧
      t.ports[port4 (ldTag.val / 16)].pins = s.ports[port4 (ldTag.val / 16)].pins.filter (fun x => x ≠ ⟨ldTag, dpa, 2 ^ size⟩) ∧
      ∀ e ∈ t.ports[port4 (ldTag.val / 16)].sheaf, e.ldTag = ldTag.val → dpa < e.dpaBase + 2 ^ e.size →
        e.dpaBase < dpa + 2 ^ size → e.pinned = false := by
  have hbeside (u : State) : unpinRange ldTag dpa size r u = { u with ports := (unpinRange ldTag dpa size r u).ports } := by
    rw [unpinRange, if_neg (by simp [hpinned])]
    rfl
  refine completes_of_next
    (exec_unpin hready hup hreload hlow hhigh hdpa hpage (decidePin_off (names_pageArgs hdpa (by omega)) hr) ?_)
    ⟨?_, congrArg Verdict.status (verdictAt_setVerdict_same s.queue.gateTail 2 0 0 _), fun q hq => unpinRange_other hpinned hq,
      unpinRange_pins hpinned, unpinRange_sheaf hpinned⟩
  · rw [hbeside]
    rfl
  · rw [hbeside]
    rfl

end Range

end Sys2Proof.Machine

/-! # LEAVE and HANDOVER (R326, R328, Table 17.4) -/

namespace Sys2Proof.Machine

variable {s : State}

/-! ## What is done at every port in turn -/

/-- Where the work at a port changes what is read of that port, and nothing that is read of another, every port is changed once. -/
theorem eachPort_port {α : Type} {I : State → Prop} {π : Port → α} {f : Fin 4 → State → State} {g : α → α}
    (hkeep : ∀ p u, I u → I (f p u)) (hsame : ∀ p u, I u → π (f p u).ports[p] = g (π u.ports[p]))
    (hother : ∀ p u, I u → ∀ q, q ≠ p → π (f p u).ports[q] = π u.ports[q]) (hs : I s) (q : Fin 4) :
    π (eachPort f s).ports[q] = g (π s.ports[q]) := by
  have hlist (ps : List (Fin 4)) (hnodup : ps.Nodup) (u : State) (hu : I u) :
      π (ps.foldl (fun t p => f p t) u).ports[q] = if q ∈ ps then g (π u.ports[q]) else π u.ports[q] := by
    induction ps generalizing u with
    | nil => simp
    | cons p ps ih =>
      obtain ⟨hp, hnodup⟩ := List.nodup_cons.1 hnodup
      rw [List.foldl_cons, ih hnodup _ (hkeep p u hu)]
      by_cases hq : q = p
      · rw [if_neg (hq ▸ hp), if_pos (List.mem_cons.2 (.inl hq)), hq, hsame p u hu]
      · simp only [hother p u hu q hq, List.mem_cons, hq, false_or]
  exact (hlist _ (List.nodup_finRange 4) s hs).trans (if_pos (List.mem_finRange q))

/-- A port that is ENABLED is held DRAINED, with its ENABLE queued. -/
def heldPort (o : Port) : Port := if o.state = .enabled then { o with state := .drained, enableQueued := true } else o

def holdPort (p : Fin 4) (t : State) : State := if t.ports[p].state = .enabled then
  updPort p (fun q => { q with state := .drained, enableQueued := true }) t else t

theorem holdPort_same (p : Fin 4) (s : State) : (holdPort p s).ports[p] = heldPort s.ports[p] := by
  by_cases h : s.ports[p].state = .enabled
  · simp only [holdPort, heldPort, h, if_true, updPort_ports, updAt_get_same]
  · simp only [holdPort, heldPort, h, if_false]

theorem holdPort_other {p q : Fin 4} (hq : q ≠ p) (s : State) : (holdPort p s).ports[q] = s.ports[q] := by
  by_cases h : s.ports[p].state = .enabled
  · simp only [holdPort, h, if_true, updPort_ports, updAt_get_other _ _ hq.symm]
  · simp only [holdPort, h, if_false]

/-- A state that differs from another in its ports alone. -/
theorem eq_with_ports {ps : Vector Port 4} {t : State} (hports : t.ports = ps)
    (hbeside : { t with ports := ps } = { s with ports := ps }) : t = { s with ports := ps } := by rw [← hbeside, ← hports]

theorem holdPorts_eq (s : State) : holdPorts s = { s with ports := s.ports.map heldPort } := by
  refine eq_with_ports (t := eachPort holdPort s) (Vector.ext fun i hi => ?_)
    (eachPort_keep (fun t => { t with ports := s.ports.map heldPort }) holdPort (fun p t => by unfold holdPort; split <;> rfl) s)
  rw [Vector.getElem_map]
  exact eachPort_port (I := fun _ => True) (π := id) (fun _ _ _ => trivial) (fun p u _ => holdPort_same p u)
    (fun p u _ q hq => holdPort_other hq u) trivial ⟨i, hi⟩

/-! ## The role DETACHED -/

theorem resolveOpen_of_none (hmirrors : s.til.mirrors = []) (hfetches : s.til.fetches = []) : resolveOpen s = s := by
  simp [resolveOpen, hmirrors, hfetches]

/-- What LEAVE does where no mirror write and no fetch is open. -/
def left (s : State) : State :=
  { s with
    til := { s.til with queue := s.til.queue ++ if s.til.state = .up then [.leave] else [] }
    pair := { s.pair with own := false, formSent := false, peerReq := none, role := .detached, synced := false, partnered := false
                          copies := [], promotion := .idle }
    ports := s.ports.map heldPort }

theorem doLeave_eq (hmirrors : s.til.mirrors = []) (hfetches : s.til.fetches = []) : doLeave s = left s := by
  unfold doLeave enterDetached
  by_cases hup : s.til.state = .up
  · simp only [tilUp, hup, queueTil, decide_true, if_true, holdPorts_eq, left]
    exact resolveOpen_of_none hmirrors hfetches
  · simp only [tilUp, hup, decide_false, Bool.false_eq_true, if_false, holdPorts_eq, left, List.append_nil]
    exact resolveOpen_of_none hmirrors hfetches

theorem left_port (p : Fin 4) : (left s).ports[p] = if s.ports[p].state = .enabled then
    { s.ports[p] with state := .drained, enableQueued := true } else s.ports[p] := Vector.getElem_map heldPort p.isLt

theorem portsQuiet_left (h : portsQuiet s = true) : portsQuiet (left s) = true := by
  obtain ⟨hports, -, hinjecting⟩ := portsQuiet_iff.1 h
  refine portsQuiet_iff.2 ⟨fun p => ?_, by simp [left], hinjecting⟩
  obtain ⟨hdrain, hrest⟩ := hports p
  rw [left_port]
  split
  · exact ⟨by simp, hrest⟩
  · exact ⟨hdrain, hrest⟩

/-! ## The proposals -/

/-- A verdict and what is taken off the ring leave the ports, the promotion and the firmware as they were. -/
theorem portsQuiet_setVerdict {i status reason detail : Nat} : portsQuiet (setVerdict i status reason detail s) = portsQuiet s := rfl
theorem portsQuiet_taken (b : BitVec 256) : portsQuiet (taken b s) = portsQuiet s := rfl

section Member
variable {c : Fin 4} {id : Nat} (hready : gateReady s = true) (hup : s.domainDown = false) (hreload : s.bring.reloadBusy = false)
include hready hup hreload

theorem exec_leave_refused (hquiet : portsQuiet s = true) (h : mayLeave s = false) :
    exec (.leave c id) s = .next (setVerdict s.queue.gateTail 3 12 0 (taken (proposal 11 id 0) s)) := by
  have hdecided := decide_leave hready hup hreload (propOk_member (id := id) (.inl rfl)) (propField_kind (by decide))
  rw [h] at hdecided
  show Host.Outcome.next (allSettle (submit (proposal 11 id 0) s)) = _
  rw [submit_eq hready (by rw [hdecided]; rfl), hdecided]
  exact congrArg _ (allSettle_of_portsQuiet hquiet)

theorem completes_leave (hquiet : portsQuiet s = true) (h : mayLeave s = true) (hmirrors : s.til.mirrors = [])
    (hfetches : s.til.fetches = []) : Completes (.leave c id) s fun t =>
      t.pair.role = .detached ∧ t.pair.synced = false ∧ t.pair.own = false ∧ t.pair.fenceOut = s.pair.fenceOut ∧
      (verdictAt t s.queue.gateTail).status = 2 ∧
      t.til.queue = s.til.queue ++ (if s.til.state = .up then [.leave] else []) ∧
      ∀ p : Fin 4, t.ports[p] = if s.ports[p].state = .enabled then { s.ports[p] with state := .drained, enableQueued := true }
        else s.ports[p] := by
  have hdecided := decide_leave hready hup hreload (propOk_member (id := id) (.inl rfl)) (propField_kind (by decide))
  rw [h, if_pos rfl, doLeave_eq (s := acceptProp _ (taken _ s)) hmirrors hfetches] at hdecided
  have hexec : exec (.leave c id) s = .next (doneProp s.queue.gateTail (left (acceptProp s.queue.gateTail
      (taken (proposal 11 id 0) s)))) := by
    show Host.Outcome.next (allSettle (submit (proposal 11 id 0) s)) = _
    rw [submit_eq hready (by rw [hdecided]; rfl), hdecided]
    exact congrArg _ (allSettle_of_portsQuiet (portsQuiet_left hquiet))
  exact completes_of_next hexec ⟨rfl, rfl, rfl, rfl, congrArg Verdict.status (verdictAt_setVerdict_same s.queue.gateTail 2 0 0 _), rfl,
    fun p => left_port p⟩

theorem exec_handover_refused (h : mayHandover s = false) :
    exec (.handover c id) s = .next (setVerdict s.queue.gateTail 3 12 0 (taken (proposal 12 id 0) s)) := by
  have hdecided := decide_handover hready hup hreload (propOk_member (id := id) (.inr (.inl rfl))) (propField_kind (by decide))
  rw [h] at hdecided
  show Host.Outcome.next (submit (proposal 12 id 0) s) = _
  rw [submit_eq hready (by rw [hdecided]; rfl), hdecided]
  rfl

theorem exec_handover_begun (h : mayHandover s = true) :
    exec (.handover c id) s = .next { setVerdict s.queue.gateTail 1 0 0 (taken (proposal 12 id 0) s) with
      pair := { s.pair with handover := true } } := by
  have hdecided := decide_handover hready hup hreload (propOk_member (id := id) (.inr (.inl rfl))) (propField_kind (by decide))
  rw [h, if_pos rfl] at hdecided
  show Host.Outcome.next (submit (proposal 12 id 0) s) = _
  rw [submit_eq hready (by rw [hdecided]; rfl), hdecided]
  rfl

end Member

end Sys2Proof.Machine

/-! # RELOAD (R365, R366, Table 17.4) -/

namespace Sys2Proof.Machine

variable {s : State} {copy : Bool} {i : Nat}

/-! ## The ports that a reload drains -/

theorem getLsbD_headBit (p q : Fin 4) : (headBit p).getLsbD q = decide (p = q) := by
  revert p q
  decide

/-- The ports that are ENABLED, as the reload notes them. -/
def enabledPorts (s : State) : BitVec 4 :=
  (List.finRange 4).foldl (fun (v : BitVec 4) (p : Fin 4) => if s.ports[p].state = .enabled then v ||| headBit p else v) 0

theorem getLsbD_enabledPorts (s : State) (q : Fin 4) : (enabledPorts s).getLsbD q = decide (s.ports[q].state = .enabled) := by
  have hfold (ps : List (Fin 4)) (v : BitVec 4) :
      (ps.foldl (fun (v : BitVec 4) (p : Fin 4) => if s.ports[p].state = .enabled then v ||| headBit p else v) v).getLsbD q =
        (v.getLsbD q || decide (q ∈ ps) && decide (s.ports[q].state = .enabled)) := by
    induction ps generalizing v with
    | nil => simp
    | cons p ps ih =>
      rw [List.foldl_cons, ih]
      by_cases hq : p = q
      · subst hq
        by_cases hp : s.ports[p].state = .enabled <;> simp [-Fin.getElem_fin, hp, getLsbD_headBit]
      · have hseen : q ∈ p :: ps ↔ q ∈ ps := by simp [Ne.symm hq]
        by_cases hp : s.ports[p].state = .enabled
        · rw [if_pos hp, BitVec.getLsbD_or, getLsbD_headBit, decide_eq_false hq, Bool.or_false, decide_eq_decide.2 hseen]
        · rw [if_neg hp, decide_eq_decide.2 hseen]
  rw [enabledPorts, hfold]
  simp

theorem enabledPorts_of_none (h : ∀ p : Fin 4, s.ports[p].state ≠ .enabled) : enabledPorts s = 0 := by
  have hfold (ps : List (Fin 4)) :
      ps.foldl (fun (v : BitVec 4) (p : Fin 4) => if s.ports[p].state = .enabled then v ||| headBit p else v) 0 = 0 := by
    induction ps with
    | nil => rfl
    | cons p ps ih => rw [List.foldl_cons, if_neg (h p), ih]
  exact hfold _

/-! ## The decision -/

/-- The member may reload: it is neither primary nor receives a mirror. -/
def MayReload (s : State) : Prop := s.pair.role ≠ .primary ∧ receivesMirror s = false

/-- The reload is accepted and noted. -/
def reloading (i : Nat) (copy : Bool) (s : State) : State :=
  acceptProp i { s with bring := { s.bring with
    reloadBusy := true, reloadCopy := copy, reloadSlot := some i, reloadDisabled := enabledPorts s, reloadAt := s.dtime } }

theorem decideReload_of_paired (h : ¬ MayReload s) :
    decideReload i copy s = { setVerdict i 3 12 0 s with bring := { s.bring with reloadResult := 13 } } := by
  have hpaired : (s.pair.role = .primary || receivesMirror s) = true := by
    rw [Bool.or_eq_true, decide_eq_true_eq, or_iff_not_imp_left, ← Bool.not_eq_false]
    exact fun hrole hmirror => h ⟨hrole, hmirror⟩
  unfold decideReload
  rw [if_pos hpaired]
  rfl

section MayReload
variable (h : MayReload s)
include h

theorem MayReload.not_paired : ¬ (s.pair.role = .primary || receivesMirror s) = true := by simp [h.1, h.2]

theorem decideReload_of_running (hcopy : copy = s.imgCopyB) : decideReload i copy s = setVerdict i 3 17 0 s := by
  unfold decideReload
  rw [if_neg h.not_paired, if_pos hcopy]
  rfl

variable (hcopy : copy ≠ s.imgCopyB)
include hcopy

theorem decideReload_of_refused {code : Nat} (hcheck : checkCopy s copy = .refused code) :
    decideReload i copy s = { setVerdict i 3 20 code s with bring := { s.bring with reloadResult := code } } := by
  unfold decideReload
  rw [if_neg h.not_paired, if_neg hcopy, hcheck]
  rfl

theorem decideReload_of_ok {a e} (hcheck : checkCopy s copy = .ok a e) : decideReload i copy s =
    eachPort (fun p t => if (enabledPorts s).getLsbD p then disablePort p t else t) (reloading i copy s) := by
  unfold decideReload
  rw [if_neg h.not_paired, if_neg hcopy, hcheck]
  rfl

end MayReload

theorem reloading_bring (i : Nat) (copy : Bool) (s : State) : (reloading i copy s).bring = { s.bring with
    reloadBusy := true, reloadCopy := copy, reloadSlot := some i, reloadDisabled := enabledPorts s, reloadAt := s.dtime } := rfl

theorem verdictAt_reloading (i : Nat) (copy : Bool) (s : State) : (verdictAt (reloading i copy s) i).status = 1 :=
  congrArg Verdict.status (verdictAt_setVerdict_same i 1 0 0 _)

theorem slotBits_reloading (i j : Nat) (copy : Bool) (s : State) : slotBits (reloading i copy s) j = slotBits s j := rfl

theorem AtRest.reloading (h : AtRest s) : AtRest (reloading i copy s) := h.beside

theorem AtRest.taken (h : AtRest s) {b : BitVec 256} : AtRest (taken b s) := h.beside

/-- A proposal of another KIND is not one that work on a page or at a port ends. -/
theorem not_ends_of_kind {b : BitVec 256} {kind : Nat} (hbits : slotBits s i = b) (hkind : propField b 0 2 = kind)
    (hother : kind ∉ [3, 5, 6] := by decide) : ¬ Ends s i := by
  rintro ⟨-, -, hmem⟩
  rw [hbits, hkind] at hmem
  exact hother hmem

theorem works_reloading (i : Nat) (copy : Bool) (s : State) : Works False False (reloading i copy s)
    (eachPort (fun p t => if (enabledPorts s).getLsbD p then disablePort p t else t) (reloading i copy s)) :=
  (Works.refl _).eachPort fun _ _ h => h.disablePort.ite h

/-! ## The proposal -/

section Proposal
variable {c : Fin 4} {id : Nat} {copy : Fin 2} (hready : gateReady s = true) (hup : s.domainDown = false)
  (hreload : s.bring.reloadBusy = false)
include hready hup hreload

theorem decide_reload_copy : decide_ s.queue.gateTail (taken (proposal 13 id copy) s) =
    decideReload s.queue.gateTail (decide (copy.val = 1)) (taken (proposal 13 id copy) s) := by
  obtain ⟨hf8, -⟩ := copyArgs_fields (kind := 13) (id := id) copy.isLt
  rw [decide_reload hready hup hreload (propOk_reload copy.isLt) (propField_kind (by decide)), hf8]

theorem exec_reload {t : State} (h : decideReload s.queue.gateTail (decide (copy.val = 1)) (taken (proposal 13 id copy) s) = t)
    (hring : t.queue.gateHead = t.queue.gateTail) : exec (.reload c id copy) s = .next (allSettle t) := by
  have hdecided := decide_reload_copy (id := id) (copy := copy) hready hup hreload
  rw [h] at hdecided
  show Host.Outcome.next (allSettle (submit (proposal 13 id (copy % 256)) s)) = _
  rw [Nat.mod_eq_of_lt (by omega), submit_eq hready (by rw [hdecided]; exact hring), hdecided]

variable (hquiet : portsQuiet s = true)
include hquiet

/-- Where the decision leaves the ports at rest, nothing completes there. -/
theorem exec_reload_quiet {t : State} (h : decideReload s.queue.gateTail (decide (copy.val = 1)) (taken (proposal 13 id copy) s) = t)
    (hring : t.queue.gateHead = t.queue.gateTail := by rfl) (hports : portsQuiet t = portsQuiet s := by rfl) :
    exec (.reload c id copy) s = .next t := by
  rw [exec_reload hready hup hreload h hring, allSettle_of_portsQuiet (hports.trans hquiet)]

theorem exec_reload_of_no_port (hmay : MayReload s) (hcopy : decide (copy.val = 1) ≠ s.imgCopyB) {a e}
    (hcheck : checkCopy (taken (proposal 13 id copy) s) (decide (copy.val = 1)) = .ok a e)
    (hnone : ∀ p : Fin 4, s.ports[p].state ≠ .enabled) : exec (.reload c id copy) s =
      .next { setVerdict s.queue.gateTail 1 0 0 (taken (proposal 13 id copy) s) with bring := { s.bring with
        reloadBusy := true, reloadCopy := decide (copy.val = 1), reloadSlot := some s.queue.gateTail, reloadDisabled := 0
        reloadAt := s.dtime } } := by
  refine exec_reload_quiet hready hup hreload hquiet ?_
  rw [decideReload_of_ok (s := taken _ s) hmay hcopy hcheck]
  have hmask : enabledPorts (taken (proposal 13 id copy) s) = 0 := enabledPorts_of_none hnone
  simp only [hmask, reloading]
  rfl

theorem completes_reload (hmay : MayReload s) (hcopy : decide (copy.val = 1) ≠ s.imgCopyB) {a e}
    (hcheck : checkCopy (taken (proposal 13 id copy) s) (decide (copy.val = 1)) = .ok a e) :
    Completes (.reload c id copy) s fun t => t.bring.reloadBusy = true ∧ t.bring.reloadCopy = decide (copy.val = 1) ∧
      t.bring.reloadSlot = some s.queue.gateTail ∧ t.bring.reloadAt = s.dtime ∧
      (∀ p : Fin 4, t.bring.reloadDisabled.getLsbD p = decide (s.ports[p].state = .enabled)) ∧
      (verdictAt t s.queue.gateTail).status = 1 := by
  set u := taken (proposal 13 id copy) s
  have hdrained := works_reloading s.queue.gateTail (decide (copy.val = 1)) u
  have hrest : AtRest (reloading s.queue.gateTail (decide (copy.val = 1)) u) :=
    (atRest_of_portsQuiet hquiet).taken.reloading
  have hsettled := hdrained.trans ((Works.refl _).allSettle (hdrained.atRest hrest))
  have hexec := exec_reload (c := c) hready hup hreload (decideReload_of_ok (s := u) hmay hcopy hcheck)
    (hdrained.gateHead.trans hdrained.gateTail.symm)
  have hnoted := reloading_bring s.queue.gateTail (decide (copy.val = 1)) u
  refine completes_of_next hexec ⟨?_, ?_, ?_, ?_, fun p => ?_, ?_⟩
  · rw [hsettled.bring, hnoted]
  · rw [hsettled.bring, hnoted]
  · rw [hsettled.bring, hnoted]
  · rw [hsettled.bring, hnoted]
    rfl
  · rw [hsettled.bring, hnoted]
    exact getLsbD_enabledPorts u p
  · rw [hsettled.verdicts _ (not_ends_of_kind ((slotBits_reloading ..).trans (slotBits_taken hready)) (propField_kind (by decide)))]
    exact verdictAt_reloading ..

end Proposal

end Sys2Proof.Machine

/-! # REST (R404, R405, Table 17.4) -/

namespace Sys2Proof.Machine

variable {s σ u : State} {p : Fin 4} {i : Nat}

/-! ## The ports at the begin of an entry -/

theorem peaceful_of_errorFree (h : errorFree s = true) : Peaceful s := by
  intro k x hx
  simp only [errorFree, Bool.and_eq_true, List.all_eq_true, Vector.mem_toList_iff, decide_eq_true_eq] at h
  obtain ⟨-, hspks⟩ := h
  exact (hspks s.spks[k] (Vector.getElem_mem k.isLt)).2 x hx

/-- A link of a port at rest goes down: nothing completes on the way, and no other port changes its state. -/
theorem works_takeLinkDown (hrest : AtRest s) (hgood : Peaceful s) (l : Fin 4) : Works False False s (takeLinkDown p l s) ∧
    ∀ q, q ≠ p → (takeLinkDown p l s).ports[q].state = s.ports[q].state := by
  have hkept {t : State} (h : Works False True s t) : Works False False s t ∧ ∀ q : Fin 4, q ≠ p → t.ports[q].state = s.ports[q].state :=
    ⟨h.weaken, fun q _ => h.states trivial hgood q⟩
  have hmoved {t : State} (h : Works False True s t) : Works False False s (portSettle p (setPort p .training t)) ∧
      ∀ q, q ≠ p → (portSettle p (setPort p .training t)).ports[q].state = s.ports[q].state := by
    have hport : Works False False s (setPort p .training t) := h.weaken.movePort
    have htraining : (setPort p .training t).ports[p].state = .training := by rw [setPort, updPort_ports, updAt_get_same]
    rw [portSettle_of_rests ((hport.atRest hrest).ports p), drainStep_of_training htraining]
    refine ⟨hport, fun q hq => ?_⟩
    rw [setPort, updPort_ports, updAt_get_other _ _ hq.symm]
    exact h.states trivial hgood q
  unfold takeLinkDown
  dsimp only
  split
  · exact hkept (.refl s)
  · have hlink {f : Link → Link} : Works False True s (updLink p l f s) := (Works.refl s).updPort
    split
    · exact hkept hlink.raise
    · exact hmoved (.ite hlink.discardLink.raise.headLost hlink.discardLink.raise)

/-- A port is blocked: its links go down, it is in RESET, and no other port changes its state. -/
theorem works_blockPort (hrest : AtRest s) (hgood : Peaceful s) : Works False False s (blockPort p s) ∧
    (blockPort p s).ports[p].state = .reset ∧ ∀ q, q ≠ p → (blockPort p s).ports[q].state = s.ports[q].state := by
  have hlinks (ls : List (Fin 4)) : Works False False s (ls.foldl (fun t l => takeLinkDown p l t) s) ∧
      ∀ q, q ≠ p → (ls.foldl (fun t l => takeLinkDown p l t) s).ports[q].state = s.ports[q].state := by
    induction ls using List.reverseRecOn with
    | nil => exact ⟨.refl s, fun _ _ => rfl⟩
    | append_singleton ls l ih =>
      obtain ⟨hworks, hstates⟩ := ih
      rw [List.foldl_append]
      obtain ⟨hlast, hsame⟩ := works_takeLinkDown (p := p) (hworks.atRest hrest) (hworks.peaceful hgood) l
      exact ⟨hworks.trans hlast, fun q hq => (hsame q hq).trans (hstates q hq)⟩
  obtain ⟨hworks, hstates⟩ := hlinks (List.finRange 4)
  refine ⟨hworks.movePort, ?_, fun q hq => ?_⟩
  · rw [blockPort, setPort, updPort_ports, updAt_get_same]
  · rw [blockPort, setPort, updPort_ports, updAt_get_other _ _ hq.symm]
    exact hstates q hq

theorem works_blockPorts (hrest : AtRest s) (hgood : Peaceful s) : Works False False s (eachPort blockPort s) ∧
    ∀ p : Fin 4, (eachPort blockPort s).ports[p].state = .reset := by
  have hblock (p : Fin 4) (u : State) (h : Works False False s u) := works_blockPort (p := p) (h.atRest hrest) (h.peaceful hgood)
  refine ⟨(Works.refl s).eachPort fun p u h => h.trans (hblock p u h).1, fun p => ?_⟩
  exact eachPort_port (I := Works False False s) (π := Port.state) (g := fun _ => .reset) (fun p u h => h.trans (hblock p u h).1)
    (fun p u h => (hblock p u h).2.1) (fun p u h => (hblock p u h).2.2) (.refl s) p

/-! ## The entry -/

/-- The entry to REST has begun, and is noted. -/
def restNoted (s : State) : State :=
  regSet offDropped 0 (regSet offStookLog1 (place 62 1) (regSet offStookLog0 (BitVec.ofNat 64 s.dtime) (setPwr (fun p => { p with
    state := .enteringRest, step := 1, stepAt := s.dtime, stookStart := s.dtime, sealRec := none
    paired := s.pair.role ≠ .none, dropped := 0, resolvedOpen := false, railsOff := false, wakeLatched := false
    secSynced := s.pair.role = .secondary && s.pair.synced, priSynced := pairMode s && s.pair.peerSynced }) s)))

/-- Nothing of a member remains, and the scrubbers stop. -/
def restAlone (wasPrimary : Bool) (s : State) : State :=
  { s with pair := { s.pair with own := false, fenceOut := false, wasPrimary := wasPrimary }
           mcs := s.mcs.map fun m => { m with scrubRun := false } }

theorem enterBegin_rest (hreload : s.bring.reloadBusy = false) : enterBegin false s = stepEnd 1 (restAlone (s.pair.role = .primary)
    (syncCrossings (eachPort blockPort (setDown false (restNoted s))))) := by
  have hopen : abandonReload s = s := by rw [abandonReload, if_pos (by simp [hreload])]
  simp only [enterBegin, hopen, Bool.false_eq_true, if_false, restAlone, restNoted]

theorem works_restAlone {wasPrimary : Bool} (h : Works False False σ s) : Works False False σ (restAlone wasPrimary s) := h.beside

theorem stepEnd_keep (n : Nat) (s : State) : (stepEnd n s).queue = s.queue ∧ (stepEnd n s).ports = s.ports ∧
    (stepEnd n s).pwr.state = s.pwr.state ∧ (stepEnd n s).pwr.step = (n + 1) % 8 := ⟨rfl, rfl, rfl, rfl⟩

theorem restNoted_keep (s : State) : (restNoted s).queue = s.queue ∧ (restNoted s).ports = s.ports ∧
    (restNoted s).spks = s.spks ∧ (restNoted s).pwr.state = .enteringRest := ⟨rfl, rfl, rfl, rfl⟩

theorem AtRest.restNoted (h : AtRest s) : AtRest (restNoted s) := h.beside
theorem AtRest.acceptProp (h : AtRest s) : AtRest (acceptProp i s) := h.beside

/-- The entry has begun: every port is in RESET, and the ring and the verdicts are as they were. -/
theorem enterBegin_done (hreload : s.bring.reloadBusy = false) (hrest : AtRest s) (hgood : Peaceful s) :
    let t := enterBegin false s
    t.pwr.state = .enteringRest ∧ t.pwr.step = 2 ∧ RingKept s t ∧ ∀ p : Fin 4, t.ports[p].state = .reset := by
  obtain ⟨hqueue, -, hspks, hstate⟩ := restNoted_keep s
  have hdown : Works False False (restNoted s) (setDown false (restNoted s)) := (Works.refl _).setDown
  have hgood0 : Peaceful (restNoted s) := by rwa [Peaceful, hspks]
  obtain ⟨hblocked, hreset⟩ := works_blockPorts (hdown.atRest hrest.restNoted) (hdown.peaceful hgood0)
  have hworks := works_restAlone (wasPrimary := s.pair.role = .primary) (hdown.trans hblocked).syncCrossings
  rw [enterBegin_rest hreload]
  obtain ⟨hqueue1, hports1, hstate1, hstep1⟩ := stepEnd_keep 1 (restAlone (s.pair.role = .primary)
    (syncCrossings (eachPort blockPort (setDown false (restNoted s)))))
  refine ⟨?_, hstep1, ?_, fun p => ?_⟩
  · rw [hstate1, hworks.power (by rw [hstate]; decide), hstate]
  · exact (ringKept_of_eq hqueue).trans (hworks.ringKept.trans (ringKept_of_eq hqueue1))
  · rw [hports1]
    exact hreset p

/-! ## The proposal -/

section Proposal
variable {c : Fin 4} {id : Nat} (hready : gateReady s = true) (hup : s.domainDown = false) (hreload : s.bring.reloadBusy = false)
include hready hup hreload

theorem exec_rest {t : State} (h : decideRest s.queue.gateTail (taken (proposal 14 id 0) s) = t)
    (hring : t.queue.gateHead = t.queue.gateTail) : exec (.rest c id) s = .next t := by
  have hdecided := decide_rest hready hup hreload (propOk_member (id := id) (.inr (.inr rfl))) (propField_kind (by decide))
  show Host.Outcome.next (submit (proposal 14 id 0) s) = _
  rw [submit_eq hready (by rw [hdecided, h]; exact hring), hdecided, h]

theorem exec_rest_of_not_drained (h : allDrained s = false) :
    exec (.rest c id) s = .next (setVerdict s.queue.gateTail 3 13 0 (taken (proposal 14 id 0) s)) :=
  exec_rest hready hup hreload (if_pos (by rw [show allDrained (taken _ s) = allDrained s from rfl, h]; rfl)) rfl

theorem exec_rest_of_paired (hdrained : allDrained s = true) (hnone : s.pair.role ≠ .none) (hdetached : s.pair.role ≠ .detached) :
    exec (.rest c id) s = .next (setVerdict s.queue.gateTail 3 14 0 (taken (proposal 14 id 0) s)) := by
  refine exec_rest hready hup hreload ?_ rfl
  have hdrained' : allDrained (taken (proposal 14 id 0) s) = true := hdrained
  have hrole : (taken (proposal 14 id 0) s).pair.role = s.pair.role := rfl
  rw [decideRest, if_neg (by simp [hdrained']), if_pos (by simp [hrole, hnone, hdetached])]
  rfl

theorem completes_rest (hquiet : portsQuiet s = true) (hdrained : allDrained s = true)
    (hrole : s.pair.role = .none ∨ s.pair.role = .detached) (hserving : servingState s = true) (hfree : errorFree s = true) :
    Completes (.rest c id) s fun t => t.pwr.state = .enteringRest ∧ t.pwr.step = 2 ∧
      (verdictAt t s.queue.gateTail).status = 1 ∧ ∀ p : Fin 4, t.ports[p].state = .reset := by
  set a := acceptProp s.queue.gateTail (taken (proposal 14 id 0) s)
  have hdecided : decideRest s.queue.gateTail (taken (proposal 14 id 0) s) = enterBegin false a := by
    have hdrained' : allDrained (taken (proposal 14 id 0) s) = true := hdrained
    have hrole' : (taken (proposal 14 id 0) s).pair.role = s.pair.role := rfl
    have hserving' : servingState a = true := hserving
    rw [decideRest, if_neg (by simp [hdrained']), if_neg (by rcases hrole with h | h <;> simp [hrole', h])]
    exact if_pos hserving'
  obtain ⟨hstate, hstep, hkept, hreset⟩ := enterBegin_done (s := a) hreload (atRest_of_portsQuiet hquiet).taken.acceptProp
    (peaceful_of_errorFree hfree)
  have hbits : slotBits a s.queue.gateTail = proposal 14 id 0 := slotBits_taken hready
  refine completes_of_next (exec_rest hready hup hreload hdecided (hkept.gateHead.trans hkept.gateTail.symm))
    ⟨hstate, hstep, ?_, hreset⟩
  rw [hkept.verdicts _ (not_ends_of_kind hbits (propField_kind (by decide)))]
  exact congrArg Verdict.status (verdictAt_setVerdict_same s.queue.gateTail 1 0 0 _)

end Proposal

end Sys2Proof.Machine

/-! ## The statement -/

namespace Sys2Proof.Machine

/-- Settles O32. Germ takes the proposal as it is written, its checks answer in their order, and what it opens leaves the ring and
the verdict that it gives as they are. -/
theorem pageBankAndMemberProposals : Obligations.PageBankAndMemberProposals := by
  unfold Obligations.PageBankAndMemberProposals
  refine ⟨fun c id s hquiet hready hup hreload => ⟨?pages, ?retirePage, ?retireBank, ?pins⟩,
    fun c id s hquiet hready hup hreload => ⟨?_, ?_, ?_, ?_, ?reload, ?_, ?_, ?_⟩⟩
  case pages =>
    intro ldTag dpa hdpa hpage
    refine ⟨fun hnone => ?_, fun r hr => ⟨fun helastic => ?_, fun e d s1 s2 helastic hleaf _ hmove hcommand hroom htier hforward
      hpool hpick => ?_, fun e d s1 s2 helastic hleaf hmove hcommand hroom htier hpinned htake _ => ?_⟩⟩
    · exact exec_of_inelastic hready hup hreload hdpa hpage fun r hr => absurd (hnone.symm.trans hr) (by simp)
    · exact exec_of_inelastic hready hup hreload hdpa hpage fun r' hr' => by rwa [← Option.some.inj (hr.symm.trans hr')]
    · exact completes_promote hready hup hreload hdpa hpage hr helastic hleaf hmove hcommand hroom htier hforward hpool hpick
    · exact completes_demote hready hup hreload hdpa hpage hr helastic hleaf hmove hcommand hroom htier hpinned htake
  case retirePage =>
    intro m hm hpage
    refine ⟨exec_retirePage_of_fixed hready hup hreload hm hpage, fun hguarded hspare hpopulated =>
      ⟨exec_retirePage_of_retired hready hup hreload hm hpage hguarded hspare hpopulated,
        fun s1 hfresh hroom hmoves hgranules hfind _ => ?_,
        fun ld dpa d r s1 s2 hfresh hroom hmoves hgranules hforward hfind _ hr helastic hmove hcommand hpool hpick => ?_⟩⟩
    · exact completes_retirePage_unbacked hready hup hreload hm hpage
        ⟨hguarded, hspare, hpopulated, hfresh, hroom, hmoves, hgranules⟩ hfind
    · exact completes_retirePage_backed hready hup hreload hm hpage
        ⟨hguarded, hspare, hpopulated, hfresh, hroom, hmoves, hgranules⟩ hforward hfind hr helastic hmove hcommand hpool hpick
  case retireBank =>
    intro x rank subch bg ba hsubch hbg hba
    have hrefused {reason : Nat} := exec_retireBank_refused (c := c) (id := id) (x := x) (rank := rank) (reason := reason) hready hup
      hreload hsubch hbg hba
    refine ⟨fun h => hrefused fun b => decideRetireBank_of_spare (s := taken b s) h, fun hspare hranks =>
      ⟨fun hknown => ?_, fun hknown hfull => ?_, fun hknown hroom hidle hnone => ?_, fun q hknown hroom hidle husable => ?_⟩⟩
    · exact hrefused fun b => decideRetireBank_of_known (s := taken b s) hspare hranks hknown
    · exact hrefused fun b => decideRetireBank_of_full (s := taken b s) hspare hranks hknown hfull
    · exact hrefused fun b => decideRetireBank_of_no_spare (s := taken b s) ⟨hspare, hranks, hknown, hroom, hidle⟩ hnone
    · exact completes_retireBank hready hup hreload hsubch hbg hba ⟨hspare, hranks, hknown, hroom, hidle⟩ husable
  case pins =>
    intro ldTag dpa size hlow hhigh hdpa hpage
    have hnames (kind : Nat) : Names (proposal kind id (pageArgs ldTag dpa size)) ldTag dpa size :=
      names_pageArgs hdpa (by omega)
    have hpin {u : State} := exec_pin (c := c) (id := id) (ldTag := ldTag) (u := u) hready hup hreload hlow hhigh hdpa hpage
    have hunpin {u : State} := exec_unpin (c := c) (id := id) (ldTag := ldTag) (u := u) hready hup hreload hlow hhigh hdpa hpage
    refine ⟨fun hnone => ⟨hpin (decidePin_of_none (s := taken _ s) (hnames 9) hnone) rfl,
      hunpin (decidePin_of_none (s := taken _ s) (hnames 10) hnone) rfl⟩, fun r hr => ⟨fun hpinned => ⟨?_, ?_⟩,
      fun _ hfull => ?_, fun s1 hpinned hrange hqueue => ?_, fun hpinned => ?_⟩⟩
    · exact hpin (decidePin_of_pinned (s := taken _ s) (hnames 9) hr hpinned) rfl
    · exact hunpin (decidePin_of_pinned (s := taken _ s) (hnames 10) hr hpinned) rfl
    · exact hpin (decidePin_of_full (s := taken _ s) (hnames 9) hr hfull) rfl
    · exact completes_pin hready hup hreload hlow hhigh hdpa hpage hr hpinned hrange hqueue
    · exact completes_unpin hready hup hreload hlow hhigh hdpa hpage hr hpinned
  · exact exec_leave_refused hready hup hreload hquiet
  · exact completes_leave hready hup hreload hquiet
  · exact exec_handover_refused hready hup hreload
  · exact exec_handover_begun hready hup hreload
  case reload =>
    intro copy
    refine ⟨fun hpaired => ?_, fun hmay hsame => ?_, fun code hmay hcopy hcheck => ?_, fun a e hmay hcopy hcheck hnone => ?_,
      fun a e hmay hcopy hcheck => ?_⟩
    · exact exec_reload_quiet hready hup hreload hquiet (decideReload_of_paired (s := taken _ s) hpaired)
    · exact exec_reload_quiet hready hup hreload hquiet (decideReload_of_running (s := taken _ s) hmay (not_not.1 hsame))
    · exact exec_reload_quiet hready hup hreload hquiet (decideReload_of_refused (s := taken _ s) hmay hcopy hcheck)
    · exact exec_reload_of_no_port hready hup hreload hquiet hmay hcopy hcheck hnone
    · exact completes_reload hready hup hreload hquiet hmay hcopy hcheck
  · exact exec_rest_of_not_drained hready hup hreload
  · exact exec_rest_of_paired hready hup hreload
  · exact completes_rest hready hup hreload hquiet

end Sys2Proof.Machine

/-! # An MPA, its home and its local address (R86, R200, R205, R206) -/

namespace Sys2Proof.Machine

/-! ## The hash of the home -/

theorem bitsAt_lt (x lo w : Nat) : bitsAt x lo w < 2 ^ w := Nat.mod_lt _ (Nat.two_pow_pos w)

theorem homeChunks_lt (m i : Nat) : homeChunks m i < 2 ^ 3 := by
  induction i with
  | zero => exact Nat.two_pow_pos 3
  | succ i ih => exact Nat.xor_lt_two_pow (bitsAt_lt ..) ih

theorem home_lt (m : Nat) : home m < 8 :=
  Nat.xor_lt_two_pow (homeChunks_lt m 10) (Nat.lt_of_lt_of_le (bitsAt_lt m 42 2) (by decide))

/-- Above the chunk [14:12], bits of a number are bits of its part above bit 15. -/
theorem bitsAt_of_div_eq {m n lo : Nat} (w : Nat) (h : m / 2 ^ 15 = n / 2 ^ 15) (hlo : 15 ≤ lo) : bitsAt m lo w = bitsAt n lo w := by
  have above (x : Nat) : x >>> lo = (x / 2 ^ 15) >>> (lo - 15) := by
    rw [← Nat.shiftRight_eq_div_pow, ← Nat.shiftRight_add, Nat.add_sub_cancel' hlo]
  rw [bitsAt, bitsAt, above m, above n, h]

/-- The chunk [14:12] enters the hash as one term. -/
theorem homeChunks_xor_chunk {m n : Nat} (h : m / 2 ^ 15 = n / 2 ^ 15) (i : Nat) :
    homeChunks m (i + 1) ^^^ bitsAt m 12 3 = homeChunks n (i + 1) ^^^ bitsAt n 12 3 := by
  induction i with
  | zero => simp [homeChunks]
  | succ i ih => rw [homeChunks, Nat.xor_assoc, ih, bitsAt_of_div_eq 3 h (by omega), ← Nat.xor_assoc, ← homeChunks]

theorem home_xor_chunk {m n : Nat} (h : m / 2 ^ 15 = n / 2 ^ 15) : home m ^^^ bitsAt m 12 3 = home n ^^^ bitsAt n 12 3 := by
  have hchunks := homeChunks_xor_chunk h 9
  rw [home, home, Nat.xor_right_comm, hchunks, bitsAt_of_div_eq 2 h (by decide), Nat.xor_right_comm]

/-! ## The parts of an MPA -/

theorem localAddr_eq {m : Nat} (hm : m < 2 ^ 44) : localAddr m = m / 2 ^ 15 * 2 ^ 12 + m % 2 ^ 12 := by
  have hlow : m % 2 ^ 12 < 2 ^ 12 := Nat.mod_lt _ (Nat.two_pow_pos 12)
  have hhigh : m / 2 ^ 15 % 2 ^ 29 = m / 2 ^ 15 := Nat.mod_eq_of_lt (by omega)
  rw [localAddr, bitsAt, bitsAt, Nat.shiftRight_zero, Nat.shiftRight_eq_div_pow, hhigh, ← Nat.shiftLeft_add_eq_or_of_lt hlow,
    Nat.shiftLeft_eq]

/-- The MPA with the local address `la` and the chunk [14:12] zero. -/
def chunkless (la : Nat) : Nat := la / 2 ^ 12 * 2 ^ 15 + la % 2 ^ 12

/-- The chunk that gives home `h` fills the three bits that `chunkless` leaves zero. -/
theorem mpaOf_eq {h : Nat} (la : Nat) (hh : h < 8) :
    mpaOf h la = la / 2 ^ 12 * 2 ^ 15 + (home (chunkless la) ^^^ h) * 2 ^ 12 + la % 2 ^ 12 := by
  have hlow : la % 4096 < 2 ^ 12 := Nat.mod_lt _ (Nat.two_pow_pos 12)
  have hchunk : home (chunkless la) ^^^ h < 2 ^ 3 := Nat.xor_lt_two_pow (home_lt _) hh
  have hbase : (la >>> 12) <<< 15 ||| la % 4096 = chunkless la := by
    rw [← Nat.shiftLeft_add_eq_or_of_lt (by omega), Nat.shiftLeft_eq, Nat.shiftRight_eq_div_pow]
    rfl
  rw [mpaOf, hbase, ← hbase, Nat.or_assoc, Nat.or_comm (la % 4096), hbase, ← Nat.shiftLeft_add_eq_or_of_lt hlow,
    ← Nat.shiftLeft_add_eq_or_of_lt (by rw [Nat.shiftLeft_eq]; omega), Nat.shiftLeft_eq, Nat.shiftLeft_eq,
    Nat.shiftRight_eq_div_pow, ← Nat.add_assoc]
  rfl

theorem home_chunkless {m la : Nat} (h : m / 2 ^ 15 = la / 2 ^ 12) : home (chunkless la) = home m ^^^ bitsAt m 12 3 := by
  have hchunk : bitsAt (chunkless la) 12 3 = 0 := by
    rw [bitsAt, Nat.shiftRight_eq_div_pow, chunkless]
    omega
  have hbase : chunkless la / 2 ^ 15 = m / 2 ^ 15 := by
    rw [chunkless]
    omega
  rw [← home_xor_chunk hbase, hchunk, Nat.xor_zero]

section Parts
variable {h la : Nat}

theorem mpaOf_div (hh : h < 8) : mpaOf h la / 2 ^ 15 = la / 2 ^ 12 := by
  have hchunk : home (chunkless la) ^^^ h < 2 ^ 3 := Nat.xor_lt_two_pow (home_lt _) hh
  rw [mpaOf_eq la hh]
  omega

theorem mpaOf_mod (hh : h < 8) : mpaOf h la % 2 ^ 12 = la % 2 ^ 12 := by
  rw [mpaOf_eq la hh]
  omega

theorem bitsAt_mpaOf_chunk (hh : h < 8) : bitsAt (mpaOf h la) 12 3 = home (chunkless la) ^^^ h := by
  have hchunk : home (chunkless la) ^^^ h < 2 ^ 3 := Nat.xor_lt_two_pow (home_lt _) hh
  rw [bitsAt, Nat.shiftRight_eq_div_pow, mpaOf_eq la hh]
  omega

theorem mpaOf_lt (hh : h < 8) (hla : la < 2 ^ 41) : mpaOf h la < 2 ^ 44 := by
  have hdiv := mpaOf_div (la := la) hh
  omega

/-- The three bits are chosen so that the hash gives the home. -/
theorem home_mpaOf (hh : h < 8) : home (mpaOf h la) = h := by
  have hbase := home_chunkless (mpaOf_div (la := la) hh)
  rw [bitsAt_mpaOf_chunk hh] at hbase
  calc home (mpaOf h la)
      = home (mpaOf h la) ^^^ (home (chunkless la) ^^^ h) ^^^ (home (chunkless la) ^^^ h) := (Nat.xor_xor_cancel_right ..).symm
    _ = home (chunkless la) ^^^ (home (chunkless la) ^^^ h) := by rw [← hbase]
    _ = h := Nat.xor_xor_cancel_left ..

theorem localAddr_mpaOf (hh : h < 8) (hla : la < 2 ^ 41) : localAddr (mpaOf h la) = la := by
  rw [localAddr_eq (mpaOf_lt hh hla), mpaOf_div hh, mpaOf_mod hh]
  omega

end Parts

theorem localAddr_lt {m : Nat} (hm : m < 2 ^ 44) : localAddr m < 2 ^ 41 := by
  rw [localAddr_eq hm]
  omega

theorem mpaOf_home_localAddr {m : Nat} (hm : m < 2 ^ 44) : mpaOf (home m) (localAddr m) = m := by
  have hla := localAddr_eq hm
  have hbase : m / 2 ^ 15 = localAddr m / 2 ^ 12 := by omega
  have hchunk : home (chunkless (localAddr m)) ^^^ home m = bitsAt m 12 3 := by
    rw [home_chunkless hbase, Nat.xor_right_comm, Nat.xor_self, Nat.zero_xor]
  rw [mpaOf_eq _ (home_lt m), hchunk, bitsAt, Nat.shiftRight_eq_div_pow]
  omega

/-! ## The population and the channels -/

/-- The population is a multiple of 32 KiB, so that whole chunks of each home lie in it. -/
theorem populated_eq (g : Geom) : populated g = g.ranks * 2 ^ (g.rowBits + g.stack + 8) * 2 ^ 15 := by
  rw [populated, show g.rowBits + g.stack + 19 = g.rowBits + g.stack + 8 + 11 from rfl, Nat.pow_add _ _ 11]
  ring

theorem mpaOf_lt_populated {h la : Nat} (hh : h < 8) (g : Geom) : mpaOf h la < populated g ↔ la < populated g / 8 := by
  have hdiv := mpaOf_div (la := la) hh
  have hpop := populated_eq g
  omega

theorem chan_coordOf (g : Geom) (h la : Nat) : (coordOf g h la).chan = 2 * h + bitsAt la (if g.unit256 then 8 else 6) 1 := by
  cases hunit : g.unit256 <;> simp [coordOf, hunit]

theorem chanOf_val (m : Nat) (s : State) :
    (chanOf s m).val = 2 * home m + bitsAt (localAddr m) (if (geom s).unit256 then 8 else 6) 1 := by
  have hhome := home_lt m
  have hbit := bitsAt_lt (localAddr m) (if (geom s).unit256 then 8 else 6) 1
  rw [chanOf, chan_coordOf]
  exact Nat.mod_eq_of_lt (by omega)

/-- Settles O58: the chunk [14:12] that an MPA has beyond its local address is the one term of the hash that picks its home. -/
theorem placeIsOneToOne : Obligations.PlaceIsOneToOne := by
  unfold Obligations.PlaceIsOneToOne
  refine ⟨fun m hm => ⟨home_lt m, localAddr_eq hm, localAddr_lt hm, mpaOf_home_localAddr hm⟩,
    fun h la hh hla => ⟨mpaOf_lt hh hla, home_mpaOf hh, localAddr_mpaOf hh hla, mpaOf_lt_populated hh⟩,
    fun m s _ => chanOf_val m s, by decide⟩

end Sys2Proof.Machine

/-! # Refresh and rows of a channel (R209 to R215) -/

namespace Sys2Proof.Machine

/-! ## One channel of the sixteen -/

@[simp] theorem updMc_mc_same (x : Fin 16) (f : Mc → Mc) (s : State) : (updMc x f s).mcs[x] = f s.mcs[x] := updAt_get_same ..

theorem updMc_mc_other {x y : Fin 16} (f : Mc → Mc) (s : State) (h : y ≠ x) : (updMc x f s).mcs[y] = s.mcs[y] :=
  updAt_get_other _ _ h.symm

/-- An update that leaves the channel as it is leaves the state. -/
theorem updMc_self {x : Fin 16} {f : Mc → Mc} {s : State} (h : f s.mcs[x] = s.mcs[x]) : updMc x f s = s := by
  simp only [updMc, updAt, h]
  exact congrArg (fun v => { s with mcs := v }) (Vector.set_getElem_self x.isLt)

theorem inService_iff {c : McState} : inService c = true ↔ c = .active ∨ c = .powerDown := by
  simp [inService]

theorem geom_of_img {s t : State} (h : t.img = s.img) : geom t = geom s := by
  rw [geom, geom, h]

theorem foldl_emit_out {α : Type} (o : α → Out) (l : List α) (s : State) :
    (l.foldl (fun t a => emit (o a) t) s).out = s.out ++ l.map o := by
  induction l generalizing s with
  | nil => exact (List.append_nil _).symm
  | cons a l ih => rw [List.foldl_cons, ih, emit_out, List.append_assoc, List.map_cons, List.singleton_append]

theorem perfMc_onlyCounted (x : Fin 16) (event amount : Nat) (cls : Option Nat) (s : State) :
    OnlyCounted s (perfMc x event amount cls s) := perfEvent_onlyCounted ..

theorem perfMc_out (x : Fin 16) (event amount : Nat) (cls : Option Nat) (s : State) :
    (perfMc x event amount cls s).out = s.out := by rw [(perfMc_onlyCounted x event amount cls s).frame]

/-! ## What activates and slices of a channel keep -/

/-- `t` follows `s` by activates and slices of channel `x` alone: the DRAM, the other channels and the targets in tRFC are as they
were, and what had been sent stays sent. -/
structure RowsServed (x : Fin 16) (s t : State) : Prop where
  img : t.img = s.img
  dram : t.dram = s.dram
  others : ∀ y, y ≠ x → t.mcs[y] = s.mcs[y]
  refreshing : t.mcs[x].refreshing = s.mcs[x].refreshing
  out : s.out <+: t.out

section Rows
variable {x : Fin 16} {σ s t : State}

theorem RowsServed.refl (x : Fin 16) (s : State) : RowsServed x s s := ⟨rfl, rfl, fun _ _ => rfl, rfl, List.prefix_rfl⟩

theorem RowsServed.trans (h : RowsServed x σ s) (k : RowsServed x s t) : RowsServed x σ t where
  img := k.img.trans h.img
  dram := k.dram.trans h.dram
  others y hy := (k.others y hy).trans (h.others y hy)
  refreshing := k.refreshing.trans h.refreshing
  out := h.out.trans k.out

theorem RowsServed.geom (h : RowsServed x s t) : geom t = geom s := geom_of_img h.img

theorem RowsServed.emit {o : Out} (h : RowsServed x σ s) : RowsServed x σ (emit o s) :=
  h.trans ⟨rfl, rfl, fun _ _ => rfl, rfl, List.prefix_append ..⟩

theorem RowsServed.raise {b : Fin 40} {i : Nat} {c : Cap} (h : RowsServed x σ s) : RowsServed x σ (raise b i c s) :=
  h.trans ⟨rfl, rfl, fun _ _ => rfl, rfl, List.prefix_rfl⟩

theorem RowsServed.perfMc {event amount : Nat} {cls : Option Nat} (h : RowsServed x σ s) :
    RowsServed x σ (perfMc x event amount cls s) := by
  refine h.trans ?_
  rw [(perfMc_onlyCounted x event amount cls s).frame]
  exact ⟨rfl, rfl, fun _ _ => rfl, rfl, List.prefix_rfl⟩

theorem RowsServed.updMc {f : Mc → Mc} (h : RowsServed x σ s)
    (hf : ∀ m, (f m).refreshing = m.refreshing := by exact fun _ => rfl) : RowsServed x σ (updMc x f s) :=
  h.trans ⟨rfl, rfl, fun _ hy => updMc_mc_other f s hy, by rw [updMc_mc_same, hf], List.prefix_rfl⟩

theorem RowsServed.foldl {β : Type} {f : State → β → State} {l : List β} (h : RowsServed x σ s)
    (hf : ∀ u b, RowsServed x σ u → RowsServed x σ (f u b)) : RowsServed x σ (l.foldl f s) := by
  induction l generalizing s with
  | nil => exact h
  | cons b l ih => exact ih (hf s b h)

/-! ## Slices (R212) -/

theorem RowsServed.firstSlice {row : Nat} (h : RowsServed x σ s) : RowsServed x σ (firstSlice x row s).2 := by
  unfold Machine.firstSlice
  dsimp only
  exact (h.foldl fun _ _ k => k.emit).updMc.perfMc

theorem RowsServed.dueSlice {row : Nat} (h : RowsServed x σ s) : RowsServed x σ (dueSlice x row s).2 := by
  unfold Machine.dueSlice
  split
  · exact h.updMc
  · exact h.firstSlice

theorem RowsServed.activateRows {fuel : Nat} {rows : List Nat} (h : RowsServed x σ s) :
    RowsServed x σ (activateRows fuel x rows s) := by
  induction fuel generalizing rows s with
  | zero => exact h.updMc
  | succ fuel ih =>
    cases rows with
    | nil => exact h
    | cons r rows =>
      unfold Machine.activateRows
      dsimp only
      split
      · split
        · exact ih h.perfMc.updMc.dueSlice
        · exact ih h.perfMc.updMc
      · split
        · exact ih h.perfMc.updMc
        · exact ih h.perfMc.updMc.raise.dueSlice

/-- A row's first slice sends an activate of each neighbour at distance 1. -/
theorem firstSlice_sends {row n : Nat} (hn : n ∈ neighbours (geom s) row 1) :
    Out.refresh x 0 (some n) ∈ (firstSlice x row s).2.out := by
  unfold firstSlice
  rw [perfMc_out, updMc_out, foldl_emit_out]
  exact List.mem_append_right _ (List.mem_map_of_mem hn)

theorem RowsServed.secondSlice {row : Nat} (h : RowsServed x σ s) : RowsServed x σ (secondSlice x row s) := by
  unfold Machine.secondSlice
  exact (h.updMc.perfMc.foldl fun _ _ k => k.emit).activateRows

/-- A row's second slice sends an activate of each neighbour at distance 2, and then what those activates bring about. -/
theorem secondSlice_out (x : Fin 16) (row : Nat) (s : State) : ∃ more, (secondSlice x row s).out =
    s.out ++ ((neighbours (geom s) row 2).map fun n => .refresh x 0 (some n)) ++ more := by
  unfold secondSlice
  dsimp only
  obtain ⟨more, hmore⟩ := (RowsServed.refl x (List.foldl (fun t n => emit (.refresh x 0 (some n)) t) (perfMc x 0x06 1 none
    (updMc x (fun m => { m with owed := m.owed.filter (·.1 ≠ row) }) s)) (neighbours (geom s) row 2))).activateRows.out
  rw [foldl_emit_out, perfMc_out, updMc_out] at hmore
  exact ⟨more, hmore.symm⟩

theorem secondSlice_sends {row n : Nat} (hn : n ∈ neighbours (geom s) row 2) :
    Out.refresh x 0 (some n) ∈ (secondSlice x row s).out := by
  obtain ⟨more, hout⟩ := secondSlice_out x row s
  rw [hout]
  exact List.mem_append_left _ (List.mem_append_right _ (List.mem_map_of_mem hn))

/-- What the step of one element sends from whatever state of the same geometry, the fold over a list with it sends. -/
theorem mem_out_foldl {β : Type} {f : State → β → State} {l : List β} {b : β} {o : Out} (hf : ∀ u b, RowsServed x u (f u b))
    (hb : b ∈ l) (ho : ∀ u, geom u = geom s → o ∈ (f u b).out) : o ∈ (l.foldl f s).out := by
  obtain ⟨before, after, rfl⟩ := List.append_of_mem hb
  have hkeep (l : List β) (u : State) : RowsServed x u (l.foldl f u) := (RowsServed.refl x u).foldl fun _ _ k => k.trans (hf ..)
  rw [List.foldl_append, List.foldl_cons]
  exact (hkeep after _).out.subset (ho _ (hkeep before s).geom)

/-! ## The end of tRFC (R209, R215) -/

/-- The row's first slice with the activates that it brings about. -/
def firstSliceServed (x : Fin 16) (u : State) (row : Nat) : State :=
  activateRows 4096 x (firstSlice x row u).1 (firstSlice x row u).2

theorem firstSliceServed_served (x : Fin 16) (u : State) (row : Nat) : RowsServed x u (firstSliceServed x u row) :=
  (RowsServed.refl x u).firstSlice.activateRows

theorem firstSliceServed_sends {row n : Nat} (hn : n ∈ neighbours (geom s) row 1) :
    Out.refresh x 0 (some n) ∈ (firstSliceServed x s row).out :=
  (RowsServed.refl x _).activateRows.out.subset (firstSlice_sends hn)

/-- The target's tRFC is over, and no first slice waits for its end any more. -/
def targetFree (x : Fin 16) (t : Nat) (s : State) : State :=
  updMc x (fun m => { m with firstDue := m.firstDue.filter fun row => rowTarget s row ≠ t })
    (updMc x (fun m => { m with refreshing := m.refreshing.filter (· ≠ t) }) s)

theorem targetFree_mc_same (x : Fin 16) (t : Nat) (s : State) : (targetFree x t s).mcs[x] = { s.mcs[x] with
    refreshing := s.mcs[x].refreshing.filter (· ≠ t)
    firstDue := s.mcs[x].firstDue.filter fun row => rowTarget s row ≠ t } := by
  rw [targetFree, updMc_mc_same, updMc_mc_same]

theorem targetFree_mc_other {y : Fin 16} (t : Nat) (s : State) (hy : y ≠ x) : (targetFree x t s).mcs[y] = s.mcs[y] := by
  rw [targetFree, updMc_mc_other _ _ hy, updMc_mc_other _ _ hy]

/-- The first slices that wait for the end of the target's tRFC. -/
def dueFirst (x : Fin 16) (t : Nat) (s : State) : List Nat := s.mcs[x].firstDue.filter fun row => rowTarget s row = t

/-- The second slices that wait for it. -/
def dueSecond (x : Fin 16) (t : Nat) (s : State) : List (Nat × Bool) :=
  s.mcs[x].owed.filter fun e => e.2 && rowTarget s e.1 = t

/-- The rows whose slices waited are served, first slices before second ones. -/
def dueServed (x : Fin 16) (t : Nat) (s : State) : State :=
  (dueSecond x t s).foldl (fun u e => secondSlice x e.1 u) ((dueFirst x t s).foldl (firstSliceServed x) (targetFree x t s))

theorem doRefreshEnd_eq {t : Nat} (h : s.mcs[x].refreshing.contains t = true) : doRefreshEnd x t s = dueServed x t s := by
  unfold doRefreshEnd
  rw [if_neg (by rw [h]; decide)]
  simp only [updMc_mc_same]
  rfl

theorem dueServed_served (x : Fin 16) (t : Nat) (s : State) : RowsServed x (targetFree x t s) (dueServed x t s) :=
  ((RowsServed.refl x _).foldl fun u _ k => k.trans (firstSliceServed_served x u _)).foldl fun _ _ k => k.secondSlice

theorem dueServed_sends_first {t row n : Nat} (hrow : row ∈ s.mcs[x].firstDue) (ht : rowTarget s row = t)
    (hn : n ∈ neighbours (geom s) row 1) : Out.refresh x 0 (some n) ∈ (dueServed x t s).out := by
  have hdue : row ∈ dueFirst x t s := List.mem_filter.2 ⟨hrow, decide_eq_true ht⟩
  refine ((RowsServed.refl x _).foldl fun _ _ k => k.secondSlice).out.subset ?_
  exact mem_out_foldl (firstSliceServed_served x) hdue fun u hu => firstSliceServed_sends (hu ▸ hn)

theorem dueServed_sends_second {t row n : Nat} (hrow : (row, true) ∈ s.mcs[x].owed) (ht : rowTarget s row = t)
    (hn : n ∈ neighbours (geom s) row 2) : Out.refresh x 0 (some n) ∈ (dueServed x t s).out := by
  have hdue : (row, true) ∈ dueSecond x t s := List.mem_filter.2 ⟨hrow, by simpa using ht⟩
  have hfirst := (RowsServed.refl x (targetFree x t s)).foldl (l := dueFirst x t s)
    fun u row k => k.trans (firstSliceServed_served x u row)
  refine mem_out_foldl (fun u _ => (RowsServed.refl x u).secondSlice) hdue fun u hu => secondSlice_sends ?_
  rw [hu, hfirst.geom]
  exact hn

/-- Where no slice waits for the target, the end of its tRFC is all that happens. -/
theorem dueServed_of_none {t : Nat} (hsecond : (s.mcs[x].owed.any fun e => e.2 && rowTarget s e.1 = t) = false)
    (hfirst : ∀ row ∈ s.mcs[x].firstDue, rowTarget s row ≠ t) : dueServed x t s = targetFree x t s := by
  have hnoFirst : dueFirst x t s = [] := List.filter_eq_nil_iff.2 fun row hrow => by simpa using hfirst row hrow
  have hnoSecond : dueSecond x t s = [] := List.filter_eq_nil_iff.2 fun e he => by simpa using List.any_eq_false.1 hsecond e he
  rw [dueServed, hnoFirst, hnoSecond]
  rfl

theorem targetFree_mc_of_none {t : Nat} (hfirst : ∀ row ∈ s.mcs[x].firstDue, rowTarget s row ≠ t) :
    (targetFree x t s).mcs[x] = { s.mcs[x] with refreshing := s.mcs[x].refreshing.filter (· ≠ t) } := by
  rw [targetFree_mc_same, List.filter_eq_self.2 fun row hrow => decide_eq_true (hfirst row hrow)]

end Rows

/-! ## The commands of refresh -/

section Commands
variable {x : Fin 16} {s : State}

theorem completes_refab {t : Nat} (hstate : s.mcs[x].state = .active ∨ s.mcs[x].state = .powerDown)
    (ht : t < 2 * targetsPer s) (hidle : s.mcs[x].refreshing.contains t = false) :
    Completes (.refab x t) s fun u => u = { s with mcs := u.mcs, out := s.out ++ [.refresh x t none] } ∧
      (∀ y, y ≠ x → u.mcs[y] = s.mcs[y]) ∧
      u.mcs[x] = { s.mcs[x] with
        refreshing := s.mcs[x].refreshing ++ [t], fastApplied := u.mcs[x].fastApplied, trefi := u.mcs[x].trefi } ∧
      u.mcs[x].fastApplied = (if s.mcs[x].fastWanted then s.mcs[x].fastApplied ||| BitVec.ofNat 2 (1 <<< (t / targetsPer s))
        else s.mcs[x].fastApplied &&& ~~~ BitVec.ofNat 2 (1 <<< (t / targetsPer s))) ∧
      u.mcs[x].trefi = if u.mcs[x].fastApplied = 0 then 3900 else 1950 := by
  have hguard : (!inService s.mcs[x].state || decide (2 * targetsPer s ≤ t) || s.mcs[x].refreshing.contains t) = false := by
    simp only [inService_iff.2 hstate, hidle, Nat.not_le.2 ht, decide_false, Bool.not_true, Bool.or_false]
  refine completes_of_next (congrArg Host.Outcome.next (if_neg (ne_true_of_eq_false hguard))) ?_
  refine ⟨rfl, fun y hy => updMc_mc_other _ s hy, ?_, ?_, ?_⟩ <;> simp only [emit_mcs, updMc_mc_same]

theorem completes_refreshEnd {t : Nat} (h : s.mcs[x].refreshing.contains t = true) :
    Completes (.refreshEnd x t) s fun u => u.dram = s.dram ∧
      t ∉ u.mcs[x].refreshing ∧ (∀ y, y ≠ x → u.mcs[y] = s.mcs[y]) ∧ ∀ row n, rowTarget s row = t →
        (row, true) ∈ s.mcs[x].owed ∧ n ∈ neighbours (geom s) row 2 ∨ row ∈ s.mcs[x].firstDue ∧ n ∈ neighbours (geom s) row 1 →
        Out.refresh x 0 (some n) ∈ u.out := by
  have hserved := dueServed_served x t s
  refine completes_of_next (congrArg Host.Outcome.next (doRefreshEnd_eq h)) ⟨hserved.dram, ?_, fun y hy => ?_, fun row n ht => ?_⟩
  · rw [hserved.refreshing, targetFree_mc_same]
    simp
  · rw [hserved.others y hy, targetFree_mc_other t s hy]
  · rintro (⟨hrow, hn⟩ | ⟨hrow, hn⟩)
    · exact dueServed_sends_second hrow ht hn
    · exact dueServed_sends_first hrow ht hn

theorem completes_refreshEnd_of_none {t : Nat} (h : s.mcs[x].refreshing.contains t = true)
    (hsecond : (s.mcs[x].owed.any fun e => e.2 && rowTarget s e.1 = t) = false)
    (hfirst : ∀ row ∈ s.mcs[x].firstDue, rowTarget s row ≠ t) :
    Completes (.refreshEnd x t) s fun u => u = { s with mcs := u.mcs } ∧ (∀ y, y ≠ x → u.mcs[y] = s.mcs[y]) ∧
      u.mcs[x] = { s.mcs[x] with refreshing := s.mcs[x].refreshing.filter (· ≠ t) } :=
  completes_of_next (congrArg Host.Outcome.next ((doRefreshEnd_eq h).trans (dueServed_of_none hsecond hfirst)))
    ⟨rfl, fun _ hy => targetFree_mc_other t s hy, targetFree_mc_of_none hfirst⟩

theorem completes_neighborRefreshSlice2_of_busy {row : Nat} (howed : s.mcs[x].owed.any (fun e => e.1 = row) = true)
    (hbusy : s.mcs[x].refreshing.contains (rowTarget s row) = true) :
    Completes (.neighborRefreshSlice2 x row) s fun u => u = { s with mcs := u.mcs } ∧
      u.mcs[x] = { s.mcs[x] with owed := s.mcs[x].owed.map fun e => if e.1 = row then (row, true) else e } := by
  have hdo : doNeighborRefreshSlice2 x row s =
      updMc x (fun m => { m with owed := m.owed.map fun e => if e.1 = row then (row, true) else e }) s := by
    rw [doNeighborRefreshSlice2, howed, hbusy]
    rfl
  exact completes_of_next (congrArg Host.Outcome.next hdo) ⟨rfl, updMc_mc_same ..⟩

theorem completes_neighborRefreshSlice2 {row : Nat} (howed : s.mcs[x].owed.any (fun e => e.1 = row) = true)
    (hidle : s.mcs[x].refreshing.contains (rowTarget s row) = false) :
    Completes (.neighborRefreshSlice2 x row) s fun u => u.dram = s.dram ∧ (∀ y, y ≠ x → u.mcs[y] = s.mcs[y]) ∧
      ∃ more, u.out = s.out ++ ((neighbours (geom s) row 2).map fun n => .refresh x 0 (some n)) ++ more := by
  have hdo : doNeighborRefreshSlice2 x row s = secondSlice x row s := by
    rw [doNeighborRefreshSlice2, howed, hidle]
    rfl
  have hserved := (RowsServed.refl x s).secondSlice (row := row)
  exact completes_of_next (congrArg Host.Outcome.next hdo) ⟨hserved.dram, hserved.others, secondSlice_out x row s⟩

end Commands

end Sys2Proof.Machine

/-! # The temperatures of a channel (R204, R210, R221) -/

namespace Sys2Proof.Machine

/-! ## The sensors (R204, R210) -/

/-- What DIMM `d` of a channel is known by after a reading, or after a read that its sensor missed. -/
def sensed (d : Fin 2) (t : Option Int) (m : Mc) : Mc :=
  match t with
  | some v => { m with temps := m.temps.set d v, missed := m.missed.set d 0 }
  | none => { m with missed := m.missed.set d (m.missed[d] + 1) }

theorem sensed_some (q : Int) (m : Mc) : (sensed 0 (some q) m).temps[0] = q ∧ (sensed 0 (some q) m).missed[0] = 0 := by
  simp [sensed]

theorem sensed_none (m : Mc) : (sensed 0 none m).missed[0] = m.missed[0] + 1 := by
  simp [sensed]

/-- The tREFI wanted of a channel with one DIMM, with hysteresis (R210). -/
def fastWantedOf (m : Mc) : Bool :=
  if dimmHot m 0 then true else if m.missed[0] < 3 && m.temps[0] < 332 then false else m.fastWanted

theorem fastWantedOf_sensed_some (q : Int) (m : Mc) :
    fastWantedOf (sensed 0 (some q) m) = if 340 ≤ q then true else if q < 332 then false else m.fastWanted := by
  simp [fastWantedOf, dimmHot, sensed]

theorem fastWantedOf_sensed_none {m : Mc} (h : 3 ≤ m.missed[0] + 1) : fastWantedOf (sensed 0 none m) = true := by
  have hhot : dimmHot (sensed 0 none m) 0 = true := by
    simp only [dimmHot, Bool.or_eq_true, decide_eq_true_eq]
    exact .inl (sensed_none m ▸ h)
  rw [fastWantedOf, if_pos hhot]

/-- The temperature is DELTA_T or more away from that of the last calibration (R221). -/
def recalDue (x : Fin 16) (s : State) : Bool :=
  inService s.mcs[x].state && decide ((regField s (offRecalCfg x) 0 8 : Int) ≤ ((topTemp s x - s.mcs[x].calTemp).natAbs : Int))

section Sensors
variable {x : Fin 16} {s : State} {i : SolvikImage}

theorem takeTemp_frame (d : Fin 2) (t : Option Int) :
    takeTemp x d t s = { s with mcs := updAt s.mcs x (sensed d t), headers := (takeTemp x d t s).headers } := by
  cases t <;> simp only [takeTemp] <;> split <;> rfl

theorem takeTemp_cause_some (himg : s.img = some i) (d : Fin 2) (q : Int) :
    (takeTemp x d (some q) s).headers[blkMc x].cause =
      if 4 * (i.hotLimit : Int) ≤ q then s.headers[blkMc x].cause ||| 0x80 else s.headers[blkMc x].cause := by
  simp only [takeTemp, himg, Option.map_some, Option.getD_some]
  split
  · exact raise_cause
  · rfl

theorem takeTemp_cause_none (d : Fin 2) : (takeTemp x d none s).headers[blkMc x].cause =
    if s.mcs[x].missed[d] = 2 then s.headers[blkMc x].cause ||| 0x40 else s.headers[blkMc x].cause := by
  simp only [takeTemp, Nat.reduceEqDiff]
  split
  · exact raise_cause
  · rfl

theorem dimms_of_one (himg : s.img = some i) (hone : i.dpc2 = false) : dimms s = [0] := by
  simp [dimms, himg, hone]

theorem topTemp_of_one (himg : s.img = some i) (hone : i.dpc2 = false) : topTemp s x = s.mcs[x].temps[0] := by
  simp [topTemp, himg, hone]

theorem judgeRefresh_of_one (himg : s.img = some i) (hone : i.dpc2 = false) :
    judgeRefresh x s = updMc x (fun m => { m with fastWanted := fastWantedOf m }) s := by
  simp only [judgeRefresh, dimms_of_one himg hone, fastWantedOf, List.any_cons, List.any_nil, List.all_cons, List.all_nil,
    Bool.or_false, Bool.and_true]
  rfl

theorem judgeRecal_eq (x : Fin 16) (s : State) :
    judgeRecal x s = updMc x (fun m => { m with calRunning := m.calRunning || recalDue x s }) s := by
  cases hdue : recalDue x s with
  | true =>
    simp only [Bool.or_true]
    exact if_pos hdue
  | false =>
    rw [updMc_self (by rw [Bool.or_false])]
    exact if_neg (ne_true_of_eq_false hdue)

theorem img_takeTemp (d : Fin 2) (t : Option Int) : (takeTemp x d t s).img = s.img := by rw [takeTemp_frame]

theorem takeTemp_mc_same (d : Fin 2) (t : Option Int) : (takeTemp x d t s).mcs[x] = sensed d t s.mcs[x] := by
  rw [takeTemp_frame]
  exact updAt_get_same ..

theorem takeTemp_mc_other {y : Fin 16} (d : Fin 2) (t : Option Int) (hy : y ≠ x) : (takeTemp x d t s).mcs[y] = s.mcs[y] := by
  rw [takeTemp_frame]
  exact updAt_get_other _ _ hy.symm

/-- The channel with its reading taken and its tREFI judged. -/
def readOut (x : Fin 16) (t : Option Int) (s : State) : State :=
  updMc x (fun m => { m with fastWanted := fastWantedOf m }) (takeTemp x 0 t s)

theorem readOut_mc_same (t : Option Int) : (readOut x t s).mcs[x] =
    { sensed 0 t s.mcs[x] with fastWanted := fastWantedOf (sensed 0 t s.mcs[x]) } := by
  rw [readOut, updMc_mc_same, takeTemp_mc_same]

theorem doDimmTempRead_of_one (t0 t1 : Option Int) (himg : s.img = some i) (hone : i.dpc2 = false)
    (hside : sideband s.mcs[x].state = true) : doDimmTempRead x t0 t1 s =
      updMc x (fun m => { m with calRunning := m.calRunning || recalDue x (readOut x t0 s) }) (readOut x t0 s) := by
  rw [readOut, ← judgeRefresh_of_one ((img_takeTemp 0 t0).trans himg) hone, ← judgeRecal_eq, doDimmTempRead, hside,
    dimms_of_one himg hone]
  rfl

theorem recalDue_readOut (q : Int) (himg : s.img = some i) (hone : i.dpc2 = false) :
    recalDue x (readOut x (some q) s) = (inService s.mcs[x].state &&
      decide ((regField s (offRecalCfg x) 0 8 : Int) ≤ ((q - s.mcs[x].calTemp).natAbs : Int))) := by
  have hregs : regField (readOut x (some q) s) (offRecalCfg x) 0 8 = regField s (offRecalCfg x) 0 8 := by
    rw [readOut, takeTemp_frame]
    rfl
  rw [recalDue, hregs, topTemp_of_one (s := readOut x (some q) s) ((img_takeTemp 0 (some q)).trans himg) hone, readOut_mc_same]
  simp only [(sensed_some q _).1]
  rfl

end Sensors

/-! ## The command that reads the sensors -/

section Commands
variable {x : Fin 16} {s : State}

theorem completes_dimmTempRead {i : SolvikImage} (t0 t1 : Option Int) (himg : s.img = some i) (hone : i.dpc2 = false)
    (hside : sideband s.mcs[x].state = true) :
    Completes (.dimmTempRead x t0 t1) s fun u => u = { s with mcs := u.mcs, headers := u.headers } ∧
      (∀ y, y ≠ x → u.mcs[y] = s.mcs[y]) ∧
      (∀ q, t0 = some q → u.mcs[x].temps[0] = q ∧ u.mcs[x].missed[0] = 0 ∧
        u.mcs[x].fastWanted = (if 340 ≤ q then true else if q < 332 then false else s.mcs[x].fastWanted) ∧
        (u.mcs[x].calRunning = (s.mcs[x].calRunning || inService s.mcs[x].state &&
          decide ((regField s (offRecalCfg x) 0 8 : Int) ≤ ((q - s.mcs[x].calTemp).natAbs : Int)))) ∧
        u.headers[blkMc x].cause =
          (if 4 * (i.hotLimit : Int) ≤ q then s.headers[blkMc x].cause ||| 0x80 else s.headers[blkMc x].cause)) ∧
      (t0 = none → u.mcs[x].temps = s.mcs[x].temps ∧ u.mcs[x].missed[0] = s.mcs[x].missed[0] + 1 ∧
        (3 ≤ s.mcs[x].missed[0] + 1 → u.mcs[x].fastWanted = true) ∧
        u.headers[blkMc x].cause =
          (if s.mcs[x].missed[0] = 2 then s.headers[blkMc x].cause ||| 0x40 else s.headers[blkMc x].cause)) := by
  refine completes_of_next (congrArg Host.Outcome.next (doDimmTempRead_of_one t0 t1 himg hone hside)) ⟨?_, fun y hy => ?_, ?_, ?_⟩
  · rw [readOut, takeTemp_frame]
    rfl
  · rw [updMc_mc_other _ _ hy, readOut, updMc_mc_other _ _ hy, takeTemp_mc_other 0 t0 hy]
  · rintro q rfl
    simp only [updMc_headers, updMc_mc_same, readOut_mc_same, recalDue_readOut q himg hone]
    obtain ⟨htemp, hmissed⟩ := sensed_some q s.mcs[x]
    exact ⟨htemp, hmissed, fastWantedOf_sensed_some q _, rfl, takeTemp_cause_some himg 0 q⟩
  · rintro rfl
    simp only [updMc_headers, updMc_mc_same, readOut_mc_same]
    exact ⟨rfl, sensed_none _, fastWantedOf_sensed_none, takeTemp_cause_none 0⟩

end Commands

end Sys2Proof.Machine

/-! # Calibration of a channel (R219 to R224) -/

namespace Sys2Proof.Machine

/-! ## Writes of a table in its own order -/

/-- A key that no entry has reads as the default. -/
theorem kget_of_not_mem {α : Type} {d : α} {k : Nat} {m : KMap α} (h : k ∉ m.map (·.1)) : kget d m k = d := by
  induction m with
  | nil => rfl
  | cons e m ih =>
    obtain ⟨j, v⟩ := e
    simp only [List.map_cons, List.mem_cons, not_or] at h
    rw [kget, if_neg h.1, ih h.2, ite_self]

/-- Each entry of a table in order, put through `f` into another table. -/
theorem kget_foldl_kset {α : Type} [DecidableEq α] {d : α} (f : α → α) (k : Nat) {l t : KMap α} (hl : ksorted l = true)
    (ht : ksorted t = true) : kget d (l.foldl (fun u e => kset d u e.1 (f e.2)) t) k =
      if k ∈ l.map (·.1) then f (kget d l k) else kget d t k := by
  induction l generalizing t with
  | nil => rfl
  | cons e l ih =>
    obtain ⟨j, v⟩ := e
    obtain ⟨hsorted, habove⟩ := ksorted_cons.1 hl
    rw [List.foldl_cons, ih hsorted (ksorted_kset ht), List.map_cons]
    by_cases hk : k = j
    · subst hk
      have hnew : k ∉ l.map (·.1) := fun h => by
        obtain ⟨e, he, rfl⟩ := List.mem_map.1 h
        exact Nat.lt_irrefl _ (habove e he)
      rw [if_neg hnew, if_pos (List.mem_cons_self ..), kget_kset_same ht, kget, if_pos rfl]
    · rw [kget_kset_other ht hk]
      by_cases hmem : k ∈ l.map (·.1)
      · obtain ⟨e, he, rfl⟩ := List.mem_map.1 hmem
        rw [if_pos hmem, if_pos (List.mem_cons_of_mem _ hmem), kget, if_neg hk, if_neg (Nat.not_lt.2 (habove e he).le)]
      · rw [if_neg hmem, if_neg (by simpa [hk] using hmem)]

/-! ## A step of the live values (R222) -/

theorem calTap_target (c : CalVal) : (calTap c).target = c.target := by
  simp only [calTap]
  split
  · rfl
  · split <;> rfl

theorem calTap_live (c : CalVal) : (calTap c).live =
    if c.live < c.target then c.live + 1 else if c.target < c.live then c.live - 1 else c.live := by
  simp only [calTap]
  split
  · rfl
  · split <;> rfl

/-- Every value of the set moves, listed or not. -/
theorem kget_calTaps {m : KMap CalVal} (h : ksorted m = true) (k : Nat) :
    kget calNone (m.foldl (fun t e => kset calNone t e.1 (calTap e.2)) m) k = calTap (kget calNone m k) := by
  rw [kget_foldl_kset calTap k h h]
  split
  · rfl
  · next hk => rw [kget_of_not_mem hk]; rfl

/-! ## A target that is set -/

/-- The channel with a new target for the entry at `k`. -/
def retargeted (k : Nat) (v : BitVec 16) (m : Mc) : Mc :=
  { m with cal := kset calNone m.cal k ⟨(kget calNone m.cal k).live, v⟩ }

section Retargeted
variable {k : Nat} {v : BitVec 16} {m : Mc}

theorem retargeted_same (h : ksorted m.cal = true) :
    kget calNone (retargeted k v m).cal k = ⟨(kget calNone m.cal k).live, v⟩ := kget_kset_same h

theorem retargeted_other {j : Nat} (h : ksorted m.cal = true) (hj : j ≠ k) :
    kget calNone (retargeted k v m).cal j = kget calNone m.cal j := kget_kset_other h hj

theorem retargeted_live (h : ksorted m.cal = true) (j : Nat) :
    (kget calNone (retargeted k v m).cal j).live = (kget calNone m.cal j).live := by
  by_cases hj : j = k
  · rw [hj, retargeted_same h]
  · rw [retargeted_other h hj]

end Retargeted

/-! ## Measured targets (R221) -/

/-- The items of a read-side or write-side delay take the values found as they are. -/
theorem calFit_of_lt {item : Nat} (h : item < 6) (v : BitVec 16) : calFit item v = v := by
  have hitem : ¬(item = 6 || item = 7) = true := by
    rw [Bool.or_eq_true, decide_eq_true_eq, decide_eq_true_eq]
    omega
  rw [calFit, if_neg hitem]

theorem item_of_mem_calEntries {s : State} {items : List Nat} {e : Nat × Nat} (h : e ∈ calEntries s items) : e.2 ∈ items := by
  simp only [calEntries, List.mem_flatMap, List.mem_map] at h
  obtain ⟨_, _, _, _, item, hitem, _, _, rfl⟩ := h
  exact hitem

/-- A new target, a free value, for one entry of the set of channel `x`. -/
def targetFound (x : Fin 16) (s : State) (e : Nat × Nat) : State :=
  updMc x (retargeted e.1 (calFit e.2 (Config.calibration s.free))) { s with free := s.free + 1 }

theorem measure_eq_foldl (x : Fin 16) (items : List Nat) (s : State) :
    measure x items false s = (calEntries s items).foldl (targetFound x) s := rfl

/-- `t` follows `s` by new targets for the entries of `l`, and no live value. -/
structure Targeted (x : Fin 16) (l : List (Nat × Nat)) (s t : State) : Prop where
  frame : t = { s with mcs := t.mcs, free := t.free }
  others : ∀ y, y ≠ x → t.mcs[y] = s.mcs[y]
  channel : t.mcs[x] = { s.mcs[x] with cal := t.mcs[x].cal }
  sorted : ksorted t.mcs[x].cal = true
  live : ∀ k, (kget calNone t.mcs[x].cal k).live = (kget calNone s.mcs[x].cal k).live
  unlisted : ∀ k, k ∉ l.map (·.1) → kget calNone t.mcs[x].cal k = kget calNone s.mcs[x].cal k
  listed : ∀ k, k ∈ l.map (·.1) → ∃ item n, (k, item) ∈ l ∧
    (kget calNone t.mcs[x].cal k).target = calFit item (Config.calibration n)

section Measured
variable {x : Fin 16} {s t : State}

theorem targetFound_mc_same (e : Nat × Nat) :
    (targetFound x s e).mcs[x] = retargeted e.1 (calFit e.2 (Config.calibration s.free)) s.mcs[x] := updMc_mc_same ..

theorem targeted_targetFound (e : Nat × Nat) (h : ksorted s.mcs[x].cal = true) : Targeted x [e] s (targetFound x s e) := by
  refine ⟨rfl, fun y hy => updMc_mc_other _ _ hy, ?_, ?_, fun k => ?_, fun k hk => ?_, fun k hk => ?_⟩ <;> rw [targetFound_mc_same]
  · rfl
  · exact ksorted_kset h
  · exact retargeted_live h k
  · exact retargeted_other h (by simpa using hk)
  · obtain rfl : k = e.1 := by simpa using hk
    exact ⟨e.2, s.free, List.mem_singleton_self _, congrArg CalVal.target (retargeted_same h)⟩

theorem Targeted.cons {e : Nat × Nat} {l : List (Nat × Nat)} {u : State} (h : Targeted x [e] s t) (k : Targeted x l t u) :
    Targeted x (e :: l) s u where
  frame := by rw [k.frame, h.frame]
  others y hy := (k.others y hy).trans (h.others y hy)
  channel := by rw [k.channel, h.channel]
  sorted := k.sorted
  live i := (k.live i).trans (h.live i)
  unlisted i hi := by
    rw [List.map_cons, List.mem_cons, not_or] at hi
    rw [k.unlisted i hi.2, h.unlisted i (by simpa using hi.1)]
  listed i hi := by
    by_cases hl : i ∈ l.map (·.1)
    · obtain ⟨item, n, hmem, htarget⟩ := k.listed i hl
      exact ⟨item, n, List.mem_cons_of_mem _ hmem, htarget⟩
    · have hhead : i ∈ [e].map (·.1) := by
        rw [List.map_cons, List.mem_cons, or_iff_left hl] at hi
        exact hi ▸ List.mem_singleton_self _
      obtain ⟨item, n, hmem, htarget⟩ := h.listed i hhead
      exact ⟨item, n, List.mem_cons.2 (.inl (List.mem_singleton.1 hmem)), by rw [k.unlisted _ hl, htarget]⟩

theorem targeted_foldl (l : List (Nat × Nat)) (h : ksorted s.mcs[x].cal = true) : Targeted x l s (l.foldl (targetFound x) s) := by
  induction l generalizing s with
  | nil => exact ⟨rfl, fun _ _ => rfl, rfl, h, fun _ => rfl, fun _ _ => rfl, fun _ hk => absurd hk List.not_mem_nil⟩
  | cons e l ih =>
    have hfirst := targeted_targetFound e h
    exact hfirst.cons (ih hfirst.sorted)

/-- A run finds targets that are free values (log entry 4). -/
theorem target_of_targeted {items : List Nat} (hitems : ∀ i ∈ items, i < 6) (h : Targeted x (calEntries s items) s t) {k : Nat}
    (hk : k ∈ (calEntries s items).map (·.1)) : ∃ n, (kget calNone t.mcs[x].cal k).target = Config.calibration n := by
  obtain ⟨item, n, hmem, htarget⟩ := h.listed k hk
  exact ⟨n, htarget.trans (calFit_of_lt (hitems item (item_of_mem_calEntries hmem)) _)⟩

theorem topTemp_of_targeted {l : List (Nat × Nat)} (h : Targeted x l s t) : topTemp t x = topTemp s x := by
  simp only [topTemp]
  rw [h.channel, h.frame]

end Measured

/-! ## Registers that Germ writes in a channel (R225) -/

theorem guardWrite_recalCfg (x : Fin 16) (f : State → State) (s : State) : guardWrite .germ (offRecalCfg x) f s = f s := by
  fin_cases x <;> rfl

theorem guardWrite_calData (x : Fin 16) (f : State → State) (s : State) : guardWrite .germ (offCalSel x + 8) f s = f s := by
  fin_cases x <;> rfl

/-! ## The commands of calibration -/

section Commands
variable {x : Fin 16} {s : State}

/-- A write of MC_RECAL_CFG changes registers, and FORCE starts a run where the channel is in service. -/
theorem doRecalForce_eq (x : Fin 16) (v : Word) (s : State) : ∃ regs, doRecalForce .germ x v s =
    updMc x (fun c => { c with calRunning := c.calRunning || (flag v 8 && inService c.state) }) { s with regs := regs } := by
  obtain ⟨regs, hwrite⟩ : ∃ regs, regWrite .whole (offRecalCfg x) v s = { s with regs := regs } := ⟨_, rfl⟩
  refine ⟨regs, ?_⟩
  rw [doRecalForce, guardWrite_recalCfg, hwrite]
  cases hforce : flag v 8 && inService s.mcs[x].state with
  | true =>
    refine (if_pos hforce).trans ?_
    simp only [updMc, updAt, hforce, Bool.or_true]
  | false =>
    rw [updMc_self (by rw [hforce, Bool.or_false])]
    exact if_neg (ne_true_of_eq_false hforce)

theorem completes_recalForce (x : Fin 16) (v : Word) (s : State) :
    Completes (.recalForce .germ x v) s fun t => t = { s with regs := t.regs, mcs := t.mcs } ∧
      (∀ y, y ≠ x → t.mcs[y] = s.mcs[y]) ∧ t.mcs[x] = { s.mcs[x] with calRunning := t.mcs[x].calRunning } ∧
      t.mcs[x].calRunning = (s.mcs[x].calRunning || (flag v 8 && inService s.mcs[x].state)) := by
  obtain ⟨regs, hdo⟩ := doRecalForce_eq x v s
  refine completes_of_next (congrArg Host.Outcome.next hdo) ⟨rfl, fun y hy => updMc_mc_other _ _ hy, ?_, ?_⟩ <;>
    rw [updMc_mc_same]

theorem completes_recalRunDone (hcal : ksorted s.mcs[x].cal = true) (hrun : s.mcs[x].calRunning = true)
    (hservice : inService s.mcs[x].state = true) : Completes (.recalRunDone x) s fun t =>
      t = { s with mcs := t.mcs, free := t.free } ∧ (∀ y, y ≠ x → t.mcs[y] = s.mcs[y]) ∧
      t.mcs[x] = { s.mcs[x] with
        calRunning := false, calTemp := topTemp s x, calGen := (s.mcs[x].calGen + 1) % 2 ^ 32, cal := t.mcs[x].cal } ∧
      (∀ k, (kget calNone t.mcs[x].cal k).live = (kget calNone s.mcs[x].cal k).live) ∧
      (∀ k, k ∉ (calEntries s [1, 2, 3, 4, 5]).map (·.1) → kget calNone t.mcs[x].cal k = kget calNone s.mcs[x].cal k) ∧
      ∀ k, k ∈ (calEntries s [1, 2, 3, 4, 5]).map (·.1) → ∃ n, (kget calNone t.mcs[x].cal k).target = Config.calibration n := by
  have hfound : Targeted x (calEntries s [1, 2, 3, 4, 5]) s (measure x [1, 2, 3, 4, 5] false s) := targeted_foldl _ hcal
  have hdo : doRecalRunDone x s = updMc x (fun m =>
      { m with calRunning := false, calTemp := topTemp s x, calGen := (m.calGen + 1) % 2 ^ 32 })
      (measure x [1, 2, 3, 4, 5] false s) := by
    rw [doRecalRunDone, hrun, hservice, ← topTemp_of_targeted hfound]
    rfl
  refine completes_of_next (congrArg Host.Outcome.next hdo) ⟨?_, fun y hy => ?_, ?_⟩
  · rw [hfound.frame]
    rfl
  · rw [updMc_mc_other _ _ hy, hfound.others y hy]
  · rw [updMc_mc_same]
    refine ⟨?_, hfound.live, hfound.unlisted, fun k => target_of_targeted (by decide) hfound⟩
    rw [hfound.channel]

theorem completes_calStep (hcal : ksorted s.mcs[x].cal = true) (hactive : s.mcs[x].state = .active) :
    Completes (.calStep x) s fun t => t = { s with mcs := t.mcs } ∧ (∀ y, y ≠ x → t.mcs[y] = s.mcs[y]) ∧
      t.mcs[x] = { s.mcs[x] with cal := t.mcs[x].cal } ∧
      ∀ k, (kget calNone t.mcs[x].cal k).target = (kget calNone s.mcs[x].cal k).target ∧
        (kget calNone t.mcs[x].cal k).live =
          (if (kget calNone s.mcs[x].cal k).live < (kget calNone s.mcs[x].cal k).target then (kget calNone s.mcs[x].cal k).live + 1
          else if (kget calNone s.mcs[x].cal k).target < (kget calNone s.mcs[x].cal k).live then (kget calNone s.mcs[x].cal k).live - 1
          else (kget calNone s.mcs[x].cal k).live) := by
  refine completes_of_next (congrArg Host.Outcome.next (if_neg (not_not.2 hactive))) ?_
  refine ⟨rfl, fun y hy => updMc_mc_other _ s hy, ?_, fun k => ?_⟩ <;> rw [updMc_mc_same]
  rw [kget_calTaps hcal]
  exact ⟨calTap_target _, calTap_live _⟩

/-- A Vref value is a code of eight bits, a delay one of sixteen. -/
theorem toNat_calFit (item : Nat) (v : Word) :
    (calFit item (v.setWidth 16)).toNat = if item = 6 ∨ item = 7 then field v 0 8 else field v 0 16 := by
  simp only [calFit, Bool.or_eq_true, decide_eq_true_eq, field, bitsAt, Nat.shiftRight_zero]
  split
  · rw [BitVec.toNat_and, BitVec.toNat_setWidth]
    exact (Nat.and_two_pow_sub_one_eq_mod _ 8).trans (Nat.mod_mod_of_dvd _ (by decide))
  · exact BitVec.toNat_setWidth ..

theorem completes_calTargetWrite {v : Word} {k item : Nat} (hcal : ksorted s.mcs[x].cal = true)
    (hsel : calSelected s x = some (k, item)) (hstate : s.mcs[x].state = .active ∨ s.mcs[x].state = .powerDown) :
    Completes (.calTargetWrite .germ x v) s fun t => t = { s with mcs := t.mcs } ∧ (∀ y, y ≠ x → t.mcs[y] = s.mcs[y]) ∧
      (kget calNone t.mcs[x].cal k).live = (kget calNone s.mcs[x].cal k).live ∧
      (kget calNone t.mcs[x].cal k).target.toNat = (if item = 6 ∨ item = 7 then field v 0 8 else field v 0 16) ∧
      ∀ j, j ≠ k → kget calNone t.mcs[x].cal j = kget calNone s.mcs[x].cal j := by
  have hdo : doCalTargetWrite .germ x v s = updMc x (retargeted k (calFit item (v.setWidth 16))) s := by
    rw [doCalTargetWrite, guardWrite_calData, hsel]
    exact if_pos (inService_iff.2 hstate)
  refine completes_of_next (congrArg Host.Outcome.next hdo) ⟨rfl, fun y hy => updMc_mc_other _ s hy, ?_⟩
  rw [updMc_mc_same, retargeted_same hcal]
  exact ⟨rfl, toNat_calFit item v, fun j hj => retargeted_other hcal hj⟩

theorem exec_calTargetWrite_ignored {v : Word}
    (h : calSelected s x = none ∨ (s.mcs[x].state ≠ .active ∧ s.mcs[x].state ≠ .powerDown)) :
    exec (.calTargetWrite .germ x v) s = .next s := by
  refine congrArg Host.Outcome.next ((guardWrite_calData x _ s).trans ?_)
  cases hsel : calSelected s x with
  | none => rfl
  | some e =>
    have hidle : ¬inService s.mcs[x].state = true := by
      rw [inService_iff, not_or]
      exact h.resolve_left (by simp [hsel])
    exact if_neg hidle

end Commands

/-- Settles O34. Slices and the activates that they bring about add to what is sent and leave every channel but their own; a
calibration write touches one entry of a table in order. -/
theorem refreshTemperatureCalibration : Obligations.RefreshTemperatureCalibration := by
  unfold Obligations.RefreshTemperatureCalibration
  refine ⟨fun x s => ⟨fun t => completes_refab, fun t => completes_refreshEnd_of_none, fun t => completes_refreshEnd,
      fun row => completes_neighborRefreshSlice2_of_busy, fun row => completes_neighborRefreshSlice2, ?countWindow,
      fun i t0 t1 => completes_dimmTempRead t0 t1⟩,
    fun x s hcal => ⟨fun v => completes_recalForce x v s, completes_recalRunDone hcal, completes_calStep hcal,
      fun v k item => completes_calTargetWrite hcal, fun v => exec_calTargetWrite_ignored⟩⟩
  case countWindow => exact completes_of_next rfl ⟨rfl, fun y hy => updMc_mc_other _ s hy, updMc_mc_same ..⟩

end Sys2Proof.Machine

/-! # Scrubbing, command errors and copies onto a spare (R235 to R237, R240 to R244) -/

namespace Sys2Proof.Machine

/-! ## The scrubber (R235 to R237) -/

section Scrubber
variable {x : Fin 16} {s : State} {noise : Image} {par : Parity} {la : Nat}

/-- The scrubber of the channel runs and RATE, ENABLE and the domain let it read (Table 8.18). -/
structure ScrubRuns (s : State) (x : Fin 16) : Prop where
  run : s.mcs[x].scrubRun = true
  active : s.mcs[x].state = .active
  up : s.domainDown = false
  enabled : regField s (offScrubCfg x) 32 1 ≠ 0

theorem exec_scrubRead_of_stopped (h : s.mcs[x].scrubRun = false ∨ s.mcs[x].state ≠ .active ∨ s.domainDown = true ∨
    regField s (offScrubCfg x) 32 1 = 0) : exec (.scrubRead x noise par) s = .next s := by
  refine congrArg Host.Outcome.next (if_pos ?_)
  simp only [Bool.or_eq_true, decide_eq_true_eq, Bool.not_eq_true']
  rcases h with h | h | h | h
  · exact .inl (.inl (.inr h))
  · exact .inl (.inl (.inl h))
  · exact .inl (.inr h)
  · exact .inr h

/-- The state at the time of the channel's next scrub read, at RATE (R235). -/
def atScrubTime (x : Fin 16) (s : State) : State := timeTo (s.mcs[x].scrubAt + scrubGapNs s x) s

/-- The scrub read is counted in its window. -/
def scrubCounted (x : Fin 16) (s : State) : State :=
  updMc x (fun m => { m with scrubCount := scrubsInWindow s x + 1, scrubAt := s.dtime }) s

/-- The scrubber goes on past the line at `la`, or starts again at the end of its channel (R237). -/
def scrubbedPast (x : Fin 16) (la : Nat) (s : State) : State :=
  match scrubLine s x 5 (la + 64) with
  | some l => updMc x (fun m => { m with scrubPos := l }) s
  | none => endLap x s

/-- A clean line is left as it is, and the scrubber goes on. -/
theorem scrubAt_of_clean {f : Form} {img : Image} {t : State} (hinj : noInjection s = true)
    (hpar : parityAt par .channel ≠ .fatal)
    (hread : readLine (mpaOf (x.val / 2) la) true noise .scrub ⟨mpaOf (x.val / 2) la, 1, idScrub, 0xA, none⟩
      (perfMc x 0x07 1 none (scrubCounted x s)) = (.line f img [], t)) : scrubAt x la noise par s = scrubbedPast x la t := by
  refine (chanAccess_of_good hinj hpar).trans ?_
  rw [scrubCounted] at hread
  simp only [hread]
  rfl

/-- A scrub read that RATE allows, on an idle channel or within RESERVE, is made of the line that comes next (R235). -/
theorem doScrubRead_of_due (hruns : ScrubRuns s x)
    (hmay : chanIdle (atScrubTime x s) x = true ∨ scrubsInWindow (atScrubTime x s) x < regField s (offScrubCfg x) 16 8)
    (hline : scrubLine (atScrubTime x s) x 5 s.mcs[x].scrubPos = some la)
    (hfree : lineFree (atScrubTime x s) (mpaOf (x.val / 2) la) = true) :
    doScrubRead x noise par s = scrubAt x la noise par (atScrubTime x s) := by
  obtain ⟨hrun, hactive, hup, henabled⟩ := hruns
  have hruns : ¬ (decide (s.mcs[x].state ≠ .active) || !s.mcs[x].scrubRun || s.domainDown ||
      decide (regField s (offScrubCfg x) 32 1 = 0)) = true := by
    simp [-Fin.getElem_fin, hrun, hactive, hup, henabled]
  have hmade : ¬ (!chanIdle (atScrubTime x s) x &&
      decide (regField s (offScrubCfg x) 16 8 ≤ scrubsInWindow (atScrubTime x s) x)) = true := by
    simpa [imp_iff_not_or] using hmay
  rw [atScrubTime] at *
  refine (if_neg hruns).trans ((if_neg hmade).trans ?_)
  simp only [hline, Option.isNone_some, Bool.false_eq_true, if_false, timeTo_mcs, if_pos hfree]

/-- What the end of a scrub read leaves is the state after the read, but for the place of the scrubber and its laps. -/
theorem completes_scrubRead_of_scrubbedPast {t : State} (hdo : doScrubRead x noise par s = scrubbedPast x la t) :
    Completes (.scrubRead x noise par) s fun u => u = { t with mcs := u.mcs } ∧
      (∀ l, scrubLine t x 5 (la + 64) = some l → u.mcs[x] = { t.mcs[x] with scrubPos := l }) ∧
      (scrubLine t x 5 (la + 64) = none → u.mcs[x] = { t.mcs[x] with
        scrubPos := (scrubLine t x 5 0).getD 0, laps := (t.mcs[x].laps + 1) % 65536, lapStart := t.dtime
        lastLap := (t.dtime - t.mcs[x].lapStart) / 1000000000 }) := by
  refine completes_of_next (congrArg Host.Outcome.next hdo) ?_
  cases hnext : scrubLine t x 5 (la + 64) with
  | some l =>
    simp only [scrubbedPast, hnext]
    refine ⟨rfl, ?_, nofun⟩
    rintro _ ⟨rfl⟩
    exact updMc_mc_same ..
  | none =>
    simp only [scrubbedPast, hnext]
    exact ⟨rfl, nofun, fun _ => updMc_mc_same ..⟩

end Scrubber

/-! ## CA parity errors (R241) -/

section CaParity
variable {x : Fin 16} {s : State} {mpa tries : Nat}

/-- The logical rank that serves the line at `m` of the channel. -/
def caRankOf (x : Fin 16) (m : Nat) (s : State) : Nat :=
  servingRank s x (coordOf (geom s) (home m) (localAddr m)) (localAddr m)

/-- The error is logged in the channel's records. -/
def caLogged (x : Fin 16) (m : Nat) (s : State) : State :=
  logError x 4 0xF (physRank s x (caRankOf x m s)) (coordOf (geom s) (home m) (localAddr m)) 0 (raise (blkMc x) 19 Cap.none s)

/-- The error is logged, and counted against its rank for a millisecond. -/
def caCounted (x : Fin 16) (m : Nat) (s : State) : State :=
  updMc x (fun c => { c with caRank := (c.caRank ++ [(caRankOf x m s, s.dtime)]).filter fun e => s.dtime < e.2 + 1000000 })
    (caLogged x m s)

/-- A command that fails on its last retry leaves its line uncorrectable. -/
def caFailed (x : Fin 16) (m tries : Nat) (s : State) : State :=
  if tries ≤ 4 then s else updMc x (fun c => { c with failAt := c.failAt ++ [m] }) (raise (blkMc x) 20 Cap.none s)

theorem caCounted_cause (m : Nat) : (caCounted x m s).headers[blkMc x].cause = s.headers[blkMc x].cause ||| 0x80000 := raise_cause

theorem caCounted_failAt (m : Nat) : (caCounted x m s).mcs[x].failAt = s.mcs[x].failAt := by
  simp only [caCounted, caLogged, logError, updMc_mc_same, raise_mcs]

theorem caCounted_elogHead (m : Nat) : (caCounted x m s).mcs[x].elogHead = (s.mcs[x].elogHead + 1) % 2 ^ 32 := by
  simp only [caCounted, caLogged, logError, updMc_mc_same, raise_mcs]

theorem caCounted_getLast (m : Nat) : ((caCounted x m s).mcs[x].caRank.map (·.2)).getLast? = some s.dtime := by
  simp [-Fin.getElem_fin, caCounted]

theorem caCounted_mc_other {y : Fin 16} (m : Nat) (hy : y ≠ x) : (caCounted x m s).mcs[y] = s.mcs[y] := by
  rw [caCounted, updMc_mc_other _ _ hy, caLogged, logError, updMc_mc_other _ _ hy, raise_mcs]

theorem caFailed_mc_same (m : Nat) : (caFailed x m tries s).mcs[x] =
    { s.mcs[x] with failAt := s.mcs[x].failAt ++ if 4 < tries then [m] else [] } := by
  by_cases h : 4 < tries
  · rw [caFailed, if_neg (Nat.not_le.2 h), if_pos h]
    exact updMc_mc_same ..
  · rw [caFailed, if_pos (Nat.not_lt.1 h), if_neg h, List.append_nil]

theorem caFailed_cause (m : Nat) : (caFailed x m tries s).headers[blkMc x].cause =
    s.headers[blkMc x].cause ||| if 4 < tries then 0x100000 else 0 := by
  by_cases h : 4 < tries
  · rw [caFailed, if_neg (Nat.not_le.2 h), if_pos h]
    exact raise_cause
  · rw [caFailed, if_pos (Nat.not_lt.1 h), if_neg h]
    exact BitVec.or_zero.symm

theorem caFailed_mc_other {y : Fin 16} (m : Nat) (hy : y ≠ x) : (caFailed x m tries s).mcs[y] = s.mcs[y] := by
  unfold caFailed
  split
  · rfl
  · exact updMc_mc_other _ _ hy

theorem caFailed_frame (m : Nat) : caFailed x m tries s =
    { s with headers := (caFailed x m tries s).headers, mcs := (caFailed x m tries s).mcs } := by
  unfold caFailed
  split <;> rfl

/-- Where no number of errors calls for a spare, an error is counted, and a command that never passes is remembered. -/
theorem doCaParityError_eq (hchan : chanOf s (lineBase mpa) = x)
    (hstate : s.mcs[x].state = .active ∨ s.mcs[x].state = .powerDown) (hlimit : regField s (offRasCfg x) 8 8 = 0) :
    doCaParityError x mpa tries s = caFailed x (lineBase mpa) tries (caCounted x (lineBase mpa) s) := by
  have hserved : ¬ (decide (chanOf s (lineBase mpa) ≠ x) || !inService s.mcs[x].state) = true := by
    rw [hchan, inService_iff.2 hstate]
    simp
  have hnoLimit : regField (caFailed x (lineBase mpa) tries (caCounted x (lineBase mpa) s)) (offRasCfg x) 8 8 = 0 := by
    rw [caFailed_frame]
    exact hlimit
  refine (if_neg hserved).trans (if_neg ?_)
  rw [Bool.and_eq_true, decide_eq_true_eq]
  exact fun h => h.1 hnoLimit

theorem completes_caParityError (hchan : chanOf s (lineBase mpa) = x)
    (hstate : s.mcs[x].state = .active ∨ s.mcs[x].state = .powerDown) (hlimit : regField s (offRasCfg x) 8 8 = 0) :
    Completes (.caParityError x mpa tries) s fun t => t = { s with headers := t.headers, mcs := t.mcs } ∧
      (∀ y, y ≠ x → t.mcs[y] = s.mcs[y]) ∧
      t.headers[blkMc x].cause = s.headers[blkMc x].cause ||| (if 4 < tries then 0x180000 else 0x80000) ∧
      t.mcs[x].failAt = s.mcs[x].failAt ++ (if 4 < tries then [lineBase mpa] else []) ∧
      t.mcs[x].elogHead = (s.mcs[x].elogHead + 1) % 2 ^ 32 ∧ (t.mcs[x].caRank.map (·.2)).getLast? = some s.dtime := by
  refine completes_of_next (congrArg Host.Outcome.next (doCaParityError_eq hchan hstate hlimit)) ⟨?_, fun y hy => ?_, ?_, ?_⟩
  · exact caFailed_frame _
  · rw [caFailed_mc_other _ hy, caCounted_mc_other _ hy]
  · rw [caFailed_cause, caCounted_cause, BitVec.or_assoc]
    split <;> rfl
  · rw [caFailed_mc_same]
    exact ⟨congrArg (· ++ _) (caCounted_failAt _), caCounted_elogHead _, caCounted_getLast _⟩

theorem exec_caParityError_of_elsewhere (h : chanOf s (lineBase mpa) ≠ x) : exec (.caParityError x mpa tries) s = .next s :=
  congrArg Host.Outcome.next (if_pos (by rw [Bool.or_eq_true]; exact .inl (decide_eq_true h)))

end CaParity

/-! ## A copy that starts (R240, R242, Table 9.12) -/

section Starts
variable {x : Fin 16} {s : State} {v : Word} {k : SpareCopy}

theorem guardWrite_spareCmd (x : Fin 16) (f : State → State) (s : State) : guardWrite .germ (offSpareCmd x) f s = f s := by
  have hblk : blkOf (offSpareCmd x) = some (blkMc x) := by fin_cases x <;> decide
  rw [guardWrite, hblk]
  exact if_pos (by fin_cases x <;> rfl)

theorem regWrite_mcs (h : Half) (off : Nat) (v : Word) (s : State) : (regWrite h off v s).mcs = s.mcs := regSet_mcs ..

/-- The copy that a word of MC_SPARE_CMD names (Table 9.12). -/
def namedCopy (w : Word) : SpareCopy :=
  let bank := field w 60 3 = 2
  ⟨bank, field w 12 2, field w 10 2, if bank then field w 8 1 else 0, if bank then field w 4 3 else 0,
    if bank then field w 0 2 else 0, 0, none⟩

theorem spareCmd_of_busy (hcopy : s.mcs[x].copy ≠ none) : spareCmd .germ x v s = regWrite .whole (offSpareCmd x) v s := by
  rw [spareCmd, guardWrite_spareCmd]
  refine if_neg fun h => hcopy ?_
  simp only [Bool.and_eq_true, regWrite_mcs, Option.isNone_iff_eq_none] at h
  exact h.1.1.2

/-- With no copy active, what the register `w` of `u` names is a copy of a rank in use onto the spare that the rank takes first. -/
structure CopyMayStart (s u : State) (x : Fin 16) (w : Word) : Prop where
  idle : s.mcs[x].copy = none
  op : field w 60 3 ≠ 0
  ranks : field w 12 2 < (geom s).ranks
  unspared : (spareMask s x).testBit (field w 12 2) = false
  room : s.mcs[x].remaps.length < 4
  spare : (usableSpares u x (field w 12 2)).head? = some (field w 10 2)

/-- GO starts the copy that the register names once it is written, onto the spare that its rank takes first. -/
theorem spareCmd_of_go {u : State} {w : Word} (hu : regWrite .whole (offSpareCmd x) v s = u) (hw : regGet u (offSpareCmd x) = w)
    (hgo : flag v 63 = true) (hmay : CopyMayStart s u x w) : spareCmd .germ x v s = startCopy x (namedCopy w) u := by
  obtain ⟨hcopy, hop, hranks, hspare, hroom, hfirst⟩ := hmay
  have hmcs : u.mcs = s.mcs := by rw [← hu, regWrite_mcs]
  have himg : u.img = s.img := by rw [← hu, regWrite, regSet_img]
  have hmask : spareMask u x = spareMask s x := by rw [spareMask, spareMask, himg]
  have htakes : (usableSpares u x (field w 12 2)).contains (field w 10 2) = true :=
    List.contains_iff_mem.2 (List.mem_of_head? hfirst)
  have hroom' : s.mcs[x].remaps.length < if field w 60 3 = 2 then 4 else 5 := by
    split <;> omega
  rw [spareCmd, guardWrite_spareCmd, hu]
  dsimp only
  rw [hw, hmcs, geom_of_img himg, hmask]
  refine if_pos ?_
  simp only [Bool.and_eq_true, decide_eq_true_eq, Bool.not_eq_true', Option.isNone_iff_eq_none]
  refine ⟨⟨⟨hgo, hcopy⟩, hop⟩, ⟨⟨?_, hranks⟩, hspare⟩, hroom'⟩
  split
  · exact decide_eq_true hfirst
  · exact htakes

theorem startCopy_frame : startCopy x k s = { s with mcs := (startCopy x k s).mcs, headers := (startCopy x k s).headers } := by
  unfold startCopy
  cases k.bank <;> rfl

theorem startCopy_mc_other {y : Fin 16} (hy : y ≠ x) : (startCopy x k s).mcs[y] = s.mcs[y] := by
  have hdropped : (dropRows x k.to_ s).mcs[y] = s.mcs[y] := updMc_mc_other _ _ hy
  cases hbank : k.bank <;> simp only [startCopy, hbank]
  · exact (updMc_mc_other _ _ hy).trans hdropped
  · exact updMc_mc_other _ _ hy

/-- A copy starts at the first of its lines. -/
theorem startCopy_copy : (startCopy x k s).mcs[x].copy =
    some { k with ptr := copyLine (geom s) x k (k.from_ <<< rankShift (geom s)) } := by
  cases hbank : k.bank <;> simp [-Fin.getElem_fin, startCopy, dropRows, hbank]

theorem startCopy_cause (hbank : k.bank = false) :
    (startCopy x k s).headers[blkMc x].cause = s.headers[blkMc x].cause ||| 0x200000 := by
  simp only [startCopy, hbank]
  exact raise_cause

theorem startCopy_namedCopy (x : Fin 16) (w : Word) (s : State) : ∃ k, (startCopy x (namedCopy w) s).mcs[x].copy = some k ∧
    k.bank = decide (field w 60 3 = 2) ∧ k.from_ = field w 12 2 ∧ k.to_ = field w 10 2 ∧ k.slot = none ∧
    (decide (field w 60 3 = 2) = true → k.subch = field w 8 1 ∧ k.bg = field w 4 3 ∧ k.ba = field w 0 2) := by
  refine ⟨_, startCopy_copy, rfl, rfl, rfl, rfl, fun hbank => ?_⟩
  have hop := of_decide_eq_true hbank
  exact ⟨if_pos hop, if_pos hop, if_pos hop⟩

theorem exec_spareCmd {c : Instr} (h : c = .rankCopy .germ x v ∨ c = .bankCopy .germ x v) :
    exec c s = .next (spareCmd .germ x v s) := by
  rcases h with rfl | rfl <;> rfl

theorem completes_spareCmd {c : Instr} {u : State} {w : Word} (hc : c = .rankCopy .germ x v ∨ c = .bankCopy .germ x v)
    (hu : regWrite .whole (offSpareCmd x) v s = u) (hw : regGet u (offSpareCmd x) = w)
    (hgo : flag v 63 = true) (hmay : CopyMayStart s u x w) :
    Completes c s fun t => t = { u with mcs := t.mcs, headers := t.headers } ∧ (∀ y, y ≠ x → t.mcs[y] = s.mcs[y]) ∧
      (∃ k, t.mcs[x].copy = some k ∧ k.bank = decide (field w 60 3 = 2) ∧ k.from_ = field w 12 2 ∧ k.to_ = field w 10 2 ∧
        k.slot = none ∧
        (decide (field w 60 3 = 2) = true → k.subch = field w 8 1 ∧ k.bg = field w 4 3 ∧ k.ba = field w 0 2)) ∧
      (decide (field w 60 3 = 2) = false → t.headers[blkMc x].cause = s.headers[blkMc x].cause ||| 0x200000) := by
  have hmcs : u.mcs = s.mcs := by rw [← hu, regWrite_mcs]
  have hheaders : u.headers = s.headers := by rw [← hu, regWrite, regSet_headers]
  refine completes_of_next ((exec_spareCmd hc).trans (congrArg _ (spareCmd_of_go hu hw hgo hmay)))
    ⟨startCopy_frame, fun y hy => ?_, ?_, fun hbank => ?_⟩
  · rw [startCopy_mc_other hy, hmcs]
  · exact startCopy_namedCopy x w u
  · rw [startCopy_cause (k := namedCopy w) hbank, hheaders]

end Starts

/-! ## A copy that goes on (R242 to R244) -/

section Lines
variable {x : Fin 16} {s : State} {noise : Image} {par : Parity} {k : SpareCopy}

/-- The copy of the channel may make an access to its next line: nothing holds the line, and the copy has not been stopped. -/
structure CopyLineDue (s : State) (x : Fin 16) (k : SpareCopy) : Prop where
  copy : s.mcs[x].copy = some k
  active : s.mcs[x].state = .active
  up : s.domainDown = false
  serving : entering s = false
  free : lineFree s (mpaOf (x.val / 2) k.ptr) = true

/-- The line at `m` as the copy leaves it: written as it was read, or lost (R243). -/
def copyWritten (x : Fin 16) (m : Nat) (d : Decoded) (s : State) : State :=
  match d with
  | .line f img _ => writeLine m (remask (isStrong s m) f img) s
  | _ => loseLine x m s

/-- A line has been read, the copy is at the one that follows, and what was read has been written. -/
def lineCopied (x : Fin 16) (k : SpareCopy) (noise : Image) (s : State) : State :=
  let m := mpaOf (x.val / 2) k.ptr
  let r := readLine m true noise .copy ⟨m, 1, idMigration, 8, none⟩ s
  copyWritten x m r.1 (updMc x (fun c => { c with copy := some { k with ptr := copyLine (geom s) x k (k.ptr + 64) } }) r.2)

/-- The copy is over (R240, R244). -/
def copyEnded (x : Fin 16) (k : SpareCopy) (s : State) : State :=
  judgeWaiting x (if k.bank then endBankCopy x k s else endRankCopy x k s)

theorem doRankCopyLine_of_due (hinj : noInjection s = true) (hpar : parityAt par .channel ≠ .fatal) (hdue : CopyLineDue s x k) :
    doRankCopyLine x noise par s = if copyLine (geom s) x k (k.ptr + 64) < copyEnd (geom s) k then lineCopied x k noise s
      else copyEnded x k (lineCopied x k noise s) := by
  obtain ⟨hcopy, hactive, hup, hserving, hfree⟩ := hdue
  have hmay : ¬ (decide (s.mcs[x].state ≠ .active) || s.domainDown || entering s ||
      !lineFree s (mpaOf (x.val / 2) k.ptr)) = true := by
    simp [-Fin.getElem_fin, hactive, hup, hserving, hfree]
  rw [doRankCopyLine, hcopy]
  exact (if_neg hmay).trans (chanAccess_of_good hinj hpar)

theorem exec_rankCopyLine_of_idle (h : s.mcs[x].copy = none ∨ s.mcs[x].state ≠ .active) :
    exec (.rankCopyLine x noise par) s = .next s := by
  refine congrArg Host.Outcome.next ?_
  cases hcopy : s.mcs[x].copy with
  | none => rw [doRankCopyLine, hcopy]
  | some k =>
    have hstate := h.resolve_left (by simp [-Fin.getElem_fin, hcopy])
    rw [doRankCopyLine, hcopy]
    exact if_pos (by simp [-Fin.getElem_fin, hstate])

theorem exec_rankCopyLine_of_line {f : Form} {img : Image} {fixed : List Nat} {t : State} (hinj : noInjection s = true)
    (hpar : parityAt par .channel ≠ .fatal) (hdue : CopyLineDue s x k)
    (hread : readLine (mpaOf (x.val / 2) k.ptr) true noise .copy ⟨mpaOf (x.val / 2) k.ptr, 1, idMigration, 8, none⟩ s =
      (.line f img fixed, t))
    (hmore : copyLine (geom s) x k (k.ptr + 64) < copyEnd (geom s) k) :
    let u := updMc x (fun c => { c with copy := some { k with ptr := copyLine (geom s) x k (k.ptr + 64) } }) t
    exec (.rankCopyLine x noise par) s = .next (writeLine (mpaOf (x.val / 2) k.ptr)
      (remask (isStrong u (mpaOf (x.val / 2) k.ptr)) f img) u) := by
  refine congrArg Host.Outcome.next ((doRankCopyLine_of_due hinj hpar hdue).trans ((if_pos hmore).trans ?_))
  simp only [lineCopied, hread]
  rfl

/-- A cause that is set leaves the others of its block as they are. -/
theorem getLsbD_raise_cause_other {b : Fin 40} {i j : Nat} {c : Cap} (h : i ≠ j) :
    (raise b j c s).headers[b].cause.getLsbD i = s.headers[b].cause.getLsbD i := by
  rw [raise_cause, BitVec.getLsbD_or, BitVec.getLsbD_ofNat, Nat.one_shiftLeft, Nat.testBit_two_pow_of_ne h.symm]
  simp

/-- Ranks that cannot leave service stop waiting for it, and nothing else changes in their channel. -/
theorem judgeWaiting_kept {α : Type} {π : Mc → α} (hπ : ∀ m r, π { m with recover := r } = π m) :
    π (judgeWaiting x s).mcs[x] = π s.mcs[x] :=
  fold_keep (fun t => π t.mcs[x]) _ (fun r t => by rw [raise_mcs, updMc_mc_same, hπ]) _ s

theorem judgeWaiting_cause {i : Nat} (h : i ≠ 23) :
    (judgeWaiting x s).headers[blkMc x].cause.getLsbD i = s.headers[blkMc x].cause.getLsbD i :=
  fold_keep (fun t => t.headers[blkMc x].cause.getLsbD i) _
    (fun r t => getLsbD_raise_cause_other (s := updMc x (fun m => { m with recover := m.recover.erase r }) t) h) _ s

theorem endRankCopy_copy : (endRankCopy x k s).mcs[x].copy = none := by
  simp only [endRankCopy, raise_mcs, updMc_mc_same]

theorem endRankCopy_bound : (endRankCopy x k s).mcs[x].bound.testBit k.to_ = true := by
  simp [-Fin.getElem_fin, endRankCopy]

/-- The spare of the copied rank is bound to it and serves. -/
theorem copyEnded_rank (hbank : k.bank = false) : (copyEnded x k s).mcs[x].copy = none ∧
    (copyEnded x k s).mcs[x].bound.testBit k.to_ = true ∧ (copyEnded x k s).headers[blkMc x].cause.getLsbD 22 = true := by
  have hended : copyEnded x k s = judgeWaiting x (endRankCopy x k s) := congrArg _ (if_neg (ne_true_of_eq_false hbank))
  rw [hended]
  refine ⟨(judgeWaiting_kept fun _ _ => rfl).trans endRankCopy_copy, ?_, ?_⟩
  · exact (judgeWaiting_kept (π := fun m => m.bound.testBit k.to_) fun _ _ => rfl).trans endRankCopy_bound
  · exact (judgeWaiting_cause (by decide)).trans (getLsbD_raise_cause (by decide))

theorem endBankCopy_mc : (endBankCopy x k s).mcs[x] = { s.mcs[x] with
    copy := none, remaps := s.mcs[x].remaps ++ [⟨true, k.from_, k.to_, k.subch, k.bg, k.ba⟩] } := by
  unfold endBankCopy
  split <;> exact updMc_mc_same ..

theorem endBankCopy_cause : (endBankCopy x k s).headers[blkMc x].cause.getLsbD 24 = true := by
  unfold endBankCopy
  split <;> exact getLsbD_raise_cause (by decide)

/-- The bank is retired onto its spare. -/
theorem copyEnded_bank (hbank : k.bank = true) : (copyEnded x k s).mcs[x].copy = none ∧
    ⟨true, k.from_, k.to_, k.subch, k.bg, k.ba⟩ ∈ (copyEnded x k s).mcs[x].remaps ∧
    (copyEnded x k s).headers[blkMc x].cause.getLsbD 24 = true := by
  have hended : copyEnded x k s = judgeWaiting x (endBankCopy x k s) := congrArg _ (if_pos hbank)
  have hremaps := (judgeWaiting_kept (x := x) (s := endBankCopy x k s) (π := Mc.remaps) fun _ _ => rfl).trans
    (congrArg Mc.remaps endBankCopy_mc)
  rw [hended]
  refine ⟨(judgeWaiting_kept fun _ _ => rfl).trans (congrArg Mc.copy endBankCopy_mc), ?_, ?_⟩
  · rw [hremaps]
    exact List.mem_append_right _ (List.mem_singleton_self _)
  · exact (judgeWaiting_cause (by decide)).trans endBankCopy_cause

theorem completes_rankCopyLine_of_end (hinj : noInjection s = true) (hpar : parityAt par .channel ≠ .fatal)
    (hdue : CopyLineDue s x k) (hend : copyEnd (geom s) k ≤ copyLine (geom s) x k (k.ptr + 64)) :
    Completes (.rankCopyLine x noise par) s fun t => t.mcs[x].copy = none ∧
      (k.bank = false → t.mcs[x].bound.testBit k.to_ = true ∧ t.headers[blkMc x].cause.getLsbD 22 = true) ∧
      (k.bank = true → ⟨true, k.from_, k.to_, k.subch, k.bg, k.ba⟩ ∈ t.mcs[x].remaps ∧
        t.headers[blkMc x].cause.getLsbD 24 = true) := by
  have hdo := (doRankCopyLine_of_due (noise := noise) hinj hpar hdue).trans (if_neg (Nat.not_lt.2 hend))
  refine completes_of_next (congrArg Host.Outcome.next hdo) ?_
  cases hbank : k.bank with
  | false =>
    obtain ⟨hcopy, hserves⟩ := copyEnded_rank (x := x) (s := lineCopied x k noise s) hbank
    exact ⟨hcopy, fun _ => hserves, nofun⟩
  | true =>
    obtain ⟨hcopy, hretired⟩ := copyEnded_bank (x := x) (s := lineCopied x k noise s) hbank
    exact ⟨hcopy, nofun, fun _ => hretired⟩

end Lines

/-- Settles O35. A clean scrub read leaves the state of its read but for the scrubber's place; a copy's end decides its channel,
whatever became of its last line. -/
theorem scrubberAndSpareCopies : Obligations.ScrubberAndSpareCopies := by
  unfold Obligations.ScrubberAndSpareCopies
  refine ⟨fun x s hinj => ⟨fun noise par => exec_scrubRead_of_stopped, ?clean, fun mpa tries => completes_caParityError,
    fun mpa tries => exec_caParityError_of_elsewhere⟩, fun x s => ⟨?start, ?line, fun noise par => exec_rankCopyLine_of_idle⟩⟩
  case clean =>
    intro noise par la f img t hrun hactive hup henabled hpar s1 v m hmay hline hfree hread
    exact completes_scrubRead_of_scrubbedPast ((doScrubRead_of_due ⟨hrun, hactive, hup, henabled⟩ hmay hline hfree).trans
      (scrubAt_of_clean hinj hpar hread))
  case start =>
    intro v c hc hgo u w bank
    exact ⟨fun hcopy => (exec_spareCmd hc).trans (congrArg _ (spareCmd_of_busy hcopy)),
      fun hcopy hop hranks hspare hroom hfirst => completes_spareCmd hc rfl rfl hgo ⟨hcopy, hop, hranks, hspare, hroom, hfirst⟩⟩
  case line =>
    intro noise par k s1 hcopy hactive hup hserving hinj hpar m next hfree
    have hdue : CopyLineDue s x k := ⟨hcopy, hactive, hup, hserving, hfree⟩
    exact ⟨fun f img fixed => exec_rankCopyLine_of_line hinj hpar hdue, completes_rankCopyLine_of_end hinj hpar hdue⟩

end Sys2Proof.Machine

/-! # A mirror write whose parity fails past the port (R21, R23, R112, R307) -/

namespace Sys2Proof.Machine

/-- A region at the DPAs of LD 0 of port 0, in class 0 under key 1. -/
def mirroredRegion : Region :=
  { number := 0, size := 12, shared := false, strong := false, awn := false, elastic := false, pinned := false, aliasW := 0
    defClass := 0, hasDef := true, defKey := 1, keyBase := 0, dpaBase := 0, ownerLd := 0, heads := 0, headLd := [] }

/-- The translation of that region's page. -/
def mirroredEntry : SheafEntry := ⟨0, 0, 12, 0, false, false, false⟩

/-- The header of a write of the region's first line, under key 1. -/
def mirroredHdr : MirrorHdr := ⟨false, false, false, 0, 0, 0, 0, 0, 0, 1, 0⟩

/-- A SECONDARY over an UP link holds the mirror write as its one delivered message; the slot copy of key 1 admits LD 0, class 0 has
no limit, and the Sheaf of port 0 holds the page. -/
def mirrorWriteDelivered : State :=
  { State.reset with
    img := some { imageOf [] [] with regions := [mirroredRegion] }
    crypt := { State.reset.crypt with copies := [(1, ⟨true, 0, 1⟩)] }
    ports := State.reset.ports.set 0 { State.reset.ports[0] with sheaf := [mirroredEntry], budgets := [0xFFFF] }
    til := { State.reset.til with state := .up, delivered := [(.mirrorWr mirroredHdr 5, 6)] }
    pair := { State.reset.pair with role := .secondary } }

/-- The write passes the port, and takes the coherent domain down where its key is checked: no home queues it. -/
theorem mirrorWr_badAddress_joins_no_home (k : Fin 8) :
    (allSettle (doMirrorWr mirroredHdr 5 badAddressWrite.par mirrorWriteDelivered)).spks[k].inbox = [] := by
  revert k
  decide +kernel

/-- Refutes O39 in its clause that a mirror write joins its home's queue. Of the control parity that the write brings, the clause
asks only that the port find it good: an address whose parity fails from stage 2 on takes the coherent domain down there (R23). -/
theorem not_mirrorWritesAndAcks : ¬ Obligations.MirrorWritesAndAcks := by
  unfold Obligations.MirrorWritesAndAcks
  rintro ⟨hwrite, -⟩
  obtain ⟨-, harrived⟩ := hwrite mirroredHdr 5 0 badAddressWrite.par (.mirrorWr mirroredHdr 5 badAddressWrite.par)
    (.mirrorWr mirroredHdr 5) .wr 0 mirrorWriteDelivered (.inl ⟨rfl, rfl, rfl, rfl⟩) (by decide +kernel) rfl (by decide +kernel)
    (by decide +kernel) (by decide +kernel) (by decide +kernel)
  obtain ⟨-, -, hjoins⟩ := harrived 6 (by decide +kernel)
  obtain ⟨t, ht, hinbox, -⟩ := hjoins mirroredRegion mirroredEntry (by decide +kernel) (by decide +kernel) (by decide +kernel)
    (by decide +kernel) (by decide +kernel) (by decide +kernel) (by decide +kernel)
  have hqueued := hinbox (by decide +kernel)
  rw [← show allSettle (doMirrorWr mirroredHdr 5 badAddressWrite.par mirrorWriteDelivered) = t from Host.Outcome.next.inj ht,
    mirrorWr_badAddress_joins_no_home] at hqueued
  exact absurd hqueued.symm (List.append_ne_nil_of_right_ne_nil _ (List.cons_ne_nil _ _))

end Sys2Proof.Machine

/-! # A Tiller message that is not read back (R274) -/

namespace Sys2Proof.Machine

/-- A partial mirror write that carries a byte outside its mask. -/
def unmaskedWrite : TilMsg := .mirrorPwr mirroredHdr 0 5

/-- Bytes outside the mask are sent as zeros, and so read back. -/
theorem decode_unmaskedWrite : decodeMsg (encodeMsg unmaskedWrite) = some (.mirrorPwr mirroredHdr 0 0) := by decide +kernel

/-- Refutes O57: its fields fit, and MIRROR_PWR sends no byte outside the mask, but `msgFits` lets the message hold one there. -/
theorem not_tillerMessagesRoundTrip : ¬ Obligations.TillerMessagesRoundTrip := by
  unfold Obligations.TillerMessagesRoundTrip
  intro h
  obtain ⟨hdecode, -⟩ := h unmaskedWrite (by decide +kernel)
  rw [decode_unmaskedWrite] at hdecode
  exact absurd hdecode (by decide +kernel)

end Sys2Proof.Machine

/-! # The idle step (R268, R280, R294, R453, R462) -/

namespace Sys2Proof.Machine

/-- Only the Tiller block, its armed injections, what waits in the pair block and what has been sent differ. -/
def Transmits (s t : State) : Prop := t = { s with headers := t.headers, til := t.til, pair := t.pair, out := t.out }

namespace Transmits

variable {σ s u : State}

theorem refl (s : State) : Transmits s s := rfl

/-- A change of any field that a transmitter changes. -/
theorem frame {headers til pair out} (h : Transmits σ s) :
    Transmits σ { s with headers := headers, til := til, pair := pair, out := out } := by
  have hs : s = { σ with headers := s.headers, til := s.til, pair := s.pair, out := s.out } := h
  rw [hs]
  rfl

theorem ite {c : Prop} [Decidable c] (h : Transmits σ s) (k : Transmits σ u) : Transmits σ (if c then s else u) := by
  split
  · exact h
  · exact k

theorem foldl {β : Type} {f : State → β → State} {l : List β} (h : Transmits σ s)
    (hf : ∀ v b, Transmits σ v → Transmits σ (f v b)) : Transmits σ (l.foldl f s) := by
  induction l generalizing s with
  | nil => exact h
  | cons b l ih => exact ih (hf s b h)

/-! ## Flits -/

protected theorem sendOne {type seq : Nat} {payload : BitVec 1888} (h : Transmits σ s) : Transmits σ (sendOne type seq payload s) := by
  unfold sendOne flitCtl
  dsimp only
  exact (ite h.frame h.frame).frame

protected theorem sendFlit {type seq : Nat} {payload : BitVec 1888} (h : Transmits σ s) : Transmits σ (sendFlit type seq payload s) :=
  (ite h.sendOne h).sendOne

protected theorem sendSeq {mac tracked sync : Bool} {payload : BitVec 1888} (h : Transmits σ s) :
    Transmits σ (sendSeq mac payload tracked sync s) := h.sendFlit.frame

/-! ## Messages (R280, R288) -/

protected theorem packSync (h : Transmits σ s) : Transmits σ (packSync s) := ite h (ite h.frame h)

protected theorem stampMsg {m : TilMsg} (h : Transmits σ s) : Transmits σ (stampMsg s m).2 := by
  unfold stampMsg
  split
  · exact h.frame
  · exact h
  · exact h

end Transmits

/-- The first message of a class that waits, as it leaves if it may: the choice that `nextMsg` makes in each class in turn. -/
def classHead (s : State) (tc : Nat) : Option (TilMsg × State) :=
  match takeFirst (fun m => msgClass m = tc) s.til.queue with
  | some (m, rest) =>
    if (s.til.state = .up || isSpdm m) && hasCredit s m && idFree s m then
      let (m1, s1) := stampMsg { s with til := { s.til with queue := rest } } m
      some (m1, takeCredit m1 s1)
    else none
  | none => none

/-- The state from which a message is chosen: waiting shadow updates have been packed, unless one is queued already. -/
def offering (s : State) : State :=
  if s.til.queue.any (fun m => msgClass m = 2 && isSync m) || s.til.state ≠ .up then s else packSync s

theorem nextMsg_eq (s : State) : nextMsg s =
    match classHead (offering s) 1 with
    | some r => some r
    | none => match classHead (offering s) 3 with
      | some r => some r
      | none => match classHead (offering s) 2 with
        | some r => some r
        | none => classHead (offering s) 0 := rfl

theorem classHead_of_nextMsg {s : State} {r : TilMsg × State} (h : nextMsg s = some r) : ∃ tc, classHead (offering s) tc = some r := by
  rw [nextMsg_eq] at h
  split at h
  · next e => exact ⟨1, e.trans h⟩
  · split at h
    · next e => exact ⟨3, e.trans h⟩
    · split at h
      · next e => exact ⟨2, e.trans h⟩
      · exact ⟨0, h⟩

namespace Transmits

variable {σ s u : State}

theorem of_classHead {tc : Nat} {m : TilMsg} (h : Transmits σ s) (e : classHead s tc = some (m, u)) : Transmits σ u := by
  unfold classHead at e
  split at e
  · next m₀ rest _ =>
    split at e
    · obtain ⟨-, rfl⟩ := Prod.mk.inj (Option.some.inj e)
      have hstamp : Transmits σ (Machine.stampMsg { s with til := { s.til with queue := rest } } m₀).2 := h.frame.stampMsg
      exact hstamp.frame
    · cases e
  · cases e

theorem of_nextMsg {m : TilMsg} (h : Transmits σ s) (e : nextMsg s = some (m, u)) : Transmits σ u := by
  obtain ⟨tc, htc⟩ := classHead_of_nextMsg e
  have hoffered : Transmits σ (offering s) := ite h h.packSync
  exact hoffered.of_classHead htc

protected theorem takeMsgs {fuel : Nat} {acc : List TxSlot} (h : Transmits σ s) : Transmits σ (takeMsgs fuel acc s).2 := by
  induction fuel generalizing acc s with
  | zero => exact h
  | succ fuel ih =>
    unfold Machine.takeMsgs
    split
    · exact h
    · next e =>
      dsimp only
      split
      · exact ih (h.of_nextMsg e)
      · exact h

protected theorem sendGroup {k : LinkKey} {ps : List (List TxSlot)} (h : Transmits σ s) : Transmits σ (sendGroup k ps s) :=
  (h.foldl fun _ _ hv => hv.sendSeq).sendSeq.frame

protected theorem pumpGroups {k : LinkKey} (h : Transmits σ s) : Transmits σ (pumpGroups k s) := by
  unfold Machine.pumpGroups
  dsimp only
  exact h.takeMsgs.foldl fun _ _ hv => hv.sendGroup

theorem of_nextClear (h : Transmits σ s) (e : nextClear s = some u) : Transmits σ u := by
  unfold nextClear at e
  split at e
  · cases e
  · next hnext =>
    split at e
    · exact Option.some.inj e ▸ (h.of_nextMsg hnext).foldl fun _ _ hv => hv.sendSeq
    · cases e

protected theorem pumpAttest {fuel : Nat} (h : Transmits σ s) : Transmits σ (pumpAttest fuel s) := by
  induction fuel generalizing s with
  | zero => exact h
  | succ fuel ih =>
    have hclear : Transmits σ (match nextClear s with | some s1 => Machine.pumpAttest fuel s1 | none => s) := by
      split
      · next e => exact ih (h.of_nextClear e)
      · exact h
    unfold Machine.pumpAttest
    split
    · exact ite h.pumpGroups (ite h.frame.pumpGroups hclear)
    · exact ite h hclear

/-! ## A flit time -/

protected theorem tilSend (h : Transmits σ s) : Transmits σ (tilSend s) := by
  unfold Machine.tilSend
  split
  · exact h.sendFlit.frame
  · exact h.pumpAttest.sendFlit
  · split
    · exact h.pumpGroups.sendFlit
    · exact h
  · exact h

protected theorem judgeHold (h : Transmits σ s) : Transmits σ (judgeHold s) := by
  unfold Machine.judgeHold
  split
  · exact ite h.frame h
  · exact ite h h.frame
  · exact h

end Transmits

section Idle
variable (s : State)

theorem tickTime_frame : tickTime s = { s with til := (tickTime s).til, dtime := (tickTime s).dtime } := by
  unfold tickTime
  by_cases hns : s.til.holdNs = 0
  · by_cases hslew : s.til.slew = 0
    · simp only [hns, hslew, ne_eq, not_true_eq_false, if_true, if_false]
    · by_cases hwait : (if s.clk.coarse then 40 else 1) ≤ s.til.slewWait
      · simp only [hns, hslew, hwait, ne_eq, not_true_eq_false, if_true, if_false]
      · simp only [hns, hslew, hwait, ne_eq, not_true_eq_false, if_false]
  · simp only [hns, ne_eq, not_false_eq_true, if_true]

theorem countCycles_onlyCounted (lo hi : Nat) : OnlyCounted s (countCycles lo hi s) := by
  unfold countCycles
  dsimp only
  split
  · exact .refl s
  · refine foldl_onlyCounted _ (fun t i => ?_) _ s
    split
    · exact .refl t
    · exact perfAdd_onlyCounted ..

/-- Where no counter is enabled, cycles change nothing. -/
theorem countCycles_of_disabled {lo hi : Nat} (h : ∀ n : Fin 192, flag (regGet s (offPerfSel n)) 63 = false) :
    countCycles lo hi s = s := by
  have hnone : ((List.range 192).filter fun i => flag (regGet s (offPerfSel i)) 63) = [] :=
    List.filter_eq_nil_iff.2 fun i hi => by simp [h ⟨i, List.mem_range.1 hi⟩]
  simp only [countCycles, hnone, List.foldl_nil, ite_self]

/-- What a flit time leaves as it was. -/
theorem idleStep_frame : idleStep s = { s with
    headers := (idleStep s).headers, til := (idleStep s).til, pair := (idleStep s).pair, out := (idleStep s).out
    dtime := (idleStep s).dtime, perf := (idleStep s).perf } := by
  have hsent : Transmits s (tilSend (judgeHold s)) := (Transmits.refl s).judgeHold.tilSend
  have htick : idleTick s = { tilSend (judgeHold s) with til := (idleTick s).til, dtime := (idleTick s).dtime } := tickTime_frame _
  have hcount : OnlyCounted (idleTick s) (idleStep s) := countCycles_onlyCounted ..
  rw [hcount.frame, htick, hsent]

/-- A link that is held sends nothing, and a member with no correction open counts DTIME by its clock's tick (R462, R463). -/
theorem idleTick_of_held (hstate : s.til.state = .held) (hhold : holdDown s = true) (hns : s.til.holdNs = 0) (hslew : s.til.slew = 0) :
    idleTick s = { s with dtime := (s.dtime + if s.clk.coarse then 40 else 1) % 2 ^ 64 } := by
  have hjudge : judgeHold s = s := by simp only [judgeHold, hstate, hhold, if_true]
  have hsend : tilSend s = s := by simp only [tilSend, hstate]
  show tickTime (tilSend (judgeHold s)) = _
  rw [hjudge, hsend, tickTime, if_neg (not_not_intro hns), if_pos hslew]

end Idle

/-- Settles O51. The transmitter, the tick and the counters leave the homes, the ports and DRAM alone. -/
theorem stepRunsFrontCommand : Obligations.StepRunsFrontCommand := by
  unfold Obligations.StepRunsFrontCommand
  have hidle (s : State) (h : s.pending = []) : step s = .next (idleStep s) := by simp only [step, h]
  refine ⟨fun c rest s h => by simp only [step, h], fun s h => ⟨_, hidle s h, ?_⟩, fun s h hstate hhold hns hslew => ⟨_, hidle s h, ?_⟩⟩
  · rw [idleStep_frame s]
    exact ⟨h, rfl, rfl, rfl⟩
  · have htick := idleTick_of_held s hstate hhold hns hslew
    have hcount : OnlyCounted (idleTick s) (idleStep s) := countCycles_onlyCounted ..
    refine ⟨by rw [hcount.frame, htick], fun hnone => ?_⟩
    have hstep : idleStep s = idleTick s := countCycles_of_disabled _ (by rw [htick]; exact hnone)
    rw [hstep, htick]
    exact ⟨rfl, rfl⟩

end Sys2Proof.Machine

/-! # A link that goes down (R290, R292, R318) -/

namespace Sys2Proof.Machine

/-! ## A field of a register that is set alone (R5) -/

theorem getLsbD_maskOf (lo w n : Nat) :
    (maskOf lo w).getLsbD n = (decide (n < 64) && (decide (lo ≤ n) && decide (n - lo < w))) := by
  rw [maskOf, BitVec.getLsbD_ofNat, Nat.testBit_shiftLeft, Nat.testBit_two_pow_sub_one]

theorem field_setField_same {lo w : Nat} (hw : lo + w ≤ 64) (x : Word) (v : Nat) : field (setField x lo w v) lo w = v % 2 ^ w := by
  have hclear : field (x &&& ~~~ maskOf lo w) lo w = 0 := by
    refine Nat.eq_of_testBit_eq fun n => ?_
    rw [testBit_field, BitVec.getLsbD_and, BitVec.getLsbD_not, getLsbD_maskOf, Nat.zero_testBit]
    by_cases hn : n < w
    · have hlt : lo + n < 64 := by omega
      simp [hn, hlt]
    · simp [hn]
  rw [setField, field_or, hclear, field_place_same (Nat.mod_lt _ (Nat.two_pow_pos w)) hw, Nat.zero_or]

theorem regField_regSetField_same {s : State} {a lo w v : Nat} (h : ksorted s.regs = true) (hw : lo + w ≤ 64) (hv : v < 2 ^ w) :
    regField (regSetField a lo w v s) a lo w = v := by
  rw [regField, regSetField, regGet_regSet_same _ _ _ h, field_setField_same hw, Nat.mod_eq_of_lt hv]

/-- A field set to what it does not reset to needs no order of the table. -/
theorem regField_regSetField_of_ne {s : State} {a lo w v : Nat} (hreset : field (regReset a) lo w ≠ v) (hw : lo + w ≤ 64)
    (hv : v < 2 ^ w) : regField (regSetField a lo w v s) a lo w = v := by
  have hfield : field (setField (regGet s a) lo w v) lo w = v := by rw [field_setField_same hw, Nat.mod_eq_of_lt hv]
  have hget : regGet (regSetField a lo w v s) a = setField (regGet s a) lo w v :=
    kget_kset_ne fun h => hreset (by rw [← h, hfield])
  rw [regField, hget, hfield]

/-! ## Several causes at once (R443) -/

theorem getLsbD_foldl_raise {b : Fin 40} {c : Cap} {l : List Nat} (hl : ∀ i ∈ l, i < 32) (s : State) (j : Nat) :
    (l.foldl (fun t i => raise b i c t) s).headers[b].cause.getLsbD j = (s.headers[b].cause.getLsbD j || decide (j ∈ l)) := by
  induction l generalizing s with
  | nil => simp
  | cons i l ih =>
    rw [List.foldl_cons, ih fun n hn => hl n (List.mem_cons_of_mem _ hn)]
    by_cases hj : j = i
    · subst hj
      rw [getLsbD_raise_cause (hl j (List.mem_cons_self ..))]
      simp
    · rw [getLsbD_raise_cause_other hj]
      simp [hj]

theorem raiseBits_cause (b : Fin 40) (v : BitVec 32) (c : Cap) (s : State) :
    (raiseBits b v c s).headers[b].cause = s.headers[b].cause ||| v := by
  refine BitVec.eq_of_getLsbD_eq fun j hj => ?_
  have hmem : decide (j ∈ (List.range 32).reverse.filter fun i => v.getLsbD i) = v.getLsbD j := by simp [hj]
  rw [raiseBits, getLsbD_foldl_raise (fun i hi => by simpa using (List.mem_filter.1 hi).1), hmem, BitVec.getLsbD_or]

/-- Between `s` and `t` causes of block `b` have been set, and nothing else has changed. -/
structure Raised (b : Fin 40) (s t : State) : Prop where
  frame : t = { s with headers := t.headers }
  headers : ∀ d, d ≠ b → t.headers[d] = s.headers[d]

theorem raiseBits_raised (b : Fin 40) (v : BitVec 32) (c : Cap) (s : State) : Raised b s (raiseBits b v c s) := by
  unfold raiseBits
  induction (List.range 32).reverse.filter fun i => v.getLsbD i generalizing s with
  | nil => exact ⟨rfl, fun _ _ => rfl⟩
  | cons i l ih =>
    obtain ⟨hframe, hheaders⟩ := ih (raise b i c s)
    exact ⟨hframe, fun d hd => (hheaders d hd).trans (by rw [raise_header, if_neg (Ne.symm hd)])⟩

/-! ## What the pair block does of itself (R314, R318) -/

/-- Between `s` and `t` the pair block has acted: no other block's header has changed, and none of its own causes is cleared. -/
structure PairActs (s t : State) : Prop where
  frame : t = { s with headers := t.headers, pair := t.pair, queue := t.queue }
  headers : ∀ b, b ≠ blkPair → t.headers[b] = s.headers[b]
  cause : ∀ i, s.headers[blkPair].cause.getLsbD i = true → t.headers[blkPair].cause.getLsbD i = true

namespace PairActs

variable {σ s t : State}

theorem refl (s : State) : PairActs s s := ⟨rfl, fun _ _ => rfl, fun _ => id⟩

theorem trans (h : PairActs σ s) (k : PairActs s t) : PairActs σ t where
  frame := by rw [k.frame, h.frame]
  headers b hb := (k.headers b hb).trans (h.headers b hb)
  cause i := k.cause i ∘ h.cause i

theorem beside {pair queue} (h : PairActs σ s) : PairActs σ { s with pair := pair, queue := queue } :=
  h.trans ⟨rfl, fun _ _ => rfl, fun _ => id⟩

theorem ite {c : Prop} [Decidable c] (h : PairActs σ s) (k : PairActs σ t) : PairActs σ (if c then s else t) := by
  split
  · exact h
  · exact k

protected theorem raise {i : Nat} {c : Cap} (h : PairActs σ s) : PairActs σ (raise blkPair i c s) := by
  refine h.trans ⟨rfl, fun b hb => by rw [raise_header, if_neg (Ne.symm hb)], fun j hj => ?_⟩
  rw [raise_cause, BitVec.getLsbD_or, hj, Bool.true_or]

protected theorem endAccepted {kind status reason : Nat} {ok : BitVec 256 → Bool} (h : PairActs σ s) :
    PairActs σ (endAccepted kind status reason ok s) := by
  unfold Machine.endAccepted
  induction (acceptedSlots s kind).filter fun i => ok (kget 0 s.queue.slots i) generalizing s with
  | nil => exact h
  | cons i l ih => exact ih (s := setVerdict i status reason 0 s) h.beside

protected theorem judgeSync (h : PairActs σ s) : PairActs σ (judgeSync s) := by
  unfold Machine.judgeSync
  dsimp only
  split
  · exact ite h.beside.raise h
  · exact ite (ite h h.beside.raise) (ite h.beside.raise h.beside)
  · exact h

protected theorem pairLinkLost (h : PairActs σ s) : PairActs σ (pairLinkLost s) :=
  (ite h.beside.endAccepted h.beside).judgeSync

end PairActs

/-! ## The link (R290, R292, Tables 11.13, 11.14) -/

theorem tilLive_iff {s : State} : tilLive s = true ↔
    s.til.state = .align ∨ s.til.state = .init ∨ s.til.state = .attest ∨ s.til.state = .up := by
  simp [tilLive, or_assoc]

theorem tilFlows_iff {s : State} : tilFlows s = true ↔ s.til.state = .attest ∨ s.til.state = .up := by simp [tilFlows]

theorem tilReceives_iff {s : State} : tilReceives s = true ↔ s.til.state = .init ∨ tilFlows s = true := by simp [tilReceives]

/-- The link is neither DOWN nor HELD, so that a cause can take it down. -/
def Standing (s : State) : Prop := s.til.state ≠ .down ∧ s.til.state ≠ .held

theorem Standing.of_state {s : State} {st : TilState} (h : s.til.state = st) (hdown : st ≠ .down) (hheld : st ≠ .held) : Standing s :=
  ⟨h.trans_ne hdown, h.trans_ne hheld⟩

theorem standing_of_live {s : State} (h : tilLive s = true) : Standing s := by
  obtain h | h | h | h := tilLive_iff.1 h <;> exact .of_state h (by decide) (by decide)

theorem live_of_receives {s : State} (h : tilReceives s = true) : tilLive s = true := by
  simp only [tilReceives_iff, tilFlows_iff] at h
  exact tilLive_iff.2 (.inr h)

theorem receives_of_flows {s : State} (h : tilFlows s = true) : tilReceives s = true := tilReceives_iff.2 (.inr h)

/-- The causes of the Tiller block that a cause of LAST_DOWN sets: LINK_DOWN and its own, if it has one. -/
def downCauses (cause : Nat) : BitVec 32 := (7 :: downBit cause).foldl (fun a i => a ||| BitVec.ofNat 32 (1 <<< i)) 0

/-- The link has gone down between `s` and `t` with a cause of LAST_DOWN. -/
structure GoesDown (cause : Nat) (s t : State) : Prop where
  state : t.til.state = .down ∨ t.til.state = .held
  held : ksorted s.regs = true → t.til.state = if holdDown s then .held else .down
  hold : ksorted s.regs = true → holdDown t = holdDown s
  dtime : t.dtime = s.dtime
  lastDown : regField t offTilState 44 4 = cause
  replayBuf : t.til.replayBuf = []
  queue : t.til.queue = []
  keys : t.til.txKey = none ∧ t.til.rxKey = none
  heldFlits : t.til.heldFlits = []
  delivered : t.til.delivered = s.til.delivered
  mirrors : t.til.mirrors = s.til.mirrors
  fetches : t.til.fetches = s.til.fetches
  cause : t.headers[blkTiller].cause = s.headers[blkTiller].cause ||| downCauses cause
  pairCause : ∀ i, s.headers[blkPair].cause.getLsbD i = true → t.headers[blkPair].cause.getLsbD i = true
  dram : t.dram = s.dram
  crypt : t.crypt = s.crypt

theorem tilDown_of_down {cause : Nat} {s : State} (h : s.til.state = .down ∨ s.til.state = .held) : tilDown cause s = s := by
  rw [tilDown, if_pos (by simpa using h)]

theorem regReset_offTilState : regReset offTilState = 0 := by decide +kernel

/-- The Tiller block with what R292 discards gone. -/
def discarded (t : Tiller) : Tiller := { t with
  replayBuf := [], queue := [], accepted := false, expect := 0, txNext := 0, nakOpen := false, nakPending := false,
  credits := Vector.replicate 8 ⟨0, 0, 0, 0, 0⟩, crNext := 0, txNew := none, txKey := none, rxKey := none,
  txGroup := 1, rxGroup := 1, heldFlits := [], rxPart := [], rxStarted := false, rxVerified := false,
  txStarted := false, initSeen := false, sentRxSeen := false, attested := false,
  countDown := satAdd 48 t.countDown 1 }

/-- The loss of a link before the pair block learns of it. -/
def linkDropped (cause : Nat) (s : State) : State :=
  raiseBits blkTiller (downCauses cause) Cap.none (regSetField offTilState 44 4 cause { s with til := discarded s.til })

section Dropped
variable {cause : Nat} {s : State}

theorem tilDown_eq (h : Standing s) : tilDown cause s =
    pairLinkLost (tilEnter (if holdDown (linkDropped cause s) then .held else .down) (linkDropped cause s)) := by
  rw [tilDown, if_neg (by simp [h.1, h.2])]
  rfl

theorem linkDropped_frame : linkDropped cause s =
    { regSetField offTilState 44 4 cause { s with til := discarded s.til } with headers := (linkDropped cause s).headers } :=
  (raiseBits_raised ..).frame

theorem linkDropped_regs : (linkDropped cause s).regs =
    (regSetField offTilState 44 4 cause { s with til := discarded s.til }).regs := by rw [linkDropped_frame]

theorem linkDropped_til : (linkDropped cause s).til = discarded s.til := by rw [linkDropped_frame]; rfl

theorem holdDown_linkDropped (h : ksorted s.regs = true) : holdDown (linkDropped cause s) = holdDown s := by
  have hget : regGet (linkDropped cause s) offTilCtl = regGet s offTilCtl := by
    rw [regGet, linkDropped_regs]
    exact regGet_regSet_other _ _ _ { s with til := discarded s.til } h (by decide)
  rw [holdDown, hget, holdDown]

theorem tilDown_goesDown (h : Standing s) (hcause : 0 < cause ∧ cause < 16) : GoesDown cause s (tilDown cause s) := by
  rw [tilDown_eq h]
  generalize hst : (if holdDown (linkDropped cause s) then TilState.held else .down) = st
  obtain ⟨hframe, hheaders, hpair⟩ := (PairActs.refl (tilEnter st (linkDropped cause s))).pairLinkLost
  have hraised := raiseBits_raised blkTiller (downCauses cause) Cap.none
    (regSetField offTilState 44 4 cause { s with til := discarded s.til })
  have htil : (pairLinkLost (tilEnter st (linkDropped cause s))).til =
      { discarded s.til with state := st, enteredAt := (linkDropped cause s).dtime } := by
    rw [hframe, ← linkDropped_til (cause := cause)]
    rfl
  have hregs : (pairLinkLost (tilEnter st (linkDropped cause s))).regs =
      (regSetField offTilState 44 4 cause { s with til := discarded s.til }).regs := by
    rw [hframe]
    exact linkDropped_regs
  constructor
  case state => rw [htil, ← hst]; split <;> simp
  case held => intro hsorted; rw [htil, ← hst, holdDown_linkDropped hsorted]
  case hold => intro hsorted; rw [← holdDown_linkDropped (cause := cause) hsorted, hframe]; rfl
  case dtime => rw [hframe]; exact (congrArg State.dtime linkDropped_frame).trans rfl
  case lastDown =>
    rw [regField, regGet, hregs]
    exact regField_regSetField_of_ne (by rw [regReset_offTilState]; simp [field, bitsAt]; omega) (by decide) hcause.2
  case pairCause => exact fun i hi => hpair i (by
    rw [show (tilEnter st (linkDropped cause s)).headers = (linkDropped cause s).headers from rfl, linkDropped,
      hraised.headers _ (by decide)]
    exact hi)
  case cause =>
    rw [hheaders _ (by decide)]
    exact raiseBits_cause ..
  case dram => rw [hframe]; exact (congrArg State.dram linkDropped_frame).trans rfl
  case crypt => rw [hframe]; exact (congrArg State.crypt linkDropped_frame).trans rfl
  all_goals rw [htil]
  all_goals simp [discarded]

end Dropped

end Sys2Proof.Machine

/-! # The states of the Tiller link (R267, R290 to R293, Tables 11.10, 11.11) -/

namespace Sys2Proof.Machine

theorem kfind_of_above {α : Type} {k : Nat} {m : KMap α} (h : ∀ e ∈ m, k < e.1) : kfind m k = none := by
  cases m with
  | nil => rfl
  | cons e m =>
    obtain ⟨j, v⟩ := e
    have hlt : k < j := h _ (List.mem_cons_self ..)
    simp [kfind, hlt, hlt.ne]

theorem kfind_kdel_same {α : Type} {k : Nat} {m : KMap α} (hm : ksorted m = true) : kfind (kdel m k) k = none := by
  induction m with
  | nil => rfl
  | cons e m ih =>
    obtain ⟨j, v⟩ := e
    obtain ⟨hsorted, habove⟩ := ksorted_cons.1 hm
    simp only [kdel]
    split
    · next heq => exact kfind_of_above (heq ▸ habove)
    · split
      · next hne hlt => simp [kfind, hne, hlt]
      · next hne hlt => simp [kfind, hne, hlt, ih hsorted]

/-! ## TIL_CTL (Table 11.15) -/

section Control
variable {s : State} {v : Word}

theorem flag_eq_testBit_field (x : Word) (i : Nat) : flag x i = (field x i 1).testBit 0 := by
  rw [testBit_field, flag]
  rfl

theorem regWrite_tilCtl : regWrite .whole offTilCtl v s = regSetField offTilCtl 1 1 (field v 1 1) s := by
  have htype : typeAt offTilCtl = (9, 0x108) := by decide +kernel
  have hfit : field v 1 1 ≤ 1 := Nat.le_of_lt_succ (bitsAt_lt ..)
  simp [regWrite, writtenWord, crossCheck, htype, fieldsOf, putField, rw, inHalf, regSetField, hfit]

theorem holdDown_regWrite (h : ksorted s.regs = true) : holdDown (regWrite .whole offTilCtl v s) = flag v 1 := by
  have hfield := regField_regSetField_same (a := offTilCtl) (lo := 1) (w := 1) (v := field v 1 1) h (by decide) (bitsAt_lt ..)
  rw [regWrite_tilCtl, holdDown, flag_eq_testBit_field, ← regField, hfield, ← flag_eq_testBit_field]

theorem tilCtl_germ : tilCtl .germ v s = judgeHold (if flag v 0 = true then tilDown 6 (regWrite .whole offTilCtl v (judgeHold s))
    else regWrite .whole offTilCtl v (judgeHold s)) := rfl

theorem judgeHold_frame : judgeHold s = { s with til := (judgeHold s).til } := by
  unfold judgeHold
  split
  · split <;> rfl
  · split <;> rfl
  · rfl

theorem judgeHold_of_standing (h : Standing s) : judgeHold s = s := by
  obtain ⟨hdown, hheld⟩ := h
  unfold judgeHold
  split
  · next e => exact absurd e hdown
  · next e => exact absurd e hheld
  · rfl

/-- HOLD_DOWN leaves a link that is HELD by it, or DOWN without it. -/
theorem judgeHold_of_settled (h : s.til.state = if holdDown s then .held else .down) : judgeHold s = s := by
  cases hhold : holdDown s <;> simp [judgeHold, h, hhold]

theorem judgeHold_state_of_down (h : s.til.state = .down) : (judgeHold s).til.state = if holdDown s then .held else .down := by
  cases hhold : holdDown s <;> simp [judgeHold, h, hhold, tilEnter]

theorem judgeHold_state_of_held (h : s.til.state = .held) : (judgeHold s).til.state = if holdDown s then .held else .training := by
  cases hhold : holdDown s <;> simp [judgeHold, h, hhold, tilTrain, tilEnter]

/-- A write of TIL_CTL without DOWN sets HOLD_DOWN alone, and the link follows it. -/
theorem tilCtl_of_hold (h : flag v 0 = false) : ∃ w, tilCtl .germ v s = judgeHold w ∧ w.til.state = (judgeHold s).til.state ∧
    (ksorted s.regs = true → holdDown w = flag v 1) ∧ w.pair = s.pair ∧ w.headers = s.headers := by
  refine ⟨regWrite .whole offTilCtl v (judgeHold s), ?_, rfl, fun hsorted => holdDown_regWrite ?_, ?_, ?_⟩
  · rw [tilCtl_germ, if_neg (ne_true_of_eq_false h)]
  all_goals rw [judgeHold_frame]
  · exact hsorted
  · rfl
  · rfl

theorem completes_holdDownWrite {st : TilState} (h0 : flag v 0 = false)
    (hst : ∀ w : State, holdDown w = flag v 1 → w.til.state = (judgeHold s).til.state → (judgeHold w).til.state = st)
    (hsorted : ksorted s.regs = true) : Completes (.holdDownWrite .germ v) s fun t =>
      t.til.state = st ∧ t.pair = s.pair ∧ t.headers = s.headers := by
  obtain ⟨w, hw, hstate, hhold, hpair, hheaders⟩ := tilCtl_of_hold (s := s) h0
  refine completes_of_next (congrArg Host.Outcome.next hw) ⟨hst w (hhold hsorted) hstate, ?_, ?_⟩
  · rw [judgeHold_frame]
    exact hpair
  · rw [judgeHold_frame]
    exact hheaders

end Control

/-! ## The link goes down by a command (Tables 11.11, 11.13) -/

section Falls
variable {s : State}

/-- A time limit or a lost lock takes the link down at the time at which it ends. -/
theorem completes_of_tilDown {c : Instr} {n cause : Nat} {bits : BitVec 32} (hexec : exec c s = .next (tilDown cause (timeTo n s)))
    (h : Standing s) (hcause : 0 < cause ∧ cause < 16) (hbits : downCauses cause = bits ||| 0x80) (hsorted : ksorted s.regs = true) :
    Completes c s fun t =>
      t.til.state = (if flag (regGet s offTilCtl) 1 then .held else .down) ∧ t.dtime = max s.dtime n ∧
      regField t offTilState 44 4 = cause ∧ t.til.replayBuf = [] ∧ t.til.queue = [] ∧ t.til.delivered = s.til.delivered ∧
      t.til.txKey = none ∧ t.til.rxKey = none ∧ t.til.heldFlits = [] ∧ t.til.mirrors = s.til.mirrors ∧ t.til.fetches = s.til.fetches ∧
      t.headers[blkTiller].cause = s.headers[blkTiller].cause ||| bits ||| 0x80 ∧ t.dram = s.dram ∧ t.crypt = s.crypt := by
  have hgone : GoesDown cause (timeTo n s) (tilDown cause (timeTo n s)) := tilDown_goesDown h hcause
  refine completes_of_next hexec ⟨hgone.held hsorted, hgone.dtime, hgone.lastDown, hgone.replayBuf, hgone.queue, hgone.delivered,
    hgone.keys.1, hgone.keys.2, hgone.heldFlits, hgone.mirrors, hgone.fetches, ?_, hgone.dram, hgone.crypt⟩
  rw [hgone.cause, hbits, BitVec.or_assoc]
  rfl

/-- Germ's DOWN takes the link down, and the HOLD_DOWN written with it holds it (Table 11.15). -/
theorem completes_tilDownCommand {v : Word} (hsorted : ksorted s.regs = true) (h0 : flag v 0 = true) (hup : s.til.state = .up) :
    Completes (.tilDownCommand .germ v) s fun t =>
      t.til.state = (if flag v 1 then .held else .down) ∧ regField t offTilState 44 4 = 6 ∧ t.til.replayBuf = [] ∧ t.til.txKey = none ∧
      t.til.rxKey = none ∧ t.headers[blkTiller].cause = s.headers[blkTiller].cause ||| 0x80 := by
  have hstands : Standing s := .of_state hup (by decide) (by decide)
  have hgone : GoesDown 6 (regWrite .whole offTilCtl v s) (tilDown 6 (regWrite .whole offTilCtl v s)) :=
    tilDown_goesDown hstands (by decide)
  have hwritten : ksorted (regWrite .whole offTilCtl v s).regs = true := regSet_sorted _ _ _ hsorted
  have hheld := hgone.held hwritten
  have hsettled : judgeHold (tilDown 6 (regWrite .whole offTilCtl v s)) = tilDown 6 (regWrite .whole offTilCtl v s) :=
    judgeHold_of_settled (by rw [hgone.hold hwritten, hheld])
  have hctl : tilCtl .germ v s = tilDown 6 (regWrite .whole offTilCtl v s) := by
    rw [tilCtl_germ, if_pos h0, judgeHold_of_standing hstands, hsettled]
  rw [holdDown_regWrite hsorted] at hheld
  exact completes_of_next (congrArg Host.Outcome.next hctl)
    ⟨hheld, hgone.lastDown, hgone.replayBuf, hgone.keys.1, hgone.keys.2, hgone.cause⟩

end Falls

/-! ## Quads (R267) -/

section Quads
variable {s : State} {q : Fin 4}

theorem completes_symbolLockLost (hlive : tilLive s = true) (hlocked : s.til.quads.getLsbD q = true) :
    Completes (.symbolLockLost q) s fun t => t = { s with til := t.til, headers := t.headers } ∧
      t.til = { s.til with quads := t.til.quads, lostAt := t.til.lostAt } ∧ t.til.quads.getLsbD q = false ∧
      (∀ r : Fin 4, r ≠ q → t.til.quads.getLsbD r = s.til.quads.getLsbD r) ∧ kfind t.til.lostAt q = some (s.dtime + 1) ∧
      t.headers[blkTiller].cause = s.headers[blkTiller].cause ||| 0x40 := by
  have hlost : doSymbolLockLost q s = raise blkTiller 6 Cap.none { s with til := { s.til with
      quads := s.til.quads &&& ~~~ headBit q, lostAt := kput s.til.lostAt q (s.dtime + 1) } } := by
    rw [doSymbolLockLost, if_pos (by simp [hlive, hlocked])]
  have hquads (r : Fin 4) : (s.til.quads &&& ~~~ headBit q).getLsbD r = (s.til.quads.getLsbD r && decide (q ≠ r)) := by
    rw [BitVec.getLsbD_and, BitVec.getLsbD_not, getLsbD_headBit, decide_not, decide_eq_true r.isLt, Bool.true_and]
  refine completes_of_next (congrArg Host.Outcome.next hlost) ⟨rfl, rfl, ?_, fun r hr => ?_, kfind_kput_same, raise_cause⟩
  · exact (hquads q).trans (by simp)
  · exact (hquads r).trans (by simp [Ne.symm hr])

theorem completes_symbolLockRegained (hlive : tilLive s = true) (hsorted : ksorted s.til.lostAt = true) :
    Completes (.symbolLockRegained q) s fun t => t = { s with til := t.til } ∧
      t.til.quads.getLsbD q = true ∧ kfind t.til.lostAt q = none := by
  have hback : doSymbolLockRegained q s = { s with til := { s.til with
      quads := s.til.quads ||| headBit q, lostAt := kdel s.til.lostAt q } } := by rw [doSymbolLockRegained, if_pos hlive]
  refine completes_of_next (congrArg Host.Outcome.next hback) ⟨rfl, ?_, kfind_kdel_same hsorted⟩
  show (s.til.quads ||| headBit q).getLsbD q = true
  simp [getLsbD_headBit]

end Quads

/-- Settles O36. Each event changes the state that Table 11.11 names and leaves any other as it is; the ways down share one lemma. -/
theorem tillerLinkStates : Obligations.TillerLinkStates := by
  unfold Obligations.TillerLinkStates
  intro s hordered
  have hsorted : ksorted s.regs = true := tablesOrdered_regs hordered
  refine ⟨?downIdle, ?adapted, ?trainTimeout, ?locked, ?attestTimeout, ?release, ?hold, ?command, ?quads, ?idleOther, ?others⟩
  case downIdle =>
    intro hdown hhold
    have hjudge : judgeHold s = s := judgeHold_of_settled (by rw [holdDown, hhold]; exact hdown)
    have hdo : doTilDownIdleEnd s = tilTrain (timeTo (s.til.enteredAt + 100000) s) := by simp [doTilDownIdleEnd, hjudge, hdown]
    exact completes_of_next (congrArg Host.Outcome.next hdo) ⟨rfl, rfl⟩
  case adapted => exact fun h => completes_of_next (congrArg Host.Outcome.next (if_pos h)) rfl
  case trainTimeout =>
    exact fun h => completes_of_tilDown (congrArg Host.Outcome.next (if_pos h)) (.of_state h (by decide) (by decide)) (by decide)
      (by decide) hsorted
  case locked => exact fun h => completes_of_next (congrArg Host.Outcome.next (if_pos h)) ⟨rfl, rfl⟩
  case attestTimeout =>
    exact fun h => completes_of_tilDown (congrArg Host.Outcome.next (if_pos h)) (.of_state h (by decide) (by decide)) (by decide)
      (by decide) hsorted
  case release =>
    intro v h0 h1 hheld
    refine completes_holdDownWrite h0 (fun w hhold hstate => ?_) hsorted
    rw [judgeHold_state_of_held hheld] at hstate
    rw [h1] at hhold
    cases hw : holdDown s with
    | true => rw [judgeHold_state_of_held (by simpa [hw] using hstate), hhold]; rfl
    | false =>
      have htrains : w.til.state = .training := by simpa [hw] using hstate
      rw [judgeHold_of_standing (.of_state htrains (by decide) (by decide)), htrains]
  case hold =>
    intro v h0 h1 hdown
    refine completes_holdDownWrite h0 (fun w hhold hstate => ?_) hsorted
    rw [judgeHold_state_of_down hdown] at hstate
    rw [h1] at hhold
    cases hw : holdDown s with
    | true => rw [judgeHold_state_of_held (by simpa [hw] using hstate), hhold]; rfl
    | false => rw [judgeHold_state_of_down (by simpa [hw] using hstate), hhold]; rfl
  case command => exact fun v => completes_tilDownCommand hsorted
  case quads =>
    intro q hlive
    refine ⟨completes_symbolLockLost hlive, completes_symbolLockRegained hlive, fun n hlost => ?_, fun hopen => ?_⟩
    · have hdo : doLockLoss q s = tilDown 1 (timeTo (n - 1 + lockLossNs s) s) := by simp only [doLockLoss, hlost, hlive, if_true]
      exact completes_of_tilDown (congrArg Host.Outcome.next hdo) (standing_of_live hlive) (by decide) (by decide) hsorted
    · have hdo : doPairTimeout s = tilDown 5 (timeTo (s.til.timerAt + 1000 * regField s offTilCfg 32 10) s) := by
        refine if_pos ?_
        simpa [hlive, List.isEmpty_iff, or_iff_not_imp_left] using hopen
      exact completes_of_tilDown (congrArg Host.Outcome.next hdo) (standing_of_live hlive) (by decide) (by decide) hsorted
  case idleOther =>
    intro hdown hheld
    have hjudge : judgeHold s = s := by
      rcases hheld with hheld | hhold
      · exact judgeHold_of_standing ⟨hdown, hheld⟩
      · cases hstate : s.til.state <;> simp_all [judgeHold, holdDown]
    exact congrArg Host.Outcome.next (by simp [doTilDownIdleEnd, hjudge, hdown])
  case others =>
    intro st c hmem hstate
    simp only [List.mem_cons, Prod.mk.injEq, List.not_mem_nil, or_false] at hmem
    obtain ⟨rfl, rfl⟩ | ⟨rfl, rfl⟩ | ⟨rfl, rfl⟩ | ⟨rfl, rfl⟩ | ⟨rfl, rfl⟩ := hmem
    · exact congrArg Host.Outcome.next (if_neg hstate)
    · exact congrArg Host.Outcome.next (if_neg hstate)
    · exact congrArg Host.Outcome.next (if_neg hstate)
    · exact congrArg Host.Outcome.next (if_neg hstate)
    · exact congrArg Host.Outcome.next (if_neg (by simp [hstate]))

end Sys2Proof.Machine

/-! # The Tiller receiver (R270, R271, R278, R282 to R285, R289) -/

namespace Sys2Proof.Machine

/-! ## Credits (R278) -/

theorem updAt_self {α : Type} {n : Nat} {v : Vector α n} {i : Fin n} {f : α → α} (h : f v[i] = v[i]) : updAt v i f = v := by
  refine Vector.ext fun j hj => ?_
  have hget := updAt_get v i ⟨j, hj⟩ f
  split at hget
  · next e => subst e; exact hget.trans h
  · exact hget

section Returns
variable {s : State} {c : FlitCtl}

/-- The flit returns no more credits than are out. -/
def ReturnFits (c : FlitCtl) (s : State) : Prop :=
  (c.crCount + 65536 - s.til.credits[c.crSel].retSeen) % 65536 ≤
    (s.til.credits[c.crSel].cons + 65536 - s.til.credits[c.crSel].retSeen) % 65536

/-- The flit repeats the return that was seen last. -/
def ReturnSeen (c : FlitCtl) (s : State) : Prop :=
  s.til.credits[c.crSel].retSeen < 65536 ∧ c.crCount = s.til.credits[c.crSel].retSeen

theorem takeReturn_of_fits (hrec : tilReceives s = true) (hfits : ReturnFits c s) : ∃ n, takeReturn c s = { s with til := { s.til with
    timerAt := n, credits := updAt s.til.credits c.crSel fun x => { x with retSeen := c.crCount % 65536 } } } := by
  unfold ReturnFits at hfits
  simp only [takeReturn, hrec, Bool.not_true, Bool.false_eq_true, if_false, hfits, if_true]
  split <;> exact ⟨_, rfl⟩

theorem takeReturn_of_excess (hrec : tilReceives s = true) (hfits : ¬ ReturnFits c s) : takeReturn c s = tilDown 3 s := by
  unfold ReturnFits at hfits
  simp only [takeReturn, hrec, Bool.not_true, Bool.false_eq_true, if_false, hfits]

theorem takeReturn_of_deaf (hrec : tilReceives s = false) : takeReturn c s = s := by simp [takeReturn, hrec]

theorem takeReturn_of_seen (h : ReturnSeen c s) : takeReturn c s = s := by
  obtain ⟨hlt, hsame⟩ := h
  have hzero : (c.crCount + 65536 - s.til.credits[c.crSel].retSeen) % 65536 = 0 := by rw [hsame]; omega
  have hcredits : updCredit c.crSel (fun x => { x with retSeen := c.crCount % 65536 }) s = s := by
    have hself : updAt s.til.credits c.crSel (fun x => { x with retSeen := c.crCount % 65536 }) = s.til.credits :=
      updAt_self (by rw [Nat.mod_eq_of_lt (hsame ▸ hlt), hsame])
    rw [updCredit, hself]
  unfold takeReturn
  split
  · rfl
  · simp only [hzero, Nat.zero_le, if_true, ne_eq, not_true_eq_false, decide_false, Bool.false_and, Bool.false_eq_true, if_false,
      hcredits]

end Returns

/-! ## Link control (R271, R283, R285) -/

section Control
variable {s : State} {c : FlitCtl} {rx : RxFlit}

theorem takeAck_of_none (h : c.ackValid = false) : takeAck c s = s := by simp [takeAck, h]

theorem takeNak_of_none (h : c.nak = false) : takeNak c s = s := by simp [takeNak, h]

/-- How many flits of the replay buffer an ACK frees. -/
def ackSpan (c : FlitCtl) (s : State) : Nat :=
  (c.ack + 1 + 4096 - (s.til.txNext + 4096 - s.til.replayBuf.length % 4096) % 4096) % 4096

theorem takeAck_of_range (hack : c.ackValid = true) (h : ackSpan c s ≤ s.til.replayBuf.length) : takeAck c s = { s with til := { s.til with
    replayBuf := s.til.replayBuf.drop (ackSpan c s)
    timerAt := if (s.til.replayBuf.take (ackSpan c s)).any (·.tracked) then s.dtime else s.til.timerAt } } := by
  unfold ackSpan at *
  simp only [takeAck, hack, Bool.not_true, Bool.false_eq_true, if_false, h, if_true]
  split <;> rfl

theorem takeAck_of_excess (hack : c.ackValid = true) (h : s.til.replayBuf.length < ackSpan c s) : takeAck c s = tilDown 3 s := by
  unfold ackSpan at h
  simp only [takeAck, hack, Bool.not_true, Bool.false_eq_true, if_false, Nat.not_le.2 h]

/-- The state with the codewords counted that were corrected in a flit. -/
def counted (rx : RxFlit) (s : State) : State :=
  { s with til := { s.til with countFecCorr := satAdd 48 s.til.countFecCorr rx.corrected } }

/-- What the link-control fields of a flit that is received do. -/
theorem takeRx_eq (hrec : tilReceives s = true) : takeRx rx s =
    if rx.reserved = true then tilDown 3 (takeReturn rx.ctl (takeNak rx.ctl (takeAck rx.ctl (counted rx s))))
    else takeReturn rx.ctl (takeNak rx.ctl (takeAck rx.ctl (counted rx s))) := by
  have hcounted : takeCtl rx.ctl (counted rx s) = takeReturn rx.ctl (takeNak rx.ctl (takeAck rx.ctl (counted rx s))) :=
    if_neg (show ¬ (!tilReceives s) = true by simp [hrec])
  rw [← hcounted]
  exact if_neg (by simp [hrec])

/-- A flit that acknowledges nothing, asks for nothing and returns nothing is only counted. -/
theorem takeRx_of_idle (hrec : tilReceives s = true) (hreserved : rx.reserved = false) (hack : rx.ctl.ackValid = false)
    (hnak : rx.ctl.nak = false) (hseen : ReturnSeen rx.ctl s) : takeRx rx s = counted rx s := by
  rw [takeRx_eq hrec, if_neg (ne_true_of_eq_false hreserved), takeAck_of_none hack, takeNak_of_none hnak]
  exact takeReturn_of_seen (s := counted rx s) hseen

/-- A protocol error of a received flit, or a failed MAC, takes the link down. -/
theorem completes_of_fall {i : Instr} {u : State} {cause : Nat} (hexec : exec i s = .next (tilDown cause u)) (h : Standing u)
    (hcause : 0 < cause ∧ cause < 16) (hdelivered : u.til.delivered = s.til.delivered) : Completes i s fun t =>
      (t.til.state = .down ∨ t.til.state = .held) ∧ regField t offTilState 44 4 = cause ∧ t.til.txKey = none ∧ t.til.rxKey = none ∧
      t.til.heldFlits = [] ∧ t.til.delivered = s.til.delivered := by
  have hgone : GoesDown cause u (tilDown cause u) := tilDown_goesDown h hcause
  exact completes_of_next hexec ⟨hgone.state, hgone.lastDown, hgone.keys.1, hgone.keys.2, hgone.heldFlits,
    hgone.delivered.trans hdelivered⟩

theorem receives_of_down (h : s.til.state = .down ∨ s.til.state = .held) : tilReceives s = false := by
  rcases h with h | h <;> simp [tilReceives, tilFlows, h]

/-- A link that a return finds down stays as it is. -/
theorem takeReturn_tilDown {cause : Nat} (h : Standing s) (hcause : 0 < cause ∧ cause < 16) :
    takeReturn c (tilDown cause s) = tilDown cause s :=
  takeReturn_of_deaf (receives_of_down (tilDown_goesDown h hcause).state)

theorem takeNak_tilDown {cause : Nat} (h : Standing s) (hcause : 0 < cause ∧ cause < 16) :
    takeNak c (tilDown cause s) = tilDown cause s := by
  simp [takeNak, receives_of_down (tilDown_goesDown h hcause).state]

theorem tilDown_tilDown {cause again : Nat} (h : Standing s) (hcause : 0 < cause ∧ cause < 16) :
    tilDown again (tilDown cause s) = tilDown cause s :=
  tilDown_of_down (tilDown_goesDown h hcause).state

end Control

/-! ## Flits sent again (R268, R285) -/

/-- At least `n` flits have been sent between `s` and `t`, and the transmitter's place is all that has moved. -/
structure Sends (n : Nat) (s t : State) : Prop where
  frame : t = { s with headers := t.headers, til := t.til, out := t.out }
  til : t.til = { s.til with credits := t.til.credits, crNext := t.til.crNext, nakPending := t.til.nakPending, nakAt := t.til.nakAt
                             sinceIdle := t.til.sinceIdle }
  credits : ∀ i : Fin 8, t.til.credits[i] = { s.til.credits[i] with told := t.til.credits[i].told }
  cause : ∀ b : Fin 40, t.headers[b].cause = s.headers[b].cause
  out : s.out.length + n ≤ t.out.length

namespace Sends

variable {n m : Nat} {s t u : State}

theorem refl (s : State) : Sends 0 s s := ⟨rfl, rfl, fun _ => rfl, fun _ => rfl, Nat.le_refl _⟩

theorem trans (h : Sends n s t) (k : Sends m t u) : Sends (n + m) s u where
  frame := by rw [k.frame, h.frame]
  til := by rw [k.til, h.til]
  credits i := by rw [k.credits i, h.credits i]
  cause b := (k.cause b).trans (h.cause b)
  out := by have := h.out; have := k.out; omega

theorem mono (h : Sends n s t) (hm : m ≤ n) : Sends m s t :=
  ⟨h.frame, h.til, h.credits, h.cause, Nat.le_trans (Nat.add_le_add_left hm _) h.out⟩

theorem foldl {β : Type} {f : State → β → State} (hf : ∀ v b, Sends 1 v (f v b)) (l : List β) (s : State) :
    Sends l.length s (l.foldl f s) := by
  induction l generalizing s with
  | nil => exact refl s
  | cons b l ih => exact ((hf s b).trans (ih (f s b))).mono (by simp [Nat.add_comm])

end Sends

theorem disarm_cause (b d : Fin 40) (i : Nat) (s : State) : (disarm b i s).headers[d].cause = s.headers[d].cause := by
  rw [disarm_headers, updAt_get]
  split
  · next e => rw [e]
  · rfl

theorem flitCtl_sends (s : State) : Sends 0 s (flitCtl s).2 where
  frame := rfl
  til := rfl
  credits i := by
    show (updAt s.til.credits (crPick s) fun c => { c with told := c.ret })[i] = _
    simp only [flitCtl, updCredit]
    rw [updAt_get]
    split
    · next e => subst e; rfl
    · rfl
  cause _ := rfl
  out := Nat.le_refl _

theorem sendOne_sends (type seq : Nat) (payload : BitVec 1888) (s : State) : Sends 1 s (sendOne type seq payload s) := by
  have hdisarm (v : State) : Sends 0 v (disarm blkTiller 3 v) :=
    ⟨rfl, rfl, fun _ => rfl, fun b => disarm_cause blkTiller b 3 v, Nat.le_refl _⟩
  have hemit (v : State) (n : Nat) (o : Out) : Sends 1 v (emit o { v with til := { v.til with sinceIdle := n } }) :=
    ⟨rfl, rfl, fun _ => rfl, fun _ => rfl, by simp⟩
  unfold sendOne
  dsimp only
  split
  · exact ((flitCtl_sends s).trans (hdisarm _)).trans (hemit ..)
  · exact (flitCtl_sends s).trans (hemit ..)

theorem sendFlit_sends (type seq : Nat) (payload : BitVec 1888) (s : State) : Sends 1 s (sendFlit type seq payload s) := by
  unfold sendFlit
  split
  · exact ((sendOne_sends ..).trans (sendOne_sends ..)).mono (by decide)
  · exact sendOne_sends ..

section Replay
variable {s : State} {c : FlitCtl} {f : TxFlit} {i : Nat}

/-- The replay buffer as a NAK finds it, with the flits from `i` on counted as sent again. -/
def replayed (i : Nat) (s : State) : State := raise blkTiller 5 Cap.none { s with til := { s.til with
  replayBuf := s.til.replayBuf.take i ++ (s.til.replayBuf.drop i).map (fun x => { x with replays := x.replays + 1 })
  replaySeen := true
  countReplay := satAdd 48 s.til.countReplay 1 } }

variable (hrec : tilReceives s = true) (hnak : c.nak = true) (hnext : c.nakSeq ≠ s.til.txNext)
  (hfind : (s.til.replayBuf.findIdx? fun x => x.seq = c.nakSeq) = some i) (hflit : s.til.replayBuf[i]? = some f)
include hrec hnak hnext hfind hflit

theorem takeNak_eq : takeNak c s = if f.replays < 8 then
    (s.til.replayBuf.drop i).foldl (fun t f => sendFlit (if f.mac then 2 else 1) f.seq f.payload t) (replayed i s)
    else tilDown 2 s := by
  have hhead : ((s.til.replayBuf.drop i).head?.map (·.replays)).getD 0 = f.replays := by
    rw [List.head?_drop, hflit]
    rfl
  rw [takeNak, if_neg (by simp [hnak, hnext, hrec]), hfind]
  dsimp only
  rw [hhead]
  rfl

theorem takeNak_sends (hfew : f.replays < 8) : Sends (s.til.replayBuf.length - i) (replayed i s) (takeNak c s) := by
  rw [takeNak_eq hrec hnak hnext hfind hflit, if_pos hfew, ← List.length_drop]
  exact Sends.foldl (fun v b => sendFlit_sends ..) _ _

end Replay

/-! ## Sequenced flits (R282, R289) -/

/-- The expected flit has been accepted. -/
def expected (s : State) : State :=
  { s with til := { s.til with expect := (s.til.expect + 1) % 4096, accepted := true, nakOpen := false } }

section Sequenced
variable {s : State} {rx : RxFlit} {pl : BitVec 1888}

theorem acceptSeq_expect (h : tilFlows s = true) : acceptSeq s.til.expect s = some (expected s) := if_pos (by simp [h])

theorem acceptSeq_other {seq : Nat} (h : seq ≠ s.til.expect) : acceptSeq seq s = none := if_neg (by simp [h])

theorem takePayloads_delivers {clear : Bool} {ps : List (Nat × List Byte)} {ss : List RxSlot} {ms : List (TilMsg × Nat)}
    {part : List RxSlot} (hss : s.til.rxPart ++ ps.flatMap (fun p => payloadSlots p.1 p.2) = ss)
    (hread : assemble (ss.length + 1) [] ss = some (ms, part)) (hclear : clear = true → ms.all (fun m => isSpdm m.1) = true) :
    takePayloads clear ps s = { s with til := { s.til with rxPart := part, delivered := s.til.delivered ++ ms } } := by
  subst hss
  simp only [takePayloads, hread]
  refine if_neg fun hrefused => ?_
  rw [Bool.and_eq_true, Bool.not_eq_true'] at hrefused
  exact absurd (hclear hrefused.1) (ne_true_of_eq_false hrefused.2)

/-- Before the session's START_SEQ nothing but SPDM may come in the clear (R287). -/
theorem takePayloads_refuses {ps : List (Nat × List Byte)} {ss : List RxSlot} {ms : List (TilMsg × Nat)}
    {part : List RxSlot} (hss : s.til.rxPart ++ ps.flatMap (fun p => payloadSlots p.1 p.2) = ss)
    (hread : assemble (ss.length + 1) [] ss = some (ms, part)) (hclear : ms.all (fun m => isSpdm m.1) = false) :
    takePayloads true ps s = tilDown 3 s := by
  subst hss
  simp only [takePayloads, hread]
  exact if_pos (by simp [hclear])

variable {z : State} (hrx : takeRx rx s = z) (hflows : tilFlows z = true)
include hrx

theorem flits_unexpected {seq : Nat} (h : seq ≠ z.til.expect) :
    exec (.dataFlit rx seq pl) s = .next z ∧ exec (.macFlit rx seq pl) s = .next z := by
  subst hrx
  have hnone := acceptSeq_other h
  exact ⟨congrArg Host.Outcome.next (by simp only [doDataFlit, hnone]), congrArg Host.Outcome.next (by simp only [doMacFlit, hnone])⟩

include hflows

theorem exec_dataFlit_started (h : z.til.rxStarted = true) : exec (.dataFlit rx z.til.expect pl) s = .next { z with til := { z.til with
    expect := (z.til.expect + 1) % 4096, accepted := true, nakOpen := false
    heldFlits := z.til.heldFlits ++ [⟨z.til.expect, pl, z.dtime⟩] } } := by
  subst hrx
  refine congrArg Host.Outcome.next ?_
  simp [doDataFlit, acceptSeq_expect hflows, expected, h]

theorem exec_dataFlit_clear (h : z.til.rxStarted = false) (hkey : z.til.rxKey = none) : exec (.dataFlit rx z.til.expect pl) s =
    .next (takePayloads true [(z.dtime, payloadBytes pl)] (expected z)) := by
  subst hrx
  refine congrArg Host.Outcome.next ?_
  simp [doDataFlit, acceptSeq_expect hflows, expected, h, hkey]

theorem exec_macFlit_keyless (hkey : z.til.rxKey = none) : exec (.macFlit rx z.til.expect pl) s = .next (tilDown 4 (expected z)) := by
  subst hrx
  refine congrArg Host.Outcome.next ?_
  simp [doMacFlit, acceptSeq_expect hflows, expected, hkey]

end Sequenced

/-- The ciphertext of the group that is held. -/
def heldCipher (s : State) : List Byte := s.til.heldFlits.flatMap fun f => payloadBytes f.payload

/-- The payload of a MAC flit verifies the group that is held (R289). -/
def Verifies (k : LinkKey) (s : State) (pl : BitVec 1888) : Prop :=
  bytesToNatBE ((payloadBytes pl).take 16) =
    (gcmTag k s.til.rxGroup (groupAad (s.til.heldFlits.map (·.seq)) s.til.expect) (heldCipher s)).toNat ∧
  bytesToNat (((payloadBytes pl).drop 16).take 8) = s.til.rxGroup ∧ ((payloadBytes pl).getD 24 0).toNat = s.til.heldFlits.length

/-- The payloads of the group in clear, with the times at which they came. -/
def heldPlain (k : LinkKey) (s : State) : List (Nat × List Byte) :=
  (s.til.heldFlits.map (·.time)).zip (cutBytes 236 s.til.heldFlits.length (gcmCtr k s.til.rxGroup (heldCipher s)))

section Groups
variable {s z : State} {rx : RxFlit} {pl : BitVec 1888} {k : LinkKey} (hrx : takeRx rx s = z) (hflows : tilFlows z = true)
  (hkey : z.til.rxKey = some k)
include hrx hflows hkey

theorem exec_macFlit_failed (h : ¬ Verifies k z pl) : exec (.macFlit rx z.til.expect pl) s = .next (tilDown 4 (expected z)) := by
  subst hrx
  refine congrArg Host.Outcome.next ?_
  simp only [doMacFlit, acceptSeq_expect hflows]
  have hexpected : (expected (takeRx rx s)).til.rxKey = some k := hkey
  simp only [hexpected]
  refine if_neg fun hgood => h ?_
  simp only [Bool.and_eq_true, decide_eq_true_eq] at hgood
  obtain ⟨⟨⟨-, htag⟩, hgroup⟩, hcount⟩ := hgood
  exact ⟨htag, hgroup, hcount⟩

theorem exec_macFlit_verified (hstarted : z.til.rxStarted = true) (hheld : z.til.heldFlits ≠ []) (h : Verifies k z pl) :
    exec (.macFlit rx z.til.expect pl) s = .next (takePayloads false (heldPlain k z) { expected z with til := { (expected z).til with
      rxGroup := z.til.rxGroup + 1, heldFlits := [], rxVerified := true } }) := by
  subst hrx
  refine congrArg Host.Outcome.next ?_
  simp only [doMacFlit, acceptSeq_expect hflows]
  have hexpected : (expected (takeRx rx s)).til.rxKey = some k := hkey
  simp only [hexpected]
  obtain ⟨htag, hgroup, hcount⟩ := h
  refine if_pos ?_
  simp only [Bool.and_eq_true, decide_eq_true_eq]
  exact ⟨⟨⟨⟨hstarted, hheld⟩, htag⟩, hgroup⟩, hcount⟩

end Groups

/-! ## A flit that failed (R284) -/

/-- A flit that failed its CRC has been counted, if `crc`. -/
def crcCounted (crc : Bool) (s : State) : State :=
  if crc then raise blkTiller 3 Cap.none { s with til := { s.til with countCrc := satAdd 48 s.til.countCrc 1 } } else s

/-- The uncorrectable codewords of a flit have been counted. -/
def fecCounted (n : Nat) (s : State) : State :=
  if n = 0 then s else raise blkTiller 4 Cap.none { s with til := { s.til with countFecUncorr := satAdd 48 s.til.countFecUncorr n } }

theorem crcCounted_frame (crc : Bool) (s : State) : crcCounted crc s = { s with
    headers := (crcCounted crc s).headers
    til := { s.til with countCrc := if crc then satAdd 48 s.til.countCrc 1 else s.til.countCrc } } := by
  cases crc <;> rfl

theorem crcCounted_cause (crc : Bool) (s : State) :
    (crcCounted crc s).headers[blkTiller].cause = s.headers[blkTiller].cause ||| if crc then 8 else 0 := by
  cases crc with
  | false => exact (BitVec.or_zero).symm
  | true => exact raise_cause

theorem fecCounted_frame (n : Nat) (s : State) : fecCounted n s = { s with
    headers := (fecCounted n s).headers
    til := { s.til with countFecUncorr := if n = 0 then s.til.countFecUncorr else satAdd 48 s.til.countFecUncorr n } } := by
  unfold fecCounted
  by_cases h : n = 0
  · rw [if_pos h, if_pos h]
  · rw [if_neg h, if_neg h]
    rfl

theorem fecCounted_cause (n : Nat) (s : State) :
    (fecCounted n s).headers[blkTiller].cause = s.headers[blkTiller].cause ||| if n = 0 then 0 else 16 := by
  unfold fecCounted
  by_cases h : n = 0
  · rw [if_pos h, if_pos h]
    exact BitVec.or_zero.symm
  · rw [if_neg h, if_neg h]
    exact raise_cause

/-- A failed flit is counted, and a NAK asks for it again. -/
theorem doFailedFlit_eq {crc : Bool} {n : Nat} {s : State} (hrec : tilReceives s = true) (hfailed : crc = true ∨ 0 < n) :
    doFailedFlit crc n s = { fecCounted n (crcCounted crc s) with til := { (fecCounted n (crcCounted crc s)).til with
      nakOpen := true, nakPending := true, replaySeen := true } } := by
  have hcounts : ¬ (!tilReceives s || (!crc && decide (n = 0))) = true := by
    rcases hfailed with rfl | hn
    · simp [hrec]
    · simp [hrec, Nat.pos_iff_ne_zero.1 hn]
  have hstate : (fecCounted n (crcCounted crc s)).til.state = s.til.state := by rw [fecCounted_frame, crcCounted_frame]
  have hrec' : tilReceives (fecCounted n (crcCounted crc s)) = true := by simpa only [tilReceives, tilFlows, hstate] using hrec
  exact (if_neg hcounts).trans (if_pos hrec')

theorem completes_failedFlit {crc : Bool} {n : Nat} {s : State} (hrec : tilReceives s = true) (hfailed : crc = true ∨ 0 < n) :
    Completes (.failedFlit crc n) s fun t =>
      t = { s with til := t.til, headers := t.headers } ∧ t.til = { s.til with
        nakOpen := true, nakPending := true, replaySeen := true, countCrc := t.til.countCrc, countFecUncorr := t.til.countFecUncorr } ∧
      t.til.countCrc = (if crc then satAdd 48 s.til.countCrc 1 else s.til.countCrc) ∧
      t.til.countFecUncorr = (if n = 0 then s.til.countFecUncorr else satAdd 48 s.til.countFecUncorr n) ∧
      t.headers[blkTiller].cause = s.headers[blkTiller].cause ||| (if crc then 8 else 0) ||| (if n = 0 then 0 else 16) := by
  refine completes_of_next (congrArg Host.Outcome.next (doFailedFlit_eq hrec hfailed)) ?_
  refine ⟨?_, ?_, ?_, ?_, ?_⟩
  iterate 4 rw [fecCounted_frame, crcCounted_frame]
  exact (fecCounted_cause n _).trans (congrArg (· ||| _) (crcCounted_cause crc s))

/-- Settles O37. A flit's link control comes first, and what it leaves decides what becomes of the flit. -/
theorem tillerReceiver : Obligations.TillerReceiver := by
  unfold Obligations.TillerReceiver
  refine ⟨?returns, ?flits, fun crc n s => completes_failedFlit⟩
  case returns =>
    intro rx s hordered hrec hack hnak x back
    have hrx : takeRx rx s = if rx.reserved = true then tilDown 3 (takeReturn rx.ctl (counted rx s))
        else takeReturn rx.ctl (counted rx s) := by rw [takeRx_eq hrec, takeAck_of_none hack, takeNak_of_none hnak]
    have hstands : Standing (counted rx s) := standing_of_live (live_of_receives hrec)
    refine ⟨fun hreserved hback => ?_, fun hbad => ?_⟩
    · obtain ⟨n, hn⟩ := takeReturn_of_fits (c := rx.ctl) (s := counted rx s) hrec hback
      rw [if_neg (ne_true_of_eq_false hreserved), hn] at hrx
      exact completes_of_next (congrArg Host.Outcome.next hrx) ⟨rfl, updAt_get_same .., fun i hi => updAt_get_other _ _ hi.symm⟩
    · have hfalls : ∃ u, takeRx rx s = tilDown 3 u ∧ Standing u := by
        by_cases hback : back
        · obtain ⟨n, hn⟩ := takeReturn_of_fits (c := rx.ctl) (s := counted rx s) hrec hback
          rw [if_pos (hbad.resolve_right (not_not_intro hback)), hn] at hrx
          exact ⟨_, hrx, hstands⟩
        · rw [takeReturn_of_excess (s := counted rx s) hrec hback, tilDown_tilDown hstands (by decide), ite_self] at hrx
          exact ⟨_, hrx, hstands⟩
      obtain ⟨u, hu, hup⟩ := hfalls
      have hgone : GoesDown 3 u (tilDown 3 u) := tilDown_goesDown hup (by decide)
      exact completes_of_next (congrArg Host.Outcome.next hu) ⟨hgone.state, hgone.lastDown⟩
  case flits =>
    intro rx s hordered hflows hreserved hlen hlt hsame ctl z d idle fell
    have hrec := receives_of_flows hflows
    have hseen : ReturnSeen ctl z := ⟨hlt, hsame⟩
    have hrx : takeRx rx s = takeReturn ctl (takeNak ctl (takeAck ctl z)) := by
      rw [takeRx_eq hrec, if_neg (ne_true_of_eq_false hreserved)]
      rfl
    have hstands : Standing z := standing_of_live (live_of_receives hrec)
    have hidle (h : idle) : takeRx rx s = z := takeRx_of_idle hrec hreserved h.1 h.2 ⟨hlt, hsame⟩
    refine ⟨?ack, ?ackOut, ?nak, ?unexpected, ?sequenced, ?resend⟩
    case ack =>
      intro hack hnak hd
      have hfreed := takeAck_of_range (s := z) hack hd
      rw [hfreed, takeNak_of_none hnak, takeReturn_of_seen (by exact hseen)] at hrx
      exact completes_of_next (congrArg Host.Outcome.next hrx) ⟨rfl, rfl⟩
    case ackOut =>
      intro hack hd
      rw [takeAck_of_excess (s := z) hack hd, takeNak_tilDown hstands (by decide), takeReturn_tilDown hstands (by decide)] at hrx
      exact completes_of_fall (congrArg Host.Outcome.next hrx) hstands (by decide) rfl
    case nak =>
      intro f i hack hnak hnext hfind hflit
      rw [takeAck_of_none hack] at hrx
      refine ⟨fun hmany => ?_, fun hfew hinj => ?_⟩
      · rw [takeNak_eq (s := z) hrec hnak hnext hfind hflit, if_neg (Nat.not_lt.2 hmany),
          takeReturn_tilDown hstands (by decide)] at hrx
        exact completes_of_fall (congrArg Host.Outcome.next hrx) hstands (by decide) rfl
      · have hsent := takeNak_sends (s := z) hrec hnak hnext hfind hflit hfew
        have hkept := hsent.credits ctl.crSel
        rw [takeReturn_of_seen ⟨by rw [hkept]; exact hlt, by rw [hkept]; exact hsame⟩] at hrx
        refine completes_of_next (congrArg Host.Outcome.next hrx) ⟨by rw [hsent.til]; rfl, by rw [hsent.til]; rfl,
          by rw [hsent.til]; rfl, hsent.out, (hsent.cause _).trans raise_cause⟩
    case unexpected => exact fun h seq pl hseq => flits_unexpected (hidle h) hseq
    case sequenced =>
      intro h pl seq went
      have hz := hidle h
      refine ⟨?started, ?clear, ?keyless, ?group⟩
      case started => exact fun hstarted => completes_of_next (exec_dataFlit_started (z := z) hz hflows hstarted) rfl
      case clear =>
        intro ms part hstarted hkey ss hread
        have hclear := exec_dataFlit_clear (z := z) (pl := pl) hz hflows hstarted hkey
        have hone : (expected z).til.rxPart ++ [(z.dtime, payloadBytes pl)].flatMap (fun p => payloadSlots p.1 p.2) = ss := by
          rw [List.flatMap_singleton]
          rfl
        refine ⟨fun hspdm => ?_, fun hspdm => ?_⟩
        · rw [takePayloads_delivers hone hread fun _ => hspdm] at hclear
          exact completes_of_next hclear ⟨⟨rfl, rfl, rfl⟩, rfl, rfl⟩
        · rw [takePayloads_refuses hone hread hspdm] at hclear
          exact completes_of_fall hclear (u := expected z) hstands (by decide) rfl
      case keyless => exact fun hkey => completes_of_fall (exec_macFlit_keyless (z := z) hz hflows hkey) hstands (by decide) rfl
      case group =>
        intro k hkey hstarted hheld held cipher tag bs good plain ss
        refine ⟨fun hbad => ?_, fun ms part hgood hread => ?_⟩
        · exact completes_of_fall (exec_macFlit_failed (z := z) hz hflows hkey hbad) hstands (by decide) rfl
        · have hverified := exec_macFlit_verified (z := z) hz hflows hkey hstarted hheld hgood
          have hread' := takePayloads_delivers (clear := false) (ps := heldPlain k z) (s := { expected z with til := { (expected z).til with
            rxGroup := z.til.rxGroup + 1, heldFlits := [], rxVerified := true } }) (ss := ss) rfl hread fun h => absurd h (by decide)
          rw [hread'] at hverified
          exact completes_of_next hverified ⟨⟨rfl, rfl, rfl⟩, rfl, rfl, rfl, rfl, rfl⟩
    case resend =>
      intro hopen hpending
      have hdo : doNakResend s = askReplay (timeTo (s.til.nakAt + 100 * regField s offTilCfg 16 7) s) :=
        if_pos (by simp [hopen, hpending])
      have hask : tilReceives (timeTo (s.til.nakAt + 100 * regField s offTilCfg 16 7) s) = true := hrec
      refine congrArg Host.Outcome.next (hdo.trans ((if_pos hask).trans ?_))
      simp [timeTo, hopen]

end Sys2Proof.Machine

/-! # Attestation (R287, R291, R302, Tables 11.9 and 12.4) -/

namespace Sys2Proof.Machine

/-! ## Messages that Germ queues -/

theorem queueTil_of_open {m : TilMsg} {s : State} (h : s.til.state = .attest ∨ s.til.state = .up) :
    queueTil m s = { s with til := { s.til with queue := s.til.queue ++ [m] } } := if_pos (by simpa using h)

theorem freeSpdm_of_open {s : State} (h : s.til.state = .attest ∨ s.til.state = .up) : ∃ b, freeSpdm s =
    { s with til := { s.til with queue := s.til.queue ++ [.spdm b] }, free := s.free + 1 } :=
  ⟨_, queueTil_of_open (s := { s with free := s.free + 1 }) h⟩

/-- Between `s` and `t` SPDM messages of this member have been queued. -/
structure Spdms (s t : State) : Prop where
  til : t.til = { s.til with queue := t.til.queue }
  queue : ∃ l, t.til.queue = s.til.queue ++ l ∧ l.all isSpdm = true

theorem foldl_freeSpdm_spdms {l : List Nat} {s : State} (h : s.til.state = .attest ∨ s.til.state = .up) :
    Spdms s (l.foldl (fun t _ => freeSpdm t) s) := by
  induction l generalizing s with
  | nil => exact ⟨rfl, [], (List.append_nil _).symm, rfl⟩
  | cons n l ih =>
    obtain ⟨b, hb⟩ := freeSpdm_of_open h
    rw [List.foldl_cons, hb]
    obtain ⟨htil, ms, hqueue, hspdm⟩ :=
      ih (s := { s with til := { s.til with queue := s.til.queue ++ [.spdm b] }, free := s.free + 1 }) h
    exact ⟨htil, .spdm b :: ms, by rw [hqueue, List.append_assoc]; rfl, by simp [isSpdm, hspdm]⟩

/-! ## INIT (R291, Table 11.9) -/

section Init
variable {s : State} {rx : RxFlit} {pl : BitVec 1888}

/-- The credits that an INIT advertises for the counter `i`. -/
def advertised (pl : BitVec 1888) (i : Nat) : Nat := bytesToNat (((payloadBytes pl).drop (4 + 2 * i)).take 2)

/-- The INIT names version 1, and no credit count out of range. -/
def InitValid (pl : BitVec 1888) : Prop := bytesToNat ((payloadBytes pl).take 2) = 1 ∧ ∀ i, i < 8 → advertised pl i ≤ 32767

theorem initValid_iff : InitValid pl ↔ ¬ (bytesToNat ((payloadBytes pl).take 2) ≠ 1 ||
    ((List.range 8).map fun i => bytesToNat (((payloadBytes pl).drop (4 + 2 * i)).take 2)).any (fun a => 32767 < a)) = true := by
  simp [InitValid, advertised]

theorem doInitFlit_of_invalid (hstate : s.til.state = .init) (h : ¬ InitValid pl) : doInitFlit pl s = tilDown 3 s := by
  rw [initValid_iff, not_not] at h
  simp only [doInitFlit, hstate]
  exact if_pos h

theorem doInitFlit_of_valid (hstate : s.til.state = .init) (h : InitValid pl) : doInitFlit pl s =
    if (((payloadBytes pl).getD 2 0).getLsbD 0 && s.til.sentRxSeen) = true then enterAttest (payloadBytes pl) s
    else { s with til := { s.til with initSeen := true } } := by
  rw [initValid_iff] at h
  simp only [doInitFlit, hstate]
  exact if_neg h

/-- An INIT while sequenced flits flow is a restart of the peer. -/
theorem doInitFlit_of_flowing (h : s.til.state = .up ∨ s.til.state = .attest) : doInitFlit pl s = tilDown 7 s := by
  rcases h with h | h <;> simp only [doInitFlit, h]

/-- The link in ATTEST, with the counters of the INIT. -/
def attesting (pl : BitVec 1888) (s : State) : State := { s with til := { s.til with
  state := .attest, enteredAt := s.dtime, credits := Vector.ofFn fun i => ⟨advertised pl i.val, 0, 0, 0, 0⟩
  peerHash := BitVec.ofNat 384 (bytesToNatBE (((payloadBytes pl).drop 20).take 48)) } }

theorem enterAttest_eq : enterAttest (payloadBytes pl) s =
    if s.fuses.deviceHash.toNat < (attesting pl s).til.peerHash.toNat then freeSpdm (attesting pl s) else attesting pl s := rfl

theorem enterAttest_spec {t : State} (ht : enterAttest (payloadBytes pl) s = t) :
    t.til.state = .attest ∧ t.til.enteredAt = s.dtime ∧ (∀ i : Fin 8, t.til.credits[i] = ⟨advertised pl i, 0, 0, 0, 0⟩) ∧
    t.til.peerHash = (attesting pl s).til.peerHash ∧
    t.til.queue.length = s.til.queue.length + if s.fuses.deviceHash.toNat < t.til.peerHash.toNat then 1 else 0 := by
  have hcredits (i : Fin 8) : (attesting pl s).til.credits[i] = ⟨advertised pl i, 0, 0, 0, 0⟩ := by
    simp [attesting]
  rw [enterAttest_eq] at ht
  split at ht
  · next hfirst =>
    obtain ⟨b, hb⟩ := freeSpdm_of_open (s := attesting pl s) (.inl rfl)
    rw [hb] at ht
    subst ht
    exact ⟨rfl, rfl, hcredits, rfl, by rw [if_pos (by exact hfirst), List.length_append]; rfl⟩
  · next hfirst =>
    subst ht
    exact ⟨rfl, rfl, hcredits, rfl, by rw [if_neg hfirst]; rfl⟩

end Init

/-! ## SPDM messages of the peer (R287) -/

section Spdm
variable {s : State} {d : TilMsg × Nat}

theorem takeSpdm_of_spdm (hhead : headOf s 3 = some d) (hspdm : isSpdm d.1 = true) : takeSpdm s = some (takeDelivered d s) := by
  have hfilter : (some d).filter (isSpdm ·.1) = some d := if_pos hspdm
  rw [takeSpdm, hhead, hfilter, Option.map_some]

theorem takeSpdm_of_other (h : ∀ d, headOf s 3 = some d → isSpdm d.1 = false) : takeSpdm s = none := by
  simp only [takeSpdm, Option.map_eq_none_iff, Option.filter_eq_none_iff]
  exact fun d hd => ne_true_of_eq_false (h d hd)

variable {u : State} (hu : takeSpdm s = some u) (hstate : u.til.state = .attest)
include hu hstate

theorem exec_tillerSpdm_exchange : exec (.tillerSpdm .exchange) s = .next (freeSpdm u) := by
  refine congrArg Host.Outcome.next ?_
  simp only [doTillerSpdm, hu, spdmStep, hstate, ne_eq, not_true_eq_false, if_false]

theorem exec_tillerSpdm_checked {zr so fi : Bool} {h : BitVec 384} : exec (.tillerSpdm (.checked zr so fi h)) s = .next
    (if !peerPasses u zr so fi h then tilDown 8 u else if u.til.attested then u else sendLinkKey u) := by
  refine congrArg Host.Outcome.next ?_
  simp only [doTillerSpdm, hu, spdmStep, hstate, ne_eq, not_true_eq_false, if_false]

theorem exec_tillerSpdm_keyAnswer {k : LinkKey} (hk : u.til.txNew = some k) :
    exec (.tillerSpdm .keyAnswer) s = .next (installTx k u) := by
  refine congrArg Host.Outcome.next ?_
  simp only [doTillerSpdm, hu, spdmStep, hstate, hk, ne_eq, not_true_eq_false, if_false]

theorem exec_linkKey {key : BitVec 256} {fixed : BitVec 32} {start : Nat} : exec (.linkKey key fixed start) s = .next
    (if (u.til.attested && u.til.rxKey.isNone) = true then
      freeSpdm { u with til := { u.til with rxKey := some ⟨key, fixed, start % 4096⟩ } } else u) := by
  refine congrArg Host.Outcome.next ?_
  simp only [doLinkKey, hu, hstate, decide_true, Bool.true_and]

end Spdm

theorem sendLinkKey_spec {s : State} (h : s.til.state = .attest) : ∃ b start, start < 4096 ∧ sendLinkKey s = { s with
    til := { s.til with
      attested := true
      txNew := some ⟨Config.randomBits s.free, (Config.randomBits (s.free + 1)).extractLsb' 0 32, start⟩
      queue := s.til.queue ++ [.spdm b] }
    free := s.free + 3 } := by
  have hstart : (s.til.txNext + s.til.queue.length + 2) % 4096 < 4096 := Nat.mod_lt _ (by decide)
  obtain ⟨b, hb⟩ := freeSpdm_of_open (s := { s with
    til := { s.til with
      attested := true
      txNew := some ⟨Config.randomBits s.free, (Config.randomBits (s.free + 1)).extractLsb' 0 32,
        (s.til.txNext + s.til.queue.length + 2) % 4096⟩ }
    free := s.free + 2 }) (.inl h)
  exact ⟨b, _, hstart, hb⟩

/-! ## The end of attestation (R287 step 5, R302) -/

theorem ownForm_eq (s : State) : ownForm s = ⟨(s.img.map (·.preferred)).getD false, decide (s.pair.role = .primary), s.pair.fresh,
    s.pair.warmClean, s.pair.wasPrimary, regField s offPairState 56 8, (regGet s offPairGen).toNat, (s.img.map (·.compat)).getD 0,
    (s.img.map (·.predecessor)).getD 0⟩ := by
  cases h : s.img <;> simp [ownForm, isPreferred, pairEpoch, h]

/-- The link is UP, and the miss timer of the heartbeat starts (R315). -/
def linkUp (s : State) : State :=
  { s with til := { s.til with state := .up, enteredAt := s.dtime }, pair := { s.pair with lastHb := s.dtime } }

/-- FORM_REQ waits to be sent on a link that is UP. -/
def formAsked (s : State) : State := { linkUp s with
  til := { (linkUp s).til with queue := s.til.queue ++ [.formReq (ownForm s)] }, pair := { (linkUp s).pair with formSent := true } }

section Done
variable {s : State} (hstate : s.til.state = .attest) (hstarted : s.til.txStarted = true) (hverified : s.til.rxVerified = true)
include hstate hstarted hverified

theorem exec_attestDone : exec .attestDone s = .next
    (if s.pair.role = .detached || s.pair.role = .fenced || s.pair.role = .primary then formAsked s else linkUp s) := by
  have hdone : (s.til.state = .attest && s.til.txStarted && s.til.rxVerified) = true := by simp [hstate, hstarted, hverified]
  have hsend : queueTil (.formReq (ownForm (linkUp s))) { linkUp s with pair := { (linkUp s).pair with formSent := true } } =
      formAsked s := queueTil_of_open (.inr rfl)
  rw [← hsend]
  exact congrArg Host.Outcome.next (if_pos hdone)

theorem completes_attestDone :
    let forms := s.pair.role = .detached ∨ s.pair.role = .fenced ∨ s.pair.role = .primary
    Completes .attestDone s fun t => t.til.state = .up ∧ t.til.enteredAt = s.dtime ∧ t.pair.lastHb = s.dtime ∧ t.pair.role = s.pair.role ∧
      t = { s with til := t.til, pair := t.pair } ∧
      (forms → t.pair.formSent = true ∧ t.til.queue = s.til.queue ++ [.formReq (ownForm s)]) ∧
      (¬ forms → t.til.queue = s.til.queue) := by
  intro forms
  have hforms : ((s.pair.role = .detached || s.pair.role = .fenced || s.pair.role = .primary) = true) ↔ forms := by
    simp [forms, or_assoc]
  refine completes_of_next (exec_attestDone hstate hstarted hverified) ?_
  by_cases h : forms
  · rw [if_pos (hforms.2 h)]
    exact ⟨rfl, rfl, rfl, rfl, rfl, fun _ => ⟨rfl, rfl⟩, fun hn => absurd h hn⟩
  · rw [if_neg (mt hforms.1 h)]
    exact ⟨rfl, rfl, rfl, rfl, rfl, fun hy => absurd hy h, fun _ => rfl⟩

end Done

/-- Settles O38. INIT and each step of the SPDM exchange act on the state that the link control of the flit, or the taking of the
message, has left. -/
theorem tillerAttestation : Obligations.TillerAttestation := by
  unfold Obligations.TillerAttestation
  intro s
  refine ⟨?init, fun hstate => ⟨?other, ?spdm, ?notDone, ?done⟩⟩
  case init =>
    intro rx pl hack hnak hreserved hlt hsame bs adv valid
    have hrx (hrec : tilReceives s = true) : exec (.initFlit rx pl) s = .next (doInitFlit pl (counted rx s)) := by
      show Host.Outcome.next (doInitFlit pl (takeRx rx s)) = _
      rw [takeRx_of_idle hrec hreserved hack hnak ⟨hlt, hsame⟩]
    refine ⟨fun hinit => ?_, fun hflows => ?_⟩
    · have hexec := hrx (tilReceives_iff.2 (.inl hinit))
      have hstands : Standing (counted rx s) := .of_state hinit (by decide) (by decide)
      refine ⟨fun hbad => ?_, fun hvalid hnot => ?_, fun hvalid hseen hsent => ?_⟩
      · have hgone : GoesDown 3 (counted rx s) (tilDown 3 (counted rx s)) := tilDown_goesDown hstands (by decide)
        rw [doInitFlit_of_invalid (s := counted rx s) hinit hbad] at hexec
        exact completes_of_next hexec ⟨hgone.state, hgone.lastDown⟩
      · rw [doInitFlit_of_valid (s := counted rx s) hinit hvalid] at hexec
        exact hexec.trans (congrArg _ (if_neg (ne_true_of_eq_false hnot)))
      · rw [doInitFlit_of_valid (s := counted rx s) hinit hvalid, if_pos (by rw [hseen]; exact hsent)] at hexec
        exact completes_of_next hexec (enterAttest_spec (s := counted rx s) rfl)
    · have hexec := hrx (receives_of_flows (tilFlows_iff.2 hflows.symm))
      have hstands : Standing (counted rx s) := by
        rcases hflows with h | h <;> exact .of_state h (by decide) (by decide)
      have hgone : GoesDown 7 (counted rx s) (tilDown 7 (counted rx s)) := tilDown_goesDown hstands (by decide)
      rw [doInitFlit_of_flowing (s := counted rx s) hflows] at hexec
      exact completes_of_next hexec ⟨hgone.state, hgone.lastDown⟩
  case other =>
    intro h st key fixed start
    have hnone := takeSpdm_of_other h
    exact ⟨congrArg Host.Outcome.next (by simp only [doTillerSpdm, hnone]), congrArg Host.Outcome.next (by simp only [doLinkKey, hnone])⟩
  case spdm =>
    intro d hhead hspdm u
    have hu : takeSpdm s = some u := takeSpdm_of_spdm hhead hspdm
    have hattest : u.til.state = .attest := hstate
    refine ⟨?_, fun zr so fi h hfails => ?_, fun zr so fi h hpasses hnew => ?_, fun k hk => ?_, fun key fixed start hdone hnone => ?_,
      fun key fixed start hnot => ?_⟩
    · obtain ⟨b, hb⟩ := freeSpdm_of_open (s := u) (.inl hattest)
      exact completes_of_next ((exec_tillerSpdm_exchange hu hattest).trans (congrArg _ hb)) ⟨rfl, b, rfl⟩
    · have hgone : GoesDown 8 u (tilDown 8 u) := tilDown_goesDown (.of_state hattest (by decide) (by decide)) (by decide)
      have hpeer : (!peerPasses u zr so fi h) = true := by rw [show peerPasses u zr so fi h = false from hfails]; rfl
      exact completes_of_next ((exec_tillerSpdm_checked hu hattest).trans (congrArg _ (if_pos hpeer))) ⟨hgone.state, hgone.lastDown⟩
    · obtain ⟨b, start, hstart, hsent⟩ := sendLinkKey_spec hattest
      have hexec : exec (.tillerSpdm (.checked zr so fi h)) s = .next (sendLinkKey u) := by
        rw [exec_tillerSpdm_checked hu hattest, show peerPasses u zr so fi h = true from hpasses,
          show u.til.attested = false from hnew]
        rfl
      exact completes_of_next (hexec.trans (congrArg _ hsent)) ⟨rfl, ⟨b, rfl⟩, start, hstart, rfl⟩
    · obtain ⟨htil, hqueue⟩ := foldl_freeSpdm_spdms
        (l := List.range ((k.start + 8192 - (u.til.txNext + u.til.queue.length)) % 4096 + 1))
        (s := { u with til := { u.til with txKey := some k, txNew := none } }) (.inl hattest)
      refine completes_of_next (exec_tillerSpdm_keyAnswer hu hattest hk) ⟨?_, ?_, ?_, hqueue⟩
      · exact congrArg Tiller.txKey htil
      · exact congrArg Tiller.txNew htil
      · have hrx := congrArg Tiller.rxKey htil
        exact hrx
    · obtain ⟨b, hb⟩ := freeSpdm_of_open (s := { u with til := { u.til with rxKey := some ⟨key, fixed, start % 4096⟩ } }) (.inl hattest)
      have hinstalls : (u.til.attested && u.til.rxKey.isNone) = true := by
        rw [show u.til.attested = true from hdone, show u.til.rxKey = none from hnone]
        rfl
      exact completes_of_next ((exec_linkKey hu hattest).trans (congrArg _ ((if_pos hinstalls).trans hb))) ⟨rfl, b, rfl⟩
    · have hkeeps : ¬ (u.til.attested && u.til.rxKey.isNone) = true := by
        show ¬ (s.til.attested && s.til.rxKey.isNone) = true
        rcases hnot with h | h <;> simp [h]
      exact (exec_linkKey hu hattest).trans (congrArg _ (if_neg hkeeps))
  case notDone => exact fun h => congrArg Host.Outcome.next (if_neg (by rcases h with h | h <;> simp [h]))
  case done =>
    intro hstarted hverified
    rw [← ownForm_eq]
    exact completes_attestDone hstate hstarted hverified

end Sys2Proof.Machine

/-! # Shadow filter, heartbeats and the shared time (R294, R311 to R313, R315, R321) -/

namespace Sys2Proof.Machine

/-- A message that has been delivered is taken, and goes on with good parity (R22, R289). -/
theorem tilMessage_good {m : TilMsg} {addr n : Nat} {keyed : Bool} {f : Bool → State → State} {s : State}
    (hinj : noInjection s = true) (harrived : arrivedAt s m = some n) :
    tilMessage m addr keyed .good f s = f false (takeDelivered (m, n) s) := by
  simp only [tilMessage, harrived, stageParity_good hinj rfl]

/-! ## SYNCED of the receiving member (R314) -/

section Judge
variable {s : State}

theorem judgeSync_pair : (judgeSync s).pair =
    { s.pair with role := (judgeSync s).pair.role, synced := (judgeSync s).pair.synced } := by
  unfold judgeSync
  split
  · split <;> rfl
  · split
    · split <;> rfl
    · split <;> rfl
  · rfl

theorem judgeSync_frame : judgeSync s =
    { s with headers := (judgeSync s).headers, pair := (judgeSync s).pair, queue := (judgeSync s).queue } :=
  (PairActs.refl s).judgeSync.frame

@[simp] theorem judgeSync_regs : (judgeSync s).regs = s.regs := by rw [judgeSync_frame]

@[simp] theorem judgeSync_dram : (judgeSync s).dram = s.dram := by rw [judgeSync_frame]

@[simp] theorem judgeSync_spks : (judgeSync s).spks = s.spks := by rw [judgeSync_frame]

/-- A member whose partner is not synchronised joins again. -/
theorem judgeSync_of_unsynced (hrole : receivesMirror s = true) (hpeer : s.pair.peerSynced = false) :
    (judgeSync s).pair.role = .joining ∧ (s.pair.role = .secondary → (judgeSync s).pair.synced = false) := by
  have hunsynced : syncHolds s = false := by simp [syncHolds, hpeer]
  simp only [receivesMirror, Bool.or_eq_true, decide_eq_true_eq] at hrole
  rcases hrole with h | h
  · simp [judgeSync, h, hunsynced]
  · simp only [judgeSync, h, hunsynced, Bool.false_eq_true, if_false]
    split <;> exact ⟨rfl, fun _ => rfl⟩

end Judge

/-! ## SF_SYNC (R311, R312) -/

section Shadow
variable {s : State} {u : SfUpdate} {r : Region}

/-- What is done at every home is done once at each. -/
theorem eachSpk_spk (f : Fin 8 → Spk → Spk) (s : State) (j : Fin 8) :
    (eachSpk (fun k t => updSpk k (f k) t) s).spks[j] = f j s.spks[j] := by
  have hlist (ks : List (Fin 8)) (hnodup : ks.Nodup) (t : State) :
      (ks.foldl (fun t k => updSpk k (f k) t) t).spks[j] = if j ∈ ks then f j t.spks[j] else t.spks[j] := by
    induction ks generalizing t with
    | nil => simp
    | cons k ks ih =>
      obtain ⟨hk, hnodup⟩ := List.nodup_cons.1 hnodup
      rw [List.foldl_cons, ih hnodup, updSpk_spks]
      by_cases hj : j = k
      · subst hj
        rw [if_neg hk, if_pos (List.mem_cons_self ..), updAt_get_same]
      · simp only [updAt_get_other _ _ (Ne.symm hj), List.mem_cons, hj, false_or]
  exact (hlist _ (List.nodup_finRange 8) s).trans (if_pos (List.mem_finRange j))

theorem shadowFree_spk (region sector : Nat) (s : State) (k : Fin 8) :
    (shadowFree region sector s).spks[k].shadow =
      s.spks[k].shadow.filter (fun e => !(e.region = region && e.dpaSector = sector)) ∧
    (shadowFree region sector s).spks[k].sf = s.spks[k].sf := by
  rw [shadowFree, eachSpk_spk]
  exact ⟨rfl, rfl⟩

theorem shadowFree_dram (region sector : Nat) (s : State) : (shadowFree region sector s).dram = s.dram := by
  rw [shadowFree, eachSpk_updSpk]

theorem storeUpdate_of_free (hregion : regionAt s u.ldTag (256 * u.sector) = some r) (hfree : u.free = true) :
    storeUpdate u s = shadowFree r.number u.sector s := by
  simp only [storeUpdate, hregion, hfree, if_true]

theorem storeUpdate_of_room {k : Fin 8} {sec : Nat} {v : State} (hregion : regionAt s u.ldTag (256 * u.sector) = some r)
    (hfree : u.free = false) (hown : ownSector u.ldTag u.sector (shadowFree r.number u.sector s) = (some (k, sec), v))
    (hroom : (v.spks[k].shadow.filter fun e => sfSet e.sector = sfSet sec).length < 16) : storeUpdate u s =
      updSpk k (fun q => { q with shadow := q.shadow ++ [⟨u.ldTag, r.number, u.sector, sec, u.vector, u.aliasF⟩] }) v := by
  simp only [storeUpdate, hregion, hfree, hown, hroom, Bool.false_eq_true, if_true, if_false]

theorem exec_sfSync {now : Nat} (hrole : receivesMirror s = true) (hhalted : halted s = false) (hinj : noInjection s = true)
    (harrived : arrivedAt s (.sfSync [u]) = some now) :
    exec (.sfSync [u]) s = .next (judgeSync (storeUpdate u (takeDelivered (.sfSync [u], now) s))) := by
  refine congrArg Host.Outcome.next ((if_neg (by simp [hrole, hhalted])).trans ?_)
  exact tilMessage_good hinj harrived

end Shadow

/-! ## SF_REJECT (R313) -/

/-- Between `s` and `t` home `k` has sent back-invalidates or freed eviction buffers: its entries and transactions are as they
were, and a port has at most back-invalidates more. -/
structure BackInvalidates (k : Fin 8) (s t : State) : Prop where
  frame : t = { s with spks := t.spks, ports := t.ports, perf := t.perf, headers := t.headers, seq := t.seq, out := t.out
                       pair := { s.pair with backlog := t.pair.backlog } }
  sf : t.spks[k].sf = s.spks[k].sf
  txns : t.spks[k].txns = s.spks[k].txns
  port : ∀ p : Fin 4, t.ports[p] = { s.ports[p] with bis := t.ports[p].bis }
  bis : ∀ p : Fin 4, (∀ b ∈ s.ports[p].bis, b.conflict = false) → ∀ b ∈ t.ports[p].bis, b.conflict = false

namespace BackInvalidates

variable {k : Fin 8} {σ s t : State}

theorem refl (s : State) : BackInvalidates k s s := ⟨rfl, rfl, rfl, fun _ => rfl, fun _ => id⟩

theorem trans (h : BackInvalidates k σ s) (g : BackInvalidates k s t) : BackInvalidates k σ t where
  frame := by rw [g.frame, h.frame]
  sf := g.sf.trans h.sf
  txns := g.txns.trans h.txns
  port p := by rw [g.port, h.port]
  bis p := g.bis p ∘ h.bis p

theorem ite {c : Prop} [Decidable c] (h : BackInvalidates k σ s) (g : BackInvalidates k σ t) :
    BackInvalidates k σ (if c then s else t) := by
  split
  · exact h
  · exact g

theorem foldl {β : Type} {f : State → β → State} {l : List β} (h : BackInvalidates k σ s)
    (hf : ∀ v b, BackInvalidates k σ v → BackInvalidates k σ (f v b)) : BackInvalidates k σ (l.foldl f s) := by
  induction l generalizing s with
  | nil => exact h
  | cons b l ih => exact ih (hf s b h)

/-- A change beside the homes and the ports. -/
theorem beside {seq out backlog} (h : BackInvalidates k σ s) :
    BackInvalidates k σ { s with seq := seq, out := out, pair := { s.pair with backlog := backlog } } :=
  h.trans ⟨rfl, rfl, rfl, fun _ => rfl, fun _ => id⟩

protected theorem updSpk {f : Spk → Spk} (h : BackInvalidates k σ s) (hsf : ∀ q, (f q).sf = q.sf := by intro; rfl)
    (htxns : ∀ q, (f q).txns = q.txns := by intro; rfl) : BackInvalidates k σ (updSpk k f s) := by
  refine h.trans ⟨rfl, ?_, ?_, fun _ => rfl, fun _ => id⟩
  · rw [updSpk_spks, updAt_get_same, hsf]
  · rw [updSpk_spks, updAt_get_same, htxns]

protected theorem perfSpk {event amount : Nat} {cls : Option Nat} (h : BackInvalidates k σ s) :
    BackInvalidates k σ (perfSpk k event amount cls s) := by
  have hcount : OnlyCounted s (Machine.perfSpk k event amount cls s) := perfSpk_onlyCounted ..
  refine h.trans ?_
  rw [hcount.frame]
  exact ⟨rfl, rfl, rfl, fun _ => rfl, fun _ => id⟩

/-- A port holds one back-invalidate more. -/
theorem addBi {p : Fin 4} {b : PortBi} (hb : b.conflict = false) (h : BackInvalidates k σ s) :
    BackInvalidates k σ (updPort p (fun q => { q with bis := q.bis ++ [b] }) s) := by
  have hports (j : Fin 4) : (updPort p (fun q => { q with bis := q.bis ++ [b] }) s).ports[j] =
      if p = j then { s.ports[p] with bis := s.ports[p].bis ++ [b] } else s.ports[j] := updAt_get ..
  refine h.trans ⟨rfl, rfl, rfl, fun j => ?_, fun j hs => ?_⟩
  · rw [hports]
    split
    · next e => subst e; rfl
    · rfl
  · rw [hports]
    split
    · next e =>
      subst e
      exact fun x hx => (List.mem_append.1 hx).elim (hs x) fun hx => List.mem_singleton.1 hx ▸ hb
    · exact hs

protected theorem sendBi_done {owner : BiOwner} {sec sid left : Nat} {n : BiNeed} (h : BackInvalidates k σ s) :
    BackInvalidates k σ (sendBi.done k owner sec n sid left s) := h.updSpk.perfSpk

protected theorem sendBi {owner : BiOwner} {sec region aliasF sector : Nat} {n : BiNeed} (h : BackInvalidates k σ s) :
    BackInvalidates k σ (sendBi k owner sec region aliasF sector n s) := by
  have hseq {v : State} (hv : BackInvalidates k σ v) : BackInvalidates k σ (takeSeq v).2 := hv.beside
  unfold Machine.sendBi
  dsimp only
  split
  · exact (hseq h).sendBi_done
  · split
    · exact (hseq h).sendBi_done
    · exact ite (hseq h).sendBi_done ((hseq h).foldl fun _ _ hv => ite ((hseq hv).addBi rfl).beside ((hseq hv).addBi rfl)).sendBi_done

protected theorem sendBis {owner : BiOwner} {e : SfEntry} {ns : List BiNeed} (h : BackInvalidates k σ s) :
    BackInvalidates k σ (sendBis k owner e ns s) := (h.foldl fun _ _ hv => hv.sendBi).updSpk

protected theorem freeEvict {id : Nat} (h : BackInvalidates k σ s) : BackInvalidates k σ (freeEvict k id s) := by
  unfold Machine.freeEvict
  dsimp only
  refine ite h (.updSpk ?_)
  split
  · exact ite h.beside h
  · exact h

protected theorem freeEvicts (h : BackInvalidates k σ s) : BackInvalidates k σ (freeEvicts k s) := h.foldl fun _ _ hv => hv.freeEvict

protected theorem pair (h : BackInvalidates k s t) : t.pair = { s.pair with backlog := t.pair.backlog } := congrArg State.pair h.frame

protected theorem dram (h : BackInvalidates k s t) : t.dram = s.dram := by rw [h.frame]

protected theorem portsQuiet (h : BackInvalidates k s t) (hs : portsQuiet s = true) : portsQuiet t = true := by
  obtain ⟨hports, hpromotion, hinjecting⟩ := portsQuiet_iff.1 hs
  refine portsQuiet_iff.2 ⟨fun p => ?_, by rw [h.frame]; exact hpromotion, by rw [h.frame]; exact hinjecting⟩
  obtain ⟨hstate, hinv, hmarker, hbis, hreqs⟩ := hports p
  have hport := h.port p
  exact ⟨by rw [hport]; exact hstate, by rw [hport]; exact hinv, by rw [hport]; exact hmarker, h.bis p hbis, by rw [hport]; exact hreqs⟩

end BackInvalidates

/-- A change beside the ports, a promotion and the firmware wakes nothing at the ports. -/
theorem portsQuiet_beside {s t : State} (h : portsQuiet s = true) (hports : t.ports = s.ports := by rfl)
    (hpromotion : t.pair.promotion = s.pair.promotion := by rfl) (hfw : t.fw = s.fw := by rfl) : portsQuiet t = true := by
  rw [portsQuiet, hports, hpromotion, hfw]
  exact h

section Reject
variable {s : State} {k : Fin 8} {pl : Nat} {e : SfEntry}

/-- An entry has left its way for an eviction buffer, and its back-invalidates have not been sent. -/
def evicting (k : Fin 8) (pl : Nat) (e : SfEntry) (s : State) : State :=
  updSpk k (fun q => { q with sf := kdel q.sf pl, evict := q.evict ++ [⟨s.seq, e⟩] }) (takeSeq s).2

theorem evicting_pair : (evicting k pl e s).pair = s.pair := rfl

theorem evicting_dram : (evicting k pl e s).dram = s.dram := rfl

theorem evicting_portsQuiet (h : portsQuiet s = true) : portsQuiet (evicting k pl e s) = true := portsQuiet_beside h

theorem queueSync_portsQuiet {w : SfUpdate} (h : portsQuiet s = true) : portsQuiet (queueSync w s) = true := portsQuiet_beside h

theorem evictEntry_backInvalidates : BackInvalidates k (evicting k pl e s) (evictEntry k pl e s) :=
  (BackInvalidates.refl (evicting k pl e s)).sendBis

theorem evicting_home : (evicting k pl e s).spks[k].sf = kdel s.spks[k].sf pl ∧ (evicting k pl e s).spks[k].txns = s.spks[k].txns := by
  rw [evicting, updSpk_spks, updAt_get_same]
  exact ⟨rfl, rfl⟩

/-- Where every transaction of a home waits for memory or for its response, settling frees eviction buffers alone. -/
theorem settle_of_busy (h : ∀ x ∈ (freeEvicts k s).spks[k].txns, x.state = .memory ∨ x.state = .respond) :
    settle k s = freeEvicts k s := by
  rw [settle_eq_foldl]
  refine foldl_settleTxn_of_stays fun tid _ x hx => ?_
  rcases h x (List.mem_of_find?_eq_some hx) with hstate | hstate <;> simp [Stays, hstate]

theorem settle_evictEntry (h : ∀ x ∈ s.spks[k].txns, x.state = .memory ∨ x.state = .respond) :
    BackInvalidates k (evicting k pl e s) (settle k (evictEntry k pl e s)) := by
  have hfreed : BackInvalidates k (evicting k pl e s) (freeEvicts k (evictEntry k pl e s)) := evictEntry_backInvalidates.freeEvicts
  rw [settle_of_busy (by rw [hfreed.txns, evicting_home.2]; exact h)]
  exact hfreed

/-- A message that names a rejected sector has been counted. -/
def rejectCounted (s : State) : State := { s with pair := { s.pair with countReject := satAdd 48 s.pair.countReject 1 } }

/-- The state with the message taken and counted. -/
def rejected (u : SfUpdate) (now : Nat) (s : State) : State := rejectCounted (takeDelivered (.sfReject u, now) s)

theorem rejected_frame (u : SfUpdate) (now : Nat) (s : State) : rejected u now s =
    { s with til := (rejected u now s).til, pair := { s.pair with countReject := satAdd 48 s.pair.countReject 1 } } := rfl

theorem rejected_portsQuiet {u : SfUpdate} {now : Nat} (h : portsQuiet s = true) : portsQuiet (rejected u now s) = true := by
  rw [rejected_frame]
  exact portsQuiet_beside h

variable {u : SfUpdate} {now : Nat} (hpair : pairMode s = true) (hquiet : portsQuiet s = true)
include hpair hquiet

/-- No room for the entry that is to go: the message waits (R313). -/
theorem exec_sfReject_waits (hentry : entryOfSector s u.ldTag u.sector = some (k, pl, e))
    (h : e.busy = true ∨ 32 ≤ s.spks[k].evict.length) : exec (.sfReject u) s = .next s := by
  have hwaits : (e.busy || decide (32 ≤ s.spks[k].evict.length)) = true := by simpa using h
  have hdo : doSfReject u s = s := by
    simp only [doSfReject, hpair, hentry, hwaits, Bool.not_true, Bool.false_eq_true, if_true, if_false]
  refine congrArg Host.Outcome.next ?_
  rw [hdo, allSettle_of_portsQuiet hquiet]

variable (hinj : noInjection s = true) (harrived : arrivedAt s (.sfReject u) = some now)
include hinj harrived

theorem exec_sfReject_none (hentry : entryOfSector s u.ldTag u.sector = none) :
    exec (.sfReject u) s = .next (queueSync { u with free := true } (rejected u now s)) := by
  have hdo : doSfReject u s = queueSync { u with free := true } (rejected u now s) := by
    simp only [doSfReject, hpair, hentry, Bool.not_true, Bool.false_eq_true, if_false]
    exact tilMessage_good hinj harrived
  refine congrArg Host.Outcome.next ?_
  rw [hdo, allSettle_of_portsQuiet (queueSync_portsQuiet (rejected_portsQuiet hquiet))]

theorem exec_sfReject_evicts (hentry : entryOfSector s u.ldTag u.sector = some (k, pl, e)) (hfree : e.busy = false)
    (hroom : s.spks[k].evict.length < 32) (htxns : ∀ x ∈ s.spks[k].txns, x.state = .memory ∨ x.state = .respond) :
    exec (.sfReject u) s = .next (settle k (evictEntry k pl e (rejected u now s))) := by
  have hdo : doSfReject u s = settle k (evictEntry k pl e (rejected u now s)) := by
    simp only [doSfReject, hpair, hentry, hfree, Nat.not_le.2 hroom, decide_false, Bool.or_false, Bool.not_true, Bool.false_eq_true,
      if_false]
    exact tilMessage_good hinj harrived
  have hsettled : BackInvalidates k (evicting k pl e (rejected u now s)) (settle k (evictEntry k pl e (rejected u now s))) :=
    settle_evictEntry htxns
  refine congrArg Host.Outcome.next ?_
  rw [hdo, allSettle_of_portsQuiet (hsettled.portsQuiet (evicting_portsQuiet (rejected_portsQuiet hquiet)))]

end Reject

/-! ## HEARTBEAT (R315) -/

section Heartbeat
variable {s : State}

/-- The state in which a HEARTBEAT is made: writes that are closed have left the list, and a lag that is over is known. -/
def swept (s : State) : State :=
  judgeLag { s with pair := { s.pair with openWrites := s.pair.openWrites.filter fun w => stillOpen s w.1 } }

theorem swept_frame : swept s = { s with pair := { s.pair with
    openWrites := (swept s).pair.openWrites, lagging := (swept s).pair.lagging } } := by
  unfold swept judgeLag
  split <;> rfl

theorem foldl_min_le (l : List (Nat × Nat)) (n : Nat) :
    l.foldl (fun a w => min a w.2) n ≤ n ∧ ∀ w ∈ l, l.foldl (fun a w => min a w.2) n ≤ w.2 := by
  induction l generalizing n with
  | nil => simp
  | cons x l ih =>
    obtain ⟨hinit, hmem⟩ := ih (min n x.2)
    rw [List.foldl_cons]
    exact ⟨hinit.trans (Nat.min_le_left ..),
      List.forall_mem_cons.2 ⟨hinit.trans (Nat.min_le_right ..), hmem⟩⟩

theorem oldestOpen_le (h : s.pair.role = .primary) : oldestOpen s ≤ s.dtime ∧ ∀ w ∈ s.pair.openWrites, oldestOpen s ≤ w.2 := by
  rw [oldestOpen, if_pos h]
  exact foldl_min_le ..

theorem doHeartbeatSend_of_up (hup : s.til.state = .up) : doHeartbeatSend s =
    (let v := if fires (swept s) blkPair 9 then disarm blkPair 9 { swept s with pair := { (swept s).pair with hbWithheld := true } }
      else swept s
    if v.pair.hbWithheld then v else queueTil (.heartbeat (roleCode v.pair.role) (hbSynced v) (pairEpoch v) (oldestOpen v)) v) :=
  if_neg (by simp [tilUp, hup])

theorem exec_heartbeatSend (hup : s.til.state = .up) (hinj : noInjection s = true) (hwithheld : s.pair.hbWithheld = false) :
    exec .heartbeatSend s = .next { swept s with til := { s.til with queue := s.til.queue ++
      [.heartbeat (roleCode s.pair.role) (hbSynced (swept s)) (regField s offPairState 56 8) (oldestOpen (swept s))] } } := by
  have hrole : (swept s).pair.role = s.pair.role := by rw [swept_frame]
  have hepoch : pairEpoch (swept s) = regField s offPairState 56 8 := by rw [swept_frame]; rfl
  have htil : (swept s).til = s.til := by rw [swept_frame]
  have hfires : fires (swept s) blkPair 9 = false := fires_of_noInjection (by rw [swept_frame]; exact hinj) ..
  have hsends : (swept s).pair.hbWithheld = false := by rw [swept_frame]; exact hwithheld
  refine congrArg Host.Outcome.next ((doHeartbeatSend_of_up hup).trans ?_)
  simp only [hfires, hsends, Bool.false_eq_true, if_false]
  rw [queueTil_of_open (.inr (by rw [htil]; exact hup)), hrole, hepoch, htil]

theorem completes_heartbeatSend (hup : s.til.state = .up) (hinj : noInjection s = true) (hwithheld : s.pair.hbWithheld = false) :
    Completes .heartbeatSend s fun t => t = { s with pair := t.pair, til := t.til } ∧
      ∃ oldest, t.til.queue = s.til.queue ++ [.heartbeat (roleCode s.pair.role) (hbSynced t) (regField s offPairState 56 8) oldest] ∧
        (s.pair.role ≠ .primary → oldest = s.dtime ∧ hbSynced t = s.pair.synced) ∧
        (s.pair.role = .primary → oldest ≤ s.dtime ∧ ∀ w ∈ t.pair.openWrites, oldest ≤ w.2) := by
  have hrole : (swept s).pair.role = s.pair.role := by rw [swept_frame]
  have hdtime : (swept s).dtime = s.dtime := by rw [swept_frame]
  have hsynced : (swept s).pair.synced = s.pair.synced := by rw [swept_frame]
  refine completes_of_next (exec_heartbeatSend hup hinj hwithheld)
    ⟨by rw [swept_frame], oldestOpen (swept s), rfl, fun hother => ⟨?_, ?_⟩, fun hprimary => ?_⟩
  · rw [oldestOpen, if_neg (hrole.trans_ne hother), hdtime]
  · rw [← hsynced]
    exact if_neg (hrole.trans_ne hother)
  · rw [← hdtime]
    exact oldestOpen_le (hrole.trans hprimary)

/-- The state with a HEARTBEAT taken. -/
def beaten (synced : Bool) (oldest : Nat) (s : State) : State :=
  { s with pair := { s.pair with lastHb := s.dtime, peerSynced := synced, peerOldest := oldest } }

/-- The state in which the PRIMARY's EPOCH is taken: writes that are closed have left the dedup table. -/
def deduped (synced : Bool) (oldest : Nat) (s : State) : State := { s with pair := { s.pair with
  lastHb := s.dtime, peerSynced := synced, peerOldest := oldest, dedup := s.pair.dedup.filter fun d => !(d.time + 20 < oldest) } }

variable {role epoch oldest now : Nat} {synced : Bool} (hinj : noInjection s = true)
  (harrived : arrivedAt s (.heartbeat role synced epoch oldest) = some now)
include hinj harrived

theorem exec_heartbeat_kept (h : receivesMirror s = false ∨ role ≠ 4) : exec (.heartbeat role synced epoch oldest) s =
    .next (beaten synced oldest (takeDelivered (.heartbeat role synced epoch oldest, now) s)) := by
  have hkept : ¬ (receivesMirror s && decide (role = 4)) = true := by
    rcases h with h | h <;> simp [h]
  refine congrArg Host.Outcome.next ((tilMessage_good hinj harrived).trans ?_)
  exact if_neg hkept

theorem exec_heartbeat_taken (hrole : receivesMirror s = true) (hfour : role = 4) : exec (.heartbeat role synced epoch oldest) s =
    .next (judgeSync (setEpoch epoch (deduped synced oldest (takeDelivered (.heartbeat role synced epoch oldest, now) s)))) := by
  have htaken : (receivesMirror s && decide (role = 4)) = true := by simp [hrole, hfour]
  refine congrArg Host.Outcome.next ((tilMessage_good hinj harrived).trans ?_)
  exact if_pos htaken

theorem completes_heartbeat (hordered : ksorted s.regs = true) (hrole : receivesMirror s = true) (hfour : role = 4)
    (hepoch : epoch < 256) : Completes (.heartbeat role synced epoch oldest) s fun t =>
      t.pair.lastHb = s.dtime ∧ t.pair.peerSynced = synced ∧ t.pair.peerOldest = oldest ∧ regField t offPairState 56 8 = epoch ∧
      t.pair.dedup = s.pair.dedup.filter (fun d => !(d.time + 20 < oldest)) ∧
      (synced = false → t.pair.role = .joining ∧ (s.pair.role = .secondary → t.pair.synced = false)) := by
  refine completes_of_next (exec_heartbeat_taken hinj harrived hrole hfour) ?_
  generalize hv : deduped synced oldest (takeDelivered (.heartbeat role synced epoch oldest, now) s) = v
  have hpair : (setEpoch epoch v).pair = { s.pair with lastHb := s.dtime, peerSynced := synced, peerOldest := oldest
                                                       dedup := s.pair.dedup.filter fun d => !(d.time + 20 < oldest) } := hv ▸ rfl
  have hsorted : ksorted v.regs = true := hv ▸ hordered
  have hrole' : receivesMirror (setEpoch epoch v) = true := by rw [receivesMirror, hpair]; exact hrole
  rw [judgeSync_pair, hpair]
  refine ⟨rfl, rfl, rfl, ?_, rfl, fun hsynced => ?_⟩
  · rw [regField, regGet, judgeSync_regs]
    exact regField_regSetField_same hsorted (by decide) hepoch
  · have hjoins := judgeSync_of_unsynced hrole' (by rw [hpair]; exact hsynced)
    rw [hpair] at hjoins
    exact hjoins

end Heartbeat

/-! ## The end of the miss timer (R315) -/

theorem completes_hbMiss {s : State} (hup : s.til.state = .up) : Completes .hbMiss s fun t =>
    (t.til.state = .down ∨ t.til.state = .held) ∧ t.dtime = max s.dtime (s.pair.lastHb + 1000 * regField s offPairCfg 8 8) ∧
    t.headers[blkPair].cause.getLsbD 9 = true ∧ t.til.mirrors = s.til.mirrors ∧ regField t offTilState 44 4 = 6 := by
  have hstands : Standing (raise blkPair 9 Cap.none (timeTo (s.pair.lastHb + hbMissNs s) s)) := .of_state hup (by decide) (by decide)
  have hgone := tilDown_goesDown (cause := 6) hstands (by decide)
  have hmissed : (raise blkPair 9 Cap.none (timeTo (s.pair.lastHb + hbMissNs s) s)).headers[blkPair].cause.getLsbD 9 = true :=
    getLsbD_raise_cause (by decide)
  exact completes_of_next (congrArg Host.Outcome.next (if_pos (by simp [tilUp, hup])))
    ⟨hgone.state, hgone.dtime, hgone.pairCause 9 hmissed, hgone.mirrors, hgone.lastDown⟩

/-! ## The shared time (R294) -/

section SharedTime
variable {s : State}

theorem exec_timeReqSend (hup : s.til.state = .up) (hrole : s.pair.role = .secondary) :
    exec .timeReqSend s = .next { s with til := { s.til with queue := s.til.queue ++ [.timeReq s.dtime] } } := by
  refine congrArg Host.Outcome.next ((if_pos (by simp [tilUp, hup, hrole])).trans ?_)
  exact queueTil_of_open (.inr hup)

theorem exec_timeReq {t1 now : Nat} (hinj : noInjection s = true) (hrole : s.pair.role = .primary)
    (harrived : arrivedAt s (.timeReq t1) = some now) :
    exec (.timeReq t1) s = .next (queueTil (.timeRsp now s.dtime) (takeDelivered (.timeReq t1, now) s)) := by
  refine congrArg Host.Outcome.next ?_
  rw [doTimeReq, harrived]
  exact (tilMessage_good hinj harrived).trans (if_pos hrole)

/-- A correction that comes out even needs no choice of the rounding. -/
theorem thetaOf_even {t1 t2 t3 t4 : Nat} {th : Int} (h : 2 * th = ((t2 : Int) - t1) - ((t4 : Int) - t3)) :
    thetaOf t1 t2 t3 t4 s = (th, s) := by
  have heven : (((t2 : Int) - t1) - ((t4 : Int) - t3)) % 2 = 0 := by omega
  have hhalf : (((t2 : Int) - t1) - ((t4 : Int) - t3)) / 2 = th := by omega
  simp only [thetaOf, heven, hhalf, if_true]

/-- The state with a correction taken and none open. -/
def corrected (th : Int) (s : State) : State := { s with til := { s.til with theta := th, slew := 0, slewWait := 0, holdNs := 0 } }

/-- A correction of the clock: ahead at once, held still, or slewed. -/
def clockSet (th : Int) (s : State) : State :=
  if 1000 < th then { corrected th s with dtime := s.dtime + th.toNat }
  else if th < -1000 then { corrected th s with til := { (corrected th s).til with holdNs := th.natAbs } }
  else { corrected th s with til := { (corrected th s).til with slew := th } }

theorem exec_timeRsp {t2 t3 now : Nat} {th : Int} (hinj : noInjection s = true) (hrole : s.pair.role = .secondary)
    (hreplay : s.til.replaySeen = false) (harrived : arrivedAt s (.timeRsp t2 t3) = some now)
    (h : 2 * th = ((t2 : Int) - s.til.t1) - ((now : Int) - t3)) :
    exec (.timeRsp t2 t3) s = .next (clockSet th (takeDelivered (.timeRsp t2 t3, now) s)) := by
  have htaken : ¬ (decide (s.pair.role ≠ .secondary) || s.til.replaySeen) = true := by simp [hrole, hreplay]
  have hdo : doTimeRsp t2 t3 s = clockSet (thetaOf s.til.t1 t2 t3 now (takeDelivered (.timeRsp t2 t3, now) s)).1
      (thetaOf s.til.t1 t2 t3 now (takeDelivered (.timeRsp t2 t3, now) s)).2 := by
    rw [doTimeRsp, harrived]
    exact (tilMessage_good hinj harrived).trans (if_neg htaken)
  refine congrArg Host.Outcome.next ?_
  rw [hdo, thetaOf_even h]

end SharedTime

/-! ## Lag (R321) -/

/-- Between `s` and `t` the shadow updates of `n` entries have been queued. -/
def Syncs (n : Nat) (s t : State) : Prop := ∃ l : List (Nat × SfUpdate), l.length = n ∧ (∀ x ∈ l, x.2.free = false) ∧
  t = { s with pair := { s.pair with backlog := s.pair.backlog ++ l } }

namespace Syncs

variable {n m : Nat} {s t u : State}

theorem refl (s : State) : Syncs 0 s s := ⟨[], rfl, by simp, by rw [List.append_nil]⟩

theorem trans (h : Syncs n s t) (k : Syncs m t u) : Syncs (n + m) s u := by
  obtain ⟨l, hl, hfree, rfl⟩ := h
  obtain ⟨l', hl', hfree', rfl⟩ := k
  refine ⟨l ++ l', by rw [List.length_append, hl, hl'], fun x hx => ?_, by rw [List.append_assoc]⟩
  exact (List.mem_append.1 hx).elim (hfree x) (hfree' x)

protected theorem queueSync {w : SfUpdate} (h : w.free = false) (s : State) : Syncs 1 s (queueSync w s) :=
  ⟨[(s.dtime, w)], rfl, by simp [h], rfl⟩

theorem foldl {β : Type} {f : State → β → State} {g : β → Nat} {l : List β} (hf : ∀ v b, v.spks = s.spks → Syncs (g b) v (f v b)) :
    Syncs (l.map g).sum s (l.foldl f s) := by
  have hlist (v : State) (hv : v.spks = s.spks) : Syncs (l.map g).sum v (l.foldl f v) := by
    induction l generalizing v with
    | nil => exact refl v
    | cons b l ih =>
      have hb := hf v b hv
      obtain ⟨_, -, -, hframe⟩ := id hb
      rw [List.map_cons, List.sum_cons, List.foldl_cons]
      exact hb.trans (ih _ (by rw [hframe]; exact hv))
  exact hlist s rfl

theorem syncAll (s : State) : Syncs (s.spks.toList.map fun k => k.sf.length).sum s (syncAll s) := by
  have hspk (v : State) (k : Fin 8) (hv : v.spks = s.spks) : Syncs s.spks[k].sf.length v (v.spks[k].sf.foldl
      (fun u e => queueSync ⟨false, entryLd u e.2, e.2.dpaSector, entryHeads e.2, e.2.aliasF⟩ u) v) := by
    have hsum : s.spks[k].sf.length = (v.spks[k].sf.map fun _ => 1).sum := by rw [hv]; simp
    rw [hsum]
    exact foldl fun _ _ _ => .queueSync rfl _
  have hhomes : s.spks.toList.map (fun k => k.sf.length) = (List.finRange 8).map fun k => s.spks[k].sf.length := by
    refine List.ext_getElem (by simp) fun i _ _ => ?_
    simp
  rw [hhomes]
  unfold Machine.syncAll eachSpk
  generalize List.finRange 8 = ks
  exact foldl hspk

end Syncs

/-- The state in which every entry is sent anew: the lag of the update made at `n` is over, and the backlog is gone. -/
def lagged (n : Nat) (s : State) : State :=
  { timeTo (n + syncLagNs s) s with pair := { s.pair with backlog := [], lagging := true, peerSynced := false } }

theorem completes_syncLagExpiry {n : Nat} {u : SfUpdate} {rest : List (Nat × SfUpdate)} {s : State} (hpair : pairMode s = true)
    (hbacklog : s.pair.backlog = (n, u) :: rest) (hlen : s.pair.backlog.length ≤ 4096) : Completes .syncLagExpiry s fun t =>
      t = { s with dtime := max s.dtime (n + 1000 * regField s offPairCfg 0 8), pair := t.pair } ∧ t.pair.lagging = true ∧
      t.pair.peerSynced = false ∧ t.pair.backlog.length = (s.spks.toList.map fun k => k.sf.length).sum ∧
      ∀ e ∈ t.pair.backlog, e.2.free = false := by
  have hdo : doSyncLagExpiry s = syncAll (lagged n s) := by
    unfold doSyncLagExpiry
    rw [hbacklog] at hlen ⊢
    simp only [hpair, Nat.not_lt.2 hlen, Bool.not_true, Bool.false_eq_true, if_false]
    rfl
  obtain ⟨l, hl, hfree, hsync⟩ := Syncs.syncAll (lagged n s)
  refine completes_of_next (congrArg Host.Outcome.next (hdo.trans hsync)) ⟨rfl, rfl, rfl, hl, hfree⟩

/-- Settles O41. Every message acts on the state from which it has been taken. -/
theorem shadowHeartbeatAndTime : Obligations.ShadowHeartbeatAndTime := by
  unfold Obligations.ShadowHeartbeatAndTime
  intro s hup hinj
  refine ⟨?sync, ?reject, completes_heartbeatSend hup hinj, ?heartbeat, completes_hbMiss hup, exec_timeReqSend hup,
    fun t1 now => exec_timeReq hinj, ?timeRsp, fun n u rest => completes_syncLagExpiry⟩
  case sync =>
    intro u now r hrole hhalted harrived hregion w
    have hexec := exec_sfSync hrole hhalted hinj harrived
    refine ⟨fun hfree => ?_, fun k sec v hfree hown hroom => ?_⟩
    · rw [storeUpdate_of_free (s := w) hregion hfree] at hexec
      refine completes_of_next hexec ?_
      rw [judgeSync_dram, judgeSync_spks]
      exact ⟨shadowFree_dram .., fun k => shadowFree_spk ..⟩
    · rw [storeUpdate_of_room (s := w) hregion hfree hown hroom] at hexec
      refine completes_of_next hexec ?_
      rw [judgeSync_dram, judgeSync_spks]
      exact ⟨congrArg Spk.shadow (updAt_get_same ..), rfl⟩
  case reject =>
    intro u now hpair hquiet harrived
    refine ⟨fun hentry => ?_, fun k pl e hentry hwaits => ?_, fun k pl e hentry hfree hroom htxns => ?_⟩
    · refine completes_of_next (exec_sfReject_none hpair hquiet hinj harrived hentry) ?_
      rw [rejected_frame]
      exact ⟨rfl, rfl, rfl⟩
    · exact exec_sfReject_waits hpair hquiet hentry hwaits
    · have hexec := exec_sfReject_evicts hpair hquiet hinj harrived hentry hfree hroom htxns
      rw [rejected_frame] at hexec
      have hsettled := settle_evictEntry (pl := pl) (e := e) (s := { s with
        til := (rejected u now s).til, pair := { s.pair with countReject := satAdd 48 s.pair.countReject 1 } }) htxns
      refine completes_of_next hexec ⟨?_, hsettled.sf.trans evicting_home.1, ?_⟩
      · rw [hsettled.pair, evicting_pair]
      · rw [hsettled.dram, evicting_dram]
  case heartbeat =>
    intro role synced epoch oldest now hordered harrived u
    exact ⟨exec_heartbeat_kept hinj harrived, completes_heartbeat hinj harrived (tablesOrdered_regs hordered)⟩
  case timeRsp =>
    intro t2 t3 now th hrole hreplay harrived hth u
    have hexec := exec_timeRsp hinj hrole hreplay harrived hth
    refine ⟨fun hfast => ?_, fun hslow => ?_, fun hlow hhigh => ?_⟩
    · exact hexec.trans (congrArg _ (if_pos hfast))
    · exact hexec.trans (congrArg _ ((if_neg (by omega)).trans (if_pos hslow)))
    · exact hexec.trans (congrArg _ ((if_neg (by omega)).trans (if_neg (by omega))))

end Sys2Proof.Machine
